-- ==== Sys2Proof/Word.lean ====
section
/-! DEFINITION. Sys2Proof/Word.lean: the word types of the Feling S4, the token (R148), the four operand queues and
the decoded target of an instruction (R11, R35). -/

namespace Sys2Proof

/-- A 32-bit value: a token's value, a register, an instruction word, a CSR. -/
abbrev Word := BitVec 32
/-- A 64-bit value: a virtual address or a window bound. -/
abbrev DWord := BitVec 64
/-- A byte of memory. -/
abbrev Byte := BitVec 8
/-- A 64-bit tag (R149). -/
abbrev Tag := BitVec 64

/-- A token's value and flags (R148): flag [15] null, [14] poison, [13] end-of-fibre, [12] scale, [11] coordinate and
the poison-origin index [10:0]. -/
structure Token where
  val : Word := 0
  null : Bool := false
  pois : Bool := false
  eof : Bool := false
  scale : Bool := false
  coord : Bool := false
  origin : BitVec 11 := 0
  deriving DecidableEq, Repr

/-- The four operand queues of a tile (R13). -/
inductive Pos where
  | l | r | p | c
  deriving DecidableEq, Repr

/-- A decoded target field (R35): no target, a queue of a slot, a register write or an edge port. -/
inductive Target where
  | none
  | queue (q : Pos) (slot : BitVec 6)
  | reg (g : BitVec 6)
  | port (e : BitVec 6)
  deriving DecidableEq, Repr

end Sys2Proof
end

