-- ==== Sys2Proof/Config.lean ====
section
/-! DEFINITION. Sys2Proof/Config.lean: what the spec leaves open and the model leaves free: constants without a body, of which
nothing can be proved but that they have a value (log 9). -/

namespace Sys2Proof.Config

/-- The nth value of a byte whose contents the spec does not give. -/
opaque freeByte : Nat → Byte

/-- The column and row of a physical cluster on the die's grid of clusters (R203), which the spec does not lay out. -/
opaque clusterAt : Nat → Nat × Nat

/-- How many fclk after its commit the nth store performs, where no rule orders it (R222, R226). -/
opaque storeDelay : Nat → Nat

/-- Does Pelorus pre-place a recursive function's next instance at an fclk (R196)? It may. -/
opaque prePlaces : Nat → Bool

/-- Which of the translations that R211 allows an access uses, by the fclk, the count of free values and the VA. -/
opaque oldWalk : Nat → Nat → Nat → Nat

/-- What the engine reads in 16 bytes of an object's memory that it has not written itself (R240), as a number. -/
opaque objImage : Nat → Nat

/-- The nth free number. -/
opaque freeNat : Nat → Nat

/-- The 256 bits that the random source gave the key slot with a number (R373). -/
opaque keyBits : Nat → BitVec 256

/-- The SEC-DED check byte of a MAC (R375), whose code the spec does not give. -/
opaque secded : Nat → Byte

/-- The measurement of a boot step (R421). -/
opaque measurement : Nat → Nat

/-- The signature of a report under the identity key (R421). -/
opaque signature : List Nat → Nat

end Sys2Proof.Config
end

