-- ==== Sys2Proof/Machine/CsrMap.lean ====
section
/-! DEFINITION. Sys2Proof/Machine/CsrMap.lean: the CSR map (R347) and the maps of every chapter that names a CSR: number,
scope and the fields with their access codes and reset values (R7); a bit outside every field is reserved (R8). -/

namespace Sys2Proof.Machine

/-- The access codes of R7. -/
inductive Access where
  | ro | rw | wo | w1c | rc
  deriving DecidableEq, Repr

/-- Whose copy of a CSR an access reaches (R347): the instance's, the strand's own copy of a page CSR, the page's
conversion islands', or the partition's. -/
inductive CsrScope where
  | inst | page | cnv | part
  deriving DecidableEq, Repr

/-- One field of a register map. -/
structure CsrField where
  hi : Nat
  lo : Nat
  acc : Access
  reset : Nat
  deriving DecidableEq, Repr

/-- One register of the CSR map. -/
structure CsrDef where
  num : Nat
  scope : CsrScope
  fields : List CsrField
  deriving DecidableEq, Repr

/-- CSRs INSTID to SWAPSZ. -/
def csrMap0 : List CsrDef := [
  ⟨0x000, .inst, [⟨15, 0, .ro, 0⟩, ⟨18, 16, .ro, 0⟩, ⟨22, 19, .ro, 0⟩]⟩,
  ⟨0x001, .inst, [⟨31, 0, .ro, 0⟩]⟩,
  ⟨0x040, .page, [⟨15, 0, .rw, 0⟩]⟩,
  ⟨0x041, .page, [⟨15, 0, .rw, 0⟩]⟩,
  ⟨0x042, .page, [⟨31, 0, .rw, 0⟩]⟩,
  ⟨0x043, .page, [⟨31, 0, .rw, 0⟩]⟩,
  ⟨0x044, .page, [⟨7, 0, .rw, 0⟩]⟩,
  ⟨0x045, .page, [⟨31, 0, .rw, 0⟩]⟩,
  ⟨0x048, .cnv, [⟨1, 0, .rw, 0⟩, ⟨6, 2, .rw, 0⟩, ⟨9, 7, .rw, 0⟩, ⟨10, 10, .wo, 0⟩, ⟨11, 11, .ro, 0⟩, ⟨12, 12, .ro, 0⟩, ⟨17, 16, .rw, 0⟩, ⟨22, 18, .rw, 0⟩, ⟨25, 23, .rw, 0⟩, ⟨26, 26, .wo, 0⟩, ⟨27, 27, .ro, 0⟩, ⟨28, 28, .ro, 0⟩]⟩,
  ⟨0x049, .cnv, [⟨31, 0, .rw, 0⟩]⟩,
  ⟨0x04A, .cnv, [⟨31, 0, .rw, 0⟩]⟩,
  ⟨0x04B, .cnv, [⟨31, 0, .rw, 0⟩]⟩,
  ⟨0x04C, .cnv, [⟨31, 0, .rw, 0⟩]⟩,
  ⟨0x04D, .cnv, [⟨31, 0, .rw, 0⟩]⟩,
  ⟨0x04E, .cnv, [⟨31, 0, .rw, 0⟩]⟩,
  ⟨0x050, .page, [⟨1, 0, .rw, 0⟩, ⟨4, 2, .rw, 0⟩]⟩,
  ⟨0x080, .part, [⟨2, 0, .rw, 2⟩]⟩,
  ⟨0x081, .part, [⟨31, 0, .rw, 0⟩]⟩,
  ⟨0x082, .part, [⟨31, 0, .rw, 0⟩]⟩,
  ⟨0x083, .part, [⟨23, 0, .rw, 0⟩]⟩]

/-- CSRs SWAPUSE to TLBICTL. -/
def csrMap1 : List CsrDef := [
  ⟨0x084, .part, [⟨23, 0, .ro, 0⟩]⟩,
  ⟨0x090, .part, [⟨31, 0, .rw, 0⟩]⟩,
  ⟨0x091, .part, [⟨31, 0, .rw, 0⟩]⟩,
  ⟨0x092, .part, [⟨2, 0, .rw, 0⟩, ⟨27, 16, .rw, 0⟩]⟩,
  ⟨0x093, .part, [⟨11, 0, .ro, 0⟩, ⟨27, 12, .rc, 0⟩]⟩,
  ⟨0x094, .part, [⟨31, 0, .rw, 0⟩]⟩,
  ⟨0x095, .part, [⟨31, 0, .rw, 0⟩]⟩,
  ⟨0x096, .part, [⟨31, 0, .rw, 0⟩]⟩,
  ⟨0x097, .part, [⟨31, 0, .rw, 0⟩]⟩,
  ⟨0x098, .part, [⟨0, 0, .wo, 0⟩, ⟨26, 16, .ro, 0⟩]⟩,
  ⟨0x099, .part, [⟨10, 0, .ro, 0⟩, ⟨31, 31, .w1c, 0⟩]⟩,
  ⟨0x09A, .part, [⟨31, 0, .ro, 0⟩]⟩,
  ⟨0x09B, .part, [⟨31, 0, .ro, 0⟩]⟩,
  ⟨0x09C, .part, [⟨31, 0, .rc, 0⟩]⟩,
  ⟨0x09D, .part, [⟨31, 0, .rw, 0⟩]⟩,
  ⟨0x09E, .part, [⟨31, 0, .rw, 0⟩]⟩,
  ⟨0x09F, .part, [⟨15, 0, .rw, 256⟩]⟩,
  ⟨0x0A0, .part, [⟨31, 0, .rw, 0⟩]⟩,
  ⟨0x0A1, .part, [⟨15, 0, .rw, 0⟩]⟩,
  ⟨0x0A2, .part, [⟨0, 0, .wo, 0⟩, ⟨1, 1, .rw, 0⟩, ⟨31, 31, .ro, 0⟩]⟩]

/-- CSRs DEFABL to WFTSTAT. -/
def csrMap2 : List CsrDef := [
  ⟨0x0A8, .part, [⟨31, 0, .rw, 0⟩]⟩,
  ⟨0x0A9, .part, [⟨31, 0, .rw, 0⟩]⟩,
  ⟨0x0AA, .part, [⟨15, 0, .rw, 64⟩]⟩,
  ⟨0x0B0, .part, [⟨31, 0, .rw, 0⟩]⟩,
  ⟨0x0B1, .part, [⟨4, 0, .rw, 16⟩, ⟨31, 16, .rw, 1024⟩]⟩,
  ⟨0x0B2, .part, [⟨31, 0, .rw, 0⟩]⟩,
  ⟨0x0B3, .part, [⟨31, 0, .rw, 0⟩]⟩,
  ⟨0x0B4, .part, [⟨23, 0, .rw, 0⟩]⟩,
  ⟨0x0B5, .part, [⟨23, 0, .ro, 0⟩]⟩,
  ⟨0x0B6, .part, [⟨7, 0, .rc, 0⟩, ⟨15, 8, .rc, 0⟩, ⟨23, 16, .rc, 0⟩, ⟨31, 24, .rc, 0⟩]⟩,
  ⟨0x0B8, .part, [⟨31, 0, .rw, 0⟩]⟩,
  ⟨0x0B9, .part, [⟨31, 0, .rw, 0⟩]⟩,
  ⟨0x0BA, .part, [⟨0, 0, .wo, 0⟩, ⟨10, 1, .rw, 0⟩, ⟨20, 11, .ro, 0⟩, ⟨31, 31, .ro, 0⟩]⟩,
  ⟨0x0C0, .part, [⟨31, 0, .rw, 0⟩]⟩,
  ⟨0x0C1, .part, [⟨31, 0, .rw, 0⟩]⟩,
  ⟨0x0C2, .part, [⟨15, 0, .rw, 0⟩, ⟨31, 16, .ro, 0⟩]⟩,
  ⟨0x0C4, .part, [⟨31, 0, .rw, 0⟩]⟩,
  ⟨0x0C5, .part, [⟨31, 0, .rw, 0⟩]⟩,
  ⟨0x0C6, .part, [⟨15, 0, .rw, 256⟩]⟩,
  ⟨0x0C7, .part, [⟨15, 0, .rc, 0⟩, ⟨31, 16, .ro, 0⟩]⟩]

/-- CSRs PRIO to NIACC3. -/
def csrMap3 : List CsrDef := [
  ⟨0x0C8, .inst, [⟨3, 0, .ro, 0⟩, ⟨7, 4, .ro, 0⟩]⟩,
  ⟨0x0D0, .part, [⟨15, 0, .rc, 0⟩, ⟨31, 16, .rc, 0⟩]⟩,
  ⟨0x0E0, .part, [⟨31, 0, .rw, 0⟩]⟩,
  ⟨0x0E1, .part, [⟨31, 0, .rw, 0⟩]⟩,
  ⟨0x0E2, .part, [⟨10, 0, .rw, 0⟩]⟩,
  ⟨0x0F0, .part, [⟨19, 0, .rw, 0⟩, ⟨25, 20, .rw, 0⟩, ⟨31, 31, .rw, 0⟩]⟩,
  ⟨0x0F1, .part, [⟨19, 0, .rw, 0⟩, ⟨25, 20, .rw, 0⟩, ⟨31, 31, .rw, 0⟩]⟩,
  ⟨0x0F2, .part, [⟨19, 0, .rw, 0⟩, ⟨25, 20, .rw, 0⟩, ⟨31, 31, .rw, 0⟩]⟩,
  ⟨0x0F3, .part, [⟨19, 0, .rw, 0⟩, ⟨25, 20, .rw, 0⟩, ⟨31, 31, .rw, 0⟩]⟩,
  ⟨0x0F4, .part, [⟨19, 0, .rw, 0⟩, ⟨25, 20, .rw, 0⟩, ⟨31, 31, .rw, 0⟩]⟩,
  ⟨0x0F5, .part, [⟨19, 0, .rw, 0⟩, ⟨25, 20, .rw, 0⟩, ⟨31, 31, .rw, 0⟩]⟩,
  ⟨0x0F6, .part, [⟨19, 0, .rw, 0⟩, ⟨25, 20, .rw, 0⟩, ⟨31, 31, .rw, 0⟩]⟩,
  ⟨0x0F7, .part, [⟨19, 0, .rw, 0⟩, ⟨25, 20, .rw, 0⟩, ⟨31, 31, .rw, 0⟩]⟩,
  ⟨0x0F8, .part, [⟨31, 0, .rw, 0⟩]⟩,
  ⟨0x0F9, .part, [⟨31, 0, .rw, 0⟩]⟩,
  ⟨0x0FA, .part, [⟨23, 0, .rw, 0⟩]⟩,
  ⟨0x0FB, .part, [⟨19, 0, .rw, 0⟩, ⟨25, 20, .rw, 0⟩, ⟨30, 30, .rw, 0⟩, ⟨31, 31, .rw, 0⟩]⟩,
  ⟨0x0FC, .part, [⟨19, 0, .rw, 0⟩, ⟨25, 20, .rw, 0⟩, ⟨30, 30, .rw, 0⟩, ⟨31, 31, .rw, 0⟩]⟩,
  ⟨0x0FD, .part, [⟨19, 0, .rw, 0⟩, ⟨25, 20, .rw, 0⟩, ⟨30, 30, .rw, 0⟩, ⟨31, 31, .rw, 0⟩]⟩,
  ⟨0x0FE, .part, [⟨19, 0, .rw, 0⟩, ⟨25, 20, .rw, 0⟩, ⟨30, 30, .rw, 0⟩, ⟨31, 31, .rw, 0⟩]⟩]

/-- CSRs NISTAT to CORRCNT. -/
def csrMap4 : List CsrDef := [
  ⟨0x0FF, .part, [⟨31, 0, .rc, 0⟩]⟩,
  ⟨0x100, .part, [⟨0, 0, .rw, 0⟩, ⟨1, 1, .rw, 0⟩, ⟨2, 2, .rw, 0⟩, ⟨3, 3, .rw, 0⟩, ⟨15, 8, .rw, 0⟩, ⟨16, 16, .wo, 0⟩]⟩,
  ⟨0x101, .part, [⟨1, 0, .ro, 0⟩, ⟨5, 2, .ro, 0⟩, ⟨7, 6, .ro, 0⟩, ⟨15, 8, .ro, 0⟩, ⟨31, 16, .ro, 0⟩]⟩,
  ⟨0x102, .part, [⟨31, 0, .ro, 0⟩]⟩,
  ⟨0x103, .part, [⟨31, 0, .ro, 0⟩]⟩,
  ⟨0x104, .part, [⟨0, 0, .wo, 0⟩]⟩,
  ⟨0x110, .part, [⟨31, 0, .rw, 0⟩]⟩,
  ⟨0x111, .part, [⟨15, 0, .rw, 0⟩]⟩,
  ⟨0x112, .part, [⟨0, 0, .rw, 0⟩, ⟨1, 1, .rw, 0⟩, ⟨2, 2, .rw, 0⟩, ⟨3, 3, .rw, 0⟩, ⟨4, 4, .rw, 0⟩, ⟨15, 5, .rw, 0⟩]⟩,
  ⟨0x114, .part, [⟨31, 0, .rw, 0⟩]⟩,
  ⟨0x115, .part, [⟨15, 0, .rw, 0⟩]⟩,
  ⟨0x116, .part, [⟨0, 0, .rw, 0⟩, ⟨1, 1, .rw, 0⟩, ⟨2, 2, .rw, 0⟩, ⟨3, 3, .rw, 0⟩, ⟨4, 4, .rw, 0⟩, ⟨15, 5, .rw, 0⟩]⟩,
  ⟨0x118, .part, [⟨31, 0, .rw, 0⟩]⟩,
  ⟨0x119, .part, [⟨15, 0, .rw, 0⟩]⟩,
  ⟨0x11A, .part, [⟨0, 0, .rw, 0⟩, ⟨1, 1, .rw, 0⟩, ⟨2, 2, .rw, 0⟩, ⟨3, 3, .rw, 0⟩, ⟨4, 4, .rw, 0⟩, ⟨15, 5, .rw, 0⟩]⟩,
  ⟨0x11C, .part, [⟨31, 0, .rw, 0⟩]⟩,
  ⟨0x11D, .part, [⟨15, 0, .rw, 0⟩]⟩,
  ⟨0x11E, .part, [⟨0, 0, .rw, 0⟩, ⟨1, 1, .rw, 0⟩, ⟨2, 2, .rw, 0⟩, ⟨3, 3, .rw, 0⟩, ⟨4, 4, .rw, 0⟩, ⟨15, 5, .rw, 0⟩]⟩,
  ⟨0x120, .part, [⟨31, 0, .rc, 0⟩]⟩,
  ⟨0x121, .part, [⟨31, 0, .rc, 0⟩]⟩]

/-- CSRs ABNDLK to DBGD2. -/
def csrMap5 : List CsrDef := [
  ⟨0x122, .part, [⟨31, 0, .rc, 0⟩]⟩,
  ⟨0x123, .part, [⟨31, 0, .rc, 0⟩]⟩,
  ⟨0x124, .part, [⟨31, 0, .rc, 0⟩]⟩,
  ⟨0x128, .part, [⟨31, 0, .rw, 0⟩]⟩,
  ⟨0x129, .part, [⟨31, 0, .rw, 0⟩]⟩,
  ⟨0x12A, .part, [⟨0, 0, .wo, 0⟩, ⟨1, 1, .rw, 0⟩, ⟨31, 31, .ro, 0⟩]⟩,
  ⟨0x130, .part, [⟨31, 0, .rw, 0⟩]⟩,
  ⟨0x131, .part, [⟨31, 0, .rw, 0⟩]⟩,
  ⟨0x132, .part, [⟨15, 0, .rw, 0⟩]⟩,
  ⟨0x133, .part, [⟨15, 0, .rw, 0⟩]⟩,
  ⟨0x134, .part, [⟨15, 0, .ro, 0⟩]⟩,
  ⟨0x135, .part, [⟨31, 0, .rc, 0⟩]⟩,
  ⟨0x140, .part, [⟨31, 0, .rw, 0⟩]⟩,
  ⟨0x141, .part, [⟨31, 0, .rw, 0⟩]⟩,
  ⟨0x142, .part, [⟨23, 0, .rw, 0⟩]⟩,
  ⟨0x143, .part, [⟨0, 0, .wo, 0⟩, ⟨3, 1, .ro, 0⟩, ⟨31, 31, .ro, 0⟩]⟩,
  ⟨0x150, .part, [⟨31, 0, .rw, 0⟩]⟩,
  ⟨0x151, .part, [⟨31, 0, .ro, 0⟩]⟩,
  ⟨0x152, .part, [⟨31, 0, .ro, 0⟩]⟩,
  ⟨0x153, .part, [⟨31, 0, .ro, 0⟩]⟩]

/-- CSRs DBGD3 to DBGD3. -/
def csrMap6 : List CsrDef := [
  ⟨0x154, .part, [⟨31, 0, .ro, 0⟩]⟩]

/-- The whole CSR map. A reset value that the map gives in words (assigned, the descriptor hint, the lowest engine
owned, the share that management sets) stands as 0 here and is set where its event happens. -/
def csrMap : List CsrDef := csrMap0 ++ csrMap1 ++ csrMap2 ++ csrMap3 ++ csrMap4 ++ csrMap5 ++ csrMap6

/-- The map's row for a CSR number; a number without one is not assigned (R44, R347). -/
def csrDef? (n : Nat) : Option CsrDef := csrMap.find? (fun d => d.num == n)

/-- Is the CSR number assigned? -/
def csrAssigned (n : Nat) : Bool := (csrDef? n).isSome

/-- The FCVT and FCVTS codes of R76: 0 to 26. -/
def fcvtCodeOk (code : BitVec 5) : Bool := decide (code.toNat ≤ 26)

/-- The QNT target codes (R122): the formats INT8 to BF16 and INT16. -/
def qntTargetOk (code : BitVec 5) : Bool := decide (1 ≤ code.toNat ∧ code.toNat ≤ 10) || decide (code.toNat = 14)

/-- The island configuration registers MMCFG names (R264): 0 to 2. -/
def mmcfgRegOk (r : BitVec 2) : Bool := decide (r.toNat ≤ 2)

/-- The fence scopes (R146): 0 to 5. -/
def fenceScopeOk (sc : BitVec 3) : Bool := decide (sc.toNat ≤ 5)

/-- EXTR and INS (R44): lsb + length is at most 32, the field holding length - 1. -/
def fieldRangeOk (len lsb : BitVec 5) : Bool := decide (lsb.toNat + len.toNat + 1 ≤ 32)

/-- The edge ports a target may name (R40): e0 to e47. -/
def portOk (e : BitVec 6) : Bool := decide (e.toNat < 48)

/-- A target that names no edge port above e47 (R40, reason 0x09). -/
def targetOk : Target → Bool
  | .port e => portOk e
  | _ => true

end Sys2Proof.Machine
end

