-- ==== Sys2Proof/Machine/Bits.lean ====
section
/-! DEFINITION. Sys2Proof/Machine/Bits.lean: bit fields of numbers, sign extension, little-endian bytes (R3, R4) and
bitwise helpers. -/

namespace Sys2Proof.Machine

/-- Bits [hi:lo] of a number (R3). -/
def bits (n hi lo : Nat) : Nat := (n >>> lo) % 2 ^ (hi + 1 - lo)

/-- Bit i of a number. -/
def bitAt (n i : Nat) : Bool := (n >>> i) % 2 == 1

/-- n with bits [hi:lo] replaced by v. -/
def setBits (n hi lo v : Nat) : Nat :=
  n - (bits n hi lo) * 2 ^ lo + (v % 2 ^ (hi + 1 - lo)) * 2 ^ lo

/-- The two's-complement reading of the low k bits of n. -/
def sxt (k n : Nat) : Int :=
  let m := n % 2 ^ k
  if m < 2 ^ (k - 1) then (m : Int) else (m : Int) - (2 ^ k : Nat)

/-- An integer modulo 2^k. -/
def wrap (k : Nat) (x : Int) : Nat := (x % ((2 ^ k : Nat) : Int)).toNat

/-- An integer as a 32-bit word. -/
def wordOfInt (x : Int) : Word := BitVec.ofInt 32 x

/-- A number as a 32-bit word, modulo 2^32. -/
def word (n : Nat) : Word := BitVec.ofNat 32 n

/-- The 0 or 1 of a test (R90). -/
def boolW (b : Bool) : Word := if b then 1 else 0

/-- A Bool as a number. -/
def b2n (b : Bool) : Nat := if b then 1 else 0

/-- The k little-endian bytes of a number (R4). -/
def leBytes : Nat → Nat → List Byte
  | 0, _ => []
  | k + 1, n => BitVec.ofNat 8 n :: leBytes k (n / 256)

/-- The number that little-endian bytes hold (R4). -/
def ofLE : List Byte → Nat
  | [] => 0
  | b :: bs => b.toNat + 256 * ofLE bs

/-- The number of leading zero bits of the low k bits of n. -/
def clz : Nat → Nat → Nat
  | 0, _ => 0
  | k + 1, n => if bitAt n k then 0 else 1 + clz k n

/-- The number of trailing zero bits among k bits of n. -/
def ctz : Nat → Nat → Nat
  | 0, _ => 0
  | k + 1, n => if n % 2 = 1 then 0 else 1 + ctz k (n / 2)

/-- The number of one bits among the low k bits of n. -/
def popc : Nat → Nat → Nat
  | 0, _ => 0
  | k + 1, n => n % 2 + popc k (n / 2)

/-- The low k bits of n in reverse order. -/
def brev : Nat → Nat → Nat
  | 0, _ => 0
  | k + 1, n => (n % 2) * 2 ^ k + brev k (n / 2)

/-- The number of bits of n: 0 for 0, otherwise one more than the floor of its base-2 logarithm. -/
def bitLen (n : Nat) : Nat := if n = 0 then 0 else Nat.log2 n + 1

/-- The integer square root, bit by bit from bit k down: r is what higher bits have given. -/
def isqrtFrom : Nat → Nat → Nat → Nat
  | 0, n, r => if (r + 1) * (r + 1) ≤ n then r + 1 else r
  | k + 1, n, r =>
    let t := r + 2 ^ (k + 1)
    if t * t ≤ n then isqrtFrom k n t else isqrtFrom k n r

/-- The integer square root of n, for n below 2^256. -/
def isqrt (n : Nat) : Nat := isqrtFrom 128 n 0

/-- The exclusive-or of the sixteen 4-bit nibbles of a tag (R151). -/
def xorNibbles : Nat → Nat → Nat
  | 0, _ => 0
  | k + 1, n => Nat.xor (n % 16) (xorNibbles k (n / 16))

/-- The ceiling of a / b. -/
def cdiv (a b : Nat) : Nat := (a + b - 1) / b

/-- The distance of two numbers. -/
def dist (a b : Nat) : Nat := if a ≤ b then b - a else a - b

end Sys2Proof.Machine
end

