-- ==== Sys2Proof/Syntax.lean ====
section
/-! DEFINITION. Sys2Proof/Syntax.lean: the ONE inductive of instructions, a constructor for every row of the opcode
table: first the 215 encoded instructions (R32 to R41), whose arguments are the fields of their words, then the 138 steps of
the device that have no encoding (95_what_each_step_holds.md), which act on what `State.arg` names. -/


namespace Sys2Proof

inductive Instr where
  | read (g : BitVec 6) (t1 : Target) (t0 : Target)
  | mov (pr : BitVec 2) (t1 : Target) (t0 : Target)
  | null (pr : BitVec 2) (t1 : Target) (t0 : Target)
  | bfly (pr : BitVec 2) (t1 : Target) (t0 : Target)
  | fbfly (pr : BitVec 2) (t1 : Target) (t0 : Target)
  | genc (imm : BitVec 16) (t0 : Target)
  | gens (imm : BitVec 16) (t0 : Target)
  | genh (imm : BitVec 16) (t0 : Target)
  | steer (pr : BitVec 2) (t1 : Target) (t0 : Target)
  | steerf (pr : BitVec 2) (t1 : Target) (t0 : Target)
  | merge (pr : BitVec 2) (t1 : Target) (t0 : Target)
  | sel (pr : BitVec 2) (t1 : Target) (t0 : Target)
  | loop (pr : BitVec 2) (off : BitVec 20)
  | br (pr : BitVec 2) (exit : BitVec 3) (off : BitVec 20)
  | brr (pr : BitVec 2) (exit : BitVec 3)
  | call (pr : BitVec 2) (fn : BitVec 5) (t1 : Target) (t0 : Target)
  | callr (pr : BitVec 2) (t1 : Target) (t0 : Target)
  | ret (pr : BitVec 2)
  | add (pr : BitVec 2) (t1 : Target) (t0 : Target)
  | sub (pr : BitVec 2) (t1 : Target) (t0 : Target)
  | and (pr : BitVec 2) (t1 : Target) (t0 : Target)
  | or (pr : BitVec 2) (t1 : Target) (t0 : Target)
  | xor (pr : BitVec 2) (t1 : Target) (t0 : Target)
  | andn (pr : BitVec 2) (t1 : Target) (t0 : Target)
  | orn (pr : BitVec 2) (t1 : Target) (t0 : Target)
  | xnor (pr : BitVec 2) (t1 : Target) (t0 : Target)
  | shl (pr : BitVec 2) (t1 : Target) (t0 : Target)
  | shr (pr : BitVec 2) (t1 : Target) (t0 : Target)
  | sar (pr : BitVec 2) (t1 : Target) (t0 : Target)
  | rol (pr : BitVec 2) (t1 : Target) (t0 : Target)
  | ror (pr : BitVec 2) (t1 : Target) (t0 : Target)
  | min (pr : BitVec 2) (t1 : Target) (t0 : Target)
  | max (pr : BitVec 2) (t1 : Target) (t0 : Target)
  | minu (pr : BitVec 2) (t1 : Target) (t0 : Target)
  | maxu (pr : BitVec 2) (t1 : Target) (t0 : Target)
  | addc (pr : BitVec 2) (t1 : Target) (t0 : Target)
  | subb (pr : BitVec 2) (t1 : Target) (t0 : Target)
  | absd (pr : BitVec 2) (t1 : Target) (t0 : Target)
  | mul (pr : BitVec 2) (t1 : Target) (t0 : Target)
  | mulh (pr : BitVec 2) (t1 : Target) (t0 : Target)
  | mulhu (pr : BitVec 2) (t1 : Target) (t0 : Target)
  | mulhsu (pr : BitVec 2) (t1 : Target) (t0 : Target)
  | madd (pr : BitVec 2) (t1 : Target) (t0 : Target)
  | msub (pr : BitVec 2) (t1 : Target) (t0 : Target)
  | div (pr : BitVec 2) (t1 : Target) (t0 : Target)
  | divu (pr : BitVec 2) (t1 : Target) (t0 : Target)
  | rem (pr : BitVec 2) (t1 : Target) (t0 : Target)
  | remu (pr : BitVec 2) (t1 : Target) (t0 : Target)
  | neg (pr : BitVec 2) (t1 : Target) (t0 : Target)
  | not (pr : BitVec 2) (t1 : Target) (t0 : Target)
  | abs (pr : BitVec 2) (t1 : Target) (t0 : Target)
  | clz (pr : BitVec 2) (t1 : Target) (t0 : Target)
  | ctz (pr : BitVec 2) (t1 : Target) (t0 : Target)
  | popc (pr : BitVec 2) (t1 : Target) (t0 : Target)
  | brev (pr : BitVec 2) (t1 : Target) (t0 : Target)
  | bswap (pr : BitVec 2) (t1 : Target) (t0 : Target)
  | sextb (pr : BitVec 2) (t1 : Target) (t0 : Target)
  | sexth (pr : BitVec 2) (t1 : Target) (t0 : Target)
  | zextb (pr : BitVec 2) (t1 : Target) (t0 : Target)
  | zexth (pr : BitVec 2) (t1 : Target) (t0 : Target)
  | extr (pr : BitVec 2) (sgn : BitVec 1) (len : BitVec 5) (lsb : BitVec 5) (t0 : Target)
  | ins (pr : BitVec 2) (sgn : BitVec 1) (len : BitVec 5) (lsb : BitVec 5) (t0 : Target)
  | addi (pr : BitVec 2) (imm : BitVec 14) (t0 : Target)
  | andi (pr : BitVec 2) (imm : BitVec 14) (t0 : Target)
  | ori (pr : BitVec 2) (imm : BitVec 14) (t0 : Target)
  | xori (pr : BitVec 2) (imm : BitVec 14) (t0 : Target)
  | shli (pr : BitVec 2) (sh : BitVec 5) (t0 : Target)
  | shri (pr : BitVec 2) (sh : BitVec 5) (t0 : Target)
  | sari (pr : BitVec 2) (sh : BitVec 5) (t0 : Target)
  | muli (pr : BitVec 2) (imm : BitVec 14) (t0 : Target)
  | teq (pr : BitVec 2) (t1 : Target) (t0 : Target)
  | tne (pr : BitVec 2) (t1 : Target) (t0 : Target)
  | tlt (pr : BitVec 2) (t1 : Target) (t0 : Target)
  | tle (pr : BitVec 2) (t1 : Target) (t0 : Target)
  | tltu (pr : BitVec 2) (t1 : Target) (t0 : Target)
  | tleu (pr : BitVec 2) (t1 : Target) (t0 : Target)
  | tgt (pr : BitVec 2) (t1 : Target) (t0 : Target)
  | tge (pr : BitVec 2) (t1 : Target) (t0 : Target)
  | tgtu (pr : BitVec 2) (t1 : Target) (t0 : Target)
  | tgeu (pr : BitVec 2) (t1 : Target) (t0 : Target)
  | tbit (pr : BitVec 2) (t1 : Target) (t0 : Target)
  | teqi (pr : BitVec 2) (imm : BitVec 14) (t0 : Target)
  | tnei (pr : BitVec 2) (imm : BitVec 14) (t0 : Target)
  | tlti (pr : BitVec 2) (imm : BitVec 14) (t0 : Target)
  | tgei (pr : BitVec 2) (imm : BitVec 14) (t0 : Target)
  | tltui (pr : BitVec 2) (imm : BitVec 14) (t0 : Target)
  | tgeui (pr : BitVec 2) (imm : BitVec 14) (t0 : Target)
  | fadd (pr : BitVec 2) (t1 : Target) (t0 : Target)
  | fsub (pr : BitVec 2) (t1 : Target) (t0 : Target)
  | fmul (pr : BitVec 2) (t1 : Target) (t0 : Target)
  | fmin (pr : BitVec 2) (t1 : Target) (t0 : Target)
  | fmax (pr : BitVec 2) (t1 : Target) (t0 : Target)
  | fabs (pr : BitVec 2) (t1 : Target) (t0 : Target)
  | fneg (pr : BitVec 2) (t1 : Target) (t0 : Target)
  | fcopys (pr : BitVec 2) (t1 : Target) (t0 : Target)
  | fma (pr : BitVec 2) (t1 : Target) (t0 : Target)
  | fms (pr : BitVec 2) (t1 : Target) (t0 : Target)
  | fnma (pr : BitVec 2) (t1 : Target) (t0 : Target)
  | fnms (pr : BitVec 2) (t1 : Target) (t0 : Target)
  | fdiv (pr : BitVec 2) (t1 : Target) (t0 : Target)
  | fsqrt (pr : BitVec 2) (t1 : Target) (t0 : Target)
  | frcpe (pr : BitVec 2) (t1 : Target) (t0 : Target)
  | frsqe (pr : BitVec 2) (t1 : Target) (t0 : Target)
  | fteq (pr : BitVec 2) (t1 : Target) (t0 : Target)
  | ftlt (pr : BitVec 2) (t1 : Target) (t0 : Target)
  | ftle (pr : BitVec 2) (t1 : Target) (t0 : Target)
  | ftun (pr : BitVec 2) (t1 : Target) (t0 : Target)
  | fclass (pr : BitVec 2) (t1 : Target) (t0 : Target)
  | fcvt (pr : BitVec 2) (code : BitVec 5) (t1 : Target) (t0 : Target)
  | fcvts (pr : BitVec 2) (code : BitVec 5) (t1 : Target) (t0 : Target)
  | paddH (pr : BitVec 2) (t1 : Target) (t0 : Target)
  | psubH (pr : BitVec 2) (t1 : Target) (t0 : Target)
  | paddB (pr : BitVec 2) (t1 : Target) (t0 : Target)
  | psubB (pr : BitVec 2) (t1 : Target) (t0 : Target)
  | pmaxH (pr : BitVec 2) (t1 : Target) (t0 : Target)
  | pminH (pr : BitVec 2) (t1 : Target) (t0 : Target)
  | pdot4 (pr : BitVec 2) (t1 : Target) (t0 : Target)
  | pdot4u (pr : BitVec 2) (t1 : Target) (t0 : Target)
  | pdot2H (pr : BitVec 2) (t1 : Target) (t0 : Target)
  | packH (pr : BitVec 2) (t1 : Target) (t0 : Target)
  | packB (pr : BitVec 2) (t1 : Target) (t0 : Target)
  | tunpk (pr : BitVec 2) (t1 : Target) (t0 : Target)
  | tdot4 (pr : BitVec 2) (group : BitVec 2) (t1 : Target) (t0 : Target)
  | lcdec (pr : BitVec 2) (t1 : Target) (t0 : Target)
  | qnt (pr : BitVec 2) (code : BitVec 5) (t1 : Target) (t0 : Target)
  | ldw (pr : BitVec 2) (lsid : BitVec 5) (w : BitVec 3) (off : BitVec 6) (t0 : Target)
  | ldh (pr : BitVec 2) (lsid : BitVec 5) (w : BitVec 3) (off : BitVec 6) (t0 : Target)
  | ldhu (pr : BitVec 2) (lsid : BitVec 5) (w : BitVec 3) (off : BitVec 6) (t0 : Target)
  | ldb (pr : BitVec 2) (lsid : BitVec 5) (w : BitVec 3) (off : BitVec 6) (t0 : Target)
  | ldbu (pr : BitVec 2) (lsid : BitVec 5) (w : BitVec 3) (off : BitVec 6) (t0 : Target)
  | ldf (pr : BitVec 2) (lsid : BitVec 5) (w : BitVec 3) (off : BitVec 6) (t0 : Target)
  | ldx (pr : BitVec 2) (lsid : BitVec 5) (w : BitVec 3) (off : BitVec 6) (t0 : Target)
  | stw (pr : BitVec 2) (lsid : BitVec 5) (w : BitVec 3) (off : BitVec 6)
  | sth (pr : BitVec 2) (lsid : BitVec 5) (w : BitVec 3) (off : BitVec 6)
  | stb (pr : BitVec 2) (lsid : BitVec 5) (w : BitVec 3) (off : BitVec 6)
  | ste (pr : BitVec 2) (lsid : BitVec 5) (w : BitVec 3) (off : BitVec 6)
  | stf (pr : BitVec 2) (lsid : BitVec 5) (w : BitVec 3) (off : BitVec 6)
  | clre (pr : BitVec 2) (lsid : BitVec 5) (w : BitVec 3) (off : BitVec 6)
  | stm (pr : BitVec 2) (lsid : BitVec 5) (w : BitVec 3) (off : BitVec 6)
  | setwBase (pr : BitVec 2) (w : BitVec 3) (t1 : Target) (t0 : Target)
  | setwLim (pr : BitVec 2) (w : BitVec 3) (t1 : Target) (t0 : Target)
  | setwAttr (pr : BitVec 2) (w : BitVec 3) (t1 : Target) (t0 : Target)
  | fenceAcq (pr : BitVec 2) (scope : BitVec 3) (t1 : Target) (t0 : Target)
  | fenceRel (pr : BitVec 2) (scope : BitVec 3) (t1 : Target) (t0 : Target)
  | fenceAr (pr : BitVec 2) (scope : BitVec 3) (t1 : Target) (t0 : Target)
  | fenceSc (pr : BitVec 2) (scope : BitVec 3) (t1 : Target) (t0 : Target)
  | amoAdd (pr : BitVec 2) (t1 : Target) (t0 : Target)
  | amoAnd (pr : BitVec 2) (t1 : Target) (t0 : Target)
  | amoOr (pr : BitVec 2) (t1 : Target) (t0 : Target)
  | amoXor (pr : BitVec 2) (t1 : Target) (t0 : Target)
  | amoMin (pr : BitVec 2) (t1 : Target) (t0 : Target)
  | amoMax (pr : BitVec 2) (t1 : Target) (t0 : Target)
  | amoMinu (pr : BitVec 2) (t1 : Target) (t0 : Target)
  | amoMaxu (pr : BitVec 2) (t1 : Target) (t0 : Target)
  | amoSwap (pr : BitVec 2) (t1 : Target) (t0 : Target)
  | amoFadd (pr : BitVec 2) (t1 : Target) (t0 : Target)
  | amoCas (pr : BitVec 2) (t1 : Target) (t0 : Target)
  | lockAcq (pr : BitVec 2) (t1 : Target) (t0 : Target)
  | lockTry (pr : BitVec 2) (t1 : Target) (t0 : Target)
  | lockRel (pr : BitVec 2) (t1 : Target) (t0 : Target)
  | barArrive (pr : BitVec 2) (t1 : Target) (t0 : Target)
  | barWait (pr : BitVec 2) (t1 : Target) (t0 : Target)
  | barArrwait (pr : BitVec 2) (t1 : Target) (t0 : Target)
  | barInit (pr : BitVec 2) (t1 : Target) (t0 : Target)
  | qpush (pr : BitVec 2) (t1 : Target) (t0 : Target)
  | qpop (pr : BitVec 2) (t1 : Target) (t0 : Target)
  | qpopt (pr : BitVec 2) (t1 : Target) (t0 : Target)
  | qclose (pr : BitVec 2) (t1 : Target) (t0 : Target)
  | qinit (pr : BitVec 2) (t1 : Target) (t0 : Target)
  | wreg (pr : BitVec 2) (t1 : Target) (t0 : Target)
  | wown (pr : BitVec 2) (t1 : Target) (t0 : Target)
  | wrel (pr : BitVec 2) (t1 : Target) (t0 : Target)
  | wpri (pr : BitVec 2) (t1 : Target) (t0 : Target)
  | qbegin (pr : BitVec 2) (t1 : Target) (t0 : Target)
  | qend (pr : BitVec 2) (t1 : Target) (t0 : Target)
  | phase (pr : BitVec 2) (t1 : Target) (t0 : Target)
  | mmcfg (pr : BitVec 2) (reg : BitVec 2) (t1 : Target) (t0 : Target)
  | mmaOvw (pr : BitVec 2) (acc : BitVec 2) (t1 : Target) (t0 : Target)
  | mmaAcc (pr : BitVec 2) (acc : BitVec 2) (t1 : Target) (t0 : Target)
  | mmaGrp (pr : BitVec 2) (acc : BitVec 2) (t1 : Target) (t0 : Target)
  | mmrd (pr : BitVec 2) (acc : BitVec 2) (t1 : Target) (t0 : Target)
  | spmaOvw (pr : BitVec 2) (acc : BitVec 2) (t1 : Target) (t0 : Target)
  | spmaAcc (pr : BitVec 2) (acc : BitVec 2) (t1 : Target) (t0 : Target)
  | plctPrep (pr : BitVec 2) (t1 : Target) (t0 : Target)
  | plctInval (pr : BitVec 2) (t1 : Target) (t0 : Target)
  | plctQuery (pr : BitVec 2) (t1 : Target) (t0 : Target)
  | scatAdd (pr : BitVec 2) (t1 : Target) (t0 : Target)
  | scatFadd (pr : BitVec 2) (t1 : Target) (t0 : Target)
  | scatMax (pr : BitVec 2) (t1 : Target) (t0 : Target)
  | scatMin (pr : BitVec 2) (t1 : Target) (t0 : Target)
  | scatOr (pr : BitVec 2) (t1 : Target) (t0 : Target)
  | fibIsect (pr : BitVec 2) (t1 : Target) (t0 : Target)
  | fibUnion (pr : BitVec 2) (t1 : Target) (t0 : Target)
  | fibEoft (pr : BitVec 2) (t1 : Target) (t0 : Target)
  | fibMkeof (pr : BitVec 2) (t1 : Target) (t0 : Target)
  | fibMkcrd (pr : BitVec 2) (t1 : Target) (t0 : Target)
  | topk (pr : BitVec 2) (k : BitVec 5) (t1 : Target) (t0 : Target)
  | cpyLin (pr : BitVec 2) (t1 : Target) (t0 : Target)
  | cpy2d (pr : BitVec 2) (t1 : Target) (t0 : Target)
  | cpyGath (pr : BitVec 2) (t1 : Target) (t0 : Target)
  | cpyScat (pr : BitVec 2) (t1 : Target) (t0 : Target)
  | cpyFill (pr : BitVec 2) (t1 : Target) (t0 : Target)
  | wptr (pr : BitVec 2) (ch : BitVec 3) (t1 : Target) (t0 : Target)
  | wptrW (pr : BitVec 2) (ch : BitVec 3) (t1 : Target) (t0 : Target)
  | cnv (pr : BitVec 2) (path : BitVec 3) (t1 : Target) (t0 : Target)
  | trap (pr : BitVec 2) (n : BitVec 5)
  | rft (pr : BitVec 2)
  | csrr (pr : BitVec 2) (csr : BitVec 14) (t0 : Target)
  | csrw (pr : BitVec 2) (csr : BitVec 14) (t0 : Target)
  | tsc (pr : BitVec 2) (t1 : Target) (t0 : Target)
  | bkpt (pr : BitVec 2) (t1 : Target) (t0 : Target)
  | trace (pr : BitVec 2) (n : BitVec 5) (t1 : Target) (t0 : Target)
  | evt (pr : BitVec 2) (n : BitVec 5) (t1 : Target) (t0 : Target)
  | est (pr : BitVec 2) (t1 : Target) (t0 : Target)
  | sysc (pr : BitVec 2) (n : BitVec 5) (t1 : Target) (t0 : Target)
  | blockFetch
  | tokenArrival
  | spillReturn
  | readySetPromote
  | storeBufferPerform
  | loadReply
  | loadReplay
  | blockCommit
  | configDrain
  | loopIterationStart
  | iterationRetire
  | messageArrival
  | handlerActivationStart
  | rtagen
  | rtagpend
  | quiescenceWave
  | pelorusRound
  | requestPromote
  | calleeStart
  | callResult
  | teardown
  | prePlace
  | configPrefetch
  | contextFetch
  | fullEmptyAct
  | pageWalk
  | tlbInvalidate
  | tlbInvalidateDone
  | multicastCopy
  | channelWrite
  | pageReencrypt
  | guardLineRead
  | counterWriteback
  | configStoreError
  | configReloadDone
  | tileSramError
  | syncOperationArrival
  | cycleWalkEnd
  | priorityPropagate
  | islandAccept
  | islandCommandDone
  | groupCompletion
  | islandStreamToken
  | cnvImageLoad
  | cnvLoadDone
  | cnvPortInput
  | plaiterCompileDone
  | scatApply
  | copyCommandBegin
  | copyStreamToken
  | copyWritePerform
  | copyComplete
  | topkEmit
  | peerIngressWrite
  | peerWriteAck
  | peerPathTimeout
  | linkPortFail
  | doorbell
  | helmQueueMap
  | helmSliceExpiry
  | helmEntryStart
  | launch
  | copy
  | wait
  | signal
  | cond
  | helmLoop
  | helmEnd
  | waitSatisfied
  | launchResult
  | launchContinue
  | trapFrameWrite
  | trapHandlerStart
  | replayInject
  | instanceKill
  | strandBoundaryStop
  | checkpointCut
  | contextSaveSizing
  | contextSaveWrite
  | contextRestore
  | preemptionComplete
  | guestSwitch
  | create
  | destroy
  | grant
  | reclaim
  | setmin
  | preempt
  | resetQueue
  | resetContext
  | resetEngine
  | resetPartition
  | resetDevice
  | resetEscalate
  | vfstateRunning
  | vfstateDescheduled
  | vfstatePaused
  | wincreate
  | winattach
  | windetach
  | windestroy
  | objreset
  | instctlResume
  | instctlKill
  | migsave
  | migload
  | eventRecordWrite
  | tsnowl
  | hostApertureRead
  | hostApertureWrite
  | functionReset
  | debugResume
  | debugHalt
  | debugDataRead
  | histogramReadout
  | traceSample
  | loglineFrameWrite
  | coreDump
  | poisonLogClear
  | clearOnRead
  | csrWrite
  | powerOn
  | powerRefill
  | thermalLimit
  | thermalStep
  | thermalShutdown
  | powerLoss
  | channelSpareSwitch
  | clusterRetire
  | tileSramStore
  | hostMemoryWrite
  | correctedError
  | imageCrcError
  | lineCacheError
  | bridgeLoss
  | moduleLimit
  | stoptsl
  | wpkal
  deriving DecidableEq, Repr

end Sys2Proof
end

