-- ==== Sys2Proof/Machine/State.lean ====
section
/-! DEFINITION. Sys2Proof/Machine/State.lean: everything the spec gives the machine, as plain data. -/

namespace Sys2Proof.Machine

/-- What a step of the device acts on, the operands of the opcode table's rows that have no encoding: a partition, a page
(die * 256 + logical page) or die, an instance, numbers that the row's meaning names, a tag, a firing, a target, tokens,
words and a list. -/
structure Args where
  p : Nat := 0
  pg : Nat := 0
  id : Nat := 0
  x : Nat := 0
  y : Nat := 0
  z : Nat := 0
  fid : Nat := 0
  tag : Tag := 0
  tg : Target := .none
  tok : Token := {}
  tok1 : Token := {}
  w0 : Word := 0
  w1 : Word := 0
  l : List Nat := []
  deriving DecidableEq, Repr

/-! ### Instances, strands and activations -/

/-- A general register (R9): value, poison bit and poison-origin index. -/
structure Reg where
  val : Word := 0
  pois : Bool := false
  origin : BitVec 11 := 0
  deriving DecidableEq, Repr

/-- An address window (R9, R144). -/
structure Win where
  base : DWord := 0
  limit : DWord := 0
  attr : Word := 0
  deriving DecidableEq, Repr

/-- A token as it stands in a queue, with the number of the firing that sent it and the tile of the page that fired, 64 where no tile
did. -/
structure Arr where
  tok : Token
  fid : Nat
  src : Nat := 64
  deriving DecidableEq, Repr

/-- An entry of a tile's matching store (R151): one tag and at most one token for each queue. `way` is its place in its
set, `ready` the fclk at which its used positions were all present, `by` the position whose arrival completed it. -/
structure Entry where
  tile : Nat
  tag : Tag
  way : Nat := 0
  l : Option Arr := none
  r : Option Arr := none
  p : Option Arr := none
  c : Option Arr := none
  ready : Option Nat := none
  lastPos : Nat := 0
  /-- the fclk at which its first token arrived (R415) -/
  since : Nat := 0
  /-- promotion (R153): 0 not asked for, 1 asked for, 2 promoted -/
  promo : Nat := 0
  deriving DecidableEq, Repr

/-- A token in the spill table (R152). -/
structure Spilled where
  tile : Nat
  tag : Tag
  pos : Pos
  arr : Arr
  slot : Nat
  since : Nat := 0
  deriving DecidableEq, Repr

/-- A token held in the mesh (R12): its target, its tag and the firing that sent it. -/
structure Held where
  tg : Target
  tag : Tag
  arr : Arr
  deriving DecidableEq, Repr

/-- What a firing is waiting for after its operands were taken. -/
inductive Phase where
  /-- its result leaves the tile at `leaves` -/
  | run
  /-- a request is on its way or being served: a load, a full/empty or synchronisation operation, an engine command, a call -/
  | out
  /-- it waits at its word or object, or for its engine, and holds no issue slot -/
  | parked
  /-- an engine command, which its block's commit does not wait for (R234) -/
  | engine
  /-- an engine command whose activation has committed, stopped by a freeze (R331) -/
  | stopped
  /-- finished; kept until its activation commits, for replays (R21) -/
  | done
  deriving DecidableEq, Repr

/-- A firing (R13): its place, the word it fired, the operands it captured, and what it has done so far. `acted` says
that its effect has happened (R331); `va`, `key` and `size` are the access it makes; `got` the bytes a load has read from
memory; `aux` the operation's own numbers; `wins`, `blk` and `gen` what an engine command keeps of its activation. -/
structure Fire where
  fid : Nat
  id : Nat
  strand : Nat
  tile : Nat
  tag : Tag
  word : Word
  l : Option Arr := none
  r : Option Arr := none
  c : Option Arr := none
  p : Option Arr := none
  firedAt : Nat := 0
  leaves : Nat := 0
  phase : Phase := .run
  acted : Bool := false
  lsid : Nat := 0
  va : Nat := 0
  key : Nat := 0
  size : Nat := 0
  got : List Byte := []
  aux : List Nat := []
  wins : List Win := []
  blk : Nat := 0
  gen : Nat := 0
  deriving DecidableEq, Repr

/-- A store in an activation's store buffer (R22). `kind` is its window's kind, `so` says that its page is strongly ordered,
`mch` is the multicast channel of an STM. -/
structure StoreRec where
  lsid : Nat
  slot : Nat
  fid : Nat
  kind : Nat
  va : Nat
  key : Nat
  size : Nat
  data : Word
  so : Bool := false
  pois : Bool := false
  origin : BitVec 11 := 0
  mch : Option Nat := none
  deriving DecidableEq, Repr

/-- A nulled store LSID (R17) with the origin of its poison, if any (R18). -/
structure NullRec where
  lsid : Nat
  slot : Nat
  fid : Nat
  origin : Option (BitVec 11) := none
  deriving DecidableEq, Repr

/-- A non-null exit token (R23, R28). -/
structure ExitRec where
  addr : Nat
  num : Nat
  slot : Nat
  fid : Nat
  ret : Bool := false
  deriving DecidableEq, Repr

/-- What kind of activation this is (R155, R168, R337). -/
inductive Role where
  | main
  | iter
  | msg (rt : Nat)
  | trap
  deriving DecidableEq, Repr

/-- A function descriptor (R60). -/
structure Desc where
  va : Nat
  entries : List Nat
  handler : Nat
  w : Nat
  h : Nat
  arity : Nat
  results : Nat
  nregs : Nat
  depth : Nat
  foldable : Bool
  ckptable : Bool
  killable : Bool
  recursive : Bool
  prio : Nat
  hint : Nat
  image : Nat
  deriving DecidableEq, Repr

/-- A running loop, held by the activation whose block held the LOOP (R155 to R158). -/
structure LoopRec where
  n : Nat
  body : Nat
  hdr : Word
  mask : Word
  words : List Word
  arity : List Nat := []
  /-- the descriptors of the body's CALLs by slot, read at its load (R174) -/
  descs : List (Nat × Desc) := []
  next : Nat := 0
  retired : Nat := 0
  regs : List Reg := []
  /-- the fclk before which no iteration begins -/
  ready : Nat := 0
  /-- an iteration begins only when the one before it has retired, since it may change windows (R145) -/
  serial : Bool := false
  /-- the LOOP's slot -/
  slot : Nat := 0
  /-- a freeze has recorded the LOOP as unfinished, and its entry has not been re-injected (R394) -/
  stopped : Bool := false
  deriving DecidableEq, Repr

/-- A replay-queue entry of a frozen instance (R335): kind, tag, value, flags, target, strand and the extension's
address and number. -/
structure Replay where
  kind : Nat
  tag : Tag
  val : Word
  flags : Nat := 0
  tg : Nat := 0
  strand : Nat := 0
  va : Nat := 0
  num : Nat := 0
  fid : Nat := 0
  deriving DecidableEq, Repr

/-- The trap of a frozen instance (R331 to R336). -/
structure TrapRec where
  code : Nat
  detail : Word
  va : Nat
  src : Nat
  strand : Nat
  tag : Tag
  ts : Nat
  gen : Nat
  word : Word
  blk : Nat
  /-- the trap area in use and the entries written to it; none while the instance waits for an area -/
  area : Option Nat := none
  written : Nat := 0
  /-- entries held in place in the tiles (R336) and appended arrivals (R332) -/
  place : List Replay := []
  added : Nat := 0
  cycle : List Word := []
  double : Bool := false
  /-- it has been counted as waiting for an area (R333) -/
  waited : Bool := false
  deriving DecidableEq, Repr

/-- An activation of a block (R13, R23, R155, R168): its block, the registers and windows as they stood when it began,
and what it has gathered towards completion. -/
structure Act where
  tag : Tag
  id : Nat
  strand : Nat
  role : Role := .main
  prio : Nat := 0
  blk : Nat := 0
  hdr : Word := 0
  mask : Word := 0
  words : List Word := []
  /-- the arity of each CALL's callee by slot, read at block load (R174); 0 elsewhere -/
  arity : List Nat := []
  descs : List (Nat × Desc) := []
  gen : Nat := 0
  started : Nat := 0
  regs : List Reg := []
  wins : List Win := []
  regW : List (Nat × Arr) := []
  stores : List StoreRec := []
  nulled : List NullRec := []
  /-- LSIDs of full/empty stores that have acted -/
  feDone : List Nat := []
  exit : Option ExitRec := none
  /-- the LOOP's latched count and body address, its slot and firing -/
  latched : Option (Nat × Nat × Nat × Nat) := none
  /-- LOOP and RFT slots that have fired or been suppressed -/
  settled : List Nat := []
  /-- RFT requests by slot -/
  rfts : List (Nat × Word) := []
  /-- SETW requests: slot, window, part, value -/
  setws : List (Nat × Nat × Nat × DWord) := []
  /-- the iteration number and the holder's tag of a loop-body activation -/
  iter : Nat := 0
  holder : Tag := 0
  /-- registers whose READ waits for the previous iteration's delivery (R158) -/
  unres : List Nat := []
  /-- the firings that a register passed by the previous iteration came from (R158) -/
  regFrom : List (Nat × List Nat) := []
  /-- READ slots re-armed by RFT (R340) -/
  armed : List Nat := []
  /-- the fclk at which it commits, once that is fixed -/
  commitAt : Option Nat := none
  /-- committed, and holding a loop whose iterations run -/
  looping : Option LoopRec := none
  /-- a trap that this iteration has met, and takes when the iterations below it have committed (R162) -/
  trapped : Option TrapRec := none
  /-- its block's image had been rewritten when its page reloaded: an RFT loads the current one (R344) -/
  rewrote : Bool := false
  deriving DecidableEq, Repr

/-- One page strand of an instance (R60, R185): its page, whether it is the page's host strand, its block pointer, its
configuration generation and commit count, and its copies of the page CSRs. -/
structure Strand where
  num : Nat
  pg : Nat
  host : Bool := true
  blk : Nat := 0
  gen : Nat := 0
  commits : Word := 0
  csr : List (Nat × Word) := []
  /-- the fclk in which a message last set each bit of RTAGPEND (R167) -/
  pendAt : List (Nat × Nat) := []
  ended : Bool := false
  endAt : Nat := 0
  /-- asked to stop at its boundary (R354) -/
  stopReq : Bool := false
  /-- stopped at its boundary -/
  stopped : Bool := false
  deriving DecidableEq, Repr

/-- A configuration change under way (R29, R30, R234): the activation's tag, the next block, the exit that chose it, and the
fclk before which nothing of it fires; `entry`: no exit led to it; `ret`: it is the end that RET made. -/
structure NextBlk where
  tag : Tag
  id : Nat
  strand : Nat
  role : Role := .main
  prio : Nat := 0
  blk : Nat := 0
  fromSlot : Nat := 0
  fromBlk : Nat := 0
  fromWord : Word := 0
  entry : Bool := false
  ret : Bool := false
  ready : Nat := 0
  payload : List Word := []
  deriving DecidableEq, Repr

/-- The life of an instance (R173, R331). -/
inductive IStat where
  | running
  | frozen
  | saved
  | ended
  deriving DecidableEq, Repr

/-- How an instance was started (R174, R177, R338, R353). -/
inductive Origin where
  /-- called by the firing `fid` of instance `id` -/
  | call (id : Nat) (fid : Nat)
  /-- a LAUNCH node of a die's Helm, with its result VA and result handle -/
  | launch (die rva handle : Nat)
  /-- the default handler of instance `id`'s trap -/
  | handler (id : Nat)
  deriving DecidableEq, Repr

/-- The state of an accumulator tile (R263). -/
inductive TileSt where
  | empty
  | busy
  | full
  deriving DecidableEq, Repr

/-- An accumulator tile (R263): its state, extent and kind, and its elements row by row with their poison. -/
structure AccTile where
  st : TileSt := .empty
  m : Nat := 0
  n : Nat := 0
  int : Bool := false
  acc : List Reg := []
  deriving DecidableEq, Repr

/-- A tensor descriptor as an island read it (R265). -/
structure TDesc where
  va : Nat
  base : Nat
  rows : Nat
  cols : Nat
  stride : Nat
  ovr : Nat
  flags : Nat
  chan : Nat
  prog : Nat
  pkey : Nat
  deriving DecidableEq, Repr

/-- How a row is laid out: its format, BLK and SCL (R73, R74, R212). -/
structure Geom where
  fmt : Nat
  blk : Nat := 0
  scl : Nat := 0
  deriving DecidableEq, Repr

/-- A row of an operand as it was read: its VA, none where a stream gave it, its layout, its bytes as far as they could be read, and the
poison of each of its stream tokens. -/
structure RawRow where
  va : Option Nat
  g : Geom
  bytes : List Byte
  pois : List (Option (BitVec 11)) := []
  deriving DecidableEq, Repr

/-- A multiplication that has passed its checks (R267): its descriptors with their windows, the layouts of its operands by their row 0,
its extent, its kind, and the stream channel of A. -/
structure Mul where
  aw : Nat
  bw : Nat
  da : TDesc
  db : TDesc
  ga : Geom
  gb : Geom
  rows : Nat
  cols : Nat
  k : Nat
  int : Bool
  stream : Option Nat
  deriving DecidableEq, Repr

/-- A command of an island (R261 to R275, R282 to R294): its channel, its firing with that firing's place, its operands and
what it keeps of its activation, when it reaches the island, whether it has been accepted, when the array took it, the
registers it uses, the state in which it found its tile, whether its tile has been set up, whether its progress word was written
before that, the key of its progress word and the progress it goes on from, the stream tokens it has taken and how many it needs, the fclk of its first K step and how many
it takes, its path, program and weights, the activation rows that its path was chosen by, its multiplication and its C descriptor, the writes and reports of a read-out, and whether it has stopped (R274). -/
structure IslCmd where
  ch : Nat
  fid : Nat
  id : Nat
  strand : Nat
  slot : Nat
  tag : Tag
  word : Word
  lv : Nat
  rv : Nat
  wins : List Win
  blk : Nat := 0
  gen : Nat := 0
  rm : Nat := 0
  here : Nat
  accepted : Bool := false
  start : Option Nat := none
  mode : Nat := 0
  fmt : Nat := 0
  win : Nat := 0
  found : TileSt := .empty
  begun : Bool := false
  fresh : Bool := false
  pkey : Nat := 0
  resume : Bool := false
  k : Nat := 0
  group : Nat := 0
  chunk : Nat := 0
  rows : List (Arr × Tag) := []
  need : Nat := 0
  chan : Option Nat := none
  kAt : Nat := 0
  kLen : Nat := 0
  dense : Bool := true
  owes : Bool := false
  prog : List Word := []
  wts : List Nat := []
  acts : Option (List RawRow × Option (Nat × Nat) × Nat) := none
  mul : Option Mul := none
  cdesc : Option TDesc := none
  outs : List (Nat × List Byte) := []
  marks : List (Nat × Nat) := []
  stopped : Bool := false
  deriving DecidableEq, Repr

/-- The resident stationary operand of an island (R270): which operand it is, what identifies it, the configuration that read
it, and its rows. -/
structure Resident where
  isB : Bool
  key : List Nat
  strand : Nat
  gen : Nat
  rows : List RawRow
  deriving DecidableEq, Repr

/-- A page's matrix island (R261 to R264): the instance that claims it, its registers, its tiles, the commands that wait or
run, its stream channels with their tokens' tags, the command that its array serves, and its resident operand. -/
structure Island where
  owner : Option Nat := none
  mode : Nat := 0
  fmt : Nat := 0
  win : Nat := 0
  tiles : List AccTile := [{}, {}, {}, {}]
  cmds : List IslCmd := []
  streams : List (Nat × Arr × Tag) := []
  serving : Option Nat := none
  resident : Option Resident := none
  deriving DecidableEq, Repr

/-- A context-save record of a saved instance (R187, R360): its VA, length and header flags, whether it lies in the swap area
(R189) or in the save area (R364), the unit of that area with which its run begins, what arrived for the instance since, the AREA traps that
its requests have met (R188), each as the CALL's firing, 0 for its own, and the detail, raised when it resumes, and by strand the activations, configuration changes and unfired slots without operands that the
record's layout has no place for (log 19). -/
structure SaveRec where
  va : Nat
  len : Nat
  flags : Nat := 0
  swap : Bool
  unit : Nat := 0
  held : List (Instr × Args) := []
  eligible : Bool := false
  rft : Bool := false
  area : List (Nat × Nat) := []
  acts : List (Nat × Act) := []
  nexts : List (Nat × NextBlk) := []
  bare : List (Nat × Nat × Tag) := []
  islands : List (Nat × Island) := []
  cnv : List (Nat × List (Nat × Word)) := []
  parked : List (Nat × Fire) := []
  deriving DecidableEq, Repr

/-- A save under way (R358, R359, R363): why (0 a pre-emption, 1 a victim of a call, 2 a guest switch, 3 a pause), the fclk
at which it was asked for, whether some strand was cut in mid-phase, and the run of the area that it has taken, with the run's VA. -/
structure Saving where
  why : Nat
  asked : Nat
  cut : Bool := false
  frozen : Bool := false
  /-- the replay entries at the freeze -/
  ents : Nat := 0
  run : Option (Nat × Nat) := none
  va : Nat := 0
  ptok : Nat := 0
  deriving DecidableEq, Repr

/-- An instance (R9, R60, R149, R173). -/
structure Inst where
  id : Nat
  gen : Nat
  status : IStat := .running
  age : Nat := 0
  ageSrc : Nat := 0
  descVa : Nat := 0
  entry : List Nat := []
  handler : Nat := 0
  w : Nat := 1
  h : Nat := 1
  arity : Nat := 0
  results : Nat := 0
  nregs : Nat := 64
  depth : Nat := 0
  foldable : Bool := false
  ckptable : Bool := false
  killable : Bool := false
  recursive : Bool := false
  image : Nat := 0
  base : Nat := 0
  eff : Nat := 0
  est : Nat := 0
  estAt : Nat := 0
  regs : List Reg := []
  wins : List Win := []
  strands : List Strand := []
  origin : Origin
  res0 : Option Token := none
  res1 : Option Token := none
  trapRec : Option TrapRec := none
  replay : List Replay := []
  /-- the entries still to be re-injected (R340) -/
  inject : Option (List Replay) := none
  /-- full/empty operations that re-injection has brought back, as tag and tile in its order (R142) -/
  reFe : List (Tag × Nat) := []
  save : Option SaveRec := none
  saving : Option Saving := none
  deriving DecidableEq, Repr

/-- What asks Pelorus for area (R173): the CALL, CALLR or SYSC of a firing, an eligible saved instance, a LAUNCH of a Helm
queue on a die, or the default handler for a frozen instance. -/
inductive ReqKind where
  | call (id fid : Nat)
  | saved (id : Nat)
  | launch (die q : Nat)
  | handler (id : Nat)
  deriving DecidableEq, Repr

/-- A request that waits for placement (R182): what asks, the callee, its arguments and windows, the page from which distance
is counted, since when it waits, its place among requests of one fclk, whether it is promoted, and the instances that are
being saved for it (R186), with the rectangle's pages that it is to take. -/
structure Request where
  kind : ReqKind
  desc : Desc
  args : List Reg := []
  wins : List Win := []
  pg : Nat
  since : Nat
  promoted : Bool := false
  saving : List Nat := []
  rect : List Nat := []
  deriving DecidableEq, Repr

/-! ### Pages -/

/-- A message that has reached a page (R166): its strand, its route tag and its two payload words. -/
structure Msg where
  strand : Nat
  id : Nat
  rt : Nat
  w0 : Word
  w1 : Word
  /-- the multicast channel of an STM copy -/
  ch : Option Nat := none
  deriving DecidableEq, Repr

/-- The wait histogram of a tile (R415): eight buckets, spills, returns, ready wait and stale tokens. -/
structure Hist where
  tile : Nat
  buckets : List Nat := [0, 0, 0, 0, 0, 0, 0, 0]
  spills : Nat := 0
  returns : Nat := 0
  readyWait : Nat := 0
  stale : Nat := 0
  deriving DecidableEq, Repr

/-- The last firing of a tile (R416): its word, tag and configuration generation. -/
structure LastFire where
  tile : Nat
  word : Word
  tag : Tag
  gen : Nat
  deriving DecidableEq, Repr

/-- The list of a TOPK tile (R311): its fibre, the pairs it has taken, best first, as score and index with their poison, and
the fclk until which it emits. -/
structure TopkList where
  tile : Nat
  fibre : Tag
  pairs : List (Token × Token) := []
  busy : Nat := 0
  deriving DecidableEq, Repr

/-! ### Islands and streams -/

/-- An image of a conversion island (R278, R279): none, a standard one with its format and rounding, or one from memory with its
path mask, poison kinds, truth tables, input, flop and result selectors. -/
inductive CnvImage where
  | none
  | std (sfmt srm : Nat)
  | mem (mask : Nat) (kinds : List Nat) (luts : List Nat) (ins : List Nat) (flops : List Nat) (paths : List Nat)
  deriving DecidableEq, Repr

/-- A conversion island (R277, R278): its image, its flops, the load under way, and the firings and port tokens that wait. -/
structure CnvIsl where
  image : CnvImage := .none
  flops : List Bool := List.replicate 64 false
  busy : Bool := false
  err : Bool := false
  lastIn : Nat := 0
  waits : List (Instr × Args) := []
  deriving DecidableEq, Repr

/-- The conversion islands of a page (R185, R277): the instance that claims them, their CSRs, and the two islands. -/
structure Cnv where
  owner : Option Nat := none
  csr : List (Nat × Word) := []
  isl : List CnvIsl := [{}, {}]
  deriving DecidableEq, Repr

/-- A logical page of a partition: its matching stores, its firings and activations and its engines. -/
structure Page where
  num : Nat
  ents : List Entry := []
  spill : List Spilled := []
  held : List Held := []
  fires : List Fire := []
  acts : List Act := []
  /-- configuration changes under way -/
  nexts : List NextBlk := []
  /-- messages held, one per route tag and strand, and those waiting at the port (R166) -/
  msgs : List Msg := []
  msgWait : List Msg := []
  nextFire : List (Nat × Nat) := []
  /-- by instance, the last fclk in which a ready set, firing, request or token of it stood here (R173) -/
  stirred : List (Nat × Nat) := []
  /-- when the last result of each tile leaves it (R92) -/
  lastOut : List (Nat × Nat) := []
  hist : List Hist := []
  last : List LastFire := []
  topk : List TopkList := []
  island : Island := {}
  cnv : Cnv := {}
  /-- tokens at the stream ports of the copy engine, by port, with their tags and when they came (R300) -/
  ports : List (Nat × Arr × Tag × Nat) := []
  /-- prefetched blocks, and pre-placed entry blocks, in free contexts (R195, R196) -/
  ctxs : List Nat := []
  gated : Bool := false
  /-- the last fclk in which each tile's SRAM serves an access (R205) -/
  sram : List (Nat × Nat) := []
  /-- replies for a page whose clocks are gated (R412) -/
  skid : List (Instr × Args) := []
  reload : Bool := false
  deriving DecidableEq, Repr

/-! ### Partitions -/

/-- An event record (R385): type, timestamp, the partition's PGEN when it arose, and the payload's words. -/
structure EvRec where
  ty : Nat
  ts : Nat
  pgen : Nat
  pay : List Nat
  deriving DecidableEq, Repr

/-- The state of a virtual function (R386, R387). -/
inductive VfState where
  | running
  | descheduled
  | paused
  deriving DecidableEq, Repr

/-- A virtual function (R386, R400, R401): its delivery state, the events it holds, its BAR0 registers and the interrupts it has
sent. -/
structure Vf where
  state : VfState := .running
  held : List EvRec := []
  evqbl : Word := 0
  evqbh : Word := 0
  log2 : Nat := 4
  mask : Bool := true
  en : Bool := false
  head : Nat := 0
  tail : Nat := 0
  evdisc : Nat := 0
  dbdisc : Nat := 0
  apb : Nat := 0
  apflt : Nat := 0
  tsnowh : Word := 0
  devid : Nat := 0
  msix : Nat := 0
  deriving DecidableEq, Repr

/-- What a synchronisation object holds (R241). -/
inductive ObjSt where
  | free
  | word (v : Word)
  /-- the holder's ID and GEN -/
  | lock (holder : Option (Nat × Nat))
  | barrier (count arrivals phase : Nat)
  | queue (cap head len : Nat) (closed : Bool)
  /-- storage of the queue with handle h: its four entries -/
  | qstore (h : Nat) (e0 e1 e2 e3 : Word)
  deriving DecidableEq, Repr

/-- A synchronisation object (R239, R241), its parked operations in parking order as page and firing, and for one kept in memory its VA + 1
and the 16 bytes that stand for it there (R240). -/
structure Obj where
  h : Nat
  st : ObjSt := .free
  waiters : List (Nat × Nat) := []
  va : Nat := 0
  img : Nat := 0
  deriving DecidableEq, Repr

/-- An entry of the wait-for table (R251): a wait or a hold entry, its instance, its name, the tag and the firing of a
parked operation, and where it is kept: 1 on the die, 2 in the overflow area. -/
structure WftEnt where
  wait : Bool
  id : Nat
  gen : Nat
  name : Nat
  tag : Tag := 0
  fid : Nat := 0
  home : Nat := 1
  ts : Nat := 0
  pg : Nat := 0
  deriving DecidableEq, Repr

/-- The walk of a new entry (R257): the entry, the entries passed, the one being read, and the nodes still to be left: a name (true) or an
instance, with its number and the die from which it was reached. -/
structure Walk where
  ent : WftEnt
  seen : List WftEnt := []
  reading : Option WftEnt := none
  todo : List (Bool × Nat × Nat) := []
  deriving DecidableEq, Repr

/-- A registration not yet entered (R258), and the firing whose T1 takes its status. -/
structure RegReq where
  ent : WftEnt
  stPg : Nat := 0
  stFid : Nat := 0
  deriving DecidableEq, Repr

/-- A parked access to a full/empty word (R140, R215): the word, the page and firing, and where it is kept: 0 in its tile's
table, 1 in the deferred-access area, 2 held in the mesh. -/
structure FeWait where
  key : Nat
  tile : Nat
  pg : Nat
  fid : Nat
  place : Nat := 0
  deriving DecidableEq, Repr

/-- A standing WREG (R252, R253): its instance, its name and the page and firing that its status token answers, 0 once it has been sent, and the parked access it stands for. -/
structure Wreg where
  id : Nat
  gen : Nat
  name : Nat
  pg : Nat
  fid : Nat
  parked : Nat := 0
  deriving DecidableEq, Repr

/-- A quiescence region (R169, R170): whether it is open, its member instances, its current phase, the earlier phases that
are still open with the fclk at which each ended, the QENDs and PHASEs that wait as page and firing, the waves in a row that
found it quiet, and the members' totals at the last wave. -/
structure QRegion where
  n : Nat
  isOpen : Bool := false
  members : List Nat := []
  phase : Nat := 0
  older : List (Nat × Nat) := []
  qends : List (Nat × Nat) := []
  phases : List (Nat × Nat) := []
  quiet : Nat := 0
  totals : List Nat := []
  deriving DecidableEq, Repr

/-- Committed stores of one activation to one 64-byte line, or to one word of tile SRAM, that have not yet performed (R22,
R222, R224): the instance and agent (R220) that issued them, their window kind, first address and bytes, when they perform, and the slot of the first of them. -/
structure Posted where
  wid : Nat
  id : Nat
  agent : Nat
  kind : Nat
  va : Nat
  cells : List (Nat × Byte)
  due : Nat := 0
  slot : Nat := 0
  deriving DecidableEq, Repr

/-- Where a copy command comes from: a CPY of a page, or a COPY node of a Helm queue on a die, with the VA of its entry. -/
inductive CopySrc where
  | fire (pg fid : Nat)
  | helm (die q node eva : Nat)
  deriving DecidableEq, Repr

/-- A copy command (R302 to R309): its number, engine (die * 4 + engine) and channel, where it comes from, the place of its CPY for a
trap, its form, its descriptor's VA and bytes, its windows with that of its descriptor, the peer that its channel was bound to at
acceptance (R404), when it was accepted and how long its descriptor and index reads take, whether it has begun and from when its
elements move, the elements and bytes that have left since and the writes on their way to a peer, the elements and bytes delivered,
whether it resumed, its tokens not yet used (with their tags and when they came), whether its stream has closed, the source line that its
last read ended in, the bytes of its last destination line that wait for the rest of it and how many elements wait with them (R224),
whether it is to stop or has stopped, and whether its progress word could not be written as it did. -/
structure CopyCmd where
  num : Nat
  eng : Nat
  ch : Nat
  src : CopySrc
  id : Nat := 0
  strand : Nat := 0
  slot : Nat := 0
  tag : Tag := 0
  word : Word := 0
  blk : Nat := 0
  gen : Nat := 0
  form : Nat
  descVa : Nat
  desc : Nat
  win : Win := {}
  sw : Win := {}
  dw : Win := {}
  peer : Option Nat := none
  accepted : Nat := 0
  lead : Nat := 0
  begun : Bool := false
  ready : Nat := 0
  sent : Nat := 0
  moved : Nat := 0
  flying : Nat := 0
  elems : Nat := 0
  bytes : Nat := 0
  resume : Bool := false
  took : List (Arr × Tag × Nat) := []
  closed : Bool := false
  line : Option (Nat × List Byte) := none
  tail : List (Nat × List Byte) := []
  held : Nat := 0
  stopping : Bool := false
  stopped : Bool := false
  lost : Bool := false
  deriving DecidableEq, Repr

/-- A channel of a copy engine as a partition sees it (R302, R369): its write pointer and the WPTR.Ws that wait at it. -/
structure CopyCh where
  eng : Nat
  ch : Nat
  wptr : Word := 0
  waits : List (Nat × Nat) := []
  deriving DecidableEq, Repr

/-- A pre-emption request (R355, R356, R365): its pages, its tokens, whether it has been accepted, whether its pages are reclaimed
when it completes, and whether it stands until a cluster has been retired (R422). -/
structure Preempt where
  pgs : List Nat
  ptok : Nat
  accepted : Bool := false
  reclaim : Bool := false
  hold : Bool := false
  deriving DecidableEq, Repr

/-- A guest switch (R364, R365): the entries still to be applied, the one being saved, and the entries skipped. -/
structure Gsw where
  list : List (Nat × Nat × Bool) := []
  saving : Option Nat := none
  skip : Nat := 0
  waits : Bool := false
  deriving DecidableEq, Repr

/-- A trace record (R416). -/
structure TraceRec where
  ty : Nat
  flags : Nat := 0
  src : Nat
  gen : Nat
  ts : Nat
  tag : Tag
  w0 : Word
  w1 : Word
  deriving DecidableEq, Repr

/-- A die's Logline for a partition (R417): the next frame's sequence number, the frames dropped since the last one written,
the records of the present fclk in the order of R6, those of the open frame, and closed frames that are not yet written. -/
structure TraceLog where
  die : Nat
  seq : Nat := 0
  drops : Nat := 0
  fresh : List TraceRec := []
  recs : List TraceRec := []
  closed : List (List TraceRec) := []
  deriving DecidableEq, Repr

/-- A partition (R366) and everything that belongs to it. -/
structure Part where
  num : Nat
  live : Bool := false
  csr : List (Nat × Word) := []
  /-- the partition page map (R203): logical page, physical page, column, row -/
  map : List (Nat × Nat × Nat × Nat) := []
  root : Nat := 0
  insts : List Inst := []
  idGen : List (Nat × Nat) := []
  pages : List Page := []
  posted : List Posted := []
  nextWid : Nat := 0
  pgen : Nat := 0
  regions : List Nat := []
  engines : List (Nat × Nat) := []
  helmDies : List Nat := []
  wftShare : List (Nat × Nat) := []
  minima : List (Nat × Nat × Nat × Nat) := []
  hostBase : Nat := 0
  hostLen : Nat := 0
  wins : List (Nat × Nat) := []
  objs : List Obj := []
  wft : List WftEnt := []
  wregs : List Wreg := []
  /-- registrations in their order, and the walk under way (R257, R258) -/
  regq : List RegReq := []
  walk : Option Walk := none
  feq : List FeWait := []
  /-- the last arrival of a multicast copy by channel and page (R218) -/
  mcLast : List (Nat × Nat) := []
  qregs : List QRegion := []
  areas : List (Nat × Nat) := []
  /-- values latched by the read or write of the register before (R411) -/
  latch : List (Nat × Word) := []
  plogOver : Nat := 0
  vf : Vf := {}
  integrity : Bool := false
  trace : List TraceLog := []
  /-- steps that wait for room in the trace sink (R417) -/
  stalled : List (Instr × Args) := []
  /-- management commands that wait for the one under way (R366) -/
  cmds : List (Instr × Args) := []
  /-- requests that wait for placement, the fclk before which no further round begins (R198), and pre-placed callees (R196) -/
  requests : List Request := []
  nextRound : Nat := 0
  prePlaced : List (Nat × Nat) := []
  copies : List CopyCmd := []
  chans : List CopyCh := []
  preempts : List Preempt := []
  gsw : Option Gsw := none
  /-- runs of the swap area and of the save area that records hold, as unit and units (R189, R359) -/
  swapRuns : List (Nat × Nat) := []
  saveRuns : List (Nat × Nat) := []
  /-- an integrity failure has frozen the whole partition (R380) -/
  frozen : Bool := false
  key : Nat := 0
  /-- the place of the next sample in the round robin of each die's tiles (R416) -/
  sampleAt : List (Nat × Nat) := []
  deriving DecidableEq, Repr

/-! ### The machine -/

/-- A pending step of the device: a row of the opcode table with what it acts on, or the turn of a tile to fire. -/
inductive Action where
  | row (i : Instr) (a : Args)
  | fire (p pg tile : Nat)
  deriving DecidableEq, Repr

/-- A pending step with the fclk at which it happens and its place among the steps of that fclk. Ranks 0 and 1 are the rows and the
firings, in ascending source number and at one source the rows before the firing (R6); then come commits, then rounds of placement. -/
structure Timed where
  ts : Nat
  rank : Nat
  src : Nat
  act : Action
  deriving DecidableEq, Repr

/-- The firing in progress: the place and the activation's values that its meaning reads. -/
structure Cur where
  p : Nat := 0
  pg : Nat := 0
  id : Nat := 0
  strand : Nat := 0
  tile : Nat := 0
  tag : Tag := 0
  fid : Nat := 0
  word : Word := 0
  l : Option Token := none
  r : Option Token := none
  c : Option Token := none
  pt : Option Token := none
  deriving DecidableEq, Repr

/-- What the module's flash and its self-test say (R419, R420), which the device meets at power-on and does not make: the boot
step that fails and its cause, and the clusters and channels of each die that are listed or fail. -/
structure Module where
  failStep : Nat := 0
  cause : Nat := 0
  badClusters : List (Nat × Nat) := []
  badChannels : List (Nat × Nat) := []
  deriving DecidableEq, Repr

/-- An attestation report (R421): the measurements of boot steps 1, 4 and 6, the device ID, at CREATE the partition number and the
hypervisor's nonce, and the signature. -/
structure Report where
  meas : List Nat
  devId : Nat
  part : Option (Nat × Nat) := none
  sig : Nat
  deriving DecidableEq, Repr

/-- A reset in progress (R383, R384): its rung, its partition, its target (a queue, or a die), the fclk of its timeout, and the
pages that must be clear. -/
structure Reset where
  rung : Nat
  p : Nat
  x : Nat
  due : Nat
  deriving DecidableEq, Repr

/-- A write, or a completion's signal, on its way to a peer (R404, R405, R407): its number, the sender's partition and command, the
elements that it delivers with, the peer's register, the remote VA and data, or the handle. -/
structure PeerWrite where
  n : Nat
  p : Nat
  num : Nat
  elem : Nat
  peer : Nat
  va : Nat
  data : List Byte
  sig : Bool := false
  deriving DecidableEq, Repr

/-- Power states (R419, R424). -/
inductive Power where
  | booting
  | failed
  | on
  | off
  deriving DecidableEq, Repr

/-- What the translation caches of a partition may still hold of a page table entry that has changed (R210, R211): the key of the entry
and the valid value that it had; the VAs that invalidations since then have named; and whether the invalidation in progress covers it. -/
structure OldPte where
  p : Nat
  addr : Nat
  old : Nat
  dead : List Nat := []
  armed : Bool := false
  deriving DecidableEq, Repr

/-- The counters of one 4 KiB page of device DRAM (R376): major, and the minors that are not 0 by line. -/
structure GuardPage where
  pg : Nat
  major : Nat := 0
  minors : List (Nat × Nat) := []
  deriving DecidableEq, Repr

/-- The state of a Plaiter entry (R286). -/
inductive PlaitSt where
  | none
  | compiling
  | program
  | dense
  deriving DecidableEq, Repr

/-- A Plaiter entry (R286): its die, its tile's identity, its state, the micro-program with the effective weight byte of each
MAC, the fclk of its last use, and the PREPs that wait for it. -/
structure PlaitEnt where
  die : Nat
  part : Nat
  pa : Nat
  gen : Nat := 0
  st : PlaitSt := .none
  prog : List Word := []
  wts : List Nat := []
  last : Nat := 0
  waiters : List (Nat × Nat) := []
  deriving DecidableEq, Repr

/-- A re-keyed window (R381): its die and regions, its members with their permissions (1 read, 3 read and write), whether an
integrity failure has closed it, and the number of its key. -/
structure Window where
  n : Nat
  die : Nat
  regions : List Nat
  members : List (Nat × Nat) := []
  closed : Bool := false
  key : Nat := 0
  deriving DecidableEq, Repr

/-- What a Helm slot waits for between nodes (R317): nothing, a WORD object's value, the end of a launched instance, the
completion of a copy, the grant of a LAUNCH, or, what it waited for having come, the fclk at which it goes on. -/
inductive HelmWait where
  | none
  | go (at' : Nat)
  | word (h v : Nat)
  | inst (id gen : Nat)
  | copy (cmd : Nat)
  | grant
  deriving DecidableEq, Repr

/-- A Helm queue slot (R313, R317, R320): its die and number, the partition and queue mapped to it, a number of its entry, the VAs of
the queue's descriptor, of the entry and of the chart, its node and that node's 64 bytes, its loop counts by node, what it waits for,
and the fclk of its slice's end. -/
structure HelmSlot where
  die : Nat
  num : Nat
  p : Nat
  q : Nat
  serial : Nat := 0
  dva : Nat := 0
  eva : Nat := 0
  base : Nat := 0
  node : Nat := 0
  raw : Nat := 0
  loops : List (Nat × Nat) := []
  wait : HelmWait := .none
  slice : Nat := 0
  deriving DecidableEq, Repr

/-- A migration state as MIGSAVE wrote it (R387, R388): the host buffer's address and length, the number of its first encrypted byte,
and what its records hold. -/
structure MigState where
  addr : Nat
  len : Nat
  start : Nat
  part : Part
  cells : List Host.Cell
  fe : List Nat
  helm : List HelmSlot := []
  deriving DecidableEq, Repr

/-- Why the machine stops with a fault. The device itself turns every fault of a program into a trap or an event, so the
only stop is a firing whose place holds nothing to run. -/
inductive Fault where
  /-- raised by the step when the word that a firing would run is not an instruction. A block's words are checked when it
  is loaded (R43), so no run reaches it. Safe: the model stops where the device cannot be. -/
  | notAnInstruction
  deriving DecidableEq, Repr

/-- Why the machine refuses to go on. -/
inductive Refusal where
  /-- raised by `exec` alone, for an instruction whose meaning is not written. Safe: the model stops. -/
  | notModelled (mnemonic : String)
  deriving DecidableEq, Repr

/-- The state of the machine. -/
structure State where
  now : Nat
  tsBase : Nat
  power : Power
  agenda : List Timed
  nextFid : Nat
  free : Nat
  cur : Cur
  arg : Args
  mem : List Host.Cell
  fe : List Nat
  parts : List Part
  guard : List GuardPage
  tree : List (Nat × Nat × Nat)
  badLines : List Nat
  /-- old page table entries that may still be used, in the order of their changes (R211) -/
  oldPtes : List OldPte
  pfEvents : List (Nat × EvRec)
  plait : List PlaitEnt
  windows : List Window
  helmSlots : List HelmSlot
  /-- Helm's line of waiting queues: die, partition, queue (R320) -/
  helmLine : List (Nat × Nat × Nat)
  /-- the walker states that queues without a slot have saved (R314, R320) -/
  helmSaved : List HelmSlot
  /-- the module's flash and self-test, the boot status (R419), and the active physical clusters and channels of each die, with
  the spares that are left (R420, R422) -/
  module : Module
  boot : Nat × Nat
  clusters : List (Nat × Nat)
  channels : List (Nat × Nat)
  /-- clusters and channels, by die, that have been retired since the boot (R422) -/
  retired : List (Nat × Nat)
  worn : List (Nat × Nat)
  /-- configuration errors by die and cluster, with their fclk (R422) -/
  cfgErrs : List (Nat × Nat × Nat)
  /-- the module limit in watts, the credits of each cluster (R423), and whether a die is too hot (R424) -/
  limit : Nat
  credits : List (Nat × Nat × Nat)
  hot : Bool
  /-- bridges lost (R425) and link ports that have failed (R409) -/
  bridges : List Nat
  ports : List Nat
  /-- what the last host reads returned, and the management commands' statuses: code, partition, status (R366) -/
  hostOut : List Nat
  replies : List (Nat × Nat × Nat)
  resets : List Reset
  /-- the reports signed since the boot, in order (R421) -/
  reports : List Report
  migs : List MigState
  peerOut : List PeerWrite
  nextKey : Nat
  /-- the objects to which each die's engine has applied operations in an fclk, by partition and place (R242) -/
  synced : List (Nat × Nat × List (Nat × Nat))
  deriving DecidableEq, Repr

/-- The machine right after reset: power-on is its first step (R419, log 1). Every field without a value of the spec stands
at the value that log 2 names. -/
def State.reset : State where
  now := 0
  tsBase := 0
  power := .booting
  agenda := [⟨0, 0, 0, .row .powerOn {}⟩]
  nextFid := 1
  free := 0
  cur := {}
  arg := {}
  mem := []
  fe := []
  parts := []
  guard := []
  tree := []
  badLines := []
  oldPtes := []
  pfEvents := []
  plait := []
  windows := []
  helmSlots := []
  helmLine := []
  helmSaved := []
  module := {}
  boot := (0, 0)
  clusters := []
  channels := []
  retired := []
  worn := []
  cfgErrs := []
  limit := 2600
  credits := []
  hot := false
  bridges := []
  ports := []
  hostOut := []
  replies := []
  resets := []
  reports := []
  migs := []
  peerOut := []
  nextKey := 1
  synced := []

end Sys2Proof.Machine
end

