-- ==== Sys2Proof/Machine/Mem.lean ====
section
/-! DEFINITION. Sys2Proof/Machine/Mem.lean: memory as one canonical list of cells (R202, R206), full/empty bits (R138) and
the walk of the page tables (R207 to R209). Keys below 2^46 are physical addresses (bit 45 set: host memory); the tile
SRAMs follow from 2^46. A byte that is not listed reads 0 (R205, R373; host memory: log 3). -/

namespace Sys2Proof.Machine

/-- What an unlisted byte reads as. -/
def Mem.unlisted : Byte := 0

/-- The canonical form of a memory: addresses strictly rising, every one at least lo, and no listed byte that an unlisted
address reads as. -/
def Mem.wfFrom : Nat → List Host.Cell → Bool
  | _, [] => true
  | lo, (a, b) :: t => decide (lo ≤ a) && b != Mem.unlisted && Mem.wfFrom (a + 1) t

/-- The canonical form. -/
def Mem.wf (m : List Host.Cell) : Bool := Mem.wfFrom 0 m

/-- The byte at a key. -/
def Mem.byte : List Host.Cell → Nat → Byte
  | [], _ => Mem.unlisted
  | (x, y) :: t, a => if a = x then y else if a < x then Mem.unlisted else Mem.byte t a

/-- Writing one byte, keeping the canonical form. -/
def Mem.set : List Host.Cell → Nat → Byte → List Host.Cell
  | [], a, b => if b = Mem.unlisted then [] else [(a, b)]
  | (x, y) :: t, a, b =>
    if a < x then (if b = Mem.unlisted then (x, y) :: t else (a, b) :: (x, y) :: t)
    else if a = x then (if b = Mem.unlisted then t else (a, b) :: t)
    else (x, y) :: Mem.set t a b

/-- Writing bytes at rising keys. -/
def Mem.sets (m : List Host.Cell) (a : Nat) : List Byte → List Host.Cell
  | [] => m
  | b :: bs => Mem.sets (Mem.set m a b) (a + 1) bs

/-- The n bytes from a key. -/
def Mem.bytes (m : List Host.Cell) (a : Nat) : Nat → List Byte
  | 0 => []
  | n + 1 => Mem.byte m a :: Mem.bytes m (a + 1) n

/-- The little-endian number of n bytes from a key (R4). -/
def Mem.num (m : List Host.Cell) (a n : Nat) : Nat := ofLE (Mem.bytes m a n)

/-- Every cell of the keys lo to lo + n - 1 becomes unlisted: the zeroing of R205, R373 and R419. -/
def Mem.clear (m : List Host.Cell) (lo n : Nat) : List Host.Cell :=
  m.filter (fun c => c.1 < lo || lo + n ≤ c.1)

/-- The key of a byte of tile SRAM: die, physical page, tile and offset (R202, R203). -/
def sramKey (die phys tile off : Nat) : Nat := 2 ^ 46 + ((die * 256 + phys) * 64 + tile) * 2 ^ 15 + off

/-- Is the key a tile SRAM's? -/
def isSram (key : Nat) : Bool := decide (2 ^ 46 ≤ key)

/-- Is the key host memory (R206)? -/
def isHost (key : Nat) : Bool := decide (2 ^ 45 ≤ key) && decide (key < 2 ^ 46)

/-- Is the physical address reserved (R206)? -/
def paReserved (pa : Nat) : Bool := !bitAt pa 45 && bits pa 44 39 != 0

/-! ### Full/empty bits (R138): the list of the keys of the words that are full, rising -/

/-- Marking a word full. -/
def Fe.set : List Nat → Nat → List Nat
  | [], a => [a]
  | x :: t, a => if a < x then a :: x :: t else if a = x then x :: t else x :: Fe.set t a

/-- Marking a word empty. -/
def Fe.clr (l : List Nat) (a : Nat) : List Nat := l.filter (· != a)

/-! ### Page tables -/

/-- A translation: the physical address and the leaf entry. -/
structure Leaf where
  pa : Nat
  pte : Nat
  deriving DecidableEq, Repr

namespace Pte
def v (e : Nat) : Bool := bitAt e 0
def r (e : Nat) : Bool := bitAt e 1
def w (e : Nat) : Bool := bitAt e 2
def i (e : Nat) : Bool := bitAt e 3
def ord (e : Nat) : Nat := bits e 5 4
def fmt (e : Nat) : Nat := bits e 10 6
def blk (e : Nat) : Nat := bits e 13 11
def scl (e : Nat) : Bool := bitAt e 14
def mc (e : Nat) : Bool := bitAt e 15
def win (e : Nat) : Bool := bitAt e 16
def pin (e : Nat) : Bool := bitAt e 17
def tix (e : Nat) : Nat := bits e 21 18
def pfn (e : Nat) : Nat := bits e 51 22
def wix (e : Nat) : Nat := bits e 59 52
def size (e : Nat) : Nat := bits e 63 60
end Pte

/-- The index of a VA in the table of a level (R207). -/
def tableIndex (lvl va : Nat) : Nat :=
  match lvl with
  | 0 => bits va 20 16
  | 1 => bits va 29 21
  | 2 => bits va 38 30
  | _ => bits va 47 39

/-- The checks that a leaf meets after its size (R208, R209): alignment, ORD, the window, and the physical address. -/
def leafOf (wins : List Nat) (lvl va e : Nat) : Except Nat Leaf :=
  let sh := match lvl with
    | 0 => 16
    | 1 => 21
    | _ => 30
  let pa := Pte.pfn e * 65536 + va % 2 ^ sh
  if Pte.pfn e % 2 ^ (sh - 16) ≠ 0 then .error lvl
  else if Pte.ord e = 3 then .error lvl
  else if Pte.win e && (decide (64 ≤ Pte.wix e) || !wins.contains (Pte.wix e)) then .error lvl
  else if paReserved pa then .error lvl
  else .ok ⟨pa, e⟩

/-- The address of the table that a pointer entry names (R208). -/
def Pte.table (e : Nat) : Nat := Pte.pfn e * 65536 + Pte.tix e * 4096

/-- The walk of the page tables from a level's table (R207 to R209): `rd` reads an entry, `ok` says at which addresses a table may stand,
and `wins` are the windows the partition maps. A failure names the level of the failing entry. -/
def walkFrom (rd : Nat → Nat) (ok : Nat → Bool) (wins : List Nat) : Nat → Nat → Nat → Except Nat Leaf
  | 0, table, va =>
    let e := rd (table + 8 * tableIndex 0 va)
    if Pte.v e && Pte.size e == 1 then leafOf wins 0 va e else .error 0
  | lvl + 1, table, va =>
    let e := rd (table + 8 * tableIndex (lvl + 1) va)
    if !Pte.v e then .error (lvl + 1)
    else if Pte.size e = 0 then
      if ok (Pte.table e) then walkFrom rd ok wins lvl (Pte.table e) va else .error (lvl + 1)
    else if lvl = 0 && Pte.size e == 2 then leafOf wins 1 va e
    else if lvl = 1 && Pte.size e == 3 then leafOf wins 2 va e
    else .error (lvl + 1)

/-- The addresses of the entries that a walk reads. -/
def walkWords (rd : Nat → Nat) (ok : Nat → Bool) : Nat → Nat → Nat → List Nat
  | 0, table, va => [table + 8 * tableIndex 0 va]
  | lvl + 1, table, va =>
    let a := table + 8 * tableIndex (lvl + 1) va
    a :: (if Pte.v (rd a) && Pte.size (rd a) == 0 && ok (Pte.table (rd a)) then walkWords rd ok lvl (Pte.table (rd a)) va else [])

/-- The leaf of a level for a VA, unless it fails or an invalidation has named a VA of its page (R210, R211). -/
def keptLeaf (wins : List Nat) (lvl va e : Nat) (dead : List Nat) : List Leaf :=
  let sh := match lvl with
    | 0 => 16
    | 1 => 21
    | _ => 30
  match leafOf wins lvl va e with
  | .ok l => if dead.any (fun d => d >>> sh == va >>> sh) then [] else [l]
  | .error _ => []

/-- The leaves to which a walk comes that takes at each level memory's entry or one of the old values that `old` gives for it, each with
the VAs that invalidations have named since. None of them fails (R210). -/
def oldWalks (rd : Nat → Nat) (ok : Nat → Bool) (wins : List Nat) (old : Nat → List (Nat × List Nat)) : Nat → Nat → Nat → List Nat → List Leaf
  | 0, table, va, dead =>
    let a := table + 8 * tableIndex 0 va
    ((rd a, []) :: old a).flatMap (fun e => if Pte.v e.1 && Pte.size e.1 == 1 then keptLeaf wins 0 va e.1 (dead ++ e.2) else [])
  | lvl + 1, table, va, dead =>
    let a := table + 8 * tableIndex (lvl + 1) va
    ((rd a, []) :: old a).flatMap (fun e =>
      if !Pte.v e.1 then []
      else if Pte.size e.1 = 0 then
        if ok (Pte.table e.1) then oldWalks rd ok wins old lvl (Pte.table e.1) va (dead ++ e.2) else []
      else if lvl = 0 && Pte.size e.1 == 2 then keptLeaf wins 1 va e.1 (dead ++ e.2)
      else if lvl = 1 && Pte.size e.1 == 3 then keptLeaf wins 2 va e.1 (dead ++ e.2)
      else [])

/-- Is the key of a word that of an entry in one of the tables of a level, or in a table below them? `key` gives the key of an address,
and `old` are the old entries by their keys. -/
def isEntry (m : List Host.Cell) (key : Nat → Nat) (old : List (Nat × Nat)) : Nat → List Nat → Nat → Bool
  | 0, tables, a => tables.any (fun t => decide (t ≤ a) && decide (a < t + 256) && (a - t) % 8 == 0)
  | lvl + 1, tables, a =>
    let here (k : Nat) : Bool := tables.any (fun t => decide (t ≤ k) && decide (k < t + 4096) && (k - t) % 8 == 0)
    here a ||
      (let es := ((m.filter (fun c => here c.1)).map (fun c => Mem.num m c.1 8)) ++ ((old.filter (fun r => here r.1)).map Prod.snd)
       isEntry m key old lvl ((es.filter (fun e => Pte.v e && Pte.size e == 0)).map (fun e => key (Pte.table e))).eraseDups a)

/-- The keys of the aligned 8-byte words that n bytes at a key touch. -/
def wordsAt (key n : Nat) : List Nat := (List.range ((key % 8 + n + 7) / 8)).map (fun k => (key / 8 + k) * 8)

end Sys2Proof.Machine
end

