-- ==== Sys2Proof/WellFormed.lean ====
section
/-! DEFINITION. Sys2Proof/WellFormed.lean: which terms of Instr stand for an instruction the device can be given. For an
encoded instruction it is the static checks of R43 and R44 that a single word decides; for a step of the device there is
nothing to check: its constructor carries no field. -/

namespace Sys2Proof

open Machine

/-- The static well-formedness of an instruction (R43, R44, R40, R42). -/
def Instr.wf : Instr → Bool
  | .read _ t1 t0 => targetOk t1 && targetOk t0
  | .mov _ t1 t0 => targetOk t1 && targetOk t0
  | .null _ t1 t0 => targetOk t1 && targetOk t0
  | .bfly _ t1 t0 => targetOk t1 && targetOk t0
  | .fbfly _ t1 t0 => targetOk t1 && targetOk t0
  | .genc _ t0 => targetOk t0
  | .gens _ t0 => targetOk t0
  | .genh _ t0 => targetOk t0
  | .steer _ t1 t0 => targetOk t1 && targetOk t0
  | .steerf _ t1 t0 => targetOk t1 && targetOk t0
  | .merge _ t1 t0 => targetOk t1 && targetOk t0
  | .sel _ t1 t0 => targetOk t1 && targetOk t0
  | .loop _ _ => true
  | .br _ _ _ => true
  | .brr _ _ => true
  | .call _ _ t1 t0 => targetOk t1 && targetOk t0
  | .callr _ t1 t0 => targetOk t1 && targetOk t0
  | .ret _ => true
  | .add _ t1 t0 => targetOk t1 && targetOk t0
  | .sub _ t1 t0 => targetOk t1 && targetOk t0
  | .and _ t1 t0 => targetOk t1 && targetOk t0
  | .or _ t1 t0 => targetOk t1 && targetOk t0
  | .xor _ t1 t0 => targetOk t1 && targetOk t0
  | .andn _ t1 t0 => targetOk t1 && targetOk t0
  | .orn _ t1 t0 => targetOk t1 && targetOk t0
  | .xnor _ t1 t0 => targetOk t1 && targetOk t0
  | .shl _ t1 t0 => targetOk t1 && targetOk t0
  | .shr _ t1 t0 => targetOk t1 && targetOk t0
  | .sar _ t1 t0 => targetOk t1 && targetOk t0
  | .rol _ t1 t0 => targetOk t1 && targetOk t0
  | .ror _ t1 t0 => targetOk t1 && targetOk t0
  | .min _ t1 t0 => targetOk t1 && targetOk t0
  | .max _ t1 t0 => targetOk t1 && targetOk t0
  | .minu _ t1 t0 => targetOk t1 && targetOk t0
  | .maxu _ t1 t0 => targetOk t1 && targetOk t0
  | .addc _ t1 t0 => targetOk t1 && targetOk t0
  | .subb _ t1 t0 => targetOk t1 && targetOk t0
  | .absd _ t1 t0 => targetOk t1 && targetOk t0
  | .mul _ t1 t0 => targetOk t1 && targetOk t0
  | .mulh _ t1 t0 => targetOk t1 && targetOk t0
  | .mulhu _ t1 t0 => targetOk t1 && targetOk t0
  | .mulhsu _ t1 t0 => targetOk t1 && targetOk t0
  | .madd _ t1 t0 => targetOk t1 && targetOk t0
  | .msub _ t1 t0 => targetOk t1 && targetOk t0
  | .div _ t1 t0 => targetOk t1 && targetOk t0
  | .divu _ t1 t0 => targetOk t1 && targetOk t0
  | .rem _ t1 t0 => targetOk t1 && targetOk t0
  | .remu _ t1 t0 => targetOk t1 && targetOk t0
  | .neg _ t1 t0 => targetOk t1 && targetOk t0
  | .not _ t1 t0 => targetOk t1 && targetOk t0
  | .abs _ t1 t0 => targetOk t1 && targetOk t0
  | .clz _ t1 t0 => targetOk t1 && targetOk t0
  | .ctz _ t1 t0 => targetOk t1 && targetOk t0
  | .popc _ t1 t0 => targetOk t1 && targetOk t0
  | .brev _ t1 t0 => targetOk t1 && targetOk t0
  | .bswap _ t1 t0 => targetOk t1 && targetOk t0
  | .sextb _ t1 t0 => targetOk t1 && targetOk t0
  | .sexth _ t1 t0 => targetOk t1 && targetOk t0
  | .zextb _ t1 t0 => targetOk t1 && targetOk t0
  | .zexth _ t1 t0 => targetOk t1 && targetOk t0
  | .extr _ _ len lsb t0 => targetOk t0 && fieldRangeOk len lsb
  | .ins _ _ len lsb t0 => targetOk t0 && fieldRangeOk len lsb
  | .addi _ _ t0 => targetOk t0
  | .andi _ _ t0 => targetOk t0
  | .ori _ _ t0 => targetOk t0
  | .xori _ _ t0 => targetOk t0
  | .shli _ _ t0 => targetOk t0
  | .shri _ _ t0 => targetOk t0
  | .sari _ _ t0 => targetOk t0
  | .muli _ _ t0 => targetOk t0
  | .teq _ t1 t0 => targetOk t1 && targetOk t0
  | .tne _ t1 t0 => targetOk t1 && targetOk t0
  | .tlt _ t1 t0 => targetOk t1 && targetOk t0
  | .tle _ t1 t0 => targetOk t1 && targetOk t0
  | .tltu _ t1 t0 => targetOk t1 && targetOk t0
  | .tleu _ t1 t0 => targetOk t1 && targetOk t0
  | .tgt _ t1 t0 => targetOk t1 && targetOk t0
  | .tge _ t1 t0 => targetOk t1 && targetOk t0
  | .tgtu _ t1 t0 => targetOk t1 && targetOk t0
  | .tgeu _ t1 t0 => targetOk t1 && targetOk t0
  | .tbit _ t1 t0 => targetOk t1 && targetOk t0
  | .teqi _ _ t0 => targetOk t0
  | .tnei _ _ t0 => targetOk t0
  | .tlti _ _ t0 => targetOk t0
  | .tgei _ _ t0 => targetOk t0
  | .tltui _ _ t0 => targetOk t0
  | .tgeui _ _ t0 => targetOk t0
  | .fadd _ t1 t0 => targetOk t1 && targetOk t0
  | .fsub _ t1 t0 => targetOk t1 && targetOk t0
  | .fmul _ t1 t0 => targetOk t1 && targetOk t0
  | .fmin _ t1 t0 => targetOk t1 && targetOk t0
  | .fmax _ t1 t0 => targetOk t1 && targetOk t0
  | .fabs _ t1 t0 => targetOk t1 && targetOk t0
  | .fneg _ t1 t0 => targetOk t1 && targetOk t0
  | .fcopys _ t1 t0 => targetOk t1 && targetOk t0
  | .fma _ t1 t0 => targetOk t1 && targetOk t0
  | .fms _ t1 t0 => targetOk t1 && targetOk t0
  | .fnma _ t1 t0 => targetOk t1 && targetOk t0
  | .fnms _ t1 t0 => targetOk t1 && targetOk t0
  | .fdiv _ t1 t0 => targetOk t1 && targetOk t0
  | .fsqrt _ t1 t0 => targetOk t1 && targetOk t0
  | .frcpe _ t1 t0 => targetOk t1 && targetOk t0
  | .frsqe _ t1 t0 => targetOk t1 && targetOk t0
  | .fteq _ t1 t0 => targetOk t1 && targetOk t0
  | .ftlt _ t1 t0 => targetOk t1 && targetOk t0
  | .ftle _ t1 t0 => targetOk t1 && targetOk t0
  | .ftun _ t1 t0 => targetOk t1 && targetOk t0
  | .fclass _ t1 t0 => targetOk t1 && targetOk t0
  | .fcvt _ code t1 t0 => targetOk t1 && targetOk t0 && fcvtCodeOk code
  | .fcvts _ code t1 t0 => targetOk t1 && targetOk t0 && fcvtCodeOk code
  | .paddH _ t1 t0 => targetOk t1 && targetOk t0
  | .psubH _ t1 t0 => targetOk t1 && targetOk t0
  | .paddB _ t1 t0 => targetOk t1 && targetOk t0
  | .psubB _ t1 t0 => targetOk t1 && targetOk t0
  | .pmaxH _ t1 t0 => targetOk t1 && targetOk t0
  | .pminH _ t1 t0 => targetOk t1 && targetOk t0
  | .pdot4 _ t1 t0 => targetOk t1 && targetOk t0
  | .pdot4u _ t1 t0 => targetOk t1 && targetOk t0
  | .pdot2H _ t1 t0 => targetOk t1 && targetOk t0
  | .packH _ t1 t0 => targetOk t1 && targetOk t0
  | .packB _ t1 t0 => targetOk t1 && targetOk t0
  | .tunpk _ t1 t0 => targetOk t1 && targetOk t0
  | .tdot4 _ _ t1 t0 => targetOk t1 && targetOk t0
  | .lcdec _ t1 t0 => targetOk t1 && targetOk t0
  | .qnt _ code t1 t0 => targetOk t1 && targetOk t0 && qntTargetOk code
  | .ldw _ _ _ _ t0 => targetOk t0
  | .ldh _ _ _ _ t0 => targetOk t0
  | .ldhu _ _ _ _ t0 => targetOk t0
  | .ldb _ _ _ _ t0 => targetOk t0
  | .ldbu _ _ _ _ t0 => targetOk t0
  | .ldf _ _ _ _ t0 => targetOk t0
  | .ldx _ _ _ _ t0 => targetOk t0
  | .stw _ _ _ _ => true
  | .sth _ _ _ _ => true
  | .stb _ _ _ _ => true
  | .ste _ _ _ _ => true
  | .stf _ _ _ _ => true
  | .clre _ _ _ _ => true
  | .stm _ _ _ _ => true
  | .setwBase _ _ t1 t0 => targetOk t1 && targetOk t0
  | .setwLim _ _ t1 t0 => targetOk t1 && targetOk t0
  | .setwAttr _ _ t1 t0 => targetOk t1 && targetOk t0
  | .fenceAcq _ scope t1 t0 => targetOk t1 && targetOk t0 && fenceScopeOk scope
  | .fenceRel _ scope t1 t0 => targetOk t1 && targetOk t0 && fenceScopeOk scope
  | .fenceAr _ scope t1 t0 => targetOk t1 && targetOk t0 && fenceScopeOk scope
  | .fenceSc _ scope t1 t0 => targetOk t1 && targetOk t0 && fenceScopeOk scope
  | .amoAdd _ t1 t0 => targetOk t1 && targetOk t0
  | .amoAnd _ t1 t0 => targetOk t1 && targetOk t0
  | .amoOr _ t1 t0 => targetOk t1 && targetOk t0
  | .amoXor _ t1 t0 => targetOk t1 && targetOk t0
  | .amoMin _ t1 t0 => targetOk t1 && targetOk t0
  | .amoMax _ t1 t0 => targetOk t1 && targetOk t0
  | .amoMinu _ t1 t0 => targetOk t1 && targetOk t0
  | .amoMaxu _ t1 t0 => targetOk t1 && targetOk t0
  | .amoSwap _ t1 t0 => targetOk t1 && targetOk t0
  | .amoFadd _ t1 t0 => targetOk t1 && targetOk t0
  | .amoCas _ t1 t0 => targetOk t1 && targetOk t0
  | .lockAcq _ t1 t0 => targetOk t1 && targetOk t0
  | .lockTry _ t1 t0 => targetOk t1 && targetOk t0
  | .lockRel _ t1 t0 => targetOk t1 && targetOk t0
  | .barArrive _ t1 t0 => targetOk t1 && targetOk t0
  | .barWait _ t1 t0 => targetOk t1 && targetOk t0
  | .barArrwait _ t1 t0 => targetOk t1 && targetOk t0
  | .barInit _ t1 t0 => targetOk t1 && targetOk t0
  | .qpush _ t1 t0 => targetOk t1 && targetOk t0
  | .qpop _ t1 t0 => targetOk t1 && targetOk t0
  | .qpopt _ t1 t0 => targetOk t1 && targetOk t0
  | .qclose _ t1 t0 => targetOk t1 && targetOk t0
  | .qinit _ t1 t0 => targetOk t1 && targetOk t0
  | .wreg _ t1 t0 => targetOk t1 && targetOk t0
  | .wown _ t1 t0 => targetOk t1 && targetOk t0
  | .wrel _ t1 t0 => targetOk t1 && targetOk t0
  | .wpri _ t1 t0 => targetOk t1 && targetOk t0
  | .qbegin _ t1 t0 => targetOk t1 && targetOk t0
  | .qend _ t1 t0 => targetOk t1 && targetOk t0
  | .phase _ t1 t0 => targetOk t1 && targetOk t0
  | .mmcfg _ reg t1 t0 => targetOk t1 && targetOk t0 && mmcfgRegOk reg
  | .mmaOvw _ _ t1 t0 => targetOk t1 && targetOk t0
  | .mmaAcc _ _ t1 t0 => targetOk t1 && targetOk t0
  | .mmaGrp _ _ t1 t0 => targetOk t1 && targetOk t0
  | .mmrd _ _ t1 t0 => targetOk t1 && targetOk t0
  | .spmaOvw _ _ t1 t0 => targetOk t1 && targetOk t0
  | .spmaAcc _ _ t1 t0 => targetOk t1 && targetOk t0
  | .plctPrep _ t1 t0 => targetOk t1 && targetOk t0
  | .plctInval _ t1 t0 => targetOk t1 && targetOk t0
  | .plctQuery _ t1 t0 => targetOk t1 && targetOk t0
  | .scatAdd _ t1 t0 => targetOk t1 && targetOk t0
  | .scatFadd _ t1 t0 => targetOk t1 && targetOk t0
  | .scatMax _ t1 t0 => targetOk t1 && targetOk t0
  | .scatMin _ t1 t0 => targetOk t1 && targetOk t0
  | .scatOr _ t1 t0 => targetOk t1 && targetOk t0
  | .fibIsect _ t1 t0 => targetOk t1 && targetOk t0
  | .fibUnion _ t1 t0 => targetOk t1 && targetOk t0
  | .fibEoft _ t1 t0 => targetOk t1 && targetOk t0
  | .fibMkeof _ t1 t0 => targetOk t1 && targetOk t0
  | .fibMkcrd _ t1 t0 => targetOk t1 && targetOk t0
  | .topk _ _ t1 t0 => targetOk t1 && targetOk t0
  | .cpyLin _ t1 t0 => targetOk t1 && targetOk t0
  | .cpy2d _ t1 t0 => targetOk t1 && targetOk t0
  | .cpyGath _ t1 t0 => targetOk t1 && targetOk t0
  | .cpyScat _ t1 t0 => targetOk t1 && targetOk t0
  | .cpyFill _ t1 t0 => targetOk t1 && targetOk t0
  | .wptr _ _ t1 t0 => targetOk t1 && targetOk t0
  | .wptrW _ _ t1 t0 => targetOk t1 && targetOk t0
  | .cnv _ _ t1 t0 => targetOk t1 && targetOk t0
  | .trap _ _ => true
  | .rft _ => true
  | .csrr _ csr t0 => targetOk t0 && csrAssigned csr.toNat
  | .csrw _ csr t0 => targetOk t0 && csrAssigned csr.toNat
  | .tsc _ t1 t0 => targetOk t1 && targetOk t0
  | .bkpt _ t1 t0 => targetOk t1 && targetOk t0
  | .trace _ _ t1 t0 => targetOk t1 && targetOk t0
  | .evt _ _ t1 t0 => targetOk t1 && targetOk t0
  | .est _ t1 t0 => targetOk t1 && targetOk t0
  | .sysc _ _ t1 t0 => targetOk t1 && targetOk t0
  | .blockFetch => true
  | .tokenArrival => true
  | .spillReturn => true
  | .readySetPromote => true
  | .storeBufferPerform => true
  | .loadReply => true
  | .loadReplay => true
  | .blockCommit => true
  | .configDrain => true
  | .loopIterationStart => true
  | .iterationRetire => true
  | .messageArrival => true
  | .handlerActivationStart => true
  | .rtagen => true
  | .rtagpend => true
  | .quiescenceWave => true
  | .pelorusRound => true
  | .requestPromote => true
  | .calleeStart => true
  | .callResult => true
  | .teardown => true
  | .prePlace => true
  | .configPrefetch => true
  | .contextFetch => true
  | .fullEmptyAct => true
  | .pageWalk => true
  | .tlbInvalidate => true
  | .tlbInvalidateDone => true
  | .multicastCopy => true
  | .channelWrite => true
  | .pageReencrypt => true
  | .guardLineRead => true
  | .counterWriteback => true
  | .configStoreError => true
  | .configReloadDone => true
  | .tileSramError => true
  | .syncOperationArrival => true
  | .cycleWalkEnd => true
  | .priorityPropagate => true
  | .islandAccept => true
  | .islandCommandDone => true
  | .groupCompletion => true
  | .islandStreamToken => true
  | .cnvImageLoad => true
  | .cnvLoadDone => true
  | .cnvPortInput => true
  | .plaiterCompileDone => true
  | .scatApply => true
  | .copyCommandBegin => true
  | .copyStreamToken => true
  | .copyWritePerform => true
  | .copyComplete => true
  | .topkEmit => true
  | .peerIngressWrite => true
  | .peerWriteAck => true
  | .peerPathTimeout => true
  | .linkPortFail => true
  | .doorbell => true
  | .helmQueueMap => true
  | .helmSliceExpiry => true
  | .helmEntryStart => true
  | .launch => true
  | .copy => true
  | .wait => true
  | .signal => true
  | .cond => true
  | .helmLoop => true
  | .helmEnd => true
  | .waitSatisfied => true
  | .launchResult => true
  | .launchContinue => true
  | .trapFrameWrite => true
  | .trapHandlerStart => true
  | .replayInject => true
  | .instanceKill => true
  | .strandBoundaryStop => true
  | .checkpointCut => true
  | .contextSaveSizing => true
  | .contextSaveWrite => true
  | .contextRestore => true
  | .preemptionComplete => true
  | .guestSwitch => true
  | .create => true
  | .destroy => true
  | .grant => true
  | .reclaim => true
  | .setmin => true
  | .preempt => true
  | .resetQueue => true
  | .resetContext => true
  | .resetEngine => true
  | .resetPartition => true
  | .resetDevice => true
  | .resetEscalate => true
  | .vfstateRunning => true
  | .vfstateDescheduled => true
  | .vfstatePaused => true
  | .wincreate => true
  | .winattach => true
  | .windetach => true
  | .windestroy => true
  | .objreset => true
  | .instctlResume => true
  | .instctlKill => true
  | .migsave => true
  | .migload => true
  | .eventRecordWrite => true
  | .tsnowl => true
  | .hostApertureRead => true
  | .hostApertureWrite => true
  | .functionReset => true
  | .debugResume => true
  | .debugHalt => true
  | .debugDataRead => true
  | .histogramReadout => true
  | .traceSample => true
  | .loglineFrameWrite => true
  | .coreDump => true
  | .poisonLogClear => true
  | .clearOnRead => true
  | .csrWrite => true
  | .powerOn => true
  | .powerRefill => true
  | .thermalLimit => true
  | .thermalStep => true
  | .thermalShutdown => true
  | .powerLoss => true
  | .channelSpareSwitch => true
  | .clusterRetire => true
  | .tileSramStore => true
  | .hostMemoryWrite => true
  | .correctedError => true
  | .imageCrcError => true
  | .lineCacheError => true
  | .bridgeLoss => true
  | .moduleLimit => true
  | .stoptsl => true
  | .wpkal => true

end Sys2Proof
end

