-- ==== Sys2Proof/Decode.lean ====
section
/-! DEFINITION. Sys2Proof/Decode.lean: the decoder of instruction words (R32 to R36, R41 to R44), total on any bytes and
rejecting by name with the reason code of R43, the lowest code of a word first (R45); and the encoder, written from the
same tables. -/

namespace Sys2Proof

open Machine

/-- Why a word is not an instruction: one name for each reason code of R43 that a word alone decides, and one for bytes
that are not a whole word. -/
inductive Reject where
  | notAWord
  | zeroWord
  | unassignedOp
  | xReserved
  | targetReserved
  | mustBeZero
  | immRange
  | portNotAllowed
  deriving DecidableEq, Repr

/-- The BLOCKFMT reason code of R43. -/
def Reject.code : Reject → Nat
  | .notAWord => 0x02
  | .zeroWord => 0x03
  | .unassignedOp => 0x04
  | .xReserved => 0x05
  | .targetReserved => 0x06
  | .mustBeZero => 0x07
  | .immRange => 0x08
  | .portNotAllowed => 0x09

/-! ### The fields of a word (R32) -/

/-- OP[31:25]. -/
def opF (w : Word) : BitVec 7 := w.extractLsb' 25 7
/-- PR[24:23]. -/
def prF (w : Word) : BitVec 2 := w.extractLsb' 23 2
/-- X[22:18], also the LSID of an M-format word. -/
def xF (w : Word) : BitVec 5 := w.extractLsb' 18 5
/-- T1[17:9]. -/
def t1F (w : Word) : BitVec 9 := w.extractLsb' 9 9
/-- T0[8:0]. -/
def t0F (w : Word) : BitVec 9 := w.extractLsb' 0 9
/-- IMM14[22:9]. -/
def imm14F (w : Word) : BitVec 14 := w.extractLsb' 9 14
/-- IMM16[24:9]. -/
def imm16F (w : Word) : BitVec 16 := w.extractLsb' 9 16
/-- W[17:15]. -/
def wF (w : Word) : BitVec 3 := w.extractLsb' 15 3
/-- OFF6[14:9]. -/
def off6F (w : Word) : BitVec 6 := w.extractLsb' 9 6
/-- EXIT[22:20]. -/
def exitF (w : Word) : BitVec 3 := w.extractLsb' 20 3
/-- OFF20[19:0]. -/
def off20F (w : Word) : BitVec 20 := w.extractLsb' 0 20
/-- G[24:19]. -/
def gF (w : Word) : BitVec 6 := w.extractLsb' 19 6
/-- Bit [18] of a G-format word. -/
def bit18F (w : Word) : BitVec 1 := w.extractLsb' 18 1

/-- The target that K, the top bit of S and its low six bits name (R35); K = 00 with S not 0 is reserved. -/
def targetOf (k : BitVec 2) (hi : BitVec 1) (s : BitVec 6) : Option Target :=
  match k.toNat, hi.toNat with
  | 0, 0 => if s = 0 then some .none else none
  | 0, _ => none
  | 1, 0 => some (.queue .l s)
  | 1, _ => some (.reg s)
  | 2, 0 => some (.queue .r s)
  | 2, _ => some (.port s)
  | _, 0 => some (.queue .p s)
  | _, _ => some (.queue .c s)

/-- Decoding a 9-bit target field (R35). -/
def decTarget (f : BitVec 9) : Option Target :=
  targetOf (f.extractLsb' 7 2) (f.extractLsb' 6 1) (f.extractLsb' 0 6)

/-- Encoding a target (R35). -/
def encTarget : Target → BitVec 9
  | .none => 0#9
  | .queue .l s => 1#2 ++ 0#1 ++ s
  | .reg g => 1#2 ++ 1#1 ++ g
  | .queue .r s => 2#2 ++ 0#1 ++ s
  | .port e => 2#2 ++ 1#1 ++ e
  | .queue .p s => 3#2 ++ 0#1 ++ s
  | .queue .c s => 3#2 ++ 1#1 ++ s

/-! ### The forms of each opcode (R41) -/

/-- What a T-format word with two targets becomes once its PR and targets are read. -/
abbrev TForm := BitVec 2 → Target → Target → Instr

/-- The T-format opcodes with target fields and their X assignments (R41, R44): none is a reserved X. -/
def formT (op : Nat) (x : BitVec 5) : Option TForm :=
  match op with
  | 0x02 => ([Instr.mov, .null, .bfly, .fbfly] : List TForm)[x.toNat]?
  | 0x06 => ([Instr.steer, .steerf] : List TForm)[x.toNat]?
  | 0x07 => ([Instr.merge] : List TForm)[x.toNat]?
  | 0x08 => ([Instr.sel] : List TForm)[x.toNat]?
  | 0x0C => some fun pr t1 t0 => .call pr x t1 t0
  | 0x0D => ([Instr.callr] : List TForm)[x.toNat]?
  | 0x10 => ([Instr.add, .sub, .and, .or, .xor, .andn, .orn, .xnor, .shl, .shr, .sar, .rol, .ror, .min, .max, .minu, .maxu, .addc, .subb, .absd] : List TForm)[x.toNat]?
  | 0x11 => ([Instr.mul, .mulh, .mulhu, .mulhsu, .madd, .msub] : List TForm)[x.toNat]?
  | 0x12 => ([Instr.div, .divu, .rem, .remu] : List TForm)[x.toNat]?
  | 0x13 => ([Instr.neg, .not, .abs, .clz, .ctz, .popc, .brev, .bswap, .sextb, .sexth, .zextb, .zexth] : List TForm)[x.toNat]?
  | 0x20 => ([Instr.teq, .tne, .tlt, .tle, .tltu, .tleu, .tgt, .tge, .tgtu, .tgeu, .tbit] : List TForm)[x.toNat]?
  | 0x30 => ([Instr.fadd, .fsub, .fmul, .fmin, .fmax, .fabs, .fneg, .fcopys] : List TForm)[x.toNat]?
  | 0x31 => ([Instr.fma, .fms, .fnma, .fnms] : List TForm)[x.toNat]?
  | 0x32 => ([Instr.fdiv, .fsqrt, .frcpe, .frsqe] : List TForm)[x.toNat]?
  | 0x33 => ([Instr.fteq, .ftlt, .ftle, .ftun, .fclass] : List TForm)[x.toNat]?
  | 0x34 => if fcvtCodeOk x then some fun pr t1 t0 => .fcvt pr x t1 t0 else none
  | 0x35 => if fcvtCodeOk x then some fun pr t1 t0 => .fcvts pr x t1 t0 else none
  | 0x38 => ([Instr.paddH, .psubH, .paddB, .psubB, .pmaxH, .pminH, .pdot4, .pdot4u, .pdot2H, .packH, .packB] : List TForm)[x.toNat]?
  | 0x39 => ([Instr.tunpk] : List TForm)[x.toNat]?
  | 0x3A => if x.extractLsb' 2 3 = 0 then some fun pr t1 t0 => .tdot4 pr (x.extractLsb' 0 2) t1 t0 else none
  | 0x3B => ([Instr.lcdec] : List TForm)[x.toNat]?
  | 0x3C => if qntTargetOk x then some fun pr t1 t0 => .qnt pr x t1 t0 else none
  | 0x50 => 
    match (x.extractLsb' 3 2).toNat with
    | 0 => some fun pr t1 t0 => .setwBase pr (x.extractLsb' 0 3) t1 t0
    | 1 => some fun pr t1 t0 => .setwLim pr (x.extractLsb' 0 3) t1 t0
    | 2 => some fun pr t1 t0 => .setwAttr pr (x.extractLsb' 0 3) t1 t0
    | _ => none
  | 0x51 => 
    if fenceScopeOk (x.extractLsb' 2 3) then
      match (x.extractLsb' 0 2).toNat with
      | 0 => some fun pr t1 t0 => .fenceAcq pr (x.extractLsb' 2 3) t1 t0
      | 1 => some fun pr t1 t0 => .fenceRel pr (x.extractLsb' 2 3) t1 t0
      | 2 => some fun pr t1 t0 => .fenceAr pr (x.extractLsb' 2 3) t1 t0
      | _ => some fun pr t1 t0 => .fenceSc pr (x.extractLsb' 2 3) t1 t0
    else none
  | 0x58 => ([Instr.amoAdd, .amoAnd, .amoOr, .amoXor, .amoMin, .amoMax, .amoMinu, .amoMaxu, .amoSwap, .amoFadd, .amoCas] : List TForm)[x.toNat]?
  | 0x59 => ([Instr.lockAcq, .lockTry, .lockRel] : List TForm)[x.toNat]?
  | 0x5A => ([Instr.barArrive, .barWait, .barArrwait, .barInit] : List TForm)[x.toNat]?
  | 0x5B => ([Instr.qpush, .qpop, .qpopt, .qclose, .qinit] : List TForm)[x.toNat]?
  | 0x5C => ([Instr.wreg, .wown, .wrel, .wpri] : List TForm)[x.toNat]?
  | 0x5D => ([Instr.qbegin, .qend, .phase] : List TForm)[x.toNat]?
  | 0x60 => if x.extractLsb' 2 3 = 0 && mmcfgRegOk (x.extractLsb' 0 2) then some fun pr t1 t0 => .mmcfg pr (x.extractLsb' 0 2) t1 t0 else none
  | 0x61 => 
    if x.extractLsb' 4 1 = 0 then
      match (x.extractLsb' 0 2).toNat with
      | 0 => some fun pr t1 t0 => .mmaOvw pr (x.extractLsb' 2 2) t1 t0
      | 1 => some fun pr t1 t0 => .mmaAcc pr (x.extractLsb' 2 2) t1 t0
      | 2 => some fun pr t1 t0 => .mmaGrp pr (x.extractLsb' 2 2) t1 t0
      | _ => none
    else none
  | 0x62 => 
    if x.extractLsb' 4 1 = 0 then
      match (x.extractLsb' 0 2).toNat with
      | 0 => some fun pr t1 t0 => .mmrd pr (x.extractLsb' 2 2) t1 t0
      | _ => none
    else none
  | 0x63 => 
    if x.extractLsb' 4 1 = 0 then
      match (x.extractLsb' 0 2).toNat with
      | 0 => some fun pr t1 t0 => .spmaOvw pr (x.extractLsb' 2 2) t1 t0
      | 1 => some fun pr t1 t0 => .spmaAcc pr (x.extractLsb' 2 2) t1 t0
      | _ => none
    else none
  | 0x64 => ([Instr.plctPrep, .plctInval, .plctQuery] : List TForm)[x.toNat]?
  | 0x65 => ([Instr.scatAdd, .scatFadd, .scatMax, .scatMin, .scatOr] : List TForm)[x.toNat]?
  | 0x66 => ([Instr.fibIsect, .fibUnion, .fibEoft, .fibMkeof, .fibMkcrd] : List TForm)[x.toNat]?
  | 0x67 => some fun pr t1 t0 => .topk pr x t1 t0
  | 0x68 => ([Instr.cpyLin, .cpy2d, .cpyGath, .cpyScat, .cpyFill] : List TForm)[x.toNat]?
  | 0x69 => 
    if x.extractLsb' 4 1 = 0 then
      match (x.extractLsb' 3 1).toNat with
      | 0 => some fun pr t1 t0 => .wptr pr (x.extractLsb' 0 3) t1 t0
      | _ => some fun pr t1 t0 => .wptrW pr (x.extractLsb' 0 3) t1 t0
    else none
  | 0x6A => if x.extractLsb' 3 2 = 0 then some fun pr t1 t0 => .cnv pr (x.extractLsb' 0 3) t1 t0 else none
  | 0x74 => ([Instr.tsc] : List TForm)[x.toNat]?
  | 0x75 => ([Instr.bkpt] : List TForm)[x.toNat]?
  | 0x76 => some fun pr t1 t0 => .trace pr x t1 t0
  | 0x77 => some fun pr t1 t0 => .evt pr x t1 t0
  | 0x78 => ([Instr.est] : List TForm)[x.toNat]?
  | 0x79 => some fun pr t1 t0 => .sysc pr x t1 t0
  | _ => none

/-- The X bits that an opcode's own rule wants 0 with reason 0x07 (R268, R273, R280, R292, R310). -/
def xZeroMask (op : Nat) : BitVec 5 :=
  match op with
  | 0x61 | 0x63 | 0x69 => 0x10
  | 0x62 => 0x13
  | 0x6A => 0x18
  | _ => 0

/-- The T-format opcodes without target fields: BRR, RET, TRAP and RFT (R41). -/
def formN (op : Nat) (x : BitVec 5) : Option (BitVec 2 → Instr) :=
  match op with
  | 0x0B => if x.extractLsb' 3 2 = 0 then some fun pr => .brr pr (x.extractLsb' 0 3) else none
  | 0x0E => if x = 0 then some fun pr => .ret pr else none
  | 0x70 => some fun pr => .trap pr x
  | 0x71 => if x = 0 then some fun pr => .rft pr else none
  | _ => none

/-- The I-format opcodes (R41) and the ranges of their immediates (R44): none is an immediate out of range. -/
def formI (op : Nat) (imm : BitVec 14) : Option (BitVec 2 → Target → Instr) :=
  match op with
  | 0x14 => if imm.extractLsb' 11 3 = 0 && fieldRangeOk (imm.extractLsb' 5 5) (imm.extractLsb' 0 5) then
      some fun pr t0 => .extr pr (imm.extractLsb' 10 1) (imm.extractLsb' 5 5) (imm.extractLsb' 0 5) t0 else none
  | 0x15 => if imm.extractLsb' 11 3 = 0 && fieldRangeOk (imm.extractLsb' 5 5) (imm.extractLsb' 0 5) then
      some fun pr t0 => .ins pr (imm.extractLsb' 10 1) (imm.extractLsb' 5 5) (imm.extractLsb' 0 5) t0 else none
  | 0x18 => some fun pr t0 => .addi pr imm t0
  | 0x19 => some fun pr t0 => .andi pr imm t0
  | 0x1A => some fun pr t0 => .ori pr imm t0
  | 0x1B => some fun pr t0 => .xori pr imm t0
  | 0x1C => if imm.extractLsb' 5 9 = 0 then some fun pr t0 => .shli pr (imm.extractLsb' 0 5) t0 else none
  | 0x1D => if imm.extractLsb' 5 9 = 0 then some fun pr t0 => .shri pr (imm.extractLsb' 0 5) t0 else none
  | 0x1E => if imm.extractLsb' 5 9 = 0 then some fun pr t0 => .sari pr (imm.extractLsb' 0 5) t0 else none
  | 0x1F => some fun pr t0 => .muli pr imm t0
  | 0x22 => some fun pr t0 => .teqi pr imm t0
  | 0x23 => some fun pr t0 => .tnei pr imm t0
  | 0x24 => some fun pr t0 => .tlti pr imm t0
  | 0x25 => some fun pr t0 => .tgei pr imm t0
  | 0x26 => some fun pr t0 => .tltui pr imm t0
  | 0x27 => some fun pr t0 => .tgeui pr imm t0
  | 0x72 => if csrAssigned imm.toNat then some fun pr t0 => .csrr pr imm t0 else none
  | 0x73 => if csrAssigned imm.toNat then some fun pr t0 => .csrw pr imm t0 else none
  | _ => none

/-- The loads (R41, R134, R139). -/
def formLoad (op : Nat) : Option (BitVec 2 → BitVec 5 → BitVec 3 → BitVec 6 → Target → Instr) :=
  match op with
  | 0x40 => some .ldw
  | 0x41 => some .ldh
  | 0x42 => some .ldhu
  | 0x43 => some .ldb
  | 0x44 => some .ldbu
  | 0x45 => some .ldf
  | 0x46 => some .ldx
  | _ => none

/-- The store-class instructions (R39, R41). -/
def formStore (op : Nat) : Option (BitVec 2 → BitVec 5 → BitVec 3 → BitVec 6 → Instr) :=
  match op with
  | 0x48 => some .stw
  | 0x49 => some .sth
  | 0x4A => some .stb
  | 0x4B => some .ste
  | 0x4C => some .stf
  | 0x4D => some .clre
  | 0x4E => some .stm
  | _ => none

/-- The format that an opcode uses (R32, R41); none is an unassigned opcode (R42). -/
inductive Fmt where
  | t | n | i | k | load | store | b | g
  deriving DecidableEq, Repr

def fmtOf (op : Nat) : Option Fmt :=
  match op with
  | 0x01 => some .g
  | 0x02 | 0x06 | 0x07 | 0x08 | 0x0C | 0x0D | 0x10 | 0x11 | 0x12 | 0x13 | 0x20 | 0x30 | 0x31 | 0x32 | 0x33 | 0x34 | 0x35 | 0x38 | 0x39 | 0x3A | 0x3B | 0x3C | 0x50 | 0x51 | 0x58 | 0x59 | 0x5A | 0x5B | 0x5C | 0x5D | 0x60 | 0x61 | 0x62 | 0x63 | 0x64 | 0x65 | 0x66 | 0x67 | 0x68 | 0x69 | 0x6A | 0x74 | 0x75 | 0x76 | 0x77 | 0x78 | 0x79 => some .t
  | 0x03 | 0x04 | 0x05 => some .k
  | 0x09 | 0x0A => some .b
  | 0x0B | 0x0E | 0x70 | 0x71 => some .n
  | 0x14 | 0x15 | 0x18 | 0x19 | 0x1A | 0x1B | 0x1C | 0x1D | 0x1E | 0x1F | 0x22 | 0x23 | 0x24 | 0x25 | 0x26 | 0x27 | 0x72 | 0x73 => some .i
  | 0x40 | 0x41 | 0x42 | 0x43 | 0x44 | 0x45 | 0x46 => some .load
  | 0x48 | 0x49 | 0x4A | 0x4B | 0x4C | 0x4D | 0x4E => some .store
  | _ => none

/-- The checks on targets that stand around an instruction's other checks: a reserved target field (0x06) comes before
the immediate's range (0x08), and an edge port that no target may name (0x09) after it. -/
def withTarget (f : BitVec 9) (mk : Target → Except Reject Instr) : Except Reject Instr :=
  match decTarget f with
  | none => .error .targetReserved
  | some t =>
    match mk t with
    | .error e => .error e
    | .ok i => if targetOk t then .ok i else .error .portNotAllowed

/-- The decoding of one word (R32 to R44). -/
def decode (w : Word) : Except Reject Instr :=
  if w = 0 then .error .zeroWord else
  match fmtOf (opF w).toNat with
  | none => .error .unassignedOp
  | some .g =>
    withTarget (t1F w) fun t1 => withTarget (t0F w) fun t0 =>
      if bit18F w = 0 then .ok (.read (gF w) t1 t0) else .error .mustBeZero
  | some .t =>
    match formT (opF w).toNat (xF w) with
    | none =>
      if (formT (opF w).toNat (xF w &&& ~~~xZeroMask (opF w).toNat)).isSome then
        withTarget (t1F w) fun _ => withTarget (t0F w) fun _ => .error .mustBeZero
      else .error .xReserved
    | some mk => withTarget (t1F w) fun t1 => withTarget (t0F w) fun t0 => .ok (mk (prF w) t1 t0)
  | some .n =>
    match formN (opF w).toNat (xF w) with
    | none => .error .xReserved
    | some mk => withTarget (t1F w) fun t1 => withTarget (t0F w) fun t0 =>
        if t1 = .none && t0 = .none then .ok (mk (prF w)) else .error .mustBeZero
  | some .k =>
    withTarget (t0F w) fun t0 =>
      match (opF w).toNat with
      | 0x03 => .ok (.genc (imm16F w) t0)
      | 0x04 => .ok (.gens (imm16F w) t0)
      | _ => .ok (.genh (imm16F w) t0)
  | some .i =>
    withTarget (t0F w) fun t0 =>
      match formI (opF w).toNat (imm14F w) with
      | none => .error .immRange
      | some mk => .ok (mk (prF w) t0)
  | some .load =>
    withTarget (t0F w) fun t0 =>
      match formLoad (opF w).toNat with
      | none => .error .unassignedOp
      | some mk => .ok (mk (prF w) (xF w) (wF w) (off6F w) t0)
  | some .store =>
    withTarget (t0F w) fun t0 =>
      match formStore (opF w).toNat with
      | none => .error .unassignedOp
      | some mk => if t0 = .none then .ok (mk (prF w) (xF w) (wF w) (off6F w)) else .error .mustBeZero
  | some .b =>
    match (opF w).toNat with
    | 0x0A => .ok (.br (prF w) (exitF w) (off20F w))
    | _ => if exitF w = 0 then .ok (.loop (prF w) (off20F w)) else .error .mustBeZero

/-- Four bytes, the least significant first, as a word (R4). -/
def wordOfBytes (b0 b1 b2 b3 : Byte) : Word := b3 ++ b2 ++ b1 ++ b0

/-- Decoding the bytes at an instruction's address: the instruction and the bytes after it. -/
def decodeBytes : List Byte → Except Reject (Instr × List Byte)
  | b0 :: b1 :: b2 :: b3 :: rest =>
    match decode (wordOfBytes b0 b1 b2 b3) with
    | .ok i => .ok (i, rest)
    | .error e => .error e
  | _ => .error .notAWord

/-- The decoder on a word numbered as the opcode table numbers it. Every instruction is one 32-bit word; the rows that
have no encoding have no word. -/
def decodeTableWord (_nbits w : Nat) : Option Instr :=
  let v : Word := BitVec.ofNat 32 w
  match decodeBytes [v.extractLsb' 0 8, v.extractLsb' 8 8, v.extractLsb' 16 8, v.extractLsb' 24 8] with
  | .ok (i, _) => some i
  | .error _ => none

/-! ### The encoder -/

/-- A T-format word (R32). -/
def wordT (op : BitVec 7) (x : BitVec 5) (pr : BitVec 2) (t1 t0 : Target) : Word :=
  op ++ pr ++ x ++ encTarget t1 ++ encTarget t0
/-- An I-format word (R32). -/
def wordI (op : BitVec 7) (imm : BitVec 14) (pr : BitVec 2) (t0 : Target) : Word :=
  op ++ pr ++ imm ++ encTarget t0
/-- A K-format word (R32). -/
def wordK (op : BitVec 7) (imm : BitVec 16) (t0 : Target) : Word := op ++ imm ++ encTarget t0
/-- An M-format word (R32). -/
def wordM (op : BitVec 7) (pr : BitVec 2) (lsid : BitVec 5) (w : BitVec 3) (off : BitVec 6) (t0 : Target) : Word :=
  op ++ pr ++ lsid ++ w ++ off ++ encTarget t0
/-- A B-format word (R32). -/
def wordB (op : BitVec 7) (pr : BitVec 2) (exit : BitVec 3) (off : BitVec 20) : Word := op ++ pr ++ exit ++ off
/-- A G-format word (R32). -/
def wordG (g : BitVec 6) (t1 t0 : Target) : Word := 1#7 ++ g ++ 0#1 ++ encTarget t1 ++ encTarget t0

/-- The word of an instruction (R32 to R41); a step of the device has none. -/
def encode : Instr → Option Word
  | .read g t1 t0 => some (wordG g t1 t0)
  | .mov pr t1 t0 => some (wordT 2#7 0#5 pr t1 t0)
  | .null pr t1 t0 => some (wordT 2#7 1#5 pr t1 t0)
  | .bfly pr t1 t0 => some (wordT 2#7 2#5 pr t1 t0)
  | .fbfly pr t1 t0 => some (wordT 2#7 3#5 pr t1 t0)
  | .genc imm t0 => some (wordK 3#7 imm t0)
  | .gens imm t0 => some (wordK 4#7 imm t0)
  | .genh imm t0 => some (wordK 5#7 imm t0)
  | .steer pr t1 t0 => some (wordT 6#7 0#5 pr t1 t0)
  | .steerf pr t1 t0 => some (wordT 6#7 1#5 pr t1 t0)
  | .merge pr t1 t0 => some (wordT 7#7 0#5 pr t1 t0)
  | .sel pr t1 t0 => some (wordT 8#7 0#5 pr t1 t0)
  | .loop pr off => some (wordB 9#7 pr 0#3 off)
  | .br pr exit off => some (wordB 10#7 pr exit off)
  | .brr pr exit => some (wordT 11#7 (0#2 ++ exit) pr .none .none)
  | .call pr fn t1 t0 => some (wordT 12#7 fn pr t1 t0)
  | .callr pr t1 t0 => some (wordT 13#7 0#5 pr t1 t0)
  | .ret pr => some (wordT 14#7 0#5 pr .none .none)
  | .add pr t1 t0 => some (wordT 16#7 0#5 pr t1 t0)
  | .sub pr t1 t0 => some (wordT 16#7 1#5 pr t1 t0)
  | .and pr t1 t0 => some (wordT 16#7 2#5 pr t1 t0)
  | .or pr t1 t0 => some (wordT 16#7 3#5 pr t1 t0)
  | .xor pr t1 t0 => some (wordT 16#7 4#5 pr t1 t0)
  | .andn pr t1 t0 => some (wordT 16#7 5#5 pr t1 t0)
  | .orn pr t1 t0 => some (wordT 16#7 6#5 pr t1 t0)
  | .xnor pr t1 t0 => some (wordT 16#7 7#5 pr t1 t0)
  | .shl pr t1 t0 => some (wordT 16#7 8#5 pr t1 t0)
  | .shr pr t1 t0 => some (wordT 16#7 9#5 pr t1 t0)
  | .sar pr t1 t0 => some (wordT 16#7 10#5 pr t1 t0)
  | .rol pr t1 t0 => some (wordT 16#7 11#5 pr t1 t0)
  | .ror pr t1 t0 => some (wordT 16#7 12#5 pr t1 t0)
  | .min pr t1 t0 => some (wordT 16#7 13#5 pr t1 t0)
  | .max pr t1 t0 => some (wordT 16#7 14#5 pr t1 t0)
  | .minu pr t1 t0 => some (wordT 16#7 15#5 pr t1 t0)
  | .maxu pr t1 t0 => some (wordT 16#7 16#5 pr t1 t0)
  | .addc pr t1 t0 => some (wordT 16#7 17#5 pr t1 t0)
  | .subb pr t1 t0 => some (wordT 16#7 18#5 pr t1 t0)
  | .absd pr t1 t0 => some (wordT 16#7 19#5 pr t1 t0)
  | .mul pr t1 t0 => some (wordT 17#7 0#5 pr t1 t0)
  | .mulh pr t1 t0 => some (wordT 17#7 1#5 pr t1 t0)
  | .mulhu pr t1 t0 => some (wordT 17#7 2#5 pr t1 t0)
  | .mulhsu pr t1 t0 => some (wordT 17#7 3#5 pr t1 t0)
  | .madd pr t1 t0 => some (wordT 17#7 4#5 pr t1 t0)
  | .msub pr t1 t0 => some (wordT 17#7 5#5 pr t1 t0)
  | .div pr t1 t0 => some (wordT 18#7 0#5 pr t1 t0)
  | .divu pr t1 t0 => some (wordT 18#7 1#5 pr t1 t0)
  | .rem pr t1 t0 => some (wordT 18#7 2#5 pr t1 t0)
  | .remu pr t1 t0 => some (wordT 18#7 3#5 pr t1 t0)
  | .neg pr t1 t0 => some (wordT 19#7 0#5 pr t1 t0)
  | .not pr t1 t0 => some (wordT 19#7 1#5 pr t1 t0)
  | .abs pr t1 t0 => some (wordT 19#7 2#5 pr t1 t0)
  | .clz pr t1 t0 => some (wordT 19#7 3#5 pr t1 t0)
  | .ctz pr t1 t0 => some (wordT 19#7 4#5 pr t1 t0)
  | .popc pr t1 t0 => some (wordT 19#7 5#5 pr t1 t0)
  | .brev pr t1 t0 => some (wordT 19#7 6#5 pr t1 t0)
  | .bswap pr t1 t0 => some (wordT 19#7 7#5 pr t1 t0)
  | .sextb pr t1 t0 => some (wordT 19#7 8#5 pr t1 t0)
  | .sexth pr t1 t0 => some (wordT 19#7 9#5 pr t1 t0)
  | .zextb pr t1 t0 => some (wordT 19#7 10#5 pr t1 t0)
  | .zexth pr t1 t0 => some (wordT 19#7 11#5 pr t1 t0)
  | .extr pr sgn len lsb t0 => some (wordI 20#7 (0#3 ++ sgn ++ len ++ lsb) pr t0)
  | .ins pr sgn len lsb t0 => some (wordI 21#7 (0#3 ++ sgn ++ len ++ lsb) pr t0)
  | .addi pr imm t0 => some (wordI 24#7 imm pr t0)
  | .andi pr imm t0 => some (wordI 25#7 imm pr t0)
  | .ori pr imm t0 => some (wordI 26#7 imm pr t0)
  | .xori pr imm t0 => some (wordI 27#7 imm pr t0)
  | .shli pr sh t0 => some (wordI 28#7 (0#9 ++ sh) pr t0)
  | .shri pr sh t0 => some (wordI 29#7 (0#9 ++ sh) pr t0)
  | .sari pr sh t0 => some (wordI 30#7 (0#9 ++ sh) pr t0)
  | .muli pr imm t0 => some (wordI 31#7 imm pr t0)
  | .teq pr t1 t0 => some (wordT 32#7 0#5 pr t1 t0)
  | .tne pr t1 t0 => some (wordT 32#7 1#5 pr t1 t0)
  | .tlt pr t1 t0 => some (wordT 32#7 2#5 pr t1 t0)
  | .tle pr t1 t0 => some (wordT 32#7 3#5 pr t1 t0)
  | .tltu pr t1 t0 => some (wordT 32#7 4#5 pr t1 t0)
  | .tleu pr t1 t0 => some (wordT 32#7 5#5 pr t1 t0)
  | .tgt pr t1 t0 => some (wordT 32#7 6#5 pr t1 t0)
  | .tge pr t1 t0 => some (wordT 32#7 7#5 pr t1 t0)
  | .tgtu pr t1 t0 => some (wordT 32#7 8#5 pr t1 t0)
  | .tgeu pr t1 t0 => some (wordT 32#7 9#5 pr t1 t0)
  | .tbit pr t1 t0 => some (wordT 32#7 10#5 pr t1 t0)
  | .teqi pr imm t0 => some (wordI 34#7 imm pr t0)
  | .tnei pr imm t0 => some (wordI 35#7 imm pr t0)
  | .tlti pr imm t0 => some (wordI 36#7 imm pr t0)
  | .tgei pr imm t0 => some (wordI 37#7 imm pr t0)
  | .tltui pr imm t0 => some (wordI 38#7 imm pr t0)
  | .tgeui pr imm t0 => some (wordI 39#7 imm pr t0)
  | .fadd pr t1 t0 => some (wordT 48#7 0#5 pr t1 t0)
  | .fsub pr t1 t0 => some (wordT 48#7 1#5 pr t1 t0)
  | .fmul pr t1 t0 => some (wordT 48#7 2#5 pr t1 t0)
  | .fmin pr t1 t0 => some (wordT 48#7 3#5 pr t1 t0)
  | .fmax pr t1 t0 => some (wordT 48#7 4#5 pr t1 t0)
  | .fabs pr t1 t0 => some (wordT 48#7 5#5 pr t1 t0)
  | .fneg pr t1 t0 => some (wordT 48#7 6#5 pr t1 t0)
  | .fcopys pr t1 t0 => some (wordT 48#7 7#5 pr t1 t0)
  | .fma pr t1 t0 => some (wordT 49#7 0#5 pr t1 t0)
  | .fms pr t1 t0 => some (wordT 49#7 1#5 pr t1 t0)
  | .fnma pr t1 t0 => some (wordT 49#7 2#5 pr t1 t0)
  | .fnms pr t1 t0 => some (wordT 49#7 3#5 pr t1 t0)
  | .fdiv pr t1 t0 => some (wordT 50#7 0#5 pr t1 t0)
  | .fsqrt pr t1 t0 => some (wordT 50#7 1#5 pr t1 t0)
  | .frcpe pr t1 t0 => some (wordT 50#7 2#5 pr t1 t0)
  | .frsqe pr t1 t0 => some (wordT 50#7 3#5 pr t1 t0)
  | .fteq pr t1 t0 => some (wordT 51#7 0#5 pr t1 t0)
  | .ftlt pr t1 t0 => some (wordT 51#7 1#5 pr t1 t0)
  | .ftle pr t1 t0 => some (wordT 51#7 2#5 pr t1 t0)
  | .ftun pr t1 t0 => some (wordT 51#7 3#5 pr t1 t0)
  | .fclass pr t1 t0 => some (wordT 51#7 4#5 pr t1 t0)
  | .fcvt pr code t1 t0 => some (wordT 52#7 code pr t1 t0)
  | .fcvts pr code t1 t0 => some (wordT 53#7 code pr t1 t0)
  | .paddH pr t1 t0 => some (wordT 56#7 0#5 pr t1 t0)
  | .psubH pr t1 t0 => some (wordT 56#7 1#5 pr t1 t0)
  | .paddB pr t1 t0 => some (wordT 56#7 2#5 pr t1 t0)
  | .psubB pr t1 t0 => some (wordT 56#7 3#5 pr t1 t0)
  | .pmaxH pr t1 t0 => some (wordT 56#7 4#5 pr t1 t0)
  | .pminH pr t1 t0 => some (wordT 56#7 5#5 pr t1 t0)
  | .pdot4 pr t1 t0 => some (wordT 56#7 6#5 pr t1 t0)
  | .pdot4u pr t1 t0 => some (wordT 56#7 7#5 pr t1 t0)
  | .pdot2H pr t1 t0 => some (wordT 56#7 8#5 pr t1 t0)
  | .packH pr t1 t0 => some (wordT 56#7 9#5 pr t1 t0)
  | .packB pr t1 t0 => some (wordT 56#7 10#5 pr t1 t0)
  | .tunpk pr t1 t0 => some (wordT 57#7 0#5 pr t1 t0)
  | .tdot4 pr group t1 t0 => some (wordT 58#7 (0#3 ++ group) pr t1 t0)
  | .lcdec pr t1 t0 => some (wordT 59#7 0#5 pr t1 t0)
  | .qnt pr code t1 t0 => some (wordT 60#7 code pr t1 t0)
  | .ldw pr lsid w off t0 => some (wordM 64#7 pr lsid w off t0)
  | .ldh pr lsid w off t0 => some (wordM 65#7 pr lsid w off t0)
  | .ldhu pr lsid w off t0 => some (wordM 66#7 pr lsid w off t0)
  | .ldb pr lsid w off t0 => some (wordM 67#7 pr lsid w off t0)
  | .ldbu pr lsid w off t0 => some (wordM 68#7 pr lsid w off t0)
  | .ldf pr lsid w off t0 => some (wordM 69#7 pr lsid w off t0)
  | .ldx pr lsid w off t0 => some (wordM 70#7 pr lsid w off t0)
  | .stw pr lsid w off => some (wordM 72#7 pr lsid w off .none)
  | .sth pr lsid w off => some (wordM 73#7 pr lsid w off .none)
  | .stb pr lsid w off => some (wordM 74#7 pr lsid w off .none)
  | .ste pr lsid w off => some (wordM 75#7 pr lsid w off .none)
  | .stf pr lsid w off => some (wordM 76#7 pr lsid w off .none)
  | .clre pr lsid w off => some (wordM 77#7 pr lsid w off .none)
  | .stm pr lsid w off => some (wordM 78#7 pr lsid w off .none)
  | .setwBase pr w t1 t0 => some (wordT 80#7 (0#2 ++ w) pr t1 t0)
  | .setwLim pr w t1 t0 => some (wordT 80#7 (1#2 ++ w) pr t1 t0)
  | .setwAttr pr w t1 t0 => some (wordT 80#7 (2#2 ++ w) pr t1 t0)
  | .fenceAcq pr scope t1 t0 => some (wordT 81#7 (scope ++ 0#2) pr t1 t0)
  | .fenceRel pr scope t1 t0 => some (wordT 81#7 (scope ++ 1#2) pr t1 t0)
  | .fenceAr pr scope t1 t0 => some (wordT 81#7 (scope ++ 2#2) pr t1 t0)
  | .fenceSc pr scope t1 t0 => some (wordT 81#7 (scope ++ 3#2) pr t1 t0)
  | .amoAdd pr t1 t0 => some (wordT 88#7 0#5 pr t1 t0)
  | .amoAnd pr t1 t0 => some (wordT 88#7 1#5 pr t1 t0)
  | .amoOr pr t1 t0 => some (wordT 88#7 2#5 pr t1 t0)
  | .amoXor pr t1 t0 => some (wordT 88#7 3#5 pr t1 t0)
  | .amoMin pr t1 t0 => some (wordT 88#7 4#5 pr t1 t0)
  | .amoMax pr t1 t0 => some (wordT 88#7 5#5 pr t1 t0)
  | .amoMinu pr t1 t0 => some (wordT 88#7 6#5 pr t1 t0)
  | .amoMaxu pr t1 t0 => some (wordT 88#7 7#5 pr t1 t0)
  | .amoSwap pr t1 t0 => some (wordT 88#7 8#5 pr t1 t0)
  | .amoFadd pr t1 t0 => some (wordT 88#7 9#5 pr t1 t0)
  | .amoCas pr t1 t0 => some (wordT 88#7 10#5 pr t1 t0)
  | .lockAcq pr t1 t0 => some (wordT 89#7 0#5 pr t1 t0)
  | .lockTry pr t1 t0 => some (wordT 89#7 1#5 pr t1 t0)
  | .lockRel pr t1 t0 => some (wordT 89#7 2#5 pr t1 t0)
  | .barArrive pr t1 t0 => some (wordT 90#7 0#5 pr t1 t0)
  | .barWait pr t1 t0 => some (wordT 90#7 1#5 pr t1 t0)
  | .barArrwait pr t1 t0 => some (wordT 90#7 2#5 pr t1 t0)
  | .barInit pr t1 t0 => some (wordT 90#7 3#5 pr t1 t0)
  | .qpush pr t1 t0 => some (wordT 91#7 0#5 pr t1 t0)
  | .qpop pr t1 t0 => some (wordT 91#7 1#5 pr t1 t0)
  | .qpopt pr t1 t0 => some (wordT 91#7 2#5 pr t1 t0)
  | .qclose pr t1 t0 => some (wordT 91#7 3#5 pr t1 t0)
  | .qinit pr t1 t0 => some (wordT 91#7 4#5 pr t1 t0)
  | .wreg pr t1 t0 => some (wordT 92#7 0#5 pr t1 t0)
  | .wown pr t1 t0 => some (wordT 92#7 1#5 pr t1 t0)
  | .wrel pr t1 t0 => some (wordT 92#7 2#5 pr t1 t0)
  | .wpri pr t1 t0 => some (wordT 92#7 3#5 pr t1 t0)
  | .qbegin pr t1 t0 => some (wordT 93#7 0#5 pr t1 t0)
  | .qend pr t1 t0 => some (wordT 93#7 1#5 pr t1 t0)
  | .phase pr t1 t0 => some (wordT 93#7 2#5 pr t1 t0)
  | .mmcfg pr reg t1 t0 => some (wordT 96#7 (0#3 ++ reg) pr t1 t0)
  | .mmaOvw pr acc t1 t0 => some (wordT 97#7 (0#1 ++ acc ++ 0#2) pr t1 t0)
  | .mmaAcc pr acc t1 t0 => some (wordT 97#7 (0#1 ++ acc ++ 1#2) pr t1 t0)
  | .mmaGrp pr acc t1 t0 => some (wordT 97#7 (0#1 ++ acc ++ 2#2) pr t1 t0)
  | .mmrd pr acc t1 t0 => some (wordT 98#7 (0#1 ++ acc ++ 0#2) pr t1 t0)
  | .spmaOvw pr acc t1 t0 => some (wordT 99#7 (0#1 ++ acc ++ 0#2) pr t1 t0)
  | .spmaAcc pr acc t1 t0 => some (wordT 99#7 (0#1 ++ acc ++ 1#2) pr t1 t0)
  | .plctPrep pr t1 t0 => some (wordT 100#7 0#5 pr t1 t0)
  | .plctInval pr t1 t0 => some (wordT 100#7 1#5 pr t1 t0)
  | .plctQuery pr t1 t0 => some (wordT 100#7 2#5 pr t1 t0)
  | .scatAdd pr t1 t0 => some (wordT 101#7 0#5 pr t1 t0)
  | .scatFadd pr t1 t0 => some (wordT 101#7 1#5 pr t1 t0)
  | .scatMax pr t1 t0 => some (wordT 101#7 2#5 pr t1 t0)
  | .scatMin pr t1 t0 => some (wordT 101#7 3#5 pr t1 t0)
  | .scatOr pr t1 t0 => some (wordT 101#7 4#5 pr t1 t0)
  | .fibIsect pr t1 t0 => some (wordT 102#7 0#5 pr t1 t0)
  | .fibUnion pr t1 t0 => some (wordT 102#7 1#5 pr t1 t0)
  | .fibEoft pr t1 t0 => some (wordT 102#7 2#5 pr t1 t0)
  | .fibMkeof pr t1 t0 => some (wordT 102#7 3#5 pr t1 t0)
  | .fibMkcrd pr t1 t0 => some (wordT 102#7 4#5 pr t1 t0)
  | .topk pr k t1 t0 => some (wordT 103#7 k pr t1 t0)
  | .cpyLin pr t1 t0 => some (wordT 104#7 0#5 pr t1 t0)
  | .cpy2d pr t1 t0 => some (wordT 104#7 1#5 pr t1 t0)
  | .cpyGath pr t1 t0 => some (wordT 104#7 2#5 pr t1 t0)
  | .cpyScat pr t1 t0 => some (wordT 104#7 3#5 pr t1 t0)
  | .cpyFill pr t1 t0 => some (wordT 104#7 4#5 pr t1 t0)
  | .wptr pr ch t1 t0 => some (wordT 105#7 (0#2 ++ ch) pr t1 t0)
  | .wptrW pr ch t1 t0 => some (wordT 105#7 (1#2 ++ ch) pr t1 t0)
  | .cnv pr path t1 t0 => some (wordT 106#7 (0#2 ++ path) pr t1 t0)
  | .trap pr n => some (wordT 112#7 n pr .none .none)
  | .rft pr => some (wordT 113#7 0#5 pr .none .none)
  | .csrr pr csr t0 => some (wordI 114#7 csr pr t0)
  | .csrw pr csr t0 => some (wordI 115#7 csr pr t0)
  | .tsc pr t1 t0 => some (wordT 116#7 0#5 pr t1 t0)
  | .bkpt pr t1 t0 => some (wordT 117#7 0#5 pr t1 t0)
  | .trace pr n t1 t0 => some (wordT 118#7 n pr t1 t0)
  | .evt pr n t1 t0 => some (wordT 119#7 n pr t1 t0)
  | .est pr t1 t0 => some (wordT 120#7 0#5 pr t1 t0)
  | .sysc pr n t1 t0 => some (wordT 121#7 n pr t1 t0)
  | .blockFetch => none
  | .tokenArrival => none
  | .spillReturn => none
  | .readySetPromote => none
  | .storeBufferPerform => none
  | .loadReply => none
  | .loadReplay => none
  | .blockCommit => none
  | .configDrain => none
  | .loopIterationStart => none
  | .iterationRetire => none
  | .messageArrival => none
  | .handlerActivationStart => none
  | .rtagen => none
  | .rtagpend => none
  | .quiescenceWave => none
  | .pelorusRound => none
  | .requestPromote => none
  | .calleeStart => none
  | .callResult => none
  | .teardown => none
  | .prePlace => none
  | .configPrefetch => none
  | .contextFetch => none
  | .fullEmptyAct => none
  | .pageWalk => none
  | .tlbInvalidate => none
  | .tlbInvalidateDone => none
  | .multicastCopy => none
  | .channelWrite => none
  | .pageReencrypt => none
  | .guardLineRead => none
  | .counterWriteback => none
  | .configStoreError => none
  | .configReloadDone => none
  | .tileSramError => none
  | .syncOperationArrival => none
  | .cycleWalkEnd => none
  | .priorityPropagate => none
  | .islandAccept => none
  | .islandCommandDone => none
  | .groupCompletion => none
  | .islandStreamToken => none
  | .cnvImageLoad => none
  | .cnvLoadDone => none
  | .cnvPortInput => none
  | .plaiterCompileDone => none
  | .scatApply => none
  | .copyCommandBegin => none
  | .copyStreamToken => none
  | .copyWritePerform => none
  | .copyComplete => none
  | .topkEmit => none
  | .peerIngressWrite => none
  | .peerWriteAck => none
  | .peerPathTimeout => none
  | .linkPortFail => none
  | .doorbell => none
  | .helmQueueMap => none
  | .helmSliceExpiry => none
  | .helmEntryStart => none
  | .launch => none
  | .copy => none
  | .wait => none
  | .signal => none
  | .cond => none
  | .helmLoop => none
  | .helmEnd => none
  | .waitSatisfied => none
  | .launchResult => none
  | .launchContinue => none
  | .trapFrameWrite => none
  | .trapHandlerStart => none
  | .replayInject => none
  | .instanceKill => none
  | .strandBoundaryStop => none
  | .checkpointCut => none
  | .contextSaveSizing => none
  | .contextSaveWrite => none
  | .contextRestore => none
  | .preemptionComplete => none
  | .guestSwitch => none
  | .create => none
  | .destroy => none
  | .grant => none
  | .reclaim => none
  | .setmin => none
  | .preempt => none
  | .resetQueue => none
  | .resetContext => none
  | .resetEngine => none
  | .resetPartition => none
  | .resetDevice => none
  | .resetEscalate => none
  | .vfstateRunning => none
  | .vfstateDescheduled => none
  | .vfstatePaused => none
  | .wincreate => none
  | .winattach => none
  | .windetach => none
  | .windestroy => none
  | .objreset => none
  | .instctlResume => none
  | .instctlKill => none
  | .migsave => none
  | .migload => none
  | .eventRecordWrite => none
  | .tsnowl => none
  | .hostApertureRead => none
  | .hostApertureWrite => none
  | .functionReset => none
  | .debugResume => none
  | .debugHalt => none
  | .debugDataRead => none
  | .histogramReadout => none
  | .traceSample => none
  | .loglineFrameWrite => none
  | .coreDump => none
  | .poisonLogClear => none
  | .clearOnRead => none
  | .csrWrite => none
  | .powerOn => none
  | .powerRefill => none
  | .thermalLimit => none
  | .thermalStep => none
  | .thermalShutdown => none
  | .powerLoss => none
  | .channelSpareSwitch => none
  | .clusterRetire => none
  | .tileSramStore => none
  | .hostMemoryWrite => none
  | .correctedError => none
  | .imageCrcError => none
  | .lineCacheError => none
  | .bridgeLoss => none
  | .moduleLimit => none
  | .stoptsl => none
  | .wpkal => none

end Sys2Proof
end

