-- ==== Sys2Proof/Machine/Operands.lean ====
section
/-! DEFINITION. Sys2Proof/Machine/Operands.lean: which operand queues an instruction uses (R41), its predicate and null
behaviour (R16 to R18), and the poison a result takes from its operands (R82). -/

namespace Sys2Proof.Machine

/-! ### Which queues a word uses -/

/-- The X of a word (R32): only a T-format word, and one without targets, has the field. -/
def xOf (w : Word) : Nat :=
  match fmtOf (opF w).toNat with
  | some .t | some .n => (xF w).toNat
  | _ => 0

/-- The queues L, R and C that an opcode and X use whatever surrounds them (R41). -/
def usesOf (op x : Nat) : Bool × Bool × Bool :=
  match op with
  | 0x02 => if x ≤ 1 then (true, false, false) else (true, true, false)
  | 0x05 => (true, false, false)
  | 0x06 => if x = 0 then (true, true, false) else (true, false, false)
  | 0x07 | 0x08 | 0x31 | 0x3A => (true, true, true)
  | 0x09 | 0x0B | 0x0D | 0x13 | 0x14 => (true, false, false)
  | 0x10 => (true, true, x == 17 || x == 18)
  | 0x11 => (true, true, decide (4 ≤ x))
  | 0x12 | 0x15 | 0x20 | 0x3C => (true, true, false)
  | 0x18 | 0x19 | 0x1A | 0x1B | 0x1C | 0x1D | 0x1E | 0x1F => (true, false, false)
  | 0x22 | 0x23 | 0x24 | 0x25 | 0x26 | 0x27 => (true, false, false)
  | 0x30 => (true, !(x == 5 || x == 6), false)
  | 0x32 => (true, x == 0, false)
  | 0x33 => (true, x != 4, false)
  | 0x34 | 0x35 | 0x39 | 0x3B => (true, false, false)
  | 0x38 => (true, true, x == 6 || x == 7 || x == 8)
  | 0x40 | 0x41 | 0x42 | 0x43 | 0x44 | 0x45 | 0x46 | 0x4D => (true, false, false)
  | 0x48 | 0x49 | 0x4A | 0x4B | 0x4C | 0x4E => (true, true, false)
  | 0x50 => (true, x / 8 != 2, false)
  | 0x51 | 0x59 | 0x5C | 0x5D => (true, false, false)
  | 0x58 => (true, true, x == 10)
  | 0x5A => (true, x == 3, false)
  | 0x5B => (true, x == 0 || x == 4, false)
  | 0x60 | 0x61 | 0x63 | 0x65 | 0x67 => (true, true, false)
  | 0x62 | 0x64 | 0x68 | 0x69 | 0x6A => (true, false, false)
  | 0x66 => (true, decide (x ≤ 1), false)
  | 0x70 | 0x71 | 0x72 | 0x73 | 0x74 | 0x75 | 0x76 | 0x77 | 0x78 => (true, false, false)
  | 0x79 => (true, true, false)
  | _ => (false, false, false)

/-- Does an opcode's format carry PR (R33)? -/
def hasPr (op : Nat) : Bool := !(op == 0x01 || op == 0x03 || op == 0x04 || op == 0x05)

/-- The PR field of a word, 0 where the format has none. -/
def prOf (w : Word) : Nat := if hasPr (opF w).toNat then (prF w).toNat else 0

/-- The targets of a word: none for a format without target fields (R32). -/
def targetsOf (w : Word) : Target × Target :=
  match fmtOf (opF w).toNat with
  | some .t | some .g => ((decTarget (t0F w)).getD .none, (decTarget (t1F w)).getD .none)
  | some .i | some .k | some .load => ((decTarget (t0F w)).getD .none, .none)
  | _ => (.none, .none)

/-- Does a word send a token to a queue of a slot? -/
def sendsTo (q : Pos) (slot : Nat) (w : Word) : Bool :=
  let t := targetsOf w
  let hit : Target → Bool := fun
    | .queue q' s => q' == q && s.toNat == slot
    | _ => false
  hit t.1 || hit t.2

/-- Does some slot of a block target a queue of a slot (R127, R175)? -/
def targeted (ws : List Word) (q : Pos) (slot : Nat) : Bool := ws.any (sendsTo q slot)

/-- The KIND field of a block header (R38). -/
def hdrKind (hdr : Word) : Nat := bits hdr.toNat 25 24
/-- The NI field: the number of instructions minus 1. -/
def hdrNI (hdr : Word) : Nat := bits hdr.toNat 31 26
/-- The NW field: the number of distinct registers written. -/
def hdrNW (hdr : Word) : Nat := bits hdr.toNat 23 18
/-- The RM field: the block's rounding mode. -/
def hdrRM (hdr : Word) : Nat := bits hdr.toNat 17 16

/-- What decides the operand positions of BRR, CALL, CALLR and RET in a block (R127, R174 to R176). -/
structure SlotCtx where
  words : List Word
  arity : List Nat
  /-- declared results, 0 where RET uses no operand -/
  results : Nat
  deriving DecidableEq, Repr

/-- The queues L, R and C that the instruction in a slot uses. -/
def slotUses (cx : SlotCtx) (slot : Nat) (w : Word) : Bool × Bool × Bool :=
  let op := (opF w).toNat
  match op with
  | 0x0B => (true, targeted cx.words .r slot, false)
  | 0x0C =>
    let n := (cx.arity[slot]?).getD 0
    (decide (1 ≤ n), decide (2 ≤ n), decide (3 ≤ n))
  | 0x0D => (true, targeted cx.words .r slot, targeted cx.words .c slot)
  | 0x0E => (decide (1 ≤ cx.results), decide (2 ≤ cx.results), false)
  | _ => usesOf op (xF w).toNat

/-- Does the slot's instruction use a queue, P included (R15, R33)? -/
def usesPos (cx : SlotCtx) (slot : Nat) (w : Word) (q : Pos) : Bool :=
  let u := slotUses cx slot w
  match q with
  | .l => u.1
  | .r => u.2.1
  | .c => u.2.2
  | .p => prOf w != 0

/-- An activation's operand context: RET uses operands only in strand 0:0, outside handler blocks and handler
activations (R176). -/
def Act.ctx (a : Act) (results : Nat) : SlotCtx where
  words := a.words
  arity := a.arity
  results :=
    match a.role with
    | .main | .iter => if a.strand = 0 ∧ hdrKind a.hdr ≠ 3 then results else 0
    | _ => 0

/-- The store class (R39). -/
def isStoreClass (op : Nat) : Bool := decide (0x48 ≤ op) && decide (op ≤ 0x4E)
/-- The ordinary stores (R20). -/
def isOrdStore (op : Nat) : Bool := op == 0x48 || op == 0x49 || op == 0x4A || op == 0x4E
/-- The loads, full/empty ones included. -/
def isLoad (op : Nat) : Bool := decide (0x40 ≤ op) && decide (op ≤ 0x46)
/-- The ordinary loads (R20). -/
def isOrdLoad (op : Nat) : Bool := decide (0x40 ≤ op) && decide (op ≤ 0x44)

/-- Is an operation of an opcode and X a release (R146, R232)? -/
def releases (op x : Nat) : Bool :=
  match op with
  | 0x4B | 0x4C | 0x58 => true
  | 0x51 => x % 4 != 0
  | 0x59 => x == 2
  | 0x5A => x != 1
  | 0x5B => x == 0 || x == 3 || x == 4
  | _ => false

/-- May an operation of an opcode and X be an acquire (R146, R232)? -/
def acquires (op x : Nat) : Bool :=
  match op with
  | 0x45 | 0x46 | 0x58 => true
  | 0x51 => x % 4 != 1
  | 0x59 => x != 2
  | 0x5A | 0x5B => x == 1 || x == 2
  | 0x5D => x == 1
  | _ => false

/-- The position codes of an entry's arrivals, in the order L, R, P, C of R153. -/
def posRank : Pos → Nat
  | .l => 0
  | .r => 1
  | .p => 2
  | .c => 3

/-- The token that an entry holds in a queue. -/
def Entry.at (e : Entry) : Pos → Option Arr
  | .l => e.l
  | .r => e.r
  | .p => e.p
  | .c => e.c

/-- An entry with a token put into, or taken from, a queue. -/
def Entry.put (e : Entry) (q : Pos) (a : Option Arr) : Entry :=
  match q with
  | .l => { e with l := a }
  | .r => { e with r := a }
  | .p => { e with p := a }
  | .c => { e with c := a }

/-- Is a ready set complete (R13, R130)? MERGE needs C and the position that C selects, or a null C alone. -/
def Entry.full (e : Entry) (cx : SlotCtx) (w : Word) : Bool :=
  let u := slotUses cx e.tile w
  let pOk := prOf w == 0 || e.p.isSome
  if (opF w).toNat = 0x07 then
    match e.c with
    | none => false
    | some c => pOk && (c.tok.null || (if c.tok.val.getLsbD 0 then e.l.isSome else e.r.isSome))
  else pOk && (!u.1 || e.l.isSome) && (!u.2.1 || e.r.isSome) && (!u.2.2 || e.c.isSome)

/-! ### Predication, nulls and poison (R16 to R18, R82) -/

/-- A plain token of a value: no flag set. -/
def tokV (v : Word) : Token := ⟨v, false, false, false, false, false, 0⟩
/-- A null token without poison. -/
def tokNull : Token := ⟨0, true, false, false, false, false, 0⟩
/-- A token marked with an origin where there is one. -/
def withPoison (t : Token) (o : Option (BitVec 11)) : Token :=
  match o with
  | none => t
  | some n => { t with pois := true, origin := n }

/-- The origin of a poisoned operand. -/
def origOf : Option Token → Option (BitVec 11)
  | some t => if t.pois then some t.origin else none
  | none => none

/-- The origin of the first poisoned operand in the order L, R, C, P (R82). -/
def Cur.firstOrigin (c : Cur) : Option (BitVec 11) :=
  (((origOf c.l).orElse fun _ => origOf c.r).orElse fun _ => origOf c.c).orElse fun _ => origOf c.pt

/-- The origin of the first poisoned operand in the order L, R, P that a poisoned store reports (R85). -/
def Cur.storeOrigin (c : Cur) : Option (BitVec 11) :=
  ((origOf c.l).orElse fun _ => origOf c.r).orElse fun _ => origOf c.pt

/-- Is an operand null? -/
def isNull : Option Token → Bool
  | some t => t.null
  | none => false

/-- Does some operand of the firing, P included, carry the null flag (R17)? -/
def Cur.anyNull (c : Cur) : Bool := isNull c.l || isNull c.r || isNull c.c || isNull c.pt

/-- What PR and the operands make of a firing (R16 to R18): it executes, emits nothing, or emits nulls that carry the
given origin. -/
inductive Verdict where
  | run
  | silent
  | nulls (o : Option (BitVec 11))
  deriving DecidableEq, Repr

/-- The decision of R16 and R18 for a P token that is not null. -/
def predOf (pr : BitVec 2) (p : Option Token) : Verdict :=
  match pr.toNat, p with
  | 0, _ => .run
  | _, none => .run
  | n, some t =>
    let b := t.val.getLsbD 0
    let go := if n = 2 then !b else b
    if go then .run
    else if t.pois then .nulls (some t.origin)
    else if n = 3 then .nulls none
    else .silent

/-- The decision of R16 to R18 in the order of the firing frame of R91: a P token that is not null decides first; then a
null operand makes nulls, whatever PR holds (log 5). -/
def Cur.verdict (c : Cur) (pr : BitVec 2) : Verdict :=
  let p := if isNull c.pt then .run else predOf pr c.pt
  match p with
  | .run => if c.anyNull then .nulls c.firstOrigin else .run
  | v => v

/-- An operand's value, 0 where the position is not used. -/
def valOf : Option Token → Word
  | some t => t.val
  | none => 0

end Sys2Proof.Machine
end

