-- ==== Sys2Proof/Machine/Trace.lean ====
section
/-! DEFINITION. Sys2Proof/Machine/Trace.lean: the coding of trace records into Logline frames (R416, R417). -/

namespace Sys2Proof.Machine

/-- The fields that the dictionary of a frame holds: type, flags, source and generation, as 8 bytes (R416). -/
def TraceRec.key (r : TraceRec) : List Byte :=
  leBytes 1 r.ty ++ leBytes 1 r.flags ++ leBytes 2 r.src ++ leBytes 2 r.gen ++ leBytes 2 0

/-- Unsigned LEB128, at most k bytes. -/
def leb128 : Nat → Nat → List Byte
  | 0, _ => []
  | k + 1, n => if n < 128 then [BitVec.ofNat 8 n] else BitVec.ofNat 8 (n % 128 + 128) :: leb128 k (n / 128)

/-- The coder's state within a frame: slots with their fields and last tag, misses so far, and the last timestamp. -/
structure Coder where
  dict : List (Nat × List Byte × Tag) := []
  misses : Nat := 0
  last : Nat := 0
  deriving DecidableEq, Repr

/-- The bytes of one record and the coder after it (R417). The low bits of the first byte of a miss are 0 (log 18). -/
def Coder.put (c : Coder) (r : TraceRec) : List Byte × Coder :=
  let time := leb128 10 (r.ts - c.last)
  let pay := leBytes 4 r.w0.toNat ++ leBytes 4 r.w1.toNat
  match c.dict.find? (fun d => d.2.1 == r.key) with
  | some d =>
    let tag := if d.2.2 = r.tag then leBytes 1 0 else leBytes 1 1 ++ leBytes 8 r.tag.toNat
    (leBytes 1 (128 + d.1) ++ time ++ tag ++ pay,
      { c with last := r.ts, dict := c.dict.map (fun e => if e.1 = d.1 then (e.1, e.2.1, r.tag) else e) })
  | none =>
    let slot := c.misses % 128
    (leBytes 1 0 ++ r.key ++ time ++ leBytes 1 1 ++ leBytes 8 r.tag.toNat ++ pay,
      { dict := (slot, r.key, r.tag) :: c.dict.filter (fun e => e.1 != slot), misses := c.misses + 1, last := r.ts })

/-- The coded records of a frame. -/
def codeRecs : Coder → List TraceRec → List Byte
  | _, [] => []
  | c, r :: rs => (c.put r).1 ++ codeRecs (c.put r).2 rs

/-- The timestamp that a frame's header holds. -/
def firstTs : List TraceRec → Nat
  | [] => 0
  | r :: _ => r.ts

/-- A frame's 4 KiB (R417). -/
def frameBytes (die seq drops : Nat) (rs : List TraceRec) : List Byte :=
  let body := leBytes 4 0x464C474C ++ leBytes 4 seq ++ leBytes 4 rs.length ++ leBytes 4 drops ++ leBytes 8 (firstTs rs)
    ++ leBytes 1 die ++ List.replicate 39 0 ++ codeRecs { last := firstTs rs } rs
  body ++ List.replicate (4096 - body.length) 0

/-- Do records fit in one frame? -/
def frameFits (rs : List TraceRec) : Bool := decide (64 + (codeRecs { last := firstTs rs } rs).length ≤ 4096)

end Sys2Proof.Machine
end

