-- ==== Sys2Proof/Machine/Ops.lean ====
section
/-! DEFINITION. Sys2Proof/Machine/Ops.lean: the named operations over State that every meaning is written with: finding and
changing a partition, page, instance, activation or firing; time and the agenda; CSR words; translation and access checks;
the poison log; sending, delivering and holding tokens; completion; and taking a trap and resuming from one. -/

namespace Sys2Proof.Machine

/-- The outcome of a step of this machine. -/
abbrev Out := Host.Outcome State Fault Refusal

/-! ### Keyed lists -/

/-- The value under a key. -/
def kget {α : Type} (l : List (Nat × α)) (k : Nat) : Option α := (l.find? (fun x => x.1 == k)).map Prod.snd

/-- Setting the value under a key. -/
def kset {α : Type} : List (Nat × α) → Nat → α → List (Nat × α)
  | [], k, v => [(k, v)]
  | (x, y) :: t, k, v => if x = k then (k, v) :: t else (x, y) :: kset t k v

/-- The lowest number from k on that is not listed, among the first n. -/
def lowestFree (used : List Nat) : Nat → Nat → Option Nat
  | 0, _ => none
  | n + 1, k => if used.contains k then lowestFree used n (k + 1) else some k

/-! ### Finding and changing parts of the state -/

/-- Partition p. -/
def State.part (s : State) (p : Nat) : Part := (s.parts.find? (fun x => x.num == p)).getD { num := p }

/-- Changing partition p. -/
def State.modPart (s : State) (p : Nat) (f : Part → Part) : State :=
  { s with parts := s.parts.map (fun x => if x.num == p then f x else x) }

/-- Logical page pg of a partition. -/
def Part.page (x : Part) (pg : Nat) : Page := (x.pages.find? (fun y => y.num == pg)).getD { num := pg }

/-- Changing a page. -/
def Part.modPage (x : Part) (pg : Nat) (f : Page → Page) : Part :=
  { x with pages := x.pages.map (fun y => if y.num == pg then f y else y) }

/-- Page pg of partition p. -/
def State.page (s : State) (p pg : Nat) : Page := (s.part p).page pg

/-- Changing a page of a partition. -/
def State.modPage (s : State) (p pg : Nat) (f : Page → Page) : State := s.modPart p (fun x => x.modPage pg f)

/-- The instance with an ID, unless it has ended. -/
def Part.inst? (x : Part) (id : Nat) : Option Inst := x.insts.find? (fun i => i.id == id)

/-- The instance with an ID, or a blank one. -/
def State.inst (s : State) (p id : Nat) : Inst :=
  ((s.part p).inst? id).getD { id := id, gen := 0, status := .ended, origin := .launch 0 0 0 }

/-- Has a trap frozen an instance (R331), its record holding it or not (R360)? -/
def Inst.stopped (i : Inst) : Bool := i.status == .frozen || (i.status == .saved && i.trapRec.isSome)

/-- Is an instance's state its replay queue (R331, R340): it is frozen, or its entries are being re-injected? -/
def Inst.halted (i : Inst) : Bool := i.status == .frozen || i.inject.isSome

/-- Does an instance fire? -/
def Inst.live (i : Inst) : Bool := i.status == .running && i.inject.isNone

/-- Changing an instance. -/
def State.modInst (s : State) (p id : Nat) (f : Inst → Inst) : State :=
  s.modPart p (fun x => { x with insts := x.insts.map (fun i => if i.id == id then f i else i) })

/-- The strand with a number. -/
def Inst.strand? (i : Inst) (n : Nat) : Option Strand := i.strands.find? (fun t => t.num == n)

/-- Changing a strand. -/
def State.modStrand (s : State) (p id n : Nat) (f : Strand → Strand) : State :=
  s.modInst p id (fun i => { i with strands := i.strands.map (fun t => if t.num == n then f t else t) })

/-- The activation with a tag on a page. -/
def Page.act? (y : Page) (tag : Tag) : Option Act := y.acts.find? (fun a => a.tag == tag)

/-- Changing an activation. -/
def State.modAct (s : State) (p pg : Nat) (tag : Tag) (f : Act → Act) : State :=
  s.modPage p pg (fun y => { y with acts := y.acts.map (fun a => if a.tag == tag then f a else a) })

/-- The firing with a number on a page. -/
def Page.fire? (y : Page) (fid : Nat) : Option Fire := y.fires.find? (fun f => f.fid == fid)

/-- Changing a firing. -/
def State.modFire (s : State) (p pg fid : Nat) (g : Fire → Fire) : State :=
  s.modPage p pg (fun y => { y with fires := y.fires.map (fun f => if f.fid == fid then g f else f) })

/-- Removing a firing. -/
def State.dropFire (s : State) (p pg fid : Nat) : State :=
  s.modPage p pg (fun y => { y with fires := y.fires.filter (fun f => f.fid != fid) })

/-- The activation of the firing in progress. -/
def State.curAct (s : State) : Act :=
  ((s.page s.cur.p s.cur.pg).act? s.cur.tag).getD { tag := s.cur.tag, id := s.cur.id, strand := s.cur.strand }

/-- The instance of the firing in progress. -/
def State.curInst (s : State) : Inst := s.inst s.cur.p s.cur.id

/-! ### Tags (R149) -/

def tagId (t : Tag) : Nat := bits t.toNat 63 48
def tagGen (t : Tag) : Nat := bits t.toNat 47 45
def tagDepth (t : Tag) : Nat := bits t.toNat 44 42
/-- Iteration field Fj. -/
def tagF (t : Tag) (j : Nat) : Nat := bits t.toNat (41 - 6 * j) (36 - 6 * j)
/-- A tag with iteration field Fj set. -/
def tagSetF (t : Tag) (j v : Nat) : Tag := BitVec.ofNat 64 (setBits t.toNat (41 - 6 * j) (36 - 6 * j) v)
/-- The depth-0 tag of an instance. -/
def tagOf (id gen : Nat) : Tag := BitVec.ofNat 64 (id * 2 ^ 48 + (gen % 8) * 2 ^ 45)
/-- The tag of iteration i of a loop that the activation with tag t holds (R149). -/
def tagIter (t : Tag) (i : Nat) : Tag :=
  let d := tagDepth t
  tagSetF (BitVec.ofNat 64 (setBits t.toNat 44 42 (d + 1))) d (i % 64)
/-- The tag of a message-started handler activation for route tag t (R168). -/
def tagMsg (id gen rt : Nat) : Tag := tagSetF (tagSetF (tagOf id gen) 0 0x3F) 1 rt
/-- The tag of a trap-handler activation (R337). -/
def tagTrap (id gen : Nat) : Tag := tagSetF (tagOf id gen) 0 0x3E
/-- Does a tag name a trap-handler activation (R149)? -/
def isTrapTag (t : Tag) : Bool := tagDepth t == 0 && tagF t 0 == 0x3E
/-- The innermost iteration field of a tag masked: the fibre of a TOPK pair (R311). -/
def fibreOf (t : Tag) : Tag := if tagDepth t = 0 then t else tagSetF t (tagDepth t - 1) 0

/-- Does a tag belong to an instance? -/
def tagIs (t : Tag) (id gen : Nat) : Bool := tagId t == id && tagGen t == gen

/-! ### Time, places and the agenda -/

/-- The timestamp counter (R6, R399): 1 GHz beside an fclk of 850 MHz (R2). -/
def State.ts (s : State) : Nat := s.tsBase + s.now * 20 / 17

/-- The source number of a tile (R6): die in [15:14], logical page in [13:6] and tile in [5:0]. -/
def srcOf (pg tile : Nat) : Nat := pg * 64 + tile

/-- The part of its fclk to which a step belongs: rows and firings, then commits, then rounds of placement. -/
def Timed.phase (x : Timed) : Nat := x.rank - 1

/-- Does a timed step stand no later than another: by fclk, by the part of the fclk, by source number (R6), then rows before the firing? -/
def Timed.le (x y : Timed) : Bool :=
  decide (x.ts < y.ts) || (x.ts == y.ts && (decide (x.phase < y.phase) ||
    (x.phase == y.phase && (decide (x.src < y.src) || (x.src == y.src && decide (x.rank ≤ y.rank))))))

/-- Putting a step into the agenda, after every step that it does not precede. -/
def insTimed (t : Timed) : List Timed → List Timed
  | [] => [t]
  | x :: xs => if x.le t then x :: insTimed t xs else t :: x :: xs

/-- A row to come at an fclk, for a source. -/
def State.sched (s : State) (at' src : Nat) (i : Instr) (a : Args) : State :=
  { s with agenda := insTimed ⟨at', 0, src, .row i a⟩ s.agenda }

/-- A commit to come at an fclk: it follows the firings of its fclk, since none of the block's may be in flight (R25). -/
def State.schedCommit (s : State) (at' src : Nat) (i : Instr) (a : Args) : State :=
  { s with agenda := insTimed ⟨at', 2, src, .row i a⟩ s.agenda }

/-- A row that takes what the firings and commits of its fclk have asked for (R198). -/
def State.schedLate (s : State) (at' : Nat) (i : Instr) (a : Args) : State := { s with agenda := insTimed ⟨at', 3, 0, .row i a⟩ s.agenda }

/-- Is a row waiting among what the end of this fclk brings? -/
def State.lateNow (s : State) (i : Instr) (a : Args) : Bool := s.agenda.contains ⟨s.now, 3, 0, .row i a⟩

/-- A tile's turn to fire at an fclk, entered once. -/
def State.schedFire (s : State) (at' p pg tile : Nat) : State :=
  let t : Timed := ⟨at', 1, srcOf pg tile, .fire p pg tile⟩
  if s.agenda.contains t then s else { s with agenda := insTimed t s.agenda }

/-- Steps taken out of the agenda. -/
def State.cancel (s : State) (dead : Instr → Args → Bool) : State :=
  { s with agenda := s.agenda.filter (fun t => match t.act with
      | .row i a => !dead i a
      | .fire _ _ _ => true) }

/-- A page's entry in the partition page map (R203): physical page, column and row. -/
def Part.place? (x : Part) (pg : Nat) : Option (Nat × Nat × Nat) := kget x.map pg

/-- A page's column and row on its die's grid. -/
def Part.grid (x : Part) (pg : Nat) : Nat × Nat :=
  match x.place? pg with
  | some (_, c, r) => (c, r)
  | none => (pg % 4, (pg % 16) / 4)

/-- The number of die crossings between the dies of two pages (R204). -/
def crossings (a b : Nat) : Nat :=
  let d := a / 256
  let e := b / 256
  (if d % 2 = e % 2 then 0 else 1) + (if d / 2 = e / 2 then 0 else 1)

/-- The page-hop count between two pages (R204). -/
def Part.hops (x : Part) (a b : Nat) : Nat :=
  dist (x.grid a).1 (x.grid b).1 + dist (x.grid a).2 (x.grid b).2

/-- The page-to-page path cost of R183. -/
def Part.pageCost (x : Part) (a b : Nat) : Nat := 2 * x.hops a b + 12 * crossings a b

/-- The mesh cost between two tiles (R204): one fclk per tile hop, two where a hop crosses a page edge, twelve per die. -/
def Part.pathCost (x : Part) (a ta b tb : Nat) : Nat :=
  let xa := 8 * (x.grid a).1 + ta % 8
  let ya := 8 * (x.grid a).2 + ta / 8
  let xb := 8 * (x.grid b).1 + tb % 8
  let yb := 8 * (x.grid b).2 + tb / 8
  dist xa xb + dist ya yb + x.hops a b + 12 * crossings a b

/-! ### CSR words -/

/-- The reset word of a CSR, from its map. -/
def csrReset (n : Nat) : Word :=
  match csrDef? n with
  | none => 0
  | some d => word (d.fields.foldl (fun a f => a + f.reset * 2 ^ f.lo) 0)

/-- A CSR's word in a list of them; a CSR not listed holds its reset word. -/
def csrWord (l : List (Nat × Word)) (n : Nat) : Word := (kget l n).getD (csrReset n)

/-- A partition CSR as a number. -/
def Part.csrN (x : Part) (n : Nat) : Nat := (csrWord x.csr n).toNat

/-- A partition CSR set whole. -/
def State.setCsr (s : State) (p n : Nat) (v : Nat) : State :=
  s.modPart p (fun x => { x with csr := kset x.csr n (word v) })

/-- A field of a partition CSR set. -/
def State.setCsrF (s : State) (p n hi lo v : Nat) : State := s.setCsr p n (setBits ((s.part p).csrN n) hi lo v)

/-- A counter CSR field raised by one, saturating at its width. -/
def State.bumpCsr (s : State) (p n hi lo : Nat) : State :=
  let v := bits ((s.part p).csrN n) hi lo
  if v + 1 < 2 ^ (hi + 1 - lo) then s.setCsrF p n hi lo (v + 1) else s

/-- The 64-bit base of a low and high register pair, its low k bits ignored. -/
def Part.base64 (x : Part) (n k : Nat) : Nat := ((x.csrN (n + 1) * 2 ^ 32 + x.csrN n) >>> k) <<< k

/-- A strand's copy of a page CSR (R185). -/
def Strand.csrN (t : Strand) (n : Nat) : Nat := (csrWord t.csr n).toNat

/-! ### Events (R385, R386) -/

/-- Posting an event to a partition's virtual function: held until it is delivered, at most 256, beyond which it is
discarded and counted. -/
def State.postVf (s : State) (p ty : Nat) (pay : List Nat) : State :=
  let e : EvRec := ⟨ty, s.ts, (s.part p).pgen, pay⟩
  if (s.part p).vf.held.length < 256 then
    (s.modPart p (fun x => { x with vf := { x.vf with held := x.vf.held ++ [e] } })).sched s.now 0 .eventRecordWrite { p := p }
  else s.modPart p (fun x => { x with vf := { x.vf with evdisc := min (x.vf.evdisc + 1) 0xFFFFFFFF } })

/-- Posting an event to the management function. -/
def State.postPf (s : State) (p ty : Nat) (pay : List Nat) : State :=
  { s with pfEvents := s.pfEvents ++ [(p, ⟨ty, s.ts, (s.part p).pgen, pay⟩)] }

/-! ### Trace (R416, R417) and stops (R412) -/

/-- Is the partition's trace on? -/
def Part.tracing (x : Part) : Bool := bitAt (x.csrN 0x100) 1 && x.csrN 0x132 != 0

/-- Is the trace sink full (R417)? -/
def Part.sinkFull (x : Part) : Bool :=
  (x.csrN 0x134 + 65536 - x.csrN 0x133) % 65536 == x.csrN 0x132 % 65536

/-- Must an event that makes a record wait for the sink? -/
def Part.traceStalls (x : Part) : Bool := x.tracing && x.sinkFull && !bitAt (x.csrN 0x100) 2

/-- A record among those of its fclk, in ascending source number (R6, R417). -/
def insRec (r : TraceRec) : List TraceRec → List TraceRec
  | [] => [r]
  | x :: xs => if x.src ≤ r.src then x :: insRec r xs else r :: x :: xs

/-- A record joins those of the present fclk. -/
def TraceLog.add (l : TraceLog) (r : TraceRec) : TraceLog := { l with fresh := insRec r l.fresh }

/-- A record joins the open frame: the frame closes when the record would not fit. -/
def TraceLog.pack (l : TraceLog) (r : TraceRec) : TraceLog :=
  if frameFits (l.recs ++ [r]) then { l with recs := l.recs ++ [r] }
  else { l with recs := [r], closed := l.closed ++ [l.recs] }

/-- The records of an fclk that has ended join the open frame in their order. -/
def TraceLog.settle (l : TraceLog) : TraceLog := l.fresh.foldl TraceLog.pack { l with fresh := [] }

/-- A trace record of an element, when the trace is on. -/
def State.traceRec (s : State) (p ty src gen : Nat) (tag : Tag) (w0 w1 : Word) (spec : Bool := false) : State :=
  if !(s.part p).tracing then s
  else
    let die := src / 16384
    let r : TraceRec := { ty := ty, flags := b2n spec, src := src, gen := gen % 65536, ts := s.ts, tag := tag, w0 := w0, w1 := w1 }
    let put : List TraceLog → List TraceLog := fun ls =>
      if ls.any (fun l => l.die == die) then ls.map (fun l => if l.die == die then l.add r else l)
      else ls ++ [({ die := die } : TraceLog).add r]
    let s := s.modPart p (fun x => { x with trace := put x.trace })
    if s.lateNow .loglineFrameWrite { p := p, x := die } then s else s.schedLate s.now .loglineFrameWrite { p := p, x := die }

/-- A stop (R412): the clocks of the pages named are gated, and DBGSTAT tells of the first stopping firing of its fclk. -/
def State.stopPages (s : State) (p : Nat) (pgs : List Nat) (cause wp src : Nat) : State :=
  let x := s.part p
  let same := bits (x.csrN 0x101) 1 0 == 2 && x.base64 0x102 0 == s.ts
  let s := pgs.foldl (fun s pg => s.modPage p pg (fun y => { y with gated := true })) s
  let s :=
    if same then s.bumpCsr p 0x101 15 8
    else ((s.setCsr p 0x101 (2 + cause * 4 + wp * 64 + src * 65536)).setCsr p 0x102 (s.ts % 2 ^ 32)).setCsr p 0x103 (s.ts / 2 ^ 32)
  s.traceRec p 34 src 0 0 (word cause) (word wp)

/-- The partition's pages that lie in the physical cluster of one of them (R412). -/
def Part.clusterOf (x : Part) (pg : Nat) : List Nat :=
  let phys : Nat → Nat := fun q => ((x.place? q).map (fun z => z.1 / 16)).getD (q % 256 / 16)
  (x.pages.map Page.num).filter (fun q => q / 256 == pg / 256 && phys q == phys pg)

/-! ### Memory through the guard -/

/-- The minor counter of a line (R376). -/
def GuardPage.minor (g : GuardPage) (line : Nat) : Nat := (kget g.minors line).getD 0

/-- The counters of a 4 KiB page. -/
def State.guardPage (s : State) (pg : Nat) : GuardPage := (s.guard.find? (fun g => g.pg == pg)).getD { pg := pg }

/-- The counters of a 4 KiB page set. -/
def State.setGuard (s : State) (g : GuardPage) : State :=
  { s with guard := (if s.guard.any (fun h => h.pg == g.pg) then s.guard.map (fun h => if h.pg == g.pg then g else h)
                     else s.guard ++ [g]) }

/-- Re-encryption of a page (R379): the major counter increments and every minor becomes 0; no byte changes. -/
def State.reencrypt (s : State) (pg : Nat) : State :=
  s.setGuard { pg := pg, major := (s.guardPage pg).major + 1, minors := [] }

/-- What the re-encryption of a page meets as it reads its other lines: a major counter that would wrap, or a line whose check fails, is the event
INTEGRITY of the partition that owns the region (R379, R380). -/
def State.reencryptFail (s : State) (line : Nat) : State :=
  let pg := line / 64
  match s.parts.find? (fun x => x.regions.contains (pg / 16384)) with
  | none => s
  | some x =>
    if (s.guardPage pg).major + 1 = 2 ^ 64 then s.sched s.now 0 .guardLineRead { p := x.num, x := pg * 4096, y := 4 }
    else match s.badLines.find? (fun l => l / 64 == pg && l != line) with
      | some l => s.sched s.now 0 .guardLineRead { p := x.num, x := l * 64, y := 1 }
      | none => s

/-- A line write's count (R379): a minor counter at 127 first re-encrypts the page. -/
def State.countLine (s : State) (line : Nat) : State :=
  let pg := line / 64
  let s := if (s.guardPage pg).minor (line % 64) = 127 then (s.reencryptFail line).reencrypt pg else s
  let g := s.guardPage pg
  s.setGuard { g with minors := kset g.minors (line % 64) (g.minor (line % 64) + 1) }

/-- The counts of the lines that n bytes from a physical address touch. -/
def State.countLines (s : State) : Nat → Nat → State
  | _, 0 => s
  | line, n + 1 => (s.countLine line).countLines (line + 1) n

/-- The report of a write to the four Plaiters (R287): every entry whose 1,296 bytes overlap a written byte becomes NONE and
its GEN increments; a compile in progress for it is discarded, and what waits for it is answered (z = 2). -/
def State.plaiterMark (s : State) (hit : PlaitEnt → Bool) : State :=
  let s := (s.plait.filter (fun e => hit e && !e.waiters.isEmpty)).foldl (fun s e =>
    s.sched s.now 0 .plaiterCompileDone { p := e.part, x := e.die, y := e.pa, z := 2 }) s
  { s with plait := s.plait.map (fun e =>
      if hit e then { e with st := .none, gen := (e.gen + 1) % 65536, prog := [], wts := [] } else e) }

/-- A write of n bytes at a physical address is reported. -/
def State.plaiterNote (s : State) (pa n : Nat) : State :=
  s.plaiterMark (fun e => decide (e.pa < pa + n) && decide (pa < e.pa + 1296))

/-- The key of a physical address that a partition's page tables name: an offset of host memory counts from the base of the partition's
host range (R403). -/
def Part.tableKey (x : Part) (pa : Nat) : Nat := if bitAt pa 45 then pa + x.hostBase else pa

/-- An old entry recorded anew. -/
def addOld (l : List OldPte) (r : OldPte) : List OldPte := l.filter (fun q => q.p != r.p || q.addr != r.addr || q.old != r.old) ++ [r]

/-- The old entries after the words with the keys `ws` take their contents in memory m: a valid entry of a partition's tables that changes
may still be used (R211). -/
def State.noteOld (s : State) (m : List Host.Cell) (ws : List Nat) : List OldPte :=
  let hit := ws.filter (fun a => Pte.v (Mem.num s.mem a 8) && Mem.num m a 8 != Mem.num s.mem a 8)
  if hit.isEmpty then s.oldPtes
  else
    (s.parts.filter Part.live).foldl (fun l x =>
      let old := (l.filter (fun r => r.p == x.num)).map (fun r => (r.addr, r.old))
      (hit.filter (isEntry s.mem x.tableKey old 3 [x.tableKey x.root])).foldl (fun l a => addOld l { p := x.num, addr := a, old := Mem.num s.mem a 8 }) l)
      s.oldPtes

/-- Writing bytes at a key. A write to device DRAM passes through the memory guard (R379) and is reported to the Plaiters
(R287); it repairs a failing line that it writes whole (R380). An entry of a page table that it changes may still be used (R211). -/
def State.memWrite (s : State) (key : Nat) (bs : List Byte) : State :=
  let s := { s with oldPtes := s.noteOld (Mem.sets s.mem key bs) (wordsAt key bs.length), mem := Mem.sets s.mem key bs }
  if 2 ^ 45 ≤ key || bs.isEmpty then s
  else
    let last := (key + bs.length - 1) / 64
    let s := s.countLines (key / 64) (last + 1 - key / 64)
    let s := { s with badLines := s.badLines.filter (fun l => l * 64 < key || key + bs.length < l * 64 + 64) }
    s.plaiterNote key bs.length

/-! ### Lines whose check fails (R378, R380) -/

/-- Does a read or partial write of device DRAM meet a line whose check fails (R378, R380)? -/
def State.badAt (s : State) (key n : Nat) : Bool :=
  decide (key < 2 ^ 45) && s.badLines.any (fun l => decide (l * 64 < key + n) && decide (key < l * 64 + 64))

/-- The first byte of a piece of memory that lies in a failing line. -/
def State.badKey (s : State) (key n : Nat) : Nat :=
  (((s.badLines.filter (fun l => decide (l * 64 < key + n) && decide (key < l * 64 + 64))).map (fun l => max key (l * 64))).min?).getD key

/-- A line that fails its check at a partition's access: the guard's read of it is the next step (R378). -/
def State.badRead (s : State) (p key : Nat) : State := s.sched s.now 0 .guardLineRead { p := p, x := key / 64 * 64, y := 1 }

/-! ### Committed stores on their way (R22, R222, R224, R230) -/

/-- The agent of an activation within its instance (R220): its strand's own run, or one handler of the strand. -/
def agentOf (strand : Nat) (tag : Tag) : Nat :=
  strand + 16 * (if tagDepth tag = 0 && decide (0x3E ≤ tagF tag 0) then 1 + tagF tag 0 * 64 + tagF tag 1 else 0)

/-- A line's write at its memory (R224, R287, R379): the bytes appear together; the guard counts it and the Plaiters are told. -/
def State.lineWrite (s : State) (cells : List (Nat × Byte)) : State :=
  let m := cells.foldl (fun m c => Mem.set m c.1 c.2) s.mem
  let s := { s with oldPtes := s.noteOld m (cells.map (fun c => c.1 / 8 * 8)).eraseDups, mem := m }
  match cells with
  | [] => s
  | (k, _) :: _ =>
    if 2 ^ 45 ≤ k then s
    else
      let s := s.countLine (k / 64)
      let s := if cells.length = 64 then { s with badLines := s.badLines.filter (fun l => l != k / 64) } else s
      s.plaiterMark (fun e => cells.any (fun c => decide (e.pa ≤ c.1) && decide (c.1 < e.pa + 1296)))

/-- The posted store with a number performs. A partial write of a line whose check fails is an integrity failure (R380). -/
def State.performPosted (s : State) (p wid : Nat) : State :=
  match (s.part p).posted.find? (fun w => w.wid == wid) with
  | none => s
  | some w =>
    let key := ((w.cells.head?).map Prod.fst).getD 0
    let s := s.modPart p (fun x => { x with posted := x.posted.filter (fun v => v.wid != wid) })
    if w.cells.length < 64 && s.badAt key 1 then s.badRead p key
    else s.lineWrite w.cells

/-- The committed stores of an instance that have not yet performed do so now, in their order: they are visible at every scope before what
follows can be observed (R230). -/
def State.flush (s : State) (p id : Nat) : State :=
  ((s.part p).posted.filter (fun w => w.id == id)).foldl (fun s w => s.performPosted p w.wid) s

/-! ### Translation and access checks -/

/-- Does an open window hold a region (R370, R381)? -/
def State.windowHas (s : State) (n region : Nat) : Bool :=
  s.windows.any (fun w => w.n == n && !w.closed && w.regions.contains region)

/-- Does a partition own the region of a device address, or hold it through the window that the leaf names (R209, R370,
R381)? Host addresses must lie in the granted range (R403). -/
def State.leafOk (s : State) (x : Part) (l : Leaf) : Bool :=
  if bitAt l.pa 45 then decide (l.pa % 2 ^ 45 < x.hostLen)
  else if Pte.win l.pte then s.windowHas (Pte.wix l.pte) (l.pa >>> 26) || x.regions.contains (l.pa >>> 26)
  else x.regions.contains (l.pa >>> 26)

/-- May a table stand at the address that a pointer entry names (R206, R370, R403, log 13)? -/
def State.tableOk (s : State) (x : Part) (pa : Nat) : Bool :=
  if bitAt pa 45 then decide (pa % 2 ^ 45 < x.hostLen)
  else !paReserved pa && (x.regions.contains (pa >>> 26) || x.wins.any (fun w => s.windowHas w.1 (pa >>> 26)))

/-- What a leaf gives (R206, R209, R370, R381, R403): its physical address, a host leaf's moved by the base of the partition's host range.
A failure names the leaf's level. -/
def State.reach (s : State) (x : Part) (l : Leaf) : Except Nat Leaf :=
  if s.leafOk x l then .ok { l with pa := x.tableKey l.pa } else .error (Pte.size l.pte - 1)

/-- Reading an entry of a partition's tables. -/
def State.readPte (s : State) (x : Part) (pa : Nat) : Nat := Mem.num s.mem (x.tableKey pa) 8

/-- The translation of a partition VA by the tables as they stand (R207 to R209). A failure names the level of the failing entry. Bits [63:48]
of the VA take no part (log 13). -/
def State.walkNow (s : State) (x : Part) (va : Nat) : Except Nat Leaf :=
  match walkFrom (s.readPte x) (s.tableOk x) (x.wins.map Prod.fst) 3 x.root va with
  | .error l => .error l
  | .ok l => s.reach x l

/-- The first entry that a walk reads in a line whose check fails (R209, R380). -/
def State.walkFail (s : State) (x : Part) (va : Nat) : Option Nat :=
  if s.badLines.isEmpty then none
  else ((walkWords (s.readPte x) (s.tableOk x) 3 x.root va).map x.tableKey).find? (fun k => s.badAt k 8)

/-- The other translations that may still be used (R211). -/
def State.oldLeaves (s : State) (x : Part) (va : Nat) : List Leaf :=
  let recs := s.oldPtes.filter (fun r => r.p == x.num)
  if recs.isEmpty then []
  else
    let old (pa : Nat) : List (Nat × List Nat) := (recs.filter (fun r => r.addr == x.tableKey pa)).map (fun r => (r.old, r.dead))
    ((oldWalks (s.readPte x) (s.tableOk x) (x.wins.map Prod.fst) old 3 x.root va []).filterMap (fun l => (s.reach x l).toOption)).filter
      (fun l => (s.walkNow x va).toOption != some l)

/-- The translation of a partition VA that an access uses (R207 to R211): by the tables as they stand, or an old one whole; which, is free
(log 13). -/
def State.translate (s : State) (x : Part) (va : Nat) : Except Nat Leaf :=
  match s.oldLeaves x va with
  | [] => s.walkNow x va
  | l :: ls => match (l :: ls)[Config.oldWalk s.now s.free va]? with
    | some l => .ok l
    | none => s.walkNow x va

/-- May a partition read or write a leaf, its window permission combined (R381)? -/
def Part.mayRead (_x : Part) (l : Leaf) : Bool := Pte.r l.pte
def Part.mayWrite (x : Part) (l : Leaf) : Bool :=
  Pte.w l.pte && (!Pte.win l.pte || (kget x.wins (Pte.wix l.pte)).getD 0 == 3)

/-- The address of a structure that the device keeps in partition memory (R209): a page that is unmapped, or not pinned, is
a fault of the structure. -/
def State.devAddr (s : State) (p va : Nat) : Option Nat :=
  match s.translate (s.part p) va with
  | .ok l => if Pte.pin l.pte then some l.pa else none
  | .error _ => none

/-- Writing a structure of the device in partition memory, within one page; none where its page is unmapped, not pinned or not writable. Where
the walk meets a line whose check fails, that is the event INTEGRITY, and nothing is written (R209, R380). -/
def State.devWrite (s : State) (p va : Nat) (bs : List Byte) : Option State :=
  match s.walkFail (s.part p) va with
  | some k => some (s.badRead p k)
  | none =>
    match s.translate (s.part p) va with
    | .ok l => if Pte.pin l.pte && (s.part p).mayWrite l then some (s.memWrite l.pa bs) else none
    | .error _ => none

/-- n bytes whose contents the spec does not give. -/
def freeBytes (k : Nat) : Nat → List Byte
  | 0 => []
  | n + 1 => Config.freeByte k :: freeBytes (k + 1) n

/-- Can a structure of the device be kept at a VA (R209)? A line whose check fails shows itself only as it is accessed. -/
def State.devHolds (s : State) (p va : Nat) : Bool :=
  (s.walkFail (s.part p) va).isSome ||
    match s.translate (s.part p) va with
    | .ok l => Pte.pin l.pte && (s.part p).mayWrite l
    | .error _ => false

/-- The 32 bytes of an entry of such a structure are written, whose layout the spec does not give; none where the write faults. -/
def State.devEntry (s : State) (p va : Nat) : Option State :=
  (s.devWrite p va (freeBytes s.free 32)).map (fun t => { t with free := t.free + 32 })

/-- Reading a structure of the device in partition memory. -/
def State.devRead (s : State) (p va n : Nat) : Option Nat :=
  match s.devAddr p va with
  | some pa => some (Mem.num s.mem pa n)
  | none => none

/-- One read of a descriptor, a table or a block within a page, with R = 1 or I = 1 (R29, R61): a failure is the trap code, the
detail bits and the faulting VA, or 255 with the key of a line whose check fails (R209, R380). -/
def State.readOne (s : State) (p va n : Nat) (fetch : Bool) : Except (Nat × Nat × Nat) Nat :=
  match s.walkFail (s.part p) va with
  | some k => .error (255, 0, k)
  | none =>
    match s.translate (s.part p) va with
    | .error l => .error (0x02, l + (if fetch then 512 else 0), va)
    | .ok l =>
      if (if fetch then Pte.i l.pte else Pte.r l.pte) then
        if s.badAt l.pa n then .error (255, 0, s.badKey l.pa n) else .ok (Mem.num s.mem l.pa n)
      else .error (0x03, (if fetch then 512 else 0), va)

/-- Such a read of n bytes, which may reach into the next page. -/
def State.readVa (s : State) (p va n : Nat) (fetch : Bool) : Except (Nat × Nat × Nat) Nat :=
  let k := 65536 - va % 65536
  if n ≤ k then s.readOne p va n fetch
  else
    match s.readOne p va k fetch with
    | .error e => .error e
    | .ok lo =>
      match s.readOne p (va + k) (n - k) fetch with
      | .error e => .error e
      | .ok hi => .ok (lo + hi * 256 ^ k)

/-- The key of a fabric address (R202, R203); none where it is unmapped. -/
def Part.fabKey (x : Part) (fa : Nat) : Option Nat :=
  if bitAt fa 15 then none
  else
    match x.place? (bits fa 31 22) with
    | some (phys, _, _) => some (sramKey (bits fa 31 30) phys (bits fa 21 16) (bits fa 14 0))
    | none => none

/-- What an access does, for the checks of R132. -/
structure AccKind where
  store : Bool := false
  fe : Bool := false
  stm : Bool := false
  deriving DecidableEq, Repr

/-- The checks of R132 in their order, for an access of `size` bytes at `va` through window number `w`: the trap code and
detail of the first that fails, or the key, and the leaf entry where there is one. A walk that meets a line whose check fails
answers 255 with its key (R209, R380). -/
def State.checkAccess (s : State) (p w : Nat) (win : Win) (va size : Nat) (a : AccKind) : Except (Nat × Nat) (Nat × Nat) :=
  let x := s.part p
  let at' := win.attr.toNat
  let kind := bits at' 1 0
  let st := if a.store then 256 else 0
  let top := va + size - 1
  let far := match kind with
    | 1 | 3 => decide (0xFFFFFFFFFFFF < top)
    | 2 => decide (0xFFFFFFFF < top)
    | _ => true
  if kind = 0 || decide (win.base.toNat + win.limit.toNat < top) || decide (2 ^ 64 ≤ top) || far then
    .error (0x01, w + size * 16 + st)
  else if a.fe && kind != 2 then .error (0x0B, 0)
  else if va % size ≠ 0 then .error (0x04, size)
  else if (!a.store && !bitAt at' 2) || (a.store && !bitAt at' 3) || (a.stm && (kind != 1 || !bitAt at' 8)) then
    .error (0x03, st + (if a.stm then 1024 else 0))
  else if kind = 2 then
    match x.fabKey va with
    | none => .error (0x02, st + 1024)
    | some k => .ok (k, 0)
  else
    match s.walkFail x va with
    | some k => .error (255, k)
    | none =>
      match s.translate x va with
      | .error l => .error (0x02, l + st)
      | .ok l =>
        if (!a.store && !x.mayRead l) || (a.store && !x.mayWrite l) || (a.stm && !Pte.mc l.pte) then
          .error (0x03, st + (if a.stm then 1024 else 0))
        else .ok (l.pa, l.pte)

/-- An island when an instance no longer claims it (R261): registers and tiles at their reset values, and of the commands and
stream tokens only those of other instances. -/
def Island.released (z : Island) (id : Nat) : Island :=
  { cmds := z.cmds.filter (fun c => c.id != id), streams := z.streams.filter (fun t => tagId t.2.2 != id) }

/-! ### The poison log (R83, R84, R342) and poisoned stores (R85) -/

/-- Allocating an origin index and writing its log entry: kind, OP, X and VA as R83 lays out, timestamp and place of the
element. After index 2,046 every poisoning takes 0x7FF, whose entry holds the first timestamp and the count. -/
def State.newOrigin (s : State) (p pg tile : Nat) (tag : Tag) (gen kind op xf va : Nat) : State × BitVec 11 :=
  let x := s.part p
  let next := bits (x.csrN 0x098) 26 16
  let base := x.base64 0x096 16
  let lost (s : State) (va : Nat) : State := (s.postVf p 0x07 [va])
  if next < 0x7FF then
    let bs := leBytes 8 s.ts ++ leBytes 8 tag.toNat ++ leBytes 2 (srcOf pg tile) ++ leBytes 2 gen
      ++ leBytes 1 kind ++ leBytes 1 op ++ leBytes 1 xf ++ leBytes 1 0 ++ leBytes 8 va
    let s1 := s.setCsrF p 0x098 26 16 (next + 1)
    let s2 := match s1.devWrite p (base + 32 * next) bs with
      | some s2 => s2
      | none => lost s1 (base + 32 * next)
    (s2, BitVec.ofNat 11 next)
  else
    let n := x.plogOver + 1
    let s1 := s.modPart p (fun y => { y with plogOver := n })
    let bs := if x.plogOver = 0 then leBytes 8 s.ts ++ leBytes 8 n ++ leBytes 16 0 else leBytes 8 n
    let at' := base + 32 * 0x7FF + (if x.plogOver = 0 then 0 else 8)
    let s2 := match s1.devWrite p at' bs with
      | some s2 => s2
      | none => lost s1 at'
    (s2, 0x7FF)

/-- Reporting a poisoned store (R85, R342): the last-poisoned-store registers take its origin and VA; where it is counted,
PSCNT rises. -/
def State.reportPoison (s : State) (p : Nat) (o : BitVec 11) (va : Nat) (counted : Bool) : State :=
  let s := s.setCsr p 0x099 (o.toNat + 2 ^ 31)
  let s := (s.setCsr p 0x09A (va % 2 ^ 32)).setCsr p 0x09B (va / 2 ^ 32)
  if counted then s.bumpCsr p 0x09C 31 0 else s

/-! ### Tokens on their way -/

/-- The queue or register's tile that a token travels to; registers and ports have none. -/
def destTile (own : Nat) : Target → Nat
  | .queue _ s => s.toNat
  | _ => own

/-- The tag under which a result travels: the C queue of the own slot in a loop body belongs to the next iteration, and the
last iteration carries nothing out (R159). -/
def State.carryTag (s : State) (c : Cur) (tg : Target) : Option Tag :=
  match tg with
  | .queue .c slot =>
    let y := s.page c.p c.pg
    match y.act? c.tag with
    | none => some c.tag
    | some a =>
      if a.role = .iter && slot.toNat == c.tile then
        match (y.act? a.holder).bind (fun h => h.looping) with
        | none => some c.tag
        | some lp => if a.iter + 1 < lp.n then some (tagIter a.holder (a.iter + 1)) else none
      else some c.tag
  | _ => some c.tag

/-- Sending one result token that leaves the tile at an fclk: it reaches a queue after the hops, and a register 2 fclk after
it is available, and an edge port from its tile's row of the mesh, wherever the port lies (R5, log 11). -/
def State.send (s : State) (c : Cur) (leaves : Nat) (tg : Target) (t : Token) : State :=
  match tg with
  | .none => s
  | _ =>
    match s.carryTag c tg with
    | none => s
    | some tag =>
      let d := destTile c.tile tg
      let hop := match tg with
        | .reg _ => 2
        | .port _ => dist (c.tile % 8) 7
        | _ => (s.part c.p).pathCost c.pg c.tile c.pg d
      s.sched (leaves + hop) (srcOf c.pg d) (.tokenArrival) { p := c.p, pg := c.pg, x := c.tile, tg := tg, tag := tag, tok := t, fid := c.fid }

/-- Something of an instance has stood on a page until an fclk (R170, R173). -/
def Page.stir (y : Page) (id t : Nat) : Page := { y with stirred := kset y.stirred id (max t ((kget y.stirred id).getD 0)) }

/-- The results of the firing in progress: they leave the tile after its latency, and not before those of its earlier firings (R92). -/
def State.emit (s : State) (lat : Nat) (t0 t1 : Target) (r0 r1 : Token) : State :=
  let c := s.cur
  let t := max (s.now + lat) ((kget (s.page c.p c.pg).lastOut c.tile).getD 0)
  let s1 := (s.send c t t0 r0).send c t t1 r1
  (s1.modPage c.p c.pg (fun y => { y.stir c.id t with lastOut := kset y.lastOut c.tile t })).modFire c.p c.pg c.fid
    (fun f => { f with leaves := t, phase := .run })

/-- A firing that emits nothing. -/
def State.silent (s : State) : State :=
  s.modFire s.cur.p s.cur.pg s.cur.fid (fun f => { f with leaves := s.now, phase := .done, acted := true })

/-- The place of a firing as a cursor, with no operand. -/
def curOf (p pg : Nat) (f : Fire) : Cur :=
  { p := p, pg := pg, id := f.id, strand := f.strand, tile := f.tile, tag := f.tag, fid := f.fid, word := f.word,
    l := f.l.map Arr.tok, r := f.r.map Arr.tok, c := f.c.map Arr.tok, pt := f.p.map Arr.tok }

/-- The answer to a request of a firing: its results leave at an fclk, and its effect has happened. -/
def State.answer (s : State) (p pg fid leaves : Nat) (r0 r1 : Token) : State :=
  match (s.page p pg).fire? fid with
  | none => s
  | some f =>
    let t := targetsOf f.word
    let c := curOf p pg f
    let s := (s.send c leaves t.1 r0).send c leaves t.2 r1
    (s.modPage p pg (fun y => y.stir f.id leaves)).modFire p pg fid (fun f => { f with leaves := leaves, phase := .run, acted := true })

/-! ### Counters of a page (R415) -/

def Hist.blank (tile : Nat) : Hist := { tile := tile }

/-- Changing a tile's histogram record. -/
def Page.modHist (y : Page) (tile : Nat) (f : Hist → Hist) : Page :=
  if y.hist.any (fun h => h.tile == tile) then { y with hist := y.hist.map (fun h => if h.tile == tile then f h else h) }
  else { y with hist := y.hist ++ [f (Hist.blank tile)] }

/-- A counter that saturates at 32 bits. -/
def sat32 (n : Nat) : Nat := min (n + 1) 0xFFFFFFFF

/-- A stale token discarded and counted (R150). -/
def State.stale (s : State) (p pg tile : Nat) : State :=
  (s.modPage p pg (fun y => y.modHist tile (fun h => { h with stale := sat32 h.stale }))).bumpCsr p 0x120 31 0

/-- The TOPK lists of a configuration that goes are discarded (R311). -/
def State.dropLists (s : State) (p pg : Nat) (tag : Tag) : State :=
  s.modPage p pg (fun y => { y with topk := y.topk.filter (fun k => k.fibre != fibreOf tag) })

/-! ### Completion (R23, R25) -/

/-- Is every store LSID of the mask accounted for (R23)? -/
def Act.lsidDone (a : Act) (n : Nat) : Bool :=
  a.stores.any (fun st => st.lsid == n) || a.nulled.any (fun x => x.lsid == n) || a.feDone.contains n

/-- Do all LSIDs below k that the mask holds count as performed or nulled? -/
def Act.maskDone (a : Act) : Nat → Bool
  | 0 => true
  | k + 1 => (!a.mask.getLsbD k || a.lsidDone k) && a.maskDone k

/-- The slots from k on that must have fired or been suppressed before the block completes: LOOP and RFT (R155, R340). -/
def holdSlots : Nat → List Word → List Nat
  | _, [] => []
  | k, w :: ws => if (opF w).toNat = 0x09 || (opF w).toNat = 0x71 then k :: holdSlots (k + 1) ws else holdSlots (k + 1) ws

/-- Is an activation complete (R23, R155, R340)? -/
def Act.complete (a : Act) : Bool :=
  a.regW.length == hdrNW a.hdr && a.maskDone 32 && a.exit.isSome
    && (holdSlots 0 a.words).all (fun k => a.settled.contains k)

/-- Is a firing still waiting for its request? -/
def Fire.waits (f : Fire) : Bool :=
  match f.phase with
  | .out | .parked => true
  | _ => false

/-- May an iteration commit: it is its loop's next to retire (R156)? Other activations may at any time. -/
def Page.inTurn (y : Page) (a : Act) : Bool :=
  match a.role with
  | .iter =>
    match (y.act? a.holder).bind (fun h => h.looping) with
    | none => false
    | some lp => lp.retired == a.iter
  | _ => true

/-- Does a target name a port of the page's edge? -/
def isPort : Target → Bool
  | .port _ => true
  | _ => false

/-- The fclk after the last token of an activation on its way to a queue, a register or the exit, and the one in which the last
of its results leaves (R25, R157). -/
def State.inFlightTo (s : State) (p pg : Nat) (tag : Tag) : Nat :=
  let t := ((s.page p pg).fires.filter (fun f => f.tag == tag && f.phase != .engine)).foldl (fun m f => max m f.leaves) 0
  s.agenda.foldl (fun m x => match x.act with
    | .row .tokenArrival a => if a.p == p && a.pg == pg && a.tag == tag && !isPort a.tg then max m (x.ts + 1) else m
    | _ => m) t

/-- Is a firing of an activation, or a token of it on its way, still in flight (R25, R157)? -/
def State.inFlight (s : State) (p pg : Nat) (tag : Tag) : Bool :=
  (s.page p pg).fires.any (fun f => f.tag == tag && f.phase != .engine && f.waits)
    || decide (s.now < s.inFlightTo p pg tag)

/-- Fixing the fclk in which a complete activation with nothing in flight commits (R25). -/
def State.checkDone (s : State) (p pg : Nat) (tag : Tag) : State :=
  let y := s.page p pg
  match y.act? tag with
  | none => s
  | some a =>
    let mine := y.fires.filter (fun f => f.tag == tag && f.phase != .engine)
    let live := (s.inst p a.id).live || isTrapTag tag
    if a.trapped.isSome || a.looping.isSome || a.commitAt.isSome || !live || !a.complete || mine.any Fire.waits || !y.inTurn a then s
    else
      let t := max (s.now + 1) (s.inFlightTo p pg tag)
      (s.modAct p pg tag (fun a => { a with commitAt := some t })).schedCommit t (srcOf pg 0)
        (if a.role = .iter then .iterationRetire else .blockCommit) { p := p, pg := pg, tag := tag }

/-! ### Ready sets (R151, R153) -/

/-- The operand context of an activation on a page of a partition. -/
def State.ctxOf (s : State) (p : Nat) (a : Act) : SlotCtx := a.ctx (s.inst p a.id).results

/-- Is a READ still waiting for its previous iteration's delivery (R158)? -/
def Act.readWaits (a : Act) (w : Word) : Bool := (opF w).toNat == 0x01 && a.unres.contains (gF w).toNat

/-- Marking an entry ready when its used positions are all present, and giving its tile a turn. -/
def State.checkReady (s : State) (p pg tile : Nat) (tag : Tag) (by' : Nat) : State :=
  let y := s.page p pg
  match y.act? tag, y.ents.find? (fun e => e.tile == tile && e.tag == tag) with
  | some a, some e =>
    match a.words[tile]? with
    | none => s
    | some w =>
      if e.ready.isNone && e.full (s.ctxOf p a) w && !a.readWaits w then
        let s := s.modPage p pg (fun y => { y with ents := y.ents.map (fun e =>
          if e.tile == tile && e.tag == tag then { e with ready := some s.now, lastPos := by' } else e) })
        s.schedFire (max s.now ((kget y.nextFire tile).getD 0)) p pg tile
      else s
  | _, _ => s

/-- Giving every tile of a page with a ready set a turn now. -/
def State.wake (s : State) (p pg : Nat) : State :=
  (s.page p pg).ents.foldl (fun s e => if e.ready.isSome then s.schedFire s.now p pg e.tile else s) s

/-- Giving every page of an instance's strands a turn. -/
def State.wakeInst (s : State) (p id : Nat) : State :=
  (s.inst p id).strands.foldl (fun s t => s.wake p t.pg) s

/-! ### Program order among the live activations of a strand (R20, R160) -/

/-- The iteration numbers of an activation from the outermost loop in. -/
def Page.path (y : Page) : Nat → Act → List Nat
  | 0, _ => []
  | n + 1, a =>
    match a.role with
    | .iter =>
      match y.act? a.holder with
      | some h => y.path n h ++ [a.iter]
      | none => [a.iter]
    | _ => []

/-- Does one path stand before another in program order: a holder before its iterations, iterations in order? -/
def pathLt : List Nat → List Nat → Bool
  | [], [] => false
  | [], _ :: _ => true
  | _ :: _, [] => false
  | x :: xs, z :: zs => decide (x < z) || (x == z && pathLt xs zs)

/-- Does an activation belong to its strand's own run, outside handlers? -/
def Act.ofStrand (a : Act) : Bool :=
  match a.role with
  | .main | .iter => true
  | _ => false

/-- Does activation b stand before activation a in their strand's program order? -/
def Page.before (y : Page) (b a : Act) : Bool :=
  b.id == a.id && b.strand == a.strand && b.ofStrand && a.ofStrand && pathLt (y.path 9 b) (y.path 9 a)

/-- Has an activation an ordinary store of an LSID below n that has neither performed nor been nulled? -/
def Act.openBelow (a : Act) (n : Nat) : Bool :=
  a.words.any (fun w => isOrdStore (opF w).toNat && decide ((xF w).toNat < n) && !a.lsidDone (xF w).toNat)

/-- Does an activation hold a LOOP? -/
def Act.hasLoop (a : Act) : Bool := a.words.any (fun w => (opF w).toNat == 0x09)

/-- Does activation b stand before activation a with what it still has to do: it has not committed, or it runs a loop that a is not in? -/
def Page.ahead (y : Page) (b a : Act) : Bool :=
  y.before b a && (b.looping.isNone || !(y.path 9 b).isPrefixOf (y.path 9 a))

/-- Might activation b, which stands before another, still perform an ordinary store? -/
def Act.mayStore (b : Act) : Bool := b.looping.isSome || b.hasLoop || b.openBelow 32

/-- Might a store that stands before an ordinary load, in its own activation or an earlier one, still perform (R21)? -/
def Page.openStores (y : Page) (f : Fire) : Bool :=
  match y.act? f.tag with
  | none => false
  | some a => a.openBelow f.lsid || y.acts.any (fun b => y.ahead b a && b.mayStore)

/-! ### Withdrawing what depended on a load (R21, R134) -/

/-- Does a token come from one of the firings listed? -/
def arrOf (ss : List Nat) : Option Arr → Bool
  | some a => ss.contains a.fid
  | none => false

/-- Is a firing a READ whose register came, through the previous iteration, from one of the firings listed (R158)? -/
def Page.readOf (y : Page) (ss : List Nat) (f : Fire) : Bool :=
  (opF f.word).toNat == 0x01 &&
    (match y.act? f.tag with
     | none => false
     | some a => ((kget a.regFrom (gF f.word).toNat).getD []).any (fun n => ss.contains n))

/-- Has a firing no captured operand? -/
def Fire.bare (f : Fire) : Bool := f.l.isNone && f.r.isNone && f.p.isNone && f.c.isNone

/-- Did a firing take a token of one of the firings listed? -/
def Fire.usesOf (ss : List Nat) (f : Fire) : Bool := arrOf ss f.l || arrOf ss f.r || arrOf ss f.c || arrOf ss f.p

/-- Is a buffered store of activation b older than a load of activation a (R20, R160)? -/
def Page.olderStore (y : Page) (b : Act) (st : StoreRec) (a : Act) (lsid : Nat) : Bool :=
  if b.tag == a.tag then decide (st.lsid < lsid) else y.before b a

/-- Do the bytes of a store and of a load overlap? -/
def StoreRec.overlaps (st : StoreRec) (f : Fire) : Bool := decide (st.key < f.key + f.size) && decide (f.key < st.key + st.size)

/-- Did an ordinary load read a store that one of the firings listed made? -/
def Page.sawStore (y : Page) (ss : List Nat) (f : Fire) : Bool :=
  isOrdLoad (opF f.word).toNat &&
    (match y.act? f.tag with
     | none => false
     | some a => y.acts.any (fun b => b.stores.any (fun st => ss.contains st.fid && st.overlaps f && y.olderStore b st a f.lsid)))

/-- The firings listed and all that depended on them. -/
def Page.spread (y : Page) : Nat → List Nat → List Nat
  | 0, ss => ss
  | n + 1, ss =>
    let more := (y.fires.filter (fun f => !ss.contains f.fid && (f.usesOf ss || y.readOf ss f || y.sawStore ss f))).map Fire.fid
    if more.isEmpty then ss else y.spread n (ss ++ more)

/-- An entry without the tokens of the firings listed; none when nothing is left in it. -/
def Entry.without (ss : List Nat) (e : Entry) : Option Entry :=
  let drop (a : Option Arr) : Option Arr := if arrOf ss a then none else a
  if arrOf ss e.l || arrOf ss e.r || arrOf ss e.p || arrOf ss e.c then
    let e := { e with l := drop e.l, r := drop e.r, p := drop e.p, c := drop e.c, ready := none, promo := 0 }
    if e.l.isNone && e.r.isNone && e.p.isNone && e.c.isNone then none else some e
  else some e

/-- An activation without what the firings listed gave it. -/
def Act.without (ss : List Nat) (hit : List Fire) (a : Act) : Act :=
  let gone (k : Nat) : Bool := hit.any (fun f => f.tile == k && f.tag == a.tag)
  let bad := a.regFrom.filter (fun x => x.2.any (fun n => ss.contains n))
  { a with
    regW := a.regW.filter (fun x => !ss.contains x.2.fid)
    stores := a.stores.filter (fun x => !ss.contains x.fid)
    nulled := a.nulled.filter (fun x => !ss.contains x.fid)
    exit := a.exit.filter (fun x => !ss.contains x.fid)
    latched := a.latched.filter (fun x => !ss.contains x.2.2.2)
    settled := a.settled.filter (fun k => !gone k)
    trapped := a.trapped.filter (fun t => !gone (t.src % 64))
    rfts := a.rfts.filter (fun x => !gone x.1)
    setws := a.setws.filter (fun x => !gone x.1)
    unres := a.unres ++ bad.map Prod.fst
    regFrom := a.regFrom.filter (fun x => !bad.contains x) }

/-- The set of a tag in a matching store (R151). -/
def setOf (tag : Tag) : Nat := xorNibbles 16 tag.toNat

/-- Entries of a tile in a set. -/
def Page.inSet (y : Page) (tile : Nat) (tag : Tag) : List Entry :=
  y.ents.filter (fun e => e.tile == tile && setOf e.tag == setOf tag)

/-- The tokens of a partition in its spill table. -/
def Part.spilled (x : Part) : Nat := x.pages.foldl (fun n y => n + y.spill.length) 0

/-- The VA of the spill table's next entry. -/
def Part.spillVa (x : Part) : Nat := x.base64 0x09D 12 + 32 * x.spilled

/-- Has the spill table room for another token (R152)? A page of it that cannot be written gives no room (R209, log 62). -/
def State.spillRoom (s : State) (p : Nat) : Bool :=
  decide ((s.part p).spilled < bits ((s.part p).csrN 0x09F) 15 0 * 256) && s.devHolds p (s.part p).spillVa

/-- Entries of the spill table, or ways of the matching stores, have become free without a token's taking (R152): the pages look again at
what waits for them (z = 1). -/
def State.spillFreed (s : State) (p : Nat) : State :=
  if (s.part p).pages.any (fun y => !y.held.isEmpty || !y.spill.isEmpty) then s.sched s.now 0 .spillReturn { p := p, z := 1 } else s

/-- A token that found no way goes to the spill table (R152). -/
def State.spillTok (s : State) (p pg tile : Nat) (tag : Tag) (q : Pos) (x : Arr) : State :=
  ((s.devEntry p (s.part p).spillVa).getD s).modPage p pg (fun y => { (y.modHist tile (fun h => { h with spills := sat32 h.spills })) with
    spill := y.spill ++ [⟨tile, tag, q, x, y.spill.length, s.now⟩] })

/-- Putting a captured operand back into its queue: into its tag's entry, a free way of its set, the spill table or, with no room there,
the mesh. A slot that uses no operand is ready again. -/
def State.putBack (s : State) (p pg tile : Nat) (tag : Tag) (q : Pos) (x : Option Arr) : State :=
  let y := s.page p pg
  if y.ents.any (fun e => e.tile == tile && e.tag == tag) then
    s.modPage p pg (fun y => { y with ents := y.ents.map (fun e =>
      if e.tile == tile && e.tag == tag && x.isSome then { e.put q x with ready := none } else e) })
  else
    match x, lowestFree ((y.inSet tile tag).map Entry.way) 4 0 with
    | none, _ => s.modPage p pg (fun y => { y with ents := y.ents ++ [{ tile := tile, tag := tag, way := 4, since := s.now }] })
    | some _, some way =>
      s.modPage p pg (fun y => { y with ents := y.ents ++ [({ tile := tile, tag := tag, way := way, since := s.now } : Entry).put q x] })
    | some a, none =>
      if s.spillRoom p then s.spillTok p pg tile tag q a
      else s.modPage p pg (fun y => { y with held := ⟨.queue q (BitVec.ofNat 6 tile), tag, a⟩ :: y.held })

/-- The replay of a load withdraws its tokens and every firing that depended on them; operands that those firings took from
elsewhere go back to their queues. The load itself is outstanding again. -/
def State.withdraw (s : State) (p pg load : Nat) : State :=
  let y := s.page p pg
  let ss := y.spread (y.fires.length + 1) [load]
  let hit := y.fires.filter (fun f => ss.contains f.fid && f.fid != load)
  let dead : Instr → Args → Bool := fun i a => match i with
    | .tokenArrival | .storeBufferPerform | .loadReply => a.p == p && a.pg == pg && ss.contains a.fid
    | _ => false
  let s := (s.cancel dead).modPage p pg (fun y => { y with
    ents := y.ents.filterMap (Entry.without ss)
    spill := y.spill.filter (fun z => !ss.contains z.arr.fid)
    held := y.held.filter (fun z => !ss.contains z.arr.fid)
    acts := y.acts.map (Act.without ss hit)
    fires := (y.fires.filter (fun f => !hit.contains f)).map (fun f =>
      if f.fid == load then { f with phase := .out, acted := false } else f) })
  hit.foldl (fun s f =>
    let keep (a : Option Arr) : Option Arr := if arrOf ss a then none else a
    let put (s : State) (q : Pos) (a : Option Arr) : State :=
      if f.bare || (keep a).isSome then s.putBack p pg f.tile f.tag q (keep a) else s
    put (put (put (put s .l f.l) .r f.r) .p f.p) .c f.c) s

/-! ### Taking a trap (R331 to R339) -/

/-- The wire form of a token's flags (R148). -/
def tokFlags (t : Token) : Nat :=
  b2n t.null * 32768 + b2n t.pois * 16384 + b2n t.eof * 8192 + b2n t.scale * 4096 + b2n t.coord * 2048 + t.origin.toNat

/-- A token from its value and flags (R148). -/
def tokenOf (v : Word) (fl : Nat) : Token :=
  ⟨v, bitAt fl 15, bitAt fl 14, bitAt fl 13, bitAt fl 12, bitAt fl 11, BitVec.ofNat 11 (fl % 2048)⟩

/-- The replay entry of a token on its way to a target (R335, kind 0), or of a captured operand (kind 1). -/
def replayTok (kind strand : Nat) (tag : Tag) (tg : Target) (t : Token) : Replay :=
  { kind := kind, tag := tag, val := t.val, flags := tokFlags t, tg := (encTarget tg).toNat, strand := strand }

/-- The captured operands of a firing as kind-1 entries, L, R, P, C (R335). -/
def Fire.captured (f : Fire) : List Replay :=
  let k := BitVec.ofNat 6 f.tile
  let one : Pos → Option Arr → List Replay := fun q a => match a with
    | some a => [replayTok 1 f.strand f.tag (.queue q k) a.tok]
    | none => []
  one .l f.l ++ one .r f.r ++ one .p f.p ++ one .c f.c

/-- Is a firing unfinished at a freeze: its result has not left its tile and nothing has acted (R331)? One that used no
operand completes within the freeze window instead (log 7). -/
def Fire.unfinished (f : Fire) (now : Nat) : Bool :=
  !f.acted && !f.bare && (f.waits || f.phase == .engine || (f.phase == .run && decide (now < f.leaves)))

/-- The queued tokens of an entry as kind-0 entries. -/
def Entry.queued (strand : Nat) (e : Entry) : List Replay :=
  let k := BitVec.ofNat 6 e.tile
  let one : Pos → Option Arr → List Replay := fun q a => match a with
    | some a => [replayTok 0 strand e.tag (.queue q k) a.tok]
    | none => []
  one .l e.l ++ one .r e.r ++ one .p e.p ++ one .c e.c

/-- The slot of a target for the order of R335: register targets after every slot. -/
def targetKey (tg : Nat) : Nat :=
  match decTarget (BitVec.ofNat 9 tg) with
  | some (.queue q s) => s.toNat * 4 + posRank q
  | some (.reg g) => 256 + g.toNat
  | _ => 512

/-- Insertion into a list kept in rising order of a key. -/
def insKey {α : Type} (key : α → Nat) (a : α) : List α → List α
  | [] => [a]
  | x :: xs => if key x ≤ key a then x :: insKey key a xs else a :: x :: xs

/-- A list in rising order of a key, equal keys in their given order. -/
def sortKey {α : Type} (key : α → Nat) (l : List α) : List α := l.foldl (fun acc a => insKey key a acc) []

/-- The held effects of an activation (R335): register deliveries as queued tokens, then stores and nulled LSIDs by LSID,
then the exit. -/
def Act.heldTok (a : Act) : List Replay :=
  a.regW.map (fun x => replayTok 0 a.strand a.tag (.reg (BitVec.ofNat 6 x.1)) x.2.tok)

def StoreRec.log2 (st : StoreRec) : Nat := if st.size = 4 then 2 else if st.size = 2 then 1 else 0

def Act.heldStores (a : Act) : List Replay :=
  let ss := a.stores.map (fun st => (st.lsid,
    [({ kind := 2, tag := a.tag, val := st.data, flags := (if st.pois then 16384 + st.origin.toNat else 0),
        tg := st.slot, strand := a.strand } : Replay),
     { kind := 3, tag := BitVec.ofNat 64 st.va, val := word (st.lsid + 32 * st.log2), strand := a.strand }]))
  let ns := a.nulled.map (fun n => (n.lsid,
    [({ kind := 2, tag := a.tag, val := 0, tg := n.slot, strand := a.strand,
        flags := 32768 + (match n.origin with
          | some o => 16384 + o.toNat
          | none => 0) } : Replay),
     { kind := 3, tag := 0, val := word n.lsid, strand := a.strand }]))
  (sortKey Prod.fst (ss ++ ns)).flatMap Prod.snd

/-- A held exit and its extension (R335). -/
def exitReplay (strand : Nat) (tag : Tag) (e : ExitRec) : List Replay :=
  [{ kind := 4, tag := tag, val := word e.num, tg := e.slot, strand := strand },
   { kind := 3, tag := BitVec.ofNat 64 e.addr, val := 0, strand := strand }]

def Act.heldExit (a : Act) : List Replay :=
  match a.exit with
  | none => []
  | some e => exitReplay a.strand a.tag e

/-- The numbers of an exit token on its way (R126): next block, exit number, slot, and whether it is a RET's. -/
def exitNums (e : ExitRec) : List Nat := [e.addr, e.num, e.slot, b2n e.ret]

/-- The exit token of an arrival, where it is one. -/
def exitOf (a : Args) : Option ExitRec :=
  match a.tg, a.l with
  | .none, [addr, num, slot, r] => some { addr := addr, num := num, slot := slot, fid := a.fid, ret := r == 1 }
  | _, _ => none

/-- The armed READs of an activation as kind-5 entries (R335). -/
def Act.heldReads (a : Act) : Nat → List Word → List Replay
  | _, [] => []
  | k, w :: ws =>
    if a.readWaits w then { kind := 5, tag := a.tag, val := 0, tg := k, strand := a.strand } :: a.heldReads (k + 1) ws
    else a.heldReads (k + 1) ws

/-- Tokens of an agenda that travel to a page under an instance's tags, trap handler's apart. -/
def travelling (p pg id gen : Nat) (t : Timed) : Option (Target × Tag × Token × Nat) :=
  match t.act with
  | .row .tokenArrival a =>
    if a.p = p && a.pg = pg && tagIs a.tag id gen && !isTrapTag a.tag && (exitOf a).isNone then some (a.tg, a.tag, a.tok, a.fid)
    else none
  | _ => none

/-- Exit tokens of an agenda on their way to an activation, of firings with no captured operand (R331). -/
def exitsOnWay (p pg : Nat) (tag : Tag) (keep : Nat → Bool) (t : Timed) : Option ExitRec :=
  match t.act with
  | .row .tokenArrival a => if a.p = p && a.pg = pg && a.tag == tag && keep a.fid then exitOf a else none
  | _ => none

/-- Placing an activation among the others of a page, in program order (R335). -/
def Page.insAct (y : Page) (a : Act) : List Act → List Act
  | [] => [a]
  | b :: bs => if y.before a b then a :: b :: bs else b :: y.insAct a bs

/-- The iterations of running loops that are yet to start (R159), as activations without words. -/
def Page.toCome (y : Page) : List Act :=
  y.acts.filterMap (fun h => match h.looping with
    | some lp => if lp.next < lp.n then
        some { tag := tagIter h.tag lp.next, id := h.id, strand := h.strand, role := .iter, holder := h.tag, iter := lp.next } else none
    | none => none)

/-- The replay entries of one strand's page at a freeze, in the order of R335, those of an iteration yet to start in its place; a running loop is its LOOP's latched count (R394). -/
def State.gather (s : State) (p id gen : Nat) (st : Strand) : List Replay :=
  let y := s.page p st.pg
  let mine : Tag → Bool := fun t => tagIs t id gen && !isTrapTag t
  let dead := y.fires.filter (fun f => mine f.tag && f.unfinished s.now)
  let onWay := (s.agenda.filterMap (travelling p st.pg id gen)).filter (fun x => !dead.any (fun f => f.fid == x.2.2.2))
  let latched := y.acts.flatMap (fun a => if !mine a.tag then [] else
    (match a.latched with
      | some (_, _, _, fid) => y.fires.filter (fun f => f.fid == fid)
      | none => []) ++ a.rfts.flatMap (fun r => y.fires.filter (fun f => f.tile == r.1 && f.tag == a.tag)))
  let toks := (y.ents.filter (fun e => mine e.tag)).flatMap (Entry.queued st.num)
    ++ (y.spill.filter (fun z => mine z.tag)).map (fun z => replayTok 0 st.num z.tag (.queue z.pos (BitVec.ofNat 6 z.tile)) z.arr.tok)
    ++ (y.held.filter (fun z => mine z.tag)).map (fun z => replayTok 0 st.num z.tag z.tg z.arr.tok)
    ++ onWay.map (fun x => replayTok 0 st.num x.2.1 x.1 x.2.2.1)
    ++ (dead ++ latched).flatMap Fire.captured
    ++ (y.acts.filter (fun a => mine a.tag)).flatMap (fun a => a.heldTok ++ a.heldReads 0 a.words)
  let acts := (y.toCome.foldl (fun l a => if l.any (fun b => b.tag == a.tag) then l else y.insAct a l) y.acts).filter (fun a => mine a.tag)
  let loops (a : Act) : List Replay := (a.looping.map (fun lp =>
    replayTok 1 st.num a.tag (.queue .l (BitVec.ofNat 6 lp.slot)) (tokV (word lp.n)))).toList
  let of (t : Tag) : List Replay := sortKey (fun r => targetKey r.tg) (toks.filter (fun r => r.tag == t))
  let known := acts.map Act.tag
  let bare : Nat → Bool := fun n => !dead.any (fun f => f.fid == n)
  acts.flatMap (fun a => if a.looping.isSome then loops a else of a.tag ++ a.heldStores ++ a.heldExit
      ++ (s.agenda.filterMap (exitsOnWay p st.pg a.tag bare)).flatMap (exitReplay st.num a.tag))
    ++ sortKey (fun r => targetKey r.tg) (toks.filter (fun r => !known.contains r.tag))

/-- A page after the tokens and unfinished firings of an instance have been taken from it (R331). Activations stay as shells;
slots that use no operand and have not fired stay ready. -/
def Page.freeze (y : Page) (id gen now : Nat) : Page :=
  let mine : Tag → Bool := fun t => tagIs t id gen && !isTrapTag t
  { y with
    ents := y.ents.filter (fun e => !mine e.tag || (e.l.isNone && e.r.isNone && e.p.isNone && e.c.isNone && e.ready.isSome))
    spill := y.spill.filter (fun z => !mine z.tag)
    held := y.held.filter (fun z => !mine z.tag)
    fires := (y.fires.filter (fun f => !(mine f.tag && ((opF f.word).toNat == 0x09 || (opF f.word).toNat == 0x71 ||
      (f.unfinished now && !(f.phase == .engine && (y.act? f.tag).isNone)))))).map
      (fun f => if mine f.tag && f.unfinished now then { f with phase := .stopped, l := none, r := none, p := none, c := none } else f)
    acts := y.acts.map (fun a => if !mine a.tag then a else if a.looping.isSome then
      { a with looping := a.looping.map (fun lp => { lp with stopped := true }) } else
      { a with
        settled := a.settled.filter (fun k => !(a.rfts.any (fun r => r.1 == k)) &&
          (match a.latched with
            | some (_, _, k', _) => k != k'
            | none => true))
        regW := [], stores := [], nulled := [], exit := none, latched := none, rfts := [], trapped := none
        armed := []
        unres := []
        commitAt := none }) }

/-- Withdrawing every load that an older store might still change, before its instance is recorded (R21, R331). -/
def State.unsettle (s : State) (p pg id gen : Nat) : State :=
  ((s.page p pg).fires.map Fire.fid).foldl (fun s n =>
    match (s.page p pg).fire? n with
    | none => s
    | some f =>
      if tagIs f.tag id gen && !isTrapTag f.tag && isOrdLoad (opF f.word).toNat && f.acted && (s.page p pg).openStores f then
        s.withdraw p pg n
      else s) s

/-- The entries of the deferred-access area in use, and the VA of its next one. -/
def Part.deferred (x : Part) : Nat := (x.feq.filter (fun w => w.place == 1)).length
def Part.deferVa (x : Part) : Nat := x.base64 0x0A8 12 + 32 * x.deferred

/-- Where an access that parks for a tile's word is kept (R215): 0 the tile's table, 1 the area in memory, 2 the mesh. A page of the area that
cannot be written gives no room (R209, log 62). -/
def State.fePlace (s : State) (p tile : Nat) : Nat :=
  let x := s.part p
  if (x.feq.filter (fun w => w.tile == tile && w.place == 0)).length < 32 then 0
  else if x.deferred < bits (x.csrN 0x0AA) 15 0 * 256 && s.devHolds p x.deferVa then 1 else 2

/-- An access held in the mesh for which an entry has freed comes to its word again, the one that arrived first before the others (R215). -/
def State.feRetry (s : State) (p : Nat) : State :=
  match (s.part p).feq.find? (fun w => w.place == 2 && s.fePlace p w.tile != 2) with
  | none => s
  | some w =>
    (s.modPart p (fun x => { x with feq := x.feq.filter (fun v => v != w) })).sched s.now
      (srcOf w.pg ((((s.page p w.pg).fire? w.fid).map Fire.tile).getD 0)) .fullEmptyAct
      { p := p, pg := w.pg, fid := w.fid, z := 1 }

/-! ### The wait-for table's entries leave it (R251 to R255) -/

/-- The die of a wait name: a handle's DIE, or that of a fabric address (R239, R251). -/
def nameDie (n : Nat) : Nat := bits n 31 30

/-- The wait name of a full/empty word: bit [15] set, [1:0] ignored (R253). -/
def wordName (n : Nat) : Nat := setBits (setBits n 15 15 1) 1 0 0

/-- Die crossings between a page and a die. -/
def crossDie (pg die : Nat) : Nat := crossings pg (die * 256)

/-- The instances one edge pair or call link before an instance: those that wait on an object it holds, at 2 edges, and its
caller, at 1. -/
def Part.waitersOn (x : Part) (i : Nat) : List Nat :=
  (x.wft.filter (fun w => w.wait && x.wft.any (fun h => !h.wait && h.id == i && h.name == w.name))).map WftEnt.id

def Part.callerOf (x : Part) (i : Nat) : List Nat :=
  match (x.inst? i).map Inst.origin with
  | some (.call id _) => [id]
  | _ => []

/-- The greatest base priority among the instances at each number of edges, with the edges to it: `here` are those at this
number, `next` those one edge further. -/
def Part.effFrom (x : Part) : Nat → Nat → List Nat → List Nat → Nat × Nat → Nat × Nat
  | 0, _, _, _, best => best
  | n + 1, e, here, next, best =>
    let b := here.foldl (fun m i => max m (((x.inst? i).map Inst.base).getD 0)) 0
    let best := if best.1 < b then (b, e) else best
    x.effFrom n (e + 1) ((next ++ here.flatMap x.callerOf).eraseDups) ((here.flatMap x.waitersOn).eraseDups) best

/-- The effective priority that the graph gives an instance, through at most 16 edges, and the edges it came through. -/
def Part.effOf (x : Part) (i : Nat) : Nat × Nat := x.effFrom 17 0 [i] [] (0, 0)

/-- What one edge of the graph leads to from a place (a name, true, or an instance, with the die at which it was reached and the fclk spent):
an entry costs 1 fclk, 24 more for each die crossing and 140 more where it lies in the overflow area; a call link costs 1 (R255). -/
def Part.edgesFrom (x : Part) (l : List WftEnt) (q : (Bool × Nat) × Nat × Nat) : List ((Bool × Nat) × Nat × Nat) :=
  let out := l.filter (fun w => if q.1.1 then !w.wait && w.name == q.1.2 else w.wait && w.id == q.1.2)
  let step (w : WftEnt) : (Bool × Nat) × Nat × Nat :=
    ((if w.wait then (true, w.name) else (false, w.id)), nameDie w.name,
      q.2.2 + 1 + 24 * crossDie (q.2.1 * 256) (nameDie w.name) + (if w.home = 2 then 140 else 0))
  let called : List Inst := if q.1.1 then [] else x.insts.filter (fun i => match i.origin with
    | .call c _ => c == q.1.2
    | _ => false)
  out.map step ++ called.map (fun i => ((false, i.id), q.2.1, q.2.2 + 1))

/-- The places that a change reaches through at most n edges, each with the fclk that it takes. -/
def Part.reached (x : Part) (l : List WftEnt) : Nat → List ((Bool × Nat) × Nat × Nat) → List ((Bool × Nat) × Nat × Nat) →
    List ((Bool × Nat) × Nat × Nat)
  | 0, _, got => got
  | n + 1, here, got =>
    let new := (here.flatMap (x.edgesFrom l)).filter (fun q => !got.any (fun r => r.1 == q.1 && decide (r.2.2 ≤ q.2.2)))
    if new.isEmpty then got else x.reached l n new (got ++ new)

/-- Where an entry starts: its waiter, or the name that is held. -/
def WftEnt.start (w : WftEnt) : (Bool × Nat) × Nat × Nat := ((if w.wait then (false, w.id) else (true, w.name)), nameDie w.name, 0)

/-- The graph or a base priority has changed at some places (R255); `gone` are entries that have left it. Every instance whose effective
priority differs takes it when the change has reached it. -/
def State.prioChanged (s : State) (p : Nat) (from' : List ((Bool × Nat) × Nat × Nat)) (gone : List WftEnt) : State :=
  let x := s.part p
  let got := x.reached (x.wft ++ gone) 17 from' from'
  x.insts.foldl (fun s i =>
    if i.eff = (x.effOf i.id).1 then s
    else
      let t := (((got.filter (fun q => q.1 == (false, i.id))).map (fun q => q.2.2)).min?).getD 1
      s.sched (s.now + max 1 t) 0 .priorityPropagate { p := p, id := i.id }) s

/-- The wait-for entries of a partition kept on a die, or in the overflow area. -/
def Part.wftOnDie (x : Part) (die : Nat) : Nat := (x.wft.filter (fun w => w.home == 1 && nameDie w.name == die)).length
def Part.wftOver (x : Part) : Nat := (x.wft.filter (fun w => w.home == 2)).length

/-- WFTSTAT.INUSE follows the overflow entries (R260). -/
def State.wftUse (s : State) (p : Nat) : State := s.setCsrF p 0x0C7 31 16 (cdiv (s.part p).wftOver 256)

/-- Entries leave the wait-for table (R252). -/
def State.dropWft (s : State) (p : Nat) (dead : WftEnt → Bool) : State :=
  let gone := (s.part p).wft.filter dead
  if gone.isEmpty then s
  else ((s.modPart p (fun x => { x with wft := x.wft.filter (fun w => !dead w) })).wftUse p).prioChanged p (gone.map WftEnt.start) gone

/-- A status token on T1 of a firing, leaving the engine of a die. -/
def State.sendStatus (s : State) (p pg fid die v extra : Nat) : State :=
  match (s.page p pg).fire? fid with
  | none => s
  | some f =>
    let c := curOf p pg f
    s.send c (s.now + 17 + 12 * crossDie pg die + extra) (targetsOf f.word).2 (withPoison (tokV (word v)) c.firstOrigin)

/-- The status of a standing WREG, sent once. -/
def State.wregStatus (s : State) (p id name v extra : Nat) : State :=
  match (s.part p).wregs.find? (fun w => w.id == id && w.name == name && w.fid != 0) with
  | none => s
  | some w =>
    let s := s.sendStatus p w.pg w.fid (nameDie name) v extra
    let s := s.modFire p w.pg w.fid (fun f => { f with phase := .done, acted := true })
    let s := s.modPart p (fun x => { x with wregs := x.wregs.map (fun u => if u == w then { u with fid := 0 } else u) })
    match (s.page p w.pg).fire? w.fid with
    | some f => s.checkDone p w.pg f.tag
    | none => s

/-- Freezing an instance (R331): its tokens become replay entries, in strand order; its wait entries are withdrawn; its engine
commands stop at their next boundary, which is the next step of their engines (z = 2). -/
def State.freeze (s : State) (p id : Nat) : State :=
  let i := s.inst p id
  let s := i.strands.foldl (fun s st => s.unsettle p st.pg id i.gen) s
  let ents := i.strands.flatMap (fun st => s.gather p id i.gen st)
  let gone : Instr → Args → Bool := fun r a => match r with
    | .tokenArrival | .blockCommit | .iterationRetire | .loopIterationStart | .storeBufferPerform | .loadReply | .loadReplay =>
      a.p == p && tagIs a.tag id i.gen && !isTrapTag a.tag
    | _ => false
  let s := s.cancel gone
  let s := i.strands.foldl (fun s st => s.modPage p st.pg (fun y => y.freeze id i.gen s.now)) s
  let alive (x : Part) (pg fid : Nat) : Bool := ((x.page pg).fire? fid).isSome
  let s := s.modPart p (fun x => { x with
    feq := x.feq.filter (fun w => alive x w.pg w.fid)
    qregs := x.qregs.map (fun q => { q with qends := q.qends.filter (fun w => alive x w.1 w.2), phases := q.phases.filter (fun w => alive x w.1 w.2) })
    chans := x.chans.map (fun c => { c with waits := c.waits.filter (fun w => alive x w.1 w.2) }) })
  let s := s.dropWft p (fun w => w.wait && w.id == id && w.gen == i.gen && !isTrapTag w.tag)
  let s := i.strands.foldl (fun s st =>
    (s.sched s.now (srcOf st.pg 0) .islandCommandDone { p := p, pg := st.pg, id := id, z := 2 }).sched s.now (srcOf st.pg 0)
      .copyWritePerform { p := p, pg := st.pg, id := id, z := 2 }) s
  let s := ((s.feRetry p).spillFreed p).modInst p id (fun i => { i with status := .frozen, reFe := [], replay := ents ++ i.replay ++ i.inject.getD [], inject := none })
  let spent : Wreg → Bool := fun w => w.id == id && w.parked != 0 && !(i.strands.any (fun st => ((s.page p st.pg).fire? w.parked).isSome))
  let s := ((s.part p).wregs.filter spent).foldl (fun s w => s.wregStatus p id w.name 0 0) s
  s.modPart p (fun x => { x with wregs := x.wregs.filter (fun w => !spent w) })

/-- The host learns of a double fault (R339): event 0x02 with the code and the instance. -/
def State.doubleFault (s : State) (p id code : Nat) : State :=
  let i := s.inst p id
  let s := s.modInst p id (fun i => { i with trapRec := i.trapRec.map (fun t => { t with double := true }) })
  (s.postVf p 0x02 [code, id, i.gen]).postPf p 0x02 [code, id, i.gen]

/-- Does the write of an instance's trap frame stand in the agenda? -/
def State.framing (s : State) (p id : Nat) : Bool :=
  s.agenda.any (fun t => match t.act with
    | .row .trapFrameWrite a => a.p == p && a.id == id
    | _ => false)

/-- Trap areas are free (R333): the instances that wait for one try to write their frames, `id` apart. -/
def State.areasFree (s : State) (p id : Nat) : State :=
  (s.part p).insts.foldl (fun s i =>
    if i.id != id && i.status == .frozen && i.trapRec.any (fun t => t.area.isNone && !t.double) && !s.framing p i.id then
      s.sched s.now 0 .trapFrameWrite { p := p, id := i.id }
    else s) s

/-- A trap area is free again (R333): an instance that waits for one writes its frame. -/
def State.freeArea (s : State) (p id : Nat) : State :=
  match (s.inst p id).trapRec.bind (fun t => t.area) with
  | none => s
  | some k =>
    let s := s.modPart p (fun x => { x with areas := x.areas.filter (fun a => a.1 != k) })
    let s := s.modInst p id (fun i => { i with trapRec := i.trapRec.map (fun t => { t with area := none }) })
    (s.setCsrF p 0x093 11 0 (s.part p).areas.length).areasFree p id

/-- The iteration in which a trap is met while iterations below it have not committed (R162). A DEADLOCK does not wait for them, since they
may wait for what its cycle holds. -/
def State.early (s : State) (p : Nat) (t : TrapRec) : Option Act :=
  let y := s.page p (t.src / 64)
  (y.act? t.tag).filter (fun a => !y.inTurn a && t.cycle.isEmpty)

/-- Taking a trap (R331, R332, R339): the one operation by which any part of the device raises a trap in an instance, at a
tile of its strand, under a tag, in a block. The instance freezes, the trap is recorded, and the frame is written once a
trap area is free. An instance that is frozen already traps no more; a trap of a trap-handler activation is a double
fault, and ends that activation. The area of a frame whose re-injection the trap cuts short is free: what is left of it is
in the new frame (R333). A trap of an iteration waits until the iterations below it have committed (R162). Code 255 stands for a line whose check fails, with its key: that is the event INTEGRITY, and no trap (R209, R380). -/
def State.takeTrap (s : State) (p id : Nat) (t : TrapRec) : State :=
  let i := s.inst p id
  if t.code = 255 then s.badRead p t.va
  else if isTrapTag t.tag then
    let s := i.strands.foldl (fun s st => s.modPage p st.pg (fun y => { y with
      acts := y.acts.filter (fun a => a.tag != t.tag), ents := y.ents.filter (fun e => e.tag != t.tag),
      nexts := y.nexts.filter (fun n => n.tag != t.tag), fires := y.fires.filter (fun f => f.tag != t.tag) })) s
    (s.dropWft p (fun w => w.wait && w.tag == t.tag)).doubleFault p id t.code
  else if i.status ≠ .running then s
  else if (s.early p t).isSome then
    s.modAct p (t.src / 64) t.tag (fun a => { a with trapped := a.trapped.orElse fun _ => some t })
  else
    let s := (s.freeze p id).freeArea p id
    let s := s.modInst p id (fun i => { i with trapRec := some { t with ts := s.ts } })
    let s := s.traceRec p 33 t.src t.gen t.tag (word t.code) t.detail
    if bits ((s.part p).csrN 0x092) 27 16 = 0 then s.doubleFault p id t.code
    else s.sched (s.now + 8) t.src (.trapFrameWrite) { p := p, id := id }

/-- The trap record of a fault at a slot of an activation. -/
def trapAt (pg : Nat) (a : Act) (slot code detail va : Nat) : TrapRec :=
  { code := code, detail := word detail, va := va, src := srcOf pg slot, strand := a.strand, tag := a.tag, ts := 0,
    gen := a.gen, word := (a.words[slot]?).getD 0, blk := a.blk }

/-- A trap of the firing in progress. -/
def State.trap (s : State) (code detail va : Nat) : State :=
  (s.modFire s.cur.p s.cur.pg s.cur.fid (fun f => if f.acted then f else { f with phase := .out })).takeTrap s.cur.p s.cur.id (trapAt s.cur.pg s.curAct s.cur.tile code detail va)

/-- A trap of a firing that waits. -/
def State.trapFire (s : State) (p pg : Nat) (f : Fire) (code detail va : Nat) : State :=
  let a := ((s.page p pg).act? f.tag).getD { tag := f.tag, id := f.id, strand := f.strand }
  s.takeTrap p f.id (trapAt pg a f.tile code detail va)

/-- The 16 bytes of an entry. -/
def Replay.bytes (r : Replay) : List Byte :=
  leBytes 8 r.tag.toNat ++ leBytes 4 r.val.toNat ++ leBytes 2 r.flags ++ leBytes 2 (r.tg % 512 + (r.strand % 16) * 512 + r.kind * 8192)

/-- The size of a trap area, and the VA of one (R333). -/
def Part.areaSize (x : Part) : Nat := 4096 * 2 ^ bits (x.csrN 0x092) 2 0
def Part.areaVa (x : Part) (k : Nat) : Nat := x.base64 0x090 12 + k * x.areaSize

/-- An entry is appended to a written frame (R332): into its area where there is room, its count E rising and flag [1] set; otherwise
it is held in place, flag [0] is set and +44 counts it. The second component says that it was written. -/
def State.frameAppend (s : State) (p k : Nat) (inPlace : Bool) (r : Replay) : State × Bool :=
  let x := s.part p
  let va := x.areaVa k
  match s.devRead p (va + 40) 4, s.devRead p (va + 48) 4, s.devRead p (va + 1) 1, s.devRead p (va + 44) 4 with
  | some e, some off, some fl, some held =>
    if !inPlace && off + 16 * e + 16 ≤ x.areaSize then
      match s.devWrite p (va + off + 16 * e) r.bytes with
      | some t =>
        let t := (t.devWrite p (va + 40) (leBytes 4 (e + 1))).getD t
        ((t.devWrite p (va + 1) (leBytes 1 (setBits fl 1 1 1))).getD t, true)
      | none => (s, false)
    else
      let t := (s.devWrite p (va + 44) (leBytes 4 (held + 1))).getD s
      ((t.devWrite p (va + 1) (leBytes 1 (setBits fl 0 0 1))).getD t, false)
  | _, _, _, _ => (s, false)

/-- What arrives for a frozen instance joins its replay queue (R332); once the frame is written it is appended to it. -/
def State.addReplay (s : State) (p id : Nat) (rs : List Replay) : State :=
  rs.foldl (fun s r =>
    let i := s.inst p id
    let put (s : State) (f : Inst → Inst) : State := s.modInst p id f
    match i.inject, i.trapRec.bind (fun t => t.area.map (fun k => (t, k))) with
    | some l, _ => put s (fun i => { i with inject := some (l ++ [r]) })
    | none, some (t, k) =>
      let z := s.frameAppend p k (!t.place.isEmpty) r
      let place := if z.2 then t.place else t.place ++ [r]
      put z.1 (fun i => { i with trapRec := some { t with place := place, added := t.added + 1 } })
    | none, none => put s (fun i => { i with replay := i.replay ++ [r] })) s

/-- A token that arrives for a frozen instance joins its replay queue. -/
def State.appendReplay (s : State) (p id strand : Nat) (tag : Tag) (tg : Target) (t : Token) : State :=
  s.addReplay p id [replayTok 0 strand tag tg t]

/-! ### Arrival (R151, R152, R154, R158) -/

/-- The register that a delivery gives (R19, R125). -/
def regOf (t : Token) : Reg := ⟨t.val, t.pois, if t.pois then t.origin else 0⟩

/-- A register of a list of them. -/
def regAt (l : List Reg) (g : Nat) : Reg := (l[g]?).getD {}

/-- The next iteration's register g takes what an iteration delivered, or, for a null delivery, what the iteration's own READ
returns, once that is known (R158); its READs become ready, and what it delivered itself goes on. -/
def State.passReg (s : State) (p pg : Nat) (tag : Tag) (g : Nat) : Nat → State
  | 0 => s
  | fuel + 1 =>
    let y := s.page p pg
    match y.act? tag with
    | none => s
    | some a =>
      if a.role ≠ .iter then s
      else
        match kget a.regW g, y.act? (tagIter a.holder (a.iter + 1)) with
        | some d, some b =>
          if b.holder != a.holder || b.iter != a.iter + 1 || !b.unres.contains g || a.hasLoop || (d.tok.null && a.unres.contains g) then s
          else
            let v := if d.tok.null then regAt a.regs g else regOf d.tok
            let from' := d.fid :: (if d.tok.null then (kget a.regFrom g).getD [] else [])
            let s := s.modAct p pg b.tag (fun b => { b with
              regs := b.regs.set g v, unres := b.unres.filter (· != g), regFrom := kset b.regFrom g from' })
            let s := (List.range b.words.length).foldl (fun s k => s.checkReady p pg k b.tag 0) s
            s.passReg p pg b.tag g fuel
        | _, _ => s

/-- The tile of a firing on a page. -/
def Page.tileOf (y : Page) (fid dflt : Nat) : Nat := ((y.fire? fid).map Fire.tile).getD dflt

/-- A TAGDUP trap (R24, R154): the arriving token goes into the replay queue beside the one present. -/
def State.tagdup (s : State) (p pg : Nat) (a : Act) (tile detail : Nat) (tg : Target) (t : Token) : State :=
  (s.takeTrap p a.id (trapAt pg a tile 0x06 detail 0)).appendReplay p a.id a.strand a.tag tg t

/-- A register delivery (R24, R125). -/
def State.deliverReg (s : State) (p pg : Nat) (a : Act) (g : BitVec 6) (x : Arr) : State :=
  if (kget a.regW g.toNat).isSome then
    s.tagdup p pg a ((s.page p pg).tileOf x.fid 0) (4 + g.toNat * 256) (.reg g) x.tok
  else
    let s := s.modAct p pg a.tag (fun a => { a with regW := a.regW ++ [(g.toNat, x)] })
    (s.passReg p pg a.tag g.toNat 64).checkDone p pg a.tag

/-- A token reaches an operand queue (R151, R152, R154): it joins its tag's entry, takes a free way, goes to the spill table,
or is held in the mesh. A second token for a position traps. -/
def State.enqueue (s : State) (p pg : Nat) (a : Option Act) (q : Pos) (slot : BitVec 6) (tag : Tag) (x : Arr) : State :=
  let y := s.page p pg
  let tile := slot.toNat
  let e? := y.ents.find? (fun e => e.tile == tile && e.tag == tag)
  let dup := (e?.bind (fun e => e.at q)).isSome || y.spill.any (fun z => z.tile == tile && z.tag == tag && z.pos == q)
  if dup then
    s.tagdup p pg (a.getD { tag := tag, id := tagId tag, strand := 0 }) tile (posRank q) (.queue q slot) x.tok
  else
    match e? with
    | some _ =>
      (s.modPage p pg (fun y => { y with ents := y.ents.map (fun e =>
        if e.tile == tile && e.tag == tag then e.put q (some x) else e) })).checkReady p pg tile tag (posRank q)
    | none =>
      match lowestFree ((y.inSet tile tag).map Entry.way) 4 0 with
      | some w =>
        (s.modPage p pg (fun y => { y with
          ents := y.ents ++ [({ tile := tile, tag := tag, way := w, since := s.now } : Entry).put q (some x)] })).checkReady p pg tile tag (posRank q)
      | none =>
        if s.spillRoom p then s.spillTok p pg tile tag q x
        else
          (s.modPage p pg (fun y => { y with held := y.held ++ [⟨.queue q slot, tag, x⟩] })).bumpCsr p 0x123 31 0

/-- Is a tag that of an iteration yet to start of a running loop (R157, R159)? -/
def Page.upcoming (y : Page) (tag : Tag) : Bool :=
  y.acts.any (fun h => match h.looping with
    | none => false
    | some lp => tagDepth tag == tagDepth h.tag + 1 && decide (lp.next < lp.n) && tagIter h.tag lp.next == tag)

/-- The strand that a page's tile belongs to under a tag. -/
def Inst.strandOn (i : Inst) (pg : Nat) : Nat := ((i.strands.find? (fun t => t.pg == pg)).map Strand.num).getD 0

/-- An exit token reaches its block (R23, R24, R126): a second one is a TAGDUP trap, and both are kept. -/
def State.arriveExit (s : State) (p pg : Nat) (tag : Tag) (e : ExitRec) : State :=
  match (s.page p pg).act? tag with
  | none => s
  | some a =>
    if (s.inst p a.id).halted && !isTrapTag tag then s.addReplay p a.id (exitReplay a.strand tag e)
    else if a.exit.isSome then
      (s.takeTrap p a.id (trapAt pg a e.slot 0x06 16 0)).addReplay p a.id (exitReplay a.strand tag e)
    else (s.modAct p pg tag (fun a => { a with exit := some e })).checkDone p pg tag

/-- What arrives for a saved instance is kept in its record, and makes it eligible (R187): it asks Pelorus for area (z = 2). While its
record is being read back, what arrives waits for the end of that. -/
def State.holdSaved (s : State) (p id : Nat) (row : Instr) (a : Args) : State :=
  (s.modInst p id (fun i => { i with save := i.save.map (fun v => { v with held := v.held ++ [(row, a)], eligible := true }) })).sched
    s.now 0 .pelorusRound { p := p, z := 2 }

/-- Does a token held in the mesh come from the same tile to the same queue, so that a later one stays behind it (R12)? -/
def Page.behind (y : Page) (tg : Target) (src : Nat) : Bool :=
  decide (src < 64) && y.held.any (fun h => h.tg == tg && h.arr.src == src)

/-- A token of an operand or register target reaches its page (R13, R150, R332): a token of another ID or GEN, or of an
activation that is gone, is stale; one for a frozen instance is appended to its replay queue, one for a saved instance is
kept for it, and one for a page that is stopped or reloading is held in the mesh. -/
def State.arrive (s : State) (p pg : Nat) (tg : Target) (tag : Tag) (tok : Token) (fid src : Nat) : State :=
  let x := s.part p
  let y := x.page pg
  let tile := destTile 0 tg
  match x.inst? (tagId tag) with
  | none => s.stale p pg tile
  | some i =>
    if i.gen ≠ tagGen tag then s.stale p pg tile
    else if i.halted && !isTrapTag tag then s.appendReplay p i.id (i.strandOn pg) tag tg tok
    else if i.save.isSome then s.holdSaved p i.id .tokenArrival { p := p, pg := pg, x := src, tg := tg, tag := tag, tok := tok, fid := fid }
    else if y.gated || y.reload || y.behind tg src then s.modPage p pg (fun y => { y with held := y.held ++ [⟨tg, tag, ⟨tok, fid, src⟩⟩] })
    else
      let s := s.modPage p pg (fun y => y.stir i.id s.now)
      match y.act? tag with
      | none =>
        match tg with
        | .queue q slot => if y.upcoming tag then s.enqueue p pg none q slot tag ⟨tok, fid, src⟩ else s.stale p pg tile
        | _ => s.stale p pg tile
      | some a =>
        if a.looping.isSome then s
        else
          match tg with
          | .reg g => s.deliverReg p pg a g ⟨tok, fid, src⟩
          | .queue q slot => s.enqueue p pg (some a) q slot tag ⟨tok, fid, src⟩
          | _ => s

/-- Would a token that is held for a full queue still find no room (R151, R152)? -/
def State.noRoom (s : State) (p pg : Nat) (h : Held) : Bool :=
  let y := s.page p pg
  match h.tg with
  | .queue q slot =>
    let tile := slot.toNat
    ((s.part p).inst? (tagId h.tag)).any (fun i => i.gen == tagGen h.tag && i.live)
      && !y.ents.any (fun e => e.tile == tile && e.tag == h.tag)
      && !y.spill.any (fun z => z.tile == tile && z.tag == h.tag && z.pos == q)
      && (lowestFree ((y.inSet tile h.tag).map Entry.way) 4 0).isNone && !s.spillRoom p
  | _ => false

/-- Tokens held in the mesh for a page try again in their order (R12); one that finds no room stays held and is not counted again. -/
def State.unhold (s : State) (p pg : Nat) : State :=
  let hs := (s.page p pg).held
  hs.foldl (fun s h =>
    if s.noRoom p pg h then s.modPage p pg (fun y => { y with held := y.held ++ [h] })
    else s.arrive p pg h.tg h.tag h.arr.tok h.arr.fid h.arr.src) (s.modPage p pg (fun y => { y with held := [] }))

/-- Room in the spill table: tokens held for any page of the partition try again (R152). -/
def State.unholdAll (s : State) (p : Nat) : State :=
  (s.part p).pages.foldl (fun s y => if y.held.isEmpty then s else s.unhold p y.num) s

/-- A way has freed in a tile's set (R152): the oldest spilled token for it returns after a DRAM round trip, and tokens held
in the mesh try again. -/
def State.freed (s : State) (p pg tile : Nat) (tag : Tag) : State :=
  let y := s.page p pg
  let s := if y.spill.any (fun z => z.tile == tile && setOf z.tag == setOf tag) then
      s.sched (s.now + 140) (srcOf pg tile) .spillReturn { p := p, pg := pg, x := tile, y := setOf tag }
    else s
  if y.held.isEmpty then s else s.unhold p pg

end Sys2Proof.Machine
end

