-- ==== Sys2Proof/Machine/Load.lean ====
section
/-! DEFINITION. Sys2Proof/Machine/Load.lean: function descriptors and the checks on them (R57 to R61), and the loading of a
block with the checks of R15, R40, R43 to R45, R162 and R312. -/

namespace Sys2Proof.Machine

/-! ### Descriptors (R57, R58, R60, R61) -/

/-- A fault found before anything fires: trap code, detail, and faulting VA. -/
structure LoadFault where
  code : Nat
  detail : Nat
  va : Nat := 0
  deriving DecidableEq, Repr

/-- A little-endian field of a number read from memory. -/
def fieldAt (n off size : Nat) : Nat := (n >>> (8 * off)) % 256 ^ size

/-- A read for a descriptor or table, with its fault. -/
def State.readTable (s : State) (p va n : Nat) : Except LoadFault Nat :=
  match s.readVa p va n false with
  | .ok v => .ok v
  | .error (c, d, v) => .error { code := c, detail := d, va := v }

/-- The n entry-block VAs of a strand table. -/
def State.readStrands (s : State) (p : Nat) : Nat → Nat → Except LoadFault (List Nat)
  | 0, _ => .ok []
  | n + 1, va =>
    match s.readTable p va 8 with
    | .error e => .error e
    | .ok v =>
      match s.readStrands p n (va + 8) with
      | .error e => .error e
      | .ok vs => .ok (v :: vs)

/-- BLOCKFMT with a reason (R43). -/
def badFmt (reason : Nat) : LoadFault := { code := 0x05, detail := reason }

/-- Reading and checking a descriptor (R60, R61). -/
def State.readDesc (s : State) (p va : Nat) : Except LoadFault Desc :=
  match s.readTable p va 64 with
  | .error e => .error e
  | .ok d =>
    let f := fieldAt d
    let shape := f 16 1
    let ar := f 17 1
    let w := shape % 4 + 1
    let h := shape / 4 % 4 + 1
    let fl := f 20 1
    let desc : Desc := {
      va := va, entries := [f 0 8], handler := f 8 8, w := w, h := h, arity := ar % 4, results := ar / 4 % 4, nregs := f 18 1,
      depth := f 19 1, foldable := bitAt fl 0, ckptable := bitAt fl 1, killable := bitAt fl 2, recursive := bitAt fl 3,
      prio := f 21 1 % 16, hint := f 24 4, image := f 32 8 }
    if desc.results = 3 || 64 < desc.nregs || desc.nregs < desc.arity || 7 < desc.depth then .error (badFmt 0x13)
    else if w * h = 1 then .ok desc
    else
      match s.readStrands p (w * h) ((va + f 28 4) % 2 ^ 64) with
      | .error e => .error e
      | .ok es => if es.head? = some (f 0 8) then .ok { desc with entries := es } else .error (badFmt 0x13)

/-- The function count of an image, and the descriptor VA of one of its functions (R57, R58). -/
def State.functionCount (s : State) (p image : Nat) : Except LoadFault Nat := s.readTable p (image + 16) 2

def State.functionDesc (s : State) (p image x : Nat) : Except LoadFault Desc :=
  match s.readTable p (image + 24) 4 with
  | .error e => .error e
  | .ok off =>
    match s.readTable p (image + off + 8 * x) 8 with
    | .error e => .error e
    | .ok va => s.readDesc p va

/-! ### Loading a block -/

/-- A block as it stands when it has passed its checks; `arity` is the arity of each slot's CALL, `descs` its descriptor. -/
structure Loaded where
  hdr : Word
  mask : Word
  words : List Word
  arity : List Nat
  descs : List (Nat × Desc)
  deriving DecidableEq, Repr

/-- How a block comes to be loaded: by an exit, as an entry or handler block, or as a loop body. -/
inductive Reach where
  | exit
  | entry
  | body
  deriving DecidableEq, Repr

/-- The fault of a word of a block that cannot be fetched (R43): its frame names that word's address (log 64). -/
def State.wordFault (s : State) (p va : Nat) : LoadFault :=
  match s.readVa p va 4 true with
  | .error (255, d, v) => { code := 255, detail := d, va := v }
  | _ => { badFmt 0x02 with va := va }

/-- The words of a block from an address, until the first that cannot be fetched (R43, reason 0x02). -/
def State.fetchWords (s : State) (p : Nat) : Nat → Nat → List Word × Option Nat
  | 0, _ => ([], none)
  | n + 1, va =>
    match s.readVa p va 4 true with
    | .error _ => ([], some va)
    | .ok v =>
      let r := s.fetchWords p n (va + 4)
      (word v :: r.1, r.2)

/-- The sides of its instance's shape on which a strand has a neighbour, in the order north, east, south, west (R40). -/
def Inst.sides (i : Inst) (strand : Nat) : List Bool :=
  let x := strand % i.w
  let y := strand / i.w
  [decide (0 < y), decide (x + 1 < i.w), decide (y + 1 < i.h), decide (0 < x)]

/-- Does a target name an edge port toward a side without a page of the instance (R40)? -/
def badSide (sides : List Bool) : Target → Bool
  | .port e => decide (32 ≤ e.toNat) && decide (e.toNat < 48) && !(sides[(e.toNat - 32) / 4]?).getD false
  | _ => false

/-- Does a target name a register at or above a count (reason 0x0A)? -/
def badReg (n : Nat) : Target → Bool
  | .reg g => decide (n ≤ g.toNat)
  | _ => false

/-- Is a target one that TOPK may not have (R312)? -/
def badTopk : Target → Bool
  | .none => false
  | .port e => !(decide (16 ≤ e.toNat) && decide (e.toNat < 24))
  | _ => true

/-- The slot after the first LOOP that holds another one (reason 0x14). -/
def secondLoop (ws : List Word) (k : Nat) : Bool := (ws.take k).any (fun w => (opF w).toNat == 0x09)

/-- What the checks of one slot see. -/
structure SlotCheck where
  nregs : Nat
  sides : List Bool
  body : Bool
  words : List Word
  /-- the function count, where it could be read -/
  count : Option Nat
  /-- what the reads for a slot's CALL gave -/
  call : Nat → Option LoadFault

/-- The reason codes that a slot's word meets, in ascending order (R43, R44, R162, R312). -/
def SlotCheck.reasons (c : SlotCheck) (k : Nat) (w : Word) : List Nat :=
  let op := (opF w).toNat
  let t := targetsOf w
  let any (f : Target → Bool) : Bool := f t.1 || f t.2
  let dec := match decode w with
    | .error r => some r.code
    | .ok _ => none
  let is (n : Nat) (b : Bool) : List Nat := if dec == some n || b then [n] else []
  is 0x03 false ++ is 0x04 false
    ++ is 0x05 (op == 0x0C && (match c.count with
      | some n => decide (n ≤ (xF w).toNat)
      | none => false))
    ++ is 0x06 false ++ is 0x07 false ++ is 0x08 false
    ++ is 0x09 (any (badSide c.sides))
    ++ is 0x0A (any (badReg c.nregs) || (op == 0x01 && decide (c.nregs ≤ (gF w).toNat)))
    ++ is 0x13 (c.call k).isSome
    ++ is 0x14 (op == 0x09 && secondLoop c.words k)
    ++ is 0x15 (!c.body && sendsTo .c k w)
    ++ is 0x17 (op == 0x67 && any badTopk)

/-- The fault of one slot, where it has one. -/
def SlotCheck.fault (c : SlotCheck) (k : Nat) (w : Word) : Option LoadFault :=
  match c.reasons k w with
  | [] => none
  | 0x13 :: _ => some ((c.call k).getD (badFmt 0x13))
  | r :: _ => some (badFmt r)

/-- The first slot with a fault, from slot k on (R45). -/
def SlotCheck.first (c : SlotCheck) : Nat → List Word → Option (Nat × LoadFault)
  | _, [] => none
  | k, w :: ws =>
    match c.fault k w with
    | some f => some (k, f)
    | none => c.first (k + 1) ws

/-- The first slot that meets a test. -/
def slotWhere (ws : List Word) (f : Nat → Word → Bool) : Option Nat :=
  (List.range ws.length).find? (fun k => f k ((ws[k]?).getD 0))

/-- The registers that a block writes, each once. -/
def regTargets (ws : List Word) : List Nat :=
  ((ws.flatMap (fun w => [(targetsOf w).1, (targetsOf w).2])).filterMap (fun t => match t with
    | .reg g => some g.toNat
    | _ => none)).eraseDups

/-- Does a word have a target that meets a test? -/
def hasTarget (w : Word) (f : Target → Bool) : Bool := f (targetsOf w).1 || f (targetsOf w).2

/-- The whole-block checks of R15 but for the last, with the slot each names (reasons 0x0B to 0x11). -/
def wholeBlock (cx : SlotCtx) (hdr mask : Word) : Option (Nat × Nat) :=
  let ws := cx.words
  let beyond := slotWhere ws (fun _ w => hasTarget w (fun t => match t with
    | .queue _ k => decide (ws.length ≤ k.toNat)
    | _ => false))
  let unused := slotWhere ws (fun _ w => hasTarget w (fun t => match t with
    | .queue q k =>
      match ws[k.toNat]? with
      | some v => !usesPos cx k.toNat v q
      | none => false
    | _ => false))
  let clear := slotWhere ws (fun _ w => isStoreClass (opF w).toNat && !mask.getLsbD (xF w).toNat)
  let orphan := (List.range 32).any (fun n => mask.getLsbD n && !ws.any (fun w => isStoreClass (opF w).toNat && (xF w).toNat == n))
  let shared := slotWhere ws (fun _ w => isLoad (opF w).toNat
    && ws.any (fun v => isStoreClass (opF v).toNat && (xF v).toNat == (xF w).toNat))
  let exits := ws.any (fun w => (opF w).toNat == 0x0A || (opF w).toNat == 0x0B || (opF w).toNat == 0x0E)
  match beyond, unused, clear, shared with
  | some k, _, _, _ => some (0x0B, k)
  | none, some k, _, _ => some (0x0C, k)
  | none, none, c, sh =>
    if (regTargets ws).length ≠ hdrNW hdr then some (0x0D, 0)
    else
      match c with
      | some k => some (0x0E, k)
      | none =>
        if orphan then some (0x0F, 0)
        else
          match sh with
          | some k => some (0x10, k)
          | none => if exits then none else some (0x11, 0)

/-- Loading the block at a VA for a strand of an instance (R29, R43, R45, R162): its contents, or the first fault with the slot
it names; no slot means the exit that chose the block, or its LOOP. `own`: the block is the strand's own, outside handler
activations (R176). -/
def State.loadBlock (s : State) (p : Nat) (i : Inst) (strand : Nat) (own : Bool) (reach : Reach) (va : Nat) :
    Except (Option Nat × LoadFault) Loaded :=
  if va % 8 ≠ 0 then .error (none, { code := 0x04, detail := 8, va := va })
  else
    match s.readVa p va 8 true with
    | .error (c, d, v) => .error (none, { code := c, detail := d, va := if c = 255 then v else va })
    | .ok hm =>
      let hdr := word hm
      let mask := word (hm / 2 ^ 32)
      if reach = .body && hdrKind hdr != 1 then .error (none, badFmt 0x16)
      else if bits hdr.toNat 15 0 ≠ 0 then .error (some 0, badFmt 0x01)
      else
        let ws := s.fetchWords p (hdrNI hdr + 1) (va + 8)
        let count := s.functionCount p i.image
        let desc (w : Word) : Except LoadFault Desc :=
          match count with
          | .error e => .error e
          | .ok _ => s.functionDesc p i.image (xF w).toNat
        let call (w : Word) : Option LoadFault × Option Desc :=
          if (opF w).toNat = 0x0C then
            match desc w with
            | .error e => (some e, none)
            | .ok d => (none, some d)
          else (none, none)
        let calls := ws.1.map call
        let chk : SlotCheck := {
          nregs := i.nregs, sides := i.sides strand, body := hdrKind hdr == 1, words := ws.1, count := count.toOption,
          call := fun k => (calls[k]?).bind Prod.fst }
        match chk.first 0 ws.1 with
        | some (k, f) => .error (some k, f)
        | none =>
          match ws.2 with
          | some a => .error (some ws.1.length, s.wordFault p a)
          | none =>
            let arity := calls.map (fun c => (c.2.map Desc.arity).getD 0)
            let descs := (List.range calls.length).filterMap (fun k => ((calls[k]?).bind Prod.snd).map (fun d => (k, d)))
            let cx : SlotCtx := { words := ws.1, arity := arity, results := if own && strand == 0 && hdrKind hdr != 3 then i.results else 0 }
            match wholeBlock cx hdr mask with
            | some (r, k) => .error (some k, badFmt r)
            | none =>
              if reach = .exit && (hdrKind hdr == 1 || hdrKind hdr == 3) then .error (none, badFmt 0x12)
              else .ok { hdr := hdr, mask := mask, words := ws.1, arity := arity, descs := descs }

end Sys2Proof.Machine
end

