-- ==== Sys2Proof/Machine/Num.lean ====
section
/-! DEFINITION. Sys2Proof/Machine/Num.lean: numbers, rounding and the narrow formats (R63 to R80): every floating-point
operand becomes an exact dyadic number, an operation is exact, and one rounding at the end gives the result and its event
kind (R81; 0 is no event). -/

namespace Sys2Proof.Machine

/-- What a floating-point encoding holds: NaN, an infinity or the exact number (-1)^neg * m * 2^e. -/
inductive Num where
  | nan (neg : Bool)
  | inf (neg : Bool)
  | fin (neg : Bool) (m : Nat) (e : Int)
  deriving DecidableEq, Repr

/-- How a format uses its all-ones exponent (R64): as IEEE 754 does, for one NaN (E4M3), or for normal values. -/
inductive Specials where
  | ieee | oneNaN | none
  deriving DecidableEq, Repr

/-- A floating-point format (R64). -/
structure FFmt where
  eb : Nat
  mb : Nat
  bias : Nat
  sp : Specials
  deriving DecidableEq, Repr

def fp32 : FFmt := ⟨8, 23, 127, .ieee⟩
def fp16 : FFmt := ⟨5, 10, 15, .ieee⟩
def bf16 : FFmt := ⟨8, 7, 127, .ieee⟩
def e4m3 : FFmt := ⟨4, 3, 7, .oneNaN⟩
def e5m2 : FFmt := ⟨5, 2, 15, .ieee⟩
def e3m2 : FFmt := ⟨3, 2, 3, .none⟩
def e2m3 : FFmt := ⟨2, 3, 1, .none⟩
def e2m1 : FFmt := ⟨2, 1, 1, .none⟩

/-- The rounding modes (R78, R80): the four of RM, and stochastic with its random word. -/
inductive RMode where
  | rne | rtz | up | down
  | stoch (w : Nat)
  deriving DecidableEq, Repr

/-- The mode that a block's RM field names (R38). -/
def rmodeOf (rm : Nat) : RMode :=
  match rm with
  | 0 => .rne
  | 1 => .rtz
  | 2 => .up
  | _ => .down

/-- The value that the bits of a format hold (R64). -/
def decodeF (f : FFmt) (n : Nat) : Num :=
  let m := n % 2 ^ f.mb
  let e := (n >>> f.mb) % 2 ^ f.eb
  let neg := bitAt n (f.mb + f.eb)
  let top := 2 ^ f.eb - 1
  if f.sp = .ieee ∧ e = top then (if m = 0 then .inf neg else .nan neg)
  else if f.sp = .oneNaN ∧ e = top ∧ m = 2 ^ f.mb - 1 then .nan neg
  else if e = 0 then .fin neg m (1 - (f.bias : Int) - f.mb)
  else .fin neg (2 ^ f.mb + m) ((e : Int) - f.bias - f.mb)

/-- The canonical NaN of a format with the given sign (R65): the top mantissa bit, and both of E5M2's. -/
def canonNaN (f : FFmt) (neg : Bool) : Nat :=
  let s := b2n neg * 2 ^ (f.mb + f.eb)
  match f.sp with
  | .ieee => s + (2 ^ f.eb - 1) * 2 ^ f.mb + (if f.mb = 2 then 3 else 2 ^ (f.mb - 1))
  | _ => s + (2 ^ f.eb - 1) * 2 ^ f.mb + (2 ^ f.mb - 1)

/-- The bits of an infinity of a format that has one. -/
def infBits (f : FFmt) (neg : Bool) : Nat := b2n neg * 2 ^ (f.mb + f.eb) + (2 ^ f.eb - 1) * 2 ^ f.mb

/-- The bits of the largest finite value of a format, with a sign (R64). -/
def maxBits (f : FFmt) (neg : Bool) : Nat :=
  let s := b2n neg * 2 ^ (f.mb + f.eb)
  match f.sp with
  | .ieee => s + (2 ^ f.eb - 2) * 2 ^ f.mb + (2 ^ f.mb - 1)
  | .oneNaN => s + (2 ^ f.eb - 1) * 2 ^ f.mb + (2 ^ f.mb - 2)
  | .none => s + (2 ^ f.eb - 1) * 2 ^ f.mb + (2 ^ f.mb - 1)

/-- Does the discarded part of a magnitude round it up (R78, R80)? `odd`: the kept part is odd; `rem` of `2^sh` is
discarded, and `st` says that a little more than rem was discarded. -/
def roundsUp (rm : RMode) (neg odd : Bool) (rem sh : Nat) (st : Bool) : Bool :=
  match rm with
  | .rne => decide (2 ^ sh < 2 * rem) || (decide (2 ^ sh = 2 * rem) && decide (0 < sh) && (st || odd))
  | .rtz => false
  | .up => !neg && (decide (0 < rem) || st)
  | .down => neg && (decide (0 < rem) || st)
  | .stoch w => decide (2 ^ 32 ≤ (rem * 2 ^ 32) / 2 ^ sh + w) && decide (0 < (rem * 2 ^ 32) / 2 ^ sh)

/-- Rounding the magnitude m * 2^e (and a little more where st) to a multiple of 2^q: the multiple. -/
def roundAt (rm : RMode) (neg : Bool) (m : Nat) (e q : Int) (st : Bool) : Nat :=
  if q ≤ e then m * 2 ^ (e - q).toNat
  else
    let sh := (q - e).toNat
    let k := m >>> sh
    if roundsUp rm neg (k % 2 == 1) (m % 2 ^ sh) sh st then k + 1 else k

/-- The exponent of the last place when m * 2^e is rounded to p significant bits on a grid no finer than 2^emin. -/
def ulpExp (p : Nat) (emin : Int) (m : Nat) (e : Int) : Int :=
  max (e + (bitLen m : Int) - p) emin

/-- The finest grid of a format: the exponent of its smallest subnormal. -/
def FFmt.emin (f : FFmt) : Int := 1 - (f.bias : Int) - f.mb

/-- The bits of k * 2^q in a format, for a value that the format holds. -/
def packF (f : FFmt) (neg : Bool) (k : Nat) (q : Int) : Nat :=
  let s := b2n neg * 2 ^ (f.mb + f.eb)
  if k = 0 then s
  else
    let L := bitLen k
    let k' := if L ≤ f.mb + 1 then k * 2 ^ (f.mb + 1 - L) else k >>> (L - (f.mb + 1))
    let q' : Int := q + (L : Int) - (f.mb + 1)
    if q' < f.emin then s + (k' >>> (f.emin - q').toNat)
    else s + (q' - f.emin + 1).toNat * 2 ^ f.mb + (k' - 2 ^ f.mb)

/-- The exponent and significand of a format's largest finite value. -/
def maxFin (f : FFmt) : Nat × Int :=
  match f.sp with
  | .ieee => (2 ^ (f.mb + 1) - 1, (2 ^ f.eb - 2 : Nat) - (f.bias : Int) - f.mb)
  | .oneNaN => (2 ^ (f.mb + 1) - 2, (2 ^ f.eb - 1 : Nat) - (f.bias : Int) - f.mb)
  | .none => (2 ^ (f.mb + 1) - 1, (2 ^ f.eb - 1 : Nat) - (f.bias : Int) - f.mb)

/-- Compares two magnitudes m1 * 2^e1 < m2 * 2^e2. -/
def magLt (m1 : Nat) (e1 : Int) (m2 : Nat) (e2 : Int) : Bool :=
  let e := min e1 e2
  decide (m1 * 2 ^ (e1 - e).toNat < m2 * 2 ^ (e2 - e).toNat)

/-- Is k * 2^q above the format's largest finite magnitude? -/
def aboveMax (f : FFmt) (k : Nat) (q : Int) : Bool := magLt (maxFin f).1 (maxFin f).2 k q

/-- Rounding a finite magnitude to FP32 as the arithmetic instructions do (R65, R78, R107): the bits and the event kind. -/
def roundFP32 (rm : RMode) (neg : Bool) (m : Nat) (e : Int) (st : Bool) : Nat × Nat :=
  let q := ulpExp 24 fp32.emin m e
  let k := roundAt rm neg m e q st
  if aboveMax fp32 k q then
    match rm with
    | .rtz => (maxBits fp32 neg, 5)
    | .up => if neg then (maxBits fp32 neg, 5) else (infBits fp32 neg, 5)
    | .down => if neg then (infBits fp32 neg, 5) else (maxBits fp32 neg, 5)
    | _ => (infBits fp32 neg, 5)
  else (packF fp32 neg k q, 0)

/-- The FP32 NaN that every operation gives (R65). -/
def nan32 : Nat := 0x7FC00000

/-- The exact sum of two finite numbers; an exact zero of unlike signs takes the sign `zneg` (R107). -/
def addFin (zneg n1 : Bool) (m1 : Nat) (e1 : Int) (n2 : Bool) (m2 : Nat) (e2 : Int) : Bool × Nat × Int :=
  let e := min e1 e2
  let a := m1 * 2 ^ (e1 - e).toNat
  let b := m2 * 2 ^ (e2 - e).toNat
  if n1 = n2 then (n1, a + b, e)
  else if a = b then (zneg, 0, e)
  else if b < a then (n1, a - b, e)
  else (n2, b - a, e)

/-- The sign of an exact zero sum of unlike signs under a rounding mode (R107). -/
def zeroNeg (rm : RMode) : Bool :=
  match rm with
  | .down => true
  | _ => false

/-- FP32 addition of two decoded numbers (R107, R108). -/
def addNum (rm : RMode) (x y : Num) : Nat × Nat :=
  match x, y with
  | .nan _, _ => (nan32, 0)
  | _, .nan _ => (nan32, 0)
  | .inf a, .inf b => if a = b then (infBits fp32 a, 0) else (nan32, 1)
  | .inf a, _ => (infBits fp32 a, 0)
  | _, .inf b => (infBits fp32 b, 0)
  | .fin n1 m1 e1, .fin n2 m2 e2 =>
    let r := addFin (zeroNeg rm) n1 m1 e1 n2 m2 e2
    roundFP32 rm r.1 r.2.1 r.2.2 false

/-- A number with its sign inverted. -/
def Num.neg : Num → Num
  | .nan n => .nan (!n)
  | .inf n => .inf (!n)
  | .fin n m e => .fin (!n) m e

/-- The sign of a number. -/
def Num.isNeg : Num → Bool
  | .nan n => n
  | .inf n => n
  | .fin n _ _ => n

def Num.isNaN : Num → Bool
  | .nan _ => true
  | _ => false

def Num.isZero : Num → Bool
  | .fin _ 0 _ => true
  | _ => false

/-- FP32 multiplication of two decoded numbers (R107, R108). -/
def mulNum (rm : RMode) (x y : Num) : Nat × Nat :=
  match x, y with
  | .nan _, _ => (nan32, 0)
  | _, .nan _ => (nan32, 0)
  | .inf a, y => if y.isZero then (nan32, 1) else (infBits fp32 (a != y.isNeg), 0)
  | x, .inf b => if x.isZero then (nan32, 1) else (infBits fp32 (b != x.isNeg), 0)
  | .fin n1 m1 e1, .fin n2 m2 e2 => roundFP32 rm (n1 != n2) (m1 * m2) (e1 + e2) false

/-- The fused form x * y + z, rounded once (R111). -/
def fmaNum (rm : RMode) (x y z : Num) : Nat × Nat :=
  let s := x.isNeg != y.isNeg
  let invalidProduct :=
    match x, y with
    | .inf _, .fin _ 0 _ => true
    | .fin _ 0 _, .inf _ => true
    | _, _ => false
  if invalidProduct then (nan32, 1)
  else
    match x, y, z with
    | .nan _, _, _ => (nan32, 0)
    | _, .nan _, _ => (nan32, 0)
    | _, _, .nan _ => (nan32, 0)
    | .inf _, _, .inf c => if s = c then (infBits fp32 s, 0) else (nan32, 1)
    | _, .inf _, .inf c => if s = c then (infBits fp32 s, 0) else (nan32, 1)
    | .inf _, _, _ => (infBits fp32 s, 0)
    | _, .inf _, _ => (infBits fp32 s, 0)
    | _, _, .inf c => (infBits fp32 c, 0)
    | .fin _ m1 e1, .fin _ m2 e2, .fin n3 m3 e3 =>
      let r := addFin (zeroNeg rm) s (m1 * m2) (e1 + e2) n3 m3 e3
      roundFP32 rm r.1 r.2.1 r.2.2 false

/-- FP32 division (R107, R112). -/
def divNum (rm : RMode) (x y : Num) : Nat × Nat :=
  let s := x.isNeg != y.isNeg
  match x, y with
  | .nan _, _ => (nan32, 0)
  | _, .nan _ => (nan32, 0)
  | .inf _, .inf _ => (nan32, 1)
  | .inf _, _ => (infBits fp32 s, 0)
  | .fin _ _ _, .inf _ => (packF fp32 s 0 0, 0)
  | .fin _ m1 e1, .fin _ m2 e2 =>
    if m2 = 0 then (if m1 = 0 then (nan32, 1) else (infBits fp32 s, 2))
    else
      let a := m1 * 2 ^ 64
      roundFP32 rm s (a / m2) (e1 - e2 - 64) (a % m2 != 0)

/-- FP32 square root (R112). -/
def sqrtNum (rm : RMode) (x : Num) : Nat × Nat :=
  match x with
  | .nan _ => (nan32, 0)
  | .inf n => if n then (nan32, 1) else (infBits fp32 false, 0)
  | .fin n m e =>
    if m = 0 then (packF fp32 n 0 0, 0)
    else if n then (nan32, 1)
    else
      let odd : Nat := if e % 2 = 0 then 0 else 1
      let a := m * 2 ^ (80 + odd)
      let r := isqrt a
      roundFP32 rm false r ((e - odd - 80) / 2) (r * r != a)

/-- Rounds toward zero to a 12-bit significand, or to FP32 precision in the subnormal range (R113). -/
def estimate (neg : Bool) (m : Nat) (e : Int) : Nat × Nat :=
  let big := magLt (maxFin fp32).1 (maxFin fp32).2 m e
  if big then (infBits fp32 neg, 5)
  else
    let top : Int := e + (bitLen m : Int)
    let p := if top < -125 then 24 else 12
    let q := ulpExp p fp32.emin m e
    (packF fp32 neg (roundAt .rtz neg m e q false) q, 0)

/-- FRCPE (R113): the reciprocal estimate. -/
def rcpe (x : Num) : Nat × Nat :=
  match x with
  | .nan _ => (nan32, 0)
  | .inf n => (packF fp32 n 0 0, 0)
  | .fin n m e => if m = 0 then (infBits fp32 n, 2) else
      let big := magLt ((maxFin fp32).1 * m) ((maxFin fp32).2 + e) 1 0
      if big then (infBits fp32 n, 5) else estimate n (2 ^ 300 / m) (-e - 300)

/-- FRSQE (R113): the reciprocal square root estimate. -/
def rsqe (x : Num) : Nat × Nat :=
  match x with
  | .nan _ => (nan32, 0)
  | .inf n => if n then (nan32, 1) else (0, 0)
  | .fin n m e =>
    if m = 0 then (infBits fp32 n, 2)
    else if n then (nan32, 1)
    else
      let odd : Nat := if e % 2 = 0 then 0 else 1
      estimate false (isqrt (2 ^ 200 / (m * 2 ^ odd))) (-(e - odd) / 2 - 100)

/-! ### Orders and classes (R109, R114, R115) -/

/-- x < y for decoded numbers that are no NaN; -0 and +0 are equal. -/
def numLt (x y : Num) : Bool :=
  match x, y with
  | .nan _, _ => false
  | _, .nan _ => false
  | .inf a, .inf b => a && !b
  | .inf a, _ => a
  | _, .inf b => !b
  | .fin n1 m1 e1, .fin n2 m2 e2 =>
    if m1 = 0 ∧ m2 = 0 then false
    else if n1 && !n2 then true
    else if !n1 && n2 then false
    else if n1 then magLt m2 e2 m1 e1 else magLt m1 e1 m2 e2

/-- FMIN and FMAX (R109): -0 is below +0, and one NaN gives the other operand. -/
def fminmax (mx : Bool) (a b : Nat) : Nat :=
  let x := decodeF fp32 a
  let y := decodeF fp32 b
  if x.isNaN && y.isNaN then nan32
  else if x.isNaN then b
  else if y.isNaN then a
  else
    let lt := numLt x y || (!numLt y x && x.isNeg && !y.isNeg)
    if mx then (if lt then b else a) else (if lt then a else b)

/-- FCLASS (R115). -/
def fclass (a : Nat) : Nat :=
  match decodeF fp32 a with
  | .nan _ => 256
  | .inf n => if n then 1 else 128
  | .fin n m _ =>
    if m = 0 then (if n then 8 else 16)
    else if m < 2 ^ 23 then (if n then 4 else 32)
    else (if n then 2 else 64)

/-! ### Narrowing (R77, R79) -/

/-- A finite or special value rounded into a floating-point format (R79), below its least normal number on the grid of its subnormal numbers
(log 65): the bits and the event kind. -/
def narrowF (f : FFmt) (rm : RMode) (x : Num) : Nat × Nat :=
  match x with
  | .nan n =>
    match f.sp with
    | .none => (maxBits f n, 7)
    | _ => (canonNaN f n, 0)
  | .inf n =>
    match f.sp with
    | .ieee => (infBits f n, 0)
    | _ => (maxBits f n, 6)
  | .fin n m e =>
    let q := ulpExp (f.mb + 1) f.emin m e
    let k := roundAt rm n m e q false
    if aboveMax f k q then (maxBits f n, 6) else (packF f n k q, 0)

/-- A value rounded into an integer format of limits lo to hi (R79): the integer and the event kind. -/
def narrowI (lo hi : Int) (rm : RMode) (x : Num) : Int × Nat :=
  match x with
  | .nan _ => (0, 7)
  | .inf n => (if n then lo else hi, 6)
  | .fin n m e =>
    let k := roundAt rm n m e 0 false
    let v : Int := if n then -(k : Int) else k
    if v < lo then (lo, 6) else if hi < v then (hi, 6) else (v, 0)

/-- FP32 to E8M0 (R77, code 22). -/
def toE8M0 (rm : RMode) (x : Num) : Nat × Nat :=
  match x with
  | .nan _ => (0xFF, 0)
  | .inf n => if n then (0xFF, 1) else (0xFE, 6)
  | .fin n m e =>
    if m = 0 then (0, 0)
    else if n then (0xFF, 1)
    else
      let L := bitLen m
      let fl : Int := e + (L : Int) - 1
      let frac := m - 2 ^ (L - 1)
      let up :=
        match rm with
        | .rne => decide (2 ^ (L - 1) ≤ 2 * frac)
        | .up => decide (0 < frac)
        | .stoch w => decide (2 ^ 32 ≤ (frac * 2 ^ 32) / 2 ^ (L - 1) + w) && decide (0 < (frac * 2 ^ 32) / 2 ^ (L - 1))
        | _ => false
      let r := fl + 127 + (if up then 1 else 0)
      if r < 0 then (0, 0) else if 254 < r then (0xFE, 6) else (r.toNat, 0)

/-- The number that an E8M0 byte stands for (R66). -/
def ofE8M0 (b : Nat) : Num := if b = 255 then .nan false else .fin false 1 ((b : Int) - 127)

/-- FP32 to FP32 rounded to an integral value (R76, code 24). -/
def toIntegral (rm : RMode) (a : Nat) : Nat × Nat :=
  match decodeF fp32 a with
  | .nan _ => (nan32, 0)
  | .inf n => (infBits fp32 n, 0)
  | .fin n m e => if 0 ≤ e then (a, 0) else (packF fp32 n (roundAt rm n m e 0 false) 0, 0)

/-- A decoded number as the FP32 that holds it exactly; a NaN is the FP32 NaN (R65). -/
def widen (x : Num) : Nat :=
  match x with
  | .nan _ => nan32
  | .inf n => infBits fp32 n
  | .fin n m e => (roundFP32 .rne n m e false).1

/-- An integer as a decoded number. -/
def numOfInt (v : Int) : Num := .fin (decide (v < 0)) v.natAbs 0

/-- The conversions of R76 on the operand L: the 32-bit result and the event kind. -/
def convert (code : Nat) (rm : RMode) (a : Nat) : Nat × Nat :=
  let x := decodeF fp32 a
  let int (lo hi : Int) : Nat × Nat := let r := narrowI lo hi rm x; (wrap 32 r.1, r.2)
  let sat (lo hi : Int) : Nat × Nat :=
    let v := sxt 32 a
    if v < lo then (wrap 32 lo, 6) else if hi < v then (wrap 32 hi, 6) else (a, 0)
  match code with
  | 0 => int (-2147483648) 2147483647
  | 1 => int 0 4294967295
  | 2 => let v := sxt 32 a; roundFP32 rm (decide (v < 0)) v.natAbs 0 false
  | 3 => roundFP32 rm false a 0 false
  | 4 => narrowF fp16 rm x
  | 5 => (widen (decodeF fp16 (a % 65536)), 0)
  | 6 => narrowF bf16 rm x
  | 7 => (widen (decodeF bf16 (a % 65536)), 0)
  | 8 => narrowF e4m3 rm x
  | 9 => (widen (decodeF e4m3 (a % 256)), 0)
  | 10 => narrowF e5m2 rm x
  | 11 => (widen (decodeF e5m2 (a % 256)), 0)
  | 12 => narrowF e3m2 rm x
  | 13 => (widen (decodeF e3m2 (a % 64)), 0)
  | 14 => narrowF e2m3 rm x
  | 15 => (widen (decodeF e2m3 (a % 64)), 0)
  | 16 => narrowF e2m1 rm x
  | 17 => (widen (decodeF e2m1 (a % 16)), 0)
  | 18 => int (-32768) 32767
  | 19 => int (-128) 127
  | 20 => int 0 255
  | 21 => int (-8) 7
  | 22 => toE8M0 rm x
  | 23 => (widen (ofE8M0 (a % 256)), 0)
  | 24 => toIntegral rm a
  | 25 => sat (-32768) 32767
  | _ => sat (-128) 127

/-- The exact product of two decoded numbers with the NaN sign and the kind that QNT gives (R123). -/
def qntProduct (x y : Num) : Num × Nat :=
  match x, y with
  | .nan n, _ => (.nan n, 0)
  | _, .nan n => (.nan n, 0)
  | .inf a, y => if y.isZero then (.nan (a != y.isNeg), 1) else (.inf (a != y.isNeg), 0)
  | x, .inf b => if x.isZero then (.nan (b != x.isNeg), 1) else (.inf (b != x.isNeg), 0)
  | .fin n1 m1 e1, .fin n2 m2 e2 => (.fin (n1 != n2) (m1 * m2) (e1 + e2), 0)

/-- A value narrowed into the format that a QNT code names (R123): the 32-bit result and the event kind. -/
def quantise (code : Nat) (rm : RMode) (x : Num) : Nat × Nat :=
  let int (lo hi : Int) : Nat × Nat := let r := narrowI lo hi rm x; (wrap 32 r.1, r.2)
  match code with
  | 1 => int (-128) 127
  | 2 => int 0 255
  | 3 => int (-8) 7
  | 4 => narrowF e4m3 rm x
  | 5 => narrowF e5m2 rm x
  | 6 => narrowF e3m2 rm x
  | 7 => narrowF e2m3 rm x
  | 8 => narrowF e2m1 rm x
  | 9 => narrowF fp16 rm x
  | 10 => narrowF bf16 rm x
  | _ => int (-32768) 32767

/-! ### Stochastic rounding words (R80) -/

/-- n steps of the Galois register of R80. -/
def lfsr : Nat → Nat → Nat
  | 0, s => s
  | n + 1, s => lfsr n (if s % 2 = 1 then Nat.xor (s / 2) 0x80200003 else s / 2)

/-- The random word of one FCVTS firing (R80). -/
def stochWord (id slot tag commits : Nat) : Nat :=
  let s0 := Nat.lor (Nat.lor ((id * 65536) % 2 ^ 32) (slot * 256)) 0x5D
  let s1 := Nat.xor (Nat.xor s0 (tag % 2 ^ 32)) (bits tag 47 32)
  let s2 := Nat.xor s1 ((commits * 0x9E3779B9) % 2 ^ 32)
  lfsr 16 (if s2 = 0 then 0x5D else s2)

/-! ### TRI5 and LC2 (R69 to R72) -/

/-- The digit of trit i of a legal TRI5 byte (R70): 0, 1 or 2. -/
def tritDigit (b i : Nat) : Nat :=
  let m : List Nat := [65536, 21846, 7282, 2428, 810]
  let q := fun k => match m[k]? with
    | some c => (b * c) >>> 16
    | none => 0
  q i - 3 * q (i + 1)

/-- The 2-bit code of trit i of a TRI5 byte (R71, R120): 00, 01, 11, and 10 for every trit of an illegal byte. -/
def tritCode (b i : Nat) : Nat :=
  if 243 ≤ b then 2
  else
    match tritDigit b i with
    | 0 => 0
    | 1 => 1
    | _ => 3

/-- The value of a 2-bit trit code: code 10 counts as 0 (R71). -/
def tritVal (c : Nat) : Int :=
  match c with
  | 1 => 1
  | 3 => -1
  | _ => 0

/-- The eight LC2 elements of an index in quarters (R72): m is 2 or 6, the offset 1 or -1. -/
def lc2Quarters (x : Nat) : List Int :=
  let m := fun j => if bitAt x (8 + j) then (6 : Int) else 2
  let v := fun j => if bitAt x (j + 1) then -(m j) else m j
  let lead := [v 0, v 1, v 2, v 3, v 4, v 5, v 6]
  let s := lead.foldl (· + ·) (m 7)
  let v7 := if (s / 4) % 2 = 0 then m 7 else -(m 7)
  let off : Int := if bitAt x 0 then 1 else -1
  (lead ++ [v7]).map (· + off)

/-- One LC2 element as a decoded number. -/
def lc2Num (q : Int) : Num := .fin (decide (q < 0)) q.natAbs (-2)

/-- One LC2 element as an E4M3 byte. -/
def lc2Byte (q : Int) : Nat := (narrowF e4m3 .rne (lc2Num q)).1

end Sys2Proof.Machine
end

