-- ==== Sys2Proof/Machine/Flags.lean ====
section
/-! DEFINITION. Sys2Proof/Machine/Flags.lean: the frame of one firing (R91): predication and nulls, the flags and poison of a
result (R82, R148), and the emission of one or two results. -/

namespace Sys2Proof.Machine

/-- A result of an operation before the frame marks it: its value and the kind of event it reports, 0 for none (R81). -/
structure Res where
  val : Word
  kind : Nat := 0
  deriving DecidableEq, Repr

/-- Marking one result of the firing in progress (R82, R91): the origin of the first poisoned operand, or a new origin for an
event, or no poison. -/
def State.mark (s : State) (r : Res) : State × Token :=
  match s.cur.firstOrigin with
  | some o => (s, { val := r.val, pois := true, origin := o })
  | none =>
    if r.kind = 0 then (s, { val := r.val })
    else
      let c := s.cur
      let n := s.newOrigin c.p c.pg c.tile c.tag s.curAct.gen r.kind (opF c.word).toNat (xOf c.word) 0
      (n.1, { val := r.val, pois := true, origin := n.2 })

/-- The null token of R17 and R18: plain, or with poison and an origin. -/
def nullOf (o : Option (BitVec 11)) : Token := withPoison { null := true } o

/-- The frame of R91 around an instruction that produces tokens: `run` gives the state after the operation. -/
def State.frame (s : State) (pr : BitVec 2) (lat : Nat) (t1 t0 : Target) (run : State → State) : State :=
  match s.cur.verdict pr with
  | .run => run s
  | .silent => s.silent
  | .nulls o => s.emit lat t0 t1 (nullOf o) (nullOf o)

/-- The frame of the instructions that route a null operand rather than being nulled by it (R93, R129, R130, R165): P alone
decides; a null P makes nulls as R17 lays down. -/
def State.rawFrame (s : State) (pr : BitVec 2) (lat : Nat) (t1 t0 : Target) (run : State → State) : State :=
  match if isNull s.cur.pt then .nulls s.cur.firstOrigin else predOf pr s.cur.pt with
  | .run => run s
  | .silent => s.silent
  | .nulls o => s.emit lat t0 t1 (nullOf o) (nullOf o)

/-- A token routed unchanged: its value and flags, poisoned as R82 lays down. -/
def passed (o : Option (BitVec 11)) (t : Token) : Token := withPoison { t with pois := false, origin := 0 } o

/-- The token in an operand, or a blank one. -/
def tokIn (t : Option Token) : Token := t.getD {}

/-- One result to both targets (R36), in the frame of R91. -/
def State.one (s : State) (pr : BitVec 2) (lat : Nat) (t1 t0 : Target) (r : Res) : State :=
  s.frame pr lat t1 t0 fun s =>
    let m := s.mark r
    m.1.emit lat t0 t1 m.2 m.2

/-- Two results (R36), T0's origin allocated first (R91). -/
def State.two (s : State) (pr : BitVec 2) (lat : Nat) (t1 t0 : Target) (r0 r1 : Res) : State :=
  s.frame pr lat t1 t0 fun s =>
    let m := s.mark r0
    let n := m.1.mark r1
    n.1.emit lat t0 t1 m.2 n.2

/-- The operands' values. -/
def State.lv (s : State) : Word := valOf s.cur.l
def State.rv (s : State) : Word := valOf s.cur.r
def State.cv (s : State) : Word := valOf s.cur.c

/-- The rounding mode of the firing's block (R31). -/
def State.rm (s : State) : RMode := rmodeOf (hdrRM s.curAct.hdr)

/-- A word and an event kind as a result. -/
def resOf (x : Nat × Nat) : Res := ⟨word x.1, x.2⟩

end Sys2Proof.Machine
end

