-- ==== Sys2Proof/Machine/Control.lean ====
section
/-! DEFINITION. Sys2Proof/Machine/Control.lean: READ, the exits BR, BRR and RET, LOOP, STEER, STEERF and MERGE (R124 to
R130, R155, R176), the fibre operations FIB (R165), SETW (R145) and FENCE (R146). -/

namespace Sys2Proof.Machine

/-! ### Registers in -/

/-- READ (R10, R124, R158): the register as the activation holds it, to both targets. -/
def execRead (g : BitVec 6) (t1 t0 : Target) (s : State) : Out :=
  let r := regAt s.curAct.regs g.toNat
  let t : Token := { val := r.val, pois := r.pois, origin := if r.pois then r.origin else 0 }
  .next (s.emit 1 t0 t1 t t)

/-! ### Exits -/

/-- An exit token on its way to its block (R126): it is produced 1 fclk after the firing. -/
def State.sendExit (s : State) (addr num : Nat) (ret : Bool) : State :=
  let c := s.cur
  let e : ExitRec := { addr := addr, num := num, slot := c.tile, fid := c.fid, ret := ret }
  let a : Args := { p := c.p, pg := c.pg, tag := c.tag, fid := c.fid, tg := .none, l := exitNums e }
  (s.sched (s.now + 1) (srcOf c.pg c.tile) .tokenArrival a).modFire c.p c.pg c.fid
    (fun f => { f with leaves := s.now + 1, phase := .run })

/-- The frame of an instruction without targets (R16 to R18): run, or nothing. -/
def State.bareFrame (s : State) (pr : BitVec 2) (run : State → State) : State :=
  match s.cur.verdict pr with
  | .run => run s
  | _ => s.silent

/-- A block address plus a signed number of 8-byte units (R28). -/
def blkPlus (blk : Nat) (off : BitVec 20) : Nat := wrap 64 ((blk : Int) + off.toInt * 8)

/-- BR (R126). -/
def execBr (pr : BitVec 2) (exit : BitVec 3) (off : BitVec 20) (s : State) : Out :=
  .next (s.bareFrame pr fun s => s.sendExit (blkPlus s.curAct.blk off) exit.toNat false)

/-- An address whose high half is the current block's where R gives none (R127). -/
def farAddr (blk : Nat) (l : Word) (r : Option Token) : Nat :=
  match r with
  | some t => t.val.toNat * 2 ^ 32 + l.toNat
  | none => (blk / 2 ^ 32) * 2 ^ 32 + l.toNat

/-- BRR (R127). -/
def execBrr (pr : BitVec 2) (exit : BitVec 3) (s : State) : Out :=
  .next (s.bareFrame pr fun s => s.sendExit (farAddr s.curAct.blk s.lv s.cur.r) exit.toNat false)

/-- RET (R176): the strand's exit; strand 0:0's own RET takes the results with their flags. A RET in a loop body ends its
iteration only (R156). -/
def execRet (pr : BitVec 2) (s : State) : Out :=
  .next (s.bareFrame pr fun s =>
    let a := s.curAct
    let s := if a.role = .main && a.strand = 0 && hdrKind a.hdr != 3 then
        s.modInst s.cur.p s.cur.id (fun i => { i with res0 := s.cur.l, res1 := s.cur.r })
      else s
    s.sendExit 0 0 true)

/-! ### LOOP -/

/-- Noting that a LOOP or RFT has fired or been suppressed (R155, R340). -/
def State.settle (s : State) : State :=
  s.modAct s.cur.p s.cur.pg s.cur.tag (fun a => { a with settled := a.settled ++ [s.cur.tile] })

/-- LOOP (R155): it latches its count and the body's address; in a handler activation it raises DEPTH (R168). -/
def execLoop (pr : BitVec 2) (off : BitVec 20) (s : State) : Out :=
  .next (match s.cur.verdict pr with
    | .run =>
      if s.curAct.ofStrand then
        let s := match origOf s.cur.l with
          | some o => s.reportPoison s.cur.p o 0 false
          | none => s
        let n := s.lv.toNat
        let s := s.silent.settle
        if n = 0 then s
        else s.modAct s.cur.p s.cur.pg s.cur.tag (fun a =>
          { a with latched := some (n, blkPlus a.blk off, s.cur.tile, s.cur.fid) })
      else s.trap 0x07 1 0
    | _ => s.silent.settle)

/-! ### Steering -/

/-- The nulls that STEER and STEERF make under R17 carry flags [13:11] of L (R129). -/
def steerNull (c : Cur) : Token :=
  let l := tokIn c.l
  { nullOf c.firstOrigin with eof := l.eof, scale := l.scale, coord := l.coord }

/-- STEER (R129): L to T0 or T1 by bit 0 of R. -/
def execSteer (pr : BitVec 2) (t1 t0 : Target) (s : State) : Out :=
  .next (match if isNull s.cur.pt then .run else predOf pr s.cur.pt with
    | .run =>
      if s.cur.anyNull then s.emit 1 t0 t1 (steerNull s.cur) (steerNull s.cur)
      else
        let t := passed s.cur.firstOrigin (tokIn s.cur.l)
        if s.rv.getLsbD 0 then s.emit 1 t0 .none t t else s.emit 1 .none t1 t t
    | .silent => s.silent
    | .nulls o => s.emit 1 t0 t1 (nullOf o) (nullOf o))

/-- STEERF (R129): a non-null L to T0 when it closes a fibre, to T1 otherwise. -/
def execSteerf (pr : BitVec 2) (t1 t0 : Target) (s : State) : Out :=
  .next (match if isNull s.cur.pt then .run else predOf pr s.cur.pt with
    | .run =>
      if s.cur.anyNull then s.emit 1 t0 t1 (steerNull s.cur) (steerNull s.cur)
      else
        let t := passed s.cur.firstOrigin (tokIn s.cur.l)
        if t.eof then s.emit 1 t0 .none t t else s.emit 1 .none t1 t t
    | .silent => s.silent
    | .nulls o => s.emit 1 t0 t1 (nullOf o) (nullOf o))

/-- MERGE (R130): the token of the position that C selects, flags unchanged; a null C emits nulls. -/
def execMerge (pr : BitVec 2) (t1 t0 : Target) (s : State) : Out :=
  .next (s.rawFrame pr 1 t1 t0 fun s =>
    if isNull s.cur.c then s.emit 1 t0 t1 (nullOf s.cur.firstOrigin) (nullOf s.cur.firstOrigin)
    else
      let t := passed s.cur.firstOrigin (if s.cv.getLsbD 0 then tokIn s.cur.l else tokIn s.cur.r)
      s.emit 1 t0 t1 t t)

/-! ### Fibres (R164, R165) -/

/-- A null token that does not close a fibre. -/
def plainNull (t : Token) : Bool := t.null && !t.eof

/-- A closing token of a value (R164). -/
def closing (v : Word) : Token := { val := v, null := true, eof := true }

/-- The result of a FIB form in its frame: a plain null operand follows R17; `r` gives the token and its event's kind. -/
def State.fib (s : State) (pr : BitVec 2) (t1 t0 : Target) (two : Bool) (r : Token × Nat) : State :=
  s.rawFrame pr 1 t1 t0 fun s =>
    if plainNull (tokIn s.cur.l) || (two && plainNull (tokIn s.cur.r)) then
      s.emit 1 t0 t1 (nullOf s.cur.firstOrigin) (nullOf s.cur.firstOrigin)
    else
      let m := s.mark ⟨r.1.val, r.2⟩
      let t := { r.1 with pois := m.2.pois, origin := m.2.origin }
      m.1.emit 1 t0 t1 t t

/-- The coordinate of a token and whether it lies at or above 2^30 (R165). -/
def coordOf (t : Token) : Nat × Bool := (t.val.toNat % 2 ^ 30, decide (2 ^ 30 ≤ t.val.toNat))

/-- ISECT and UNION on operands that are not both end-of-fibre (R165): advance code and lower coordinate. -/
def fibPair (union : Bool) (l r : Token) : Token × Nat :=
  let a := coordOf l
  let b := coordOf r
  let code := if l.null then 2 else if r.null then 1 else if a.1 = b.1 then 3 else if a.1 < b.1 then 1 else 2
  let v := if l.null then b.1 else if r.null then a.1 else min a.1 b.1
  let ev := (!l.null && a.2) || (!r.null && b.2)
  ({ val := word (code * 2 ^ 30 + v), coord := union || code == 3 }, b2n ev)

def execFibIsect (pr : BitVec 2) (t1 t0 : Target) (s : State) : Out :=
  let l := tokIn s.cur.l
  let r := tokIn s.cur.r
  .next (s.fib pr t1 t0 true (if l.null || r.null then (closing 0, 0) else fibPair false l r))

def execFibUnion (pr : BitVec 2) (t1 t0 : Target) (s : State) : Out :=
  let l := tokIn s.cur.l
  let r := tokIn s.cur.r
  .next (s.fib pr t1 t0 true (if l.null && r.null then (closing 0, 0) else fibPair true l r))

/-- EOFT: 1 when L has flag [13]. -/
def execFibEoft (pr : BitVec 2) (t1 t0 : Target) (s : State) : Out :=
  .next (s.fib pr t1 t0 false ({ val := boolW (tokIn s.cur.l).eof }, 0))

/-- MKEOF: the closing token with L's value. -/
def execFibMkeof (pr : BitVec 2) (t1 t0 : Target) (s : State) : Out :=
  .next (s.fib pr t1 t0 false (closing s.lv, 0))

/-- MKCRD: L's value modulo 2^30 as a coordinate. -/
def execFibMkcrd (pr : BitVec 2) (t1 t0 : Target) (s : State) : Out :=
  let a := coordOf (tokIn s.cur.l)
  .next (s.fib pr t1 t0 false ({ val := word a.1, coord := true }, b2n a.2))

/-! ### SETW (R145) -/

/-- A window part set at commit, and the done token. -/
def State.setw (s : State) (pr : BitVec 2) (w : BitVec 3) (part : Nat) (t1 t0 : Target) (v : DWord) : State :=
  s.frame pr 1 t1 t0 fun s =>
    let s := s.modAct s.cur.p s.cur.pg s.cur.tag (fun a => { a with setws := a.setws ++ [(s.cur.tile, w.toNat, part, v)] })
    let m := s.mark ⟨0, 0⟩
    m.1.emit 1 t0 t1 m.2 m.2

def execSetwBase (pr : BitVec 2) (w : BitVec 3) (t1 t0 : Target) (s : State) : Out :=
  .next (s.setw pr w 0 t1 t0 (s.rv ++ s.lv))
def execSetwLim (pr : BitVec 2) (w : BitVec 3) (t1 t0 : Target) (s : State) : Out :=
  .next (s.setw pr w 1 t1 t0 (s.rv ++ s.lv))
def execSetwAttr (pr : BitVec 2) (w : BitVec 3) (t1 t0 : Target) (s : State) : Out :=
  .next (s.setw pr w 2 t1 t0 (s.lv.setWidth 64))

/-! ### FENCE (R146, R230) -/

/-- The latency of a FENCE by scope (R147). -/
def fenceLat (scope : Nat) : Nat :=
  match scope with
  | 0 => 1
  | 1 => 6
  | 2 => 16
  | 3 => 40
  | 4 => 60
  | _ => 900

/-- The done token of a firing: value v with the poison of its operands. -/
def Fire.done (f : Fire) (v : Word) : Token := withPoison (tokV v) (curOf 0 0 f).firstOrigin

/-- FENCE: the release kinds make the instance's committed stores visible; the others only order what depends on their token. -/
def State.fence (s : State) (rel : Bool) (pr : BitVec 2) (scope : BitVec 3) (t1 t0 : Target) : State :=
  let lat := fenceLat scope.toNat
  s.frame pr lat t1 t0 fun s =>
    let m := (if rel then s.flush s.cur.p s.cur.id else s).mark ⟨0, 0⟩
    m.1.emit lat t0 t1 m.2 m.2

def execFenceAcq (pr : BitVec 2) (scope : BitVec 3) (t1 t0 : Target) (s : State) : Out := .next (s.fence false pr scope t1 t0)
def execFenceRel (pr : BitVec 2) (scope : BitVec 3) (t1 t0 : Target) (s : State) : Out := .next (s.fence true pr scope t1 t0)
def execFenceAr (pr : BitVec 2) (scope : BitVec 3) (t1 t0 : Target) (s : State) : Out := .next (s.fence true pr scope t1 t0)
def execFenceSc (pr : BitVec 2) (scope : BitVec 3) (t1 t0 : Target) (s : State) : Out := .next (s.fence true pr scope t1 t0)

end Sys2Proof.Machine
end

