-- ==== Sys2Proof/Machine/Wft.lean ====
section
/-! DEFINITION. Sys2Proof/Machine/Wft.lean: the wait-for table (R251 to R260): registration, status tokens, walks and
deadlock, and effective priority. -/

namespace Sys2Proof.Machine

/-! ### Priorities arrive, and WREGs go -/

/-- PRIORITY_PROPAGATE (R255): an instance takes the effective priority that has reached it. -/
def execPriorityPropagate (s : State) : Out :=
  let p := s.arg.p
  let e := ((s.part p).effOf s.arg.id).1
  .next ((s.modInst p s.arg.id (fun i => { i with eff := e })).wakeInst p s.arg.id)

/-- A WREG is withdrawn or replaced: its status, if still owed, is 0 (R253). -/
def State.dropWreg (s : State) (p id name : Nat) : State :=
  let s := s.wregStatus p id name 0 0
  s.modPart p (fun x => { x with wregs := x.wregs.filter (fun w => !(w.id == id && w.name == name)) })

/-! ### Registration (R252, R257, R258, R260) -/

/-- Where a new entry is kept: 1 on the die, 2 in the overflow area, 3 refused. -/
def State.wftHome (s : State) (p name : Nat) : Nat :=
  let x := s.part p
  if x.wftOnDie (nameDie name) < (kget x.wftShare (nameDie name)).getD 0 then 1
  else if x.wftOver < bits (x.csrN 0x0C6) 15 0 * 256 then 2 else 3

/-- The VA of the next overflow entry, and its write, whose 32 bytes the spec does not lay out (log 39); none where it faults. -/
def Part.wftVa (x : Part) : Nat := x.base64 0x0C4 12 + 32 * x.wftOver
def State.wftWrite (s : State) (p : Nat) : Option State :=
  s.devEntry p (s.part p).wftVa

/-- Does a registration still hold when its turn comes: its operation is still parked, or its hold still stands? -/
def State.regStands (s : State) (p : Nat) (e : WftEnt) : Bool :=
  ((s.part p).inst? e.id).any (fun i => i.gen == e.gen) &&
    (!e.wait || ((s.page p e.pg).fire? e.fid).any (fun f => f.phase == .parked && (!f.acted || (s.inst p e.id).status != .frozen)))

/-- A registration is entered, and its walk begins: in the overflow area 140 fclk later for its status. -/
def State.enter (s : State) (p : Nat) (r : RegReq) (home : Nat) : State :=
  let die := nameDie r.ent.name
  let extra := if home = 2 then 140 else 0
  let s := if r.stFid = 0 then s else s.sendStatus p r.stPg r.stFid die home extra
  let s := if r.ent.wait then s.wregStatus p r.ent.id r.ent.name home extra else s
  if home = 3 then s.bumpCsr p 0x0C7 15 0
  else
    let e := { r.ent with home := home, ts := s.ts }
    let first : Bool × Nat × Nat := if e.wait then (true, e.name, die) else (false, e.id, die)
    let s := (s.modPart p (fun x => { x with wft := x.wft ++ [e], walk := some { ent := e, todo := [first] } })).wftUse p
    (s.sched s.now 0 .cycleWalkEnd { p := p }).prioChanged p [e.start] []

/-- Entering the registrations that wait, one at a time (R258). -/
def State.regNext (s : State) (p : Nat) : Nat → State
  | 0 => s
  | n + 1 =>
    let x := s.part p
    match x.walk, x.regq with
    | none, r :: rest =>
      let s := s.modPart p (fun x => { x with regq := rest })
      if !s.regStands p r.ent then
        (if r.stFid = 0 then s else s.sendStatus p r.stPg r.stFid (nameDie r.ent.name) 0 0).regNext p n
      else
        match s.wftHome p r.ent.name with
        | 2 =>
          match s.wftWrite p with
          | some t => (t.enter p r 2).regNext p n
          | none => ((s.postVf p 0x07 [x.wftVa]).enter p r 3).regNext p n
        | home => (s.enter p r home).regNext p n
    | _, _ => s

/-- Entering all that can be entered now. -/
def State.regAll (s : State) (p : Nat) : State := s.regNext p ((s.part p).regq.length + 1)

/-- Registering a wait or a hold. -/
def State.register (s : State) (p : Nat) (r : RegReq) : State :=
  (s.modPart p (fun x => { x with regq := x.regq ++ [r] })).regAll p

/-- Withdrawing the wait entry of a parked operation, and the WREG that stood for it, whose status, if still owed, is 0 (R252, R253). -/
def State.endWait (s : State) (p fid : Nat) : State :=
  let s := ((s.part p).wregs.filter (fun w => w.parked == fid)).foldl (fun s w => s.wregStatus p w.id w.name 0 0) s
  (s.modPart p (fun x => { x with wregs := x.wregs.filter (fun w => w.parked != fid) })).dropWft p (fun w => w.wait && w.fid == fid)

/-- Withdrawing a hold entry. -/
def State.endHold (s : State) (p id name : Nat) : State :=
  let mine : WftEnt → Bool := fun w => !w.wait && w.id == id && w.name == name
  (s.modPart p (fun x => { x with regq := x.regq.filter (fun r => !mine r.ent) })).dropWft p mine

/-- Has an instance a hold entry on a name, entered or on its way? -/
def Part.holds (x : Part) (id name : Nat) : Bool :=
  x.wft.any (fun w => !w.wait && w.id == id && w.name == name) || x.regq.any (fun r => !r.ent.wait && r.ent.id == id && r.ent.name == name)

/-- A hold entry for an instance on a name. -/
def State.enterHold (s : State) (p : Nat) (i : Inst) (name pg fid : Nat) (status : Bool) : State :=
  s.register p { ent := { wait := false, id := i.id, gen := i.gen, name := name, fid := fid, pg := pg },
                 stPg := pg, stFid := if status then fid else 0 }

/-- A wait entry for a parked firing; `status` names the firing's own T1. -/
def State.enterWait (s : State) (p pg : Nat) (f : Fire) (name : Nat) (status : Bool) : State :=
  let i := s.inst p f.id
  let s := s.modPart p (fun x => { x with wregs := x.wregs.map (fun w =>
    if w.id == f.id && w.name == name && w.parked == 0 then { w with parked := f.fid } else w) })
  s.register p { ent := { wait := true, id := f.id, gen := i.gen, name := name, tag := f.tag, fid := f.fid, pg := pg },
                 stPg := pg, stFid := if status then f.fid else 0 }

/-! ### Cycles (R257 to R259) -/

/-- A member of a cycle: an instance, its GEN, and the name it waits on. -/
abbrev Member := Nat × Nat × Nat

/-- The search for a cycle, path by path; `closes` tells whether an instance that holds the last name closes it. -/
def searchCycle (wft : List WftEnt) (closes : WftEnt → List Member → Bool) : Nat → List Nat → List (List Member) → Option (List Member)
  | 0, _, _ => none
  | n + 1, seen, paths =>
    let grow : List (WftEnt × List Member) := paths.flatMap (fun m =>
      (wft.filter (fun h => !h.wait && some h.name == (m.getLast?.map (fun z => z.2.2)))).map (fun h => (h, m)))
    match grow.find? (fun g => closes g.1 g.2) with
    | some g => some g.2
    | none =>
      let fresh := grow.filter (fun g => !seen.contains g.1.id)
      let more := fresh.flatMap (fun g =>
        (wft.filter (fun w => w.wait && w.id == g.1.id)).map (fun w => g.2 ++ [(w.id, w.gen, w.name)]))
      if more.isEmpty then none else searchCycle wft closes n (seen ++ fresh.map (fun g => g.1.id)) more

/-- The cycle that an entry closes, starting from the registering instance. -/
def Part.cycleOf (x : Part) (e : WftEnt) : Option (List Member) :=
  if e.wait then
    searchCycle x.wft (fun h _ => h.id == e.id) (x.wft.length + 1) [] [[(e.id, e.gen, e.name)]]
  else
    let mine := (x.wft.filter (fun w => w.wait && w.id == e.id)).map (fun w => [(w.id, w.gen, w.name)])
    match mine.find? (fun m => m.any (fun z => z.2.2 == e.name)) with
    | some m => some m
    | none => searchCycle x.wft (fun h m => h.id == e.id && m.any (fun z => z.2.2 == e.name)) (x.wft.length + 1) [e.id] mine

/-- The cycle record of R259 as twenty words. -/
def cycleWords (ts : Nat) (m : List Member) : List Word :=
  let eight := m.take 8
  let cells := eight.flatMap (fun z => [word (z.1 + (z.2.1 % 8) * 65536), word z.2.2])
  [word m.length, word eight.length, word (ts % 2 ^ 32), word (ts / 2 ^ 32)] ++ cells ++ List.replicate (16 - cells.length) 0

/-- The next entry that a walk reads (R257), and the nodes still to be left. -/
def Part.walkNext (x : Part) (seen : List WftEnt) : List (Bool × Nat × Nat) → Option (WftEnt × List (Bool × Nat × Nat))
  | [] => none
  | q :: qs =>
    match x.wft.find? (fun w => !seen.contains w && (if q.1 then !w.wait && w.name == q.2.1 else w.wait && w.id == q.2.1)) with
    | some w => some (w, q :: qs)
    | none => x.walkNext seen qs

/-- The walk has read an entry: one that still stands is passed, and its far node is to be left; does it end where the walk began? -/
def Walk.pass (k : Walk) (x : Part) : Walk × Bool :=
  match k.reading with
  | none => (k, false)
  | some w =>
    if !x.wft.contains w then ({ k with reading := none }, false)
    else
      let far : Bool × Nat := if w.wait then (true, w.name) else (false, w.id)
      ({ k with reading := none, seen := k.seen ++ [w], todo := k.todo ++ [(far.1, far.2, nameDie w.name)] },
        far == (if k.ent.wait then (false, k.ent.id) else (true, k.ent.name)))

/-- The cost of reading an entry of a walk: 1 fclk, 24 for each die crossing, 140 in the overflow area (R257). -/
def readCost (w : WftEnt) (todo : List (Bool × Nat × Nat)) : Nat :=
  1 + 24 * crossDie (((todo.head?).map (fun q => q.2.2)).getD 0 * 256) (nameDie w.name) + (if w.home = 2 then 140 else 0)

/-- A walk has reached the start of its entry: an entry that still stands traps the registering instance with DEADLOCK, and a wait entry is
withdrawn with its operation (R257, R259). -/
def State.closeCycle (s : State) (p : Nat) (k : Walk) : State :=
  let e := k.ent
  if !(s.part p).wft.contains e then s
  else
    match { s.part p with wft := k.seen ++ [e] }.cycleOf e with
    | none => s
    | some m =>
      let f := ((s.page p e.pg).fire? e.fid).getD { fid := 0, id := e.id, strand := 0, tile := 0, tag := tagOf e.id e.gen, word := 0 }
      let a := ((s.page p e.pg).act? f.tag).getD { tag := f.tag, id := e.id, strand := f.strand }
      let s := s.takeTrap p e.id { trapAt e.pg a f.tile 0x09 m.length e.name with cycle := cycleWords e.ts m }
      if e.wait then s.endWait p e.fid else s

/-- CYCLE_WALK_END (R257, R258): the walk of the latest entry reads its next entry, or ends. At its end a cycle that it has closed traps,
and the next registration is entered. -/
def execCycleWalkEnd (s : State) : Out :=
  let p := s.arg.p
  .next (match (s.part p).walk with
    | none => s.regAll p
    | some k =>
      let z := k.pass (s.part p)
      let stop (s : State) : State := s.modPart p (fun x => { x with walk := none })
      if z.2 then ((stop s).closeCycle p z.1).regAll p
      else
        match (s.part p).walkNext z.1.seen z.1.todo with
        | none => (stop s).regAll p
        | some (w, todo) =>
          (s.modPart p (fun x => { x with walk := some { z.1 with reading := some w, todo := todo } })).sched (s.now + readCost w todo) 0
            .cycleWalkEnd { p := p })

end Sys2Proof.Machine
end

