-- ==== Sys2Proof/Machine/MemInst.lean ====
section
/-! DEFINITION. Sys2Proof/Machine/MemInst.lean: loads and stores (R131 to R137), store buffers and replays (R20 to R22),
committed stores on their way to memory (R222, R224, R226), full/empty operations (R138 to R143, R215), multicast copies (R218)
and watchpoints (R413). -/

namespace Sys2Proof.Machine

/-! ### Watchpoints (R413) -/

/-- Does watchpoint k match an access? -/
def Part.wpHit (x : Part) (kind va size : Nat) (ld st : Bool) (k : Nat) : Bool :=
  let ctl := x.csrN (0x112 + 4 * k)
  let a := bits (x.csrN (0x111 + 4 * k)) 15 0 * 2 ^ 32 + x.csrN (0x110 + 4 * k)
  bitAt ctl 0 && ((ld && bitAt ctl 1) || (st && bitAt ctl 2)) && (bitAt ctl 4 == (kind == 2))
    && decide (a < va + size) && decide (va ≤ a + bits ctl 15 5)

/-- The lowest watchpoint that matches, and whether it traps. -/
def Part.watch (x : Part) (kind va size : Nat) (ld st : Bool) : Option (Nat × Bool) :=
  ((List.range 4).find? (x.wpHit kind va size ld st)).map (fun k => (k, bitAt (x.csrN (0x112 + 4 * k)) 3))

/-! ### The address of an access (R131) -/

/-- A window of the firing's activation. -/
def State.winOf (s : State) (w : Nat) : Win := (s.curAct.wins[w]?).getD {}

/-- The effective address of an M-format instruction. -/
def State.ea (s : State) (w : BitVec 3) (off : BitVec 6) (size : Nat) : Nat :=
  (s.winOf w.toNat).base.toNat + s.lv.toNat + off.toNat * size

/-- An access that fires: the checks of R132, then watchpoints; the continuation takes its window kind, VA, key and leaf. -/
def State.accessM (s : State) (w : BitVec 3) (off : BitVec 6) (size : Nat) (a : AccKind)
    (run : State → Nat → Nat → Nat → Nat → State) : State :=
  let win := s.winOf w.toNat
  let kind := bits win.attr.toNat 1 0
  let va := s.ea w off size
  match s.checkAccess s.cur.p w.toNat win va size a with
  | .error e => s.trap e.1 e.2 (if e.1 = 255 then e.2 else va)
  | .ok (key, pte) =>
    match (s.part s.cur.p).watch kind va size (!a.store || a.fe) (a.store || a.fe) with
    | some (k, true) => s.trap 0x11 k va
    | some (k, false) =>
      (run s kind va key pte).stopPages s.cur.p ((s.part s.cur.p).clusterOf s.cur.pg) 2 k (srcOf s.cur.pg s.cur.tile)
    | none => run s kind va key pte

/-- Is a page strongly ordered (R209, R226, R228)? -/
def isSO (kind pte : Nat) : Bool := kind != 2 && !Pte.win pte && Pte.ord pte == 0

/-- The tile that owns a fabric address, as logical page and tile (R202). -/
def fabPage (fa : Nat) : Nat := bits fa 31 22
def fabTile (fa : Nat) : Nat := bits fa 21 16

/-- The die of a device DRAM address; host memory is reached through d0 (R206, R403). -/
def dieOf (key : Nat) : Nat := if isHost key then 0 else bits key 38 37

/-! ### Reading what a load returns (R20, R160) -/

/-- One byte of a store. -/
def StoreRec.byteAt (st : StoreRec) (key : Nat) : Option Byte :=
  if st.key ≤ key ∧ key < st.key + st.size then some (BitVec.ofNat 8 (st.data.toNat >>> (8 * (key - st.key)))) else none

/-- The byte that the youngest of a list of stores, in order, writes at a key. -/
def lastByte (l : List StoreRec) (key : Nat) : Option Byte := (l.filterMap (fun st => st.byteAt key)).getLast?

/-- The buffered stores that a load of an activation sees, oldest first: those of earlier live activations, then its own of
lower LSID. -/
def Page.seen (y : Page) (a : Act) (lsid : Nat) : List StoreRec :=
  let older := y.acts.filter (fun b => y.before b a)
  let key (b : Act) : Nat := (y.path 9 b).foldl (fun n i => n * 2 ^ 32 + i + 1) 0 * 2 ^ (32 * (9 - (y.path 9 b).length))
  (sortKey key older).flatMap (fun b => sortKey StoreRec.lsid b.stores)
    ++ sortKey StoreRec.lsid (a.stores.filter (fun st => decide (st.lsid < lsid)))

/-- The bytes of a load that buffered stores give, by position. -/
def Page.forward (y : Page) (f : Fire) : List (Option Byte) :=
  match y.act? f.tag with
  | none => List.replicate f.size none
  | some a => (List.range f.size).map (fun i => lastByte (y.seen a f.lsid) (f.key + i))

/-- The bytes in memory as an agent sees them: its own committed stores that have not yet performed stand over memory. -/
def State.strandBytes (s : State) (p id agent key n : Nat) : List Byte :=
  let mine := (s.part p).posted.filter (fun w => w.id == id && w.agent == agent)
  (List.range n).map (fun i =>
    match (mine.filterMap (fun w => kget w.cells (key + i))).getLast? with
    | some b => b
    | none => Mem.byte s.mem (key + i))

/-- The slot of a tile's SRAM (R205): one access an fclk, in arrival order. An access that finds it taken comes again in the next free one
(y = 1). -/
def State.sramTurn (s : State) (p va src : Nat) (row : Instr) (a : Args) (run : State → State) : State :=
  if a.y = 1 then run s
  else
    let pg := fabPage va
    let t := max s.now (((kget (s.page p pg).sram (fabTile va)).map (· + 1)).getD 0)
    let s := s.modPage p pg (fun y => { y with sram := kset y.sram (fabTile va) t })
    if t = s.now then run s else s.sched t src row { a with y := 1 }

/-- A load's bytes in memory: those that a younger load of its agent has already read stand as that one read them, so that no agent reads
a byte's later value first (R223). -/
def State.loadBytes (s : State) (p pg : Nat) (f : Fire) : List Byte :=
  let y := s.page p pg
  let bs := s.strandBytes p f.id (agentOf f.strand f.tag) f.key f.size
  match y.act? f.tag with
  | none => bs
  | some a =>
    let young (g : Fire) : Bool := isOrdLoad (opF g.word).toNat && !g.got.isEmpty && g.aux[3]? != some 1 &&
      decide (g.key < f.key + f.size) && decide (f.key < g.key + g.size) &&
      (if g.tag == f.tag then decide (f.lsid < g.lsid) else (y.act? g.tag).any (fun b => y.before a b))
    let ys := y.fires.filter young
    let near (best : Option Fire) (g : Fire) : Option Fire := match best with
      | none => some g
      | some h => if (if g.tag == h.tag then decide (g.lsid < h.lsid) else g.tag == f.tag || (match y.act? g.tag, y.act? h.tag with
          | some b, some c => y.before b c
          | _, _ => false)) then some g else some h
    (List.range f.size).map (fun i =>
      let k := f.key + i
      match (ys.filter (fun g => decide (g.key ≤ k) && decide (k < g.key + g.size))).foldl near none with
      | some g => (g.got[k - g.key]?).getD 0
      | none => (bs[i]?).getD 0)

/-- The value of a load's bytes: LDH and LDB sign-extend (R134). -/
def loadValue (op : Nat) (bs : List Byte) : Word :=
  match op with
  | 0x41 => wordOfInt (sxt 16 (ofLE bs))
  | 0x43 => wordOfInt (sxt 8 (ofLE bs))
  | _ => word (ofLE bs)

/-! ### Loads -/

/-- The latency of a load's read from its firing, and of its way back (R147, R403). -/
def State.loadLegs (s : State) (p pg tile kind va key : Nat) : Nat × Nat :=
  match kind with
  | 2 =>
    let x := s.part p
    (1 + x.pathCost pg tile (fabPage va) (fabTile va), 1 + x.pathCost (fabPage va) (fabTile va) pg tile)
  | 3 => (700 + 24 * crossDie pg 0, 0)
  | _ => (48 + 24 * crossDie pg (dieOf key), 0)

/-- A load in flight: `aux` holds its window kind, whether its page is strongly ordered, when it read, and whether it must be
read again at commit (R226). -/
def State.startLoad (s : State) (lsid size kind va key pte : Nat) : State :=
  let c := s.cur
  let s := s.modFire c.p c.pg c.fid (fun f => { f with
    phase := .out, lsid := lsid, va := va, key := key, size := size, aux := [kind, b2n (isSO kind pte), 0, 0] })
  let f := ((s.page c.p c.pg).fire? c.fid).getD { fid := 0, id := 0, strand := 0, tile := 0, tag := 0, word := 0 }
  let a : Args := { p := c.p, pg := c.pg, fid := c.fid, tag := c.tag }
  if ((s.page c.p c.pg).forward f).all Option.isSome then s.sched (s.now + 2) (srcOf c.pg c.tile) .loadReply { a with x := 1 }
  else s.sched (s.now + (s.loadLegs c.p c.pg c.tile kind va key).1) (srcOf c.pg c.tile) .loadReply a

/-- An ordinary load (R134). -/
def State.load (s : State) (pr : BitVec 2) (lsid : BitVec 5) (w : BitVec 3) (off : BitVec 6) (t0 : Target) (size : Nat) : State :=
  s.frame pr 1 .none t0 fun s =>
    s.accessM w off size {} fun s kind va key pte => s.startLoad lsid.toNat size kind va key pte

def execLdw (pr : BitVec 2) (lsid : BitVec 5) (w : BitVec 3) (off : BitVec 6) (t0 : Target) (s : State) : Out :=
  .next (s.load pr lsid w off t0 4)
def execLdh (pr : BitVec 2) (lsid : BitVec 5) (w : BitVec 3) (off : BitVec 6) (t0 : Target) (s : State) : Out :=
  .next (s.load pr lsid w off t0 2)
def execLdhu (pr : BitVec 2) (lsid : BitVec 5) (w : BitVec 3) (off : BitVec 6) (t0 : Target) (s : State) : Out :=
  .next (s.load pr lsid w off t0 2)
def execLdb (pr : BitVec 2) (lsid : BitVec 5) (w : BitVec 3) (off : BitVec 6) (t0 : Target) (s : State) : Out :=
  .next (s.load pr lsid w off t0 1)
def execLdbu (pr : BitVec 2) (lsid : BitVec 5) (w : BitVec 3) (off : BitVec 6) (t0 : Target) (s : State) : Out :=
  .next (s.load pr lsid w off t0 1)

/-- LOAD_REPLY (R20, R134, R147): first the load reads memory, then, after the way back, its value leaves the tile. -/
def execLoadReply (s : State) : Out :=
  let p := s.arg.p
  let pg := s.arg.pg
  .next (match (s.page p pg).fire? s.arg.fid with
    | none => s
    | some f =>
      let fw := (s.page p pg).forward f
      if f.phase != .out then s
      else if s.arg.x = 0 || (f.got.isEmpty && !fw.all Option.isSome) then
        let read (s : State) : State :=
          if s.badAt f.key f.size then s.badRead p f.key
          else
            let bs := s.loadBytes p pg f
            let s := s.modFire p pg f.fid (fun f => { f with got := bs, aux := (f.aux.set 2 s.now).set 3 0 })
            let back := (s.loadLegs p pg f.tile ((f.aux[0]?).getD 0) f.va f.key).2
            s.sched (s.now + back) (srcOf pg f.tile) .loadReply { s.arg with x := 1 }
        if f.aux[0]? = some 2 then s.sramTurn p f.va (srcOf pg f.tile) .loadReply { s.arg with x := 0 } read else read s
      else
        let bs := (List.range f.size).map (fun i => ((fw[i]?).getD none).getD ((f.got[i]?).getD 0))
        let v := loadValue (opF f.word).toNat bs
        (s.answer p pg f.fid s.now (f.done v) {}).checkDone p pg f.tag)

/-- LOAD_REPLAY (R21, R134): the tokens of the load and all that depended on them are withdrawn; the replay keeps the bytes
already read from memory and completes 2 fclk after the store performs, or, read again (R226), after a memory read. -/
def execLoadReplay (s : State) : Out :=
  let p := s.arg.p
  let pg := s.arg.pg
  .next (match (s.page p pg).fire? s.arg.fid with
    | none => s
    | some f =>
      if !f.acted then s
      else
        let s := s.withdraw p pg f.fid
        if s.arg.x = 0 then s.sched (s.now + 2 + s.arg.y) (srcOf pg f.tile) .loadReply { p := p, pg := pg, fid := f.fid, tag := f.tag, x := 1 }
        else
          let lat := (s.loadLegs p pg f.tile ((f.aux[0]?).getD 0) f.va f.key).1
          s.sched (s.now + lat) (srcOf pg f.tile) .loadReply { p := p, pg := pg, fid := f.fid, tag := f.tag })

/-! ### Ordinary stores -/

/-- The younger loads that a store overlaps and that have returned (R21), sent to be replayed now; the store performs `wait` fclk later. -/
def State.replayLoads (s : State) (p pg : Nat) (a : Act) (st : StoreRec) (wait : Nat) : State :=
  let y := s.page p pg
  y.fires.foldl (fun s f =>
    if isOrdLoad (opF f.word).toNat && f.acted && st.overlaps f &&
        (y.act? f.tag).any (fun b => y.olderStore a st b f.lsid) then
      s.sched s.now (srcOf pg f.tile) .loadReplay { p := p, pg := pg, fid := f.fid, tag := f.tag, y := wait }
    else s) s

/-- The store record of a firing that carries its access. -/
def Fire.storeRec (f : Fire) : StoreRec :=
  let o := (curOf 0 0 f).storeOrigin
  { lsid := f.lsid, slot := f.tile, fid := f.fid, kind := (f.aux[0]?).getD 0, va := f.va, key := f.key, size := f.size,
    data := valOf (f.r.map Arr.tok), so := f.aux[1]? == some 1, pois := o.isSome, origin := o.getD 0,
    mch := if (opF f.word).toNat = 0x4E then f.aux[2]? else none }

/-- The nulling of a store-class instruction's LSID, 1 fclk after the firing (R17, R18, R23). -/
def State.nullStore (s : State) (lsid : Nat) (o : Option (BitVec 11)) : State :=
  let c := s.cur
  let l := match o with
    | some n => [n.toNat]
    | none => []
  (s.sched (s.now + 1) (srcOf c.pg c.tile) .storeBufferPerform
    { p := c.p, pg := c.pg, fid := c.fid, tag := c.tag, x := lsid, y := 1, l := l }).modFire c.p c.pg c.fid
      (fun f => { f with leaves := s.now + 1, phase := .run })

/-- The frame of a store-class instruction (R16 to R18). -/
def State.storeFrame (s : State) (pr : BitVec 2) (lsid : BitVec 5) (run : State → State) : State :=
  match s.cur.verdict pr with
  | .run => run s
  | .silent => s.silent
  | .nulls o => s.nullStore lsid.toNat o

/-- A poisoned store through a window with PT set traps after the checks of R132 (R85, R136). -/
def State.poisonCheck (s : State) (w : BitVec 3) (va : Nat) (run : State → State) : State :=
  match s.cur.storeOrigin with
  | some o => if bitAt (s.winOf w.toNat).attr.toNat 4 then s.trap 0x08 o.toNat va else run s
  | none => run s

/-- An ordinary store (R135, R137): it performs into the store buffer 1 fclk after it fires; younger loads that it overlaps are
replayed. -/
def State.store (s : State) (pr : BitVec 2) (lsid : BitVec 5) (w : BitVec 3) (off : BitVec 6) (size : Nat) (stm : Bool) : State :=
  s.storeFrame pr lsid fun s =>
    s.accessM w off size { store := true, stm := stm } fun s kind va key pte =>
      s.poisonCheck w va fun s =>
        let c := s.cur
        let mch := bits (s.winOf w.toNat).attr.toNat 7 5
        let s := s.modFire c.p c.pg c.fid (fun f => { f with
          leaves := s.now + 1, phase := .run, lsid := lsid.toNat, va := va, key := key, size := size,
          aux := [kind, b2n (isSO kind pte), mch] })
        let s := s.sched (s.now + 1) (srcOf c.pg c.tile) .storeBufferPerform
          { p := c.p, pg := c.pg, fid := c.fid, tag := c.tag, x := lsid.toNat }
        match (s.page c.p c.pg).fire? c.fid with
        | some f => s.replayLoads c.p c.pg s.curAct f.storeRec 1
        | none => s

def execStw (pr : BitVec 2) (lsid : BitVec 5) (w : BitVec 3) (off : BitVec 6) (s : State) : Out := .next (s.store pr lsid w off 4 false)
def execSth (pr : BitVec 2) (lsid : BitVec 5) (w : BitVec 3) (off : BitVec 6) (s : State) : Out := .next (s.store pr lsid w off 2 false)
def execStb (pr : BitVec 2) (lsid : BitVec 5) (w : BitVec 3) (off : BitVec 6) (s : State) : Out := .next (s.store pr lsid w off 1 false)
def execStm (pr : BitVec 2) (lsid : BitVec 5) (w : BitVec 3) (off : BitVec 6) (s : State) : Out := .next (s.store pr lsid w off 4 true)

/-- A second delivery of a store LSID (R24): TAGDUP, and both are kept. -/
def State.dupStore (s : State) (p pg : Nat) (a : Act) (tile lsid : Nat) (rs : List Replay) : State :=
  (s.takeTrap p a.id (trapAt pg a tile 0x06 (8 + lsid * 256) 0)).addReplay p a.id rs

/-- STORE_BUFFER_PERFORM (R22, R135): an ordinary store joins its activation's buffer, or an LSID counts as nulled. -/
def execStoreBufferPerform (s : State) : Out :=
  let p := s.arg.p
  let pg := s.arg.pg
  let lsid := s.arg.x
  .next (match (s.page p pg).act? s.arg.tag, (s.page p pg).fire? s.arg.fid with
    | some a, some f =>
      let st := f.storeRec
      let nl : NullRec := { lsid := lsid, slot := f.tile, fid := f.fid, origin := s.arg.l.head?.map (BitVec.ofNat 11) }
      let null := s.arg.y == 1
      if a.lsidDone lsid then
        let b : Act := if null then { tag := a.tag, id := a.id, strand := a.strand, nulled := [nl] }
          else { tag := a.tag, id := a.id, strand := a.strand, stores := [st] }
        s.dupStore p pg a f.tile lsid b.heldStores
      else
        let s := s.modAct p pg a.tag (fun a => if null then { a with nulled := a.nulled ++ [nl] } else { a with stores := a.stores ++ [st] })
        let s := s.modFire p pg f.fid (fun f => { f with phase := .done, acted := true })
        let s := if null then s else s.replayLoads p pg a st 0
        (s.wake p pg).checkDone p pg a.tag
    | _, _ => s)

/-! ### Committed stores on their way (R22, R224, R226) -/

/-- When a store performs after its commit: at once on a strongly ordered page, otherwise when it will (R222, R226, log 6). -/
def storeDelay (n : Nat) (st : StoreRec) : Nat := if st.so then 0 else Config.storeDelay (n + st.lsid)

/-- Setting the cells of a store, later over earlier. -/
def putCells (cells : List (Nat × Byte)) (st : StoreRec) : List (Nat × Byte) :=
  (List.range st.size).foldl (fun c i => kset c (st.key + i) (BitVec.ofNat 8 (st.data.toNat >>> (8 * i)))) cells

/-- Two keys of one line, or of one word of tile SRAM. -/
def sameUnit (a b : Nat) : Bool := if isSram a then a / 4 == b / 4 else a / 64 == b / 64

/-- Adding a committed store to the posted ones of its commit: those of one line are one write. -/
def addPosted (st : StoreRec) (id agent due : Nat) : List Posted → List Posted
  | [] => [{ wid := 0, id := id, agent := agent, slot := st.slot, kind := st.kind, va := st.va, cells := putCells [] st, due := due }]
  | w :: ws =>
    if sameUnit (((w.cells.head?).map Prod.fst).getD 0) st.key then { w with cells := putCells w.cells st, due := max w.due due } :: ws
    else w :: addPosted st id agent due ws

/-- The row by which a posted store performs. -/
def postedRow (kind : Nat) : Instr := if kind = 2 then .tileSramStore else if kind = 3 then .hostMemoryWrite else .channelWrite

/-- Posting one write: it performs no earlier than the strand's earlier writes to the same line. -/
def State.post (s : State) (p pg : Nat) (w : Posted) : State :=
  let x := s.part p
  let key := ((w.cells.head?).map Prod.fst).getD 0
  let prior := x.posted.foldl (fun m v =>
    if v.id == w.id && v.agent == w.agent && sameUnit (((v.cells.head?).map Prod.fst).getD 0) key then max m v.due else m) 0
  let due := max w.due prior
  let s := s.modPart p (fun x => { x with posted := x.posted ++ [{ w with wid := x.nextWid, due := due }], nextWid := x.nextWid + 1 })
  s.sched due (srcOf pg w.slot) (postedRow w.kind) { p := p, pg := pg, x := x.nextWid }

/-- The resident strands of a partition whose MCSUB subscribes to a channel: page, instance, strand and route tag (R185, R217). -/
def Part.subscribers (x : Part) (ch : Nat) : List (Nat × Nat × Nat × Nat) :=
  x.insts.flatMap (fun i => (i.strands.filter (fun t => !t.ended && i.status != .saved && bitAt (t.csrN 0x044) ch)).map
    (fun t => (t.pg, i.id, t.num, bits (t.csrN 0x045) (4 * ch + 3) (4 * ch))))

/-- The copies of an STM leave at its block's commit (R218): each arrives 20 fclk after, plus the path, and in channel order. -/
def State.multicast (s : State) (p pg slot ch va : Nat) (data : Word) : State :=
  ((s.part p).subscribers ch).foldl (fun s sub =>
    let x := s.part p
    let k := ch * 1024 + sub.1
    let t := max (s.now + 20 + x.pathCost pg slot sub.1 0) ((kget x.mcLast k).getD 0)
    let s := s.modPart p (fun x => { x with mcLast := kset x.mcLast k t })
    s.sched t (srcOf sub.1 0) .multicastCopy
      { p := p, pg := sub.1, id := sub.2.1, x := sub.2.2.1, y := sub.2.2.2, z := ch, w0 := word va, w1 := data }) s

/-- Commit applies an activation's stores (R22, R25, R85): in ascending LSID order, one write a line; poisoned and nulled
poisoned stores are reported; the copies of STMs leave. -/
def State.commitStores (s : State) (p pg : Nat) (a : Act) : State :=
  let sts := sortKey StoreRec.lsid a.stores
  let lines := sts.foldl (fun l st => addPosted st a.id (agentOf a.strand a.tag) (s.now + storeDelay s.free st) l) []
  let s := { s with free := s.free + 32 }
  let s := lines.foldl (fun s w => s.post p pg w) s
  let s := sts.foldl (fun s st => if st.pois then s.reportPoison p st.origin st.va true else s) s
  let s := (sortKey NullRec.lsid a.nulled).foldl (fun s n =>
    match n.origin, (a.words[n.slot]?).map (fun w => (opF w).toNat) with
    | some o, some op => if op = 0x4D then s else s.reportPoison p o 0 false
    | _, _ => s) s
  sts.foldl (fun s st =>
    match st.mch with
    | some ch => s.multicast p pg st.slot ch st.va st.data
    | none => s) s

/-- CHANNEL_WRITE (R22, R287). -/
def execChannelWrite (s : State) : Out := .next (s.performPosted s.arg.p s.arg.x)
/-- TILE_SRAM_STORE (R205): it performs in the slot that its tile's SRAM gives it. -/
def execTileSramStore (s : State) : Out :=
  .next (match (s.part s.arg.p).posted.find? (fun w => w.wid == s.arg.x) with
    | none => s
    | some w => s.sramTurn s.arg.p w.va (srcOf s.arg.pg w.slot) .tileSramStore s.arg fun s => s.performPosted s.arg.p s.arg.x)
/-- HOST_MEMORY_WRITE (R403). -/
def execHostMemoryWrite (s : State) : Out := .next (s.performPosted s.arg.p s.arg.x)

/-! ### Full/empty operations (R138 to R143, R214, R215) -/

/-- A full/empty operation sets out for its word; `aux` holds its window kind and, for one that re-injection brought back, its place in
that order, counted from 1 (R142). -/
def State.startFe (s : State) (lsid : Nat) (kind va key : Nat) : State :=
  let c := s.cur
  let k := ((s.curInst.reFe.findIdx? (fun z => z == (c.tag, c.tile))).map (· + 1)).getD 0
  let s := s.modFire c.p c.pg c.fid (fun f => { f with phase := .out, lsid := lsid, va := va, key := key, size := 4, aux := [kind, k] })
  s.sched (s.now + (s.loadLegs c.p c.pg c.tile 2 va key).1) (srcOf c.pg c.tile) .fullEmptyAct
    { p := c.p, pg := c.pg, fid := c.fid, tag := c.tag }

def State.feLoad (s : State) (pr : BitVec 2) (lsid : BitVec 5) (w : BitVec 3) (off : BitVec 6) (t0 : Target) : State :=
  s.frame pr 1 .none t0 fun s => s.accessM w off 4 { fe := true } fun s kind va key _ => s.startFe lsid.toNat kind va key

def State.feStore (s : State) (pr : BitVec 2) (lsid : BitVec 5) (w : BitVec 3) (off : BitVec 6) (clr : Bool) : State :=
  s.storeFrame pr lsid fun s =>
    s.accessM w off 4 { store := true, fe := true } fun s kind va key _ =>
      if clr then s.startFe lsid.toNat kind va key else s.poisonCheck w va fun s => s.startFe lsid.toNat kind va key

def execLdf (pr : BitVec 2) (lsid : BitVec 5) (w : BitVec 3) (off : BitVec 6) (t0 : Target) (s : State) : Out :=
  .next (s.feLoad pr lsid w off t0)
def execLdx (pr : BitVec 2) (lsid : BitVec 5) (w : BitVec 3) (off : BitVec 6) (t0 : Target) (s : State) : Out :=
  .next (s.feLoad pr lsid w off t0)
def execSte (pr : BitVec 2) (lsid : BitVec 5) (w : BitVec 3) (off : BitVec 6) (s : State) : Out := .next (s.feStore pr lsid w off false)
def execStf (pr : BitVec 2) (lsid : BitVec 5) (w : BitVec 3) (off : BitVec 6) (s : State) : Out := .next (s.feStore pr lsid w off false)
def execClre (pr : BitVec 2) (lsid : BitVec 5) (w : BitVec 3) (off : BitVec 6) (s : State) : Out := .next (s.feStore pr lsid w off true)

/-- A full/empty store has acted: its LSID counts, and a poisoned one is reported (R85, R138); it takes `extra` fclk where its entry was
held in memory (R215). -/
def State.feStored (s : State) (p pg : Nat) (f : Fire) (extra : Nat) : State :=
  let s := match (curOf p pg f).storeOrigin with
    | some o => if (opF f.word).toNat = 0x4D then s else s.reportPoison p o f.va true
    | none => s
  let s := s.modAct p pg f.tag (fun a => { a with feDone := a.feDone ++ [f.lsid] })
  (s.modFire p pg f.fid (fun f => { f with phase := .done, acted := true, leaves := s.now + extra })).checkDone p pg f.tag

/-- The value of a word returns to an LDF or LDX (R147). -/
def State.feReturn (s : State) (p pg : Nat) (f : Fire) (v : Word) (extra : Nat) : State :=
  let back := (s.loadLegs p pg f.tile 2 f.va f.key).2
  (s.answer p pg f.fid (s.now + back + extra) (f.done v) {}).checkDone p pg f.tag

/-- Writing a word and filling it. -/
def State.feWrite (s : State) (key : Nat) (v : Word) : State :=
  { s with mem := Mem.sets s.mem key (leBytes 4 v.toNat), fe := Fe.set s.fe key }

/-- A parked access leaves its list: its wait entry ends, and what is held in the mesh may have room (R215). -/
def State.feLeave (s : State) (p : Nat) (w : FeWait) : State :=
  let s := s.modPart p (fun x => { x with feq := x.feq.filter (fun v => v != w) })
  (s.endWait p w.fid).feRetry p

/-- The accesses parked at a word whose firings still stand, in order. -/
def State.feList (s : State) (p key : Nat) : List (FeWait × Fire) :=
  (s.part p).feq.filterMap (fun w =>
    if w.key == key && w.place != 2 then ((s.page p w.pg).fire? w.fid).map (fun f => (w, f)) else none)

/-- Has a store's LSID been delivered already (R24)? -/
def State.feDup (s : State) (p pg : Nat) (f : Fire) : Bool :=
  decide (0x4B ≤ (opF f.word).toNat) && ((s.page p pg).act? f.tag).any (fun a => a.lsidDone f.lsid)

/-- Serving a word's list from its head (R140). -/
def State.feServe (s : State) (p key : Nat) : Nat → State
  | 0 => s
  | n + 1 =>
    match s.feList p key with
    | [] => s
    | (w, f) :: _ =>
      let op := (opF f.word).toNat
      let extra := if w.place = 1 then 140 else 0
      let v := word (Mem.num s.mem key 4)
      if s.fe.contains key then
        match op with
        | 0x45 => ((s.feReturn p w.pg f v extra).feLeave p w).feServe p key n
        | 0x46 => (({ s with fe := Fe.clr s.fe key }.feReturn p w.pg f v extra).feLeave p w).feServe p key n
        | _ => s
      else if op = 0x4B then
        if s.feDup p w.pg f then ((s.trapFire p w.pg f 0x06 (8 + f.lsid * 256) 0).feLeave p w).feServe p key n
        else ((((s.flush p f.id).feWrite key (valOf (f.r.map Arr.tok))).feStored p w.pg f extra).feLeave p w).feServe p key n
      else s

/-- Parking an access (R139, R215, R252). One that was held in the mesh and finds no room again keeps its place there, and is not counted
again. -/
def State.fePark (s : State) (p pg : Nat) (f : Fire) (again : Bool) : State :=
  let x := s.part p
  let tile := fabPage f.va * 64 + fabTile f.va
  let place := s.fePlace p tile
  let s := if place = 1 then (s.devEntry p x.deferVa).getD s else s
  let s := s.modPart p (fun x => { x with feq :=
    if place = 2 && again then ⟨f.key, tile, pg, f.fid, place⟩ :: x.feq else x.feq ++ [⟨f.key, tile, pg, f.fid, place⟩] })
  let s := s.modFire p pg f.fid (fun f => { f with phase := .parked })
  if place = 2 then (if again then s else s.bumpCsr p 0x124 31 0)
  else
    let name := wordName f.va
    if x.wregs.any (fun w => w.id == f.id && w.name == name && w.parked == 0) then s.enterWait p pg f name false else s

/-- The operation of the same instance that re-injection queued before this one at its word, and that is still on its way (R142). -/
def State.feBefore (s : State) (p : Nat) (f : Fire) : Option Timed :=
  let k := (f.aux[1]?).getD 0
  if k = 0 then none
  else
    s.agenda.find? (fun t => match t.act with
      | .row .fullEmptyAct a => a.p == p && ((s.page p a.pg).fire? a.fid).any (fun g =>
          g.id == f.id && g.key == f.key && !g.acted && decide (0 < (g.aux[1]?).getD 0) && decide ((g.aux[1]?).getD 0 < k))
      | _ => false)

/-- FULL_EMPTY_ACT (R139, R140, R205): an operation reaches its word, in the slot that its tile's SRAM gives it, and what it finds and
leaves there stands after the instance's committed stores (R11, R230). z = 1 is an access that was held in the mesh. -/
def execFullEmptyAct (s : State) : Out :=
  let p := s.arg.p
  let pg := s.arg.pg
  .next (match (s.page p pg).fire? s.arg.fid with
    | none => s
    | some f =>
      if f.acted then s
      else if s.feDup p pg f then s.trapFire p pg f 0x06 (8 + f.lsid * 256) 0
      else
        match s.feBefore p f with
        | some t => s.sched t.ts (max t.src (srcOf pg f.tile)) .fullEmptyAct s.arg
        | none =>
          s.sramTurn p f.va (srcOf pg f.tile) .fullEmptyAct s.arg fun s =>
            let s := s.flush p f.id
            let full := s.fe.contains f.key
            let v := word (Mem.num s.mem f.key 4)
            let busy := (s.feList p f.key).length
            let done (s : State) : State := (s.wregStatus p f.id (wordName f.va) 0 0).feServe p f.key (busy + 1)
            let park := s.fePark p pg f (s.arg.z == 1)
            match (opF f.word).toNat with
            | 0x45 => if full then done (s.feReturn p pg f v 0) else park
            | 0x46 => if full then done ({ s with fe := Fe.clr s.fe f.key }.feReturn p pg f v 0) else park
            | 0x4B => if full then park else done ((s.feWrite f.key (valOf (f.r.map Arr.tok))).feStored p pg f 0)
            | 0x4C => done ((s.feWrite f.key (valOf (f.r.map Arr.tok))).feStored p pg f 0)
            | _ => done ({ s with fe := Fe.clr s.fe f.key }.feStored p pg f 0))

end Sys2Proof.Machine
end

