-- ==== Sys2Proof/Machine/Sync.lean ====
section
/-! DEFINITION. Sys2Proof/Machine/Sync.lean: synchronisation objects and the instructions on them: AMO, LOCK, BAR, QOP and WFT
(R239 to R253). -/

namespace Sys2Proof.Machine

/-! ### Handles and objects (R239 to R241) -/

def hDie (h : Nat) : Nat := bits h 31 30
def hIndex (h : Nat) : Nat := bits h 29 16 * 32768 + bits h 14 0
def mkHandle (die i : Nat) : Nat := die * 2 ^ 30 + (i / 32768) * 65536 + i % 32768

/-- The objects of a die on the chip, and in all (R240). -/
def Part.onDie (x : Part) : Nat := bits (x.csrN 0x0C2) 31 16 * 256
def Part.objLimit (x : Part) : Nat := (bits (x.csrN 0x0C2) 31 16 + bits (x.csrN 0x0C2) 15 0) * 256

/-- Does a handle name an object of the partition? -/
def Part.handleOk (x : Part) (h : Nat) : Bool := !bitAt h 15 && decide (hIndex h < x.objLimit)

/-- Is the object kept in memory? -/
def Part.inMemory (x : Part) (h : Nat) : Bool := decide (x.onDie ≤ hIndex h)

/-- The VA of a memory-backed object. -/
def Part.objVa (x : Part) (h : Nat) : Nat :=
  x.base64 0x0C0 12 + 4096 * bits (x.csrN 0x0C2) 15 0 * hDie h + 16 * (hIndex h - x.onDie)

/-- Where an object is kept: 0 on the die, its VA + 1 in memory. -/
def Part.objPlace (x : Part) (h : Nat) : Nat := if x.inMemory h then x.objVa h + 1 else 0

/-- Is a record that of the object which a handle names: the one on the die with that handle, or the one at that VA? -/
def Obj.isAt (o : Obj) (va h : Nat) : Bool := o.va == va && (va != 0 || o.h == h)

/-- What 16 bytes that no operation of the engine has written stand for, by a number that the spec does not fix (log 10). -/
def objOf (n : Nat) : ObjSt :=
  match n % 6 with
  | 0 => .free
  | 1 => .word (word (n / 8))
  | 2 => .lock (if n / 8 % 2 = 0 then none else some (n / 16 % 65536, n / 2 ^ 20 % 8))
  | 3 => .barrier (1 + n / 8 % 65535) (n / 2 ^ 19 % (1 + n / 8 % 65535)) (n / 2 ^ 35 % 65536)
  | 4 => .queue (1 + n / 8 % 1024) (n / 2 ^ 13 % (1 + n / 8 % 1024)) (n / 2 ^ 23 % (2 + n / 8 % 1024)) (bitAt n 33)
  | _ => .qstore (n / 8 % 2 ^ 32) (word (n / 2 ^ 35)) (word (n / 2 ^ 67)) (word (n / 2 ^ 99)) (word (n / 2 ^ 131))

/-- The object that a handle names, FREE when it has never been typed (R240, R241): one kept in memory is what its 16 bytes say, FREE where
they are 0. -/
def State.obj (s : State) (p h : Nat) : Obj :=
  let x := s.part p
  let va := x.objPlace h
  let o : Obj := { ((x.objs.find? (fun o => o.isAt va h)).getD { h := h, va := va }) with h := h }
  if va = 0 then o
  else
    match s.devRead p (va - 1) 16 with
    | none => o
    | some n => if o.img = n then o else { o with st := if n = 0 then .free else objOf (Config.objImage n) }

/-- Setting an object. The 16 bytes of one in memory are written with contents the spec does not lay out (log 10). -/
def State.setObj (s : State) (p : Nat) (o : Obj) : State :=
  let va := (s.part p).objPlace o.h
  let put (s : State) (o : Obj) : State := s.modPart p (fun x => { x with objs :=
    (if x.objs.any (fun q => q.isAt va o.h) then x.objs.map (fun q => if q.isAt va o.h then o else q) else x.objs ++ [o]) })
  if va = 0 then put s { o with va := 0 }
  else
    let bs := freeBytes s.free 16
    match s.devWrite p (va - 1) bs with
    | some t => put { t with free := t.free + 16 } { o with va := va, img := ofLE bs }
    | none => s

/-- The fault of an access to a memory-backed object (R240): code, detail and VA. -/
def State.objFault (s : State) (p h : Nat) : Option (Nat × Nat × Nat) :=
  let x := s.part p
  let va := x.objVa h
  if !x.inMemory h then none
  else
    match s.walkFail x va with
    | some k => some (255, 0, k)
    | none =>
      match s.translate x va with
      | .error l => some (0x02, l, va)
      | .ok l =>
        if !Pte.pin l.pte then some (0x02, 0, va)
        else if !x.mayRead l || !x.mayWrite l then some (0x03, 0, va)
        else if s.badAt l.pa 16 then some (255, 0, s.badKey l.pa 16) else none

/-- A trap of a firing for the first of some objects that cannot be reached. -/
def State.withObjs (s : State) (p pg : Nat) (f : Fire) (hs : List Nat) (run : State → State) : State :=
  match hs.findSome? (s.objFault p) with
  | some e => s.trapFire p pg f e.1 e.2.1 e.2.2
  | none => run s

/-- Does a Helm queue's WAIT come to its end when a WORD takes a value? -/
def HelmSlot.meets (z : HelmSlot) (p h v : Nat) : Bool :=
  z.p == p && match z.wait with
    | .word h' w => h' == h && decide (w ≤ v)
    | _ => false

/-- A Helm WAIT that the new value of a WORD satisfies continues 6 fclk later (R321), whether its queue has a slot or not. -/
def State.wordChanged (s : State) (p h v : Nat) : State :=
  let hit := (s.helmSlots ++ s.helmSaved).filter (fun z => z.meets p h v)
  let go (z : HelmSlot) : HelmSlot := if z.meets p h v then { z with wait := .go (s.now + 6) } else z
  hit.foldl (fun s z => s.sched (s.now + 6) 0 .waitSatisfied { p := p, x := z.die, y := z.q })
    { s with helmSlots := s.helmSlots.map go, helmSaved := s.helmSaved.map go }

/-! ### Answers -/

/-- The fclk at which an engine's answer has come back to a page (R244). -/
def State.syncBack (s : State) (pg h : Nat) : Nat := s.now + 15 + 12 * crossDie pg (hDie h)

/-- The answer to a firing: T0, and T1 where a second token is given; a parked firing's T1 has had its status. -/
def State.syncAnswer (s : State) (p pg h : Nat) (f : Fire) (t0 : Token) (t1 : Option Token) : State :=
  let c := curOf p pg f
  let o := c.firstOrigin
  let t := targetsOf f.word
  let at' := s.syncBack pg h
  let s := s.send c at' t.1 (withPoison t0 o)
  let s := match t1 with
    | some u => s.send c at' t.2 (withPoison u o)
    | none => s
  (s.modFire p pg f.fid (fun f => { f with leaves := at', phase := .run, acted := true })).checkDone p pg f.tag

/-- An answer to both targets (R36). -/
def State.syncOne (s : State) (p pg h : Nat) (f : Fire) (t : Token) : State := s.syncAnswer p pg h f t (some t)

/-- The terminate token of a queue (R249). -/
def terminateTok : Token := { val := 0xFFFFFFFF, null := true, eof := true }

/-- A SYNCOBJ trap (R243). -/
def State.syncFault (s : State) (p pg : Nat) (f : Fire) (detail : Nat) : State :=
  s.trapFire p pg f 0x0C detail (valOf (f.l.map Arr.tok)).toNat

/-- Parking a firing among an object's waiters, with its registration (R252). -/
def State.syncPark (s : State) (p pg : Nat) (o : Obj) (f : Fire) (status : Bool) : State :=
  let s := s.setObj p { o with waiters := o.waiters ++ [(pg, f.fid)] }
  (s.modFire p pg f.fid (fun f => { f with phase := .parked })).enterWait p pg f o.h status

/-- The operations that still wait at an object, in parking order. -/
def State.parkedAt (s : State) (p : Nat) (o : Obj) : List (Nat × Fire) :=
  o.waiters.filterMap (fun w =>
    match (s.page p w.1).fire? w.2 with
    | some f => if f.phase == .parked then some (w.1, f) else none
    | none => none)

/-- The first in the service order: highest effective priority, then earliest parked (R246, R249). -/
def State.firstServed (s : State) (p : Nat) (l : List (Nat × Fire)) : Option (Nat × Fire) :=
  l.foldl (fun best w =>
    match best with
    | none => some w
    | some b => if (s.inst p b.2.id).eff < (s.inst p w.2.id).eff then some w else best) none

/-- A waiter leaves an object's list. -/
def Obj.leave (o : Obj) (fid : Nat) : Obj := { o with waiters := o.waiters.filter (fun w => w.2 != fid) }

/-- Reporting a poisoned value stored into an object, with the handle as the VA and the first origin of L, R and P (R85, R243). -/
def State.reportStored (s : State) (p h : Nat) (f : Fire) : State :=
  match origOf (f.r.map Arr.tok), (curOf p 0 f).storeOrigin with
  | some _, some o => s.reportPoison p o h true
  | _, _ => s

/-! ### AMO (R245) -/

/-- The new value of an AMO form and the kind of its event. -/
def amoNew (x : Nat) (v r c : Word) : Word × Nat :=
  match x with
  | 0 => (v + r, 0)
  | 1 => (v &&& r, 0)
  | 2 => (v ||| r, 0)
  | 3 => (v ^^^ r, 0)
  | 4 => (if v.slt r then v else r, 0)
  | 5 => (if v.slt r then r else v, 0)
  | 6 => (if v.ult r then v else r, 0)
  | 7 => (if v.ult r then r else v, 0)
  | 8 => (r, 0)
  | 9 =>
    let z := addNum .rne (decodeF fp32 v.toNat) (decodeF fp32 r.toNat)
    (word z.1, z.2)
  | _ => (if v = c then r else v, 0)

/-- An AMO acts. -/
def State.amo (s : State) (p pg h : Nat) (f : Fire) : State :=
  let o := s.obj p h
  let act (v : Word) : State :=
    let n := amoNew (xF f.word).toNat v (valOf (f.r.map Arr.tok)) (valOf (f.c.map Arr.tok))
    let s := (s.setObj p { o with st := .word n.1 }).wordChanged p h n.1.toNat
    let s := if n.2 = 0 || (origOf (f.r.map Arr.tok)).isSome then s.reportStored p h f
      else
        match (curOf p pg f).firstOrigin with
        | some o => s.reportPoison p o h true
        | none =>
          let a := ((s.page p pg).act? f.tag).getD { tag := f.tag, id := f.id, strand := f.strand }
          let z := s.newOrigin p pg f.tile f.tag a.gen n.2 (opF f.word).toNat (xF f.word).toNat 0
          z.1.reportPoison p z.2 h true
    s.syncOne p pg h f (tokV v)
  match o.st with
  | .free => act 0
  | .word v => act v
  | _ => s.syncFault p pg f 2

/-! ### LOCK (R246) -/

/-- Granting a lock to a parked waiter, or leaving it unheld. -/
def State.lockPass (s : State) (p : Nat) (o : Obj) : State :=
  match s.firstServed p (s.parkedAt p o) with
  | none => s.setObj p { o with st := .lock none, waiters := [] }
  | some (pg, f) =>
    let i := s.inst p f.id
    let s := s.setObj p { o.leave f.fid with st := .lock (some (i.id, i.gen)) }
    let s := (s.endWait p f.fid).enterHold p i o.h pg f.fid false
    s.syncAnswer p pg o.h f (tokV 0) none

/-- A lock is granted to the firing that finds it unheld. -/
def State.lockTake (s : State) (p pg : Nat) (o : Obj) (f : Fire) : State :=
  let i := s.inst p f.id
  (s.setObj p { o with st := .lock (some (i.id, i.gen)) }).enterHold p i o.h pg f.fid false

/-- A LOCK operation acts. -/
def State.lockOp (s : State) (p pg h : Nat) (f : Fire) : State :=
  let o := s.obj p h
  let x := (xF f.word).toNat
  let held : Option (Option (Nat × Nat)) := match o.st with
    | .free => if x = 2 then none else some none
    | .lock z => some z
    | _ => none
  match held, x with
  | none, _ => s.syncFault p pg f 2
  | some none, 0 => ((s.lockTake p pg o f).wregStatus p f.id h 0 0).syncAnswer p pg h f (tokV 0) (some (tokV 0))
  | some (some _), 0 => s.syncPark p pg o f true
  | some none, 1 => (s.lockTake p pg o f).syncOne p pg h f (tokV 1)
  | some (some _), 1 => s.syncOne p pg h f (tokV 0)
  | some z, _ =>
    let i := s.inst p f.id
    if z = some (i.id, i.gen) then ((s.endHold p i.id h).syncOne p pg h f (tokV 0)).lockPass p o
    else s.syncFault p pg f 3

/-! ### BAR (R247) -/

/-- Every waiter of a completed phase is released with the new phase, by effective priority and then in parking order (R256). -/
def State.barRelease (s : State) (p h : Nat) (phase : Nat) (l : List (Nat × Fire)) : State :=
  (sortKey (fun w => 15 - (s.inst p w.2.id).eff) l).foldl (fun s w =>
    (s.endWait p w.2.fid).syncAnswer p w.1 h w.2 (tokV (word phase)) none) s

/-- The ARRWAITs of saved instances that still wait at an object (R250). -/
def State.savedAt (s : State) (p : Nat) (o : Obj) : List (Nat × Fire) :=
  o.waiters.filterMap (fun w => (s.part p).insts.findSome? (fun i => i.save.bind (fun v =>
    (v.parked.find? (fun z => z.2.fid == w.2 && z.2.phase == .parked && z.2.acted)).map (fun z => (w.1, z.2)))))

/-- The release of a saved instance's ARRWAIT is kept for it (R187, R250), and its record's firing waits no more. -/
def State.releaseSaved (s : State) (p h phase : Nat) (w : Nat × Fire) : State :=
  let c := curOf p w.1 w.2
  let s := s.send c (s.syncBack w.1 h) (targetsOf w.2.word).1 (withPoison (tokV (word phase)) c.firstOrigin)
  s.modInst p w.2.id (fun i => { i with save := i.save.map (fun v => { v with parked := v.parked.map (fun z =>
    if z.2.fid == w.2.fid then (z.1, { z.2 with phase := .done }) else z) }) })

/-- An arrival at a barrier: the state after it and whether it completed the phase. -/
def State.barArrive (s : State) (p : Nat) (o : Obj) (count arr phase : Nat) : State × Bool :=
  if arr + 1 = count then
    let next := (phase + 1) % 65536
    let t := (s.setObj p { o with st := .barrier count 0 next, waiters := [] }).barRelease p o.h next (s.parkedAt p o)
    ((s.savedAt p o).foldl (fun t w => t.releaseSaved p o.h next w) t, true)
  else (s.setObj p { o with st := .barrier count (arr + 1) phase }, false)

/-- A BAR operation acts. -/
def State.barOp (s : State) (p pg h : Nat) (f : Fire) : State :=
  let o := s.obj p h
  let x := (xF f.word).toNat
  let r := (valOf (f.r.map Arr.tok)).toNat
  match o.st, x with
  | .free, 3 | .barrier _ _ _, 3 =>
    if !(s.parkedAt p o).isEmpty then s.syncFault p pg f 4
    else if r = 0 || 65535 < r then s.syncFault p pg f 5
    else ((s.setObj p { o with st := .barrier r 0 0, waiters := [] }).reportStored p h f).syncOne p pg h f (tokV 0)
  | .barrier count arr phase, 0 =>
    let s := s.endHold p f.id h
    ((s.barArrive p o count arr phase).1).syncOne p pg h f (tokV (word phase))
  | .barrier _ _ _, 1 => s.syncPark p pg o f true
  | .barrier count arr phase, _ =>
    let s := s.endHold p f.id h
    let z := s.barArrive p o count arr phase
    if z.2 then (z.1.wregStatus p f.id h 0 0).syncAnswer p pg h f (tokV (word ((phase + 1) % 65536))) (some (tokV 0))
    else
      let s := z.1.modFire p pg f.fid (fun f => { f with acted := true })
      s.syncPark p pg (s.obj p h) f true
  | _, _ => s.syncFault p pg f 2

/-! ### QOP (R248, R249) -/

/-- The handle of the storage object that holds entry j of a queue. -/
def storeOf (h j : Nat) : Nat := mkHandle (hDie h) (hIndex h + 1 + j / 4)

/-- Entry j of a queue. -/
def State.qEntry (s : State) (p h j : Nat) : Word :=
  match (s.obj p (storeOf h j)).st with
  | .qstore _ e0 e1 e2 e3 => ([e0, e1, e2, e3][j % 4]?).getD 0
  | _ => 0

/-- Setting entry j of a queue. -/
def State.setEntry (s : State) (p h j : Nat) (v : Word) : State :=
  let o := s.obj p (storeOf h j)
  match o.st with
  | .qstore q e0 e1 e2 e3 =>
    let e := [e0, e1, e2, e3].set (j % 4) v
    s.setObj p { o with st := .qstore q ((e[0]?).getD 0) ((e[1]?).getD 0) ((e[2]?).getD 0) ((e[3]?).getD 0) }
  | _ => s

/-- The parked operations of one form at a queue. -/
def State.parkedForm (s : State) (p : Nat) (o : Obj) (x : Nat) : List (Nat × Fire) :=
  (s.parkedAt p o).filter (fun w => (xF w.2.word).toNat == x)

/-- Appending a value to a queue that has room. -/
def State.qAppend (s : State) (p h cap head len : Nat) (closed : Bool) (v : Word) : State :=
  let s := s.setEntry p h ((head + len) % cap) v
  s.setObj p { s.obj p h with st := .queue cap head (len + 1) closed }

/-- A space has freed: the parked push that is first in the service order appends and is answered. -/
def State.qRefill (s : State) (p h : Nat) : State :=
  let o := s.obj p h
  match o.st with
  | .queue cap head len closed =>
    match s.firstServed p (s.parkedForm p o 0) with
    | none => s
    | some (pg, f) =>
      let s := s.setObj p (o.leave f.fid)
      s.withObjs p pg f [storeOf h ((head + len) % cap)] fun s =>
        (((s.qAppend p h cap head len closed (valOf (f.r.map Arr.tok))).endWait p f.fid).reportStored p h f).syncOne p pg h f (tokV 0)
  | _ => s

/-- QPUSH on an open queue. -/
def State.qPush (s : State) (p pg h : Nat) (o : Obj) (f : Fire) (cap head len : Nat) : State :=
  let v := valOf (f.r.map Arr.tok)
  match s.firstServed p (s.parkedForm p o 1) with
  | some (pg', g) =>
    let s := ((s.setObj p (o.leave g.fid)).endWait p g.fid).syncAnswer p pg' h g (tokV v) none
    ((s.reportStored p h f).wregStatus p f.id h 0 0).syncOne p pg h f (tokV 0)
  | none =>
    if len = cap then s.syncPark p pg o f false
    else
      s.withObjs p pg f [storeOf h ((head + len) % cap)] fun s =>
        ((s.qAppend p h cap head len false v).reportStored p h f |>.wregStatus p f.id h 0 0).syncOne p pg h f (tokV 0)

/-- Taking the head of a queue that is not empty. -/
def State.qTake (s : State) (p pg h : Nat) (o : Obj) (f : Fire) (cap head len : Nat) (closed : Bool) (st : Option Token) : State :=
  s.withObjs p pg f [storeOf h head] fun s =>
  let v := s.qEntry p h head
  let s := s.setObj p { o with st := .queue cap ((head + 1) % cap) (len - 1) closed }
  (s.syncAnswer p pg h f (tokV v) (match st with
    | some t => some t
    | none => some (tokV v))).qRefill p h

/-- QCLOSE: every parked operation receives the terminate token. -/
def State.qClose (s : State) (p pg h : Nat) (o : Obj) (f : Fire) (cap head len : Nat) : State :=
  let ws := s.parkedAt p o
  let s := s.setObj p { o with st := .queue cap head len true, waiters := [] }
  let s := ws.foldl (fun s w =>
    let two : Option Token := if (xF w.2.word).toNat = 0 then some terminateTok else none
    (s.endWait p w.2.fid).syncAnswer p w.1 h w.2 terminateTok two) s
  s.syncOne p pg h f (tokV 0)

/-- QINIT (R248). -/
def State.qInit (s : State) (p pg h : Nat) (o : Obj) (f : Fire) : State :=
  let cap := (valOf (f.r.map Arr.tok)).toNat
  let x := s.part p
  let last := hIndex h + cdiv cap 4
  let badCap := cap = 0 || 1024 < cap || x.objLimit ≤ last
  let store := (List.range (min (cdiv cap 4) (x.objLimit - 1 - hIndex h))).map (fun k => storeOf h (4 * k))
  let mineOrFree (k : Nat) : Bool := (s.objFault p k).isSome || (match (s.obj p k).st with
    | .free => true
    | .qstore q _ _ _ _ => q == h
    | _ => false)
  if !(s.parkedAt p o).isEmpty || !store.all mineOrFree then s.syncFault p pg f 4
  else if badCap then s.syncFault p pg f 5
  else
    s.withObjs p pg f store fun s =>
    let s := s.setObj p { o with st := .queue cap 0 0 false, waiters := [] }
    let s := store.foldl (fun s k =>
      match (s.obj p k).st with
      | .free => s.setObj p { s.obj p k with st := .qstore h 0 0 0 0 }
      | _ => s) s
    (s.reportStored p h f).syncOne p pg h f (tokV 0)

/-- A QOP acts. -/
def State.qOp (s : State) (p pg h : Nat) (f : Fire) : State :=
  let o := s.obj p h
  match o.st, (xF f.word).toNat with
  | .free, 4 | .queue _ _ _ _, 4 => s.qInit p pg h o f
  | .queue cap head len closed, 0 =>
    if closed then (s.wregStatus p f.id h 0 0).syncOne p pg h f terminateTok else s.qPush p pg h o f cap head len
  | .queue cap head len closed, 1 =>
    if len ≠ 0 then (s.wregStatus p f.id h 0 0).qTake p pg h o f cap head len closed (some (tokV 0))
    else if closed then (s.wregStatus p f.id h 0 0).syncAnswer p pg h f terminateTok (some (tokV 0))
    else s.syncPark p pg o f true
  | .queue cap head len closed, 2 =>
    if len ≠ 0 then s.qTake p pg h o f cap head len closed none
    else s.syncOne p pg h f (if closed then terminateTok else tokNull)
  | .queue cap head len closed, _ =>
    if closed then s.syncOne p pg h f (tokV 0) else s.qClose p pg h o f cap head len
  | _, _ => s.syncFault p pg f 2

/-! ### WFT (R253) -/

/-- A wait name as L gives it: a handle, or the word named by a fabric address. -/
def waitName (l : Nat) : Nat := if bitAt l 15 then wordName l else l

/-- A WFT operation acts. -/
def State.wftOp (s : State) (p pg : Nat) (f : Fire) : State :=
  let l := (valOf (f.l.map Arr.tok)).toNat
  let name := waitName l
  let x := s.part p
  let i := s.inst p f.id
  let badName := !bitAt l 15 && !x.handleOk l
  match (xF f.word).toNat with
  | 3 =>
    if 15 < l then s.syncFault p pg f 6
    else
      let s := s.modInst p f.id (fun i => { i with base := l })
      (s.prioChanged p [((false, f.id), pg / 256, 0)] []).syncOne p pg (pg / 256 * 2 ^ 30) f (tokV 0)
  | 2 =>
    if badName then s.syncFault p pg f 1
    else
      let had := x.wregs.any (fun w => w.id == f.id && w.name == name) || x.holds f.id name
      ((s.dropWreg p f.id name).endHold p f.id name).syncOne p pg name f (tokV (boolW had))
  | 1 =>
    if badName then s.syncFault p pg f 1
    else if x.holds f.id name then s.syncAnswer p pg name f (tokV 0) (some (tokV 1))
    else
      let s := s.syncAnswer p pg name f (tokV 0) none
      s.enterHold p i name pg f.fid true
  | _ =>
    if badName then s.syncFault p pg f 1
    else
      let s := s.dropWreg p f.id name
      let s := s.modPart p (fun x => { x with wregs := x.wregs ++ [{ id := f.id, gen := i.gen, name := name, pg := pg, fid := f.fid }] })
      s.syncAnswer p pg name f (tokV 0) none

/-! ### Firing and arrival (R242 to R244) -/

/-- The die that a synchronisation firing goes to. -/
def syncDie (pg op x l : Nat) : Nat := if op = 0x5C && x = 3 then pg / 256 else nameDie l

/-- A synchronisation instruction fires (R243, R244): the request reaches its engine 9 fclk later, plus crossings. -/
def State.sync (s : State) (pr : BitVec 2) (t1 t0 : Target) : State :=
  s.frame pr 1 t1 t0 fun s =>
    let c := s.cur
    let die := syncDie c.pg (opF c.word).toNat (xF c.word).toNat s.lv.toNat
    let s := s.modFire c.p c.pg c.fid (fun f => { f with phase := .out })
    s.sched (s.now + 9 + 12 * crossDie c.pg die) (srcOf c.pg c.tile) .syncOperationArrival
      { p := c.p, pg := c.pg, fid := c.fid, tag := c.tag }

/-- The objects that the engine of a die has served in this fclk, and the name by which it knows an object. -/
def State.servedOn (s : State) (die : Nat) : List (Nat × Nat) :=
  let z := (kget s.synced die).getD (0, [])
  if z.1 = s.now then z.2 else []
def State.objName (s : State) (p h : Nat) : Nat × Nat :=
  (p, (s.part p).objPlace h * 2 ^ 32 + (if (s.part p).inMemory h then 0 else h))

/-- An engine applies operations to at most eight different objects an fclk (R242): may it serve this one now? -/
def State.engineFree (s : State) (p h : Nat) : Bool :=
  let l := s.servedOn (hDie h)
  l.contains (s.objName p h) || decide (l.length < 8)

/-- The engine has served an object in this fclk. -/
def State.served (s : State) (p h : Nat) : State :=
  let l := s.servedOn (hDie h)
  if l.contains (s.objName p h) then s else { s with synced := kset s.synced (hDie h) (s.now, l ++ [s.objName p h]) }

/-- The operation acts now, or in the next fclk, before what reaches the engine then. -/
def State.engineTurn (s : State) (p h : Nat) (run : State → State) : State :=
  if s.engineFree p h then run (s.served p h) else s.sched (s.now + 1) 0 .syncOperationArrival { s.arg with x := 1 }

/-- An operation acts at its object (R243 to R249), or on the wait-for table: a release first makes its instance's committed stores visible. -/
def State.syncAct (s : State) (p pg : Nat) (f : Fire) : State :=
  let op := (opF f.word).toNat
  let h := (valOf (f.l.map Arr.tok)).toNat
  if op = 0x5C then s.wftOp p pg f
  else
    s.engineTurn p h fun s =>
      s.withObjs p pg f [h] fun s =>
        let s := if releases op (xF f.word).toNat then s.flush p f.id else s
        match op with
        | 0x58 => s.amo p pg h f
        | 0x59 => s.lockOp p pg h f
        | 0x5A => s.barOp p pg h f
        | _ => s.qOp p pg h f

/-- SYNC_OPERATION_ARRIVAL (R242 to R244): the operation takes its place at its object, its handle being checked then (R240), and acts at once
or, where the object is kept in memory, 140 fclk later (x = 1). -/
def execSyncOperationArrival (s : State) : Out :=
  let p := s.arg.p
  let pg := s.arg.pg
  .next (match (s.page p pg).fire? s.arg.fid with
    | none => s
    | some f =>
      let h := (valOf (f.l.map Arr.tok)).toNat
      if f.phase != .out then s
      else if s.arg.x = 1 || (opF f.word).toNat = 0x5C then s.syncAct p pg f
      else if !(s.part p).handleOk h then s.syncFault p pg f 1
      else if (s.part p).inMemory h then s.sched (s.now + 140) (srcOf pg f.tile) .syncOperationArrival { s.arg with x := 1 }
      else s.syncAct p pg f)

def execAmoAdd (pr : BitVec 2) (t1 t0 : Target) (s : State) : Out := .next (s.sync pr t1 t0)
def execAmoAnd (pr : BitVec 2) (t1 t0 : Target) (s : State) : Out := .next (s.sync pr t1 t0)
def execAmoOr (pr : BitVec 2) (t1 t0 : Target) (s : State) : Out := .next (s.sync pr t1 t0)
def execAmoXor (pr : BitVec 2) (t1 t0 : Target) (s : State) : Out := .next (s.sync pr t1 t0)
def execAmoMin (pr : BitVec 2) (t1 t0 : Target) (s : State) : Out := .next (s.sync pr t1 t0)
def execAmoMax (pr : BitVec 2) (t1 t0 : Target) (s : State) : Out := .next (s.sync pr t1 t0)
def execAmoMinu (pr : BitVec 2) (t1 t0 : Target) (s : State) : Out := .next (s.sync pr t1 t0)
def execAmoMaxu (pr : BitVec 2) (t1 t0 : Target) (s : State) : Out := .next (s.sync pr t1 t0)
def execAmoSwap (pr : BitVec 2) (t1 t0 : Target) (s : State) : Out := .next (s.sync pr t1 t0)
def execAmoFadd (pr : BitVec 2) (t1 t0 : Target) (s : State) : Out := .next (s.sync pr t1 t0)
def execAmoCas (pr : BitVec 2) (t1 t0 : Target) (s : State) : Out := .next (s.sync pr t1 t0)
def execLockAcq (pr : BitVec 2) (t1 t0 : Target) (s : State) : Out := .next (s.sync pr t1 t0)
def execLockTry (pr : BitVec 2) (t1 t0 : Target) (s : State) : Out := .next (s.sync pr t1 t0)
def execLockRel (pr : BitVec 2) (t1 t0 : Target) (s : State) : Out := .next (s.sync pr t1 t0)
def execBarArrive (pr : BitVec 2) (t1 t0 : Target) (s : State) : Out := .next (s.sync pr t1 t0)
def execBarWait (pr : BitVec 2) (t1 t0 : Target) (s : State) : Out := .next (s.sync pr t1 t0)
def execBarArrwait (pr : BitVec 2) (t1 t0 : Target) (s : State) : Out := .next (s.sync pr t1 t0)
def execBarInit (pr : BitVec 2) (t1 t0 : Target) (s : State) : Out := .next (s.sync pr t1 t0)
def execQpush (pr : BitVec 2) (t1 t0 : Target) (s : State) : Out := .next (s.sync pr t1 t0)
def execQpop (pr : BitVec 2) (t1 t0 : Target) (s : State) : Out := .next (s.sync pr t1 t0)
def execQpopt (pr : BitVec 2) (t1 t0 : Target) (s : State) : Out := .next (s.sync pr t1 t0)
def execQclose (pr : BitVec 2) (t1 t0 : Target) (s : State) : Out := .next (s.sync pr t1 t0)
def execQinit (pr : BitVec 2) (t1 t0 : Target) (s : State) : Out := .next (s.sync pr t1 t0)
def execWreg (pr : BitVec 2) (t1 t0 : Target) (s : State) : Out := .next (s.sync pr t1 t0)
def execWown (pr : BitVec 2) (t1 t0 : Target) (s : State) : Out := .next (s.sync pr t1 t0)
def execWrel (pr : BitVec 2) (t1 t0 : Target) (s : State) : Out := .next (s.sync pr t1 t0)
def execWpri (pr : BitVec 2) (t1 t0 : Target) (s : State) : Out := .next (s.sync pr t1 t0)

/-! ### The end of an instance (R250) -/

/-- The locks that an instance holds. -/
def Part.heldLocks (x : Part) (id gen : Nat) : List Obj := x.objs.filter (fun o => o.st == .lock (some (id, gen)))

/-- When an instance ends, its locks are released and counted, and its hold entries, WREGs and parked operations go. -/
def State.endSync (s : State) (p id gen : Nat) : State :=
  let s := s.modPart p (fun x => { x with
    regq := x.regq.filter (fun r => r.ent.id != id), wregs := x.wregs.filter (fun w => w.id != id) })
  let s := s.dropWft p (fun w => w.id == id)
  ((s.part p).heldLocks id gen).foldl (fun s o =>
    let s := s.bumpCsr p 0x122 31 0
    if (s.obj p o.h).st == o.st then s.lockPass p (s.obj p o.h) else s) s

end Sys2Proof.Machine
end

