-- ==== Sys2Proof/Machine/Life.lean ====
section
/-! DEFINITION. Sys2Proof/Machine/Life.lean: how strands and instances end (R176, R178, R194), how an instance is killed
(R187, R357), and the asking for placement. -/

namespace Sys2Proof.Machine

/-! ### Areas: runs of 4 KiB units -/

/-- The CSRs of an area: its base, size and use: the swap area (R189) or the save area (R364). -/
def areaCsrs (swap : Bool) : Nat × Nat × Nat := if swap then (0x081, 0x083, 0x084) else (0x0B2, 0x0B4, 0x0B5)

/-- The runs that records hold in an area. -/
def Part.runs (x : Part) (swap : Bool) : List (Nat × Nat) := if swap then x.swapRuns else x.saveRuns

/-- The lowest unit at which n units are free, among the first `size` (R359). -/
def freeRun (runs : List (Nat × Nat)) (size n : Nat) : Option Nat :=
  let clear (u : Nat) : Bool := decide (u + n ≤ size) && !runs.any (fun r => decide (r.1 < u + n) && decide (u < r.1 + r.2))
  (0 :: runs.map (fun r => r.1 + r.2)).foldl (fun best u =>
    if clear u then (match best with
      | some b => some (min b u)
      | none => some u) else best) none

/-- Setting an area's runs, with its USED field. -/
def State.setRuns (s : State) (p : Nat) (swap : Bool) (runs : List (Nat × Nat)) : State :=
  let s := s.modPart p (fun x => if swap then { x with swapRuns := runs } else { x with saveRuns := runs })
  s.setCsrF p (areaCsrs swap).2.2 23 0 (runs.foldl (fun n r => n + r.2) 0)

/-- Taking a run of n units. -/
def State.takeRun (s : State) (p : Nat) (swap : Bool) (n : Nat) : Option (State × Nat) :=
  let x := s.part p
  (freeRun (x.runs swap) (bits (x.csrN (areaCsrs swap).2.1) 23 0) n).map (fun u => (s.setRuns p swap (x.runs swap ++ [(u, n)]), u))

/-- The VA of a unit of an area. -/
def Part.runVa (x : Part) (swap : Bool) (u : Nat) : Nat := x.base64 (areaCsrs swap).1 12 + 4096 * u

/-- Giving a run back. -/
def State.freeRunOf (s : State) (p : Nat) (swap : Bool) (u : Nat) : State :=
  s.setRuns p swap (((s.part p).runs swap).filter (fun r => r.1 != u))

/-! ### Asking Pelorus -/

/-- Is a firing a CALL, CALLR or SYSC (R174, R175, R353)? -/
def Fire.isCall (f : Fire) : Bool := let op := (opF f.word).toNat; op == 0x0C || op == 0x0D || op == 0x79

/-- A row that stands in the agenda for a partition. -/
def State.pending (s : State) (p : Nat) (i : Instr) : Bool :=
  s.agenda.any (fun t => match t.act with
    | .row j a => j == i && a.p == p
    | .fire _ _ _ => false)

/-- The next multiple of n after now. -/
def State.nextMul (s : State) (n : Nat) : Nat := (s.now / n + 1) * n

/-- Pelorus serves a partition's requests in rounds (R198): the next begins when the earliest of them has reached it, and at least
6 fclk after the last. -/
def State.kick (s : State) (p : Nat) : State :=
  let x := s.part p
  let round := s.agenda.any (fun t => match t.act with
    | .row .pelorusRound a => a.p == p && a.z == 0
    | _ => false)
  match x.requests.map Request.since with
  | [] => s
  | t :: ts =>
    let first := ts.foldl min t
    if round then s
    else s.schedLate (max s.now (max first x.nextRound)) .pelorusRound { p := p }

/-- A request for area, and the time of its promotion (R182). -/
def State.request (s : State) (p : Nat) (r : Request) : State :=
  let s := s.modPart p (fun x => { x with requests := x.requests ++ [r] })
  (s.sched (r.since + 4097) 0 .requestPromote { p := p }).kick p

/-- A context of a page has become free, or an activation has ended: the page looks at its held messages again (R168). -/
def State.repend (s : State) (p pg : Nat) : State :=
  if (s.page p pg).msgs.isEmpty && !(s.part p).insts.any (fun i => i.strands.any (fun t => t.pg == pg && t.csrN 0x041 != 0)) then s
  else s.sched s.now (srcOf pg 0) .rtagpend { p := p, pg := pg, z := 1 }

/-- The page of an instance's strand 0:0. -/
def Inst.page0 (i : Inst) : Nat := ((i.strand? 0).map Strand.pg).getD 0

/-- The page and firing of an instance's outstanding operation. -/
def State.fireOf (s : State) (p id fid : Nat) : Option (Nat × Fire) :=
  (s.inst p id).strands.findSome? (fun t => ((s.page p t.pg).fire? fid).map (fun f => (t.pg, f)))

/-- A declared result (R174): the token that RET took, or what stands for a result the function does not declare. -/
def Inst.result (i : Inst) (n : Nat) (t : Option Token) (none' : Token) : Token :=
  if n < i.results then t.getD tokNull else none'

/-- What leaves for whoever started an instance, when it ends or is killed, its stores being visible (R174, R176, R179, R318, R357). -/
def State.sendResults (s : State) (p : Nat) (i : Inst) (killed : Bool) : State :=
  let x := s.part p
  let s := s.flush p i.id
  match i.origin with
  | .call id fid =>
    let c := s.inst p id
    let far := 4 + x.pageCost c.page0 i.page0
    let t0 := if killed then tokNull else i.result 0 i.res0 (tokV 0)
    let t1 := if killed then tokNull else i.result 1 i.res1 tokNull
    s.sched (s.now + far) (srcOf c.page0 0) .callResult
      { p := p, id := id, fid := fid, tok := t0, tok1 := t1, x := crossings c.page0 i.page0, y := s.now }
  | .launch die rva h =>
    let v (n : Nat) (t : Option Token) : Nat :=
      if killed then 0xFFFFFFFF else if n < i.results then (valOf t).toNat else 0
    s.sched s.now 0 .launchResult { p := p, id := i.id, fid := i.gen, x := die, y := rva, z := h, l := [v 0 i.res0, v 1 i.res1] }
  | .handler _ => s

/-- A guest switch goes on with its next entry, one more being skipped. -/
def State.gswNext (s : State) (p : Nat) (skipped : Bool) : State :=
  (s.modPart p (fun x => { x with gsw := x.gsw.map (fun g => { g with saving := none, skip := g.skip + b2n skipped }) })).sched s.now 0
    .guestSwitch { p := p }

/-- Taking an instance off its pages: its activations, firings, tokens and configuration changes. The runs of its records are free, and no
request waits for its save. -/
def State.clearInst (s : State) (p : Nat) (i : Inst) : State :=
  let mine : Tag → Bool := fun t => tagIs t i.id i.gen
  let s := s.cancel (fun r a => a.p == p && tagIs a.tag i.id i.gen && a.tag != 0 && (match r with
    | .tokenArrival | .blockFetch | .blockCommit | .iterationRetire | .loopIterationStart | .storeBufferPerform | .loadReply
    | .loadReplay | .configDrain => true
    | _ => false))
  let s := i.strands.foldl (fun s t => s.modPage p t.pg (fun y => { y with
    ents := y.ents.filter (fun e => !mine e.tag), spill := y.spill.filter (fun z => !mine z.tag)
    held := y.held.filter (fun z => !mine z.tag), fires := y.fires.filter (fun f => !mine f.tag)
    acts := y.acts.filter (fun a => !mine a.tag), nexts := y.nexts.filter (fun n => n.id != i.id)
    msgs := y.msgs.filter (fun m => m.id != i.id), msgWait := y.msgWait.filter (fun m => m.id != i.id) })) s
  let s := s.spillFreed p
  let s := match i.saving.bind Saving.run, i.saving with
    | some (u, _), some v => s.freeRunOf p (v.why == 1) u
    | _, _ => s
  let s := match i.save with
    | some v => s.freeRunOf p v.swap v.unit
    | none => s
  let s := if (s.part p).gsw.any (fun g => g.saving == some i.id) then s.gswNext p true else s
  s.modPart p (fun x => { x with
    feq := x.feq.filter (fun w => ((x.page w.pg).fire? w.fid).isSome)
    requests := (x.requests.filter (fun r => match r.kind with
      | .call id _ => id != i.id
      | .saved id => id != i.id
      | .handler id => id != i.id
      | .launch _ _ => true)).map (fun r => { r with saving := r.saving.filter (· != i.id) })
    stalled := x.stalled.filter (fun r => !mine r.2.tag || r.2.tag == 0) })

/-! ### Entries of the Plaiter cache (R286) -/

def PlaitEnt.is (e : PlaitEnt) (die p pa : Nat) : Bool := e.die == die && e.part == p && e.pa == pa

/-- The entry of an identity. -/
def State.plaitEnt? (s : State) (die p pa : Nat) : Option PlaitEnt := s.plait.find? (fun e => e.is die p pa)

/-- Changing an entry. -/
def State.modPlait (s : State) (die p pa : Nat) (f : PlaitEnt → PlaitEnt) : State :=
  { s with plait := s.plait.map (fun e => if e.is die p pa then f e else e) }

/-- An SPMA that owes the Plaiter bytes will not read them: the entry holds nothing again, and a PREP that waits for it is answered (R294). -/
def State.spmaForgive (s : State) (p pg : Nat) (c : IslCmd) : State :=
  match s.plaitEnt? (pg / 256) p c.chunk with
  | none => s
  | some e =>
    if c.owes && (opF c.word).toNat == 0x63 && e.st == .compiling && e.gen == c.group then
      let s := if e.waiters.isEmpty then s else s.sched s.now 0 .plaiterCompileDone { p := p, x := pg / 256, y := c.chunk, z := 2 }
      s.modPlait (pg / 256) p c.chunk (fun e => { e with st := .none })
    else s

/-- The page and firing of a copy command that a CPY sent. -/
def CopyCmd.place (c : CopyCmd) : Option (Nat × Nat) :=
  match c.src with
  | .fire pg fid => some (pg, fid)
  | .helm _ _ _ _ => none

/-- What belongs to an instance returns to its page and engines (R185, R261, R311, R357): claims of islands, whose registers and
tiles take their reset values, TOPK lists, its copy commands, whose channels go on, and its place in quiescence regions. -/
def State.endClaims (s : State) (p id : Nat) : State :=
  let mine (c : CopyCmd) : Bool := c.id == id && c.place.isSome
  let chans := ((s.part p).copies.filter mine).map (fun c => (c.eng, c.ch))
  let pgs := (s.inst p id).strands.map Strand.pg
  let s := s.cancel (fun r a => (r == .cnvImageLoad || r == .cnvLoadDone) && a.p == p && a.id == id)
  let s := pgs.foldl (fun s pg => ((s.page p pg).island.cmds.filter (fun c => c.id == id)).foldl (fun s c => s.spmaForgive p pg c) s) s
  let s := s.modPart p (fun x => { x with
    qregs := x.qregs.map (fun q => { q with members := q.members.filter (· != id) })
    copies := x.copies.filter (fun c => !mine c)
    pages := x.pages.map (fun y => if !pgs.contains y.num then y else { y with
      island := if y.island.owner == some id then y.island.released id else { y.island with cmds := y.island.cmds.filter (fun c => c.id != id) }
      cnv := if y.cnv.owner == some id then {} else y.cnv
      topk := y.topk.filter (fun k => tagId k.fibre != id) }) })
  chans.foldl (fun s c => s.sched s.now 0 .copyCommandBegin { p := p, x := c.1, y := c.2 }) s

/-- An instance ends (R176, R250, R333): its results leave, its locks are released, and its ID is freed at the end of its
last strand's teardown (R194). -/
def State.endInst (s : State) (p id : Nat) (killed : Bool) : State :=
  let i := s.inst p id
  let s := s.sendResults p i killed
  let s := (s.clearInst p i).endSync p id i.gen
  let s := (s.freeArea p id).endClaims p id
  let s := s.modInst p id (fun i => { i with status := .ended })
  s.kick p

/-- A strand ends (R176, R194): its page is free from the next fclk, and its teardown takes 8 fclk. -/
def State.endStrand (s : State) (p id n : Nat) : State :=
  match (s.inst p id).strand? n with
  | none => s
  | some t =>
    if t.ended then s
    else
      let s := s.modStrand p id n (fun t => { t with ended := true, endAt := s.now })
      let s := (s.sched (s.now + 8) (srcOf t.pg 0) .teardown { p := p, pg := t.pg, id := id, x := n }).kick p
      let s := s.repend p t.pg
      if (s.inst p id).strands.all (fun t => t.ended) then s.endInst p id false else s

/-- Killing an instance and, with it, its outstanding callees (R187, R357), down to a number of calls. A saved instance holds no page. -/
def State.killTree (s : State) (p id : Nat) : Nat → State
  | 0 => s
  | n + 1 =>
    let i := s.inst p id
    if i.status = .ended then s
    else
      let s := s.modInst p id (fun i => { i with strands := i.strands.map (fun t => { t with ended := true, endAt := if t.ended || i.status == .saved then t.endAt else s.now }) })
      let s := i.strands.foldl (fun s t =>
        if t.ended then s else s.sched (s.now + 8) (srcOf t.pg 0) .teardown { p := p, pg := t.pg, id := id, x := t.num }) s
      let s := s.endInst p id true
      (s.part p).insts.foldl (fun s j => match j.origin with
        | .call c _ => if c = id then s.killTree p j.id n else s
        | _ => s) s

/-- Killing an instance with all its callees: no chain of calls is longer than the instances are many. -/
def State.kill (s : State) (p id : Nat) : State := s.killTree p id (s.part p).insts.length

end Sys2Proof.Machine
end

