-- ==== Sys2Proof/Machine/Block.lean ====
section
/-! DEFINITION. Sys2Proof/Machine/Block.lean: activations: block fetch and configuration (R14, R26, R29, R30, R234), commit
(R22 to R25), and hardware loops (R155 to R162). -/

namespace Sys2Proof.Machine

/-! ### Starting an activation -/

/-- An activation begins (R14, R159): its zero-operand slots have a ready set at once, its first iteration's carried C
positions hold 0, and tokens that came before it count. -/
def State.startAct (s : State) (p pg : Nat) (a : Act) : State :=
  let s := s.modPage p pg (fun y => { y with acts := y.insAct a y.acts })
  let cx := s.ctxOf p a
  let ks := List.range a.words.length
  let s := ks.foldl (fun s k =>
    let w := (a.words[k]?).getD 0
    if usesPos cx k w .l || usesPos cx k w .r || usesPos cx k w .c || usesPos cx k w .p then s
    else s.modPage p pg (fun y => { y with ents := y.ents ++ [{ tile := k, tag := a.tag, way := 4 }] })) s
  let s := if a.role = .iter && a.iter = 0 then
      ks.foldl (fun s k => if sendsTo .c k ((a.words[k]?).getD 0) then
        s.enqueue p pg (some a) .c (BitVec.ofNat 6 k) a.tag { tok := tokV 0, fid := 0 } else s) s
    else s
  ks.foldl (fun s k => s.checkReady p pg k a.tag 0) s

/-- The registers of a block's READs. -/
def readRegs (ws : List Word) : List Nat :=
  ((ws.filter (fun w => (opF w).toNat == 0x01)).map (fun w => (gF w).toNat)).eraseDups

/-! ### Fetching the next block -/

/-- The trap record of a fault that a block's loading raises (R29, R45): at the exit or LOOP slot when the fault names no
slot, otherwise at the new block's slot. -/
def State.loadTrap (s : State) (p pg : Nat) (n : NextBlk) (va : Nat) (slot : Option Nat) (f : LoadFault) : TrapRec :=
  let t := ((s.inst p n.id).strand? n.strand).getD { num := n.strand, pg := pg }
  match slot with
  | none =>
    { code := f.code, detail := word f.detail, va := f.va, src := srcOf pg n.fromSlot, strand := n.strand, tag := n.tag, ts := 0,
      gen := t.gen - 1, word := n.fromWord, blk := n.fromBlk }
  | some k =>
    { code := f.code, detail := word f.detail, va := f.va, src := srcOf pg k, strand := n.strand, tag := n.tag, ts := 0,
      gen := t.gen, word := word (((s.readVa p (va + 8 + 4 * k) 4 true).toOption).getD 0), blk := va }

/-- May an instance take a further step of its own under a tag: it runs, or the tag is its trap handler's (R331, R337)? -/
def State.mayRun (s : State) (p id : Nat) (tag : Tag) : Bool :=
  (s.inst p id).live || ((s.inst p id).halted && isTrapTag tag)

/-- The windows of an activation: the instance's, with w7 the trap area in a trap handler (R337). -/
def State.winsFor (s : State) (p : Nat) (i : Inst) (role : Role) : List Win :=
  match role with
  | .trap =>
    let x := s.part p
    let k := (i.trapRec.bind (fun t => t.area)).getD 0
    let size := 4096 * 2 ^ bits (x.csrN 0x092) 2 0
    i.wins.set 7 { base := BitVec.ofNat 64 (x.base64 0x090 12 + k * size), limit := BitVec.ofNat 64 (size - 1), attr := 0xD }
  | _ => i.wins

/-- BLOCK_FETCH (R29, R30, R43): the next block is fetched, checked and configured, and its activation begins. A fault traps,
and the fetch stays to be made; that of a prefetched block is reported at the exit slot, with the target as its VA (R46). -/
def execBlockFetch (s : State) : Out :=
  let p := s.arg.p
  let pg := s.arg.pg
  .next (match (s.page p pg).nexts.find? (fun n => n.tag == s.arg.tag) with
    | none => s
    | some n =>
      if !s.mayRun p n.id n.tag then s
      else
        let i := s.inst p n.id
        let own := n.role == .main
        match s.loadBlock p i n.strand own (if n.entry then .entry else .exit) n.blk with
        | .error (k, f) =>
          s.takeTrap p n.id (if (s.page p pg).ctxs.contains n.blk then s.loadTrap p pg n n.blk none { f with va := n.blk } else s.loadTrap p pg n n.blk k f)
        | .ok b =>
          let gen := ((i.strand? n.strand).map Strand.gen).getD 0
          let s := s.modStrand p n.id n.strand (fun t =>
            let t := { t with gen := (t.gen + 1) % 65536 }
            if own then { t with blk := n.blk } else t)
          let s := s.modPage p pg (fun y => { y with nexts := y.nexts.filter (fun m => m.tag != n.tag) })
          let a : Act := {
            tag := n.tag, id := n.id, strand := n.strand, role := n.role, prio := n.prio, blk := n.blk, hdr := b.hdr,
            mask := b.mask, words := b.words, arity := b.arity, descs := b.descs, gen := gen, started := s.now, regs := i.regs,
            wins := s.winsFor p i n.role }
          let s := s.startAct p pg a
          match n.payload with
          | [w0, w1] =>
            (s.enqueue p pg (some a) .l 0 a.tag { tok := tokV w0, fid := 0 }).enqueue p pg (some a) .l 1 a.tag { tok := tokV w1, fid := 0 }
          | _ => s)

/-! ### Drains (R234, R354) -/

/-- Is a tag that of a handler activation (R149)? -/
def isHandlerTag (t : Tag) : Bool := tagDepth t == 0 && decide (0x3E ≤ tagF t 0)

/-- Is a tag that of an iteration that runs within an activation's loop (R149)? -/
def underTag (h t : Tag) : Bool :=
  decide (tagDepth h < tagDepth t) && bits t.toNat 63 45 == bits h.toNat 63 45
    && (List.range (tagDepth h)).all (fun j => tagF t j == tagF h j)

/-- An engine command that has not drained. -/
def Fire.undrained (f : Fire) : Bool := f.phase == .engine || f.phase == .stopped

/-- Has the configuration of a tag an engine command that has not drained? A strand's own configuration includes its loop's iterations, and
its end waits for its handlers' commands too. -/
def Page.undrained (y : Page) (id strand : Nat) (tag : Tag) (ends : Bool) : Bool :=
  y.fires.any (fun f => f.undrained && f.id == id && f.strand == strand
    && (ends || (if isHandlerTag tag then f.tag == tag else !isHandlerTag f.tag)))

/-- Has a loop that an iteration holds an engine command that has not drained? -/
def Page.undrainedLoop (y : Page) (h : Act) : Bool := y.fires.any (fun f => f.undrained && underTag h.tag f.tag)

/-- A configuration change begins: the next block of a tag, and the drain before it. -/
def State.toNext (s : State) (p pg : Nat) (n : NextBlk) : State :=
  (s.modPage p pg (fun y => { y with nexts := y.nexts ++ [n] })).sched s.now (srcOf pg 0) .configDrain { p := p, pg := pg, tag := n.tag, id := n.id }

/-! ### Commit -/

/-- A register list with the real deliveries of an activation. -/
def putRegs (regs : List Reg) (ds : List (Nat × Arr)) : List Reg :=
  ds.foldl (fun l d => if d.2.tok.null then l else l.set d.1 (regOf d.2.tok)) regs

/-- A window with one part set (R144, R145). -/
def Win.setPart (w : Win) (part : Nat) (v : DWord) : Win :=
  match part with
  | 0 => { w with base := v }
  | 1 => { w with limit := v }
  | _ => { w with attr := (v.setWidth 32) &&& 0x1FF }

/-- The loads of an activation whose value would differ if they were read now, among those that were read too early: of a strongly ordered
page before an older access of their strand (R226), or before an acquire of an earlier block (R230, R231). A load that something
irreversible depends on has performed. -/
def State.staleLoads (s : State) (p pg : Nat) (a : Act) (soft : Fire → Bool) : List Fire :=
  let y := s.page p pg
  let mine := y.fires.filter (fun f => f.tag == a.tag && isOrdLoad (opF f.word).toNat && f.acted && (f.aux[1]? == some 1 || f.aux[3]? == some 1))
  let one (acc : List Fire × Nat) (f : Fire) : List Fire × Nat :=
    let so := f.aux[1]? == some 1
    let m := if a.stores.any (fun st => st.so && decide (st.lsid < f.lsid)) then s.now else acc.2
    let readAt := (f.aux[2]?).getD 0
    let last := if so then s.now else acc.2
    if f.aux[3]? == some 1 || (so && decide (readAt < m)) then
      let fw := y.forward f
      let bs := s.loadBytes p pg f
      let same := (List.range f.size).all (fun i => ((fw[i]?).getD none).isSome || f.got[i]? == bs[i]?)
      let deps := y.spread (y.fires.length + 1) [f.fid]
      let fixed := y.fires.any (fun g => deps.contains g.fid && g.fid != f.fid && !soft g)
      if same || fixed || f.got.isEmpty then (acc.1, last) else (acc.1 ++ [f], last)
    else (acc.1, if so then max m readAt else acc.2)
  ((sortKey Fire.lsid mine).foldl one ([], 0)).1

/-- Can a firing still be withdrawn: it has changed nothing outside its activation (R21)? -/
def Fire.soft (f : Fire) : Bool :=
  let op := (opF f.word).toNat
  let t := targetsOf f.word
  let port : Target → Bool := fun t => match t with
    | .port _ => true
    | _ => false
  (decide (op ≤ 0x0B) || op == 0x0E || (decide (0x10 ≤ op) && decide (op ≤ 0x3C)) || (isOrdLoad op || isOrdStore op)
    || op == 0x50 || op == 0x51 || op == 0x66 || op == 0x71 || op == 0x72 || op == 0x74) && !port t.1 && !port t.2

/-- Does a block hold an operation that may acquire (R232)? -/
def Act.mayAcquire (a : Act) : Bool := a.words.any (fun w => acquires (opF w).toNat (xF w).toNat)

/-- Later iterations' loads that have read already are read again at their commit: those of strongly ordered pages where an access of this
activation performs now (R226), and all where it has acquired (R230, R231). -/
def Page.markRecheck (y : Page) (a : Act) : Page :=
  let so := a.stores.any (fun st => st.so) || y.fires.any (fun f => f.tag == a.tag && isOrdLoad (opF f.word).toNat && f.aux[1]? == some 1)
  if so || a.mayAcquire then
    { y with fires := y.fires.map (fun f =>
        if isOrdLoad (opF f.word).toNat && (a.mayAcquire || f.aux[1]? == some 1) && (y.act? f.tag).any (fun b => y.before a b) then
          { f with aux := f.aux.set 3 1 } else f) }
  else y

/-- Discarding what an activation has left (R25): queued tokens and firings but for engine commands;
ways that become free take spilled and held tokens. -/
def State.discard (s : State) (p pg : Nat) (tag : Tag) : State :=
  let y := s.page p pg
  let gone := y.ents.filter (fun e => e.tag == tag && decide (e.way < 4))
  let s := s.cancel (fun r a => a.p == p && a.pg == pg && a.tag == tag && (match r with
    | .tokenArrival => !isPort a.tg
    | .storeBufferPerform | .loadReply | .loadReplay | .readySetPromote => true
    | _ => false))
  let s := s.modPage p pg (fun y => { y with
    ents := y.ents.filter (fun e => e.tag != tag), spill := y.spill.filter (fun z => z.tag != tag)
    held := y.held.filter (fun z => z.tag != tag), fires := y.fires.filter (fun f => f.tag != tag || f.phase == .engine || f.phase == .stopped) })
  let s := gone.foldl (fun s e => s.freed p pg e.tile tag) s
  if y.spill.any (fun z => z.tag == tag) then s.spillFreed p else s

/-- The registers and windows that a commit makes visible, with the reports of poisoned null deliveries (R18, R125, R145). -/
def State.commitRegs (s : State) (p : Nat) (a : Act) : State :=
  let s := a.regW.foldl (fun s d => if d.2.tok.null && d.2.tok.pois then s.reportPoison p d.2.tok.origin 0 false else s) s
  let wins (ws : List Win) : List Win :=
    (sortKey Prod.fst a.setws).foldl (fun l z => l.set z.2.1 (((l[z.2.1]?).getD {}).setPart z.2.2.1 z.2.2.2)) ws
  s.modInst p a.id (fun i => { i with regs := putRegs i.regs a.regW, wins := wins i.wins })

/-- The trace record of a commit (R416). -/
def State.commitRec (s : State) (p pg : Nat) (a : Act) : State :=
  match a.exit with
  | some e =>
    if bitAt ((s.part p).csrN 0x100) 3 then s.traceRec p 32 (srcOf pg e.slot) a.gen a.tag (word e.num) (word e.addr) else s
  | none => s

/-- A commit's stores reach the bytes that younger loads of the strand have read: a later replay keeps them (R20, R160). -/
def Page.passOn (y : Page) (a : Act) : Page :=
  let sts := sortKey StoreRec.lsid a.stores
  if sts.isEmpty then y
  else { y with fires := y.fires.map (fun f =>
      if isOrdLoad (opF f.word).toNat && !f.got.isEmpty && (y.act? f.tag).any (fun b => y.before a b) then
        { f with got := (List.range f.size).map (fun i => (lastByte sts (f.key + i)).getD ((f.got[i]?).getD 0)) } else f) }

/-- The one step of a commit (R25): stores, registers and windows, and the discarding of the rest. -/
def State.commitAct (s : State) (p pg : Nat) (a : Act) : State :=
  let s := (s.commitStores p pg a).commitRegs p a
  let s := s.modPage p pg (fun y => (y.passOn a).markRecheck a)
  let s := (s.discard p pg a.tag).commitRec p pg a
  let s := s.modInst p a.id (fun i => { i with reFe := i.reFe.filter (fun z => z.1 != a.tag) })
  (s.modStrand p a.id a.strand (fun t => { t with commits := t.commits + 1 })).wake p pg

/-- Must a commit wait: for room in the trace sink (R417), or because loads are read again (R226, R230)? -/
def State.commitWaits (s : State) (p pg : Nat) (a : Act) (row : Instr) : Option State :=
  let x := s.part p
  if bitAt (x.csrN 0x100) 3 && x.traceStalls then
    some (s.modPart p (fun x => { x with stalled := x.stalled ++ [(row, s.arg)] }))
  else
    match s.staleLoads p pg a Fire.soft with
    | [] =>
      if s.inFlight p pg a.tag then some ((s.modAct p pg a.tag (fun a => { a with commitAt := none })).checkDone p pg a.tag) else none
    | fs =>
      let s := s.modAct p pg a.tag (fun a => { a with commitAt := none })
      some (fs.foldl (fun s f => s.sched s.now (srcOf pg f.tile) .loadReplay { p := p, pg := pg, fid := f.fid, tag := f.tag, x := 1 }) s)

/-- RFT acts after its block's commit (R340): the instances it names are killed at once or resumed after 64 fclk. -/
def State.applyRfts (s : State) (p pg : Nat) (a : Act) : State :=
  (sortKey Prod.fst a.rfts).foldl (fun s r =>
    let v := r.2.toNat
    let id := bits v 15 0
    let i := s.inst p id
    if !i.stopped || i.gen ≠ bits v 18 16 then s.stale p pg r.1
    else if bitAt v 31 then s.sched s.now 0 .instanceKill { p := p, id := id, x := i.gen }
    else
      (s.flush p a.id).sched (s.now + 64) 0 .replayInject { p := p, id := id, x := i.gen, y := 0 }) s

/-- Does some RFT of a handler activation name the activation's own instance (R340)? -/
def Act.ownRft (a : Act) (i : Inst) : Bool := a.rfts.any (fun r => bits r.2.toNat 15 0 == i.id && bits r.2.toNat 18 16 == i.gen)

/-- The next block of a committed activation, reached by its exit (R28). -/
def State.follow (s : State) (p pg : Nat) (a : Act) : State :=
  match a.exit with
  | none => s
  | some e =>
    let n : NextBlk := {
      tag := a.tag, id := a.id, strand := a.strand, role := a.role, prio := a.prio, blk := e.addr, fromSlot := e.slot,
      fromBlk := a.blk, fromWord := (a.words[e.slot]?).getD 0, ret := e.ret, ready := s.now + 8 }
    let s := (s.modPage p pg (fun y => { y with acts := y.acts.filter (fun b => b.tag != a.tag) })).dropLists p pg a.tag
    if a.role = .main then
      (if e.ret then s else s.modStrand p a.id a.strand (fun t => { t with blk := e.addr })).toNext p pg n
    else s.toNext p pg n

/-- A handler activation ends (R168, R337) once its engine commands have drained (R234): messages that wait may start the next. -/
def State.endHandler (s : State) (p pg : Nat) (a : Act) : State :=
  ((s.modPage p pg (fun y => { y with acts := y.acts.filter (fun b => b.tag != a.tag) })).dropLists p pg a.tag).toNext p pg
    { tag := a.tag, id := a.id, strand := a.strand, role := a.role, prio := a.prio, fromBlk := a.blk, ret := true }

/-! ### Loops -/

/-- Does a block, or a body that it runs, set a window (R145)? -/
def State.setsWin (s : State) (p : Nat) : Nat → Nat → List Word → Bool
  | 0, _, _ => true
  | n + 1, blk, ws =>
    ws.any (fun w => (opF w).toNat == 0x50) || ws.any (fun w =>
      (opF w).toNat == 0x09 &&
        (let b := blkPlus blk (off20F w)
         match s.readVa p b 8 true with
         | .error _ => false
         | .ok h => s.setsWin p n b (s.fetchWords p (hdrNI (word h) + 1) (b + 8)).1))

/-- An activation that has committed with a latched LOOP holds the running loop (R155). -/
def State.holdLoop (s : State) (p pg : Nat) (a : Act) (n body : Nat) : State :=
  let y := s.page p pg
  let entry := match a.role with
    | .iter => putRegs ((((y.act? a.holder).bind (fun h => h.looping)).map LoopRec.regs).getD a.regs) a.regW
    | _ => (s.inst p a.id).regs
  let lp : LoopRec := {
    n := n, body := body, hdr := 0, mask := 0, words := [], regs := entry, ready := s.now + 8,
    slot := (a.latched.map (fun z => z.2.2.1)).getD 0 }
  let s := s.modAct p pg a.tag (fun a => { a with looping := some lp, commitAt := none })
  s.sched s.now (srcOf pg 0) .configDrain { p := p, pg := pg, tag := a.tag, id := a.id }

/-- May a loop begin its next iteration (R157)? -/
def LoopRec.open (lp : LoopRec) : Bool :=
  !lp.stopped && decide (lp.next < lp.n) && decide (lp.next < lp.retired + (if lp.serial then 1 else 32))

/-- The fault of a LOOP's body at its load (R161, R162). -/
def State.loopFault (s : State) (p pg : Nat) (a : Act) (body : Nat) (slot : Option Nat) (f : LoadFault) : State :=
  let k := (a.latched.map (fun z => z.2.2.1)).getD 0
  let n : NextBlk := { tag := a.tag, id := a.id, strand := a.strand, fromSlot := k, fromBlk := a.blk, fromWord := (a.words[k]?).getD 0 }
  let t := s.loadTrap p pg n body slot f
  s.takeTrap p a.id (if slot.isNone then { t with gen := a.gen } else t)

/-- The body of a loop loaded for its first iteration (R161, R162). -/
def State.loadBody (s : State) (p pg : Nat) (a : Act) (lp : LoopRec) : Except State (State × LoopRec) :=
  let i := s.inst p a.id
  let depth := tagDepth a.tag + 1
  if i.depth < depth then .error (s.loopFault p pg a lp.body none { code := 0x07, detail := depth })
  else
    match s.loadBlock p i a.strand true .body lp.body with
    | .error (k, f) => .error (s.loopFault p pg a lp.body k f)
    | .ok b =>
      let lp := { lp with hdr := b.hdr, mask := b.mask, words := b.words, arity := b.arity, descs := b.descs, serial := s.setsWin p 9 lp.body b.words }
      let s := s.modAct p pg a.tag (fun a => { a with looping := some lp })
      .ok (s.modStrand p a.id a.strand (fun t => { t with gen := (t.gen + 1) % 65536 }), lp)

/-- One iteration begins. -/
def State.startIter (s : State) (p pg : Nat) (h : Act) (lp : LoopRec) (gen : Nat) : State :=
  let k := lp.next
  let i := s.inst p h.id
  let prev := if k = lp.retired then none else (s.page p pg).act? (tagIter h.tag (k - 1))
  let loops := lp.words.any (fun w => (opF w).toNat == 0x09)
  let waits := (readRegs lp.words).filter (fun g => loops || (regTargets lp.words).contains g)
  let a : Act := {
    tag := tagIter h.tag k, id := h.id, strand := h.strand, role := .iter, prio := h.prio, blk := lp.body, hdr := lp.hdr,
    mask := lp.mask, words := lp.words, arity := lp.arity, descs := lp.descs, gen := gen, started := s.now, regs := lp.regs, wins := i.wins,
    iter := k, holder := h.tag, unres := if prev.isSome then waits else [] }
  let s := s.modAct p pg h.tag (fun h => { h with looping := h.looping.map (fun l => { l with next := k + 1, ready := s.now + 1 }) })
  let s := s.startAct p pg a
  match prev with
  | none => s
  | some b => b.regW.foldl (fun s d => s.passReg p pg b.tag d.1 64) s

/-- A LOOP_ITERATION_START for a holder at the fclk from which it may begin. -/
def State.schedIter (s : State) (p pg : Nat) (h : Act) (ready : Nat) : State :=
  s.sched (max s.now ready) (srcOf pg 0) .loopIterationStart { p := p, pg := pg, id := h.id, tag := h.tag }

/-- LOOP_ITERATION_START (R155, R157): the next iteration begins, its body loaded first where it is the first. -/
def execLoopIterationStart (s : State) : Out :=
  let p := s.arg.p
  let pg := s.arg.pg
  .next (match (s.page p pg).act? s.arg.tag with
    | none => s
    | some h =>
      match h.looping with
      | none => s
      | some lp =>
        if !s.mayRun p h.id h.tag || !lp.open || s.now < lp.ready then s
        else
          match (if lp.words.isEmpty then s.loadBody p pg h lp else .ok (s, lp)) with
          | .error s => s
          | .ok (s, lp) =>
            let gen := (((s.inst p h.id).strand? h.strand).map Strand.gen).getD 1 - 1
            let s := s.startIter p pg h lp gen
            if { lp with next := lp.next + 1 }.open then s.schedIter p pg h (s.now + 1) else s)

/-- The iteration after one that has retired takes the trap that it has met (R162); a body with a LOOP takes every register it waits for now (R158, R161). -/
def State.resolveNext (s : State) (p pg : Nat) (h : Act) (lp : LoopRec) : State :=
  match (s.page p pg).act? (tagIter h.tag lp.retired) with
  | none => s
  | some b =>
    if b.holder ≠ h.tag || b.iter ≠ lp.retired then s
    else
      let s := if b.hasLoop then
          let s := s.modAct p pg b.tag (fun b => { b with
            regs := b.unres.foldl (fun l g => l.set g (regAt lp.regs g)) b.regs, unres := [] })
          (List.range b.words.length).foldl (fun s k => s.checkReady p pg k b.tag 0) s
        else s
      match b.trapped with
      | some t => (s.modAct p pg b.tag (fun b => { b with trapped := none })).takeTrap p b.id t
      | none => s.checkDone p pg b.tag

/-- An iteration retires (R156, R161): the next may commit and a waiting one begin; after the last, the holder goes on. -/
def State.retire (s : State) (p pg : Nat) (a : Act) (regs : List Reg) : Nat → State
  | 0 => s
  | fuel + 1 =>
    let s := s.modPage p pg (fun y => { y with acts := y.acts.filter (fun b => b.tag != a.tag) })
    match (s.page p pg).act? a.holder with
    | none => s
    | some h =>
      match h.looping with
      | none => s
      | some lp =>
        let full := !lp.open
        let lp := { lp with retired := lp.retired + 1, regs := regs }
        let s := s.modAct p pg h.tag (fun h => { h with looping := some lp })
        if lp.stopped then s
        else if lp.retired = lp.n then
          let s := s.dropLists p pg a.tag
          match h.role with
          | .iter => if (s.page p pg).undrainedLoop h then s else s.retire p pg h regs fuel
          | _ => (s.follow p pg h).repend p pg
        else
          let s := s.resolveNext p pg h lp
          if full && lp.open then s.schedIter p pg h (max lp.ready (s.now + 1)) else s

/-- CONFIG_DRAIN (R234): once the ending configuration's engine commands have drained, the strand or handler ends, stops at its
boundary, or goes on to its next configuration, or an iteration whose loop has ended retires. -/
def execConfigDrain (s : State) : Out :=
  let p := s.arg.p
  let pg := s.arg.pg
  let y := s.page p pg
  .next (match y.nexts.find? (fun n => n.tag == s.arg.tag) with
    | some n =>
      let ends := n.ret && n.role == .main
      if !s.mayRun p n.id n.tag || y.undrained n.id n.strand n.tag ends then s
      else if n.ret then
        let s := s.modPage p pg (fun y => { y with nexts := y.nexts.filter (fun m => m.tag != n.tag) })
        if ends then s.endStrand p n.id n.strand else s.repend p pg
      else if n.role = .main && ((s.inst p n.id).strand? n.strand).any (fun t => t.stopReq) then
        s.sched s.now (srcOf pg 0) .strandBoundaryStop { p := p, pg := pg, id := n.id, x := n.strand }
      else s.sched (max s.now n.ready) (srcOf pg 0) .blockFetch { p := p, pg := pg, id := n.id, tag := n.tag }
    | none =>
      match y.act? s.arg.tag with
      | none => s
      | some a =>
        match a.looping with
        | none => s
        | some lp =>
          if lp.retired = lp.n then
            (if lp.stopped || !s.mayRun p a.id a.tag || y.undrainedLoop a then s else s.retire p pg a lp.regs 9)
          else if lp.next ≠ 0 || !s.mayRun p a.id a.tag || (a.role == .main && y.undrained a.id a.strand a.tag false) then s
          else if a.role = .main && ((s.inst p a.id).strand? a.strand).any (fun t => t.stopReq) then
            s.sched s.now (srcOf pg 0) .strandBoundaryStop { p := p, pg := pg, id := a.id, x := a.strand }
          else s.sched (max s.now lp.ready) (srcOf pg 0) .loopIterationStart { p := p, pg := pg, id := a.id, tag := a.tag })

/-- The registers after an iteration, as its loop and the loops around it see them. -/
def State.iterRegs (s : State) (p pg : Nat) (a : Act) : List Reg :=
  putRegs ((((s.page p pg).act? a.holder).bind (fun h => h.looping)).map LoopRec.regs |>.getD a.regs) a.regW

/-- ITERATION_RETIRE (R156): a complete iteration commits after its predecessor; one that holds a LOOP runs it first. -/
def execIterationRetire (s : State) : Out :=
  let p := s.arg.p
  let pg := s.arg.pg
  .next (match (s.page p pg).act? s.arg.tag with
    | none => s
    | some a =>
      if a.commitAt.isNone || !s.mayRun p a.id a.tag then s
      else
        match s.commitWaits p pg a .iterationRetire with
        | some s => s
        | none =>
          let regs := s.iterRegs p pg a
          let s := s.commitAct p pg a
          match a.latched with
          | some (n, body, _, _) => (s.holdLoop p pg a n body).applyRfts p pg a
          | none => (s.retire p pg a regs 9).applyRfts p pg a)

/-- BLOCK_COMMIT (R25, R155, R168, R176, R340): a complete block commits; its loop runs, its strand or handler ends, or its
next block follows. -/
def execBlockCommit (s : State) : Out :=
  let p := s.arg.p
  let pg := s.arg.pg
  .next (match (s.page p pg).act? s.arg.tag with
    | none => s
    | some a =>
      if a.commitAt.isNone || !s.mayRun p a.id a.tag then s
      else
        match s.commitWaits p pg a .blockCommit with
        | some s => s
        | none =>
          let i := s.inst p a.id
          let s := s.commitAct p pg a
          let s := match a.latched with
            | some (n, body, _, _) => s.holdLoop p pg a n body
            | none =>
              let handler := a.role != Role.main
              if handler && ((a.exit.map ExitRec.ret).getD false || (a.role == Role.trap && a.ownRft i)) then s.endHandler p pg a
              else s.follow p pg a
          s.applyRfts p pg a)

end Sys2Proof.Machine
end

