-- ==== Sys2Proof/Machine/Crypt.lean ====
section
/-! DEFINITION. Sys2Proof/Machine/Crypt.lean: what DRAM holds of a line: its blocks under AES-256 (R374), its side-band word with the GHASH
MAC (R375), a counter block and its MAC (R376); and the check of a line as DRAM gives it back. Blocks of 16 bytes are lists of numbers below
256, in the order of their bytes; a 128-bit block's first byte is its bits [127:120], as FIPS 197 and SP 800-38D write blocks (log 61). -/

namespace Sys2Proof.Machine

/-! ### AES-256 (FIPS 197) -/

/-- A byte times x in AES's field. -/
def xtime (b : Nat) : Nat := if b < 128 then 2 * b else Nat.xor (2 * b - 256) 0x1B

/-- The product of two bytes in AES's field. -/
def gmul (a b : Nat) : Nat := ((List.range 8).foldl (fun (z : Nat × Nat) i => (if bitAt b i then Nat.xor z.1 z.2 else z.1, xtime z.2)) (0, a)).1

/-- The inverse of a byte, 0 for 0: its power 254. -/
def ginv (a : Nat) : Nat := ((List.range 7).foldl (fun (z : Nat × Nat) _ => let x := gmul z.2 z.2; (gmul z.1 x, x)) (1, a)).1

/-- SubBytes of one byte. -/
def subByte (b : Nat) : Nat :=
  let i := ginv b
  let rot (k : Nat) : Nat := i * 2 ^ k % 256 + i / 2 ^ (8 - k)
  [rot 1, rot 2, rot 3, rot 4, 0x63].foldl Nat.xor i

/-- Lists of bytes combined by exclusive or. -/
def xorBytes (a b : List Nat) : List Nat := (a.zip b).map (fun z => Nat.xor z.1 z.2)

/-- The words of an AES-256 key schedule, the newest first, after n more of them. -/
def expandKey : Nat → List (List Nat) → List (List Nat)
  | 0, ws => ws
  | n + 1, ws =>
    let i := ws.length
    let t := ws.headD []
    let t := if i % 8 = 0 then
        let r := (t.drop 1 ++ t.take 1).map subByte
        xorBytes r [(List.range (i / 8 - 1)).foldl (fun c _ => xtime c) 1, 0, 0, 0]
      else if i % 8 = 4 then t.map subByte else t
    expandKey n (xorBytes ((ws[7]?).getD []) t :: ws)

/-- The 60 words of the schedule of a key of 32 bytes, in order. -/
def keySchedule (key : List Nat) : List (List Nat) :=
  (expandKey 52 ((List.range 8).map (fun i => (key.drop (4 * i)).take 4)).reverse).reverse

/-- A round's key. -/
def roundKey (ks : List (List Nat)) (r : Nat) : List Nat := ((ks.drop (4 * r)).take 4).flatten

/-- ShiftRows: byte r of column c comes from column c + r. -/
def shiftRows (s : List Nat) : List Nat := (List.range 16).map (fun i => (s[(i + 4 * (i % 4)) % 16]?).getD 0)

/-- MixColumns of a state. -/
def mixColumns (s : List Nat) : List Nat :=
  (List.range 16).map (fun i =>
    let at' (k : Nat) : Nat := (s[i / 4 * 4 + (i + k) % 4]?).getD 0
    [xtime (at' 1), at' 1, at' 2, at' 3].foldl Nat.xor (xtime (at' 0)))

/-- AES-256 of a block of 16 bytes under a key of 32. -/
def aes256 (key block : List Nat) : List Nat :=
  let ks := keySchedule key
  let s := (List.range 13).foldl (fun s r => xorBytes (mixColumns (shiftRows (s.map subByte))) (roundKey ks (r + 1))) (xorBytes block (roundKey ks 0))
  xorBytes (shiftRows (s.map subByte)) (roundKey ks 14)

/-! ### GHASH (SP 800-38D) -/

/-- The n big-endian bytes of a number, and the number of such bytes. -/
def beBytes (n v : Nat) : List Nat := ((leBytes n v).map BitVec.toNat).reverse
def ofBE (l : List Nat) : Nat := l.foldl (fun n b => n * 256 + b) 0

/-- The product of two blocks. -/
def ghashMul (x y : Nat) : Nat :=
  ((List.range 128).foldl (fun (z : Nat × Nat) i =>
    (if bitAt x (127 - i) then Nat.xor z.1 z.2 else z.1, if bitAt z.2 0 then Nat.xor (z.2 / 2) (0xE1 * 2 ^ 120) else z.2 / 2)) (0, y)).1

/-- GHASH of blocks under H. -/
def ghash (h : Nat) (blocks : List Nat) : Nat := blocks.foldl (fun y b => ghashMul (Nat.xor y b) h) 0

/-! ### Lines (R374 to R376) -/

/-- X_j, and with `mac` X_M (R374, R375). -/
def lineInput (pa major minor j : Nat) (mac : Bool) : Nat :=
  bits pa 45 6 * 2 ^ 88 + major % 2 ^ 64 * 2 ^ 24 + minor % 128 * 2 ^ 17 + b2n mac * 2 ^ 16 + j % 4

/-- C_0 to C_3 of a line's 64 bytes; the same function gives the plaintext back. -/
def lineCipher (key : List Nat) (pa major minor : Nat) (l : List Nat) : List Nat :=
  (List.range 4).flatMap (fun j => xorBytes ((l.drop (16 * j)).take 16) (aes256 key (beBytes 16 (lineInput pa major minor j false))))

/-- The MAC of 64 stored bytes, before it is cut to its field (R375, R376). -/
def lineMac (key : List Nat) (pa major minor : Nat) (c : List Nat) : Nat :=
  let h := ofBE (aes256 key (List.replicate 16 0))
  let x := lineInput pa major minor 0 true
  Nat.xor (ghash h (x :: (List.range 4).map (fun j => ofBE ((c.drop (16 * j)).take 16)))) (ofBE (aes256 key (beBytes 16 x)))

/-- A side-band word: the MAC in [55:0] and its SEC-DED check byte, whose code the spec does not give (R375). -/
def sideBand (mac : Nat) : Nat := mac % 2 ^ 56 + (Config.secded (mac % 2 ^ 56)).toNat * 2 ^ 56

/-- The bytes of the key in a slot, 256 bits of the random source (R373). -/
def keyOf (n : Nat) : List Nat := beBytes 32 (Config.keyBits n).toNat

/-- The slot of the key under which a region is stored: its window's, its partition's, or the boot key's, 0 (R373, R374, R419). -/
def State.keyAt (s : State) (pa : Nat) : Nat :=
  match s.windows.find? (fun w => w.regions.contains (pa >>> 26)) with
  | some w => w.key
  | none => ((s.parts.find? (fun x => x.regions.contains (pa >>> 26))).map Part.key).getD 0

/-- What DRAM holds of a line (R374, R375): its four blocks as 64 bytes, and its side-band word. -/
def State.dramLine (s : State) (line : Nat) : List Nat × Nat :=
  let pa := line * 64
  let key := keyOf (s.keyAt pa)
  let g := s.guardPage (line / 64)
  let c := lineCipher key pa g.major (g.minor (line % 64)) ((Mem.bytes s.mem pa 64).map BitVec.toNat)
  (c, sideBand (lineMac key pa g.major (g.minor (line % 64)) c))

/-- Does a line as DRAM gives it back pass its check, the counters being those of now (R375)? -/
def State.lineGood (s : State) (line : Nat) (c : List Nat) (side : Nat) : Bool :=
  let pa := line * 64
  let g := s.guardPage (line / 64)
  side % 2 ^ 56 == lineMac (keyOf (s.keyAt pa)) pa g.major (g.minor (line % 64)) c % 2 ^ 56

/-- The 64 bytes of a page's counter block (R376), and its side-band word: its MAC takes the block's own address and its counter in the parent
node. -/
def GuardPage.block (g : GuardPage) : List Nat :=
  (leBytes 64 (g.major % 2 ^ 64 + ((List.range 64).map (fun i => g.minor i % 128 * 2 ^ (64 + 7 * i))).sum)).map BitVec.toNat

def GuardPage.blockSide (g : GuardPage) (key : List Nat) (pa counter : Nat) : Nat := sideBand (lineMac key pa counter 0 g.block)

end Sys2Proof.Machine
end

