-- ==== Sys2Proof/Machine/Message.lean ====
section
/-! DEFINITION. Sys2Proof/Machine/Message.lean: arrivals at a page: tokens (R13, R150 to R154), messages and the handlers they
start (R166 to R168, R185, R217, R218), and the device's steps on the matching stores (R152, R153). -/

namespace Sys2Proof.Machine

/-! ### Tokens -/

/-- The strand of an instance beside another one, in the order north, east, south, west (R40); port e32 + 4 * side leads to it. -/
def Inst.neighbour (i : Inst) (strand side : Nat) : Option Strand :=
  let x := strand % i.w
  let y := strand / i.w
  let at' (x y : Nat) : Option Strand := i.strand? (x + i.w * y)
  match side with
  | 0 => if y = 0 then none else at' x (y - 1)
  | 1 => if x + 1 < i.w then at' (x + 1) y else none
  | 2 => if y + 1 < i.h then at' x (y + 1) else none
  | _ => if x = 0 then none else at' (x - 1) y

/-- A token at an edge port (R40): to the matrix island, a copy engine's stream, a conversion island, or a neighbouring page
of the instance, where a strand that has ended counts it as stale (R194) and no queue takes another (log 11). -/
def State.portArrive (s : State) (a : Args) (e : Nat) : State :=
  let i := s.inst a.p (tagId a.tag)
  if i.gen ≠ tagGen a.tag || i.status == .ended then s.stale a.p a.pg 0
  else if i.halted && !isTrapTag a.tag then s.appendReplay a.p i.id (i.strandOn a.pg) a.tag a.tg a.tok
  else
    let s := s.modPage a.p a.pg (fun y => y.stir i.id s.now)
    let row (r : Instr) : State := s.sched s.now (srcOf a.pg 0) r { a with id := i.id, x := e, y := a.x }
    if e < 16 then row .islandStreamToken
    else if e < 24 then row .copyStreamToken
    else if e < 32 then row .cnvPortInput
    else
      match i.neighbour (i.strandOn a.pg) ((e - 32) / 4) with
      | some t => if t.ended then s.stale a.p t.pg 0 else s
      | none => s.stale a.p a.pg 0

/-- TOKEN_ARRIVAL (R13, R23, R151). -/
def execTokenArrival (s : State) : Out :=
  let a := s.arg
  .next (match a.tg with
    | .none =>
      match exitOf a with
      | some e => s.arriveExit a.p a.pg a.tag e
      | none => s
    | .port e => s.portArrive a e.toNat
    | _ => s.arrive a.p a.pg a.tg a.tag a.tok a.fid a.x)

/-- A spilled token of a set with room is on its way back, unless one is already. -/
def State.spillBack (s : State) (p pg tile : Nat) (tag : Tag) : State :=
  let coming := s.agenda.any (fun t => match t.act with
    | .row .spillReturn a => a.p == p && a.pg == pg && a.x == tile && a.y == setOf tag && a.z == 0
    | _ => false)
  if coming || (lowestFree (((s.page p pg).inSet tile tag).map Entry.way) 4 0).isNone then s
  else s.sched (s.now + 140) (srcOf pg tile) .spillReturn { p := p, pg := pg, x := tile, y := setOf tag }

/-- SPILL_RETURN (R152): the oldest spilled token of a tile and set returns, where its set has room for it; where it has room for another,
that one is next. The freed entry of the spill table lets held tokens in. z = 1: every page looks whether a spilled token may return. -/
def execSpillReturn (s : State) : Out :=
  let p := s.arg.p
  let pg := s.arg.pg
  let tile := s.arg.x
  let y := s.page p pg
  .next (if s.arg.z = 1 then
      ((s.part p).pages.foldl (fun s y => (y.spill.map (fun z => (z.tile, z.tag))).foldl (fun s z => s.spillBack p y.num z.1 z.2) s) s).unholdAll p
    else match y.spill.find? (fun z => z.tile == tile && setOf z.tag == s.arg.y) with
    | none => s
    | some z =>
      let room := (lowestFree ((y.inSet tile z.tag).map Entry.way) 4 0).isSome || y.ents.any (fun e => e.tile == tile && e.tag == z.tag)
      if !room then s
      else
        let s := s.modPage p pg (fun y => { (y.modHist tile (fun h => { h with returns := sat32 h.returns })) with
          spill := y.spill.filter (fun w => w != z) })
        let s := s.enqueue p pg ((s.page p pg).act? z.tag) z.pos (BitVec.ofNat 6 tile) z.tag z.arr
        let s := s.modPage p pg (fun y => { y with ents := y.ents.map (fun e =>
          if e.tile == tile && e.tag == z.tag then { e with since := min e.since z.since } else e) })
        let y := s.page p pg
        let s := match y.spill.find? (fun w => w.tile == tile && setOf w.tag == s.arg.y) with
          | none => s
          | some w =>
            if (lowestFree ((y.inSet tile w.tag).map Entry.way) 4 0).isSome || y.ents.any (fun e => e.tile == tile && e.tag == w.tag) then
              s.sched (s.now + 140) (srcOf pg tile) .spillReturn s.arg
            else s
        s.unholdAll p)

/-- READY_SET_PROMOTE (R153). -/
def execReadySetPromote (s : State) : Out :=
  let p := s.arg.p
  let pg := s.arg.pg
  .next ((s.modPage p pg (fun y => { y with ents := y.ents.map (fun e =>
    if e.tile == s.arg.x && e.tag == s.arg.tag && e.ready.isSome then { e with promo := 2 } else e) })).schedFire s.now p pg s.arg.x)

/-! ### Contexts (R195) -/

/-- The configuration contexts of a page that hold a block with a live activation: each strand's current block, each handler
activation, and each loop body. -/
def Page.liveCtx (y : Page) : Nat :=
  let tops := y.acts.filter (fun a => a.role != .iter)
  let bodies := (y.acts.filterMap (fun a => (a.looping.filter (fun lp => !lp.words.isEmpty)).map (fun lp => (a.id, a.strand, tagDepth a.tag, lp.body)))).eraseDups
  tops.length + bodies.length + (y.nexts.filter (fun n => !n.ret)).length

/-! ### Handlers -/

/-- A field of a strand's own copy of a page CSR, set (R185). -/
def State.setStrandCsr (s : State) (p id n csr v : Nat) : State :=
  s.modStrand p id n (fun t => { t with csr := kset t.csr csr (word v) })

/-- RTAGPEND's bit of a route tag. -/
def State.setPend (s : State) (p id n rt : Nat) (b : Bool) : State :=
  let v := (((s.inst p id).strand? n).map (fun t => t.csrN 0x041)).getD 0
  (s.setStrandCsr p id n 0x041 (setBits v rt rt (b2n b))).modStrand p id n (fun t =>
    { t with pendAt := if b then kset t.pendAt rt s.now else t.pendAt.filter (fun z => z.1 != rt) })

/-- The first message held, or waiting at the port, for a route tag of a strand. -/
def Msg.isFor (id n rt : Nat) (m : Msg) : Bool := m.id == id && m.strand == n && m.rt == rt

/-- Taking the first of a list that meets a test, and the rest. -/
def takeFirst {α : Type} (f : α → Bool) : List α → Option α × List α
  | [] => (none, [])
  | x :: xs => if f x then (some x, xs) else let r := takeFirst f xs; (r.1, x :: r.2)

/-- Does a message wait behind another, of its route tag or of its multicast channel (R166, R218)? -/
def Msg.after (m w : Msg) : Bool := w.isFor m.id m.strand m.rt || (m.ch.isSome && w.ch == m.ch && w.id == m.id && w.strand == m.strand)

/-- Messages that wait at the port take the places that are free, in their order: what is held, what still waits. -/
def advance (msgs waits : List Msg) : List Msg × List Msg :=
  waits.foldl (fun acc m =>
    if acc.1.any (fun w => w.isFor m.id m.strand m.rt) || acc.2.any m.after then (acc.1, acc.2 ++ [m]) else (acc.1 ++ [m], acc.2)) (msgs, [])

/-- Starting the handler of a route tag where its conditions hold (R168): enabled, pending, none of its tag live, and a context
free. The message's place passes to the next that waits. -/
def State.tryHandler (s : State) (p pg id n rt : Nat) : State :=
  let i := s.inst p id
  let y := s.page p pg
  let tag := tagMsg i.id i.gen rt
  match i.strand? n with
  | none => s
  | some t =>
    let coming := s.agenda.filter (fun z => match z.act with
      | .row .handlerActivationStart a => a.p == p && a.pg == pg
      | _ => false)
    let own := coming.any (fun z => match z.act with
      | .row _ a => a.id == id && a.x == n && a.y == rt
      | _ => false)
    if t.ended || !i.live || !bitAt (t.csrN 0x040) rt || !bitAt (t.csrN 0x041) rt || (y.act? tag).isSome
        || y.nexts.any (fun m => m.tag == tag) || own || 4 ≤ y.liveCtx + coming.length then s
    else
      let m := takeFirst (Msg.isFor id n rt) y.msgs
      let w := advance m.2 y.msgWait
      let s := s.modPage p pg (fun y => { y with msgs := w.1, msgWait := w.2 })
      let s := s.setPend p id n rt (w.1.any (Msg.isFor id n rt))
      let moved := (w.1.drop m.2.length).filter (fun v => !v.isFor id n rt)
      let s := moved.foldl (fun s v => s.setPend p v.id v.strand v.rt true) s
      let s := if moved.isEmpty then s else s.repend p pg
      let pay := m.1.getD { strand := n, id := id, rt := rt, w0 := 0, w1 := 0 }
      s.sched s.now (srcOf pg 0) .handlerActivationStart { p := p, pg := pg, id := id, x := n, y := rt, w0 := pay.w0, w1 := pay.w1 }

/-- Every route tag of a strand that may start its handler does. -/
def State.tryHandlers (s : State) (p pg id n : Nat) : State := (List.range 16).foldl (fun s rt => s.tryHandler p pg id n rt) s

/-- A write of RTAGEN (R167). -/
def State.writeRtagen (s : State) (p pg id n v : Nat) : State := (s.setStrandCsr p id n 0x040 (v % 65536)).tryHandlers p pg id n
/-- A write of RTAGPEND (R167): a bit that a message sets in the same fclk stays set. -/
def State.writeRtagpend (s : State) (p pg id n v : Nat) : State :=
  let won := ((((s.inst p id).strand? n).map Strand.pendAt).getD []).filter (fun z => z.2 == s.now)
  (s.setStrandCsr p id n 0x041 (won.foldl (fun v z => setBits v z.1 z.1 1) (v % 65536))).tryHandlers p pg id n

/-- RTAGEN: a write of the enable register of a strand. -/
def execRtagen (s : State) : Out := .next (s.writeRtagen s.arg.p s.arg.pg s.arg.id s.arg.x s.arg.w0.toNat)

/-- RTAGPEND: a write of the pending register of a strand, or, with z = 1, the page's second look at what is pending. -/
def execRtagpend (s : State) : Out :=
  let p := s.arg.p
  let pg := s.arg.pg
  .next (if s.arg.z = 1 then
      (s.part p).insts.foldl (fun s i => i.strands.foldl (fun s t => if t.pg = pg then s.tryHandlers p pg i.id t.num else s) s) s
    else s.writeRtagpend p pg s.arg.id s.arg.x s.arg.w0.toNat)

/-- A message reaches a strand (R166, R187, R332): it is held, it waits at the port behind another of its route tag, or a
frozen or saved instance keeps it. -/
def State.deliverMsg (s : State) (p pg : Nat) (m : Msg) (row : Instr) : State :=
  match (s.part p).inst? m.id with
  | none => s.stale p pg 0
  | some i =>
    match (if i.inject.isSome then IStat.frozen else if i.save.isSome then .saved else i.status) with
    | .ended => s.stale p pg 0
    | .frozen =>
      let tag := tagMsg i.id i.gen m.rt
      s.addReplay p i.id [replayTok 0 m.strand tag (.queue .l 0) (tokV m.w0), replayTok 0 m.strand tag (.queue .l 1) (tokV m.w1)]
    | .saved =>
      s.holdSaved p i.id (if m.ch.isSome then .multicastCopy else row) { p := p, pg := pg, id := m.id, x := m.strand, y := m.rt, w0 := m.w0, w1 := m.w1, z := m.ch.getD 0 }
    | .running =>
      if (i.strand? m.strand).any (fun t => t.ended) then s.stale p pg 0
      else
        let y := s.page p pg
        let full := y.msgs.any (Msg.isFor m.id m.strand m.rt) || y.msgWait.any m.after
        let s := s.modPage p pg (fun y => if full then { y with msgWait := y.msgWait ++ [m] } else { y with msgs := y.msgs ++ [m] })
        (s.setPend p m.id m.strand m.rt true).tryHandler p pg m.id m.strand m.rt

/-- The host strand of a page (R185): its instance and number. -/
def Part.hostStrand (x : Part) (pg : Nat) : Option (Nat × Nat) :=
  x.insts.findSome? (fun i => (i.strands.find? (fun t => t.pg == pg && t.host && !t.ended && i.status != .saved)).map (fun t => (i.id, t.num)))

/-- MESSAGE_ARRIVAL (R166, R185): z = 1 marks a message that names only the page, which goes to its host strand; without one
it is discarded and counted. -/
def execMessageArrival (s : State) : Out :=
  let a := s.arg
  .next (if a.z = 1 then
      match (s.part a.p).hostStrand a.pg with
      | none => s.stale a.p a.pg 0
      | some (id, n) => s.deliverMsg a.p a.pg { strand := n, id := id, rt := a.y, w0 := a.w0, w1 := a.w1 } .messageArrival
    else s.deliverMsg a.p a.pg { strand := a.x, id := a.id, rt := a.y, w0 := a.w0, w1 := a.w1 } .messageArrival)

/-- MULTICAST_COPY (R217, R218): an STM's copy reaches a subscribed strand as a message. -/
def execMulticastCopy (s : State) : Out :=
  let a := s.arg
  .next (s.deliverMsg a.p a.pg { strand := a.x, id := a.id, rt := a.y, w0 := a.w0, w1 := a.w1, ch := some a.z } .messageArrival)

/-- HANDLER_ACTIVATION_START (R168): the page reads the route tag's table entry and configures its block. -/
def execHandlerActivationStart (s : State) : Out :=
  let a := s.arg
  let p := a.p
  let pg := a.pg
  let i := s.inst p a.id
  .next (match i.strand? a.x with
    | none => s
    | some t =>
      let back (s : State) : State :=
        (s.modPage p pg (fun y => { y with msgs := { strand := a.x, id := a.id, rt := a.y, w0 := a.w0, w1 := a.w1 } :: y.msgs })).setPend p a.id a.x a.y true
      if !i.live then back s
      else
        let base := ((t.csrN 0x043 * 2 ^ 32 + t.csrN 0x042) >>> 4) <<< 4
        let tag := tagMsg i.id i.gen a.y
        match s.readTable p ((base + 16 * a.y) % 2 ^ 64) 16 with
        | .error f =>
          (back s).takeTrap p a.id {
            code := f.code, detail := word f.detail, va := f.va, src := srcOf pg 0, strand := a.x, tag := tag, ts := 0,
            gen := t.gen, word := 0, blk := 0 }
        | .ok e =>
          let blk := e % 2 ^ 64
          let n : NextBlk := {
            tag := tag, id := a.id, strand := a.x, role := .msg a.y, prio := bits e 67 64, blk := blk, fromBlk := blk, entry := true,
            ready := s.now + 8, payload := [a.w0, a.w1] }
          (s.modPage p pg (fun y => { y with nexts := y.nexts ++ [n] })).sched n.ready (srcOf pg 0) .blockFetch { p := p, pg := pg, id := a.id, tag := tag })

end Sys2Proof.Machine
end

