-- ==== Sys2Proof/Machine/Resume.lean ====
section
/-! DEFINITION. Sys2Proof/Machine/Resume.lean: re-injecting the entries of a frozen or restored instance, and its going on
(R335, R340, R362): the one operation by which RFT, the management function and a restore return an instance to its state. -/

namespace Sys2Proof.Machine

/-- The strand and page of a replay entry. -/
def Inst.pageOf (i : Inst) (strand : Nat) : Nat := ((i.strand? strand).map Strand.pg).getD 0

/-- The word that a slot of a strand's configuration holds: an activation's with the entry's tag, or, for a fibre's pair, any
of the strand's. -/
def Page.wordAt (y : Page) (id strand slot : Nat) (tag : Tag) : Word :=
  match y.act? tag with
  | some a => (a.words[slot]?).getD 0
  | none =>
    let ws := (y.acts.filter (fun a => a.id == id && a.strand == strand)).flatMap (fun a =>
      [a.words, (a.looping.map LoopRec.words).getD []])
    ((ws.map (fun w => (w[slot]?).getD 0)).find? (fun w => (opF w).toNat == 0x67)).getD 0

/-- Has a slot of an activation taken, or does it hold, a token of a position? -/
def Page.usedUp (y : Page) (slot : Nat) (q : Pos) (tag : Tag) : Bool :=
  y.fires.any (fun f => f.tile == slot && f.tag == tag) || y.ents.any (fun e => e.tile == slot && e.tag == tag && (e.at q).isSome)

/-- A TOPK list with a pair put back at its end (R358). -/
def Page.topkBack (y : Page) (tile : Nat) (tag : Tag) (pr : Token × Token) : Page :=
  if y.topk.any (fun k => k.tile == tile && k.fibre == tag) then
    { y with topk := y.topk.map (fun k => if k.tile == tile && k.fibre == tag then { k with pairs := k.pairs ++ [pr] } else k) }
  else { y with topk := y.topk.filter (fun k => k.tile != tile) ++ [{ tile := tile, fibre := tag, pairs := [pr] }] }

/-- A captured operand of an engine command whose activation has committed (R331): its stopped firing takes it. -/
def State.fillStopped (s : State) (p pg : Nat) (f : Fire) (q : Pos) (t : Token) : State :=
  s.modFire p pg f.fid (fun f => match q with
    | .l => { f with l := some { tok := t, fid := f.fid } }
    | .r => { f with r := some { tok := t, fid := f.fid } }
    | .c => { f with c := some { tok := t, fid := f.fid } }
    | .p => { f with p := some { tok := t, fid := f.fid } })

/-- An entry for an activation whose loop runs (R394): the LOOP's own restores the running loop, once. -/
def State.injectLoop (s : State) (p pg : Nat) (i : Inst) (a : Act) (lp : LoopRec) (r : Replay) (own : Bool) : State :=
  if r.kind != 1 || !own then s.stale p pg (r.tg % 64)
  else if lp.stopped then s.modAct p pg a.tag (fun a => { a with looping := some { lp with stopped := false } })
  else (s.takeTrap p i.id (trapAt pg a lp.slot 0x06 0 0)).addReplay p i.id [r]

/-- A token of a kind 0 or kind 1 entry is delivered (R340). -/
def State.injectTok (s : State) (p : Nat) (i : Inst) (r : Replay) : State :=
  let pg := i.pageOf r.strand
  let y := s.page p pg
  let t := tokenOf r.val r.flags
  let slot := r.tg % 64
  let op := (opF (((y.act? r.tag).bind (fun a => a.words[slot]?)).getD 0)).toNat
  let again := r.kind == 1 && (op == 0x45 || op == 0x46 || (decide (0x4B ≤ op) && decide (op ≤ 0x4D)))
  let s := if again && !i.reFe.contains (r.tag, slot) then s.modInst p i.id (fun i => { i with reFe := i.reFe ++ [(r.tag, slot)] }) else s
  match decTarget (BitVec.ofNat 9 r.tg) with
  | some .none => s
  | some (.port e) =>
    if !portOk e then s.stale p pg 0
    else if e.toNat < 16 then s.sched s.now (srcOf pg 0) .islandStreamToken { p := p, pg := pg, id := i.id, x := e.toNat, tag := r.tag, tok := t, tg := .port e }
    else if e.toNat < 24 then s.sched s.now (srcOf pg 0) .copyStreamToken { p := p, pg := pg, id := i.id, x := e.toNat, tag := r.tag, tok := t, tg := .port e }
    else if e.toNat < 32 then s.sched s.now (srcOf pg 0) .cnvPortInput { p := p, pg := pg, id := i.id, x := e.toNat, tag := r.tag, tok := t, tg := .port e }
    else match i.neighbour r.strand ((e.toNat - 32) / 4) with
      | none => s.stale p pg 0
      | some t => if t.ended then s.stale p t.pg 0 else s
  | some (.reg g) =>
    match y.act? r.tag with
    | some a => if a.looping.isSome then s.stale p pg 0 else s.deliverReg p pg a g { tok := t, fid := 0 }
    | none => s.stale p pg 0
  | some (.queue q slot) =>
    match y.act? r.tag with
    | some a =>
      match a.looping with
      | some lp => s.injectLoop p pg i a lp r (q == .l && slot.toNat == lp.slot)
      | none => s.enqueue p pg (some a) q slot r.tag { tok := t, fid := 0 }
    | none =>
      match y.fires.find? (fun f => f.phase == .stopped && f.tile == slot.toNat && f.tag == r.tag) with
      | some f => s.fillStopped p pg f q t
      | none => if y.upcoming r.tag then s.enqueue p pg none q slot r.tag { tok := t, fid := 0 } else s.stale p pg slot.toNat
  | none => s.stale p pg 0

/-- A held store is checked and performs into its activation's buffer again; a nulled LSID counts (R340). A failure traps, and
the entries stay. -/
def State.injectStore (s : State) (p : Nat) (i : Inst) (r x : Replay) : State :=
  let pg := i.pageOf r.strand
  let lsid := bits x.val.toNat 4 0
  let o := BitVec.ofNat 11 (r.flags % 2048)
  match ((s.page p pg).act? r.tag).filter (fun a => a.looping.isNone) with
  | none => s.stale p pg r.tg
  | some a =>
    if a.lsidDone lsid then (s.takeTrap p i.id (trapAt pg a r.tg 0x06 (8 + lsid * 256) 0)).addReplay p i.id [r, x]
    else if bitAt r.flags 15 then
      (s.modAct p pg r.tag (fun a => { a with nulled := a.nulled ++ [⟨lsid, r.tg, 0, if bitAt r.flags 14 then some o else none⟩] })).checkDone p pg r.tag
    else
      let w := (a.words[r.tg]?).getD 0
      let win := (i.wins[(wF w).toNat]?).getD {}
      let va := x.tag.toNat
      let stm := (opF w).toNat == 0x4E
      let size := 2 ^ bits x.val.toNat 6 5
      match s.checkAccess p (wF w).toNat win va size { store := true, stm := stm } with
      | .error e => (s.takeTrap p i.id (trapAt pg a r.tg e.1 e.2 (if e.1 = 255 then e.2 else va))).addReplay p i.id [r, x]
      | .ok (key, pte) =>
        let kind := bits win.attr.toNat 1 0
        let st : StoreRec := { lsid := lsid, slot := r.tg, fid := 0, kind := kind, va := va, key := key, size := size, data := r.val, so := isSO kind pte, pois := bitAt r.flags 14,
                               origin := o, mch := if stm then some (bits win.attr.toNat 7 5) else none }
        (s.modAct p pg r.tag (fun a => { a with stores := a.stores ++ [st] })).checkDone p pg r.tag

/-- A held exit returns to its activation (R340). -/
def State.injectExit (s : State) (p : Nat) (i : Inst) (r x : Replay) : State :=
  let pg := i.pageOf r.strand
  match ((s.page p pg).act? r.tag).filter (fun a => a.looping.isNone) with
  | none => s.stale p pg r.tg
  | some a =>
    let e : ExitRec := { addr := x.tag.toNat, num := r.val.toNat, slot := r.tg, fid := 0, ret := (opF ((a.words[r.tg]?).getD 0)).toNat == 0x0E }
    if a.exit.isSome then (s.takeTrap p i.id (trapAt pg a r.tg 0x06 16 0)).addReplay p i.id [r, x]
    else (s.modAct p pg r.tag (fun a => { a with exit := some e })).checkDone p pg r.tag

/-- A READ is armed again (R158, R340): it waits for its register's delivery by the iteration before, or takes the loop's own
register when that iteration has retired. -/
def State.injectRead (s : State) (p : Nat) (i : Inst) (r : Replay) : State :=
  let pg := i.pageOf r.strand
  let y := s.page p pg
  match y.act? r.tag with
  | none => s.stale p pg r.tg
  | some a =>
    let g := (gF ((a.words[r.tg]?).getD 0)).toNat
    let s := s.modPage p pg (fun y => { y with ents := y.ents ++ [{ tile := r.tg, tag := r.tag, way := 4 }] })
    match (y.act? a.holder).bind (fun h => h.looping) with
    | none => s.checkReady p pg r.tg r.tag 0
    | some lp =>
      if lp.retired = a.iter then
        let s := s.modAct p pg r.tag (fun a => { a with regs := a.regs.set g (regAt lp.regs g) })
        s.checkReady p pg r.tg r.tag 0
      else
        let s := s.modAct p pg r.tag (fun a => { a with unres := a.unres.filter (· != g) ++ [g] })
        s.passReg p pg (tagIter a.holder (a.iter - 1)) g 64

/-- One entry, with the entry after it where the two are a pair, acts; what is left of the list. -/
def State.injectOne (s : State) (p : Nat) (i : Inst) (r : Replay) (rest : List Replay) : State × List Replay :=
  let pg := i.pageOf r.strand
  let stale := s.stale p pg (r.tg % 64)
  let slot := r.tg % 64
  if r.kind = 7 then (s, rest)
  else if r.kind = 3 || r.kind = 6 || 7 < r.kind then (stale, rest)
  else if !tagIs r.tag i.id i.gen || (i.strand? r.strand).isNone then
    (stale, if r.kind = 2 || r.kind = 4 then rest.drop 1 else rest)
  else
    let y := s.page p pg
    match r.kind, rest with
    | 2, x :: t => if x.kind = 3 then (s.injectStore p i r x, t) else (stale, rest)
    | 4, x :: t => if x.kind = 3 then (s.injectExit p i r x, t) else (stale, rest)
    | 2, [] => (stale, [])
    | 4, [] => (stale, [])
    | 5, _ => (s.injectRead p i r, rest)
    | k, x :: t =>
      let pair := x.tag == r.tag && x.kind == r.kind
      if k = 1 && pair && (opF (y.wordAt i.id r.strand slot r.tag)).toNat = 0x67 then
        (s.modPage p pg (fun y => y.topkBack slot r.tag (tokenOf r.val r.flags, tokenOf x.val x.flags)), t)
      else if k = 0 && pair && tagDepth r.tag = 0 && tagF r.tag 0 = 0x3F && r.tg = 0x80 && x.tg = 0x81
          && ((y.act? r.tag).isNone || y.usedUp 0 .l r.tag) then
        (s.deliverMsg p pg { strand := r.strand, id := i.id, rt := tagF r.tag 1, w0 := r.val, w1 := x.val } .messageArrival, t)
      else (s.injectTok p i r, rest)
    | _, [] => (s.injectTok p i r, [])

/-- Engine commands that had stopped, and whose operands are all back, are issued again (R274, R308): z = 1 at their engines'
first step; one whose operands a handler has deleted is gone. -/
def State.reissue (s : State) (p pg id : Nat) : State :=
  ((s.page p pg).fires.filter (fun f => f.id == id && f.phase == .stopped)).foldl (fun s f =>
    let op := (opF f.word).toNat
    let a : Args := { p := p, pg := pg, id := id, fid := f.fid, tag := f.tag, z := 1 }
    let row : Instr := if op = 0x68 then .copyCommandBegin else if op = 0x65 then .scatApply else .islandAccept
    let two := op != 0x62 && op != 0x64 && op != 0x68
    if f.l.isNone || (two && f.r.isNone) then s.dropFire p pg f.fid
    else (s.modFire p pg f.fid (fun f => { f with phase := .engine })).sched s.now (srcOf pg f.tile) row a) s

/-- The instance goes on (R340): its trap area is free, its activations may complete, its loops and configuration changes go on,
its messages may start their handlers, and what is parked waits in the wait-for table again. -/
def State.resumeInst (s : State) (p id : Nat) : State :=
  let s := s.freeArea p id
  let s := s.modInst p id (fun i => { i with status := .running, inject := none, replay := [], trapRec := none })
  let i := s.inst p id
  let s := i.strands.foldl (fun s t =>
    let y := s.page p t.pg
    let pg := t.pg
    let s := (s.wake p pg).reissue p pg id
    let s := (y.acts.filter (fun a => a.id == id)).foldl (fun s a =>
      match a.looping with
      | none => s.checkDone p pg a.tag
      | some lp =>
        if lp.stopped then s
        else if lp.next = 0 || lp.retired = lp.n then s.sched s.now (srcOf pg 0) .configDrain { p := p, pg := pg, tag := a.tag, id := id }
        else if lp.open then s.schedIter p pg a (max lp.ready s.now) else s) s
    let s := (y.nexts.filter (fun n => n.id == id)).foldl (fun s n =>
      s.sched s.now (srcOf pg 0) .configDrain { p := p, pg := pg, tag := n.tag, id := id }) s
    let s := (y.fires.filter (fun f => f.id == id && f.phase == .parked && f.acted)).foldl (fun s f =>
      s.enterWait p pg f (valOf (f.l.map Arr.tok)).toNat false) s
    s.repend p pg) s
  s.prioChanged p [] []

/-- Entries left to inject: the next at the next fclk, or the instance's going on after the last. -/
def State.injectNext (s : State) (p id gen : Nat) : State :=
  let i := s.inst p id
  match i.inject with
  | none => s
  | some [] => s.resumeInst p id
  | some (r :: rest) =>
    let s := s.modInst p id (fun i => { i with inject := some [] })
    let z := s.injectOne p i r rest
    let s := z.1
    if (s.inst p id).inject.isSome then
      let s := s.modInst p id (fun i => { i with inject := some (z.2 ++ i.inject.getD []) })
      s.sched (s.now + (rest.length + 1 - z.2.length)) 0 .replayInject { p := p, id := id, x := gen, y := 1 }
    else s.modInst p id (fun i => { i with replay := i.replay ++ z.2 })

/-! ### Entries in memory (R335) -/

/-- The entry that 16 bytes hold. -/
def replayOf (n : Nat) : Replay :=
  let loc := bits n 127 112
  { kind := bits loc 15 13, tag := BitVec.ofNat 64 (bits n 63 0), val := word (bits n 95 64), flags := bits n 111 96,
    tg := bits loc 8 0, strand := bits loc 12 9 }

/-- The n entries from a VA; none where a read faults. -/
def State.readEntries (s : State) (p : Nat) : Nat → Nat → Option (List Replay)
  | 0, _ => some []
  | n + 1, va =>
    match s.readVa p va 16 false with
    | .error _ => none
    | .ok v => (s.readEntries p n (va + 16)).map (fun l => replayOf v :: l)

/-- RFT reads the frame of an instance (R340): its entries, or none where the read faults. One that has no area yet holds all its
entries on the device. -/
def State.readFrame (s : State) (p : Nat) (i : Inst) : Option (List Replay) :=
  match i.trapRec with
  | none => some i.replay
  | some t =>
    match t.area with
    | none => some i.replay
    | some k =>
      let x := s.part p
      let va := x.areaVa k
      match s.readVa p (va + 40) 4 false, s.readVa p (va + 48) 4 false with
      | .ok e, .ok off => (s.readEntries p (min e (x.areaSize / 16)) (va + off)).map (fun l => l ++ t.place)
      | _, _ => none

/-- A block whose image has been rewritten is loaded from its current image (R344); one that cannot be loaded traps again. -/
def State.reloadImage (s : State) (p pg : Nat) (a : Act) : State :=
  match s.loadBlock p (s.inst p a.id) a.strand (a.role == .main) (if a.role == .iter then .body else .entry) a.blk with
  | .ok b => s.modAct p pg a.tag (fun a => { a with
      hdr := b.hdr, mask := b.mask, words := b.words, arity := b.arity, descs := b.descs, rewrote := false })
  | .error (k, f) => s.takeTrap p a.id (trapAt pg a (k.getD 0) f.code f.detail f.va)

/-- The rewritten blocks of an instance are loaded. -/
def State.reloadImages (s : State) (p id : Nat) : State :=
  (s.inst p id).strands.foldl (fun s t =>
    ((s.page p t.pg).acts.filter (fun a => a.id == id && a.rewrote)).foldl (fun s a => s.reloadImage p t.pg a) s) s

/-- Beginning the re-injection of a frozen instance (R340). A faulting read leaves it frozen and is a double fault. -/
def State.beginInject (s : State) (p id : Nat) : State :=
  let i := s.inst p id
  if i.status != .frozen || i.saving.any Saving.frozen then s
  else
    match s.readFrame p i with
    | none => s.doubleFault p id ((i.trapRec.map TrapRec.code).getD 0)
    | some l => (s.modInst p id (fun i => { i with status := .running, inject := some l, replay := [] })).reloadImages p id

/-- REPLAY_INJECT (R340): y = 0 begins, y = 1 goes on, with the next entry of the named instance. Where its record is being written or holds
it, re-injection begins once it is back on its pages (log 19). -/
def execReplayInject (s : State) : Out :=
  let a := s.arg
  let i := s.inst a.p a.id
  .next (if i.gen ≠ a.x then s.stale a.p i.page0 0
    else if a.y = 0 then
      (if !i.stopped then s.stale a.p i.page0 0
      else if i.status == .saved then s.modInst a.p a.id (fun i => { i with save := i.save.map (fun v => { v with rft := true }) })
      else if i.saving.any Saving.frozen then s.sched (s.now + 1) 0 .replayInject a
      else (s.beginInject a.p a.id).injectNext a.p a.id a.x)
    else s.injectNext a.p a.id a.x)

end Sys2Proof.Machine
end

