-- ==== Sys2Proof/Machine/Save.lean ====
section
/-! DEFINITION. Sys2Proof/Machine/Save.lean: the context save engine (R358 to R363), pre-emption (R354 to R357) and guest
switches (R364, R365). -/

namespace Sys2Proof.Machine

/-! ### The record (R359, R360) -/

/-- The pages whose matrix islands an instance has claimed. -/
def State.islandPages (s : State) (p : Nat) (i : Inst) : List Nat :=
  (i.strands.map Strand.pg).filter (fun pg => (s.page p pg).island.owner == some i.id)

/-- The bytes of stream rows that an island has buffered. -/
def Island.streamBytes (k : Island) : Nat := k.cmds.foldl (fun n c => n + 4 * c.rows.length) 0

/-- The TOPK lists of an instance as entries (R358). -/
def State.topkEntries (s : State) (p : Nat) (i : Inst) : List Replay :=
  i.strands.flatMap (fun t => ((s.page p t.pg).topk.filter (fun k => tagIs k.fibre i.id i.gen)).flatMap (fun k =>
    k.pairs.flatMap (fun z => [replayTok 1 t.num k.fibre (.queue .l (BitVec.ofNat 6 k.tile)) z.1,
      replayTok 1 t.num k.fibre (.queue .r (BitVec.ofNat 6 k.tile)) z.2])))

/-- The entries that a frozen instance's record holds: one whose frame has been written leaves its entries in its trap area. -/
def State.saveEntries (s : State) (p : Nat) (i : Inst) : List Replay :=
  sortKey Replay.strand (s.topkEntries p i ++ (match i.trapRec with
    | some t => t.place ++ i.replay
    | none => i.replay))

/-- The size of the record in bytes (R359). -/
def State.recordSize (s : State) (p : Nat) (i : Inst) (e : Nat) : Nat :=
  let isl := s.islandPages p i
  let n := 832 + 128 * i.strands.length + isl.foldl (fun n pg => n + 6208 + (s.page p pg).island.streamBytes) 0 + 16 * e
  cdiv n 4096 * 4096

/-- The page CSRs of a strand record in its order (R360). -/
def recordCsrs : List Nat := [0x040, 0x041, 0x042, 0x043, 0x044, 0x045, 0x050]
def recordCnv : List Nat := [0x048, 0x049, 0x04A, 0x04B, 0x04C, 0x04D, 0x04E]

/-- The 8 bytes of a register in a record. -/
def Reg.bytes (r : Reg) : List Byte := leBytes 4 r.val.toNat ++ leBytes 2 (b2n r.pois * 16384 + r.origin.toNat) ++ leBytes 2 0

/-- The 32 bytes of a window. -/
def Win.bytes (w : Win) : List Byte := leBytes 8 w.base.toNat ++ leBytes 8 w.limit.toNat ++ leBytes 4 w.attr.toNat ++ leBytes 12 0

/-- A strand record (R360). -/
def State.strandBytes128 (s : State) (p : Nat) (i : Inst) (t : Strand) : List Byte :=
  let y := s.page p t.pg
  let lp := (y.acts.find? (fun a => a.id == i.id && a.strand == t.num && a.role == .main)).bind Act.looping
  let isl := y.island.owner == some i.id
  let cnv := y.cnv.owner == some i.id
  let l := match lp with
    | some l => leBytes 8 l.body ++ leBytes 4 l.n ++ leBytes 4 l.next ++ leBytes 4 l.retired
    | none => leBytes 20 0
  leBytes 8 t.blk ++ l ++ leBytes 4 (b2n isl + 2 * b2n cnv) ++ recordCsrs.flatMap (fun n => leBytes 4 (t.csrN n))
    ++ recordCnv.flatMap (fun n => leBytes 4 (if cnv then (csrWord y.cnv.csr n).toNat else 0)) ++ leBytes 40 0

/-- ESTV as it stands (R347). -/
def Inst.estNow (i : Inst) (now : Nat) : Nat := i.est - (now - i.estAt)

/-- The first 832 bytes of a record: its header, registers and windows. -/
def State.recordHead (s : State) (p : Nat) (i : Inst) (flags size e : Nat) : List Byte :=
  leBytes 4 0x43565352 ++ leBytes 2 i.id ++ leBytes 1 i.gen ++ leBytes 1 flags ++ leBytes 8 i.age ++ leBytes 8 s.ts
    ++ leBytes 4 size ++ leBytes 4 e ++ leBytes 1 ((i.w - 1) + 4 * (i.h - 1)) ++ leBytes 1 (s.islandPages p i).length
    ++ leBytes 2 ((i.trapRec.bind TrapRec.area).getD 0xFFFF) ++ leBytes 4 (i.estNow s.now) ++ leBytes 8 i.descVa
    ++ leBytes 1 i.base ++ leBytes 15 0
    ++ (List.range 64).flatMap (fun g => (regAt i.regs g).bytes) ++ (List.range 8).flatMap (fun w => ((i.wins[w]?).getD {}).bytes)

/-- The whole record; the bytes of an island section, whose layout the spec does not give further, are free (log 9, 19). -/
def State.recordBytes (s : State) (p : Nat) (i : Inst) (flags size : Nat) (es : List Replay) : List Byte :=
  let isl := (s.islandPages p i).foldl (fun n pg => n + 6208 + (s.page p pg).island.streamBytes) 0
  s.recordHead p i flags size es.length ++ i.strands.flatMap (s.strandBytes128 p i) ++ freeBytes s.free isl ++ es.flatMap Replay.bytes

/-- Writing bytes to pages that must be pinned and writable, page by page; a fault gives its VA. -/
def State.writePinned (s : State) (p : Nat) : Nat → Nat → List Byte → Except Nat State
  | 0, _, _ => .ok s
  | n + 1, va, bs =>
    if bs.isEmpty then .ok s
    else
      match s.translate (s.part p) va with
      | .error _ => .error va
      | .ok l =>
        if !Pte.pin l.pte || !(s.part p).mayWrite l then .error va
        else
          let k := 65536 - va % 65536
          (s.memWrite l.pa (bs.take k)).writePinned p n (va + k) (bs.drop k)

/-! ### Boundaries (R354) -/

/-- Has an instance on a page a ready set, a firing in progress, or a token in the mesh? -/
def State.stirs (s : State) (p : Nat) (i : Inst) (strand : Option Nat) : Bool :=
  let on := i.strands.filter (fun t => !t.ended && (strand.isNone || strand == some t.num))
  on.any (fun t =>
    let y := s.page p t.pg
    y.ents.any (fun e => tagIs e.tag i.id i.gen && e.ready.isSome) || y.held.any (fun h => tagIs h.tag i.id i.gen)
      || y.fires.any (fun f => f.id == i.id && f.phase == .run && decide (s.now < f.leaves))
      || s.agenda.any (fun z => match z.act with
        | .row .tokenArrival a => a.p == p && a.pg == t.pg && tagIs a.tag i.id i.gen
        | _ => false))

/-- Is a strand at a configuration-phase boundary: ended, stopped, or parked or waiting for a call with no engine command? -/
def State.atBoundary (s : State) (p : Nat) (i : Inst) (t : Strand) : Bool :=
  let y := s.page p t.pg
  let mine := y.fires.filter (fun f => f.id == i.id && f.strand == t.num)
  t.ended || t.stopped
    || (mine.any (fun f => f.phase == .parked || (f.phase == .out && f.acted)) && !mine.any (fun f => f.phase == .engine || f.phase == .stopped)
      && !mine.any (fun f => f.phase == .out && !f.acted) && !s.stirs p i (some t.num))

/-- Is an instance call-blocked (R173): since the fclk after the last of its ready sets, firings, tokens in the mesh and requests ended? -/
def State.callBlocked (s : State) (p : Nat) (i : Inst) : Bool :=
  let fs := i.strands.flatMap (fun t => (s.page p t.pg).fires.filter (fun f => f.id == i.id))
  i.live && i.saving.isNone && fs.any (fun f => f.isCall && f.phase == .out)
    && fs.all (fun f => f.isCall || !(f.waits || f.phase == .engine || f.phase == .stopped)) && !s.stirs p i none
    && i.strands.all (fun t => decide (((kget (s.page p t.pg).stirred i.id).getD 0) < s.now))

/-! ### Going back to running -/

/-- Every entry of a list acts at once. -/
def State.injectAll (s : State) (p id : Nat) : Nat → State
  | 0 => s
  | n + 1 =>
    let i := s.inst p id
    match i.inject with
    | some (r :: rest) =>
      let s := s.modInst p id (fun i => { i with inject := some [] })
      let z := s.injectOne p i r rest
      if (z.1.inst p id).inject.isSome then
        (z.1.modInst p id (fun i => { i with inject := some (z.2 ++ i.inject.getD []) })).injectAll p id n
      else z.1.modInst p id (fun i => { i with replay := i.replay ++ z.2 })
    | some [] => s.resumeInst p id
    | none => s

/-- An instance that was frozen for a save goes on in place (R359, R361); one that a trap has frozen stays frozen. -/
def State.thaw (s : State) (p id : Nat) : State :=
  let s := s.modInst p id (fun i => { i with saving := none, strands := i.strands.map (fun t => { t with stopReq := false, stopped := false }) })
  let i := s.inst p id
  if i.trapRec.isSome then s
  else if i.status = .frozen then
    let s := s.modInst p id (fun i => { i with status := .running, inject := some i.replay, replay := [] })
    s.injectAll p id (2 * i.replay.length + 2)
  else s.resumeInst p id

/-! ### Asking for a save -/

/-- A PRESTAT field counts one more (R364). -/
def State.countPre (s : State) (p field : Nat) : State := s.bumpCsr p 0x0B6 (8 * field + 7) (8 * field)

/-- Asking an instance to stop for a save (R358): each strand at its next boundary, or cut after BWAIT. -/
def State.askSave (s : State) (p id why ptok : Nat) : State :=
  let s := s.modInst p id (fun i => { i with
    saving := some { why := why, asked := s.now, ptok := ptok }, strands := i.strands.map (fun t => { t with stopReq := true }) })
  let pg := (s.inst p id).page0
  let wait := bits ((s.part p).csrN 0x0B1) 31 16
  (s.sched s.now (srcOf pg 0) .strandBoundaryStop { p := p, pg := pg, id := id, z := 1 }).sched (s.now + wait) (srcOf pg 0)
    .checkpointCut { p := p, pg := pg, id := id, x := s.now }

/-- Has an instance a trap handler's activation, or an RFT whose re-injection is yet to begin (R340)? -/
def State.hasHandler (s : State) (p : Nat) (i : Inst) : Bool :=
  i.strands.any (fun t => (s.page p t.pg).acts.any (fun a => a.id == i.id && isTrapTag a.tag)
    || (s.page p t.pg).nexts.any (fun n => n.id == i.id && isTrapTag n.tag))
  || s.agenda.any (fun z => match z.act with
    | .row .replayInject a => a.p == p && a.id == i.id && a.x == i.gen && a.y == 0
    | _ => false)

/-- The freeze for a save, and its sizing (R358, R363). One whose entries are being re-injected keeps the rest of them, and its frame is done
with. -/
def State.freezeForSave (s : State) (p id delay : Nat) (cut : Bool) : State :=
  let s := if (s.inst p id).inject.isSome then (s.freeArea p id).modInst p id (fun i => { i with trapRec := none }) else s
  let s := if (s.inst p id).status = .running then s.freeze p id else s
  let s := s.modInst p id (fun i => { i with saving := i.saving.map (fun v => { v with frozen := true, cut := cut, ents := i.replay.length }) })
  s.sched (s.now + delay + 16) 0 .contextSaveSizing { p := p, id := id }

/-- STRAND_BOUNDARY_STOP (R354, R358): a strand stops at its boundary; once every strand of its instance stands at one, the
instance freezes. z = 1 looks again. -/
def execStrandBoundaryStop (s : State) : Out :=
  let a := s.arg
  let s := if a.z = 1 then s else s.modStrand a.p a.id a.x (fun t => if t.stopReq then { t with stopped := true } else t)
  let i := s.inst a.p a.id
  .next (match i.saving with
    | none => s
    | some v =>
      if v.frozen || i.status == .ended || i.status == .saved then s
      else if i.strands.all (s.atBoundary a.p i) && !s.hasHandler a.p i || (i.trapRec.isSome && i.status == .frozen && !s.hasHandler a.p i) then
        s.freezeForSave a.p a.id 0 false
      else if a.z = 1 then s.sched (s.now + 1) (srcOf a.pg 0) .strandBoundaryStop a
      else s)

/-- CHECKPOINT_CUT (R358): an instance that has not reached a boundary within BWAIT is cut in mid-phase; the freeze takes its 8
fclk. One whose trap handler runs waits for the handler's end (log 19). -/
def execCheckpointCut (s : State) : Out :=
  let a := s.arg
  let i := s.inst a.p a.id
  .next (match i.saving with
    | none => s
    | some v =>
      if v.frozen || v.asked != a.x then s
      else if s.hasHandler a.p i then s.sched (s.now + 1) (srcOf a.pg 0) .checkpointCut a
      else if i.status == .running || i.status == .frozen then s.freezeForSave a.p a.id 8 true
      else s)

/-! ### What follows a save that fails or succeeds -/

/-- A kill of an instance that a pre-emption decides (R355, R357). -/
def State.preKill (s : State) (p id : Nat) : State := (s.countPre p 2).kill p id

/-- Rule 3 or 4 of R355. -/
def State.killOrDrain (s : State) (p id ptok : Nat) : State :=
  let kth := bits ((s.part p).csrN 0x0B1) 4 0
  if (s.inst p id).killable && kth ≤ ptok then s.preKill p id else s.countPre p 0

/-- A pause that cannot save an instance (R387): the partition stays RUNNING, and what was saved is eligible again; the rest goes on with
VFSTATE_PAUSED's z = 2. -/
def State.pauseFails (s : State) (p : Nat) : State :=
  let s := s.modPart p (fun x => { x with
    vf := { x.vf with state := .running }
    insts := x.insts.map (fun i => { i with save := i.save.map (fun v => if bitAt v.flags 3 then { v with flags := setBits v.flags 3 3 0, eligible := true } else v) }) })
  let s := ((s.part p).insts.filter (fun i => i.saving.any (fun v => v.why == 3))).foldl (fun s i => s.thaw p i.id) s
  { s with replies := s.replies ++ [(8, p, 1)] }.sched s.now 0 .vfstatePaused { p := p, z := 2 }

/-- A saved instance keeps the AREA trap of a CALL's firing, or, with 0, of its own request, until it resumes (R188). -/
def State.keepArea (s : State) (p id fid detail : Nat) : State :=
  s.modInst p id (fun i => { i with save := i.save.map (fun v => { v with area := v.area.filter (fun z => z.1 != fid) ++ [(fid, detail)] }) })

/-- The AREA trap of an outstanding call (R188): its firing is unfinished again, and one with no operand is a ready set again. An instance
that a trap has frozen has it in its frame, and traps no more. -/
def State.areaTrap (s : State) (p id fid detail : Nat) : State :=
  match s.fireOf p id fid with
  | none => s
  | some (pg, f) =>
    let f' := { f with acted := false }
    let again (s : State) : State := if f.bare then (s.dropFire p pg fid).modPage p pg (fun y => { y with
        ents := y.ents ++ [{ tile := f.tile, tag := f.tag, way := 4, ready := some s.now }] }) else s
    if (s.inst p id).halted then again ((s.addReplay p id f'.captured).dropFire p pg fid)
    else (again (s.modFire p pg fid (fun _ => f'))).trapFire p pg f 0x0A detail 0

/-- The AREA trap of a call's request, or its counterpart for what else asks (R188): the row that answers it. -/
def State.failRequest (s : State) (p : Nat) (r : Request) (detail : Nat) : State :=
  let s := s.modPart p (fun x => { x with requests := x.requests.filter (fun q => q.kind != r.kind) })
  match r.kind with
  | .call id fid => if (s.inst p id).save.isSome then s.keepArea p id fid detail else s.areaTrap p id fid detail
  | .saved id => s.keepArea p id 0 detail
  | .launch die q => s.sched s.now 0 .launchContinue { p := p, x := die, y := q, z := 2, l := [4, detail] }
  | .handler id => s.doubleFault p id (((s.inst p id).trapRec.map TrapRec.code).getD 0)

/-- What becomes of a save that found its area too small (`fault` = none) or that a fault of it aborted. Where it was for a request, that
request fails, and the victims after it are not saved (R188). -/
def State.saveFails (s : State) (p id : Nat) (fault : Option Nat) : State :=
  match (s.inst p id).saving with
  | none => s
  | some v =>
    let s := match fault with
      | some va => if v.why = 1 then s else (s.postPf p 0x05 [va]).countPre p 3
      | none => s
    let s := s.thaw p id
    match v.why with
    | 0 => if fault.isSome then s.countPre p 0 else s.killOrDrain p id v.ptok
    | 1 =>
      match (s.part p).requests.find? (fun r => r.saving.contains id) with
      | some r =>
        let later := r.saving.filter (fun n => (s.inst p n).saving.isSome)
        let s := later.foldl (fun s n =>
          let s := match (s.inst p n).saving.bind Saving.run with
            | some (u, _) => s.freeRunOf p true u
            | none => s
          let s := s.cancel (fun r a => a.p == p && a.id == n && (r == .contextSaveSizing || r == .contextSaveWrite))
          s.thaw p n) s
        (s.failRequest p r 4).kick p
      | none => s.kick p
    | 2 => s.gswNext p true
    | _ => s.pauseFails p

/-- Eligible saved instances become requests (R187, R362), while the partition holds a page outside every pending pre-emption. -/
def State.readmit (s : State) (p : Nat) : State :=
  let x := s.part p
  let open' := x.map.any (fun m => !x.preempts.any (fun r => r.accepted && r.pgs.contains m.1))
  if !open' || x.frozen then s
  else
    let s := x.insts.foldl (fun s i =>
      match i.save with
      | none => s
      | some v =>
        if i.status != .saved || !v.eligible || bitAt v.flags 3 || (s.part p).requests.any (fun r => r.kind == .saved i.id) then s
        else
          let d : Desc := {
            va := i.descVa, entries := i.entry, handler := i.handler, w := i.w, h := i.h, arity := i.arity, results := i.results,
            nregs := i.nregs, depth := i.depth, foldable := i.foldable, ckptable := i.ckptable, killable := i.killable,
            recursive := i.recursive, prio := i.base, hint := 0, image := i.image }
          s.request p { kind := .saved i.id, desc := d, pg := i.page0, since := s.now }) s
    s.kick p

/-- CONTEXT_SAVE_SIZING (R359, R363): the record is sized and its run of the area taken; where none is free, nothing is written. -/
def execContextSaveSizing (s : State) : Out :=
  let p := s.arg.p
  let id := s.arg.id
  let i := s.inst p id
  .next (match i.saving with
    | none => s
    | some v =>
      let size := s.recordSize p i (s.saveEntries p i).length
      let start (s : State) : State := s.sched (s.now + cdiv size 256 + 48) 0 .contextSaveWrite { p := p, id := id }
      match v.run with
      | some _ => start s
      | none =>
        match s.takeRun p (v.why == 1) (size / 4096) with
        | none => s.saveFails p id none
        | some (s, u) => start (s.modInst p id (fun i => { i with saving := i.saving.map (fun v => { v with
            run := some (u, size / 4096), va := (s.part p).runVa (v.why == 1) u }) })))

/-- What the pages of an instance's strands hold, each with its strand. -/
def State.onPages {α : Type} (s : State) (p : Nat) (i : Inst) (f : Page → List α) : List (Nat × α) :=
  i.strands.flatMap (fun t => (f (s.page p t.pg)).map (fun a => (t.num, a)))

/-- An instance leaves its pages for its record (R360): what the record's layout has no place for stays with the instance. -/
def State.intoRecord (s : State) (p : Nat) (i : Inst) (v : SaveRec) : State :=
  let mine (t : Tag) : Bool := tagIs t i.id i.gen
  let v := { v with
    acts := (s.onPages p i Page.acts).filter (fun a => a.2.id == i.id)
    nexts := (s.onPages p i Page.nexts).filter (fun n => n.2.id == i.id)
    bare := ((s.onPages p i Page.ents).filter (fun (e : Nat × Entry) => mine e.2.tag)).map (fun (e : Nat × Entry) => (e.1, e.2.tile, e.2.tag))
    islands := (s.islandPages p i).map (fun pg => (i.strandOn pg, (s.page p pg).island))
    cnv := i.strands.filterMap (fun (t : Strand) => if (s.page p t.pg).cnv.owner == some i.id then some (t.num, (s.page p t.pg).cnv.csr) else none)
    parked := (s.onPages p i Page.fires).filter (fun f => f.2.id == i.id) }
  let v := { v with acts := v.acts.eraseDups, nexts := v.nexts.eraseDups }
  let s := s.cancel (fun r a => (r == .cnvImageLoad || r == .cnvLoadDone) && a.p == p && a.id == i.id)
  let s := i.strands.foldl (fun s t => s.modPage p t.pg (fun y => { y with
    ents := y.ents.filter (fun e => !mine e.tag), fires := y.fires.filter (fun f => f.id != i.id)
    acts := y.acts.filter (fun a => a.id != i.id), nexts := y.nexts.filter (fun n => n.id != i.id)
    topk := y.topk.filter (fun k => !mine k.fibre)
    island := if y.island.owner == some i.id then y.island.released i.id else y.island
    cnv := if y.cnv.owner == some i.id then {} else y.cnv })) s
  s.modInst p i.id (fun i => { i with
    status := .saved, saving := none, save := some v, replay := []
    strands := i.strands.map (fun t => { t with endAt := if t.ended then t.endAt else s.now + 8, stopReq := false, stopped := false }) })

/-- A victim's pages are free 8 fclk after its record's write (R363): then its request waits for it no more (z = 1). -/
def State.victimSaved (s : State) (p id : Nat) : State := s.sched (s.now + 8) 0 .pelorusRound { p := p, id := id, z := 1 }

/-- CONTEXT_SAVE_WRITE (R360, R361): the record is written and the instance's pages are freed. A fault aborts the save. -/
def execContextSaveWrite (s : State) : Out :=
  let p := s.arg.p
  let id := s.arg.id
  let i := s.inst p id
  .next (match i.saving with
    | none => s
    | some v =>
      match v.run with
      | none => s
      | some (u, n) =>
        let swap := v.why == 1
        let base := v.va
        let es := s.saveEntries p i
        let blocked := i.trapRec.isNone && !v.cut && (i.strands.any (fun t => (s.page p t.pg).fires.any (fun f =>
          f.id == id && f.phase == .out && f.acted))) && i.replay.length == v.ents && i.strands.all (fun t => t.ended || !t.stopped)
        let flags := b2n v.cut + 2 * b2n blocked + 4 * b2n i.trapRec.isSome + 8 * b2n (2 ≤ v.why)
        let bs := s.recordBytes p i flags (4096 * n) es
        match s.writePinned p (n / 16 + 2) base bs with
        | .error va => (s.freeRunOf p swap u).saveFails p id (some va)
        | .ok t =>
          let t := { t with free := s.free + bs.length }
          let t := t.intoRecord p i { va := base, len := 4096 * n, flags := flags, swap := swap, unit := u, eligible := !blocked && v.why != 1 || decide (v.ents < i.replay.length) }
          let t := match v.why with
            | 0 => t.countPre p 1
            | 1 => t.victimSaved p id
            | 2 => (t.countPre p 1).gswNext p false
            | _ => t.countPre p 1
          ((t.sched (t.now + 8) 0 .preemptionComplete { p := p }).readmit p).kick p)

/-! ### Pre-emption (R355, R356, R365) -/

/-- The instances that hold a strand on a page of a list. -/
def Part.instsOn (x : Part) (pgs : List Nat) : List Inst :=
  x.insts.filter (fun i => (i.status == .running || i.status == .frozen) && i.strands.any (fun t => !t.ended && pgs.contains t.pg))

/-- PREEMPTION_DECIDE (R355): the first row whose condition holds. -/
def State.preDecide (s : State) (p id ptok : Nat) : State :=
  let i := s.inst p id
  if i.saving.isSome || i.status == .ended then s
  else if i.estNow s.now < (s.part p).csrN 0x0B0 then s.countPre p 0
  else if i.ckptable then s.askSave p id 0 ptok
  else s.killOrDrain p id ptok

/-- Is a guest switch in progress? -/
def Part.switching (x : Part) : Bool := x.gsw.any (fun g => !g.waits)

/-- Accepting the pre-emption requests of a partition that wait, unless a switch is BUSY: one in progress, or one that came before them and
waits for the requests before it. -/
def State.acceptPre (s : State) (p : Nat) : State :=
  let x := s.part p
  if x.gsw.isSome then s
  else
    match x.preempts.find? (fun r => !r.accepted) with
    | none => s
    | some _ =>
      let new := x.preempts.filter (fun r => !r.accepted)
      let s := s.modPart p (fun x => { x with preempts := x.preempts.map (fun r => { r with accepted := true }) })
      let s := new.foldl (fun s r => ((s.part p).instsOn r.pgs).foldl (fun s i => s.preDecide p i.id r.ptok) s) s
      s.sched s.now 0 .preemptionComplete { p := p }

/-- Is a page clear: every strand on it has ended and been torn down, and no record's pages are still being freed? -/
def State.pageClear (s : State) (p pg : Nat) : Bool :=
  (s.part p).insts.all (fun i => i.strands.all (fun t => t.pg != pg
    || (match i.status with
        | .saved => decide (t.endAt ≤ s.now)
        | _ => t.ended && decide (t.endAt + 8 ≤ s.now))))

/-- A pre-emption request of pages (R355, R365). -/
def State.askPre (s : State) (p : Nat) (pgs : List Nat) (ptok : Nat) (reclaim : Bool) : State :=
  (s.modPart p (fun x => { x with preempts := x.preempts ++ [{ pgs := pgs, ptok := ptok, reclaim := reclaim }] })).acceptPre p

/-- PREEMPT (R355, R366): the management function's pre-emption request of the pages l with the tokens x. -/
def execPreempt (s : State) : Out :=
  let a := s.arg
  let ok := a.x ≤ 15 && a.l.all (fun pg => ((s.part a.p).place? pg).isSome)
  let s := if ok then s.askPre a.p a.l a.x false else s
  .next { s with replies := s.replies ++ [(6, a.p, b2n (!ok))] }

/-- PREEMPTION_COMPLETE (R356, R365): requests whose pages are clear complete, with event 0x08; pages being reclaimed leave the
map; a guest switch that waited begins, and saved instances may ask again. -/
def execPreemptionComplete (s : State) : Out :=
  let p := s.arg.p
  let x := s.part p
  let done := x.preempts.filter (fun r => r.accepted && !r.hold && r.pgs.all (s.pageClear p))
  .next (if done.isEmpty then s
    else
      let s := s.modPart p (fun x => { x with preempts := x.preempts.filter (fun r => !done.contains r) })
      let s := done.foldl (fun s r =>
        let s := s.postPf p 0x08 [(s.part p).csrN 0x0B6]
        if r.reclaim then s.modPart p (fun x => { x with
          map := x.map.filter (fun m => !r.pgs.contains m.1), pages := x.pages.filter (fun y => !r.pgs.contains y.num) }) else s) s
      let s := if !(s.part p).preempts.any Preempt.accepted && (s.part p).gsw.any (fun g => g.waits) then
          (s.modPart p (fun x => { x with gsw := x.gsw.map (fun g => { g with waits := false }) })).sched s.now 0 .guestSwitch { p := p }
        else s
      (s.readmit p).kick p)

/-! ### Guest switches (R364) -/

/-- The list of a switch: its entries' words, none where one cannot be read. -/
def State.gswList (s : State) (p va : Nat) : Nat → List (Option Nat)
  | 0 => []
  | n + 1 => (s.readVa p va 8 false).toOption :: s.gswList p (va + 8) n

/-- GSWCTL.GO (R364). An entry that cannot be read names no instance. -/
def State.gswGo (s : State) (p : Nat) : State :=
  let x := s.part p
  let n := bits (x.csrN 0x0BA) 10 1
  if bitAt (x.csrN 0x0BA) 31 then s
  else if x.helmDies.isEmpty then s.setCsrF p 0x0BA 20 11 n
  else
    let list := (s.gswList p (x.base64 0x0B8 3) n).map (fun e => match e with
      | some v => (bits v 15 0, bits v 18 16, bitAt v 31)
      | none => (65536, 0, false))
    let wait := !x.preempts.isEmpty
    let s := (s.modPart p (fun x => { x with gsw := some { list := list, waits := wait } })).setCsrF p 0x0BA 31 31 1
    if wait then s else s.sched s.now 0 .guestSwitch { p := p }

/-- GUEST_SWITCH (R364, R365): the next entry of the list; after the last, BUSY clears and waiting pre-emptions are accepted. -/
def execGuestSwitch (s : State) : Out :=
  let p := s.arg.p
  .next (match (s.part p).gsw with
    | none => s
    | some g =>
      if g.waits || g.saving.isSome then s
      else
        match g.list with
        | [] =>
          let s := (s.setCsrF p 0x0BA 31 31 0).setCsrF p 0x0BA 20 11 (min g.skip 1023)
          ((s.modPart p (fun x => { x with gsw := none })).acceptPre p).readmit p
        | (id, gen, resume) :: rest =>
          let s := s.modPart p (fun x => { x with gsw := some { g with list := rest } })
          match (s.part p).inst? id with
          | none => s.gswNext p true
          | some i =>
            if i.gen ≠ gen then s.gswNext p true
            else if resume then
              (if i.status == .saved && i.save.any (fun v => bitAt v.flags 3) then
                (s.modInst p id (fun i => { i with save := i.save.map (fun v => { v with flags := setBits v.flags 3 3 0, eligible := true }) })).gswNext p false
              else s.gswNext p true)
            else if !i.ckptable || i.saving.isSome || !(i.status == .running || i.status == .frozen) then s.gswNext p true
            else (s.modPart p (fun x => { x with gsw := x.gsw.map (fun g => { g with saving := some id }) })).askSave p id 2 0)

end Sys2Proof.Machine
end

