-- ==== Sys2Proof/Machine/Place.lean ====
section
/-! DEFINITION. Sys2Proof/Machine/Place.lean: Pelorus: the calls CALL, CALLR and SYSC (R174, R175, R353), how requests are served
and placed (R182 to R190, R198), how instances start, and how saved ones return (R362, R363). -/

namespace Sys2Proof.Machine

/-! ### Free pages and rectangles (R183, R368) -/

/-- Does a strand of an instance hold its page at this fclk? A page is free from the fclk after the strand's end. -/
def Inst.holds (i : Inst) (t : Strand) (now : Nat) : Bool :=
  match i.status with
  | .saved => decide (now < t.endAt)
  | _ => !t.ended || decide (now ≤ t.endAt)

/-- The strands that hold a page. -/
def Part.holders (x : Part) (pg now : Nat) : List (Nat × Nat) :=
  x.insts.flatMap (fun i => (i.strands.filter (fun t => t.pg == pg && i.holds t now)).map (fun t => (i.id, t.num)))

/-- May Pelorus grant area on a page: it is mapped, and no pending pre-emption names it (R356)? -/
def Part.grantable (x : Part) (pg : Nat) : Bool :=
  (x.place? pg).isSome && !x.preempts.any (fun r => r.accepted && r.pgs.contains pg)

/-- Is a page free? A request that has not been granted holds none (R191). -/
def Part.isFree (x : Part) (now pg : Nat) : Bool :=
  x.grantable pg && (x.holders pg now).isEmpty && (x.page pg).acts.isEmpty

/-- The pages of the rectangle of a shape whose north-west page is given, in strand order; none where it leaves its cluster. -/
def rectAt (w h nw : Nat) : Option (List Nat) :=
  let r := (nw % 16) / 4
  let c := nw % 4
  if r + h ≤ 4 ∧ c + w ≤ 4 then
    some ((List.range h).flatMap (fun y => (List.range w).map (fun x => nw + 4 * y + x)))
  else none

/-- The rectangles of a shape that the partition's pages contain. -/
def Part.rects (x : Part) (w h : Nat) : List (List Nat) :=
  (x.map.filterMap (fun m => rectAt w h m.1)).filter (fun r => r.all (fun pg => (x.place? pg).isSome))

/-- Do two pages share an edge? -/
def Part.adjacent (x : Part) (a b : Nat) : Bool := a / 256 == b / 256 && x.hops a b == 1

/-- The rectangle that a list's order puts first: the lowest key. -/
def firstBy (key : List Nat → Nat) (l : List (List Nat)) : Option (List Nat) :=
  l.foldl (fun best r => match best with
    | none => some r
    | some b => if key r < key b then some r else best) none

/-- Nearness (R183): path cost from a page to the north-west page, then the lower die and page. -/
def Part.near (x : Part) (pg : Nat) (r : List Nat) : Nat := x.pageCost pg (r.headD 0) * 65536 + r.headD 0

/-- Steps 1 to 4 of R183 among the rectangles whose pages meet a test: `mine` are the caller's pages, none for a root. -/
def Part.stepsTo4 (x : Part) (pg : Nat) (mine : List Nat) (w h : Nat) (free : Nat → Bool) : Option (List Nat) :=
  let l := (x.rects w h).filter (fun r => r.all free)
  let one := l.filter (fun r => r.any (fun a => mine.any (x.adjacent a)))
  let two := l.filter (fun r => r.headD 0 / 16 == pg / 16)
  let three := l.filter (fun r => r.headD 0 / 256 == pg / 256)
  (((firstBy (x.near pg) one).orElse fun _ => firstBy (x.near pg) two).orElse fun _ => firstBy (x.near pg) three).orElse fun _ => firstBy (x.near pg) l

/-- Step 5 of R183: folding. -/
def Part.step5 (x : Part) (now pg w h : Nat) : Option (List Nat) :=
  let lim := bits (x.csrN 0x080) 2 0
  let ok (q : Nat) : Bool := x.grantable q && decide ((x.holders q now).length < lim) && decide ((x.page q).liveCtx < 4)
  let key (r : List Nat) : Nat :=
    let strands := r.foldl (fun n q => n + (x.holders q now).length) 0
    (b2n (r.headD 0 / 256 != pg / 256) * 256 + strands) * 65536 + r.headD 0
  if lim ≤ 1 then none else firstBy key ((x.rects w h).filter (fun r => r.all ok))

/-! ### Order (R182, R198) -/

/-- The instance whose priority and age a request has: none for a root's, which a default handler's is too (R338). -/
def ReqKind.who : ReqKind → Option Nat
  | .call id _ => some id
  | .saved id => some id
  | .handler _ => none
  | .launch _ _ => none

/-- The caller of a request, for a saved instance its own (R183, R187). -/
def Part.reqCaller (x : Part) (k : ReqKind) : Option Inst :=
  match k with
  | .call id _ => x.inst? id
  | .saved id => match (x.inst? id).map Inst.origin with
    | some (.call c _) => x.inst? c
    | _ => none
  | _ => none

/-- The page from which a request's distances are counted: its caller's strand 0:0 page as it now is (R183), a saved root's as it was (R200). -/
def Part.reqPg (x : Part) (r : Request) : Nat := ((x.reqCaller r.kind).map Inst.page0).getD r.pg

/-- The pages that a request's caller holds (R183): none for a root, or for a caller that is saved. -/
def Part.reqPages (x : Part) (r : Request) (now : Nat) : List Nat :=
  match x.reqCaller r.kind with
  | none => []
  | some i => if i.status == .saved then [] else (i.strands.filter (fun t => i.holds t now)).map Strand.pg

/-- The effective priority of a request: the caller's or the saved instance's own, a root's its function's (log 20). -/
def Part.reqPrio (x : Part) (r : Request) : Nat :=
  match r.kind.who with
  | some id => ((x.inst? id).map Inst.eff).getD 0
  | none => r.desc.prio

/-- Its age and the source number that orders equal ages (R173); a root's is the time of its request (log 20), `base` being the timestamp
of fclk 0. -/
def Part.reqAge (x : Part) (r : Request) (base : Nat) : Nat × Nat :=
  match r.kind.who.bind (fun id => x.inst? id) with
  | some i => (i.age, i.ageSrc)
  | none => (base + r.since * 20 / 17, r.pg * 64)

/-- Does a request go before another? Requests of one caller keep the order of their firings. -/
def Part.reqBefore (x : Part) (base : Nat) (a b : Request) : Bool :=
  let older := (x.reqAge a base).1 < (x.reqAge b base).1 || ((x.reqAge a base).1 == (x.reqAge b base).1 && (x.reqAge a base).2 < (x.reqAge b base).2)
  if a.promoted != b.promoted then a.promoted
  else if a.promoted then older
  else x.reqPrio b < x.reqPrio a || (x.reqPrio a == x.reqPrio b && older)

/-- Requests in their order. -/
def Part.insReq (x : Part) (base : Nat) (a : Request) : List Request → List Request
  | [] => [a]
  | b :: bs => if x.reqBefore base a b then a :: b :: bs else b :: x.insReq base a bs

/-! ### Starting an instance (R9, R182, R185, R190) -/

/-- The CPYCFG that a strand starts with (R301): the lowest engine of the page's die that the partition owns. -/
def Part.cpycfg (x : Part) (pg : Nat) : Nat :=
  ((x.engines.filter (fun e => e.1 == pg / 256)).map Prod.snd).foldl min 4 % 4

/-- A new strand on a page. -/
def Part.strandOf (x : Part) (n pg blk : Nat) (host : Bool) : Strand :=
  { num := n, pg := pg, host := host, blk := blk, csr := [(0x050, word (x.cpycfg pg))] }

/-- When the callee of a grant first fires (R190), from the round that grants it: by steps 1 to 4 or 6, or folded, or pre-placed; a root
spends 6 fclk less (R321). -/
def Part.startDelay (x : Part) (k : ReqKind) (pg : Nat) (rect : List Nat) (fold pre : Bool) : Nat :=
  let far := x.pageCost pg (rect.headD 0) + (match k with
    | .call _ _ => 6
    | _ => 0)
  if fold then 34 + far else if pre then 14 + far else 40 + far + 4 * (rect.length - 1)

/-- The registers that a request's arguments make. -/
def argRegs (args : List Reg) (n : Nat) : List Reg :=
  (List.range 64).map (fun g => if g < n then (args[g]?).getD {} else {})

/-- The registers of a callee: its arguments up to its arity, a default handler's three whatever its arity (R338, R353). -/
def Request.regs (r : Request) : List Reg := argRegs r.args r.args.length

/-- A new instance takes its area (R182): the lowest free ID, its GEN one higher, its strands at their pages; a callee, also one that SYSC starts
(log 63), joins its caller's region (R169). -/
def State.newInst (s : State) (p : Nat) (r : Request) (rect : List Nat) (fold : Bool) (id : Nat) (origin : Origin) (pre : Bool) : State :=
  let x := s.part p
  let gen := ((kget x.idGen id).getD 0 + 1) % 8
  let entry (k : Nat) : Nat := (r.desc.entries[k]?).getD (r.desc.entries.headD 0)
  let strands := (List.range rect.length).map (fun k => x.strandOf k ((rect[k]?).getD 0) (entry k) (!fold))
  let i : Inst := {
    id := id, gen := gen, age := s.ts, ageSrc := srcOf (rect.headD 0) 0, descVa := r.desc.va, entry := r.desc.entries, handler := r.desc.handler,
    w := r.desc.w, h := r.desc.h, arity := r.desc.arity, results := r.desc.results, nregs := r.desc.nregs, depth := r.desc.depth,
    foldable := r.desc.foldable, ckptable := r.desc.ckptable, killable := r.desc.killable, recursive := r.desc.recursive,
    image := r.desc.image, base := r.desc.prio, eff := r.desc.prio, est := r.desc.hint, estAt := s.now, regs := r.regs, wins := r.wins,
    strands := strands, origin := origin }
  let start := s.now + x.startDelay r.kind r.pg rect fold pre
  let s := s.modPart p (fun x => { x with
    idGen := kset x.idGen id gen, insts := x.insts ++ [i], requests := x.requests.filter (fun q => q.kind != r.kind)
    prePlaced := x.prePlaced.filter (fun z => z.2 != rect.headD 0)
    qregs := (match r.kind with
      | .call c _ => x.qregs.map (fun q => if q.isOpen && q.members.contains c then { q with members := q.members ++ [id] } else q)
      | _ => x.qregs) })
  let s := strands.foldl (fun s t => s.modPage p t.pg (fun y => { y with
    ctxs := y.ctxs.filter (fun b => b != t.blk)
    nexts := y.nexts ++ [{ tag := tagOf id gen, id := id, strand := t.num, blk := t.blk, fromBlk := t.blk, entry := true, ready := start }] })) s
  let called : Nat := match r.kind with
    | .call _ _ => 1
    | _ => 0
  let s := s.sched start (srcOf (rect.headD 0) 0) .calleeStart { p := p, id := id, x := gen, y := (r.kind.who.getD 0), z := called }
  let s := if r.desc.recursive && Config.prePlaces s.now then s.sched s.now (srcOf (rect.headD 0) 0) .prePlace { p := p, id := id } else s
  match r.kind with
  | .call c _ => s.prioChanged p [((false, c), rect.headD 0 / 256, 0)] []
  | _ => s

/-- A saved instance takes its area (R362, R363): its restore begins. -/
def State.regrant (s : State) (p : Nat) (r : Request) (rect : List Nat) (fold : Bool) (id : Nat) : State :=
  let i := s.inst p id
  let len := (i.save.map SaveRec.len).getD 0
  let s := s.modPart p (fun x => { x with requests := x.requests.filter (fun q => q.kind != r.kind) })
  let old := i.strands.map (fun t => (t.num, t.pg))
  let s := s.modInst p id (fun i => { i with
    status := .frozen
    strands := (List.range i.strands.length).filterMap (fun k => (i.strands[k]?).map (fun t => { t with pg := (rect[k]?).getD t.pg, host := !fold })) })
  s.sched (s.now + 32 + 48 + cdiv len 256 + 8 * i.strands.length) (srcOf (rect.headD 0) 0) .contextRestore
    { p := p, id := id, x := i.gen, l := old.map Prod.snd }

/-- The grant of a rectangle to a request (R182). -/
def State.grant (s : State) (p : Nat) (r : Request) (rect : List Nat) (fold : Bool) : State :=
  let x := s.part p
  let pre := !fold && x.prePlaced.contains (r.desc.va, rect.headD 0)
  let new (o : Origin) : State :=
    match lowestFree (x.insts.map Inst.id) 65536 0 with
    | some id => s.newInst p r rect fold id o pre
    | none => s
  match r.kind with
  | .call c fid => new (.call c fid)
  | .handler c => new (.handler c)
  | .saved id => s.regrant p r rect fold id
  | .launch die q =>
    let s := new (.launch die 0 0x8000)
    s.sched s.now 0 .launchContinue { p := p, x := die, y := q, z := 1, id := ((s.part p).insts.getLast?.map Inst.id).getD 0 }

/-! ### Serving a request (R183 to R188) -/

/-- The candidates of step 6 in their order: lowest effective priority first, the youngest of equals first. -/
def State.victims (s : State) (p : Nat) : List Inst :=
  let l := (s.part p).insts.filter (fun i => s.callBlocked p i)
  let key (i : Inst) : Nat := i.eff * 2 ^ 96 + (2 ^ 64 - 1 - i.age % 2 ^ 64) * 2 ^ 16 + (65535 - i.ageSrc % 65536)
  sortKey key l

/-- The shortest prefix of the candidates that makes room, with the rectangle chosen. -/
def State.choosePrefix (s : State) (p : Nat) (r : Request) (mine : List Nat) (l : List Inst) : Option (List Inst × List Nat) :=
  let x := s.part p
  (List.range l.length).findSome? (fun k =>
    let v := l.take (k + 1)
    let ids := v.map Inst.id
    let free (pg : Nat) : Bool := x.grantable pg && (x.holders pg s.now).all (fun h => ids.contains h.1)
      && (x.page pg).acts.all (fun a => ids.contains a.id)
    (x.stepsTo4 r.pg mine r.desc.w r.desc.h free).map (fun rect => (v, rect)))

/-- The size in units of a victim's record, from a freeze that is not kept. -/
def State.victimUnits (s : State) (p : Nat) (i : Inst) : Nat :=
  let t := s.freeze p i.id
  t.recordSize p (t.inst p i.id) (t.saveEntries p (t.inst p i.id)).length / 4096

/-- Taking a run for each victim in turn; none where one does not fit. -/
def State.takeRuns (s : State) (p : Nat) : List Inst → Option State
  | [] => some s
  | i :: is =>
    let n := s.victimUnits p i
    match s.takeRun p true n with
    | none => none
    | some (s, u) =>
      (s.modInst p i.id (fun i => { i with saving := some { why := 1, asked := s.now, run := some (u, n), va := (s.part p).runVa true u } })).takeRuns p is

/-- Victims freeze, and their records are sized and then written one after another (R186, R363). -/
def State.saveVictims (s : State) (p : Nat) (delay : Nat) : List Inst → State
  | [] => s
  | i :: is =>
    let n := ((s.inst p i.id).saving.bind Saving.run).map Prod.snd |>.getD 0
    let s := s.freeze p i.id
    let s := s.modInst p i.id (fun i => { i with saving := i.saving.map (fun v => { v with frozen := true, ents := i.replay.length }) })
    let s := s.sched (s.now + delay + 16) 0 .contextSaveSizing { p := p, id := i.id }
    s.saveVictims p (delay + 16 * n + 48) is

/-- Saving victims for a request (step 6 of R183, R186): its state is then none where no prefix suffices. -/
def State.saveFor (s : State) (p : Nat) (r : Request) (mine : List Nat) : Option State :=
  match s.choosePrefix p r mine (s.victims p) with
  | none => none
  | some (v, rect) =>
    match s.takeRuns p v with
    | none => some (s.failRequest p r 1)
    | some s =>
      let s := s.modPart p (fun x => { x with requests := x.requests.map (fun q =>
        if q.kind == r.kind then { q with saving := v.map Inst.id, rect := rect } else q) })
      some (s.saveVictims p 0 v)

/-- Steps 1 to 6 of R183 for a request; a CALL's and a saved instance's may have victims saved (R187). -/
def State.seek (s : State) (p : Nat) (r : Request) : Option State :=
  let x := s.part p
  let mine := x.reqPages r s.now
  let saved := match r.kind with
    | .saved _ => true
    | _ => false
  let saves := match r.kind with
    | .call _ _ => true
    | _ => saved
  if (x.rects r.desc.w r.desc.h).isEmpty then some (s.failRequest p r 3)
  else if !saved && (lowestFree (x.insts.map Inst.id) 65536 0).isNone then some (s.failRequest p r 2)
  else
    match x.stepsTo4 r.pg mine r.desc.w r.desc.h (x.isFree s.now) with
    | some rect => some (s.grant p r rect false)
    | none =>
      match (if r.desc.foldable then x.step5 s.now r.pg r.desc.w r.desc.h else none) with
      | some rect => some (s.grant p r rect true)
      | none => if saves then s.saveFor p r mine else none

/-- Serving one request: the state after its grant or failure, none where it waits. One whose victims have been saved takes its rectangle;
where a page of that is not free after all, it is tried again from step 1. -/
def State.serve (s : State) (p : Nat) (r : Request) : Option State :=
  let r := { r with pg := (s.part p).reqPg r }
  if !r.saving.isEmpty then none
  else if !r.rect.isEmpty && r.rect.all ((s.part p).isFree s.now) then some (s.grant p r r.rect false)
  else s.seek p r

/-- Serving the first of a list of requests that can be served. -/
def State.serveFirst (s : State) (p : Nat) : List Request → State
  | [] => s
  | r :: rs =>
    match s.serve p r with
    | some s => s
    | none => s.serveFirst p rs

/-- PELORUS_ROUND (R198): one request is granted or fails. z = 1: the pages of the saved victim id are free, and its request, once it waits
for no other, takes its rectangle in a round (R186); z = 2: a saved instance has become eligible (R187). -/
def execPelorusRound (s : State) : Out :=
  let p := s.arg.p
  let x := s.part p
  .next (if s.arg.z = 1 then
      (s.modPart p (fun x => { x with requests := x.requests.map (fun r => { r with saving := r.saving.filter (· != s.arg.id) }) })).kick p
    else if x.frozen || x.vf.state == .paused then s
    else if s.arg.z = 2 then s.readmit p
    else
      let here := x.requests.filter (fun r => decide (r.since ≤ s.now))
      let l := here.foldl (fun l r => x.insReq s.tsBase r l) []
      let s := s.modPart p (fun x => { x with nextRound := s.now + 6 })
      (s.serveFirst p l).kick p)

/-- REQUEST_PROMOTE (R182): requests that have waited more than 4,096 fclk go before all others. -/
def execRequestPromote (s : State) : Out :=
  let p := s.arg.p
  .next ((s.modPart p (fun x => { x with requests := x.requests.map (fun r =>
    if r.since + 4096 < s.now then { r with promoted := true } else r) })).kick p)

/-! ### The callee begins, and ends -/

/-- CALLEE_START (R190, R179): the entry blocks are configured and fire; every store that the caller had committed before its call performs
first. -/
def execCalleeStart (s : State) : Out :=
  let a := s.arg
  let p := a.p
  let i := s.inst p a.id
  .next (if i.gen ≠ a.x then s
    else
      let s := if a.z = 0 then s else s.flush p a.y
      i.strands.foldl (fun s t =>
        s.sched s.now (srcOf t.pg 0) .blockFetch { p := p, pg := t.pg, id := i.id, tag := tagOf i.id i.gen }) s)

/-- CALL_RESULT (R174, R187): the results leave the CALL's tile under its tag; a frozen caller's replay queue or a saved caller's
record takes them, also while that record is being read back. -/
def execCallResult (s : State) : Out :=
  let a := s.arg
  let p := a.p
  let i := s.inst p a.id
  .next (if i.save.isSome then s.holdSaved p a.id .callResult a
    else
      match s.fireOf p a.id a.fid with
      | none => s
      | some (pg, f) =>
        let c := curOf p pg f
        let mark (t : Token) : Token := match (if (opF f.word).toNat = 0x79 then c.firstOrigin else origOf c.pt) with
          | some o => if t.pois then t else withPoison t (some o)
          | none => t
        let t0 := mark a.tok
        let t1 := mark a.tok1
        let s := s.answer p pg a.fid s.now t0 t1
        let s := s.wake p pg
        (s.checkDone p pg f.tag).kick p)

/-- TEARDOWN (R194): the teardown has passed over the strand's page; with the last of an instance's, its ID is free. A
pre-emption may have its pages clear (R356). -/
def execTeardown (s : State) : Out :=
  let a := s.arg
  let p := a.p
  let i := s.inst p a.id
  let s := s.sched s.now 0 .preemptionComplete { p := p }
  .next (if i.status == .ended && i.strands.all (fun t => t.ended && decide (t.endAt + 8 ≤ s.now)) then
      ((s.modPart p (fun x => { x with insts := x.insts.filter (fun j => j.id != i.id || j.gen != i.gen) })).readmit p).kick p
    else (s.readmit p).kick p)

/-! ### Speculative configuration (R46, R195, R196): nothing of it is visible -/

/-- PRE_PLACE (R196): the entry block of a recursive function's next instance goes into a free context of the nearest free page. -/
def execPrePlace (s : State) : Out :=
  let p := s.arg.p
  let x := s.part p
  let i := s.inst p s.arg.id
  .next (match x.stepsTo4 i.page0 (i.strands.map Strand.pg) i.w i.h (x.isFree s.now) with
    | none => s
    | some rect => s.modPart p (fun x => { x with prePlaced := (x.prePlaced.filter (fun z => z.2 != rect.headD 0)) ++ [(i.descVa, rect.headD 0)] }))

/-- CONFIG_PREFETCH (R46, R196): the block at a VA goes into a free context of a page, the least recently fetched first leaving. -/
def execConfigPrefetch (s : State) : Out :=
  let a := s.arg
  .next (s.modPage a.p a.pg (fun y =>
    let room := 4 - y.liveCtx
    let l := y.ctxs.filter (· != a.x) ++ [a.x]
    { y with ctxs := l.drop (l.length - room) }))

/-- CONTEXT_FETCH (R195): the entry of a context that a token found missing has come from the region configuration cache; every
live context of this model is present, so nothing waits for it (log 14). -/
def execContextFetch (s : State) : Out :=
  let a := s.arg
  .next (s.modPage a.p a.pg (fun y => { y with ctxs := y.ctxs.filter (· != a.x) }))

/-! ### Restoring (R360, R362) -/

/-- The registers, windows and page CSRs that a record in memory holds. -/
def recordRegs (n : Nat) : List Reg :=
  (List.range 64).map (fun g =>
    let v := bits n (8 * (64 + 8 * g) + 63) (8 * (64 + 8 * g))
    ⟨word (bits v 31 0), bitAt v 46, BitVec.ofNat 11 (bits v 42 32)⟩)

def recordWins (n : Nat) : List Win :=
  (List.range 8).map (fun w =>
    let at' := 8 * (576 + 32 * w)
    ⟨BitVec.ofNat 64 (bits n (at' + 63) at'), BitVec.ofNat 64 (bits n (at' + 127) (at' + 64)), word (bits n (at' + 159) (at' + 128) % 512)⟩)

/-- A word of a record for a CSR: its fields, the reserved ones being ignored (R8). -/
def recordCsr (csr v : Nat) : Word :=
  match csrDef? csr with
  | some d => word (d.fields.foldl (fun acc f => setBits acc f.hi f.lo (bits v f.hi f.lo)) 0)
  | none => 0

/-- A strand record's word at an offset. -/
def strandWord (n k off : Nat) : Nat := bits n (8 * (832 + 128 * k + off) + 31) (8 * (832 + 128 * k + off))

/-- Putting an instance's activations, firings, slots and islands back on its new pages. -/
def State.unpack (s : State) (p : Nat) (i : Inst) (v : SaveRec) (n : Nat) : State :=
  let pg (k : Nat) : Nat := i.pageOf k
  let s := v.acts.foldl (fun s z => s.modPage p (pg z.1) (fun y => { y with acts := y.insAct z.2 y.acts })) s
  let s := v.nexts.foldl (fun s z => s.modPage p (pg z.1) (fun y => { y with nexts := y.nexts ++ [z.2] })) s
  let s := v.parked.foldl (fun s z => s.modPage p (pg z.1) (fun y => { y with fires := y.fires ++ [z.2] })) s
  let s := v.bare.foldl (fun s z => s.modPage p (pg z.1) (fun y => { y with
    ents := y.ents ++ [{ tile := z.2.1, tag := z.2.2, way := 4, ready := some s.now }] })) s
  let s := v.islands.foldl (fun s z => s.modPage p (pg z.1) (fun y => { y with island := { z.2 with resident := none, serving := none } })) s
  let s := v.cnv.foldl (fun s z =>
    let k := z.1
    let words := (List.range 7).map (fun j => ((recordCnv[j]?).getD 0, recordCsr ((recordCnv[j]?).getD 0) (strandWord n k (60 + 4 * j))))
    let s := s.modPage p (pg k) (fun y => { y with cnv := { owner := some i.id, csr := words, isl := [{}, {}] } })
    [0, 1].foldl (fun s j => s.sched s.now (srcOf (pg k) 0) .cnvImageLoad { p := p, pg := pg k, id := i.id, x := j }) s) s
  let moved (w : Nat × Nat) : Nat × Nat := match v.parked.find? (fun z => z.2.fid == w.2) with
    | some z => (pg z.1, w.2)
    | none => w
  s.modPart p (fun x => { x with
    objs := x.objs.map (fun o => { o with waiters := o.waiters.map moved })
    wregs := x.wregs.map (fun w => { w with pg := (moved (w.pg, w.fid)).1 }) })

/-- The event of a restore whose record cannot be read is a save fault (R361); the instance stays saved. -/
def State.restoreFault (s : State) (p id va : Nat) : State :=
  (s.postPf p 0x05 [va]).modInst p id (fun i => { i with status := .saved, save := i.save.map (fun v => { v with eligible := false }) })

/-- CONTEXT_RESTORE (R360, R362, R363): the record is read back, its run freed, and its entries re-injected as RFT does; an
instance that a trap had frozen stays frozen, and one whose own request met AREA raises it now (R188). -/
def execContextRestore (s : State) : Out :=
  let p := s.arg.p
  let id := s.arg.id
  let i := s.inst p id
  .next (match i.save.filter (fun _ => i.gen == s.arg.x) with
    | none => s
    | some v =>
      match s.readVa p v.va (832 + 128 * i.strands.length) false with
      | .error e => s.restoreFault p id e.2.2
      | .ok n =>
        let e := bits n (8 * 28 + 31) (8 * 28)
        let isl := v.islands.foldl (fun n z => n + 6208 + z.2.streamBytes) 0
        match s.readEntries p (min e (v.len / 16)) (v.va + 832 + 128 * i.strands.length + isl) with
        | none => s.restoreFault p id v.va
        | some l =>
          let s := s.freeRunOf p v.swap v.unit
          let s := s.modInst p id (fun i => { i with
            regs := recordRegs n, wins := recordWins n, save := none, est := bits n (8 * 36 + 31) (8 * 36), estAt := s.now
            strands := i.strands.map (fun t => { t with csr := (List.range 7).map (fun j =>
              ((recordCsrs[j]?).getD 0, recordCsr ((recordCsrs[j]?).getD 0) (strandWord n t.num (32 + 4 * j)))) }) })
          let s := s.unpack p (s.inst p id) v n
          let old := s.arg.l
          let held := v.held.map (fun h => (h.1, { h.2 with pg := match (List.range old.length).find? (fun k => old[k]? == some h.2.pg) with
            | some k => i.pageOf k
            | none => h.2.pg }))
          let s := if i.trapRec.isSome then
              let s := s.modInst p id (fun i => { i with trapRec := i.trapRec.map (fun t => { t with place := if t.area.isSome then l else t.place }), replay := if (i.trapRec.bind TrapRec.area).isSome then [] else l })
              if v.rft then s.sched s.now 0 .replayInject { p := p, id := id, x := i.gen } else s
            else
              (s.modInst p id (fun i => { i with status := .running, inject := some l })).injectNext p id i.gen
          let s := held.foldl (fun s h => s.sched s.now (srcOf h.2.pg 0) h.1 h.2) s
          let own := ((v.parked.find? (fun z => z.2.isCall && z.2.phase == .out)).map (fun z => z.2.fid)).getD 0
          v.area.foldl (fun s z => s.areaTrap p id (if z.1 = 0 then own else z.1) z.2) s)

/-! ### CALL, CALLR and SYSC -/

/-- An operand as a register of the callee (R19). -/
def argReg (t : Option Token) : Reg := match t with
  | some t => regOf t
  | none => {}

/-- A call becomes outstanding (R174), and its request waits for the round of its fclk (R198). -/
def State.callOut (s : State) (d : Desc) (args : List Reg) : State :=
  let c := s.cur
  let s := s.modFire c.p c.pg c.fid (fun f => { f with phase := .out, acted := true })
  s.request c.p { kind := .call c.id c.fid, desc := d, args := args, wins := s.curAct.wins, pg := s.curInst.page0, since := s.now }

/-- CALL (R174). -/
def execCall (pr : BitVec 2) (fn : BitVec 5) (t1 t0 : Target) (s : State) : Out :=
  .next (s.frame pr 1 t1 t0 fun s =>
    let c := s.cur
    match kget s.curAct.descs c.tile with
    | some d => s.callOut d (([c.l, c.r, c.c].map argReg).take d.arity)
    | none =>
      match s.functionDesc c.p s.curInst.image fn.toNat with
      | .error e => s.trap e.code e.detail e.va
      | .ok d => s.callOut d (([c.l, c.r, c.c].map argReg).take d.arity))

/-- CALLR (R175): the descriptor is read when it fires; its arity must suit the positions that are targeted. -/
def execCallr (pr : BitVec 2) (t1 t0 : Target) (s : State) : Out :=
  .next (s.frame pr 1 t1 t0 fun s =>
    let c := s.cur
    let va := farAddr s.curAct.blk s.lv none
    if va % 64 ≠ 0 then s.trap 0x04 64 va
    else
      match s.readDesc c.p va with
      | .error e => s.trap e.code e.detail e.va
      | .ok d =>
        let r := c.r.isSome
        let cc := c.c.isSome
        if d.arity = 3 || (d.arity = 1 && !r) || (d.arity = 2 && !(r && cc)) || (d.arity = 0 && (r || cc)) then s.trap 0x05 0x13 0
        else s.callOut d (([c.r, c.c].map argReg).take d.arity))

/-- The descriptor of the default handler (R338): none where DEFHL and DEFHH name none or it fails R61. -/
def State.defaultHandler (s : State) (p : Nat) : Option (Except LoadFault Desc) :=
  let va := (s.part p).base64 0x094 6
  if va = 0 then none else some (s.readDesc p va)

/-- SYSC (R353): a call of the default handler with 0x100 | X, L and R; without one it answers at once. -/
def execSysc (pr : BitVec 2) (n : BitVec 5) (t1 t0 : Target) (s : State) : Out :=
  .next (s.frame pr 1 t1 t0 fun s =>
    match s.defaultHandler s.cur.p with
    | none => s.emit 1 t0 t1 (withPoison (tokV 0xFFFFFFFF) s.cur.firstOrigin) (withPoison tokNull s.cur.firstOrigin)
    | some (.error e) => s.trap e.code e.detail e.va
    | some (.ok d) => s.callOut d [{ val := word (0x100 + n.toNat) }, argReg s.cur.l, argReg s.cur.r])

end Sys2Proof.Machine
end

