-- ==== Sys2Proof/Machine/Csr.lean ====
section
/-! DEFINITION. Sys2Proof/Machine/Csr.lean: reading and writing control registers (R7, R8, R347, R348, R400) and what their writes
start: handlers (R167), guest switches (R364), invalidations (R211), image loads (R277) and debug actions (R411). -/

namespace Sys2Proof.Machine

/-! ### Writing a field map (R7, R8) -/

/-- The word that a write of v leaves under the access codes of its fields. -/
def CsrDef.merge (d : CsrDef) (old v : Nat) : Nat :=
  d.fields.foldl (fun acc f =>
    let o := bits old f.hi f.lo
    let n := bits v f.hi f.lo
    match f.acc with
    | .rw => setBits acc f.hi f.lo n
    | .w1c => setBits acc f.hi f.lo (Nat.xor o (Nat.land o n))
    | _ => acc) old

/-- A field kept at its old value. -/
def keepF (old new hi lo : Nat) (bad : Bool) : Nat := if bad then setBits new hi lo (bits old hi lo) else new

/-- The writes that leave a field, or a register, unchanged (R189, R277, R301, R313, R333, R343, R364, R404). -/
def State.settleCsr (s : State) (p pg n old new : Nat) : Nat :=
  let x := s.part p
  let spill := decide (0 < x.spilled)
  let defer := x.feq.any (fun w => w.place == 1)
  if n = 0x080 then keepF old new 2 0 (decide (new % 8 = 0 ∨ 4 < new % 8))
  else if n = 0x0B1 then keepF old new 4 0 (decide (16 < new % 32))
  else if n = 0x0B4 then keepF old new 23 0 (decide (bits new 23 0 < bits (x.csrN 0x0B5) 23 0))
  else if n = 0x092 then keepF old new 2 0 (decide (4 < new % 8))
  else if n = 0x0E2 then keepF old new 10 0 (decide (1024 < new % 2048))
  else if n = 0x0C6 then keepF old new 15 0 (decide (bits new 15 0 * 256 < x.wftOver))
  else if 0x09D ≤ n ∧ n ≤ 0x09F then (if spill then old else new)
  else if 0x0A8 ≤ n ∧ n ≤ 0x0AA then (if defer then old else new)
  else if 0x0F0 ≤ n ∧ n ≤ 0x0F7 then (if 786432 ≤ bits new 19 0 ∨ 40 ≤ bits new 25 20 then old else new)
  else if n = 0x050 then keepF old new 1 0 (!x.engines.contains (pg / 256, new % 4))
  else if n = 0x048 then keepF old (keepF old new 1 0 (bits new 1 0 == 3)) 17 16 (bits new 17 16 == 3)
  else new

/-! ### Debug actions that a write starts -/

/-- DBGHALT, or a dump: every page of the partition stops (R412). -/
def State.haltAll (s : State) (p cause : Nat) : State := s.stopPages p ((s.part p).pages.map Page.num) cause 0 0

/-- RESUME (R412): the skid buffers empty, then every stopped page of the partition runs in the same fclk. -/
def State.resumeAll (s : State) (p : Nat) : State :=
  let pgs := ((s.part p).pages.filter (fun y => y.gated)).map Page.num
  let s := pgs.foldl (fun s pg => s.modPage p pg (fun y => { y with gated := false })) s
  let s := pgs.foldl (fun s pg =>
    let sk := (s.page p pg).skid
    let s := s.modPage p pg (fun y => { y with skid := [] })
    let s := sk.foldl (fun s r => s.sched s.now (srcOf pg 0) r.1 r.2) s
    (s.unhold p pg).wake p pg) s
  s.setCsrF p 0x101 1 0 0

/-- Room in the trace sink (R417): frames that wait are written, and what waited for room goes on. -/
def State.traceRoom (s : State) (p : Nat) : State :=
  let x := s.part p
  if x.traceStalls then s
  else
    let s := (x.trace.filter (fun l => !l.closed.isEmpty)).foldl (fun s l => s.sched s.now (l.die * 16384) .loglineFrameWrite { p := p, x := l.die }) s
    let st := x.stalled
    let s := s.modPart p (fun x => { x with stalled := [] })
    let s := st.foldl (fun s r => s.sched s.now (srcOf r.2.pg 0) r.1 r.2) s
    x.pages.foldl (fun s y => s.wake p y.num) s

/-- Sampling begins, on each die of the partition, with a non-zero interval (R411, R416). -/
def State.sampling (s : State) (p : Nat) : State :=
  let x := s.part p
  let n := bits (x.csrN 0x100) 15 8
  if n = 0 || s.pending p .traceSample then s
  else ((x.pages.map (fun y => y.num / 256)).eraseDups).foldl (fun s d => s.sched (s.now + n * 1024) (d * 16384) .traceSample { p := p, x := d }) s

/-- The log-clear bit (R84, R342): allocation starts at 0 again. -/
def State.clearPlog (s : State) (p : Nat) : State :=
  (s.setCsrF p 0x098 26 16 0).modPart p (fun x => { x with plogOver := 0 })

/-- What follows a write of a partition CSR, with the value as written. -/
def State.partEffect (s : State) (p n v : Nat) : State :=
  let start (busy : Nat) (row : Instr) : State :=
    if bitAt v 0 && !bitAt ((s.part p).csrN busy) 31 then (s.setCsrF p busy 31 31 1).sched (s.now + 1) 0 row { p := p } else s
  if n = 0x098 then (if bitAt v 0 then s.clearPlog p else s)
  else if n = 0x0A2 then start 0x0A2 .tlbInvalidate
  else if n = 0x0BA then (if bitAt v 0 then s.gswGo p else s)
  else if n = 0x100 then
    let s := if bitAt v 16 then s.resumeAll p else s
    (s.traceRoom p).sampling p
  else if n = 0x104 then (if bitAt v 0 then s.haltAll p 3 else s)
  else if n = 0x12A then start 0x12A .histogramReadout
  else if n = 0x143 then start 0x143 .coreDump
  else if n = 0x132 ∨ n = 0x133 then s.traceRoom p
  else if n = 0x080 then s.kick p
  else if n = 0x092 then s.areasFree p 65536
  else if n = 0x09F then s.spillFreed p
  else s

/-- The registers that the read or write of another latches (R411). -/
def latchedBy (n : Nat) : Option Nat :=
  if n = 0x102 then some 0x103 else if n = 0x110 ∨ n = 0x114 ∨ n = 0x118 ∨ n = 0x11C then some (n + 1) else none

/-- Latching the register after one. -/
def State.latchNext (s : State) (p n : Nat) : State :=
  match latchedBy n with
  | some m => s.modPart p (fun x => { x with latch := kset x.latch m (csrWord x.csr m) })
  | none => s

/-- A write of a partition CSR by CSRW or the host. -/
def State.writePart (s : State) (p n v : Nat) : State :=
  match csrDef? n with
  | none => s
  | some d =>
    if d.scope != .part then s
    else
      let old := (s.part p).csrN n
      let new := s.settleCsr p 0 n old (d.merge old v)
      let s := (s.setCsr p n new).latchNext p n
      let s := if (kget (s.part p).latch n).isSome then s.modPart p (fun x => { x with latch := kset x.latch n (word new) }) else s
      s.partEffect p n v

/-! ### The value of DBGD0 to DBGD3 (R414) -/

/-- The four debug data words for the entry that DBGSEL names. The value word of a structure that holds no token is free. -/
def State.debugData (s : State) (p : Nat) : List Word :=
  let x := s.part p
  let sel := x.csrN 0x150
  let y := x.page (bits sel 31 22)
  let tile := bits sel 21 16
  let k := bits sel 15 12
  let ix := bits sel 11 0
  let e? := y.ents.find? (fun e => e.tile == tile && e.way == ix % 4 && setOf e.tag == ix / 4)
  let tagW (t : Tag) : List Word := [word (t.toNat % 2 ^ 32), word (t.toNat / 2 ^ 32)]
  let free := word (Config.freeNat s.free)
  if !y.gated then [0, word (2 ^ 31), 0, 0]
  else
    let q : Pos := if k = 0 then .l else if k = 1 then .r else if k = 2 then .p else .c
    if k ≤ 3 then
      match e?.bind (fun e => (e.at q).map (fun a => (e, a.tok))) with
      | some (e, t) => [t.val, word (tokFlags t + (encTarget (.queue q (BitVec.ofNat 6 tile))).toNat * 65536 + 2 ^ 30)] ++ tagW e.tag
      | none => [0, 0, 0, 0]
    else if k = 4 then
      match e? with
      | some e => [free, word (2 ^ 30)] ++ tagW e.tag
      | none => [0, 0, 0, 0]
    else if k = 5 then
      match (x.feq.filter (fun w => w.pg == y.num && w.tile == tile))[ix]? with
      | some w =>
        match (x.page w.pg).fire? w.fid with
        | some f =>
          let t := if (opF f.word).toNat = 0x4B then (f.r.map Arr.tok).map (fun t => (t.val, tokFlags t)) else none
          [(t.map Prod.fst).getD free, word ((t.map Prod.snd).getD 0 + f.word.toNat % 512 * 65536 + 2 ^ 30)] ++ tagW f.tag
        | none => [0, 0, 0, 0]
      | none => [0, 0, 0, 0]
    else if k = 6 then
      match y.acts[ix]? with
      | some a => [free, word (2 ^ 30)] ++ tagW a.tag
      | none => [0, 0, 0, 0]
    else [0, 0, 0, 0]

/-- A read of DBGD0: all four words are latched. -/
def State.latchDebug (s : State) (p : Nat) : State :=
  let l := s.debugData p
  ([0, 1, 2, 3].foldl (fun s k => s.setCsr p (0x151 + k) ((l[k]?).getD 0).toNat) { s with free := s.free + 1 })

/-! ### Reading -/

/-- The RC fields of a register cleared (R7). -/
def CsrDef.cleared (d : CsrDef) (v : Nat) : Nat := d.fields.foldl (fun acc f => match f.acc with
  | .rc => setBits acc f.hi f.lo 0
  | _ => acc) v

/-- A read of a partition CSR by CSRR or the host: its value, and the state after RC clearing and latching. -/
def State.readPart (s : State) (p n : Nat) : State × Word :=
  match csrDef? n with
  | none => (s, 0)
  | some d =>
    if d.scope != .part then (s, 0)
    else
      let s := if n = 0x151 then s.latchDebug p else s
      let x := s.part p
      let v := (kget x.latch n).getD (csrWord x.csr n)
      let s := s.latchNext p n
      (if d.cleared v.toNat = v.toNat then s else s.setCsr p n (d.cleared v.toNat), v)

/-- The CNV registers as an instance reads them (R185, R277): 0 unless it claims the islands or they are unclaimed. -/
def State.readCnv (s : State) (p pg id n : Nat) : Word :=
  let c := (s.page p pg).cnv
  if c.owner.isSome && c.owner != some id then 0
  else
    let v := (csrWord c.csr n).toNat
    if n = 0x048 then
      let k (j : Nat) : CnvIsl := (c.isl[j]?).getD {}
      word (setBits (setBits (setBits (setBits v 11 11 (b2n (k 0).busy)) 12 12 (b2n (k 0).err)) 27 27 (b2n (k 1).busy)) 28 28 (b2n (k 1).err))
    else word v

/-- The value of any CSR for a strand (R347), and the state after its read. -/
def State.readCsr (s : State) (p pg id strand n : Nat) : State × Word :=
  let i := s.inst p id
  match csrDef? n with
  | none => (s, 0)
  | some d =>
    match d.scope with
    | .inst =>
      (s, if n = 0x000 then word (id + i.gen * 2 ^ 16 + strand * 2 ^ 19) else if n = 0x001 then word (i.estNow s.now)
          else word (i.base + i.eff * 16))
    | .page => (s, word (((i.strand? strand).map (fun t => t.csrN n)).getD 0))
    | .cnv => (s, s.readCnv p pg id n)
    | .part => s.readPart p n

/-- A write of a CNV register (R185, R277): it claims the islands; GO loads an image. -/
def State.writeCnv (s : State) (p pg id n v : Nat) : State :=
  let c := (s.page p pg).cnv
  if c.owner.isSome && c.owner != some id then s
  else
    match csrDef? n with
    | none => s
    | some d =>
      let old := (csrWord c.csr n).toNat
      let new := s.settleCsr p pg n old (d.merge old v)
      let s := s.modPage p pg (fun y => { y with cnv := { y.cnv with owner := some id, csr := kset y.cnv.csr n (word new) } })
      if n = 0x048 then
        let go (s : State) (k : Nat) : State :=
          if bitAt v (10 + 16 * k) then s.sched s.now (srcOf pg 0) .cnvImageLoad { p := p, pg := pg, id := id, x := k } else s
        go (go s 0) 1
      else s

/-- A write of any CSR by a strand (R348). -/
def State.writeCsr (s : State) (p pg id strand n v : Nat) : State :=
  match csrDef? n with
  | none => s
  | some d =>
    match d.scope with
    | .inst => s
    | .part => s.writePart p n v
    | .cnv => s.writeCnv p pg id n v
    | .page =>
      let old := (((s.inst p id).strand? strand).map (fun t => t.csrN n)).getD 0
      let new := s.settleCsr p pg n old (d.merge old v)
      if n = 0x040 then s.writeRtagen p pg id strand new
      else if n = 0x041 then s.writeRtagpend p pg id strand new
      else s.setStrandCsr p id strand n new

/-- The latency of a CSR access (R348): instance and page CSRs have the numbers below 0x080 (R347). -/
def csrLat (n : Nat) : Nat := if n < 0x080 then 2 else 40

/-! ### CSRR and CSRW -/

/-- CSRR (R348). -/
def execCsrr (pr : BitVec 2) (csr : BitVec 14) (t0 : Target) (s : State) : Out :=
  let n := csr.toNat
  .next (s.frame pr (csrLat n) .none t0 fun s =>
    let c := s.cur
    let r := s.readCsr c.p c.pg c.id c.strand n
    let m := r.1.mark ⟨r.2, 0⟩
    m.1.emit (csrLat n) t0 .none m.2 m.2)

/-- CSRW (R348): it emits the value held before. -/
def execCsrw (pr : BitVec 2) (csr : BitVec 14) (t0 : Target) (s : State) : Out :=
  let n := csr.toNat
  .next (s.frame pr (csrLat n) .none t0 fun s =>
    let c := s.cur
    let old := (s.readCsr c.p c.pg c.id c.strand n).2
    let s := s.writeCsr c.p c.pg c.id c.strand n s.lv.toNat
    let m := s.mark ⟨old, 0⟩
    m.1.emit (csrLat n) t0 .none m.2 m.2)

/-! ### The function's BAR0 (R400) -/

/-- A write of a BAR0 register at an offset. -/
def State.bar0Write (s : State) (p off v : Nat) : State :=
  let vf (f : Vf → Vf) : State := s.modPart p (fun x => { x with vf := f x.vf })
  let deliver (s : State) : State := s.sched s.now 0 .eventRecordWrite { p := p }
  if off = 0x000 then s.sched s.now 0 .doorbell { p := p, w0 := word v }
  else if off = 0x020 then vf (fun f => { f with evqbl := word v })
  else if off = 0x024 then vf (fun f => { f with evqbh := word v })
  else if off = 0x028 then
    deliver (vf (fun f => { f with log2 := if 4 ≤ v % 16 then v % 16 else f.log2, mask := bitAt v 8, en := bitAt v 31 }))
  else if off = 0x02C then deliver (vf (fun f => { f with head := v % 65536 }))
  else if off = 0x040 then vf (fun f => { f with apb := v % 65536 })
  else if 0x1000 ≤ off ∧ off < 0x1600 ∧ off % 4 = 0 then s.writePart p (0x080 + (off - 0x1000) / 4) v
  else s

/-- A read of a BAR0 register, and the state after it. -/
def State.bar0Read (s : State) (p off : Nat) : State × Nat :=
  let f := (s.part p).vf
  let vf (g : Vf → Vf) : State := s.modPart p (fun x => { x with vf := g x.vf })
  if off = 0x008 then (s, f.devid + p * 2 ^ 20)
  else if off = 0x010 then (vf (fun f => { f with tsnowh := word (s.ts / 2 ^ 32) }), s.ts % 2 ^ 32)
  else if off = 0x014 then (s, f.tsnowh.toNat)
  else if off = 0x020 then (s, f.evqbl.toNat)
  else if off = 0x024 then (s, f.evqbh.toNat)
  else if off = 0x028 then (s, f.log2 + b2n f.mask * 256 + b2n f.en * 2 ^ 31)
  else if off = 0x02C then (s, f.head)
  else if off = 0x030 then (s, f.tail)
  else if off = 0x034 then (vf (fun f => { f with evdisc := 0 }), f.evdisc)
  else if off = 0x038 then (vf (fun f => { f with dbdisc := 0 }), f.dbdisc)
  else if off = 0x040 then (s, f.apb)
  else if off = 0x044 then (vf (fun f => { f with apflt := 0 }), f.apflt)
  else if 0x1000 ≤ off ∧ off < 0x1600 ∧ off % 4 = 0 then
    let r := s.readPart p (0x080 + (off - 0x1000) / 4)
    (r.1, r.2.toNat)
  else (s, 0)

/-- Is a BAR0 access one that acts: aligned and of four bytes (R400)? -/
def bar0Ok (off size : Nat) : Bool := off % 4 == 0 && size == 4

/-- Handing a value to the host. -/
def State.toHost (s : State) (v : Nat) : State := { s with hostOut := s.hostOut ++ [v] }

/-- CSR_WRITE (R7, R189, R400): z = 0, the CSR y of strand x of an instance takes w0; z = 1, the partition's CSR y, by the host; z = 2,
the function's BAR0 register at offset y, in an access of x bytes. -/
def execCsrWrite (s : State) : Out :=
  let a := s.arg
  .next (if a.z = 0 then s.writeCsr a.p a.pg a.id a.x a.y a.w0.toNat
    else if a.z = 1 then s.writePart a.p a.y a.w0.toNat
    else if bar0Ok a.y a.x then s.bar0Write a.p a.y a.w0.toNat else s)

/-- CLEAR_ON_READ (R7, R400): a read of the partition's CSR y by the host, or, with z = 2, of the BAR0 register at offset y in an
access of x bytes: its RC fields clear as it is read. -/
def execClearOnRead (s : State) : Out :=
  let a := s.arg
  .next (if a.z = 2 then
      (if bar0Ok a.y a.x then let r := s.bar0Read a.p a.y; r.1.toHost r.2 else s.toHost 0xFFFFFFFF)
    else
      let r := s.readPart a.p a.y
      r.1.toHost r.2.toNat)

/-- TSNOWL (R400): a read of the live timestamp latches its high half. -/
def execTsnowl (s : State) : Out := let r := s.bar0Read s.arg.p 0x010; .next (r.1.toHost r.2)

/-- STOPTSL (R411): a read of the stop's timestamp latches its high half. -/
def execStoptsl (s : State) : Out := let r := s.readPart s.arg.p 0x102; .next (r.1.toHost r.2.toNat)

/-- WPKAL (R411): a read of watchpoint x's low address latches its high half. -/
def execWpkal (s : State) : Out := let r := s.readPart s.arg.p (0x110 + 4 * (s.arg.x % 4)); .next (r.1.toHost r.2.toNat)

/-- POISON_LOG_CLEAR (R84, R342). -/
def execPoisonLogClear (s : State) : Out := .next (s.clearPlog s.arg.p)

/-- DEBUG_HALT (R411, R412). -/
def execDebugHalt (s : State) : Out := .next (s.haltAll s.arg.p 3)

/-- DEBUG_RESUME (R411, R412). -/
def execDebugResume (s : State) : Out := .next (s.resumeAll s.arg.p)

/-- DEBUG_DATA_READ (R414): the read of DBGD0 latches the four words of the entry that DBGSEL names. -/
def execDebugDataRead (s : State) : Out := let r := s.readPart s.arg.p 0x151; .next (r.1.toHost r.2.toNat)

end Sys2Proof.Machine
end

