-- ==== Sys2Proof/Machine/Rows.lean ====
section
/-! DEFINITION. Sys2Proof/Machine/Rows.lean: rows of tensor operands as bytes and as elements (R66 to R75, R212, R213, R266),
and the group sums and accumulation of the matrix island (R86 to R88, R291). -/

namespace Sys2Proof.Machine

/-! ### Formats (R73, R74, R212, R266) -/

/-- The block length of a BLK code (R74). -/
def blockLen (blk : Nat) : Nat :=
  match blk with
  | 1 => 16
  | 2 => 32
  | 3 => 48
  | 4 => 96
  | 5 => 192
  | _ => 0

/-- What a page says of a row (R212); tile SRAM has no page entry and holds raw rows. -/
def pageGeom (kind pte : Nat) : Geom := if kind = 2 then ⟨0, 0, 0⟩ else ⟨Pte.fmt pte, Pte.blk pte, b2n (Pte.scl pte)⟩

/-- Does a page's format raise PROTECTION on a decoding load path (R75)? -/
def Geom.bad (g : Geom) : Bool := decide (16 ≤ g.fmt) || decide (6 ≤ g.blk) || (g.fmt == 0 && g.blk != 0)

/-- Elements per K step; 0 for a format that no operand may have (R266). -/
def perStep (fmt : Nat) : Nat :=
  match fmt with
  | 1 | 2 | 4 | 5 => 48
  | 9 | 10 | 14 => 24
  | 6 | 7 => 64
  | 3 | 8 => 96
  | 12 | 13 => 192
  | _ => 0

/-- Is a format an integer format (R88)? -/
def intFmt (fmt : Nat) : Bool := fmt == 1 || fmt == 2 || fmt == 3 || fmt == 12 || fmt == 14

/-- The lanes of a group (R86). -/
def groupLanes (fa fb : Nat) : Nat :=
  let half (f : Nat) : Bool := f == 9 || f == 10
  if half fa || half fb then 8 else 16

/-- The bytes that c elements take (R68, R69, R72, R266). -/
def elemBytes (fmt c : Nat) : Nat :=
  match fmt with
  | 1 | 2 | 4 | 5 => c
  | 9 | 10 | 14 => 2 * c
  | 3 | 8 => cdiv c 2
  | 6 | 7 => 3 * cdiv c 4
  | 12 => cdiv c 5
  | 13 => 2 * cdiv c 8
  | _ => 4 * c

/-- The whole elements that n bytes hold. -/
def elemsIn (fmt n : Nat) : Nat :=
  match fmt with
  | 1 | 2 | 4 | 5 => n
  | 9 | 10 | 14 => n / 2
  | 3 | 8 => 2 * n
  | 6 | 7 => 4 * (n / 3)
  | 12 => 5 * n
  | 13 => 8 * (n / 2)
  | _ => n / 4

/-- The first and last byte of element i among a row's element bytes. -/
def elemSpan (fmt i : Nat) : Nat × Nat :=
  match fmt with
  | 1 | 2 | 4 | 5 => (i, i)
  | 9 | 10 | 14 => (2 * i, 2 * i + 1)
  | 3 | 8 => (i / 2, i / 2)
  | 6 | 7 => (3 * (i / 4) + 6 * (i % 4) / 8, 3 * (i / 4) + (6 * (i % 4) + 5) / 8)
  | 12 => (i / 5, i / 5)
  | 13 => (2 * (i / 8), 2 * (i / 8) + 1)
  | _ => (4 * i, 4 * i + 3)

/-- The bytes of a row's scale prefix (R212). -/
def prefixBytes (g : Geom) (c : Nat) : Nat :=
  let lb := blockLen g.blk
  if lb = 0 then 0 else 16 * cdiv (cdiv c lb) 16

/-- The bytes of a row, prefix included (R212). -/
def rowBytes (g : Geom) (c : Nat) : Nat := prefixBytes g c + elemBytes g.fmt c

/-! ### Elements -/

/-- Element i of element bytes read as one little-endian number, and whether it is a trit of an illegal byte (R68 to R72). -/
def elemNum (fmt n i : Nat) : Num × Bool :=
  let byte (k : Nat) : Nat := bits n (8 * k + 7) (8 * k)
  let half (k : Nat) : Nat := bits n (16 * k + 15) (16 * k)
  let nib (k : Nat) : Nat := bits n (4 * k + 3) (4 * k)
  let six : Nat := bits n (24 * (i / 4) + 6 * (i % 4) + 5) (24 * (i / 4) + 6 * (i % 4))
  match fmt with
  | 1 => (numOfInt (sxt 8 (byte i)), false)
  | 2 => (numOfInt (byte i), false)
  | 3 => (numOfInt (sxt 4 (nib i)), false)
  | 4 => (decodeF e4m3 (byte i), false)
  | 5 => (decodeF e5m2 (byte i), false)
  | 6 => (decodeF e3m2 six, false)
  | 7 => (decodeF e2m3 six, false)
  | 8 => (decodeF e2m1 (nib i), false)
  | 9 => (decodeF fp16 (half i), false)
  | 10 => (decodeF bf16 (half i), false)
  | 12 =>
    let b := byte (i / 5)
    if 243 ≤ b then (numOfInt 0, true) else (numOfInt (tritVal (tritCode b (i % 5))), false)
  | 13 => (lc2Num (((lc2Quarters (half (i / 8)))[i % 8]?).getD 0), false)
  | _ => (numOfInt (sxt 16 (half i)), false)

/-- A scale byte as a number (R66). -/
def scaleNum (scl b : Nat) : Num :=
  if scl = 0 then ofE8M0 b else if 128 ≤ b then .nan false else decodeF e4m3 b

/-- An element under its scale (R67). -/
def scaled (x sc : Num) : Num :=
  match sc, x with
  | .nan _, _ => .nan false
  | .inf _, _ => .nan false
  | .fin _ 0 _, x => .fin x.isNeg 0 0
  | .fin _ m e, .fin n a d => .fin n (a * m) (d + e)
  | .fin _ _ _, x => x

/-- The scale token that a load path emits before the first element of a block (R213), and the scale latched from it (R67, R268). -/
def scaleToken (scl b : Nat) : Token := { tokV (word (b % 256 + scl * 256)) with scale := true }
def latched (t : Token) : Num := scaleNum (bits t.val.toNat 8 8) (bits t.val.toNat 7 0)

/-- An element of an operand with its poison. -/
structure El where
  num : Num
  pois : Option (BitVec 11) := none
  deriving DecidableEq, Repr

/-- What allocates a poison origin: a kind and a VA (R83). -/
abbrev MkOrigin := State → Nat → Nat → State × BitVec 11

/-- The origin of an event of a row, allocated once for each illegal byte or block (log 21). -/
def originOnce (mk : MkOrigin) (s : State) (seen : List (Nat × BitVec 11)) (key kind va : Nat) : State × List (Nat × BitVec 11) × BitVec 11 :=
  match kget seen key with
  | some o => (s, seen, o)
  | none =>
    let z := mk s kind va
    (z.1, (key, z.2) :: seen, z.2)

/-- The elements k0 to k1 - 1 of a row of c elements (R67, R71, R212, R213, R271): a scale is latched from its scale token for the elements of
its block. The VA of an origin is that of the element's block, and 0 for a stream's. -/
def decodeRow (mk : MkOrigin) (c k0 k1 : Nat) (r : RawRow) (s : State) : State × List El :=
  let g := r.g
  let pre := prefixBytes g c
  let n := ofLE (r.bytes.drop pre)
  let lb := blockLen g.blk
  let tokAt (b : Nat) : Option (BitVec 11) := (r.pois[b / 4]?).getD none
  let one (st : State × List (Nat × BitVec 11) × List El) (i : Nat) : State × List (Nat × BitVec 11) × List El :=
    let x := elemNum g.fmt n i
    let sp := elemSpan g.fmt i
    let sc := if lb = 0 then Num.fin false 1 0 else latched (scaleToken g.scl ((r.bytes[i / lb]?).getD 0).toNat)
    let v := if lb = 0 then x.1 else scaled x.1 sc
    let first := if lb = 0 then sp.1 else (elemSpan g.fmt (i / lb * lb)).1
    let blockVa := (r.va.map (fun va => va + pre + first)).getD 0
    let tp := ((tokAt (pre + sp.1)).orElse fun _ => tokAt (pre + sp.2)).orElse fun _ => if lb = 0 then none else tokAt (i / lb)
    match tp with
    | some o => (st.1, st.2.1, st.2.2 ++ [⟨v, some o⟩])
    | none =>
      if x.2 then
        let z := originOnce mk st.1 st.2.1 (2 * sp.1) 8 blockVa
        (z.1, z.2.1, st.2.2 ++ [⟨v, some z.2.2⟩])
      else if lb != 0 && sc.isNaN then
        let z := originOnce mk st.1 st.2.1 (2 * (i / lb) + 1) 9 blockVa
        (z.1, z.2.1, st.2.2 ++ [⟨v, some z.2.2⟩])
      else (st.1, st.2.1, st.2.2 ++ [⟨v, none⟩])
  let z := (List.range (k1 - k0)).foldl (fun st j => one st (k0 + j)) (s, [], [])
  (z.1, z.2.2)

/-- The elements of every row. -/
def decodeRows (mk : MkOrigin) (c k0 k1 : Nat) : List RawRow → State → State × List (List El)
  | [], s => (s, [])
  | r :: rs, s =>
    let z := decodeRow mk c k0 k1 r s
    let w := decodeRows mk c k0 k1 rs z.1
    (w.1, z.2 :: w.2)

/-! ### Groups (R86 to R88) -/

/-- What the products of a group add up to before rounding: infinities of each sign, a NaN, an invalid product, whether every
product is -0, and the exact finite sum. -/
structure GSum where
  nan : Bool := false
  bad : Bool := false
  pinf : Bool := false
  ninf : Bool := false
  allNegZero : Bool := true
  neg : Bool := false
  m : Nat := 0
  e : Int := 0
  deriving DecidableEq, Repr

/-- Adding the exact product of two elements to a group's sum (R87). -/
def GSum.add (g : GSum) (x y : Num) : GSum :=
  let p := qntProduct x y
  let g := if p.2 = 0 then g else { g with bad := true }
  match p.1 with
  | .nan _ => { g with nan := true, allNegZero := false }
  | .inf n => if n then { g with ninf := true, allNegZero := false } else { g with pinf := true, allNegZero := false }
  | .fin n 0 _ => { g with allNegZero := g.allNegZero && n }
  | .fin n m e =>
    let r := if g.m = 0 then (n, m, e) else addFin false g.neg g.m g.e n m e
    { g with allNegZero := false, neg := r.1, m := r.2.1, e := r.2.2 }

/-- The group sum in FP32 and the kind of its event (R87): a NaN element that is not poisoned makes a NaN without an event (log 66). -/
def GSum.round (g : GSum) : Nat × Nat :=
  if g.bad || (g.pinf && g.ninf) then (nan32, 1)
  else if g.nan then (nan32, 0)
  else if g.pinf then (infBits fp32 false, 0)
  else if g.ninf then (infBits fp32 true, 0)
  else if g.m = 0 then (if g.allNegZero then 0x80000000 else 0, 0)
  else roundFP32 .rne g.neg g.m g.e false

/-- A number as an integer. -/
def intOf : Num → Int
  | .fin n m e => let a : Int := m * 2 ^ e.toNat; if n then -a else a
  | _ => 0

/-- The origin of the first poisoned element of a group in ascending K, the A element first (R82). -/
def firstPois : List (El × El) → Option (BitVec 11)
  | [] => none
  | t :: ts => ((t.1.pois).orElse fun _ => t.2.pois).orElse fun _ => firstPois ts

/-- An accumulator element takes in a group (R82, R87, R88). -/
def accumulate (mk : MkOrigin) (int sat : Bool) (s : State) (acc : Reg) (ts : List (El × El)) (va : Nat) : State × Reg :=
  let o := if acc.pois then some acc.origin else firstPois ts
  let give (s : State) (v : Word) (k : Nat) : State × Reg :=
    match o with
    | some o => (s, ⟨v, true, o⟩)
    | none =>
      if k = 0 then (s, ⟨v, false, 0⟩)
      else
        let z := mk s k va
        (z.1, ⟨v, true, z.2⟩)
  if int then
    let v := acc.val.toInt + ts.foldl (fun n t => n + intOf t.1.num * intOf t.2.num) 0
    if sat && (decide (v < -2147483648) || decide (2147483647 < v)) then
      give s (if v < 0 then 0x80000000 else 0x7FFFFFFF) 10
    else give s (wordOfInt v) 0
  else
    let g := (ts.foldl (fun g t => g.add t.1.num t.2.num) ({} : GSum)).round
    let r := addNum .rne (decodeF fp32 acc.val.toNat) (decodeF fp32 g.1)
    give s (word r.1) (if g.2 = 0 then r.2 else g.2)

/-- Tiles hold 24 elements a row (R263). -/
def accAt (acc : List Reg) (m n : Nat) : Reg := (acc[24 * m + n]?).getD {}

/-- One group for every element of an M by N tile: `terms` gives an element's pairs, none of them where it takes nothing in. -/
def groupAll (mk : MkOrigin) (int sat : Bool) (va : Nat → Nat) (terms : Nat → Nat → List (El × El)) (rows cols : Nat) (z : State × List Reg) :
    State × List Reg :=
  (List.range (rows * cols)).foldl (fun z i =>
    let m := i / cols
    let n := i % cols
    match terms m n with
    | [] => z
    | ts =>
      let r := accumulate mk int sat z.1 (accAt z.2 m n) ts (va m)
      (r.1, z.2.set (24 * m + n) r.2)) z

/-- The full 384 elements of a tile, whatever it holds. -/
def fullAcc (acc : List Reg) : List Reg := acc ++ List.replicate (384 - acc.length) ({} : Reg)

/-- A tile set up for an overwrite (R268): every element of its extent at -0, or at 0 for an integer tile. -/
def AccTile.init (t : AccTile) (rows cols : Nat) (int : Bool) : AccTile :=
  let z : Reg := ⟨if int then 0 else 0x80000000, false, 0⟩
  { t with m := rows, n := cols, int := int
           acc := (List.range 384).map (fun i => if i / 24 < rows ∧ i % 24 < cols then z else (t.acc[i]?).getD {}) }

/-- The groups of elements k0 to k1 - 1 in ascending order, each as its first element and its length (R86, R268). -/
def groupsOf (lanes k0 k1 : Nat) : List (Nat × Nat) :=
  (List.range (cdiv k1 lanes)).filterMap (fun g =>
    let lo := max k0 (g * lanes)
    let hi := min k1 ((g + 1) * lanes)
    if lo < hi then some (lo, hi - lo) else none)

/-- The multiplication of rows whose elements k0 to k1 - 1 are given (R86 to R88). -/
def multiply (mk : MkOrigin) (int sat : Bool) (lanes k0 k1 : Nat) (va : Nat → Nat) (a b : List (List El)) (cols : Nat) (z : State × List Reg) :
    State × List Reg :=
  (groupsOf lanes k0 k1).foldl (fun z g =>
    let cut (r : List El) : List El := (r.drop (g.1 - k0)).take g.2
    let ca := a.map cut
    let cb := b.map cut
    groupAll mk int sat va (fun m n => ((ca[m]?).getD []).zip ((cb[n]?).getD [])) a.length cols z) z

end Sys2Proof.Machine
end

