-- ==== Sys2Proof/Machine/Tensor.lean ====
section
/-! DEFINITION. Sys2Proof/Machine/Tensor.lean: the commands of a matrix island, tensor descriptors and their checks (R265 to
R267), the reading of operand rows (R210, R212, R270, R271), multiplication (R268), read-out (R273), and how a command answers,
fails or stops (R263, R274). -/

namespace Sys2Proof.Machine

/-! ### Engine commands in general (R234) -/

/-- An engine command of a firing has drained: the configuration changes of its strand that wait for it look again. -/
def State.drainedBy (s : State) (p pg : Nat) (f : Fire) : State :=
  let y := s.page p pg
  let tags := (y.nexts.filter (fun n => n.id == f.id && n.strand == f.strand)).map NextBlk.tag
    ++ (y.acts.filter (fun a => a.id == f.id && a.strand == f.strand && a.looping.any (fun lp => lp.next == 0 || lp.retired == lp.n))).map Act.tag
  tags.foldl (fun s t =>
    if s.agenda.any (fun x => match x.act with
      | .row .configDrain a => a.p == p && a.pg == pg && a.tag == t
      | .row .blockFetch a => a.p == p && a.pg == pg && a.tag == t
      | .row .loopIterationStart a => a.p == p && a.pg == pg && a.tag == t
      | _ => false) then s
    else s.sched s.now (srcOf pg 0) .configDrain { p := p, pg := pg, id := f.id, tag := t }) s

/-- The answer of an engine command, which has drained: its result leaves for its targets. -/
def State.engineAnswer (s : State) (p pg fid leaves : Nat) (t : Token) : State :=
  match (s.page p pg).fire? fid with
  | none => s
  | some f =>
    let s := (s.answer p pg fid leaves t t).drainedBy p pg f
    if ((s.page p pg).act? f.tag).isNone then (s.dropFire p pg fid).drainedBy p pg f else s.checkDone p pg f.tag

/-- A trap of an engine command at its slot, under its firing's tag, whether or not its activation has committed. -/
def State.engineTrap (s : State) (p pg id strand slot : Nat) (tag : Tag) (w : Word) (blk gen code detail va : Nat) : State :=
  s.takeTrap p id
    { code := code, detail := word detail, va := va, src := srcOf pg slot, strand := strand, tag := tag, ts := 0, gen := gen,
      word := w, blk := blk }

/-! ### Commands of an island (R262, R263) -/

def IslCmd.op (c : IslCmd) : Nat := (opF c.word).toNat
def IslCmd.x (c : IslCmd) : Nat := (xF c.word).toNat

/-- The tile that a command names. -/
def IslCmd.tile (c : IslCmd) : Nat := bits c.x 3 2

/-- The state that a command requires of its tile (R263); none for a command that names no tile. -/
def IslCmd.needs (c : IslCmd) : Option TileSt :=
  match c.op with
  | 0x61 | 0x63 => some (if c.x % 4 = 1 then .full else .empty)
  | 0x62 => some .full
  | _ => none

/-- Does the array serve a command, one at a time in acceptance order (R275)? -/
def IslCmd.array (c : IslCmd) : Bool := c.needs.isSome

/-- The command channel of an instruction (R262). -/
def islChannel (op x : Nat) : Nat := if op = 0x60 ∨ op = 0x64 then 0 else bits x 3 2

/-- A page's island. -/
def State.isl (s : State) (p pg : Nat) : Island := (s.page p pg).island

/-- Changing a page's island. -/
def State.modIsl (s : State) (p pg : Nat) (f : Island → Island) : State := s.modPage p pg (fun y => { y with island := f y.island })

/-- The command of a firing. -/
def Island.cmd? (z : Island) (fid : Nat) : Option IslCmd := z.cmds.find? (fun c => c.fid == fid)

/-- Changing a command. -/
def State.modCmd (s : State) (p pg fid : Nat) (f : IslCmd → IslCmd) : State :=
  s.modIsl p pg (fun z => { z with cmds := z.cmds.map (fun c => if c.fid == fid then f c else c) })

/-- An accumulator tile. -/
def Island.tileAt (z : Island) (t : Nat) : AccTile := (z.tiles[t]?).getD {}

/-- Changing an accumulator tile. -/
def State.modTile (s : State) (p pg t : Nat) (f : AccTile → AccTile) : State :=
  s.modIsl p pg (fun z => { z with tiles := z.tiles.set t (f (z.tileAt t)) })

/-- The hops between an issuing tile and its island (R262). -/
def IslCmd.hops (c : IslCmd) : Nat := c.slot / 8 + 1

/-- A step of a command to come: z says which. -/
def State.islNext (s : State) (p pg : Nat) (c : IslCmd) (after z : Nat) : State :=
  s.sched (s.now + after) (srcOf pg c.slot) .islandCommandDone { p := p, pg := pg, id := c.id, fid := c.fid, z := z }

/-- The island looks for commands to accept (R263). -/
def State.islLook (s : State) (p pg : Nat) : State := s.sched s.now (srcOf pg 0) .islandAccept { p := p, pg := pg }

/-- A command leaves its island. -/
def State.islDrop (s : State) (p pg : Nat) (c : IslCmd) : State :=
  (s.modIsl p pg (fun z => { z with
    cmds := z.cmds.filter (fun d => d.fid != c.fid), serving := if z.serving = some c.fid then none else z.serving })).islLook p pg

/-- A command completes: its result takes the origin of its first poisoned operand (R82); an MMA's is poisoned only when L or R is (R268). -/
def State.islDone (s : State) (p pg : Nat) (c : IslCmd) (v : Nat) (after : Nat) : State :=
  let s := s.islDrop p pg c
  match (s.page p pg).fire? c.fid with
  | none => s
  | some f =>
    let o := if c.op = 0x61 then (origOf (f.l.map Arr.tok)).orElse fun _ => origOf (f.r.map Arr.tok) else (curOf p pg f).firstOrigin
    s.engineAnswer p pg c.fid (s.now + after + c.hops) (withPoison (tokV (word v)) o)

/-- A trap of a command. -/
def State.islTrap (s : State) (p pg : Nat) (c : IslCmd) (code detail va : Nat) : State :=
  s.engineTrap p pg c.id c.strand c.slot c.tag c.word c.blk c.gen code detail va

/-- A failed check (R263, R267, R274): the tile returns to the state that it was found in, and ISLAND is raised. A cause of 255 is
a line of memory whose check fails (R380), whose key stands for the VA. -/
def State.islFail (s : State) (p pg : Nat) (c : IslCmd) (code cause va : Nat) : State :=
  if cause = 255 then s.badRead p va
  else
    let s := if c.array then s.modTile p pg c.tile (fun t => { t with st := c.found }) else s
    (s.islDrop p pg c).islTrap p pg c 0x0E (code * 256 + cause) va

/-- The row progress word (R265): K elements, group index, row chunk or stream rows received, and V. -/
def IslCmd.progress (c : IslCmd) (perRow : Nat) : Nat :=
  let grp := c.op == 0x61 && c.x % 4 == 2
  let rows := if grp then c.chunk else if c.chan.isSome then c.rows.length / (max perRow 1) else 0
  c.k % 2 ^ 32 + (if grp then c.group % 65536 else 0) * 2 ^ 32 + (rows % 32768) * 2 ^ 48 + 2 ^ 63

/-- The tokens of one streamed row (R271). -/
def Mul.perRow (m : Mul) : Nat := cdiv (rowBytes m.ga m.k) 4

/-- A command stops early (R274): it writes its progress word and stays on its BUSY tile; tokens of a row it has not wholly
received go back into the replay queue. -/
def State.islHalt (s : State) (p pg : Nat) (c : IslCmd) : State :=
  let per := (c.mul.map Mul.perRow).getD 1
  let whole := c.rows.take (c.rows.length / (max per 1) * per)
  let part := c.rows.drop (c.rows.length / (max per 1) * per)
  let s := if c.begun && c.pkey != 0 then s.memWrite c.pkey (leBytes 8 (c.progress per)) else s
  let s := s.cancel (fun r a => r == .islandCommandDone && a.p == p && a.pg == pg && a.fid == c.fid && a.z != 2)
  let s := s.modIsl p pg (fun z => { z with
    cmds := z.cmds.map (fun d => if d.fid == c.fid then { c with stopped := true, start := none, rows := whole } else d)
    serving := if z.serving = some c.fid then none else z.serving })
  let port := BitVec.ofNat 6 (4 + c.chan.getD 0)
  part.foldl (fun s t => s.appendReplay p c.id c.strand t.2 (.port port) t.1.tok) s

/-- A fault of codes 0x02 and 0x03 (R274): the command stops early and ISLAND is raised. -/
def State.islStop (s : State) (p pg : Nat) (c : IslCmd) (code cause va : Nat) : State :=
  if cause = 255 then s.badRead p va
  else ((s.islHalt p pg c).islLook p pg).islTrap p pg c 0x0E (code * 256 + cause) va

/-- Poison origins of a command (R83): OP and X are 0 for an island, and the source number is that of the command's tile (log 66). -/
def IslCmd.newOrigin (c : IslCmd) (p pg : Nat) : MkOrigin := fun s kind va => s.newOrigin p pg c.slot c.tag c.gen kind 0 0 va

/-! ### Memory (R132, R210, R265) -/

/-- One piece of an access: its VA, key, leaf entry and bytes. -/
structure Piece where
  va : Nat
  key : Nat
  pte : Nat
  len : Nat
  deriving DecidableEq, Repr

/-- The pieces of n bytes from a VA through a window, each within a page or a tile's SRAM, and the first failure: its cause and
VA. -/
def State.span (s : State) (p w : Nat) (win : Win) (store : Bool) : Nat → Nat → Nat → List Piece × Option (Nat × Nat)
  | 0, _, _ => ([], none)
  | fuel + 1, va, n =>
    if n = 0 then ([], none)
    else
      match s.checkAccess p w win va 1 { store := store } with
      | .error e => ([], some (e.1, if e.1 = 255 then e.2 else va))
      | .ok (key, pte) =>
        let unit := if bits win.attr.toNat 1 0 = 2 then 32768 else 65536
        let k := min (min n (win.base.toNat + win.limit.toNat + 1 - va)) (unit - va % unit)
        if s.badAt key k && (!store || k % 64 != 0 || key % 64 != 0) then ([], some (255, s.badKey key k))
        else
          let r := s.span p w win store fuel (va + k) (n - k)
          (⟨va, key, pte, k⟩ :: r.1, r.2)

/-- The pieces of a row up to the first on a page that differs in FMT, BLK or SCL from the row's first (R212). -/
def samePages (kind : Nat) (g : Geom) : List Piece → List Piece × Option (Nat × Nat)
  | [] => ([], none)
  | x :: xs =>
    if pageGeom kind x.pte != g then ([], some (0x03, x.va))
    else
      let r := samePages kind g xs
      (x :: r.1, r.2)

/-- The bytes of pieces. -/
def State.pieceBytes (s : State) (l : List Piece) : List Byte := l.flatMap (fun x => Mem.bytes s.mem x.key x.len)

/-- A window of a command. -/
def IslCmd.window (c : IslCmd) (w : Nat) : Win := (c.wins[w]?).getD {}

/-- The 32 bytes of a descriptor or a list entry, with their VA and key. -/
def State.read32 (s : State) (p : Nat) (c : IslCmd) (w off : Nat) : Except (Nat × Nat) (Nat × Nat × Nat) :=
  let win := c.window w
  let va := win.base.toNat + off
  match s.checkAccess p w win va 32 {} with
  | .error e => .error (e.1, if e.1 = 255 then e.2 else va)
  | .ok (key, _) => if s.badAt key 32 then .error (255, key) else .ok (Mem.num s.mem key 32, va, key)

/-- May the 8 bytes of a progress word be written (R265)? -/
def State.mayProgress (s : State) (p : Nat) (c : IslCmd) (w va : Nat) : Option (Nat × Nat) :=
  match s.checkAccess p w (c.window w) va 8 { store := true } with
  | .error e => some (e.1, if e.1 = 255 then e.2 else va)
  | .ok _ => none

/-- Reading a tensor descriptor (R265). -/
def State.readTensor (s : State) (p : Nat) (c : IslCmd) (w off : Nat) : Except (Nat × Nat) TDesc :=
  match s.read32 p c w off with
  | .error e => .error e
  | .ok (n, va, key) =>
    match s.mayProgress p c w (va + 24) with
    | some e => .error e
    | none => .ok {
        va := va, base := fieldAt n 0 8, rows := fieldAt n 8 2, cols := fieldAt n 10 2, stride := fieldAt n 12 4,
        ovr := fieldAt n 16 1 % 32, flags := fieldAt n 17 1, chan := fieldAt n 18 1 % 16, prog := fieldAt n 24 8, pkey := key + 24 }

/-- The time of one read of an operand or descriptor at a VA (R275). -/
def State.readTime (s : State) (p pg : Nat) (c : IslCmd) (w va : Nat) : Nat :=
  let win := c.window w
  match s.checkAccess p w win va 1 {} with
  | .error _ => 48
  | .ok (key, _) => (s.loadLegs p pg c.slot (bits win.attr.toNat 1 0) va key).1

/-- The registers of a command name its windows (R264). -/
def IslCmd.aw (c : IslCmd) : Nat := bits c.win 2 0
def IslCmd.bw (c : IslCmd) : Nat := bits c.win 6 4
def IslCmd.cw (c : IslCmd) : Nat := bits c.win 10 8
def IslCmd.gw (c : IslCmd) : Nat := bits c.win 14 12

/-- The layout that a row of a memory operand takes from its page (R212, R266), and the page's own; `reg` is MMCFG's format. -/
def State.pageOf (s : State) (p : Nat) (c : IslCmd) (w : Nat) (d : TDesc) (reg va : Nat) : Except (Nat × Nat) (Geom × Geom) :=
  let win := c.window w
  match s.checkAccess p w win va 1 {} with
  | .error e => .error (e.1, if e.1 = 255 then e.2 else va)
  | .ok (_, pte) =>
    let g := pageGeom (bits win.attr.toNat 1 0) pte
    .ok ({ g with fmt := if d.ovr ≠ 0 then d.ovr else if reg ≠ 0 then reg else g.fmt }, g)

/-- The layout of a memory operand by its row 0 (R75, R212, R266). -/
def State.geomOf (s : State) (p : Nat) (c : IslCmd) (w : Nat) (d : TDesc) (reg : Nat) : Except (Nat × Nat) Geom :=
  match s.pageOf p c w d reg d.base with
  | .error e => .error e
  | .ok g => if g.2.bad then .error (0x03, d.base) else .ok g.1

/-- Is a descriptor's STREAM flag set, and the layout that its flags give (R265, R271)? -/
def TDesc.isStream (d : TDesc) : Bool := bitAt d.flags 0
def TDesc.streamGeom (d : TDesc) (reg : Nat) : Geom := ⟨if d.ovr ≠ 0 then d.ovr else reg, bits d.flags 3 1, bits d.flags 4 4⟩

/-- May a streamed A not be taken (R267; a reserved BLK code: log 22)? -/
def TDesc.badStream (d : TDesc) : Bool :=
  d.isStream && (decide (11 < d.chan) || d.ovr == 0 || decide (6 ≤ bits d.flags 3 1) || decide (2048 < rowBytes (d.streamGeom 0) d.cols))

/-- MMCFG's format for an operand (R264). -/
def IslCmd.regFmt (c : IslCmd) (isB : Bool) : Nat := if isB then bits c.fmt 12 8 else bits c.fmt 4 0

/-- The layout of an operand, streamed or not. -/
def State.operandGeom (s : State) (p : Nat) (c : IslCmd) (isB : Bool) (d : TDesc) : Except (Nat × Nat) Geom :=
  if d.isStream then .ok (d.streamGeom (c.regFmt isB)) else s.geomOf p c (if isB then c.bw else c.aw) d (c.regFmt isB)

/-- Is an operand's format not permitted (R267)? A stream without one fails by its own check. -/
def TDesc.badFormat (d : TDesc) (g : Geom) : Bool := perStep g.fmt == 0 && !(d.isStream && g.fmt == 0)

/-- Is the stride of an operand in memory too small (R267)? -/
def TDesc.badStride (d : TDesc) (g : Geom) : Bool := !d.isStream && decide (d.stride < rowBytes g d.cols)

/-- The checks of a dense or grouped multiplication (R267): the failure's code, cause and VA. `grp` is the group's row count,
and `tile` the tile that an accumulation must suit. -/
def State.mulPlan (s : State) (p : Nat) (c : IslCmd) (aOff bOff : Nat) (grp : Option Nat) (tile : Option AccTile) :
    Except (Nat × Nat × Nat) Mul :=
  match s.readTensor p c c.aw aOff with
  | .error e => .error (0x01, e.1, e.2)
  | .ok da =>
    match s.readTensor p c c.bw bOff with
    | .error e => .error (0x01, e.1, e.2)
    | .ok db =>
      let rows := grp.getD da.rows
      if rows = 0 || (grp.isNone && 16 < rows) || db.rows = 0 || 24 < db.rows || da.cols ≠ db.cols || da.cols = 0 then
        .error (0x04, 0, da.va)
      else
        match s.operandGeom p c false da with
        | .error e => .error (0x02, e.1, e.2)
        | .ok ga =>
          match s.operandGeom p c true db with
          | .error e => .error (0x02, e.1, e.2)
          | .ok gb =>
            let int := intFmt ga.fmt && intFmt gb.fmt && ga.blk == 0 && gb.blk == 0
            let m : Mul := {
              aw := c.aw, bw := c.bw, da := da, db := db, ga := ga, gb := gb,
              rows := rows, cols := db.rows, k := da.cols, int := int, stream := if da.isStream then some da.chan else none }
            if da.badFormat ga || db.badFormat gb then .error (0x05, 0, da.va)
            else if da.badStride ga || db.badStride gb then .error (0x06, 0, da.va)
            else if bits c.mode 1 0 ≠ (if grp.isSome then 1 else 0) then .error (0x07, 0, da.va)
            else if tile.any (fun t => t.m != m.rows || t.n != m.cols || t.int != m.int) then .error (0x08, 0, da.va)
            else if da.badStream || db.isStream then .error (0x0D, 0, da.va)
            else .ok m

/-! ### Operand rows -/

/-- May a row have a layout (R266, R267, R282): one of the formats of a multiplication or of SPMA, and an integer one in an integer tile
(log 22)? -/
def rowOk (sparse int : Bool) (g : Geom) : Bool :=
  (if sparse then g.fmt == 1 || g.fmt == 2 || g.fmt == 4 || g.fmt == 5 else perStep g.fmt != 0) && (!int || (intFmt g.fmt && g.blk == 0))

/-- One row of an operand in memory as its pages lay it out (R75, R212), with the first failure and the elements it has whole. -/
def State.memRow (s : State) (p : Nat) (c : IslCmd) (isB : Bool) (w : Nat) (d : TDesc) (ok : Geom → Bool) (cols va : Nat) :
    RawRow × Option (Nat × Nat) × Nat :=
  match s.pageOf p c w d (c.regFmt isB) va with
  | .error e => (⟨some va, ⟨0, 0, 0⟩, [], []⟩, some e, 0)
  | .ok (g, pg) =>
    if pg.bad || !ok g then (⟨some va, g, [], []⟩, some (0x03, va), 0)
    else
      let win := c.window w
      let ps := s.span p w win false 8 va (rowBytes g cols)
      let cut := samePages (bits win.attr.toNat 1 0) pg ps.1
      let bs := s.pieceBytes cut.1
      let fault := cut.2.orElse fun _ => ps.2
      (⟨some va, g, bs, []⟩, fault, if fault.isSome then min cols (elemsIn g.fmt (bs.length - prefixBytes g cols)) else cols)

/-- Rows first to first + n - 1 of an operand in memory, and the first failure with the elements that every row has whole. -/
def State.memRows (s : State) (p : Nat) (c : IslCmd) (isB : Bool) (w : Nat) (d : TDesc) (ok : Geom → Bool) (cols first n : Nat) :
    List RawRow × Option (Nat × Nat) × Nat :=
  (List.range n).foldl (fun z i =>
    let r := s.memRow p c isB w d ok cols (d.base + (first + i) * d.stride)
    (z.1 ++ [r.1], z.2.1.orElse fun _ => r.2.1, min z.2.2 r.2.2)) ([], none, cols)

/-- What names a resident operand (R270): its descriptor's fields, its resolved format, and FMT, BLK and SCL of each row's page. -/
def State.residentKey (s : State) (p : Nat) (c : IslCmd) (isB : Bool) (w : Nat) (d : TDesc) (g : Geom) (first n : Nat) : List Nat :=
  [d.base + first * d.stride, n, d.cols, d.stride, g.fmt] ++ (List.range n).flatMap (fun i =>
    match s.pageOf p c w d (c.regFmt isB) (d.base + (first + i) * d.stride) with
    | .ok z => [z.2.fmt, z.2.blk, z.2.scl]
    | .error _ => [32])

/-- The resident copy that an operand uses, where there is one of the same configuration (R270). -/
def State.residentFor (s : State) (p pg : Nat) (c : IslCmd) (isB : Bool) (key : List Nat) : Option (List RawRow) :=
  let stat := bits c.mode 3 2
  let want := (stat == 1 && isB) || (stat == 2 && !isB)
  match (s.isl p pg).resident with
  | some r =>
    let gen := (((s.inst p c.id).strand? r.strand).map Strand.gen).getD 0
    if want && r.isB == isB && r.key == key && r.gen == gen then some r.rows else none
  | none => none

/-- Making an operand resident, when its place is empty or its configuration has ended, and its rows fit (R270). -/
def State.makeResident (s : State) (p pg : Nat) (c : IslCmd) (isB : Bool) (key : List Nat) (rows : List RawRow) : State :=
  let stat := bits c.mode 3 2
  let want := (stat == 1 && isB) || (stat == 2 && !isB)
  let gen := (((s.inst p c.id).strand? c.strand).map Strand.gen).getD 0
  let free := match (s.isl p pg).resident with
    | none => true
    | some r => r.gen != (((s.inst p c.id).strand? r.strand).map Strand.gen).getD 0
  if want && free && (rows.map (fun r => r.bytes.length)).sum ≤ 49152 then
    s.modIsl p pg (fun z => { z with resident := some ⟨isB, key, c.strand, gen, rows⟩ })
  else s

/-- The rows of a chunk (R272), or of the whole of A. -/
def Mul.chunkRows (m : Mul) (chunk : Nat) : Nat := min 16 (m.rows - 16 * chunk)

/-- The rows that a stream has given (R271). -/
def IslCmd.streamRows (c : IslCmd) (m : Mul) : List RawRow :=
  let per := m.perRow
  let rb := rowBytes m.ga m.k
  (List.range (m.chunkRows c.chunk)).map (fun i =>
    let ts := ((c.rows.drop (i * per)).take per).map (fun t => t.1.tok)
    ⟨none, m.ga, (ts.flatMap (fun t => leBytes 4 (if t.null then 0 else t.val.toNat))).take rb, ts.map (fun t => origOf (some t))⟩)

/-- An operand's rows from its resident copy or from memory: the state, the rows, the failure, and the whole elements of each. -/
def State.opRows (s : State) (p pg : Nat) (c : IslCmd) (isB : Bool) (w : Nat) (d : TDesc) (g : Geom) (int : Bool) (cols first n : Nat) :
    State × List RawRow × Option (Nat × Nat) × Nat :=
  let key := s.residentKey p c isB w d g first n
  match s.residentFor p pg c isB key with
  | some rows => (s, rows, none, cols)
  | none =>
    let z := s.memRows p c isB w d (rowOk false int) cols first n
    (if z.2.1.isNone then s.makeResident p pg c isB key z.1 else s, z.1, z.2.1, z.2.2)

/-- The time of an operand's first read and the bytes read of it: nothing of a resident copy. -/
def State.opTime (s : State) (p pg : Nat) (c : IslCmd) (isB : Bool) (w : Nat) (d : TDesc) (g : Geom) (cols first n : Nat) : Nat × Nat :=
  if (s.residentFor p pg c isB (s.residentKey p c isB w d g first n)).isSome then (0, 0)
  else (s.readTime p pg c w (d.base + first * d.stride), n * rowBytes g cols)

/-- To and S' of a multiplication from K element k0 (R275). -/
def State.mulTime (s : State) (p pg : Nat) (c : IslCmd) (m : Mul) (chunk k0 : Nat) : Nat × Nat :=
  let a := if m.stream.isSome then (0, 0) else s.opTime p pg c false m.aw m.da m.ga m.k (16 * chunk) (m.chunkRows chunk)
  let b := s.opTime p pg c true m.bw m.db m.gb m.k 0 m.cols
  (max a.1 b.1, max (cdiv (m.k - k0) (min (perStep m.ga.fmt) (perStep m.gb.fmt))) (cdiv (max a.2 b.2) 128))

/-- The multiplication of a chunk from the command's K element up to k1 (R268), into its tile: what it reaches, and a failure. A stop between
two K steps may cut a group, and an origin of a sum names the A row's VA (log 66). -/
def State.mulRun (s : State) (p pg : Nat) (c : IslCmd) (m : Mul) (k1 : Nat) : State × Nat × Option (Nat × Nat) :=
  let n := m.chunkRows c.chunk
  let za := if m.stream.isSome then (s, c.streamRows m, none, m.k) else s.opRows p pg c false m.aw m.da m.ga m.int m.k (16 * c.chunk) n
  let zb := za.1.opRows p pg c true m.bw m.db m.gb m.int m.k 0 m.cols
  let fault := za.2.2.1.orElse fun _ => zb.2.2.1
  let step := min (perStep m.ga.fmt) (perStep m.gb.fmt)
  let top := if fault.isSome then max c.k (min (min za.2.2.2 zb.2.2.2) k1 / step * step) else k1
  let mk := c.newOrigin p pg
  let ea := decodeRows mk m.k c.k top za.2.1 zb.1
  let eb := decodeRows mk m.k c.k top zb.2.1 ea.1
  let va (i : Nat) : Nat := ((za.2.1[i]?).bind RawRow.va).getD 0
  let t := (eb.1.isl p pg).tileAt c.tile
  let r := multiply mk m.int (bitAt c.mode 4) (groupLanes m.ga.fmt m.gb.fmt) c.k top va ea.2 eb.2 m.cols (eb.1, fullAcc t.acc)
  (r.1.modTile p pg c.tile (fun t => { t with acc := r.2 }), top, fault)

/-! ### Read-out (R273) -/

/-- The bytes of one element in an output format, with its event: 0 and 11 or 15 native, 9 FP16, 10 BF16. -/
def outElem (ovr : Nat) (rm : RMode) (v : Word) : Nat × Nat × Nat :=
  match ovr with
  | 9 => let r := convert 4 rm v.toNat; (2, r.1, r.2)
  | 10 => let r := convert 6 rm v.toNat; (2, r.1, r.2)
  | _ => (4, v.toNat, 0)

/-- The bytes of an element in an output format. -/
def outSize (ovr : Nat) : Nat := if ovr = 9 ∨ ovr = 10 then 2 else 4

/-- May a tile be read out with an override (R273)? -/
def outOk (ovr : Nat) (int : Bool) : Bool := ovr == 0 || (!int && (ovr == 11 || ovr == 9 || ovr == 10)) || (int && ovr == 15)

/-- One row of a read-out: its bytes and the marks of its poisoned elements. -/
def outRow (mk : MkOrigin) (ovr : Nat) (rm : RMode) (va : Nat) (row : List Reg) (s : State) : State × List Byte × List (Nat × Nat) :=
  row.foldl (fun (z : State × List Byte × List (Nat × Nat)) r =>
    let e := outElem ovr rm r.val
    let at' := va + z.2.1.length
    let bs := z.2.1 ++ leBytes e.1 e.2.1
    if r.pois then (z.1, bs, z.2.2 ++ [(r.origin.toNat, at')])
    else if e.2.2 = 0 then (z.1, bs, z.2.2)
    else
      let o := mk z.1 e.2.2 at'
      (o.1, bs, z.2.2 ++ [(o.2.toNat, at')])) (s, [], [])

/-- The writes of a tile's read-out to C rows first and on: keys with bytes, marks, and the first failure's cause and VA. -/
def State.outRows (s : State) (p pg : Nat) (c : IslCmd) (t : AccTile) (d : TDesc) (first : Nat) :
    State × List (Nat × List Byte) × List (Nat × Nat) × Option (Nat × Nat) :=
  let mk := c.newOrigin p pg
  (List.range t.m).foldl (fun (z : State × List (Nat × List Byte) × List (Nat × Nat) × Option (Nat × Nat)) m =>
    let va := d.base + (first + m) * d.stride
    let r := outRow mk d.ovr (rmodeOf c.rm) va ((List.range t.n).map (accAt t.acc m)) z.1
    let ps := r.1.span p c.cw (c.window c.cw) true 8 va r.2.1.length
    let cut := (ps.1.foldl (fun (w : List (Nat × List Byte) × List Byte) x => (w.1 ++ [(x.key, w.2.take x.len)], w.2.drop x.len)) ([], r.2.1)).1
    (r.1, z.2.1 ++ cut, z.2.2.1 ++ r.2.2, z.2.2.2.orElse fun _ => ps.2)) (s, [], [], none)

/-- The writes perform, and poisoned elements are reported in row-major order (R85, R273). -/
def State.outWrite (s : State) (p : Nat) (outs : List (Nat × List Byte)) (marks : List (Nat × Nat)) : State :=
  let s := outs.foldl (fun s w => s.memWrite w.1 w.2) s
  marks.foldl (fun s m => s.reportPoison p (BitVec.ofNat 11 m.1) m.2 true) s

/-- The bytes of a read-out. -/
def outBytes (outs : List (Nat × List Byte)) : Nat := (outs.map (fun w => w.2.length)).sum

end Sys2Proof.Machine
end

