-- ==== Sys2Proof/Machine/Sparse.lean ====
section
/-! DEFINITION. Sys2Proof/Machine/Sparse.lean: sparse tiles and their micro-programs (R282 to R285), the Plaiter cache (R286 to
R290), SPMA and PLCT at the island (R291 to R295), and SCAT (R296, R297). -/

namespace Sys2Proof.Machine

/-! ### Tiles and micro-programs (R282 to R285) -/

/-- The effective weight byte of row r and K index k among a tile's 1,296 bytes (R283). -/
def effWeight (tile : List Byte) (r k : Nat) : Nat :=
  let mask := ofLE ((tile.drop (1152 + 6 * r)).take 6)
  if bitAt mask k then ((tile[48 * r + k]?).getD 0).toNat else 0

/-- The rows whose weight at K index k is not skipped. -/
def keptRows (tile : List Byte) (k : Nat) : List Nat := (List.range 24).filter (fun r => effWeight tile r k != 0)

/-- The micro-ops of one K index (R285). -/
def microOf (tile : List Byte) (k : Nat) : List Word :=
  let rows := keptRows tile k
  let lane := (k % 16) * 65536
  (if rows.isEmpty then [] else word (0x10000000 + lane + k) :: rows.map (fun r => word (0x20000000 + r * 2 ^ 22 + lane + k)))
    ++ (if k = 15 then [word 0x30000000] else if k = 31 then [word 0x30000001] else [])

/-- The micro-program of a tile (R284, R285). -/
def microProgram (tile : List Byte) : List Word := (List.range 48).flatMap (microOf tile) ++ [word 0xF0000002]

/-- The row and K index of a MAC. -/
def macOf (w : Word) : Option (Nat × Nat) := if bits w.toNat 31 28 = 2 then some (bits w.toNat 27 22, bits w.toNat 15 0) else none

/-- The effective weight bytes of a program's MACs. -/
def macWeights (tile : List Byte) (prog : List Word) : List Nat := (prog.filterMap macOf).map (fun m => effWeight tile m.1 m.2)

/-- Z and G of a tile (R283), and whether it is to run dense (R289). -/
def keptWeights (tile : List Byte) : Nat := ((List.range 48).map (fun k => (keptRows tile k).length)).sum
def keptColumns (tile : List Byte) : Nat := ((List.range 48).filter (fun k => !(keptRows tile k).isEmpty)).length
def runsDense (tile : List Byte) : Bool := decide (288 < keptWeights tile) || decide (256 < keptColumns tile + keptWeights tile + 3)

/-! ### The Plaiter cache (R286) -/

/-- The entry used longest ago. -/
def oldest : List PlaitEnt → Option PlaitEnt
  | [] => none
  | e :: es =>
    match oldest es with
    | none => some e
    | some d => if e.last ≤ d.last then some e else some d

/-- Taking an entry for a use (R286); false when every entry of the die is compiling. -/
def State.plaitTake (s : State) (die p pa : Nat) : State × Bool :=
  let fresh : PlaitEnt := { die := die, part := p, pa := pa, last := s.now }
  match s.plaitEnt? die p pa with
  | some _ => (s.modPlait die p pa (fun e => { e with last := s.now }), true)
  | none =>
    let mine := s.plait.filter (fun e => e.die == die)
    if mine.length < 512 then ({ s with plait := s.plait ++ [fresh] }, true)
    else
      match (oldest (mine.filter (fun e => e.st == .none))).orElse fun _ => oldest (mine.filter (fun e => e.st != .compiling)) with
      | none => (s, false)
      | some old => ({ s with plait := s.plait.filter (fun e => e != old) ++ [fresh] }, true)

/-- The status word of an entry (R294). -/
def PlaitEnt.status (e : PlaitEnt) : Nat :=
  let st := match e.st with
    | .none => 0
    | .compiling => 1
    | .program => 2
    | .dense => 3
  st + (if e.st = .program then 4 * e.prog.length else 0) + e.gen * 65536

def State.plaitStatus (s : State) (die p pa : Nat) : Nat := ((s.plaitEnt? die p pa).map PlaitEnt.status).getD 0

/-! ### Checks of SPMA and PLCT (R282, R292, R294) -/

/-- The physical address of a tile. -/
def State.tilePa (s : State) (p : Nat) (c : IslCmd) (base : Nat) : Option Nat :=
  match s.checkAccess p c.bw (c.window c.bw) base 1 {} with
  | .ok (key, _) => if bits (c.window c.bw).attr.toNat 1 0 = 1 then some key else none
  | .error _ => none

/-- The checks on a sparse tile's descriptor (R282, R292), whose page gives nothing but a format where none is named, and nothing where SPMA will refuse
it as a stream: it, its resolved format, and whether 0x0C applies. -/
def State.sparseDesc (s : State) (p : Nat) (c : IslCmd) (off : Nat) (spma : Bool) : Except (Nat × Nat × Nat) (TDesc × Geom × Bool) :=
  match s.readTensor p c c.bw off with
  | .error e => .error (0x01, e.1, e.2)
  | .ok ds =>
    let dram := bits (c.window c.bw).attr.toNat 1 0 == 1
    let bare := spma && ds.isStream
    if ds.rows ≠ 24 || ds.cols ≠ 48 then .error (0x04, 0, ds.va)
    else
      match (if dram && !bare then s.pageOf p c c.bw ds (c.regFmt true) ds.base else .ok (⟨if ds.ovr ≠ 0 then ds.ovr else c.regFmt true, 0, 0⟩, ⟨0, 0, 0⟩)) with
      | .error e => .error (0x02, e.1, e.2)
      | .ok g =>
        if (!rowOk true false g.1 && !(bare && g.1.fmt == 0)) || g.2.blk ≠ 0 then .error (0x05, 0, ds.va)
        else .ok (ds, { g.1 with blk := 0 }, ds.base % 64 != 0 || decide (65536 < ds.base % 65536 + 1296) || !dram)

/-- The checks of SPMA (R292); an accumulation must suit its tile. -/
def State.spmaPlan (s : State) (p : Nat) (c : IslCmd) (tile : Option AccTile) : Except (Nat × Nat × Nat) Mul :=
  match s.sparseDesc p c c.lv true with
  | .error e => .error e
  | .ok (ds, gw, bad) =>
    match s.readTensor p c c.aw c.rv with
    | .error e => .error (0x01, e.1, e.2)
    | .ok da =>
      if da.rows = 0 || 16 < da.rows || da.cols ≠ 48 then .error (0x04, 0, da.va)
      else
        match s.operandGeom p c false da with
        | .error e => .error (0x02, e.1, e.2)
        | .ok ga =>
          let int := intFmt ga.fmt && intFmt gw.fmt && ga.blk == 0
          let m : Mul := {
            aw := c.aw, bw := c.bw, da := da, db := ds, ga := ga, gb := gw, rows := da.rows, cols := 24, k := 48,
            int := int, stream := if da.isStream then some da.chan else none }
          if !rowOk true false ga && !(da.isStream && ga.fmt == 0) then .error (0x05, 0, da.va)
          else if bits c.mode 1 0 ≠ 2 then .error (0x07, 0, da.va)
          else if tile.any (fun t => t.m != m.rows || t.n != 24 || t.int != int) then .error (0x08, 0, da.va)
          else if bad then .error (0x0C, 0, ds.va)
          else if da.badStream || ds.isStream then .error (0x0D, 0, da.va)
          else .ok m

/-! ### Choosing the path (R288) -/

/-- At acceptance the island looks up the tile and decides the path (R288): with no program it runs dense, and where nothing was
held it owes the tile's bytes to the Plaiter. -/
def State.spmaChoose (s : State) (p pg : Nat) (c : IslCmd) : State :=
  match s.spmaPlan p c none with
  | .error _ => s
  | .ok m =>
    match s.tilePa p c m.db.base with
    | none => s
    | some pa =>
      let die := pg / 256
      let z := s.plaitTake die p pa
      let s := z.1
      match s.plaitEnt? die p pa with
      | none => s
      | some e =>
        match e.st with
        | .program => s.modCmd p pg c.fid (fun c => { c with dense := false, prog := e.prog, wts := e.wts })
        | .none => (s.modPlait die p pa (fun e => { e with st := .compiling })).modCmd p pg c.fid (fun c => { c with owes := true, chunk := pa, group := e.gen })
        | _ => s

/-- The bytes of a tile reach the Plaiter after Tt (R288, R295). -/
def State.sendTile (s : State) (p pg : Nat) (c : IslCmd) (after : Nat) : State :=
  s.sched (s.now + after) (srcOf pg 0) .plaiterCompileDone { p := p, pg := pg, x := pg / 256, y := c.chunk, z := 0, l := [c.group] }

/-- PLAITER_COMPILE_DONE (R285, R287 to R289, R294): the tile's bytes arrive and the compile starts (z = 0); it ends (z = 1); or it was
discarded (z = 2). The PREPs that waited take the entry's status. -/
def execPlaiterCompileDone (s : State) : Out :=
  let p := s.arg.p
  let die := s.arg.x
  let pa := s.arg.y
  let gen := (s.arg.l[0]?).getD 0
  let tile := Mem.bytes s.mem pa 1296
  .next (match s.plaitEnt? die p pa with
    | none => s
    | some e =>
      if s.arg.z ≠ 2 && (e.st != .compiling || e.gen != gen) then s
      else if s.arg.z = 0 then
        let prog := microProgram tile
        let n := if runsDense tile then 16 else 16 + prog.length
        let s := s.modPlait die p pa (fun e => if runsDense tile then { e with prog := [], wts := [] } else { e with prog := prog, wts := macWeights tile prog })
        s.sched (s.now + n) 0 .plaiterCompileDone { s.arg with z := 1 }
      else
        let s := s.modPlait die p pa (fun e => { e with
          st := if s.arg.z = 2 then e.st else if e.prog.isEmpty then .dense else .program, waiters := [] })
        let v := s.plaitStatus die p pa
        e.waiters.foldl (fun s w =>
          match (s.isl p w.1).cmd? w.2 with
          | none => s
          | some c => s.islDone p w.1 c v (if c.owes then 4 else max c.hops (c.kLen - s.now - c.hops))) s)

/-! ### SPMA -/

/-- Is an activation row non-finite or poisoned (R290)? -/
def flagged (rows : List RawRow) (els : List (List El)) : Bool :=
  els.any (fun r => r.any (fun x => x.pois.isSome))
    || rows.any (fun r =>
      let n := ofLE (r.bytes.drop (prefixBytes r.g 48))
      (List.range 48).any (fun i => match (elemNum r.g.fmt n i).1 with
        | .fin _ _ _ => false
        | _ => true))

/-- The activation rows of a command: the state, the rows, the first failure and the elements read whole. -/
def State.actRows (s : State) (p : Nat) (c : IslCmd) (m : Mul) : List RawRow × Option (Nat × Nat) × Nat :=
  if m.stream.isSome then (c.streamRows m, none, 48) else s.memRows p c false m.aw m.da (rowOk true m.int) 48 0 m.rows

/-- The pieces of a tile, and the first failure of its read. -/
def State.tileSpan (s : State) (p : Nat) (c : IslCmd) (base : Nat) : List Piece × Option (Nat × Nat) :=
  s.span p c.bw (c.window c.bw) false 8 base 1296

/-- When the rows stand ready, which the command keeps, the path is final (R288, R290), and its time follows (R295). The Plaiter gets the tile
where it can be read. -/
def State.spmaGo (s : State) (p pg : Nat) (c : IslCmd) (m : Mul) : State :=
  let rows := s.actRows p c m
  let els := (decodeRows (fun s _ _ => (s, 0)) 48 0 48 rows.1 s).2
  let dense := c.dense || flagged rows.1 els
  let tA := if m.stream.isSome then 0 else s.readTime p pg c m.aw m.da.base
  let tt := s.readTime p pg c m.bw m.db.base + 11
  let s := if c.owes then (if (s.tileSpan p c m.db.base).2.isNone then s.sendTile p pg c tt else s.spmaForgive p pg c) else s
  let len := if dense then 1 else cdiv c.prog.length 8
  let s := s.modCmd p pg c.fid (fun c => { c with
    dense := dense, owes := false, kAt := s.now + tA + (if dense then tt else 0), kLen := len, acts := some rows })
  s.islNext p pg c (if dense then tt + tA + len + 4 else tA + len + 4) 1

/-- The products that an element takes in, in a group of the dense or of the program path (R291, R292). -/
def spmaTerms (c : IslCmd) (gw : Geom) (tile : List Byte) (els : List (List El)) (g m r : Nat) : List (El × El) :=
  let a := (els[m]?).getD []
  let pair (k w : Nat) : El × El := ((a[k]?).getD ⟨.fin false 0 0, none⟩, ⟨(elemNum gw.fmt w 0).1, none⟩)
  if c.dense then (List.range 16).map (fun i => pair (16 * g + i) (effWeight tile r (16 * g + i)))
  else ((c.prog.filterMap macOf).zip c.wts).filterMap (fun z => if z.1.1 = r ∧ z.1.2 / 16 = g then some (pair z.1.2 z.2) else none)

/-- The groups of an SPMA from the K element it has reached up to k1 (R291, R293), into its tile; or the failure of its reads. -/
def State.spmaSums (s : State) (p pg : Nat) (c : IslCmd) (m : Mul) (k1 : Nat) : State × Option (Nat × Nat) :=
  let rows := c.acts.getD (s.actRows p c m)
  let ws := if c.dense then s.tileSpan p c m.db.base else ([], none)
  match rows.2.1.orElse fun _ => ws.2 with
  | some e => (s, some e)
  | none =>
    let mk := c.newOrigin p pg
    let els := decodeRows mk 48 0 48 rows.1 s
    let tile := s.pieceBytes ws.1
    let va (i : Nat) : Nat := ((rows.1[i]?).bind RawRow.va).getD 0
    let t := (s.isl p pg).tileAt c.tile
    let g0 := c.k / 16
    let r := (List.range (k1 / 16 - g0)).foldl (fun z i =>
      groupAll mk m.int (bitAt c.mode 4) va (spmaTerms c m.gb tile els.2 (g0 + i)) m.rows 24 z) (els.1, fullAcc t.acc)
    (r.1.modTile p pg c.tile (fun t => { t with acc := r.2 }), none)

/-- SPMA computes (R291 to R293): its tile is FULL, its progress word 0, and its use counted. -/
def State.spmaRun (s : State) (p pg : Nat) (c : IslCmd) (m : Mul) : State :=
  let z := s.spmaSums p pg c m 48
  match z.2 with
  | some e => z.1.islStop p pg c 0x02 e.1 e.2
  | none =>
    let s := (z.1.modTile p pg c.tile (fun t => { t with st := .full })).memWrite m.da.pkey (leBytes 8 0)
    let s := if c.dense then s.bumpCsr p 0x0D0 31 16 else s.bumpCsr p 0x0D0 15 0
    s.islDone p pg c (if c.dense then 1 else 0) 0

/-! ### PLCT (R294, R295) -/

/-- A PLCT acts on the entry of its tile. -/
def State.plctAct (s : State) (p pg : Nat) (c : IslCmd) : State :=
  match s.sparseDesc p c c.lv false with
  | .error e => s.islFail p pg c e.1 e.2.1 e.2.2
  | .ok (ds, _, bad) =>
    match s.tilePa p c ds.base with
    | none => s.islFail p pg c 0x0C 0 ds.va
    | some pa =>
      if bad then s.islFail p pg c 0x0C 0 ds.va
      else match (if c.x = 0 then (s.tileSpan p c ds.base).2 else none) with
      | some e => s.islFail p pg c 0x02 e.1 e.2
      | none =>
        let die := pg / 256
        let td := s.readTime p pg c c.bw (c.window c.bw).base.toNat
        let z := s.plaitTake die p pa
        let s := z.1
        let least := c.here + c.hops + td + 4
        let wait (s : State) : State :=
          (s.modPlait die p pa (fun e => { e with waiters := e.waiters ++ [(pg, c.fid)] })).modCmd p pg c.fid (fun c => { c with kLen := least })
        match c.x, s.plaitEnt? die p pa with
        | 1, some e =>
          let s := if e.waiters.isEmpty then s else s.sched s.now 0 .plaiterCompileDone { p := p, x := die, y := pa, z := 2 }
          let s := s.modPlait die p pa (fun e => { e with st := .none, gen := (e.gen + 1) % 65536, prog := [], wts := [] })
          s.islDone p pg c (s.plaitStatus die p pa) 4
        | 0, some e =>
          match e.st with
          | .none =>
            let s := wait (s.modPlait die p pa (fun e => { e with st := .compiling }))
            let s := s.modCmd p pg c.fid (fun c => { c with owes := true })
            s.sendTile p pg { c with chunk := pa, group := e.gen } (td + 11)
          | .compiling => wait s
          | _ => s.islDone p pg c e.status 4
        | _, _ => s.islDone p pg c (s.plaitStatus die p pa) 4

/-! ### SCAT (R296, R297) -/

/-- SCAT sets out for the tile that owns its word. -/
def State.scatSend (s : State) (p pg : Nat) (f : Fire) : State :=
  let fa := (valOf (f.l.map Arr.tok)).toNat
  s.sched (s.now + (s.loadLegs p pg f.tile 2 fa 0).1) (srcOf pg f.tile) .scatApply { p := p, pg := pg, id := f.id, fid := f.fid, tag := f.tag }

/-- SCAT fires (R296). -/
def State.scat (s : State) (pr : BitVec 2) (t1 t0 : Target) : State :=
  s.frame pr 1 t1 t0 fun s =>
    let fa := s.lv.toNat
    match (s.part s.cur.p).fabKey fa with
    | none => s.trap 0x02 (1024 + 256) fa
    | some _ =>
      if fa % 4 ≠ 0 then s.trap 0x04 4 fa
      else
        let a := s.curAct
        let s := s.flush s.cur.p s.cur.id
        let s := s.modFire s.cur.p s.cur.pg s.cur.fid (fun f => { f with phase := .engine, wins := a.wins, blk := a.blk, gen := a.gen })
        match (s.page s.cur.p s.cur.pg).fire? s.cur.fid with
        | some f => s.scatSend s.cur.p s.cur.pg f
        | none => s

def execScatAdd (pr : BitVec 2) (t1 t0 : Target) (s : State) : Out := .next (s.scat pr t1 t0)
def execScatFadd (pr : BitVec 2) (t1 t0 : Target) (s : State) : Out := .next (s.scat pr t1 t0)
def execScatMax (pr : BitVec 2) (t1 t0 : Target) (s : State) : Out := .next (s.scat pr t1 t0)
def execScatMin (pr : BitVec 2) (t1 t0 : Target) (s : State) : Out := .next (s.scat pr t1 t0)
def execScatOr (pr : BitVec 2) (t1 t0 : Target) (s : State) : Out := .next (s.scat pr t1 t0)

/-- The new value of a SCAT form and the kind of its event (R296). -/
def scatNew (x : Nat) (v r : Word) : Word × Nat :=
  match x with
  | 0 => (v + r, 0)
  | 1 => let z := addNum .rne (decodeF fp32 v.toNat) (decodeF fp32 r.toNat); (word z.1, z.2)
  | 2 => (if v.slt r then r else v, 0)
  | 3 => (if r.slt v then r else v, 0)
  | _ => (v ||| r, 0)

/-- SCAT_APPLY (R205, R214, R245, R296): the owning tile reads the word and writes its new value at once; the old value returns. A
re-issued one (z = 1) first travels. -/
def execScatApply (s : State) : Out :=
  let p := s.arg.p
  let pg := s.arg.pg
  .next (match (s.page p pg).fire? s.arg.fid with
    | none => s
    | some f =>
      let l := valOf (f.l.map Arr.tok)
      let r := valOf (f.r.map Arr.tok)
      if f.phase != .engine || f.acted then s
      else if s.arg.z = 1 then s.scatSend p pg f
      else
        match (s.part p).fabKey l.toNat with
        | none => s.engineTrap p pg f.id f.strand f.tile f.tag f.word f.blk f.gen 0x02 (1024 + 256) l.toNat
        | some key =>
          let v := word (Mem.num s.mem key 4)
          let n := scatNew (xF f.word).toNat v r
          let s := { s with mem := Mem.sets s.mem key (leBytes 4 n.1.toNat) }
          let s := match origOf (f.r.map Arr.tok) with
            | some o => s.reportPoison p o l.toNat true
            | none =>
              if n.2 = 0 then s
              else match (curOf p pg f).firstOrigin with
              | some o => s.reportPoison p o l.toNat true
              | none =>
                let z := s.newOrigin p pg f.tile f.tag f.gen n.2 (opF f.word).toNat (xF f.word).toNat 0
                z.1.reportPoison p z.2 l.toNat true
          let back := (s.loadLegs p pg f.tile 2 l.toNat 0).2
          s.engineAnswer p pg f.fid (s.now + back) (withPoison (tokV v) (curOf p pg f).firstOrigin))

end Sys2Proof.Machine
end

