-- ==== Sys2Proof/Machine/Island.lean ====
section
/-! DEFINITION. Sys2Proof/Machine/Island.lean: the matrix island at work: commands and their acceptance (R261 to R264), MMA in its
three forms (R268 to R272), MMRD (R273), SPMA and PLCT as commands, stream tokens (R271), group completions, and the stopping of
commands at a freeze (R274). -/

namespace Sys2Proof.Machine

/-! ### Sending commands (R262) -/

/-- The command that a firing sends, reaching its island at an fclk. -/
def cmdOf (f : Fire) (here : Nat) : IslCmd where
  ch := islChannel (opF f.word).toNat (xF f.word).toNat
  fid := f.fid
  id := f.id
  strand := f.strand
  slot := f.tile
  tag := f.tag
  word := f.word
  lv := (valOf (f.l.map Arr.tok)).toNat
  rv := (valOf (f.r.map Arr.tok)).toNat
  wins := f.wins
  blk := f.blk
  gen := f.gen
  rm := (f.aux[0]?).getD 0
  here := here

/-- A firing's command sets out, and reaches the island no sooner than the earlier commands of its channel. -/
def State.islSend (s : State) (p pg fid : Nat) : State :=
  match (s.page p pg).fire? fid with
  | none => s
  | some f =>
    let ch := islChannel (opF f.word).toNat (xF f.word).toNat
    let here := (s.isl p pg).cmds.foldl (fun t c => if c.ch == ch then max t c.here else t) (s.now + f.tile / 8 + 1)
    (s.modIsl p pg (fun z => { z with cmds := z.cmds ++ [cmdOf f here] })).sched here (srcOf pg f.tile) .islandAccept { p := p, pg := pg }

/-- An island instruction fires (R17, R262), its strand's committed stores being visible to what it reads (R235). -/
def State.island (s : State) (pr : BitVec 2) (t1 t0 : Target) : State :=
  s.frame pr 1 t1 t0 fun s =>
    let c := s.cur
    let a := s.curAct
    let s := s.flush c.p c.id
    let s := s.modFire c.p c.pg c.fid (fun f => { f with phase := .engine, wins := a.wins, blk := a.blk, gen := a.gen, aux := [hdrRM a.hdr] })
    s.islSend c.p c.pg c.fid

def execMmcfg (pr : BitVec 2) (_reg : BitVec 2) (t1 t0 : Target) (s : State) : Out := .next (s.island pr t1 t0)
def execMmaOvw (pr : BitVec 2) (_acc : BitVec 2) (t1 t0 : Target) (s : State) : Out := .next (s.island pr t1 t0)
def execMmaAcc (pr : BitVec 2) (_acc : BitVec 2) (t1 t0 : Target) (s : State) : Out := .next (s.island pr t1 t0)
def execMmaGrp (pr : BitVec 2) (_acc : BitVec 2) (t1 t0 : Target) (s : State) : Out := .next (s.island pr t1 t0)
def execMmrd (pr : BitVec 2) (_acc : BitVec 2) (t1 t0 : Target) (s : State) : Out := .next (s.island pr t1 t0)
def execSpmaOvw (pr : BitVec 2) (_acc : BitVec 2) (t1 t0 : Target) (s : State) : Out := .next (s.island pr t1 t0)
def execSpmaAcc (pr : BitVec 2) (_acc : BitVec 2) (t1 t0 : Target) (s : State) : Out := .next (s.island pr t1 t0)
def execPlctPrep (pr : BitVec 2) (t1 t0 : Target) (s : State) : Out := .next (s.island pr t1 t0)
def execPlctInval (pr : BitVec 2) (t1 t0 : Target) (s : State) : Out := .next (s.island pr t1 t0)
def execPlctQuery (pr : BitVec 2) (t1 t0 : Target) (s : State) : Out := .next (s.island pr t1 t0)

/-! ### MMCFG (R264) -/

/-- The defined bits of MODE, FMT and WIN. -/
def islMask (reg : Nat) : Nat :=
  match reg with
  | 0 => 0x1F
  | 1 => 0x1F1F
  | _ => 0x7777

/-- Does a register hold a non-zero reserved field or a reserved code? -/
def islReserved (reg v : Nat) : Bool :=
  Nat.land v (0xFFFFFFFF - islMask reg) != 0
    || (reg == 0 && (bits v 1 0 == 3 || bits v 3 2 == 3))
    || (reg == 1 && (decide (16 ≤ bits v 4 0) || decide (16 ≤ bits v 12 8)))

/-- A register of the island. -/
def Island.reg (z : Island) (n : Nat) : Nat :=
  match n with
  | 0 => z.mode
  | 1 => z.fmt
  | _ => z.win

/-- A register set: a write of MODE drops the resident operand. -/
def Island.setReg (z : Island) (n v : Nat) : Island :=
  match n with
  | 0 => { z with mode := v, resident := none }
  | 1 => { z with fmt := v }
  | _ => { z with win := v }

/-- MMCFG acts. -/
def State.mmcfgAct (s : State) (p pg : Nat) (c : IslCmd) : State :=
  let old := (s.isl p pg).reg c.x
  let v := Nat.lor (Nat.land old (0xFFFFFFFF - c.rv)) (Nat.land c.lv c.rv)
  if islReserved c.x v then s.islFail p pg c 0x0A 0 0
  else (s.modIsl p pg (fun z => z.setReg c.x v)).islDone p pg c 0 2

/-! ### Acceptance (R261 to R263) -/

/-- Has a command reached its island, and does it wait there? -/
def IslCmd.waitsAt (c : IslCmd) (now : Nat) : Bool := !c.accepted && !c.stopped && decide (c.here ≤ now)

/-- The stopped command that a command goes on with (R263). -/
def Island.stoppedOf (z : Island) (c : IslCmd) : Option IslCmd :=
  z.cmds.find? (fun d => d.stopped && d.id == c.id && d.strand == c.strand && d.slot == c.slot && d.tag == c.tag && d.word == c.word)

/-- May a waiting command be accepted: it goes on with a stopped one, or its tile is in the state that it requires? -/
def Island.mayTake (z : Island) (now : Nat) (c : IslCmd) : Bool :=
  c.waitsAt now && ((z.stoppedOf c).isSome || (match c.needs with
    | none => true
    | some st => (z.tileAt c.tile).st == st))

/-- The next command to consider (R262, R263): of the lowest channel, the oldest that may be accepted or that is not of the instance that
claims the island. -/
def Island.nextTake (z : Island) (now : Nat) : Option IslCmd :=
  [0, 1, 2, 3].findSome? (fun ch => z.cmds.find? (fun c => c.ch == ch && c.waitsAt now && (z.owner != some c.id || z.mayTake now c)))

/-- The array takes the oldest accepted command that it has not yet served (R275). -/
def State.islServe (s : State) (p pg : Nat) : State :=
  let z := s.isl p pg
  match z.serving, z.cmds.find? (fun c => c.accepted && !c.stopped && c.array && c.start.isNone) with
  | none, some c =>
    let td := match c.op with
      | 0x61 => if c.x % 4 = 2 then (if c.rv = 0 then 0 else s.readTime p pg c c.gw ((c.window c.gw).base.toNat + c.lv))
        else max (s.readTime p pg c c.aw ((c.window c.aw).base.toNat + c.lv)) (s.readTime p pg c c.bw ((c.window c.bw).base.toNat + c.rv))
      | 0x62 => s.readTime p pg c c.cw ((c.window c.cw).base.toNat + c.lv)
      | _ => max (s.readTime p pg c c.aw ((c.window c.aw).base.toNat + c.rv)) (s.readTime p pg c c.bw ((c.window c.bw).base.toNat + c.lv))
    let s := s.modIsl p pg (fun z => { z with serving := some c.fid })
    (s.modCmd p pg c.fid (fun c => { c with start := some s.now })).islNext p pg c td 0
  | _, _ => s

/-- A command is accepted: its tile is BUSY, it keeps the registers as they stand, and its wait is counted. -/
def State.islTake (s : State) (p pg : Nat) (c : IslCmd) : State :=
  let z := s.isl p pg
  let old := z.stoppedOf c
  let d : IslCmd := { c with
    accepted := true, mode := z.mode, fmt := z.fmt, win := z.win
    found := match old with
      | some o => o.found
      | none => (z.tileAt c.tile).st
    fresh := (old.map IslCmd.fresh).getD false
    resume := old.isSome
    rows := (old.map IslCmd.rows).getD [] }
  let s := s.modIsl p pg (fun z => { z with cmds := z.cmds.filter (fun e => e.fid != c.fid && some e != old) ++ [d] })
  let s := if d.array then s.modTile p pg d.tile (fun t => { t with st := .busy }) else s
  let s := if c.here < s.now then
      s.modPage p pg (fun y => y.modHist c.slot (fun h =>
        let b := min (bitLen (s.now - c.here)) 7
        { h with buckets := h.buckets.set b (sat32 ((h.buckets[b]?).getD 0)) }))
    else s
  let s := s.wake p pg
  match c.op with
  | 0x60 => s.mmcfgAct p pg d
  | 0x64 => s.islNext p pg d (s.readTime p pg d d.bw ((d.window d.bw).base.toNat + d.lv)) 0
  | 0x63 => s.spmaChoose p pg d
  | _ => s

/-- Commands that have reached an island: one of another instance is refused, the first claims it, and those whose requirements hold
are accepted. -/
def State.islAccept (s : State) (p pg : Nat) : Nat → State
  | 0 => s
  | n + 1 =>
    let z := s.isl p pg
    match z.nextTake s.now with
    | none => s
    | some c =>
      if z.owner == some c.id then (s.islTake p pg c).islAccept p pg n
      else if z.owner.isNone then (s.modIsl p pg (fun z => { z with owner := some c.id })).islAccept p pg n
      else
        let s := (s.modIsl p pg (fun z => { z with cmds := z.cmds.filter (fun d => d.fid != c.fid) })).wake p pg
        (s.islTrap p pg c 0x0E 0x0B00 0).islAccept p pg n

/-- ISLAND_ACCEPT (R261 to R263): an island accepts commands and its array takes the next one. A re-issued command (z = 1) first
travels to it. -/
def execIslandAccept (s : State) : Out :=
  let p := s.arg.p
  let pg := s.arg.pg
  .next (if s.arg.z = 1 then s.islSend p pg s.arg.fid
    else (s.islAccept p pg ((s.isl p pg).cmds.length * 2 + 1)).islServe p pg)

/-! ### MMA overwrite and accumulate (R268) -/

/-- The K elements that a multiplication has done by now, in whole K steps, or in units of 16 for SPMA (R274, R293, log 23). -/
def IslCmd.stepsDone (c : IslCmd) (m : Mul) (now : Nat) : Nat :=
  let step := if c.op = 0x63 then 16 else min (perStep m.ga.fmt) (perStep m.gb.fmt)
  let n := cdiv (m.k - c.k) step
  if now < c.kAt then c.k else min m.k (c.k + step * min n ((now - c.kAt) * n / max c.kLen 1 + 1))

/-- A command takes tokens of its stream while it needs them (R271): the oldest accepted command of a channel first. -/
def State.takeStream (s : State) (p pg fid : Nat) : Nat → State
  | 0 => s
  | n + 1 =>
    let z := s.isl p pg
    match z.cmd? fid with
    | none => s
    | some c =>
      match c.chan, z.cmds.find? (fun d => d.chan == c.chan && decide (d.rows.length < d.need)) with
      | some j, some d =>
        if d.fid != fid then s
        else
          match z.streams.find? (fun t => t.1 == j) with
          | none => s
          | some t =>
            let s := s.modIsl p pg (fun z => { z with streams := z.streams.erase t })
            ((s.modCmd p pg fid (fun c => { c with rows := c.rows ++ [t.2] })).wake p pg).takeStream p pg fid n
      | _, _ => s

/-- What follows once a command has its plan: its stream's tokens first, then its K steps. -/
def State.islFeed (s : State) (p pg fid : Nat) : State :=
  let s := s.takeStream p pg fid ((((s.isl p pg).cmd? fid).map (fun c => c.need)).getD 0)
  match (s.isl p pg).cmd? fid with
  | none => s
  | some c =>
    match c.mul with
    | none => s
    | some m =>
      if c.rows.length < c.need then s
      else if c.op = 0x63 then s.spmaGo p pg c m
      else
        let t := s.mulTime p pg c m c.chunk c.k
        let s := s.modCmd p pg fid (fun c => { c with kAt := s.now + t.1, kLen := t.2 })
        if c.x % 4 = 2 then s.islNext p pg c (t.1 + t.2 + cdiv (m.chunkRows c.chunk * m.cols * outSize ((c.cdesc.map TDesc.ovr).getD 0)) 128 + 56) 6
        else s.islNext p pg c (t.1 + t.2 + 4) 1

/-- A plan's start: the tile is set up unless the command goes on from its progress word, and tokens are asked for. A word that the island
itself wrote before the set-up sends nobody past it. -/
def State.islBegin (s : State) (p pg : Nat) (c : IslCmd) (m : Mul) (ovw : Bool) (prog : Nat) : State :=
  let v := bitAt prog 63 && !(c.fresh && prog % 2 ^ 63 == 0)
  let k := if v then min (bits prog 31 0) m.k else 0
  let s := s.modTile p pg c.tile (fun t => if ovw && !v then t.init m.rows m.cols m.int else { t with m := m.rows, n := m.cols, int := m.int })
  s.modCmd p pg c.fid (fun c => { c with
    begun := true, fresh := false, resume := bitAt prog 63, k := k, mul := some m, pkey := m.da.pkey, chan := m.stream
    need := if m.stream.isSome then m.perRow * m.rows else 0 })

/-- The progress word of a command and its key, where it can be read and written: in A's descriptor, or in its group list's header. -/
def State.progressOf (s : State) (p : Nat) (c : IslCmd) : Option (Nat × Nat) :=
  match c.op, c.x % 4 with
  | 0x61, 2 =>
    if c.rv = 0 ∨ 65535 < c.rv then none
    else
      match s.read32 p c c.gw c.lv with
      | .error _ => none
      | .ok (n, va, key) => if (s.mayProgress p c c.gw va).isSome then none else some (fieldAt n 0 8, key)
  | 0x61, _ => ((s.readTensor p c c.aw c.lv).toOption).map (fun d => (d.prog, d.pkey))
  | 0x63, _ => ((s.readTensor p c c.aw c.rv).toOption).map (fun d => (d.prog, d.pkey))
  | _, _ => none

/-- A command that stops before its plan has begun (R274): it writes a word of no progress, unless one with V = 1 stands already, from which
it will go on. -/
def State.withProgress (s : State) (p : Nat) (c : IslCmd) : IslCmd :=
  if c.begun then c
  else
    match s.progressOf p c with
    | none => c
    | some (w, key) => if bitAt w 63 then c else { c with begun := true, fresh := true, pkey := key, k := 0 }

/-- A plan that fails: operand rows stop the command (0x02, with its progress written where the command has a word),
everything else returns its tile. -/
def State.islRefuse (s : State) (p pg : Nat) (c : IslCmd) (e : Nat × Nat × Nat) : State :=
  let s := s.spmaForgive p pg c
  if e.1 = 0x02 then s.islStop p pg (s.withProgress p c) e.1 e.2.1 e.2.2 else s.islFail p pg c e.1 e.2.1 e.2.2

/-- MMA reads its descriptors. -/
def State.mmaPlan (s : State) (p pg : Nat) (c : IslCmd) : State :=
  let acc := c.x % 4 = 1
  match s.mulPlan p c c.lv c.rv none (if acc then some ((s.isl p pg).tileAt c.tile) else none) with
  | .error e => s.islRefuse p pg c e
  | .ok m => (s.islBegin p pg c m (!acc) m.da.prog).islFeed p pg c.fid

/-- MMA computes its K steps, clears its progress word where it resumed, and leaves its tile FULL. -/
def State.mmaRun (s : State) (p pg : Nat) (c : IslCmd) (m : Mul) : State :=
  let z := s.mulRun p pg c m m.k
  match z.2.2 with
  | some e => z.1.islStop p pg { c with k := z.2.1 } 0x02 e.1 e.2
  | none =>
    let s := if c.resume then z.1.memWrite c.pkey (leBytes 8 0) else z.1
    (s.modTile p pg c.tile (fun t => { t with st := .full })).islDone p pg c 0 0

/-- SPMA reads its descriptors. -/
def State.spmaStart (s : State) (p pg : Nat) (c : IslCmd) : State :=
  let acc := c.x % 4 = 1
  match s.spmaPlan p c (if acc then some ((s.isl p pg).tileAt c.tile) else none) with
  | .error e => s.islRefuse p pg c e
  | .ok m =>
    let s := s.islBegin p pg c m (!acc) m.da.prog
    let s := s.modCmd p pg c.fid (fun c => { c with k := c.k / 16 * 16, dense := c.dense || bitAt m.da.prog 63 })
    s.islFeed p pg c.fid

/-! ### MMRD (R273) -/

/-- The checks of a read-out and its writes: a failed check, a POISONSTORE, a fault of its writes, or what it writes. -/
inductive ReadOut where
  | refuse
  | poison (o va : Nat)
  | fault (cause va : Nat)
  | writes (outs : List (Nat × List Byte)) (marks : List (Nat × Nat))
  deriving DecidableEq, Repr

/-- A tile read out to C rows first and on. -/
def State.readOut (s : State) (p pg : Nat) (c : IslCmd) (d : TDesc) (first : Nat) : State × ReadOut :=
  let t := (s.isl p pg).tileAt c.tile
  if !outOk d.ovr t.int || d.rows < first + t.m || d.cols < t.n then (s, .refuse)
  else
    let z := s.outRows p pg c t d first
    match z.2.2.1, z.2.2.2 with
    | (o, va) :: _, f => if bitAt (c.window c.cw).attr.toNat 4 then (z.1, .poison o va) else match f with
      | some e => (z.1, .fault e.1 e.2)
      | none => (z.1, .writes z.2.1 z.2.2.1)
    | [], some e => (z.1, .fault e.1 e.2)
    | [], none => (z.1, .writes z.2.1 [])

/-- A POISONSTORE trap before any write; the tile stays FULL (R273). -/
def State.islPoison (s : State) (p pg : Nat) (c : IslCmd) (o va : Nat) : State :=
  ((s.modTile p pg c.tile (fun t => { t with st := c.found })).islDrop p pg c).islTrap p pg c 0x08 o va

/-- MMRD reads its descriptor and checks its writes. -/
def State.mmrdPlan (s : State) (p pg : Nat) (c : IslCmd) : State :=
  match s.readTensor p c c.cw c.lv with
  | .error e => s.islFail p pg c 0x01 e.1 e.2
  | .ok d =>
    let z := s.readOut p pg c d 0
    match z.2 with
    | .refuse => z.1.islFail p pg c 0x09 0 d.va
    | .poison o va => z.1.islPoison p pg c o va
    | .fault e va => z.1.islStop p pg c 0x03 e va
    | .writes outs marks => (z.1.modCmd p pg c.fid (fun c => { c with outs := outs, marks := marks })).islNext p pg c (cdiv (outBytes outs) 128) 3

/-- The tile has been read and is EMPTY; the writes are on their way. -/
def State.mmrdEmpty (s : State) (p pg : Nat) (c : IslCmd) : State :=
  let s := s.modTile p pg c.tile (fun t => { t with st := .empty })
  let s := s.modFire p pg c.fid (fun f => { f with acted := true })
  let s := s.modIsl p pg (fun z => { z with serving := if z.serving = some c.fid then none else z.serving })
  (s.islNext p pg c 48 7).islLook p pg

/-! ### MMA.GRP (R272) -/

/-- An engine's own AMO on a WORD object (R243, R245): the state with its new value, or the trap's code, detail and VA. -/
def State.postWord (s : State) (p h : Nat) (f : Word → Word) : Except (Nat × Nat × Nat) State :=
  let x := s.part p
  if !x.handleOk h then .error (0x0C, 1, h)
  else
    match s.objFault p h with
    | some e => .error e
    | none =>
      let o := s.obj p h
      let put (v : Word) : State := (s.setObj p { o with st := .word v }).wordChanged p h v.toNat
      match o.st with
      | .free => .ok (put (f 0))
      | .word v => .ok (put (f v))
      | _ => .error (0x0C, 2, h)

/-- A completion: AMO.ADD of 1 on a handle. -/
def State.postAdd (s : State) (p h : Nat) : Except (Nat × Nat × Nat) State := s.postWord p h (· + 1)

/-- MMA.GRP reads its list's header, where it resumes from. -/
def State.grpPlan (s : State) (p pg : Nat) (c : IslCmd) : State :=
  let empty (s : State) : State := s.modTile p pg c.tile (fun t => { t with st := .empty })
  if 65535 < c.rv then s.islFail p pg c 0x04 0 ((c.window c.gw).base.toNat + c.lv)
  else if c.rv = 0 then (empty s).islDone p pg c 0 0
  else
    match s.read32 p c c.gw c.lv with
    | .error e => s.islFail p pg c 0x01 e.1 e.2
    | .ok (n, va, key) =>
      match s.mayProgress p c c.gw va with
      | some e => s.islFail p pg c 0x01 e.1 e.2
      | none =>
        let w := fieldAt n 0 8
        let v := bitAt w 63
        let s := s.modCmd p pg c.fid (fun c => { c with
          begun := true, resume := v, pkey := key, group := if v then bits w 47 32 else 0, chunk := if v then bits w 62 48 else 0
          k := if v then bits w 31 0 else 0 })
        s.islNext p pg c 0 4

/-- The entry of a command's current group: A, B and C offsets, handle and M. -/
def State.grpEntry (s : State) (p : Nat) (c : IslCmd) : Except (Nat × Nat) (Nat × Nat × Nat × Nat × Nat) :=
  match s.read32 p c c.gw (c.lv + 32 + 32 * c.group) with
  | .error e => .error e
  | .ok (n, _, _) => .ok (fieldAt n 0 4, fieldAt n 4 4, fieldAt n 8 4, fieldAt n 12 4, fieldAt n 16 4)

/-- A group is finished but for its completion. -/
def State.grpComplete (s : State) (p pg : Nat) (c : IslCmd) (h : Nat) : State :=
  s.sched s.now (srcOf pg c.slot) .groupCompletion { p := p, pg := pg, id := c.id, fid := c.fid, x := h }

/-- The next group of a list, or its end. -/
def State.grpNext (s : State) (p pg : Nat) (c : IslCmd) : State :=
  if c.rv ≤ c.group then
    let s := if c.resume then s.memWrite c.pkey (leBytes 8 0) else s
    (s.modTile p pg c.tile (fun t => { t with st := .empty })).islDone p pg c 0 0
  else
    match s.grpEntry p c with
    | .error e => s.islFail p pg c 0x01 e.1 e.2
    | .ok (a, _, _, h, rows) =>
      if rows = 0 || cdiv rows 16 ≤ c.chunk then s.sched (s.now + 8) (srcOf pg c.slot) .groupCompletion { p := p, pg := pg, id := c.id, fid := c.fid, x := h }
      else if 65535 < rows then s.islFail p pg c 0x04 0 ((c.window c.gw).base.toNat + c.lv + 32 + 32 * c.group)
      else s.islNext p pg c (3 * s.readTime p pg c c.aw ((c.window c.aw).base.toNat + a) + 24) 5

/-- A chunk begins: its tile is set up unless its sums stand in it. -/
def State.grpChunk (s : State) (p pg : Nat) (c : IslCmd) (m : Mul) : State :=
  let n := m.chunkRows c.chunk
  let s := s.modTile p pg c.tile (fun t => if c.k = 0 then t.init n m.cols m.int else { t with m := n, n := m.cols, int := m.int })
  let s := s.modCmd p pg c.fid (fun c => { c with
    mul := some m, chan := m.stream, need := if m.stream.isSome then m.perRow * n else 0 })
  s.islFeed p pg c.fid

/-- A group's descriptors have been read. -/
def State.grpGroup (s : State) (p pg : Nat) (c : IslCmd) : State :=
  match s.grpEntry p c with
  | .error e => s.islFail p pg c 0x01 e.1 e.2
  | .ok (a, b, cOff, _, rows) =>
    match s.mulPlan p c a b (some rows) none with
    | .error e => s.islRefuse p pg c e
    | .ok m =>
      match s.readTensor p c c.cw cOff with
      | .error e => s.islFail p pg c 0x01 e.1 e.2
      | .ok d =>
        if !outOk d.ovr m.int || d.rows < m.rows || d.cols < m.cols then s.islFail p pg c 0x09 0 d.va
        else (s.modCmd p pg c.fid (fun c => { c with cdesc := some d })).grpChunk p pg { c with cdesc := some d } m

/-- A chunk is computed and written. -/
def State.grpRun (s : State) (p pg : Nat) (c : IslCmd) (m : Mul) (d : TDesc) : State :=
  let z := s.mulRun p pg c m m.k
  match z.2.2 with
  | some e => z.1.islStop p pg { c with k := z.2.1 } 0x02 e.1 e.2
  | none =>
    let r := z.1.readOut p pg c d (16 * c.chunk)
    let at' : IslCmd := { c with k := m.k }
    match r.2 with
    | .refuse => r.1.islFail p pg c 0x09 0 d.va
    | .poison o va => (r.1.islHalt p pg at').islTrap p pg c 0x08 o va
    | .fault e va => r.1.islStop p pg at' 0x03 e va
    | .writes outs marks =>
      let s := r.1.outWrite p outs marks
      let next : IslCmd := { c with k := 0, chunk := c.chunk + 1, rows := [], kLen := 0 }
      let s := s.modCmd p pg c.fid (fun _ => next)
      if next.chunk * 16 < m.rows then s.grpChunk p pg next m
      else
        match s.grpEntry p c with
        | .error e => s.islFail p pg c 0x01 e.1 e.2
        | .ok (_, _, _, h, _) => s.grpComplete p pg c h

/-- GROUP_COMPLETION (R245, R272): a group's completion acts, and the list goes on. -/
def execGroupCompletion (s : State) : Out :=
  let p := s.arg.p
  let pg := s.arg.pg
  let h := s.arg.x
  .next (match (s.isl p pg).cmd? s.arg.fid with
    | none => s
    | some c =>
      if c.stopped || !c.accepted then s
      else
        let on (s : State) : State :=
          (s.modCmd p pg c.fid (fun c => { c with group := c.group + 1, chunk := 0, k := 0 })).islNext p pg c 0 4
        if bitAt h 15 then on s
        else
          match s.postAdd p h with
          | .ok s => on s
          | .error e => (s.islHalt p pg c).islTrap p pg c e.1 e.2.1 e.2.2)

/-! ### Steps of commands -/

/-- A freeze stops an instance's commands (R274): those not accepted leave the island; those on their way through the array write their
progress; a read-out of an instance that is saved is written at once; stream tokens that no command has taken return to the replay
queue. -/
def State.islFreeze (s : State) (p pg id : Nat) : State :=
  let z := s.isl p pg
  let acted (c : IslCmd) : Bool := ((s.page p pg).fire? c.fid).any (fun f => f.acted)
  let s := s.modIsl p pg (fun z => { z with
    cmds := z.cmds.filter (fun c => c.id != id || acted c || c.stopped || (c.accepted && c.array))
    resident := if (s.inst p id).saving.isSome && z.owner == some id then none else z.resident })
  let s := (z.cmds.filter (fun c => c.id == id && c.accepted && c.array && !c.stopped && !acted c)).foldl (fun s c =>
    let s := s.spmaForgive p pg c
    match c.mul with
    | some m =>
      let k1 := c.stepsDone m s.now
      if !(c.begun && c.kLen != 0 && c.need ≤ c.rows.length && decide (c.k < k1)) then s.islHalt p pg (s.withProgress p c)
      else if c.op == 0x63 then
        let r := s.spmaSums p pg c m k1
        r.1.islHalt p pg (if r.2.isNone then { c with k := k1 } else c)
      else
        let r := s.mulRun p pg c m k1
        r.1.islHalt p pg { c with k := r.2.1 }
    | none => s.islHalt p pg (s.withProgress p c)) s
  let s := if (s.inst p id).saving.isNone then s
    else (z.cmds.filter (fun c => c.id == id && acted c)).foldl (fun s c => (s.outWrite p c.outs c.marks).islDone p pg c 0 4) s
  let mine := z.streams.filter (fun t => tagId t.2.2 == id)
  let s := s.modIsl p pg (fun z => { z with streams := z.streams.filter (fun t => tagId t.2.2 != id) })
  let s := mine.foldl (fun s t => s.appendReplay p id ((s.inst p id).strandOn pg) t.2.2 (.port (BitVec.ofNat 6 (4 + t.1))) t.2.1.tok) s
  (s.islLook p pg).wake p pg

/-- ISLAND_COMMAND_DONE (R263, R268 to R275, R292, R294): the next step of a command: its descriptors are read (z = 0), its K steps are
done (1), its instance freezes (2), its tile has been read out (3), the next group (4), a group's descriptors (5), a chunk (6), or its
writes perform (7). -/
def execIslandCommandDone (s : State) : Out :=
  let p := s.arg.p
  let pg := s.arg.pg
  .next (if s.arg.z = 2 then s.islFreeze p pg s.arg.id
    else
      match (s.isl p pg).cmd? s.arg.fid with
      | none => s
      | some c =>
        if c.stopped || !c.accepted then s
        else
          match s.arg.z, c.mul with
          | 0, _ =>
            match c.op with
            | 0x61 => if c.x % 4 = 2 then s.grpPlan p pg c else s.mmaPlan p pg c
            | 0x62 => s.mmrdPlan p pg c
            | 0x63 => s.spmaStart p pg c
            | _ => s.plctAct p pg c
          | 1, some m => if c.op = 0x63 then s.spmaRun p pg c m else s.mmaRun p pg c m
          | 3, _ => s.mmrdEmpty p pg c
          | 4, _ => s.grpNext p pg c
          | 5, _ => s.grpGroup p pg c
          | 6, some m =>
            match c.cdesc with
            | some d => s.grpRun p pg c m d
            | none => s
          | 7, _ => (s.outWrite p c.outs c.marks).islDone p pg c 0 4
          | _, _ => s)

/-- ISLAND_STREAM_TOKEN (R262, R271): a token reaches a stream channel; one for e0 to e3 is discarded and counted. -/
def execIslandStreamToken (s : State) : Out :=
  let p := s.arg.p
  let pg := s.arg.pg
  .next (if s.arg.x < 4 then s.stale p pg 0
    else
      let j := s.arg.x - 4
      let s := s.modIsl p pg (fun z => { z with streams := z.streams ++ [(j, ⟨s.arg.tok, s.arg.fid, s.arg.y⟩, s.arg.tag)] })
      match (s.isl p pg).cmds.find? (fun c => c.chan == some j && c.accepted && !c.stopped && decide (c.rows.length < c.need)) with
      | some c => s.islFeed p pg c.fid
      | none => s)

end Sys2Proof.Machine
end

