-- ==== Sys2Proof/Machine/Copy.lean ====
section
/-! DEFINITION. Sys2Proof/Machine/Copy.lean: the copy engines: CPY and WPTR (R309, R310), channels and their commands (R302 to R308),
and the stream ports (R300). -/

namespace Sys2Proof.Machine

/-! ### Descriptors (R303, R304) -/

def CopyCmd.opw (c : CopyCmd) : Nat := fieldAt c.desc 0 4
def CopyCmd.n (c : CopyCmd) : Nat := fieldAt c.desc 4 4
def CopyCmd.srcVa (c : CopyCmd) : Nat := fieldAt c.desc 8 8
def CopyCmd.dstVa (c : CopyCmd) : Nat := fieldAt c.desc 16 8
def CopyCmd.sstride (c : CopyCmd) : Nat := fieldAt c.desc 24 4
def CopyCmd.dstride (c : CopyCmd) : Nat := fieldAt c.desc 28 4
def CopyCmd.rows (c : CopyCmd) : Nat := fieldAt c.desc 32 4
def CopyCmd.e (c : CopyCmd) : Nat := fieldAt c.desc 36 4
def CopyCmd.idxVa (c : CopyCmd) : Nat := fieldAt c.desc 40 8
def CopyCmd.handle (c : CopyCmd) : Nat := fieldAt c.desc 52 4
def CopyCmd.rp (c : CopyCmd) : Bool := bitAt c.opw 6
def CopyCmd.msg (c : CopyCmd) : Bool := bitAt c.opw 11
def CopyCmd.sig (c : CopyCmd) : Bool := bitAt c.opw 12
def CopyCmd.port (c : CopyCmd) : Nat := bits c.opw 10 8

/-- Does a command take a stream (R306)? A Helm COPY node's does not (R324). -/
def CopyCmd.tw (c : CopyCmd) : Bool :=
  match c.src with
  | .fire _ _ => bitAt c.opw 7
  | .helm _ _ _ _ => false

/-- The elements of a command. -/
def CopyCmd.total (c : CopyCmd) : Nat := if c.form = 1 then c.n * c.rows else c.n

/-- Is a descriptor malformed (R303 to R306)? -/
def CopyCmd.malformed (c : CopyCmd) : Bool :=
  let small := c.e == 1 || c.e == 2 || c.e == 4 || c.e == 8
  !(small || (c.e % 16 == 0 && c.e != 0 && decide (c.e ≤ 65536))) || (c.form == 4 && !small)
    || (c.tw && (!(c.form == 0 || c.form == 2) || (c.form == 0 && c.e != 4)))
    || (c.form == 2 && decide (c.dstride < c.e)) || (c.form == 3 && decide (c.sstride < c.e))

/-- The alignment of an element's addresses (R307). -/
def CopyCmd.align (c : CopyCmd) : Nat := min c.e 16

/-! ### Accesses (R305, R307) -/

/-- The pieces of an access of n bytes through a window, page by page: its VA is absolute, and a fabric window takes its low 32
bits. -/
def State.copyPieces (s : State) (p : Nat) (win : Win) (store : Bool) : Nat → Nat → Nat → Except (Nat × Nat) (List Piece)
  | 0, _, _ => .ok []
  | fuel + 1, va, n =>
    let x := s.part p
    let fab := bits win.attr.toNat 1 0 == 2
    let unit := if fab then 32768 else 65536
    let k := min n (unit - va % unit)
    let one : Except (Nat × Nat) Piece :=
      if fab then
        match x.fabKey (va % 2 ^ 32) with
        | none => .error (0x02, va)
        | some key => .ok ⟨va, key, 0, k⟩
      else
        match s.walkFail x va, s.translate x va with
        | some k, _ => .error (255, k)
        | none, .error _ => .error (0x02, va)
        | none, .ok l => if (if store then x.mayWrite l else x.mayRead l) then .ok ⟨va, l.pa, l.pte, k⟩ else .error (0x03, va)
    if n = 0 then .ok []
    else
      match one, s.copyPieces p win store fuel (va + k) (n - k) with
      | .error e, _ => .error e
      | _, .error e => .error e
      | .ok x, .ok xs => .ok (x :: xs)

/-- The checks of an access (R131, R132, R305): its cause and VA, or its pieces. A line of memory whose check fails (R380) has the
cause 255 and its key. -/
def State.copyAccess (s : State) (p : Nat) (win : Win) (store : Bool) (va n align : Nat) : Except (Nat × Nat) (List Piece) :=
  let kind := bits win.attr.toNat 1 0
  let top := va + n - 1
  if kind = 0 || va < win.base.toNat || win.base.toNat + win.limit.toNat < top || 2 ^ 64 ≤ top || (kind != 2 && 2 ^ 48 ≤ top) then
    .error (0x01, va)
  else if va % align ≠ 0 then .error (0x04, va)
  else if !bitAt win.attr.toNat (if store then 3 else 2) then .error (0x03, va)
  else
    match s.copyPieces p win store 8 va n with
    | .error e => .error e
    | .ok l =>
      match l.find? (fun x => s.badAt x.key x.len && (!store || x.len % 64 != 0 || x.key % 64 != 0)) with
      | some x => .error (255, s.badKey x.key x.len)
      | none => .ok l

/-- A number read of n bytes, naturally aligned. -/
def State.copyNum (s : State) (p : Nat) (win : Win) (va n : Nat) : Except (Nat × Nat) Nat :=
  match s.copyAccess p win false va n n with
  | .error e => .error e
  | .ok l => .ok (ofLE (s.pieceBytes l))

/-- Writing bytes into the pieces of an access. -/
def State.copyPut (s : State) (l : List Piece) (bs : List Byte) : State :=
  (l.foldl (fun (z : State × List Byte) x => (z.1.memWrite x.key (z.2.take x.len), z.2.drop x.len)) (s, bs)).1

/-- The index of element j: its token's value, or its word of the index list. -/
def State.copyIndex (s : State) (p : Nat) (c : CopyCmd) (j : Nat) (t : Token) : Except (Nat × Nat) Nat :=
  if c.tw then .ok t.val.toNat
  else if c.form = 2 || c.form = 3 then s.copyNum p c.sw (c.idxVa + 4 * j) 4
  else .ok 0

/-- The bytes of a piece, those of a line that has been read as they were then. -/
def State.lineBytes (s : State) (line : Option (Nat × List Byte)) (x : Piece) : List Byte :=
  match line with
  | none => Mem.bytes s.mem x.key x.len
  | some (k, bs) =>
    let n := if x.key / 64 = k then min x.len (64 - x.key % 64) else 0
    (bs.drop (x.key % 64)).take n ++ Mem.bytes s.mem (x.key + n) (x.len - n)

/-- A line of DRAM or host memory is read whole (R224): the line that a read ends in, for the elements that go on in it. The words of tile SRAM
are read each for itself, and so is every element of a stream. -/
def State.lineAfter (s : State) (c : CopyCmd) (l : List Piece) : Option (Nat × List Byte) :=
  match l.getLast? with
  | none => none
  | some x =>
    let k := (x.key + x.len - 1) / 64
    if isSram x.key || c.tw then none
    else if c.line.any (fun z => z.1 == k) then c.line
    else some (k, Mem.bytes s.mem (k * 64) 64)

/-- The source bytes of element j with index i (R305, R306), and the line that its read ends in. -/
def State.copySource (s : State) (p : Nat) (c : CopyCmd) (j i : Nat) (t : Token) :
    Except (Nat × Nat) (List Byte × Option (Nat × List Byte)) :=
  let read (va : Nat) : Except (Nat × Nat) (List Byte × Option (Nat × List Byte)) :=
    match s.copyAccess p c.sw false va c.e c.align with
    | .error e => .error e
    | .ok l => .ok (l.flatMap (s.lineBytes c.line), s.lineAfter c l)
  match c.form with
  | 0 => if c.tw then .ok (leBytes 4 t.val.toNat, none) else read (c.srcVa + j * c.e)
  | 1 => read (c.srcVa + j / c.n * c.sstride + j % c.n * c.e)
  | 2 =>
    if c.tw then
      match s.copyNum p c.sw (c.idxVa + i * c.sstride) 8 with
      | .error e => .error e
      | .ok va => read va
    else read (c.srcVa + i * c.sstride)
  | 3 => read (c.srcVa + j * c.sstride)
  | _ => .ok (leBytes c.e c.srcVa, none)

/-- The destination VA of element j with index i. -/
def CopyCmd.dest (c : CopyCmd) (j i : Nat) : Nat :=
  match c.form with
  | 1 => c.dstVa + j / c.n * c.dstride + j % c.n * c.e
  | 2 => c.dstVa + j * c.dstride
  | 3 => c.dstVa + i * c.dstride
  | _ => c.dstVa + j * c.e

/-- The time of a read by an engine at a key (R275, R309). -/
def engineRead (eng key : Nat) : Nat :=
  if isSram key then 48
  else if isHost key then 700 + 24 * crossDie (eng / 4 * 256) 0
  else 48 + 24 * crossDie (eng / 4 * 256) (dieOf key)

/-- The time of a read at a VA through a window. -/
def State.copyTime (s : State) (p : Nat) (c : CopyCmd) (win : Win) (va : Nat) : Nat :=
  match s.copyPieces p win false 1 va 1 with
  | .ok (x :: _) => engineRead c.eng x.key
  | _ => 48

/-- Ts of R309, of the command's first source. -/
def State.copyTs (s : State) (p : Nat) (c : CopyCmd) : Nat :=
  if c.form = 4 || (c.form = 0 && c.tw) then 0 else s.copyTime p c c.sw c.srcVa

/-! ### Commands and channels -/

/-- The command with a number. -/
def Part.copy? (x : Part) (num : Nat) : Option CopyCmd := x.copies.find? (fun c => c.num == num)

/-- Changing a command. -/
def State.modCopy (s : State) (p num : Nat) (f : CopyCmd → CopyCmd) : State :=
  s.modPart p (fun x => { x with copies := x.copies.map (fun c => if c.num == num then f c else c) })

/-- A channel of an engine. -/
def Part.chan (x : Part) (eng ch : Nat) : CopyCh := (x.chans.find? (fun k => k.eng == eng && k.ch == ch)).getD { eng := eng, ch := ch }

/-- Setting a channel. -/
def State.setChan (s : State) (p : Nat) (k : CopyCh) : State :=
  s.modPart p (fun x => { x with chans := x.chans.filter (fun j => !(j.eng == k.eng && j.ch == k.ch)) ++ [k] })

/-- A write pointer takes a value: the WPTR.Ws that it satisfies emit it 12 fclk later (R310). -/
def State.setWptr (s : State) (p eng ch : Nat) (v : Word) : State :=
  let k := (s.part p).chan eng ch
  let go (w : Nat × Nat) : Bool := match (s.page p w.1).fire? w.2 with
    | some f => decide (0 ≤ (v - valOf (f.l.map Arr.tok)).toInt)
    | none => false
  let s := s.setChan p { k with wptr := v, waits := k.waits.filter (fun w => !go w) }
  (k.waits.filter go).foldl (fun s w =>
    match (s.page p w.1).fire? w.2 with
    | some f => (s.answer p w.1 w.2 (s.now + 12) (f.done v) (f.done v)).checkDone p w.1 f.tag
    | none => s) s

/-- A row of a command. -/
def State.copyRow (s : State) (p : Nat) (c : CopyCmd) (at' : Nat) (i : Instr) (z : Nat) : State :=
  s.sched at' (c.eng / 4 * 16384 + c.slot) i { p := p, x := c.num, z := z }

/-! ### Streams (R300, R306) -/

/-- The tokens at a port beyond its queue of 4, held in the mesh. -/
def Page.portHeld (y : Page) : List Arr :=
  (List.range 8).flatMap (fun k => ((y.ports.filter (fun t => t.1 == k)).drop 4).map (fun t => t.2.1))

/-- The command that takes the next token of a port: the first accepted that streams from it and has not had its tokens. -/
def Part.portTaker (x : Part) (pg port : Nat) : Option CopyCmd :=
  x.copies.find? (fun c => c.tw && c.place.any (fun z => z.1 == pg) && c.port == port && !c.stopped && !c.closed
    && decide (c.sent + c.took.length < c.total))

/-- A command takes a token of its port when it has none and its turn has come. -/
def State.copyTake (s : State) (p : Nat) (c : CopyCmd) : State :=
  match c.place with
  | none => s
  | some (pg, _) =>
    let y := s.page p pg
    match y.ports.find? (fun t => t.1 == c.port) with
    | some t =>
      if !c.took.isEmpty || ((s.part p).portTaker pg c.port).map CopyCmd.num != some c.num then s
      else
        let s := s.modPage p pg (fun y => { y with ports := y.ports.erase t })
        (s.modCopy p c.num (fun c => { c with took := [t.2] })).wake p pg
    | none => s

/-! ### The course of a command (R302, R305 to R308) -/

/-- The next element of a command, or its completion, is timed. A stream's null tokens move nothing, and a closing one ends it. -/
def State.copyStep (s : State) (p num : Nat) : Nat → State
  | 0 => s
  | fuel + 1 =>
    match (s.part p).copy? num with
    | none => s
    | some c =>
      if !c.begun || c.stopped || c.stopping then s
      else if c.closed || c.total ≤ c.sent then
        if c.flying = 0 then s.copyRow p c (if c.moved = 0 then max s.now (c.ready + s.copyTs p c + 48) else s.now) .copyComplete 0 else s
      else
        let due := c.ready + s.copyTs p c + cdiv (c.moved + c.e) 128 + (if c.peer.isSome then 0 else 48)
        if !c.tw then s.copyRow p c (max s.now due) .copyWritePerform 0
        else
          let s := s.copyTake p c
          match ((s.part p).copy? num).bind (fun c => c.took.head?) with
          | none => s
          | some (a, _, t) =>
            if !a.tok.null then
              let read := if c.form = 2 then s.copyTime p c c.sw c.idxVa + s.copyTs p c else 0
              s.copyRow p c (max s.now (max due (t + read + 1 + 48))) .copyWritePerform 0
            else
              let s := s.modCopy p num (fun c => { c with
                took := c.took.drop 1, closed := a.tok.eof, sent := c.sent + 1, elems := if c.flying = 0 then c.elems + 1 else c.elems })
              s.copyStep p num fuel

/-- The command that a channel serves next begins when the one before it has written (R302, R304). -/
def State.copyLook (s : State) (p eng ch : Nat) : State :=
  let x := s.part p
  let mine := x.copies.filter (fun c => c.eng == eng && c.ch == ch && !c.stopped)
  if mine.any (fun c => c.begun) then s
  else
    match mine.head? with
    | none => s
    | some c =>
      let s := if c.rp && !c.resume && c.bytes = 0 then s.setWptr p eng ch 0 else s
      (s.modCopy p c.num (fun c => { c with begun := true, ready := max s.now (c.accepted + c.lead) })).copyStep p c.num 64

/-- The commands that stream from a port look for its tokens. -/
def State.portLook (s : State) (p pg port : Nat) : State :=
  match (s.part p).portTaker pg port with
  | some c => if c.took.isEmpty then s.copyStep p c.num 64 else s
  | none => s

/-- Progress written with V = 1 and the bytes delivered, where it can be (R308). -/
def State.copyProgress (s : State) (p : Nat) (c : CopyCmd) (v : Nat) : Except (Nat × Nat) State :=
  match s.copyAccess p c.win true (c.descVa + 56) 8 8 with
  | .error e => .error e
  | .ok l => .ok (s.copyPut l (leBytes 8 v))

/-- The delivered elements of a command advance, and its channel's pointer with them. -/
def State.copyAdvance (s : State) (p : Nat) (c : CopyCmd) (elems k : Nat) : State :=
  let s := s.modCopy p c.num (fun c => { c with elems := elems, bytes := c.bytes + k })
  s.setWptr p c.eng c.ch (((s.part p).chan c.eng c.ch).wptr + word k)

/-- The bytes of a command that wait for the rest of their line are written, and the elements that waited with them are delivered. -/
def State.copyFlush (s : State) (p num : Nat) : State :=
  match (s.part p).copy? num with
  | none => s
  | some c =>
    if c.held = 0 then s
    else
      let s := c.tail.foldl (fun s w => s.memWrite w.1 w.2) s
      (s.modCopy p num (fun c => { c with tail := [], held := 0 })).copyAdvance p c c.sent (c.held * c.e)

/-- A command stops early: what it has moved is written, and its progress with it, and its channel goes on. A progress word that cannot be
written is a fault when the command resumes (R307), which goes on from what it has delivered. -/
def State.copyHalt (s : State) (p : Nat) (c : CopyCmd) : State :=
  let s := s.copyFlush p c.num
  let c := ((s.part p).copy? c.num).getD c
  let z := match s.copyProgress p c (c.bytes % 2 ^ 32 + 2 ^ 63) with
    | .ok s => (s, false)
    | .error _ => (s, true)
  let s := z.1.cancel (fun r a => (r == .copyWritePerform || r == .copyComplete) && a.p == p && a.x == c.num && a.z != 2)
  let s := s.modCopy p c.num (fun c => { c with stopped := true, stopping := false, begun := false, lost := z.2 })
  s.copyLook p c.eng c.ch

/-- The stream tokens that a stopped command has not used go back into its instance's replay queue. -/
def State.copyReturn (s : State) (p : Nat) (c : CopyCmd) : State :=
  let s := s.modCopy p c.num (fun c => { c with took := [] })
  c.took.foldl (fun s t => s.appendReplay p c.id c.strand t.2.1 (.port (BitVec.ofNat 6 (16 + c.port))) t.1.tok) s

/-- A trap of a command at its CPY slot; what a COPY node issued is a chart error of its entry (z = 4): code 5 for a handle, 6 for the rest
(R319). -/
def State.copyTrap (s : State) (p : Nat) (c : CopyCmd) (code detail va : Nat) : State :=
  match c.src with
  | .fire pg _ => s.engineTrap p pg c.id c.strand c.slot c.tag c.word c.blk c.gen code detail va
  | .helm die q node eva => s.sched s.now 0 .launchContinue
      { p := p, x := die, y := q, z := 4, id := c.num, l := [node, eva, if code = 0x0C then 5 else 6] }

/-- A fault of copy code 0x11, 0x12 or 0x16 (R307, R308, R407). -/
def State.copyFault (s : State) (p : Nat) (c : CopyCmd) (code cause va : Nat) : State :=
  if cause = 255 then s.badRead p va
  else ((s.copyHalt p c).copyTrap p c 0x0E (code * 256 + cause) va).copyReturn p c

/-! ### Peers (R404, R405, R409) -/

/-- Does a peer's register name the partition's own package? -/
def Part.ownPeer (x : Part) (peer : Nat) : Bool := bits peer 19 0 == x.vf.devid

/-- A write or a signal sets out for a peer. One to the own package reaches it 100 fclk later and is acknowledged in 200; what another
package answers, which is outside the model, is a free value, 1,100 fclk later. With no port left there is no path. -/
def State.peerSend (s : State) (w : PeerWrite) : State :=
  let s := { s with peerOut := s.peerOut ++ [{ w with n := s.nextFid }], nextFid := s.nextFid + 1 }
  let n := s.nextFid - 1
  if (s.part w.p).ownPeer w.peer then s.sched (s.now + 100) 0 .peerIngressWrite
      { p := bits w.peer 25 20, x := n, y := w.va, z := w.p * 2 ^ 20 + (s.part w.p).vf.devid, id := b2n w.sig, l := w.data.map BitVec.toNat }
  else if 16 ≤ s.ports.length then s.sched (s.now + 850000) 0 .peerPathTimeout { p := w.p, x := n }
  else
    let v := Config.freeNat s.free % 4
    let s := { s with free := s.free + 1 }
    if v = 1 then s.sched (s.now + 850000) 0 .peerPathTimeout { p := w.p, x := n }
    else s.sched (s.now + 1100) 0 .peerWriteAck { p := w.p, x := n, z := if v = 3 then 3 else if v = 2 then 2 else 0 }

/-! ### Elements -/

/-- The next element of a command: its destination, its bytes and the line that their read ends in, or the copy code, cause and VA of its
fault. -/
def State.copyElem (s : State) (p : Nat) (c : CopyCmd) (t : Token) :
    Except (Nat × Nat × Nat) (Nat × List Byte × Option (Nat × List Byte)) :=
  match s.copyIndex p c c.sent t with
  | .error e => .error (0x11, e.1, e.2)
  | .ok i =>
    match s.copySource p c c.sent i t with
    | .error e => .error (0x11, e.1, e.2)
    | .ok bs => .ok (c.dest c.sent i, bs)

/-- Does the element after the next one go on in the line that the next one, at a VA, ends in? Every element of a stream is its own transfer. -/
def State.copyShares (s : State) (p : Nat) (c : CopyCmd) (va : Nat) : Bool :=
  if c.tw || c.total ≤ c.sent + 1 then false
  else match s.copyIndex p c (c.sent + 1) {} with
    | .ok i => c.dest (c.sent + 1) i / 64 == (va + c.e - 1) / 64
    | .error _ => false

/-- The parts of a write before a line and in it. -/
def cutAt (line : Nat) (w : Nat × List Byte) : (Nat × List Byte) × (Nat × List Byte) :=
  if (w.1 + w.2.length - 1) / 64 ≠ line then (w, (0, []))
  else
    let n := line * 64 - w.1
    ((w.1, w.2.take n), (w.1 + n, w.2.drop n))

/-- The element that has just moved is written with what waits before it. Where the next one goes on in its last line, on a DRAM or host
page, that line waits, to be written whole (R224), and the element is delivered with it. -/
def State.copyDeliver (s : State) (p num : Nat) (l : List (Nat × List Byte)) (shares : Bool) : State :=
  match (s.part p).copy? num with
  | none => s
  | some c =>
    let all := c.tail ++ l
    let last := ((l.getLast?).map (fun w => w.1 + w.2.length - 1)).getD 0
    if !shares || isSram last then
      let s := all.foldl (fun s w => s.memWrite w.1 w.2) s
      (s.modCopy p num (fun c => { c with tail := [], held := 0 })).copyAdvance p c c.sent ((c.held + 1) * c.e)
    else
      let cut := all.map (cutAt (last / 64))
      let s := ((cut.map Prod.fst).filter (fun w => !w.2.isEmpty)).foldl (fun s w => s.memWrite w.1 w.2) s
      let whole := c.tail.all (fun w => w.1 / 64 != last / 64)
      let s := s.modCopy p num (fun c => { c with
        tail := (cut.map Prod.snd).filter (fun w => !w.2.isEmpty), held := if whole then 1 else c.held + 1 })
      if whole && c.held != 0 then s.copyAdvance p c (c.sent - 1) (c.held * c.e) else s

/-- The next element of a command moves: to memory, or on its way to the peer. A poisoned one is written and reported, whatever PT its window has
(R85, log 67). -/
def State.copyMove (s : State) (p : Nat) (c : CopyCmd) : Except (Nat × Nat × Nat) State :=
  let t := ((c.took.head?).map (fun a => a.1.tok)).getD {}
  match s.copyElem p c t with
  | .error e => .error e
  | .ok (va, bs, line) =>
    let next (s : State) : State :=
      s.modCopy p c.num (fun c => { c with sent := c.sent + 1, moved := c.moved + c.e, took := c.took.drop 1, line := line })
    let report (s : State) : State := if c.tw && t.pois then s.reportPoison p t.origin va true else s
    match c.peer with
    | none =>
      match s.copyAccess p c.dw true va c.e c.align with
      | .error e => .error (0x12, e.1, e.2)
      | .ok l =>
        let ws := (l.foldl (fun (z : List (Nat × List Byte) × List Byte) x => (z.1 ++ [(x.key, z.2.take x.len)], z.2.drop x.len)) ([], bs)).1
        .ok ((next (report s)).copyDeliver p c.num ws (s.copyShares p c va))
    | some peer =>
      if va % c.align ≠ 0 then .error (0x12, 0x04, va)
      else
        let s := (next (report s)).modCopy p c.num (fun c => { c with flying := c.flying + 1 })
        .ok (s.peerSend { n := 0, p := p, num := c.num, elem := c.sent + 1, peer := peer, va := va, data := bs })

/-- A frozen command goes on to the next 64-byte boundary of what it has delivered (R308). -/
def State.copyFinish (s : State) (p num : Nat) : Nat → State
  | 0 => s
  | fuel + 1 =>
    match (s.part p).copy? num with
    | none => s
    | some c =>
      let ready := !c.tw || c.took.any (fun a => !a.1.tok.null)
      if (c.bytes + c.held * c.e) % 64 = 0 || c.total ≤ c.sent || c.closed || !ready || 64 ≤ c.e || c.peer.isSome then s
      else
        match s.copyMove p c with
        | .ok s => s.copyFinish p num fuel
        | .error _ => s

/-- A command stops at its next boundary; one with writes on their way to a peer stops when they have been acknowledged. -/
def State.copyStop (s : State) (p num : Nat) : State :=
  let s := s.copyFinish p num 64
  match (s.part p).copy? num with
  | none => s
  | some c =>
    if c.flying = 0 then s.copyHalt p c
    else (s.modCopy p num (fun c => { c with stopping := true })).cancel (fun r a => r == .copyWritePerform && a.p == p && a.x == num && a.z != 2)

/-- The commands of an instance stop when it freezes (R308): those that have not begun leave. -/
def State.copyFreeze (s : State) (p pg id : Nat) : State :=
  let mine (c : CopyCmd) : Bool :=
    c.id == id && c.place.any (fun z => z.1 == pg && !((s.page p pg).fire? z.2).any (fun f => f.acted)) && !c.stopped
  let gone := (s.part p).copies.filter (fun c => mine c && !c.begun)
  let s := s.modPart p (fun x => { x with copies := x.copies.filter (fun c => !(mine c && !c.begun)) })
  let s := ((s.part p).copies.filter mine).foldl (fun s c =>
    let s := s.copyStop p c.num
    match (s.part p).copy? c.num with
    | none => s
    | some c => s.copyReturn p c) s
  let toks := (s.page p pg).ports.filter (fun t => tagId t.2.2.1 == id)
  let s := s.modPage p pg (fun y => { y with ports := y.ports.filter (fun t => tagId t.2.2.1 != id) })
  let s := toks.foldl (fun s t => s.appendReplay p id ((s.inst p id).strandOn pg) t.2.2.1 (.port (BitVec.ofNat 6 (16 + t.1))) t.2.1.tok) s
  gone.foldl (fun s c => s.copyLook p c.eng c.ch) s

/-- The COPY nodes' commands of a partition that is being paused, or freezes, stop at their next boundary and write their progress (R308, R380, R387). -/
def State.helmHalt (s : State) (p : Nat) : State :=
  let s := ((s.part p).copies.filter (fun c => c.place.isNone && !c.begun)).foldl (fun s c => s.modCopy p c.num (fun c => { c with stopped := true })) s
  ((s.part p).copies.filter (fun c => c.place.isNone && !c.stopped)).foldl (fun s c => s.copyStop p c.num) s

/-- The page of a command's CPY, where its clocks are gated (R412). -/
def State.copyStill (s : State) (p : Nat) (c : CopyCmd) : Option Nat := (c.place.map Prod.fst).filter (fun pg => (s.page p pg).gated)

/-- That page, where the command stands at a 64-byte boundary of what it has delivered. -/
def State.copyGated (s : State) (p : Nat) (c : CopyCmd) : Option Nat :=
  if (c.bytes + c.held * c.e) % 64 = 0 then s.copyStill p c else none

/-- A step of a command waits in the skid buffer of its CPY's page. -/
def State.copyWait (s : State) (p pg : Nat) (i : Instr) : State := s.modPage p pg (fun y => { y with skid := y.skid ++ [(i, s.arg)] })

/-- COPY_WRITE_PERFORM (R305 to R308): the next element of a command performs, or its instance has frozen (z = 2). -/
def execCopyWritePerform (s : State) : Out :=
  let p := s.arg.p
  .next (if s.arg.z = 2 then s.copyFreeze p s.arg.pg s.arg.id
    else
      match (s.part p).copy? s.arg.x with
      | none => s
      | some c =>
        if c.stopped || c.stopping || !c.begun || (s.part p).frozen then s
        else if let some pg := s.copyGated p c then s.copyWait p pg .copyWritePerform
        else
          match s.copyMove p c with
          | .ok s => s.copyStep p c.num 64
          | .error e => s.copyFault p c e.1 e.2.1 e.2.2)

/-! ### Acceptance (R302, R307) -/

/-- The command that a CPY goes on with. -/
def Part.copyOld (x : Part) (f : Fire) : Option CopyCmd :=
  x.copies.find? (fun c => c.stopped && c.id == f.id && c.strand == f.strand && c.slot == f.tile && c.tag == f.tag && c.word == f.word)

/-- A command whose descriptor has been read joins its channel: its progress word, and a stopped command of its place, say where it
goes on. -/
def State.copyAccept (s : State) (p : Nat) (c : CopyCmd) (old : Option CopyCmd) : State :=
  let x := s.part p
  let prog := fieldAt c.desc 56 8
  let b := prog % 2 ^ 32
  let v := bitAt prog 63
  let peer := x.csrN (0x0F0 + c.ch)
  let elems := match old with
    | some o => if o.bytes % 2 ^ 32 = b then o.elems else b / c.e
    | none => b / c.e
  let c := { c with peer := if bitAt peer 31 then some peer else none, accepted := s.now }
  let c := if v then { c with bytes := b, elems := elems, sent := elems, resume := true } else c
  let lead := s.copyTime p c c.win c.descVa + (if c.form = 2 || c.form = 3 then s.copyTime p c c.sw c.idxVa else 0)
  let s := s.modPart p (fun x => { x with
    copies := x.copies.filter (fun d => (old.map CopyCmd.num) != some d.num) ++ [{ c with lead := lead }] })
  s.copyLook p c.eng c.ch

/-- A command reaches its engine (R301, R303, R307): the copy code and cause of what stops it there, or its acceptance. -/
def State.copyReach (s : State) (p : Nat) (c : CopyCmd) (old : Option CopyCmd) : Except (Nat × Nat × Nat) State :=
  if !(s.part p).engines.contains (c.eng / 4, c.eng % 4) then .error (0x15, 0, 0)
  else
    match s.copyAccess p c.win false c.descVa 64 64 with
    | .error e => .error (0x10, e.1, e.2)
    | .ok l =>
      let d := ofLE (s.pieceBytes l)
      let c := { c with desc := d, ch := fieldAt d 48 1 % 8 }
      if c.malformed then .error (0x14, 0, c.descVa) else .ok (s.copyAccept p c old)

/-- The windows that a CPY's descriptor names, once it has been read. -/
def CopyCmd.bind (c : CopyCmd) (wins : List Win) (d : Nat) : CopyCmd :=
  { c with sw := (wins[bits (fieldAt d 0 4) 2 0]?).getD {}, dw := (wins[bits (fieldAt d 0 4) 5 3]?).getD {} }

/-- A window that a firing keeps. -/
def Fire.winAt (f : Fire) (k : Nat) : Win := (f.wins[k]?).getD {}

/-- The command of a firing of CPY. -/
def cpyCmd (pg : Nat) (f : Fire) : CopyCmd where
  num := f.fid
  eng := pg / 256 * 4 + (f.aux[0]?).getD 0
  ch := 0
  src := .fire pg f.fid
  id := f.id
  strand := f.strand
  slot := f.tile
  tag := f.tag
  word := f.word
  blk := f.blk
  gen := f.gen
  form := (xF f.word).toNat
  descVa := (f.winAt ((f.aux[1]?).getD 0)).base.toNat + (valOf (f.l.map Arr.tok)).toNat
  desc := 0
  win := f.winAt ((f.aux[1]?).getD 0)

/-- A command whose progress could not be written as it stopped writes it as it is issued again (R307, R308). -/
def State.copyOwed (s : State) (p : Nat) (c : CopyCmd) : Option CopyCmd → Except (Nat × Nat × Nat) State
  | some o => if o.lost then (s.copyProgress p c (o.bytes % 2 ^ 32 + 2 ^ 63)).mapError (fun e => (0x12, e)) else .ok s
  | none => .ok s

/-- A CPY's command reaches its engine: it is accepted, or what stops it is raised at its slot. -/
def State.copyArrive (s : State) (p pg : Nat) (f : Fire) (old : Option CopyCmd) : State :=
  let c := cpyCmd pg f
  let c := match s.copyAccess p c.win false c.descVa 64 64 with
    | .ok l => c.bind f.wins (ofLE (s.pieceBytes l))
    | .error _ => c
  let stop (e : Nat × Nat × Nat) : State := if e.2.1 = 255 then s.badRead p e.2.2 else s.copyTrap p c 0x0E (e.1 * 256 + e.2.1) e.2.2
  match s.copyOwed p c old with
  | .error e => stop e
  | .ok t =>
    match t.copyReach p c old with
    | .ok t => t
    | .error e => stop e

/-- COPY_COMMAND_BEGIN (R302, R303, R307): a CPY's command reaches its engine (z = 3, or z = 1 for one that is issued again), or a
channel looks for its next command (z = 0). -/
def execCopyCommandBegin (s : State) : Out :=
  let p := s.arg.p
  let pg := s.arg.pg
  .next (if s.arg.z = 0 then s.copyLook p s.arg.x s.arg.y
    else
      match (s.page p pg).fire? s.arg.fid with
      | none => s
      | some f =>
        match (s.part p).copy? f.fid with
        | some c =>
          if c.stopping then (s.modCopy p c.num (fun c => { c with stopping := false })).copyStep p c.num 64
          else if c.stopped && f.phase == .engine then s.copyArrive p pg f (some c)
          else s
        | none => if f.phase == .engine then s.copyArrive p pg f ((s.part p).copyOld f) else s)

/-- COPY_STREAM_TOKEN (R300, R306): a token joins its stream port. -/
def execCopyStreamToken (s : State) : Out :=
  let a := s.arg
  let port := a.x - 16
  .next ((s.modPage a.p a.pg (fun y => { y with ports := y.ports ++ [(port, ⟨a.tok, a.fid, a.y⟩, a.tag, s.now)] })).portLook a.p a.pg port)

/-! ### Completion (R308) -/

/-- What follows the signal: the message, and the completion token. -/
def State.copyEnd (s : State) (p : Nat) (c : CopyCmd) : State :=
  let wptr := ((s.part p).chan c.eng c.ch).wptr
  let s := s.modPart p (fun x => { x with copies := x.copies.filter (fun d => d.num != c.num) })
  match c.src with
  | .helm die q _ _ => s.sched (s.now + 12) 0 .launchContinue { p := p, x := die, y := q, z := 3, id := c.num }
  | .fire pg fid =>
    let s := if c.msg then s.sched (s.now + 12) (srcOf pg 0) .messageArrival
        { p := p, pg := pg, id := c.id, x := c.strand, y := fieldAt c.desc 49 1 % 16, w0 := word c.descVa, w1 := wptr } else s
    let o := match (s.page p pg).fire? fid with
      | some f => origOf (f.l.map Arr.tok)
      | none => none
    (s.engineAnswer p pg fid (s.now + 12) (withPoison (tokV (word c.bytes)) o)).portLook p pg c.port

/-- COPY_COMPLETE (R185, R235, R308, R405): every write of a command has performed: its progress is cleared where it resumed, and the
handle is incremented, at the peer where its channel is bound; then, at once or after the peer's acknowledgement (z = 1), the message
and the token leave. -/
def execCopyComplete (s : State) : Out :=
  let p := s.arg.p
  .next (match (s.part p).copy? s.arg.x with
    | none => s
    | some c =>
      if c.stopped || (s.part p).frozen then s
      else if let some pg := s.copyStill p c then s.copyWait p pg .copyComplete
      else if s.arg.z = 1 then (s.copyEnd p c).copyLook p c.eng c.ch
      else
        let cleared := if c.resume then s.copyProgress p c 0 else .ok s
        match cleared, c.peer with
        | .error e, _ => s.copyFault p c 0x12 e.1 e.2
        | .ok s, none =>
          if !c.sig then (s.copyEnd p c).copyLook p c.eng c.ch
          else
            match s.postAdd p c.handle with
            | .ok s => (s.copyEnd p c).copyLook p c.eng c.ch
            | .error e => ((s.copyHalt p c).copyTrap p c e.1 e.2.1 e.2.2).copyReturn p c
        | .ok s, some peer =>
          if !c.sig then (s.copyEnd p c).copyLook p c.eng c.ch
          else
            let s := match c.place with
              | some (pg, fid) => s.modFire p pg fid (fun f => { f with acted := true })
              | none => s
            let s := s.modCopy p c.num (fun c => { c with flying := 1 })
            s.peerSend { n := 0, p := p, num := c.num, elem := c.elems, peer := peer, va := c.handle, data := [], sig := true })

/-! ### CPY and WPTR -/

/-- A CPY fires (R17, R309), its strand's committed stores being visible to what it reads (R235): its command reaches the page's engine 12 fclk later. -/
def State.cpy (s : State) (pr : BitVec 2) (t1 t0 : Target) : State :=
  s.frame pr 1 t1 t0 fun s =>
    let c := s.cur
    let a := s.curAct
    let cfg := (((s.inst c.p c.id).strand? c.strand).map (fun t => t.csrN 0x050)).getD 0
    let s := s.flush c.p c.id
    let s := s.modFire c.p c.pg c.fid (fun f => { f with
      phase := .engine, wins := a.wins, blk := a.blk, gen := a.gen, aux := [bits cfg 1 0, bits cfg 4 2] })
    s.sched (s.now + 12) (srcOf c.pg c.tile) .copyCommandBegin { p := c.p, pg := c.pg, id := c.id, fid := c.fid, z := 3 }

def execCpyLin (pr : BitVec 2) (t1 t0 : Target) (s : State) : Out := .next (s.cpy pr t1 t0)
def execCpy2d (pr : BitVec 2) (t1 t0 : Target) (s : State) : Out := .next (s.cpy pr t1 t0)
def execCpyGath (pr : BitVec 2) (t1 t0 : Target) (s : State) : Out := .next (s.cpy pr t1 t0)
def execCpyScat (pr : BitVec 2) (t1 t0 : Target) (s : State) : Out := .next (s.cpy pr t1 t0)
def execCpyFill (pr : BitVec 2) (t1 t0 : Target) (s : State) : Out := .next (s.cpy pr t1 t0)

/-- The page's engine as die * 4 + engine, where the partition owns it (R301). -/
def State.pageEngine (s : State) : Option Nat :=
  let c := s.cur
  let e := bits ((((s.inst c.p c.id).strand? c.strand).map (fun t => t.csrN 0x050)).getD 0) 1 0
  if (s.part c.p).engines.contains (c.pg / 256, e) then some (c.pg / 256 * 4 + e) else none

/-- WPTR (R301, R310): the pointer 28 fclk after firing; 0 poisoned without an engine. WPTR.W waits while its pointer lies below L. -/
def State.wptrRead (s : State) (pr : BitVec 2) (ch : BitVec 3) (t1 t0 : Target) (wait : Bool) : State :=
  s.frame pr 28 t1 t0 fun s =>
    let c := s.cur
    match s.pageEngine with
    | none =>
      let m := s.mark ⟨0, 1⟩
      m.1.emit 28 t0 t1 m.2 m.2
    | some eng =>
      let k := (s.part c.p).chan eng ch.toNat
      if wait && decide ((k.wptr - s.lv).toInt < 0) then
        (s.modFire c.p c.pg c.fid (fun f => { f with phase := .parked })).setChan c.p { k with waits := k.waits ++ [(c.pg, c.fid)] }
      else
        let m := s.mark ⟨k.wptr, 0⟩
        m.1.emit 28 t0 t1 m.2 m.2

def execWptr (pr : BitVec 2) (ch : BitVec 3) (t1 t0 : Target) (s : State) : Out := .next (s.wptrRead pr ch t1 t0 false)
def execWptrW (pr : BitVec 2) (ch : BitVec 3) (t1 t0 : Target) (s : State) : Out := .next (s.wptrRead pr ch t1 t0 true)

end Sys2Proof.Machine
end

