-- ==== Sys2Proof/Machine/Peer.lean ====
section
/-! DEFINITION. Sys2Proof/Machine/Peer.lean: writes to and from other packages (R404 to R409). -/

namespace Sys2Proof.Machine

/-! ### At the peer (R406, R407) -/

/-- Does a partition accept a source, given as device ID and partition (R406)? -/
def Part.accepts (x : Part) (dev part : Nat) : Bool :=
  (List.range 4).any (fun k =>
    let r := x.csrN (0x0FB + k)
    bitAt r 31 && bits r 19 0 == dev && (bitAt r 30 || bits r 25 20 == part))

/-- Does a write lie in the ingress window? -/
def Part.inIngress (x : Part) (va n : Nat) : Bool :=
  let base := x.base64 0x0F8 16
  decide (base ≤ va) && decide (va + n ≤ base + bits (x.csrN 0x0FA) 23 0 * 65536)

/-- The pieces of a peer write, all in device DRAM and writable; otherwise the cause. -/
def State.ingressPieces (s : State) (p : Nat) : Nat → Nat → Nat → Except Nat (List Piece)
  | 0, _, _ => .ok []
  | fuel + 1, va, n =>
    if n = 0 then .ok []
    else
      let k := min n (65536 - va % 65536)
      match s.translate (s.part p) va with
      | .error _ => .error 0x02
      | .ok l =>
        if 2 ^ 45 ≤ l.pa || !(s.part p).mayWrite l then .error 0x03
        else
          match s.ingressPieces p fuel (va + k) (n - k) with
          | .error e => .error e
          | .ok r => .ok (⟨va, l.pa, l.pte, k⟩ :: r)

/-- The line that fails its check under a peer write's pieces, where one of them is only part of it (R380). -/
def State.ingressFail (s : State) (l : List Piece) : Option Nat :=
  (l.find? (fun x => s.badAt x.key x.len && (x.len % 64 != 0 || x.key % 64 != 0))).map (fun x => s.badKey x.key x.len)

/-- A peer write that met such a line: the event INTEGRITY of the partition. -/
def State.ingressRead (s : State) (p va n : Nat) : State :=
  match s.ingressPieces p 3 va n with
  | .error _ => s
  | .ok l =>
    match s.ingressFail l with
    | some k => if (s.part p).inIngress va n then s.badRead p k else s
    | none => s

/-- What a peer write comes to: its cause, or the state in which it has performed. -/
def State.ingress (s : State) (p va : Nat) (bs : List Byte) : Except Nat State :=
  if !(s.part p).inIngress va bs.length then .error 0x03
  else
    match s.ingressPieces p 3 va bs.length with
    | .error e => .error e
    | .ok l => if (s.ingressFail l).isSome then .error 0x03 else .ok (s.copyPut l bs)

/-- The command of a write that has set out, while it has not stopped. -/
def State.peerCmd (s : State) (n : Nat) : Option (PeerWrite × CopyCmd) :=
  match s.peerOut.find? (fun w => w.n == n) with
  | none => none
  | some w => match (s.part w.p).copy? w.num with
    | some c => if c.stopped then none else some (w, c)
    | none => none

/-- PEER_INGRESS_WRITE (R406 to R408): a write, or a signal (id = 1), from the source in z (DEV in [19:0], PART above) reaches a
partition; x = 0 where it comes from another package, whose acknowledgement leaves the model. -/
def execPeerIngressWrite (s : State) : Out :=
  let a := s.arg
  let x := s.part a.p
  let answer (s : State) (z : Nat) (l : List Nat) : State :=
    match s.peerCmd a.x with
    | some (w, _) => s.sched (s.now + 100) 0 .peerWriteAck { p := w.p, x := a.x, z := z, l := l }
    | none => s
  .next (if a.x ≠ 0 && (s.peerCmd a.x).isNone then s
    else if !x.live || x.frozen || !x.accepts (a.z % 2 ^ 20) (a.z / 2 ^ 20) then answer (s.bumpCsr a.p 0x0FF 31 0) 3 []
    else if a.id = 1 then
      match s.postAdd a.p a.y with
      | .ok s => answer s 0 []
      | .error e => answer s 4 [e.1, e.2.1, e.2.2]
    else
      match s.ingress a.p a.y (a.l.map (BitVec.ofNat 8)) with
      | .ok s => answer s 0 []
      | .error e => answer ((s.bumpCsr a.p 0x0FF 31 0).ingressRead a.p a.y a.l.length) e [])

/-! ### Back at the sender -/

/-- A write is no longer on its way. -/
def State.peerTake (s : State) (n : Nat) : State := { s with peerOut := s.peerOut.filter (fun w => w.n != n) }

/-- PEER_WRITE_ACK (R405, R407): a write has performed at the peer (z = 0), and the pointer advances, or the peer's refusal or failure
stops its command; a signal's answer lets its command complete. -/
def execPeerWriteAck (s : State) : Out :=
  let z := s.arg.z
  .next (match s.peerCmd s.arg.x with
    | none => s.peerTake s.arg.x
    | some (w, c) =>
      let p := w.p
      let s := (s.peerTake w.n).modCopy p c.num (fun c => { c with flying := c.flying - 1 })
      let c := { c with flying := c.flying - 1 }
      match z, s.arg.l with
      | 0, _ =>
        if w.sig then s.copyRow p c s.now .copyComplete 1
        else
          let s := s.copyAdvance p c w.elem w.data.length
          match (s.part p).copy? c.num with
          | none => s
          | some c =>
            if c.flying ≠ 0 then s
            else if c.stopping then s.copyHalt p c
            else if c.closed || c.total ≤ c.sent then s.copyRow p c s.now .copyComplete 0
            else s
      | 4, [code, detail, va] => ((s.copyHalt p c).copyTrap p c code detail va).copyReturn p c
      | e, _ => s.copyFault p c 0x12 e w.va)

/-- PEER_PATH_TIMEOUT (R407): no path to the peer has existed for 1 ms: the command stops with copy code 0x16. -/
def execPeerPathTimeout (s : State) : Out :=
  .next (match s.peerCmd s.arg.x with
    | none => s.peerTake s.arg.x
    | some (w, c) => (s.peerTake w.n).copyFault w.p c 0x16 0 w.va)

/-- LINK_PORT_FAIL (R409): a port's traffic moves to those that remain; with none left, what is on its way has no path. -/
def execLinkPortFail (s : State) : Out :=
  let s := { s with ports := if s.ports.contains s.arg.x then s.ports else s.ports ++ [s.arg.x] }
  .next (if s.ports.length < 16 then s
    else (s.peerOut.filter (fun w => !(s.part w.p).ownPeer w.peer)).foldl (fun s w =>
      if s.agenda.any (fun t => match t.act with
        | .row .peerWriteAck a => a.x == w.n
        | _ => false) then
        (s.cancel (fun r a => r == .peerWriteAck && a.x == w.n)).sched (s.now + 850000) 0 .peerPathTimeout { p := w.p, x := w.n }
      else s) s)

end Sys2Proof.Machine
end

