-- ==== Sys2Proof/Machine/Guard.lean ====
section
/-! DEFINITION. Sys2Proof/Machine/Guard.lean: page walks and invalidations (R207 to R211), the memory guard (R376 to R380), and
errors of the on-die stores (R219, R344). -/

namespace Sys2Proof.Machine

/-! ### Walks and invalidation -/

/-- PAGE_WALK (R207 to R210): the walk for VA y of a partition completes: its operand takes the physical address and the leaf (z = 0),
or the level of the failing entry (z = 1). -/
def execPageWalk (s : State) : Out :=
  let a := s.arg
  .next { s with arg := match s.translate (s.part a.p) a.y with
    | .ok l => { a with z := 0, x := l.pa, l := [l.pte] }
    | .error lvl => { a with z := 1, x := lvl, l := [] } }

/-- TLB_INVALIDATE (R211): GO has started an invalidation on all four dies, of every translation of the partition (x = 1) or of the page
of every size that covers the VA y; BUSY clears in the next fclk. -/
def execTlbInvalidate (s : State) : Out :=
  let p := s.arg.p
  let x := s.part p
  let s := { s with oldPtes := s.oldPtes.map (fun (r : OldPte) => if r.p == p then { r with armed := true } else r) }
  .next ((s.setCsrF p 0x0A2 31 31 1).sched (s.now + 1) 0 .tlbInvalidateDone {
    p := p, x := bits (x.csrN 0x0A2) 1 1, y := bits (x.csrN 0x0A1) 15 0 * 2 ^ 32 + x.csrN 0x0A0 / 65536 * 65536 })

/-- What an invalidation that completes leaves of an old entry: one that it covers is gone, or no longer gives a page with the VA. -/
def OldPte.after (p all va : Nat) (r : OldPte) : Option OldPte :=
  if r.p == p && r.armed then (if all = 1 then none else some { r with armed := false, dead := va :: r.dead }) else some r

/-- TLB_INVALIDATE_DONE (R211): BUSY clears, and no access uses an invalidated translation. -/
def execTlbInvalidateDone (s : State) : Out :=
  .next (({ s with oldPtes := s.oldPtes.filterMap (OldPte.after s.arg.p s.arg.x s.arg.y) } : State).setCsrF s.arg.p 0x0A2 31 31 0)

/-! ### A partition frozen whole (R219, R380) -/

/-- Every instance of a partition freezes, with no frame and no handler; engine commands stop at their next boundary; accesses that
have not performed are discarded. -/
def State.freezePart (s : State) (p : Nat) : State :=
  if (s.part p).frozen then s
  else
    let s := (s.part p).insts.foldl (fun s i => if i.status == .running then s.freeze p i.id else s) (s.helmHalt p)
    let s := s.cancel (fun r a => (r == .channelWrite || r == .tileSramStore || r == .hostMemoryWrite || r == .loadReply
      || r == .fullEmptyAct || r == .trapFrameWrite || r == .trapHandlerStart) && a.p == p)
    s.modPart p (fun x => { x with frozen := true, posted := [] })

/-- INTEGRITY (R380): the partition freezes, event 0x03 goes to its function and to management, and a window whose region failed
closes. -/
def State.integrityFail (s : State) (p pa cause : Nat) : State :=
  let w := s.windows.find? (fun w => w.regions.contains (pa >>> 26))
  let cause := if w.isSome && cause ≤ 3 then 5 else cause
  let n := (w.map Window.n).getD 0
  let s := if cause = 5 then { s with windows := s.windows.map (fun v => if v.n == n then { v with closed := true } else v) } else s
  let pay := [pa % 2 ^ 32, pa / 2 ^ 32, cause, if cause = 5 then n else 0]
  let s := (s.freezePart p).modPart p (fun x => { x with integrity := true })
  (s.postVf p 0x03 pay).postPf p 0x03 pay

/-- GUARD_LINE_READ (R374, R375, R378): a line read is checked before any byte returns: with z = 1 against the 64 bytes and the side-band word l
that DRAM gave; y is the cause of another failure. A line that has failed fails again (R380). -/
def execGuardLineRead (s : State) : Out :=
  let a := s.arg
  let a := if a.z = 1 then { a with y := if s.lineGood (a.x / 64) (a.l.take 64) ((a.l[64]?).getD 0) then 0 else 1 } else a
  let bad := a.y != 0 || s.badLines.contains (a.x / 64)
  let s := if a.y = 0 ∨ a.y = 4 ∨ s.badLines.contains (a.x / 64) then s else { s with badLines := s.badLines ++ [a.x / 64] }
  .next (if !bad || (s.part a.p).frozen then s else s.integrityFail a.p a.x (if a.y = 0 then 1 else a.y))

/-- PAGE_REENCRYPT (R379): the 4 KiB page x takes its next major counter, and its minor counters become 0; no byte changes. -/
def execPageReencrypt (s : State) : Out :=
  let g := s.guardPage s.arg.x
  .next (if g.major + 1 = 2 ^ 64 then s.integrityFail s.arg.p (s.arg.x * 4096) 4 else s.reencrypt s.arg.x)

/-- COUNTER_WRITEBACK (R377, R379): the counter of counter block or node y of level x, held in its parent, increments. -/
def execCounterWriteback (s : State) : Out :=
  let a := s.arg
  let old : Nat := ((s.tree.find? (fun t => t.1 == a.x && t.2.1 == a.y)).map (fun t => t.2.2)).getD 0
  .next (if old + 1 = 2 ^ 56 then s.integrityFail a.p (a.y * 8 ^ a.x * 4096) 4
    else { s with tree := s.tree.filter (fun t => !(t.1 == a.x && t.2.1 == a.y)) ++ [(a.x, a.y, old + 1)] })

/-! ### Errors of the on-die stores (R219, R344) -/

/-- TILE_SRAM_ERROR (R219): an uncorrectable error at the fabric address y: the partition freezes, and event 0x04 is posted. -/
def execTileSramError (s : State) : Out :=
  let a := s.arg
  .next (((s.freezePart a.p).postVf a.p 0x04 [a.y]).postPf a.p 0x04 [a.y])

/-- CORRECTED_ERROR (R219): nothing changes but CORRCNT. -/
def execCorrectedError (s : State) : Out := .next (s.bumpCsr s.arg.p 0x121 31 0)

/-- IMAGE_CRC_ERROR (R219): the block image is fetched from memory again, and the configuration goes on. -/
def execImageCrcError (s : State) : Out :=
  .next (s.modPage s.arg.p s.arg.pg (fun y => { y with ctxs := y.ctxs.filter (· != s.arg.x) }))

/-- LINE_CACHE_ERROR (R219): the line x is discarded, and the guard checks it as it is read again. -/
def execLineCacheError (s : State) : Out := .next (s.sched s.now 0 .guardLineRead { p := s.arg.p, x := s.arg.x / 64 * 64 })

/-- 24 hours in fclk (R2, R422). -/
def day : Nat := 24 * 3600 * 850000000

/-- CONFIG_STORE_ERROR (R344): an uncorrectable error of a page's configuration store: its tokens freeze in place, tokens to it wait in
the mesh, and its contexts are loaded again. The third within 24 h in a cluster retires it (R422). -/
def execConfigStoreError (s : State) : Out :=
  let p := s.arg.p
  let pg := s.arg.pg
  let cl := (((s.part p).place? pg).map (fun z => z.1 / 16)).getD (pg % 256 / 16)
  let s := s.modPage p pg (fun y => { y with reload := true })
  let recent := s.cfgErrs.filter (fun e => decide (s.now < e.2.2 + day))
  let s := { s with cfgErrs := recent ++ [(pg / 256, cl, s.now)] }
  let n : Nat := (s.cfgErrs.filter (fun e => e.1 == pg / 256 && e.2.1 == cl)).length
  let s := if 3 ≤ n then
      s.sched s.now 0 .clusterRetire { x := pg / 256, y := cl } else s
  .next (s.sched (s.now + 64 + 48) (srcOf pg 0) .configReloadDone { p := p, pg := pg })

/-- The first slot of a block whose word in memory differs from the one configured; the header counts for slot 0. -/
def State.rewritten (s : State) (p : Nat) (blk : Nat) (hdr mask : Word) (ws : List Word) : Option Nat :=
  match s.readVa p blk 8 true with
  | .error _ => some 0
  | .ok h =>
    if word h != hdr || word (h / 2 ^ 32) != mask then some 0
    else
      let now := (s.fetchWords p ws.length (blk + 8)).1
      (List.range ws.length).find? (fun k => now[k]? != ws[k]?)

/-- An activation whose block cannot be restored traps (BLOCKFMT 0x18); an RFT will load its block from the image of then. -/
def State.reloadAct (s : State) (p pg : Nat) (tag : Tag) : State :=
  match (s.page p pg).act? tag with
  | none => s
  | some a =>
    match s.rewritten p a.blk a.hdr a.mask a.words with
    | none => s
    | some k =>
      (s.takeTrap p a.id (trapAt pg a k 0x05 0x18 0)).modAct p pg tag (fun a => { a with rewrote := true })

/-- CONFIG_RELOAD_DONE (R344): the page goes on with unchanged results, or the instance of a block whose image has been rewritten
traps. -/
def execConfigReloadDone (s : State) : Out :=
  let p := s.arg.p
  let pg := s.arg.pg
  let s := ((s.page p pg).acts.map Act.tag).foldl (fun s t => s.reloadAct p pg t) s
  let sk := (s.page p pg).skid
  let s := s.modPage p pg (fun y => { y with reload := false, skid := if y.gated then y.skid else [] })
  .next (if (s.page p pg).gated then s
    else ((sk.foldl (fun s r => s.sched s.now (srcOf pg 0) r.1 r.2) s).unhold p pg).wake p pg)

end Sys2Proof.Machine
end

