-- ==== Sys2Proof/Machine/Helm.lean ====
section
/-! DEFINITION. Sys2Proof/Machine/Helm.lean: the Helm chart engine: doorbells, slots and entries (R313 to R317, R320), nodes (R317, R318,
R321, R323, R324) and chart errors (R319). -/

namespace Sys2Proof.Machine

/-! ### Memory, as Helm reaches it (R317) -/

/-- A read of n bytes with R = 1. -/
def State.helmRead (s : State) (p va n : Nat) : Option Nat := (s.readVa p va n false).toOption

/-- A write, which is lost where the page refuses it; a line whose check fails is the event INTEGRITY (R209, R380). -/
def State.helmWrite (s : State) (p va : Nat) (bs : List Byte) : State :=
  match s.walkFail (s.part p) va with
  | some k => s.badRead p k
  | none =>
    match s.translate (s.part p) va with
    | .ok l => if !(s.part p).mayWrite l then s else if s.badAt l.pa bs.length then s.badRead p (s.badKey l.pa bs.length) else s.memWrite l.pa bs
    | .error _ => s

/-- The time of a read (R321). -/
def State.helmTime (s : State) (p die va : Nat) : Nat :=
  match s.translate (s.part p) va with
  | .ok l => engineRead (die * 4) l.pa
  | .error _ => 48

/-- The VA of a queue's descriptor (R313, R314). -/
def Part.queueVa (x : Part) (q : Nat) : Nat := x.base64 0x0E0 7 + 128 * q

/-! ### Slots (R313, R320) -/

/-- A slot of a die. -/
def State.slot? (s : State) (die num : Nat) : Option HelmSlot := s.helmSlots.find? (fun z => z.die == die && z.num == num)

/-- Changing a slot. -/
def State.modSlot (s : State) (die num : Nat) (f : HelmSlot → HelmSlot) : State :=
  { s with helmSlots := s.helmSlots.map (fun z => if z.die == die && z.num == num then f z else z) }

/-- A slice of 100 µs (R2, R320). -/
def sliceLen : Nat := 85000

/-- The queues of a die's line. -/
def State.lineOf (s : State) (die : Nat) : List (Nat × Nat × Nat) := s.helmLine.filter (fun l => l.1 == die)

/-- A queue joins its die's line, unless it is there or has a slot (R320). With no slot free, the slots whose slice has passed give
theirs up. -/
def State.helmJoin (s : State) (die p q : Nat) : State :=
  if s.helmSlots.any (fun z => z.p == p && z.q == q) || s.helmLine.any (fun l => l.2 == (p, q)) then s
  else
    let s := { s with helmLine := s.helmLine ++ [(die, p, q)] }
    let full := decide (64 ≤ (s.helmSlots.filter (fun z => z.die == die)).length)
    let s := (s.helmSlots.filter (fun z => z.die == die && full && decide (z.slice ≤ s.now))).foldl (fun s z =>
      s.sched s.now 0 .helmSliceExpiry { p := z.p, x := die, y := z.num, fid := z.serial }) s
    s.sched s.now 0 .helmQueueMap { p := p, x := die }

/-- Does a queue hold work that may be walked: head and tail differ, or a walker state is saved, and its error word is 0? -/
def State.queueWork (s : State) (p q : Nat) : Option Nat :=
  match s.helmRead p ((s.part p).queueVa q) 20 with
  | none => none
  | some d =>
    let die := fieldAt d 9 1
    let work := fieldAt d 12 2 != fieldAt d 14 2 || s.helmSaved.any (fun z => z.p == p && z.q == q)
    if (s.part p).helmDies.contains die && fieldAt d 16 4 = 0 && work then some die else none

/-- A slot loses its queue. -/
def State.freeSlot (s : State) (z : HelmSlot) : State :=
  { s with helmSlots := s.helmSlots.filter (fun y => !(y.die == z.die && y.num == z.num)) }.sched s.now 0 .helmQueueMap { p := z.p, x := z.die }

/-- A LAUNCH of a queue that waits for its grant is withdrawn. -/
def State.withdrawLaunch (s : State) (p die q : Nat) : State :=
  s.modPart p (fun x => { x with requests := x.requests.filter (fun r => r.kind != .launch die q) })

/-- A queue is unmapped for good: its slot and its saved walker state go. -/
def State.unmapSlot (s : State) (z : HelmSlot) : State :=
  let s := s.withdrawLaunch z.p z.die z.q
  let s := { s with helmSaved := s.helmSaved.filter (fun y => !(y.p == z.p && y.q == z.q)) }
  match s.helmSlots.find? (fun y => y.p == z.p && y.q == z.q) with
  | some y => s.freeSlot y
  | none => s

/-- A slot saves its walker state, whose 64 bytes the spec does not lay out (log 9), and its queue is unmapped (R314, R320). -/
def State.saveSlot (s : State) (z : HelmSlot) : State :=
  let s := s.helmWrite z.p (z.dva + 64) (freeBytes s.free 64)
  ({ s with free := s.free + 64, helmSaved := s.helmSaved ++ [z] }).freeSlot z

/-- The slice of a slot ends with the line not empty (R320): it saves its state, and its queue rejoins the line. -/
def State.yieldSlot (s : State) (z : HelmSlot) : State :=
  let s := s.saveSlot z
  { s with helmLine := s.helmLine ++ [(z.die, z.p, z.q)] }

/-- Must a slot give up its queue at a node boundary: its slice has passed with others waiting? -/
def State.sliceDone (s : State) (z : HelmSlot) : Bool := decide (z.slice ≤ s.now) && !(s.lineOf z.die).isEmpty

/-- A partition that is PAUSED has its queues unmapped at their next node boundary (R387). -/
def State.helmPaused (s : State) (p : Nat) : Bool := (s.part p).vf.state == .paused

/-! ### Errors (R319) -/

/-- A chart error: status 2, the queue's error word, the event; the queue is unmapped. The detail of code 4 stands in [15:8] of the
word, and the node above it. -/
def State.chartError (s : State) (z : HelmSlot) (code detail : Nat) : State :=
  let w := if code = 4 then code + detail * 256 + z.node * 65536 else code + z.node * 256
  let s := s.helmWrite z.p (z.eva + 12) (leBytes 4 (2 + code * 256))
  let s := s.helmWrite z.p (z.dva + 16) (leBytes 4 w)
  (s.unmapSlot z).postVf z.p 0x06 [z.q, w]

/-- A read that failed: code 1 or 3, unless it met a line whose check fails, which is the event INTEGRITY (R209, R380). -/
def State.helmFail (s : State) (z : HelmSlot) (va n code : Nat) : State :=
  match s.readVa z.p va n false with
  | .error (255, _, k) => s.badRead z.p k
  | _ => s.chartError z code 0

/-! ### Queues by their number -/

/-- The slot of a queue, and its walker state, mapped or saved. -/
def State.queueSlot (s : State) (p q : Nat) : Option HelmSlot := s.helmSlots.find? (fun z => z.p == p && z.q == q)
def State.walker (s : State) (p q : Nat) : Option HelmSlot :=
  (s.queueSlot p q).orElse fun _ => s.helmSaved.find? (fun z => z.p == p && z.q == q)

/-- Changing the walker state of a queue, mapped or saved. -/
def State.modWalker (s : State) (p q : Nat) (f : HelmSlot → HelmSlot) : State :=
  let g (z : HelmSlot) : HelmSlot := if z.p == p && z.q == q then f z else z
  { s with helmSlots := s.helmSlots.map g, helmSaved := s.helmSaved.map g }

/-- The walker state, mapped or saved, that waits for something. -/
def State.waiter (s : State) (p : Nat) (w : HelmWait) : Option HelmSlot :=
  (s.helmSlots ++ s.helmSaved).find? (fun z => z.p == p && z.wait == w)

/-- A chart error of a node of an entry, which its queue may have left behind or have been unmapped from. -/
def State.queueError (s : State) (p die q node eva code detail : Nat) : State :=
  let z := (s.walker p q).getD { die := die, num := 0, p := p, q := q, dva := (s.part p).queueVa q }
  s.chartError { z with node := node, eva := eva } code detail

/-- A slot waits (R317): a pause, or a slice that has passed with others in the line, takes effect at once (R320, R387). -/
def State.waitFor (s : State) (z : HelmSlot) (w : HelmWait) : State :=
  let z := { z with wait := w }
  let s := s.modSlot z.die z.num (fun y => { y with wait := w })
  if (s.part z.p).frozen then s
  else if s.helmPaused z.p then s.saveSlot z
  else if s.sliceDone z then s.yieldSlot z
  else s

/-! ### Nodes (R317, R321) -/

/-- The row of a node type; none where it is reserved. -/
def nodeRow (ty : Nat) : Option Instr :=
  match ty with
  | 1 => some .launch
  | 2 => some .copy
  | 3 => some .wait
  | 4 => some .signal
  | 5 => some .cond
  | 6 => some .helmLoop
  | 7 => some .helmEnd
  | _ => none

/-- A slot goes to a node: it is read, and acts 16 fclk and the read later. At this boundary a slice that has passed, or a pause, takes
effect; a frozen partition's slots stop (R380). -/
def State.nodeGo (s : State) (z : HelmSlot) (idx : Nat) : State :=
  let z := { z with node := idx, wait := .none }
  let s := s.modSlot z.die z.num (fun _ => z)
  if (s.part z.p).frozen then s
  else if s.helmPaused z.p then s.saveSlot z
  else if s.sliceDone z then s.yieldSlot z
  else if idx = 0xFFFF then s.chartError z 2 0
  else
    let va := z.base + 64 * idx
    match s.helmRead z.p va 64 with
    | none => s.helmFail z va 64 1
    | some raw =>
      match nodeRow (fieldAt raw 0 1) with
      | none => s.chartError z 2 0
      | some row =>
        let s := s.modSlot z.die z.num (fun z => { z with raw := raw })
        s.sched (s.now + 16 + s.helmTime z.p z.die va) (z.die * 16384) row { p := z.p, x := z.die, y := z.num, fid := z.serial }

def HelmSlot.f (z : HelmSlot) (off n : Nat) : Nat := fieldAt z.raw off n
def HelmSlot.next (z : HelmSlot) : Nat := z.f 2 2
def HelmSlot.flag (z : HelmSlot) (k : Nat) : Bool := bitAt (z.f 1 1) k

/-- The slot of a row, while it still walks the entry that the row belongs to and its partition is not frozen. -/
def State.argSlot (s : State) : Option HelmSlot :=
  match s.slot? s.arg.x s.arg.y with
  | some z => if z.serial = s.arg.fid && !(s.part z.p).frozen then some z else none
  | none => none

/-- A later phase of a node's row. -/
def State.nodeLater (s : State) (z : HelmSlot) (after : Nat) (row : Instr) (ph : Nat) : State :=
  s.sched (s.now + after) (z.die * 16384) row { p := z.p, x := z.die, y := z.num, fid := z.serial, z := ph }

/-- The time to a handle's die and back (R321, R244). -/
def handleTime (die h : Nat) : Nat := 24 + 24 * crossings (die * 256) (hDie h * 256)

/-! ### Entries (R314 to R317) -/

/-- DOORBELL (R314, R316): the tail of a queue is written; a queue number at or above NQ, a descriptor that cannot be read, and a queue
whose die has no Helm context are counted as discarded. -/
def execDoorbell (s : State) : Out :=
  let p := s.arg.p
  let x := s.part p
  let v := s.arg.w0.toNat
  let q := bits v 9 0
  let lost (s : State) : State := s.modPart p (fun x => { x with vf := { x.vf with dbdisc := min (x.vf.dbdisc + 1) 0xFFFFFFFF } })
  .next (if bits (x.csrN 0x0E2) 10 0 ≤ q then lost s
    else
      match s.helmRead p (x.queueVa q) 20 with
      | none => lost s
      | some d =>
        let s := s.helmWrite p (x.queueVa q + 14) (leBytes 2 (bits v 31 16))
        if !x.helmDies.contains (fieldAt d 9 1) then lost s
        else if s.helmPaused p || x.frozen then s
        else
          match s.queueWork p q with
          | some die => s.helmJoin die p q
          | none => s)

/-- An entry begins in a slot: its start timestamp is written and its first node is read. -/
def State.entryStart (s : State) (z : HelmSlot) : State :=
  match s.helmRead z.p z.dva 20 with
  | none => s.helmFail z z.dva 20 1
  | some d =>
    let head := fieldAt d 12 2
    let eva := fieldAt d 0 8 + 64 * (head % 2 ^ (fieldAt d 8 1 % 16))
    let z := { z with eva := eva, serial := s.nextFid, loops := [], node := 0 }
    let s := { s with nextFid := s.nextFid + 1 }.modSlot z.die z.num (fun _ => z)
    match s.helmRead z.p eva 64 with
    | none => s.helmFail z eva 64 1
    | some e =>
      let z := { z with base := fieldAt e 0 8 }
      let s := s.helmWrite z.p (eva + 16) (leBytes 8 s.ts)
      if z.base % 64 ≠ 0 then s.chartError z 1 0 else s.nodeGo z (fieldAt e 8 2)

/-- HELM_ENTRY_START (R317): a mapped slot takes the entry at head. -/
def execHelmEntryStart (s : State) : Out :=
  .next (match s.slot? s.arg.x s.arg.y with
    | some z => if (s.part z.p).frozen then s else if s.helmPaused z.p then s.unmapSlot z else s.entryStart z
    | none => s)

/-- The slot of a queue goes on once what it waited for has come. -/
def State.slotGo (s : State) (p q : Nat) : State :=
  match s.queueSlot p q with
  | some z => match z.wait with
    | .go t => if t ≤ s.now && !(s.part p).frozen then s.nodeGo z z.next else s
    | _ => s
  | none => s

/-- A queue that is mapped again goes on with its saved state: what it waited for may have come meanwhile. A LAUNCH whose request was withdrawn
asks again. -/
def State.resumeSlot (s : State) (z : HelmSlot) : State :=
  match z.wait with
  | .none => s.nodeGo z z.node
  | .go _ => s.slotGo z.p z.q
  | .grant =>
    let asked := (s.part z.p).requests.any (fun r => r.kind == .launch z.die z.q) || s.agenda.any (fun t => match t.act with
      | .row .launchContinue a => a.p == z.p && a.y == z.q && (a.z == 1 || a.z == 2)
      | _ => false)
    if asked then s else s.nodeGo z z.node
  | .word h v =>
    let met := match (s.obj z.p h).st with
      | .word w => decide (v ≤ w.toNat)
      | _ => decide (v = 0)
    if met then s.nodeGo z z.next else s
  | .inst _ _ => s
  | .copy _ => s

/-- HELM_QUEUE_MAP (R320): a free slot of die x takes the head of its line. -/
def execHelmQueueMap (s : State) : Out :=
  let die := s.arg.x
  let used := (s.helmSlots.filter (fun z => z.die == die)).map HelmSlot.num
  .next (match lowestFree used 64 0, s.lineOf die with
    | some n, l :: rest =>
      let p := l.2.1
      let q := l.2.2
      let s := { s with helmLine := s.helmLine.filter (fun m => m != l) }
      let s := if rest.isEmpty then s else s.sched s.now 0 .helmQueueMap { p := p, x := die }
      if (s.queueWork p q).isNone || (s.part p).frozen || s.helmPaused p then s
      else
        let old := s.helmSaved.find? (fun z => z.p == p && z.q == q)
        let s := { s with helmSaved := s.helmSaved.filter (fun z => !(z.p == p && z.q == q)) }
        let blank : HelmSlot := { die := die, num := n, p := p, q := q, dva := (s.part p).queueVa q }
        let z : HelmSlot := { (old.getD blank) with num := n, serial := s.nextFid, slice := s.now + sliceLen }
        let s := { s with nextFid := s.nextFid + 1, helmSlots := s.helmSlots ++ [z] }
        let s := s.sched (s.now + sliceLen) 0 .helmSliceExpiry { p := p, x := die, y := n, fid := z.slice }
        if old.isSome then s.resumeSlot z else s.sched s.now 0 .helmEntryStart { p := p, x := die, y := n }
    | _, _ => s)

/-- HELM_SLICE_EXPIRY (R320): a slot whose slice has passed with others in its line gives up its queue, at once where the queue waits, or
else at its next node. -/
def execHelmSliceExpiry (s : State) : Out :=
  .next (match s.slot? s.arg.x s.arg.y with
    | some z => match z.wait with
      | .none => s
      | _ => if s.sliceDone z && !(s.part z.p).frozen then s.yieldSlot z else s
    | none => s)

/-! ### LAUNCH (R318, R323) -/

/-- The windows of a LAUNCH: every record of its list that names all functions or its own (R59); reserved attribute bits are ignored (R8). -/
def State.launchWins (s : State) (p va n fn : Nat) : Option (List Win) :=
  (List.range n).foldl (fun w k =>
    match w, s.helmRead p (va + 32 * k) 32 with
    | some l, some d =>
      if fieldAt d 2 2 = 0xFFFF ∨ fieldAt d 2 2 = fn then
        some (l.set (fieldAt d 0 1 % 8) { base := BitVec.ofNat 64 (fieldAt d 8 8), limit := BitVec.ofNat 64 (fieldAt d 16 8), attr := word (fieldAt d 4 4 % 512) })
      else some l
    | _, _ => none) (some (List.replicate 8 ({} : Win)))

/-- The first window record that cannot be read. -/
def State.badRecord (s : State) (p va n : Nat) : Nat :=
  (((List.range n).map (fun k => va + 32 * k)).find? (fun a => (s.helmRead p a 32).isNone)).getD va

/-- LAUNCH (R318): the node asks Pelorus for a root instance. -/
def execLaunch (s : State) : Out :=
  .next (match s.argSlot with
    | none => s
    | some z =>
      match s.readDesc z.p (z.f 8 8), s.launchWins z.p (z.f 32 8) (z.f 40 2) (z.f 42 2) with
      | .error _, _ => s.helmFail z (z.f 8 8) 64 3
      | .ok _, none => s.helmFail z (s.badRecord z.p (z.f 32 8) (z.f 40 2)) 32 1
      | .ok d, some wins =>
        let args := [z.f 16 4, z.f 20 4, z.f 24 4].map (fun v => ({ val := word v } : Reg))
        let pg := if z.f 44 2 = 0xFFFF then z.die * 256 else z.f 44 2 / 64
        if z.f 8 8 % 64 ≠ 0 then s.chartError z 3 0
        else (s.waitFor z .grant).request z.p { kind := .launch z.die z.q, desc := d, args := args.take d.arity, wins := wins, pg := pg, since := s.now })

/-- LAUNCH_RESULT (R318): after an instance's drain, its results are written at the result VA, its handle is incremented, and a node that
waits for its end goes on 6 fclk later (R323). A fault of either is a chart error where a node waits; a line whose check fails is the event
INTEGRITY (R209, R380). -/
def execLaunchResult (s : State) : Out :=
  let a := s.arg
  let bs := a.l.flatMap (leBytes 4)
  let put : Option State :=
    if a.y = 0 then some s
    else match s.translate (s.part a.p) a.y with
      | .ok l => if (s.part a.p).mayWrite l then some (s.memWrite l.pa bs) else none
      | .error _ => none
  let bad : Option Nat :=
    if a.y = 0 then none
    else (s.walkFail (s.part a.p) a.y).orElse fun _ => match s.translate (s.part a.p) a.y with
      | .ok l => if (s.part a.p).mayWrite l && s.badAt l.pa bs.length then some (s.badKey l.pa bs.length) else none
      | .error _ => none
  let fail (s : State) (code : Nat) : State := match s.waiter a.p (.inst a.id a.fid) with
    | some z => s.queueError z.p z.die z.q z.node z.eva code 0
    | none => s
  .next (if let some k := bad then s.badRead a.p k
    else match put with
    | none => fail s 1
    | some s =>
      match if bitAt a.z 15 then .ok s else s.postAdd a.p a.z with
      | .error _ => fail s 5
      | .ok s => match s.waiter a.p (.inst a.id a.fid) with
        | some z => (s.modWalker z.p z.q (fun z => { z with wait := .go (s.now + 6) })).sched (s.now + 6) (z.die * 16384) .launchContinue
            { p := a.p, id := a.id, fid := a.fid, x := z.die, y := z.q }
        | none => s)

/-- LAUNCH_CONTINUE (R318, R319, R323): for queue y of die x, a launched instance has ended (z = 0) or been granted (z = 1), its placement has
failed (z = 2), or a copy is complete (z = 3) or has failed (z = 4): a slot that waits for it goes on, and a saved state will. -/
def execLaunchContinue (s : State) : Out :=
  let a := s.arg
  let code := (a.l[1]?).getD 0
  .next (if (s.part a.p).frozen then s
    else match a.z with
    | 0 => s.slotGo a.p a.y
    | 3 =>
      match s.waiter a.p (.copy a.id) with
      | some z => (s.modWalker z.p z.q (fun z => { z with wait := .go s.now })).slotGo z.p z.q
      | none => s
    | 4 =>
      let s := s.modPart a.p (fun x => { x with copies := x.copies.filter (fun c => c.num != a.id) })
      s.queueError a.p a.x a.y ((a.l[0]?).getD 0) code ((a.l[2]?).getD 6) 0
    | _ =>
      match s.walker a.p a.y with
      | none => s
      | some z =>
        if z.wait ≠ .grant then s
        else if a.z = 2 then s.queueError z.p z.die z.q z.node z.eva 4 code
        else
          let gen := (s.inst a.p a.id).gen
          let s := s.modInst a.p a.id (fun i => { i with origin := .launch z.die (z.f 48 8) (z.f 28 4) })
          let w : HelmWait := if z.flag 0 then .inst a.id gen else .go s.now
          if z.flag 0 && (s.queueSlot a.p a.y).isSome then s.waitFor z w
          else (s.modWalker a.p a.y (fun z => { z with wait := w })).slotGo a.p a.y)

/-! ### COPY (R317, R324) -/

/-- The window through which a Helm copy reaches the partition's pages. -/
def wholeSpace : Win := { base := 0, limit := BitVec.ofNat 64 (2 ^ 48 - 1), attr := 0xD }

/-- The command of a COPY node: its number, engine, form, descriptor's VA and source. -/
def helmCmd (num eng form va : Nat) (src : CopySrc) : CopyCmd where
  num := num
  eng := eng
  ch := 0
  src := src
  form := form
  descVa := va
  desc := 0
  win := wholeSpace
  sw := wholeSpace
  dw := wholeSpace

/-- A COPY node's command reaches its engine: it is accepted, going on from one that a pause has stopped, or is an error of its chart. -/
def State.helmReach (s : State) (p : Nat) (c : CopyCmd) (old : Option CopyCmd) : State :=
  let stop (e : Nat × Nat × Nat) : State :=
    if e.2.1 = 255 then s.badRead p e.2.2
    else match c.src with
      | .helm die q node eva => s.queueError p die q node eva 6 0
      | .fire _ _ => s
  match s.copyOwed p c old with
  | .error e => stop e
  | .ok t =>
    match t.copyReach p c old with
    | .ok t => t
    | .error e => stop e

/-- A copy that a COPY node issued reaches its engine; that of a paused partition waits there (R387). -/
def State.helmCopy (s : State) (p die q num : Nat) (l : List Nat) : State :=
  match l with
  | [va, eng, form, node, eva] =>
    let c := helmCmd num (die * 4 + eng) form va (.helm die q node eva)
    if s.helmPaused p then s.modPart p (fun x => { x with copies := x.copies ++ [{ c with stopped := true }] }) else s.helmReach p c none
  | _ => s

/-- After the pause they go on. -/
def State.helmUnhalt (s : State) (p : Nat) : State :=
  ((s.part p).copies.filter (fun c => c.place.isNone && c.stopped)).foldl (fun s c =>
    s.helmReach p (helmCmd c.num c.eng c.form c.descVa c.src) (some c)) s

/-- Is a COPY node's command of a partition on its way to its engine, or at work there? -/
def State.helmCopying (s : State) (p : Nat) : Bool :=
  (s.part p).copies.any (fun c => c.place.isNone && !c.stopped) || s.agenda.any (fun t => match t.act with
    | .row .copy a => a.p == p && a.z == 1
    | _ => false)

/-- COPY (R324): the node issues its copy, which reaches the engine 12 fclk later (z = 1), whatever becomes of the walk; the node waits for its
completion with flag [0]. -/
def execCopy (s : State) : Out :=
  let a := s.arg
  .next (if a.z ≠ 0 then (if (s.part a.p).frozen then s else s.helmCopy a.p a.x a.y a.id a.l)
    else match s.argSlot with
    | none => s
    | some z =>
      let eng := z.f 16 1
      let form := z.f 17 1 % 8
      if 3 < eng || 4 < form || !(s.part z.p).engines.contains (z.die, eng) then s.chartError z 6 0
      else
        let n := s.nextFid
        let s := { s with nextFid := n + 1 }.sched (s.now + 12) (z.die * 16384) .copy
          { p := z.p, x := z.die, y := z.q, z := 1, id := n, l := [z.f 8 8, eng, form, z.node, z.eva] }
        if z.flag 0 then s.waitFor z (.copy n) else s.nodeGo z z.next)

/-! ### WAIT and SIGNAL -/

/-- WAIT (R317, R321): the object is read after the way to its die (z = 1); the node goes on, or waits until its value is reached. -/
def execWait (s : State) : Out :=
  .next (match s.argSlot with
    | none => s
    | some z =>
      let h := z.f 8 4
      let v := z.f 12 4
      if s.arg.z = 0 then s.nodeLater z (handleTime z.die h) .wait 1
      else if !(s.part z.p).handleOk h || (s.objFault z.p h).isSome then s.chartError z 5 0
      else
        let wait (w : Nat) : State := if v ≤ w then s.nodeGo z z.next else s.waitFor z (.word h v)
        match (s.obj z.p h).st with
        | .word w => wait w.toNat
        | .free => wait 0
        | _ => s.chartError z 5 0)

/-- WAIT_SATISFIED (R321): a waiting WAIT of queue y goes on 6 fclk after the operation that satisfied it. -/
def execWaitSatisfied (s : State) : Out := .next (s.slotGo s.arg.p s.arg.y)

/-- SIGNAL (R317, R321): after the way to the object's or the page's die (z = 1), the value is added or swapped in, or a message goes to
the page's host strand. -/
def execSignal (s : State) : Out :=
  .next (match s.argSlot with
    | none => s
    | some z =>
      let h := z.f 8 4
      let v := word (z.f 12 4)
      let msg := z.flag 1
      let pg := h % 65536 / 64
      if s.arg.z = 0 then
        s.nodeLater z (if msg then 24 + 24 * crossings (z.die * 256) pg else handleTime z.die h) .signal 1
      else if msg then
        (s.sched s.now (srcOf pg 0) .messageArrival { p := z.p, pg := pg, z := 1, y := z.f 16 1 % 16, w0 := word z.node, w1 := v }).nodeGo z z.next
      else
        match s.postWord z.p h (fun w => if z.flag 0 then v else w + v) with
        | .ok s => s.nodeGo z z.next
        | .error _ => s.chartError z 5 0)

/-! ### COND, LOOP and END -/

/-- COND (R317, R321): the predicate word, read after its time (z = 1), chooses the next node. -/
def execCond (s : State) : Out :=
  .next (match s.argSlot with
    | none => s
    | some z =>
      if s.arg.z = 0 then s.nodeLater z (s.helmTime z.p z.die (z.f 8 8)) .cond 1
      else
        match s.helmRead z.p (z.f 8 8) 4 with
        | none => s.helmFail z (z.f 8 8) 4 1
        | some w => s.nodeGo z (if w ≠ 0 then z.f 16 2 else z.f 18 2))

/-- LOOP (R317, R321): while its count is below the maximum and the predicate word is not 0, the count rises and the body is entered;
otherwise the count clears. A ninth count is chart error 7. -/
def execHelmLoop (s : State) : Out :=
  .next (match s.argSlot with
    | none => s
    | some z =>
      if s.arg.z = 0 then s.nodeLater z (s.helmTime z.p z.die (z.f 16 8)) .helmLoop 1
      else
        match s.helmRead z.p (z.f 16 8) 4 with
        | none => s.helmFail z (z.f 16 8) 4 1
        | some w =>
          let n := (kget z.loops z.node).getD 0
          if n < z.f 24 4 && w ≠ 0 then
            if (kget z.loops z.node).isNone && 8 ≤ z.loops.length then s.chartError z 7 0
            else s.nodeGo { z with loops := kset z.loops z.node (n + 1) } (z.f 8 2)
          else s.nodeGo { z with loops := z.loops.filter (fun l => l.1 != z.node) } z.next)

/-- END (R317): the end timestamp and status 1 are written, then head advances; the next entry begins, or the slot is free. -/
def execHelmEnd (s : State) : Out :=
  .next (match s.argSlot with
    | none => s
    | some z =>
      let s := s.helmWrite z.p (z.eva + 24) (leBytes 8 s.ts)
      let s := s.helmWrite z.p (z.eva + 12) (leBytes 4 1)
      match s.helmRead z.p z.dva 20 with
      | none => s.unmapSlot z
      | some d =>
        let head := (fieldAt d 12 2 + 1) % 65536
        let s := s.helmWrite z.p (z.dva + 12) (leBytes 2 head)
        if head = fieldAt d 14 2 then s.unmapSlot z
        else if s.sliceDone z then
          let s := s.unmapSlot z
          { s with helmLine := s.helmLine ++ [(z.die, z.p, z.q)] }
        else s.sched s.now (z.die * 16384) .helmEntryStart { p := z.p, x := z.die, y := z.num })

end Sys2Proof.Machine
end

