-- ==== Sys2Proof/Machine/Reset.lean ====
section
/-! DEFINITION. Sys2Proof/Machine/Reset.lean: the reset ladder (R383, R384), the function reset (R400), and the host's aperture (R402). -/

namespace Sys2Proof.Machine

/-- The status of a management command (R366): its code, its partition, and 0 where it acted. -/
def State.reply (s : State) (code p : Nat) (ok : Bool) : State := { s with replies := s.replies ++ [(code, p, b2n (!ok))] }

/-- Is there a partition with a number? -/
def State.alive (s : State) (p : Nat) : Bool := s.parts.any (fun x => x.num == p && x.live)

/-! ### Rung 1: a Helm queue -/

/-- A queue's descriptor, where it can be read, becomes one of an empty queue without an error. -/
def State.emptyQueue (s : State) (p va : Nat) (d : Option Nat) : State :=
  match d with
  | none => s
  | some d => (s.helmWrite p (va + 12) (leBytes 2 (fieldAt d 14 2))).helmWrite p (va + 16) (leBytes 4 0)

/-- A queue's slot, its place in the line and its saved state go; head := tail, error word := 0. -/
def State.clearQueue (s : State) (p q : Nat) : State :=
  let s := (s.helmSlots.filter (fun z => z.p == p && z.q == q)).foldl (fun s z => s.unmapSlot z) s
  let s := (s.helmSaved.filter (fun z => z.p == p && z.q == q)).foldl (fun s z => s.withdrawLaunch p z.die q) s
  let s := { s with helmLine := s.helmLine.filter (fun l => l.2 != (p, q)), helmSaved := s.helmSaved.filter (fun z => !(z.p == p && z.q == q)) }
  s.emptyQueue p ((s.part p).queueVa q) (s.helmRead p ((s.part p).queueVa q) 20)

/-- RESET_QUEUE (R383): rung 1 on queue x. -/
def execResetQueue (s : State) : Out :=
  let a := s.arg
  let ok := s.alive a.p && decide (a.x < bits ((s.part a.p).csrN 0x0E2) 10 0)
  .next ((if ok then s.clearQueue a.p a.x else s).reply 7 a.p ok)

/-! ### Rung 2: a Helm context -/

/-- Are the pages of the instances that a context's reset killed clear? -/
def State.contextClear (s : State) (p die : Nat) : Bool :=
  (s.part p).insts.all (fun i => match i.origin with
    | .launch d _ _ => d != die || (i.status == .ended && i.strands.all (fun t => decide (t.endAt + 8 ≤ s.now)))
    | _ => true)

/-- A reset of a partition's context on a die acts: its queues' slots go, and what its LAUNCHes started is killed, with the ID slot's GEN
incremented. -/
def State.clearContext (s : State) (p die : Nat) : State :=
  let x := s.part p
  let qs := (List.range (bits (x.csrN 0x0E2) 10 0)).filter (fun q => match s.helmRead p (x.queueVa q) 20 with
    | some d => fieldAt d 9 1 == die
    | none => (s.helmSlots ++ s.helmSaved).any (fun z => z.p == p && z.q == q && z.die == die))
  let s := qs.foldl (fun s q => s.clearQueue p q) s
  let mine := (s.part p).insts.filter (fun i => i.status != .ended && (match i.origin with
    | .launch d _ _ => d == die
    | _ => false))
  mine.foldl (fun s i => (s.kill p i.id).modPart p (fun x => { x with idGen := kset x.idGen i.id (((kget x.idGen i.id).getD 0 + 1) % 8) })) s

/-- A reset that takes time is under way: its rung, target and timeout (R384). One at or below a rung in progress there completes with it. -/
def State.startReset (s : State) (rung p x ms : Nat) : State :=
  let r : Reset := { rung := rung, p := p, x := x, due := s.now + ms * 850000 }
  let t : State := { s with resets := s.resets ++ [r] }
  if s.resets.any (fun r => r.p == p && r.x == x && decide (rung ≤ r.rung)) then t
  else t.sched r.due 0 .resetEscalate { p := p, x := x, y := rung }

/-- A reset completes, with those at or below it for its target. -/
def State.endReset (s : State) (rung p x : Nat) : State :=
  let n : Nat := (s.resets.filter (fun r => r.p == p && r.x == x && decide (r.rung ≤ rung))).length
  let s := { s with resets := s.resets.filter (fun r => !(r.p == p && r.x == x && decide (r.rung ≤ rung))) }
  (List.range n).foldl (fun s _ => s.reply 7 p true) s

/-- RESET_CONTEXT (R383): rung 2 on die x; z = 1 looks whether the pages are clear. -/
def execResetContext (s : State) : Out :=
  let a := s.arg
  let again (s : State) : State := s.sched (s.now + 9) 0 .resetContext { a with z := 1 }
  .next (if !s.alive a.p || !(s.part a.p).helmDies.contains a.x then (if a.z = 1 then s else s.reply 7 a.p false)
    else if a.z = 1 then (if s.contextClear a.p a.x then s.endReset 2 a.p a.x else again s)
    else again ((s.startReset 2 a.p a.x 10).clearContext a.p a.x))

/-! ### Rung 3: islands and copy channels -/

/-- A firing whose engine command has been aborted leaves no result. -/
def State.abortFire (s : State) (p pg fid : Nat) : State :=
  match (s.page p pg).fire? fid with
  | none => s
  | some f => if f.phase == .engine || f.phase == .stopped then (s.dropFire p pg fid).drainedBy p pg f else s

/-- The commands of a die's islands and of the partition's copy channels on it abort; writes that have performed stand; progress words
are cleared, write pointers take 0, and claims end. -/
def State.clearEngines (s : State) (p die : Nat) : State :=
  let here := (s.part p).copies.filter (fun c => c.eng / 4 == die)
  let s := here.foldl (fun s c =>
    let s := match s.copyProgress p c 0 with
      | .ok s => s
      | .error _ => s
    match c.place with
    | some (pg, fid) => s.abortFire p pg fid
    | none => s) s
  let s := s.modPart p (fun x => { x with
    copies := x.copies.filter (fun c => c.eng / 4 != die)
    chans := x.chans.map (fun k => if k.eng / 4 == die then { k with wptr := 0 } else k) })
  ((s.part p).pages.filter (fun y => y.num / 256 == die)).foldl (fun s y =>
    let cs := y.island.cmds
    let s := cs.foldl (fun s c =>
      let s := s.spmaForgive p y.num c
      let s := if c.begun && c.pkey != 0 then s.memWrite c.pkey (leBytes 8 0) else s
      s.abortFire p y.num c.fid) s
    s.modPage p y.num (fun y => { y with island := {} })) s

/-- RESET_ENGINE (R383): rung 3 on die x, which is complete at once. -/
def execResetEngine (s : State) : Out :=
  let a := s.arg
  .next (if !s.alive a.p then s.reply 7 a.p false
    else ((s.startReset 3 a.p a.x 50).clearEngines a.p a.x).endReset 3 a.p a.x)

/-! ### Rung 4: the partition -/

/-- Does a row act for the device and not for one partition? -/
def deviceRow (i : Instr) : Bool :=
  match i with
  | .powerOn | .powerRefill | .thermalLimit | .thermalStep | .thermalShutdown | .powerLoss | .channelSpareSwitch | .clusterRetire
  | .bridgeLoss | .moduleLimit | .linkPortFail | .resetDevice | .resetEscalate | .helmQueueMap => true
  | _ => false

/-- The tile SRAM of a physical page becomes zero and empty (R205). -/
def State.clearSram (s : State) (die phys : Nat) : State :=
  let lo := sramKey die phys 0 0
  { s with mem := Mem.clear s.mem lo (64 * 2 ^ 15), fe := s.fe.filter (fun k => k < lo || lo + 64 * 2 ^ 15 ≤ k) }

/-- What rung 4 leaves of a partition: its regions, key, engines, Helm contexts, shares and function. Its page map and ID generations take
their reset values, 0 (R150, R203, R383), so that GRANT gives it pages again. -/
def Part.blank (x : Part) : Part :=
  { num := x.num, live := x.live, root := x.root, pgen := (x.pgen + 1) % 65536, regions := x.regions,
    engines := x.engines, helmDies := x.helmDies, wftShare := x.wftShare, minima := x.minima, hostBase := x.hostBase, hostLen := x.hostLen,
    wins := x.wins, vf := x.vf, key := x.key, csr := [(0x0C2, word (bits (x.csrN 0x0C2) 31 16 * 65536))] }

/-- What a partition's instances leave as rung 4 kills them (R357): their committed stores perform, and the result words of those that Helm
started are written. -/
def State.endPart (s : State) (p : Nat) : State :=
  (s.part p).insts.foldl (fun s i =>
    let s := s.flush p i.id
    match i.origin with
    | .launch _ rva _ => if i.status == .ended || rva = 0 then s else s.helmWrite p rva (List.replicate 8 0xFF)
    | _ => s) s

/-- Rung 4 acts: pending pre-emption requests complete with their event, memory-backed objects take zero bytes, and everything of the
partition but its resources, its key and the contents of its regions takes its reset value. -/
def State.clearPart (s : State) (p : Nat) : State :=
  let s := s.endPart p
  let x := s.part p
  let s := x.preempts.foldl (fun s _ => s.postPf p 0x08 [x.csrN 0x0B6]) s
  let s := (x.objs.filter (fun o => o.va != 0)).foldl (fun s o => (s.devWrite p (o.va - 1) (List.replicate 16 0)).getD s) s
  let s := { s with agenda := s.agenda.filter (fun t => match t.act with
    | .row i a => a.p != p || deviceRow i
    | .fire q _ _ => q != p) }
  let gone := (s.helmSlots.filter (fun z => z.p == p)).map HelmSlot.die
  let s := { s with
    helmSlots := s.helmSlots.filter (fun z => z.p != p), helmLine := s.helmLine.filter (fun l => l.2.1 != p)
    helmSaved := s.helmSaved.filter (fun z => z.p != p), plait := s.plait.filter (fun e => e.part != p)
    peerOut := s.peerOut.filter (fun w => w.p != p), oldPtes := s.oldPtes.filter (fun r => r.p != p) }
  let s := gone.foldl (fun s die => s.sched s.now 0 .helmQueueMap { p := p, x := die }) s
  let s := x.map.foldl (fun s m => s.clearSram (m.1 / 256) m.2.1) s
  let s := s.modPart p Part.blank
  if (s.part p).vf.held.isEmpty then s else s.sched s.now 0 .eventRecordWrite { p := p }

/-- RESET_PARTITION (R383): rung 4, which is complete at once, and the resets within the partition with it. -/
def execResetPartition (s : State) : Out :=
  let p := s.arg.p
  .next (if !s.alive p then s.reply 7 p false
    else
      let n : Nat := (s.resets.filter (fun r => r.p == p)).length
      let s := { s with resets := s.resets.filter (fun r => r.p != p) }.clearPart p
      { s with replies := s.replies ++ List.replicate (n + 1) (7, p, 0) })

/-- FUNCTION_RESET (R400): a function-level reset: rung 4, and the function's own registers take their reset values. -/
def execFunctionReset (s : State) : Out :=
  let p := s.arg.p
  .next (if !s.alive p then s
    else (s.clearPart p).modPart p (fun x => { x with vf := { state := x.vf.state, held := x.vf.held, devid := x.vf.devid, msix := x.vf.msix } }))

/-! ### Rung 5, and escalation -/

/-- What a device reset, or a loss of power, leaves (R373, R383, R424): no partition, no key, no window and nothing pending. -/
def State.clearDevice (s : State) : State :=
  { s with
    parts := [], windows := [], agenda := [], helmSlots := [], helmLine := [], helmSaved := [], plait := [], resets := [], peerOut := [], oldPtes := []
    cur := {}, arg := {}, retired := [], worn := [], cfgErrs := [], credits := [], nextKey := 1, reports := [] }

/-- RESET_DEVICE (R383): every partition is destroyed, every key erased, and the device boots. -/
def execResetDevice (s : State) : Out := .next ({ s.clearDevice with power := .booting }.sched s.now 0 .powerOn { z := 1 })

/-- The rung above one, with its target (R384): the context on the queue's die, the engines of that die, the partition, the device. -/
def State.escalate (s : State) (rung p x : Nat) : State :=
  match rung with
  | 1 =>
    let die := match s.helmRead p ((s.part p).queueVa x) 20 with
      | some d => fieldAt d 9 1
      | none => 0
    s.sched s.now 0 .resetContext { p := p, x := die }
  | 2 => s.sched s.now 0 .resetEngine { p := p, x := x }
  | 3 => s.sched s.now 0 .resetPartition { p := p }
  | _ => s.sched s.now 0 .resetDevice {}

/-- RESET_ESCALATE (R384): a rung y that has not completed by its timeout goes on to the next, with event 0x0A. -/
def execResetEscalate (s : State) : Out :=
  let a := s.arg
  .next (if !s.resets.any (fun r => r.p == a.p && r.x == a.x && r.rung == a.y) then s
    else
      let s := { s with resets := s.resets.filter (fun r => !(r.p == a.p && r.x == a.x && r.rung == a.y)) }
      (s.postPf a.p 0x0A [a.y, a.x]).escalate a.y a.p a.x)

/-! ### The host's aperture (R402) -/

/-- The VA of an offset of BAR2. -/
def Part.apertureVa (x : Part) (off : Nat) : Nat := x.vf.apb * 2 ^ 32 + off

/-- A faulting access of the host is counted (R402). -/
def State.apFault (s : State) (p : Nat) : State := s.modPart p (fun x => { x with vf := { x.vf with apflt := min (x.vf.apflt + 1) 0xFFFFFFFF } })

/-- The pieces of a host access of n bytes, page by page. -/
def State.hostPieces (s : State) (p : Nat) (store : Bool) : Nat → Nat → Nat → Option (List Piece)
  | 0, _, _ => some []
  | fuel + 1, va, n =>
    if n = 0 then some []
    else
      let k := min n (65536 - va % 65536)
      match s.translate (s.part p) va with
      | .error _ => none
      | .ok l =>
        if !(if store then (s.part p).mayWrite l else (s.part p).mayRead l) then none
        else (s.hostPieces p store fuel (va + k) (n - k)).map (fun r => ⟨va, l.pa, l.pte, k⟩ :: r)

/-- HOST_APERTURE_READ (R402): a read of x bytes at offset y of BAR2; a faulting one returns all ones. -/
def execHostApertureRead (s : State) : Out :=
  let a := s.arg
  let ones (s : State) : State := (s.apFault a.p).toHost (256 ^ a.x - 1)
  .next (match s.hostPieces a.p false (a.x / 65536 + 2) ((s.part a.p).apertureVa a.y) a.x with
    | none => ones s
    | some l =>
      match l.find? (fun x => s.badAt x.key x.len) with
      | some x => (ones s).badRead a.p (s.badKey x.key x.len)
      | none => s.toHost (ofLE (s.pieceBytes l)))

/-- HOST_APERTURE_WRITE (R287, R402): the bytes l at offset y of BAR2; a faulting write is discarded. -/
def execHostApertureWrite (s : State) : Out :=
  let a := s.arg
  .next (match s.hostPieces a.p true (a.l.length / 65536 + 2) ((s.part a.p).apertureVa a.y) a.l.length with
    | none => s.apFault a.p
    | some l =>
      match l.find? (fun x => s.badAt x.key x.len && (x.len % 64 != 0 || x.key % 64 != 0)) with
      | some x => (s.apFault a.p).badRead a.p (s.badKey x.key x.len)
      | none => s.copyPut l (a.l.map (BitVec.ofNat 8)))

end Sys2Proof.Machine
end

