-- ==== Sys2Proof/Machine/Manage.lean ====
section
/-! DEFINITION. Sys2Proof/Machine/Manage.lean: the management function's commands (R366): partitions and their resources (R367 to R371),
functions and migration (R386 to R388), re-keyed windows (R381, R382), objects and instances. -/

namespace Sys2Proof.Machine

/-- Pairs of a flat list. -/
def pairs : List Nat → List (Nat × Nat)
  | a :: b :: t => (a, b) :: pairs t
  | _ => []

/-- May a command act on a partition: it is there, the device runs, and it is not frozen, which leaves only dumps, resets and destruction
(R380)? -/
def State.commandable (s : State) (p : Nat) : Bool := s.power == .on && s.alive p && !(s.part p).frozen

/-- Answering a command that acts only when a condition holds. -/
def State.command (s : State) (code p : Nat) (ok : Bool) (f : State → State) : State := (if ok then f s else s).reply code p ok

/-! ### CREATE and DESTROY -/

/-- A report of the boot, or of a partition with its nonce, signed with the identity key (R421). -/
def reportOf (devId : Nat) (part : Option (Nat × Nat)) : Report :=
  let meas := [1, 4, 6].map Config.measurement
  { meas := meas, devId := devId, part := part, sig := Config.signature (meas ++ [devId] ++ (match part with
    | some z => [z.1, z.2]
    | none => [])) }

/-- CREATE (R366, R373, R421): a partition with no resources, a fresh key and PGEN 0; x is the package's device ID, and y the nonce for the report
that is signed. -/
def execCreate (s : State) : Out :=
  let a := s.arg
  .next (s.command 1 a.p (s.power == .on && decide (a.p < 40) && !s.parts.any (fun x => x.num == a.p)) fun s =>
    { s with
      parts := s.parts ++ [{ num := a.p, live := true, key := s.nextKey, vf := { devid := a.x } }]
      nextKey := s.nextKey + 1, reports := s.reports ++ [reportOf a.x (some (a.p, a.y))] })

/-- DESTROY (R366, R373): rung 4, then every resource is returned and the key erased. -/
def execDestroy (s : State) : Out :=
  let p := s.arg.p
  .next (s.command 2 p (s.alive p) fun s =>
    let s := s.clearPart p
    { s with
      parts := s.parts.filter (fun x => x.num != p)
      windows := s.windows.map (fun w => { w with members := w.members.filter (fun m => m.1 != p) })
      resets := s.resets.filter (fun r => r.p != p), agenda := s.agenda.filter (fun t => match t.act with
        | .row i a => a.p != p || deviceRow i
        | .fire q _ _ => q != p) })

/-! ### Resources (R367 to R370) -/

/-- Does a region exist for partitions: on an active channel that is not worn, and not the guard's (R370)? -/
def State.regionOk (s : State) (r : Nat) : Bool :=
  decide (r < 8192) && r % 32 != 31 && (match (s.channels.filter (fun c => c.1 == r / 2048))[r / 32 % 64]? with
    | some c => !s.worn.contains c
    | none => false)

/-- Is a region free: of no partition and no window? -/
def State.regionFree (s : State) (r : Nat) : Bool :=
  !s.parts.any (fun x => x.regions.contains r) && !s.windows.any (fun w => w.regions.contains r)

/-- A region is written as encrypted zero, with every counter 0 (R373), and the Plaiters are told (R287). -/
def State.zeroRegion (s : State) (r : Nat) : State :=
  { s with
    mem := Mem.clear s.mem (r * 2 ^ 26) (2 ^ 26), guard := s.guard.filter (fun g => g.pg / 16384 != r)
    badLines := s.badLines.filter (fun l => l / 2 ^ 20 != r), tree := s.tree.filter (fun t => t.2.1 * 8 ^ t.1 / 16384 != r) }.plaiterMark (fun e => e.pa >>> 26 == r)

/-- May logical page pg be mapped onto a physical page (R368): active, of no partition, of the same row and column, in the physical
cluster that its logical cluster has? -/
def State.pageOk (s : State) (p pg phys : Nat) : Bool :=
  let x := s.part p
  decide (pg < 1024) && phys % 16 == pg % 16 && s.clusters.contains (pg / 256, phys / 16)
    && (x.place? pg).isNone
    && !s.parts.any (fun y => y.map.any (fun m => m.1 / 256 == pg / 256 && m.2.1 == phys))
    && x.map.all (fun m => m.1 / 16 != pg / 16 || m.2.1 / 16 == phys / 16)

/-- The entry of the page map (R203) for a logical page on a physical one: its column and row on the die's page grid follow from those of
its cluster (log 27). -/
def mapEntry (pg phys : Nat) : Nat × Nat × Nat × Nat :=
  let at' := Config.clusterAt (phys / 16)
  (pg, phys, 4 * at'.1 + phys % 4, 4 * at'.2 + phys % 16 / 4)

/-- Mapping a page: its tile SRAM is zero and empty (R205). -/
def State.mapPage (s : State) (p pg phys : Nat) : State :=
  (s.clearSram (pg / 256) phys).modPart p (fun x => { x with
    map := x.map ++ [mapEntry pg phys], pages := x.pages.filter (fun y => y.num != pg) ++ [{ num := pg }] })

/-- Mapping pages one by one; none where one may not be mapped. -/
def State.mapPages (s : State) (p : Nat) : List (Nat × Nat) → Option State
  | [] => some s
  | (pg, phys) :: t => if s.pageOk p pg phys then (s.mapPage p pg phys).mapPages p t else none

/-- The sum of a share over the partitions. -/
def State.sumOver (s : State) (f : Part → Nat) : Nat := s.parts.foldl (fun n x => n + f x) 0

/-- A partition's SHARE (R240). -/
def Part.share (x : Part) : Nat := bits (x.csrN 0x0C2) 31 16

/-- What a GRANT of a kind gives, where its limits hold: pages (z = 0), regions (1), a copy engine (2), a Helm context (3), SHARE (4), a
wait-for share (5), the host range (6, R403) or the page-table root (7, R207). -/
def State.grantKind (s : State) (a : Args) : Option State :=
  let p := a.p
  let x := s.part p
  match a.z with
  | 0 => (s.mapPages p (pairs a.l)).map (fun s => s.kick p)
  | 1 =>
    if a.l.all (fun r => s.regionOk r && s.regionFree r) && a.l.eraseDups == a.l then
      some ((a.l.foldl (fun s r => s.zeroRegion r) s).modPart p (fun x => { x with regions := x.regions ++ a.l }))
    else none
  | 2 =>
    let n : Nat := (s.parts.filter (fun y => y.engines.contains (a.x, a.y))).length
    if 4 ≤ a.x || 4 ≤ a.y || x.engines.contains (a.x, a.y) || 8 ≤ n then none
    else some (s.modPart p (fun x => { x with engines := x.engines ++ [(a.x, a.y)] }))
  | 3 =>
    let n : Nat := (s.parts.filter (fun y => y.helmDies.contains a.x)).length
    if 4 ≤ a.x || x.helmDies.contains a.x || 10 ≤ n then none
    else some (s.modPart p (fun x => { x with helmDies := x.helmDies ++ [a.x] }))
  | 4 => if 1024 < s.sumOver Part.share + a.x then none else some (s.setCsrF p 0x0C2 31 16 (x.share + a.x))
  | 5 =>
    let sum := s.sumOver (fun y => (kget y.wftShare a.x).getD 0)
    if 4 ≤ a.x || 8192 < sum + a.y then none
    else some (s.modPart p (fun x => { x with wftShare := kset x.wftShare a.x ((kget x.wftShare a.x).getD 0 + a.y) }))
  | 6 => if 2 ^ 45 < a.x + a.y then none else some (s.modPart p (fun x => { x with hostBase := a.x, hostLen := a.y }))
  | 7 => some (s.modPart p (fun x => { x with root := a.y }))
  | _ => none

/-- GRANT (R366 to R370, R373). -/
def execGrant (s : State) : Out :=
  let a := s.arg
  .next (match if s.commandable a.p then s.grantKind a else none with
    | some s => s.reply 3 a.p true
    | none => s.reply 3 a.p false)

/-- What a RECLAIM of a kind takes, where the partition has it: pages are cleared first by a pre-emption request with PTOK x. -/
def State.reclaimKind (s : State) (a : Args) : Option State :=
  let p := a.p
  let x := s.part p
  match a.z with
  | 0 => if a.l.all (fun pg => (x.place? pg).isSome) && a.x ≤ 15 then some (s.askPre p a.l a.x true) else none
  | 1 => if a.l.all x.regions.contains then some (s.modPart p (fun x => { x with regions := x.regions.filter (fun r => !a.l.contains r) })) else none
  | 2 => if x.engines.contains (a.x, a.y) then some (s.modPart p (fun x => { x with engines := x.engines.filter (fun e => e != (a.x, a.y)) })) else none
  | 3 =>
    if !x.helmDies.contains a.x then none
    else
      let s := (s.helmSlots.filter (fun z => z.p == p && z.die == a.x)).foldl (fun s z => s.unmapSlot z) s
      some ({ s with helmLine := s.helmLine.filter (fun l => !(l.1 == a.x && l.2.1 == p)) }.modPart p (fun x => { x with
        helmDies := x.helmDies.filter (· != a.x) }))
  | 4 => if x.share < a.x then none else some (s.setCsrF p 0x0C2 31 16 (x.share - a.x))
  | 5 =>
    let n := (kget x.wftShare a.x).getD 0
    if n < a.y then none else some (s.modPart p (fun x => { x with wftShare := kset x.wftShare a.x (n - a.y) }))
  | 6 => some (s.modPart p (fun x => { x with hostBase := 0, hostLen := 0 }))
  | _ => none

/-- RECLAIM (R366, R368). -/
def execReclaim (s : State) : Out :=
  let a := s.arg
  .next (match if s.commandable a.p then s.reclaimKind a else none with
    | some s => s.reply 4 a.p true
    | none => s.reply 4 a.p false)

/-- The minima of a partition on a die (R371): pages, bandwidth and copy weight. -/
def Part.minOn (x : Part) (die : Nat) : Nat × Nat × Nat := ((x.minima.find? (fun m => m.1 == die)).map (fun m => m.2)).getD (0, 0, 0)

/-- Setting the minima of a die. -/
def Part.setMin (x : Part) (die : Nat) (m : Nat × Nat × Nat) : Part := { x with minima := x.minima.filter (fun n => n.1 != die) ++ [(die, m)] }

/-- The active pages of a die. -/
def State.pageCount (s : State) (die : Nat) : Nat := 16 * (s.clusters.filter (fun c => c.1 == die)).length

/-- SETMIN (R371): the minima l of die x; refused when the minima of all partitions would sum to more than the die has. -/
def execSetmin (s : State) : Out :=
  let a := s.arg
  let m : Nat × Nat × Nat := ((a.l[0]?).getD 0, (a.l[1]?).getD 0, (a.l[2]?).getD 0)
  let others := s.parts.filter (fun x => x.num != a.p)
  let sum (f : Nat × Nat × Nat → Nat) : Nat := others.foldl (fun n x => n + f (x.minOn a.x)) (f m)
  let ok := s.commandable a.p && decide (a.x < 4) && decide (sum (fun m => m.1) ≤ s.pageCount a.x)
    && decide (sum (fun m => m.2.1) ≤ 256) && decide (sum (fun m => m.2.2) ≤ 256)
  .next (s.command 5 a.p ok fun s => s.modPart a.p (fun x => x.setMin a.x m))

/-! ### VFSTATE (R386, R387) -/

/-- Every queue of a partition with work joins its line. -/
def State.requeue (s : State) (p : Nat) : State :=
  (List.range (bits ((s.part p).csrN 0x0E2) 10 0)).foldl (fun s q => match s.queueWork p q with
    | some die => s.helmJoin die p q
    | none => s) s

/-- What goes on when a partition is no longer paused: COPY nodes' commands, queues, and the requests of what is saved. -/
def State.afterPause (s : State) (p : Nat) : State := (((s.helmUnhalt p).requeue p).readmit p).kick p

/-- VFSTATE_RUNNING (R386, R387): held events are delivered; after a pause, saved instances are eligible and queues are mapped again. -/
def execVfstateRunning (s : State) : Out :=
  let p := s.arg.p
  let paused := (s.part p).vf.state == .paused
  .next (s.command 8 p (s.commandable p) fun s =>
    let s := (s.modPart p (fun x => { x with vf := { x.vf with state := .running } })).sched s.now 0 .eventRecordWrite { p := p }
    if !paused then s
    else
      let s := s.modPart p (fun x => { x with insts := x.insts.map (fun i =>
        if i.status == .saved then { i with save := i.save.map (fun v => { v with flags := setBits v.flags 3 3 0, eligible := true }) } else i) })
      let s := (s.part p).insts.foldl (fun s i => if i.saving.any (fun v => v.why == 3) then s.thaw p i.id else s) s
      s.afterPause p)

/-- VFSTATE_DESCHEDULED (R386). -/
def execVfstateDescheduled (s : State) : Out :=
  let p := s.arg.p
  .next (s.command 8 p (s.commandable p && (s.part p).vf.state != .paused) fun s =>
    s.modPart p (fun x => { x with vf := { x.vf with state := .descheduled } }))

/-- Is every instance of a paused partition in its record? -/
def Part.allSaved (x : Part) : Bool := x.insts.all (fun i => i.status == .saved || i.status == .ended)

/-- Is all of a partition that is being paused at rest: its instances in their records, their committed stores performed, its queues unmapped
and its COPY nodes' commands stopped? -/
def State.pauseDone (s : State) (p : Nat) : Bool :=
  (s.part p).allSaved && (s.part p).posted.isEmpty && !s.helmSlots.any (fun z => z.p == p) && !s.helmCopying p

/-- VFSTATE_PAUSED (R387): every instance is saved as a guest switch saves it, whatever its flags; Helm slots save their walker states at
their next node, or at once while they wait; COPY nodes' commands stop at their next boundary. z = 1 looks whether all is done, and z = 2 is the end of a
pause that has failed. -/
def execVfstatePaused (s : State) : Out :=
  let p := s.arg.p
  let again (s : State) : State := s.sched (s.now + 64) 0 .vfstatePaused { p := p, z := 1 }
  .next (if s.arg.z = 1 then
      (if (s.part p).vf.state != .paused then s
      else if s.pauseDone p then s.reply 8 p true
      else again s)
    else if s.arg.z = 2 then
      (if (s.part p).vf.state == .paused then s else (s.sched s.now 0 .eventRecordWrite { p := p }).afterPause p)
    else if !s.commandable p || (s.part p).vf.state == .paused || (s.part p).switching then s.reply 8 p false
    else
      let s := s.modPart p (fun x => { x with vf := { x.vf with state := .paused } })
      let s := (s.helmSlots.filter (fun z => z.p == p && z.wait != .none)).foldl (fun s z => (s.saveSlot z).withdrawLaunch p z.die z.q) s
      let s := s.helmHalt p
      let live := (s.part p).insts.filter (fun i => (i.status == .running || i.status == .frozen) && i.saving.isNone)
      again (live.foldl (fun s i => s.askSave p i.id 3 0) s))

/-! ### Windows (R381, R382) -/

/-- WINCREATE (R381): window x from the free regions l of one die, with a key of its own. -/
def execWincreate (s : State) : Out :=
  let a := s.arg
  let die := (a.l.headD 0) / 2048
  let ok := s.power == .on && decide (a.x < 64) && !s.windows.any (fun w => w.n == a.x) && !a.l.isEmpty && a.l.eraseDups == a.l
    && a.l.all (fun r => s.regionOk r && s.regionFree r && r / 2048 == die)
  .next (s.command 9 a.p ok fun s =>
    let s := a.l.foldl (fun s r => s.zeroRegion r) s
    { s with windows := s.windows ++ [{ n := a.x, die := die, regions := a.l, key := s.nextKey }], nextKey := s.nextKey + 1 })

/-- WINATTACH (R381): window x for a partition, with read (y = 1) or read and write (y = 3) permission. -/
def execWinattach (s : State) : Out :=
  let a := s.arg
  let ok := s.commandable a.p && (a.y == 1 || a.y == 3) && (kget (s.part a.p).wins a.x).isNone
    && s.windows.any (fun w => w.n == a.x && decide (w.members.length < 8))
  .next (s.command 10 a.p ok fun (s : State) =>
    { s with windows := s.windows.map (fun (w : Window) => if w.n == a.x then { w with members := w.members ++ [(a.p, a.y)] } else w) }.modPart a.p
      (fun x => { x with wins := x.wins ++ [(a.x, a.y)] }))

/-- Is an access of a member to a window still on its way: a committed store, or a load? -/
def State.windowBusy (s : State) (p n : Nat) : Bool :=
  match s.windows.find? (fun w => w.n == n) with
  | none => false
  | some w => (s.part p).posted.any (fun v => v.cells.any (fun c => w.regions.contains (c.1 >>> 26)))
    || (s.part p).pages.any (fun y => y.fires.any (fun f => f.phase == .out && f.size != 0 && w.regions.contains (f.key >>> 26)))

/-- WINDETACH (R382): the member's translations are gone at once; the command completes when no access of it is in flight (z = 1 looks). -/
def execWindetach (s : State) : Out :=
  let a := s.arg
  let done (s : State) : State :=
    { s with windows := s.windows.map (fun (w : Window) => if w.n == a.x then { w with members := w.members.filter (fun m => m.1 != a.p) } else w) }.reply 11 a.p true
  let look (s : State) : State := if s.windowBusy a.p a.x then s.sched (s.now + 64) 0 .windetach { a with z := 1 } else done s
  .next (if a.z = 1 then look s
    else if !s.commandable a.p || (kget (s.part a.p).wins a.x).isNone then s.reply 11 a.p false
    else look (({ s with oldPtes := s.oldPtes.filter (fun r => r.p != a.p || !(Pte.win r.old && Pte.wix r.old == a.x)) } : State).modPart a.p (fun x =>
      { x with wins := x.wins.filter (fun w => w.1 != a.x) })))

/-- WINDESTROY (R382): a window with no members: its key is erased and its regions are free. -/
def execWindestroy (s : State) : Out :=
  let a := s.arg
  .next (s.command 12 a.p (s.windows.any (fun w => w.n == a.x && w.members.isEmpty)) fun s =>
    { s with windows := s.windows.filter (fun w => w.n != a.x), plait := s.plait.filter (fun e =>
        !s.windows.any (fun w => w.n == a.x && w.regions.contains (e.pa >>> 26))) })

/-! ### Objects and instances -/

/-- OBJRESET (R241, R366): the objects l are FREE, with all bytes 0; what parks there stays parked until its instance freezes. -/
def execObjreset (s : State) : Out :=
  let a := s.arg
  let x := s.part a.p
  .next (s.command 13 a.p (s.commandable a.p && a.l.all x.handleOk) fun s =>
    a.l.foldl (fun s h =>
      let s := (s.modPart a.p (fun y => { y with objs := y.objs.filter (fun o => !o.isAt (x.objPlace h) h) })).dropWft a.p (fun w => w.name == h)
      if x.inMemory h then (s.devWrite a.p (x.objVa h) (List.replicate 16 0)).getD s else s) s)

/-- Is an instance frozen, so that INSTCTL may act on it? -/
def State.frozenInst (s : State) (a : Args) : Bool :=
  s.commandable a.p && (s.inst a.p a.id).stopped && (s.inst a.p a.id).gen == a.x

/-- INSTCTL_RESUME (R340, R366): instance id of GEN x goes on as after an RFT. -/
def execInstctlResume (s : State) : Out :=
  let a := s.arg
  .next (s.command 14 a.p (s.frozenInst a) fun s => s.sched (s.now + 64) 0 .replayInject { p := a.p, id := a.id, x := a.x })

/-- INSTCTL_KILL (R340, R357, R366). -/
def execInstctlKill (s : State) : Out :=
  let a := s.arg
  .next (s.command 14 a.p (s.frozenInst a) fun s => s.sched s.now 0 .instanceKill { p := a.p, id := a.id, x := a.x })

/-! ### Migration (R387, R388) -/

/-- The bytes that a migration state needs at least: tile SRAM with its bitmaps, and the regions. -/
def Part.migSize (x : Part) : Nat := x.map.length * 64 * (32768 + 1024) + x.regions.length * 2 ^ 26

/-- MIGSAVE (R387): a paused partition's state for the host buffer at offset y of its host range, of x bytes; z = 1 where Bluwin has accepted the
destination's report. The buffer takes encrypted bytes (log 15). -/
def execMigsave (s : State) : Out :=
  let a := s.arg
  let x := s.part a.p
  let ok := s.commandable a.p && x.vf.state == .paused && x.allSaved && x.wins.isEmpty && a.z == 1
    && decide (x.migSize ≤ a.x) && decide (a.y + a.x ≤ x.hostLen)
  .next (s.command 15 a.p ok fun s =>
    let mine (k : Nat) : Bool := x.regions.contains (k >>> 26) && decide (k < 2 ^ 45)
    let sram (k : Nat) : Bool := x.map.any (fun m => decide (sramKey (m.1 / 256) m.2.1 0 0 ≤ k) && decide (k < sramKey (m.1 / 256) m.2.1 64 0))
    let at' := 2 ^ 45 + x.hostBase + a.y
    let m : MigState := {
      addr := at', len := a.x, start := s.free, part := x, cells := s.mem.filter (fun c => mine c.1 || sram c.1), fe := s.fe.filter sram
      helm := s.helmSaved.filter (fun z => z.p == a.p) }
    let s := s.memWrite at' (freeBytes s.free a.x)
    { s with free := s.free + a.x, migs := s.migs.filter (fun n => n.addr != at') ++ [m] })

/-- A physical address moved through a region map; none outside it. Host addresses stay. -/
def moveAddr (l : List (Nat × Nat)) (pa : Nat) : Option Nat :=
  if bitAt pa 45 then some pa else (kget l (pa >>> 26)).map (fun r => r * 2 ^ 26 + pa % 2 ^ 26)

/-- Rewriting the PFNs of a table's entries, and of the tables below it, through a region map (R387); `key` gives the key of an address. -/
def movePfns (key : Nat → Nat) (l : List (Nat × Nat)) : Nat → List Nat → List Host.Cell → Option (List Host.Cell)
  | 0, _, m => some m
  | lvl + 1, tables, m =>
    let n := if lvl = 0 then 32 else 512
    let entries := tables.flatMap (fun t => (List.range n).map (fun k => key (t + 8 * k)))
    let live := entries.filter (fun e => Pte.v (Mem.num m e 8))
    let moved := live.foldl (fun (z : Option (List Host.Cell × List Nat)) e =>
      match z with
      | none => none
      | some (m, below) =>
        let pte := Mem.num m e 8
        match moveAddr l (Pte.pfn pte * 65536) with
        | none => none
        | some pa =>
          let new := setBits pte 51 22 (pa / 65536)
          some (Mem.sets m e (leBytes 8 new), if Pte.size pte = 0 then below ++ [pa + Pte.tix pte * 4096] else below)) (some (m, []))
    match moved with
    | none => none
    | some (m, below) => movePfns key l lvl below.eraseDups m

/-- The key that a cell of a migration state has at its destination. -/
def moveKey (l : List (Nat × Nat)) (src dst : Part) (k : Nat) : Option Nat :=
  if isSram k then
    let page := (k - 2 ^ 46) / 2 ^ 21
    match src.map.find? (fun m => m.1 / 256 == page / 256 && m.2.1 == page % 256) with
    | none => none
    | some m => (dst.place? m.1).map (fun z => sramKey (m.1 / 256) z.1 0 0 + (k - 2 ^ 46) % 2 ^ 21)
  else moveAddr l k

/-- Has a destination what a migration state records (R387)? -/
def Part.hosts (x : Part) (m : Part) (l : List (Nat × Nat)) : Bool :=
  let per {α : Type} (f : α → Nat) (a b : List α) : Bool :=
    [0, 1, 2, 3].all (fun d => decide ((b.filter (fun z => f z == d)).length ≤ (a.filter (fun z => f z == d)).length))
  m.map.all (fun z => (x.place? z.1).isSome) && per Prod.fst x.engines m.engines && m.helmDies.all x.helmDies.contains
    && decide (m.share ≤ x.share) && [0, 1, 2, 3].all (fun d => decide ((kget m.wftShare d).getD 0 ≤ (kget x.wftShare d).getD 0))
    && m.regions.all (fun r => match kget l r with
      | some t => x.regions.contains t && t / 2048 == r / 2048
      | none => false)

/-- A migration state loaded into a partition (R387): none where a check fails. -/
def State.loadMig (s : State) (p : Nat) (m : MigState) (l : List (Nat × Nat)) : Option State :=
  let x := s.part p
  if !x.hosts m.part l || !x.insts.isEmpty || Mem.bytes s.mem m.addr m.len != freeBytes m.start m.len then none
  else
    let put := m.cells.foldl (fun mem c => match moveKey l m.part x c.1 with
      | some k => Mem.set mem k c.2
      | none => mem) (x.regions.foldl (fun mem r => Mem.clear mem (r * 2 ^ 26) (2 ^ 26)) s.mem)
    match moveAddr l m.part.root with
    | none => none
    | some root =>
      match movePfns x.tableKey l 4 [root] put with
      | none => none
      | some mem =>
        let fe := (m.fe.filterMap (moveKey l m.part x)).foldl Fe.set s.fe
        let y : Part := { m.part with
          num := p, live := true, map := x.map, root := root, regions := x.regions, engines := x.engines, helmDies := x.helmDies
          wftShare := x.wftShare, minima := m.part.minima, hostBase := x.hostBase, hostLen := x.hostLen, wins := [], key := x.key
          vf := { x.vf with state := .paused, held := m.part.vf.held }, cmds := x.cmds
          pages := x.map.map (fun z => { m.part.page z.1 with num := z.1 }) }
        some (({ s with
          mem := mem, fe := fe, oldPtes := s.oldPtes.filter (fun r => r.p != p)
          helmSaved := s.helmSaved.filter (fun (z : HelmSlot) => z.p != p) ++ m.helm.map (fun (z : HelmSlot) => { z with p := p }) }.modPart p (fun _ => y)).plaiterMark (fun e => x.regions.contains (e.pa >>> 26)))

/-- MIGLOAD (R387, R388): the state in the host buffer at offset y of the partition's host range, with the region map l. A buffer whose
records do not authenticate, or that this package has not been given, fails the load (log 15). -/
def execMigload (s : State) : Out :=
  let a := s.arg
  let at' := 2 ^ 45 + (s.part a.p).hostBase + a.y
  let r := match s.migs.find? (fun m => m.addr == at' && m.len == a.x) with
    | some m => if s.commandable a.p then s.loadMig a.p m (pairs a.l) else none
    | none => none
  .next (match r with
    | some s => s.reply 16 a.p true
    | none => s.reply 16 a.p false)

end Sys2Proof.Machine
end

