-- ==== Sys2Proof/Machine/Boot.lean ====
section
/-! DEFINITION. Sys2Proof/Machine/Boot.lean: boot (R419, R420), spares (R422) and the reduction of minima (R372), power (R423), heat
(R424), and the loss of a bridge (R425). -/

namespace Sys2Proof.Machine

/-! ### Boot -/

/-- The first n units of a die that are not retired, in physical order (R420). -/
def activeUnits (die phys n : Nat) (bad : List (Nat × Nat)) : List (Nat × Nat) :=
  (((List.range phys).map (fun k => (die, k))).filter (fun c => !bad.contains c)).take n

/-- The active clusters that the module's record and self-test leave. -/
def Module.clusters (m : Module) : List (Nat × Nat) := [0, 1, 2, 3].flatMap (fun d => activeUnits d 11 10 m.badClusters)

/-- The active channels. -/
def Module.channels (m : Module) : List (Nat × Nat) := [0, 1, 2, 3].flatMap (fun d => activeUnits d 66 64 m.badChannels)

/-- The units of a die in a list. -/
def onDie (die : Nat) (l : List (Nat × Nat)) : List (Nat × Nat) := l.filter (fun c => c.1 == die)

/-- The first step that fails, with its cause (R419): of steps 1 to 4 what the module says, of step 3 a bridge that is lost too, of step 5
the die with too few units. -/
def State.bootFails (s : State) : Option (Nat × Nat) :=
  let m := s.module
  if 1 ≤ m.failStep && m.failStep ≤ 2 then some (m.failStep, m.cause)
  else if !s.bridges.isEmpty then some (3, s.bridges.headD 0)
  else if 3 ≤ m.failStep && m.failStep ≤ 4 then some (m.failStep, m.cause)
  else ([0, 1, 2, 3].find? (fun d => decide ((onDie d m.clusters).length < 2) || decide ((onDie d m.channels).length < 8))).map (fun d => (5, d))

/-- POWER_ON (R419 to R421): the boot, whose measurements are signed with the device ID x. A step that fails leaves the device without partitions;
z = 1 answers a device reset. -/
def execPowerOn (s : State) : Out :=
  let z := s.arg.z
  let devId := s.arg.x
  let s := s.clearDevice
  .next (match s.bootFails with
    | some b =>
      let s := { s with power := .failed, boot := b, clusters := [], channels := [] }
      if z = 1 then s.reply 7 0 false else s
    | none =>
      let s := ({ s with
        power := .on, boot := (0, 0), reports := [reportOf devId none], clusters := s.module.clusters, channels := s.module.channels, fe := [], guard := [], tree := []
        badLines := [], mem := (Mem.clear s.mem 0 (2 ^ 45)).filter (fun c => !isSram c.1)
        credits := s.module.clusters.map (fun (c : Nat × Nat) => (c.1, c.2, 0)) }).sched (s.now + 8500) 0 .powerRefill {}
      let s := if s.hot then s.sched (s.now + 850000) 0 .thermalStep {} else s
      if z = 1 then s.reply 7 0 true else s)

/-! ### The reduction of minima (R372) -/

/-- The pages of a die that a partition holds. -/
def Part.pagesOn (x : Part) (die : Nat) : List Nat := (x.map.map (fun m => m.1)).filter (fun pg => pg / 256 == die)

/-- A partition's minima in an event's payload: pages, bandwidth and copy weight, 16 bits each. -/
def minWord (m : Nat × Nat × Nat) : Nat := m.1 + m.2.1 * 65536 + m.2.2 * 4294967296

/-- The minima of a die become what a function makes of them; each partition that this changes has its event 0x09. -/
def State.scaleMinima (s : State) (die : Nat) (f : Nat × Nat × Nat → Nat × Nat × Nat) : State :=
  (s.parts.map Part.num).foldl (fun s p =>
    let old := (s.part p).minOn die
    let new := f old
    if new == old then s
    else
      let pay := [minWord old, minWord new]
      ((s.modPart p (fun x => x.setMin die new)).postVf p 0x09 pay).postPf p 0x09 pay) s

/-- The sum of the minima of a die in one resource. -/
def State.minSum (s : State) (die : Nat) (f : Nat × Nat × Nat → Nat) : Nat := s.sumOver (fun x => f (x.minOn die))

/-- The bandwidth that a die has, in the units of its minima: 256 with every active channel good. -/
def State.bandwidth (s : State) (die : Nat) : Nat :=
  let all := onDie die s.channels
  256 * (all.filter (fun c => !s.worn.contains c)).length / max all.length 1

/-- Bandwidth below the sum of its minima (R372). -/
def State.reduceBandwidth (s : State) (die : Nat) : State :=
  let c := s.bandwidth die
  let sum := s.minSum die (fun m => m.2.1)
  if sum ≤ c then s else s.scaleMinima die (fun m => (m.1, m.2.1 * c / sum, m.2.2))

/-- Pages below the sum of their minima (R372): the minima shrink, and pages beyond them are reclaimed with PTOK 15. -/
def State.reducePages (s : State) (die : Nat) : State :=
  let c := s.pageCount die
  let sum := s.minSum die (fun m => m.1)
  if sum ≤ c then s
  else
    let s := s.scaleMinima die (fun m => (m.1 * c / sum, m.2.1, m.2.2))
    (s.parts.map Part.num).foldl (fun s p =>
      let x := s.part p
      let extra := (x.pagesOn die).drop (x.minOn die).1
      if extra.isEmpty then s else s.askPre p extra 15 true) s

/-- A lost logical page comes back where it may be mapped, in the physical clusters' order. -/
def State.remapPage (s : State) (p pg : Nat) : State :=
  match (onDie (pg / 256) s.clusters).find? (fun c => s.pageOk p pg (c.2 * 16 + pg % 16)) with
  | some c => s.mapPage p pg (c.2 * 16 + pg % 16)
  | none => s

/-- Lost pages (partition and page) come back until their partition holds its minimum (R372). -/
def State.remapLost (s : State) : List (Nat × Nat) → State
  | [] => s
  | (p, pg) :: t =>
    let x := s.part p
    let n : Nat := (x.pagesOn (pg / 256)).length
    ((if n < (x.minOn (pg / 256)).1 then (s.remapPage p pg).kick p else s)).remapLost t

/-! ### Spares (R422) -/

/-- The spare of a kind that a die has left. -/
def spareOf (die phys : Nat) (bad used gone : List (Nat × Nat)) : Option (Nat × Nat) :=
  ((List.range phys).map (fun k => (die, k))).find? (fun c => !bad.contains c && !used.contains c && !gone.contains c)

/-- CHANNEL_SPARE_SWITCH (R422): channel y of die x moves to a spare beneath its addresses; with no spare left, it is worn and its
bandwidth is lost. -/
def execChannelSpareSwitch (s : State) : Out :=
  let a := s.arg
  .next (if s.power != .on then s
    else
      match (onDie a.x s.channels)[a.y]? with
      | none => s
      | some c =>
        if s.worn.contains c then s
        else
          match spareOf a.x 66 s.module.badChannels s.channels s.worn with
          | some n => { s with channels := s.channels.map (fun k => if k == c then n else k), worn := s.worn ++ [c] }
          | none => ({ s with worn := s.worn ++ [c] } : State).reduceBandwidth a.x)

/-- The mapped pages of a physical cluster, as partition and logical page. -/
def State.clusterPages (s : State) (die cl : Nat) : List (Nat × Nat) :=
  s.parts.flatMap (fun x => (x.map.filter (fun m => m.1 / 256 == die && m.2.1 / 16 == cl)).map (fun m => (x.num, m.1)))

/-- The bytes and full/empty bits of a cluster move to another. -/
def State.moveCluster (s : State) (die cl dst : Nat) : State :=
  let lo := sramKey die (cl * 16) 0 0
  let hi := sramKey die (dst * 16) 0 0
  let n := 16 * 64 * 2 ^ 15
  let mine (k : Nat) : Bool := decide (lo ≤ k) && decide (k < lo + n)
  let here := s.mem.filter (fun c => mine c.1)
  { s with
    mem := here.foldl (fun m c => Mem.set m (c.1 - lo + hi) c.2) (Mem.clear (Mem.clear s.mem lo n) hi n)
    fe := (s.fe.filter mine).foldl (fun l k => Fe.set l (k - lo + hi)) (s.fe.filter (fun k => !mine k && !(decide (hi ≤ k) && decide (k < hi + n)))) }

/-- The requests that a retirement made complete; their pages leave the maps where no spare took their place. -/
def State.unholdPre (s : State) (reclaim : Bool) : State :=
  (s.parts.map Part.num).foldl (fun s p =>
    if (s.part p).preempts.any (fun r => r.hold) then
      (s.modPart p (fun x => { x with preempts := x.preempts.map (fun r => if r.hold then { r with hold := false, reclaim := reclaim } else r) })).sched
        s.now 0 .preemptionComplete { p := p }
    else s) s

/-- CLUSTER_RETIRE (R422): physical cluster y of die x. Its pages are cleared with PTOK 15 (z = 0), then its logical clusters move to the
spare; with no spare left, its pages are lost and the minima reduced (z = 1), and pages are mapped again once those reclaimed are
clear (z = 2, l the lost pages). -/
def execClusterRetire (s : State) : Out :=
  let a := s.arg
  let again (s : State) (a : Args) : State := s.sched (s.now + 64) 0 .clusterRetire a
  .next (if a.z = 2 then
      (if s.parts.any (fun x => x.preempts.any (fun r => r.reclaim && r.pgs.any (fun pg => pg / 256 == a.x))) then again s a
      else s.remapLost (pairs a.l))
    else if s.power != .on || !s.clusters.contains (a.x, a.y) || (a.z = 0 && s.retired.contains (a.x, a.y)) then s
    else
      let l := s.clusterPages a.x a.y
      if a.z = 0 then
        let s := { s with retired := s.retired ++ [(a.x, a.y)], cfgErrs := s.cfgErrs.filter (fun e => !(e.1 == a.x && e.2.1 == a.y)) }
        again ((l.map Prod.fst).eraseDups.foldl (fun s p =>
          let mine := (l.filter (fun z => z.1 == p)).map Prod.snd
          (s.askPre p mine 15 false).modPart p (fun x => { x with preempts := x.preempts.map (fun r =>
            if r.pgs == mine then { r with hold := true } else r) })) s) { a with z := 1 }
      else if !l.all (fun z => s.pageClear z.1 z.2) then again s a
      else
        match spareOf a.x 11 s.module.badClusters s.clusters s.retired with
        | some n =>
          let s := s.moveCluster a.x a.y n.2
          ({ s with
            clusters := s.clusters.map (fun c => if c == (a.x, a.y) then n else c)
            parts := s.parts.map (fun (x : Part) => { x with map := x.map.map (fun (m : Nat × Nat × Nat × Nat) =>
              if m.1 / 256 == a.x && m.2.1 / 16 == a.y then mapEntry m.1 (n.2 * 16 + m.2.1 % 16) else m) }) }).unholdPre false
        | none =>
          let s := { s with clusters := s.clusters.filter (fun c => c != (a.x, a.y)) }
          let s := (s.unholdPre true).reducePages a.x
          again s { a with z := 2, l := l.flatMap (fun z => [z.1, z.2]) })

/-! ### Power and heat -/

/-- The credits that one refill adds to a cluster's bucket (R423): its equal part of the module limit for 10 microseconds, in pJ. -/
def State.refill (s : State) : Nat := s.limit * 10000000 / max s.clusters.length 1

/-- POWER_REFILL (R423): every 10 microseconds each bucket takes its budget, and holds at most twice that. What the buckets admit is
timing (log 24). -/
def execPowerRefill (s : State) : Out :=
  .next (if s.power != .on then s
    else
      let n := s.refill
      { s with credits := s.clusters.map (fun (c : Nat × Nat) =>
        let have' := ((s.credits.find? (fun (k : Nat × Nat × Nat) => k.1 == c.1 && k.2.1 == c.2)).map (fun (k : Nat × Nat × Nat) => k.2.2)).getD 0
        (c.1, c.2, min (have' + n) (2 * n))) }.sched (s.now + 8500) 0 .powerRefill {})

/-- MODULE_LIMIT (R423): a limit of x watts, at most 2,600. -/
def execModuleLimit (s : State) : Out :=
  let x := s.arg.x
  .next (s.command 17 0 (s.power == .on && decide (x ≤ 2600)) fun s => { s with limit := x })

/-- THERMAL_LIMIT (R424): a die's junction has reached 105 degrees (z = 0), or has cooled (z = 1). -/
def execThermalLimit (s : State) : Out :=
  .next (if s.arg.z = 1 then { s with hot := false }
    else if s.power != .on || s.hot then s
    else { s with hot := true }.sched (s.now + 850000) 0 .thermalStep {})

/-- THERMAL_STEP (R424): every millisecond while hot, the limit drops by a tenth and the management function is told. -/
def execThermalStep (s : State) : Out :=
  .next (if s.power != .on || !s.hot then s
    else
      let n := s.limit * 9 / 10
      ({ s with limit := n, replies := s.replies ++ [(18, n, 0)] }).sched (s.now + 850000) 0 .thermalStep {})

/-- The module without power: every key, and all that the device held, is gone (R373, R424). -/
def State.powerOff (s : State) : State :=
  { s.clearDevice with
    power := .off, hot := false, fe := [], guard := [], tree := [], badLines := [], clusters := [], channels := []
    mem := s.mem.filter (fun c => isHost c.1) }

/-- THERMAL_SHUTDOWN (R424): at 115 degrees the module powers off. -/
def execThermalShutdown (s : State) : Out := .next s.powerOff

/-- POWER_LOSS (R373, R424). -/
def execPowerLoss (s : State) : Out := .next s.powerOff

/-- BRIDGE_LOSS (R425): the bridge x of two dies, x = lower die * 4 + higher die, is lost; the spec gives no effect but its count. -/
def execBridgeLoss (s : State) : Out :=
  .next (if s.bridges.contains s.arg.x then s else { s with bridges := s.bridges ++ [s.arg.x] })

end Sys2Proof.Machine
end

