-- ==== Sys2Proof/Machine/Float.lean ====
section
/-! DEFINITION. Sys2Proof/Machine/Float.lean: FP32 arithmetic (R107 to R115) and conversions (R76 to R80, R116). -/

namespace Sys2Proof.Machine

/-- L, R and C as FP32 numbers. -/
def State.lf (s : State) : Num := decodeF fp32 s.lv.toNat
def State.rf (s : State) : Num := decodeF fp32 s.rv.toNat
def State.cf (s : State) : Num := decodeF fp32 s.cv.toNat

/-- An FP32 operation with its latency, rounded by the block's RM. -/
def State.fop (s : State) (pr : BitVec 2) (lat : Nat) (t1 t0 : Target) (r : Nat × Nat) : Out :=
  .next (s.one pr lat t1 t0 (resOf r))

/-- FABS, FNEG and FCOPYS (R110): a NaN gives 0x7FC0_0000, and otherwise only bit 31 changes. -/
def signForm (l : Word) (neg : Bool) : Nat × Nat :=
  if (decodeF fp32 l.toNat).isNaN then (nan32, 0) else (l.toNat % 2 ^ 31 + b2n neg * 2 ^ 31, 0)

def execFadd (pr : BitVec 2) (t1 t0 : Target) (s : State) : Out := s.fop pr 4 t1 t0 (addNum s.rm s.lf s.rf)
def execFsub (pr : BitVec 2) (t1 t0 : Target) (s : State) : Out := s.fop pr 4 t1 t0 (addNum s.rm s.lf s.rf.neg)
def execFmul (pr : BitVec 2) (t1 t0 : Target) (s : State) : Out := s.fop pr 4 t1 t0 (mulNum s.rm s.lf s.rf)
def execFmin (pr : BitVec 2) (t1 t0 : Target) (s : State) : Out := s.fop pr 1 t1 t0 (fminmax false s.lv.toNat s.rv.toNat, 0)
def execFmax (pr : BitVec 2) (t1 t0 : Target) (s : State) : Out := s.fop pr 1 t1 t0 (fminmax true s.lv.toNat s.rv.toNat, 0)
def execFabs (pr : BitVec 2) (t1 t0 : Target) (s : State) : Out := s.fop pr 1 t1 t0 (signForm s.lv false)
def execFneg (pr : BitVec 2) (t1 t0 : Target) (s : State) : Out := s.fop pr 1 t1 t0 (signForm s.lv (!s.lv.getLsbD 31))
def execFcopys (pr : BitVec 2) (t1 t0 : Target) (s : State) : Out := s.fop pr 1 t1 t0 (signForm s.lv (s.rv.getLsbD 31))

/-- FFMA (R111): FMA L*R + C, FMS L*R - C, FNMA C - L*R, FNMS -(L*R) - C. -/
def execFma (pr : BitVec 2) (t1 t0 : Target) (s : State) : Out := s.fop pr 4 t1 t0 (fmaNum s.rm s.lf s.rf s.cf)
def execFms (pr : BitVec 2) (t1 t0 : Target) (s : State) : Out := s.fop pr 4 t1 t0 (fmaNum s.rm s.lf s.rf s.cf.neg)
def execFnma (pr : BitVec 2) (t1 t0 : Target) (s : State) : Out := s.fop pr 4 t1 t0 (fmaNum s.rm s.lf.neg s.rf s.cf)
def execFnms (pr : BitVec 2) (t1 t0 : Target) (s : State) : Out := s.fop pr 4 t1 t0 (fmaNum s.rm s.lf.neg s.rf s.cf.neg)

/-- FDIV and FSQRT (R112), FRCPE and FRSQE (R113). -/
def execFdiv (pr : BitVec 2) (t1 t0 : Target) (s : State) : Out := s.fop pr 14 t1 t0 (divNum s.rm s.lf s.rf)
def execFsqrt (pr : BitVec 2) (t1 t0 : Target) (s : State) : Out := s.fop pr 14 t1 t0 (sqrtNum s.rm s.lf)
def execFrcpe (pr : BitVec 2) (t1 t0 : Target) (s : State) : Out := s.fop pr 2 t1 t0 (rcpe s.lf)
def execFrsqe (pr : BitVec 2) (t1 t0 : Target) (s : State) : Out := s.fop pr 2 t1 t0 (rsqe s.lf)

/-- FTEST (R114): -0 equals +0, and a NaN makes every relation but FTUN false. -/
def State.ftest (s : State) (pr : BitVec 2) (t1 t0 : Target) (f : Num → Num → Bool) : Out :=
  .next (s.one pr 1 t1 t0 ⟨boolW (f s.lf s.rf), 0⟩)

def execFteq (pr : BitVec 2) (t1 t0 : Target) (s : State) : Out :=
  s.ftest pr t1 t0 (fun x y => !x.isNaN && !y.isNaN && !numLt x y && !numLt y x)
def execFtlt (pr : BitVec 2) (t1 t0 : Target) (s : State) : Out :=
  s.ftest pr t1 t0 (fun x y => !x.isNaN && !y.isNaN && numLt x y)
def execFtle (pr : BitVec 2) (t1 t0 : Target) (s : State) : Out :=
  s.ftest pr t1 t0 (fun x y => !x.isNaN && !y.isNaN && !numLt y x)
def execFtun (pr : BitVec 2) (t1 t0 : Target) (s : State) : Out := s.ftest pr t1 t0 (fun x y => x.isNaN || y.isNaN)
def execFclass (pr : BitVec 2) (t1 t0 : Target) (s : State) : Out := .next (s.one pr 1 t1 t0 ⟨word (fclass s.lv.toNat), 0⟩)

/-- FCVT (R116). -/
def execFcvt (pr : BitVec 2) (code : BitVec 5) (t1 t0 : Target) (s : State) : Out :=
  s.fop pr 2 t1 t0 (convert code.toNat s.rm s.lv.toNat)

/-- The commits of the firing's strand (R80). -/
def State.curCommits (s : State) : Nat := ((s.curInst.strand? s.cur.strand).map (fun t => t.commits.toNat)).getD 0

/-- FCVTS (R116): stochastic rounding with the word of R80. -/
def execFcvts (pr : BitVec 2) (code : BitVec 5) (t1 t0 : Target) (s : State) : Out :=
  let w := stochWord s.cur.id s.cur.tile s.cur.tag.toNat s.curCommits
  s.fop pr 3 t1 t0 (convert code.toNat (.stoch w) s.lv.toNat)

end Sys2Proof.Machine
end

