-- ==== Sys2Proof/Machine/Cnv.lean ====
section
/-! DEFINITION. Sys2Proof/Machine/Cnv.lean: the conversion islands: images and their loading (R277 to R279), CNV and the tokens of
their ports (R280). -/

namespace Sys2Proof.Machine

/-! ### Images (R278, R279) -/

/-- The FCVT code that takes FP32 into a standard image's format (R76, R123, R279). -/
def narrowCode (fmt : Nat) : Option Nat :=
  match fmt with
  | 1 => some 19
  | 2 => some 20
  | 3 => some 21
  | 4 => some 8
  | 5 => some 10
  | 6 => some 12
  | 7 => some 14
  | 8 => some 16
  | 9 => some 4
  | 10 => some 6
  | 14 => some 18
  | _ => none

/-- The low bits of a word read as a format, in FP32 (R279). -/
def widenFrom (fmt a : Nat) : Nat :=
  let ofInt (v : Int) : Nat := (roundFP32 .rne (decide (v < 0)) v.natAbs 0 false).1
  match fmt with
  | 1 => ofInt (sxt 8 a)
  | 2 => ofInt (a % 256)
  | 3 => ofInt (sxt 4 a)
  | 4 => widen (decodeF e4m3 (a % 256))
  | 5 => widen (decodeF e5m2 (a % 256))
  | 6 => widen (decodeF e3m2 (a % 64))
  | 7 => widen (decodeF e2m3 (a % 64))
  | 8 => widen (decodeF e2m1 (a % 16))
  | 9 => widen (decodeF fp16 (a % 65536))
  | 10 => widen (decodeF bf16 (a % 65536))
  | _ => ofInt (sxt 16 a)

/-- A standard image's rounding mode (R277). -/
def srmMode (srm w : Nat) : RMode :=
  match srm with
  | 0 => .rne
  | 1 => .rtz
  | 2 => .up
  | 3 => .down
  | _ => .stoch w

/-- Is a selector one that may stand in an image, naming only the LUTs below a number (R278)? -/
def selOk (below n : Nat) : Bool := decide (n < 96) || (decide (96 ≤ n) && decide (n < 96 + below)) || n == 254 || n == 255

/-- Reading and checking the 2,080 bytes of an image (R278). -/
def imageOf (n : Nat) : Option CnvImage :=
  let byte (k : Nat) : Nat := fieldAt n k 1
  let mask := byte 6 % 16
  let luts := (List.range 128).map (fun k => fieldAt n (64 + 8 * k) 8)
  let ins := (List.range 768).map (fun k => byte (1088 + k))
  let flops := (List.range 64).map (fun k => byte (1856 + k))
  let paths := (List.range 160).map (fun k => byte (1920 + k))
  let kinds := (List.range 4).map (fun k => byte (8 + k))
  let okIn := (List.range 768).all (fun j => selOk (j / 6) ((ins[j]?).getD 0))
  let okKind := (List.range 4).all (fun k => !bitAt mask k || (decide (1 ≤ (kinds[k]?).getD 0) && decide ((kinds[k]?).getD 0 ≤ 10)))
  let okPath := (List.range 160).all (fun j => decide (33 ≤ j % 40) || selOk 128 ((paths[j]?).getD 0))
  if fieldAt n 0 4 ≠ 0x49564E43 || fieldAt n 4 2 ≠ 1 || !okIn || !okKind || !flops.all (selOk 128) || !okPath then none
  else some (.mem mask kinds luts ins flops paths)

/-- A source of the field: L's bits, the flops, the LUT outputs so far, and the constants. -/
def srcBit (l : Nat) (flops outs : List Bool) (n : Nat) : Bool :=
  if n < 32 then bitAt l n
  else if n < 96 then (flops[n - 32]?).getD false
  else if n < 224 then (outs[n - 96]?).getD false
  else n == 255

/-- The outputs of the LUTs in ascending order. -/
def lutOuts (l : Nat) (flops : List Bool) (luts ins : List Nat) : List Bool :=
  (List.range 128).foldl (fun outs k =>
    let ix := (List.range 6).foldl (fun a i => a + b2n (srcBit l flops outs ((ins[6 * k + i]?).getD 254)) * 2 ^ i) 0
    outs ++ [bitAt ((luts[k]?).getD 0) ix]) []

/-- A firing of a path (R278 to R280): the value, the kind of its poison (0 for none), and the flops after it. -/
def CnvIsl.run (z : CnvIsl) (path l w : Nat) : Nat × Nat × List Bool :=
  match z.image with
  | .none => (0, 1, z.flops)
  | .std fmt srm =>
    match path, narrowCode fmt with
    | 0, some code => let r := convert code (srmMode srm w) l; (r.1, r.2, z.flops)
    | 1, some _ => (widenFrom fmt l, 0, z.flops)
    | _, _ => (0, 1, z.flops)
  | .mem mask kinds luts ins flops paths =>
    let outs := lutOuts l z.flops luts ins
    let next := flops.map (srcBit l z.flops outs)
    if !bitAt mask path then (0, 1, z.flops)
    else
      let sel (j : Nat) : Bool := srcBit l z.flops outs ((paths[40 * path + j]?).getD 254)
      let v := (List.range 32).foldl (fun a j => a + b2n (sel j) * 2 ^ j) 0
      (v, if sel 32 then (kinds[path]?).getD 1 else 0, next)

/-! ### Loading (R277) -/

/-- Changing a conversion island of a page. -/
def State.modCnv (s : State) (p pg k : Nat) (f : CnvIsl → CnvIsl) : State :=
  s.modPage p pg (fun y => { y with cnv := { y.cnv with isl := y.cnv.isl.set k (f ((y.cnv.isl[k]?).getD {})) } })

def State.cnvIsl (s : State) (p pg k : Nat) : CnvIsl := (((s.page p pg).cnv.isl)[k]?).getD {}

/-- CNV_IMAGE_LOAD (R277): while the instance that asked for it claims the islands, a load begins once every CNV inside the island has completed; one asked for while another runs follows it. -/
def execCnvImageLoad (s : State) : Out :=
  let p := s.arg.p
  let pg := s.arg.pg
  let k := s.arg.x
  let z := s.cnvIsl p pg k
  .next (if (s.page p pg).cnv.owner != some s.arg.id then s
    else if z.busy then s.modCnv p pg k (fun z => { z with waits := z.waits ++ [(.cnvImageLoad, s.arg)] })
    else
      let ctl := bits (csrWord (s.page p pg).cnv.csr 0x048).toNat (16 * k + 15) (16 * k)
      let va := (csrWord (s.page p pg).cnv.csr (0x04A + 2 * k)).toNat * 2 ^ 32 + (csrWord (s.page p pg).cnv.csr (0x049 + 2 * k)).toNat / 64 * 64
      let read := match s.translate (s.part p) va with
        | .ok l => 48 + 24 * crossDie pg (dieOf l.pa) + 17
        | .error _ => 48 + 17
      let start := if z.lastIn = 0 then s.now else max s.now (z.lastIn + 10)
      let t := if ctl % 4 = 2 then 40 + read else 20
      (s.modCnv p pg k (fun z => { z with busy := true })).sched (start + t) (srcOf pg 0) .cnvLoadDone { s.arg with w0 := word ctl, l := [va] })

/-- CNV_LOAD_DONE (R277, R278): the island holds the image, its flops at 0, or none and ERR; what waited goes on in order. -/
def execCnvLoadDone (s : State) : Out :=
  let p := s.arg.p
  let pg := s.arg.pg
  let k := s.arg.x
  let ctl := s.arg.w0.toNat
  let img : Option CnvImage := match ctl % 4 with
    | 0 => some .none
    | 1 => if (narrowCode (bits ctl 6 2)).isSome && bits ctl 9 7 ≤ 4 then some (.std (bits ctl 6 2) (bits ctl 9 7)) else none
    | _ => match s.readVa p ((s.arg.l[0]?).getD 0) 2080 false with
      | .ok n => imageOf n
      | .error _ => none
  let waits := (s.cnvIsl p pg k).waits
  .next (if (s.page p pg).cnv.owner != some s.arg.id then s
    else waits.foldl (fun s w => s.sched s.now (srcOf pg 0) w.1 w.2) (s.modCnv p pg k (fun _ => { image := img.getD .none, err := img.isNone })))

/-! ### CNV (R280) -/

/-- The random word that a conversion draws (R80, R279). -/
def State.cnvWord (s : State) (p id strand k : Nat) (tag : Tag) : Nat :=
  stochWord id k tag.toNat ((((s.inst p id).strand? strand).map (fun t => t.commits.toNat)).getD 0)

/-- A value enters a conversion island: the state, and what comes out 10 fclk later. `o` is the poison it brings; another instance's
island gives 0 of kind 1 (R185). -/
def State.convertAt (s : State) (p pg id strand k path tile slot : Nat) (tag : Tag) (gen : Nat) (claims : Bool) (l : Word) (o : Option (BitVec 11)) :
    State × Token :=
  let s := if claims && (s.page p pg).cnv.owner.isNone then s.modPage p pg (fun y => { y with cnv := { y.cnv with owner := some id } }) else s
  let mine := (s.page p pg).cnv.owner == some id
  let r := if mine then (s.cnvIsl p pg k).run path l.toNat (s.cnvWord p id strand slot tag) else (0, 1, [])
  let s := if mine then s.modCnv p pg k (fun z => { z with flops := r.2.2, lastIn := s.now }) else s
  match o with
  | some o => (s, { val := word r.1, pois := true, origin := o })
  | none =>
    if r.2.1 = 0 then (s, { val := word r.1 })
    else
      let z := s.newOrigin p pg tile tag gen r.2.1 0 0 0
      (z.1, { val := word r.1, pois := true, origin := z.2 })

/-- A CNV takes its operand: its result comes out 10 fclk later (z = 2), or it waits for a load. -/
def State.cnvTake (s : State) (p pg fid : Nat) : State :=
  match (s.page p pg).fire? fid with
  | none => s
  | some f =>
    let x := (xF f.word).toNat
    let k := bits x 2 2
    let c := (s.page p pg).cnv
    let a : Args := { p := p, pg := pg, id := f.id, fid := fid, tag := f.tag }
    if (c.owner.isNone || c.owner == some f.id) && (s.cnvIsl p pg k).busy then
      s.modCnv p pg k (fun z => { z with waits := z.waits ++ [(.cnvPortInput, { a with z := 1 })] })
    else
      let z := s.convertAt p pg f.id f.strand k (bits x 1 0) f.tile f.tile f.tag f.gen true (valOf (f.l.map Arr.tok)) (curOf p pg f).firstOrigin
      (z.1.modFire p pg fid (fun f => { f with acted := true })).sched (s.now + 10) (srcOf pg f.tile) .cnvPortInput { a with z := 2, tok := z.2 }

/-- CNV fires (R17, R280). -/
def execCnv (pr : BitVec 2) (_path : BitVec 3) (t1 t0 : Target) (s : State) : Out :=
  .next (s.frame pr 10 t1 t0 fun s =>
    let a := s.curAct
    (s.modFire s.cur.p s.cur.pg s.cur.fid (fun f => { f with phase := .engine, blk := a.blk, gen := a.gen })).cnvTake s.cur.p s.cur.pg s.cur.fid)

/-- CNV_PORT_INPUT (R280): a token at a port is converted and returned under its own tag to the queue that CNVRET names (z = 0); a CNV
that waited for a load goes on (z = 1); a CNV's result comes out (z = 2). -/
def execCnvPortInput (s : State) : Out :=
  let a := s.arg
  let p := a.p
  let pg := a.pg
  .next (match a.z with
    | 1 => s.cnvTake p pg a.fid
    | 2 => s.engineAnswer p pg a.fid s.now a.tok
    | _ =>
      let k := (a.x - 24) / 4
      let path := (a.x - 24) % 4
      let c := (s.page p pg).cnv
      let i := s.inst p a.id
      if (c.owner.isNone || c.owner == some a.id) && (s.cnvIsl p pg k).busy then
        s.modCnv p pg k (fun z => { z with waits := z.waits ++ [(.cnvPortInput, a)] })
      else
        let strand := i.strandOn pg
        let gen := ((i.strand? strand).map Strand.gen).getD 0
        let z := if a.tok.null then (s, withPoison tokNull (origOf (some a.tok)))
          else s.convertAt p pg a.id strand k path 0 (64 + a.x) a.tag gen false a.tok.val (origOf (some a.tok))
        let ret := bits (csrWord c.csr (0x04D + k)).toNat (8 * path + 7) (8 * path)
        let slot := BitVec.ofNat 6 (ret % 64)
        let back (q : Pos) : State :=
          z.1.sched (s.now + 10) (srcOf pg 0) .tokenArrival { p := p, pg := pg, tg := .queue q slot, tag := a.tag, tok := z.2, fid := a.fid }
        match ret / 64 with
        | 1 => back .l
        | 2 => back .r
        | 3 => back .p
        | _ => z.1.stale p pg 0)

end Sys2Proof.Machine
end

