-- ==== Sys2Proof/Machine/Packed.lean ====
section
/-! DEFINITION. Sys2Proof/Machine/Packed.lean: packed and narrow operations (R117 to R123). -/

namespace Sys2Proof.Machine

/-- Halfword lane i and byte lane i of a word. -/
def halfOf (w : Word) (i : Nat) : BitVec 16 := w.extractLsb' (16 * i) 16
def byteOf (w : Word) (i : Nat) : BitVec 8 := w.extractLsb' (8 * i) 8

/-- An operation on the two halfword lanes (R117). -/
def lanesH (f : BitVec 16 → BitVec 16 → BitVec 16) (l r : Word) : Word :=
  f (halfOf l 1) (halfOf r 1) ++ f (halfOf l 0) (halfOf r 0)

/-- An operation on the four byte lanes (R117). -/
def lanesB (f : BitVec 8 → BitVec 8 → BitVec 8) (l r : Word) : Word :=
  f (byteOf l 3) (byteOf r 3) ++ f (byteOf l 2) (byteOf r 2) ++ f (byteOf l 1) (byteOf r 1) ++ f (byteOf l 0) (byteOf r 0)

/-- A packed operation on L and R. -/
def State.pack2 (s : State) (pr : BitVec 2) (lat : Nat) (t1 t0 : Target) (f : Word → Word → Word) : Out :=
  .next (s.one pr lat t1 t0 ⟨f s.lv s.rv, 0⟩)

def execPaddH (pr : BitVec 2) (t1 t0 : Target) (s : State) : Out := s.pack2 pr 1 t1 t0 (lanesH (· + ·))
def execPsubH (pr : BitVec 2) (t1 t0 : Target) (s : State) : Out := s.pack2 pr 1 t1 t0 (lanesH (· - ·))
def execPaddB (pr : BitVec 2) (t1 t0 : Target) (s : State) : Out := s.pack2 pr 1 t1 t0 (lanesB (· + ·))
def execPsubB (pr : BitVec 2) (t1 t0 : Target) (s : State) : Out := s.pack2 pr 1 t1 t0 (lanesB (· - ·))
def execPmaxH (pr : BitVec 2) (t1 t0 : Target) (s : State) : Out :=
  s.pack2 pr 1 t1 t0 (lanesH (fun a b => if a.slt b then b else a))
def execPminH (pr : BitVec 2) (t1 t0 : Target) (s : State) : Out :=
  s.pack2 pr 1 t1 t0 (lanesH (fun a b => if a.slt b then a else b))

/-- The dot products of R118 on integer readings of the lanes. -/
def dot4 (f : BitVec 8 → Int) (l r : Word) : Int :=
  f (byteOf l 0) * f (byteOf r 0) + f (byteOf l 1) * f (byteOf r 1) + f (byteOf l 2) * f (byteOf r 2)
    + f (byteOf l 3) * f (byteOf r 3)
def dot2 (l r : Word) : Int :=
  (halfOf l 0).toInt * (halfOf r 0).toInt + (halfOf l 1).toInt * (halfOf r 1).toInt

def execPdot4 (pr : BitVec 2) (t1 t0 : Target) (s : State) : Out :=
  s.pack2 pr 2 t1 t0 (fun l r => s.cv + wordOfInt (dot4 BitVec.toInt l r))
def execPdot4u (pr : BitVec 2) (t1 t0 : Target) (s : State) : Out :=
  s.pack2 pr 2 t1 t0 (fun l r => s.cv + wordOfInt (dot4 (fun b => (b.toNat : Int)) l r))
def execPdot2H (pr : BitVec 2) (t1 t0 : Target) (s : State) : Out :=
  s.pack2 pr 2 t1 t0 (fun l r => s.cv + wordOfInt (dot2 l r))

/-- PACK.H and PACK.B (R119). -/
def execPackH (pr : BitVec 2) (t1 t0 : Target) (s : State) : Out :=
  s.pack2 pr 1 t1 t0 (fun l r => halfOf r 0 ++ halfOf l 0)
def execPackB (pr : BitVec 2) (t1 t0 : Target) (s : State) : Out :=
  s.pack2 pr 1 t1 t0 (fun l r => byteOf r 2 ++ byteOf r 0 ++ byteOf l 2 ++ byteOf l 0)

/-- Trit j of four TRI5 bytes as its 2-bit code (R120). -/
def tunpkCode (l : Word) (j : Nat) : Nat := tritCode (byteOf l (j / 5)).toNat (j % 5)

/-- The codes of trits j to j + n - 1, the first in the low bits. -/
def tunpkCodes (l : Word) (j : Nat) : Nat → Nat
  | 0 => 0
  | n + 1 => tunpkCode l j + 4 * tunpkCodes l (j + 1) n

/-- Does some trit from j on, of n, carry code 10? -/
def tunpkBad (l : Word) (j : Nat) : Nat → Bool
  | 0 => false
  | n + 1 => tunpkCode l j == 2 || tunpkBad l (j + 1) n

/-- TUNPK (R120): trits 0 to 15 on T0, 16 to 19 on T1; a result with code 10 has an event of kind 8 (R71). -/
def execTunpk (pr : BitVec 2) (t1 t0 : Target) (s : State) : Out :=
  let part (j n : Nat) : Res := ⟨word (tunpkCodes s.lv j n), if tunpkBad s.lv j n then 8 else 0⟩
  .next (s.two pr 2 t1 t0 (part 0 16) (part 16 4))

/-- Code i of a word of sixteen 2-bit trit codes. -/
def codeOf (l : Word) (i : Nat) : Nat := bits l.toNat (2 * i + 1) (2 * i)

/-- TDOT4 (R121): C plus four INT8 activations signed by the selected trits; code 10 is an event of kind 8. -/
def execTdot4 (pr : BitVec 2) (group : BitVec 2) (t1 t0 : Target) (s : State) : Out :=
  let k := 4 * group.toNat
  let term (i : Nat) : Int := tritVal (codeOf s.lv (k + i)) * (byteOf s.rv i).toInt
  let bad := codeOf s.lv k == 2 || codeOf s.lv (k + 1) == 2 || codeOf s.lv (k + 2) == 2 || codeOf s.lv (k + 3) == 2
  .next (s.one pr 2 t1 t0 ⟨s.cv + wordOfInt (term 0 + term 1 + term 2 + term 3), if bad then 8 else 0⟩)

/-- Four LC2 elements as E4M3 bytes, the first in the low byte. -/
def lc2Word (q : List Int) : Word :=
  match q with
  | [a, b, c, d] => word (lc2Byte a + 256 * lc2Byte b + 65536 * lc2Byte c + 16777216 * lc2Byte d)
  | _ => 0

/-- LCDEC (R122). -/
def execLcdec (pr : BitVec 2) (t1 t0 : Target) (s : State) : Out :=
  let q := lc2Quarters (s.lv.toNat % 65536)
  .next (s.two pr 1 t1 t0 ⟨lc2Word (q.take 4), 0⟩ ⟨lc2Word (q.drop 4), 0⟩)

/-- QNT (R123): the exact product L * R narrowed into the format that X names. A product 0 * infinity has kind 1 in place of
R79's kind. -/
def execQnt (pr : BitVec 2) (code : BitVec 5) (t1 t0 : Target) (s : State) : Out :=
  let x := qntProduct (decodeF fp32 s.lv.toNat) (decodeF fp32 s.rv.toNat)
  let r := quantise code.toNat s.rm x.1
  .next (s.one pr 4 t1 t0 (resOf (r.1, if x.2 = 0 then r.2 else x.2)))

end Sys2Proof.Machine
end

