-- ==== Sys2Proof/Machine/Quiesce.lean ====
section
/-! DEFINITION. Sys2Proof/Machine/Quiesce.lean: quiescence regions: QBEGIN, QEND and PHASE and the waves that detect quiescence
(R169, R170). -/

namespace Sys2Proof.Machine

/-- Region n of a partition, closed when it has never been opened. -/
def Part.region (x : Part) (n : Nat) : QRegion := (x.qregs.find? (fun q => q.n == n)).getD { n := n }

/-- Setting a region. -/
def State.setRegion (s : State) (p : Nat) (q : QRegion) : State :=
  s.modPart p (fun x => { x with qregs :=
    (if x.qregs.any (fun r => r.n == q.n) then x.qregs.map (fun r => if r.n == q.n then q else r) else x.qregs ++ [q]) })

/-- The pages of the members of a region. -/
def Part.regionPages (x : Part) (q : QRegion) : List Nat :=
  (q.members.flatMap (fun id => match x.inst? id with
    | some i => (i.strands.filter (fun t => !t.ended)).map Strand.pg
    | none => [])).eraseDups

/-- Is a firing one in progress, or a memory or engine request that is outstanding (R170)? One that is parked is neither, and a call waits
for its callee, which is a member itself. -/
def Fire.busy (f : Fire) (now : Nat) : Bool :=
  match f.phase with
  | .run => decide (now < f.leaves)
  | .out | .engine => !f.isCall
  | _ => false

/-- Does a row carry a token of a region's members (R170)? -/
def QRegion.carries (q : QRegion) (p : Nat) (t : Timed) : Bool :=
  match t.act with
  | .row .callResult a => a.p == p && q.members.contains a.id
  | .row .messageArrival a => a.p == p && a.z == 0 && q.members.contains a.id
  | .row r a => (r == .tokenArrival || r == .islandStreamToken || r == .copyStreamToken || r == .cnvPortInput)
      && a.p == p && q.members.contains (tagId a.tag)
  | _ => false

/-- Has a region no member token in transit or held at a port, no ready set and no firing in progress (R170)? A call that waits for
placement, and the arguments of a callee that is being configured, are in transit. -/
def State.isQuiet (s : State) (p : Nat) (q : QRegion) : Bool :=
  let x := s.part p
  let mine (t : Tag) : Bool := q.members.contains (tagId t)
  (x.regionPages q).all (fun pg =>
    let y := x.page pg
    !y.fires.any (fun f => mine f.tag && f.busy s.now) && !y.ents.any (fun e => mine e.tag && e.ready.isSome)
      && !y.held.any (fun h => mine h.tag) && y.skid.isEmpty && !y.nexts.any (fun n => mine n.tag && n.entry)
      && !(List.range 8).any (fun k => ((y.ports.filter (fun t => t.1 == k)).drop 4).any (fun t => mine t.2.2.1))
      && !y.cnv.isl.any (fun k => k.waits.any (fun w => mine w.2.tag)))
  && !x.requests.any (fun r => match r.kind with
    | .call id _ => q.members.contains id
    | _ => false)
  && !s.agenda.any (q.carries p)

/-- A region's members, and the fclk of the latest activity of each on each of its pages: where it is unchanged, nothing has been sent or
received since. -/
def State.totals (s : State) (p : Nat) (q : QRegion) : List Nat :=
  let x := s.part p
  q.members ++ q.members.flatMap (fun id => (s.inst p id).strands.map (fun t => (kget (x.page t.pg).stirred id).getD 0))

/-- The next wave, while something waits for one. -/
def State.schedWave (s : State) (p : Nat) : State :=
  if s.pending p .quiescenceWave then s else s.sched (s.nextMul 64) 0 .quiescenceWave { p := p }

/-- The dies that a region spans. -/
def Part.regionDies (x : Part) (q : QRegion) : Nat := ((x.regionPages q).map (fun pg => pg / 256)).eraseDups.length

/-- A region opened or closed in the frame of a QRG form (R169): the region's number when the use is allowed; otherwise the
SYNCOBJ trap, whose detail the spec does not single out among 1 to 6 (log 9). -/
def State.qrg (s : State) (pr : BitVec 2) (t1 t0 : Target) (run : State → QRegion → Option State) : State :=
  s.frame pr 16 t1 t0 fun s =>
    let l := s.lv.toNat
    let bad : State := { s with free := s.free + 1 }.trap 0x0C (1 + Config.freeNat s.free % 6) 0
    if 16 ≤ l then bad
    else (run s ((s.part s.cur.p).region l)).getD bad

/-- QBEGIN (R169). -/
def execQbegin (pr : BitVec 2) (t1 t0 : Target) (s : State) : Out :=
  .next (s.qrg pr t1 t0 fun s q =>
    let c := s.cur
    if q.isOpen || (s.part c.p).qregs.any (fun r => r.isOpen && r.members.contains c.id) then none
    else
      let s := s.setRegion c.p { n := q.n, isOpen := true, members := [c.id] }
      let m := s.mark ⟨word q.n, 0⟩
      some (m.1.emit 16 t0 t1 m.2 m.2))

/-- A QEND or PHASE waits, holding no issue slot. -/
def State.qrgPark (s : State) : State :=
  (s.modFire s.cur.p s.cur.pg s.cur.fid (fun f => { f with phase := .parked })).schedWave s.cur.p

/-- QEND (R169, R170). -/
def execQend (pr : BitVec 2) (t1 t0 : Target) (s : State) : Out :=
  .next (s.qrg pr t1 t0 fun s q =>
    if !q.isOpen then none
    else some ((s.setRegion s.cur.p { q with qends := q.qends ++ [(s.cur.pg, s.cur.fid)], quiet := 0 }).qrgPark))

/-- A region's phase ends and the next opens. -/
def QRegion.nextPhase (q : QRegion) (now : Nat) : QRegion :=
  { q with older := q.older ++ [(q.phase, now)], phase := (q.phase + 1) % 4 }

/-- PHASE (R169). -/
def execPhase (pr : BitVec 2) (t1 t0 : Target) (s : State) : Out :=
  .next (s.qrg pr t1 t0 fun s q =>
    if !q.isOpen then none
    else if q.older.length < 3 then
      let n := q.nextPhase s.now
      let m := (s.setRegion s.cur.p n).mark ⟨word n.phase, 0⟩
      some ((m.1.emit 16 t0 t1 m.2 m.2).schedWave s.cur.p)
    else some ((s.setRegion s.cur.p { q with phases := q.phases ++ [(s.cur.pg, s.cur.fid)] }).qrgPark))

/-- Is a counter of an earlier phase that ended at a given fclk not 0 (R170): is a member's token that crosses a die, a request of one, or a
remote signal or copy that one issued by then still on its way? A memory or engine request counts wherever it goes (log 63). -/
def State.phaseBusy (s : State) (p : Nat) (q : QRegion) (ended : Nat) : Bool :=
  let x := s.part p
  (x.regionPages q).any (fun pg => (x.page pg).fires.any (fun f =>
    q.members.contains f.id && decide (f.firedAt ≤ ended) && (f.phase == .out || f.phase == .engine) && !f.isCall))
  || x.copies.any (fun c => c.peer.isSome && c.place.isSome && q.members.contains c.id && decide (c.accepted ≤ ended))
  || x.requests.any (fun r => match r.kind with
    | .call id _ => q.members.contains id && decide (r.since ≤ ended)
    | _ => false)
  || s.agenda.any (fun t => match t.act with
    | .row .callResult a => a.p == p && q.members.contains a.id && a.x != 0 && decide (a.y ≤ ended)
    | _ => false)

/-- The answer to a QEND or PHASE that waits. -/
def State.qrgAnswer (s : State) (p n extra : Nat) (w : Nat × Nat) : State :=
  match (s.page p w.1).fire? w.2 with
  | none => s
  | some f =>
    if f.phase != .parked then s
    else (s.answer p w.1 w.2 (s.now + extra + 1) (f.done (word n)) (f.done (word n))).checkDone p w.1 f.tag

/-- One region in a wave: its earlier phases close, a waiting PHASE goes on, and, found quiet twice with totals unchanged, its
QENDs return and it closes. -/
def State.waveRegion (s : State) (p : Nat) (q : QRegion) : State :=
  let q := { q with older := q.older.filter (fun z => s.phaseBusy p q z.2) }
  let go := q.phases.take (3 - q.older.length)
  let step (acc : State × QRegion) (w : Nat × Nat) : State × QRegion :=
    let n := acc.2.nextPhase s.now
    (acc.1.qrgAnswer p n.phase 0 w, n)
  let r := go.foldl step (s, { q with phases := q.phases.drop (3 - q.older.length) })
  let s := r.1
  let q := r.2
  let totals := s.totals p q
  let quiet := if s.isQuiet p q && totals == q.totals then q.quiet + 1 else 0
  let q := { q with quiet := quiet, totals := totals }
  if 2 ≤ quiet && !q.qends.isEmpty && q.older.isEmpty then
    let s := q.members.foldl (fun s id => s.flush p id) (s.setRegion p { n := q.n })
    q.qends.foldl (fun s w => s.qrgAnswer p q.n (24 * ((s.part p).regionDies q - 1)) w) s
  else s.setRegion p q

/-- QUIESCENCE_WAVE (R170): every 64 fclk, while a QEND or PHASE waits or an earlier phase is open. -/
def execQuiescenceWave (s : State) : Out :=
  let p := s.arg.p
  let s := ((s.part p).qregs.filter (fun q => q.isOpen)).foldl (fun s q => s.waveRegion p q) s
  .next (if (s.part p).qregs.any (fun q => q.isOpen && (!q.qends.isEmpty || !q.phases.isEmpty || !q.older.isEmpty)) then s.schedWave p else s)

end Sys2Proof.Machine
end

