-- ==== Sys2Proof/Machine/Scalar.lean ====
section
/-! DEFINITION. Sys2Proof/Machine/Scalar.lean: moving, generating and selecting (R93 to R96), integer arithmetic and logic
(R97 to R104) and tests (R105, R106). Latencies are those of R92. -/

namespace Sys2Proof.Machine

/-! ### Values -/

/-- SHL, SHR and SAR by a register amount (R97, R98). -/
def shlV (l r : Word) : Word := if r.toNat < 32 then l <<< r.toNat else 0
def shrV (l r : Word) : Word := if r.toNat < 32 then l >>> r.toNat else 0
def sarV (l r : Word) : Word := l.sshiftRight (min r.toNat 31)

/-- The exact product of two readings (R100). -/
def mulHi (x y : Int) : Word := wordOfInt (x * y / 4294967296)

/-- DIV, REM and their unsigned forms with the kinds of R101. -/
def divV (l r : Word) : Res :=
  if r = 0 then ⟨0xFFFFFFFF, 3⟩ else if l = 0x80000000 ∧ r = 0xFFFFFFFF then ⟨0x80000000, 4⟩ else ⟨l.sdiv r, 0⟩
def divuV (l r : Word) : Res := if r = 0 then ⟨0xFFFFFFFF, 3⟩ else ⟨l / r, 0⟩
def remV (l r : Word) : Res :=
  if r = 0 then ⟨l, 3⟩ else if l = 0x80000000 ∧ r = 0xFFFFFFFF then ⟨0, 4⟩ else ⟨l.srem r, 0⟩
def remuV (l r : Word) : Res := if r = 0 then ⟨l, 3⟩ else ⟨l % r, 0⟩

/-- BSWAP (R102). -/
def bswapV (l : Word) : Word :=
  l.extractLsb' 0 8 ++ l.extractLsb' 8 8 ++ l.extractLsb' 16 8 ++ l.extractLsb' 24 8

/-- EXTR (R103): `len` holds the length minus 1. -/
def extrV (sgn : BitVec 1) (len lsb : BitVec 5) (l : Word) : Word :=
  let n := len.toNat + 1
  let f := bits l.toNat (lsb.toNat + n - 1) lsb.toNat
  if sgn = 1 then wordOfInt (sxt n f) else word f

/-- INS (R103). -/
def insV (len lsb : BitVec 5) (l r : Word) : Word :=
  word (setBits l.toNat (lsb.toNat + len.toNat) lsb.toNat r.toNat)

/-- TBIT (R105). -/
def tbitV (l r : Word) : Bool := decide (r.toNat < 32) && bitAt l.toNat r.toNat

/-- An IMM14 sign-extended to 32 bits (R34). -/
def imm32 (imm : BitVec 14) : Word := imm.signExtend 32

/-- A one-result integer operation on L and R of latency 1. -/
def State.alu2 (s : State) (pr : BitVec 2) (t1 t0 : Target) (f : Word → Word → Word) : Out :=
  .next (s.one pr 1 t1 t0 ⟨f s.lv s.rv, 0⟩)

/-- A one-result integer operation on L of latency 1. -/
def State.alu1 (s : State) (pr : BitVec 2) (t1 t0 : Target) (f : Word → Word) : Out :=
  .next (s.one pr 1 t1 t0 ⟨f s.lv, 0⟩)

/-- A test of L and R (R105): 1 or 0. -/
def State.test2 (s : State) (pr : BitVec 2) (t1 t0 : Target) (f : Word → Word → Bool) : Out :=
  .next (s.one pr 1 t1 t0 ⟨boolW (f s.lv s.rv), 0⟩)

/-- An operation of IMUL on L, R and C of latency 3. -/
def State.mul3 (s : State) (pr : BitVec 2) (t1 t0 : Target) (f : Word → Word → Word → Word) : Out :=
  .next (s.one pr 3 t1 t0 ⟨f s.lv s.rv s.cv, 0⟩)

/-- A division of latency 20. -/
def State.idiv (s : State) (pr : BitVec 2) (t1 t0 : Target) (f : Word → Word → Res) : Out :=
  .next (s.one pr 20 t1 t0 (f s.lv s.rv))

/-! ### Moving, generating and selecting -/

/-- MOV (R93, R148): the same token; a null L stays the same null. -/
def execMov (pr : BitVec 2) (t1 t0 : Target) (s : State) : Out :=
  .next (s.rawFrame pr 1 t1 t0 fun s =>
    let t := passed s.cur.firstOrigin (tokIn s.cur.l)
    s.emit 1 t0 t1 t t)

/-- NULL (R17, R93): the same null for any L, a null one included; flags [13:11] are 0 (R148). -/
def execNull (pr : BitVec 2) (t1 t0 : Target) (s : State) : Out :=
  .next (s.frame pr 1 t1 t0 fun s => s.emit 1 t0 t1 (nullOf s.cur.firstOrigin) (nullOf s.cur.firstOrigin))

/-- BFLY (R94). -/
def execBfly (pr : BitVec 2) (t1 t0 : Target) (s : State) : Out :=
  .next (s.two pr 1 t1 t0 ⟨s.lv + s.rv, 0⟩ ⟨s.lv - s.rv, 0⟩)

/-- FBFLY (R94): two FP32 additions of latency 4. -/
def execFbfly (pr : BitVec 2) (t1 t0 : Target) (s : State) : Out :=
  let x := decodeF fp32 s.lv.toNat
  let y := decodeF fp32 s.rv.toNat
  .next (s.two pr 4 t1 t0 (resOf (addNum s.rm x y)) (resOf (addNum s.rm x y.neg)))

/-- GENC (R95): IMM16 zero-extended. -/
def execGenc (imm : BitVec 16) (t0 : Target) (s : State) : Out :=
  .next (s.one 0 1 .none t0 ⟨imm.setWidth 32, 0⟩)

/-- GENS (R95): IMM16 sign-extended. -/
def execGens (imm : BitVec 16) (t0 : Target) (s : State) : Out :=
  .next (s.one 0 1 .none t0 ⟨imm.signExtend 32, 0⟩)

/-- GENH (R95): IMM16 above the low half of L. -/
def execGenh (imm : BitVec 16) (t0 : Target) (s : State) : Out :=
  .next (s.one 0 1 .none t0 ⟨imm ++ s.lv.extractLsb' 0 16, 0⟩)

/-- SEL (R96): the flags [13:11] are those of the operand it selects. -/
def execSel (pr : BitVec 2) (t1 t0 : Target) (s : State) : Out :=
  .next (s.frame pr 1 t1 t0 fun s =>
    let t := passed s.cur.firstOrigin (if s.cv.getLsbD 0 then tokIn s.cur.l else tokIn s.cur.r)
    s.emit 1 t0 t1 t t)

/-! ### IALU (R97 to R99) -/

def execAdd (pr : BitVec 2) (t1 t0 : Target) (s : State) : Out := s.alu2 pr t1 t0 (· + ·)
def execSub (pr : BitVec 2) (t1 t0 : Target) (s : State) : Out := s.alu2 pr t1 t0 (· - ·)
def execAnd (pr : BitVec 2) (t1 t0 : Target) (s : State) : Out := s.alu2 pr t1 t0 (· &&& ·)
def execOr (pr : BitVec 2) (t1 t0 : Target) (s : State) : Out := s.alu2 pr t1 t0 (· ||| ·)
def execXor (pr : BitVec 2) (t1 t0 : Target) (s : State) : Out := s.alu2 pr t1 t0 (· ^^^ ·)
def execAndn (pr : BitVec 2) (t1 t0 : Target) (s : State) : Out := s.alu2 pr t1 t0 (fun l r => l &&& ~~~r)
def execOrn (pr : BitVec 2) (t1 t0 : Target) (s : State) : Out := s.alu2 pr t1 t0 (fun l r => l ||| ~~~r)
def execXnor (pr : BitVec 2) (t1 t0 : Target) (s : State) : Out := s.alu2 pr t1 t0 (fun l r => ~~~(l ^^^ r))
def execShl (pr : BitVec 2) (t1 t0 : Target) (s : State) : Out := s.alu2 pr t1 t0 shlV
def execShr (pr : BitVec 2) (t1 t0 : Target) (s : State) : Out := s.alu2 pr t1 t0 shrV
def execSar (pr : BitVec 2) (t1 t0 : Target) (s : State) : Out := s.alu2 pr t1 t0 sarV
def execRol (pr : BitVec 2) (t1 t0 : Target) (s : State) : Out := s.alu2 pr t1 t0 (fun l r => l.rotateLeft (r.toNat % 32))
def execRor (pr : BitVec 2) (t1 t0 : Target) (s : State) : Out := s.alu2 pr t1 t0 (fun l r => l.rotateRight (r.toNat % 32))
def execMin (pr : BitVec 2) (t1 t0 : Target) (s : State) : Out := s.alu2 pr t1 t0 (fun l r => if l.slt r then l else r)
def execMax (pr : BitVec 2) (t1 t0 : Target) (s : State) : Out := s.alu2 pr t1 t0 (fun l r => if l.slt r then r else l)
def execMinu (pr : BitVec 2) (t1 t0 : Target) (s : State) : Out := s.alu2 pr t1 t0 (fun l r => if l.ult r then l else r)
def execMaxu (pr : BitVec 2) (t1 t0 : Target) (s : State) : Out := s.alu2 pr t1 t0 (fun l r => if l.ult r then r else l)

/-- ADDC (R99): the full sum L + R + C[0]. -/
def execAddc (pr : BitVec 2) (t1 t0 : Target) (s : State) : Out :=
  let sum := s.lv.toNat + s.rv.toNat + s.cv.toNat % 2
  .next (s.two pr 1 t1 t0 ⟨word sum, 0⟩ ⟨boolW (decide (2 ^ 32 ≤ sum)), 0⟩)

/-- SUBB (R99): L - R - C[0] and the borrow. -/
def execSubb (pr : BitVec 2) (t1 t0 : Target) (s : State) : Out :=
  let b := s.cv.toNat % 2
  .next (s.two pr 1 t1 t0 ⟨s.lv - s.rv - word b, 0⟩ ⟨boolW (decide (s.lv.toNat < s.rv.toNat + b)), 0⟩)

/-- ABSD (R97): the exact distance of two signed readings. -/
def execAbsd (pr : BitVec 2) (t1 t0 : Target) (s : State) : Out :=
  s.alu2 pr t1 t0 (fun l r => if r.toInt ≤ l.toInt then l - r else r - l)

/-! ### IMUL (R100) and IDIV (R101) -/

def execMul (pr : BitVec 2) (t1 t0 : Target) (s : State) : Out := s.mul3 pr t1 t0 (fun l r _ => l * r)
def execMulh (pr : BitVec 2) (t1 t0 : Target) (s : State) : Out := s.mul3 pr t1 t0 (fun l r _ => mulHi l.toInt r.toInt)
def execMulhu (pr : BitVec 2) (t1 t0 : Target) (s : State) : Out := s.mul3 pr t1 t0 (fun l r _ => mulHi l.toNat r.toNat)
def execMulhsu (pr : BitVec 2) (t1 t0 : Target) (s : State) : Out := s.mul3 pr t1 t0 (fun l r _ => mulHi l.toInt r.toNat)
def execMadd (pr : BitVec 2) (t1 t0 : Target) (s : State) : Out := s.mul3 pr t1 t0 (fun l r c => l * r + c)
def execMsub (pr : BitVec 2) (t1 t0 : Target) (s : State) : Out := s.mul3 pr t1 t0 (fun l r c => c - l * r)
def execDiv (pr : BitVec 2) (t1 t0 : Target) (s : State) : Out := s.idiv pr t1 t0 divV
def execDivu (pr : BitVec 2) (t1 t0 : Target) (s : State) : Out := s.idiv pr t1 t0 divuV
def execRem (pr : BitVec 2) (t1 t0 : Target) (s : State) : Out := s.idiv pr t1 t0 remV
def execRemu (pr : BitVec 2) (t1 t0 : Target) (s : State) : Out := s.idiv pr t1 t0 remuV

/-! ### IUNA (R102) -/

def execNeg (pr : BitVec 2) (t1 t0 : Target) (s : State) : Out := s.alu1 pr t1 t0 (fun l => 0 - l)
def execNot (pr : BitVec 2) (t1 t0 : Target) (s : State) : Out := s.alu1 pr t1 t0 (fun l => ~~~l)
def execAbs (pr : BitVec 2) (t1 t0 : Target) (s : State) : Out := s.alu1 pr t1 t0 (fun l => if l.slt 0 then 0 - l else l)
def execClz (pr : BitVec 2) (t1 t0 : Target) (s : State) : Out := s.alu1 pr t1 t0 (fun l => word (clz 32 l.toNat))
def execCtz (pr : BitVec 2) (t1 t0 : Target) (s : State) : Out := s.alu1 pr t1 t0 (fun l => word (ctz 32 l.toNat))
def execPopc (pr : BitVec 2) (t1 t0 : Target) (s : State) : Out := s.alu1 pr t1 t0 (fun l => word (popc 32 l.toNat))
def execBrev (pr : BitVec 2) (t1 t0 : Target) (s : State) : Out := s.alu1 pr t1 t0 (fun l => word (brev 32 l.toNat))
def execBswap (pr : BitVec 2) (t1 t0 : Target) (s : State) : Out := s.alu1 pr t1 t0 bswapV
def execSextb (pr : BitVec 2) (t1 t0 : Target) (s : State) : Out := s.alu1 pr t1 t0 (fun l => (l.extractLsb' 0 8).signExtend 32)
def execSexth (pr : BitVec 2) (t1 t0 : Target) (s : State) : Out := s.alu1 pr t1 t0 (fun l => (l.extractLsb' 0 16).signExtend 32)
def execZextb (pr : BitVec 2) (t1 t0 : Target) (s : State) : Out := s.alu1 pr t1 t0 (fun l => (l.extractLsb' 0 8).setWidth 32)
def execZexth (pr : BitVec 2) (t1 t0 : Target) (s : State) : Out := s.alu1 pr t1 t0 (fun l => (l.extractLsb' 0 16).setWidth 32)

/-! ### Fields and immediates (R103, R104) -/

def execExtr (pr : BitVec 2) (sgn : BitVec 1) (len lsb : BitVec 5) (t0 : Target) (s : State) : Out :=
  s.alu1 pr .none t0 (extrV sgn len lsb)
def execIns (pr : BitVec 2) (_sgn : BitVec 1) (len lsb : BitVec 5) (t0 : Target) (s : State) : Out :=
  s.alu2 pr .none t0 (insV len lsb)
def execAddi (pr : BitVec 2) (imm : BitVec 14) (t0 : Target) (s : State) : Out := s.alu1 pr .none t0 (· + imm32 imm)
def execAndi (pr : BitVec 2) (imm : BitVec 14) (t0 : Target) (s : State) : Out := s.alu1 pr .none t0 (· &&& imm32 imm)
def execOri (pr : BitVec 2) (imm : BitVec 14) (t0 : Target) (s : State) : Out := s.alu1 pr .none t0 (· ||| imm32 imm)
def execXori (pr : BitVec 2) (imm : BitVec 14) (t0 : Target) (s : State) : Out := s.alu1 pr .none t0 (· ^^^ imm32 imm)
def execShli (pr : BitVec 2) (sh : BitVec 5) (t0 : Target) (s : State) : Out := s.alu1 pr .none t0 (· <<< sh.toNat)
def execShri (pr : BitVec 2) (sh : BitVec 5) (t0 : Target) (s : State) : Out := s.alu1 pr .none t0 (· >>> sh.toNat)
def execSari (pr : BitVec 2) (sh : BitVec 5) (t0 : Target) (s : State) : Out := s.alu1 pr .none t0 (fun l => l.sshiftRight sh.toNat)
/-- MULI has IMUL's latency (R92). -/
def execMuli (pr : BitVec 2) (imm : BitVec 14) (t0 : Target) (s : State) : Out :=
  s.mul3 pr .none t0 (fun l _ _ => l * imm32 imm)

/-! ### Tests (R105, R106) -/

def execTeq (pr : BitVec 2) (t1 t0 : Target) (s : State) : Out := s.test2 pr t1 t0 (· == ·)
def execTne (pr : BitVec 2) (t1 t0 : Target) (s : State) : Out := s.test2 pr t1 t0 (· != ·)
def execTlt (pr : BitVec 2) (t1 t0 : Target) (s : State) : Out := s.test2 pr t1 t0 BitVec.slt
def execTle (pr : BitVec 2) (t1 t0 : Target) (s : State) : Out := s.test2 pr t1 t0 BitVec.sle
def execTltu (pr : BitVec 2) (t1 t0 : Target) (s : State) : Out := s.test2 pr t1 t0 BitVec.ult
def execTleu (pr : BitVec 2) (t1 t0 : Target) (s : State) : Out := s.test2 pr t1 t0 BitVec.ule
def execTgt (pr : BitVec 2) (t1 t0 : Target) (s : State) : Out := s.test2 pr t1 t0 (fun l r => r.slt l)
def execTge (pr : BitVec 2) (t1 t0 : Target) (s : State) : Out := s.test2 pr t1 t0 (fun l r => r.sle l)
def execTgtu (pr : BitVec 2) (t1 t0 : Target) (s : State) : Out := s.test2 pr t1 t0 (fun l r => r.ult l)
def execTgeu (pr : BitVec 2) (t1 t0 : Target) (s : State) : Out := s.test2 pr t1 t0 (fun l r => r.ule l)
def execTbit (pr : BitVec 2) (t1 t0 : Target) (s : State) : Out := s.test2 pr t1 t0 tbitV
def execTeqi (pr : BitVec 2) (imm : BitVec 14) (t0 : Target) (s : State) : Out := s.test2 pr .none t0 (fun l _ => l == imm32 imm)
def execTnei (pr : BitVec 2) (imm : BitVec 14) (t0 : Target) (s : State) : Out := s.test2 pr .none t0 (fun l _ => l != imm32 imm)
def execTlti (pr : BitVec 2) (imm : BitVec 14) (t0 : Target) (s : State) : Out := s.test2 pr .none t0 (fun l _ => l.slt (imm32 imm))
def execTgei (pr : BitVec 2) (imm : BitVec 14) (t0 : Target) (s : State) : Out := s.test2 pr .none t0 (fun l _ => (imm32 imm).sle l)
def execTltui (pr : BitVec 2) (imm : BitVec 14) (t0 : Target) (s : State) : Out := s.test2 pr .none t0 (fun l _ => l.ult (imm32 imm))
def execTgeui (pr : BitVec 2) (imm : BitVec 14) (t0 : Target) (s : State) : Out := s.test2 pr .none t0 (fun l _ => (imm32 imm).ule l)

end Sys2Proof.Machine
end

