-- ==== Sys2Proof/Machine/Topk.lean ====
section
/-! DEFINITION. Sys2Proof/Machine/Topk.lean: TOPK (R311, R312): a tile's list of the best pairs, and its emission. -/

namespace Sys2Proof.Machine

/-- The rank of an FP32 score: a higher one stands first, −0 and +0 are equal, and a NaN stands below −∞. -/
def scoreKey (v : Word) : Int :=
  let m : Nat := v.toNat % 2 ^ 31
  if 0x7F800000 < m then -(2 ^ 31 : Int) else if v.toNat < 2 ^ 31 then (m : Int) else -(m : Int)

/-- Does a pair, as score and index, rank above one that arrived earlier? -/
def ranksAbove (a b : Token × Token) : Bool :=
  decide (scoreKey b.1.val < scoreKey a.1.val)
    || (scoreKey a.1.val == scoreKey b.1.val && decide (a.2.val.toNat < b.2.val.toNat))

/-- A list with a pair in its place. -/
def rankIn (a : Token × Token) : List (Token × Token) → List (Token × Token)
  | [] => [a]
  | b :: bs => if ranksAbove a b then a :: b :: bs else b :: rankIn a bs

/-- The list of a TOPK tile, or an empty one for a fibre. -/
def Page.topkOf (y : Page) (tile : Nat) (fibre : Tag) : TopkList :=
  (y.topk.find? (fun k => k.tile == tile)).getD { tile := tile, fibre := fibre }

/-- Setting the list of a tile. -/
def Page.setTopk (y : Page) (k : TopkList) : Page := { y with topk := y.topk.filter (fun j => j.tile != k.tile) ++ [k] }

/-- TOPK (R311): a pair joins its list, a closing L ends the fibre, and a pair with another null operand is ranked nowhere. -/
def execTopk (pr : BitVec 2) (k : BitVec 5) (t1 t0 : Target) (s : State) : Out :=
  let c := s.cur
  let y := s.page c.p c.pg
  let list := y.topkOf c.tile (fibreOf c.tag)
  let run (s : State) : State :=
    let l := c.l.getD {}
    let r := c.r.getD {}
    if isNull c.pt then s.silent
    else if l.null && l.eof then
      let s := s.modPage c.p c.pg (fun y => y.setTopk { list with busy := s.now + 3 + list.pairs.length })
      let s := s.modFire c.p c.pg c.fid (fun f => { f with leaves := s.now + 3 + list.pairs.length, phase := .run })
      s.sched (s.now + 2) (srcOf c.pg c.tile) .topkEmit { p := c.p, pg := c.pg, id := c.id, x := c.tile, fid := c.fid, tag := c.tag }
    else if l.null || r.null then s.silent
    else (s.modPage c.p c.pg (fun y => y.setTopk { list with fibre := fibreOf c.tag, pairs := (rankIn (l, r) list.pairs).take (k.toNat + 1) })).silent
  .next (match if isNull c.pt then Verdict.run else predOf pr c.pt with
    | .run => run s
    | .silent => s.silent
    | .nulls o => s.emit 1 t0 t1 (nullOf o) (nullOf o))

/-- TOPK_EMIT (R36, R311): entry z of a list leaves, its index to T0 and its score to T1; after the last, a closing token to each
target, and the list empties. -/
def execTopkEmit (s : State) : Out :=
  let p := s.arg.p
  let pg := s.arg.pg
  let y := s.page p pg
  let list := y.topkOf s.arg.x (fibreOf s.arg.tag)
  .next (match y.fire? s.arg.fid with
    | none => s.modPage p pg (fun y => { y with topk := y.topk.map (fun k => if k.tile == s.arg.x then { k with busy := 0 } else k) })
    | some f =>
      let c := curOf p pg f
      let t := targetsOf f.word
      let s := s.modFire p pg f.fid (fun f => { f with acted := true })
      match list.pairs[s.arg.z]? with
      | some (score, index) =>
        let o := (origOf (some score)).orElse fun _ => origOf (some index)
        let s := (s.send c s.now t.1 (withPoison (tokV index.val) o)).send c s.now t.2 (withPoison (tokV score.val) o)
        s.sched (s.now + 1) (srcOf pg f.tile) .topkEmit { s.arg with z := s.arg.z + 1 }
      | none =>
        let m := closing (word list.pairs.length)
        let s := (s.send c s.now t.1 m).send c s.now t.2 m
        let s := s.modPage p pg (fun y => { y with topk := y.topk.filter (fun k => k.tile != f.tile) })
        let s := s.modFire p pg f.fid (fun f => { f with leaves := s.now, phase := .done })
        (s.schedFire (s.now + 1) p pg f.tile).checkDone p pg f.tag)

end Sys2Proof.Machine
end

