-- ==== Sys2Proof/Machine/Trap.lean ====
section
/-! DEFINITION. Sys2Proof/Machine/Trap.lean: trap frames and handlers (R333 to R339), the system instructions TRAP, RFT, BKPT, TSC,
TRACE, EVT and EST (R340, R345, R346, R349 to R352), kills (R357), and the debug port's read-outs (R415 to R418). -/

namespace Sys2Proof.Machine

/-! ### Frames (R333, R334) -/

/-- The 64-byte header of a frame. -/
def TrapRec.header (t : TrapRec) (i : Inst) (e held off : Nat) : List Byte :=
  leBytes 1 t.code ++ leBytes 1 (b2n (decide (0 < held))) ++ leBytes 2 t.src ++ leBytes 2 i.id ++ leBytes 1 i.gen ++ leBytes 1 t.strand
    ++ leBytes 8 t.ts ++ leBytes 8 t.tag.toNat ++ leBytes 8 t.va ++ leBytes 4 t.detail.toNat ++ leBytes 2 t.gen ++ leBytes 2 0
    ++ leBytes 4 e ++ leBytes 4 held ++ leBytes 4 off ++ leBytes 4 ((opF t.word).toNat + xOf t.word * 128) ++ leBytes 8 t.blk

/-- The request for the default handler with a descriptor, or a double fault where there is none (R338, R339). -/
def State.requestHandler (s : State) (p : Nat) (i : Inst) (t : TrapRec) (h : Option (Except LoadFault Desc)) : State :=
  match h with
  | none => s.doubleFault p i.id t.code
  | some (.error _) => s.doubleFault p i.id t.code
  | some (.ok d) =>
    let arg (v : Nat) : Reg := { val := word v }
    s.request p { kind := .handler i.id, desc := d, args := [arg t.code, arg (i.id + i.gen * 65536), arg t.detail.toNat]
                  wins := s.winsFor p i .trap, pg := i.pageOf t.strand, since := s.now }

/-- The request for the default handler of a trapped instance (R338). -/
def State.defaultRequest (s : State) (p : Nat) (i : Inst) (t : TrapRec) : State := s.requestHandler p i t (s.defaultHandler p)

/-- What handles a trap whose frame has been written (R337 to R339). -/
def State.handle (s : State) (p id written : Nat) : State :=
  let i := s.inst p id
  match i.trapRec with
  | none => s
  | some t =>
    let pg := i.pageOf t.strand
    if i.handler != 0 && (s.page p pg).liveCtx < 4 then
      (s.modPage p pg (fun y => { y with ctxs := y.ctxs.drop 1 })).sched (s.now + 56 + 4 * written) (srcOf pg 0) .trapHandlerStart { p := p, pg := pg, id := id, x := t.strand }
    else if i.handler == 0 && i.descVa == (s.part p).base64 0x094 6 then s.doubleFault p id t.code
    else s.defaultRequest p i t

/-- TRAP_FRAME_WRITE (R333 to R336): the frame takes the lowest free area, or the trap waits for one. -/
def execTrapFrameWrite (s : State) : Out :=
  let p := s.arg.p
  let id := s.arg.id
  let i := s.inst p id
  let x := s.part p
  .next (match i.trapRec with
    | none => s
    | some t =>
      if i.status != .frozen || t.double || t.area.isSome then s
      else
        match lowestFree (x.areas.map Prod.fst) (bits (x.csrN 0x092) 27 16) 0 with
        | none =>
          if t.waited then s
          else (s.modInst p id (fun i => { i with trapRec := some { t with waited := true } })).bumpCsr p 0x093 27 12
        | some k =>
          let off := if t.cycle.isEmpty then 64 else 144
          let es := i.replay
          let w := es.take ((x.areaSize - off) / 16)
          let rest := es.drop w.length
          let bs := t.header i w.length rest.length off ++ t.cycle.flatMap (fun w => leBytes 4 w.toNat) ++ w.flatMap Replay.bytes
          let bs := bs.take (off + 16 * w.length)
          match s.writePinned p 4 (x.areaVa k) bs with
          | .error _ => s.doubleFault p id t.code
          | .ok s =>
            let s := s.modPart p (fun x => { x with areas := x.areas ++ [(k, id)] })
            let s := s.setCsrF p 0x093 11 0 (s.part p).areas.length
            let s := s.modInst p id (fun i => { i with replay := [], trapRec := some { t with area := some k, written := w.length, place := rest } })
            s.handle p id w.length)

/-- TRAP_HANDLER_START (R337): the handler block is configured and fires as an activation of priority 15, its window w7 the area. -/
def execTrapHandlerStart (s : State) : Out :=
  let a := s.arg
  let p := a.p
  let i := s.inst p a.id
  .next (if i.status != .frozen then s
    else
      let tag := tagTrap i.id i.gen
      let n : NextBlk := { tag := tag, id := i.id, strand := a.x, role := .trap, prio := 15, blk := i.handler, fromBlk := i.handler, entry := true, ready := s.now }
      (s.modPage p a.pg (fun y => { y with nexts := y.nexts ++ [n] })).sched s.now (srcOf a.pg 0) .blockFetch { p := p, pg := a.pg, id := i.id, tag := tag })

/-- INSTANCE_KILL (R340, R357). -/
def execInstanceKill (s : State) : Out :=
  let a := s.arg
  .next (if (s.inst a.p a.id).gen = a.x then s.kill a.p a.id else s)

/-! ### System instructions -/

/-- TRAP (R345): the user trap 0x20 + X with detail L; its firing is finished. -/
def execTrap (pr : BitVec 2) (n : BitVec 5) (s : State) : Out :=
  .next (s.bareFrame pr fun s => s.silent.trap (0x20 + n.toNat) s.lv.toNat 0)

/-- RFT (R340): what it asks for acts after its block's commit; a null L asks for nothing. -/
def execRft (pr : BitVec 2) (s : State) : Out :=
  .next (match s.cur.verdict pr with
    | .run => s.silent.settle.modAct s.cur.p s.cur.pg s.cur.tag (fun a => { a with rfts := a.rfts ++ [(s.cur.tile, s.lv)] })
    | _ => s.silent.settle)

/-- BKPT (R346): L, unchanged, waits until the cluster or the instance goes on. -/
def execBkpt (pr : BitVec 2) (t1 t0 : Target) (s : State) : Out :=
  .next (s.frame pr 1 t1 t0 fun s =>
    let c := s.cur
    let m := s.mark ⟨s.lv, 0⟩
    let s := (m.1.emit 1 t0 t1 m.2 m.2).modFire c.p c.pg c.fid (fun f => { f with acted := true })
    if bitAt ((s.part c.p).csrN 0x100) 0 then s.stopPages c.p ((s.part c.p).clusterOf c.pg) 1 0 (srcOf c.pg c.tile)
    else s.trap 0x10 0 0)

/-- TSC (R349): one sample of the timestamp, its low word to T0 and its high word to T1. -/
def execTsc (pr : BitVec 2) (t1 t0 : Target) (s : State) : Out :=
  .next (s.two pr 2 t1 t0 ⟨word (s.ts % 2 ^ 32), 0⟩ ⟨word (s.ts / 2 ^ 32), 0⟩)

/-- TRACE (R350): a record of type X; L goes on. -/
def execTrace (pr : BitVec 2) (n : BitVec 5) (t1 t0 : Target) (s : State) : Out :=
  .next (s.frame pr 1 t1 t0 fun s =>
    let c := s.cur
    let s := s.traceRec c.p n.toNat (srcOf c.pg c.tile) s.curAct.gen c.tag s.lv 0
    let m := s.mark ⟨s.lv, 0⟩
    m.1.emit 1 t0 t1 m.2 m.2)

/-- EVT (R351): a release at system scope; its event arises when the release is complete (EVENT_RECORD_WRITE with z = 1). -/
def execEvt (pr : BitVec 2) (n : BitVec 5) (t1 t0 : Target) (s : State) : Out :=
  .next (s.frame pr 920 t1 t0 fun s =>
    let c := s.cur
    ((s.flush c.p c.id).modFire c.p c.pg c.fid (fun f => { f with phase := .out })).sched (s.now + 900) (srcOf c.pg c.tile)
      .eventRecordWrite { p := c.p, pg := c.pg, fid := c.fid, tag := c.tag, x := n.toNat, w0 := s.lv, z := 1 })

/-- EST (R352): the estimate becomes L. -/
def execEst (pr : BitVec 2) (t1 t0 : Target) (s : State) : Out :=
  .next (s.frame pr 2 t1 t0 fun s =>
    let v := s.lv.toNat
    let s := s.modInst s.cur.p s.cur.id (fun i => { i with est := v, estAt := s.now })
    let m := s.mark ⟨0, 0⟩
    m.1.emit 2 t0 t1 m.2 m.2)

/-! ### Events (R385, R386, R401) -/

/-- Writing the held events of a function that can take them now: records of another PGEN are discarded and counted. -/
def State.deliverEvents (s : State) (p : Nat) : Nat → State
  | 0 => s
  | n + 1 =>
    let x := s.part p
    let f := x.vf
    let vf (s : State) (g : Vf → Vf) : State := s.modPart p (fun x => { x with vf := g x.vf })
    match f.held with
    | [] => s
    | e :: rest =>
      if f.state != .running then s
      else if e.pgen ≠ x.pgen then
        (vf s (fun f => { f with held := rest, evdisc := min (f.evdisc + 1) 0xFFFFFFFF })).deliverEvents p n
      else if !f.en || (f.tail + 65536 - f.head) % 65536 ≥ 2 ^ f.log2 then s
      else
        let base := (f.evqbh.toNat * 2 ^ 32 + f.evqbl.toNat) / 64 * 64
        let at' := 2 ^ 45 + (base + 32 * (f.tail % 2 ^ f.log2)) % 2 ^ 45
        let pay := (e.pay.take 2).flatMap (fun v => leBytes (if e.pay.length = 1 then 16 else if e.pay.length = 2 then 8 else 4) v)
          ++ (e.pay.drop 2).flatMap (leBytes 4)
        let bs := leBytes 1 e.ty ++ leBytes 1 p ++ leBytes 2 e.pgen ++ leBytes 4 0 ++ leBytes 8 e.ts ++ (pay ++ List.replicate 16 0).take 16
        let s := s.memWrite at' bs
        (vf s (fun f => { f with held := rest, tail := (f.tail + 1) % 65536, msix := f.msix + b2n (!f.mask) })).deliverEvents p n

/-- EVENT_RECORD_WRITE (R351, R386, R401): events are written to the function's queue in their order of arising; z = 1, an EVT's
release is complete, and its event arises first. -/
def execEventRecordWrite (s : State) : Out :=
  let a := s.arg
  let p := a.p
  let s := if a.z = 1 then
      match (s.page p a.pg).fire? a.fid with
      | none => s
      | some f =>
        let x := s.part p
        let room := decide (x.vf.held.length < 256)
        let s := s.postVf p 0x01 [a.x, a.w0.toNat]
        let t := f.done (boolW room)
        (s.answer p a.pg a.fid (s.now + 20) t t).checkDone p a.pg f.tag
    else s
  .next (s.deliverEvents p 257)

/-! ### Histograms, trace and dumps (R415 to R418) -/

/-- The 48 bytes of a tile's record. -/
def Hist.bytes (h : Hist) : List Byte :=
  (List.range 8).flatMap (fun k => leBytes 4 ((h.buckets[k]?).getD 0)) ++ leBytes 4 h.spills ++ leBytes 4 h.returns ++ leBytes 4 h.readyWait ++ leBytes 4 h.stale

/-- The records of every tile of every mapped page, in order. -/
def Part.histBytes (x : Part) : List Byte :=
  (sortKey Page.num x.pages).flatMap (fun y => (List.range 64).flatMap (fun k => ((y.hist.find? (fun h => h.tile == k)).getD (Hist.blank k)).bytes))

/-- HISTOGRAM_READOUT (R415). -/
def execHistogramReadout (s : State) : Out :=
  let p := s.arg.p
  let x := s.part p
  let bs := x.histBytes
  let s := s.setCsrF p 0x12A 31 31 0
  .next (match s.writePinned p (bs.length / 65536 + 2) (x.base64 0x128 6) bs with
    | .error va => s.postVf p 0x07 [va]
    | .ok s => if bitAt (x.csrN 0x12A) 1 then s.modPart p (fun x => { x with pages := x.pages.map (fun y => { y with hist := [] }) }) else s)

/-- TRACE_SAMPLE (R416): the last firing of the die's next tile in round robin makes a record. -/
def execTraceSample (s : State) : Out :=
  let p := s.arg.p
  let die := s.arg.x
  let x := s.part p
  let n := bits (x.csrN 0x100) 15 8
  let pgs := ((sortKey Page.num x.pages).filter (fun y => y.num / 256 == die)).map Page.num
  .next (if n = 0 || pgs.isEmpty then s
    else if x.traceStalls then s.modPart p (fun x => { x with stalled := x.stalled ++ [(.traceSample, s.arg)] })
    else
      let k := (kget x.sampleAt die).getD 0 % (64 * pgs.length)
      let pg := (pgs[k / 64]?).getD 0
      let s := s.modPart p (fun x => { x with sampleAt := kset x.sampleAt die (k + 1) })
      let s := match (x.page pg).last.find? (fun l => l.tile == k % 64) with
        | some l => s.traceRec p 35 (srcOf pg (k % 64)) l.gen l.tag (word ((opF l.word).toNat + xOf l.word * 128)) 0
        | none => s
      s.sched (s.now + n * 1024) (die * 16384) .traceSample s.arg)

/-- Writing a die's closed frames while the sink has room; with TRDROP, frames for which it has none are discarded. -/
def State.writeFrames (s : State) (p die : Nat) : Nat → State
  | 0 => s
  | n + 1 =>
    let x := s.part p
    let setLog (s : State) (f : TraceLog → TraceLog) : State :=
      s.modPart p (fun x => { x with trace := x.trace.map (fun l => if l.die == die then f l else l) })
    match x.trace.find? (fun l => l.die == die) with
    | none => s
    | some l =>
      match l.closed with
      | [] => s
      | rs :: rest =>
        let size := x.csrN 0x132
        let drop (s : State) : State :=
          ((setLog s (fun l => { l with closed := rest, drops := l.drops + 1 })).bumpCsr p 0x135 31 0).writeFrames p die n
        if size = 0 then drop s
        else if x.sinkFull then (if bitAt (x.csrN 0x100) 2 then drop s else s)
        else
          let va := x.base64 0x130 12 + 4096 * (x.csrN 0x134 % size)
          match s.writePinned p 2 va (frameBytes die l.seq l.drops rs) with
          | .error _ => drop s
          | .ok s =>
            let s := setLog s (fun l => { l with closed := rest, drops := 0, seq := l.seq + 1 })
            (s.setCsr p 0x134 ((x.csrN 0x134 + 1) % 65536)).writeFrames p die n

/-- LOGLINE_FRAME_WRITE (R417): at the end of an fclk its records are packed, and closed frames are written. -/
def execLoglineFrameWrite (s : State) : Out :=
  .next ((s.modPart s.arg.p (fun x => { x with trace := x.trace.map (fun l => if l.die == s.arg.x then l.settle else l) })).writeFrames
    s.arg.p s.arg.x 64)

/-- A tile's 64 matching-store entries of 48 bytes (R418), in the order way + 4 · set. -/
def Page.storeBytes (y : Page) (tile : Nat) : List Byte :=
  (List.range 64).flatMap (fun k =>
    match y.ents.find? (fun e => e.tile == tile && e.way == k % 4 && setOf e.tag == k / 4) with
    | none => List.replicate 48 0
    | some e =>
      let one (q : Pos) : List Byte := match e.at q with
        | some a => leBytes 4 a.tok.val.toNat ++ leBytes 2 (tokFlags a.tok) ++ leBytes 2 (encTarget (.queue q (BitVec.ofNat 6 tile))).toNat
        | none => leBytes 8 0
      leBytes 8 e.tag.toNat ++ leBytes 8 (b2n e.l.isSome + 2 * b2n e.r.isSome + 4 * b2n e.p.isSome + 8 * b2n e.c.isSome)
        ++ one .l ++ one .r ++ one .p ++ one .c)

/-- The bytes of a frozen instance's trap area. -/
def State.areaBytes (s : State) (p k : Nat) : List Byte :=
  let x := s.part p
  (List.range (x.areaSize / 4096)).flatMap (fun j => leBytes 4096 ((s.devRead p (x.areaVa k + 4096 * j) 4096).getD 0))

/-- The four sections of a dump in their order (R418). -/
def State.dumpSections (s : State) (p : Nat) : List (List Byte) :=
  let x := s.part p
  let byId := sortKey Inst.id (x.insts.filter (fun i => i.status != .ended))
  [ byId.flatMap (fun i => match i.trapRec.bind TrapRec.area with
      | some k => s.areaBytes p k
      | none => []),
    (sortKey Page.num x.pages).flatMap (fun y => (List.range 64).flatMap y.storeBytes),
    byId.flatMap (fun i => s.recordHead p i (b2n i.trapRec.isSome * 4) 0 0),
    x.histBytes ]

/-- The header of a dump (R418): `secs` gives each section's type, whether it is omitted, its offset and its length. -/
def dumpHeader (flags need reached ts : Nat) (secs : List (Nat × Bool × Nat × Nat)) : List Byte :=
  leBytes 4 0x504D4453 ++ leBytes 2 1 ++ leBytes 2 flags ++ leBytes 8 need ++ leBytes 8 reached ++ leBytes 8 ts ++ leBytes 32 0
    ++ secs.flatMap (fun z => leBytes 2 z.1 ++ leBytes 2 (b2n z.2.1) ++ leBytes 4 0 ++ leBytes 4 z.2.2.1 ++ leBytes 4 z.2.2.2)

/-- Where the sections go: each whole where it fits in the room left. -/
def dumpPlan (room : Nat) : Nat → Nat → List (List Byte) → List (Nat × Bool × Nat × Nat)
  | _, _, [] => []
  | ty, at', b :: bs =>
    if at' + b.length ≤ room then (ty, false, at', b.length) :: dumpPlan room (ty + 1) (at' + b.length) bs
    else (ty, true, 0, b.length) :: dumpPlan room (ty + 1) at' bs

/-- Writing the planned sections; the offset reached, and whether a fault stopped it. -/
def State.dumpWrite (s : State) (p base : Nat) : Nat → List ((Nat × Bool × Nat × Nat) × List Byte) → State × Nat × Bool
  | reached, [] => (s, reached, false)
  | reached, (z, b) :: rest =>
    if z.2.1 then s.dumpWrite p base reached rest
    else
      match s.writePinned p (b.length / 65536 + 2) (base + z.2.2.1) b with
      | .error va => (s, va - base, true)
      | .ok s => s.dumpWrite p base (z.2.2.1 + b.length) rest

/-- CORE_DUMP (R418). -/
def execCoreDump (s : State) : Out :=
  let p := s.arg.p
  let s := if (s.part p).frozen then s else s.haltAll p 4
  let x := s.part p
  let base := x.base64 0x140 12
  let room := bits (x.csrN 0x142) 23 0 * 4096
  let secs := s.dumpSections p
  let need := 128 + secs.foldl (fun n b => n + b.length) 0
  let plan := dumpPlan room 1 128 secs
  let cut := plan.any (fun z => z.2.1)
  let fl := b2n cut
  let finish (s : State) (st : Nat) : State := (s.setCsrF p 0x143 3 1 st).setCsrF p 0x143 31 31 0
  .next (if room < 128 then finish s 4
    else
      match s.writePinned p 2 base (dumpHeader fl need 128 s.ts plan) with
      | .error _ => finish s 4
      | .ok t =>
        let r := t.dumpWrite p base 128 (plan.zip secs)
        let fl := fl + 2 * b2n r.2.2
        match r.1.writePinned p 2 base (dumpHeader fl need r.2.1 s.ts plan) with
        | .error _ => finish r.1 4
        | .ok t => finish t (if r.2.2 then 3 else if cut then 2 else 1))

end Sys2Proof.Machine
end

