-- ==== Sys2Proof/Machine/Dispatch.lean ====
section
/-! DEFINITION. Sys2Proof/Machine/Dispatch.lean: what each instruction does, one arm per constructor. -/

namespace Sys2Proof.Machine

def exec (i : Instr) (s : State) : Host.Outcome State Fault Refusal :=
  match i with
  | .read g t1 t0 => Sys2Proof.Machine.execRead g t1 t0 s
  | .mov pr t1 t0 => Sys2Proof.Machine.execMov pr t1 t0 s
  | .null pr t1 t0 => Sys2Proof.Machine.execNull pr t1 t0 s
  | .bfly pr t1 t0 => Sys2Proof.Machine.execBfly pr t1 t0 s
  | .fbfly pr t1 t0 => Sys2Proof.Machine.execFbfly pr t1 t0 s
  | .genc imm t0 => Sys2Proof.Machine.execGenc imm t0 s
  | .gens imm t0 => Sys2Proof.Machine.execGens imm t0 s
  | .genh imm t0 => Sys2Proof.Machine.execGenh imm t0 s
  | .steer pr t1 t0 => Sys2Proof.Machine.execSteer pr t1 t0 s
  | .steerf pr t1 t0 => Sys2Proof.Machine.execSteerf pr t1 t0 s
  | .merge pr t1 t0 => Sys2Proof.Machine.execMerge pr t1 t0 s
  | .sel pr t1 t0 => Sys2Proof.Machine.execSel pr t1 t0 s
  | .loop pr off => Sys2Proof.Machine.execLoop pr off s
  | .br pr exit off => Sys2Proof.Machine.execBr pr exit off s
  | .brr pr exit => Sys2Proof.Machine.execBrr pr exit s
  | .call pr fn t1 t0 => Sys2Proof.Machine.execCall pr fn t1 t0 s
  | .callr pr t1 t0 => Sys2Proof.Machine.execCallr pr t1 t0 s
  | .ret pr => Sys2Proof.Machine.execRet pr s
  | .add pr t1 t0 => Sys2Proof.Machine.execAdd pr t1 t0 s
  | .sub pr t1 t0 => Sys2Proof.Machine.execSub pr t1 t0 s
  | .and pr t1 t0 => Sys2Proof.Machine.execAnd pr t1 t0 s
  | .or pr t1 t0 => Sys2Proof.Machine.execOr pr t1 t0 s
  | .xor pr t1 t0 => Sys2Proof.Machine.execXor pr t1 t0 s
  | .andn pr t1 t0 => Sys2Proof.Machine.execAndn pr t1 t0 s
  | .orn pr t1 t0 => Sys2Proof.Machine.execOrn pr t1 t0 s
  | .xnor pr t1 t0 => Sys2Proof.Machine.execXnor pr t1 t0 s
  | .shl pr t1 t0 => Sys2Proof.Machine.execShl pr t1 t0 s
  | .shr pr t1 t0 => Sys2Proof.Machine.execShr pr t1 t0 s
  | .sar pr t1 t0 => Sys2Proof.Machine.execSar pr t1 t0 s
  | .rol pr t1 t0 => Sys2Proof.Machine.execRol pr t1 t0 s
  | .ror pr t1 t0 => Sys2Proof.Machine.execRor pr t1 t0 s
  | .min pr t1 t0 => Sys2Proof.Machine.execMin pr t1 t0 s
  | .max pr t1 t0 => Sys2Proof.Machine.execMax pr t1 t0 s
  | .minu pr t1 t0 => Sys2Proof.Machine.execMinu pr t1 t0 s
  | .maxu pr t1 t0 => Sys2Proof.Machine.execMaxu pr t1 t0 s
  | .addc pr t1 t0 => Sys2Proof.Machine.execAddc pr t1 t0 s
  | .subb pr t1 t0 => Sys2Proof.Machine.execSubb pr t1 t0 s
  | .absd pr t1 t0 => Sys2Proof.Machine.execAbsd pr t1 t0 s
  | .mul pr t1 t0 => Sys2Proof.Machine.execMul pr t1 t0 s
  | .mulh pr t1 t0 => Sys2Proof.Machine.execMulh pr t1 t0 s
  | .mulhu pr t1 t0 => Sys2Proof.Machine.execMulhu pr t1 t0 s
  | .mulhsu pr t1 t0 => Sys2Proof.Machine.execMulhsu pr t1 t0 s
  | .madd pr t1 t0 => Sys2Proof.Machine.execMadd pr t1 t0 s
  | .msub pr t1 t0 => Sys2Proof.Machine.execMsub pr t1 t0 s
  | .div pr t1 t0 => Sys2Proof.Machine.execDiv pr t1 t0 s
  | .divu pr t1 t0 => Sys2Proof.Machine.execDivu pr t1 t0 s
  | .rem pr t1 t0 => Sys2Proof.Machine.execRem pr t1 t0 s
  | .remu pr t1 t0 => Sys2Proof.Machine.execRemu pr t1 t0 s
  | .neg pr t1 t0 => Sys2Proof.Machine.execNeg pr t1 t0 s
  | .not pr t1 t0 => Sys2Proof.Machine.execNot pr t1 t0 s
  | .abs pr t1 t0 => Sys2Proof.Machine.execAbs pr t1 t0 s
  | .clz pr t1 t0 => Sys2Proof.Machine.execClz pr t1 t0 s
  | .ctz pr t1 t0 => Sys2Proof.Machine.execCtz pr t1 t0 s
  | .popc pr t1 t0 => Sys2Proof.Machine.execPopc pr t1 t0 s
  | .brev pr t1 t0 => Sys2Proof.Machine.execBrev pr t1 t0 s
  | .bswap pr t1 t0 => Sys2Proof.Machine.execBswap pr t1 t0 s
  | .sextb pr t1 t0 => Sys2Proof.Machine.execSextb pr t1 t0 s
  | .sexth pr t1 t0 => Sys2Proof.Machine.execSexth pr t1 t0 s
  | .zextb pr t1 t0 => Sys2Proof.Machine.execZextb pr t1 t0 s
  | .zexth pr t1 t0 => Sys2Proof.Machine.execZexth pr t1 t0 s
  | .extr pr sgn len lsb t0 => Sys2Proof.Machine.execExtr pr sgn len lsb t0 s
  | .ins pr sgn len lsb t0 => Sys2Proof.Machine.execIns pr sgn len lsb t0 s
  | .addi pr imm t0 => Sys2Proof.Machine.execAddi pr imm t0 s
  | .andi pr imm t0 => Sys2Proof.Machine.execAndi pr imm t0 s
  | .ori pr imm t0 => Sys2Proof.Machine.execOri pr imm t0 s
  | .xori pr imm t0 => Sys2Proof.Machine.execXori pr imm t0 s
  | .shli pr sh t0 => Sys2Proof.Machine.execShli pr sh t0 s
  | .shri pr sh t0 => Sys2Proof.Machine.execShri pr sh t0 s
  | .sari pr sh t0 => Sys2Proof.Machine.execSari pr sh t0 s
  | .muli pr imm t0 => Sys2Proof.Machine.execMuli pr imm t0 s
  | .teq pr t1 t0 => Sys2Proof.Machine.execTeq pr t1 t0 s
  | .tne pr t1 t0 => Sys2Proof.Machine.execTne pr t1 t0 s
  | .tlt pr t1 t0 => Sys2Proof.Machine.execTlt pr t1 t0 s
  | .tle pr t1 t0 => Sys2Proof.Machine.execTle pr t1 t0 s
  | .tltu pr t1 t0 => Sys2Proof.Machine.execTltu pr t1 t0 s
  | .tleu pr t1 t0 => Sys2Proof.Machine.execTleu pr t1 t0 s
  | .tgt pr t1 t0 => Sys2Proof.Machine.execTgt pr t1 t0 s
  | .tge pr t1 t0 => Sys2Proof.Machine.execTge pr t1 t0 s
  | .tgtu pr t1 t0 => Sys2Proof.Machine.execTgtu pr t1 t0 s
  | .tgeu pr t1 t0 => Sys2Proof.Machine.execTgeu pr t1 t0 s
  | .tbit pr t1 t0 => Sys2Proof.Machine.execTbit pr t1 t0 s
  | .teqi pr imm t0 => Sys2Proof.Machine.execTeqi pr imm t0 s
  | .tnei pr imm t0 => Sys2Proof.Machine.execTnei pr imm t0 s
  | .tlti pr imm t0 => Sys2Proof.Machine.execTlti pr imm t0 s
  | .tgei pr imm t0 => Sys2Proof.Machine.execTgei pr imm t0 s
  | .tltui pr imm t0 => Sys2Proof.Machine.execTltui pr imm t0 s
  | .tgeui pr imm t0 => Sys2Proof.Machine.execTgeui pr imm t0 s
  | .fadd pr t1 t0 => Sys2Proof.Machine.execFadd pr t1 t0 s
  | .fsub pr t1 t0 => Sys2Proof.Machine.execFsub pr t1 t0 s
  | .fmul pr t1 t0 => Sys2Proof.Machine.execFmul pr t1 t0 s
  | .fmin pr t1 t0 => Sys2Proof.Machine.execFmin pr t1 t0 s
  | .fmax pr t1 t0 => Sys2Proof.Machine.execFmax pr t1 t0 s
  | .fabs pr t1 t0 => Sys2Proof.Machine.execFabs pr t1 t0 s
  | .fneg pr t1 t0 => Sys2Proof.Machine.execFneg pr t1 t0 s
  | .fcopys pr t1 t0 => Sys2Proof.Machine.execFcopys pr t1 t0 s
  | .fma pr t1 t0 => Sys2Proof.Machine.execFma pr t1 t0 s
  | .fms pr t1 t0 => Sys2Proof.Machine.execFms pr t1 t0 s
  | .fnma pr t1 t0 => Sys2Proof.Machine.execFnma pr t1 t0 s
  | .fnms pr t1 t0 => Sys2Proof.Machine.execFnms pr t1 t0 s
  | .fdiv pr t1 t0 => Sys2Proof.Machine.execFdiv pr t1 t0 s
  | .fsqrt pr t1 t0 => Sys2Proof.Machine.execFsqrt pr t1 t0 s
  | .frcpe pr t1 t0 => Sys2Proof.Machine.execFrcpe pr t1 t0 s
  | .frsqe pr t1 t0 => Sys2Proof.Machine.execFrsqe pr t1 t0 s
  | .fteq pr t1 t0 => Sys2Proof.Machine.execFteq pr t1 t0 s
  | .ftlt pr t1 t0 => Sys2Proof.Machine.execFtlt pr t1 t0 s
  | .ftle pr t1 t0 => Sys2Proof.Machine.execFtle pr t1 t0 s
  | .ftun pr t1 t0 => Sys2Proof.Machine.execFtun pr t1 t0 s
  | .fclass pr t1 t0 => Sys2Proof.Machine.execFclass pr t1 t0 s
  | .fcvt pr code t1 t0 => Sys2Proof.Machine.execFcvt pr code t1 t0 s
  | .fcvts pr code t1 t0 => Sys2Proof.Machine.execFcvts pr code t1 t0 s
  | .paddH pr t1 t0 => Sys2Proof.Machine.execPaddH pr t1 t0 s
  | .psubH pr t1 t0 => Sys2Proof.Machine.execPsubH pr t1 t0 s
  | .paddB pr t1 t0 => Sys2Proof.Machine.execPaddB pr t1 t0 s
  | .psubB pr t1 t0 => Sys2Proof.Machine.execPsubB pr t1 t0 s
  | .pmaxH pr t1 t0 => Sys2Proof.Machine.execPmaxH pr t1 t0 s
  | .pminH pr t1 t0 => Sys2Proof.Machine.execPminH pr t1 t0 s
  | .pdot4 pr t1 t0 => Sys2Proof.Machine.execPdot4 pr t1 t0 s
  | .pdot4u pr t1 t0 => Sys2Proof.Machine.execPdot4u pr t1 t0 s
  | .pdot2H pr t1 t0 => Sys2Proof.Machine.execPdot2H pr t1 t0 s
  | .packH pr t1 t0 => Sys2Proof.Machine.execPackH pr t1 t0 s
  | .packB pr t1 t0 => Sys2Proof.Machine.execPackB pr t1 t0 s
  | .tunpk pr t1 t0 => Sys2Proof.Machine.execTunpk pr t1 t0 s
  | .tdot4 pr group t1 t0 => Sys2Proof.Machine.execTdot4 pr group t1 t0 s
  | .lcdec pr t1 t0 => Sys2Proof.Machine.execLcdec pr t1 t0 s
  | .qnt pr code t1 t0 => Sys2Proof.Machine.execQnt pr code t1 t0 s
  | .ldw pr lsid w off t0 => Sys2Proof.Machine.execLdw pr lsid w off t0 s
  | .ldh pr lsid w off t0 => Sys2Proof.Machine.execLdh pr lsid w off t0 s
  | .ldhu pr lsid w off t0 => Sys2Proof.Machine.execLdhu pr lsid w off t0 s
  | .ldb pr lsid w off t0 => Sys2Proof.Machine.execLdb pr lsid w off t0 s
  | .ldbu pr lsid w off t0 => Sys2Proof.Machine.execLdbu pr lsid w off t0 s
  | .ldf pr lsid w off t0 => Sys2Proof.Machine.execLdf pr lsid w off t0 s
  | .ldx pr lsid w off t0 => Sys2Proof.Machine.execLdx pr lsid w off t0 s
  | .stw pr lsid w off => Sys2Proof.Machine.execStw pr lsid w off s
  | .sth pr lsid w off => Sys2Proof.Machine.execSth pr lsid w off s
  | .stb pr lsid w off => Sys2Proof.Machine.execStb pr lsid w off s
  | .ste pr lsid w off => Sys2Proof.Machine.execSte pr lsid w off s
  | .stf pr lsid w off => Sys2Proof.Machine.execStf pr lsid w off s
  | .clre pr lsid w off => Sys2Proof.Machine.execClre pr lsid w off s
  | .stm pr lsid w off => Sys2Proof.Machine.execStm pr lsid w off s
  | .setwBase pr w t1 t0 => Sys2Proof.Machine.execSetwBase pr w t1 t0 s
  | .setwLim pr w t1 t0 => Sys2Proof.Machine.execSetwLim pr w t1 t0 s
  | .setwAttr pr w t1 t0 => Sys2Proof.Machine.execSetwAttr pr w t1 t0 s
  | .fenceAcq pr scope t1 t0 => Sys2Proof.Machine.execFenceAcq pr scope t1 t0 s
  | .fenceRel pr scope t1 t0 => Sys2Proof.Machine.execFenceRel pr scope t1 t0 s
  | .fenceAr pr scope t1 t0 => Sys2Proof.Machine.execFenceAr pr scope t1 t0 s
  | .fenceSc pr scope t1 t0 => Sys2Proof.Machine.execFenceSc pr scope t1 t0 s
  | .amoAdd pr t1 t0 => Sys2Proof.Machine.execAmoAdd pr t1 t0 s
  | .amoAnd pr t1 t0 => Sys2Proof.Machine.execAmoAnd pr t1 t0 s
  | .amoOr pr t1 t0 => Sys2Proof.Machine.execAmoOr pr t1 t0 s
  | .amoXor pr t1 t0 => Sys2Proof.Machine.execAmoXor pr t1 t0 s
  | .amoMin pr t1 t0 => Sys2Proof.Machine.execAmoMin pr t1 t0 s
  | .amoMax pr t1 t0 => Sys2Proof.Machine.execAmoMax pr t1 t0 s
  | .amoMinu pr t1 t0 => Sys2Proof.Machine.execAmoMinu pr t1 t0 s
  | .amoMaxu pr t1 t0 => Sys2Proof.Machine.execAmoMaxu pr t1 t0 s
  | .amoSwap pr t1 t0 => Sys2Proof.Machine.execAmoSwap pr t1 t0 s
  | .amoFadd pr t1 t0 => Sys2Proof.Machine.execAmoFadd pr t1 t0 s
  | .amoCas pr t1 t0 => Sys2Proof.Machine.execAmoCas pr t1 t0 s
  | .lockAcq pr t1 t0 => Sys2Proof.Machine.execLockAcq pr t1 t0 s
  | .lockTry pr t1 t0 => Sys2Proof.Machine.execLockTry pr t1 t0 s
  | .lockRel pr t1 t0 => Sys2Proof.Machine.execLockRel pr t1 t0 s
  | .barArrive pr t1 t0 => Sys2Proof.Machine.execBarArrive pr t1 t0 s
  | .barWait pr t1 t0 => Sys2Proof.Machine.execBarWait pr t1 t0 s
  | .barArrwait pr t1 t0 => Sys2Proof.Machine.execBarArrwait pr t1 t0 s
  | .barInit pr t1 t0 => Sys2Proof.Machine.execBarInit pr t1 t0 s
  | .qpush pr t1 t0 => Sys2Proof.Machine.execQpush pr t1 t0 s
  | .qpop pr t1 t0 => Sys2Proof.Machine.execQpop pr t1 t0 s
  | .qpopt pr t1 t0 => Sys2Proof.Machine.execQpopt pr t1 t0 s
  | .qclose pr t1 t0 => Sys2Proof.Machine.execQclose pr t1 t0 s
  | .qinit pr t1 t0 => Sys2Proof.Machine.execQinit pr t1 t0 s
  | .wreg pr t1 t0 => Sys2Proof.Machine.execWreg pr t1 t0 s
  | .wown pr t1 t0 => Sys2Proof.Machine.execWown pr t1 t0 s
  | .wrel pr t1 t0 => Sys2Proof.Machine.execWrel pr t1 t0 s
  | .wpri pr t1 t0 => Sys2Proof.Machine.execWpri pr t1 t0 s
  | .qbegin pr t1 t0 => Sys2Proof.Machine.execQbegin pr t1 t0 s
  | .qend pr t1 t0 => Sys2Proof.Machine.execQend pr t1 t0 s
  | .phase pr t1 t0 => Sys2Proof.Machine.execPhase pr t1 t0 s
  | .mmcfg pr reg t1 t0 => Sys2Proof.Machine.execMmcfg pr reg t1 t0 s
  | .mmaOvw pr acc t1 t0 => Sys2Proof.Machine.execMmaOvw pr acc t1 t0 s
  | .mmaAcc pr acc t1 t0 => Sys2Proof.Machine.execMmaAcc pr acc t1 t0 s
  | .mmaGrp pr acc t1 t0 => Sys2Proof.Machine.execMmaGrp pr acc t1 t0 s
  | .mmrd pr acc t1 t0 => Sys2Proof.Machine.execMmrd pr acc t1 t0 s
  | .spmaOvw pr acc t1 t0 => Sys2Proof.Machine.execSpmaOvw pr acc t1 t0 s
  | .spmaAcc pr acc t1 t0 => Sys2Proof.Machine.execSpmaAcc pr acc t1 t0 s
  | .plctPrep pr t1 t0 => Sys2Proof.Machine.execPlctPrep pr t1 t0 s
  | .plctInval pr t1 t0 => Sys2Proof.Machine.execPlctInval pr t1 t0 s
  | .plctQuery pr t1 t0 => Sys2Proof.Machine.execPlctQuery pr t1 t0 s
  | .scatAdd pr t1 t0 => Sys2Proof.Machine.execScatAdd pr t1 t0 s
  | .scatFadd pr t1 t0 => Sys2Proof.Machine.execScatFadd pr t1 t0 s
  | .scatMax pr t1 t0 => Sys2Proof.Machine.execScatMax pr t1 t0 s
  | .scatMin pr t1 t0 => Sys2Proof.Machine.execScatMin pr t1 t0 s
  | .scatOr pr t1 t0 => Sys2Proof.Machine.execScatOr pr t1 t0 s
  | .fibIsect pr t1 t0 => Sys2Proof.Machine.execFibIsect pr t1 t0 s
  | .fibUnion pr t1 t0 => Sys2Proof.Machine.execFibUnion pr t1 t0 s
  | .fibEoft pr t1 t0 => Sys2Proof.Machine.execFibEoft pr t1 t0 s
  | .fibMkeof pr t1 t0 => Sys2Proof.Machine.execFibMkeof pr t1 t0 s
  | .fibMkcrd pr t1 t0 => Sys2Proof.Machine.execFibMkcrd pr t1 t0 s
  | .topk pr k t1 t0 => Sys2Proof.Machine.execTopk pr k t1 t0 s
  | .cpyLin pr t1 t0 => Sys2Proof.Machine.execCpyLin pr t1 t0 s
  | .cpy2d pr t1 t0 => Sys2Proof.Machine.execCpy2d pr t1 t0 s
  | .cpyGath pr t1 t0 => Sys2Proof.Machine.execCpyGath pr t1 t0 s
  | .cpyScat pr t1 t0 => Sys2Proof.Machine.execCpyScat pr t1 t0 s
  | .cpyFill pr t1 t0 => Sys2Proof.Machine.execCpyFill pr t1 t0 s
  | .wptr pr ch t1 t0 => Sys2Proof.Machine.execWptr pr ch t1 t0 s
  | .wptrW pr ch t1 t0 => Sys2Proof.Machine.execWptrW pr ch t1 t0 s
  | .cnv pr path t1 t0 => Sys2Proof.Machine.execCnv pr path t1 t0 s
  | .trap pr n => Sys2Proof.Machine.execTrap pr n s
  | .rft pr => Sys2Proof.Machine.execRft pr s
  | .csrr pr csr t0 => Sys2Proof.Machine.execCsrr pr csr t0 s
  | .csrw pr csr t0 => Sys2Proof.Machine.execCsrw pr csr t0 s
  | .tsc pr t1 t0 => Sys2Proof.Machine.execTsc pr t1 t0 s
  | .bkpt pr t1 t0 => Sys2Proof.Machine.execBkpt pr t1 t0 s
  | .trace pr n t1 t0 => Sys2Proof.Machine.execTrace pr n t1 t0 s
  | .evt pr n t1 t0 => Sys2Proof.Machine.execEvt pr n t1 t0 s
  | .est pr t1 t0 => Sys2Proof.Machine.execEst pr t1 t0 s
  | .sysc pr n t1 t0 => Sys2Proof.Machine.execSysc pr n t1 t0 s
  | .blockFetch => Sys2Proof.Machine.execBlockFetch s
  | .tokenArrival => Sys2Proof.Machine.execTokenArrival s
  | .spillReturn => Sys2Proof.Machine.execSpillReturn s
  | .readySetPromote => Sys2Proof.Machine.execReadySetPromote s
  | .storeBufferPerform => Sys2Proof.Machine.execStoreBufferPerform s
  | .loadReply => Sys2Proof.Machine.execLoadReply s
  | .loadReplay => Sys2Proof.Machine.execLoadReplay s
  | .blockCommit => Sys2Proof.Machine.execBlockCommit s
  | .configDrain => Sys2Proof.Machine.execConfigDrain s
  | .loopIterationStart => Sys2Proof.Machine.execLoopIterationStart s
  | .iterationRetire => Sys2Proof.Machine.execIterationRetire s
  | .messageArrival => Sys2Proof.Machine.execMessageArrival s
  | .handlerActivationStart => Sys2Proof.Machine.execHandlerActivationStart s
  | .rtagen => Sys2Proof.Machine.execRtagen s
  | .rtagpend => Sys2Proof.Machine.execRtagpend s
  | .quiescenceWave => Sys2Proof.Machine.execQuiescenceWave s
  | .pelorusRound => Sys2Proof.Machine.execPelorusRound s
  | .requestPromote => Sys2Proof.Machine.execRequestPromote s
  | .calleeStart => Sys2Proof.Machine.execCalleeStart s
  | .callResult => Sys2Proof.Machine.execCallResult s
  | .teardown => Sys2Proof.Machine.execTeardown s
  | .prePlace => Sys2Proof.Machine.execPrePlace s
  | .configPrefetch => Sys2Proof.Machine.execConfigPrefetch s
  | .contextFetch => Sys2Proof.Machine.execContextFetch s
  | .fullEmptyAct => Sys2Proof.Machine.execFullEmptyAct s
  | .pageWalk => Sys2Proof.Machine.execPageWalk s
  | .tlbInvalidate => Sys2Proof.Machine.execTlbInvalidate s
  | .tlbInvalidateDone => Sys2Proof.Machine.execTlbInvalidateDone s
  | .multicastCopy => Sys2Proof.Machine.execMulticastCopy s
  | .channelWrite => Sys2Proof.Machine.execChannelWrite s
  | .pageReencrypt => Sys2Proof.Machine.execPageReencrypt s
  | .guardLineRead => Sys2Proof.Machine.execGuardLineRead s
  | .counterWriteback => Sys2Proof.Machine.execCounterWriteback s
  | .configStoreError => Sys2Proof.Machine.execConfigStoreError s
  | .configReloadDone => Sys2Proof.Machine.execConfigReloadDone s
  | .tileSramError => Sys2Proof.Machine.execTileSramError s
  | .syncOperationArrival => Sys2Proof.Machine.execSyncOperationArrival s
  | .cycleWalkEnd => Sys2Proof.Machine.execCycleWalkEnd s
  | .priorityPropagate => Sys2Proof.Machine.execPriorityPropagate s
  | .islandAccept => Sys2Proof.Machine.execIslandAccept s
  | .islandCommandDone => Sys2Proof.Machine.execIslandCommandDone s
  | .groupCompletion => Sys2Proof.Machine.execGroupCompletion s
  | .islandStreamToken => Sys2Proof.Machine.execIslandStreamToken s
  | .cnvImageLoad => Sys2Proof.Machine.execCnvImageLoad s
  | .cnvLoadDone => Sys2Proof.Machine.execCnvLoadDone s
  | .cnvPortInput => Sys2Proof.Machine.execCnvPortInput s
  | .plaiterCompileDone => Sys2Proof.Machine.execPlaiterCompileDone s
  | .scatApply => Sys2Proof.Machine.execScatApply s
  | .copyCommandBegin => Sys2Proof.Machine.execCopyCommandBegin s
  | .copyStreamToken => Sys2Proof.Machine.execCopyStreamToken s
  | .copyWritePerform => Sys2Proof.Machine.execCopyWritePerform s
  | .copyComplete => Sys2Proof.Machine.execCopyComplete s
  | .topkEmit => Sys2Proof.Machine.execTopkEmit s
  | .peerIngressWrite => Sys2Proof.Machine.execPeerIngressWrite s
  | .peerWriteAck => Sys2Proof.Machine.execPeerWriteAck s
  | .peerPathTimeout => Sys2Proof.Machine.execPeerPathTimeout s
  | .linkPortFail => Sys2Proof.Machine.execLinkPortFail s
  | .doorbell => Sys2Proof.Machine.execDoorbell s
  | .helmQueueMap => Sys2Proof.Machine.execHelmQueueMap s
  | .helmSliceExpiry => Sys2Proof.Machine.execHelmSliceExpiry s
  | .helmEntryStart => Sys2Proof.Machine.execHelmEntryStart s
  | .launch => Sys2Proof.Machine.execLaunch s
  | .copy => Sys2Proof.Machine.execCopy s
  | .wait => Sys2Proof.Machine.execWait s
  | .signal => Sys2Proof.Machine.execSignal s
  | .cond => Sys2Proof.Machine.execCond s
  | .helmLoop => Sys2Proof.Machine.execHelmLoop s
  | .helmEnd => Sys2Proof.Machine.execHelmEnd s
  | .waitSatisfied => Sys2Proof.Machine.execWaitSatisfied s
  | .launchResult => Sys2Proof.Machine.execLaunchResult s
  | .launchContinue => Sys2Proof.Machine.execLaunchContinue s
  | .trapFrameWrite => Sys2Proof.Machine.execTrapFrameWrite s
  | .trapHandlerStart => Sys2Proof.Machine.execTrapHandlerStart s
  | .replayInject => Sys2Proof.Machine.execReplayInject s
  | .instanceKill => Sys2Proof.Machine.execInstanceKill s
  | .strandBoundaryStop => Sys2Proof.Machine.execStrandBoundaryStop s
  | .checkpointCut => Sys2Proof.Machine.execCheckpointCut s
  | .contextSaveSizing => Sys2Proof.Machine.execContextSaveSizing s
  | .contextSaveWrite => Sys2Proof.Machine.execContextSaveWrite s
  | .contextRestore => Sys2Proof.Machine.execContextRestore s
  | .preemptionComplete => Sys2Proof.Machine.execPreemptionComplete s
  | .guestSwitch => Sys2Proof.Machine.execGuestSwitch s
  | .create => Sys2Proof.Machine.execCreate s
  | .destroy => Sys2Proof.Machine.execDestroy s
  | .grant => Sys2Proof.Machine.execGrant s
  | .reclaim => Sys2Proof.Machine.execReclaim s
  | .setmin => Sys2Proof.Machine.execSetmin s
  | .preempt => Sys2Proof.Machine.execPreempt s
  | .resetQueue => Sys2Proof.Machine.execResetQueue s
  | .resetContext => Sys2Proof.Machine.execResetContext s
  | .resetEngine => Sys2Proof.Machine.execResetEngine s
  | .resetPartition => Sys2Proof.Machine.execResetPartition s
  | .resetDevice => Sys2Proof.Machine.execResetDevice s
  | .resetEscalate => Sys2Proof.Machine.execResetEscalate s
  | .vfstateRunning => Sys2Proof.Machine.execVfstateRunning s
  | .vfstateDescheduled => Sys2Proof.Machine.execVfstateDescheduled s
  | .vfstatePaused => Sys2Proof.Machine.execVfstatePaused s
  | .wincreate => Sys2Proof.Machine.execWincreate s
  | .winattach => Sys2Proof.Machine.execWinattach s
  | .windetach => Sys2Proof.Machine.execWindetach s
  | .windestroy => Sys2Proof.Machine.execWindestroy s
  | .objreset => Sys2Proof.Machine.execObjreset s
  | .instctlResume => Sys2Proof.Machine.execInstctlResume s
  | .instctlKill => Sys2Proof.Machine.execInstctlKill s
  | .migsave => Sys2Proof.Machine.execMigsave s
  | .migload => Sys2Proof.Machine.execMigload s
  | .eventRecordWrite => Sys2Proof.Machine.execEventRecordWrite s
  | .tsnowl => Sys2Proof.Machine.execTsnowl s
  | .hostApertureRead => Sys2Proof.Machine.execHostApertureRead s
  | .hostApertureWrite => Sys2Proof.Machine.execHostApertureWrite s
  | .functionReset => Sys2Proof.Machine.execFunctionReset s
  | .debugResume => Sys2Proof.Machine.execDebugResume s
  | .debugHalt => Sys2Proof.Machine.execDebugHalt s
  | .debugDataRead => Sys2Proof.Machine.execDebugDataRead s
  | .histogramReadout => Sys2Proof.Machine.execHistogramReadout s
  | .traceSample => Sys2Proof.Machine.execTraceSample s
  | .loglineFrameWrite => Sys2Proof.Machine.execLoglineFrameWrite s
  | .coreDump => Sys2Proof.Machine.execCoreDump s
  | .poisonLogClear => Sys2Proof.Machine.execPoisonLogClear s
  | .clearOnRead => Sys2Proof.Machine.execClearOnRead s
  | .csrWrite => Sys2Proof.Machine.execCsrWrite s
  | .powerOn => Sys2Proof.Machine.execPowerOn s
  | .powerRefill => Sys2Proof.Machine.execPowerRefill s
  | .thermalLimit => Sys2Proof.Machine.execThermalLimit s
  | .thermalStep => Sys2Proof.Machine.execThermalStep s
  | .thermalShutdown => Sys2Proof.Machine.execThermalShutdown s
  | .powerLoss => Sys2Proof.Machine.execPowerLoss s
  | .channelSpareSwitch => Sys2Proof.Machine.execChannelSpareSwitch s
  | .clusterRetire => Sys2Proof.Machine.execClusterRetire s
  | .tileSramStore => Sys2Proof.Machine.execTileSramStore s
  | .hostMemoryWrite => Sys2Proof.Machine.execHostMemoryWrite s
  | .correctedError => Sys2Proof.Machine.execCorrectedError s
  | .imageCrcError => Sys2Proof.Machine.execImageCrcError s
  | .lineCacheError => Sys2Proof.Machine.execLineCacheError s
  | .bridgeLoss => Sys2Proof.Machine.execBridgeLoss s
  | .moduleLimit => Sys2Proof.Machine.execModuleLimit s
  | .stoptsl => Sys2Proof.Machine.execStoptsl s
  | .wpkal => Sys2Proof.Machine.execWpkal s

end Sys2Proof.Machine
end

