-- ==== Sys2Proof/Machine/Fire.lean ====
section
/-! DEFINITION. Sys2Proof/Machine/Fire.lean: the turn of a tile: which ready set it fires (R13, R153, R181, R311), the operands
that the firing takes, and what follows from it. -/

namespace Sys2Proof.Machine

/-! ### What depends on a load that an older store may still change (R21) -/

/-- The firings that the listed ones come from, with themselves. -/
def Page.ancestors (y : Page) : Nat → List Nat → List Nat
  | 0, ss => ss
  | n + 1, ss =>
    let from' (f : Fire) : List Nat :=
      [f.l, f.r, f.c, f.p].filterMap (fun a => a.map Arr.fid)
        ++ (if (opF f.word).toNat = 0x01 then (((y.act? f.tag).map (fun a => (kget a.regFrom (gF f.word).toNat).getD [])).getD []) else [])
    let more := ((y.fires.filter (fun f => ss.contains f.fid)).flatMap from').filter (fun k => !ss.contains k)
    if more.isEmpty then ss else y.ancestors n (ss ++ more.eraseDups)

/-- The slots that a slot's results can reach within its block. -/
def reachable (ws : List Word) : Nat → List Nat → List Nat
  | 0, ks => ks
  | n + 1, ks =>
    let more := (ks.flatMap (fun k =>
      let t := targetsOf ((ws[k]?).getD 0)
      [t.1, t.2].filterMap (fun t => match t with
        | .queue _ d => some d.toNat
        | _ => none))).filter (fun k => !ks.contains k)
    if more.isEmpty then ks else reachable ws n (ks ++ more.eraseDups)

/-- Might what stands before a load still change it, other than what waits for the slot itself: an older store (R21); for one of a strongly
ordered page an older access (R226); an acquire of an earlier block (R230)? -/
def Page.openFor (y : Page) (f : Fire) (a : Act) (slot : Nat) : Bool :=
  match y.act? f.tag with
  | none => false
  | some b =>
    let so := f.aux[1]? == some 1
    let ks := if b.tag = a.tag then reachable a.words 64 [slot] else []
    (List.range b.words.length).any (fun k =>
      let w := (b.words[k]?).getD 0
      let op := (opF w).toNat
      decide ((xF w).toNat < f.lsid) && !ks.contains k && ((isOrdStore op && !b.lsidDone (xF w).toNat)
        || (so && isOrdLoad op && !y.fires.any (fun g => g.tile == k && g.tag == b.tag && !g.waits))))
    || y.acts.any (fun c => y.ahead c b && (c.mayStore || c.mayAcquire
      || (so && c.words.any (fun w => isOrdLoad (opF w).toNat || isOrdStore (opF w).toNat))))

/-- The loads that the operands of an entry rest on. -/
def Page.restsOn (y : Page) (e : Entry) : List Fire :=
  let ss := y.ancestors (y.fires.length + 1) ([e.l, e.r, e.c, e.p].filterMap (fun z => z.map Arr.fid))
  y.fires.filter (fun f => ss.contains f.fid && isOrdLoad (opF f.word).toNat)

/-- Do the operands of an entry rest on a load whose value is not yet settled? -/
def Page.unsettled (y : Page) (a : Act) (e : Entry) : Bool := (y.restsOn e).any (fun f => y.openFor f a e.tile)

/-- The loads that the operands of an entry rest on whose value would differ if they were read now, in their order (R226, R230). -/
def State.staleFor (s : State) (p pg : Nat) (e : Entry) : List Fire :=
  let y := s.page p pg
  let fs := y.restsOn e
  (y.acts.filter (fun b => fs.any (fun f => f.tag == b.tag))).flatMap (fun b =>
    (s.staleLoads p pg b Fire.soft).filter (fun f => fs.any (fun g => g.fid == f.fid)))

/-! ### Choosing a ready set (R153) -/

/-- The repeat interval of an opcode and X (R92, R147). -/
def repeatOf (op x : Nat) : Nat :=
  if op = 0x12 then 20 else if op = 0x32 && decide (x ≤ 1) then 14 else 1

/-- Does an opcode make a call (R174, R175, R353)? -/
def isCall (op : Nat) : Bool := op == 0x0C || op == 0x0D || op == 0x79

/-- The tokens that a page's ports hold in the mesh (R12, R262, R300). -/
def Page.atPorts (y : Page) : List Arr :=
  y.portHeld ++ (List.range 12).flatMap (fun j => ((y.island.streams.filter (fun t => t.1 == j)).drop 4).map (fun t => t.2.1))

/-- Are all four slots of a command channel of the island taken (R262)? -/
def Page.channelFull (y : Page) (ch : Nat) : Bool :=
  decide (4 ≤ (y.island.cmds.filter (fun c => c.ch == ch && !c.accepted && !c.stopped)).length)

/-- Does a release come after a block of its strand that may still store: its effect must not be seen before that block's stores (R231)? -/
def Page.releaseWaits (y : Page) (a : Act) (w : Word) : Bool :=
  releases (opF w).toNat (xF w).toNat && y.acts.any (fun c => y.ahead c a && (c.mayStore || !c.stores.isEmpty))

/-- May a ready set fire now (R12, R181, R231, R262, R311, R331, R412, R417)? -/
def State.eligible (s : State) (p pg : Nat) (e : Entry) : Bool :=
  let x := s.part p
  let y := x.page pg
  match y.act? e.tag with
  | none => false
  | some a =>
    let w := (a.words[e.tile]?).getD 0
    let op := (opF w).toNat
    let links := (y.fires.filter (fun f => isCall (opF f.word).toNat && f.waits)).length
    let ranking := y.topk.any (fun k => k.tile == e.tile && (decide (s.now < k.busy) || (!k.pairs.isEmpty && k.fibre != fibreOf e.tag)))
    e.ready.isSome && a.looping.isNone && s.mayRun p a.id a.tag && !y.gated && !y.reload
      && !(y.held.map Held.arr ++ y.atPorts).any (fun h => h.src == e.tile)
      && !(decide (0x60 ≤ op) && decide (op ≤ 0x64) && y.channelFull (islChannel op (xF w).toNat))
      && !y.releaseWaits a w && !(isCall op && decide (4 ≤ links)) && !(op == 0x67 && ranking) && !(op == 0x76 && x.traceStalls)

/-- A set's priority (R153): the instance's effective priority, or the handler activation's. -/
def State.setPrio (s : State) (p pg : Nat) (e : Entry) : Nat :=
  match (s.page p pg).act? e.tag with
  | none => 0
  | some a => if a.ofStrand then (s.inst p a.id).eff else a.prio

/-- Is a set promoted: it has been ready for more than 64 fclk (R153)? -/
def State.promoted (s : State) (e : Entry) : Bool := e.promo == 2 || e.ready.any (fun t => decide (t + 64 < s.now))

/-- Does one ready set go before another (R153)? -/
def State.goesFirst (s : State) (p pg : Nat) (d e : Entry) : Bool :=
  let rd := d.ready.getD 0
  let re := e.ready.getD 0
  let early := decide (rd < re) || (rd == re && (decide (d.lastPos < e.lastPos) || (d.lastPos == e.lastPos && decide (d.way < e.way))))
  if s.promoted d then !s.promoted e || early
  else if s.promoted e then false
  else
    let pd := s.setPrio p pg d
    let pe := s.setPrio p pg e
    decide (pe < pd) || (pd == pe && early)

/-- The set that goes first among those listed. -/
def State.best (s : State) (p pg : Nat) (l : List Entry) : Option Entry :=
  l.foldl (fun b e => match b with
    | none => some e
    | some d => if s.goesFirst p pg e d then some e else some d) none

/-! ### Firing -/

/-- The operands that a firing takes of its entry: the queues it uses; MERGE takes C and what C selects (R130). -/
def Entry.taken (e : Entry) (cx : SlotCtx) (w : Word) : Entry :=
  let u := slotUses cx e.tile w
  let keep (b : Bool) (a : Option Arr) : Option Arr := if b then a else none
  if (opF w).toNat = 0x07 then
    let null := (e.c.map (fun c => c.tok.null)).getD false
    let left := (e.c.map (fun c => c.tok.val.getLsbD 0)).getD false
    { e with l := keep (!null && left) e.l, r := keep (!null && !left) e.r, p := keep (prOf w != 0) e.p }
  else { e with l := keep u.1 e.l, r := keep u.2.1 e.r, c := keep u.2.2 e.c, p := keep (prOf w != 0) e.p }

/-- The entry that a firing leaves: what it did not take. -/
def Entry.rest (e t : Entry) : Option Entry :=
  let keep (a b : Option Arr) : Option Arr := if b.isSome then none else a
  let r := { e with l := keep e.l t.l, r := keep e.r t.r, c := keep e.c t.c, p := keep e.p t.p, ready := none, promo := 0 }
  if r.l.isNone && r.r.isNone && r.c.isNone && r.p.isNone then none else some r

/-- The bucket of a wait (R415). -/
def bucketOf (n : Nat) : Nat := min (bitLen n) 7

/-- Counting a firing in its tile's histogram (R415): the wait of its first operand, and the fclk it stood ready. -/
def Page.countFire (y : Page) (e : Entry) (now : Nat) : Page :=
  let ready := e.ready.getD now
  y.modHist e.tile (fun h =>
    let b := bucketOf (ready - e.since)
    let h := if e.way = 4 then h else { h with buckets := h.buckets.set b (sat32 ((h.buckets[b]?).getD 0)) }
    { h with readyWait := min (h.readyWait + (now - ready)) 0xFFFFFFFF })

/-- The state in which a firing's meaning runs: its operands taken, its record and place set. -/
def State.begin (s : State) (p pg : Nat) (a : Act) (e : Entry) (w : Word) : State :=
  let t := e.taken (s.ctxOf p a) w
  let f : Fire := {
    fid := s.nextFid, id := a.id, strand := a.strand, tile := e.tile, tag := e.tag, word := w, l := t.l, r := t.r, c := t.c, p := t.p,
    firedAt := s.now, leaves := s.now + 1 }
  let s := s.modPage p pg (fun y => { ((y.stir a.id s.now).countFire e s.now) with
    ents := y.ents.flatMap (fun z => if z == e then (e.rest t).toList else [z])
    fires := y.fires ++ [f]
    nextFire := kset y.nextFire e.tile (s.now + repeatOf (opF w).toNat (xF w).toNat)
    last := y.last.filter (fun z => z.tile != e.tile) ++ [⟨e.tile, w, e.tag, a.gen⟩] })
  { s with nextFid := s.nextFid + 1, cur := curOf p pg f }

/-- What follows a firing: its way may be free, its tile has another turn, and its activation may be complete. -/
def State.after (s : State) (p pg : Nat) (e : Entry) : State :=
  let y := s.page p pg
  let s := if e.way < 4 && !y.ents.any (fun z => z.tile == e.tile && z.tag == e.tag && z.way == e.way) then s.freed p pg e.tile e.tag else s
  let s := if y.ents.any (fun z => z.tile == e.tile && z.ready.isSome) then
      s.schedFire (max (s.now + 1) ((kget y.nextFire e.tile).getD 0)) p pg e.tile
    else s
  s.checkDone p pg e.tag

/-- Asking for the promotion of sets that stay ready (R153). -/
def State.askPromote (s : State) (p pg tile : Nat) : State :=
  let l := (s.page p pg).ents.filter (fun e => e.tile == tile && e.ready.isSome && e.promo == 0)
  let s := l.foldl (fun s e => s.sched (max s.now (e.ready.getD 0 + 65)) (srcOf pg tile) .readySetPromote { p := p, pg := pg, x := tile, tag := e.tag }) s
  s.modPage p pg (fun y => { y with ents := y.ents.map (fun e => if l.contains e then { e with promo := 1 } else e) })

/-- A partition's CSRs but for the one that counts poison origins. -/
def Part.csrs (x : Part) : List (Nat × Word) := x.csr.filter (fun z => z.1 != 0x098)

/-- Has a firing done what cannot be withdrawn: it acted outside its activation, or it met a trap? An entry of the poison log is made when
the firing happens (R172), and stays where the firing is withdrawn (log 60). -/
def State.lasting (s t : State) (p pg : Nat) (a : Act) (w : Word) : Bool :=
  let f : Fire := { fid := 0, id := a.id, strand := a.strand, tile := 0, tag := a.tag, word := w }
  !f.soft || (s.part p).csrs != (t.part p).csrs || (s.inst p a.id).status != (t.inst p a.id).status
    || ((t.page p pg).act? a.tag).any (fun b => b.trapped != a.trapped)
    || (s.mem != t.mem && (s.part p).csrN 0x098 == (t.part p).csrN 0x098 && (s.part p).plogOver == (t.part p).plogOver)

/-- The firing of one entry; none when it must wait until the loads that it rests on are settled. Where one of them must be read again
first, it is. -/
def State.fireEntry (s : State) (p pg : Nat) (e : Entry) : Option Out :=
  match (s.page p pg).act? e.tag with
  | none => none
  | some a =>
    let w := (a.words[e.tile]?).getD 0
    match decode w with
    | .error _ => some (.fault .notAnInstruction)
    | .ok i =>
      match exec i (s.begin p pg a e w) with
      | .next t =>
        if !s.lasting t p pg a w then some (.next (t.after p pg e))
        else if (s.page p pg).unsettled a e then none
        else
          match s.staleFor p pg e with
          | [] => some (.next (t.after p pg e))
          | fs => some (.next (fs.foldl (fun s f => s.sched s.now (srcOf pg f.tile) .loadReplay { p := p, pg := pg, fid := f.fid, tag := f.tag, x := 1 }) s))
      | o => some o

/-- Trying the eligible sets of a tile in their order. -/
def State.tryFire (s : State) (p pg tile : Nat) : Nat → List Entry → Out
  | 0, _ => .next s
  | n + 1, l =>
    match s.best p pg l with
    | none => .next s
    | some e =>
      match s.fireEntry p pg e with
      | none => s.tryFire p pg tile n (l.filter (fun z => z != e))
      | some (.next t) => .next (t.askPromote p pg tile)
      | some o => o

/-- A tile's turn (R13, R153): at most one ready set fires. -/
def State.fireTurn (s : State) (p pg tile : Nat) : Out :=
  let y := s.page p pg
  let free := (kget y.nextFire tile).getD 0
  let l := y.ents.filter (fun e => e.tile == tile && s.eligible p pg e)
  if s.now < free then .next (if l.isEmpty then s else s.schedFire free p pg tile)
  else s.tryFire p pg tile l.length l

/-! ### The other steps -/

/-- Does a step belong to the clocks of one page (R412)? -/
def pageLocal (i : Instr) (a : Args) : Bool :=
  match i with
  | .blockFetch | .storeBufferPerform | .loadReply | .loadReplay | .blockCommit | .configDrain | .loopIterationStart
  | .iterationRetire | .handlerActivationStart | .trapHandlerStart | .topkEmit | .messageArrival | .multicastCopy | .spillReturn
  | .readySetPromote => true
  | .tokenArrival => a.tg == .none
  | _ => false

/-- Does a step belong to an engine command of a page, which pauses with the page's clocks (R412)? -/
def engineLocal (i : Instr) (a : Args) : Bool :=
  match i with
  | .islandAccept | .islandCommandDone | .islandStreamToken | .scatApply | .cnvPortInput | .copyStreamToken => true
  | .copyCommandBegin => a.z != 0
  | _ => false

/-- Does a step wait in a page's skid buffer: the page's clocks are gated, or it reloads (R344, R412)? -/
def rowWaits (i : Instr) (a : Args) (y : Page) : Bool :=
  (pageLocal i a && (y.gated || y.reload)) || (engineLocal i a && y.gated)

/-- Is a step a management command of one partition, which waits for the one before it (R366)? A reset, and what makes or destroys a partition or
a window, does not wait (log 69). -/
def cmdRow (i : Instr) (a : Args) : Bool :=
  match i with
  | .grant | .reclaim | .setmin | .preempt | .vfstateRunning | .vfstateDescheduled | .winattach | .objreset | .instctlResume | .instctlKill
  | .migsave | .migload => true
  | .vfstatePaused | .windetach => a.z == 0
  | _ => false

/-- May a step end a command that took time? -/
def cmdEnd (i : Instr) : Bool :=
  match i with
  | .vfstatePaused | .windetach | .resetPartition | .functionReset | .destroy => true
  | _ => false

/-- Is a command of a partition under way that takes time: a pause, or a detachment? -/
def State.cmdBusy (s : State) (p : Nat) : Bool :=
  s.agenda.any (fun t => match t.act with
    | .row .vfstatePaused a => a.p == p && a.z == 1
    | .row .windetach a => a.p == p && a.z == 1
    | _ => false)

/-- Commands act in their order, up to one that takes time. -/
def State.runCmds (p : Nat) : List (Instr × Args) → State → Out
  | [], s => .next s
  | (i, a) :: rest, s =>
    if s.cmdBusy p then .next (s.modPart p (fun x => { x with cmds := (i, a) :: rest }))
    else match exec i { s with arg := a } with
      | .next s => State.runCmds p rest s
      | o => o

/-- The turn of a row: it runs, or waits in its page's skid buffer, or for the command before it; the end of a command lets those that wait
act. -/
def State.rowTurn (s : State) (i : Instr) (a : Args) : Out :=
  let y := s.page a.p a.pg
  let s := { s with arg := a }
  let l := (s.part a.p).cmds
  if rowWaits i a y then .next (s.modPage a.p a.pg (fun y => { y with skid := y.skid ++ [(i, a)] }))
  else if cmdRow i a && (s.cmdBusy a.p || !l.isEmpty) then .next (s.modPart a.p (fun x => { x with cmds := x.cmds ++ [(i, a)] }))
  else if cmdEnd i && !l.isEmpty then
    match exec i (s.modPart a.p (fun x => { x with cmds := [] })) with
    | .next s => State.runCmds a.p l s
    | o => o
  else exec i s

/-! ### One instruction in place -/

/-- A blank one-page instance of partition 1 that holds one word in slot 0, with a token of value 1 in each queue, and its
tile's turn next. -/
def State.placed (s : State) (_nbits w : Nat) : State :=
  let tag := tagOf 1 1
  let regs := List.replicate 64 ({} : Reg)
  let wins := List.replicate 8 ({} : Win)
  let a : Act := { tag := tag, id := 1, strand := 0, words := [word w], arity := [0], regs := regs, wins := wins }
  let one : Option Arr := some { tok := tokV 1, fid := 0 }
  let e : Entry := { tile := 0, tag := tag, l := one, r := one, p := one, c := one, ready := some s.now }
  let i : Inst := { id := 1, gen := 1, regs := regs, wins := wins, strands := [{ num := 0, pg := 0 }], origin := .launch 0 0 0x8000 }
  let x : Part := { num := 1, live := true, map := [(0, 0, 0, 0)], insts := [i], pages := [{ num := 0, ents := [e], acts := [a] }] }
  { s with parts := [x], agenda := [⟨s.now, 1, 0, .fire 1 0 0⟩] }

end Sys2Proof.Machine
end

