-- ==== Sys2Proof/Machine/Step.lean ====
section
/-! DEFINITION. Sys2Proof/Machine/Step.lean: one step of the device: the next of its pending steps. -/

namespace Sys2Proof.Machine

/-- One step: the earliest pending step happens, in the event order of R6; with nothing pending, one fclk passes. -/
def step (s : State) : Host.Outcome State Fault Refusal :=
  match s.agenda with
  | [] => .next { s with now := s.now + 1 }
  | t :: rest =>
    let s := { s with agenda := rest, now := max s.now t.ts }
    match t.act with
    | .row i a => s.rowTurn i a
    | .fire p pg tile => s.fireTurn p pg tile

/-- The state with one instruction placed so that the next step fires it: a one-page instance of partition 1 whose block
holds it in slot 0, with a token in each queue (log 1). -/
def State.withFetchWord (s : State) (nbits w : Nat) : State := s.placed nbits w

end Sys2Proof.Machine
end

