-- ==== Sys2Proof/Safety.lean ====
section
/-! DEFINITION. Sys2Proof/Safety.lean: what claims mean by a safe step and a sound state. -/

namespace Sys2Proof.Machine

/-- A step that neither stops with a fault nor is refused. -/
def State.goesOn (s : State) : Prop := ∃ t, step s = .next t

/-- The word that a ready set of a live activation would fire is an instruction, which the load of its block has checked (R43). -/
def State.loaded (s : State) : Prop :=
  ∀ x ∈ s.parts, ∀ y ∈ x.pages, ∀ e ∈ y.ents, e.ready ≠ none → ∀ a, y.act? e.tag = some a → ∃ i, decode ((a.words[e.tile]?).getD 0) = .ok i

/-- Keys that rise strictly, from lo on. -/
def Fe.rising : Nat → List Nat → Bool
  | _, [] => true
  | lo, x :: t => decide (lo ≤ x) && Fe.rising (x + 1) t

/-- Memory and the list of the full words (R138) stand in their one canonical form, so that equal memories are equal data. -/
def State.sound (s : State) : Prop := Mem.wf s.mem = true ∧ Fe.rising 0 s.fe = true

/-! ### What a firing gives (R36, R82, R91) -/

/-- P lets the firing run (R16): it is not null, and its bit and PR agree. -/
def Cur.pRuns (c : Cur) (pr : BitVec 2) : Prop := isNull c.pt = false ∧ predOf pr c.pt = .run

/-- One result of value v, without an event: to both targets, lat fclk after the firing, with the poison of the first poisoned operand. -/
def State.gives (s : State) (lat : Nat) (t1 t0 : Target) (v : Word) : Out :=
  .next (s.emit lat t0 t1 (withPoison (tokV v) s.cur.firstOrigin) (withPoison (tokV v) s.cur.firstOrigin))

/-- Two results, without an event: v0 to T0 and v1 to T1. -/
def State.givesTwo (s : State) (lat : Nat) (t1 t0 : Target) (v0 v1 : Word) : Out :=
  .next (s.emit lat t0 t1 (withPoison (tokV v0) s.cur.firstOrigin) (withPoison (tokV v1) s.cur.firstOrigin))

/-- The new origin of an event of kind k of the firing in progress (R83, R84). -/
def State.origin (s : State) (k : Nat) : State × BitVec 11 :=
  s.newOrigin s.cur.p s.cur.pg s.cur.tile s.cur.tag s.curAct.gen k (opF s.cur.word).toNat (xOf s.cur.word) 0

/-- One result of value v with an event of kind k (0 for none): a poisoned operand gives its own origin, and otherwise the event a new
one. -/
def State.givesKind (s : State) (lat : Nat) (t1 t0 : Target) (v : Word) (k : Nat) : Out :=
  if k = 0 ∨ s.cur.firstOrigin ≠ none then s.gives lat t1 t0 v
  else .next ((s.origin k).1.emit lat t0 t1 (withPoison (tokV v) (some (s.origin k).2)) (withPoison (tokV v) (some (s.origin k).2)))

/-- A result of number and kind. -/
def State.givesNum (s : State) (lat : Nat) (t1 t0 : Target) (r : Nat × Nat) : Out := s.givesKind lat t1 t0 (word r.1) r.2

/-! ### FP32 words as the rules on special cases speak of them (R64, R109, R114) -/

/-- A NaN: the exponent all ones and a mantissa that is not 0. -/
def fpNaN (w : Word) : Prop := 0x7F800000 < w.toNat % 2 ^ 31

/-- The order of the words that are no NaN: as signed magnitudes, with -0 one below +0. -/
def fpRank (w : Word) : Int := if w.getLsbD 31 then -(w.toNat % 2 ^ 31 : Nat) - 1 else (w.toNat : Int)

/-- The order of their values: -0 and +0 are equal. -/
def fpValue (w : Word) : Int := if w.getLsbD 31 then -(w.toNat % 2 ^ 31 : Nat) else (w.toNat : Int)

/-- The value of a 2-bit trit code (R120): 01 is +1, 11 is -1, 00 and 10 count as 0. -/
def tritOf (code : Nat) : Int := if code % 4 = 1 then 1 else if code % 4 = 3 then -1 else 0

/-- The 2-bit code of trit j of five to a byte (R69, R120): digits 0, 1, 2 are 00, 01, 11. -/
def codeOfDigit (d : Nat) : Nat := if d = 2 then 3 else d

/-! ### The forms of 04_scalar_instructions.md -/

/-- The latency (R92), PR and targets of every instruction of the chapter but MOV and NULL, which route a null L. -/
def scalarForm : Instr → Option (Nat × BitVec 2 × Target × Target)
  | .bfly pr t1 t0 => some (1, pr, t1, t0)
  | .fbfly pr t1 t0 => some (4, pr, t1, t0)
  | .genc _ t0 => some (1, 0, .none, t0)
  | .gens _ t0 => some (1, 0, .none, t0)
  | .genh _ t0 => some (1, 0, .none, t0)
  | .sel pr t1 t0 => some (1, pr, t1, t0)
  | .add pr t1 t0 => some (1, pr, t1, t0)
  | .sub pr t1 t0 => some (1, pr, t1, t0)
  | .and pr t1 t0 => some (1, pr, t1, t0)
  | .or pr t1 t0 => some (1, pr, t1, t0)
  | .xor pr t1 t0 => some (1, pr, t1, t0)
  | .andn pr t1 t0 => some (1, pr, t1, t0)
  | .orn pr t1 t0 => some (1, pr, t1, t0)
  | .xnor pr t1 t0 => some (1, pr, t1, t0)
  | .shl pr t1 t0 => some (1, pr, t1, t0)
  | .shr pr t1 t0 => some (1, pr, t1, t0)
  | .sar pr t1 t0 => some (1, pr, t1, t0)
  | .rol pr t1 t0 => some (1, pr, t1, t0)
  | .ror pr t1 t0 => some (1, pr, t1, t0)
  | .min pr t1 t0 => some (1, pr, t1, t0)
  | .max pr t1 t0 => some (1, pr, t1, t0)
  | .minu pr t1 t0 => some (1, pr, t1, t0)
  | .maxu pr t1 t0 => some (1, pr, t1, t0)
  | .addc pr t1 t0 => some (1, pr, t1, t0)
  | .subb pr t1 t0 => some (1, pr, t1, t0)
  | .absd pr t1 t0 => some (1, pr, t1, t0)
  | .mul pr t1 t0 => some (3, pr, t1, t0)
  | .mulh pr t1 t0 => some (3, pr, t1, t0)
  | .mulhu pr t1 t0 => some (3, pr, t1, t0)
  | .mulhsu pr t1 t0 => some (3, pr, t1, t0)
  | .madd pr t1 t0 => some (3, pr, t1, t0)
  | .msub pr t1 t0 => some (3, pr, t1, t0)
  | .div pr t1 t0 => some (20, pr, t1, t0)
  | .divu pr t1 t0 => some (20, pr, t1, t0)
  | .rem pr t1 t0 => some (20, pr, t1, t0)
  | .remu pr t1 t0 => some (20, pr, t1, t0)
  | .neg pr t1 t0 => some (1, pr, t1, t0)
  | .not pr t1 t0 => some (1, pr, t1, t0)
  | .abs pr t1 t0 => some (1, pr, t1, t0)
  | .clz pr t1 t0 => some (1, pr, t1, t0)
  | .ctz pr t1 t0 => some (1, pr, t1, t0)
  | .popc pr t1 t0 => some (1, pr, t1, t0)
  | .brev pr t1 t0 => some (1, pr, t1, t0)
  | .bswap pr t1 t0 => some (1, pr, t1, t0)
  | .sextb pr t1 t0 => some (1, pr, t1, t0)
  | .sexth pr t1 t0 => some (1, pr, t1, t0)
  | .zextb pr t1 t0 => some (1, pr, t1, t0)
  | .zexth pr t1 t0 => some (1, pr, t1, t0)
  | .extr pr _ _ _ t0 => some (1, pr, .none, t0)
  | .ins pr _ _ _ t0 => some (1, pr, .none, t0)
  | .addi pr _ t0 => some (1, pr, .none, t0)
  | .andi pr _ t0 => some (1, pr, .none, t0)
  | .ori pr _ t0 => some (1, pr, .none, t0)
  | .xori pr _ t0 => some (1, pr, .none, t0)
  | .shli pr _ t0 => some (1, pr, .none, t0)
  | .shri pr _ t0 => some (1, pr, .none, t0)
  | .sari pr _ t0 => some (1, pr, .none, t0)
  | .muli pr _ t0 => some (3, pr, .none, t0)
  | .teq pr t1 t0 => some (1, pr, t1, t0)
  | .tne pr t1 t0 => some (1, pr, t1, t0)
  | .tlt pr t1 t0 => some (1, pr, t1, t0)
  | .tle pr t1 t0 => some (1, pr, t1, t0)
  | .tltu pr t1 t0 => some (1, pr, t1, t0)
  | .tleu pr t1 t0 => some (1, pr, t1, t0)
  | .tgt pr t1 t0 => some (1, pr, t1, t0)
  | .tge pr t1 t0 => some (1, pr, t1, t0)
  | .tgtu pr t1 t0 => some (1, pr, t1, t0)
  | .tgeu pr t1 t0 => some (1, pr, t1, t0)
  | .tbit pr t1 t0 => some (1, pr, t1, t0)
  | .teqi pr _ t0 => some (1, pr, .none, t0)
  | .tnei pr _ t0 => some (1, pr, .none, t0)
  | .tlti pr _ t0 => some (1, pr, .none, t0)
  | .tgei pr _ t0 => some (1, pr, .none, t0)
  | .tltui pr _ t0 => some (1, pr, .none, t0)
  | .tgeui pr _ t0 => some (1, pr, .none, t0)
  | .fadd pr t1 t0 => some (4, pr, t1, t0)
  | .fsub pr t1 t0 => some (4, pr, t1, t0)
  | .fmul pr t1 t0 => some (4, pr, t1, t0)
  | .fmin pr t1 t0 => some (1, pr, t1, t0)
  | .fmax pr t1 t0 => some (1, pr, t1, t0)
  | .fabs pr t1 t0 => some (1, pr, t1, t0)
  | .fneg pr t1 t0 => some (1, pr, t1, t0)
  | .fcopys pr t1 t0 => some (1, pr, t1, t0)
  | .fma pr t1 t0 => some (4, pr, t1, t0)
  | .fms pr t1 t0 => some (4, pr, t1, t0)
  | .fnma pr t1 t0 => some (4, pr, t1, t0)
  | .fnms pr t1 t0 => some (4, pr, t1, t0)
  | .fdiv pr t1 t0 => some (14, pr, t1, t0)
  | .fsqrt pr t1 t0 => some (14, pr, t1, t0)
  | .frcpe pr t1 t0 => some (2, pr, t1, t0)
  | .frsqe pr t1 t0 => some (2, pr, t1, t0)
  | .fteq pr t1 t0 => some (1, pr, t1, t0)
  | .ftlt pr t1 t0 => some (1, pr, t1, t0)
  | .ftle pr t1 t0 => some (1, pr, t1, t0)
  | .ftun pr t1 t0 => some (1, pr, t1, t0)
  | .fclass pr t1 t0 => some (1, pr, t1, t0)
  | .fcvt pr _ t1 t0 => some (2, pr, t1, t0)
  | .fcvts pr _ t1 t0 => some (3, pr, t1, t0)
  | .paddH pr t1 t0 => some (1, pr, t1, t0)
  | .psubH pr t1 t0 => some (1, pr, t1, t0)
  | .paddB pr t1 t0 => some (1, pr, t1, t0)
  | .psubB pr t1 t0 => some (1, pr, t1, t0)
  | .pmaxH pr t1 t0 => some (1, pr, t1, t0)
  | .pminH pr t1 t0 => some (1, pr, t1, t0)
  | .pdot4 pr t1 t0 => some (2, pr, t1, t0)
  | .pdot4u pr t1 t0 => some (2, pr, t1, t0)
  | .pdot2H pr t1 t0 => some (2, pr, t1, t0)
  | .packH pr t1 t0 => some (1, pr, t1, t0)
  | .packB pr t1 t0 => some (1, pr, t1, t0)
  | .tunpk pr t1 t0 => some (2, pr, t1, t0)
  | .tdot4 pr _ t1 t0 => some (2, pr, t1, t0)
  | .lcdec pr t1 t0 => some (1, pr, t1, t0)
  | .qnt pr _ t1 t0 => some (4, pr, t1, t0)
  | _ => none

/-- The address at which the firing in progress would record a new origin (R83, R84): at most 32 bytes from there. -/
def State.originPlace (s : State) : Option Nat :=
  let x := s.part s.cur.p
  let next := bits (x.csrN 0x098) 26 16
  let base := x.base64 0x096 16
  s.devAddr s.cur.p (if next < 0x7FF then base + 32 * next else base + 32 * 0x7FF + (if x.plogOver = 0 then 0 else 8))

/-- The state in which an operation on an object acts: its engine has served the object, and a release's committed stores are visible (R230,
R242). -/
def State.atObject (s : State) (p h : Nat) (f : Fire) : State :=
  if releases (opF f.word).toNat (xF f.word).toNat then (s.served p h).flush p f.id else s.served p h

/-- A partition but for its pages, CSRs, event queue and the count of the poison log's lost origins. -/
def Part.core (x : Part) : Part := { x with pages := [], csr := [], vf := {}, plogOver := 0 }

/-- A page but for its firings, when the last results of its tiles leave (R92) and until when its instances have something under way (R170,
R173). -/
def Page.core (y : Page) : Page := { y with fires := [], lastOut := [], stirred := [] }

/-- The state but for its partitions, agenda and memory, with what keeps account of memory. -/
def State.core (s : State) : State := { s with parts := [], agenda := [], mem := [], oldPtes := [], guard := [], badLines := [], plait := [] }

/-- The arrival of a token that the firing in progress sends: to a queue over the mesh, to a register 2 fclk after the token leaves,
to a port along the row (R4, R5, R10, R204). -/
def State.arrivalOf (s : State) (leaves : Nat) (tg : Target) (tag : Tag) (t : Token) : Timed :=
  let d := destTile s.cur.tile tg
  let hop := match tg with
    | .reg _ => 2
    | .port _ => dist (s.cur.tile % 8) 7
    | _ => (s.part s.cur.p).pathCost s.cur.pg s.cur.tile s.cur.pg d
  ⟨leaves + hop, 0, srcOf s.cur.pg d, .row .tokenArrival
    { p := s.cur.p, pg := s.cur.pg, x := s.cur.tile, tg := tg, tag := tag, tok := t, fid := s.cur.fid }⟩

end Sys2Proof.Machine
end

