-- ==== Sys2Proof/Certificates/Slice0/Obligations.lean ====
section
/-! DEFINITION. Sys2Proof/Certificates/Slice0/Obligations.lean: the statements for the provers, rule by rule of the spec. -/

open Sys2Proof Sys2Proof.Machine

/-- R32 to R36 and R41 to R44: words written out bit by bit from the encodings decode to the instructions they stand for, and words that R43 rejects
are rejected by their reason. -/
def Obligations.DecodedWords : Prop :=
  let l (n : BitVec 6) : Target := .queue .l n
  decode 0b00100000_00000000_00000000_10000101#32 = .ok (.add 0 .none (l 5)) ∧
  decode 0b00100001_00001001_10000111_00111111#32 = .ok (.and 2 (.reg 3) (.queue .r 63)) ∧
  decode 0b00110000_01111111_11111110_10000001#32 = .ok (.addi 0 0x3FFF (l 1)) ∧
  decode 0b10000000_00001101_01111110_10000000#32 = .ok (.ldw 0 3 2 0x3F (l 0)) ∧
  decode 0b10010000_00000100_00000010_00000000#32 = .ok (.stw 0 1 0 1) ∧
  decode 0b00010100_01011111_11111111_11111111#32 = .ok (.br 0 5 0xFFFFF) ∧
  decode 0b00000010_00111000_00000000_10000010#32 = .ok (.read 7 .none (l 2)) ∧
  decode 0b00000111_01010111_10011011_00000000#32 = .ok (.genc 0xABCD (.queue .r 0)) ∧
  decode 0b11100000_00100100_00000000_00000000#32 = .ok (.trap 0 9) ∧
  decode 0b11100100_00000000_00000000_10000000#32 = .ok (.csrr 0 0 (l 0)) ∧
  decode 0#32 = .error .zeroWord ∧
  decode 0b00011110_00000000_00000000_00000000#32 = .error .unassignedOp ∧
  decode 0b00100000_01010000_00000000_00000000#32 = .error .xReserved ∧
  decode 0b00100000_00000000_00000000_00000001#32 = .error .targetReserved ∧
  decode 0b00010010_00010000_00000000_00000000#32 = .error .mustBeZero ∧
  decode 0b00111000_00000000_01000000_00000000#32 = .error .immRange ∧
  decode 0b00100000_00000000_00000001_01110000#32 = .error .portNotAllowed

/-- R32 to R44: decoding and encoding agree on every word. What the encoder makes of a well-formed instruction decodes to it, and every word that
decodes is the one word of a well-formed instruction; only the device's own steps have no word, and no word decodes to one. -/
def Obligations.DecodeAndEncodeAgree : Prop :=
  (∀ (i : Instr) (w : Word), i.wf = true → encode i = some w → decode w = .ok i) ∧
  (∀ (w : Word) (i : Instr), decode w = .ok i → i.wf = true ∧ encode i = some w) ∧
  (∀ (b0 b1 b2 b3 : Byte) (rest : List Byte) (i : Instr), decode (b3 ++ b2 ++ b1 ++ b0) = .ok i →
    decodeBytes (b0 :: b1 :: b2 :: b3 :: rest) = .ok (i, rest)) ∧
  (∀ (i : Instr) (w n : Nat), w < 2 ^ 32 → (decodeTableWord n w = some i ↔ i.wf = true ∧ encode i = some (BitVec.ofNat 32 w)))

/-- R6, R13, R153, R344, R366 and R412: a step is the next pending step's. A row of the device runs as exec runs it, unless its page's clocks are
gated or its page reloads, or it is a management command and one before it is under way; the end of that one lets those that wait act; a tile whose
turn it is fires the one eligible set, as the instruction that its word decodes to, between the taking of its operands and what follows a firing. -/
def Obligations.AStepRunsTheInstruction : Prop :=
  (∀ s : State, s.agenda = [] → step s = .next { s with now := s.now + 1 }) ∧
  (∀ (s : State) (t : Timed) (rest : List Timed) (i : Instr) (a : Args), s.agenda = t :: rest → t.act = .row i a →
    let u : State := { s with agenda := rest, now := max s.now t.ts, arg := a }
    let y := s.page a.p a.pg
    let x := s.part a.p
    (rowWaits i a y = false → x.cmds = [] → cmdRow i a = false ∨ u.cmdBusy a.p = false → step s = exec i u) ∧
    (rowWaits i a y = false → cmdRow i a = false → cmdEnd i = false → step s = exec i u) ∧
    (rowWaits i a y = false → cmdRow i a = true → u.cmdBusy a.p = true ∨ x.cmds ≠ [] →
      step s = .next (u.modPart a.p (fun x => { x with cmds := x.cmds ++ [(i, a)] }))) ∧
    (∀ t, rowWaits i a y = false → cmdRow i a = false → cmdEnd i = true → x.cmds ≠ [] →
      exec i (u.modPart a.p (fun x => { x with cmds := [] })) = .next t → step s = State.runCmds a.p x.cmds t) ∧
    (y.gated = false → y.reload = false → rowWaits i a y = false) ∧
    (pageLocal i a = true → y.reload = true → rowWaits i a y = true) ∧
    (rowWaits i a y = true →
      step s = .next (u.modPage a.p a.pg (fun y => { y with skid := y.skid ++ [(i, a)] })))) ∧
  (∀ (s : State) (p : Nat) (i : Instr) (a : Args) (l : List (Instr × Args)), State.runCmds p [] s = .next s ∧
    (s.cmdBusy p = true → State.runCmds p ((i, a) :: l) s = .next (s.modPart p (fun x => { x with cmds := (i, a) :: l }))) ∧
    (∀ t, s.cmdBusy p = false → exec i { s with arg := a } = .next t → State.runCmds p ((i, a) :: l) s = State.runCmds p l t)) ∧
  (∀ (s : State) (t : Timed) (rest : List Timed) (p pg tile : Nat), s.agenda = t :: rest → t.act = .fire p pg tile →
    let u : State := { s with agenda := rest, now := max s.now t.ts }
    let y := u.page p pg
    let free := (kget y.nextFire tile).getD 0
    ((∀ e ∈ y.ents, e.tile = tile → u.eligible p pg e = false) → step s = .next u) ∧
    (u.now < free → (∃ e ∈ y.ents, e.tile = tile ∧ u.eligible p pg e = true) → step s = .next (u.schedFire free p pg tile)) ∧
    (∀ (e : Entry) (a : Act) (i : Instr) (v : State), free ≤ u.now → y.ents.filter (fun d => d.tile == tile && u.eligible p pg d) = [e] →
      y.act? e.tag = some a → decode ((a.words[e.tile]?).getD 0) = .ok i → exec i (u.begin p pg a e ((a.words[e.tile]?).getD 0)) = .next v →
      u.lasting v p pg a ((a.words[e.tile]?).getD 0) = false ∨ (y.unsettled a e = false ∧ u.staleFor p pg e = []) →
      step s = .next ((v.after p pg e).askPromote p pg tile)) ∧
    (∀ (d e : Entry) (a : Act) (i : Instr) (v : State), free ≤ u.now → y.ents.filter (fun d => d.tile == tile && u.eligible p pg d) = [d, e] →
      u.goesFirst p pg e d = true → y.act? e.tag = some a → decode ((a.words[e.tile]?).getD 0) = .ok i →
      exec i (u.begin p pg a e ((a.words[e.tile]?).getD 0)) = .next v →
      u.lasting v p pg a ((a.words[e.tile]?).getD 0) = false ∨ (y.unsettled a e = false ∧ u.staleFor p pg e = []) →
      step s = .next ((v.after p pg e).askPromote p pg tile)) ∧
    (∀ (a : Act) (e : Entry) (w : Word), let b := u.begin p pg a e w
      b.mem = u.mem ∧ b.agenda = u.agenda ∧ b.cur.p = p ∧ b.cur.pg = pg ∧ b.cur.id = a.id ∧ b.cur.strand = a.strand ∧ b.cur.tile = e.tile ∧
      b.cur.tag = e.tag ∧ b.cur.word = w ∧ b.cur.fid = u.nextFid ∧ b.nextFid = u.nextFid + 1))

/-- R43: nothing stops. Every instruction answers a next state in every state, and a step of a state whose ready sets hold words that their block's
load has checked goes on. -/
def Obligations.NothingStops : Prop :=
  (∀ (i : Instr) (s : State), ∃ t, exec i s = .next t) ∧ (∀ s : State, s.loaded → s.goesOn) ∧ ∀ s : State, s.agenda = [] → s.goesOn

/-- Every step keeps memory and the list of full words in their one canonical form, whatever else it does; and no step moves the clock but to the time
of the pending step that it runs, or on by one fclk where nothing is pending (R6; the agenda is the model's, log 4). -/
def Obligations.EveryStepKeepsClockAndMemory : Prop :=
  ∀ s t : State, step s = .next t →
    (s.sound → t.sound) ∧ t.tsBase = s.tsBase ∧ s.now ≤ t.now ∧ (s.agenda = [] → t.now = s.now + 1) ∧
    (∀ x rest, s.agenda = x :: rest → t.now = max s.now x.ts)

/-- R7, R205, R241, R261 and R419: the machine at reset, its first step, which is the boot, and what a new partition and page hold. The values that
the spec does not state (the clock at 0, nothing in host memory) are the model's choices, log 2 and log 3. -/
def Obligations.ResetAndBoot : Prop :=
  State.reset.sound ∧ State.reset.power = .booting ∧ State.reset.parts = [] ∧ State.reset.mem = [] ∧ State.reset.fe = [] ∧
  (∃ t : State, step State.reset = .next t ∧ t.sound ∧ t.power = .on ∧ t.boot = (0, 0) ∧ t.clusters.length = 40 ∧ t.channels.length = 256 ∧
    t.parts = [] ∧ t.windows = [] ∧ t.fe = []) ∧
  (∀ n : Nat, let x : Part := { num := n }
    x.csrN 0x080 = 2 ∧ x.csrN 0x09F = 256 ∧ x.csrN 0x0AA = 64 ∧ bits (x.csrN 0x0B1) 4 0 = 16 ∧ bits (x.csrN 0x0B1) 31 16 = 1024 ∧ x.csrN 0x0C6 = 256 ∧
    (∀ d ∈ csrMap, d.num ∉ [0x080, 0x09F, 0x0AA, 0x0B1, 0x0C6] → x.csrN d.num = 0) ∧
    (∀ (s : State) (h : Nat), s.part n = x → x.inMemory h = false → (s.obj n h).st = .free) ∧ x.insts = [] ∧ x.objs = []) ∧
  (∀ n : Nat, let y : Page := { num := n }
    y.island.owner = none ∧ (∀ t ∈ y.island.tiles, t.st = .empty) ∧ y.island.tiles.length = 4 ∧ y.island.mode = 0 ∧ y.island.fmt = 0 ∧ y.island.win = 0 ∧
    y.cnv.owner = none ∧ y.ents = [] ∧ y.acts = [])

/-- R93, R95, R96: MOV, NULL, GENC, GENS, GENH and SEL. R94: BFLY, and FBFLY as two FP32 additions, each with its own event. -/
def Obligations.MovesAndButterflies : Prop :=
  (
    ∀ (s : State) (pr : BitVec 2) (imm : BitVec 16) (t1 t0 : Target),
      (s.cur.pRuns pr →
        exec (.mov pr t1 t0) s = .next (s.emit 1 t0 t1 (passed s.cur.firstOrigin (tokIn s.cur.l)) (passed s.cur.firstOrigin (tokIn s.cur.l))) ∧
        exec (.null pr t1 t0) s = .next (s.emit 1 t0 t1 (withPoison tokNull s.cur.firstOrigin) (withPoison tokNull s.cur.firstOrigin))) ∧
      (s.cur.verdict 0 = .run →
        exec (.genc imm t0) s = s.gives 1 .none t0 (BitVec.ofNat 32 imm.toNat) ∧
        exec (.gens imm t0) s = s.gives 1 .none t0 (BitVec.ofInt 32 imm.toInt) ∧
        exec (.genh imm t0) s = s.gives 1 .none t0 ((s.lv &&& 0x0000FFFF) ||| (BitVec.ofNat 32 imm.toNat <<< 16))) ∧
      (s.cur.verdict pr = .run →
        exec (.sel pr t1 t0) s =
          .next (s.emit 1 t0 t1 (passed s.cur.firstOrigin (if s.cv.getLsbD 0 then tokIn s.cur.l else tokIn s.cur.r))
            (passed s.cur.firstOrigin (if s.cv.getLsbD 0 then tokIn s.cur.l else tokIn s.cur.r))))) ∧
  (
    ∀ (s : State) (pr : BitVec 2) (t1 t0 : Target), s.cur.verdict pr = .run →
      exec (.bfly pr t1 t0) s = s.givesTwo 1 t1 t0 (s.lv + s.rv) (s.lv - s.rv) ∧
      (let sum := addNum s.rm (decodeF fp32 s.lv.toNat) (decodeF fp32 s.rv.toNat)
       let diff := addNum s.rm (decodeF fp32 s.lv.toNat) (decodeF fp32 s.rv.toNat).neg
       (s.cur.firstOrigin ≠ none ∨ (sum.2 = 0 ∧ diff.2 = 0) →
         exec (.fbfly pr t1 t0) s = s.givesTwo 4 t1 t0 (word sum.1) (word diff.1)) ∧
       (s.cur.firstOrigin = none → sum.2 ≠ 0 → diff.2 = 0 →
         exec (.fbfly pr t1 t0) s =
           .next ((s.origin sum.2).1.emit 4 t0 t1 (withPoison (tokV (word sum.1)) (some (s.origin sum.2).2)) (tokV (word diff.1)))) ∧
       (s.cur.firstOrigin = none → sum.2 = 0 → diff.2 ≠ 0 →
         exec (.fbfly pr t1 t0) s =
           .next ((s.origin diff.2).1.emit 4 t0 t1 (tokV (word sum.1)) (withPoison (tokV (word diff.1)) (some (s.origin diff.2).2))))))

/-- R97 and R99: every form of IALU. -/
def Obligations.IntegerAlu : Prop :=
  ∀ (s : State) (pr : BitVec 2) (t1 t0 : Target), s.cur.verdict pr = .run →
    exec (.add pr t1 t0) s = s.gives 1 t1 t0 (s.lv + s.rv) ∧
    exec (.sub pr t1 t0) s = s.gives 1 t1 t0 (s.lv - s.rv) ∧
    exec (.and pr t1 t0) s = s.gives 1 t1 t0 (s.lv &&& s.rv) ∧
    exec (.or pr t1 t0) s = s.gives 1 t1 t0 (s.lv ||| s.rv) ∧
    exec (.xor pr t1 t0) s = s.gives 1 t1 t0 (s.lv ^^^ s.rv) ∧
    exec (.andn pr t1 t0) s = s.gives 1 t1 t0 (s.lv &&& ~~~s.rv) ∧
    exec (.orn pr t1 t0) s = s.gives 1 t1 t0 (s.lv ||| ~~~s.rv) ∧
    exec (.xnor pr t1 t0) s = s.gives 1 t1 t0 (~~~(s.lv ^^^ s.rv)) ∧
    exec (.shl pr t1 t0) s = s.gives 1 t1 t0 (if s.rv.toNat < 32 then s.lv <<< s.rv.toNat else 0) ∧
    exec (.shr pr t1 t0) s = s.gives 1 t1 t0 (if s.rv.toNat < 32 then s.lv >>> s.rv.toNat else 0) ∧
    exec (.sar pr t1 t0) s =
      s.gives 1 t1 t0 (if s.rv.toNat < 32 then s.lv.sshiftRight s.rv.toNat else if s.lv.getLsbD 31 then 0xFFFFFFFF else 0) ∧
    exec (.rol pr t1 t0) s = s.gives 1 t1 t0 (s.lv <<< (s.rv.toNat % 32) ||| s.lv >>> (32 - s.rv.toNat % 32)) ∧
    exec (.ror pr t1 t0) s = s.gives 1 t1 t0 (s.lv >>> (s.rv.toNat % 32) ||| s.lv <<< (32 - s.rv.toNat % 32)) ∧
    exec (.min pr t1 t0) s = s.gives 1 t1 t0 (BitVec.ofInt 32 (Min.min s.lv.toInt s.rv.toInt)) ∧
    exec (.max pr t1 t0) s = s.gives 1 t1 t0 (BitVec.ofInt 32 (Max.max s.lv.toInt s.rv.toInt)) ∧
    exec (.minu pr t1 t0) s = s.gives 1 t1 t0 (BitVec.ofNat 32 (Min.min s.lv.toNat s.rv.toNat)) ∧
    exec (.maxu pr t1 t0) s = s.gives 1 t1 t0 (BitVec.ofNat 32 (Max.max s.lv.toNat s.rv.toNat)) ∧
    exec (.addc pr t1 t0) s =
      s.givesTwo 1 t1 t0 (BitVec.ofNat 32 (s.lv.toNat + s.rv.toNat + s.cv.toNat % 2))
        (if 2 ^ 32 ≤ s.lv.toNat + s.rv.toNat + s.cv.toNat % 2 then 1 else 0) ∧
    exec (.subb pr t1 t0) s =
      s.givesTwo 1 t1 t0 (BitVec.ofInt 32 ((s.lv.toNat : Int) - s.rv.toNat - (s.cv.toNat % 2 : Nat)))
        (if s.lv.toNat < s.rv.toNat + s.cv.toNat % 2 then 1 else 0) ∧
    exec (.absd pr t1 t0) s = s.gives 1 t1 t0 (BitVec.ofNat 32 (s.lv.toInt - s.rv.toInt).natAbs)

/-- R100 and R101: multiplication and division, with the kinds of their events. -/
def Obligations.MultiplyDivide : Prop :=
  ∀ (s : State) (pr : BitVec 2) (t1 t0 : Target), s.cur.verdict pr = .run →
    exec (.mul pr t1 t0) s = s.gives 3 t1 t0 (BitVec.ofNat 32 (s.lv.toNat * s.rv.toNat)) ∧
    exec (.mulh pr t1 t0) s = s.gives 3 t1 t0 (BitVec.ofInt 32 (s.lv.toInt * s.rv.toInt / 2 ^ 32)) ∧
    exec (.mulhu pr t1 t0) s = s.gives 3 t1 t0 (BitVec.ofNat 32 (s.lv.toNat * s.rv.toNat / 2 ^ 32)) ∧
    exec (.mulhsu pr t1 t0) s = s.gives 3 t1 t0 (BitVec.ofInt 32 (s.lv.toInt * s.rv.toNat / 2 ^ 32)) ∧
    exec (.madd pr t1 t0) s = s.gives 3 t1 t0 (s.lv * s.rv + s.cv) ∧
    exec (.msub pr t1 t0) s = s.gives 3 t1 t0 (s.cv - s.lv * s.rv) ∧
    (s.rv = 0 →
      exec (.div pr t1 t0) s = s.givesKind 20 t1 t0 0xFFFFFFFF 3 ∧ exec (.divu pr t1 t0) s = s.givesKind 20 t1 t0 0xFFFFFFFF 3 ∧
      exec (.rem pr t1 t0) s = s.givesKind 20 t1 t0 s.lv 3 ∧ exec (.remu pr t1 t0) s = s.givesKind 20 t1 t0 s.lv 3) ∧
    (s.lv = 0x80000000 → s.rv = 0xFFFFFFFF →
      exec (.div pr t1 t0) s = s.givesKind 20 t1 t0 0x80000000 4 ∧ exec (.rem pr t1 t0) s = s.givesKind 20 t1 t0 0 4) ∧
    (s.rv ≠ 0 → ¬(s.lv = 0x80000000 ∧ s.rv = 0xFFFFFFFF) →
      exec (.div pr t1 t0) s = s.gives 20 t1 t0 (BitVec.ofInt 32 (s.lv.toInt.tdiv s.rv.toInt)) ∧
      exec (.rem pr t1 t0) s = s.gives 20 t1 t0 (BitVec.ofInt 32 (s.lv.toInt - s.rv.toInt * s.lv.toInt.tdiv s.rv.toInt))) ∧
    (s.rv ≠ 0 →
      exec (.divu pr t1 t0) s = s.gives 20 t1 t0 (BitVec.ofNat 32 (s.lv.toNat / s.rv.toNat)) ∧
      exec (.remu pr t1 t0) s = s.gives 20 t1 t0 (BitVec.ofNat 32 (s.lv.toNat - s.rv.toNat * (s.lv.toNat / s.rv.toNat))))

/-- R102, and EXTR and INS on a field that lies in the word: the unary forms and the field forms. R104: the immediate forms. -/
def Obligations.UnaryAndImmediateForms : Prop :=
  (
    ∀ (s : State) (pr : BitVec 2) (t1 t0 : Target), s.cur.verdict pr = .run →
      exec (.neg pr t1 t0) s = s.gives 1 t1 t0 (0 - s.lv) ∧
      exec (.not pr t1 t0) s = s.gives 1 t1 t0 (~~~s.lv) ∧
      exec (.abs pr t1 t0) s = s.gives 1 t1 t0 (if 0 ≤ s.lv.toInt then s.lv else 0 - s.lv) ∧
      (∃ n, exec (.clz pr t1 t0) s = s.gives 1 t1 t0 (BitVec.ofNat 32 n) ∧ n ≤ 32 ∧ (∀ i, 32 - n ≤ i → s.lv.getLsbD i = false) ∧
        (n < 32 → s.lv.getLsbD (31 - n) = true)) ∧
      (∃ n, exec (.ctz pr t1 t0) s = s.gives 1 t1 t0 (BitVec.ofNat 32 n) ∧ n ≤ 32 ∧ (∀ i, i < n → s.lv.getLsbD i = false) ∧
        (n < 32 → s.lv.getLsbD n = true)) ∧
      exec (.popc pr t1 t0) s = s.gives 1 t1 t0 (BitVec.ofNat 32 ((List.range 32).countP (fun i => s.lv.getLsbD i))) ∧
      (∃ v : Word, exec (.brev pr t1 t0) s = s.gives 1 t1 t0 v ∧ ∀ i, i < 32 → v.getLsbD (31 - i) = s.lv.getLsbD i) ∧
      (∃ v : Word, exec (.bswap pr t1 t0) s = s.gives 1 t1 t0 v ∧
        ∀ i j, i < 4 → j < 8 → v.getLsbD (8 * (3 - i) + j) = s.lv.getLsbD (8 * i + j)) ∧
      exec (.sextb pr t1 t0) s = s.gives 1 t1 t0 (BitVec.signExtend 32 (BitVec.setWidth 8 s.lv)) ∧
      exec (.sexth pr t1 t0) s = s.gives 1 t1 t0 (BitVec.signExtend 32 (BitVec.setWidth 16 s.lv)) ∧
      exec (.zextb pr t1 t0) s = s.gives 1 t1 t0 (s.lv &&& 0x000000FF) ∧
      exec (.zexth pr t1 t0) s = s.gives 1 t1 t0 (s.lv &&& 0x0000FFFF) ∧
      (∀ (sgn : BitVec 1) (len lsb : BitVec 5), lsb.toNat + len.toNat + 1 ≤ 32 →
        (∃ v : Word, exec (.extr pr sgn len lsb t0) s = s.gives 1 .none t0 v ∧
          (∀ i, i ≤ len.toNat → v.getLsbD i = s.lv.getLsbD (lsb.toNat + i)) ∧
          (∀ i, len.toNat < i → i < 32 → v.getLsbD i = (decide (sgn = 1) && s.lv.getLsbD (lsb.toNat + len.toNat)))) ∧
        (∃ v : Word, exec (.ins pr sgn len lsb t0) s = s.gives 1 .none t0 v ∧
          (∀ i, i ≤ len.toNat → v.getLsbD (lsb.toNat + i) = s.rv.getLsbD i) ∧
          (∀ i, i < lsb.toNat ∨ lsb.toNat + len.toNat < i → v.getLsbD i = s.lv.getLsbD i)))) ∧
  (
    ∀ (s : State) (pr : BitVec 2) (imm : BitVec 14) (sh : BitVec 5) (t0 : Target), s.cur.verdict pr = .run →
      exec (.addi pr imm t0) s = s.gives 1 .none t0 (s.lv + BitVec.ofInt 32 imm.toInt) ∧
      exec (.andi pr imm t0) s = s.gives 1 .none t0 (s.lv &&& BitVec.ofInt 32 imm.toInt) ∧
      exec (.ori pr imm t0) s = s.gives 1 .none t0 (s.lv ||| BitVec.ofInt 32 imm.toInt) ∧
      exec (.xori pr imm t0) s = s.gives 1 .none t0 (s.lv ^^^ BitVec.ofInt 32 imm.toInt) ∧
      exec (.muli pr imm t0) s = s.gives 3 .none t0 (s.lv * BitVec.ofInt 32 imm.toInt) ∧
      exec (.shli pr sh t0) s = s.gives 1 .none t0 (s.lv <<< sh.toNat) ∧
      exec (.shri pr sh t0) s = s.gives 1 .none t0 (s.lv >>> sh.toNat) ∧
      exec (.sari pr sh t0) s = s.gives 1 .none t0 (s.lv.sshiftRight sh.toNat))

/-- R105 and R106: the tests, with a register and with an immediate. -/
def Obligations.IntegerTests : Prop :=
  ∀ (s : State) (pr : BitVec 2) (imm : BitVec 14) (t1 t0 : Target), s.cur.verdict pr = .run →
    let i : Word := BitVec.ofInt 32 imm.toInt
    exec (.teq pr t1 t0) s = s.gives 1 t1 t0 (if s.lv = s.rv then 1 else 0) ∧
    exec (.tne pr t1 t0) s = s.gives 1 t1 t0 (if s.lv ≠ s.rv then 1 else 0) ∧
    exec (.tlt pr t1 t0) s = s.gives 1 t1 t0 (if s.lv.toInt < s.rv.toInt then 1 else 0) ∧
    exec (.tle pr t1 t0) s = s.gives 1 t1 t0 (if s.lv.toInt ≤ s.rv.toInt then 1 else 0) ∧
    exec (.tgt pr t1 t0) s = s.gives 1 t1 t0 (if s.rv.toInt < s.lv.toInt then 1 else 0) ∧
    exec (.tge pr t1 t0) s = s.gives 1 t1 t0 (if s.rv.toInt ≤ s.lv.toInt then 1 else 0) ∧
    exec (.tltu pr t1 t0) s = s.gives 1 t1 t0 (if s.lv.toNat < s.rv.toNat then 1 else 0) ∧
    exec (.tleu pr t1 t0) s = s.gives 1 t1 t0 (if s.lv.toNat ≤ s.rv.toNat then 1 else 0) ∧
    exec (.tgtu pr t1 t0) s = s.gives 1 t1 t0 (if s.rv.toNat < s.lv.toNat then 1 else 0) ∧
    exec (.tgeu pr t1 t0) s = s.gives 1 t1 t0 (if s.rv.toNat ≤ s.lv.toNat then 1 else 0) ∧
    exec (.tbit pr t1 t0) s = s.gives 1 t1 t0 (if s.rv.toNat < 32 ∧ s.lv.getLsbD s.rv.toNat = true then 1 else 0) ∧
    exec (.teqi pr imm t0) s = s.gives 1 .none t0 (if s.lv = i then 1 else 0) ∧
    exec (.tnei pr imm t0) s = s.gives 1 .none t0 (if s.lv ≠ i then 1 else 0) ∧
    exec (.tlti pr imm t0) s = s.gives 1 .none t0 (if s.lv.toInt < i.toInt then 1 else 0) ∧
    exec (.tgei pr imm t0) s = s.gives 1 .none t0 (if i.toInt ≤ s.lv.toInt then 1 else 0) ∧
    exec (.tltui pr imm t0) s = s.gives 1 .none t0 (if s.lv.toNat < i.toNat then 1 else 0) ∧
    exec (.tgeui pr imm t0) s = s.gives 1 .none t0 (if i.toNat ≤ s.lv.toNat then 1 else 0)

/-- R92, R107, R108, R111, R112 and R113: each floating-point form is one rounding of the exact value of its operands as FP32 numbers, with its
latency and its event. -/
def Obligations.FloatArithmetic : Prop :=
  ∀ (s : State) (pr : BitVec 2) (t1 t0 : Target), s.cur.verdict pr = .run →
    let x := decodeF fp32 s.lv.toNat
    let y := decodeF fp32 s.rv.toNat
    let z := decodeF fp32 s.cv.toNat
    exec (.fadd pr t1 t0) s = s.givesNum 4 t1 t0 (addNum s.rm x y) ∧
    exec (.fsub pr t1 t0) s = s.givesNum 4 t1 t0 (addNum s.rm x y.neg) ∧
    exec (.fmul pr t1 t0) s = s.givesNum 4 t1 t0 (mulNum s.rm x y) ∧
    exec (.fma pr t1 t0) s = s.givesNum 4 t1 t0 (fmaNum s.rm x y z) ∧
    exec (.fms pr t1 t0) s = s.givesNum 4 t1 t0 (fmaNum s.rm x y z.neg) ∧
    exec (.fnma pr t1 t0) s = s.givesNum 4 t1 t0 (fmaNum s.rm x.neg y z) ∧
    exec (.fnms pr t1 t0) s = s.givesNum 4 t1 t0 (fmaNum s.rm x.neg y z.neg) ∧
    exec (.fdiv pr t1 t0) s = s.givesNum 14 t1 t0 (divNum s.rm x y) ∧
    exec (.fsqrt pr t1 t0) s = s.givesNum 14 t1 t0 (sqrtNum s.rm x) ∧
    exec (.frcpe pr t1 t0) s = s.givesNum 2 t1 t0 (rcpe x) ∧
    exec (.frsqe pr t1 t0) s = s.givesNum 2 t1 t0 (rsqe x)

/-- The special cases of R107, R108, R112 and R113, word by word. R107 and R111: the fused forms. Each completes on all operands; an invalid product
comes before a NaN; an infinite product or addend decides; and to a product of zero the signed addend is added unchanged. The flags say whether the
form negates the product, and the addend. -/
def Obligations.FloatSpecials : Prop :=
  (
    ∀ (s : State) (pr : BitVec 2) (t1 t0 : Target), s.cur.verdict pr = .run →
      let l := s.lv
      let r := s.rv
      let inf : Word := 0x7F800000
      let mag (w : Word) : Word := w &&& 0x7FFFFFFF
      let sgn : Word := (l ^^^ r) &&& 0x80000000
      (fpNaN l ∨ fpNaN r →
        exec (.fadd pr t1 t0) s = s.gives 4 t1 t0 0x7FC00000 ∧ exec (.fsub pr t1 t0) s = s.gives 4 t1 t0 0x7FC00000 ∧
        exec (.fmul pr t1 t0) s = s.gives 4 t1 t0 0x7FC00000 ∧ exec (.fdiv pr t1 t0) s = s.gives 14 t1 t0 0x7FC00000) ∧
      (mag l = inf → mag r = inf →
        exec (.fadd pr t1 t0) s = (if l = r then s.gives 4 t1 t0 l else s.givesKind 4 t1 t0 0x7FC00000 1) ∧
        exec (.fsub pr t1 t0) s = (if l = r then s.givesKind 4 t1 t0 0x7FC00000 1 else s.gives 4 t1 t0 l) ∧
        exec (.fmul pr t1 t0) s = s.gives 4 t1 t0 (inf ||| sgn) ∧
        exec (.fdiv pr t1 t0) s = s.givesKind 14 t1 t0 0x7FC00000 1) ∧
      ((mag l = inf ∧ mag r = 0) ∨ (mag l = 0 ∧ mag r = inf) → exec (.fmul pr t1 t0) s = s.givesKind 4 t1 t0 0x7FC00000 1) ∧
      (mag r = 0 → mag l = 0 → exec (.fdiv pr t1 t0) s = s.givesKind 14 t1 t0 0x7FC00000 1) ∧
      (mag r = 0 → mag l = inf → exec (.fdiv pr t1 t0) s = s.gives 14 t1 t0 (inf ||| sgn)) ∧
      (mag r = 0 → mag l ≠ 0 → (mag l).toNat < 0x7F800000 → exec (.fdiv pr t1 t0) s = s.givesKind 14 t1 t0 (inf ||| sgn) 2) ∧
      (fpNaN l → exec (.fsqrt pr t1 t0) s = s.gives 14 t1 t0 0x7FC00000 ∧ exec (.frcpe pr t1 t0) s = s.gives 2 t1 t0 0x7FC00000 ∧
        exec (.frsqe pr t1 t0) s = s.gives 2 t1 t0 0x7FC00000) ∧
      (l.getLsbD 31 = true → mag l ≠ 0 → ¬fpNaN l →
        exec (.fsqrt pr t1 t0) s = s.givesKind 14 t1 t0 0x7FC00000 1 ∧ exec (.frsqe pr t1 t0) s = s.givesKind 2 t1 t0 0x7FC00000 1) ∧
      (mag l = 0 → exec (.fsqrt pr t1 t0) s = s.gives 14 t1 t0 l ∧ exec (.frcpe pr t1 t0) s = s.givesKind 2 t1 t0 (inf ||| l) 2 ∧
        exec (.frsqe pr t1 t0) s = s.givesKind 2 t1 t0 (inf ||| l) 2) ∧
      (l = inf → exec (.fsqrt pr t1 t0) s = s.gives 14 t1 t0 l ∧ exec (.frcpe pr t1 t0) s = s.gives 2 t1 t0 0 ∧
        exec (.frsqe pr t1 t0) s = s.gives 2 t1 t0 0) ∧
      (l = 0xFF800000 → exec (.frcpe pr t1 t0) s = s.gives 2 t1 t0 0x80000000) ∧
      (mag r = 0 → mag l ≠ 0 → ¬fpNaN l → exec (.fadd pr t1 t0) s = s.gives 4 t1 t0 l ∧ exec (.fsub pr t1 t0) s = s.gives 4 t1 t0 l)) ∧
  (
    ∀ (s : State) (pr : BitVec 2) (t1 t0 : Target), s.cur.verdict pr = .run →
      ∀ z ∈ [(Instr.fma pr t1 t0, false, false), (.fms pr t1 t0, false, true), (.fnma pr t1 t0, true, false), (.fnms pr t1 t0, true, true)],
        let l := s.lv
        let r := s.rv
        let inf : Word := 0x7F800000
        let mag (w : Word) : Word := w &&& 0x7FFFFFFF
        let flip (b : Bool) : Word := if b then 0x80000000 else 0
        let product : Word := inf ||| (((l ^^^ r) &&& 0x80000000) ^^^ flip z.2.1)
        let addend : Word := s.cv ^^^ flip z.2.2
        let infZero : Prop := (mag l = inf ∧ mag r = 0) ∨ (mag l = 0 ∧ mag r = inf)
        let gives (w : Word) : Prop := exec z.1 s = s.gives 4 t1 t0 w
        let invalid : Prop := exec z.1 s = s.givesKind 4 t1 t0 0x7FC00000 1
        (∃ t, exec z.1 s = .next t) ∧
        (infZero → invalid) ∧
        (fpNaN l ∨ fpNaN r → gives 0x7FC00000) ∧
        (¬infZero → fpNaN s.cv → gives 0x7FC00000) ∧
        (mag l = inf ∨ mag r = inf → ¬infZero → ¬fpNaN l → ¬fpNaN r →
          ((mag s.cv).toNat < 0x7F800000 ∨ addend = product → gives product) ∧ (mag s.cv = inf → addend ≠ product → invalid)) ∧
        ((mag l).toNat < 0x7F800000 → (mag r).toNat < 0x7F800000 → mag s.cv = inf → gives addend) ∧
        (mag l = 0 ∨ mag r = 0 → (mag l).toNat < 0x7F800000 → (mag r).toNat < 0x7F800000 → (mag s.cv).toNat < 0x7F800000 → mag s.cv ≠ 0 → gives addend))

/-- R78: one rounding at a grid of 2^sh of the last place, by each mode of RM; a tie goes to the even multiple. -/
def Obligations.RoundingModes : Prop :=
  ∀ (neg : Bool) (m sh : Nat) (e q : Int), q = e + sh →
    let k := m / 2 ^ sh
    let up := if m % 2 ^ sh = 0 then k else k + 1
    roundAt .rtz neg m e q false = k ∧
    roundAt .up neg m e q false = (if neg then k else up) ∧
    roundAt .down neg m e q false = (if neg then up else k) ∧
    roundAt .rne neg m e q false =
      (if 2 * (m % 2 ^ sh) < 2 ^ sh then k else if 2 ^ sh < 2 * (m % 2 ^ sh) then k + 1 else if k % 2 = 0 then k else k + 1)

/-- R109 and R110: minimum, maximum and the sign forms, bit for bit. R114 and R115: the tests and the classes. -/
def Obligations.FloatSignsAndTests : Prop :=
  (
    ∀ (s : State) (pr : BitVec 2) (t1 t0 : Target), s.cur.verdict pr = .run →
      let l := s.lv
      let r := s.rv
      (fpNaN l → fpNaN r → exec (.fmin pr t1 t0) s = s.gives 1 t1 t0 0x7FC00000 ∧ exec (.fmax pr t1 t0) s = s.gives 1 t1 t0 0x7FC00000) ∧
      (fpNaN l → ¬fpNaN r → exec (.fmin pr t1 t0) s = s.gives 1 t1 t0 r ∧ exec (.fmax pr t1 t0) s = s.gives 1 t1 t0 r) ∧
      (¬fpNaN l → fpNaN r → exec (.fmin pr t1 t0) s = s.gives 1 t1 t0 l ∧ exec (.fmax pr t1 t0) s = s.gives 1 t1 t0 l) ∧
      (¬fpNaN l → ¬fpNaN r →
        exec (.fmin pr t1 t0) s = s.gives 1 t1 t0 (if fpRank l ≤ fpRank r then l else r) ∧
        exec (.fmax pr t1 t0) s = s.gives 1 t1 t0 (if fpRank l ≤ fpRank r then r else l)) ∧
      (fpNaN l → exec (.fabs pr t1 t0) s = s.gives 1 t1 t0 0x7FC00000 ∧ exec (.fneg pr t1 t0) s = s.gives 1 t1 t0 0x7FC00000 ∧
        exec (.fcopys pr t1 t0) s = s.gives 1 t1 t0 0x7FC00000) ∧
      (¬fpNaN l → exec (.fabs pr t1 t0) s = s.gives 1 t1 t0 (l &&& 0x7FFFFFFF) ∧
        exec (.fneg pr t1 t0) s = s.gives 1 t1 t0 (l ^^^ 0x80000000) ∧
        exec (.fcopys pr t1 t0) s = s.gives 1 t1 t0 ((l &&& 0x7FFFFFFF) ||| (r &&& 0x80000000)))) ∧
  (
    ∀ (s : State) (pr : BitVec 2) (t1 t0 : Target), s.cur.verdict pr = .run →
      let l := s.lv
      let r := s.rv
      let m := l.toNat % 2 ^ 31
      let minus := l.getLsbD 31
      (fpNaN l ∨ fpNaN r →
        exec (.fteq pr t1 t0) s = s.gives 1 t1 t0 0 ∧ exec (.ftlt pr t1 t0) s = s.gives 1 t1 t0 0 ∧
        exec (.ftle pr t1 t0) s = s.gives 1 t1 t0 0 ∧ exec (.ftun pr t1 t0) s = s.gives 1 t1 t0 1) ∧
      (¬fpNaN l → ¬fpNaN r →
        exec (.fteq pr t1 t0) s = s.gives 1 t1 t0 (if fpValue l = fpValue r then 1 else 0) ∧
        exec (.ftlt pr t1 t0) s = s.gives 1 t1 t0 (if fpValue l < fpValue r then 1 else 0) ∧
        exec (.ftle pr t1 t0) s = s.gives 1 t1 t0 (if fpValue l ≤ fpValue r then 1 else 0) ∧
        exec (.ftun pr t1 t0) s = s.gives 1 t1 t0 0) ∧
      exec (.fclass pr t1 t0) s = s.gives 1 t1 t0
        (if 0x7F800000 < m then 256
         else if m = 0x7F800000 then (if minus then 1 else 128)
         else if m = 0 then (if minus then 8 else 16)
         else if m < 0x00800000 then (if minus then 4 else 32)
         else (if minus then 2 else 64)))

/-- R92, R116 and R79's table of special values: a NaN and the infinities, by target. -/
def Obligations.Conversions : Prop :=
  ∀ (s : State) (pr : BitVec 2) (t1 t0 : Target), s.cur.verdict pr = .run →
    let minus := s.lv.getLsbD 31
    let canon (code : BitVec 5) : Word := if code = 4 then 0x7E00 else if code = 6 then 0x7FC0 else if code = 8 then 0x7F else 0x7F
    let signBit (code : BitVec 5) : Word :=
      if code = 4 ∨ code = 6 then 0x8000 else if code = 8 ∨ code = 10 then 0x80 else if code = 16 then 0x8 else 0x20
    let top (code : BitVec 5) : Word := if code = 8 then 0x7E else if code = 16 then 0x7 else 0x1F
    let infOf (code : BitVec 5) : Word := if code = 4 then 0x7C00 else if code = 6 then 0x7F80 else 0x7C
    let lim (code : BitVec 5) : Int × Int :=
      if code = 0 then (-2147483648, 2147483647) else if code = 1 then (0, 4294967295) else if code = 18 then (-32768, 32767)
      else if code = 19 then (-128, 127) else if code = 20 then (0, 255) else (-8, 7)
    (∀ code : BitVec 5,
      exec (.fcvt pr code t1 t0) s = s.givesNum 2 t1 t0 (convert code.toNat s.rm s.lv.toNat) ∧
      exec (.fcvts pr code t1 t0) s = s.givesNum 3 t1 t0
        (convert code.toNat (.stoch (stochWord s.cur.id s.cur.tile s.cur.tag.toNat s.curCommits)) s.lv.toNat)) ∧
    (∀ code ∈ ([0, 1, 18, 19, 20, 21] : List (BitVec 5)),
      (fpNaN s.lv → exec (.fcvt pr code t1 t0) s = s.givesKind 2 t1 t0 0 7 ∧ exec (.fcvts pr code t1 t0) s = s.givesKind 3 t1 t0 0 7) ∧
      (s.lv.toNat % 2 ^ 31 = 0x7F800000 →
        let v : Word := BitVec.ofInt 32 (if minus then (lim code).1 else (lim code).2)
        exec (.fcvt pr code t1 t0) s = s.givesKind 2 t1 t0 v 6 ∧ exec (.fcvts pr code t1 t0) s = s.givesKind 3 t1 t0 v 6)) ∧
    (∀ code ∈ ([4, 6, 8, 10] : List (BitVec 5)), fpNaN s.lv →
      let v : Word := canon code ||| (if minus then signBit code else 0)
      exec (.fcvt pr code t1 t0) s = s.gives 2 t1 t0 v ∧ exec (.fcvts pr code t1 t0) s = s.gives 3 t1 t0 v) ∧
    (∀ code ∈ ([12, 14, 16] : List (BitVec 5)), fpNaN s.lv →
      let v : Word := top code ||| (if minus then signBit code else 0)
      exec (.fcvt pr code t1 t0) s = s.givesKind 2 t1 t0 v 7 ∧ exec (.fcvts pr code t1 t0) s = s.givesKind 3 t1 t0 v 7) ∧
    (∀ code ∈ ([8, 12, 14, 16] : List (BitVec 5)), s.lv.toNat % 2 ^ 31 = 0x7F800000 →
      let v : Word := top code ||| (if minus then signBit code else 0)
      exec (.fcvt pr code t1 t0) s = s.givesKind 2 t1 t0 v 6 ∧ exec (.fcvts pr code t1 t0) s = s.givesKind 3 t1 t0 v 6) ∧
    (∀ code ∈ ([4, 6, 10] : List (BitVec 5)), s.lv.toNat % 2 ^ 31 = 0x7F800000 →
      let v : Word := infOf code ||| (if minus then signBit code else 0)
      exec (.fcvt pr code t1 t0) s = s.gives 2 t1 t0 v ∧ exec (.fcvts pr code t1 t0) s = s.gives 3 t1 t0 v)

/-- R117 and R119: the lanes. R118, R121 and R123: the dot forms, TDOT4 and QNT. -/
def Obligations.PackedAndDotForms : Prop :=
  (
    ∀ (s : State) (pr : BitVec 2) (t1 t0 : Target), s.cur.verdict pr = .run →
      let hl (i : Nat) : BitVec 16 := BitVec.ofNat 16 (s.lv.toNat / 65536 ^ i)
      let hr (i : Nat) : BitVec 16 := BitVec.ofNat 16 (s.rv.toNat / 65536 ^ i)
      let bl (i : Nat) : BitVec 8 := BitVec.ofNat 8 (s.lv.toNat / 256 ^ i)
      let br (i : Nat) : BitVec 8 := BitVec.ofNat 8 (s.rv.toNat / 256 ^ i)
      let halves (f : Nat → BitVec 16) : Word := f 1 ++ f 0
      let octets (f : Nat → BitVec 8) : Word := f 3 ++ f 2 ++ f 1 ++ f 0
      exec (.paddH pr t1 t0) s = s.gives 1 t1 t0 (halves (fun i => hl i + hr i)) ∧
      exec (.psubH pr t1 t0) s = s.gives 1 t1 t0 (halves (fun i => hl i - hr i)) ∧
      exec (.paddB pr t1 t0) s = s.gives 1 t1 t0 (octets (fun i => bl i + br i)) ∧
      exec (.psubB pr t1 t0) s = s.gives 1 t1 t0 (octets (fun i => bl i - br i)) ∧
      exec (.pmaxH pr t1 t0) s = s.gives 1 t1 t0 (halves (fun i => if (hl i).toInt ≤ (hr i).toInt then hr i else hl i)) ∧
      exec (.pminH pr t1 t0) s = s.gives 1 t1 t0 (halves (fun i => if (hl i).toInt ≤ (hr i).toInt then hl i else hr i)) ∧
      exec (.packH pr t1 t0) s = s.gives 1 t1 t0 (hr 0 ++ hl 0) ∧
      exec (.packB pr t1 t0) s = s.gives 1 t1 t0 (br 2 ++ br 0 ++ bl 2 ++ bl 0)) ∧
  (
    ∀ (s : State) (pr : BitVec 2) (t1 t0 : Target), s.cur.verdict pr = .run →
      let hl (i : Nat) : BitVec 16 := BitVec.ofNat 16 (s.lv.toNat / 65536 ^ i)
      let hr (i : Nat) : BitVec 16 := BitVec.ofNat 16 (s.rv.toNat / 65536 ^ i)
      let bl (i : Nat) : BitVec 8 := BitVec.ofNat 8 (s.lv.toNat / 256 ^ i)
      let br (i : Nat) : BitVec 8 := BitVec.ofNat 8 (s.rv.toNat / 256 ^ i)
      let sum (n : Nat) (f : Nat → Int) : Int := ((List.range n).map f).sum
      exec (.pdot4 pr t1 t0) s = s.gives 2 t1 t0 (s.cv + BitVec.ofInt 32 (sum 4 (fun i => (bl i).toInt * (br i).toInt))) ∧
      exec (.pdot4u pr t1 t0) s =
        s.gives 2 t1 t0 (s.cv + BitVec.ofInt 32 (sum 4 (fun i => ((bl i).toNat : Int) * ((br i).toNat : Int)))) ∧
      exec (.pdot2H pr t1 t0) s = s.gives 2 t1 t0 (s.cv + BitVec.ofInt 32 (sum 2 (fun i => (hl i).toInt * (hr i).toInt))) ∧
      (∀ group : BitVec 2,
        let code (i : Nat) : Nat := s.lv.toNat / 4 ^ (4 * group.toNat + i) % 4
        let v : Word := s.cv + BitVec.ofInt 32 (sum 4 (fun i => tritOf (code i) * (br i).toInt))
        ((∀ i, i < 4 → code i ≠ 2) → exec (.tdot4 pr group t1 t0) s = s.gives 2 t1 t0 v) ∧
        (¬(∀ i, i < 4 → code i ≠ 2) → exec (.tdot4 pr group t1 t0) s = s.givesKind 2 t1 t0 v 8)) ∧
      (∀ code : BitVec 5,
        let x := qntProduct (decodeF fp32 s.lv.toNat) (decodeF fp32 s.rv.toNat)
        let r := quantise code.toNat s.rm x.1
        exec (.qnt pr code t1 t0) s = s.givesNum 4 t1 t0 (r.1, if x.2 = 0 then r.2 else x.2)))

/-- R70, R71 and R120: TUNPK of four legal bytes, and of a word with illegal ones. R72 and R122: LCDEC, with the elements in quarters as E4M3 bytes.
-/
def Obligations.TritsAndCodebook : Prop :=
  (
    ∀ (s : State) (pr : BitVec 2) (t1 t0 : Target), s.cur.verdict pr = .run →
      let b (n : Nat) : Nat := s.lv.toNat / 256 ^ n % 256
      let code (j : Nat) : Nat := if 243 ≤ b (j / 5) then 2 else codeOfDigit (b (j / 5) / 3 ^ (j % 5) % 3)
      ∃ v0 v1 : Word,
        (∀ j, j < 16 → v0.toNat / 4 ^ j % 4 = code j) ∧ v1.toNat < 256 ∧ (∀ j, j < 4 → v1.toNat / 4 ^ j % 4 = code (16 + j)) ∧
        ((∀ n, n < 4 → b n < 243) → exec (.tunpk pr t1 t0) s = s.givesTwo 2 t1 t0 v0 v1) ∧
        (s.cur.firstOrigin ≠ none → exec (.tunpk pr t1 t0) s = s.givesTwo 2 t1 t0 v0 v1) ∧
        (s.cur.firstOrigin = none → (∃ n, n < 4 ∧ 243 ≤ b n) → b 3 < 243 →
          exec (.tunpk pr t1 t0) s =
            .next ((s.origin 8).1.emit 2 t0 t1 (withPoison (tokV v0) (some (s.origin 8).2)) (tokV v1)))) ∧
  (
    ∀ (s : State) (pr : BitVec 2) (t1 t0 : Target), s.cur.verdict pr = .run →
      let x (k : Nat) : Bool := s.lv.getLsbD k
      let m (j : Nat) : Int := if x (8 + j) then 6 else 2
      let v (j : Nat) : Int := if x (j + 1) then -m j else m j
      let t : Int := v 0 + v 1 + v 2 + v 3 + v 4 + v 5 + v 6 + m 7
      let off : Int := if x 0 then 1 else -1
      let e (j : Nat) : Int := (if j = 7 then (if t % 8 = 0 then m 7 else -m 7) else v j) + off
      let octet (q : Int) : BitVec 8 :=
        (if q < 0 then 0x80 else 0) ||| (if q.natAbs = 1 then 0x28 else if q.natAbs = 3 then 0x34 else if q.natAbs = 5 then 0x3A else 0x3E)
      t % 4 = 0 ∧
      exec (.lcdec pr t1 t0) s = s.givesTwo 1 t1 t0 (octet (e 3) ++ octet (e 2) ++ octet (e 1) ++ octet (e 0))
        (octet (e 7) ++ octet (e 6) ++ octet (e 5) ++ octet (e 4)))

/-- R16, R17 and R18: what PR, the P token and the operands' null flags decide. R91 and R92: the firing of a form of the chapter that is suppressed or
nulled, with the form's latency; MOV and NULL, whose null L passes, are nulled by P alone. -/
def Obligations.PredicationAndSuppression : Prop :=
  (
    ∀ (c : Cur) (pr : BitVec 2),
      (∀ t : Token, c.pt = some t → t.null = false → isNull c.l = false → isNull c.r = false → isNull c.c = false →
        (pr = 0 → c.verdict pr = .run) ∧
        (pr = 1 → t.val.getLsbD 0 = true → c.verdict pr = .run) ∧
        (pr = 1 → t.val.getLsbD 0 = false → c.verdict pr = if t.pois then .nulls (some t.origin) else .silent) ∧
        (pr = 2 → t.val.getLsbD 0 = false → c.verdict pr = .run) ∧
        (pr = 2 → t.val.getLsbD 0 = true → c.verdict pr = if t.pois then .nulls (some t.origin) else .silent) ∧
        (pr = 3 → t.val.getLsbD 0 = true → c.verdict pr = .run) ∧
        (pr = 3 → t.val.getLsbD 0 = false → c.verdict pr = if t.pois then .nulls (some t.origin) else .nulls none)) ∧
      (c.pt = none → c.verdict pr = if isNull c.l || isNull c.r || isNull c.c then .nulls c.firstOrigin else .run) ∧
      (isNull c.pt = true → c.verdict pr = .nulls c.firstOrigin) ∧
      (c.pRuns pr → (isNull c.l = true ∨ isNull c.r = true ∨ isNull c.c = true) → c.verdict pr = .nulls c.firstOrigin) ∧
      (c.firstOrigin = none ↔ (origOf c.l = none ∧ origOf c.r = none ∧ origOf c.c = none ∧ origOf c.pt = none)) ∧
      (∀ o, origOf c.l = some o → c.firstOrigin = some o) ∧
      (∀ o, origOf c.l = none → origOf c.r = some o → c.firstOrigin = some o) ∧
      (∀ o, origOf c.l = none → origOf c.r = none → origOf c.c = some o → c.firstOrigin = some o)) ∧
  (
    ∀ (s : State),
      (∀ (i : Instr) (lat : Nat) (pr : BitVec 2) (t1 t0 : Target), scalarForm i = some (lat, pr, t1, t0) →
        (s.cur.verdict pr = .silent → exec i s = .next s.silent) ∧
        (∀ o, s.cur.verdict pr = .nulls o → exec i s = .next (s.emit lat t0 t1 (withPoison tokNull o) (withPoison tokNull o)))) ∧
      (∀ (pr : BitVec 2) (t1 t0 : Target), ∀ i ∈ [Instr.mov pr t1 t0, Instr.null pr t1 t0],
        (isNull s.cur.pt = true →
          exec i s = .next (s.emit 1 t0 t1 (withPoison tokNull s.cur.firstOrigin) (withPoison tokNull s.cur.firstOrigin))) ∧
        (isNull s.cur.pt = false → predOf pr s.cur.pt = .silent → exec i s = .next s.silent) ∧
        (∀ o, isNull s.cur.pt = false → predOf pr s.cur.pt = .nulls o →
          exec i s = .next (s.emit 1 t0 t1 (withPoison tokNull o) (withPoison tokNull o)))))

/-- R5, R13, R36 and R92: what sending the results of a firing does: they leave after its latency, and not before those of the tile's earlier firings;
the tokens' arrivals join the agenda, the firing's record and its page note when they leave, and nothing else changes. -/
def Obligations.EmissionEffect : Prop :=
  ∀ (s : State) (lat : Nat) (t0 t1 : Target) (r0 r1 : Token),
    let t := s.emit lat t0 t1 r0 r1
    let leaves := max (s.now + lat) ((kget (s.page s.cur.p s.cur.pg).lastOut s.cur.tile).getD 0)
    (∀ x ∈ [(t0, r0), (t1, r1)], x.1 ≠ .none → ∀ tag, s.carryTag s.cur x.1 = some tag → s.arrivalOf leaves x.1 tag x.2 ∈ t.agenda) ∧
    (∀ x ∈ s.agenda, x ∈ t.agenda) ∧
    (∀ z ∈ t.agenda, z ∈ s.agenda ∨ ∃ x ∈ [(t0, r0), (t1, r1)], ∃ tag, x.1 ≠ .none ∧ s.carryTag s.cur x.1 = some tag ∧
      z = s.arrivalOf leaves x.1 tag x.2) ∧
    { t with parts := s.parts, agenda := s.agenda } = s ∧
    t.parts = ((s.modPage s.cur.p s.cur.pg (fun y => { y.stir s.cur.id leaves with lastOut := kset y.lastOut s.cur.tile leaves })).modFire
      s.cur.p s.cur.pg s.cur.fid (fun f => { f with leaves := leaves, phase := .run })).parts

/-- R89: the frame of every instruction of the chapter. No memory, register, window, CSR, synchronisation object, queued token or other firing
changes, but for the log entries of new origins (R83) with their count. -/
def Obligations.ScalarFrame : Prop :=
  ∀ (s t : State) (i : Instr), (scalarForm i ≠ none ∨ ∃ pr t1 t0, i = .mov pr t1 t0 ∨ i = .null pr t1 t0) → exec i s = .next t → s.sound →
    t.core = s.core ∧
    (∀ p, (t.part p).core = (s.part p).core) ∧
    (∀ p pg, (t.page p pg).core = (s.page p pg).core) ∧
    (∀ p pg n, (p, pg, n) ≠ (s.cur.p, s.cur.pg, s.cur.fid) → (t.page p pg).fire? n = (s.page p pg).fire? n) ∧
    (∀ p n, (p, n) ≠ (s.cur.p, 0x098) → (t.part p).csrN n = (s.part p).csrN n) ∧
    (∀ a, (∀ pa, s.originPlace = some pa → a < pa ∨ pa + 32 ≤ a) →
      (∀ k pa, (∃ pr t1 t0, i = .fbfly pr t1 t0 ∨ i = .tunpk pr t1 t0) → (s.origin k).1.originPlace = some pa → a < pa ∨ pa + 32 ≤ a) →
      Mem.byte t.mem a = Mem.byte s.mem a) ∧
    (s.cur.firstOrigin ≠ none → t.mem = s.mem ∧ ∀ p n, (t.part p).csrN n = (s.part p).csrN n)

/-- R10, R19, R124 and R158: READ sends the register as the activation holds it, with its poison and origin, to both targets. R129 and R130: STEER,
STEERF and MERGE route a token with its flags, and what they make of nulls. -/
def Obligations.ReadsAndRouting : Prop :=
  (
    ∀ (s : State) (g : BitVec 6) (t1 t0 : Target) (a : Act) (r : Reg), (s.page s.cur.p s.cur.pg).act? s.cur.tag = some a →
      a.regs[g.toNat]? = some r →
      (r.pois = false → exec (.read g t1 t0) s = .next (s.emit 1 t0 t1 (tokV r.val) (tokV r.val))) ∧
      (r.pois = true → exec (.read g t1 t0) s =
        .next (s.emit 1 t0 t1 (withPoison (tokV r.val) (some r.origin)) (withPoison (tokV r.val) (some r.origin))))) ∧
  (
    ∀ (s : State) (pr : BitVec 2) (t1 t0 : Target), s.cur.pRuns pr →
      let l := passed s.cur.firstOrigin (tokIn s.cur.l)
      let r := passed s.cur.firstOrigin (tokIn s.cur.r)
      let null := withPoison tokNull s.cur.firstOrigin
      let nullL : Token := { null with eof := (tokIn s.cur.l).eof, scale := (tokIn s.cur.l).scale, coord := (tokIn s.cur.l).coord }
      (s.cur.anyNull = false →
        exec (.steer pr t1 t0) s = .next (if s.rv.getLsbD 0 then s.emit 1 t0 .none l l else s.emit 1 .none t1 l l) ∧
        exec (.steerf pr t1 t0) s = .next (if (tokIn s.cur.l).eof then s.emit 1 t0 .none l l else s.emit 1 .none t1 l l)) ∧
      (s.cur.anyNull = true →
        exec (.steer pr t1 t0) s = .next (s.emit 1 t0 t1 nullL nullL) ∧ exec (.steerf pr t1 t0) s = .next (s.emit 1 t0 t1 nullL nullL)) ∧
      (isNull s.cur.c = true → exec (.merge pr t1 t0) s = .next (s.emit 1 t0 t1 null null)) ∧
      (isNull s.cur.c = false → exec (.merge pr t1 t0) s = .next (if s.cv.getLsbD 0 then s.emit 1 t0 t1 l l else s.emit 1 t0 t1 r r)))

/-- R16, R28, R126, R127 and R176: the exits. The exit token reaches its block one fclk after the firing, with the address of the next block and the
exit's number; a firing that is nulled or suppressed sends none. R155 and R168: LOOP latches its count and the address of its body, unless the count
is 0; suppressed or nulled it counts as settled too; in a handler activation it raises DEPTH. -/
def Obligations.ExitsAndLoops : Prop :=
  (
    ∀ (s : State) (pr : BitVec 2) (exit : BitVec 3) (off : BitVec 20),
      let blk := s.curAct.blk
      let sent (s : State) (addr num : Nat) (ret : Bool) : State :=
        { s with
          agenda := insTimed ⟨s.now + 1, 0, srcOf s.cur.pg s.cur.tile, .row .tokenArrival
            { p := s.cur.p, pg := s.cur.pg, tag := s.cur.tag, fid := s.cur.fid, tg := .none, l := [addr, num, s.cur.tile, if ret then 1 else 0] }⟩ s.agenda
          parts := (s.modFire s.cur.p s.cur.pg s.cur.fid (fun f => { f with leaves := s.now + 1, phase := .run })).parts }
      (s.cur.verdict pr = .run →
        exec (.br pr exit off) s = .next (sent s (((blk : Int) + 8 * off.toInt) % 2 ^ 64).toNat exit.toNat false) ∧
        (∀ r, s.cur.r = some r → exec (.brr pr exit) s = .next (sent s (r.val.toNat * 2 ^ 32 + s.lv.toNat) exit.toNat false)) ∧
        (s.cur.r = none → exec (.brr pr exit) s = .next (sent s (blk - blk % 2 ^ 32 + s.lv.toNat) exit.toNat false)) ∧
        (s.curAct.role = .main → s.curAct.strand = 0 → hdrKind s.curAct.hdr ≠ 3 →
          exec (.ret pr) s = .next (sent (s.modInst s.cur.p s.cur.id (fun i => { i with res0 := s.cur.l, res1 := s.cur.r })) 0 0 true)) ∧
        (¬(s.curAct.role = .main ∧ s.curAct.strand = 0 ∧ hdrKind s.curAct.hdr ≠ 3) → exec (.ret pr) s = .next (sent s 0 0 true))) ∧
      (s.cur.verdict pr ≠ .run →
        exec (.br pr exit off) s = .next s.silent ∧ exec (.brr pr exit) s = .next s.silent ∧ exec (.ret pr) s = .next s.silent)) ∧
  (
    ∀ (s : State) (pr : BitVec 2) (off : BitVec 20) (a : Act), (s.page s.cur.p s.cur.pg).act? s.cur.tag = some a →
      let body := (((a.blk : Int) + 8 * off.toInt) % 2 ^ 64).toNat
      let after (t : State) : Option Act := (t.page s.cur.p s.cur.pg).act? s.cur.tag
      (s.cur.verdict pr = .run → a.ofStrand = true → s.lv ≠ 0 →
        ∃ t, exec (.loop pr off) s = .next t ∧
          after t = some { a with settled := a.settled ++ [s.cur.tile], latched := some (s.lv.toNat, body, s.cur.tile, s.cur.fid) }) ∧
      (s.cur.verdict pr = .run → a.ofStrand = true → s.lv = 0 →
        ∃ t, exec (.loop pr off) s = .next t ∧ after t = some { a with settled := a.settled ++ [s.cur.tile] }) ∧
      (s.cur.verdict pr ≠ .run →
        ∃ t, exec (.loop pr off) s = .next t ∧ after t = some { a with settled := a.settled ++ [s.cur.tile] }) ∧
      (s.cur.verdict pr = .run → a.ofStrand = false → exec (.loop pr off) s = .next (s.trap 0x07 1 0)))

/-- R164 and R165: the fibre operations on coordinates below 2^30, end-of-fibre tokens and plain nulls. -/
def Obligations.FibreForms : Prop :=
  ∀ (s : State) (pr : BitVec 2) (t1 t0 : Target), s.cur.pRuns pr →
    let l := tokIn s.cur.l
    let r := tokIn s.cur.r
    let sends (t : Token) : Out := .next (s.emit 1 t0 t1 (withPoison t s.cur.firstOrigin) (withPoison t s.cur.firstOrigin))
    let eof (v : Word) : Token := { val := v, null := true, eof := true }
    let lc := l.val.toNat
    let rc := r.val.toNat
    let coord (code v : Nat) : Token := { val := BitVec.ofNat 32 (code * 2 ^ 30 + v), coord := true }
    let bare (code v : Nat) : Token := { val := BitVec.ofNat 32 (code * 2 ^ 30 + v) }
    (l.null = true → l.eof = false → ∀ i ∈ [Instr.fibIsect pr t1 t0, .fibUnion pr t1 t0, .fibEoft pr t1 t0, .fibMkeof pr t1 t0, .fibMkcrd pr t1 t0],
      exec i s = sends tokNull) ∧
    (r.null = true → r.eof = false → exec (.fibIsect pr t1 t0) s = sends tokNull ∧ exec (.fibUnion pr t1 t0) s = sends tokNull) ∧
    (l.null = false → r.null = false → lc < 2 ^ 30 → rc < 2 ^ 30 →
      exec (.fibIsect pr t1 t0) s = sends (if lc = rc then coord 3 lc else if lc < rc then bare 1 lc else bare 2 rc) ∧
      exec (.fibUnion pr t1 t0) s = sends (if lc = rc then coord 3 lc else if lc < rc then coord 1 lc else coord 2 rc)) ∧
    (l.null = true → l.eof = true → r.null = false →
      exec (.fibIsect pr t1 t0) s = sends (eof 0) ∧ (rc < 2 ^ 30 → exec (.fibUnion pr t1 t0) s = sends (coord 2 rc))) ∧
    (l.null = false → r.null = true → r.eof = true →
      exec (.fibIsect pr t1 t0) s = sends (eof 0) ∧ (lc < 2 ^ 30 → exec (.fibUnion pr t1 t0) s = sends (coord 1 lc))) ∧
    (l.null = true → l.eof = true → r.null = true → r.eof = true →
      exec (.fibIsect pr t1 t0) s = sends (eof 0) ∧ exec (.fibUnion pr t1 t0) s = sends (eof 0)) ∧
    (l.null = false ∨ l.eof = true →
      exec (.fibEoft pr t1 t0) s = sends (tokV (if l.eof then 1 else 0)) ∧ exec (.fibMkeof pr t1 t0) s = sends (eof l.val) ∧
      (lc < 2 ^ 30 → exec (.fibMkcrd pr t1 t0) s = sends { val := l.val, coord := true }))

/-- R145 to R147 and R230: the windows that SETW sets at the commit, and the fences. A fence answers after the latency of its scope; a releasing one
makes its instance's committed stores visible first. -/
def Obligations.WindowsAndFences : Prop :=
  ∀ (s : State) (pr : BitVec 2) (w : BitVec 3) (scope : BitVec 3) (t1 t0 : Target), s.cur.verdict pr = .run →
    let tok := withPoison (tokV 0) s.cur.firstOrigin
    let sets (part : Nat) (v : DWord) : Out :=
      .next ((s.modAct s.cur.p s.cur.pg s.cur.tag (fun a => { a with setws := a.setws ++ [(s.cur.tile, w.toNat, part, v)] })).emit 1 t0 t1 tok tok)
    let lat : Nat := match scope.toNat with
      | 0 => 1
      | 1 => 6
      | 2 => 16
      | 3 => 40
      | 4 => 60
      | _ => 900
    exec (.setwBase pr w t1 t0) s = sets 0 (s.rv ++ s.lv) ∧
    exec (.setwLim pr w t1 t0) s = sets 1 (s.rv ++ s.lv) ∧
    exec (.setwAttr pr w t1 t0) s = sets 2 (0#32 ++ s.lv) ∧
    exec (.fenceAcq pr scope t1 t0) s = .next (s.emit lat t0 t1 tok tok) ∧
    (∀ i ∈ [Instr.fenceRel pr scope t1 t0, .fenceAr pr scope t1 t0, .fenceSc pr scope t1 t0],
      exec i s = .next ((s.flush s.cur.p s.cur.id).emit lat t0 t1 tok tok)) ∧
    ∀ v ∈ ((s.flush s.cur.p s.cur.id).part s.cur.p).posted, v.id ≠ s.cur.id

/-- R131 and R132: the checks of an access, in their order; each is made only where the earlier ones pass. -/
def Obligations.AccessChecks : Prop :=
  ∀ (s : State) (p w : Nat) (win : Win) (va size : Nat) (a : AccKind), 0 < size →
    let kind := win.attr.toNat % 4
    let st := if a.store then 256 else 0
    let far := if kind = 2 then 0xFFFFFFFF else 0xFFFFFFFFFFFF
    let refused := kind = 0 ∨ win.base.toNat + win.limit.toNat < va + size - 1 ∨ far < va + size - 1
    let noBits := a.fe = true ∧ kind ≠ 2
    let denied := (a.store = false ∧ win.attr.getLsbD 2 = false) ∨ (a.store = true ∧ win.attr.getLsbD 3 = false) ∨
      (a.stm = true ∧ (kind ≠ 1 ∨ win.attr.getLsbD 8 = false))
    let stm := if a.stm then 1024 else 0
    let r := s.checkAccess p w win va size a
    (refused → r = .error (0x01, w + size * 16 + st)) ∧
    (¬refused → noBits → r = .error (0x0B, 0)) ∧
    (¬refused → ¬noBits → va % size ≠ 0 → r = .error (0x04, size)) ∧
    (¬refused → ¬noBits → va % size = 0 → denied → r = .error (0x03, st + stm)) ∧
    (¬refused → va % size = 0 → ¬denied → kind = 2 →
      (∀ k, (s.part p).fabKey va = some k → r = .ok (k, 0)) ∧ ((s.part p).fabKey va = none → r = .error (0x02, st + 1024))) ∧
    (¬refused → ¬noBits → va % size = 0 → ¬denied → kind ≠ 2 → ∀ k, s.walkFail (s.part p) va = some k → r = .error (255, k)) ∧
    (¬refused → ¬noBits → va % size = 0 → ¬denied → kind ≠ 2 → s.walkFail (s.part p) va = none →
      (∀ level, s.translate (s.part p) va = .error level → r = .error (0x02, level + st)) ∧
      (∀ l, s.translate (s.part p) va = .ok l →
        let barred := (a.store = false ∧ Pte.r l.pte = false) ∨ (a.store = true ∧ (s.part p).mayWrite l = false) ∨
          (a.stm = true ∧ Pte.mc l.pte = false)
        (barred → r = .error (0x03, st + stm)) ∧ (¬barred → r = .ok (l.pa, l.pte))))

/-- R131, R132, R134 and R147: a load that fires asks memory for its bytes, or traps; its firing waits for the reply. R17, R23, R85, R132, R135 and
R137: an ordinary store that fires goes to the store buffer one fclk later, or traps; poisoned, through a window with PT set, it traps after the
checks; nulled, it counts its LSID. -/
def Obligations.LoadsAndStoresFire : Prop :=
  (
    ∀ (s : State) (pr : BitVec 2) (lsid : BitVec 5) (w : BitVec 3) (off : BitVec 6) (t0 : Target),
      let win := s.winOf w.toNat
      ∀ x ∈ [(Instr.ldw pr lsid w off t0, 4), (.ldh pr lsid w off t0, 2), (.ldhu pr lsid w off t0, 2), (.ldb pr lsid w off t0, 1),
          (.ldbu pr lsid w off t0, 1)],
        let size := x.2
        let va := win.base.toNat + s.lv.toNat + off.toNat * size
        let r := s.checkAccess s.cur.p w.toNat win va size {}
        let kind := bits win.attr.toNat 1 0
        (∀ key pte, s.cur.verdict pr = .run → r = .ok (key, pte) → (s.part s.cur.p).watch kind va size true false = none →
          ∃ t u, exec x.1 s = .next t ∧
            u = s.modFire s.cur.p s.cur.pg s.cur.fid (fun f => { f with
              phase := .out, lsid := lsid.toNat, va := va, key := key, size := size, aux := [kind, if isSO kind pte then 1 else 0, 0, 0] }) ∧
            t.parts = u.parts ∧ t.mem = s.mem ∧
            (∃ at' x', ⟨at', 0, srcOf s.cur.pg s.cur.tile, .row .loadReply
              { p := s.cur.p, pg := s.cur.pg, fid := s.cur.fid, tag := s.cur.tag, x := x' }⟩ ∈ t.agenda ∧
              ((x' = 1 ∧ at' = s.now + 2) ∨
               (x' = 0 ∧ at' = s.now + (s.loadLegs s.cur.p s.cur.pg s.cur.tile kind va key).1)))) ∧
        (∀ code detail, s.cur.verdict pr = .run → r = .error (code, detail) → exec x.1 s = .next (s.trap code detail (if code = 255 then detail else va))) ∧
        (∀ o, s.cur.verdict pr = .nulls o → exec x.1 s = .next (s.emit 1 t0 .none (withPoison tokNull o) (withPoison tokNull o))) ∧
        (s.cur.verdict pr = .silent → exec x.1 s = .next s.silent)) ∧
  (
    ∀ (s : State) (pr : BitVec 2) (lsid : BitVec 5) (w : BitVec 3) (off : BitVec 6),
      let win := s.winOf w.toNat
      ∀ x ∈ [(Instr.stw pr lsid w off, 4, false), (.sth pr lsid w off, 2, false), (.stb pr lsid w off, 1, false), (.stm pr lsid w off, 4, true)],
        let size := x.2.1
        let va := win.base.toNat + s.lv.toNat + off.toNat * size
        let r := s.checkAccess s.cur.p w.toNat win va size { store := true, stm := x.2.2 }
        let kind := bits win.attr.toNat 1 0
        let perform (y : Nat) (l : List Nat) : Timed := ⟨s.now + 1, 0, srcOf s.cur.pg s.cur.tile, .row .storeBufferPerform
          { p := s.cur.p, pg := s.cur.pg, fid := s.cur.fid, tag := s.cur.tag, x := lsid.toNat, y := y, l := l }⟩
        (∀ key pte, s.cur.verdict pr = .run → r = .ok (key, pte) → (s.part s.cur.p).watch kind va size false true = none →
          (s.cur.storeOrigin = none ∨ win.attr.getLsbD 4 = false) →
          ∃ t u, exec x.1 s = .next t ∧
            u = s.modFire s.cur.p s.cur.pg s.cur.fid (fun f => { f with
              leaves := s.now + 1, phase := .run, lsid := lsid.toNat, va := va, key := key, size := size,
              aux := [kind, if isSO kind pte then 1 else 0, bits win.attr.toNat 7 5] }) ∧
            t.parts = u.parts ∧ t.mem = s.mem ∧ perform 0 [] ∈ t.agenda) ∧
        (∀ o key pte, s.cur.verdict pr = .run → r = .ok (key, pte) → (s.part s.cur.p).watch kind va size false true = none →
          s.cur.storeOrigin = some o → win.attr.getLsbD 4 = true → exec x.1 s = .next (s.trap 0x08 o.toNat va)) ∧
        (∀ code detail, s.cur.verdict pr = .run → r = .error (code, detail) → exec x.1 s = .next (s.trap code detail (if code = 255 then detail else va))) ∧
        (∀ o, s.cur.verdict pr = .nulls o →
          ∃ t, exec x.1 s = .next t ∧ perform 1 (match o with
            | some n => [n.toNat]
            | none => []) ∈ t.agenda) ∧
        (s.cur.verdict pr = .silent → exec x.1 s = .next s.silent))

/-- R132, R138 and R139: a full/empty operation that fires sets out for its word, or traps. R138 and R139: what each full/empty operation does at its
word, with no access parked there. -/
def Obligations.FullEmptyOperations : Prop :=
  (
    ∀ (s : State) (pr : BitVec 2) (lsid : BitVec 5) (w : BitVec 3) (off : BitVec 6) (t0 : Target), s.cur.verdict pr = .run →
      let win := s.winOf w.toNat
      let va := win.base.toNat + s.lv.toNat + off.toNat * 4
      let kind := bits win.attr.toNat 1 0
      ∀ x ∈ [(Instr.ldf pr lsid w off t0, false), (.ldx pr lsid w off t0, false), (.ste pr lsid w off, true), (.stf pr lsid w off, true),
          (.clre pr lsid w off, true)],
        let r := s.checkAccess s.cur.p w.toNat win va 4 { store := x.2, fe := true }
        (∀ key pte, r = .ok (key, pte) → (s.part s.cur.p).watch kind va 4 true true = none →
          (s.cur.storeOrigin = none ∨ win.attr.getLsbD 4 = false ∨ x.1 = .clre pr lsid w off ∨ x.2 = false) →
          ∃ t u, exec x.1 s = .next t ∧
            u = s.modFire s.cur.p s.cur.pg s.cur.fid (fun f => { f with
              phase := .out, lsid := lsid.toNat, va := va, key := key, size := 4
              aux := [kind, ((s.curInst.reFe.findIdx? (fun z => z == (s.cur.tag, s.cur.tile))).map (· + 1)).getD 0] }) ∧
            t.parts = u.parts ∧ t.mem = s.mem ∧ t.fe = s.fe ∧
            ⟨s.now + 1 + (s.part s.cur.p).pathCost s.cur.pg s.cur.tile (fabPage va) (fabTile va), 0, srcOf s.cur.pg s.cur.tile, .row .fullEmptyAct
              { p := s.cur.p, pg := s.cur.pg, fid := s.cur.fid, tag := s.cur.tag }⟩ ∈ t.agenda) ∧
        (∀ code detail, r = .error (code, detail) → exec x.1 s = .next (s.trap code detail (if code = 255 then detail else va)))) ∧
  (
    ∀ (s : State) (f : Fire), (s.page s.arg.p s.arg.pg).fire? s.arg.fid = some f → f.acted = false → (s.part s.arg.p).feq = [] →
      (s.part s.arg.p).posted = [] → (f.aux[1]?).getD 0 = 0 →
      (s.arg.y = 1 ∨ ∀ k, kget (s.page s.arg.p (fabPage f.va)).sram (fabTile f.va) = some k → k < s.now) →
      (∀ a, (s.page s.arg.p s.arg.pg).act? f.tag = some a → a.lsidDone f.lsid = false) →
      let op := (opF f.word).toNat
      let data := valOf (f.r.map Arr.tok)
      let stored := Mem.sets s.mem f.key (leBytes 4 data.toNat)
      ∃ t, exec .fullEmptyAct s = .next t ∧
        (op = 0x45 → t.mem = s.mem ∧ t.fe = s.fe) ∧
        (op = 0x46 → f.key ∈ s.fe → t.mem = s.mem ∧ t.fe = Fe.clr s.fe f.key) ∧
        (op = 0x46 → f.key ∉ s.fe → t.mem = s.mem ∧ t.fe = s.fe) ∧
        (op = 0x4B → f.key ∉ s.fe → t.mem = stored ∧ t.fe = Fe.set s.fe f.key) ∧
        (op = 0x4B → f.key ∈ s.fe → t.mem = s.mem ∧ t.fe = s.fe) ∧
        (op = 0x4C → t.mem = stored ∧ t.fe = Fe.set s.fe f.key) ∧
        (op = 0x4D → t.mem = s.mem ∧ t.fe = Fe.clr s.fe f.key) ∧
        (op = 0x45 ∨ op = 0x46 → f.key ∉ s.fe → (t.part s.arg.p).feq.any (fun v => v.key == f.key && v.fid == f.fid) = true) ∧
        (op = 0x4B → f.key ∈ s.fe → (t.part s.arg.p).feq.any (fun v => v.key == f.key && v.fid == f.fid) = true))

/-- R20, R134, R147 and R205: the reply of a load. At memory (x = 0), for tile SRAM in the slot that it gives the access, the bytes are read, with the
agent's own committed stores over them, and as its younger loads have read them; back at the tile, buffered stores that the load sees stand over the
bytes read, and the value leaves with the operands' poison, never with any from memory. -/
def Obligations.LoadReplies : Prop :=
  ∀ (s : State) (f : Fire), (s.page s.arg.p s.arg.pg).fire? s.arg.fid = some f → f.phase = .out →
    let p := s.arg.p
    let pg := s.arg.pg
    let fw := (s.page p pg).forward f
    let octet (i : Nat) : Nat := (((fw[i]?).getD none).getD ((f.got[i]?).getD 0)).toNat
    let kind := (f.aux[0]?).getD 0
    let turn := max s.now (((kget (s.page p (fabPage f.va)).sram (fabTile f.va)).map (· + 1)).getD 0)
    let u := if kind = 2 ∧ s.arg.y ≠ 1 then s.modPage p (fabPage f.va) (fun y => { y with sram := kset y.sram (fabTile f.va) turn }) else s
    (s.arg.x = 0 → kind = 2 → s.arg.y ≠ 1 → s.now < turn →
      exec .loadReply s = .next (u.sched turn (srcOf pg f.tile) .loadReply { s.arg with x := 0, y := 1 })) ∧
    (s.arg.x = 0 → kind ≠ 2 ∨ s.arg.y = 1 ∨ turn = s.now →
      (s.badAt f.key f.size = false →
        exec .loadReply s = .next ((u.modFire p pg f.fid (fun f' => { f' with
            got := u.loadBytes p pg f, aux := (f'.aux.set 2 s.now).set 3 0 })).sched
          (s.now + (s.loadLegs p pg f.tile kind f.va f.key).2) (srcOf pg f.tile) .loadReply { s.arg with x := 1 })) ∧
      (s.badAt f.key f.size = true → ∃ t, exec .loadReply s = .next t ∧
        ⟨s.now, 0, 0, .row .guardLineRead { p := p, x := f.key / 64 * 64, y := 1 }⟩ ∈ t.agenda)) ∧
    ((∀ g ∈ (s.page p pg).fires, g.got = []) → s.loadBytes p pg f = s.strandBytes p f.id (agentOf f.strand f.tag) f.key f.size) ∧
    (s.arg.x = 1 → f.got ≠ [] →
      let sends (v : Word) : Out := .next ((s.answer p pg f.fid s.now (withPoison (tokV v) (curOf 0 0 f).firstOrigin) {}).checkDone p pg f.tag)
      ((opF f.word).toNat = 0x40 → f.size = 4 →
        exec .loadReply s = sends (BitVec.ofNat 32 (octet 0 + 256 * octet 1 + 65536 * octet 2 + 16777216 * octet 3))) ∧
      ((opF f.word).toNat = 0x42 → f.size = 2 → exec .loadReply s = sends (BitVec.ofNat 32 (octet 0 + 256 * octet 1))) ∧
      ((opF f.word).toNat = 0x44 → f.size = 1 → exec .loadReply s = sends (BitVec.ofNat 32 (octet 0))) ∧
      ((opF f.word).toNat = 0x41 → f.size = 2 →
        exec .loadReply s = sends (BitVec.signExtend 32 (BitVec.ofNat 16 (octet 0 + 256 * octet 1)))) ∧
      ((opF f.word).toNat = 0x43 → f.size = 1 → exec .loadReply s = sends (BitVec.signExtend 32 (BitVec.ofNat 8 (octet 0)))))

/-- R22, R23 and R24: what arrives at the store buffer joins its block's buffer or counts as nulled; a second delivery of an LSID raises TAGDUP and
changes no buffer. R22, R205, R224 and R226: a committed store performs, one to tile SRAM in the slot that it gives the access: the bytes of its line
stand in memory together, every other byte stays, the full/empty bits stay (R135), and the store is posted no more. -/
def Obligations.StoresPerform : Prop :=
  (
    ∀ (s : State) (a : Act) (f : Fire), (s.page s.arg.p s.arg.pg).act? s.arg.tag = some a → (s.page s.arg.p s.arg.pg).fire? s.arg.fid = some f →
      let null : NullRec := { lsid := s.arg.x, slot := f.tile, fid := f.fid, origin := s.arg.l.head?.map (BitVec.ofNat 11) }
      let kept (t : State) (b : Act) : Prop := ∃ c, (t.page s.arg.p s.arg.pg).act? s.arg.tag = some c ∧ c.stores = b.stores ∧ c.nulled = b.nulled
      (a.lsidDone s.arg.x = false →
        ∃ t, exec .storeBufferPerform s = .next t ∧ t.mem = s.mem ∧
          (s.arg.y ≠ 1 → kept t { a with stores := a.stores ++ [f.storeRec] }) ∧ (s.arg.y = 1 → kept t { a with nulled := a.nulled ++ [null] })) ∧
      (a.lsidDone s.arg.x = true → s.arg.y = 1 →
        exec .storeBufferPerform s = .next ((s.takeTrap s.arg.p a.id (trapAt s.arg.pg a f.tile 0x06 (8 + s.arg.x * 256) 0)).addReplay s.arg.p a.id
          ({ tag := a.tag, id := a.id, strand := a.strand, nulled := [null] } : Act).heldStores)) ∧
      (a.lsidDone s.arg.x = true → s.arg.y ≠ 1 →
        exec .storeBufferPerform s = .next ((s.takeTrap s.arg.p a.id (trapAt s.arg.pg a f.tile 0x06 (8 + s.arg.x * 256) 0)).addReplay s.arg.p a.id
          ({ tag := a.tag, id := a.id, strand := a.strand, stores := [f.storeRec] } : Act).heldStores))) ∧
  (
    ∀ (s : State) (w : Posted), s.sound → (s.part s.arg.p).posted.find? (fun v => v.wid == s.arg.x) = some w →
      (∀ c, w.cells.head? = some c → s.badAt c.1 1 = false) → (w.cells.map Prod.fst).Nodup →
      let slot := kget (s.page s.arg.p (fabPage w.va)).sram (fabTile w.va)
      (∀ k, slot = some k → s.now ≤ k → s.arg.y ≠ 1 → exec .tileSramStore s =
        .next ((s.modPage s.arg.p (fabPage w.va) (fun y => { y with sram := kset y.sram (fabTile w.va) (k + 1) })).sched (k + 1)
          (srcOf s.arg.pg w.slot) .tileSramStore { s.arg with y := 1 })) ∧
      ∀ i ∈ [Instr.channelWrite, .tileSramStore, .hostMemoryWrite], (i = .tileSramStore → s.arg.y = 1 ∨ ∀ k, slot = some k → k < s.now) →
        ∃ t, exec i s = .next t ∧ t.fe = s.fe ∧ (∀ v ∈ (t.part s.arg.p).posted, v.wid ≠ s.arg.x) ∧ (∀ c ∈ w.cells, Mem.byte t.mem c.1 = c.2) ∧
          (∀ a, (∀ c ∈ w.cells, c.1 ≠ a) → Mem.byte t.mem a = Mem.byte s.mem a))

/-- R16, R17, R243 and R244: a synchronisation instruction that fires sends its request, which reaches its engine 9 fclk later and 12 more for each
die crossing; its firing waits. R230, R239, R240, R242 and R243: what an arriving request meets first: a handle that names no object traps, an object
in memory takes 140 fclk, an engine that has served eight other objects in this fclk serves it in the next, an object that cannot be reached faults;
else the operation acts, a release after its instance's committed stores are visible. -/
def Obligations.SyncRequests : Prop :=
  (
    ∀ (s : State) (pr : BitVec 2) (t1 t0 : Target),
      ∀ i ∈ [Instr.amoAdd pr t1 t0, .amoAnd pr t1 t0, .amoOr pr t1 t0, .amoXor pr t1 t0, .amoMin pr t1 t0, .amoMax pr t1 t0, .amoMinu pr t1 t0,
          .amoMaxu pr t1 t0, .amoSwap pr t1 t0, .amoFadd pr t1 t0, .amoCas pr t1 t0, .lockAcq pr t1 t0, .lockTry pr t1 t0, .lockRel pr t1 t0,
          .barArrive pr t1 t0, .barWait pr t1 t0, .barArrwait pr t1 t0, .barInit pr t1 t0, .qpush pr t1 t0, .qpop pr t1 t0, .qpopt pr t1 t0,
          .qclose pr t1 t0, .qinit pr t1 t0, .wreg pr t1 t0, .wown pr t1 t0, .wrel pr t1 t0, .wpri pr t1 t0],
        let die := syncDie s.cur.pg (opF s.cur.word).toNat (xF s.cur.word).toNat s.lv.toNat
        (s.cur.verdict pr = .run →
          exec i s = .next { s.modFire s.cur.p s.cur.pg s.cur.fid (fun f => { f with phase := .out, aux := [(s.part s.cur.p).nextWid] }) with
            agenda := insTimed ⟨s.now + 9 + 12 * crossings s.cur.pg (die * 256), 0, srcOf s.cur.pg s.cur.tile, .row .syncOperationArrival
              { p := s.cur.p, pg := s.cur.pg, fid := s.cur.fid, tag := s.cur.tag }⟩ s.agenda }) ∧
        (∀ o, s.cur.verdict pr = .nulls o → exec i s = .next (s.emit 1 t0 t1 (withPoison tokNull o) (withPoison tokNull o))) ∧
        (s.cur.verdict pr = .silent → exec i s = .next s.silent)) ∧
  (
    ∀ (s : State) (f : Fire), (s.page s.arg.p s.arg.pg).fire? s.arg.fid = some f → f.phase = .out → (opF f.word).toNat ≠ 0x5C →
      let p := s.arg.p
      let pg := s.arg.pg
      let x := s.part p
      let h := (valOf (f.l.map Arr.tok)).toNat
      let op := (opF f.word).toNat
      let again (at' src : Nat) (a : Args) : State := { s with agenda := insTimed ⟨at', 0, src, .row .syncOperationArrival a⟩ s.agenda }
      let comes : Prop := s.arg.x = 1 ∨ (x.handleOk h = true ∧ x.inMemory h = false)
      let z := s.atObject p h f
      (s.arg.x ≠ 1 → x.handleOk h = false → exec .syncOperationArrival s = .next (s.trapFire p pg f 0x0C 1 h)) ∧
      (s.arg.x ≠ 1 → x.handleOk h = true → x.inMemory h = true →
        exec .syncOperationArrival s = .next (again (s.now + 140) (srcOf pg f.tile) { s.arg with x := 1 })) ∧
      (comes → 8 ≤ (s.servedOn (hDie h)).length → s.objName p h ∉ s.servedOn (hDie h) →
        exec .syncOperationArrival s = .next (again (s.now + 1) 0 { s.arg with x := 1 })) ∧
      (comes → s.engineFree p h = true →
        (∀ c d va, (s.served p h).objFault p h = some (c, d, va) →
          exec .syncOperationArrival s = .next ((s.served p h).trapFire p pg f c d va)) ∧
        ((s.served p h).objFault p h = none →
          (op = 0x58 → exec .syncOperationArrival s = .next (z.amo p pg h f)) ∧
          (op = 0x59 → exec .syncOperationArrival s = .next (z.lockOp p pg h f)) ∧
          (op = 0x5A → exec .syncOperationArrival s = .next (z.barOp p pg h f)) ∧
          (op = 0x5B → exec .syncOperationArrival s = .next (z.qOp p pg h f)))) ∧
      (∀ (p : Nat) (w : Posted), (s.part p).posted = [w] → s.badLines = [] → s.flush p w.id =
        (s.modPart p (fun x => { x with posted := x.posted.filter (fun v => v.wid != w.wid) })).lineWrite w.cells))

/-- R241, R243 and R245: an atomic operation on an on-chip object that is free or a word: the new value by form, and the old value as the answer; on
an object of another type it traps. -/
def Obligations.AtomicOperations : Prop :=
  ∀ (s : State) (f : Fire), (s.page s.arg.p s.arg.pg).fire? s.arg.fid = some f → f.phase = .out → (opF f.word).toNat = 0x58 →
    let h := (valOf (f.l.map Arr.tok)).toNat
    (s.part s.arg.p).handleOk h = true → (s.part s.arg.p).inMemory h = false → s.engineFree s.arg.p h = true →
    let z := s.atObject s.arg.p h f
    let o := z.obj s.arg.p h
    let r := valOf (f.r.map Arr.tok)
    let c := valOf (f.c.map Arr.tok)
    (∀ v : Word, o.st = .word v ∨ (o.st = .free ∧ v = 0) →
      let becomes (n : Word) : Prop := ∃ u : State, exec .syncOperationArrival s = .next (u.syncOne s.arg.p s.arg.pg h f (tokV v)) ∧
        u.now = s.now ∧ (u.obj s.arg.p h).st = .word n
      ((xF f.word).toNat = 0 → becomes (v + r)) ∧
      ((xF f.word).toNat = 1 → becomes (v &&& r)) ∧
      ((xF f.word).toNat = 2 → becomes (v ||| r)) ∧
      ((xF f.word).toNat = 3 → becomes (v ^^^ r)) ∧
      ((xF f.word).toNat = 4 → becomes (if v.toInt < r.toInt then v else r)) ∧
      ((xF f.word).toNat = 5 → becomes (if v.toInt < r.toInt then r else v)) ∧
      ((xF f.word).toNat = 6 → becomes (if v.toNat < r.toNat then v else r)) ∧
      ((xF f.word).toNat = 7 → becomes (if v.toNat < r.toNat then r else v)) ∧
      ((xF f.word).toNat = 8 → becomes r) ∧
      ((xF f.word).toNat = 9 → becomes (word (addNum .rne (decodeF fp32 v.toNat) (decodeF fp32 r.toNat)).1)) ∧
      ((xF f.word).toNat = 10 → becomes (if v = c then r else v))) ∧
    (o.st ≠ .free → (∀ v, o.st ≠ .word v) → exec .syncOperationArrival s = .next (z.trapFire s.arg.p s.arg.pg f 0x0C 2 h))

/-- R246 and R247: locks and barriers on chip, with nothing parked at the object: what becomes of it and what is answered; a wrong type or owner
traps. -/
def Obligations.LocksAndBarriers : Prop :=
  ∀ (s : State) (f : Fire), (s.page s.arg.p s.arg.pg).fire? s.arg.fid = some f → f.phase = .out →
    let p := s.arg.p
    let pg := s.arg.pg
    let h := (valOf (f.l.map Arr.tok)).toNat
    (s.part p).handleOk h = true → (s.part p).inMemory h = false → s.engineFree p h = true →
    let z := s.atObject p h f
    let o := z.obj p h
    let me := (f.id, (z.inst p f.id).gen)
    let x := (xF f.word).toNat
    let n := (valOf (f.r.map Arr.tok)).toNat
    let leaves (st : ObjSt) : Prop := ∃ t, exec .syncOperationArrival s = .next t ∧ (t.obj p h).st = st
    let traps (detail : Nat) : Prop := exec .syncOperationArrival s = .next (z.trapFire p pg f 0x0C detail h)
    o.waiters = [] → (z.inst p f.id).id = f.id →
    ((opF f.word).toNat = 0x59 →
      (x ≤ 1 → o.st = .free ∨ o.st = .lock none → leaves (.lock (some me))) ∧
      (∀ q, x ≤ 1 → o.st = .lock (some q) → leaves (.lock (some q))) ∧
      (x = 0 → ∀ q, o.st = .lock (some q) → ∃ t, exec .syncOperationArrival s = .next t ∧ (t.obj p h).waiters = [(pg, f.fid)]) ∧
      (x = 2 → o.st = .lock (some me) → leaves (.lock none)) ∧
      (x = 2 → o.st ≠ .lock (some me) → (∃ q, o.st = .lock q) → traps 3) ∧
      (x = 2 → o.st = .free → traps 2) ∧
      (o.st ≠ .free → (∀ q, o.st ≠ .lock q) → traps 2)) ∧
    ((opF f.word).toNat = 0x5A →
      (∀ c a ph, o.st = .barrier c a ph →
        (x = 0 ∨ x = 2 → a + 1 = c → leaves (.barrier c 0 ((ph + 1) % 65536))) ∧
        (x = 0 ∨ x = 2 → a + 1 ≠ c → leaves (.barrier c (a + 1) ph)) ∧
        (x = 1 → leaves (.barrier c a ph))) ∧
      (x = 3 → o.st = .free ∨ (∃ c a ph, o.st = .barrier c a ph) →
        (0 < n → n ≤ 65535 → leaves (.barrier n 0 0)) ∧ (n = 0 ∨ 65535 < n → traps 5)) ∧
      (x ≠ 3 → (∀ c a ph, o.st ≠ .barrier c a ph) → traps 2))

/-- R248 and R249: queues on chip, with nothing parked at the queue. -/
def Obligations.Queues : Prop :=
  ∀ (s : State) (f : Fire), (s.page s.arg.p s.arg.pg).fire? s.arg.fid = some f → f.phase = .out → (opF f.word).toNat = 0x5B →
    let p := s.arg.p
    let pg := s.arg.pg
    let h := (valOf (f.l.map Arr.tok)).toNat
    (s.part p).handleOk h = true → (s.part p).inMemory h = false → s.engineFree p h = true →
    let z := s.atObject p h f
    let o := z.obj p h
    let x := (xF f.word).toNat
    let leaves (t : State) (st : ObjSt) : Prop := (t.obj p h).st = st
    let onDie (j : Nat) : Prop := (s.part p).inMemory (storeOf h j) = false
    let status : State := z.wregStatus p f.id h 0 0
    let terminate : Token := { val := 0xFFFFFFFF, null := true, eof := true }
    o.waiters = [] →
    (∀ cap head len, o.st = .queue cap head len false →
      (x = 0 → len ≠ cap → onDie ((head + len) % cap) → ∃ t, exec .syncOperationArrival s = .next t ∧ leaves t (.queue cap head (len + 1) false)) ∧
      (x = 0 → len = cap → ∃ t, exec .syncOperationArrival s = .next t ∧ (t.obj p h).waiters = [(pg, f.fid)]) ∧
      (x = 1 ∨ x = 2 → len ≠ 0 → onDie head →
        ∃ u : State, exec .syncOperationArrival s =
          .next ((u.syncAnswer p pg h f (tokV (z.qEntry p h head)) (some (if x = 1 then tokV 0 else tokV (z.qEntry p h head)))).qRefill p h) ∧
          leaves u (.queue cap ((head + 1) % cap) (len - 1) false)) ∧
      (x = 1 → len = 0 → ∃ t, exec .syncOperationArrival s = .next t ∧ (t.obj p h).waiters = [(pg, f.fid)]) ∧
      (x = 2 → len = 0 → exec .syncOperationArrival s = .next (z.syncOne p pg h f tokNull)) ∧
      (x = 3 → ∃ t, exec .syncOperationArrival s = .next t ∧ leaves t (.queue cap head len true))) ∧
    (∀ cap head len, o.st = .queue cap head len true →
      (x = 0 → exec .syncOperationArrival s = .next (status.syncOne p pg h f terminate)) ∧
      (x = 1 → len = 0 → exec .syncOperationArrival s = .next (status.syncAnswer p pg h f terminate (some (tokV 0)))) ∧
      (x = 2 → len = 0 → exec .syncOperationArrival s = .next (z.syncOne p pg h f terminate)) ∧
      (x = 3 → exec .syncOperationArrival s = .next (z.syncOne p pg h f (tokV 0)))) ∧
    (x = 4 → o.st = .free → let cap := (valOf (f.r.map Arr.tok)).toNat
      (cap = 0 ∨ 1024 < cap → (∀ j, cap ≠ 0 → (z.obj p (storeOf h j)).st = .free) → exec .syncOperationArrival s = .next (z.trapFire p pg f 0x0C 5 h)) ∧
      (cap = 1 → hIndex h + 1 < (z.part p).objLimit → onDie 0 → (z.obj p (storeOf h 0)).st = .free → storeOf h 0 ≠ h → ∃ t,
        exec .syncOperationArrival s = .next t ∧ leaves t (.queue 1 0 0 false) ∧ (t.obj p (storeOf h 0)).st = .qstore h 0 0 0 0)) ∧
    (x ≤ 3 → (∀ cap head len closed, o.st ≠ .queue cap head len closed) →
      exec .syncOperationArrival s = .next (z.trapFire p pg f 0x0C 2 h))

/-- R17, R244: the answer of an engine: T0's token, and T1's where there is one, leave the firing's tile 15 fclk after the operation acts and 12 more
for each die crossing, with the poison of the firing's operands. -/
def Obligations.SyncAnswers : Prop :=
  ∀ (s : State) (p pg h : Nat) (f : Fire) (r0 : Token) (r1 : Option Token),
    let c := curOf p pg f
    let at' := s.now + 15 + 12 * crossings pg (hDie h * 256)
    let t := s.syncAnswer p pg h f r0 r1
    let sent (tg : Target) (r : Token) : Prop := tg ≠ .none → ∀ tag, s.carryTag c tg = some tag →
      ({ s with cur := c } : State).arrivalOf at' tg tag (withPoison r c.firstOrigin) ∈ t.agenda
    sent (targetsOf f.word).1 r0 ∧ (∀ r, r1 = some r → sent (targetsOf f.word).2 r) ∧ (∀ x ∈ s.agenda, x ∈ t.agenda) ∧ t.mem = s.mem ∧ t.fe = s.fe

/-- R253 and R255: the forms of WFT, with no release outstanding. R255 and R257: an instance takes the effective priority that the wait graph gives
it, and its sets are ranked anew. A walk reads one entry after another, 1 fclk each, 24 more for each die crossing and 140 more in the overflow area;
one that has reached the place where its entry starts traps the registering instance with DEADLOCK and withdraws the wait with its operation, unless
the entry has gone; one that runs out of entries changes nothing. -/
def Obligations.WaitsAndPriorities : Prop :=
  (
    ∀ (s : State) (f : Fire) (i : Inst), (s.page s.arg.p s.arg.pg).fire? s.arg.fid = some f → f.phase = .out →
      (opF f.word).toNat = 0x5C → (s.part s.arg.p).inst? f.id = some i →
      let p := s.arg.p
      let pg := s.arg.pg
      let l := (valOf (f.l.map Arr.tok)).toNat
      let name := waitName l
      let x := (xF f.word).toNat
      let bad := bitAt l 15 = false ∧ (s.part p).handleOk l = false
      (x ≤ 2 → bad → exec .syncOperationArrival s = .next (s.trapFire p pg f 0x0C 1 l)) ∧
      (x = 3 → 15 < l → exec .syncOperationArrival s = .next (s.trapFire p pg f 0x0C 6 l)) ∧
      (x = 3 → l ≤ 15 → ∃ t, exec .syncOperationArrival s = .next t ∧ (t.inst p f.id).base = l) ∧
      (x = 0 → ¬bad → ∃ t, exec .syncOperationArrival s = .next t ∧
        (t.part p).wregs.any (fun w => w.id == f.id && w.name == name && w.fid == f.fid) = true) ∧
      (x = 1 → ¬bad → (s.part p).holds f.id name = true →
        exec .syncOperationArrival s = .next (s.syncAnswer p pg name f (tokV 0) (some (tokV 1)))) ∧
      (x = 2 → ¬bad → ∃ t, exec .syncOperationArrival s = .next t ∧ (t.part p).holds f.id name = false)) ∧
  (
    ∀ (s : State), let p := s.arg.p
      let x := s.part p
      let stop : State := s.modPart p (fun x => { x with walk := none })
      (exec .priorityPropagate s = .next ((s.modInst p s.arg.id (fun i => { i with eff := (x.effOf s.arg.id).1 })).wakeInst p s.arg.id)) ∧
      (x.walk = none → exec .cycleWalkEnd s = .next (s.regAll p)) ∧
      (∀ k, x.walk = some k → (k.pass x).2 = false →
        (x.walkNext (k.pass x).1.seen (k.pass x).1.todo = none → exec .cycleWalkEnd s = .next (stop.regAll p) ∧
          (x.regq = [] → ∃ t, exec .cycleWalkEnd s = .next t ∧ (t.part p).walk = none ∧ (t.part p).wft = x.wft)) ∧
        (∀ w todo, x.walkNext (k.pass x).1.seen (k.pass x).1.todo = some (w, todo) →
          exec .cycleWalkEnd s = .next ((s.modPart p (fun y => { y with walk := some { (k.pass x).1 with reading := some w, todo := todo } })).sched
            (s.now + readCost w todo) 0 .cycleWalkEnd { p := p }))) ∧
      (∀ k, x.walk = some k → (k.pass x).2 = true → let e := k.ent
        (x.wft.contains e = false → exec .cycleWalkEnd s = .next (stop.regAll p)) ∧
        (∀ m, x.wft.contains e = true → ({ x with walk := none, wft := (k.pass x).1.seen ++ [e] } : Part).cycleOf e = some m →
          ∃ tr : TrapRec, tr.code = 0x09 ∧ tr.detail = BitVec.ofNat 32 m.length ∧ tr.cycle = cycleWords e.ts m ∧
            (let u := stop.takeTrap p e.id tr
             exec .cycleWalkEnd s = .next ((if e.wait then u.endWait p e.fid else u).regAll p)))) ∧
      (∀ (w : WftEnt) (todo : List (Bool × Nat × Nat)), w.home ≠ 2 → (∀ q ∈ todo.head?, q.2.2 = nameDie w.name) → todo ≠ [] → readCost w todo = 1) ∧
      (∀ (w : WftEnt) (q : Bool × Nat × Nat) (todo : List (Bool × Nat × Nat)), w.home = 2 → q.2.2 = nameDie w.name → readCost w (q :: todo) = 141) ∧
      (∀ (x : Part) (i : Nat), x.wft = [] → x.callerOf i = [] → x.effOf i = (((x.inst? i).map Inst.base).getD 0, 0)))

/-- R169 and R170: QBEGIN opens a region whose only member is its own instance, QEND and PHASE wait or go on, a wave closes a region that two waves in
a row have found quiet, and another use of a region traps as SYNCOBJ (its detail is a free value, log 9). -/
def Obligations.QuiescenceRegions : Prop :=
  (∀ (s : State) (pr : BitVec 2) (t1 t0 : Target),
    let p := s.cur.p
    let n := s.lv.toNat
    let q := (s.part p).region n
    let parks (u : State) : Out := .next ((u.modFire p s.cur.pg s.cur.fid (fun f => { f with phase := .parked })).schedWave p)
    let traps : Out := .next (({ s with free := s.free + 1 } : State).trap 0x0C (1 + Config.freeNat s.free % 6) 0)
    (s.cur.verdict pr = .run →
      (n < 16 → (∀ r ∈ (s.part p).qregs, r.isOpen = true → r.n ≠ n ∧ s.cur.id ∉ r.members) →
        exec (.qbegin pr t1 t0) s = (s.setRegion p { n := n, isOpen := true, members := [s.cur.id] }).gives 16 t1 t0 (BitVec.ofNat 32 n)) ∧
      (n < 16 → q.isOpen = true →
        exec (.qend pr t1 t0) s = parks (s.setRegion p { q with qends := q.qends ++ [(s.cur.pg, s.cur.fid)], quiet := 0 }) ∧
        (q.older.length < 3 → ∃ u, exec (.phase pr t1 t0) s = .next (u.schedWave p) ∧
          (s.setRegion p { q with older := q.older ++ [(q.phase, s.now)], phase := (q.phase + 1) % 4 }).gives 16 t1 t0
            (BitVec.ofNat 32 ((q.phase + 1) % 4)) = .next u) ∧
        (3 ≤ q.older.length →
          exec (.phase pr t1 t0) s = parks (s.setRegion p { q with phases := q.phases ++ [(s.cur.pg, s.cur.fid)] }))) ∧
      (n < 16 → (q.isOpen = true ∨ ∃ r ∈ (s.part p).qregs, r.isOpen = true ∧ s.cur.id ∈ r.members) → exec (.qbegin pr t1 t0) s = traps) ∧
      (n < 16 → q.isOpen = false → exec (.qend pr t1 t0) s = traps ∧ exec (.phase pr t1 t0) s = traps) ∧
      (16 ≤ n → exec (.qbegin pr t1 t0) s = traps ∧ exec (.qend pr t1 t0) s = traps ∧ exec (.phase pr t1 t0) s = traps)) ∧
    (∀ o, s.cur.verdict pr = .nulls o → ∀ i ∈ [Instr.qbegin pr t1 t0, .qend pr t1 t0, .phase pr t1 t0],
      exec i s = .next (s.emit 16 t0 t1 (withPoison tokNull o) (withPoison tokNull o)))) ∧
  (∀ (s : State) (q : QRegion), let p := s.arg.p
    (s.part p).qregs = [q] → q.isOpen = true →
    let same : Nat := if s.isQuiet p q = true ∧ s.totals p q = q.totals then q.quiet + 1 else 0
    let seen : QRegion := { q with quiet := same, totals := s.totals p q }
    (∀ w, q.older = [] → q.phases = [] → q.qends = [w] → 2 ≤ same →
      let c := q.members.foldl (fun c id => c.flush p id) (s.setRegion p { n := q.n })
      exec .quiescenceWave s = .next (c.qrgAnswer p q.n (24 * ((c.part p).regionDies q - 1)) w)) ∧
    (q.older = [] → q.phases = [] → q.qends ≠ [] → same < 2 → exec .quiescenceWave s = .next ((s.setRegion p seen).schedWave p)) ∧
    (q.phases = [] → q.older ≠ [] → (∀ z ∈ q.older, s.phaseBusy p q z.2 = true) → exec .quiescenceWave s = .next ((s.setRegion p seen).schedWave p)) ∧
    (∀ w, q.phases = [w] → q.qends = [] → 3 ≤ q.older.length → (∀ z ∈ q.older, s.phaseBusy p q z.2 = false) →
      let u := s.qrgAnswer p ((q.phase + 1) % 4) 0 w
      let next : QRegion := { q with older := [(q.phase, s.now)], phase := (q.phase + 1) % 4, phases := [] }
      ∃ k, exec .quiescenceWave s = .next ((u.setRegion p { next with quiet := k, totals := u.totals p next }).schedWave p)) ∧
    (∀ (pg fid : Nat) (f : Fire) (v extra : Nat), (s.page p pg).fire? fid = some f → f.phase = .parked →
      s.qrgAnswer p v extra (pg, fid) =
        (s.answer p pg fid (s.now + extra + 1) (f.done (BitVec.ofNat 32 v)) (f.done (BitVec.ofNat 32 v))).checkDone p pg f.tag))

/-- R17, R262, R296 and R309: an engine instruction that fires: its strand's committed stores become visible (R235), and its command sets out, with
what it keeps of its activation; its block's commit does not wait for it (R234). Commands of one channel reach their island in order. SCAT at an
address that is not mapped or not aligned traps. -/
def Obligations.EngineCommandsFire : Prop :=
  ∀ (s : State) (f : Fire) (pr acc : BitVec 2) (ch : BitVec 3) (t1 t0 : Target),
    (s.page s.cur.p s.cur.pg).fire? s.cur.fid = some f → s.cur = curOf s.cur.p s.cur.pg f →
    let p := s.cur.p
    let pg := s.cur.pg
    let a := s.curAct
    let u := s.flush p f.id
    let island := [Instr.mmcfg pr acc t1 t0, .mmaOvw pr acc t1 t0, .mmaAcc pr acc t1 t0, .mmaGrp pr acc t1 t0, .mmrd pr acc t1 t0,
      .spmaOvw pr acc t1 t0, .spmaAcc pr acc t1 t0, .plctPrep pr t1 t0, .plctInval pr t1 t0, .plctQuery pr t1 t0]
    let scat := [Instr.scatAdd pr t1 t0, .scatFadd pr t1 t0, .scatMax pr t1 t0, .scatMin pr t1 t0, .scatOr pr t1 t0]
    let copy := [Instr.cpyLin pr t1 t0, .cpy2d pr t1 t0, .cpyGath pr t1 t0, .cpyScat pr t1 t0, .cpyFill pr t1 t0]
    let kept (g : Fire → Fire) : List Part := (u.modFire p pg f.fid g).parts
    let stays (t : State) : Prop := t.mem = u.mem ∧ t.fe = u.fe ∧ t.now = s.now ∧ ∀ x ∈ u.agenda, x ∈ t.agenda
    let here (i : Nat) : Nat := (u.isl p pg).cmds.foldl (fun t c => if c.ch == i then max t c.here else t) (s.now + f.tile / 8 + 1)
    let ch' := islChannel (opF f.word).toNat (xF f.word).toNat
    (s.cur.verdict pr = .run →
      (∀ i ∈ island, ∃ t : State, exec i s = .next t ∧ stays t ∧
        ⟨here ch', 0, srcOf pg f.tile, .row .islandAccept { p := p, pg := pg }⟩ ∈ t.agenda ∧
        (t.isl p pg).cmds = (u.isl p pg).cmds ++ [{
          ch := ch', fid := f.fid, id := f.id, strand := f.strand, slot := f.tile, tag := f.tag
          word := f.word, lv := s.lv.toNat, rv := s.rv.toNat, wins := a.wins, blk := a.blk, gen := a.gen, rm := hdrRM a.hdr
          here := here ch' }]) ∧
      (∀ i ∈ scat,
        ((s.part p).fabKey s.lv.toNat = none → exec i s = .next (s.trap 0x02 1280 s.lv.toNat)) ∧
        (∀ key, (s.part p).fabKey s.lv.toNat = some key → s.lv.toNat % 4 ≠ 0 → exec i s = .next (s.trap 0x04 4 s.lv.toNat)) ∧
        (∀ key, (s.part p).fabKey s.lv.toNat = some key → s.lv.toNat % 4 = 0 → ∃ t : State, exec i s = .next t ∧ stays t ∧
          t.parts = kept (fun g => { g with phase := .engine, wins := a.wins, blk := a.blk, gen := a.gen }) ∧
          ⟨s.now + 1 + (s.part p).pathCost pg f.tile (fabPage s.lv.toNat) (fabTile s.lv.toNat), 0, srcOf pg f.tile, .row .scatApply
            { p := p, pg := pg, id := f.id, fid := f.fid, tag := f.tag }⟩ ∈ t.agenda)) ∧
      (∀ i ∈ copy, ∃ t : State, exec i s = .next t ∧ stays t ∧
        (∀ st, (s.inst p f.id).strand? f.strand = some st → t.parts = kept (fun g => { g with
          phase := .engine, wins := a.wins, blk := a.blk, gen := a.gen, aux := [st.csrN 0x050 % 4, st.csrN 0x050 / 4 % 8] })) ∧
        ⟨s.now + 12, 0, srcOf pg f.tile, .row .copyCommandBegin { p := p, pg := pg, id := f.id, fid := f.fid, z := 3 }⟩ ∈ t.agenda)) ∧
    (∀ o, s.cur.verdict pr = .nulls o →
      (∀ i ∈ island ++ scat ++ copy, exec i s = .next (s.emit 1 t0 t1 (withPoison tokNull o) (withPoison tokNull o))) ∧
      exec (.cnv pr ch t1 t0) s = .next (s.emit 10 t0 t1 (withPoison tokNull o) (withPoison tokNull o))) ∧
    (s.cur.verdict pr = .silent → ∀ i ∈ .cnv pr ch t1 t0 :: (island ++ scat ++ copy), exec i s = .next s.silent)

/-- R263 and R264: a command alone at its island. MMCFG writes the bits that R selects, and MODE drops the resident operand; a reserved value traps
and writes nothing. A command that names a tile is accepted when the tile's state is the one it requires, and the tile is BUSY then; otherwise it
waits. R85, R88, R245, R268, R271 to R273, R285 and R289: an integer element takes in a group exactly, and wraps or saturates; and the steps of an
accepted command: MMA ends with its tile full, a read-out first empties its tile and then writes, a group of MMA.GRP counts at its handle, a stream's
tokens queue, and the Plaiter compiles a tile. -/
def Obligations.MatrixIslands : Prop :=
  (
    ∀ (s : State) (c : IslCmd), s.arg.z = 0 →
      let p := s.arg.p
      let pg := s.arg.pg
      let z := s.isl p pg
      z.cmds = [c] → c.accepted = false → c.stopped = false → c.here ≤ s.now → z.owner = some c.id → c.ch < 4 → c.start = none →
      let v (old : Nat) : Nat := (old &&& (0xFFFFFFFF - c.rv)) ||| (c.lv &&& c.rv)
      let mode := v z.mode
      let fmt := v z.fmt
      let win := v z.win
      let writes (mode' fmt' win' : Nat) : Prop := ∃ t, exec .islandAccept s = .next t ∧
        (t.isl p pg).mode = mode' ∧ (t.isl p pg).fmt = fmt' ∧ (t.isl p pg).win = win' ∧ (t.isl p pg).cmds = [] ∧ (t.isl p pg).tiles = z.tiles ∧
        (c.x ≠ 0 → (t.isl p pg).resident = z.resident) ∧ (c.x = 0 → (t.isl p pg).resident = none) ∧ t.mem = s.mem
      let reserved : Prop := ∃ u : State, exec .islandAccept s = .next (u.islFail p pg { c with
        accepted := true, mode := z.mode, fmt := z.fmt, win := z.win, found := (z.tileAt c.tile).st
        fresh := false, resume := false, rows := [] } 0x0A 0 0) ∧ (u.isl p pg).mode = z.mode ∧
        (u.isl p pg).fmt = z.fmt ∧ (u.isl p pg).win = z.win
      let ready (st : TileSt) : Prop := z.serving = none → c.tile < z.tiles.length →
        ((z.tileAt c.tile).st = st → ∃ t, exec .islandAccept s = .next t ∧ ((t.isl p pg).tileAt c.tile).st = .busy ∧ (t.isl p pg).serving = some c.fid) ∧
        ((z.tileAt c.tile).st ≠ st → exec .islandAccept s = .next s)
      (c.op = 0x60 → c.x = 0 → mode < 32 → mode % 4 ≠ 3 → mode / 4 % 4 ≠ 3 → writes mode z.fmt z.win) ∧
      (c.op = 0x60 → c.x = 1 → fmt &&& 0x1F1F = fmt → fmt % 32 < 16 → fmt / 256 < 16 → writes z.mode fmt z.win) ∧
      (c.op = 0x60 → c.x = 2 → win &&& 0x7777 = win → writes z.mode z.fmt win) ∧
      (c.op = 0x60 → c.x = 0 → c.lv < 2 ^ 32 → c.rv < 2 ^ 32 → z.mode < 2 ^ 32 → 32 ≤ mode ∨ mode % 4 = 3 ∨ mode / 4 % 4 = 3 → reserved) ∧
      (c.op = 0x61 → c.x % 4 = 1 → ready .full) ∧
      (c.op = 0x61 → c.x % 4 ≠ 1 → ready .empty) ∧
      (c.op = 0x62 → ready .full)) ∧
  (
    (∀ (mk : MkOrigin) (sat : Bool) (s : State) (acc : Reg) (ts : List (El × El)) (va : Nat), acc.pois = false →
      (∀ t ∈ ts, t.1.pois = none ∧ t.2.pois = none) →
      let v : Int := acc.val.toInt + (ts.map (fun t => intOf t.1.num * intOf t.2.num)).sum
      let fits := -2147483648 ≤ v ∧ v ≤ 2147483647
      ((sat = false ∨ fits) → accumulate mk true sat s acc ts va = (s, ⟨BitVec.ofInt 32 v, false, 0⟩)) ∧
      (sat = true → ¬fits → accumulate mk true sat s acc ts va =
        ((mk s 10 va).1, ⟨if v < 0 then 0x80000000 else 0x7FFFFFFF, true, (mk s 10 va).2⟩))) ∧
    (∀ (s : State) (c : IslCmd), (s.isl s.arg.p s.arg.pg).cmd? s.arg.fid = some c → c.accepted = true → c.stopped = false →
      let p := s.arg.p
      let pg := s.arg.pg
      let h := s.arg.x
      (∀ m, s.arg.z = 1 → c.mul = some m → c.op = 0x61 → (s.mulRun p pg c m m.k).2.2 = none → c.resume = false →
        exec .islandCommandDone s = .next (((s.mulRun p pg c m m.k).1.modTile p pg c.tile (fun t => { t with st := .full })).islDone p pg c 0 0)) ∧
      (∀ m cause va, s.arg.z = 1 → c.mul = some m → c.op = 0x61 → (s.mulRun p pg c m m.k).2.2 = some (cause, va) →
        exec .islandCommandDone s =
          .next ((s.mulRun p pg c m m.k).1.islStop p pg { c with k := (s.mulRun p pg c m m.k).2.1 } 0x02 cause va)) ∧
      (s.arg.z = 3 → c.tile < (s.isl p pg).tiles.length → ∃ t, exec .islandCommandDone s = .next t ∧ t.mem = s.mem ∧
        ((t.isl p pg).tileAt c.tile).st = .empty ∧
        ⟨s.now + 48, 0, srcOf pg c.slot, .row .islandCommandDone { p := p, pg := pg, id := c.id, fid := c.fid, z := 7 }⟩ ∈ t.agenda) ∧
      (s.arg.z = 7 → exec .islandCommandDone s = .next ((s.outWrite p c.outs c.marks).islDone p pg c 0 4)) ∧
      ((s.part p).handleOk h = true → (s.part p).inMemory h = false →
        (∀ w, (s.obj p h).st = .word w → ∃ t, exec .groupCompletion s = .next t ∧ (t.obj p h).st = .word (w + 1) ∧
          ⟨s.now, 0, srcOf pg c.slot, .row .islandCommandDone { p := p, pg := pg, id := c.id, fid := c.fid, z := 4 }⟩ ∈ t.agenda)) ∧
      (h = 0x8000 → exec .groupCompletion s =
        .next (((s.modCmd p pg c.fid (fun c => { c with group := c.group + 1, chunk := 0, k := 0 })).islNext p pg c 0 4)))) ∧
    (∀ (s : State), let p := s.arg.p
      let pg := s.arg.pg
      (s.arg.x < 4 → exec .islandStreamToken s = .next (s.stale p pg 0)) ∧
      (4 ≤ s.arg.x → (s.isl p pg).cmds = [] → exec .islandStreamToken s =
        .next (s.modIsl p pg (fun z => { z with streams := z.streams ++ [(s.arg.x - 4, ⟨s.arg.tok, s.arg.fid, s.arg.y⟩, s.arg.tag)] })))) ∧
    (∀ (s : State) (e : PlaitEnt), s.plaitEnt? s.arg.x s.arg.p s.arg.y = some e → e.st = .compiling → s.arg.l = [e.gen] →
      let tile := Mem.bytes s.mem s.arg.y 1296
      let prog := microProgram tile
      let held (t : State) : Option PlaitEnt := t.plaitEnt? s.arg.x s.arg.p s.arg.y
      (s.arg.z = 0 → runsDense tile = false → ∃ t, exec .plaiterCompileDone s = .next t ∧
        held t = some { e with prog := prog, wts := macWeights tile prog } ∧
        ⟨s.now + 16 + prog.length, 0, 0, .row .plaiterCompileDone { s.arg with z := 1 }⟩ ∈ t.agenda) ∧
      (s.arg.z = 1 → e.waiters = [] → ∃ t, exec .plaiterCompileDone s = .next t ∧
        held t = some { e with st := if e.prog = [] then .dense else .program })))

/-- R205, R214, R245 and R296: SCAT reaches the owning tile: the word takes its new value by form, every other byte stays (but for the log entry of a
NaN that SCAT.FADD generates), and the old value returns; one whose address is mapped no more traps. R36, R310 and R311: the order of scores and what
a list does with a pair; TOPK's firing, and the emission of its list with the closing tokens. -/
def Obligations.ScatterAndTopk : Prop :=
  (
    ∀ (s : State) (f : Fire), s.sound → (s.page s.arg.p s.arg.pg).fire? s.arg.fid = some f → f.phase = .engine → f.acted = false → s.arg.z = 0 →
      (opF f.word).toNat = 0x65 →
      let p := s.arg.p
      let pg := s.arg.pg
      let fa := (valOf (f.l.map Arr.tok)).toNat
      let r := valOf (f.r.map Arr.tok)
      (∀ key, (s.part p).fabKey fa = some key →
        let v : Word := BitVec.ofNat 32 (Mem.num s.mem key 4)
        let back := 1 + (s.part p).pathCost (fabPage fa) (fabTile fa) pg f.tile
        let becomes (n : Word) : Prop := ∃ u : State,
          exec .scatApply s = .next (u.engineAnswer p pg f.fid (s.now + back) (withPoison (tokV v) (curOf p pg f).firstOrigin)) ∧
          Mem.num u.mem key 4 = n.toNat ∧ ∀ a, a < key ∨ key + 4 ≤ a → Mem.byte u.mem a = Mem.byte s.mem a
        ((xF f.word).toNat = 0 → becomes (v + r)) ∧
        (let sum := addNum .rne (decodeF fp32 v.toNat) (decodeF fp32 r.toNat)
         ((xF f.word).toNat = 1 → (curOf p pg f).firstOrigin ≠ none ∨ sum.2 = 0 → becomes (BitVec.ofNat 32 sum.1)) ∧
         ((xF f.word).toNat = 1 → (curOf p pg f).firstOrigin = none → sum.2 ≠ 0 →
          let z := ({ s with mem := Mem.sets s.mem key (leBytes 4 (BitVec.ofNat 32 sum.1).toNat) } : State).newOrigin p pg f.tile f.tag f.gen sum.2 0x65 1 0
          exec .scatApply s =
            .next ((z.1.reportPoison p z.2 fa true).engineAnswer p pg f.fid (s.now + back) (tokV v)))) ∧
        ((xF f.word).toNat = 2 → becomes (if v.toInt < r.toInt then r else v)) ∧
        ((xF f.word).toNat = 3 → becomes (if r.toInt < v.toInt then r else v)) ∧
        ((xF f.word).toNat = 4 → becomes (v ||| r))) ∧
      ((s.part p).fabKey fa = none → exec .scatApply s =
        .next (s.engineTrap p pg f.id f.strand f.tile f.tag f.word f.blk f.gen 0x02 1280 fa))) ∧
  (
    (∀ a b : Token × Token,
      ranksAbove a b = true ↔
        ((fpNaN b.1.val ∧ ¬fpNaN a.1.val) ∨ (¬fpNaN a.1.val ∧ ¬fpNaN b.1.val ∧ fpValue b.1.val < fpValue a.1.val) ∨
          (((fpNaN a.1.val ∧ fpNaN b.1.val) ∨ (¬fpNaN a.1.val ∧ ¬fpNaN b.1.val ∧ fpValue b.1.val = fpValue a.1.val)) ∧
            a.2.val.toNat < b.2.val.toNat))) ∧
    (∀ (x : Token × Token) (l : List (Token × Token)), (rankIn x l).Perm (x :: l) ∧
      (l.Pairwise (fun a b => ranksAbove b a = false) → (rankIn x l).Pairwise (fun a b => ranksAbove b a = false))) ∧
    (∀ (s : State) (f : Fire) (pr : BitVec 2) (k : BitVec 5) (t1 t0 : Target) (l r : Token),
      (s.page s.cur.p s.cur.pg).fire? s.cur.fid = some f → s.cur.pRuns pr → s.cur.l = some l → s.cur.r = some r →
      let p := s.cur.p
      let pg := s.cur.pg
      let fibre := fibreOf s.cur.tag
      let list := (s.page p pg).topkOf s.cur.tile fibre
      (l.null = false → r.null = false → ∃ t, exec (.topk pr k t1 t0) s = .next t ∧ t.agenda = s.agenda ∧ t.mem = s.mem ∧
        (t.page p pg).topkOf s.cur.tile fibre = { list with fibre := fibre, pairs := (rankIn (l, r) list.pairs).take (k.toNat + 1) }) ∧
      (l.null = true → l.eof = true → ∃ t, exec (.topk pr k t1 t0) s = .next t ∧
        ⟨s.now + 2, 0, srcOf pg s.cur.tile, .row .topkEmit { p := p, pg := pg, id := s.cur.id, x := s.cur.tile, fid := s.cur.fid, tag := s.cur.tag }⟩
          ∈ t.agenda) ∧
      ((l.null = true ∧ l.eof = false) ∨ (l.null = false ∧ r.null = true) → exec (.topk pr k t1 t0) s = .next s.silent)) ∧
    (∀ (s : State) (f : Fire), (s.page s.arg.p s.arg.pg).fire? s.arg.fid = some f →
      let p := s.arg.p
      let pg := s.arg.pg
      let list := (s.page p pg).topkOf s.arg.x (fibreOf s.arg.tag)
      let u : State := { s.modFire p pg f.fid (fun g => { g with acted := true }) with cur := curOf p pg f }
      let arrives (t : State) (tg : Target) (k : Token) : Prop :=
        tg ≠ .none → ∀ tag, u.carryTag u.cur tg = some tag → u.arrivalOf s.now tg tag k ∈ t.agenda
      (∀ score index, list.pairs[s.arg.z]? = some (score, index) → ∃ t, exec .topkEmit s = .next t ∧
        (let o := (origOf (some score)).orElse fun _ => origOf (some index)
         arrives t (targetsOf f.word).1 (withPoison (tokV index.val) o) ∧ arrives t (targetsOf f.word).2 (withPoison (tokV score.val) o)) ∧
        ⟨s.now + 1, 0, srcOf pg f.tile, .row .topkEmit { s.arg with z := s.arg.z + 1 }⟩ ∈ t.agenda) ∧
      (list.pairs[s.arg.z]? = none → ∃ t, exec .topkEmit s = .next t ∧
        (let m : Token := { val := BitVec.ofNat 32 list.pairs.length, null := true, eof := true }
         arrives t (targetsOf f.word).1 m ∧ arrives t (targetsOf f.word).2 m) ∧
        (t.page p pg).topk = (s.page p pg).topk.filter (fun k => k.tile != f.tile))))

/-- R277 to R280: CNV at an island that no other instance claims and that does not load; images and their loading; and the tokens of ports. -/
def Obligations.ConversionIslands : Prop :=
  (∀ (s : State) (f : Fire) (pr : BitVec 2) (path : BitVec 3) (t1 t0 : Target),
    (s.page s.cur.p s.cur.pg).fire? s.cur.fid = some f → s.cur = curOf s.cur.p s.cur.pg f → s.cur.verdict pr = .run →
    let p := s.cur.p
    let pg := s.cur.pg
    let k := (xF f.word).toNat / 4 % 2
    let n := (xF f.word).toNat % 4
    let z := s.cnvIsl p pg k
    let later (t : State) (r : Token) : Prop := ∃ a : Args, a.p = p ∧ a.pg = pg ∧ a.fid = f.fid ∧ a.z = 2 ∧ a.tok = r ∧
      ⟨s.now + 10, 0, srcOf pg f.tile, .row .cnvPortInput a⟩ ∈ t.agenda
    ((s.page p pg).cnv.owner = none ∨ (s.page p pg).cnv.owner = some f.id) →
    (z.busy = false → s.cur.firstOrigin = none → (z.run n s.lv.toNat (s.cnvWord p f.id f.strand f.tile f.tag)).2.1 = 0 →
      ∃ t, exec (.cnv pr path t1 t0) s = .next t ∧ (t.page p pg).cnv.owner = some f.id ∧ t.mem = s.mem ∧
        later t (tokV (BitVec.ofNat 32 (z.run n s.lv.toNat (s.cnvWord p f.id f.strand f.tile f.tag)).1))) ∧
    (∀ o, z.busy = false → s.cur.firstOrigin = some o → ∃ t, exec (.cnv pr path t1 t0) s = .next t ∧ t.mem = s.mem ∧
      later t (withPoison (tokV (BitVec.ofNat 32 (z.run n s.lv.toNat (s.cnvWord p f.id f.strand f.tile f.tag)).1)) (some o))) ∧
    (z.busy = true → k < (s.page p pg).cnv.isl.length → ∃ t, exec (.cnv pr path t1 t0) s = .next t ∧ t.agenda = s.agenda ∧
      (t.cnvIsl p pg k).waits = z.waits ++ [(.cnvPortInput, { p := p, pg := pg, id := f.id, fid := f.fid, tag := f.tag, z := 1 })])) ∧
  (∀ (z : CnvIsl) (path l w : Nat),
    (z.image = .none → z.run path l w = (0, 1, z.flops)) ∧
    (∀ m ks luts ins flops paths, z.image = .mem m ks luts ins flops paths → bitAt m path = false → z.run path l w = (0, 1, z.flops)) ∧
    (∀ fmt srm, z.image = .std fmt srm → 2 ≤ path → z.run path l w = (0, 1, z.flops))) ∧
  (∀ (s : State), let p := s.arg.p
    let pg := s.arg.pg
    let k := s.arg.x
    let z := s.cnvIsl p pg k
    let ctl := (csrWord (s.page p pg).cnv.csr 0x048).toNat / 2 ^ (16 * k) % 65536
    let next := s.arg.w0.toNat % 4
    ((s.page p pg).cnv.owner ≠ some s.arg.id → exec .cnvImageLoad s = .next s ∧ exec .cnvLoadDone s = .next s) ∧
    (k < 2 → (∃ y ∈ (s.part p).pages, y.num = pg) → 2 ≤ (s.page p pg).cnv.isl.length → (s.page p pg).cnv.owner = some s.arg.id →
    (z.busy = false → ctl % 4 ≠ 2 → ∃ t, exec .cnvImageLoad s = .next t ∧ (t.cnvIsl p pg k).busy = true ∧
      ∃ a : Args, a.x = k ∧ a.w0 = BitVec.ofNat 32 ctl ∧
        ⟨(if z.lastIn = 0 then s.now else max s.now (z.lastIn + 10)) + 20, 0, srcOf pg 0, .row .cnvLoadDone a⟩ ∈ t.agenda) ∧
    (z.busy = true → ∃ t, exec .cnvImageLoad s = .next t ∧ (t.cnvIsl p pg k).waits = z.waits ++ [(.cnvImageLoad, s.arg)]) ∧
    (let holds (i : CnvImage) (err : Bool) : Prop := ∃ t, exec .cnvLoadDone s = .next t ∧ t.cnvIsl p pg k = { image := i, err := err }
     (next = 0 → holds .none false) ∧
     (next = 1 → ∀ fmt srm, s.arg.w0.toNat / 4 % 32 = fmt → s.arg.w0.toNat / 128 % 8 = srm →
       (srm ≤ 4 → fmt ∈ [1, 2, 3, 4, 5, 6, 7, 8, 9, 10, 14] → holds (.std fmt srm) false) ∧ (4 < srm → holds .none true)) ∧
     (next = 2 → ∀ e, s.readVa p ((s.arg.l[0]?).getD 0) 2080 false = .error e → holds .none true) ∧
     (∀ b i, next = 2 → s.readVa p ((s.arg.l[0]?).getD 0) 2080 false = .ok b → imageOf b = some i → holds i false)))) ∧
  (∀ (s : State), let p := s.arg.p
    let pg := s.arg.pg
    (s.arg.z = 2 → exec .cnvPortInput s = .next (s.engineAnswer p pg s.arg.fid s.now s.arg.tok)) ∧
    (s.arg.z = 0 → s.arg.tok.null = true → s.arg.tok.pois = false → (s.cnvIsl p pg ((s.arg.x - 24) / 4)).busy = false →
      let ret := (csrWord (s.page p pg).cnv.csr (0x04D + (s.arg.x - 24) / 4)).toNat / 2 ^ (8 * ((s.arg.x - 24) % 4)) % 256
      ∀ q ∈ [(1, Pos.l), (2, .r), (3, .p)], ret / 64 = q.1 → exec .cnvPortInput s = .next (s.sched (s.now + 10) (srcOf pg 0) .tokenArrival
        { p := p, pg := pg, tg := .queue q.2 (BitVec.ofNat 6 (ret % 64)), tag := s.arg.tag, tok := tokNull, fid := s.arg.fid })))

/-- R301 to R306, R308 and R310: the course of a copy command, from its arrival at its engine through its elements to its completion; and the write
pointers. -/
def Obligations.CopyEngines : Prop :=
  (∀ (s : State) (f : Fire) (l : List Piece), (s.page s.arg.p s.arg.pg).fire? s.arg.fid = some f → f.phase = .engine → s.arg.z = 3 →
    (s.part s.arg.p).copy? f.fid = none → (∀ o, (s.part s.arg.p).copyOld f = some o → o.lost = false) →
    let p := s.arg.p
    let c := cpyCmd s.arg.pg f
    s.copyAccess p c.win false c.descVa 64 64 = .ok l →
    let d := ofLE (s.pieceBytes l)
    let e : CopyCmd := { (c.bind f.wins d) with desc := d, ch := d / 2 ^ 384 % 8 }
    (c.eng / 4, c.eng % 4) ∈ (s.part p).engines → e.malformed = false →
    exec .copyCommandBegin s = .next (s.copyAccept p e ((s.part p).copyOld f))) ∧
  (∀ (s : State) (p : Nat) (c : CopyCmd) (t : Token), c.tw = false → c.line = none →
    let j := c.sent
    let row := j / c.n
    let col := j % c.n
    let elem (va dest : Nat) : Prop := ∀ l, s.copyAccess p c.sw false va c.e c.align = .ok l →
      s.copyElem p c t = .ok (dest, s.pieceBytes l, s.lineAfter c l)
    let index (i : Nat) : Prop := s.copyNum p c.sw (c.idxVa + 4 * j) 4 = .ok i
    (c.form = 0 → elem (c.srcVa + j * c.e) (c.dstVa + j * c.e)) ∧
    (c.form = 1 → elem (c.srcVa + row * c.sstride + col * c.e) (c.dstVa + row * c.dstride + col * c.e)) ∧
    (∀ i, c.form = 2 → index i → elem (c.srcVa + i * c.sstride) (c.dstVa + j * c.dstride)) ∧
    (∀ i, c.form = 3 → index i → elem (c.srcVa + j * c.sstride) (c.dstVa + i * c.dstride)) ∧
    (c.form = 4 → s.copyElem p c t = .ok (c.dstVa + j * c.e, leBytes c.e c.srcVa, none))) ∧
  (∀ (s : State) (k : Nat) (bs : List Byte) (x : Piece), x.key / 64 = k → x.key % 64 + x.len ≤ 64 →
    s.lineBytes (some (k, bs)) x = (bs.drop (x.key % 64)).take x.len) ∧
  (∀ (s : State) (c : CopyCmd) (va : Nat) (bs : List Byte) (line : Option (Nat × List Byte)) (l : List Piece),
    (s.part s.arg.p).copy? s.arg.x = some c → s.arg.z ≠ 2 →
    c.stopped = false → c.stopping = false → c.begun = true → (s.part s.arg.p).frozen = false → c.tw = false → c.peer = none →
    c.tail = [] → c.held = 0 →
    (∀ pg, s.copyGated s.arg.p c = some pg → exec .copyWritePerform s = .next (s.copyWait s.arg.p pg .copyWritePerform)) ∧
    (s.copyGated s.arg.p c = none → s.copyElem s.arg.p c (((c.took.head?).map (fun a => a.1.tok)).getD {}) = .ok (va, bs, line) →
    s.copyAccess s.arg.p c.dw true va c.e c.align = .ok l →
    (s.copyShares s.arg.p c va = false →
      ∃ u : State, exec .copyWritePerform s = .next (u.copyStep s.arg.p c.num 64) ∧ u.mem = (s.copyPut l bs).mem ∧
        ∃ d, (u.part s.arg.p).copy? c.num = some d ∧ d.sent = c.sent + 1 ∧ d.elems = c.sent + 1 ∧ d.bytes = c.bytes + c.e) ∧
    (∀ x, s.copyShares s.arg.p c va = true → l = [x] → bs.length = x.len → 0 < x.len → x.key / 64 = (x.key + x.len - 1) / 64 →
      isSram (x.key + x.len - 1) = false →
      ∃ u : State, exec .copyWritePerform s = .next (u.copyStep s.arg.p c.num 64) ∧ u.mem = s.mem ∧
        ∃ d, (u.part s.arg.p).copy? c.num = some d ∧ d.sent = c.sent + 1 ∧ d.tail = [(x.key, bs)] ∧ d.held = 1 ∧ d.bytes = c.bytes))) ∧
  (∀ (s : State) (c : CopyCmd), (s.part s.arg.p).copy? s.arg.x = some c → c.stopped = false → (s.part s.arg.p).frozen = false → s.arg.z = 0 →
    c.resume = false → c.peer = none →
    let done (u : State) : Prop := exec .copyComplete s = .next ((u.copyEnd s.arg.p c).copyLook s.arg.p c.eng c.ch)
    (∀ pg, s.copyStill s.arg.p c = some pg → exec .copyComplete s = .next (s.copyWait s.arg.p pg .copyComplete)) ∧
    (s.copyStill s.arg.p c = none → c.sig = false → done s) ∧
    (∀ w, s.copyStill s.arg.p c = none → c.sig = true → (s.part s.arg.p).handleOk c.handle = true → (s.part s.arg.p).inMemory c.handle = false →
      (s.obj s.arg.p c.handle).st = .word w → ∃ u : State, done u ∧ (u.obj s.arg.p c.handle).st = .word (w + 1) ∧ u.mem = s.mem)) ∧
  (∀ (s : State), 16 ≤ s.arg.x → (s.part s.arg.p).copies = [] →
    exec .copyStreamToken s = .next (s.modPage s.arg.p s.arg.pg (fun y => { y with
      ports := y.ports ++ [(s.arg.x - 16, ⟨s.arg.tok, s.arg.fid, s.arg.y⟩, s.arg.tag, s.now)] }))) ∧
  (∀ (s : State) (pr : BitVec 2) (ch : BitVec 3) (t1 t0 : Target), s.cur.verdict pr = .run →
    (s.pageEngine = none → exec (.wptr pr ch t1 t0) s = s.givesKind 28 t1 t0 0 1 ∧ exec (.wptrW pr ch t1 t0) s = s.givesKind 28 t1 t0 0 1) ∧
    (∀ eng, s.pageEngine = some eng →
      let k := (s.part s.cur.p).chan eng ch.toNat
      exec (.wptr pr ch t1 t0) s = s.gives 28 t1 t0 k.wptr ∧
      (0 ≤ (k.wptr - s.lv).toInt → exec (.wptrW pr ch t1 t0) s = s.gives 28 t1 t0 k.wptr) ∧
      ((k.wptr - s.lv).toInt < 0 → ∃ t, exec (.wptrW pr ch t1 t0) s = .next t ∧ t.agenda = s.agenda ∧ t.mem = s.mem ∧
        ((∃ x ∈ s.parts, x.num = s.cur.p) → ((t.part s.cur.p).chan eng ch.toNat).waits = k.waits ++ [(s.cur.pg, s.cur.fid)]))))

/-- R174, R175, R178 and R353: a call that fires becomes outstanding and asks for its callee's area; CALLR and SYSC read their descriptor first. -/
def Obligations.CallsLeave : Prop :=
  ∀ (s : State) (pr : BitVec 2) (fn n : BitVec 5) (t1 t0 : Target) (f : Fire), (s.page s.cur.p s.cur.pg).fire? s.cur.fid = some f →
    s.cur.verdict pr = .run →
    let p := s.cur.p
    let reg (o : Option Token) : Reg := (o.map regOf).getD {}
    let called (i : Instr) (d : Desc) (args : List Reg) : Prop := ∃ t, exec i s = .next t ∧ t.mem = s.mem ∧
      (t.part p).requests = (s.part p).requests ++ [{
        kind := .call s.cur.id s.cur.fid, desc := d, args := args, wins := s.curAct.wins, pg := s.curInst.page0, since := s.now }] ∧
      (t.page p s.cur.pg).fire? s.cur.fid = some { f with phase := .out, acted := true } ∧
      (∀ x ∈ s.agenda, x ∈ t.agenda) ∧ (∃ at' a, a.p = p ∧ s.now ≤ at' ∧ ⟨at', 3, 0, .row .pelorusRound a⟩ ∈ t.agenda)
    let lrc := [reg s.cur.l, reg s.cur.r, reg s.cur.c]
    let va := s.curAct.blk / 2 ^ 32 * 2 ^ 32 + s.lv.toNat
    (s.pending p .pelorusRound = false →
      (∀ d, kget s.curAct.descs s.cur.tile = some d → called (.call pr fn t1 t0) d (lrc.take d.arity)) ∧
      (∀ d, kget s.curAct.descs s.cur.tile = none → s.functionDesc p s.curInst.image fn.toNat = .ok d →
        called (.call pr fn t1 t0) d (lrc.take d.arity)) ∧
      (∀ d, va % 64 = 0 → s.readDesc p va = .ok d →
        (d.arity = 0 → s.cur.r = none → s.cur.c = none → called (.callr pr t1 t0) d []) ∧
        (d.arity = 1 → s.cur.r ≠ none → called (.callr pr t1 t0) d [reg s.cur.r]) ∧
        (d.arity = 2 → s.cur.r ≠ none → s.cur.c ≠ none → called (.callr pr t1 t0) d [reg s.cur.r, reg s.cur.c])) ∧
      (∀ d, s.defaultHandler p = some (.ok d) →
        called (.sysc pr n t1 t0) d [{ val := BitVec.ofNat 32 (256 + n.toNat) }, reg s.cur.l, reg s.cur.r])) ∧
    (va % 64 ≠ 0 → exec (.callr pr t1 t0) s = .next (s.trap 0x04 64 va)) ∧
    (∀ d, va % 64 = 0 → s.readDesc p va = .ok d → d.arity = 3 → exec (.callr pr t1 t0) s = .next (s.trap 0x05 0x13 0)) ∧
    (∀ e, va % 64 = 0 → s.readDesc p va = .error e → exec (.callr pr t1 t0) s = .next (s.trap e.code e.detail e.va)) ∧
    (s.defaultHandler p = none → exec (.sysc pr n t1 t0) s =
      .next (s.emit 1 t0 t1 (withPoison (tokV 0xFFFFFFFF) s.cur.firstOrigin) (withPoison tokNull s.cur.firstOrigin))) ∧
    (∀ e, s.defaultHandler p = some (.error e) → exec (.sysc pr n t1 t0) s = .next (s.trap e.code e.detail e.va))

/-- R182, R183, R188, R190, R194 to R198, R174, R179 and R46: a round grants the request that has gone first, or fails it; what a new instance is; how
its callee starts, its results return and its pages are torn down; and the speculative fetches, which change nothing else. -/
def Obligations.Placement : Prop :=
  (∀ (s : State) (r : Request), let p := s.arg.p
    let x := s.part p
    let u := s.modPart p (fun x => { x with nextRound := s.now + 6 })
    let here : Request := { r with pg := (u.part p).reqPg r }
    x.frozen = false → x.vf.state ≠ .paused → s.arg.z = 0 → x.requests = [r] → r.since ≤ s.now → r.saving = [] → r.rect = [] →
    ((u.part p).rects r.desc.w r.desc.h = [] →
      exec .pelorusRound s = .next ((u.failRequest p here 3).kick p)) ∧
    (∀ c fid rect id, r.kind = .call c fid → (u.part p).stepsTo4 here.pg ((u.part p).reqPages here s.now) r.desc.w r.desc.h
        ((u.part p).isFree s.now) = some rect → (u.part p).rects r.desc.w r.desc.h ≠ [] →
      lowestFree ((u.part p).insts.map Inst.id) 65536 0 = some id →
      exec .pelorusRound s = .next ((u.newInst p here rect false id (.call c fid) ((u.part p).prePlaced.contains (r.desc.va, rect.headD 0))).kick p))) ∧
  (∀ (s : State), let x := s.part s.arg.p
    (s.arg.z ≠ 1 → (x.frozen = true ∨ x.vf.state = .paused) → exec .pelorusRound s = .next s) ∧
    (s.arg.z = 1 → exec .pelorusRound s = .next ((s.modPart s.arg.p (fun x => { x with requests := x.requests.map (fun r =>
      { r with saving := r.saving.filter (· != s.arg.id) }) })).kick s.arg.p)) ∧
    (x.frozen = false → x.vf.state ≠ .paused → s.arg.z = 2 → exec .pelorusRound s = .next (s.readmit s.arg.p)) ∧
    exec .requestPromote s = .next ((s.modPart s.arg.p (fun x => { x with requests := x.requests.map (fun r =>
      { r with promoted := r.promoted || decide (r.since + 4096 < s.now) }) })).kick s.arg.p)) ∧
  (∀ (s : State) (p : Nat) (r : Request) (rect : List Nat) (fold pre : Bool) (id : Nat) (o : Origin), let x := s.part p
    let t := s.newInst p r rect fold id o pre
    (∃ x ∈ s.parts, x.num = p) → rect ≠ [] →
    t.mem = s.mem ∧ ∃ i, (t.part p).insts = x.insts ++ [i] ∧ i.id = id ∧ i.gen = ((kget x.idGen id).getD 0 + 1) % 8 ∧
      kget (t.part p).idGen id = some i.gen ∧ i.status = .running ∧ i.strands.map Strand.pg = rect ∧
      i.strands.map Strand.num = List.range rect.length ∧ (∀ st ∈ i.strands, st.ended = false ∧ st.host = !fold) ∧
      i.base = r.desc.prio ∧ i.age = s.tsBase + s.now * 20 / 17 ∧ i.wins = r.wins ∧ i.origin = o ∧ i.nregs = r.desc.nregs ∧
      i.regs.length = 64 ∧ (∀ g v, r.args[g]? = some v → g < 64 → i.regs[g]? = some v) ∧ (∀ g, r.args.length ≤ g → g < 64 → i.regs[g]? = some ({} : Reg)) ∧
      (∃ e ∈ t.agenda, e.ts = s.now + x.startDelay r.kind r.pg rect fold pre ∧
        ∃ a, e.act = .row .calleeStart a ∧ a.p = p ∧ a.id = id ∧ a.x = i.gen)) ∧
  (∀ (x : Part) (k : ReqKind) (pg c fid : Nat) (rect : List Nat), let far := x.pageCost pg (rect.headD 0)
    x.startDelay (.call c fid) pg rect true false = far + 40 ∧ x.startDelay (.call c fid) pg rect false true = far + 20 ∧
    x.startDelay (.call c fid) pg rect false false = far + 46 + 4 * (rect.length - 1) ∧
    ((∀ c fid, k ≠ .call c fid) → x.startDelay k pg rect false false = far + 40 + 4 * (rect.length - 1))) ∧
  (∀ (s : State), let a := s.arg
    let p := a.p
    let i := s.inst p a.id
    (i.gen ≠ a.x → exec .calleeStart s = .next s) ∧
    (∀ st, i.gen = a.x → i.strands = [st] →
      let begins (t : State) : Out := .next (t.sched t.now (srcOf st.pg 0) .blockFetch { p := p, pg := st.pg, id := i.id, tag := tagOf i.id i.gen })
      (a.z = 0 → exec .calleeStart s = begins s) ∧
      (a.z ≠ 0 → exec .calleeStart s = begins (s.flush p a.y) ∧ ∀ w ∈ ((s.flush p a.y).part p).posted, w.id ≠ a.y)) ∧
    (i.save ≠ none → exec .callResult s = .next (s.holdSaved p a.id .callResult a)) ∧
    (∀ pg f, i.save = none → s.fireOf p a.id a.fid = some (pg, f) → (curOf p pg f).firstOrigin = none → origOf (curOf p pg f).pt = none →
      exec .callResult s = .next ((((s.answer p pg a.fid s.now a.tok a.tok1).wake p pg).checkDone p pg f.tag).kick p)) ∧
    (let u := s.sched s.now 0 .preemptionComplete { p := p }
     (i.status = .ended → (∀ st ∈ i.strands, st.ended = true ∧ st.endAt + 8 ≤ s.now) → exec .teardown s =
        .next (((u.modPart p (fun x => { x with insts := x.insts.filter (fun j => j.id != i.id || j.gen != i.gen) })).readmit p).kick p)) ∧
     (i.status ≠ .ended ∨ (∃ st ∈ i.strands, st.ended = false ∨ s.now < st.endAt + 8) → exec .teardown s = .next ((u.readmit p).kick p))) ∧
    (∃ t : State, exec .prePlace s = .next t ∧ t.mem = s.mem ∧ t.agenda = s.agenda ∧ (t.part p).insts = (s.part p).insts ∧
      (t.part p).pages = (s.part p).pages ∧ (t.part p).requests = (s.part p).requests) ∧
    (∀ g : Instr, g = .configPrefetch ∨ g = .contextFetch → ∃ t : State, exec g s = .next t ∧ t.mem = s.mem ∧ t.agenda = s.agenda ∧
      (t.part p).insts = (s.part p).insts ∧ ∀ pg, (t.page p pg).ents = (s.page p pg).ents ∧ (t.page p pg).acts = (s.page p pg).acts ∧
        (t.page p pg).fires = (s.page p pg).fires ∧ (pg ≠ a.pg → t.page p pg = s.page p pg)) ∧
    (∀ y : Page, (s.part p).pages = [y] → y.num = a.pg → y.liveCtx < 4 → (∃ x ∈ s.parts, x.num = p) →
      ∃ t, exec .configPrefetch s = .next t ∧ a.x ∈ (t.page p a.pg).ctxs ∧ (t.page p a.pg).ctxs.length ≤ 4 - y.liveCtx))

/-- R340, R345, R346 and R348 to R352: the system instructions and the accesses to control registers. -/
def Obligations.SystemForms : Prop :=
  ∀ (s : State) (pr : BitVec 2) (n : BitVec 5) (csr : BitVec 14) (t1 t0 : Target),
    let p := s.cur.p
    let pg := s.cur.pg
    let lat := if csr.toNat < 0x080 then 2 else 40
    let read := s.readCsr p pg s.cur.id s.cur.strand csr.toNat
    (s.cur.verdict pr = .run →
      exec (.trap pr n) s = .next (s.silent.trap (0x20 + n.toNat) s.lv.toNat 0) ∧
      exec (.rft pr) s = .next (s.silent.settle.modAct p pg s.cur.tag (fun a => { a with rfts := a.rfts ++ [(s.cur.tile, s.lv)] })) ∧
      (let sent := withPoison (tokV s.lv) s.cur.firstOrigin
       let u := (s.emit 1 t0 t1 sent sent).modFire p pg s.cur.fid (fun f => { f with acted := true })
       (bitAt ((u.part p).csrN 0x100) 0 = true → ∃ t, exec (.bkpt pr t1 t0) s = .next t ∧ t.mem = s.mem ∧
         ∀ q ∈ (s.part p).clusterOf pg, ∀ y, (t.part p).pages.find? (fun y => y.num == q) = some y → y.gated = true) ∧
       (bitAt ((u.part p).csrN 0x100) 0 = false → exec (.bkpt pr t1 t0) s = .next (u.trap 0x10 0 0))) ∧
      exec (.tsc pr t1 t0) s =
        s.givesTwo 2 t1 t0 (BitVec.ofNat 32 (s.tsBase + s.now * 20 / 17)) (BitVec.ofNat 32 ((s.tsBase + s.now * 20 / 17) / 2 ^ 32)) ∧
      exec (.trace pr n t1 t0) s = (s.traceRec p n.toNat (srcOf pg s.cur.tile) s.curAct.gen s.cur.tag s.lv 0).gives 1 t1 t0 s.lv ∧
      ((s.part p).tracing = false → exec (.trace pr n t1 t0) s = s.gives 1 t1 t0 s.lv) ∧
      (∃ t, exec (.evt pr n t1 t0) s = .next t ∧ t.mem = (s.flush p s.cur.id).mem ∧
        ⟨s.now + 900, 0, srcOf pg s.cur.tile, .row .eventRecordWrite
          { p := p, pg := pg, fid := s.cur.fid, tag := s.cur.tag, x := n.toNat, w0 := s.lv, z := 1 }⟩ ∈ t.agenda) ∧
      exec (.est pr t1 t0) s = (s.modInst p s.cur.id (fun i => { i with est := s.lv.toNat, estAt := s.now })).gives 2 t1 t0 0 ∧
      exec (.csrr pr csr t0) s = read.1.gives lat .none t0 read.2 ∧
      exec (.csrw pr csr t0) s = (s.writeCsr p pg s.cur.id s.cur.strand csr.toNat s.lv.toNat).gives lat .none t0 read.2 ∧
      (csr = 0 → exec (.csrr pr csr t0) s = s.gives 2 .none t0 (BitVec.ofNat 32 (s.cur.id + s.curInst.gen * 2 ^ 16 + s.cur.strand * 2 ^ 19))) ∧
      (csr.toNat ≤ 2 → exec (.csrw pr csr t0) s = s.gives 2 .none t0 read.2)) ∧
    (s.cur.verdict pr ≠ .run → exec (.trap pr n) s = .next s.silent ∧ exec (.rft pr) s = .next s.silent.settle) ∧
    (∀ o, s.cur.verdict pr = .nulls o → let nulls (k : Nat) (t1 : Target) : Out := .next (s.emit k t0 t1 (withPoison tokNull o) (withPoison tokNull o))
      exec (.bkpt pr t1 t0) s = nulls 1 t1 ∧ exec (.tsc pr t1 t0) s = nulls 2 t1 ∧ exec (.trace pr n t1 t0) s = nulls 1 t1 ∧
      exec (.evt pr n t1 t0) s = nulls 920 t1 ∧ exec (.est pr t1 t0) s = nulls 2 t1 ∧ exec (.csrr pr csr t0) s = nulls lat .none ∧
      exec (.csrw pr csr t0) s = nulls lat .none)

/-- R7 and R8: what a write of v leaves in each field of a register of the map, by the field's access code; a bit outside every field stays. -/
def Obligations.RegisterWrites : Prop :=
  ∀ d ∈ csrMap, ∀ (old v : Word),
    (∀ f ∈ d.fields,
      (f.acc = .rw → bits (d.merge old.toNat v.toNat) f.hi f.lo = bits v.toNat f.hi f.lo) ∧
      (f.acc = .ro ∨ f.acc = .wo ∨ f.acc = .rc → bits (d.merge old.toNat v.toNat) f.hi f.lo = bits old.toNat f.hi f.lo) ∧
      (f.acc = .w1c → ∀ k, f.lo ≤ k → k ≤ f.hi → bitAt (d.merge old.toNat v.toNat) k = (bitAt old.toNat k && !bitAt v.toNat k))) ∧
    (∀ k, (∀ f ∈ d.fields, k < f.lo ∨ f.hi < k) → bitAt (d.merge old.toNat v.toNat) k = bitAt old.toNat k)

/-- R331 to R334, R337, R339 and R340: taking a trap freezes its instance and records it, once the iterations below the trap's own have committed
(R162); the layout of a frame's header; and what follows the frame: a handler, or a double fault, and the re-injection that RFT asks for. -/
def Obligations.TakingATrap : Prop :=
  (∀ (s : State) (p id : Nat) (t : TrapRec) (i : Inst), (s.part p).inst? id = some i → isTrapTag t.tag = false →
    let u := s.takeTrap p id t
    let narea := bits ((s.part p).csrN 0x092) 27 16
    (t.code = 255 → u = s.sched s.now 0 .guardLineRead { p := p, x := t.va / 64 * 64, y := 1 }) ∧
    (t.code ≠ 255 → i.status ≠ .running → u = s) ∧
    (∀ a, t.code ≠ 255 → i.status = .running → s.early p t = some a →
      u = s.modAct p (t.src / 64) t.tag (fun a => { a with trapped := a.trapped.orElse fun _ => some t })) ∧
    (t.code ≠ 255 → i.status = .running → s.early p t = none →
      u.mem = s.mem ∧ u.fe = s.fe ∧ (u.inst p id).status = .frozen ∧ (u.inst p id).regs = i.regs ∧ (u.inst p id).wins = i.wins ∧
      (∀ tag, isTrapTag tag = false → u.mayRun p id tag = false) ∧
      (narea ≠ 0 → (u.inst p id).trapRec = some { t with ts := s.tsBase + s.now * 20 / 17 } ∧
        ⟨s.now + 8, 0, t.src, .row .trapFrameWrite { p := p, id := id }⟩ ∈ u.agenda) ∧
      (narea = 0 → (u.inst p id).trapRec = some { t with ts := s.tsBase + s.now * 20 / 17, double := true } ∧
        ∃ e : EvRec, e.ty = 0x02 ∧ e.pay = [t.code, id, i.gen] ∧ u.pfEvents = s.pfEvents ++ [(p, e)]))) ∧
  (∀ (t : TrapRec) (i : Inst) (e held off : Nat), let h := t.header i e held off
    h.length = 64 ∧
    ∀ x ∈ [(0, 1, t.code), (1, 1, if held = 0 then 0 else 1), (2, 2, t.src), (4, 2, i.id), (6, 1, i.gen), (7, 1, t.strand), (8, 8, t.ts),
        (16, 8, t.tag.toNat), (24, 8, t.va), (32, 4, t.detail.toNat), (36, 2, t.gen), (40, 4, e), (44, 4, held), (48, 4, off),
        (52, 4, (opF t.word).toNat + 128 * xOf t.word), (56, 8, t.blk)],
      ofLE ((h.drop x.1).take x.2.1) = x.2.2 % 256 ^ x.2.1) ∧
  (∀ (s : State) (t : TrapRec) (i : Inst), (s.part s.arg.p).inst? s.arg.id = some i → i.trapRec = some t → i.status = .frozen → t.double = false →
    t.area = none →
    let p := s.arg.p
    let x := s.part p
    let narea := bits (x.csrN 0x092) 27 16
    (∀ k u, t.cycle = [] → 64 + 16 * i.replay.length ≤ x.areaSize → k < narea → (∀ a ∈ x.areas, a.1 ≠ k) → (∀ j < k, ∃ a ∈ x.areas, a.1 = j) →
      s.writePinned p 4 (x.areaVa k) (t.header i i.replay.length 0 64 ++ i.replay.flatMap Replay.bytes) = .ok u →
      ∃ v : State, exec .trapFrameWrite s = .next (v.handle p i.id i.replay.length) ∧ v.mem = u.mem ∧
        (v.part p).areas = (u.part p).areas ++ [(k, i.id)] ∧
        ∀ j, (u.part p).inst? i.id = some j → v.inst p i.id = { j with replay := [], trapRec := some { t with
          area := some k, written := i.replay.length, place := [] } }) ∧
    ((∀ j < narea, ∃ a ∈ x.areas, a.1 = j) → t.waited = true → exec .trapFrameWrite s = .next s)) ∧
  (∀ (s : State) (p id written : Nat) (t : TrapRec), (s.inst p id).trapRec = some t →
    let i := s.inst p id
    let pg := i.pageOf t.strand
    (i.handler ≠ 0 → (s.page p pg).liveCtx < 4 → ⟨s.now + 56 + 4 * written, 0, srcOf pg 0, .row .trapHandlerStart
      { p := p, pg := pg, id := id, x := t.strand }⟩ ∈ (s.handle p id written).agenda) ∧
    (i.handler = 0 → i.descVa ≠ (s.part p).base64 0x094 6 → s.defaultHandler p = none → s.handle p id written = s.doubleFault p i.id t.code)) ∧
  (∀ (s : State), let a := s.arg
    let i := s.inst a.p a.id
    (i.status = .frozen → exec .trapHandlerStart s = .next ((s.modPage a.p a.pg (fun y => { y with nexts := y.nexts ++ [{
      tag := tagTrap i.id i.gen, id := i.id, strand := a.x, role := .trap, prio := 15, blk := i.handler, fromBlk := i.handler
      entry := true, ready := s.now }] })).sched s.now (srcOf a.pg 0) .blockFetch { p := a.p, pg := a.pg, id := i.id, tag := tagTrap i.id i.gen })) ∧
    (∀ l, i.gen = a.x → a.y = 0 → i.status = .frozen → i.saving = none → s.readFrame a.p i = some l → exec .replayInject s =
      .next (((s.modInst a.p a.id (fun i => { i with status := .running, inject := some l, replay := [] })).reloadImages a.p a.id).injectNext
        a.p a.id a.x)) ∧
    (i.gen = a.x → a.y = 0 → i.status = .saved → i.trapRec ≠ none → exec .replayInject s =
      .next (s.modInst a.p a.id (fun i => { i with save := i.save.map (fun v => { v with rft := true }) }))) ∧
    (i.gen = a.x → a.y = 0 → i.stopped = false → exec .replayInject s = .next (s.stale a.p i.page0 0)) ∧
    ((∀ t ∈ i.strands, ∀ b ∈ (s.page a.p t.pg).acts, b.id = a.id → b.rewrote = false) → s.reloadImages a.p a.id = s) ∧
    (i.gen = a.x → a.y = 1 → i.inject = some [] → exec .replayInject s = .next (s.resumeInst a.p a.id)) ∧
    (i.gen ≠ a.x → exec .replayInject s = .next (s.stale a.p i.page0 0) ∧ exec .instanceKill s = .next s) ∧
    (i.gen = a.x → exec .instanceKill s = .next (s.kill a.p a.id)))

/-- R22, R24, R25, R28 to R30, R125, R145, R155, R156 and R234: configuration changes and commits: the drain, the fetch of the next block, the
commit's registers, windows and posted stores, and what follows it. -/
def Obligations.BlocksGoOn : Prop :=
  (∀ (s : State) (n : NextBlk), let p := s.arg.p
    let pg := s.arg.pg
    let y := s.page p pg
    let i := s.inst p n.id
    y.nexts.find? (fun m => m.tag == s.arg.tag) = some n → s.mayRun p n.id n.tag = true →
    let stop := ((s.inst p n.id).strand? n.strand).any (fun t => t.stopReq)
    (y.undrained n.id n.strand n.tag (n.ret && n.role == .main) = true → exec .configDrain s = .next s) ∧
    (y.undrained n.id n.strand n.tag false = false → n.ret = false → (n.role ≠ .main ∨ stop = false) →
      exec .configDrain s = .next (s.sched (max s.now n.ready) (srcOf pg 0) .blockFetch { p := p, pg := pg, id := n.id, tag := n.tag })) ∧
    (∀ b, n.payload = [] → n.role ≠ .iter → y.act? n.tag = none →
      s.loadBlock p i n.strand (n.role == .main) (if n.entry then .entry else .exit) n.blk = .ok b →
      ∃ t a, exec .blockFetch s = .next t ∧ (t.page p pg).act? n.tag = some a ∧ a.id = n.id ∧ a.strand = n.strand ∧ a.role = n.role ∧
        a.blk = n.blk ∧ a.hdr = b.hdr ∧ a.mask = b.mask ∧ a.words = b.words ∧ a.started = s.now ∧ a.regs = i.regs ∧ a.wins = s.winsFor p i n.role ∧
        a.regW = [] ∧ a.stores = [] ∧ a.exit = none) ∧
    (∀ k f, s.loadBlock p i n.strand (n.role == .main) (if n.entry then .entry else .exit) n.blk = .error (k, f) →
      (y.ctxs.contains n.blk = false → exec .blockFetch s = .next (s.takeTrap p n.id (s.loadTrap p pg n n.blk k f))) ∧
      (y.ctxs.contains n.blk = true → exec .blockFetch s = .next (s.takeTrap p n.id (s.loadTrap p pg n n.blk none { f with va := n.blk }))))) ∧
  (∀ (s : State) (a : Act), let p := s.arg.p
    let pg := s.arg.pg
    (s.page p pg).act? s.arg.tag = some a → a.commitAt ≠ none → s.mayRun p a.id a.tag = true →
    let c := s.commitAct p pg a
    (s.commitWaits p pg a .blockCommit = none →
      (a.role = .main → a.latched = none → exec .blockCommit s = .next ((c.follow p pg a).applyRfts p pg a)) ∧
      (∀ e, a.role ≠ .main → a.latched = none → a.exit = some e → e.ret = true →
        exec .blockCommit s = .next ((c.endHandler p pg a).applyRfts p pg a)) ∧
      (∀ n body k fid, a.latched = some (n, body, k, fid) →
        exec .blockCommit s = .next ((c.holdLoop p pg a n body).applyRfts p pg a))) ∧
    (s.commitWaits p pg a .iterationRetire = none →
      (a.latched = none → exec .iterationRetire s = .next ((c.retire p pg a (s.iterRegs p pg a) 9).applyRfts p pg a)) ∧
      (∀ n body k fid, a.latched = some (n, body, k, fid) →
        exec .iterationRetire s = .next ((c.holdLoop p pg a n body).applyRfts p pg a))) ∧
    (∀ i, (s.part p).inst? a.id = some i →
      let j := (s.commitRegs p a).inst p a.id
      (∀ g, (∀ d ∈ a.regW, d.1 = g → d.2.tok.null = true) → j.regs[g]? = i.regs[g]?) ∧
      (∀ g x, g < i.regs.length → (g, x) ∈ a.regW → x.tok.null = false → (∀ d ∈ a.regW, d.1 = g → d = (g, x)) → j.regs[g]? = some (regOf x.tok)) ∧
      (a.setws = [] → j.wins = i.wins) ∧
      (∀ k w v win, i.wins[w]? = some win →
        (a.setws = [(k, w, 0, v)] → j.wins[w]? = some { win with base := v }) ∧
        (a.setws = [(k, w, 1, v)] → j.wins[w]? = some { win with limit := v }) ∧
        (a.setws = [(k, w, 2, v)] → j.wins[w]? = some { win with attr := v.setWidth 32 &&& 0x1FF }) ∧
        (∀ part u, u ≠ w → a.setws = [(k, w, part, v)] → j.wins[u]? = i.wins[u]?))) ∧
    ((s.commitStores p pg a).mem = s.mem ∧ (s.commitStores p pg a).fe = s.fe) ∧
    (∀ st, a.stores = [st] → a.nulled = [] → st.mch = none → ∃ w : Posted, ((s.commitStores p pg a).part p).posted = (s.part p).posted ++ [w] ∧
      w.id = a.id ∧ w.agent = agentOf a.strand a.tag ∧ w.slot = st.slot ∧ w.kind = st.kind ∧ (st.so = true → (s.part p).posted = [] → w.due = s.now) ∧ s.now ≤ w.due ∧
      w.cells = (List.range st.size).map (fun k => (st.key + k, BitVec.ofNat 8 (st.data.toNat / 2 ^ (8 * k)))))) ∧
  (∀ (s : State) (h : Act) (lp : LoopRec), let p := s.arg.p
    let pg := s.arg.pg
    (s.page p pg).act? s.arg.tag = some h → h.looping = some lp → s.mayRun p h.id h.tag = true → lp.stopped = false → lp.ready ≤ s.now →
    lp.words ≠ [] → 0 < lp.next → (s.page p pg).act? (tagIter h.tag lp.next) = none →
    (lp.next < lp.n → lp.next < lp.retired + (if lp.serial then 1 else 32) → ∃ t b, exec .loopIterationStart s = .next t ∧
      (t.page p pg).act? (tagIter h.tag lp.next) = some b ∧ b.iter = lp.next ∧ b.holder = h.tag ∧ b.role = .iter ∧ b.blk = lp.body ∧
      b.words = lp.words ∧ b.mask = lp.mask ∧ b.id = h.id) ∧
    (lp.n ≤ lp.next ∨ lp.retired + 32 ≤ lp.next → exec .loopIterationStart s = .next s)) ∧
  (∀ (s : State) (p pg : Nat) (a : Act) (e : ExitRec) (y : Page) (x : Part), a.exit = some e → a.role = .main →
    s.parts = [x] → x.num = p → x.pages = [y] → y.num = pg →
    ∃ n : NextBlk, ((s.follow p pg a).page p pg).nexts = y.nexts ++ [n] ∧ n.blk = e.addr ∧ n.ret = e.ret ∧ n.tag = a.tag ∧ n.ready = s.now + 8 ∧
      (e.ret = false → ∀ i, x.inst? a.id = some i → ∀ st, i.strand? a.strand = some st →
        (((s.follow p pg a).inst p a.id).strand? a.strand) = some { st with blk := e.addr }))

/-- R13, R21, R150 to R153 and R166 to R168: what reaches a page: tokens for its queues and registers, stale ones, returning and promoted ones, a
load's replay, and messages with the handlers that they start. -/
def Obligations.ArrivalsAtAPage : Prop :=
  (∀ (s : State) (i : Inst) (a : Act), let p := s.arg.p
    let pg := s.arg.pg
    let y := s.page p pg
    let tag := s.arg.tag
    let x : Arr := ⟨s.arg.tok, s.arg.fid, s.arg.x⟩
    let u := s.modPage p pg (fun y => y.stir (tagId tag) s.now)
    (s.part p).inst? (tagId tag) = some i →
    (i.gen ≠ tagGen tag → ∀ q slot, s.arg.tg = .queue q slot → exec .tokenArrival s = .next (s.stale p pg slot.toNat)) ∧
    (i.gen = tagGen tag → i.status = .running → i.inject = none → i.save = none → y.gated = false → y.reload = false →
      y.behind s.arg.tg s.arg.x = false → y.act? tag = some a → a.looping = none →
      (∀ q (slot : BitVec 6), s.arg.tg = .queue q slot → (∀ e ∈ y.ents, e.tile ≠ slot.toNat) → y.spill = [] →
        ∃ t, exec .tokenArrival s = .next t ∧ t.mem = s.mem ∧
          ∃ e ∈ (t.page p pg).ents, e.tile = slot.toNat ∧ e.tag = tag ∧ e.at q = some x ∧ ∀ u, u ≠ q → e.at u = none) ∧
      (∀ q (slot : BitVec 6) e b, s.arg.tg = .queue q slot → y.ents.find? (fun e => e.tile == slot.toNat && e.tag == tag) = some e →
        e.at q = some b → exec .tokenArrival s = .next (u.tagdup p pg a slot.toNat (posRank q) s.arg.tg s.arg.tok)) ∧
      (∀ g, s.arg.tg = .reg g → (∀ d ∈ a.regW, d.1 ≠ g.toNat) → ∃ t b, exec .tokenArrival s = .next t ∧ t.mem = s.mem ∧
        (t.page p pg).act? tag = some b ∧ b.regW = a.regW ++ [(g.toNat, x)]) ∧
      (∀ g d, s.arg.tg = .reg g → d ∈ a.regW → d.1 = g.toNat →
        exec .tokenArrival s = .next (u.tagdup p pg a (y.tileOf s.arg.fid 0) (4 + g.toNat * 256) s.arg.tg s.arg.tok)) ∧
      (∀ addr num slot, s.arg.tg = .none → s.arg.l = [addr, num, slot, 0] → a.id = i.id → a.exit = none → ∃ t b, exec .tokenArrival s = .next t ∧ t.mem = s.mem ∧
        (t.page p pg).act? tag = some b ∧ b.exit = some { addr := addr, num := num, slot := slot, fid := s.arg.fid, ret := false }))) ∧
  (∀ (s : State), let p := s.arg.p
    let pg := s.arg.pg
    let y := s.page p pg
    (∀ z, y.spill = [z] → s.arg.z ≠ 1 → z.tile = s.arg.x → z.tile < 64 → setOf z.tag = s.arg.y → (∀ e ∈ y.ents, e.tile ≠ z.tile) →
      (∀ w ∈ (s.part p).pages, w.held = []) →
      ∃ t, exec .spillReturn s = .next t ∧ t.mem = s.mem ∧ (t.page p pg).spill = [] ∧
        ∃ e ∈ (t.page p pg).ents, e.tile = z.tile ∧ e.tag = z.tag ∧ e.at z.pos = some z.arr) ∧
    (∃ t, exec .readySetPromote s = .next t ∧ (t.page p pg).ents = y.ents.map (fun e =>
      if e.tile = s.arg.x ∧ e.tag = s.arg.tag ∧ e.ready ≠ none then { e with promo := 2 } else e)) ∧
    (∀ f, y.fire? s.arg.fid = some f → f.acted = true →
      let u := s.withdraw p pg f.fid
      (s.arg.x = 0 → exec .loadReplay s = .next (u.sched (u.now + 2 + s.arg.y) (srcOf pg f.tile) .loadReply { p := p, pg := pg, fid := f.fid, tag := f.tag, x := 1 })) ∧
      (s.arg.x = 1 → exec .loadReplay s = .next (u.sched (u.now + (u.loadLegs p pg f.tile ((f.aux[0]?).getD 0) f.va f.key).1) (srcOf pg f.tile)
        .loadReply { p := p, pg := pg, fid := f.fid, tag := f.tag })))) ∧
  (∀ (s : State) (i : Inst) (st : Strand), let p := s.arg.p
    let pg := s.arg.pg
    let rt := s.arg.y
    (s.part p).inst? s.arg.id = some i → i.strand? s.arg.x = some st →
    let v : Word := BitVec.ofNat 32 (s.arg.w0.toNat % 65536)
    let sets (row : Instr) (csr : Nat) : Prop :=
      exec row s = .next (s.modStrand p s.arg.id s.arg.x (fun t => { t with csr := kset t.csr csr v }))
    (st.csrN 0x041 = 0 → sets .rtagen 0x040) ∧
    (s.arg.z = 0 → st.csrN 0x040 = 0 → (∀ z ∈ st.pendAt, z.2 ≠ s.now) → sets .rtagpend 0x041) ∧
    (i.status = .running → i.inject = none → i.save = none → st.ended = false → st.csrN 0x040 = 0 → rt < 16 →
      (∃ z ∈ (s.part p).pages, z.num = pg) → (∀ m ∈ (s.page p pg).msgs, ¬(m.id = s.arg.id ∧ m.strand = s.arg.x ∧ m.rt = rt)) →
      let held (row : Instr) (ch : Option Nat) : Prop :=
        (∀ m ∈ (s.page p pg).msgWait, m.id = s.arg.id → m.strand = s.arg.x → m.rt ≠ rt ∧ (ch ≠ none → m.ch ≠ ch)) → ∃ t, exec row s = .next t ∧ t.mem = s.mem ∧
        (t.page p pg).msgs = (s.page p pg).msgs ++ [{ strand := s.arg.x, id := s.arg.id, rt := rt, w0 := s.arg.w0, w1 := s.arg.w1, ch := ch }] ∧
        ∃ st', (t.inst p s.arg.id).strand? s.arg.x = some st' ∧ bitAt (st'.csrN 0x041) rt = true
      (s.arg.z = 0 → held .messageArrival none) ∧ held .multicastCopy (some s.arg.z)) ∧
    (∀ e, i.live = true → s.readTable p ((st.csrN 0x043 * 2 ^ 32 + st.csrN 0x042 / 16 * 16 + 16 * rt) % 2 ^ 64) 16 = .ok e →
      exec .handlerActivationStart s = .next ((s.modPage p pg (fun y => { y with nexts := y.nexts ++ [{
        tag := tagMsg i.id i.gen rt, id := s.arg.id, strand := s.arg.x, role := .msg rt, prio := e / 2 ^ 64 % 16, blk := e % 2 ^ 64,
        fromBlk := e % 2 ^ 64, entry := true, ready := s.now + 8, payload := [s.arg.w0, s.arg.w1] }] })).sched (s.now + 8) (srcOf pg 0)
        .blockFetch { p := p, pg := pg, id := s.arg.id, tag := tagMsg i.id i.gen rt })))

/-- R207 to R211, R219, R344, R374 to R380 and R422: walks, old translations (which one an access uses is free, log 13) and invalidations, the memory
guard (what DRAM holds of a line passes its check, and its cipher gives the plaintext back), and errors of the on-die stores. An integrity failure and
a tile SRAM error freeze the partition whole. -/
def Obligations.GuardAndStores : Prop :=
  (∀ (s : State), let a := s.arg
    let p := a.p
    let x := s.part p
    let busy (u : State) : Nat := bits ((u.part p).csrN 0x0A2) 31 31
    let fails (pa cause : Nat) (i : Instr) : Prop := exec i s = .next (s.integrityFail p pa cause)
    let stays (i : Instr) : Prop := ∃ t : State, exec i s = .next t ∧ t.mem = s.mem ∧ t.fe = s.fe ∧ t.parts = s.parts
    (∀ va, (s.translate x va = s.walkNow x va ∨ ∃ l ∈ s.oldLeaves x va, s.translate x va = .ok l) ∧
      ((∀ r ∈ s.oldPtes, r.p ≠ x.num) → s.translate x va = s.walkNow x va)) ∧
    (∀ l, s.translate x a.y = .ok l → ∃ t, exec .pageWalk s = .next t ∧ t.arg.z = 0 ∧ t.arg.x = l.pa ∧ t.arg.l = [l.pte] ∧ { t with arg := a } = s) ∧
    (∀ n, s.translate x a.y = .error n → ∃ t, exec .pageWalk s = .next t ∧ t.arg.z = 1 ∧ t.arg.x = n ∧ { t with arg := a } = s) ∧
    ((∃ x ∈ s.parts, x.num = p) →
      (∃ t, exec .tlbInvalidate s = .next t ∧ busy t = 1 ∧ t.mem = s.mem ∧
        (∀ r ∈ t.oldPtes, r.p = p → r.armed = true) ∧ t.oldPtes.map (fun r => (r.p, r.addr, r.old, r.dead)) = s.oldPtes.map (fun r => (r.p, r.addr, r.old, r.dead)) ∧
        ⟨s.now + 1, 0, 0, .row .tlbInvalidateDone { p := p, x := bits (x.csrN 0x0A2) 1 1, y := x.csrN 0x0A1 % 2 ^ 16 * 2 ^ 32 + x.csrN 0x0A0 / 65536 * 65536 }⟩ ∈
          t.agenda) ∧
      (∃ t, exec .tlbInvalidateDone s = .next t ∧ busy t = 0 ∧ t.mem = s.mem ∧ t.agenda = s.agenda ∧
        (a.x = 1 → (∀ r ∈ s.oldPtes, r.p = p → r.armed = true) → ∀ va, t.translate (t.part p) va = t.walkNow (t.part p) va) ∧
        (∀ r, r.p ≠ p ∨ r.armed = false → (r ∈ t.oldPtes ↔ r ∈ s.oldPtes ∨ (∃ q ∈ s.oldPtes, q.p = p ∧ q.armed = true ∧ a.x ≠ 1 ∧
          r = { q with armed := false, dead := a.y :: q.dead }))))) ∧
    (let good := s.lineGood (a.x / 64) (a.l.take 64) ((a.l[64]?).getD 0)
     let cause := if a.z = 1 then (if good then 0 else 1) else a.y
     (cause = 0 → a.x / 64 ∉ s.badLines → exec .guardLineRead s = .next s) ∧
     (x.frozen = false → cause = 0 → a.x / 64 ∈ s.badLines → fails a.x 1 .guardLineRead) ∧
     (x.frozen = false → cause ≠ 0 → ∃ t : State, exec .guardLineRead s = .next (t.integrityFail p a.x cause) ∧
       (∀ l, l ∈ t.badLines ↔ l ∈ s.badLines ∨ (cause ≠ 4 ∧ l = a.x / 64)) ∧ { t with badLines := s.badLines } = s)) ∧
    ((s.guardPage a.x).major + 1 = 2 ^ 64 → fails (a.x * 4096) 4 .pageReencrypt) ∧
    ((s.guardPage a.x).major + 1 < 2 ^ 64 → stays .pageReencrypt ∧ ∃ t, exec .pageReencrypt s = .next t ∧
      (t.guardPage a.x).major = (s.guardPage a.x).major + 1 ∧ (t.guardPage a.x).minors = []) ∧
    (let old : Nat := ((s.tree.find? (fun t => t.1 == a.x && t.2.1 == a.y)).map (fun t => t.2.2)).getD 0
     (old + 1 = 2 ^ 56 → fails (a.y * 8 ^ a.x * 4096) 4 .counterWriteback) ∧
     (old + 1 < 2 ^ 56 → stays .counterWriteback ∧ ∃ t, exec .counterWriteback s = .next t ∧
       t.tree.find? (fun t => t.1 == a.x && t.2.1 == a.y) = some (a.x, a.y, old + 1) ∧
       ∀ m n, ¬(m = a.x ∧ n = a.y) → t.tree.find? (fun t => t.1 == m && t.2.1 == n) = s.tree.find? (fun t => t.1 == m && t.2.1 == n)))) ∧
  (∀ (s : State) (line : Nat), s.lineGood line (s.dramLine line).1 (s.dramLine line).2 = true) ∧
  (∀ (n pa major minor : Nat) (l : List Nat), l.length = 64 → lineCipher (keyOf n) pa major minor (lineCipher (keyOf n) pa major minor l) = l) ∧
  (∀ (s : State) (p pa cause : Nat), (s.part p).frozen = false → (∃ x ∈ s.parts, x.num = p) → (∀ w ∈ s.windows, pa >>> 26 ∉ w.regions) → cause ≠ 5 →
    let t := s.integrityFail p pa cause
    t.mem = s.mem ∧ (t.part p).frozen = true ∧ (t.part p).integrity = true ∧ (t.part p).posted = [] ∧
    (∃ e : EvRec, e.ty = 0x03 ∧ e.pay = [pa % 2 ^ 32, pa / 2 ^ 32, cause, 0] ∧ (p, e) ∈ t.pfEvents ∧
      ((s.part p).vf.held.length < 256 → e ∈ (t.part p).vf.held)) ∧
    ∀ i ∈ (t.part p).insts, i.status ≠ .running) ∧
  (∀ (s : State), let a := s.arg
    let p := a.p
    let pg := a.pg
    let x := s.part p
    (∃ x ∈ s.parts, x.num = p) →
    (∃ t, exec .tileSramError s = .next t ∧ t.mem = s.mem ∧ (t.part p).frozen = true ∧
      ∃ e : EvRec, e.ty = 0x04 ∧ e.pay = [a.y] ∧ (p, e) ∈ t.pfEvents ∧ (x.vf.held.length < 256 → e ∈ (t.part p).vf.held)) ∧
    (let n := x.csrN 0x121
     ∃ t, exec .correctedError s = .next t ∧ t.mem = s.mem ∧ (t.part p).insts = x.insts ∧ (t.part p).pages = x.pages ∧
      (t.part p).csrN 0x121 = (if n + 1 < 2 ^ 32 then n + 1 else n) ∧ ∀ m, m ≠ 0x121 → (t.part p).csrN m = x.csrN m) ∧
    (∃ t, exec .imageCrcError s = .next t ∧ t.mem = s.mem ∧ (t.part p).insts = x.insts ∧ t.agenda = s.agenda ∧
      (t.page p pg).acts = (s.page p pg).acts ∧ a.x ∉ (t.page p pg).ctxs) ∧
    exec .lineCacheError s = .next (s.sched s.now 0 .guardLineRead { p := p, x := a.x / 64 * 64 }) ∧
    (let near : List (Nat × Nat × Nat) := s.cfgErrs.filter (fun e => e.1 == pg / 256 && decide (s.now < e.2.2 + 24 * 3600 * 850000000))
     ∀ cl, (x.place? pg).map (fun z => z.1 / 16) = some cl → (∃ y ∈ x.pages, y.num = pg) →
      ∃ t, exec .configStoreError s = .next t ∧ t.mem = s.mem ∧ (t.page p pg).reload = true ∧ (t.page p pg).ents = (s.page p pg).ents ∧
        ⟨s.now + 112, 0, srcOf pg 0, .row .configReloadDone { p := p, pg := pg }⟩ ∈ t.agenda ∧
        (2 ≤ (near.filter (fun e => e.2.1 == cl)).length → ⟨s.now, 0, 0, .row .clusterRetire { x := pg / 256, y := cl }⟩ ∈ t.agenda)) ∧
    (∀ y : Page, x.pages = [y] → y.num = pg → y.acts = [] → y.gated = false → y.skid = [] →
      exec .configReloadDone s = .next (((s.modPage p pg (fun y => { y with reload := false, skid := if y.gated then y.skid else [] })).unhold p pg).wake p pg)) ∧
    (∀ (blk : Nat) (hdr mask w : Word) (ws : List Word), s.rewritten p blk hdr mask ws = none → ∀ k : Nat, ws[k]? = some w → (s.fetchWords p ws.length (blk + 8)).1[k]? = some w) ∧
    (∀ (act : Act) k, (s.page p pg).act? act.tag = some act → s.rewritten p act.blk act.hdr act.mask act.words = some k →
      s.reloadAct p pg act.tag =
        (s.takeTrap p act.id (trapAt pg act k 0x05 0x18 0)).modAct p pg act.tag (fun a => { a with rewrote := true })) ∧
    (∀ act b, s.loadBlock p (s.inst p act.id) act.strand (act.role == .main) (if act.role == .iter then .body else .entry) act.blk = .ok b →
      s.reloadImage p pg act = s.modAct p pg act.tag (fun a => { a with
        hdr := b.hdr, mask := b.mask, words := b.words, arity := b.arity, descs := b.descs, rewrote := false })) ∧
    (∀ act : Act, (s.page p pg).act? act.tag = some act → s.rewritten p act.blk act.hdr act.mask act.words = none → s.reloadAct p pg act.tag = s))

/-- R404 to R409: a write from another package lands only for an accepted source and in the ingress window; answers come back to the command that sent
it; a port that fails moves its traffic, and with no port left what is on its way times out. -/
def Obligations.Peers : Prop :=
  (∀ (s : State), let a := s.arg
    let x := s.part a.p
    let ok : Prop := x.live = true ∧ x.frozen = false ∧ x.accepts (a.z % 2 ^ 20) (a.z / 2 ^ 20) = true
    let bs : List Byte := a.l.map (BitVec.ofNat 8)
    a.x = 0 → s.peerCmd 0 = none →
    (¬ok → exec .peerIngressWrite s = .next (s.bumpCsr a.p 0x0FF 31 0)) ∧
    (ok → a.id ≠ 1 →
      (x.inIngress a.y bs.length = false → exec .peerIngressWrite s = .next (s.bumpCsr a.p 0x0FF 31 0)) ∧
      (∀ l, x.inIngress a.y bs.length = true → s.ingressPieces a.p 3 a.y bs.length = .ok l → (∀ z ∈ l, s.badAt z.key z.len = false) →
        (s.copyPut l bs).peerCmd 0 = none → exec .peerIngressWrite s = .next (s.copyPut l bs)) ∧
      (∀ e, x.inIngress a.y bs.length = true → s.ingressPieces a.p 3 a.y bs.length = .error e →
        exec .peerIngressWrite s = .next (s.bumpCsr a.p 0x0FF 31 0))) ∧
    (ok → a.id = 1 → (∀ u, s.postAdd a.p a.y = .ok u → u.peerCmd 0 = none → exec .peerIngressWrite s = .next u) ∧
      (∀ e, s.postAdd a.p a.y = .error e → exec .peerIngressWrite s = .next s))) ∧
  (∀ (s : State) (w : PeerWrite) (c : CopyCmd), s.peerCmd s.arg.x = some (w, c) → let p := w.p
    let u := (s.peerTake w.n).modCopy p c.num (fun c => { c with flying := c.flying - 1 })
    let d : CopyCmd := { c with flying := c.flying - 1 }
    (s.arg.z = 0 → w.sig = true → exec .peerWriteAck s = .next (u.copyRow p d s.now .copyComplete 1)) ∧
    (∀ e, s.arg.z = e → e ≠ 0 → e ≠ 4 → exec .peerWriteAck s = .next (u.copyFault p d 0x12 e w.va)) ∧
    (∀ code detail va, s.arg.z = 4 → s.arg.l = [code, detail, va] →
      exec .peerWriteAck s = .next (((u.copyHalt p d).copyTrap p d code detail va).copyReturn p d)) ∧
    (∀ e, s.arg.z = 0 → w.sig = false → (u.copyAdvance p d w.elem w.data.length).part p = e → ∀ v, e.copy? c.num = some v → v.flying = 0 →
      (v.stopping = true → exec .peerWriteAck s = .next ((u.copyAdvance p d w.elem w.data.length).copyHalt p v)) ∧
      (v.stopping = false → v.closed = true ∨ v.total ≤ v.sent →
        exec .peerWriteAck s = .next ((u.copyAdvance p d w.elem w.data.length).copyRow p v s.now .copyComplete 0))) ∧
    exec .peerPathTimeout s = .next ((s.peerTake w.n).copyFault p c 0x16 0 w.va)) ∧
  (∀ s : State, s.peerCmd s.arg.x = none → exec .peerWriteAck s = .next (s.peerTake s.arg.x) ∧ exec .peerPathTimeout s = .next (s.peerTake s.arg.x) ∧
    (s.arg.x ≠ 0 → exec .peerIngressWrite s = .next s)) ∧
  (∀ s : State, ∃ t : State, exec .linkPortFail s = .next t ∧ t.mem = s.mem ∧ t.parts = s.parts ∧ t.peerOut = s.peerOut ∧ s.arg.x ∈ t.ports ∧
    (∀ n, n ∈ s.ports → n ∈ t.ports) ∧ (t.ports.length < 16 → t.agenda = s.agenda) ∧
    (∀ (w : PeerWrite) (e : Timed) (a : Args), 16 ≤ t.ports.length → s.peerOut = [w] → (s.part w.p).ownPeer w.peer = false → e ∈ s.agenda →
      e.act = .row .peerWriteAck a → a.x = w.n → e ∉ t.agenda ∧ ⟨s.now + 850000, 0, 0, .row .peerPathTimeout { p := w.p, x := w.n }⟩ ∈ t.agenda)) ∧
  (∀ (x : Part) (dev part : Nat), x.accepts dev part = true ↔ ∃ k < 4, bitAt (x.csrN (0x0FB + k)) 31 = true ∧ x.csrN (0x0FB + k) % 2 ^ 20 = dev ∧
    (bitAt (x.csrN (0x0FB + k)) 30 = true ∨ bits (x.csrN (0x0FB + k)) 25 20 = part))

/-- R313 to R317, R319 and R320: doorbells, queue slots and their slices, entries and chart errors. -/
def Obligations.HelmQueues : Prop :=
  (∀ (s : State), let p := s.arg.p
    let x := s.part p
    let v := s.arg.w0.toNat
    let q := v % 1024
    let lost (u : State) : State := u.modPart p (fun x => { x with vf := { x.vf with dbdisc := min (x.vf.dbdisc + 1) 0xFFFFFFFF } })
    let nq := x.csrN 0x0E2 % 2048
    (nq ≤ q → exec .doorbell s = .next (lost s)) ∧
    (q < nq → s.helmRead p (x.queueVa q) 20 = none → exec .doorbell s = .next (lost s)) ∧
    (∀ d, q < nq → s.helmRead p (x.queueVa q) 20 = some d →
      let u := s.helmWrite p (x.queueVa q + 14) (leBytes 2 (v / 65536))
      (fieldAt d 9 1 ∉ x.helmDies → exec .doorbell s = .next (lost u)) ∧
      (fieldAt d 9 1 ∈ x.helmDies → x.frozen = true ∨ x.vf.state = .paused → exec .doorbell s = .next u) ∧
      (fieldAt d 9 1 ∈ x.helmDies → x.frozen = false → x.vf.state ≠ .paused →
        (∀ die, u.queueWork p q = some die → exec .doorbell s = .next (u.helmJoin die p q)) ∧
        (u.queueWork p q = none → exec .doorbell s = .next u)))) ∧
  (∀ (s : State) (n p q die : Nat), die = s.arg.x → lowestFree ((s.helmSlots.filter (fun z => z.die == die)).map HelmSlot.num) 64 0 = some n →
    s.lineOf die = [(die, p, q)] → (s.part p).frozen = false → (s.part p).vf.state ≠ .paused → s.queueWork p q = some die →
    (∀ z ∈ s.helmSaved, ¬(z.p = p ∧ z.q = q)) →
    ∃ t : State, exec .helmQueueMap s = .next t ∧ t.mem = s.mem ∧ t.parts = s.parts ∧ t.lineOf die = [] ∧
      (∃ z : HelmSlot, t.helmSlots = s.helmSlots ++ [z] ∧ z.die = die ∧ z.num = n ∧ z.p = p ∧ z.q = q ∧ z.dva = (s.part p).queueVa q ∧
        z.wait = .none ∧ z.slice = s.now + 85000 ∧
        ⟨s.now + 85000, 0, 0, .row .helmSliceExpiry { p := p, x := die, y := n, fid := z.slice }⟩ ∈ t.agenda) ∧
      ⟨s.now, 0, 0, .row .helmEntryStart { p := p, x := die, y := n }⟩ ∈ t.agenda) ∧
  (∀ s : State, (s.lineOf s.arg.x = [] → exec .helmQueueMap s = .next s) ∧
    (s.slot? s.arg.x s.arg.y = none → exec .helmSliceExpiry s = .next s ∧ exec .helmEntryStart s = .next s)) ∧
  (∀ (s : State) (z : HelmSlot), s.slot? s.arg.x s.arg.y = some z →
    (z.wait = .none ∨ s.now < z.slice ∨ s.lineOf z.die = [] ∨ (s.part z.p).frozen = true → exec .helmSliceExpiry s = .next s) ∧
    (z.wait ≠ .none → z.slice ≤ s.now → s.lineOf z.die ≠ [] → (s.part z.p).frozen = false →
      exec .helmSliceExpiry s = .next (s.yieldSlot z)) ∧
    ((s.part z.p).frozen = true → exec .helmEntryStart s = .next s) ∧
    ((s.part z.p).frozen = false → (s.part z.p).vf.state = .paused → exec .helmEntryStart s = .next (s.unmapSlot z)) ∧
    ((s.part z.p).frozen = false → (s.part z.p).vf.state ≠ .paused →
      (s.helmRead z.p z.dva 20 = none → exec .helmEntryStart s = .next (s.helmFail z z.dva 20 1)) ∧
      (∀ d e, s.helmRead z.p z.dva 20 = some d → let eva := fieldAt d 0 8 + 64 * (fieldAt d 12 2 % 2 ^ (fieldAt d 8 1 % 16))
        s.helmRead z.p eva 64 = some e →
        let y : HelmSlot := { z with eva := eva, serial := s.nextFid, loops := [], node := 0 }
        let u := (({ s with nextFid := s.nextFid + 1 } : State).modSlot z.die z.num (fun _ => y)).helmWrite z.p (eva + 16)
          (leBytes 8 (s.tsBase + s.now * 20 / 17))
        (fieldAt e 0 8 % 64 = 0 → exec .helmEntryStart s = .next (u.nodeGo { y with base := fieldAt e 0 8 } (fieldAt e 8 2))) ∧
        (fieldAt e 0 8 % 64 ≠ 0 → exec .helmEntryStart s = .next (u.chartError { y with base := fieldAt e 0 8 } 1 0))))) ∧
  (∀ (s : State) (z : HelmSlot) (idx : Nat), let y : HelmSlot := { z with node := idx, wait := .none }
    let u := s.modSlot z.die z.num (fun _ => y)
    let va := z.base + 64 * idx
    ((s.part z.p).frozen = true → s.nodeGo z idx = u) ∧
    ((s.part z.p).frozen = false → (s.part z.p).vf.state = .paused → s.nodeGo z idx = u.saveSlot y) ∧
    ((s.part z.p).frozen = false → (s.part z.p).vf.state ≠ .paused →
      (z.slice ≤ s.now → s.lineOf z.die ≠ [] → s.nodeGo z idx = u.yieldSlot y) ∧
      (s.now < z.slice ∨ s.lineOf z.die = [] →
        (idx = 0xFFFF → s.nodeGo z idx = u.chartError y 2 0) ∧
        (idx ≠ 0xFFFF → s.helmRead z.p va 64 = none → s.nodeGo z idx = u.helmFail y va 64 1) ∧
        (∀ raw, idx ≠ 0xFFFF → s.helmRead z.p va 64 = some raw → nodeRow (fieldAt raw 0 1) = none → s.nodeGo z idx = u.chartError y 2 0) ∧
        (∀ raw row, idx ≠ 0xFFFF → s.helmRead z.p va 64 = some raw → nodeRow (fieldAt raw 0 1) = some row →
          s.nodeGo z idx = (u.modSlot z.die z.num (fun z => { z with raw := raw })).sched (s.now + 16 + s.helmTime z.p z.die va) (z.die * 16384) row
            { p := z.p, x := z.die, y := z.num, fid := z.serial })))) ∧
  (∀ ty : Nat, nodeRow ty = if ty = 1 then some .launch else if ty = 2 then some .copy else if ty = 3 then some .wait else if ty = 4 then some .signal
    else if ty = 5 then some .cond else if ty = 6 then some .helmLoop else if ty = 7 then some .helmEnd else none) ∧
  (∀ (s : State) (z : HelmSlot) (code detail : Nat), let w := if code = 4 then 4 + detail * 256 + z.node * 65536 else code + z.node * 256
    s.chartError z code detail = (((s.helmWrite z.p (z.eva + 12) (leBytes 4 (2 + code * 256))).helmWrite z.p (z.dva + 16) (leBytes 4 w)).unmapSlot
      z).postVf z.p 0x06 [z.q, w]) ∧
  (∀ (s : State) (z : HelmSlot) (va n code : Nat) (e : Nat × Nat × Nat), s.readVa z.p va n false = .error e →
    s.helmFail z va n code = if e.1 = 255 then s.badRead z.p e.2.2 else s.chartError z code 0) ∧
  (∀ (s : State) (p die q node eva code detail : Nat) (z : HelmSlot), s.walker p q = some z →
    s.queueError p die q node eva code detail = s.chartError { z with node := node, eva := eva } code detail) ∧
  (∀ (s : State) (z : HelmSlot) (w : HelmWait), let y : HelmSlot := { z with wait := w }
    let u := s.modSlot z.die z.num (fun y => { y with wait := w })
    ((s.part z.p).frozen = true → s.waitFor z w = u) ∧
    ((s.part z.p).frozen = false → (s.part z.p).vf.state = .paused → s.waitFor z w = u.saveSlot y) ∧
    ((s.part z.p).frozen = false → (s.part z.p).vf.state ≠ .paused →
      (z.slice ≤ s.now → s.lineOf z.die ≠ [] → s.waitFor z w = u.yieldSlot y) ∧
      (s.now < z.slice ∨ s.lineOf z.die = [] → s.waitFor z w = u))) ∧
  (∀ (s : State) (p va : Nat) (bs : List Byte) (l : Leaf), s.walkFail (s.part p) va = none → s.translate (s.part p) va = .ok l →
    s.helmWrite p va bs = if (s.part p).mayWrite l then (if s.badAt l.pa bs.length then s.badRead p (s.badKey l.pa bs.length) else s.memWrite l.pa bs)
      else s)

/-- R317, R318, R321, R323, R324 and R244: what each node of a chart does and when; the end of a launch. -/
def Obligations.HelmNodes : Prop :=
  (∀ (s : State) (z : HelmSlot), s.argSlot = some z →
    let p := z.p
    let x := s.part p
    let on (u : State) : Out := .next (u.nodeGo z z.next)
    let error (i : Instr) (code : Nat) : Prop := exec i s = .next (s.chartError z code 0)
    let later (i : Instr) (after : Nat) : Prop := exec i s = .next (s.sched (s.now + after) (z.die * 16384) i
      { p := p, x := z.die, y := z.num, fid := z.serial, z := 1 })
    (∀ e, s.readDesc p (z.f 8 8) = .error e → exec .launch s = .next (s.helmFail z (z.f 8 8) 64 3)) ∧
    (∀ d, s.readDesc p (z.f 8 8) = .ok d → s.launchWins p (z.f 32 8) (z.f 40 2) (z.f 42 2) = none →
      exec .launch s = .next (s.helmFail z (s.badRecord p (z.f 32 8) (z.f 40 2)) 32 1)) ∧
    (∀ d wins, s.readDesc p (z.f 8 8) = .ok d → s.launchWins p (z.f 32 8) (z.f 40 2) (z.f 42 2) = some wins →
      (z.f 8 8 % 64 ≠ 0 → error .launch 3) ∧
      (z.f 8 8 % 64 = 0 → exec .launch s = .next ((s.waitFor z .grant).request p {
        kind := .launch z.die z.q, desc := d, wins := wins, since := s.now
        args := ([z.f 16 4, z.f 20 4, z.f 24 4].map (fun v => ({ val := BitVec.ofNat 32 v } : Reg))).take d.arity
        pg := if z.f 44 2 = 0xFFFF then z.die * 256 else z.f 44 2 / 64 }))) ∧
    (let eng := z.f 16 1
     let form := z.f 17 1 % 8
     let issued := ({ s with nextFid := s.nextFid + 1 } : State).sched (s.now + 12) (z.die * 16384) .copy
       { p := p, x := z.die, y := z.q, z := 1, id := s.nextFid, l := [z.f 8 8, eng, form, z.node, z.eva] }
     (s.arg.z = 0 → 3 < eng ∨ 4 < form ∨ (z.die, eng) ∉ x.engines → error .copy 6) ∧
     (s.arg.z = 0 → eng ≤ 3 → form ≤ 4 → (z.die, eng) ∈ x.engines →
       (z.flag 0 = true → exec .copy s = .next (issued.waitFor z (.copy s.nextFid))) ∧ (z.flag 0 = false → exec .copy s = on issued))) ∧
    (let h := z.f 8 4
     let v := z.f 12 4
     let way := 24 + 24 * crossings (z.die * 256) (hDie h * 256)
     let waits : Prop := exec .wait s = .next (s.waitFor z (.word h v))
     (s.arg.z = 0 → later .wait way) ∧
     (s.arg.z ≠ 0 → (x.handleOk h = false → error .wait 5) ∧ (s.objFault p h ≠ none → error .wait 5) ∧
       (x.handleOk h = true → s.objFault p h = none →
         (∀ w, (s.obj p h).st = .word w → (v ≤ w.toNat → exec .wait s = on s) ∧ (w.toNat < v → waits)) ∧
         ((s.obj p h).st = .free → (v = 0 → exec .wait s = on s) ∧ (0 < v → waits)) ∧
         ((s.obj p h).st ≠ .free → (∀ w, (s.obj p h).st ≠ .word w) → error .wait 5))) ∧
     (let pg := h % 65536 / 64
      (s.arg.z = 0 → z.flag 1 = false → later .signal way) ∧
      (s.arg.z = 0 → z.flag 1 = true → later .signal (24 + 24 * crossings (z.die * 256) pg)) ∧
      (s.arg.z ≠ 0 → z.flag 1 = true → exec .signal s = on (s.sched s.now (srcOf pg 0) .messageArrival
        { p := p, pg := pg, z := 1, y := z.f 16 1 % 16, w0 := BitVec.ofNat 32 z.node, w1 := BitVec.ofNat 32 v })) ∧
      (s.arg.z ≠ 0 → z.flag 1 = false → let put := fun w : Word => if z.flag 0 then BitVec.ofNat 32 v else w + BitVec.ofNat 32 v
        (∀ t, s.postWord p h put = .ok t → exec .signal s = on t) ∧ (∀ e, s.postWord p h put = .error e → error .signal 5)))) ∧
    (s.arg.z = 0 → later .cond (s.helmTime p z.die (z.f 8 8)) ∧ later .helmLoop (s.helmTime p z.die (z.f 16 8))) ∧
    (s.arg.z ≠ 0 →
      (s.helmRead p (z.f 8 8) 4 = none → exec .cond s = .next (s.helmFail z (z.f 8 8) 4 1)) ∧
      (s.helmRead p (z.f 16 8) 4 = none → exec .helmLoop s = .next (s.helmFail z (z.f 16 8) 4 1)) ∧
      (∀ w, s.helmRead p (z.f 8 8) 4 = some w → (w ≠ 0 → exec .cond s = .next (s.nodeGo z (z.f 16 2))) ∧
        (w = 0 → exec .cond s = .next (s.nodeGo z (z.f 18 2)))) ∧
      (∀ w, s.helmRead p (z.f 16 8) 4 = some w → let n := (kget z.loops z.node).getD 0
        (n < z.f 24 4 → w ≠ 0 → (kget z.loops z.node ≠ none ∨ z.loops.length < 8 →
            exec .helmLoop s = .next (s.nodeGo { z with loops := kset z.loops z.node (n + 1) } (z.f 8 2))) ∧
          (kget z.loops z.node = none → 8 ≤ z.loops.length → error .helmLoop 7)) ∧
        (z.f 24 4 ≤ n ∨ w = 0 → exec .helmLoop s = .next (s.nodeGo { z with loops := z.loops.filter (fun l => l.1 != z.node) } z.next)))) ∧
    (let u := (s.helmWrite p (z.eva + 24) (leBytes 8 (s.tsBase + s.now * 20 / 17))).helmWrite p (z.eva + 12) (leBytes 4 1)
     (u.helmRead p z.dva 20 = none → exec .helmEnd s = .next (u.unmapSlot z)) ∧
     (∀ d, u.helmRead p z.dva 20 = some d → let head := (fieldAt d 12 2 + 1) % 65536
       let v := u.helmWrite p (z.dva + 12) (leBytes 2 head)
       (head = fieldAt d 14 2 → exec .helmEnd s = .next (v.unmapSlot z)) ∧
       (head ≠ fieldAt d 14 2 → s.now < z.slice ∨ s.lineOf z.die = [] → exec .helmEnd s =
         .next (v.sched s.now (z.die * 16384) .helmEntryStart { p := p, x := z.die, y := z.num })) ∧
       (head ≠ fieldAt d 14 2 → z.slice ≤ s.now → s.lineOf z.die ≠ [] → s.queueSlot p z.q = some z → ∃ t, exec .helmEnd s = .next t ∧
         t.mem = v.mem ∧ (z.die, p, z.q) ∈ t.helmLine ∧ t.slot? z.die z.num = none)))) ∧
  (∀ s : State, s.argSlot = none → (∀ i ∈ [Instr.launch, .wait, .signal, .cond, .helmLoop, .helmEnd], exec i s = .next s) ∧
    (s.arg.z = 0 → exec .copy s = .next s)) ∧
  (∀ s : State, let a := s.arg
    (a.z ≠ 0 → (s.part a.p).frozen = true → exec .copy s = .next s) ∧
    (∀ va eng form node eva, a.z ≠ 0 → (s.part a.p).frozen = false → a.l = [va, eng, form, node, eva] →
      let c : CopyCmd := { num := a.id, eng := a.x * 4 + eng, ch := 0, src := .helm a.x a.y node eva, form := form, descVa := va, desc := 0
                           win := wholeSpace, sw := wholeSpace, dw := wholeSpace }
      ((s.part a.p).vf.state = .paused →
        exec .copy s = .next (s.modPart a.p (fun x => { x with copies := x.copies ++ [{ c with stopped := true }] }))) ∧
      (∀ t, (s.part a.p).vf.state ≠ .paused → s.copyReach a.p c none = .ok t → exec .copy s = .next t) ∧
      (∀ e, (s.part a.p).vf.state ≠ .paused → s.copyReach a.p c none = .error e → exec .copy s = .next (if e.2.1 = 255 then s.badRead a.p e.2.2
        else s.queueError a.p a.x a.y node eva 6 0)))) ∧
  (∀ s : State, let a := s.arg
    let p := a.p
    let ready (u : State) (z : HelmSlot) (t : Nat) : State := u.modWalker z.p z.q (fun z => { z with wait := .go t })
    ((s.part p).frozen = true → exec .launchContinue s = .next s ∧ exec .waitSatisfied s = .next s) ∧
    ((s.part p).frozen = false →
      (s.queueSlot p a.y = none → exec .waitSatisfied s = .next s ∧ (a.z = 0 → exec .launchContinue s = .next s)) ∧
      (∀ z, s.queueSlot p a.y = some z →
        (∀ t, z.wait = .go t → t ≤ s.now → exec .waitSatisfied s = .next (s.nodeGo z z.next) ∧
          (a.z = 0 → exec .launchContinue s = .next (s.nodeGo z z.next))) ∧
        ((∀ t, z.wait = .go t → s.now < t) → exec .waitSatisfied s = .next s ∧ (a.z = 0 → exec .launchContinue s = .next s))) ∧
      (a.z = 3 → (s.waiter p (.copy a.id) = none → exec .launchContinue s = .next s) ∧
        ∀ z, s.waiter p (.copy a.id) = some z → exec .launchContinue s = .next ((ready s z s.now).slotGo z.p z.q)) ∧
      (∀ node eva code, a.z = 4 → a.l = [node, eva, code] → exec .launchContinue s =
        .next ((s.modPart p (fun x => { x with copies := x.copies.filter (fun c => c.num != a.id) })).queueError p a.x a.y node eva code 0)) ∧
      (a.z = 1 ∨ a.z = 2 → (s.walker p a.y = none → exec .launchContinue s = .next s) ∧
        ∀ z, s.walker p a.y = some z →
          (z.wait ≠ .grant → exec .launchContinue s = .next s) ∧
          (z.wait = .grant → a.z = 2 → exec .launchContinue s = .next (s.queueError z.p z.die z.q z.node z.eva 4 ((a.l[1]?).getD 0))) ∧
          (z.wait = .grant → a.z = 1 →
            let u := s.modInst p a.id (fun i => { i with origin := .launch z.die (z.f 48 8) (z.f 28 4) })
            let w : HelmWait := .inst a.id (s.inst p a.id).gen
            (z.flag 0 = true → s.queueSlot p a.y ≠ none → exec .launchContinue s = .next (u.waitFor z w)) ∧
            (z.flag 0 = true → s.queueSlot p a.y = none →
              exec .launchContinue s = .next (u.modWalker p a.y (fun z => { z with wait := w }))) ∧
            (z.flag 0 = false → exec .launchContinue s =
              .next ((u.modWalker p a.y (fun z => { z with wait := .go s.now })).slotGo p a.y)))))) ∧
  (∀ (s : State), let a := s.arg
    let put (l : Leaf) : State := s.memWrite l.pa (a.l.flatMap (leBytes 4))
    let ends (u : State) : Prop := (u.waiter a.p (.inst a.id a.fid) = none → exec .launchResult s = .next u) ∧
      (∀ z, u.waiter a.p (.inst a.id a.fid) = some z → exec .launchResult s =
        .next ((u.modWalker z.p z.q (fun z => { z with wait := .go (u.now + 6) })).sched (u.now + 6) (z.die * 16384) .launchContinue
          { p := a.p, id := a.id, fid := a.fid, x := z.die, y := z.q }))
    let fails (u : State) (code : Nat) : Prop := (u.waiter a.p (.inst a.id a.fid) = none → exec .launchResult s = .next u) ∧
      (∀ z, u.waiter a.p (.inst a.id a.fid) = some z → exec .launchResult s = .next (u.queueError z.p z.die z.q z.node z.eva code 0))
    let written (b : State) : Prop := (bitAt a.z 15 = true → ends b) ∧
      (bitAt a.z 15 = false → (∀ u, b.postAdd a.p a.z = .ok u → ends u) ∧ (∀ e, b.postAdd a.p a.z = .error e → fails b 5))
    (a.y = 0 → written s) ∧
    (∀ k, a.y ≠ 0 → s.walkFail (s.part a.p) a.y = some k → exec .launchResult s = .next (s.badRead a.p k)) ∧
    (a.y ≠ 0 → s.walkFail (s.part a.p) a.y = none →
      (∀ l, s.translate (s.part a.p) a.y = .ok l →
        let n := (a.l.flatMap (leBytes 4)).length
        ((s.part a.p).mayWrite l = false → fails s 1) ∧
        ((s.part a.p).mayWrite l = true → s.badAt l.pa n = false → written (put l)) ∧
        ((s.part a.p).mayWrite l = true → s.badAt l.pa n = true → exec .launchResult s = .next (s.badRead a.p (s.badKey l.pa n)))) ∧
      (∀ e, s.translate (s.part a.p) a.y = .error e → fails s 1)))

/-- R354 to R365: how an instance stops for a save, its record and its return, what a pre-emption decides and when it is complete, and guest switches.
-/
def Obligations.SavesAndPreemption : Prop :=
  (∀ (s : State), let a := s.arg
    let p := a.p
    let id := a.id
    let i := s.inst p id
    let stopped := s.modStrand p id a.x (fun t => if t.stopReq then { t with stopped := true } else t)
    (i.saving = none → (a.z = 1 → exec .strandBoundaryStop s = .next s) ∧ exec .checkpointCut s = .next s ∧
      exec .contextSaveSizing s = .next s ∧ exec .contextSaveWrite s = .next s) ∧
    (∀ v, i.saving = some v →
      (v.frozen = true → exec .checkpointCut s = .next s ∧ (a.z = 1 → exec .strandBoundaryStop s = .next s) ∧
        (a.z ≠ 1 → exec .strandBoundaryStop s = .next stopped)) ∧
      (v.frozen = false → i.status = .running → i.trapRec = none →
        (s.hasHandler p i = false → (∀ t ∈ i.strands, s.atBoundary p i t = true) → a.z = 1 →
          exec .strandBoundaryStop s = .next (s.freezeForSave p id 0 false)) ∧
        ((∃ t ∈ i.strands, s.atBoundary p i t = false) → a.z = 1 →
          exec .strandBoundaryStop s = .next (s.sched (s.now + 1) (srcOf a.pg 0) .strandBoundaryStop a)) ∧
        (v.asked = a.x → s.hasHandler p i = false → exec .checkpointCut s = .next (s.freezeForSave p id 8 true)) ∧
        (v.asked = a.x → s.hasHandler p i = true →
          exec .checkpointCut s = .next (s.sched (s.now + 1) (srcOf a.pg 0) .checkpointCut a)) ∧
        (v.asked ≠ a.x → exec .checkpointCut s = .next s)) ∧
      (let size := s.recordSize p i (s.saveEntries p i).length
       let writes (t : State) : Out := .next (t.sched (t.now + cdiv size 256 + 48) 0 .contextSaveWrite { p := p, id := id })
       (v.run ≠ none → exec .contextSaveSizing s = writes s) ∧
       (v.run = none → s.takeRun p (v.why == 1) (size / 4096) = none → exec .contextSaveSizing s = .next (s.saveFails p id none)) ∧
       (∀ t u, v.run = none → s.takeRun p (v.why == 1) (size / 4096) = some (t, u) → exec .contextSaveSizing s =
         writes (t.modInst p id (fun i => { i with saving := i.saving.map (fun v => { v with run := some (u, size / 4096), va := (t.part p).runVa (v.why == 1) u }) })))) ∧
      (∀ u n, v.run = some (u, n) → (s.part p).inst? id = some i →
        let base := v.va
        let blocked := i.trapRec.isNone && !v.cut && (i.strands.any (fun t => (s.page p t.pg).fires.any (fun f =>
          f.id == id && f.phase == .out && f.acted))) && i.replay.length == v.ents && i.strands.all (fun t => t.ended || !t.stopped)
        let flags := b2n v.cut + 2 * b2n blocked + 4 * b2n i.trapRec.isSome + 8 * b2n (2 ≤ v.why)
        let bytes := s.recordBytes p i flags (4096 * n) (s.saveEntries p i)
        (∀ e, s.writePinned p (n / 16 + 2) base bytes = .error e →
          exec .contextSaveWrite s = .next ((s.freeRunOf p (v.why == 1) u).saveFails p id (some e))) ∧
        (∀ w, s.writePinned p (n / 16 + 2) base bytes = .ok w → w.parts = s.parts → v.why = 0 → ∃ t r, exec .contextSaveWrite s = .next t ∧
          t.mem = w.mem ∧ (t.inst p id).status = .saved ∧ (t.inst p id).save = some r ∧ r.va = base ∧ r.len = 4096 * n ∧ r.flags = flags ∧
          r.swap = false ∧ r.unit = u ∧ (t.inst p id).saving = none ∧ ⟨s.now + 8, 0, 0, .row .preemptionComplete { p := p }⟩ ∈ t.agenda))) ∧
    (i.save = none ∨ i.gen ≠ a.x → exec .contextRestore s = .next s) ∧
    (∀ v e, i.save = some v → i.gen = a.x → s.readVa p v.va (832 + 128 * i.strands.length) false = .error e →
      exec .contextRestore s = .next (s.restoreFault p id e.2.2)) ∧
    (∀ v n l, i.save = some v → i.gen = a.x → s.readVa p v.va (832 + 128 * i.strands.length) false = .ok n → i.trapRec = none → v.area = [] → v.held = [] →
      s.readEntries p (min (bits n 255 224) (v.len / 16)) (v.va + 832 + 128 * i.strands.length +
        v.islands.foldl (fun n z => n + 6208 + z.2.streamBytes) 0) = some l →
      ∃ u : State, exec .contextRestore s =
          .next ((u.modInst p id (fun i => { i with status := .running, inject := some l })).injectNext p id i.gen) ∧ u.mem = s.mem ∧
        ((s.part p).inst? id = some i → (u.inst p id).regs = recordRegs n ∧ (u.inst p id).wins = recordWins n ∧ (u.inst p id).save = none ∧
          ∀ t ∈ (u.inst p id).strands, ∀ k < 7, kget t.csr ((recordCsrs[k]?).getD 0) = some (recordCsr ((recordCsrs[k]?).getD 0) (strandWord n t.num (32 + 4 * k)))))) ∧
  (∀ (s : State) (p id delay : Nat) (cut : Bool) (i : Inst) (v : Saving), (s.part p).inst? id = some i → i.status = .running → i.saving = some v →
    let t := s.freezeForSave p id delay cut
    t.mem = s.mem ∧ (t.inst p id).status = .frozen ∧ (∃ v', (t.inst p id).saving = some v' ∧ v'.frozen = true ∧ v'.cut = cut) ∧
    ⟨s.now + delay + 16, 0, 0, .row .contextSaveSizing { p := p, id := id }⟩ ∈ t.agenda) ∧
  (∀ (s : State) (p id ptok : Nat), let i := s.inst p id
    let kth := (s.part p).csrN 0x0B1 % 32
    (i.saving ≠ none ∨ i.status = .ended → s.preDecide p id ptok = s) ∧
    (i.saving = none → i.status ≠ .ended →
      (i.estNow s.now < (s.part p).csrN 0x0B0 → s.preDecide p id ptok = s.countPre p 0) ∧
      ((s.part p).csrN 0x0B0 ≤ i.estNow s.now →
        (i.ckptable = true → s.preDecide p id ptok = s.askSave p id 0 ptok) ∧
        (i.ckptable = false → i.killable = true → kth ≤ ptok → s.preDecide p id ptok = (s.countPre p 2).kill p id) ∧
        (i.ckptable = false → i.killable = false ∨ ptok < kth → s.preDecide p id ptok = s.countPre p 0)))) ∧
  (∀ (s : State), let a := s.arg
    let p := a.p
    let x := s.part p
    (a.x ≤ 15 → (∀ pg ∈ a.l, x.place? pg ≠ none) → ∃ u, u = (s.modPart p (fun x => { x with preempts := x.preempts ++
        [{ pgs := a.l, ptok := a.x, reclaim := false }] })).acceptPre p ∧ exec .preempt s = .next { u with replies := u.replies ++ [(6, p, 0)] }) ∧
    ((15 < a.x ∨ ∃ pg ∈ a.l, x.place? pg = none) → exec .preempt s = .next { s with replies := s.replies ++ [(6, p, 1)] }) ∧
    ((∀ r ∈ x.preempts, r.accepted = false ∨ r.hold = true ∨ ∃ pg ∈ r.pgs, s.pageClear p pg = false) → exec .preemptionComplete s = .next s) ∧
    (∀ r, x.preempts = [r] → r.accepted = true → r.hold = false → (∀ pg ∈ r.pgs, s.pageClear p pg = true) → x.gsw = none →
      ∃ u : State, exec .preemptionComplete s = .next ((u.readmit p).kick p) ∧ u.mem = s.mem ∧ (u.part p).preempts = [] ∧
        (∃ e : EvRec, e.ty = 0x08 ∧ e.pay = [x.csrN 0x0B6] ∧ u.pfEvents = s.pfEvents ++ [(p, e)]) ∧ (u.part p).insts = x.insts ∧
        (u.part p).map = if r.reclaim then x.map.filter (fun m => !r.pgs.contains m.1) else x.map) ∧
    (x.gsw = none → exec .guestSwitch s = .next s) ∧
    (∀ g, x.gsw = some g →
      (g.waits = true ∨ g.saving ≠ none → exec .guestSwitch s = .next s) ∧
      (g.waits = false → g.saving = none →
        (g.list = [] → ∃ u : State, exec .guestSwitch s = .next ((u.acceptPre p).readmit p) ∧ (u.part p).gsw = none ∧ u.mem = s.mem ∧
          bits ((u.part p).csrN 0x0BA) 31 31 = 0 ∧ bits ((u.part p).csrN 0x0BA) 20 11 = min g.skip 1023) ∧
        (∀ id gen resume rest, g.list = (id, gen, resume) :: rest →
          let u := s.modPart p (fun x => { x with gsw := some { g with list := rest } })
          let v (i : Inst) : Inst := { i with save := i.save.map (fun v => { v with flags := setBits v.flags 3 3 0, eligible := true }) }
          (x.inst? id = none → exec .guestSwitch s = .next (u.gswNext p true)) ∧
          (∀ i, x.inst? id = some i →
            (i.gen ≠ gen → exec .guestSwitch s = .next (u.gswNext p true)) ∧
            (∀ r, i.gen = gen → resume = true → i.status = .saved → i.save = some r → bitAt r.flags 3 = true →
              exec .guestSwitch s = .next ((u.modInst p id v).gswNext p false)) ∧
            (i.gen = gen → resume = true → i.status ≠ .saved → exec .guestSwitch s = .next (u.gswNext p true)) ∧
            (i.gen = gen → resume = false → i.ckptable = true → i.saving = none → i.status = .running → exec .guestSwitch s =
              .next ((u.modPart p (fun x => { x with gsw := x.gsw.map (fun g => { g with saving := some id }) })).askSave p id 2 0)) ∧
            (i.gen = gen → resume = false → i.ckptable = false → exec .guestSwitch s = .next (u.gswNext p true)))))))

/-- R366 to R371, R373, R381, R382, R386 and R387: the management function's commands. A command that may not act changes nothing but its status; one
that may does what its rule says, with status 0. R366, R381, R382, R241, R340, R387 and R388: each of these commands completes with status 0 wherever
its conditions hold. -/
def Obligations.ManagementCommands : Prop :=
  (
    ∀ (s : State), let a := s.arg
      let p := a.p
      let x := s.part p
      let may : Prop := s.power = .on ∧ (∃ y ∈ s.parts, y.num = p ∧ y.live = true) ∧ x.frozen = false
      let answers (u : State) (code st : Nat) : State := { u with replies := u.replies ++ [(code, p, st)] }
      let acts (i : Instr) (code : Nat) (u : State) : Prop := exec i s = .next (answers u code 0)
      let denied (i : Instr) (code : Nat) : Prop := exec i s = .next (answers s code 1)
      let part (f : Part → Part) : State := s.modPart p f
      (¬may → denied .grant 3 ∧ denied .reclaim 4 ∧ denied .setmin 5 ∧ denied .vfstateRunning 8 ∧ denied .vfstateDescheduled 8 ∧
        denied .winattach 10 ∧ denied .objreset 13 ∧ denied .instctlResume 14 ∧ denied .instctlKill 14 ∧ denied .migsave 15 ∧ denied .migload 16) ∧
      ((s.power ≠ .on ∨ 40 ≤ p ∨ ∃ y ∈ s.parts, y.num = p) → denied .create 1) ∧
      (s.power = .on → p < 40 → (∀ y ∈ s.parts, y.num ≠ p) → acts .create 1
        { s with parts := s.parts ++ [{ num := p, live := true, key := s.nextKey, vf := { devid := a.x } }], nextKey := s.nextKey + 1
                 reports := s.reports ++ [reportOf a.x (some (p, a.y))] }) ∧
      ((∀ y ∈ s.parts, y.num = p → y.live = false) → denied .destroy 2) ∧
      ((∃ y ∈ s.parts, y.num = p ∧ y.live = true) → ∃ t : State, exec .destroy s = .next t ∧ (∀ y ∈ t.parts, y.num ≠ p) ∧
        (∀ w ∈ t.windows, ∀ m ∈ w.members, m.1 ≠ p) ∧ (∃ l, t.replies = l ++ [(2, p, 0)])) ∧
      (may →
        (a.z = 0 → a.l = [] → acts .grant 3 (s.kick p)) ∧
        (∀ pg phys, a.z = 0 → a.l = [pg, phys] → (s.pageOk p pg phys = true → acts .grant 3 ((s.mapPage p pg phys).kick p)) ∧
          (s.pageOk p pg phys = false → denied .grant 3)) ∧
        (∀ r, a.z = 1 → a.l = [r] → (s.regionOk r = true → s.regionFree r = true →
            acts .grant 3 ((s.zeroRegion r).modPart p (fun x => { x with regions := x.regions ++ [r] }))) ∧
          (s.regionOk r = false ∨ s.regionFree r = false → denied .grant 3)) ∧
        (a.z = 2 → let n := (s.parts.filter (fun y => y.engines.contains (a.x, a.y))).length
          (a.x < 4 → a.y < 4 → (a.x, a.y) ∉ x.engines → n < 8 → acts .grant 3 (part (fun x => { x with engines := x.engines ++ [(a.x, a.y)] }))) ∧
          (4 ≤ a.x ∨ 4 ≤ a.y ∨ (a.x, a.y) ∈ x.engines ∨ 8 ≤ n → denied .grant 3) ) ∧
        (a.z = 3 → let n := (s.parts.filter (fun y => y.helmDies.contains a.x)).length
          (a.x < 4 → a.x ∉ x.helmDies → n < 10 → acts .grant 3 (part (fun x => { x with helmDies := x.helmDies ++ [a.x] }))) ∧
          (4 ≤ a.x ∨ a.x ∈ x.helmDies ∨ 10 ≤ n → denied .grant 3)) ∧
        (a.z = 4 → (s.sumOver Part.share + a.x ≤ 1024 → acts .grant 3 (s.setCsrF p 0x0C2 31 16 (x.share + a.x))) ∧
          (1024 < s.sumOver Part.share + a.x → denied .grant 3)) ∧
        (a.z = 5 → let sum := s.sumOver (fun y => (kget y.wftShare a.x).getD 0)
          (a.x < 4 → sum + a.y ≤ 8192 →
            acts .grant 3 (part (fun x => { x with wftShare := kset x.wftShare a.x ((kget x.wftShare a.x).getD 0 + a.y) }))) ∧
          (4 ≤ a.x ∨ 8192 < sum + a.y → denied .grant 3)) ∧
        (a.z = 6 → a.x + a.y ≤ 2 ^ 45 → acts .grant 3 (part (fun x => { x with hostBase := a.x, hostLen := a.y }))) ∧
        (a.z = 7 → acts .grant 3 (part (fun x => { x with root := a.y }))) ∧
        (a.z = 0 → (∀ pg ∈ a.l, x.place? pg ≠ none) → a.x ≤ 15 → acts .reclaim 4 (s.askPre p a.l a.x true)) ∧
        (a.z = 0 → ((∃ pg ∈ a.l, x.place? pg = none) ∨ 15 < a.x) → denied .reclaim 4) ∧
        (a.z = 1 → (∀ r ∈ a.l, r ∈ x.regions) → acts .reclaim 4 (part (fun x => { x with regions := x.regions.filter (fun r => !a.l.contains r) }))) ∧
        (a.z = 1 → (∃ r ∈ a.l, r ∉ x.regions) → denied .reclaim 4) ∧
        (a.z = 2 → ((a.x, a.y) ∈ x.engines → acts .reclaim 4 (part (fun x => { x with engines := x.engines.filter (fun e => e != (a.x, a.y)) }))) ∧
          ((a.x, a.y) ∉ x.engines → denied .reclaim 4)) ∧
        (a.z = 3 → a.x ∉ x.helmDies → denied .reclaim 4) ∧
        (a.z = 3 → a.x ∈ x.helmDies → (∀ z ∈ s.helmSlots, ¬(z.p = p ∧ z.die = a.x)) → ∃ t : State, acts .reclaim 4 t ∧ t.mem = s.mem ∧
          (∀ l ∈ t.helmLine, ¬(l.1 = a.x ∧ l.2.1 = p)) ∧ (t.part p).helmDies = x.helmDies.filter (· != a.x)) ∧
        (a.z = 4 → a.x ≤ x.share → acts .reclaim 4 (s.setCsrF p 0x0C2 31 16 (x.share - a.x))) ∧
        (a.z = 5 → a.y ≤ (kget x.wftShare a.x).getD 0 →
          acts .reclaim 4 (part (fun x' => { x' with wftShare := kset x'.wftShare a.x ((kget x.wftShare a.x).getD 0 - a.y) }))) ∧
        (a.z = 6 → acts .reclaim 4 (part (fun x => { x with hostBase := 0, hostLen := 0 }))) ∧
        (let m : Nat × Nat × Nat := ((a.l[0]?).getD 0, (a.l[1]?).getD 0, (a.l[2]?).getD 0)
         let tot (f : Nat × Nat × Nat → Nat) : Nat := (s.parts.filter (fun y => y.num != p)).foldl (fun n y => n + f (y.minOn a.x)) (f m)
         let ok : Prop := a.x < 4 ∧ tot (fun m => m.1) ≤ s.pageCount a.x ∧ tot (fun m => m.2.1) ≤ 256 ∧ tot (fun m => m.2.2) ≤ 256
         (ok → acts .setmin 5 (part (fun x => x.setMin a.x m))) ∧ (¬ok → denied .setmin 5)) ∧
        (x.vf.state ≠ .paused → acts .vfstateRunning 8 ((part (fun x => { x with vf := { x.vf with state := .running } })).sched s.now 0
          .eventRecordWrite { p := p })) ∧
        (x.vf.state = .paused → x.copies = [] → (∀ i ∈ x.insts, i.saving = none) → (∀ q, s.queueWork p q = none) → ∃ t u : State, exec .vfstateRunning s = .next t ∧
          t = answers u 8 0 ∧ u.mem = s.mem ∧ (u.part p).vf.state = .running ∧
          ∀ i ∈ (u.part p).insts, ∀ v, i.status = .saved → i.save = some v → v.eligible = true) ∧
        (x.vf.state ≠ .paused → acts .vfstateDescheduled 8 (part (fun x => { x with vf := { x.vf with state := .descheduled } }))) ∧
        (x.vf.state = .paused → denied .vfstateDescheduled 8) ∧
        (a.z = 0 → x.vf.state = .paused ∨ x.switching = true → denied .vfstatePaused 8) ∧
        (a.z = 0 → x.vf.state ≠ .paused → x.switching = false → x.insts = [] → x.copies = [] → (∀ z ∈ s.helmSlots, z.p ≠ p) →
          exec .vfstatePaused s = .next ((part (fun x => { x with vf := { x.vf with state := .paused } })).sched (s.now + 64) 0 .vfstatePaused
            { p := p, z := 1 }))) ∧
      (a.z = 2 → (x.vf.state = .paused → exec .vfstatePaused s = .next s) ∧
        (x.vf.state ≠ .paused → exec .vfstatePaused s = .next ((s.sched s.now 0 .eventRecordWrite { p := p }).afterPause p))) ∧
      (a.z = 1 → (x.vf.state ≠ .paused → exec .vfstatePaused s = .next s) ∧
        (x.vf.state = .paused → (∀ i ∈ x.insts, i.status = .saved ∨ i.status = .ended) → x.posted = [] → s.helmCopying p = false →
          (∀ z ∈ s.helmSlots, z.p ≠ p) → acts .vfstatePaused 8 s) ∧
        (x.vf.state = .paused → (∃ i ∈ x.insts, i.status ≠ .saved ∧ i.status ≠ .ended) ∨ x.posted ≠ [] ∨ s.helmCopying p = true ∨ (∃ z ∈ s.helmSlots, z.p = p) →
          exec .vfstatePaused s = .next (s.sched (s.now + 64) 0 .vfstatePaused { p := p, z := 1 })))) ∧
  (
    ∀ (s : State), let a := s.arg
      let p := a.p
      let x := s.part p
      let may : Prop := s.power = .on ∧ (∃ y ∈ s.parts, y.num = p ∧ y.live = true) ∧ x.frozen = false
      let done (code : Nat) : List (Nat × Nat × Nat) := s.replies ++ [(code, p, 0)]
      let frozen : Prop := may ∧ (s.inst p a.id).stopped = true ∧ (s.inst p a.id).gen = a.x
      (s.power = .on → a.x < 64 → (∀ w ∈ s.windows, w.n ≠ a.x) → a.l ≠ [] → a.l.eraseDups = a.l →
        (∀ r ∈ a.l, s.regionOk r = true ∧ s.regionFree r = true ∧ r / 2048 = a.l.headD 0 / 2048) →
        ∃ t : State, exec .wincreate s = .next t ∧ t.replies = done 9 ∧ t.parts = s.parts ∧ t.nextKey = s.nextKey + 1 ∧
          t.windows = s.windows ++ [{ n := a.x, die := a.l.headD 0 / 2048, regions := a.l, key := s.nextKey }]) ∧
      (may → (a.y = 1 ∨ a.y = 3) → kget x.wins a.x = none → (∃ w ∈ s.windows, w.n = a.x ∧ w.members.length < 8) →
        ∃ t : State, exec .winattach s = .next t ∧ t.replies = done 10 ∧ kget (t.part p).wins a.x = some a.y ∧
          ∀ w ∈ t.windows, w.n = a.x → (p, a.y) ∈ w.members) ∧
      (may → a.z ≠ 1 → kget x.wins a.x ≠ none →
        ∃ t : State, exec .windetach s = .next t ∧ kget (t.part p).wins a.x = none ∧ (s.windowBusy p a.x = false → t.replies = done 11)) ∧
      ((∃ w ∈ s.windows, w.n = a.x ∧ w.members = []) →
        ∃ t : State, exec .windestroy s = .next t ∧ t.replies = done 12 ∧ ∀ w ∈ t.windows, w.n ≠ a.x) ∧
      (may → (∀ h ∈ a.l, x.handleOk h = true) → ∃ t : State, exec .objreset s = .next t ∧ t.replies = done 13 ∧
        (∀ h ∈ a.l, ∀ o ∈ (t.part p).objs, o.isAt (x.objPlace h) h = false) ∧ ∀ h ∈ a.l, ∀ w ∈ (t.part p).wft, w.name ≠ h) ∧
      (frozen → ∃ t : State, exec .instctlResume s = .next t ∧ t.replies = done 14 ∧
        ⟨s.now + 64, 0, 0, .row .replayInject { p := p, id := a.id, x := a.x }⟩ ∈ t.agenda) ∧
      (frozen → ∃ t : State, exec .instctlKill s = .next t ∧ t.replies = done 14 ∧
        ⟨s.now, 0, 0, .row .instanceKill { p := p, id := a.id, x := a.x }⟩ ∈ t.agenda) ∧
      (may → x.vf.state = .paused → (∀ i ∈ x.insts, i.status = .saved ∨ i.status = .ended) → x.wins = [] → a.z = 1 →
        x.map.length * 64 * (32768 + 1024) + x.regions.length * 2 ^ 26 ≤ a.x → a.y + a.x ≤ x.hostLen →
        ∃ t : State, exec .migsave s = .next t ∧ t.replies = done 15 ∧ t.parts = s.parts ∧
          ∃ m ∈ t.migs, m.addr = 2 ^ 45 + x.hostBase + a.y ∧ m.len = a.x ∧ m.part = x) ∧
      (∀ m u, may → s.migs.find? (fun m => m.addr == 2 ^ 45 + x.hostBase + a.y && m.len == a.x) = some m → s.loadMig p m (pairs a.l) = some u →
        ∃ t : State, exec .migload s = .next t ∧ t.replies = u.replies ++ [(16, p, 0)] ∧ (t.part p).insts = m.part.insts ∧
          (t.part p).vf.state = .paused))

/-- R366, R381, R382, R241, R340, R387 and R388: re-keyed windows, object resets, instance control and migration. -/
def Obligations.WindowsAndMigration : Prop :=
  ∀ (s : State), let a := s.arg
    let p := a.p
    let x := s.part p
    let may : Prop := s.power = .on ∧ (∃ y ∈ s.parts, y.num = p ∧ y.live = true) ∧ x.frozen = false
    let answers (u : State) (code st : Nat) : State := { u with replies := u.replies ++ [(code, p, st)] }
    let acts (i : Instr) (code : Nat) (u : State) : Prop := exec i s = .next (answers u code 0)
    let denied (i : Instr) (code : Nat) : Prop := exec i s = .next (answers s code 1)
    let leaves (u : State) : State := { u with windows := u.windows.map (fun w =>
      if w.n == a.x then { w with members := w.members.filter (fun m => m.1 != p) } else w) }
    (∀ r, a.l = [r] →
      (s.power = .on → a.x < 64 → (∀ w ∈ s.windows, w.n ≠ a.x) → s.regionOk r = true → s.regionFree r = true →
        ∃ t : State, acts .wincreate 9 t ∧ t.windows = s.windows ++ [{ n := a.x, die := r / 2048, regions := [r], key := s.nextKey }] ∧
          t.nextKey = s.nextKey + 1 ∧ t.mem = Mem.clear s.mem (r * 2 ^ 26) (2 ^ 26) ∧ t.parts = s.parts) ∧
      (64 ≤ a.x ∨ (∃ w ∈ s.windows, w.n = a.x) ∨ s.regionOk r = false ∨ s.regionFree r = false → denied .wincreate 9)) ∧
    (a.l = [] → denied .wincreate 9) ∧
    (may → a.y = 1 ∨ a.y = 3 → kget x.wins a.x = none → (∃ w ∈ s.windows, w.n = a.x ∧ w.members.length < 8) → acts .winattach 10
      (({ s with windows := s.windows.map (fun w => if w.n == a.x then { w with members := w.members ++ [(p, a.y)] } else w) } : State).modPart p
        (fun x => { x with wins := x.wins ++ [(a.x, a.y)] }))) ∧
    ((a.y ≠ 1 ∧ a.y ≠ 3) ∨ kget x.wins a.x ≠ none ∨ (∀ w ∈ s.windows, w.n = a.x → 8 ≤ w.members.length) → denied .winattach 10) ∧
    (a.z = 1 → (s.windowBusy p a.x = true → exec .windetach s = .next (s.sched (s.now + 64) 0 .windetach { a with z := 1 })) ∧
      (s.windowBusy p a.x = false → acts .windetach 11 (leaves s))) ∧
    (a.z ≠ 1 → (¬may ∨ kget x.wins a.x = none → denied .windetach 11) ∧
      (may → kget x.wins a.x ≠ none → let cut : State := { s with oldPtes := s.oldPtes.filter (fun r => r.p != p || !(Pte.win r.old && Pte.wix r.old == a.x)) }
        let u := cut.modPart p (fun x => { x with wins := x.wins.filter (fun w => w.1 != a.x) })
        (s.windowBusy p a.x = false → acts .windetach 11 (leaves u)) ∧
        (s.windowBusy p a.x = true → exec .windetach s = .next (u.sched (s.now + 64) 0 .windetach { a with z := 1 })))) ∧
    ((∃ w ∈ s.windows, w.n = a.x ∧ w.members = []) → ∃ t : State, acts .windestroy 12 t ∧ t.windows = s.windows.filter (fun w => w.n != a.x) ∧
      t.mem = s.mem ∧ t.parts = s.parts) ∧
    ((∀ w ∈ s.windows, w.n = a.x → w.members ≠ []) → denied .windestroy 12) ∧
    (may → (∀ h, a.l = [h] → x.handleOk h = true → (∃ y ∈ s.parts, y.num = p) →
        let u := (s.modPart p (fun y => { y with objs := y.objs.filter (fun o => !o.isAt (x.objPlace h) h) })).dropWft p (fun w => w.name == h)
        (u.part p).wft = x.wft.filter (fun w => w.name != h) ∧
        (x.inMemory h = false → acts .objreset 13 u) ∧
        (x.inMemory h = true → acts .objreset 13 ((u.devWrite p (x.objVa h) (List.replicate 16 0)).getD u))) ∧
      ((∃ h ∈ a.l, x.handleOk h = false) → denied .objreset 13) ∧
      (let i := s.inst p a.id
       let ok : Prop := i.stopped = true ∧ i.gen = a.x
       (ok → acts .instctlResume 14 (s.sched (s.now + 64) 0 .replayInject { p := p, id := a.id, x := a.x }) ∧
         acts .instctlKill 14 (s.sched s.now 0 .instanceKill { p := p, id := a.id, x := a.x })) ∧
       (¬ok → denied .instctlResume 14 ∧ denied .instctlKill 14)) ∧
      (let ok : Prop := x.vf.state = .paused ∧ (∀ i ∈ x.insts, i.status = .saved ∨ i.status = .ended) ∧ x.wins = [] ∧ a.z = 1 ∧
         x.map.length * 64 * (32768 + 1024) + x.regions.length * 2 ^ 26 ≤ a.x ∧ a.y + a.x ≤ x.hostLen
       (¬ok → denied .migsave 15) ∧
       (ok → ∃ (t : State) (m : MigState), acts .migsave 15 t ∧ m ∈ t.migs ∧ m.addr = 2 ^ 45 + x.hostBase + a.y ∧ m.len = a.x ∧ m.part = x ∧
         m.helm = s.helmSaved.filter (fun z => z.p == p) ∧ t.parts = s.parts ∧
         (Mem.wf s.mem = true → ∀ k, k < m.addr ∨ m.addr + m.len ≤ k → Mem.byte t.mem k = Mem.byte s.mem k))) ∧
      (∀ m, s.migs.find? (fun m => m.addr == 2 ^ 45 + x.hostBase + a.y && m.len == a.x) = some m →
        (∀ u, s.loadMig p m (pairs a.l) = some u → acts .migload 16 u) ∧ (s.loadMig p m (pairs a.l) = none → denied .migload 16)) ∧
      ((∀ m ∈ s.migs, ¬(m.addr = 2 ^ 45 + x.hostBase + a.y ∧ m.len = a.x)) → denied .migload 16)) ∧
    (∀ (m : MigState) l u, s.loadMig p m l = some u → x.insts = [] ∧ Mem.bytes s.mem m.addr m.len = freeBytes m.start m.len ∧
      ((∃ y ∈ s.parts, y.num = p) → (u.part p).insts = m.part.insts ∧ (u.part p).vf.state = .paused ∧ (u.part p).map = x.map ∧
        (u.part p).regions = x.regions ∧ (u.part p).key = x.key) ∧
      ∀ z ∈ m.helm, { z with p := p } ∈ u.helmSaved)

/-- R383, R384, R373 and R400: the five rungs of the reset ladder, their escalation, and a function-level reset. -/
def Obligations.ResetLadder : Prop :=
  (∀ (s : State), let a := s.arg
    let p := a.p
    let x := s.part p
    let alive : Prop := ∃ y ∈ s.parts, y.num = p ∧ y.live = true
    let answers (u : State) (st : Nat) : State := { u with replies := u.replies ++ [(7, p, st)] }
    let denied (i : Instr) : Prop := exec i s = .next (answers s 1)
    let again (u : State) : Out := .next (u.sched (s.now + 9) 0 .resetContext { a with z := 1 })
    (alive → a.x < x.csrN 0x0E2 % 2048 → exec .resetQueue s = .next (answers (s.clearQueue p a.x) 0)) ∧
    (¬alive ∨ x.csrN 0x0E2 % 2048 ≤ a.x → denied .resetQueue) ∧
    (¬alive ∨ a.x ∉ x.helmDies → (a.z = 1 → exec .resetContext s = .next s) ∧ (a.z ≠ 1 → denied .resetContext)) ∧
    (alive → a.x ∈ x.helmDies → a.z = 1 → (s.contextClear p a.x = true → exec .resetContext s = .next (s.endReset 2 p a.x)) ∧
      (s.contextClear p a.x = false → exec .resetContext s = again s)) ∧
    (alive → a.x ∈ x.helmDies → a.z ≠ 1 → ((s.startReset 2 p a.x 10).clearContext p a.x).now = s.now →
      exec .resetContext s = again ((s.startReset 2 p a.x 10).clearContext p a.x)) ∧
    (¬alive → denied .resetEngine ∧ denied .resetPartition ∧ exec .functionReset s = .next s) ∧
    (alive → exec .resetEngine s = .next (((s.startReset 3 p a.x 50).clearEngines p a.x).endReset 3 p a.x) ∧
      (let n : Nat := (s.resets.filter (fun r => r.p == p)).length
       let u := ({ s with resets := s.resets.filter (fun r => r.p != p) } : State).clearPart p
       exec .resetPartition s = .next { u with replies := u.replies ++ List.replicate (n + 1) (7, p, 0) }) ∧
      exec .functionReset s = .next ((s.clearPart p).modPart p (fun x => { x with
        vf := { state := x.vf.state, held := x.vf.held, devid := x.vf.devid, msix := x.vf.msix } }))) ∧
    (∃ t : State, exec .resetDevice s = .next t ∧ t.parts = [] ∧ t.windows = [] ∧ t.helmSlots = [] ∧ t.plait = [] ∧ t.resets = [] ∧ t.reports = [] ∧ t.power = .booting ∧
      t.agenda = [⟨s.now, 0, 0, .row .powerOn { z := 1 }⟩]) ∧
    ((∀ r ∈ s.resets, ¬(r.p = p ∧ r.x = a.x ∧ r.rung = a.y)) → exec .resetEscalate s = .next s) ∧
    ((∃ r ∈ s.resets, r.p = p ∧ r.x = a.x ∧ r.rung = a.y) →
      ∃ t : State, exec .resetEscalate s = .next t ∧ t.mem = s.mem ∧ t.parts = s.parts ∧ (∀ r ∈ t.resets, ¬(r.p = p ∧ r.x = a.x ∧ r.rung = a.y)) ∧
        (∃ e : EvRec, e.ty = 0x0A ∧ e.pay = [a.y, a.x] ∧ t.pfEvents = s.pfEvents ++ [(p, e)]) ∧
        (a.y = 2 → t.agenda = (s.sched s.now 0 .resetEngine { p := p, x := a.x }).agenda) ∧
        (a.y = 3 → t.agenda = (s.sched s.now 0 .resetPartition { p := p }).agenda) ∧
        (4 ≤ a.y → t.agenda = (s.sched s.now 0 .resetDevice {}).agenda))) ∧
  (∀ (s : State) (p : Nat) (x : Part), s.parts = [x] → x.num = p → x.preempts = [] → (∀ o ∈ x.objs, o.va = 0) → s.helmSlots = [] →
    x.map = [] → x.posted = [] → (∀ i ∈ x.insts, ∀ die rva h, i.origin ≠ .launch die rva h) → let t := s.clearPart p
    t.mem = s.mem ∧ t.parts = [x.blank] ∧ (∀ e ∈ t.agenda, ∀ i a, e.act = .row i a → a.p = p → deviceRow i = true ∨ i = .eventRecordWrite) ∧
    (∀ e ∈ t.agenda, ∀ q pg tile, e.act = .fire q pg tile → q ≠ p)) ∧
  (∀ (s : State) (p die rva h : Nat) (i : Inst) (l : Leaf), (s.part p).insts = [i] → (s.part p).posted = [] → i.origin = .launch die rva h →
    (i.status = .ended ∨ rva = 0 → s.endPart p = s) ∧
    (i.status ≠ .ended → rva ≠ 0 → s.walkFail (s.part p) rva = none → s.translate (s.part p) rva = .ok l → (s.part p).mayWrite l = true →
      s.badAt l.pa 8 = false → s.endPart p = s.memWrite l.pa (List.replicate 8 0xFF))) ∧
  (∀ x : Part, let b := x.blank
    b.map = [] ∧ b.pages = [] ∧ b.regions = x.regions ∧ b.engines = x.engines ∧ b.helmDies = x.helmDies ∧ b.minima = x.minima ∧ b.key = x.key ∧ b.idGen = [] ∧
    b.pgen = (x.pgen + 1) % 65536 ∧ b.insts = [] ∧ b.objs = [] ∧ b.wft = [] ∧ b.requests = [] ∧ b.copies = [] ∧ b.areas = [] ∧ b.qregs = [] ∧
    b.frozen = false ∧ b.share = x.share ∧ (∀ n, n ≠ 0x0C2 → b.csrN n = ({ num := x.num } : Part).csrN n))

/-- R419 to R422, R372, R423 to R425: booting with its attestation report, spares, the loss of pages and bandwidth, power and heat. -/
def Obligations.BootAndPower : Prop :=
  (∀ (s : State), let z := s.arg.z
    let m := s.module
    (∀ b, s.bootFails = some b → ∃ t : State, exec .powerOn s = .next t ∧ t.power = .failed ∧ t.boot = b ∧ t.parts = [] ∧ t.clusters = [] ∧
      t.channels = [] ∧ t.agenda = [] ∧ t.reports = [] ∧ t.replies = if z = 1 then s.replies ++ [(7, 0, 1)] else s.replies) ∧
    (s.bootFails = none → ∃ t : State, exec .powerOn s = .next t ∧ t.power = .on ∧ t.boot = (0, 0) ∧ t.parts = [] ∧ t.clusters = m.clusters ∧
      t.channels = m.channels ∧ t.agenda = ⟨s.now + 8500, 0, 0, .row .powerRefill {}⟩ :: (if s.hot then [⟨s.now + 850000, 0, 0, .row .thermalStep {}⟩] else []) ∧ t.fe = [] ∧ t.guard = [] ∧ t.badLines = [] ∧ t.reports = [reportOf s.arg.x none] ∧
      (∀ k, k < 2 ^ 45 ∨ isSram k = true → Mem.byte t.mem k = 0) ∧ (Mem.wf s.mem = true → ∀ k, 2 ^ 45 ≤ k → isSram k = false → Mem.byte t.mem k = Mem.byte s.mem k) ∧
      t.replies = if z = 1 then s.replies ++ [(7, 0, 0)] else s.replies) ∧
    (s.bridges = [] → m.failStep = 0 → (∀ d < 4, 2 ≤ (onDie d m.clusters).length ∧ 8 ≤ (onDie d m.channels).length) → s.bootFails = none) ∧
    (1 ≤ m.failStep → m.failStep ≤ 4 → s.bridges = [] → s.bootFails = some (m.failStep, m.cause)) ∧
    (∀ d < 4, onDie d m.clusters = (((List.range 11).map (fun k => (d, k))).filter (fun c => !m.badClusters.contains c)).take 10 ∧
      onDie d m.channels = (((List.range 66).map (fun k => (d, k))).filter (fun c => !m.badChannels.contains c)).take 64)) ∧
  (∀ (s : State), let a := s.arg
    let off (i : Instr) : Prop := ∃ t : State, exec i s = .next t ∧ t.power = .off ∧ t.parts = [] ∧ t.agenda = [] ∧ t.windows = [] ∧
      (∀ k, isHost k = false → Mem.byte t.mem k = 0) ∧ (Mem.wf s.mem = true → ∀ k, isHost k = true → Mem.byte t.mem k = Mem.byte s.mem k)
    let n := s.limit * 10000000 / max s.clusters.length 1
    off .thermalShutdown ∧ off .powerLoss ∧
    (s.power ≠ .on → exec .powerRefill s = .next s ∧ exec .thermalStep s = .next s ∧ (a.z ≠ 1 → exec .thermalLimit s = .next s) ∧
      exec .channelSpareSwitch s = .next s) ∧
    (s.power = .on → ∃ t : State, exec .powerRefill s = .next t ∧ t.mem = s.mem ∧ t.parts = s.parts ∧
      ⟨s.now + 8500, 0, 0, .row .powerRefill {}⟩ ∈ t.agenda ∧ t.credits.map (fun k => (k.1, k.2.1)) = s.clusters ∧
      (∀ k ∈ t.credits, k.2.2 ≤ 2 * n) ∧ ∀ c v, s.clusters = [c] → s.credits = [(c.1, c.2, v)] → t.credits = [(c.1, c.2, min (v + n) (2 * n))]) ∧
    (s.power = .on → a.x ≤ 2600 → exec .moduleLimit s = .next { s with limit := a.x, replies := s.replies ++ [(17, 0, 0)] }) ∧
    (s.power ≠ .on ∨ 2600 < a.x → exec .moduleLimit s = .next { s with replies := s.replies ++ [(17, 0, 1)] }) ∧
    (a.z = 1 → exec .thermalLimit s = .next { s with hot := false }) ∧
    (a.z ≠ 1 → s.power = .on → s.hot = false → exec .thermalLimit s = .next (({ s with hot := true } : State).sched (s.now + 850000) 0 .thermalStep {})) ∧
    (a.z ≠ 1 → s.hot = true → exec .thermalLimit s = .next s) ∧
    (s.hot = false → exec .thermalStep s = .next s) ∧
    (s.power = .on → s.hot = true → exec .thermalStep s = .next
      (({ s with limit := s.limit * 9 / 10, replies := s.replies ++ [(18, s.limit * 9 / 10, 0)] } : State).sched (s.now + 850000) 0 .thermalStep {})) ∧
    (∃ t, exec .bridgeLoss s = .next t ∧ a.x ∈ t.bridges ∧ { t with bridges := s.bridges } = s) ∧
    (s.power = .on →
      ((onDie a.x s.channels)[a.y]? = none → exec .channelSpareSwitch s = .next s) ∧
      (∀ c, (onDie a.x s.channels)[a.y]? = some c →
        (c ∈ s.worn → exec .channelSpareSwitch s = .next s) ∧
        (∀ n, c ∉ s.worn → spareOf a.x 66 s.module.badChannels s.channels s.worn = some n → exec .channelSpareSwitch s =
          .next { s with channels := s.channels.map (fun k => if k == c then n else k), worn := s.worn ++ [c] }) ∧
        (c ∉ s.worn → spareOf a.x 66 s.module.badChannels s.channels s.worn = none → exec .channelSpareSwitch s =
          .next (({ s with worn := s.worn ++ [c] } : State).reduceBandwidth a.x)))) ∧
    (let again (u : State) (b : Args) : Out := .next (u.sched (u.now + 64) 0 .clusterRetire b)
     (a.z ≠ 2 → s.power ≠ .on ∨ (a.x, a.y) ∉ s.clusters ∨ (a.z = 0 ∧ (a.x, a.y) ∈ s.retired) → exec .clusterRetire s = .next s) ∧
     (a.z = 0 → s.power = .on → (a.x, a.y) ∈ s.clusters → (a.x, a.y) ∉ s.retired → s.clusterPages a.x a.y = [] → exec .clusterRetire s =
       again { s with retired := s.retired ++ [(a.x, a.y)], cfgErrs := s.cfgErrs.filter (fun e => !(e.1 == a.x && e.2.1 == a.y)) } { a with z := 1 }) ∧
     (a.z = 1 → s.power = .on → (a.x, a.y) ∈ s.clusters →
       ((∃ z ∈ s.clusterPages a.x a.y, s.pageClear z.1 z.2 = false) → exec .clusterRetire s = again s a) ∧
       (∀ n, (∀ z ∈ s.clusterPages a.x a.y, s.pageClear z.1 z.2 = true) → spareOf a.x 11 s.module.badClusters s.clusters s.retired = some n →
         ∃ t : State, exec .clusterRetire s = .next t ∧ t.clusters = s.clusters.map (fun c => if c == (a.x, a.y) then n else c) ∧
           t.parts.map (fun x => x.map) = s.parts.map (fun x => x.map.map (fun m =>
             if m.1 / 256 = a.x ∧ m.2.1 / 16 = a.y then mapEntry m.1 (n.2 * 16 + m.2.1 % 16) else m))) ∧
       ((∀ z ∈ s.clusterPages a.x a.y, s.pageClear z.1 z.2 = true) → spareOf a.x 11 s.module.badClusters s.clusters s.retired = none →
         exec .clusterRetire s = again (((({ s with clusters := s.clusters.filter (fun c => c != (a.x, a.y)) } : State).unholdPre true).reducePages a.x))
           { a with z := 2, l := (s.clusterPages a.x a.y).flatMap (fun z => [z.1, z.2]) })) ∧
     (a.z = 2 → (∀ x ∈ s.parts, ∀ r ∈ x.preempts, r.reclaim = true → ∀ pg ∈ r.pgs, pg / 256 ≠ a.x) → exec .clusterRetire s = .next (s.remapLost (pairs a.l))) ∧
     (a.z = 2 → (∃ x ∈ s.parts, ∃ r ∈ x.preempts, r.reclaim = true ∧ ∃ pg ∈ r.pgs, pg / 256 = a.x) → exec .clusterRetire s = again s a))) ∧
  (∀ (x : Part) (die : Nat) (m : Nat × Nat × Nat), (x.setMin die m).minOn die = m ∧ ∀ d, d ≠ die → (x.setMin die m).minOn d = x.minOn d)

/-- R385, R386, R400 to R402 and R351: events to a function's queue, its BAR0 registers, and the host's accesses to memory. -/
def Obligations.EventsAndHost : Prop :=
  (∀ (s : State), let a := s.arg
    let p := a.p
    let x := s.part p
    let f := x.vf
    a.z ≠ 1 →
    (f.held = [] ∨ f.state ≠ .running → exec .eventRecordWrite s = .next s) ∧
    (∀ e, f.held = [e] → f.state = .running →
      (e.pgen ≠ x.pgen → ∃ t : State, exec .eventRecordWrite s = .next t ∧ t.mem = s.mem ∧ (t.part p).vf = { f with
        held := [], evdisc := min (f.evdisc + 1) 0xFFFFFFFF }) ∧
      (e.pgen = x.pgen → f.en = false ∨ 2 ^ f.log2 ≤ (f.tail + 65536 - f.head) % 65536 → exec .eventRecordWrite s = .next s) ∧
      (e.pgen = x.pgen → f.en = true → (f.tail + 65536 - f.head) % 65536 < 2 ^ f.log2 →
        ∃ t : State, exec .eventRecordWrite s = .next t ∧
          (t.part p).vf = { f with held := [], tail := (f.tail + 1) % 65536, msix := f.msix + (if f.mask then 0 else 1) } ∧
          let at' := 2 ^ 45 + ((f.evqbh.toNat * 2 ^ 32 + f.evqbl.toNat) / 64 * 64 + 32 * (f.tail % 2 ^ f.log2)) % 2 ^ 45
          let head := leBytes 1 e.ty ++ leBytes 1 p ++ leBytes 2 e.pgen ++ leBytes 4 0 ++ leBytes 8 e.ts
          (∀ b c, e.pay = [b, c] → t.mem = Mem.sets s.mem at' (head ++ leBytes 8 b ++ leBytes 8 c)) ∧
          (∀ b c d g, e.pay = [b, c, d, g] → t.mem = Mem.sets s.mem at' (head ++ leBytes 4 b ++ leBytes 4 c ++ leBytes 4 d ++ leBytes 4 g))))) ∧
  (∀ (s : State) (f : Fire), let a := s.arg
    let p := a.p
    a.z = 1 → (s.page p a.pg).fire? a.fid = some f → let t := f.done (if (s.part p).vf.held.length < 256 then 1 else 0)
    exec .eventRecordWrite s = .next ((((s.postVf p 0x01 [a.x, a.w0.toNat]).answer p a.pg a.fid (s.now + 20) t t).checkDone p a.pg f.tag).deliverEvents
      p 257)) ∧
  (∀ (s : State), let a := s.arg
    let p := a.p
    let x := s.part p
    let v := a.w0.toNat
    let f := x.vf
    let gives (i : Instr) (u : State) (v : Nat) : Prop := exec i s = .next { u with hostOut := u.hostOut ++ [v] }
    let vf (g : Vf → Vf) : State := s.modPart p (fun x => { x with vf := g x.vf })
    let deliver (u : State) : Out := .next (u.sched s.now 0 .eventRecordWrite { p := p })
    (a.z = 0 → exec .csrWrite s = .next (s.writeCsr p a.pg a.id a.x a.y v)) ∧ (a.z = 1 → exec .csrWrite s = .next (s.writePart p a.y v)) ∧
    (a.z = 2 → a.x ≠ 4 ∨ a.y % 4 ≠ 0 → exec .csrWrite s = .next s ∧ gives .clearOnRead s 0xFFFFFFFF) ∧
    (a.z = 2 → a.x = 4 →
      (a.y = 0x000 → exec .csrWrite s = .next (s.sched s.now 0 .doorbell { p := p, w0 := a.w0 })) ∧
      (a.y = 0x020 → exec .csrWrite s = .next (vf (fun f => { f with evqbl := a.w0 })) ∧ gives .clearOnRead s f.evqbl.toNat) ∧
      (a.y = 0x024 → exec .csrWrite s = .next (vf (fun f => { f with evqbh := a.w0 })) ∧ gives .clearOnRead s f.evqbh.toNat) ∧
      (a.y = 0x028 → exec .csrWrite s = deliver (vf (fun f => { f with
        log2 := if 4 ≤ v % 16 then v % 16 else f.log2, mask := bitAt v 8, en := bitAt v 31 }))) ∧
      (a.y = 0x02C → exec .csrWrite s = deliver (vf (fun f => { f with head := v % 65536 })) ∧ gives .clearOnRead s f.head) ∧
      (a.y = 0x040 → exec .csrWrite s = .next (vf (fun f => { f with apb := v % 65536 })) ∧ gives .clearOnRead s f.apb) ∧
      (0x1000 ≤ a.y → a.y < 0x1600 → a.y % 4 = 0 → exec .csrWrite s = .next (s.writePart p (0x080 + (a.y - 0x1000) / 4) v)) ∧
      (a.y = 0x008 → gives .clearOnRead s (f.devid + p * 2 ^ 20)) ∧ (a.y = 0x030 → gives .clearOnRead s f.tail) ∧
      (a.y = 0x034 → gives .clearOnRead (vf (fun f => { f with evdisc := 0 })) f.evdisc) ∧
      (a.y = 0x038 → gives .clearOnRead (vf (fun f => { f with dbdisc := 0 })) f.dbdisc) ∧
      (a.y = 0x044 → gives .clearOnRead (vf (fun f => { f with apflt := 0 })) f.apflt) ∧
      (a.y = 0x014 → gives .clearOnRead s f.tsnowh.toNat)) ∧
    (a.z ≠ 2 → ∃ u : State, u = (s.readPart p a.y).1 ∧ gives .clearOnRead u (s.readPart p a.y).2.toNat) ∧
    (let ts := s.tsBase + s.now * 20 / 17
     gives .tsnowl (vf (fun f => { f with tsnowh := BitVec.ofNat 32 (ts / 2 ^ 32) })) (ts % 2 ^ 32)) ∧
    (let at' := x.vf.apb * 2 ^ 32 + a.y
     let faults : State := vf (fun f => { f with apflt := min (f.apflt + 1) 0xFFFFFFFF })
     (s.hostPieces p false (a.x / 65536 + 2) at' a.x = none → gives .hostApertureRead faults (256 ^ a.x - 1)) ∧
     (∀ l, s.hostPieces p false (a.x / 65536 + 2) at' a.x = some l → (∀ z ∈ l, s.badAt z.key z.len = false) →
       gives .hostApertureRead s (ofLE (s.pieceBytes l))) ∧
     (s.hostPieces p true (a.l.length / 65536 + 2) at' a.l.length = none → exec .hostApertureWrite s = .next faults) ∧
     (∀ l, s.hostPieces p true (a.l.length / 65536 + 2) at' a.l.length = some l → (∀ z ∈ l, s.badAt z.key z.len = false) →
       exec .hostApertureWrite s = .next (s.copyPut l (a.l.map (BitVec.ofNat 8))))))

/-- R84, R342, R411, R412 and R414 to R418: stopping and going on, what the debug unit reads, histograms, trace frames and dumps. -/
def Obligations.DebugAndTrace : Prop :=
  ∀ (s : State), let a := s.arg
    let p := a.p
    let x := s.part p
    let gives (i : Instr) (u : State) (v : Nat) : Prop := exec i s = .next { u with hostOut := u.hostOut ++ [v] }
    let live : Prop := ∃ y ∈ s.parts, y.num = p
    (live → ∃ t : State, exec .debugHalt s = .next t ∧ t.mem = s.mem ∧ (t.part p).insts = x.insts ∧ ∀ y ∈ (t.part p).pages, y.gated = true) ∧
    (live → (∀ y ∈ x.pages, y.held = []) → ∃ t : State, exec .debugResume s = .next t ∧ t.mem = s.mem ∧ (t.part p).insts = x.insts ∧
      (∀ y ∈ (t.part p).pages, y.gated = false) ∧ bits ((t.part p).csrN 0x101) 1 0 = 0) ∧
    (live → ∃ t : State, exec .poisonLogClear s = .next t ∧ t.mem = s.mem ∧ t.agenda = s.agenda ∧ (t.part p).plogOver = 0 ∧
      bits ((t.part p).csrN 0x098) 26 16 = 0 ∧ (t.part p).insts = x.insts ∧ (t.part p).pages = x.pages ∧
      ∀ n, n ≠ 0x098 → (t.part p).csrN n = x.csrN n) ∧
    (kget x.latch 0x102 = none → ∃ u : State, gives .stoptsl u (x.csrN 0x102) ∧ (live → kget (u.part p).latch 0x103 = some (BitVec.ofNat 32 (x.csrN 0x103)))) ∧
    (let n := 0x110 + 4 * (a.x % 4)
     kget x.latch n = none → ∃ u : State, gives .wpkal u (x.csrN n) ∧ (live → kget (u.part p).latch (n + 1) = some (BitVec.ofNat 32 (x.csrN (n + 1))))) ∧
    (∀ w0 w1 w2 w3, s.debugData p = [w0, w1, w2, w3] → live → ∃ u : State, gives .debugDataRead u ((kget x.latch 0x151).getD w0).toNat ∧ u.mem = s.mem ∧
      (u.part p).pages = x.pages ∧ (u.part p).csrN 0x151 = w0.toNat ∧ (u.part p).csrN 0x152 = w1.toNat ∧ (u.part p).csrN 0x153 = w2.toNat ∧
      (u.part p).csrN 0x154 = w3.toNat) ∧
    (let bs := x.histBytes
     let u := s.setCsrF p 0x12A 31 31 0
     let w := u.writePinned p (bs.length / 65536 + 2) (x.base64 0x128 6) bs
     (∀ va, w = .error va → exec .histogramReadout s = .next (u.postVf p 0x07 [va])) ∧
     (∀ t, w = .ok t → bitAt (x.csrN 0x12A) 1 = false → exec .histogramReadout s = .next t) ∧
     (∀ t, w = .ok t → bitAt (x.csrN 0x12A) 1 = true →
       exec .histogramReadout s = .next (t.modPart p (fun x => { x with pages := x.pages.map (fun y => { y with hist := [] }) })))) ∧
    (let n := bits (x.csrN 0x100) 15 8
     let die := a.x
     (n = 0 ∨ (∀ y ∈ x.pages, y.num / 256 ≠ die) → exec .traceSample s = .next s) ∧
     (∀ y : Page, n ≠ 0 → x.pages = [y] → y.num / 256 = die → x.traceStalls = true →
       exec .traceSample s = .next (s.modPart p (fun x => { x with stalled := x.stalled ++ [(.traceSample, a)] }))) ∧
     (∀ y : Page, n ≠ 0 → x.pages = [y] → y.num / 256 = die → x.traceStalls = false → let k := (kget x.sampleAt die).getD 0 % 64
       let u := s.modPart p (fun x => { x with sampleAt := kset x.sampleAt die (k + 1) })
       (y.last.find? (fun l => l.tile == k) = none → exec .traceSample s = .next (u.sched (s.now + n * 1024) (die * 16384) .traceSample a)) ∧
       (∀ l, y.last.find? (fun l => l.tile == k) = some l →
         let t := u.traceRec p 35 (srcOf y.num k) l.gen l.tag (BitVec.ofNat 32 ((opF l.word).toNat + xOf l.word * 128)) 0
         exec .traceSample s = .next (t.sched (t.now + n * 1024) (die * 16384) .traceSample a)))) ∧
    (x.trace.find? (fun l => l.die == a.x) = none → exec .loglineFrameWrite s = .next s) ∧
    (∀ l rs t, x.trace = [l] → l.die = a.x → l.settle.closed = [rs] → x.csrN 0x132 ≠ 0 → x.sinkFull = false →
      let m := l.settle
      let v := s.modPart p (fun x => { x with trace := [m] })
      v.writePinned p 2 (x.base64 0x130 12 + 4096 * (x.csrN 0x134 % x.csrN 0x132)) (frameBytes a.x m.seq m.drops rs) = .ok t → t.parts = v.parts →
      ∃ u : State, exec .loglineFrameWrite s = .next u ∧ u.mem = t.mem ∧ (u.part p).trace = [{ m with closed := [], drops := 0, seq := m.seq + 1 }] ∧
        (u.part p).csrN 0x134 = (x.csrN 0x134 + 1) % 65536) ∧
    (let u := if x.frozen then s else s.haltAll p 4
     let y := u.part p
     let base := y.base64 0x140 12
     let room := bits (y.csrN 0x142) 23 0 * 4096
     let secs := u.dumpSections p
     let need := 128 + secs.foldl (fun n b => n + b.length) 0
     let plan := dumpPlan room 1 128 secs
     let ends (t : State) (st : Nat) : Prop := exec .coreDump s = .next ((t.setCsrF p 0x143 3 1 st).setCsrF p 0x143 31 31 0)
     (room < 128 → ends u 4) ∧
     (∀ e, 128 ≤ room → u.writePinned p 2 base (dumpHeader (if plan.any (fun z => z.2.1) then 1 else 0) need 128 (u.tsBase + u.now * 20 / 17) plan) = .error e →
       ends u 4) ∧
     (∀ t v w reached, 128 ≤ room → (∀ z ∈ plan, z.2.1 = false) →
       u.writePinned p 2 base (dumpHeader 0 need 128 (u.tsBase + u.now * 20 / 17) plan) = .ok t →
       t.dumpWrite p base 128 (plan.zip secs) = (v, reached, false) →
       v.writePinned p 2 base (dumpHeader 0 need reached (u.tsBase + u.now * 20 / 17) plan) = .ok w → ends w 1))
end

