-- ==== Sys2Proof/Laws/Encoding.lean ====
section
/-! SUPPORT. Sys2Proof/Laws/Encoding.lean: the fields of the words that the encoder makes, and their decoding, format by format. -/

namespace Sys2Proof

open Machine

/-- Two bit strings side by side, as a number. -/
theorem append_toNat {m n : Nat} (x : BitVec m) (y : BitVec n) : (x ++ y).toNat = x.toNat * 2 ^ n + y.toNat := by
  rw [BitVec.toNat_append, ← Nat.shiftLeft_add_eq_or_of_lt y.isLt, Nat.shiftLeft_eq]

/-! ### Fields -/

section
variable (op : BitVec 7) (x : BitVec 5) (pr : BitVec 2) (t1 t0 : Target)

theorem opF_wordT : opF (wordT op x pr t1 t0) = op := by
  apply BitVec.eq_of_toNat_eq
  simp only [opF, wordT, BitVec.extractLsb'_toNat, append_toNat, Nat.shiftRight_eq_div_pow]
  omega
theorem prF_wordT : prF (wordT op x pr t1 t0) = pr := by
  apply BitVec.eq_of_toNat_eq
  simp only [prF, wordT, BitVec.extractLsb'_toNat, append_toNat, Nat.shiftRight_eq_div_pow]
  omega
theorem xF_wordT : xF (wordT op x pr t1 t0) = x := by
  apply BitVec.eq_of_toNat_eq
  simp only [xF, wordT, BitVec.extractLsb'_toNat, append_toNat, Nat.shiftRight_eq_div_pow]
  omega
theorem t1F_wordT : t1F (wordT op x pr t1 t0) = encTarget t1 := by
  apply BitVec.eq_of_toNat_eq
  simp only [t1F, wordT, BitVec.extractLsb'_toNat, append_toNat, Nat.shiftRight_eq_div_pow]
  omega
theorem t0F_wordT : t0F (wordT op x pr t1 t0) = encTarget t0 := by
  apply BitVec.eq_of_toNat_eq
  simp only [t0F, wordT, BitVec.extractLsb'_toNat, append_toNat, Nat.shiftRight_eq_div_pow]
  omega
end

section
variable (op : BitVec 7) (imm : BitVec 14) (pr : BitVec 2) (t0 : Target)

theorem opF_wordI : opF (wordI op imm pr t0) = op := by
  apply BitVec.eq_of_toNat_eq
  simp only [opF, wordI, BitVec.extractLsb'_toNat, append_toNat, Nat.shiftRight_eq_div_pow]
  omega
theorem prF_wordI : prF (wordI op imm pr t0) = pr := by
  apply BitVec.eq_of_toNat_eq
  simp only [prF, wordI, BitVec.extractLsb'_toNat, append_toNat, Nat.shiftRight_eq_div_pow]
  omega
theorem imm14F_wordI : imm14F (wordI op imm pr t0) = imm := by
  apply BitVec.eq_of_toNat_eq
  simp only [imm14F, wordI, BitVec.extractLsb'_toNat, append_toNat, Nat.shiftRight_eq_div_pow]
  omega
theorem t0F_wordI : t0F (wordI op imm pr t0) = encTarget t0 := by
  apply BitVec.eq_of_toNat_eq
  simp only [t0F, wordI, BitVec.extractLsb'_toNat, append_toNat, Nat.shiftRight_eq_div_pow]
  omega
end

section
variable (op : BitVec 7) (imm : BitVec 16) (t0 : Target)

theorem opF_wordK : opF (wordK op imm t0) = op := by
  apply BitVec.eq_of_toNat_eq
  simp only [opF, wordK, BitVec.extractLsb'_toNat, append_toNat, Nat.shiftRight_eq_div_pow]
  omega
theorem imm16F_wordK : imm16F (wordK op imm t0) = imm := by
  apply BitVec.eq_of_toNat_eq
  simp only [imm16F, wordK, BitVec.extractLsb'_toNat, append_toNat, Nat.shiftRight_eq_div_pow]
  omega
theorem t0F_wordK : t0F (wordK op imm t0) = encTarget t0 := by
  apply BitVec.eq_of_toNat_eq
  simp only [t0F, wordK, BitVec.extractLsb'_toNat, append_toNat, Nat.shiftRight_eq_div_pow]
  omega
end

section
variable (op : BitVec 7) (pr : BitVec 2) (lsid : BitVec 5) (w : BitVec 3) (off : BitVec 6) (t0 : Target)

theorem opF_wordM : opF (wordM op pr lsid w off t0) = op := by
  apply BitVec.eq_of_toNat_eq
  simp only [opF, wordM, BitVec.extractLsb'_toNat, append_toNat, Nat.shiftRight_eq_div_pow]
  omega
theorem prF_wordM : prF (wordM op pr lsid w off t0) = pr := by
  apply BitVec.eq_of_toNat_eq
  simp only [prF, wordM, BitVec.extractLsb'_toNat, append_toNat, Nat.shiftRight_eq_div_pow]
  omega
theorem xF_wordM : xF (wordM op pr lsid w off t0) = lsid := by
  apply BitVec.eq_of_toNat_eq
  simp only [xF, wordM, BitVec.extractLsb'_toNat, append_toNat, Nat.shiftRight_eq_div_pow]
  omega
theorem wF_wordM : wF (wordM op pr lsid w off t0) = w := by
  apply BitVec.eq_of_toNat_eq
  simp only [wF, wordM, BitVec.extractLsb'_toNat, append_toNat, Nat.shiftRight_eq_div_pow]
  omega
theorem off6F_wordM : off6F (wordM op pr lsid w off t0) = off := by
  apply BitVec.eq_of_toNat_eq
  simp only [off6F, wordM, BitVec.extractLsb'_toNat, append_toNat, Nat.shiftRight_eq_div_pow]
  omega
theorem t0F_wordM : t0F (wordM op pr lsid w off t0) = encTarget t0 := by
  apply BitVec.eq_of_toNat_eq
  simp only [t0F, wordM, BitVec.extractLsb'_toNat, append_toNat, Nat.shiftRight_eq_div_pow]
  omega
end

section
variable (op : BitVec 7) (pr : BitVec 2) (exit : BitVec 3) (off : BitVec 20)

theorem opF_wordB : opF (wordB op pr exit off) = op := by
  apply BitVec.eq_of_toNat_eq
  simp only [opF, wordB, BitVec.extractLsb'_toNat, append_toNat, Nat.shiftRight_eq_div_pow]
  omega
theorem prF_wordB : prF (wordB op pr exit off) = pr := by
  apply BitVec.eq_of_toNat_eq
  simp only [prF, wordB, BitVec.extractLsb'_toNat, append_toNat, Nat.shiftRight_eq_div_pow]
  omega
theorem exitF_wordB : exitF (wordB op pr exit off) = exit := by
  apply BitVec.eq_of_toNat_eq
  simp only [exitF, wordB, BitVec.extractLsb'_toNat, append_toNat, Nat.shiftRight_eq_div_pow]
  omega
theorem off20F_wordB : off20F (wordB op pr exit off) = off := by
  apply BitVec.eq_of_toNat_eq
  simp only [off20F, wordB, BitVec.extractLsb'_toNat, append_toNat, Nat.shiftRight_eq_div_pow]
  omega
end

section
variable (g : BitVec 6) (t1 t0 : Target)

theorem gF_wordG : gF (wordG g t1 t0) = g := by
  apply BitVec.eq_of_toNat_eq
  simp only [gF, wordG, BitVec.extractLsb'_toNat, append_toNat, Nat.shiftRight_eq_div_pow]
  omega
theorem t1F_wordG : t1F (wordG g t1 t0) = encTarget t1 := by
  apply BitVec.eq_of_toNat_eq
  simp only [t1F, wordG, BitVec.extractLsb'_toNat, append_toNat, Nat.shiftRight_eq_div_pow]
  omega
theorem t0F_wordG : t0F (wordG g t1 t0) = encTarget t0 := by
  apply BitVec.eq_of_toNat_eq
  simp only [t0F, wordG, BitVec.extractLsb'_toNat, append_toNat, Nat.shiftRight_eq_div_pow]
  omega
theorem opF_wordG : opF (wordG g t1 t0) = 1#7 := by
  apply BitVec.eq_of_toNat_eq
  simp only [opF, wordG, BitVec.extractLsb'_toNat, append_toNat, Nat.shiftRight_eq_div_pow]
  simp only [BitVec.toNat_ofNat]
  omega
theorem bit18F_wordG : bit18F (wordG g t1 t0) = 0#1 := by
  apply BitVec.eq_of_toNat_eq
  simp only [bit18F, wordG, BitVec.extractLsb'_toNat, append_toNat, Nat.shiftRight_eq_div_pow]
  simp only [BitVec.toNat_ofNat]
  omega
end

/-! ### Targets -/

/-- Every target decodes from its encoding (R35). -/
theorem decTarget_encTarget (t : Target) : decTarget (encTarget t) = some t := by
  rcases t with _ | ⟨q, s⟩ | g | e
  · rfl
  · revert s; cases q <;> decide
  · revert g; decide
  · revert e; decide

/-- What a checked target leaves of its continuation. -/
theorem withTarget_encTarget {t : Target} {mk : Target → Except Reject Instr} {i : Instr} (ht : targetOk t = true) (h : mk t = .ok i) :
    withTarget (encTarget t) mk = .ok i := by
  simp only [withTarget, decTarget_encTarget, h, ht, if_true]

/-- A word with an assigned opcode is not 0. -/
theorem ne_zero_of_fmtOf {w : Word} {f : Fmt} (h : fmtOf (opF w).toNat = some f) : w ≠ 0 := by
  rintro rfl
  simp [opF, fmtOf] at h

/-! ### Formats -/

theorem decode_wordT {op : BitVec 7} {x : BitVec 5} {pr : BitVec 2} {t1 t0 : Target} {mk : TForm} (hf : fmtOf op.toNat = some .t)
    (hm : formT op.toNat x = some mk) (h1 : targetOk t1 = true) (h0 : targetOk t0 = true) : decode (wordT op x pr t1 t0) = .ok (mk pr t1 t0) := by
  have hf' : fmtOf (opF (wordT op x pr t1 t0)).toNat = some .t := by rw [opF_wordT]; exact hf
  unfold decode
  rw [if_neg (ne_zero_of_fmtOf hf'), hf']
  simp only [opF_wordT, xF_wordT, hm, t1F_wordT, t0F_wordT, prF_wordT]
  exact withTarget_encTarget h1 (withTarget_encTarget h0 rfl)

theorem decode_wordN {op : BitVec 7} {x : BitVec 5} {pr : BitVec 2} {mk : BitVec 2 → Instr} (hf : fmtOf op.toNat = some .n)
    (hm : formN op.toNat x = some mk) : decode (wordT op x pr .none .none) = .ok (mk pr) := by
  have hf' : fmtOf (opF (wordT op x pr .none .none)).toNat = some .n := by rw [opF_wordT]; exact hf
  unfold decode
  rw [if_neg (ne_zero_of_fmtOf hf'), hf']
  simp only [opF_wordT, xF_wordT, hm, t1F_wordT, t0F_wordT, prF_wordT]
  exact withTarget_encTarget rfl (withTarget_encTarget rfl rfl)

theorem decode_wordI {op : BitVec 7} {imm : BitVec 14} {pr : BitVec 2} {t0 : Target} {mk : BitVec 2 → Target → Instr}
    (hf : fmtOf op.toNat = some .i) (hm : formI op.toNat imm = some mk) (h0 : targetOk t0 = true) : decode (wordI op imm pr t0) = .ok (mk pr t0) := by
  have hf' : fmtOf (opF (wordI op imm pr t0)).toNat = some .i := by rw [opF_wordI]; exact hf
  unfold decode
  rw [if_neg (ne_zero_of_fmtOf hf'), hf']
  simp only [opF_wordI, imm14F_wordI, t0F_wordI, prF_wordI]
  exact withTarget_encTarget h0 (by simp only [hm])

theorem decode_wordLoad {op : BitVec 7} {pr : BitVec 2} {lsid : BitVec 5} {w : BitVec 3} {off : BitVec 6} {t0 : Target}
    {mk : BitVec 2 → BitVec 5 → BitVec 3 → BitVec 6 → Target → Instr} (hf : fmtOf op.toNat = some .load) (hm : formLoad op.toNat = some mk)
    (h0 : targetOk t0 = true) : decode (wordM op pr lsid w off t0) = .ok (mk pr lsid w off t0) := by
  have hf' : fmtOf (opF (wordM op pr lsid w off t0)).toNat = some .load := by rw [opF_wordM]; exact hf
  unfold decode
  rw [if_neg (ne_zero_of_fmtOf hf'), hf']
  simp only [opF_wordM, xF_wordM, wF_wordM, off6F_wordM, t0F_wordM, prF_wordM]
  exact withTarget_encTarget h0 (by simp only [hm])

theorem decode_wordStore {op : BitVec 7} {pr : BitVec 2} {lsid : BitVec 5} {w : BitVec 3} {off : BitVec 6}
    {mk : BitVec 2 → BitVec 5 → BitVec 3 → BitVec 6 → Instr} (hf : fmtOf op.toNat = some .store) (hm : formStore op.toNat = some mk) :
    decode (wordM op pr lsid w off .none) = .ok (mk pr lsid w off) := by
  have hf' : fmtOf (opF (wordM op pr lsid w off .none)).toNat = some .store := by rw [opF_wordM]; exact hf
  unfold decode
  rw [if_neg (ne_zero_of_fmtOf hf'), hf']
  simp only [opF_wordM, xF_wordM, wF_wordM, off6F_wordM, t0F_wordM, prF_wordM]
  exact withTarget_encTarget rfl (by simp only [hm, if_true])

end Sys2Proof
end

