-- ==== Sys2Proof/Laws/Mem.lean ====
section
/-! SUPPORT. Sys2Proof/Laws/Mem.lean: the laws of memory: what a read after a write gives, that a write leaves every other byte
alone, and that every memory operation keeps the canonical form; and the same of the full/empty list. -/

namespace Sys2Proof.Machine

/-! ### The canonical form, in terms that induct -/

theorem Mem.wfFrom_mono {lo hi : Nat} {m : List Host.Cell} (h : hi ≤ lo) (w : Mem.wfFrom lo m = true) : Mem.wfFrom hi m = true := by
  cases m with
  | nil => rfl
  | cons c t =>
    obtain ⟨x, y⟩ := c
    simp only [Mem.wfFrom, Bool.and_eq_true, decide_eq_true_eq] at w ⊢
    exact ⟨⟨by omega, w.1.2⟩, w.2⟩

/-- A byte below the first listed address of a canonical memory is unlisted. -/
theorem Mem.byte_below {lo a : Nat} {m : List Host.Cell} (w : Mem.wfFrom lo m = true) (h : a < lo) : Mem.byte m a = Mem.unlisted := by
  induction m generalizing lo with
  | nil => rfl
  | cons c t ih =>
    obtain ⟨x, y⟩ := c
    simp only [Mem.wfFrom, Bool.and_eq_true, decide_eq_true_eq] at w
    have h1 : a ≠ x := by omega
    have h2 : a < x := by omega
    simp [Mem.byte, h1, h2]

theorem Mem.set_wfFrom {lo a : Nat} {b : Byte} {m : List Host.Cell} (h : lo ≤ a) (w : Mem.wfFrom lo m = true) :
    Mem.wfFrom lo (Mem.set m a b) = true := by
  induction m generalizing lo with
  | nil => by_cases hb : b = Mem.unlisted <;> simp [Mem.set, Mem.wfFrom, hb, h]
  | cons c t ih =>
    obtain ⟨x, y⟩ := c
    have w' := w
    simp only [Mem.wfFrom, Bool.and_eq_true, decide_eq_true_eq, bne_iff_ne] at w
    obtain ⟨⟨hx, hy⟩, ht⟩ := w
    unfold Mem.set
    split
    · split
      · exact w'
      · rename_i h1 h2
        simp only [Mem.wfFrom, Bool.and_eq_true, decide_eq_true_eq, bne_iff_ne]
        exact ⟨⟨h, h2⟩, ⟨by omega, hy⟩, ht⟩
    · split
      · split
        · exact Mem.wfFrom_mono (by omega) ht
        · rename_i h1 h2 h3
          subst h2
          simp only [Mem.wfFrom, Bool.and_eq_true, decide_eq_true_eq, bne_iff_ne]
          exact ⟨⟨hx, h3⟩, ht⟩
      · simp only [Mem.wfFrom, Bool.and_eq_true, decide_eq_true_eq, bne_iff_ne]
        exact ⟨⟨hx, hy⟩, ih (by omega) ht⟩

/-- Writing a byte keeps the canonical form. -/
theorem Mem.set_wf {a : Nat} {b : Byte} {m : List Host.Cell} (w : Mem.wf m = true) : Mem.wf (Mem.set m a b) = true :=
  Mem.set_wfFrom (Nat.zero_le _) w

/-- Writing bytes keeps the canonical form. -/
theorem Mem.sets_wf {bs : List Byte} : ∀ {a : Nat} {m : List Host.Cell}, Mem.wf m = true → Mem.wf (Mem.sets m a bs) = true := by
  induction bs with
  | nil => exact fun w => w
  | cons b bs ih => exact fun w => ih (Mem.set_wf w)

theorem Mem.filter_wfFrom {p : Host.Cell → Bool} {m : List Host.Cell} : ∀ {lo : Nat}, Mem.wfFrom lo m = true →
    Mem.wfFrom lo (m.filter p) = true := by
  induction m with
  | nil => exact fun _ => rfl
  | cons c t ih =>
    intro lo w
    obtain ⟨x, y⟩ := c
    simp only [Mem.wfFrom, Bool.and_eq_true, decide_eq_true_eq, bne_iff_ne] at w
    by_cases hp : p (x, y) = true
    · rw [List.filter_cons_of_pos hp]
      simp only [Mem.wfFrom, Bool.and_eq_true, decide_eq_true_eq, bne_iff_ne]
      exact ⟨w.1, ih w.2⟩
    · rw [List.filter_cons_of_neg hp]
      exact ih (Mem.wfFrom_mono (by omega) w.2)

/-- Taking cells out keeps the canonical form. -/
theorem Mem.filter_wf {p : Host.Cell → Bool} {m : List Host.Cell} (w : Mem.wf m = true) : Mem.wf (m.filter p) = true :=
  Mem.filter_wfFrom w

/-- Clearing a range keeps the canonical form. -/
theorem Mem.clear_wf {m : List Host.Cell} {lo n : Nat} (w : Mem.wf m = true) : Mem.wf (Mem.clear m lo n) = true := Mem.filter_wf w

/-- A fold of steps that each keep the canonical form keeps it. -/
theorem Mem.foldl_wf {β : Type} {l : List β} {f : List Host.Cell → β → List Host.Cell} {m : List Host.Cell}
    (hf : ∀ m x, Mem.wf m = true → Mem.wf (f m x) = true) (w : Mem.wf m = true) : Mem.wf (l.foldl f m) = true := by
  induction l generalizing m with
  | nil => exact w
  | cons x l ih => exact ih (hf m x w)

/-- Reset's memory is canonical. -/
theorem Mem.reset_wf : Mem.wf State.reset.mem = true := rfl

/-! ### Reads after writes -/

/-- The byte written is the byte read. -/
theorem Mem.byte_set_same {a : Nat} {b : Byte} {m : List Host.Cell} : ∀ {lo : Nat}, Mem.wfFrom lo m = true → lo ≤ a →
    Mem.byte (Mem.set m a b) a = b := by
  induction m with
  | nil =>
    intro lo _ _
    unfold Mem.set
    split
    · rename_i hb; exact hb.symm
    · simp [Mem.byte]
  | cons c t ih =>
    intro lo w h
    obtain ⟨x, y⟩ := c
    simp only [Mem.wfFrom, Bool.and_eq_true, decide_eq_true_eq, bne_iff_ne] at w
    unfold Mem.set
    split
    · split
      · rename_i h1 h2
        have : a ≠ x := by omega
        simp [Mem.byte, h1, this, h2]
      · simp [Mem.byte]
    · split
      · rename_i h1 h2
        split
        · rename_i h3
          rw [h3]
          exact Mem.byte_below w.2 (by omega)
        · simp [Mem.byte]
      · rename_i h1 h2
        simp only [Mem.byte, if_neg h2, if_neg h1]
        exact ih w.2 (by omega)

/-- A write leaves every other byte alone. -/
theorem Mem.byte_set_other {a k : Nat} {b : Byte} {m : List Host.Cell} (hk : k ≠ a) : ∀ {lo : Nat}, Mem.wfFrom lo m = true →
    Mem.byte (Mem.set m a b) k = Mem.byte m k := by
  induction m with
  | nil =>
    intro lo _
    unfold Mem.set
    split
    · rfl
    · simp [Mem.byte, hk]
  | cons c t ih =>
    intro lo w
    obtain ⟨x, y⟩ := c
    simp only [Mem.wfFrom, Bool.and_eq_true, decide_eq_true_eq, bne_iff_ne] at w
    unfold Mem.set
    split
    · split
      · rfl
      · rename_i h1 h2
        by_cases hlt : k < a
        · have h3 : k ≠ x := by omega
          have h4 : k < x := by omega
          simp [Mem.byte, hk, hlt, h3, h4]
        · simp [Mem.byte, hk, hlt]
    · split
      · rename_i h1 h2
        split
        · subst h2
          by_cases hlt : k < a
          · simp only [Mem.byte, if_neg hk, if_pos hlt]
            exact Mem.byte_below w.2 (by omega)
          · simp [Mem.byte, hk, hlt]
        · subst h2; simp [Mem.byte, hk]
      · simp only [Mem.byte]
        split
        · rfl
        · split
          · rfl
          · exact ih w.2

/-- Bytes written at rising keys leave every key outside them alone. -/
theorem Mem.byte_sets_other {k : Nat} {bs : List Byte} : ∀ {a : Nat} {m : List Host.Cell}, Mem.wf m = true →
    (k < a ∨ a + bs.length ≤ k) → Mem.byte (Mem.sets m a bs) k = Mem.byte m k := by
  induction bs with
  | nil => intros; rfl
  | cons b bs ih =>
    intro a m w h
    simp only [List.length_cons] at h
    unfold Mem.sets
    rw [ih (Mem.set_wf w) (by omega)]
    exact Mem.byte_set_other (by omega) w

/-- Bytes written at rising keys read back. -/
theorem Mem.bytes_sets {bs : List Byte} : ∀ {a : Nat} {m : List Host.Cell}, Mem.wf m = true →
    Mem.bytes (Mem.sets m a bs) a bs.length = bs := by
  induction bs with
  | nil => intros; rfl
  | cons b bs ih =>
    intro a m w
    have hb : Mem.byte (Mem.sets (Mem.set m a b) (a + 1) bs) a = b := by
      rw [Mem.byte_sets_other (Mem.set_wf w) (by omega)]
      exact Mem.byte_set_same w (Nat.zero_le _)
    simp only [List.length_cons, Mem.bytes, Mem.sets, hb, ih (Mem.set_wf w)]

/-- A memory in canonical form is determined by its bytes. -/
theorem Mem.ext_wfFrom {m n : List Host.Cell} : ∀ {lo : Nat}, Mem.wfFrom lo m = true → Mem.wfFrom lo n = true →
    (∀ a, Mem.byte m a = Mem.byte n a) → m = n := by
  induction m generalizing n with
  | nil =>
    intro lo _ wn h
    cases n with
    | nil => rfl
    | cons c t =>
      obtain ⟨x, y⟩ := c
      simp only [Mem.wfFrom, Bool.and_eq_true, decide_eq_true_eq, bne_iff_ne] at wn
      exact absurd (by simpa [Mem.byte] using (h x).symm) wn.1.2
  | cons c t ih =>
    obtain ⟨x, y⟩ := c
    intro lo wm wn h
    have wm' := wm
    simp only [Mem.wfFrom, Bool.and_eq_true, decide_eq_true_eq, bne_iff_ne] at wm
    cases n with
    | nil => exact absurd (by simpa [Mem.byte] using h x) wm.1.2
    | cons c' t' =>
      obtain ⟨x', y'⟩ := c'
      have wn' := wn
      simp only [Mem.wfFrom, Bool.and_eq_true, decide_eq_true_eq, bne_iff_ne] at wn
      have hx : x = x' := by
        rcases Nat.lt_trichotomy x x' with hlt | heq | hgt
        · have := h x
          simp only [Mem.byte, if_true, if_neg (Nat.ne_of_lt hlt), if_pos hlt] at this
          exact absurd this wm.1.2
        · exact heq
        · have := h x'
          simp only [Mem.byte, if_true, if_neg (Nat.ne_of_lt hgt), if_pos hgt] at this
          exact absurd this.symm wn.1.2
      subst hx
      have hy : y = y' := by simpa [Mem.byte] using h x
      subst hy
      have : t = t' := by
        apply ih wm.2 wn.2
        intro a
        by_cases ha : a < x + 1
        · rw [Mem.byte_below wm.2 ha, Mem.byte_below wn.2 ha]
        · have h1 := h a
          have h2 : a ≠ x := by omega
          have h3 : ¬ a < x := by omega
          simpa [Mem.byte, h2, h3] using h1
      rw [this]

/-! ### The full/empty list (R138) -/

theorem Fe.rising_mono {lo hi : Nat} {l : List Nat} (h : hi ≤ lo) (w : Fe.rising lo l = true) : Fe.rising hi l = true := by
  cases l with
  | nil => rfl
  | cons x t =>
    simp only [Fe.rising, Bool.and_eq_true, decide_eq_true_eq] at w ⊢
    exact ⟨by omega, w.2⟩

theorem Fe.set_rising {a : Nat} {l : List Nat} : ∀ {lo : Nat}, lo ≤ a → Fe.rising lo l = true → Fe.rising lo (Fe.set l a) = true := by
  induction l with
  | nil => intro lo h _; simp [Fe.set, Fe.rising, h]
  | cons x t ih =>
    intro lo h w
    have w' := w
    simp only [Fe.rising, Bool.and_eq_true, decide_eq_true_eq] at w
    unfold Fe.set
    split
    · simp only [Fe.rising, Bool.and_eq_true, decide_eq_true_eq]
      exact ⟨h, by omega, w.2⟩
    · split
      · exact w'
      · simp only [Fe.rising, Bool.and_eq_true, decide_eq_true_eq]
        exact ⟨w.1, ih (by omega) w.2⟩

/-- Marking a word full keeps the list's form. -/
theorem Fe.set_ok {a : Nat} {l : List Nat} (w : Fe.rising 0 l = true) : Fe.rising 0 (Fe.set l a) = true := Fe.set_rising (Nat.zero_le _) w

theorem Fe.filter_rising {p : Nat → Bool} {l : List Nat} : ∀ {lo : Nat}, Fe.rising lo l = true → Fe.rising lo (l.filter p) = true := by
  induction l with
  | nil => exact fun _ => rfl
  | cons x t ih =>
    intro lo w
    simp only [Fe.rising, Bool.and_eq_true, decide_eq_true_eq] at w
    by_cases hp : p x = true
    · rw [List.filter_cons_of_pos hp]
      simp only [Fe.rising, Bool.and_eq_true, decide_eq_true_eq]
      exact ⟨w.1, ih w.2⟩
    · rw [List.filter_cons_of_neg hp]
      exact ih (Fe.rising_mono (by omega) w.2)

/-- Taking keys out keeps the list's form. -/
theorem Fe.filter_ok {p : Nat → Bool} {l : List Nat} (w : Fe.rising 0 l = true) : Fe.rising 0 (l.filter p) = true := Fe.filter_rising w

/-- Marking a word empty keeps the list's form. -/
theorem Fe.clr_ok {a : Nat} {l : List Nat} (w : Fe.rising 0 l = true) : Fe.rising 0 (Fe.clr l a) = true := Fe.filter_ok w

/-- A fold of steps that each keep the form keeps it. -/
theorem Fe.foldl_ok {β : Type} {l : List β} {f : List Nat → β → List Nat} {m : List Nat}
    (hf : ∀ m x, Fe.rising 0 m = true → Fe.rising 0 (f m x) = true) (w : Fe.rising 0 m = true) : Fe.rising 0 (l.foldl f m) = true := by
  induction l generalizing m with
  | nil => exact w
  | cons x l ih => exact ih (hf m x w)

end Sys2Proof.Machine
end

