-- ==== Sys2Proof/Laws/Keep.lean ====
section
/-! SUPPORT. Sys2Proof/Laws/Keep.lean: what it means that an operation keeps the clock and the two canonical forms of memory, and how
results, folds and choices do. -/

namespace Sys2Proof.Machine



/-- What every operation of the device leaves as it was, or sound: the fclk, the timestamp's base, and the two canonical forms. -/
def State.Keeps (a t : State) : Prop := t.now = a.now ∧ t.tsBase = a.tsBase ∧ (a.sound → t.sound)

/-- A property of the states that a result holds: the first of a pair, what an option holds, an `Except`'s value or error, and the
next state of an outcome. -/
def OnFst {α β : Type} (P : α → Prop) (z : α × β) : Prop := P z.1
def OnSome {α : Type} (P : α → Prop) (o : Option α) : Prop := ∀ t, o = some t → P t
def OnOk {ε α : Type} (P : α → Prop) (o : Except ε α) : Prop := ∀ t, o = .ok t → P t
def OnBoth {ε α : Type} (Q : ε → Prop) (P : α → Prop) (o : Except ε α) : Prop := (∀ t, o = .ok t → P t) ∧ (∀ t, o = .error t → Q t)
def OnNext (P : State → Prop) (o : Out) : Prop := ∀ t, o = .next t → P t

theorem OnFst.mk {α β : Type} {P : α → Prop} {x : α} {y : β} (h : P x) : OnFst P (x, y) := h
theorem OnFst.fst {α β : Type} {P : α → Prop} {z : α × β} (h : OnFst P z) : P z.1 := h
theorem OnFst.get {α β : Type} {P : α → Prop} {z : α × β} {x : α} {y : β} (h : OnFst P z) (e : z = (x, y)) : P x := by subst e; exact h
theorem OnSome.some {α : Type} {P : α → Prop} {x : α} (h : P x) : OnSome P (some x) := fun _ e => Option.some.inj e ▸ h
theorem OnSome.none {α : Type} {P : α → Prop} : OnSome P none := fun _ e => nomatch e
theorem OnSome.get {α : Type} {P : α → Prop} {o : Option α} {t : α} (h : OnSome P o) (e : o = .some t) : P t := h t e
theorem OnSome.getD {α : Type} {P : α → Prop} {o : Option α} {d : α} (h : OnSome P o) (hd : P d) : P (o.getD d) := by
  cases o with
  | none => exact hd
  | some t => exact h t rfl
theorem OnSome.map {α β : Type} {P : β → Prop} {Q : α → Prop} {o : Option α} {f : α → β} (h : OnSome Q o) (hf : ∀ t, Q t → P (f t)) :
    OnSome P (o.map f) := by
  cases o with
  | none => exact fun _ e => nomatch e
  | some t => exact OnSome.some (hf t (h t rfl))
theorem OnSome.map' {α β : Type} {P : β → Prop} {o : Option α} {f : α → β} (hf : ∀ t, P (f t)) : OnSome P (o.map f) := by
  cases o with
  | none => exact fun _ e => nomatch e
  | some t => exact OnSome.some (hf t)
theorem OnOk.ok {ε α : Type} {P : α → Prop} {x : α} (h : P x) : OnOk P (.ok x : Except ε α) := fun _ e => Except.ok.inj e ▸ h
theorem OnOk.error {ε α : Type} {P : α → Prop} {x : ε} : OnOk P (.error x : Except ε α) := fun _ e => nomatch e
theorem OnOk.get {ε α : Type} {P : α → Prop} {o : Except ε α} {t : α} (h : OnOk P o) (e : o = .ok t) : P t := h t e
theorem OnBoth.ok {ε α : Type} {P : α → Prop} {Q : ε → Prop} {x : α} (h : P x) : OnBoth Q P (.ok x : Except ε α) :=
  ⟨fun _ e => Except.ok.inj e ▸ h, (fun _ e => nomatch e)⟩
theorem OnBoth.error {ε α : Type} {P : α → Prop} {Q : ε → Prop} {x : ε} (h : Q x) : OnBoth Q P (.error x : Except ε α) :=
  ⟨(fun _ e => nomatch e), fun _ e => Except.error.inj e ▸ h⟩
theorem OnBoth.getOk {ε α : Type} {P : α → Prop} {Q : ε → Prop} {o : Except ε α} {t : α} (h : OnBoth Q P o) (e : o = .ok t) : P t := h.1 t e
theorem OnBoth.getError {ε α : Type} {P : α → Prop} {Q : ε → Prop} {o : Except ε α} {t : ε} (h : OnBoth Q P o) (e : o = .error t) : Q t :=
  h.2 t e
theorem OnNext.next {P : State → Prop} {x : State} (h : P x) : OnNext P (.next x) := fun _ e => Host.Outcome.next.inj e ▸ h
theorem OnNext.fault {P : State → Prop} {x : Fault} : OnNext P (.fault x) := fun _ e => nomatch e
theorem OnNext.refused {P : State → Prop} {x : Refusal} : OnNext P (.refused x) := fun _ e => nomatch e
theorem OnNext.get {P : State → Prop} {o : Out} {t : State} (h : OnNext P o) (e : o = .next t) : P t := h t e

/-- A fold of steps that keep a property keeps it. -/
theorem foldl_keeps {α β : Type} {P : α → Prop} {l : List β} {f : α → β → α} {x : α} (hx : P x) (hf : ∀ z y, P z → P (f z y)) :
    P (l.foldl f x) := by
  induction l generalizing x with
  | nil => exact hx
  | cons y l ih => exact ih (hf x y hx)

/-- A choice between two that have a property has it. -/
theorem ite_keeps {α : Type} {P : α → Prop} {c : Prop} [Decidable c] {x y : α} (hx : P x) (hy : P y) : P (if c then x else y) := by
  split
  · exact hx
  · exact hy

theorem State.Keeps.refl (a : State) : a.Keeps a := ⟨rfl, rfl, id⟩

/-- A change of other fields keeps. -/
theorem State.Keeps.upd {a s t : State} (h1 : t.now = s.now) (h2 : t.tsBase = s.tsBase) (h3 : t.mem = s.mem) (h4 : t.fe = s.fe)
    (h : a.Keeps s) : a.Keeps t := by
  unfold State.Keeps State.sound at *
  rw [h1, h2, h3, h4]
  exact h

/-- A change that leaves memory and the full/empty list sound keeps. -/
theorem State.Keeps.set {a s t : State} (h1 : t.now = s.now) (h2 : t.tsBase = s.tsBase) (h3 : s.sound → t.sound) (h : a.Keeps s) :
    a.Keeps t := ⟨h1.trans h.1, h2.trans h.2.1, fun w => h3 (h.2.2 w)⟩

end Sys2Proof.Machine

namespace Sys2Proof.Machine

/-- Moving a table's entries keeps the memory's form. -/
theorem movePfns_wf {key : Nat → Nat} {l : List (Nat × Nat)} : ∀ {lvl : Nat} {ts : List Nat} {m r : List Host.Cell}, Mem.wf m = true →
    movePfns key l lvl ts m = some r → Mem.wf r = true := by
  intro lvl
  induction lvl with
  | zero =>
    intro ts m r w e
    cases e
    exact w
  | succ n ih =>
    intro ts m r w e
    unfold movePfns at e
    dsimp only at e
    have hf : OnSome (fun z : List Host.Cell × List Nat => Mem.wf z.1 = true) _ :=
      foldl_keeps (P := OnSome (fun z : List Host.Cell × List Nat => Mem.wf z.1 = true))
        (l := (ts.flatMap (fun t => (List.range (if n = 0 then 32 else 512)).map (fun k => key (t + 8 * k)))).filter (fun e => Pte.v (Mem.num m e 8)))
        (f := fun (z : Option (List Host.Cell × List Nat)) e =>
          match z with
          | none => none
          | some (m, below) =>
            match moveAddr l (Pte.pfn (Mem.num m e 8) * 65536) with
            | none => none
            | some pa =>
              some (Mem.sets m e (leBytes 8 (setBits (Mem.num m e 8) 51 22 (pa / 65536))),
                if Pte.size (Mem.num m e 8) = 0 then below ++ [pa + Pte.tix (Mem.num m e 8) * 4096] else below))
        (x := some (m, [])) (OnSome.some w) (by
          intro z y h
          rcases z with _ | ⟨m', below⟩
          · exact OnSome.none
          · dsimp only
            split
            · exact OnSome.none
            · exact OnSome.some (Mem.sets_wf (h _ rfl)))
    split at e
    · cases e
    · rename_i heq
      exact ih (hf _ heq) e

end Sys2Proof.Machine
end

