-- ==== Sys2Proof/Laws/Keep1.lean ====
section
/-! SUPPORT. Sys2Proof/Laws/Keep1.lean: for each operation of the model, that it keeps the clock and the canonical forms of memory
(part 1, in the order of the definitions). -/

namespace Sys2Proof.Machine

theorem State.modPart_keeps {a : State} {z1 z2 z3} (h1 : State.Keeps a z1) :
    State.Keeps a (State.modPart z1 z2 z3) := by
  unfold State.modPart
  refine State.Keeps.upd (s := z1) rfl rfl rfl rfl ?_
  exact h1

theorem State.modPage_keeps {a : State} {z1 z2 z3 z4} (h1 : State.Keeps a z1) :
    State.Keeps a (State.modPage z1 z2 z3 z4) := by
  unfold State.modPage
  with_reducible apply State.modPart_keeps
  exact h1

theorem State.modInst_keeps {a : State} {z1 z2 z3 z4} (h1 : State.Keeps a z1) :
    State.Keeps a (State.modInst z1 z2 z3 z4) := by
  unfold State.modInst
  with_reducible apply State.modPart_keeps
  exact h1

theorem State.modStrand_keeps {a : State} {z1 z2 z3 z4 z5} (h1 : State.Keeps a z1) :
    State.Keeps a (State.modStrand z1 z2 z3 z4 z5) := by
  unfold State.modStrand
  with_reducible apply State.modInst_keeps
  exact h1

theorem State.modAct_keeps {a : State} {z1 z2 z3 z4 z5} (h1 : State.Keeps a z1) :
    State.Keeps a (State.modAct z1 z2 z3 z4 z5) := by
  unfold State.modAct
  with_reducible apply State.modPage_keeps
  exact h1

theorem State.modFire_keeps {a : State} {z1 z2 z3 z4 z5} (h1 : State.Keeps a z1) :
    State.Keeps a (State.modFire z1 z2 z3 z4 z5) := by
  unfold State.modFire
  with_reducible apply State.modPage_keeps
  exact h1

theorem State.dropFire_keeps {a : State} {z1 z2 z3 z4} (h1 : State.Keeps a z1) :
    State.Keeps a (State.dropFire z1 z2 z3 z4) := by
  unfold State.dropFire
  with_reducible apply State.modPage_keeps
  exact h1

theorem State.sched_keeps {a : State} {z1 z2 z3 z4 z5} (h1 : State.Keeps a z1) :
    State.Keeps a (State.sched z1 z2 z3 z4 z5) := by
  unfold State.sched
  refine State.Keeps.upd (s := z1) rfl rfl rfl rfl ?_
  exact h1

theorem State.schedCommit_keeps {a : State} {z1 z2 z3 z4 z5} (h1 : State.Keeps a z1) :
    State.Keeps a (State.schedCommit z1 z2 z3 z4 z5) := by
  unfold State.schedCommit
  refine State.Keeps.upd (s := z1) rfl rfl rfl rfl ?_
  exact h1

theorem State.schedLate_keeps {a : State} {z1 z2 z3 z4} (h1 : State.Keeps a z1) :
    State.Keeps a (State.schedLate z1 z2 z3 z4) := by
  unfold State.schedLate
  refine State.Keeps.upd (s := z1) rfl rfl rfl rfl ?_
  exact h1

theorem State.schedFire_keeps {a : State} {z1 z2 z3 z4 z5} (h1 : State.Keeps a z1) :
    State.Keeps a (State.schedFire z1 z2 z3 z4 z5) := by
  unfold State.schedFire
  extract_lets +onlyGivenNames x1
  clear_value x1
  with_reducible refine ite_keeps (P := State.Keeps a) ?_ ?_
  · exact h1
  · refine State.Keeps.upd (s := z1) rfl rfl rfl rfl ?_
    exact h1

theorem State.cancel_keeps {a : State} {z1 z2} (h1 : State.Keeps a z1) :
    State.Keeps a (State.cancel z1 z2) := by
  unfold State.cancel
  refine State.Keeps.upd (s := z1) rfl rfl rfl rfl ?_
  exact h1

theorem State.setCsr_keeps {a : State} {z1 z2 z3 z4} (h1 : State.Keeps a z1) :
    State.Keeps a (State.setCsr z1 z2 z3 z4) := by
  unfold State.setCsr
  with_reducible apply State.modPart_keeps
  exact h1

theorem State.setCsrF_keeps {a : State} {z1 z2 z3 z4 z5 z6} (h1 : State.Keeps a z1) :
    State.Keeps a (State.setCsrF z1 z2 z3 z4 z5 z6) := by
  unfold State.setCsrF
  with_reducible apply State.setCsr_keeps
  exact h1

theorem State.bumpCsr_keeps {a : State} {z1 z2 z3 z4 z5} (h1 : State.Keeps a z1) :
    State.Keeps a (State.bumpCsr z1 z2 z3 z4 z5) := by
  unfold State.bumpCsr
  extract_lets +onlyGivenNames x1
  clear_value x1
  with_reducible refine ite_keeps (P := State.Keeps a) ?_ ?_
  · with_reducible apply State.setCsrF_keeps
    exact h1
  · exact h1

theorem State.postVf_keeps {a : State} {z1 z2 z3 z4} (h1 : State.Keeps a z1) :
    State.Keeps a (State.postVf z1 z2 z3 z4) := by
  unfold State.postVf
  extract_lets +onlyGivenNames x1
  clear_value x1
  with_reducible refine ite_keeps (P := State.Keeps a) ?_ ?_
  · with_reducible apply State.sched_keeps
    with_reducible apply State.modPart_keeps
    exact h1
  · with_reducible apply State.modPart_keeps
    exact h1

theorem State.postPf_keeps {a : State} {z1 z2 z3 z4} (h1 : State.Keeps a z1) :
    State.Keeps a (State.postPf z1 z2 z3 z4) := by
  unfold State.postPf
  refine State.Keeps.upd (s := z1) rfl rfl rfl rfl ?_
  exact h1

theorem State.traceRec_keeps {a : State} {z1 z2 z3 z4 z5 z6 z7 z8 z9} (h1 : State.Keeps a z1) :
    State.Keeps a (State.traceRec z1 z2 z3 z4 z5 z6 z7 z8 z9) := by
  unfold State.traceRec
  extract_lets +onlyGivenNames x1
  clear_value x1
  extract_lets +onlyGivenNames x2
  clear_value x2
  extract_lets +onlyGivenNames x3
  clear_value x3
  extract_lets +onlyGivenNames x4
  have h5 : State.Keeps a x4 := by
    unfold x4
    with_reducible apply State.modPart_keeps
    exact h1
  clear_value x4
  with_reducible refine ite_keeps (P := State.Keeps a) ?_ ?_
  · exact h1
  · with_reducible refine ite_keeps (P := State.Keeps a) ?_ ?_
    · exact h5
    · with_reducible apply State.schedLate_keeps
      exact h5

theorem State.stopPages_keeps {a : State} {z1 z2 z3 z4 z5 z6} (h1 : State.Keeps a z1) :
    State.Keeps a (State.stopPages z1 z2 z3 z4 z5 z6) := by
  unfold State.stopPages
  extract_lets +onlyGivenNames x1
  clear_value x1
  extract_lets +onlyGivenNames x2
  clear_value x2
  extract_lets +onlyGivenNames x3
  have h4 : State.Keeps a x3 := by
    unfold x3
    refine foldl_keeps ?_ ?_
    · exact h1
    · intro y5 y6 h7
      with_reducible apply State.modPage_keeps
      exact h7
  clear_value x3
  extract_lets +onlyGivenNames x8
  have h9 : State.Keeps a x8 := by
    unfold x8
    with_reducible refine ite_keeps (P := State.Keeps a) ?_ ?_
    · with_reducible apply State.bumpCsr_keeps
      exact h4
    · with_reducible apply State.setCsr_keeps
      with_reducible apply State.setCsr_keeps
      with_reducible apply State.setCsr_keeps
      exact h4
  clear_value x8
  with_reducible apply State.traceRec_keeps
  exact h9

theorem State.setGuard_keeps {a : State} {z1 z2} (h1 : State.Keeps a z1) :
    State.Keeps a (State.setGuard z1 z2) := by
  unfold State.setGuard
  refine State.Keeps.upd (s := z1) rfl rfl rfl rfl ?_
  exact h1

theorem State.reencrypt_keeps {a : State} {z1 z2} (h1 : State.Keeps a z1) :
    State.Keeps a (State.reencrypt z1 z2) := by
  unfold State.reencrypt
  with_reducible apply State.setGuard_keeps
  exact h1

theorem State.reencryptFail_keeps {a : State} {z1 z2} (h1 : State.Keeps a z1) :
    State.Keeps a (State.reencryptFail z1 z2) := by
  unfold State.reencryptFail
  extract_lets +onlyGivenNames x1
  clear_value x1
  split
  · rename_i v2 v3
    exact h1
  · rename_i v4 v5 v6
    with_reducible refine ite_keeps (P := State.Keeps a) ?_ ?_
    · with_reducible apply State.sched_keeps
      exact h1
    · split
      · rename_i v7 v8 v9
        with_reducible apply State.sched_keeps
        exact h1
      · rename_i v10 v11
        exact h1

theorem State.countLine_keeps {a : State} {z1 z2} (h1 : State.Keeps a z1) :
    State.Keeps a (State.countLine z1 z2) := by
  unfold State.countLine
  extract_lets +onlyGivenNames x1
  clear_value x1
  extract_lets +onlyGivenNames x2
  have h3 : State.Keeps a x2 := by
    unfold x2
    with_reducible refine ite_keeps (P := State.Keeps a) ?_ ?_
    · with_reducible apply State.reencrypt_keeps
      with_reducible apply State.reencryptFail_keeps
      exact h1
    · exact h1
  clear_value x2
  extract_lets +onlyGivenNames x4
  clear_value x4
  with_reducible apply State.setGuard_keeps
  exact h3

theorem State.countLines_keeps {a : State} {z1 z2 z3} (h1 : State.Keeps a z1) :
    State.Keeps a (State.countLines z1 z2 z3) := by
  induction z3 generalizing z1 z2 with
  | zero =>
    unfold State.countLines
    exact h1
  | succ n ih =>
    unfold State.countLines
    with_reducible apply ih
    with_reducible apply State.countLine_keeps
    exact h1

theorem State.plaiterMark_keeps {a : State} {z1 z2} (h1 : State.Keeps a z1) :
    State.Keeps a (State.plaiterMark z1 z2) := by
  unfold State.plaiterMark
  extract_lets +onlyGivenNames x1
  have h2 : State.Keeps a x1 := by
    unfold x1
    refine foldl_keeps ?_ ?_
    · exact h1
    · intro y3 y4 h5
      with_reducible apply State.sched_keeps
      exact h5
  clear_value x1
  refine State.Keeps.upd (s := x1) rfl rfl rfl rfl ?_
  exact h2

theorem State.plaiterNote_keeps {a : State} {z1 z2 z3} (h1 : State.Keeps a z1) :
    State.Keeps a (State.plaiterNote z1 z2 z3) := by
  unfold State.plaiterNote
  with_reducible apply State.plaiterMark_keeps
  exact h1

theorem State.memWrite_keeps {a : State} {z1 z2 z3} (h1 : State.Keeps a z1) :
    State.Keeps a (State.memWrite z1 z2 z3) := by
  unfold State.memWrite
  extract_lets +onlyGivenNames x1
  have h2 : State.Keeps a x1 := by
    unfold x1
    refine State.Keeps.set (s := z1) rfl rfl (fun w => ⟨(Mem.sets_wf w.1), w.2⟩) ?_
    exact h1
  clear_value x1
  extract_lets +onlyGivenNames x3
  clear_value x3
  extract_lets +onlyGivenNames x4
  have h5 : State.Keeps a x4 := by
    unfold x4
    with_reducible apply State.countLines_keeps
    exact h2
  clear_value x4
  extract_lets +onlyGivenNames x6
  have h7 : State.Keeps a x6 := by
    unfold x6
    refine State.Keeps.upd (s := x4) rfl rfl rfl rfl ?_
    exact h5
  clear_value x6
  with_reducible refine ite_keeps (P := State.Keeps a) ?_ ?_
  · exact h2
  · with_reducible apply State.plaiterNote_keeps
    exact h7

theorem State.badRead_keeps {a : State} {z1 z2 z3} (h1 : State.Keeps a z1) :
    State.Keeps a (State.badRead z1 z2 z3) := by
  unfold State.badRead
  with_reducible apply State.sched_keeps
  exact h1

theorem State.lineWrite_keeps {a : State} {z1 z2} (h1 : State.Keeps a z1) :
    State.Keeps a (State.lineWrite z1 z2) := by
  unfold State.lineWrite
  extract_lets +onlyGivenNames x0 x1
  have h2 : State.Keeps a x1 := by
    unfold x1 x0
    refine State.Keeps.set (s := z1) rfl rfl (fun w => ⟨(Mem.foldl_wf (fun _ _ h => Mem.set_wf h) w.1), w.2⟩) ?_
    exact h1
  clear_value x1
  split
  · rename_i v3
    exact h2
  · rename_i v4 v5 v6 v7
    extract_lets +onlyGivenNames x8
    have h9 : State.Keeps a x8 := by
      unfold x8
      with_reducible apply State.countLine_keeps
      exact h2
    clear_value x8
    extract_lets +onlyGivenNames x10
    have h11 : State.Keeps a x10 := by
      unfold x10
      with_reducible refine ite_keeps (P := State.Keeps a) ?_ ?_
      · refine State.Keeps.upd (s := x8) rfl rfl rfl rfl ?_
        exact h9
      · exact h9
    clear_value x10
    with_reducible refine ite_keeps (P := State.Keeps a) ?_ ?_
    · exact h2
    · with_reducible apply State.plaiterMark_keeps
      exact h11

theorem State.performPosted_keeps {a : State} {z1 z2 z3} (h1 : State.Keeps a z1) :
    State.Keeps a (State.performPosted z1 z2 z3) := by
  unfold State.performPosted
  split
  · rename_i v1 v2
    exact h1
  · rename_i v3 v4 v5
    extract_lets +onlyGivenNames x6
    clear_value x6
    extract_lets +onlyGivenNames x7
    have h8 : State.Keeps a x7 := by
      unfold x7
      with_reducible apply State.modPart_keeps
      exact h1
    clear_value x7
    with_reducible refine ite_keeps (P := State.Keeps a) ?_ ?_
    · with_reducible apply State.badRead_keeps
      exact h8
    · with_reducible apply State.lineWrite_keeps
      exact h8

theorem State.flush_keeps {a : State} {z1 z2 z3} (h1 : State.Keeps a z1) :
    State.Keeps a (State.flush z1 z2 z3) := by
  unfold State.flush
  refine foldl_keeps ?_ ?_
  · exact h1
  · intro y1 y2 h3
    with_reducible apply State.performPosted_keeps
    exact h3

theorem State.devWrite_keeps {a : State} {z1 z2 z3 z4} (h1 : State.Keeps a z1) :
    OnSome (State.Keeps a) (State.devWrite z1 z2 z3 z4) := by
  unfold State.devWrite
  split
  · rename_i v1 v2 v3
    refine OnSome.some ?_
    with_reducible apply State.badRead_keeps
    exact h1
  · rename_i v4 v5
    split
    · rename_i v6 v7 v8
      with_reducible refine ite_keeps (P := OnSome (State.Keeps a)) ?_ ?_
      · refine OnSome.some ?_
        with_reducible apply State.memWrite_keeps
        exact h1
      · exact OnSome.none
    · rename_i v9 v10 v11
      exact OnSome.none

theorem State.devEntry_keeps {a : State} {z1 z2 z3} (h1 : State.Keeps a z1) :
    OnSome (State.Keeps a) (State.devEntry z1 z2 z3) := by
  unfold State.devEntry
  refine OnSome.map (Q := State.Keeps a) ?_ ?_
  · with_reducible apply State.devWrite_keeps
    exact h1
  · intro y1 h2
    refine State.Keeps.upd (s := y1) rfl rfl rfl rfl ?_
    exact h2

theorem State.newOrigin_keeps {a : State} {z1 z2 z3 z4 z5 z6 z7 z8 z9 z10} (h1 : State.Keeps a z1) :
    OnFst (State.Keeps a) (State.newOrigin z1 z2 z3 z4 z5 z6 z7 z8 z9 z10) := by
  unfold State.newOrigin
  extract_lets +onlyGivenNames x1
  clear_value x1
  extract_lets +onlyGivenNames x2
  clear_value x2
  extract_lets +onlyGivenNames x3
  clear_value x3
  extract_lets +onlyGivenNames x4
  have h7 : ∀ y5 y6, State.Keeps a y5 → State.Keeps a (x4 y5 y6) := by
    intro y5 y6 h8
    unfold x4
    with_reducible apply State.postVf_keeps
    exact h8
  clear_value x4
  extract_lets +onlyGivenNames x9
  clear_value x9
  extract_lets +onlyGivenNames x10
  have h11 : State.Keeps a x10 := by
    unfold x10
    with_reducible apply State.setCsrF_keeps
    exact h1
  clear_value x10
  extract_lets +onlyGivenNames x12
  have h13 : State.Keeps a x12 := by
    unfold x12
    split
    · rename_i v14 v15 v16
      have h17 : State.Keeps a v15 := by
        refine OnSome.get ?_ v16
        with_reducible apply State.devWrite_keeps
        exact h11
      exact h17
    · rename_i v18 v19
      with_reducible apply h7
      exact h11
  clear_value x12
  extract_lets +onlyGivenNames x20
  clear_value x20
  extract_lets +onlyGivenNames x21
  have h22 : State.Keeps a x21 := by
    unfold x21
    with_reducible apply State.modPart_keeps
    exact h1
  clear_value x21
  extract_lets +onlyGivenNames x23
  clear_value x23
  extract_lets +onlyGivenNames x24
  clear_value x24
  extract_lets +onlyGivenNames x25
  have h26 : State.Keeps a x25 := by
    unfold x25
    split
    · rename_i v27 v28 v29
      have h30 : State.Keeps a v28 := by
        refine OnSome.get ?_ v29
        with_reducible apply State.devWrite_keeps
        exact h22
      exact h30
    · rename_i v31 v32
      with_reducible apply h7
      exact h22
  clear_value x25
  with_reducible refine ite_keeps (P := OnFst (State.Keeps a)) ?_ ?_
  · refine OnFst.mk ?_
    exact h13
  · refine OnFst.mk ?_
    exact h26

theorem State.reportPoison_keeps {a : State} {z1 z2 z3 z4 z5} (h1 : State.Keeps a z1) :
    State.Keeps a (State.reportPoison z1 z2 z3 z4 z5) := by
  unfold State.reportPoison
  extract_lets +onlyGivenNames x1
  have h2 : State.Keeps a x1 := by
    unfold x1
    with_reducible apply State.setCsr_keeps
    exact h1
  clear_value x1
  extract_lets +onlyGivenNames x3
  have h4 : State.Keeps a x3 := by
    unfold x3
    with_reducible apply State.setCsr_keeps
    with_reducible apply State.setCsr_keeps
    exact h2
  clear_value x3
  with_reducible refine ite_keeps (P := State.Keeps a) ?_ ?_
  · with_reducible apply State.bumpCsr_keeps
    exact h4
  · exact h4

theorem State.send_keeps {a : State} {z1 z2 z3 z4 z5} (h1 : State.Keeps a z1) :
    State.Keeps a (State.send z1 z2 z3 z4 z5) := by
  unfold State.send
  split
  · rename_i v1
    exact h1
  · rename_i v2 v3
    split
    · rename_i v4 v5
      exact h1
    · rename_i v6 v7 v8
      extract_lets +onlyGivenNames x9
      clear_value x9
      extract_lets +onlyGivenNames x10
      clear_value x10
      with_reducible apply State.sched_keeps
      exact h1

theorem State.emit_keeps {a : State} {z1 z2 z3 z4 z5 z6} (h1 : State.Keeps a z1) :
    State.Keeps a (State.emit z1 z2 z3 z4 z5 z6) := by
  unfold State.emit
  extract_lets +onlyGivenNames x1
  clear_value x1
  extract_lets +onlyGivenNames x2
  clear_value x2
  extract_lets +onlyGivenNames x3
  have h4 : State.Keeps a x3 := by
    unfold x3
    with_reducible apply State.send_keeps
    with_reducible apply State.send_keeps
    exact h1
  clear_value x3
  with_reducible apply State.modFire_keeps
  with_reducible apply State.modPage_keeps
  exact h4

theorem State.silent_keeps {a : State} {z1} (h1 : State.Keeps a z1) :
    State.Keeps a (State.silent z1) := by
  unfold State.silent
  with_reducible apply State.modFire_keeps
  exact h1

theorem State.answer_keeps {a : State} {z1 z2 z3 z4 z5 z6 z7} (h1 : State.Keeps a z1) :
    State.Keeps a (State.answer z1 z2 z3 z4 z5 z6 z7) := by
  unfold State.answer
  split
  · rename_i v1 v2
    exact h1
  · rename_i v3 v4 v5
    extract_lets +onlyGivenNames x6
    clear_value x6
    extract_lets +onlyGivenNames x7
    clear_value x7
    extract_lets +onlyGivenNames x8
    have h9 : State.Keeps a x8 := by
      unfold x8
      with_reducible apply State.send_keeps
      with_reducible apply State.send_keeps
      exact h1
    clear_value x8
    with_reducible apply State.modFire_keeps
    exact h9

theorem State.stale_keeps {a : State} {z1 z2 z3 z4} (h1 : State.Keeps a z1) :
    State.Keeps a (State.stale z1 z2 z3 z4) := by
  unfold State.stale
  with_reducible apply State.bumpCsr_keeps
  with_reducible apply State.modPage_keeps
  exact h1

theorem State.dropLists_keeps {a : State} {z1 z2 z3 z4} (h1 : State.Keeps a z1) :
    State.Keeps a (State.dropLists z1 z2 z3 z4) := by
  unfold State.dropLists
  with_reducible apply State.modPage_keeps
  exact h1

theorem State.checkDone_keeps {a : State} {z1 z2 z3 z4} (h1 : State.Keeps a z1) :
    State.Keeps a (State.checkDone z1 z2 z3 z4) := by
  unfold State.checkDone
  extract_lets +onlyGivenNames x1
  clear_value x1
  split
  · rename_i v2 v3
    exact h1
  · rename_i v4 v5 v6
    extract_lets +onlyGivenNames x7
    clear_value x7
    extract_lets +onlyGivenNames x8
    clear_value x8
    extract_lets +onlyGivenNames x9
    clear_value x9
    with_reducible refine ite_keeps (P := State.Keeps a) ?_ ?_
    · exact h1
    · with_reducible apply State.schedCommit_keeps
      with_reducible apply State.modAct_keeps
      exact h1

theorem State.checkReady_keeps {a : State} {z1 z2 z3 z4 z5 z6} (h1 : State.Keeps a z1) :
    State.Keeps a (State.checkReady z1 z2 z3 z4 z5 z6) := by
  unfold State.checkReady
  extract_lets +onlyGivenNames x1
  clear_value x1
  split
  · rename_i v2 v3 v4 v5 v6 v7
    split
    · rename_i v8 v9
      exact h1
    · rename_i v10 v11 v12
      extract_lets +onlyGivenNames x13
      have h14 : State.Keeps a x13 := by
        unfold x13
        with_reducible apply State.modPage_keeps
        exact h1
      clear_value x13
      with_reducible refine ite_keeps (P := State.Keeps a) ?_ ?_
      · with_reducible apply State.schedFire_keeps
        exact h14
      · exact h1
  · rename_i v15 v16 v17
    exact h1

theorem State.wake_keeps {a : State} {z1 z2 z3} (h1 : State.Keeps a z1) :
    State.Keeps a (State.wake z1 z2 z3) := by
  unfold State.wake
  refine foldl_keeps ?_ ?_
  · exact h1
  · intro y1 y2 h3
    with_reducible refine ite_keeps (P := State.Keeps a) ?_ ?_
    · with_reducible apply State.schedFire_keeps
      exact h3
    · exact h3

theorem State.wakeInst_keeps {a : State} {z1 z2 z3} (h1 : State.Keeps a z1) :
    State.Keeps a (State.wakeInst z1 z2 z3) := by
  unfold State.wakeInst
  refine foldl_keeps ?_ ?_
  · exact h1
  · intro y1 y2 h3
    with_reducible apply State.wake_keeps
    exact h3

theorem State.spillFreed_keeps {a : State} {z1 z2} (h1 : State.Keeps a z1) :
    State.Keeps a (State.spillFreed z1 z2) := by
  unfold State.spillFreed
  with_reducible refine ite_keeps (P := State.Keeps a) ?_ ?_
  · with_reducible apply State.sched_keeps
    exact h1
  · exact h1

theorem State.spillTok_keeps {a : State} {z1 z2 z3 z4 z5 z6 z7} (h1 : State.Keeps a z1) :
    State.Keeps a (State.spillTok z1 z2 z3 z4 z5 z6 z7) := by
  unfold State.spillTok
  with_reducible apply State.modPage_keeps
  refine OnSome.getD ?_ ?_
  · with_reducible apply State.devEntry_keeps
    exact h1
  · exact h1

theorem State.putBack_keeps {a : State} {z1 z2 z3 z4 z5 z6 z7} (h1 : State.Keeps a z1) :
    State.Keeps a (State.putBack z1 z2 z3 z4 z5 z6 z7) := by
  unfold State.putBack
  extract_lets +onlyGivenNames x1
  clear_value x1
  with_reducible refine ite_keeps (P := State.Keeps a) ?_ ?_
  · with_reducible apply State.modPage_keeps
    exact h1
  · split
    · rename_i v2 v3
      with_reducible apply State.modPage_keeps
      exact h1
    · rename_i v4 v5 v6 v7 v8
      with_reducible apply State.modPage_keeps
      exact h1
    · rename_i v9 v10 v11 v12
      with_reducible refine ite_keeps (P := State.Keeps a) ?_ ?_
      · with_reducible apply State.spillTok_keeps
        exact h1
      · with_reducible apply State.modPage_keeps
        exact h1

theorem State.withdraw_keeps {a : State} {z1 z2 z3 z4} (h1 : State.Keeps a z1) :
    State.Keeps a (State.withdraw z1 z2 z3 z4) := by
  unfold State.withdraw
  extract_lets +onlyGivenNames x1
  clear_value x1
  extract_lets +onlyGivenNames x2
  clear_value x2
  extract_lets +onlyGivenNames x3
  clear_value x3
  extract_lets +onlyGivenNames x4
  clear_value x4
  extract_lets +onlyGivenNames x5
  have h6 : State.Keeps a x5 := by
    unfold x5
    with_reducible apply State.modPage_keeps
    with_reducible apply State.cancel_keeps
    exact h1
  clear_value x5
  refine foldl_keeps ?_ ?_
  · exact h6
  · intro y7 y8 h9
    extract_lets +onlyGivenNames x10
    clear_value x10
    extract_lets +onlyGivenNames x11
    have h15 : ∀ y12 y13 y14, State.Keeps a y12 → State.Keeps a (x11 y12 y13 y14) := by
      intro y12 y13 y14 h16
      unfold x11
      with_reducible refine ite_keeps (P := State.Keeps a) ?_ ?_
      · with_reducible apply State.putBack_keeps
        exact h16
      · exact h16
    clear_value x11
    with_reducible apply h15
    with_reducible apply h15
    with_reducible apply h15
    with_reducible apply h15
    exact h9

theorem State.unsettle_keeps {a : State} {z1 z2 z3 z4 z5} (h1 : State.Keeps a z1) :
    State.Keeps a (State.unsettle z1 z2 z3 z4 z5) := by
  unfold State.unsettle
  refine foldl_keeps ?_ ?_
  · exact h1
  · intro y1 y2 h3
    split
    · rename_i v4 v5
      exact h3
    · rename_i v6 v7 v8
      with_reducible refine ite_keeps (P := State.Keeps a) ?_ ?_
      · with_reducible apply State.withdraw_keeps
        exact h3
      · exact h3

theorem State.feRetry_keeps {a : State} {z1 z2} (h1 : State.Keeps a z1) :
    State.Keeps a (State.feRetry z1 z2) := by
  unfold State.feRetry
  split
  · rename_i v1 v2
    exact h1
  · rename_i v3 v4 v5
    with_reducible apply State.sched_keeps
    with_reducible apply State.modPart_keeps
    exact h1

theorem State.prioChanged_keeps {a : State} {z1 z2 z3 z4} (h1 : State.Keeps a z1) :
    State.Keeps a (State.prioChanged z1 z2 z3 z4) := by
  unfold State.prioChanged
  extract_lets +onlyGivenNames x1
  clear_value x1
  extract_lets +onlyGivenNames x2
  clear_value x2
  refine foldl_keeps ?_ ?_
  · exact h1
  · intro y3 y4 h5
    extract_lets +onlyGivenNames x6
    clear_value x6
    with_reducible refine ite_keeps (P := State.Keeps a) ?_ ?_
    · exact h5
    · with_reducible apply State.sched_keeps
      exact h5

theorem State.wftUse_keeps {a : State} {z1 z2} (h1 : State.Keeps a z1) :
    State.Keeps a (State.wftUse z1 z2) := by
  unfold State.wftUse
  with_reducible apply State.setCsrF_keeps
  exact h1

theorem State.dropWft_keeps {a : State} {z1 z2 z3} (h1 : State.Keeps a z1) :
    State.Keeps a (State.dropWft z1 z2 z3) := by
  unfold State.dropWft
  extract_lets +onlyGivenNames x1
  clear_value x1
  with_reducible refine ite_keeps (P := State.Keeps a) ?_ ?_
  · exact h1
  · with_reducible apply State.prioChanged_keeps
    with_reducible apply State.wftUse_keeps
    with_reducible apply State.modPart_keeps
    exact h1

theorem State.sendStatus_keeps {a : State} {z1 z2 z3 z4 z5 z6 z7} (h1 : State.Keeps a z1) :
    State.Keeps a (State.sendStatus z1 z2 z3 z4 z5 z6 z7) := by
  unfold State.sendStatus
  split
  · rename_i v1 v2
    exact h1
  · rename_i v3 v4 v5
    extract_lets +onlyGivenNames x6
    clear_value x6
    with_reducible apply State.send_keeps
    exact h1

theorem State.wregStatus_keeps {a : State} {z1 z2 z3 z4 z5 z6} (h1 : State.Keeps a z1) :
    State.Keeps a (State.wregStatus z1 z2 z3 z4 z5 z6) := by
  unfold State.wregStatus
  split
  · rename_i v1 v2
    exact h1
  · rename_i v3 v4 v5
    extract_lets +onlyGivenNames x6
    have h7 : State.Keeps a x6 := by
      unfold x6
      with_reducible apply State.sendStatus_keeps
      exact h1
    clear_value x6
    extract_lets +onlyGivenNames x8
    have h9 : State.Keeps a x8 := by
      unfold x8
      with_reducible apply State.modFire_keeps
      exact h7
    clear_value x8
    extract_lets +onlyGivenNames x10
    have h11 : State.Keeps a x10 := by
      unfold x10
      with_reducible apply State.modPart_keeps
      exact h9
    clear_value x10
    split
    · rename_i v12 v13 v14
      with_reducible apply State.checkDone_keeps
      exact h11
    · rename_i v15 v16
      exact h11

theorem State.freeze_keeps {a : State} {z1 z2 z3} (h1 : State.Keeps a z1) :
    State.Keeps a (State.freeze z1 z2 z3) := by
  unfold State.freeze
  extract_lets +onlyGivenNames x1
  clear_value x1
  extract_lets +onlyGivenNames x2
  have h3 : State.Keeps a x2 := by
    unfold x2
    refine foldl_keeps ?_ ?_
    · exact h1
    · intro y4 y5 h6
      with_reducible apply State.unsettle_keeps
      exact h6
  clear_value x2
  extract_lets +onlyGivenNames x7
  clear_value x7
  extract_lets +onlyGivenNames x8
  clear_value x8
  extract_lets +onlyGivenNames x9
  have h10 : State.Keeps a x9 := by
    unfold x9
    with_reducible apply State.cancel_keeps
    exact h3
  clear_value x9
  extract_lets +onlyGivenNames x11
  have h12 : State.Keeps a x11 := by
    unfold x11
    refine foldl_keeps ?_ ?_
    · exact h10
    · intro y13 y14 h15
      with_reducible apply State.modPage_keeps
      exact h15
  clear_value x11
  extract_lets +onlyGivenNames x16
  clear_value x16
  extract_lets +onlyGivenNames x17
  have h18 : State.Keeps a x17 := by
    unfold x17
    with_reducible apply State.modPart_keeps
    exact h12
  clear_value x17
  extract_lets +onlyGivenNames x19
  have h20 : State.Keeps a x19 := by
    unfold x19
    with_reducible apply State.dropWft_keeps
    exact h18
  clear_value x19
  extract_lets +onlyGivenNames x21
  have h22 : State.Keeps a x21 := by
    unfold x21
    refine foldl_keeps ?_ ?_
    · exact h20
    · intro y23 y24 h25
      with_reducible apply State.sched_keeps
      with_reducible apply State.sched_keeps
      exact h25
  clear_value x21
  extract_lets +onlyGivenNames x26
  have h27 : State.Keeps a x26 := by
    unfold x26
    with_reducible apply State.modInst_keeps
    with_reducible apply State.spillFreed_keeps
    with_reducible apply State.feRetry_keeps
    exact h22
  clear_value x26
  extract_lets +onlyGivenNames x28
  clear_value x28
  extract_lets +onlyGivenNames x29
  have h30 : State.Keeps a x29 := by
    unfold x29
    refine foldl_keeps ?_ ?_
    · exact h27
    · intro y31 y32 h33
      with_reducible apply State.wregStatus_keeps
      exact h33
  clear_value x29
  with_reducible apply State.modPart_keeps
  exact h30

theorem State.doubleFault_keeps {a : State} {z1 z2 z3 z4} (h1 : State.Keeps a z1) :
    State.Keeps a (State.doubleFault z1 z2 z3 z4) := by
  unfold State.doubleFault
  extract_lets +onlyGivenNames x1
  clear_value x1
  extract_lets +onlyGivenNames x2
  have h3 : State.Keeps a x2 := by
    unfold x2
    with_reducible apply State.modInst_keeps
    exact h1
  clear_value x2
  with_reducible apply State.postPf_keeps
  with_reducible apply State.postVf_keeps
  exact h3

theorem State.areasFree_keeps {a : State} {z1 z2 z3} (h1 : State.Keeps a z1) :
    State.Keeps a (State.areasFree z1 z2 z3) := by
  unfold State.areasFree
  refine foldl_keeps ?_ ?_
  · exact h1
  · intro y1 y2 h3
    with_reducible refine ite_keeps (P := State.Keeps a) ?_ ?_
    · with_reducible apply State.sched_keeps
      exact h3
    · exact h3

theorem State.freeArea_keeps {a : State} {z1 z2 z3} (h1 : State.Keeps a z1) :
    State.Keeps a (State.freeArea z1 z2 z3) := by
  unfold State.freeArea
  split
  · rename_i v1 v2
    exact h1
  · rename_i v3 v4 v5
    extract_lets +onlyGivenNames x6
    have h7 : State.Keeps a x6 := by
      unfold x6
      with_reducible apply State.modPart_keeps
      exact h1
    clear_value x6
    extract_lets +onlyGivenNames x8
    have h9 : State.Keeps a x8 := by
      unfold x8
      with_reducible apply State.modInst_keeps
      exact h7
    clear_value x8
    with_reducible apply State.areasFree_keeps
    with_reducible apply State.setCsrF_keeps
    exact h9

theorem State.takeTrap_keeps {a : State} {z1 z2 z3 z4} (h1 : State.Keeps a z1) :
    State.Keeps a (State.takeTrap z1 z2 z3 z4) := by
  unfold State.takeTrap
  extract_lets +onlyGivenNames x1
  clear_value x1
  extract_lets +onlyGivenNames x2
  have h3 : State.Keeps a x2 := by
    unfold x2
    refine foldl_keeps ?_ ?_
    · exact h1
    · intro y4 y5 h6
      with_reducible apply State.modPage_keeps
      exact h6
  clear_value x2
  extract_lets +onlyGivenNames x7
  have h8 : State.Keeps a x7 := by
    unfold x7
    with_reducible apply State.freeArea_keeps
    with_reducible apply State.freeze_keeps
    exact h1
  clear_value x7
  extract_lets +onlyGivenNames x9
  have h10 : State.Keeps a x9 := by
    unfold x9
    with_reducible apply State.modInst_keeps
    exact h8
  clear_value x9
  extract_lets +onlyGivenNames x11
  have h12 : State.Keeps a x11 := by
    unfold x11
    with_reducible apply State.traceRec_keeps
    exact h10
  clear_value x11
  with_reducible refine ite_keeps (P := State.Keeps a) ?_ ?_
  · with_reducible apply State.badRead_keeps
    exact h1
  · with_reducible refine ite_keeps (P := State.Keeps a) ?_ ?_
    · with_reducible apply State.doubleFault_keeps
      with_reducible apply State.dropWft_keeps
      exact h3
    · with_reducible refine ite_keeps (P := State.Keeps a) ?_ ?_
      · exact h1
      · with_reducible refine ite_keeps (P := State.Keeps a) ?_ ?_
        · with_reducible apply State.modAct_keeps
          exact h1
        · with_reducible refine ite_keeps (P := State.Keeps a) ?_ ?_
          · with_reducible apply State.doubleFault_keeps
            exact h12
          · with_reducible apply State.sched_keeps
            exact h12

theorem State.trap_keeps {a : State} {z1 z2 z3 z4} (h1 : State.Keeps a z1) :
    State.Keeps a (State.trap z1 z2 z3 z4) := by
  unfold State.trap
  with_reducible apply State.takeTrap_keeps
  exact h1

theorem State.trapFire_keeps {a : State} {z1 z2 z3 z4 z5 z6 z7} (h1 : State.Keeps a z1) :
    State.Keeps a (State.trapFire z1 z2 z3 z4 z5 z6 z7) := by
  unfold State.trapFire
  extract_lets +onlyGivenNames x1
  clear_value x1
  with_reducible apply State.takeTrap_keeps
  exact h1

theorem State.frameAppend_keeps {a : State} {z1 z2 z3 z4 z5} (h1 : State.Keeps a z1) :
    OnFst (State.Keeps a) (State.frameAppend z1 z2 z3 z4 z5) := by
  unfold State.frameAppend
  extract_lets +onlyGivenNames x1
  clear_value x1
  extract_lets +onlyGivenNames x2
  clear_value x2
  split
  · rename_i v3 v4 v5 v6 v7 v8 v9 v10 v11 v12 v13 v14
    extract_lets +onlyGivenNames x15
    have h16 : State.Keeps a x15 := by
      unfold x15
      refine OnSome.getD ?_ ?_
      · with_reducible apply State.devWrite_keeps
        exact h1
      · exact h1
    clear_value x15
    with_reducible refine ite_keeps (P := OnFst (State.Keeps a)) ?_ ?_
    · split
      · rename_i v17 v18 v19
        have h20 : State.Keeps a v18 := by
          refine OnSome.get ?_ v19
          with_reducible apply State.devWrite_keeps
          exact h1
        extract_lets +onlyGivenNames x21
        have h22 : State.Keeps a x21 := by
          unfold x21
          refine OnSome.getD ?_ ?_
          · with_reducible apply State.devWrite_keeps
            exact h20
          · exact h20
        clear_value x21
        refine OnFst.mk ?_
        refine OnSome.getD ?_ ?_
        · with_reducible apply State.devWrite_keeps
          exact h22
        · exact h22
      · rename_i v23 v24
        refine OnFst.mk ?_
        exact h1
    · refine OnFst.mk ?_
      refine OnSome.getD ?_ ?_
      · with_reducible apply State.devWrite_keeps
        exact h16
      · exact h16
  · rename_i v25 v26 v27 v28 v29
    refine OnFst.mk ?_
    exact h1

theorem State.addReplay_keeps {a : State} {z1 z2 z3 z4} (h1 : State.Keeps a z1) :
    State.Keeps a (State.addReplay z1 z2 z3 z4) := by
  unfold State.addReplay
  refine foldl_keeps ?_ ?_
  · exact h1
  · intro y1 y2 h3
    extract_lets +onlyGivenNames x4
    clear_value x4
    extract_lets +onlyGivenNames x5
    have h8 : ∀ y6 y7, State.Keeps a y6 → State.Keeps a (x5 y6 y7) := by
      intro y6 y7 h9
      unfold x5
      with_reducible apply State.modInst_keeps
      exact h9
    clear_value x5
    split
    · rename_i v10 v11 v12 v13
      with_reducible apply h8
      exact h3
    · rename_i v14 v15 v16 v17 v18 v19
      extract_lets +onlyGivenNames x20
      have h21 : OnFst (State.Keeps a) x20 := by
        unfold x20
        with_reducible apply State.frameAppend_keeps
        exact h3
      clear_value x20
      extract_lets +onlyGivenNames x22
      clear_value x22
      with_reducible apply h8
      exact h21
    · rename_i v23 v24 v25 v26
      with_reducible apply h8
      exact h3

theorem State.appendReplay_keeps {a : State} {z1 z2 z3 z4 z5 z6 z7} (h1 : State.Keeps a z1) :
    State.Keeps a (State.appendReplay z1 z2 z3 z4 z5 z6 z7) := by
  unfold State.appendReplay
  with_reducible apply State.addReplay_keeps
  exact h1

theorem State.passReg_keeps {a : State} {z1 z2 z3 z4 z5 z6} (h1 : State.Keeps a z1) :
    State.Keeps a (State.passReg z1 z2 z3 z4 z5 z6) := by
  induction z6 generalizing z1 z2 z3 z4 z5 with
  | zero =>
    unfold State.passReg
    exact h1
  | succ n ih =>
    unfold State.passReg
    extract_lets +onlyGivenNames x1
    clear_value x1
    split
    · rename_i v2 v3
      exact h1
    · rename_i v4 v5 v6
      with_reducible refine ite_keeps (P := State.Keeps a) ?_ ?_
      · exact h1
      · split
        · rename_i v7 v8 v9 v10 v11 v12
          extract_lets +onlyGivenNames x13
          clear_value x13
          extract_lets +onlyGivenNames x14
          clear_value x14
          extract_lets +onlyGivenNames x15
          have h16 : State.Keeps a x15 := by
            unfold x15
            with_reducible apply State.modAct_keeps
            exact h1
          clear_value x15
          extract_lets +onlyGivenNames x17
          have h18 : State.Keeps a x17 := by
            unfold x17
            refine foldl_keeps ?_ ?_
            · exact h16
            · intro y19 y20 h21
              with_reducible apply State.checkReady_keeps
              exact h21
          clear_value x17
          with_reducible refine ite_keeps (P := State.Keeps a) ?_ ?_
          · exact h1
          · with_reducible apply ih
            exact h18
        · rename_i v22 v23 v24
          exact h1

theorem State.tagdup_keeps {a : State} {z1 z2 z3 z4 z5 z6 z7 z8} (h1 : State.Keeps a z1) :
    State.Keeps a (State.tagdup z1 z2 z3 z4 z5 z6 z7 z8) := by
  unfold State.tagdup
  with_reducible apply State.appendReplay_keeps
  with_reducible apply State.takeTrap_keeps
  exact h1

theorem State.deliverReg_keeps {a : State} {z1 z2 z3 z4 z5 z6} (h1 : State.Keeps a z1) :
    State.Keeps a (State.deliverReg z1 z2 z3 z4 z5 z6) := by
  unfold State.deliverReg
  extract_lets +onlyGivenNames x1
  have h2 : State.Keeps a x1 := by
    unfold x1
    with_reducible apply State.modAct_keeps
    exact h1
  clear_value x1
  with_reducible refine ite_keeps (P := State.Keeps a) ?_ ?_
  · with_reducible apply State.tagdup_keeps
    exact h1
  · with_reducible apply State.checkDone_keeps
    with_reducible apply State.passReg_keeps
    exact h2

theorem State.enqueue_keeps {a : State} {z1 z2 z3 z4 z5 z6 z7 z8} (h1 : State.Keeps a z1) :
    State.Keeps a (State.enqueue z1 z2 z3 z4 z5 z6 z7 z8) := by
  unfold State.enqueue
  extract_lets +onlyGivenNames x1
  clear_value x1
  extract_lets +onlyGivenNames x2
  clear_value x2
  extract_lets +onlyGivenNames x3
  clear_value x3
  extract_lets +onlyGivenNames x4
  clear_value x4
  with_reducible refine ite_keeps (P := State.Keeps a) ?_ ?_
  · with_reducible apply State.tagdup_keeps
    exact h1
  · split
    · rename_i v5 v6
      with_reducible apply State.checkReady_keeps
      with_reducible apply State.modPage_keeps
      exact h1
    · rename_i v7
      split
      · rename_i v8 v9 v10
        with_reducible apply State.checkReady_keeps
        with_reducible apply State.modPage_keeps
        exact h1
      · rename_i v11 v12
        with_reducible refine ite_keeps (P := State.Keeps a) ?_ ?_
        · with_reducible apply State.spillTok_keeps
          exact h1
        · with_reducible apply State.bumpCsr_keeps
          with_reducible apply State.modPage_keeps
          exact h1

theorem State.arriveExit_keeps {a : State} {z1 z2 z3 z4 z5} (h1 : State.Keeps a z1) :
    State.Keeps a (State.arriveExit z1 z2 z3 z4 z5) := by
  unfold State.arriveExit
  split
  · rename_i v1 v2
    exact h1
  · rename_i v3 v4 v5
    with_reducible refine ite_keeps (P := State.Keeps a) ?_ ?_
    · with_reducible apply State.addReplay_keeps
      exact h1
    · with_reducible refine ite_keeps (P := State.Keeps a) ?_ ?_
      · with_reducible apply State.addReplay_keeps
        with_reducible apply State.takeTrap_keeps
        exact h1
      · with_reducible apply State.checkDone_keeps
        with_reducible apply State.modAct_keeps
        exact h1

theorem State.holdSaved_keeps {a : State} {z1 z2 z3 z4 z5} (h1 : State.Keeps a z1) :
    State.Keeps a (State.holdSaved z1 z2 z3 z4 z5) := by
  unfold State.holdSaved
  with_reducible apply State.sched_keeps
  with_reducible apply State.modInst_keeps
  exact h1

theorem State.arrive_keeps {a : State} {z1 z2 z3 z4 z5 z6 z7 z8} (h1 : State.Keeps a z1) :
    State.Keeps a (State.arrive z1 z2 z3 z4 z5 z6 z7 z8) := by
  unfold State.arrive
  extract_lets +onlyGivenNames x1
  clear_value x1
  extract_lets +onlyGivenNames x2
  clear_value x2
  extract_lets +onlyGivenNames x3
  clear_value x3
  split
  · rename_i v4 v5
    with_reducible apply State.stale_keeps
    exact h1
  · rename_i v6 v7 v8
    extract_lets +onlyGivenNames x9
    have h10 : State.Keeps a x9 := by
      unfold x9
      with_reducible apply State.modPage_keeps
      exact h1
    clear_value x9
    with_reducible refine ite_keeps (P := State.Keeps a) ?_ ?_
    · with_reducible apply State.stale_keeps
      exact h1
    · with_reducible refine ite_keeps (P := State.Keeps a) ?_ ?_
      · with_reducible apply State.appendReplay_keeps
        exact h1
      · with_reducible refine ite_keeps (P := State.Keeps a) ?_ ?_
        · with_reducible apply State.holdSaved_keeps
          exact h1
        · with_reducible refine ite_keeps (P := State.Keeps a) ?_ ?_
          · with_reducible apply State.modPage_keeps
            exact h1
          · split
            · rename_i v11 v12
              split
              · rename_i v13 v14 v15
                with_reducible refine ite_keeps (P := State.Keeps a) ?_ ?_
                · with_reducible apply State.enqueue_keeps
                  exact h10
                · with_reducible apply State.stale_keeps
                  exact h10
              · rename_i v16 v17
                with_reducible apply State.stale_keeps
                exact h10
            · rename_i v18 v19 v20
              with_reducible refine ite_keeps (P := State.Keeps a) ?_ ?_
              · exact h10
              · split
                · rename_i v21 v22
                  with_reducible apply State.deliverReg_keeps
                  exact h10
                · rename_i v23 v24 v25
                  with_reducible apply State.enqueue_keeps
                  exact h10
                · rename_i v26 v27 v28
                  exact h10

theorem State.unhold_keeps {a : State} {z1 z2 z3} (h1 : State.Keeps a z1) :
    State.Keeps a (State.unhold z1 z2 z3) := by
  unfold State.unhold
  extract_lets +onlyGivenNames x1
  clear_value x1
  refine foldl_keeps ?_ ?_
  · with_reducible apply State.modPage_keeps
    exact h1
  · intro y2 y3 h4
    with_reducible refine ite_keeps (P := State.Keeps a) ?_ ?_
    · with_reducible apply State.modPage_keeps
      exact h4
    · with_reducible apply State.arrive_keeps
      exact h4

theorem State.unholdAll_keeps {a : State} {z1 z2} (h1 : State.Keeps a z1) :
    State.Keeps a (State.unholdAll z1 z2) := by
  unfold State.unholdAll
  refine foldl_keeps ?_ ?_
  · exact h1
  · intro y1 y2 h3
    with_reducible refine ite_keeps (P := State.Keeps a) ?_ ?_
    · exact h3
    · with_reducible apply State.unhold_keeps
      exact h3

theorem State.freed_keeps {a : State} {z1 z2 z3 z4 z5} (h1 : State.Keeps a z1) :
    State.Keeps a (State.freed z1 z2 z3 z4 z5) := by
  unfold State.freed
  extract_lets +onlyGivenNames x1
  clear_value x1
  extract_lets +onlyGivenNames x2
  have h3 : State.Keeps a x2 := by
    unfold x2
    with_reducible refine ite_keeps (P := State.Keeps a) ?_ ?_
    · with_reducible apply State.sched_keeps
      exact h1
    · exact h1
  clear_value x2
  with_reducible refine ite_keeps (P := State.Keeps a) ?_ ?_
  · exact h3
  · with_reducible apply State.unhold_keeps
    exact h3

theorem State.mark_keeps {a : State} {z1 z2} (h1 : State.Keeps a z1) :
    OnFst (State.Keeps a) (State.mark z1 z2) := by
  unfold State.mark
  split
  · rename_i v1 v2 v3
    refine OnFst.mk ?_
    exact h1
  · rename_i v4 v5
    extract_lets +onlyGivenNames x6
    clear_value x6
    extract_lets +onlyGivenNames x7
    have h8 : OnFst (State.Keeps a) x7 := by
      unfold x7
      with_reducible apply State.newOrigin_keeps
      exact h1
    clear_value x7
    with_reducible refine ite_keeps (P := OnFst (State.Keeps a)) ?_ ?_
    · refine OnFst.mk ?_
      exact h1
    · refine OnFst.mk ?_
      exact h8

theorem State.frame_keeps {a : State} {z1 z2 z3 z4 z5 z6} (h1 : State.Keeps a z1) (h6 : ∀ y1, State.Keeps a y1 → State.Keeps a (z6 y1)) :
    State.Keeps a (State.frame z1 z2 z3 z4 z5 z6) := by
  unfold State.frame
  split
  · rename_i v1 v2
    with_reducible apply h6
    exact h1
  · rename_i v3 v4
    with_reducible apply State.silent_keeps
    exact h1
  · rename_i v5 v6 v7
    with_reducible apply State.emit_keeps
    exact h1

theorem State.rawFrame_keeps {a : State} {z1 z2 z3 z4 z5 z6} (h1 : State.Keeps a z1) (h6 : ∀ y1, State.Keeps a y1 → State.Keeps a (z6 y1)) :
    State.Keeps a (State.rawFrame z1 z2 z3 z4 z5 z6) := by
  unfold State.rawFrame
  split
  · rename_i v1 v2
    with_reducible apply h6
    exact h1
  · rename_i v3 v4
    with_reducible apply State.silent_keeps
    exact h1
  · rename_i v5 v6 v7
    with_reducible apply State.emit_keeps
    exact h1

theorem State.one_keeps {a : State} {z1 z2 z3 z4 z5 z6} (h1 : State.Keeps a z1) :
    State.Keeps a (State.one z1 z2 z3 z4 z5 z6) := by
  unfold State.one
  with_reducible apply State.frame_keeps
  · exact h1
  · intro y1 h2
    extract_lets +onlyGivenNames x3
    have h4 : OnFst (State.Keeps a) x3 := by
      unfold x3
      with_reducible apply State.mark_keeps
      exact h2
    clear_value x3
    with_reducible apply State.emit_keeps
    exact h4

theorem State.two_keeps {a : State} {z1 z2 z3 z4 z5 z6 z7} (h1 : State.Keeps a z1) :
    State.Keeps a (State.two z1 z2 z3 z4 z5 z6 z7) := by
  unfold State.two
  with_reducible apply State.frame_keeps
  · exact h1
  · intro y1 h2
    extract_lets +onlyGivenNames x3
    have h4 : OnFst (State.Keeps a) x3 := by
      unfold x3
      with_reducible apply State.mark_keeps
      exact h2
    clear_value x3
    extract_lets +onlyGivenNames x5
    have h6 : OnFst (State.Keeps a) x5 := by
      unfold x5
      with_reducible apply State.mark_keeps
      exact h4
    clear_value x5
    with_reducible apply State.emit_keeps
    exact h6

theorem execRead_keeps {a : State} {z1 z2 z3 z4} (h4 : State.Keeps a z4) :
    OnNext (State.Keeps a) (execRead z1 z2 z3 z4) := by
  unfold execRead
  extract_lets +onlyGivenNames x1
  clear_value x1
  extract_lets +onlyGivenNames x2
  clear_value x2
  refine OnNext.next ?_
  with_reducible apply State.emit_keeps
  exact h4

theorem State.sendExit_keeps {a : State} {z1 z2 z3 z4} (h1 : State.Keeps a z1) :
    State.Keeps a (State.sendExit z1 z2 z3 z4) := by
  unfold State.sendExit
  extract_lets +onlyGivenNames x1
  clear_value x1
  extract_lets +onlyGivenNames x2
  clear_value x2
  extract_lets +onlyGivenNames x3
  clear_value x3
  with_reducible apply State.modFire_keeps
  with_reducible apply State.sched_keeps
  exact h1

theorem State.bareFrame_keeps {a : State} {z1 z2 z3} (h1 : State.Keeps a z1) (h3 : ∀ y1, State.Keeps a y1 → State.Keeps a (z3 y1)) :
    State.Keeps a (State.bareFrame z1 z2 z3) := by
  unfold State.bareFrame
  split
  · rename_i v1 v2
    with_reducible apply h3
    exact h1
  · rename_i v3 v4
    with_reducible apply State.silent_keeps
    exact h1

theorem execBr_keeps {a : State} {z1 z2 z3 z4} (h4 : State.Keeps a z4) :
    OnNext (State.Keeps a) (execBr z1 z2 z3 z4) := by
  unfold execBr
  refine OnNext.next ?_
  with_reducible apply State.bareFrame_keeps
  · exact h4
  · intro y1 h2
    with_reducible apply State.sendExit_keeps
    exact h2

theorem execBrr_keeps {a : State} {z1 z2 z3} (h3 : State.Keeps a z3) :
    OnNext (State.Keeps a) (execBrr z1 z2 z3) := by
  unfold execBrr
  refine OnNext.next ?_
  with_reducible apply State.bareFrame_keeps
  · exact h3
  · intro y1 h2
    with_reducible apply State.sendExit_keeps
    exact h2

theorem execRet_keeps {a : State} {z1 z2} (h2 : State.Keeps a z2) :
    OnNext (State.Keeps a) (execRet z1 z2) := by
  unfold execRet
  refine OnNext.next ?_
  with_reducible apply State.bareFrame_keeps
  · exact h2
  · intro y1 h2
    extract_lets +onlyGivenNames x3
    clear_value x3
    extract_lets +onlyGivenNames x4
    have h5 : State.Keeps a x4 := by
      unfold x4
      with_reducible refine ite_keeps (P := State.Keeps a) ?_ ?_
      · with_reducible apply State.modInst_keeps
        exact h2
      · exact h2
    clear_value x4
    with_reducible apply State.sendExit_keeps
    exact h5

theorem State.settle_keeps {a : State} {z1} (h1 : State.Keeps a z1) :
    State.Keeps a (State.settle z1) := by
  unfold State.settle
  with_reducible apply State.modAct_keeps
  exact h1

theorem execLoop_keeps {a : State} {z1 z2 z3} (h3 : State.Keeps a z3) :
    OnNext (State.Keeps a) (execLoop z1 z2 z3) := by
  unfold execLoop
  refine OnNext.next ?_
  split
  · rename_i v1 v2
    extract_lets +onlyGivenNames x3
    have h4 : State.Keeps a x3 := by
      unfold x3
      split
      · rename_i v5 v6 v7
        with_reducible apply State.reportPoison_keeps
        exact h3
      · rename_i v8 v9
        exact h3
    clear_value x3
    extract_lets +onlyGivenNames x10
    clear_value x10
    extract_lets +onlyGivenNames x11
    have h12 : State.Keeps a x11 := by
      unfold x11
      with_reducible apply State.settle_keeps
      with_reducible apply State.silent_keeps
      exact h4
    clear_value x11
    with_reducible refine ite_keeps (P := State.Keeps a) ?_ ?_
    · with_reducible refine ite_keeps (P := State.Keeps a) ?_ ?_
      · exact h12
      · with_reducible apply State.modAct_keeps
        exact h12
    · with_reducible apply State.trap_keeps
      exact h3
  · rename_i v13 v14
    with_reducible apply State.settle_keeps
    with_reducible apply State.silent_keeps
    exact h3

theorem execSteer_keeps {a : State} {z1 z2 z3 z4} (h4 : State.Keeps a z4) :
    OnNext (State.Keeps a) (execSteer z1 z2 z3 z4) := by
  unfold execSteer
  refine OnNext.next ?_
  split
  · rename_i v1 v2
    extract_lets +onlyGivenNames x3
    clear_value x3
    with_reducible refine ite_keeps (P := State.Keeps a) ?_ ?_
    · with_reducible apply State.emit_keeps
      exact h4
    · with_reducible refine ite_keeps (P := State.Keeps a) ?_ ?_
      · with_reducible apply State.emit_keeps
        exact h4
      · with_reducible apply State.emit_keeps
        exact h4
  · rename_i v4 v5
    with_reducible apply State.silent_keeps
    exact h4
  · rename_i v6 v7 v8
    with_reducible apply State.emit_keeps
    exact h4

theorem execSteerf_keeps {a : State} {z1 z2 z3 z4} (h4 : State.Keeps a z4) :
    OnNext (State.Keeps a) (execSteerf z1 z2 z3 z4) := by
  unfold execSteerf
  refine OnNext.next ?_
  split
  · rename_i v1 v2
    extract_lets +onlyGivenNames x3
    clear_value x3
    with_reducible refine ite_keeps (P := State.Keeps a) ?_ ?_
    · with_reducible apply State.emit_keeps
      exact h4
    · with_reducible refine ite_keeps (P := State.Keeps a) ?_ ?_
      · with_reducible apply State.emit_keeps
        exact h4
      · with_reducible apply State.emit_keeps
        exact h4
  · rename_i v4 v5
    with_reducible apply State.silent_keeps
    exact h4
  · rename_i v6 v7 v8
    with_reducible apply State.emit_keeps
    exact h4

theorem execMerge_keeps {a : State} {z1 z2 z3 z4} (h4 : State.Keeps a z4) :
    OnNext (State.Keeps a) (execMerge z1 z2 z3 z4) := by
  unfold execMerge
  refine OnNext.next ?_
  with_reducible apply State.rawFrame_keeps
  · exact h4
  · intro y1 h2
    extract_lets +onlyGivenNames x3
    clear_value x3
    with_reducible refine ite_keeps (P := State.Keeps a) ?_ ?_
    · with_reducible apply State.emit_keeps
      exact h2
    · with_reducible apply State.emit_keeps
      exact h2

theorem State.fib_keeps {a : State} {z1 z2 z3 z4 z5 z6} (h1 : State.Keeps a z1) :
    State.Keeps a (State.fib z1 z2 z3 z4 z5 z6) := by
  unfold State.fib
  with_reducible apply State.rawFrame_keeps
  · exact h1
  · intro y1 h2
    extract_lets +onlyGivenNames x3
    have h4 : OnFst (State.Keeps a) x3 := by
      unfold x3
      with_reducible apply State.mark_keeps
      exact h2
    clear_value x3
    extract_lets +onlyGivenNames x5
    clear_value x5
    extract_lets +onlyGivenNames x6
    clear_value x6
    with_reducible refine ite_keeps (P := State.Keeps a) ?_ ?_
    · with_reducible apply State.emit_keeps
      exact h2
    · with_reducible apply State.emit_keeps
      exact h4

theorem execFibIsect_keeps {a : State} {z1 z2 z3 z4} (h4 : State.Keeps a z4) :
    OnNext (State.Keeps a) (execFibIsect z1 z2 z3 z4) := by
  unfold execFibIsect
  extract_lets +onlyGivenNames x1
  clear_value x1
  extract_lets +onlyGivenNames x2
  clear_value x2
  refine OnNext.next ?_
  with_reducible apply State.fib_keeps
  exact h4

theorem execFibUnion_keeps {a : State} {z1 z2 z3 z4} (h4 : State.Keeps a z4) :
    OnNext (State.Keeps a) (execFibUnion z1 z2 z3 z4) := by
  unfold execFibUnion
  extract_lets +onlyGivenNames x1
  clear_value x1
  extract_lets +onlyGivenNames x2
  clear_value x2
  refine OnNext.next ?_
  with_reducible apply State.fib_keeps
  exact h4

theorem execFibEoft_keeps {a : State} {z1 z2 z3 z4} (h4 : State.Keeps a z4) :
    OnNext (State.Keeps a) (execFibEoft z1 z2 z3 z4) := by
  unfold execFibEoft
  refine OnNext.next ?_
  with_reducible apply State.fib_keeps
  exact h4

theorem execFibMkeof_keeps {a : State} {z1 z2 z3 z4} (h4 : State.Keeps a z4) :
    OnNext (State.Keeps a) (execFibMkeof z1 z2 z3 z4) := by
  unfold execFibMkeof
  refine OnNext.next ?_
  with_reducible apply State.fib_keeps
  exact h4

theorem execFibMkcrd_keeps {a : State} {z1 z2 z3 z4} (h4 : State.Keeps a z4) :
    OnNext (State.Keeps a) (execFibMkcrd z1 z2 z3 z4) := by
  unfold execFibMkcrd
  extract_lets +onlyGivenNames x1
  clear_value x1
  refine OnNext.next ?_
  with_reducible apply State.fib_keeps
  exact h4

theorem State.setw_keeps {a : State} {z1 z2 z3 z4 z5 z6 z7} (h1 : State.Keeps a z1) :
    State.Keeps a (State.setw z1 z2 z3 z4 z5 z6 z7) := by
  unfold State.setw
  with_reducible apply State.frame_keeps
  · exact h1
  · intro y1 h2
    extract_lets +onlyGivenNames x3
    have h4 : State.Keeps a x3 := by
      unfold x3
      with_reducible apply State.modAct_keeps
      exact h2
    clear_value x3
    extract_lets +onlyGivenNames x5
    have h6 : OnFst (State.Keeps a) x5 := by
      unfold x5
      with_reducible apply State.mark_keeps
      exact h4
    clear_value x5
    with_reducible apply State.emit_keeps
    exact h6

theorem execSetwBase_keeps {a : State} {z1 z2 z3 z4 z5} (h5 : State.Keeps a z5) :
    OnNext (State.Keeps a) (execSetwBase z1 z2 z3 z4 z5) := by
  unfold execSetwBase
  refine OnNext.next ?_
  with_reducible apply State.setw_keeps
  exact h5

theorem execSetwLim_keeps {a : State} {z1 z2 z3 z4 z5} (h5 : State.Keeps a z5) :
    OnNext (State.Keeps a) (execSetwLim z1 z2 z3 z4 z5) := by
  unfold execSetwLim
  refine OnNext.next ?_
  with_reducible apply State.setw_keeps
  exact h5

theorem execSetwAttr_keeps {a : State} {z1 z2 z3 z4 z5} (h5 : State.Keeps a z5) :
    OnNext (State.Keeps a) (execSetwAttr z1 z2 z3 z4 z5) := by
  unfold execSetwAttr
  refine OnNext.next ?_
  with_reducible apply State.setw_keeps
  exact h5

theorem State.fence_keeps {a : State} {z1 z2 z3 z4 z5 z6} (h1 : State.Keeps a z1) :
    State.Keeps a (State.fence z1 z2 z3 z4 z5 z6) := by
  unfold State.fence
  extract_lets +onlyGivenNames x1
  clear_value x1
  with_reducible apply State.frame_keeps
  · exact h1
  · intro y2 h3
    extract_lets +onlyGivenNames x4
    have h5 : OnFst (State.Keeps a) x4 := by
      unfold x4
      with_reducible apply State.mark_keeps
      with_reducible refine ite_keeps (P := State.Keeps a) ?_ ?_
      · with_reducible apply State.flush_keeps
        exact h3
      · exact h3
    clear_value x4
    with_reducible apply State.emit_keeps
    exact h5

theorem execFenceAcq_keeps {a : State} {z1 z2 z3 z4 z5} (h5 : State.Keeps a z5) :
    OnNext (State.Keeps a) (execFenceAcq z1 z2 z3 z4 z5) := by
  unfold execFenceAcq
  refine OnNext.next ?_
  with_reducible apply State.fence_keeps
  exact h5

theorem execFenceRel_keeps {a : State} {z1 z2 z3 z4 z5} (h5 : State.Keeps a z5) :
    OnNext (State.Keeps a) (execFenceRel z1 z2 z3 z4 z5) := by
  unfold execFenceRel
  refine OnNext.next ?_
  with_reducible apply State.fence_keeps
  exact h5

theorem execFenceAr_keeps {a : State} {z1 z2 z3 z4 z5} (h5 : State.Keeps a z5) :
    OnNext (State.Keeps a) (execFenceAr z1 z2 z3 z4 z5) := by
  unfold execFenceAr
  refine OnNext.next ?_
  with_reducible apply State.fence_keeps
  exact h5

theorem execFenceSc_keeps {a : State} {z1 z2 z3 z4 z5} (h5 : State.Keeps a z5) :
    OnNext (State.Keeps a) (execFenceSc z1 z2 z3 z4 z5) := by
  unfold execFenceSc
  refine OnNext.next ?_
  with_reducible apply State.fence_keeps
  exact h5

theorem execPriorityPropagate_keeps {a : State} {z1} (h1 : State.Keeps a z1) :
    OnNext (State.Keeps a) (execPriorityPropagate z1) := by
  unfold execPriorityPropagate
  extract_lets +onlyGivenNames x1
  clear_value x1
  extract_lets +onlyGivenNames x2
  clear_value x2
  refine OnNext.next ?_
  with_reducible apply State.wakeInst_keeps
  with_reducible apply State.modInst_keeps
  exact h1

theorem State.dropWreg_keeps {a : State} {z1 z2 z3 z4} (h1 : State.Keeps a z1) :
    State.Keeps a (State.dropWreg z1 z2 z3 z4) := by
  unfold State.dropWreg
  extract_lets +onlyGivenNames x1
  have h2 : State.Keeps a x1 := by
    unfold x1
    with_reducible apply State.wregStatus_keeps
    exact h1
  clear_value x1
  with_reducible apply State.modPart_keeps
  exact h2

theorem State.wftWrite_keeps {a : State} {z1 z2} (h1 : State.Keeps a z1) :
    OnSome (State.Keeps a) (State.wftWrite z1 z2) := by
  unfold State.wftWrite
  with_reducible apply State.devEntry_keeps
  exact h1

theorem State.enter_keeps {a : State} {z1 z2 z3 z4} (h1 : State.Keeps a z1) :
    State.Keeps a (State.enter z1 z2 z3 z4) := by
  unfold State.enter
  extract_lets +onlyGivenNames x1
  clear_value x1
  extract_lets +onlyGivenNames x2
  clear_value x2
  extract_lets +onlyGivenNames x3
  have h4 : State.Keeps a x3 := by
    unfold x3
    with_reducible refine ite_keeps (P := State.Keeps a) ?_ ?_
    · exact h1
    · with_reducible apply State.sendStatus_keeps
      exact h1
  clear_value x3
  extract_lets +onlyGivenNames x5
  have h6 : State.Keeps a x5 := by
    unfold x5
    with_reducible refine ite_keeps (P := State.Keeps a) ?_ ?_
    · with_reducible apply State.wregStatus_keeps
      exact h4
    · exact h4
  clear_value x5
  extract_lets +onlyGivenNames x7
  clear_value x7
  extract_lets +onlyGivenNames x8
  clear_value x8
  extract_lets +onlyGivenNames x9
  clear_value x9
  extract_lets +onlyGivenNames x10
  have h11 : State.Keeps a x10 := by
    unfold x10
    with_reducible apply State.wftUse_keeps
    with_reducible apply State.modPart_keeps
    exact h6
  clear_value x10
  with_reducible refine ite_keeps (P := State.Keeps a) ?_ ?_
  · with_reducible apply State.bumpCsr_keeps
    exact h6
  · with_reducible apply State.prioChanged_keeps
    with_reducible apply State.sched_keeps
    exact h11

theorem State.regNext_keeps {a : State} {z1 z2 z3} (h1 : State.Keeps a z1) :
    State.Keeps a (State.regNext z1 z2 z3) := by
  induction z3 generalizing z1 z2 with
  | zero =>
    unfold State.regNext
    exact h1
  | succ n ih =>
    unfold State.regNext
    extract_lets +onlyGivenNames x1
    clear_value x1
    split
    · rename_i v2 v3 v4 v5 v6 v7
      extract_lets +onlyGivenNames x8
      have h9 : State.Keeps a x8 := by
        unfold x8
        with_reducible apply State.modPart_keeps
        exact h1
      clear_value x8
      with_reducible refine ite_keeps (P := State.Keeps a) ?_ ?_
      · with_reducible apply ih
        with_reducible refine ite_keeps (P := State.Keeps a) ?_ ?_
        · exact h9
        · with_reducible apply State.sendStatus_keeps
          exact h9
      · split
        · rename_i v10 v11
          split
          · rename_i v12 v13 v14
            have h15 : State.Keeps a v13 := by
              refine OnSome.get ?_ v14
              with_reducible apply State.wftWrite_keeps
              exact h9
            with_reducible apply ih
            with_reducible apply State.enter_keeps
            exact h15
          · rename_i v16 v17
            with_reducible apply ih
            with_reducible apply State.enter_keeps
            with_reducible apply State.postVf_keeps
            exact h9
        · rename_i v18 v19
          with_reducible apply ih
          with_reducible apply State.enter_keeps
          exact h9
    · rename_i v20 v21 v22
      exact h1

theorem State.regAll_keeps {a : State} {z1 z2} (h1 : State.Keeps a z1) :
    State.Keeps a (State.regAll z1 z2) := by
  unfold State.regAll
  with_reducible apply State.regNext_keeps
  exact h1

theorem State.register_keeps {a : State} {z1 z2 z3} (h1 : State.Keeps a z1) :
    State.Keeps a (State.register z1 z2 z3) := by
  unfold State.register
  with_reducible apply State.regAll_keeps
  with_reducible apply State.modPart_keeps
  exact h1

theorem State.endWait_keeps {a : State} {z1 z2 z3} (h1 : State.Keeps a z1) :
    State.Keeps a (State.endWait z1 z2 z3) := by
  unfold State.endWait
  extract_lets +onlyGivenNames x1
  have h2 : State.Keeps a x1 := by
    unfold x1
    refine foldl_keeps ?_ ?_
    · exact h1
    · intro y3 y4 h5
      with_reducible apply State.wregStatus_keeps
      exact h5
  clear_value x1
  with_reducible apply State.dropWft_keeps
  with_reducible apply State.modPart_keeps
  exact h2

theorem State.endHold_keeps {a : State} {z1 z2 z3 z4} (h1 : State.Keeps a z1) :
    State.Keeps a (State.endHold z1 z2 z3 z4) := by
  unfold State.endHold
  extract_lets +onlyGivenNames x1
  clear_value x1
  with_reducible apply State.dropWft_keeps
  with_reducible apply State.modPart_keeps
  exact h1

theorem State.enterHold_keeps {a : State} {z1 z2 z3 z4 z5 z6 z7} (h1 : State.Keeps a z1) :
    State.Keeps a (State.enterHold z1 z2 z3 z4 z5 z6 z7) := by
  unfold State.enterHold
  with_reducible apply State.register_keeps
  exact h1

theorem State.enterWait_keeps {a : State} {z1 z2 z3 z4 z5 z6} (h1 : State.Keeps a z1) :
    State.Keeps a (State.enterWait z1 z2 z3 z4 z5 z6) := by
  unfold State.enterWait
  extract_lets +onlyGivenNames x1
  clear_value x1
  extract_lets +onlyGivenNames x2
  have h3 : State.Keeps a x2 := by
    unfold x2
    with_reducible apply State.modPart_keeps
    exact h1
  clear_value x2
  with_reducible apply State.register_keeps
  exact h3

theorem State.closeCycle_keeps {a : State} {z1 z2 z3} (h1 : State.Keeps a z1) :
    State.Keeps a (State.closeCycle z1 z2 z3) := by
  unfold State.closeCycle
  extract_lets +onlyGivenNames x1
  clear_value x1
  extract_lets +onlyGivenNames x2
  clear_value x2
  with_reducible refine ite_keeps (P := State.Keeps a) ?_ ?_
  · exact h1
  · split
    · rename_i v3 v4
      exact h1
    · rename_i v5 v6 v7
      extract_lets +onlyGivenNames x8
      clear_value x8
      extract_lets +onlyGivenNames x9
      clear_value x9
      extract_lets +onlyGivenNames x10
      clear_value x10
      extract_lets +onlyGivenNames x11
      have h12 : State.Keeps a x11 := by
        unfold x11
        with_reducible apply State.takeTrap_keeps
        exact h1
      clear_value x11
      with_reducible refine ite_keeps (P := State.Keeps a) ?_ ?_
      · with_reducible apply State.endWait_keeps
        exact h12
      · exact h12

theorem execCycleWalkEnd_keeps {a : State} {z1} (h1 : State.Keeps a z1) :
    OnNext (State.Keeps a) (execCycleWalkEnd z1) := by
  unfold execCycleWalkEnd
  extract_lets +onlyGivenNames x1
  clear_value x1
  refine OnNext.next ?_
  split
  · rename_i v2 v3
    with_reducible apply State.regAll_keeps
    exact h1
  · rename_i v4 v5 v6
    extract_lets +onlyGivenNames x7
    clear_value x7
    extract_lets +onlyGivenNames x8
    have h10 : ∀ y9, State.Keeps a y9 → State.Keeps a (x8 y9) := by
      intro y9 h11
      unfold x8
      with_reducible apply State.modPart_keeps
      exact h11
    clear_value x8
    with_reducible refine ite_keeps (P := State.Keeps a) ?_ ?_
    · with_reducible apply State.regAll_keeps
      with_reducible apply State.closeCycle_keeps
      with_reducible apply h10
      exact h1
    · split
      · rename_i v12 v13
        with_reducible apply State.regAll_keeps
        with_reducible apply h10
        exact h1
      · rename_i v14 v15 v16 v17
        with_reducible apply State.sched_keeps
        with_reducible apply State.modPart_keeps
        exact h1

theorem State.accessM_keeps {a : State} {z1 z2 z3 z4 z5 z6} (h1 : State.Keeps a z1) (h6 : ∀ y1 y2 y3 y4 y5, State.Keeps a y1 → State.Keeps a (z6 y1 y2 y3 y4 y5)) :
    State.Keeps a (State.accessM z1 z2 z3 z4 z5 z6) := by
  unfold State.accessM
  extract_lets +onlyGivenNames x1
  clear_value x1
  extract_lets +onlyGivenNames x2
  clear_value x2
  extract_lets +onlyGivenNames x3
  clear_value x3
  split
  · rename_i v4 v5 v6
    with_reducible apply State.trap_keeps
    exact h1
  · rename_i v7 v8 v9 v10
    split
    · rename_i v11 v12 v13
      with_reducible apply State.trap_keeps
      exact h1
    · rename_i v14 v15 v16
      with_reducible apply State.stopPages_keeps
      with_reducible apply h6
      exact h1
    · rename_i v17 v18
      with_reducible apply h6
      exact h1

theorem State.sramTurn_keeps {a : State} {z1 z2 z3 z4 z5 z6 z7} (h1 : State.Keeps a z1) (h7 : ∀ y1, State.Keeps a y1 → State.Keeps a (z7 y1)) :
    State.Keeps a (State.sramTurn z1 z2 z3 z4 z5 z6 z7) := by
  unfold State.sramTurn
  extract_lets +onlyGivenNames x1
  clear_value x1
  extract_lets +onlyGivenNames x2
  clear_value x2
  extract_lets +onlyGivenNames x3
  have h4 : State.Keeps a x3 := by
    unfold x3
    with_reducible apply State.modPage_keeps
    exact h1
  clear_value x3
  with_reducible refine ite_keeps (P := State.Keeps a) ?_ ?_
  · with_reducible apply h7
    exact h1
  · with_reducible refine ite_keeps (P := State.Keeps a) ?_ ?_
    · with_reducible apply h7
      exact h4
    · with_reducible apply State.sched_keeps
      exact h4

theorem State.startLoad_keeps {a : State} {z1 z2 z3 z4 z5 z6 z7} (h1 : State.Keeps a z1) :
    State.Keeps a (State.startLoad z1 z2 z3 z4 z5 z6 z7) := by
  unfold State.startLoad
  extract_lets +onlyGivenNames x1
  clear_value x1
  extract_lets +onlyGivenNames x2
  have h3 : State.Keeps a x2 := by
    unfold x2
    with_reducible apply State.modFire_keeps
    exact h1
  clear_value x2
  extract_lets +onlyGivenNames x4
  clear_value x4
  extract_lets +onlyGivenNames x5
  clear_value x5
  with_reducible refine ite_keeps (P := State.Keeps a) ?_ ?_
  · with_reducible apply State.sched_keeps
    exact h3
  · with_reducible apply State.sched_keeps
    exact h3

theorem State.load_keeps {a : State} {z1 z2 z3 z4 z5 z6 z7} (h1 : State.Keeps a z1) :
    State.Keeps a (State.load z1 z2 z3 z4 z5 z6 z7) := by
  unfold State.load
  with_reducible apply State.frame_keeps
  · exact h1
  · intro y1 h2
    with_reducible apply State.accessM_keeps
    · exact h2
    · intro y3 y4 y5 y6 y7 h8
      with_reducible apply State.startLoad_keeps
      exact h8

theorem execLdw_keeps {a : State} {z1 z2 z3 z4 z5 z6} (h6 : State.Keeps a z6) :
    OnNext (State.Keeps a) (execLdw z1 z2 z3 z4 z5 z6) := by
  unfold execLdw
  refine OnNext.next ?_
  with_reducible apply State.load_keeps
  exact h6

theorem execLdh_keeps {a : State} {z1 z2 z3 z4 z5 z6} (h6 : State.Keeps a z6) :
    OnNext (State.Keeps a) (execLdh z1 z2 z3 z4 z5 z6) := by
  unfold execLdh
  refine OnNext.next ?_
  with_reducible apply State.load_keeps
  exact h6

theorem execLdhu_keeps {a : State} {z1 z2 z3 z4 z5 z6} (h6 : State.Keeps a z6) :
    OnNext (State.Keeps a) (execLdhu z1 z2 z3 z4 z5 z6) := by
  unfold execLdhu
  refine OnNext.next ?_
  with_reducible apply State.load_keeps
  exact h6

theorem execLdb_keeps {a : State} {z1 z2 z3 z4 z5 z6} (h6 : State.Keeps a z6) :
    OnNext (State.Keeps a) (execLdb z1 z2 z3 z4 z5 z6) := by
  unfold execLdb
  refine OnNext.next ?_
  with_reducible apply State.load_keeps
  exact h6

theorem execLdbu_keeps {a : State} {z1 z2 z3 z4 z5 z6} (h6 : State.Keeps a z6) :
    OnNext (State.Keeps a) (execLdbu z1 z2 z3 z4 z5 z6) := by
  unfold execLdbu
  refine OnNext.next ?_
  with_reducible apply State.load_keeps
  exact h6

theorem execLoadReply_keeps {a : State} {z1} (h1 : State.Keeps a z1) :
    OnNext (State.Keeps a) (execLoadReply z1) := by
  unfold execLoadReply
  extract_lets +onlyGivenNames x1
  clear_value x1
  extract_lets +onlyGivenNames x2
  clear_value x2
  refine OnNext.next ?_
  split
  · rename_i v3 v4
    exact h1
  · rename_i v5 v6 v7
    extract_lets +onlyGivenNames x8
    clear_value x8
    extract_lets +onlyGivenNames x9
    have h11 : ∀ y10, State.Keeps a y10 → State.Keeps a (x9 y10) := by
      intro y10 h12
      unfold x9
      extract_lets +onlyGivenNames x13
      clear_value x13
      extract_lets +onlyGivenNames x14
      have h15 : State.Keeps a x14 := by
        unfold x14
        with_reducible apply State.modFire_keeps
        exact h12
      clear_value x14
      extract_lets +onlyGivenNames x16
      clear_value x16
      extract_lets +onlyGivenNames x17
      clear_value x17
      with_reducible refine ite_keeps (P := State.Keeps a) ?_ ?_
      · with_reducible apply State.badRead_keeps
        exact h12
      · with_reducible apply State.sched_keeps
        exact h15
    clear_value x9
    extract_lets +onlyGivenNames x18
    clear_value x18
    extract_lets +onlyGivenNames x19
    clear_value x19
    extract_lets +onlyGivenNames x20
    clear_value x20
    with_reducible refine ite_keeps (P := State.Keeps a) ?_ ?_
    · exact h1
    · with_reducible refine ite_keeps (P := State.Keeps a) ?_ ?_
      · with_reducible refine ite_keeps (P := State.Keeps a) ?_ ?_
        · with_reducible apply State.sramTurn_keeps
          · exact h1
          · intro y21 h22
            with_reducible apply h11
            exact h22
        · with_reducible apply h11
          exact h1
      · with_reducible apply State.checkDone_keeps
        with_reducible apply State.answer_keeps
        exact h1

theorem execLoadReplay_keeps {a : State} {z1} (h1 : State.Keeps a z1) :
    OnNext (State.Keeps a) (execLoadReplay z1) := by
  unfold execLoadReplay
  extract_lets +onlyGivenNames x1
  clear_value x1
  extract_lets +onlyGivenNames x2
  clear_value x2
  refine OnNext.next ?_
  split
  · rename_i v3 v4
    exact h1
  · rename_i v5 v6 v7
    extract_lets +onlyGivenNames x8
    have h9 : State.Keeps a x8 := by
      unfold x8
      with_reducible apply State.withdraw_keeps
      exact h1
    clear_value x8
    extract_lets +onlyGivenNames x10
    clear_value x10
    with_reducible refine ite_keeps (P := State.Keeps a) ?_ ?_
    · exact h1
    · with_reducible refine ite_keeps (P := State.Keeps a) ?_ ?_
      · with_reducible apply State.sched_keeps
        exact h9
      · with_reducible apply State.sched_keeps
        exact h9

theorem State.replayLoads_keeps {a : State} {z1 z2 z3 z4 z5 z6} (h1 : State.Keeps a z1) :
    State.Keeps a (State.replayLoads z1 z2 z3 z4 z5 z6) := by
  unfold State.replayLoads
  extract_lets +onlyGivenNames x1
  clear_value x1
  refine foldl_keeps ?_ ?_
  · exact h1
  · intro y2 y3 h4
    with_reducible refine ite_keeps (P := State.Keeps a) ?_ ?_
    · with_reducible apply State.sched_keeps
      exact h4
    · exact h4

theorem State.nullStore_keeps {a : State} {z1 z2 z3} (h1 : State.Keeps a z1) :
    State.Keeps a (State.nullStore z1 z2 z3) := by
  unfold State.nullStore
  extract_lets +onlyGivenNames x1
  clear_value x1
  extract_lets +onlyGivenNames x2
  clear_value x2
  with_reducible apply State.modFire_keeps
  with_reducible apply State.sched_keeps
  exact h1

theorem State.storeFrame_keeps {a : State} {z1 z2 z3 z4} (h1 : State.Keeps a z1) (h4 : ∀ y1, State.Keeps a y1 → State.Keeps a (z4 y1)) :
    State.Keeps a (State.storeFrame z1 z2 z3 z4) := by
  unfold State.storeFrame
  split
  · rename_i v1 v2
    with_reducible apply h4
    exact h1
  · rename_i v3 v4
    with_reducible apply State.silent_keeps
    exact h1
  · rename_i v5 v6 v7
    with_reducible apply State.nullStore_keeps
    exact h1

theorem State.poisonCheck_keeps {a : State} {z1 z2 z3 z4} (h1 : State.Keeps a z1) (h4 : ∀ y1, State.Keeps a y1 → State.Keeps a (z4 y1)) :
    State.Keeps a (State.poisonCheck z1 z2 z3 z4) := by
  unfold State.poisonCheck
  split
  · rename_i v1 v2 v3
    with_reducible refine ite_keeps (P := State.Keeps a) ?_ ?_
    · with_reducible apply State.trap_keeps
      exact h1
    · with_reducible apply h4
      exact h1
  · rename_i v4 v5
    with_reducible apply h4
    exact h1

theorem State.store_keeps {a : State} {z1 z2 z3 z4 z5 z6 z7} (h1 : State.Keeps a z1) :
    State.Keeps a (State.store z1 z2 z3 z4 z5 z6 z7) := by
  unfold State.store
  with_reducible apply State.storeFrame_keeps
  · exact h1
  · intro y1 h2
    with_reducible apply State.accessM_keeps
    · exact h2
    · intro y3 y4 y5 y6 y7 h8
      with_reducible apply State.poisonCheck_keeps
      · exact h8
      · intro y9 h10
        extract_lets +onlyGivenNames x11
        clear_value x11
        extract_lets +onlyGivenNames x12
        clear_value x12
        extract_lets +onlyGivenNames x13
        have h14 : State.Keeps a x13 := by
          unfold x13
          with_reducible apply State.modFire_keeps
          exact h10
        clear_value x13
        extract_lets +onlyGivenNames x15
        have h16 : State.Keeps a x15 := by
          unfold x15
          with_reducible apply State.sched_keeps
          exact h14
        clear_value x15
        split
        · rename_i v17 v18 v19
          with_reducible apply State.replayLoads_keeps
          exact h16
        · rename_i v20 v21
          exact h16

theorem execStw_keeps {a : State} {z1 z2 z3 z4 z5} (h5 : State.Keeps a z5) :
    OnNext (State.Keeps a) (execStw z1 z2 z3 z4 z5) := by
  unfold execStw
  refine OnNext.next ?_
  with_reducible apply State.store_keeps
  exact h5

theorem execSth_keeps {a : State} {z1 z2 z3 z4 z5} (h5 : State.Keeps a z5) :
    OnNext (State.Keeps a) (execSth z1 z2 z3 z4 z5) := by
  unfold execSth
  refine OnNext.next ?_
  with_reducible apply State.store_keeps
  exact h5

theorem execStb_keeps {a : State} {z1 z2 z3 z4 z5} (h5 : State.Keeps a z5) :
    OnNext (State.Keeps a) (execStb z1 z2 z3 z4 z5) := by
  unfold execStb
  refine OnNext.next ?_
  with_reducible apply State.store_keeps
  exact h5

theorem execStm_keeps {a : State} {z1 z2 z3 z4 z5} (h5 : State.Keeps a z5) :
    OnNext (State.Keeps a) (execStm z1 z2 z3 z4 z5) := by
  unfold execStm
  refine OnNext.next ?_
  with_reducible apply State.store_keeps
  exact h5

theorem State.dupStore_keeps {a : State} {z1 z2 z3 z4 z5 z6 z7} (h1 : State.Keeps a z1) :
    State.Keeps a (State.dupStore z1 z2 z3 z4 z5 z6 z7) := by
  unfold State.dupStore
  with_reducible apply State.addReplay_keeps
  with_reducible apply State.takeTrap_keeps
  exact h1

theorem execStoreBufferPerform_keeps {a : State} {z1} (h1 : State.Keeps a z1) :
    OnNext (State.Keeps a) (execStoreBufferPerform z1) := by
  unfold execStoreBufferPerform
  extract_lets +onlyGivenNames x1
  clear_value x1
  extract_lets +onlyGivenNames x2
  clear_value x2
  extract_lets +onlyGivenNames x3
  clear_value x3
  refine OnNext.next ?_
  split
  · rename_i v4 v5 v6 v7 v8 v9
    extract_lets +onlyGivenNames x10
    clear_value x10
    extract_lets +onlyGivenNames x11
    clear_value x11
    extract_lets +onlyGivenNames x12
    clear_value x12
    extract_lets +onlyGivenNames x13
    clear_value x13
    extract_lets +onlyGivenNames x14
    have h15 : State.Keeps a x14 := by
      unfold x14
      with_reducible apply State.modAct_keeps
      exact h1
    clear_value x14
    extract_lets +onlyGivenNames x16
    have h17 : State.Keeps a x16 := by
      unfold x16
      with_reducible apply State.modFire_keeps
      exact h15
    clear_value x16
    extract_lets +onlyGivenNames x18
    have h19 : State.Keeps a x18 := by
      unfold x18
      with_reducible refine ite_keeps (P := State.Keeps a) ?_ ?_
      · exact h17
      · with_reducible apply State.replayLoads_keeps
        exact h17
    clear_value x18
    with_reducible refine ite_keeps (P := State.Keeps a) ?_ ?_
    · with_reducible apply State.dupStore_keeps
      exact h1
    · with_reducible apply State.checkDone_keeps
      with_reducible apply State.wake_keeps
      exact h19
  · rename_i v20 v21 v22
    exact h1

theorem State.post_keeps {a : State} {z1 z2 z3 z4} (h1 : State.Keeps a z1) :
    State.Keeps a (State.post z1 z2 z3 z4) := by
  unfold State.post
  extract_lets +onlyGivenNames x1
  clear_value x1
  extract_lets +onlyGivenNames x2
  clear_value x2
  extract_lets +onlyGivenNames x3
  clear_value x3
  extract_lets +onlyGivenNames x4
  clear_value x4
  extract_lets +onlyGivenNames x5
  have h6 : State.Keeps a x5 := by
    unfold x5
    with_reducible apply State.modPart_keeps
    exact h1
  clear_value x5
  with_reducible apply State.sched_keeps
  exact h6

theorem State.multicast_keeps {a : State} {z1 z2 z3 z4 z5 z6 z7} (h1 : State.Keeps a z1) :
    State.Keeps a (State.multicast z1 z2 z3 z4 z5 z6 z7) := by
  unfold State.multicast
  refine foldl_keeps ?_ ?_
  · exact h1
  · intro y1 y2 h3
    extract_lets +onlyGivenNames x4
    clear_value x4
    extract_lets +onlyGivenNames x5
    clear_value x5
    extract_lets +onlyGivenNames x6
    clear_value x6
    extract_lets +onlyGivenNames x7
    have h8 : State.Keeps a x7 := by
      unfold x7
      with_reducible apply State.modPart_keeps
      exact h3
    clear_value x7
    with_reducible apply State.sched_keeps
    exact h8

theorem State.commitStores_keeps {a : State} {z1 z2 z3 z4} (h1 : State.Keeps a z1) :
    State.Keeps a (State.commitStores z1 z2 z3 z4) := by
  unfold State.commitStores
  extract_lets +onlyGivenNames x1
  clear_value x1
  extract_lets +onlyGivenNames x2
  clear_value x2
  extract_lets +onlyGivenNames x3
  have h4 : State.Keeps a x3 := by
    unfold x3
    refine State.Keeps.upd (s := z1) rfl rfl rfl rfl ?_
    exact h1
  clear_value x3
  extract_lets +onlyGivenNames x5
  have h6 : State.Keeps a x5 := by
    unfold x5
    refine foldl_keeps ?_ ?_
    · exact h4
    · intro y7 y8 h9
      with_reducible apply State.post_keeps
      exact h9
  clear_value x5
  extract_lets +onlyGivenNames x10
  have h11 : State.Keeps a x10 := by
    unfold x10
    refine foldl_keeps ?_ ?_
    · exact h6
    · intro y12 y13 h14
      with_reducible refine ite_keeps (P := State.Keeps a) ?_ ?_
      · with_reducible apply State.reportPoison_keeps
        exact h14
      · exact h14
  clear_value x10
  extract_lets +onlyGivenNames x15
  have h16 : State.Keeps a x15 := by
    unfold x15
    refine foldl_keeps ?_ ?_
    · exact h11
    · intro y17 y18 h19
      split
      · rename_i v20 v21 v22 v23 v24 v25
        with_reducible refine ite_keeps (P := State.Keeps a) ?_ ?_
        · exact h19
        · with_reducible apply State.reportPoison_keeps
          exact h19
      · rename_i v26 v27 v28
        exact h19
  clear_value x15
  refine foldl_keeps ?_ ?_
  · exact h16
  · intro y29 y30 h31
    split
    · rename_i v32 v33 v34
      with_reducible apply State.multicast_keeps
      exact h31
    · rename_i v35 v36
      exact h31

theorem execChannelWrite_keeps {a : State} {z1} (h1 : State.Keeps a z1) :
    OnNext (State.Keeps a) (execChannelWrite z1) := by
  unfold execChannelWrite
  refine OnNext.next ?_
  with_reducible apply State.performPosted_keeps
  exact h1

theorem execTileSramStore_keeps {a : State} {z1} (h1 : State.Keeps a z1) :
    OnNext (State.Keeps a) (execTileSramStore z1) := by
  unfold execTileSramStore
  refine OnNext.next ?_
  split
  · rename_i v1 v2
    exact h1
  · rename_i v3 v4 v5
    with_reducible apply State.sramTurn_keeps
    · exact h1
    · intro y6 h7
      with_reducible apply State.performPosted_keeps
      exact h7

theorem execHostMemoryWrite_keeps {a : State} {z1} (h1 : State.Keeps a z1) :
    OnNext (State.Keeps a) (execHostMemoryWrite z1) := by
  unfold execHostMemoryWrite
  refine OnNext.next ?_
  with_reducible apply State.performPosted_keeps
  exact h1

theorem State.startFe_keeps {a : State} {z1 z2 z3 z4 z5} (h1 : State.Keeps a z1) :
    State.Keeps a (State.startFe z1 z2 z3 z4 z5) := by
  unfold State.startFe
  extract_lets +onlyGivenNames x1
  clear_value x1
  extract_lets +onlyGivenNames x2
  clear_value x2
  extract_lets +onlyGivenNames x3
  have h4 : State.Keeps a x3 := by
    unfold x3
    with_reducible apply State.modFire_keeps
    exact h1
  clear_value x3
  with_reducible apply State.sched_keeps
  exact h4

theorem State.feLoad_keeps {a : State} {z1 z2 z3 z4 z5 z6} (h1 : State.Keeps a z1) :
    State.Keeps a (State.feLoad z1 z2 z3 z4 z5 z6) := by
  unfold State.feLoad
  with_reducible apply State.frame_keeps
  · exact h1
  · intro y1 h2
    with_reducible apply State.accessM_keeps
    · exact h2
    · intro y3 y4 y5 y6 y7 h8
      with_reducible apply State.startFe_keeps
      exact h8

theorem State.feStore_keeps {a : State} {z1 z2 z3 z4 z5 z6} (h1 : State.Keeps a z1) :
    State.Keeps a (State.feStore z1 z2 z3 z4 z5 z6) := by
  unfold State.feStore
  with_reducible apply State.storeFrame_keeps
  · exact h1
  · intro y1 h2
    with_reducible apply State.accessM_keeps
    · exact h2
    · intro y3 y4 y5 y6 y7 h8
      with_reducible refine ite_keeps (P := State.Keeps a) ?_ ?_
      · with_reducible apply State.startFe_keeps
        exact h8
      · with_reducible apply State.poisonCheck_keeps
        · exact h8
        · intro y9 h10
          with_reducible apply State.startFe_keeps
          exact h10

theorem execLdf_keeps {a : State} {z1 z2 z3 z4 z5 z6} (h6 : State.Keeps a z6) :
    OnNext (State.Keeps a) (execLdf z1 z2 z3 z4 z5 z6) := by
  unfold execLdf
  refine OnNext.next ?_
  with_reducible apply State.feLoad_keeps
  exact h6

theorem execLdx_keeps {a : State} {z1 z2 z3 z4 z5 z6} (h6 : State.Keeps a z6) :
    OnNext (State.Keeps a) (execLdx z1 z2 z3 z4 z5 z6) := by
  unfold execLdx
  refine OnNext.next ?_
  with_reducible apply State.feLoad_keeps
  exact h6

theorem execSte_keeps {a : State} {z1 z2 z3 z4 z5} (h5 : State.Keeps a z5) :
    OnNext (State.Keeps a) (execSte z1 z2 z3 z4 z5) := by
  unfold execSte
  refine OnNext.next ?_
  with_reducible apply State.feStore_keeps
  exact h5

theorem execStf_keeps {a : State} {z1 z2 z3 z4 z5} (h5 : State.Keeps a z5) :
    OnNext (State.Keeps a) (execStf z1 z2 z3 z4 z5) := by
  unfold execStf
  refine OnNext.next ?_
  with_reducible apply State.feStore_keeps
  exact h5

theorem execClre_keeps {a : State} {z1 z2 z3 z4 z5} (h5 : State.Keeps a z5) :
    OnNext (State.Keeps a) (execClre z1 z2 z3 z4 z5) := by
  unfold execClre
  refine OnNext.next ?_
  with_reducible apply State.feStore_keeps
  exact h5

theorem State.feStored_keeps {a : State} {z1 z2 z3 z4 z5} (h1 : State.Keeps a z1) :
    State.Keeps a (State.feStored z1 z2 z3 z4 z5) := by
  unfold State.feStored
  extract_lets +onlyGivenNames x1
  have h2 : State.Keeps a x1 := by
    unfold x1
    split
    · rename_i v3 v4 v5
      with_reducible refine ite_keeps (P := State.Keeps a) ?_ ?_
      · exact h1
      · with_reducible apply State.reportPoison_keeps
        exact h1
    · rename_i v6 v7
      exact h1
  clear_value x1
  extract_lets +onlyGivenNames x8
  have h9 : State.Keeps a x8 := by
    unfold x8
    with_reducible apply State.modAct_keeps
    exact h2
  clear_value x8
  with_reducible apply State.checkDone_keeps
  with_reducible apply State.modFire_keeps
  exact h9

theorem State.feReturn_keeps {a : State} {z1 z2 z3 z4 z5 z6} (h1 : State.Keeps a z1) :
    State.Keeps a (State.feReturn z1 z2 z3 z4 z5 z6) := by
  unfold State.feReturn
  extract_lets +onlyGivenNames x1
  clear_value x1
  with_reducible apply State.checkDone_keeps
  with_reducible apply State.answer_keeps
  exact h1

end Sys2Proof.Machine
end

