-- ==== Sys2Proof/Laws/Keep2.lean ====
section
/-! SUPPORT. Sys2Proof/Laws/Keep2.lean: for each operation of the model, that it keeps the clock and the canonical forms of memory
(part 2, in the order of the definitions). -/

namespace Sys2Proof.Machine

theorem State.feWrite_keeps {a : State} {z1 z2 z3} (h1 : State.Keeps a z1) :
    State.Keeps a (State.feWrite z1 z2 z3) := by
  unfold State.feWrite
  refine State.Keeps.set (s := z1) rfl rfl (fun w => ⟨(Mem.sets_wf w.1), (Fe.set_ok w.2)⟩) ?_
  exact h1

theorem State.feLeave_keeps {a : State} {z1 z2 z3} (h1 : State.Keeps a z1) :
    State.Keeps a (State.feLeave z1 z2 z3) := by
  unfold State.feLeave
  extract_lets +onlyGivenNames x1
  have h2 : State.Keeps a x1 := by
    unfold x1
    with_reducible apply State.modPart_keeps
    exact h1
  clear_value x1
  with_reducible apply State.feRetry_keeps
  with_reducible apply State.endWait_keeps
  exact h2

theorem State.feServe_keeps {a : State} {z1 z2 z3 z4} (h1 : State.Keeps a z1) :
    State.Keeps a (State.feServe z1 z2 z3 z4) := by
  induction z4 generalizing z1 z2 z3 with
  | zero =>
    unfold State.feServe
    exact h1
  | succ n ih =>
    unfold State.feServe
    split
    · rename_i v1 v2
      exact h1
    · rename_i v3 v4 v5 v6 v7
      extract_lets +onlyGivenNames x8
      clear_value x8
      extract_lets +onlyGivenNames x9
      clear_value x9
      extract_lets +onlyGivenNames x10
      clear_value x10
      with_reducible refine ite_keeps (P := State.Keeps a) ?_ ?_
      · split
        · rename_i v11
          with_reducible apply ih
          with_reducible apply State.feLeave_keeps
          with_reducible apply State.feReturn_keeps
          exact h1
        · rename_i v12
          with_reducible apply ih
          with_reducible apply State.feLeave_keeps
          with_reducible apply State.feReturn_keeps
          refine State.Keeps.set (s := z1) rfl rfl (fun w => ⟨w.1, (Fe.clr_ok w.2)⟩) ?_
          exact h1
        · rename_i v13 v14 v15
          exact h1
      · with_reducible refine ite_keeps (P := State.Keeps a) ?_ ?_
        · with_reducible refine ite_keeps (P := State.Keeps a) ?_ ?_
          · with_reducible apply ih
            with_reducible apply State.feLeave_keeps
            with_reducible apply State.trapFire_keeps
            exact h1
          · with_reducible apply ih
            with_reducible apply State.feLeave_keeps
            with_reducible apply State.feStored_keeps
            with_reducible apply State.feWrite_keeps
            with_reducible apply State.flush_keeps
            exact h1
        · exact h1

theorem State.fePark_keeps {a : State} {z1 z2 z3 z4 z5} (h1 : State.Keeps a z1) :
    State.Keeps a (State.fePark z1 z2 z3 z4 z5) := by
  unfold State.fePark
  extract_lets +onlyGivenNames x1
  clear_value x1
  extract_lets +onlyGivenNames x2
  clear_value x2
  extract_lets +onlyGivenNames x3
  clear_value x3
  extract_lets +onlyGivenNames x4
  have h5 : State.Keeps a x4 := by
    unfold x4
    with_reducible refine ite_keeps (P := State.Keeps a) ?_ ?_
    · refine OnSome.getD ?_ ?_
      · with_reducible apply State.devEntry_keeps
        exact h1
      · exact h1
    · exact h1
  clear_value x4
  extract_lets +onlyGivenNames x6
  have h7 : State.Keeps a x6 := by
    unfold x6
    with_reducible apply State.modPart_keeps
    exact h5
  clear_value x6
  extract_lets +onlyGivenNames x8
  have h9 : State.Keeps a x8 := by
    unfold x8
    with_reducible apply State.modFire_keeps
    exact h7
  clear_value x8
  extract_lets +onlyGivenNames x10
  clear_value x10
  with_reducible refine ite_keeps (P := State.Keeps a) ?_ ?_
  · with_reducible refine ite_keeps (P := State.Keeps a) ?_ ?_
    · exact h9
    · with_reducible apply State.bumpCsr_keeps
      exact h9
  · with_reducible refine ite_keeps (P := State.Keeps a) ?_ ?_
    · with_reducible apply State.enterWait_keeps
      exact h9
    · exact h9

theorem execFullEmptyAct_keeps {a : State} {z1} (h1 : State.Keeps a z1) :
    OnNext (State.Keeps a) (execFullEmptyAct z1) := by
  unfold execFullEmptyAct
  extract_lets +onlyGivenNames x1
  clear_value x1
  extract_lets +onlyGivenNames x2
  clear_value x2
  refine OnNext.next ?_
  split
  · rename_i v3 v4
    exact h1
  · rename_i v5 v6 v7
    with_reducible refine ite_keeps (P := State.Keeps a) ?_ ?_
    · exact h1
    · with_reducible refine ite_keeps (P := State.Keeps a) ?_ ?_
      · with_reducible apply State.trapFire_keeps
        exact h1
      · split
        · rename_i v8 v9 v10
          with_reducible apply State.sched_keeps
          exact h1
        · rename_i v11 v12
          with_reducible apply State.sramTurn_keeps
          · exact h1
          · intro y13 h14
            extract_lets +onlyGivenNames x15
            have h16 : State.Keeps a x15 := by
              unfold x15
              with_reducible apply State.flush_keeps
              exact h14
            clear_value x15
            extract_lets +onlyGivenNames x17
            clear_value x17
            extract_lets +onlyGivenNames x18
            clear_value x18
            extract_lets +onlyGivenNames x19
            clear_value x19
            extract_lets +onlyGivenNames x20
            have h22 : ∀ y21, State.Keeps a y21 → State.Keeps a (x20 y21) := by
              intro y21 h23
              unfold x20
              with_reducible apply State.feServe_keeps
              with_reducible apply State.wregStatus_keeps
              exact h23
            clear_value x20
            extract_lets +onlyGivenNames x24
            have h25 : State.Keeps a x24 := by
              unfold x24
              with_reducible apply State.fePark_keeps
              exact h16
            clear_value x24
            split
            · rename_i v26 v27
              with_reducible refine ite_keeps (P := State.Keeps a) ?_ ?_
              · with_reducible apply h22
                with_reducible apply State.feReturn_keeps
                exact h16
              · exact h25
            · rename_i v28 v29
              with_reducible refine ite_keeps (P := State.Keeps a) ?_ ?_
              · with_reducible apply h22
                with_reducible apply State.feReturn_keeps
                refine State.Keeps.set (s := x15) rfl rfl (fun w => ⟨w.1, (Fe.clr_ok w.2)⟩) ?_
                exact h16
              · exact h25
            · rename_i v30 v31
              with_reducible refine ite_keeps (P := State.Keeps a) ?_ ?_
              · exact h25
              · with_reducible apply h22
                with_reducible apply State.feStored_keeps
                with_reducible apply State.feWrite_keeps
                exact h16
            · rename_i v32 v33
              with_reducible apply h22
              with_reducible apply State.feStored_keeps
              with_reducible apply State.feWrite_keeps
              exact h16
            · rename_i v34 v35 v36 v37 v38
              with_reducible apply h22
              with_reducible apply State.feStored_keeps
              refine State.Keeps.set (s := x15) rfl rfl (fun w => ⟨w.1, (Fe.clr_ok w.2)⟩) ?_
              exact h16

theorem State.setObj_keeps {a : State} {z1 z2 z3} (h1 : State.Keeps a z1) :
    State.Keeps a (State.setObj z1 z2 z3) := by
  unfold State.setObj
  extract_lets +onlyGivenNames x1
  clear_value x1
  extract_lets +onlyGivenNames x2
  have h5 : ∀ y3 y4, State.Keeps a y3 → State.Keeps a (x2 y3 y4) := by
    intro y3 y4 h6
    unfold x2
    with_reducible apply State.modPart_keeps
    exact h6
  clear_value x2
  extract_lets +onlyGivenNames x7
  clear_value x7
  with_reducible refine ite_keeps (P := State.Keeps a) ?_ ?_
  · with_reducible apply h5
    exact h1
  · split
    · rename_i v8 v9 v10
      have h11 : State.Keeps a v9 := by
        refine OnSome.get ?_ v10
        with_reducible apply State.devWrite_keeps
        exact h1
      with_reducible apply h5
      refine State.Keeps.upd (s := v9) rfl rfl rfl rfl ?_
      exact h11
    · rename_i v12 v13
      exact h1

theorem State.withObjs_keeps {a : State} {z1 z2 z3 z4 z5 z6} (h1 : State.Keeps a z1) (h6 : ∀ y1, State.Keeps a y1 → State.Keeps a (z6 y1)) :
    State.Keeps a (State.withObjs z1 z2 z3 z4 z5 z6) := by
  unfold State.withObjs
  split
  · rename_i v1 v2 v3
    with_reducible apply State.trapFire_keeps
    exact h1
  · rename_i v4 v5
    with_reducible apply h6
    exact h1

theorem State.wordChanged_keeps {a : State} {z1 z2 z3 z4} (h1 : State.Keeps a z1) :
    State.Keeps a (State.wordChanged z1 z2 z3 z4) := by
  unfold State.wordChanged
  extract_lets +onlyGivenNames x1
  clear_value x1
  extract_lets +onlyGivenNames x2
  clear_value x2
  refine foldl_keeps ?_ ?_
  · refine State.Keeps.upd (s := z1) rfl rfl rfl rfl ?_
    exact h1
  · intro y3 y4 h5
    with_reducible apply State.sched_keeps
    exact h5

theorem State.syncAnswer_keeps {a : State} {z1 z2 z3 z4 z5 z6 z7} (h1 : State.Keeps a z1) :
    State.Keeps a (State.syncAnswer z1 z2 z3 z4 z5 z6 z7) := by
  unfold State.syncAnswer
  extract_lets +onlyGivenNames x1
  clear_value x1
  extract_lets +onlyGivenNames x2
  clear_value x2
  extract_lets +onlyGivenNames x3
  clear_value x3
  extract_lets +onlyGivenNames x4
  clear_value x4
  extract_lets +onlyGivenNames x5
  have h6 : State.Keeps a x5 := by
    unfold x5
    with_reducible apply State.send_keeps
    exact h1
  clear_value x5
  extract_lets +onlyGivenNames x7
  have h8 : State.Keeps a x7 := by
    unfold x7
    split
    · rename_i v9 v10
      with_reducible apply State.send_keeps
      exact h6
    · rename_i v11
      exact h6
  clear_value x7
  with_reducible apply State.checkDone_keeps
  with_reducible apply State.modFire_keeps
  exact h8

theorem State.syncOne_keeps {a : State} {z1 z2 z3 z4 z5 z6} (h1 : State.Keeps a z1) :
    State.Keeps a (State.syncOne z1 z2 z3 z4 z5 z6) := by
  unfold State.syncOne
  with_reducible apply State.syncAnswer_keeps
  exact h1

theorem State.syncFault_keeps {a : State} {z1 z2 z3 z4 z5} (h1 : State.Keeps a z1) :
    State.Keeps a (State.syncFault z1 z2 z3 z4 z5) := by
  unfold State.syncFault
  with_reducible apply State.trapFire_keeps
  exact h1

theorem State.syncPark_keeps {a : State} {z1 z2 z3 z4 z5 z6} (h1 : State.Keeps a z1) :
    State.Keeps a (State.syncPark z1 z2 z3 z4 z5 z6) := by
  unfold State.syncPark
  extract_lets +onlyGivenNames x1
  have h2 : State.Keeps a x1 := by
    unfold x1
    with_reducible apply State.setObj_keeps
    exact h1
  clear_value x1
  with_reducible apply State.enterWait_keeps
  with_reducible apply State.modFire_keeps
  exact h2

theorem State.reportStored_keeps {a : State} {z1 z2 z3 z4} (h1 : State.Keeps a z1) :
    State.Keeps a (State.reportStored z1 z2 z3 z4) := by
  unfold State.reportStored
  split
  · rename_i v1 v2 v3
    with_reducible apply State.reportPoison_keeps
    exact h1
  · rename_i v4 v5
    exact h1

theorem State.amo_keeps {a : State} {z1 z2 z3 z4 z5} (h1 : State.Keeps a z1) :
    State.Keeps a (State.amo z1 z2 z3 z4 z5) := by
  unfold State.amo
  extract_lets +onlyGivenNames x1
  clear_value x1
  extract_lets +onlyGivenNames x2
  have h4 : ∀ y3, State.Keeps a (x2 y3) := by
    intro y3
    unfold x2
    extract_lets +onlyGivenNames x5
    clear_value x5
    extract_lets +onlyGivenNames x6
    have h7 : State.Keeps a x6 := by
      unfold x6
      with_reducible apply State.wordChanged_keeps
      with_reducible apply State.setObj_keeps
      exact h1
    clear_value x6
    extract_lets +onlyGivenNames x8
    clear_value x8
    extract_lets +onlyGivenNames x9
    have h10 : OnFst (State.Keeps a) x9 := by
      unfold x9
      with_reducible apply State.newOrigin_keeps
      exact h7
    clear_value x9
    extract_lets +onlyGivenNames x11
    have h12 : State.Keeps a x11 := by
      unfold x11
      with_reducible refine ite_keeps (P := State.Keeps a) ?_ ?_
      · with_reducible apply State.reportStored_keeps
        exact h7
      · split
        · rename_i v13 v14 v15
          with_reducible apply State.reportPoison_keeps
          exact h7
        · rename_i v16 v17
          with_reducible apply State.reportPoison_keeps
          exact h10
    clear_value x11
    with_reducible apply State.syncOne_keeps
    exact h12
  clear_value x2
  split
  · rename_i v18 v19
    with_reducible apply h4
  · rename_i v20 v21 v22
    with_reducible apply h4
  · rename_i v23 v24 v25
    with_reducible apply State.syncFault_keeps
    exact h1

theorem State.lockPass_keeps {a : State} {z1 z2 z3} (h1 : State.Keeps a z1) :
    State.Keeps a (State.lockPass z1 z2 z3) := by
  unfold State.lockPass
  split
  · rename_i v1 v2
    with_reducible apply State.setObj_keeps
    exact h1
  · rename_i v3 v4 v5 v6
    extract_lets +onlyGivenNames x7
    clear_value x7
    extract_lets +onlyGivenNames x8
    clear_value x8
    extract_lets +onlyGivenNames x9
    have h10 : State.Keeps a x9 := by
      unfold x9
      with_reducible apply State.setObj_keeps
      exact h1
    clear_value x9
    extract_lets +onlyGivenNames x11
    have h12 : State.Keeps a x11 := by
      unfold x11
      with_reducible apply State.enterHold_keeps
      with_reducible apply State.endWait_keeps
      exact h10
    clear_value x11
    with_reducible apply State.syncAnswer_keeps
    exact h12

theorem State.lockTake_keeps {a : State} {z1 z2 z3 z4 z5} (h1 : State.Keeps a z1) :
    State.Keeps a (State.lockTake z1 z2 z3 z4 z5) := by
  unfold State.lockTake
  extract_lets +onlyGivenNames x1
  clear_value x1
  with_reducible apply State.enterHold_keeps
  with_reducible apply State.setObj_keeps
  exact h1

theorem State.lockOp_keeps {a : State} {z1 z2 z3 z4 z5} (h1 : State.Keeps a z1) :
    State.Keeps a (State.lockOp z1 z2 z3 z4 z5) := by
  unfold State.lockOp
  extract_lets +onlyGivenNames x1
  clear_value x1
  extract_lets +onlyGivenNames x2
  clear_value x2
  extract_lets +onlyGivenNames x3
  clear_value x3
  split
  · rename_i v4 v5
    with_reducible apply State.syncFault_keeps
    exact h1
  · rename_i v6 v7
    with_reducible apply State.syncAnswer_keeps
    with_reducible apply State.wregStatus_keeps
    with_reducible apply State.lockTake_keeps
    exact h1
  · rename_i v8 v9 v10
    with_reducible apply State.syncPark_keeps
    exact h1
  · rename_i v11 v12
    with_reducible apply State.syncOne_keeps
    with_reducible apply State.lockTake_keeps
    exact h1
  · rename_i v13 v14 v15
    with_reducible apply State.syncOne_keeps
    exact h1
  · rename_i v16 v17 v18 v19 v20 v21 v22
    extract_lets +onlyGivenNames x23
    clear_value x23
    with_reducible refine ite_keeps (P := State.Keeps a) ?_ ?_
    · with_reducible apply State.lockPass_keeps
      with_reducible apply State.syncOne_keeps
      with_reducible apply State.endHold_keeps
      exact h1
    · with_reducible apply State.syncFault_keeps
      exact h1

theorem State.barRelease_keeps {a : State} {z1 z2 z3 z4 z5} (h1 : State.Keeps a z1) :
    State.Keeps a (State.barRelease z1 z2 z3 z4 z5) := by
  unfold State.barRelease
  refine foldl_keeps ?_ ?_
  · exact h1
  · intro y1 y2 h3
    with_reducible apply State.syncAnswer_keeps
    with_reducible apply State.endWait_keeps
    exact h3

theorem State.releaseSaved_keeps {a : State} {z1 z2 z3 z4 z5} (h1 : State.Keeps a z1) :
    State.Keeps a (State.releaseSaved z1 z2 z3 z4 z5) := by
  unfold State.releaseSaved
  extract_lets +onlyGivenNames x1
  clear_value x1
  extract_lets +onlyGivenNames x2
  have h3 : State.Keeps a x2 := by
    unfold x2
    with_reducible apply State.send_keeps
    exact h1
  clear_value x2
  with_reducible apply State.modInst_keeps
  exact h3

theorem State.barArrive_keeps {a : State} {z1 z2 z3 z4 z5 z6} (h1 : State.Keeps a z1) :
    OnFst (State.Keeps a) (State.barArrive z1 z2 z3 z4 z5 z6) := by
  unfold State.barArrive
  extract_lets +onlyGivenNames x1
  clear_value x1
  extract_lets +onlyGivenNames x2
  have h3 : State.Keeps a x2 := by
    unfold x2
    with_reducible apply State.barRelease_keeps
    with_reducible apply State.setObj_keeps
    exact h1
  clear_value x2
  with_reducible refine ite_keeps (P := OnFst (State.Keeps a)) ?_ ?_
  · refine OnFst.mk ?_
    refine foldl_keeps ?_ ?_
    · exact h3
    · intro y4 y5 h6
      with_reducible apply State.releaseSaved_keeps
      exact h6
  · refine OnFst.mk ?_
    with_reducible apply State.setObj_keeps
    exact h1

theorem State.barOp_keeps {a : State} {z1 z2 z3 z4 z5} (h1 : State.Keeps a z1) :
    State.Keeps a (State.barOp z1 z2 z3 z4 z5) := by
  unfold State.barOp
  extract_lets +onlyGivenNames x1
  clear_value x1
  extract_lets +onlyGivenNames x2
  clear_value x2
  extract_lets +onlyGivenNames x3
  clear_value x3
  split
  · rename_i v4 v5 v6
    with_reducible refine ite_keeps (P := State.Keeps a) ?_ ?_
    · with_reducible apply State.syncFault_keeps
      exact h1
    · with_reducible refine ite_keeps (P := State.Keeps a) ?_ ?_
      · with_reducible apply State.syncFault_keeps
        exact h1
      · with_reducible apply State.syncOne_keeps
        with_reducible apply State.reportStored_keeps
        with_reducible apply State.setObj_keeps
        exact h1
  · rename_i v7 v8 v9 v10 v11 v12
    with_reducible refine ite_keeps (P := State.Keeps a) ?_ ?_
    · with_reducible apply State.syncFault_keeps
      exact h1
    · with_reducible refine ite_keeps (P := State.Keeps a) ?_ ?_
      · with_reducible apply State.syncFault_keeps
        exact h1
      · with_reducible apply State.syncOne_keeps
        with_reducible apply State.reportStored_keeps
        with_reducible apply State.setObj_keeps
        exact h1
  · rename_i v13 v14 v15 v16 v17 v18
    extract_lets +onlyGivenNames x19
    have h20 : State.Keeps a x19 := by
      unfold x19
      with_reducible apply State.endHold_keeps
      exact h1
    clear_value x19
    with_reducible apply State.syncOne_keeps
    refine OnFst.fst ?_
    with_reducible apply State.barArrive_keeps
    exact h20
  · rename_i v21 v22 v23 v24 v25 v26
    with_reducible apply State.syncPark_keeps
    exact h1
  · rename_i v27 v28 v29 v30 v31 v32 v33 v34 v35 v36
    extract_lets +onlyGivenNames x37
    have h38 : State.Keeps a x37 := by
      unfold x37
      with_reducible apply State.endHold_keeps
      exact h1
    clear_value x37
    extract_lets +onlyGivenNames x39
    have h40 : OnFst (State.Keeps a) x39 := by
      unfold x39
      with_reducible apply State.barArrive_keeps
      exact h38
    clear_value x39
    extract_lets +onlyGivenNames x41
    have h42 : State.Keeps a x41 := by
      unfold x41
      with_reducible apply State.modFire_keeps
      exact h40
    clear_value x41
    with_reducible refine ite_keeps (P := State.Keeps a) ?_ ?_
    · with_reducible apply State.syncAnswer_keeps
      with_reducible apply State.wregStatus_keeps
      exact h40
    · with_reducible apply State.syncPark_keeps
      exact h42
  · rename_i v43 v44 v45 v46 v47 v48 v49 v50
    with_reducible apply State.syncFault_keeps
    exact h1

theorem State.setEntry_keeps {a : State} {z1 z2 z3 z4 z5} (h1 : State.Keeps a z1) :
    State.Keeps a (State.setEntry z1 z2 z3 z4 z5) := by
  unfold State.setEntry
  extract_lets +onlyGivenNames x1
  clear_value x1
  split
  · rename_i v2 v3 v4 v5 v6 v7 v8
    extract_lets +onlyGivenNames x9
    clear_value x9
    with_reducible apply State.setObj_keeps
    exact h1
  · rename_i v10 v11
    exact h1

theorem State.qAppend_keeps {a : State} {z1 z2 z3 z4 z5 z6 z7 z8} (h1 : State.Keeps a z1) :
    State.Keeps a (State.qAppend z1 z2 z3 z4 z5 z6 z7 z8) := by
  unfold State.qAppend
  extract_lets +onlyGivenNames x1
  have h2 : State.Keeps a x1 := by
    unfold x1
    with_reducible apply State.setEntry_keeps
    exact h1
  clear_value x1
  extract_lets +onlyGivenNames x3
  clear_value x3
  with_reducible apply State.setObj_keeps
  exact h2

theorem State.qRefill_keeps {a : State} {z1 z2 z3} (h1 : State.Keeps a z1) :
    State.Keeps a (State.qRefill z1 z2 z3) := by
  unfold State.qRefill
  extract_lets +onlyGivenNames x1
  clear_value x1
  split
  · rename_i v2 v3 v4 v5 v6 v7
    split
    · rename_i v8 v9
      exact h1
    · rename_i v10 v11 v12 v13
      extract_lets +onlyGivenNames x14
      have h15 : State.Keeps a x14 := by
        unfold x14
        with_reducible apply State.setObj_keeps
        exact h1
      clear_value x14
      with_reducible apply State.withObjs_keeps
      · exact h15
      · intro y16 h17
        with_reducible apply State.syncOne_keeps
        with_reducible apply State.reportStored_keeps
        with_reducible apply State.endWait_keeps
        with_reducible apply State.qAppend_keeps
        exact h17
  · rename_i v18 v19
    exact h1

theorem State.qPush_keeps {a : State} {z1 z2 z3 z4 z5 z6 z7 z8 z9} (h1 : State.Keeps a z1) :
    State.Keeps a (State.qPush z1 z2 z3 z4 z5 z6 z7 z8 z9) := by
  unfold State.qPush
  extract_lets +onlyGivenNames x1
  clear_value x1
  split
  · rename_i v2 v3 v4 v5
    extract_lets +onlyGivenNames x6
    have h7 : State.Keeps a x6 := by
      unfold x6
      with_reducible apply State.syncAnswer_keeps
      with_reducible apply State.endWait_keeps
      with_reducible apply State.setObj_keeps
      exact h1
    clear_value x6
    with_reducible apply State.syncOne_keeps
    with_reducible apply State.wregStatus_keeps
    with_reducible apply State.reportStored_keeps
    exact h7
  · rename_i v8 v9
    with_reducible refine ite_keeps (P := State.Keeps a) ?_ ?_
    · with_reducible apply State.syncPark_keeps
      exact h1
    · with_reducible apply State.withObjs_keeps
      · exact h1
      · intro y10 h11
        with_reducible apply State.syncOne_keeps
        with_reducible apply State.wregStatus_keeps
        with_reducible apply State.reportStored_keeps
        with_reducible apply State.qAppend_keeps
        exact h11

theorem State.qTake_keeps {a : State} {z1 z2 z3 z4 z5 z6 z7 z8 z9 z10 z11} (h1 : State.Keeps a z1) :
    State.Keeps a (State.qTake z1 z2 z3 z4 z5 z6 z7 z8 z9 z10 z11) := by
  unfold State.qTake
  with_reducible apply State.withObjs_keeps
  · exact h1
  · intro y1 h2
    extract_lets +onlyGivenNames x3
    clear_value x3
    extract_lets +onlyGivenNames x4
    have h5 : State.Keeps a x4 := by
      unfold x4
      with_reducible apply State.setObj_keeps
      exact h2
    clear_value x4
    with_reducible apply State.qRefill_keeps
    with_reducible apply State.syncAnswer_keeps
    exact h5

theorem State.qClose_keeps {a : State} {z1 z2 z3 z4 z5 z6 z7 z8 z9} (h1 : State.Keeps a z1) :
    State.Keeps a (State.qClose z1 z2 z3 z4 z5 z6 z7 z8 z9) := by
  unfold State.qClose
  extract_lets +onlyGivenNames x1
  clear_value x1
  extract_lets +onlyGivenNames x2
  have h3 : State.Keeps a x2 := by
    unfold x2
    with_reducible apply State.setObj_keeps
    exact h1
  clear_value x2
  extract_lets +onlyGivenNames x4
  have h5 : State.Keeps a x4 := by
    unfold x4
    refine foldl_keeps ?_ ?_
    · exact h3
    · intro y6 y7 h8
      extract_lets +onlyGivenNames x9
      clear_value x9
      with_reducible apply State.syncAnswer_keeps
      with_reducible apply State.endWait_keeps
      exact h8
  clear_value x4
  with_reducible apply State.syncOne_keeps
  exact h5

theorem State.qInit_keeps {a : State} {z1 z2 z3 z4 z5 z6} (h1 : State.Keeps a z1) :
    State.Keeps a (State.qInit z1 z2 z3 z4 z5 z6) := by
  unfold State.qInit
  extract_lets +onlyGivenNames x1
  clear_value x1
  extract_lets +onlyGivenNames x2
  clear_value x2
  extract_lets +onlyGivenNames x3
  clear_value x3
  extract_lets +onlyGivenNames x4
  clear_value x4
  extract_lets +onlyGivenNames x5
  clear_value x5
  extract_lets +onlyGivenNames x6
  clear_value x6
  with_reducible refine ite_keeps (P := State.Keeps a) ?_ ?_
  · with_reducible apply State.syncFault_keeps
    exact h1
  · with_reducible refine ite_keeps (P := State.Keeps a) ?_ ?_
    · with_reducible apply State.syncFault_keeps
      exact h1
    · with_reducible apply State.withObjs_keeps
      · exact h1
      · intro y7 h8
        extract_lets +onlyGivenNames x9
        have h10 : State.Keeps a x9 := by
          unfold x9
          with_reducible apply State.setObj_keeps
          exact h8
        clear_value x9
        extract_lets +onlyGivenNames x11
        have h12 : State.Keeps a x11 := by
          unfold x11
          refine foldl_keeps ?_ ?_
          · exact h10
          · intro y13 y14 h15
            split
            · rename_i v16 v17
              extract_lets +onlyGivenNames x18
              clear_value x18
              with_reducible apply State.setObj_keeps
              exact h15
            · rename_i v19 v20
              exact h15
        clear_value x11
        with_reducible apply State.syncOne_keeps
        with_reducible apply State.reportStored_keeps
        exact h12

theorem State.qOp_keeps {a : State} {z1 z2 z3 z4 z5} (h1 : State.Keeps a z1) :
    State.Keeps a (State.qOp z1 z2 z3 z4 z5) := by
  unfold State.qOp
  extract_lets +onlyGivenNames x1
  clear_value x1
  split
  · rename_i v2 v3 v4 v5
    with_reducible apply State.qInit_keeps
    exact h1
  · rename_i v6 v7 v8 v9 v10 v11 v12 v13
    with_reducible apply State.qInit_keeps
    exact h1
  · rename_i v14 v15 v16 v17 v18 v19 v20 v21
    with_reducible refine ite_keeps (P := State.Keeps a) ?_ ?_
    · with_reducible apply State.syncOne_keeps
      with_reducible apply State.wregStatus_keeps
      exact h1
    · with_reducible apply State.qPush_keeps
      exact h1
  · rename_i v22 v23 v24 v25 v26 v27 v28 v29
    with_reducible refine ite_keeps (P := State.Keeps a) ?_ ?_
    · with_reducible apply State.qTake_keeps
      with_reducible apply State.wregStatus_keeps
      exact h1
    · with_reducible refine ite_keeps (P := State.Keeps a) ?_ ?_
      · with_reducible apply State.syncAnswer_keeps
        with_reducible apply State.wregStatus_keeps
        exact h1
      · with_reducible apply State.syncPark_keeps
        exact h1
  · rename_i v30 v31 v32 v33 v34 v35 v36 v37
    with_reducible refine ite_keeps (P := State.Keeps a) ?_ ?_
    · with_reducible apply State.qTake_keeps
      exact h1
    · with_reducible apply State.syncOne_keeps
      exact h1
  · rename_i v38 v39 v40 v41 v42 v43 v44 v45 v46 v47 v48
    with_reducible refine ite_keeps (P := State.Keeps a) ?_ ?_
    · with_reducible apply State.syncOne_keeps
      exact h1
    · with_reducible apply State.qClose_keeps
      exact h1
  · rename_i v49 v50 v51 v52 v53 v54 v55 v56
    with_reducible apply State.syncFault_keeps
    exact h1

theorem State.wftOp_keeps {a : State} {z1 z2 z3 z4} (h1 : State.Keeps a z1) :
    State.Keeps a (State.wftOp z1 z2 z3 z4) := by
  unfold State.wftOp
  extract_lets +onlyGivenNames x1
  clear_value x1
  extract_lets +onlyGivenNames x2
  clear_value x2
  extract_lets +onlyGivenNames x3
  clear_value x3
  extract_lets +onlyGivenNames x4
  clear_value x4
  extract_lets +onlyGivenNames x5
  clear_value x5
  split
  · rename_i v6 v7
    extract_lets +onlyGivenNames x8
    have h9 : State.Keeps a x8 := by
      unfold x8
      with_reducible apply State.modInst_keeps
      exact h1
    clear_value x8
    with_reducible refine ite_keeps (P := State.Keeps a) ?_ ?_
    · with_reducible apply State.syncFault_keeps
      exact h1
    · with_reducible apply State.syncOne_keeps
      with_reducible apply State.prioChanged_keeps
      exact h9
  · rename_i v10 v11
    extract_lets +onlyGivenNames x12
    clear_value x12
    with_reducible refine ite_keeps (P := State.Keeps a) ?_ ?_
    · with_reducible apply State.syncFault_keeps
      exact h1
    · with_reducible apply State.syncOne_keeps
      with_reducible apply State.endHold_keeps
      with_reducible apply State.dropWreg_keeps
      exact h1
  · rename_i v13 v14
    extract_lets +onlyGivenNames x15
    have h16 : State.Keeps a x15 := by
      unfold x15
      with_reducible apply State.syncAnswer_keeps
      exact h1
    clear_value x15
    with_reducible refine ite_keeps (P := State.Keeps a) ?_ ?_
    · with_reducible apply State.syncFault_keeps
      exact h1
    · with_reducible refine ite_keeps (P := State.Keeps a) ?_ ?_
      · with_reducible apply State.syncAnswer_keeps
        exact h1
      · with_reducible apply State.enterHold_keeps
        exact h16
  · rename_i v17 v18 v19 v20
    extract_lets +onlyGivenNames x21
    have h22 : State.Keeps a x21 := by
      unfold x21
      with_reducible apply State.dropWreg_keeps
      exact h1
    clear_value x21
    extract_lets +onlyGivenNames x23
    have h24 : State.Keeps a x23 := by
      unfold x23
      with_reducible apply State.modPart_keeps
      exact h22
    clear_value x23
    with_reducible refine ite_keeps (P := State.Keeps a) ?_ ?_
    · with_reducible apply State.syncFault_keeps
      exact h1
    · with_reducible apply State.syncAnswer_keeps
      exact h24

theorem State.sync_keeps {a : State} {z1 z2 z3 z4} (h1 : State.Keeps a z1) :
    State.Keeps a (State.sync z1 z2 z3 z4) := by
  unfold State.sync
  with_reducible apply State.frame_keeps
  · exact h1
  · intro y1 h2
    extract_lets +onlyGivenNames x3
    clear_value x3
    extract_lets +onlyGivenNames x4
    clear_value x4
    extract_lets +onlyGivenNames x5
    have h6 : State.Keeps a x5 := by
      unfold x5
      with_reducible apply State.modFire_keeps
      exact h2
    clear_value x5
    with_reducible apply State.sched_keeps
    exact h6

theorem State.served_keeps {a : State} {z1 z2 z3} (h1 : State.Keeps a z1) :
    State.Keeps a (State.served z1 z2 z3) := by
  unfold State.served
  extract_lets +onlyGivenNames x1
  clear_value x1
  with_reducible refine ite_keeps (P := State.Keeps a) ?_ ?_
  · exact h1
  · refine State.Keeps.upd (s := z1) rfl rfl rfl rfl ?_
    exact h1

theorem State.engineTurn_keeps {a : State} {z1 z2 z3 z4} (h1 : State.Keeps a z1) (h4 : ∀ y1, State.Keeps a y1 → State.Keeps a (z4 y1)) :
    State.Keeps a (State.engineTurn z1 z2 z3 z4) := by
  unfold State.engineTurn
  extract_lets +onlyGivenNames x1
  clear_value x1
  with_reducible refine ite_keeps (P := State.Keeps a) ?_ ?_
  · with_reducible apply h4
    with_reducible apply State.served_keeps
    exact h1
  · with_reducible apply State.sched_keeps
    exact h1

theorem State.syncAct_keeps {a : State} {z1 z2 z3 z4} (h1 : State.Keeps a z1) :
    State.Keeps a (State.syncAct z1 z2 z3 z4) := by
  unfold State.syncAct
  extract_lets +onlyGivenNames x1
  clear_value x1
  extract_lets +onlyGivenNames x2
  clear_value x2
  with_reducible refine ite_keeps (P := State.Keeps a) ?_ ?_
  · with_reducible apply State.wftOp_keeps
    exact h1
  · with_reducible apply State.engineTurn_keeps
    · exact h1
    · intro y3 h4
      with_reducible apply State.withObjs_keeps
      · exact h4
      · intro y5 h6
        extract_lets +onlyGivenNames x7
        have h8 : State.Keeps a x7 := by
          unfold x7
          with_reducible refine ite_keeps (P := State.Keeps a) ?_ ?_
          · with_reducible apply State.flush_keeps
            exact h6
          · exact h6
        clear_value x7
        split
        · rename_i v9
          with_reducible apply State.amo_keeps
          exact h8
        · rename_i v10
          with_reducible apply State.lockOp_keeps
          exact h8
        · rename_i v11
          with_reducible apply State.barOp_keeps
          exact h8
        · rename_i v12 v13 v14 v15
          with_reducible apply State.qOp_keeps
          exact h8

theorem execSyncOperationArrival_keeps {a : State} {z1} (h1 : State.Keeps a z1) :
    OnNext (State.Keeps a) (execSyncOperationArrival z1) := by
  unfold execSyncOperationArrival
  extract_lets +onlyGivenNames x1
  clear_value x1
  extract_lets +onlyGivenNames x2
  clear_value x2
  refine OnNext.next ?_
  split
  · rename_i v3 v4
    exact h1
  · rename_i v5 v6 v7
    extract_lets +onlyGivenNames x8
    clear_value x8
    extract_lets +onlyGivenNames x9
    clear_value x9
    with_reducible refine ite_keeps (P := State.Keeps a) ?_ ?_
    · exact h1
    · with_reducible refine ite_keeps (P := State.Keeps a) ?_ ?_
      · with_reducible apply State.syncAct_keeps
        exact h1
      · with_reducible refine ite_keeps (P := State.Keeps a) ?_ ?_
        · with_reducible apply State.syncFault_keeps
          exact h1
        · with_reducible refine ite_keeps (P := State.Keeps a) ?_ ?_
          · with_reducible apply State.sched_keeps
            exact h1
          · with_reducible apply State.syncAct_keeps
            exact h1

theorem execAmoAdd_keeps {a : State} {z1 z2 z3 z4} (h4 : State.Keeps a z4) :
    OnNext (State.Keeps a) (execAmoAdd z1 z2 z3 z4) := by
  unfold execAmoAdd
  refine OnNext.next ?_
  with_reducible apply State.sync_keeps
  exact h4

theorem execAmoAnd_keeps {a : State} {z1 z2 z3 z4} (h4 : State.Keeps a z4) :
    OnNext (State.Keeps a) (execAmoAnd z1 z2 z3 z4) := by
  unfold execAmoAnd
  refine OnNext.next ?_
  with_reducible apply State.sync_keeps
  exact h4

theorem execAmoOr_keeps {a : State} {z1 z2 z3 z4} (h4 : State.Keeps a z4) :
    OnNext (State.Keeps a) (execAmoOr z1 z2 z3 z4) := by
  unfold execAmoOr
  refine OnNext.next ?_
  with_reducible apply State.sync_keeps
  exact h4

theorem execAmoXor_keeps {a : State} {z1 z2 z3 z4} (h4 : State.Keeps a z4) :
    OnNext (State.Keeps a) (execAmoXor z1 z2 z3 z4) := by
  unfold execAmoXor
  refine OnNext.next ?_
  with_reducible apply State.sync_keeps
  exact h4

theorem execAmoMin_keeps {a : State} {z1 z2 z3 z4} (h4 : State.Keeps a z4) :
    OnNext (State.Keeps a) (execAmoMin z1 z2 z3 z4) := by
  unfold execAmoMin
  refine OnNext.next ?_
  with_reducible apply State.sync_keeps
  exact h4

theorem execAmoMax_keeps {a : State} {z1 z2 z3 z4} (h4 : State.Keeps a z4) :
    OnNext (State.Keeps a) (execAmoMax z1 z2 z3 z4) := by
  unfold execAmoMax
  refine OnNext.next ?_
  with_reducible apply State.sync_keeps
  exact h4

theorem execAmoMinu_keeps {a : State} {z1 z2 z3 z4} (h4 : State.Keeps a z4) :
    OnNext (State.Keeps a) (execAmoMinu z1 z2 z3 z4) := by
  unfold execAmoMinu
  refine OnNext.next ?_
  with_reducible apply State.sync_keeps
  exact h4

theorem execAmoMaxu_keeps {a : State} {z1 z2 z3 z4} (h4 : State.Keeps a z4) :
    OnNext (State.Keeps a) (execAmoMaxu z1 z2 z3 z4) := by
  unfold execAmoMaxu
  refine OnNext.next ?_
  with_reducible apply State.sync_keeps
  exact h4

theorem execAmoSwap_keeps {a : State} {z1 z2 z3 z4} (h4 : State.Keeps a z4) :
    OnNext (State.Keeps a) (execAmoSwap z1 z2 z3 z4) := by
  unfold execAmoSwap
  refine OnNext.next ?_
  with_reducible apply State.sync_keeps
  exact h4

theorem execAmoFadd_keeps {a : State} {z1 z2 z3 z4} (h4 : State.Keeps a z4) :
    OnNext (State.Keeps a) (execAmoFadd z1 z2 z3 z4) := by
  unfold execAmoFadd
  refine OnNext.next ?_
  with_reducible apply State.sync_keeps
  exact h4

theorem execAmoCas_keeps {a : State} {z1 z2 z3 z4} (h4 : State.Keeps a z4) :
    OnNext (State.Keeps a) (execAmoCas z1 z2 z3 z4) := by
  unfold execAmoCas
  refine OnNext.next ?_
  with_reducible apply State.sync_keeps
  exact h4

theorem execLockAcq_keeps {a : State} {z1 z2 z3 z4} (h4 : State.Keeps a z4) :
    OnNext (State.Keeps a) (execLockAcq z1 z2 z3 z4) := by
  unfold execLockAcq
  refine OnNext.next ?_
  with_reducible apply State.sync_keeps
  exact h4

theorem execLockTry_keeps {a : State} {z1 z2 z3 z4} (h4 : State.Keeps a z4) :
    OnNext (State.Keeps a) (execLockTry z1 z2 z3 z4) := by
  unfold execLockTry
  refine OnNext.next ?_
  with_reducible apply State.sync_keeps
  exact h4

theorem execLockRel_keeps {a : State} {z1 z2 z3 z4} (h4 : State.Keeps a z4) :
    OnNext (State.Keeps a) (execLockRel z1 z2 z3 z4) := by
  unfold execLockRel
  refine OnNext.next ?_
  with_reducible apply State.sync_keeps
  exact h4

theorem execBarArrive_keeps {a : State} {z1 z2 z3 z4} (h4 : State.Keeps a z4) :
    OnNext (State.Keeps a) (execBarArrive z1 z2 z3 z4) := by
  unfold execBarArrive
  refine OnNext.next ?_
  with_reducible apply State.sync_keeps
  exact h4

theorem execBarWait_keeps {a : State} {z1 z2 z3 z4} (h4 : State.Keeps a z4) :
    OnNext (State.Keeps a) (execBarWait z1 z2 z3 z4) := by
  unfold execBarWait
  refine OnNext.next ?_
  with_reducible apply State.sync_keeps
  exact h4

theorem execBarArrwait_keeps {a : State} {z1 z2 z3 z4} (h4 : State.Keeps a z4) :
    OnNext (State.Keeps a) (execBarArrwait z1 z2 z3 z4) := by
  unfold execBarArrwait
  refine OnNext.next ?_
  with_reducible apply State.sync_keeps
  exact h4

theorem execBarInit_keeps {a : State} {z1 z2 z3 z4} (h4 : State.Keeps a z4) :
    OnNext (State.Keeps a) (execBarInit z1 z2 z3 z4) := by
  unfold execBarInit
  refine OnNext.next ?_
  with_reducible apply State.sync_keeps
  exact h4

theorem execQpush_keeps {a : State} {z1 z2 z3 z4} (h4 : State.Keeps a z4) :
    OnNext (State.Keeps a) (execQpush z1 z2 z3 z4) := by
  unfold execQpush
  refine OnNext.next ?_
  with_reducible apply State.sync_keeps
  exact h4

theorem execQpop_keeps {a : State} {z1 z2 z3 z4} (h4 : State.Keeps a z4) :
    OnNext (State.Keeps a) (execQpop z1 z2 z3 z4) := by
  unfold execQpop
  refine OnNext.next ?_
  with_reducible apply State.sync_keeps
  exact h4

theorem execQpopt_keeps {a : State} {z1 z2 z3 z4} (h4 : State.Keeps a z4) :
    OnNext (State.Keeps a) (execQpopt z1 z2 z3 z4) := by
  unfold execQpopt
  refine OnNext.next ?_
  with_reducible apply State.sync_keeps
  exact h4

theorem execQclose_keeps {a : State} {z1 z2 z3 z4} (h4 : State.Keeps a z4) :
    OnNext (State.Keeps a) (execQclose z1 z2 z3 z4) := by
  unfold execQclose
  refine OnNext.next ?_
  with_reducible apply State.sync_keeps
  exact h4

theorem execQinit_keeps {a : State} {z1 z2 z3 z4} (h4 : State.Keeps a z4) :
    OnNext (State.Keeps a) (execQinit z1 z2 z3 z4) := by
  unfold execQinit
  refine OnNext.next ?_
  with_reducible apply State.sync_keeps
  exact h4

theorem execWreg_keeps {a : State} {z1 z2 z3 z4} (h4 : State.Keeps a z4) :
    OnNext (State.Keeps a) (execWreg z1 z2 z3 z4) := by
  unfold execWreg
  refine OnNext.next ?_
  with_reducible apply State.sync_keeps
  exact h4

theorem execWown_keeps {a : State} {z1 z2 z3 z4} (h4 : State.Keeps a z4) :
    OnNext (State.Keeps a) (execWown z1 z2 z3 z4) := by
  unfold execWown
  refine OnNext.next ?_
  with_reducible apply State.sync_keeps
  exact h4

theorem execWrel_keeps {a : State} {z1 z2 z3 z4} (h4 : State.Keeps a z4) :
    OnNext (State.Keeps a) (execWrel z1 z2 z3 z4) := by
  unfold execWrel
  refine OnNext.next ?_
  with_reducible apply State.sync_keeps
  exact h4

theorem execWpri_keeps {a : State} {z1 z2 z3 z4} (h4 : State.Keeps a z4) :
    OnNext (State.Keeps a) (execWpri z1 z2 z3 z4) := by
  unfold execWpri
  refine OnNext.next ?_
  with_reducible apply State.sync_keeps
  exact h4

theorem State.endSync_keeps {a : State} {z1 z2 z3 z4} (h1 : State.Keeps a z1) :
    State.Keeps a (State.endSync z1 z2 z3 z4) := by
  unfold State.endSync
  extract_lets +onlyGivenNames x1
  have h2 : State.Keeps a x1 := by
    unfold x1
    with_reducible apply State.modPart_keeps
    exact h1
  clear_value x1
  extract_lets +onlyGivenNames x3
  have h4 : State.Keeps a x3 := by
    unfold x3
    with_reducible apply State.dropWft_keeps
    exact h2
  clear_value x3
  refine foldl_keeps ?_ ?_
  · exact h4
  · intro y5 y6 h7
    extract_lets +onlyGivenNames x8
    have h9 : State.Keeps a x8 := by
      unfold x8
      with_reducible apply State.bumpCsr_keeps
      exact h7
    clear_value x8
    with_reducible refine ite_keeps (P := State.Keeps a) ?_ ?_
    · with_reducible apply State.lockPass_keeps
      exact h9
    · exact h9

theorem State.setRuns_keeps {a : State} {z1 z2 z3 z4} (h1 : State.Keeps a z1) :
    State.Keeps a (State.setRuns z1 z2 z3 z4) := by
  unfold State.setRuns
  extract_lets +onlyGivenNames x1
  have h2 : State.Keeps a x1 := by
    unfold x1
    with_reducible apply State.modPart_keeps
    exact h1
  clear_value x1
  with_reducible apply State.setCsrF_keeps
  exact h2

theorem State.takeRun_keeps {a : State} {z1 z2 z3 z4} (h1 : State.Keeps a z1) :
    OnSome (OnFst (State.Keeps a)) (State.takeRun z1 z2 z3 z4) := by
  unfold State.takeRun
  extract_lets +onlyGivenNames x1
  clear_value x1
  refine OnSome.map' ?_
  intro y2
  refine OnFst.mk ?_
  with_reducible apply State.setRuns_keeps
  exact h1

theorem State.freeRunOf_keeps {a : State} {z1 z2 z3 z4} (h1 : State.Keeps a z1) :
    State.Keeps a (State.freeRunOf z1 z2 z3 z4) := by
  unfold State.freeRunOf
  with_reducible apply State.setRuns_keeps
  exact h1

theorem State.kick_keeps {a : State} {z1 z2} (h1 : State.Keeps a z1) :
    State.Keeps a (State.kick z1 z2) := by
  unfold State.kick
  extract_lets +onlyGivenNames x1
  clear_value x1
  split
  · rename_i v2 v3
    exact h1
  · rename_i v4 v5 v6 v7
    extract_lets +onlyGivenNames x8
    clear_value x8
    with_reducible refine ite_keeps (P := State.Keeps a) ?_ ?_
    · exact h1
    · with_reducible apply State.schedLate_keeps
      exact h1

theorem State.request_keeps {a : State} {z1 z2 z3} (h1 : State.Keeps a z1) :
    State.Keeps a (State.request z1 z2 z3) := by
  unfold State.request
  extract_lets +onlyGivenNames x1
  have h2 : State.Keeps a x1 := by
    unfold x1
    with_reducible apply State.modPart_keeps
    exact h1
  clear_value x1
  with_reducible apply State.kick_keeps
  with_reducible apply State.sched_keeps
  exact h2

theorem State.repend_keeps {a : State} {z1 z2 z3} (h1 : State.Keeps a z1) :
    State.Keeps a (State.repend z1 z2 z3) := by
  unfold State.repend
  with_reducible refine ite_keeps (P := State.Keeps a) ?_ ?_
  · exact h1
  · with_reducible apply State.sched_keeps
    exact h1

theorem State.sendResults_keeps {a : State} {z1 z2 z3 z4} (h1 : State.Keeps a z1) :
    State.Keeps a (State.sendResults z1 z2 z3 z4) := by
  unfold State.sendResults
  extract_lets +onlyGivenNames x1
  clear_value x1
  extract_lets +onlyGivenNames x2
  have h3 : State.Keeps a x2 := by
    unfold x2
    with_reducible apply State.flush_keeps
    exact h1
  clear_value x2
  split
  · rename_i v4 v5 v6 v7
    extract_lets +onlyGivenNames x8
    clear_value x8
    extract_lets +onlyGivenNames x9
    clear_value x9
    extract_lets +onlyGivenNames x10
    clear_value x10
    extract_lets +onlyGivenNames x11
    clear_value x11
    with_reducible apply State.sched_keeps
    exact h3
  · rename_i v12 v13 v14 v15 v16
    extract_lets +onlyGivenNames x17
    clear_value x17
    with_reducible apply State.sched_keeps
    exact h3
  · rename_i v18 v19 v20
    exact h3

theorem State.gswNext_keeps {a : State} {z1 z2 z3} (h1 : State.Keeps a z1) :
    State.Keeps a (State.gswNext z1 z2 z3) := by
  unfold State.gswNext
  with_reducible apply State.sched_keeps
  with_reducible apply State.modPart_keeps
  exact h1

theorem State.clearInst_keeps {a : State} {z1 z2 z3} (h1 : State.Keeps a z1) :
    State.Keeps a (State.clearInst z1 z2 z3) := by
  unfold State.clearInst
  extract_lets +onlyGivenNames x1
  clear_value x1
  extract_lets +onlyGivenNames x2
  have h3 : State.Keeps a x2 := by
    unfold x2
    with_reducible apply State.cancel_keeps
    exact h1
  clear_value x2
  extract_lets +onlyGivenNames x4
  have h5 : State.Keeps a x4 := by
    unfold x4
    refine foldl_keeps ?_ ?_
    · exact h3
    · intro y6 y7 h8
      with_reducible apply State.modPage_keeps
      exact h8
  clear_value x4
  extract_lets +onlyGivenNames x9
  have h10 : State.Keeps a x9 := by
    unfold x9
    with_reducible apply State.spillFreed_keeps
    exact h5
  clear_value x9
  extract_lets +onlyGivenNames x11
  have h12 : State.Keeps a x11 := by
    unfold x11
    split
    · rename_i v13 v14 v15 v16 v17 v18 v19
      with_reducible apply State.freeRunOf_keeps
      exact h10
    · rename_i v20 v21 v22
      exact h10
  clear_value x11
  extract_lets +onlyGivenNames x23
  have h24 : State.Keeps a x23 := by
    unfold x23
    split
    · rename_i v25 v26 v27
      with_reducible apply State.freeRunOf_keeps
      exact h12
    · rename_i v28 v29
      exact h12
  clear_value x23
  extract_lets +onlyGivenNames x30
  have h31 : State.Keeps a x30 := by
    unfold x30
    with_reducible refine ite_keeps (P := State.Keeps a) ?_ ?_
    · with_reducible apply State.gswNext_keeps
      exact h24
    · exact h24
  clear_value x30
  with_reducible apply State.modPart_keeps
  exact h31

theorem State.modPlait_keeps {a : State} {z1 z2 z3 z4 z5} (h1 : State.Keeps a z1) :
    State.Keeps a (State.modPlait z1 z2 z3 z4 z5) := by
  unfold State.modPlait
  refine State.Keeps.upd (s := z1) rfl rfl rfl rfl ?_
  exact h1

theorem State.spmaForgive_keeps {a : State} {z1 z2 z3 z4} (h1 : State.Keeps a z1) :
    State.Keeps a (State.spmaForgive z1 z2 z3 z4) := by
  unfold State.spmaForgive
  split
  · rename_i v1 v2
    exact h1
  · rename_i v3 v4 v5
    extract_lets +onlyGivenNames x6
    have h7 : State.Keeps a x6 := by
      unfold x6
      with_reducible refine ite_keeps (P := State.Keeps a) ?_ ?_
      · exact h1
      · with_reducible apply State.sched_keeps
        exact h1
    clear_value x6
    with_reducible refine ite_keeps (P := State.Keeps a) ?_ ?_
    · with_reducible apply State.modPlait_keeps
      exact h7
    · exact h1

theorem State.endClaims_keeps {a : State} {z1 z2 z3} (h1 : State.Keeps a z1) :
    State.Keeps a (State.endClaims z1 z2 z3) := by
  unfold State.endClaims
  extract_lets +onlyGivenNames x1
  clear_value x1
  extract_lets +onlyGivenNames x2
  clear_value x2
  extract_lets +onlyGivenNames x3
  clear_value x3
  extract_lets +onlyGivenNames x4
  have h5 : State.Keeps a x4 := by
    unfold x4
    with_reducible apply State.cancel_keeps
    exact h1
  clear_value x4
  extract_lets +onlyGivenNames x6
  have h7 : State.Keeps a x6 := by
    unfold x6
    refine foldl_keeps ?_ ?_
    · exact h5
    · intro y8 y9 h10
      refine foldl_keeps ?_ ?_
      · exact h10
      · intro y11 y12 h13
        with_reducible apply State.spmaForgive_keeps
        exact h13
  clear_value x6
  extract_lets +onlyGivenNames x14
  have h15 : State.Keeps a x14 := by
    unfold x14
    with_reducible apply State.modPart_keeps
    exact h7
  clear_value x14
  refine foldl_keeps ?_ ?_
  · exact h15
  · intro y16 y17 h18
    with_reducible apply State.sched_keeps
    exact h18

theorem State.endInst_keeps {a : State} {z1 z2 z3 z4} (h1 : State.Keeps a z1) :
    State.Keeps a (State.endInst z1 z2 z3 z4) := by
  unfold State.endInst
  extract_lets +onlyGivenNames x1
  clear_value x1
  extract_lets +onlyGivenNames x2
  have h3 : State.Keeps a x2 := by
    unfold x2
    with_reducible apply State.sendResults_keeps
    exact h1
  clear_value x2
  extract_lets +onlyGivenNames x4
  have h5 : State.Keeps a x4 := by
    unfold x4
    with_reducible apply State.endSync_keeps
    with_reducible apply State.clearInst_keeps
    exact h3
  clear_value x4
  extract_lets +onlyGivenNames x6
  have h7 : State.Keeps a x6 := by
    unfold x6
    with_reducible apply State.endClaims_keeps
    with_reducible apply State.freeArea_keeps
    exact h5
  clear_value x6
  extract_lets +onlyGivenNames x8
  have h9 : State.Keeps a x8 := by
    unfold x8
    with_reducible apply State.modInst_keeps
    exact h7
  clear_value x8
  with_reducible apply State.kick_keeps
  exact h9

theorem State.endStrand_keeps {a : State} {z1 z2 z3 z4} (h1 : State.Keeps a z1) :
    State.Keeps a (State.endStrand z1 z2 z3 z4) := by
  unfold State.endStrand
  split
  · rename_i v1 v2
    exact h1
  · rename_i v3 v4 v5
    extract_lets +onlyGivenNames x6
    have h7 : State.Keeps a x6 := by
      unfold x6
      with_reducible apply State.modStrand_keeps
      exact h1
    clear_value x6
    extract_lets +onlyGivenNames x8
    have h9 : State.Keeps a x8 := by
      unfold x8
      with_reducible apply State.kick_keeps
      with_reducible apply State.sched_keeps
      exact h7
    clear_value x8
    extract_lets +onlyGivenNames x10
    have h11 : State.Keeps a x10 := by
      unfold x10
      with_reducible apply State.repend_keeps
      exact h9
    clear_value x10
    with_reducible refine ite_keeps (P := State.Keeps a) ?_ ?_
    · exact h1
    · with_reducible refine ite_keeps (P := State.Keeps a) ?_ ?_
      · with_reducible apply State.endInst_keeps
        exact h11
      · exact h11

theorem State.killTree_keeps {a : State} {z1 z2 z3 z4} (h1 : State.Keeps a z1) :
    State.Keeps a (State.killTree z1 z2 z3 z4) := by
  induction z4 generalizing z1 z2 z3 with
  | zero =>
    unfold State.killTree
    exact h1
  | succ n ih =>
    unfold State.killTree
    extract_lets +onlyGivenNames x1
    clear_value x1
    extract_lets +onlyGivenNames x2
    have h3 : State.Keeps a x2 := by
      unfold x2
      with_reducible apply State.modInst_keeps
      exact h1
    clear_value x2
    extract_lets +onlyGivenNames x4
    have h5 : State.Keeps a x4 := by
      unfold x4
      refine foldl_keeps ?_ ?_
      · exact h3
      · intro y6 y7 h8
        with_reducible refine ite_keeps (P := State.Keeps a) ?_ ?_
        · exact h8
        · with_reducible apply State.sched_keeps
          exact h8
    clear_value x4
    extract_lets +onlyGivenNames x9
    have h10 : State.Keeps a x9 := by
      unfold x9
      with_reducible apply State.endInst_keeps
      exact h5
    clear_value x9
    with_reducible refine ite_keeps (P := State.Keeps a) ?_ ?_
    · exact h1
    · refine foldl_keeps ?_ ?_
      · exact h10
      · intro y11 y12 h13
        split
        · rename_i v14 v15 v16 v17
          with_reducible refine ite_keeps (P := State.Keeps a) ?_ ?_
          · with_reducible apply ih
            exact h13
          · exact h13
        · rename_i v18 v19
          exact h13

theorem State.kill_keeps {a : State} {z1 z2 z3} (h1 : State.Keeps a z1) :
    State.Keeps a (State.kill z1 z2 z3) := by
  unfold State.kill
  with_reducible apply State.killTree_keeps
  exact h1

theorem State.startAct_keeps {a : State} {z1 z2 z3 z4} (h1 : State.Keeps a z1) :
    State.Keeps a (State.startAct z1 z2 z3 z4) := by
  unfold State.startAct
  extract_lets +onlyGivenNames x1
  have h2 : State.Keeps a x1 := by
    unfold x1
    with_reducible apply State.modPage_keeps
    exact h1
  clear_value x1
  extract_lets +onlyGivenNames x3
  clear_value x3
  extract_lets +onlyGivenNames x4
  clear_value x4
  extract_lets +onlyGivenNames x5
  have h6 : State.Keeps a x5 := by
    unfold x5
    refine foldl_keeps ?_ ?_
    · exact h2
    · intro y7 y8 h9
      extract_lets +onlyGivenNames x10
      clear_value x10
      with_reducible refine ite_keeps (P := State.Keeps a) ?_ ?_
      · exact h9
      · with_reducible apply State.modPage_keeps
        exact h9
  clear_value x5
  extract_lets +onlyGivenNames x11
  have h12 : State.Keeps a x11 := by
    unfold x11
    with_reducible refine ite_keeps (P := State.Keeps a) ?_ ?_
    · refine foldl_keeps ?_ ?_
      · exact h6
      · intro y13 y14 h15
        with_reducible refine ite_keeps (P := State.Keeps a) ?_ ?_
        · with_reducible apply State.enqueue_keeps
          exact h15
        · exact h15
    · exact h6
  clear_value x11
  refine foldl_keeps ?_ ?_
  · exact h12
  · intro y16 y17 h18
    with_reducible apply State.checkReady_keeps
    exact h18

theorem execBlockFetch_keeps {a : State} {z1} (h1 : State.Keeps a z1) :
    OnNext (State.Keeps a) (execBlockFetch z1) := by
  unfold execBlockFetch
  extract_lets +onlyGivenNames x1
  clear_value x1
  extract_lets +onlyGivenNames x2
  clear_value x2
  refine OnNext.next ?_
  split
  · rename_i v3 v4
    exact h1
  · rename_i v5 v6 v7
    extract_lets +onlyGivenNames x8
    clear_value x8
    extract_lets +onlyGivenNames x9
    clear_value x9
    with_reducible refine ite_keeps (P := State.Keeps a) ?_ ?_
    · exact h1
    · split
      · rename_i v10 v11 v12 v13
        with_reducible apply State.takeTrap_keeps
        exact h1
      · rename_i v14 v15 v16
        extract_lets +onlyGivenNames x17
        clear_value x17
        extract_lets +onlyGivenNames x18
        have h19 : State.Keeps a x18 := by
          unfold x18
          with_reducible apply State.modStrand_keeps
          exact h1
        clear_value x18
        extract_lets +onlyGivenNames x20
        have h21 : State.Keeps a x20 := by
          unfold x20
          with_reducible apply State.modPage_keeps
          exact h19
        clear_value x20
        extract_lets +onlyGivenNames x22
        clear_value x22
        extract_lets +onlyGivenNames x23
        have h24 : State.Keeps a x23 := by
          unfold x23
          with_reducible apply State.startAct_keeps
          exact h21
        clear_value x23
        split
        · rename_i v25 v26 v27 v28
          with_reducible apply State.enqueue_keeps
          with_reducible apply State.enqueue_keeps
          exact h24
        · rename_i v29 v30
          exact h24

theorem State.toNext_keeps {a : State} {z1 z2 z3 z4} (h1 : State.Keeps a z1) :
    State.Keeps a (State.toNext z1 z2 z3 z4) := by
  unfold State.toNext
  with_reducible apply State.sched_keeps
  with_reducible apply State.modPage_keeps
  exact h1

theorem State.discard_keeps {a : State} {z1 z2 z3 z4} (h1 : State.Keeps a z1) :
    State.Keeps a (State.discard z1 z2 z3 z4) := by
  unfold State.discard
  extract_lets +onlyGivenNames x1
  clear_value x1
  extract_lets +onlyGivenNames x2
  clear_value x2
  extract_lets +onlyGivenNames x3
  have h4 : State.Keeps a x3 := by
    unfold x3
    with_reducible apply State.cancel_keeps
    exact h1
  clear_value x3
  extract_lets +onlyGivenNames x5
  have h6 : State.Keeps a x5 := by
    unfold x5
    with_reducible apply State.modPage_keeps
    exact h4
  clear_value x5
  extract_lets +onlyGivenNames x7
  have h8 : State.Keeps a x7 := by
    unfold x7
    refine foldl_keeps ?_ ?_
    · exact h6
    · intro y9 y10 h11
      with_reducible apply State.freed_keeps
      exact h11
  clear_value x7
  with_reducible refine ite_keeps (P := State.Keeps a) ?_ ?_
  · with_reducible apply State.spillFreed_keeps
    exact h8
  · exact h8

theorem State.commitRegs_keeps {a : State} {z1 z2 z3} (h1 : State.Keeps a z1) :
    State.Keeps a (State.commitRegs z1 z2 z3) := by
  unfold State.commitRegs
  extract_lets +onlyGivenNames x1
  have h2 : State.Keeps a x1 := by
    unfold x1
    refine foldl_keeps ?_ ?_
    · exact h1
    · intro y3 y4 h5
      with_reducible refine ite_keeps (P := State.Keeps a) ?_ ?_
      · with_reducible apply State.reportPoison_keeps
        exact h5
      · exact h5
  clear_value x1
  extract_lets +onlyGivenNames x6
  clear_value x6
  with_reducible apply State.modInst_keeps
  exact h2

theorem State.commitRec_keeps {a : State} {z1 z2 z3 z4} (h1 : State.Keeps a z1) :
    State.Keeps a (State.commitRec z1 z2 z3 z4) := by
  unfold State.commitRec
  split
  · rename_i v1 v2 v3
    with_reducible refine ite_keeps (P := State.Keeps a) ?_ ?_
    · with_reducible apply State.traceRec_keeps
      exact h1
    · exact h1
  · rename_i v4 v5
    exact h1

theorem State.commitAct_keeps {a : State} {z1 z2 z3 z4} (h1 : State.Keeps a z1) :
    State.Keeps a (State.commitAct z1 z2 z3 z4) := by
  unfold State.commitAct
  extract_lets +onlyGivenNames x1
  have h2 : State.Keeps a x1 := by
    unfold x1
    with_reducible apply State.commitRegs_keeps
    with_reducible apply State.commitStores_keeps
    exact h1
  clear_value x1
  extract_lets +onlyGivenNames x3
  have h4 : State.Keeps a x3 := by
    unfold x3
    with_reducible apply State.modPage_keeps
    exact h2
  clear_value x3
  extract_lets +onlyGivenNames x5
  have h6 : State.Keeps a x5 := by
    unfold x5
    with_reducible apply State.commitRec_keeps
    with_reducible apply State.discard_keeps
    exact h4
  clear_value x5
  with_reducible apply State.wake_keeps
  with_reducible apply State.modStrand_keeps
  exact h6

theorem State.commitWaits_keeps {a : State} {z1 z2 z3 z4 z5} (h1 : State.Keeps a z1) :
    OnSome (State.Keeps a) (State.commitWaits z1 z2 z3 z4 z5) := by
  unfold State.commitWaits
  extract_lets +onlyGivenNames x1
  clear_value x1
  with_reducible refine ite_keeps (P := OnSome (State.Keeps a)) ?_ ?_
  · refine OnSome.some ?_
    with_reducible apply State.modPart_keeps
    exact h1
  · split
    · rename_i v2 v3
      with_reducible refine ite_keeps (P := OnSome (State.Keeps a)) ?_ ?_
      · refine OnSome.some ?_
        with_reducible apply State.checkDone_keeps
        with_reducible apply State.modAct_keeps
        exact h1
      · exact OnSome.none
    · rename_i v4 v5
      extract_lets +onlyGivenNames x6
      have h7 : State.Keeps a x6 := by
        unfold x6
        with_reducible apply State.modAct_keeps
        exact h1
      clear_value x6
      refine OnSome.some ?_
      refine foldl_keeps ?_ ?_
      · exact h7
      · intro y8 y9 h10
        with_reducible apply State.sched_keeps
        exact h10

theorem State.applyRfts_keeps {a : State} {z1 z2 z3 z4} (h1 : State.Keeps a z1) :
    State.Keeps a (State.applyRfts z1 z2 z3 z4) := by
  unfold State.applyRfts
  refine foldl_keeps ?_ ?_
  · exact h1
  · intro y1 y2 h3
    extract_lets +onlyGivenNames x4
    clear_value x4
    extract_lets +onlyGivenNames x5
    clear_value x5
    extract_lets +onlyGivenNames x6
    clear_value x6
    with_reducible refine ite_keeps (P := State.Keeps a) ?_ ?_
    · with_reducible apply State.stale_keeps
      exact h3
    · with_reducible refine ite_keeps (P := State.Keeps a) ?_ ?_
      · with_reducible apply State.sched_keeps
        exact h3
      · with_reducible apply State.sched_keeps
        with_reducible apply State.flush_keeps
        exact h3

theorem State.follow_keeps {a : State} {z1 z2 z3 z4} (h1 : State.Keeps a z1) :
    State.Keeps a (State.follow z1 z2 z3 z4) := by
  unfold State.follow
  split
  · rename_i v1 v2
    exact h1
  · rename_i v3 v4 v5
    extract_lets +onlyGivenNames x6
    clear_value x6
    extract_lets +onlyGivenNames x7
    have h8 : State.Keeps a x7 := by
      unfold x7
      with_reducible apply State.dropLists_keeps
      with_reducible apply State.modPage_keeps
      exact h1
    clear_value x7
    with_reducible refine ite_keeps (P := State.Keeps a) ?_ ?_
    · with_reducible apply State.toNext_keeps
      with_reducible refine ite_keeps (P := State.Keeps a) ?_ ?_
      · exact h8
      · with_reducible apply State.modStrand_keeps
        exact h8
    · with_reducible apply State.toNext_keeps
      exact h8

theorem State.endHandler_keeps {a : State} {z1 z2 z3 z4} (h1 : State.Keeps a z1) :
    State.Keeps a (State.endHandler z1 z2 z3 z4) := by
  unfold State.endHandler
  with_reducible apply State.toNext_keeps
  with_reducible apply State.dropLists_keeps
  with_reducible apply State.modPage_keeps
  exact h1

theorem State.holdLoop_keeps {a : State} {z1 z2 z3 z4 z5 z6} (h1 : State.Keeps a z1) :
    State.Keeps a (State.holdLoop z1 z2 z3 z4 z5 z6) := by
  unfold State.holdLoop
  extract_lets +onlyGivenNames x1
  clear_value x1
  extract_lets +onlyGivenNames x2
  clear_value x2
  extract_lets +onlyGivenNames x3
  clear_value x3
  extract_lets +onlyGivenNames x4
  have h5 : State.Keeps a x4 := by
    unfold x4
    with_reducible apply State.modAct_keeps
    exact h1
  clear_value x4
  with_reducible apply State.sched_keeps
  exact h5

theorem State.loopFault_keeps {a : State} {z1 z2 z3 z4 z5 z6 z7} (h1 : State.Keeps a z1) :
    State.Keeps a (State.loopFault z1 z2 z3 z4 z5 z6 z7) := by
  unfold State.loopFault
  extract_lets +onlyGivenNames x1
  clear_value x1
  extract_lets +onlyGivenNames x2
  clear_value x2
  extract_lets +onlyGivenNames x3
  clear_value x3
  with_reducible apply State.takeTrap_keeps
  exact h1

theorem State.loadBody_keeps {a : State} {z1 z2 z3 z4 z5} (h1 : State.Keeps a z1) :
    OnBoth (State.Keeps a) (OnFst (State.Keeps a)) (State.loadBody z1 z2 z3 z4 z5) := by
  unfold State.loadBody
  extract_lets +onlyGivenNames x1
  clear_value x1
  extract_lets +onlyGivenNames x2
  clear_value x2
  with_reducible refine ite_keeps (P := OnBoth (State.Keeps a) (OnFst (State.Keeps a))) ?_ ?_
  · refine OnBoth.error ?_
    with_reducible apply State.loopFault_keeps
    exact h1
  · split
    · rename_i v3 v4 v5 v6
      refine OnBoth.error ?_
      with_reducible apply State.loopFault_keeps
      exact h1
    · rename_i v7 v8 v9
      extract_lets +onlyGivenNames x10
      clear_value x10
      extract_lets +onlyGivenNames x11
      have h12 : State.Keeps a x11 := by
        unfold x11
        with_reducible apply State.modAct_keeps
        exact h1
      clear_value x11
      refine OnBoth.ok ?_
      refine OnFst.mk ?_
      with_reducible apply State.modStrand_keeps
      exact h12

theorem State.startIter_keeps {a : State} {z1 z2 z3 z4 z5 z6} (h1 : State.Keeps a z1) :
    State.Keeps a (State.startIter z1 z2 z3 z4 z5 z6) := by
  unfold State.startIter
  extract_lets +onlyGivenNames x1
  clear_value x1
  extract_lets +onlyGivenNames x2
  clear_value x2
  extract_lets +onlyGivenNames x3
  clear_value x3
  extract_lets +onlyGivenNames x4
  clear_value x4
  extract_lets +onlyGivenNames x5
  clear_value x5
  extract_lets +onlyGivenNames x6
  clear_value x6
  extract_lets +onlyGivenNames x7
  have h8 : State.Keeps a x7 := by
    unfold x7
    with_reducible apply State.modAct_keeps
    exact h1
  clear_value x7
  extract_lets +onlyGivenNames x9
  have h10 : State.Keeps a x9 := by
    unfold x9
    with_reducible apply State.startAct_keeps
    exact h8
  clear_value x9
  split
  · rename_i v11
    exact h10
  · rename_i v12 v13
    refine foldl_keeps ?_ ?_
    · exact h10
    · intro y14 y15 h16
      with_reducible apply State.passReg_keeps
      exact h16

theorem State.schedIter_keeps {a : State} {z1 z2 z3 z4 z5} (h1 : State.Keeps a z1) :
    State.Keeps a (State.schedIter z1 z2 z3 z4 z5) := by
  unfold State.schedIter
  with_reducible apply State.sched_keeps
  exact h1

theorem execLoopIterationStart_keeps {a : State} {z1} (h1 : State.Keeps a z1) :
    OnNext (State.Keeps a) (execLoopIterationStart z1) := by
  unfold execLoopIterationStart
  refine OnNext.next ?_
  generalize (z1.page z1.arg.p z1.arg.pg).act? z1.arg.tag = o
  rcases o with _ | h
  · exact h1
  · dsimp only
    generalize h.looping = l
    rcases l with _ | lp
    · exact h1
    · dsimp only
      with_reducible refine ite_keeps (P := State.Keeps a) h1 ?_
      have hb : OnBoth (State.Keeps a) (OnFst (State.Keeps a))
          (if lp.words.isEmpty then z1.loadBody z1.arg.p z1.arg.pg h lp else .ok (z1, lp)) :=
        ite_keeps (State.loadBody_keeps h1) (OnBoth.ok (OnFst.mk h1))
      revert hb
      generalize (if lp.words.isEmpty then z1.loadBody z1.arg.p z1.arg.pg h lp else .ok (z1, lp)) = r
      intro hb
      rcases r with e | ⟨t, lp⟩
      · exact OnBoth.getError hb rfl
      · have ht : State.Keeps a t := OnFst.get (OnBoth.getOk hb rfl) rfl
        dsimp only
        exact ite_keeps (State.schedIter_keeps (State.startIter_keeps ht)) (State.startIter_keeps ht)

theorem State.resolveNext_keeps {a : State} {z1 z2 z3 z4 z5} (h1 : State.Keeps a z1) :
    State.Keeps a (State.resolveNext z1 z2 z3 z4 z5) := by
  unfold State.resolveNext
  split
  · rename_i v1 v2
    exact h1
  · rename_i v3 v4 v5
    extract_lets +onlyGivenNames x6
    have h7 : State.Keeps a x6 := by
      unfold x6
      with_reducible apply State.modAct_keeps
      exact h1
    clear_value x6
    extract_lets +onlyGivenNames x8
    have h9 : State.Keeps a x8 := by
      unfold x8
      with_reducible refine ite_keeps (P := State.Keeps a) ?_ ?_
      · refine foldl_keeps ?_ ?_
        · exact h7
        · intro y10 y11 h12
          with_reducible apply State.checkReady_keeps
          exact h12
      · exact h1
    clear_value x8
    with_reducible refine ite_keeps (P := State.Keeps a) ?_ ?_
    · exact h1
    · split
      · rename_i v13 v14 v15
        with_reducible apply State.takeTrap_keeps
        with_reducible apply State.modAct_keeps
        exact h9
      · rename_i v16 v17
        with_reducible apply State.checkDone_keeps
        exact h9

theorem State.retire_keeps {a : State} {z1 z2 z3 z4 z5 z6} (h1 : State.Keeps a z1) :
    State.Keeps a (State.retire z1 z2 z3 z4 z5 z6) := by
  induction z6 generalizing z1 z2 z3 z4 z5 with
  | zero =>
    unfold State.retire
    exact h1
  | succ n ih =>
    unfold State.retire
    extract_lets +onlyGivenNames x1
    have h2 : State.Keeps a x1 := by
      unfold x1
      with_reducible apply State.modPage_keeps
      exact h1
    clear_value x1
    split
    · rename_i v3 v4
      exact h2
    · rename_i v5 v6 v7
      split
      · rename_i v8 v9
        exact h2
      · rename_i v10 v11 v12
        extract_lets +onlyGivenNames x13
        clear_value x13
        extract_lets +onlyGivenNames x14
        clear_value x14
        extract_lets +onlyGivenNames x15
        have h16 : State.Keeps a x15 := by
          unfold x15
          with_reducible apply State.modAct_keeps
          exact h2
        clear_value x15
        extract_lets +onlyGivenNames x17
        have h18 : State.Keeps a x17 := by
          unfold x17
          with_reducible apply State.dropLists_keeps
          exact h16
        clear_value x17
        extract_lets +onlyGivenNames x19
        have h20 : State.Keeps a x19 := by
          unfold x19
          with_reducible apply State.resolveNext_keeps
          exact h16
        clear_value x19
        with_reducible refine ite_keeps (P := State.Keeps a) ?_ ?_
        · exact h16
        · with_reducible refine ite_keeps (P := State.Keeps a) ?_ ?_
          · split
            · rename_i v21 v22
              with_reducible refine ite_keeps (P := State.Keeps a) ?_ ?_
              · exact h18
              · with_reducible apply ih
                exact h18
            · rename_i v23 v24
              with_reducible apply State.repend_keeps
              with_reducible apply State.follow_keeps
              exact h18
          · with_reducible refine ite_keeps (P := State.Keeps a) ?_ ?_
            · with_reducible apply State.schedIter_keeps
              exact h20
            · exact h20

theorem execConfigDrain_keeps {a : State} {z1} (h1 : State.Keeps a z1) :
    OnNext (State.Keeps a) (execConfigDrain z1) := by
  unfold execConfigDrain
  extract_lets +onlyGivenNames x1
  clear_value x1
  extract_lets +onlyGivenNames x2
  clear_value x2
  extract_lets +onlyGivenNames x3
  clear_value x3
  refine OnNext.next ?_
  split
  · rename_i v4 v5 v6
    extract_lets +onlyGivenNames x7
    clear_value x7
    extract_lets +onlyGivenNames x8
    have h9 : State.Keeps a x8 := by
      unfold x8
      with_reducible apply State.modPage_keeps
      exact h1
    clear_value x8
    with_reducible refine ite_keeps (P := State.Keeps a) ?_ ?_
    · exact h1
    · with_reducible refine ite_keeps (P := State.Keeps a) ?_ ?_
      · with_reducible refine ite_keeps (P := State.Keeps a) ?_ ?_
        · with_reducible apply State.endStrand_keeps
          exact h9
        · with_reducible apply State.repend_keeps
          exact h9
      · with_reducible refine ite_keeps (P := State.Keeps a) ?_ ?_
        · with_reducible apply State.sched_keeps
          exact h1
        · with_reducible apply State.sched_keeps
          exact h1
  · rename_i v10 v11
    split
    · rename_i v12 v13
      exact h1
    · rename_i v14 v15 v16
      split
      · rename_i v17 v18
        exact h1
      · rename_i v19 v20 v21
        with_reducible refine ite_keeps (P := State.Keeps a) ?_ ?_
        · with_reducible refine ite_keeps (P := State.Keeps a) ?_ ?_
          · exact h1
          · with_reducible apply State.retire_keeps
            exact h1
        · with_reducible refine ite_keeps (P := State.Keeps a) ?_ ?_
          · exact h1
          · with_reducible refine ite_keeps (P := State.Keeps a) ?_ ?_
            · with_reducible apply State.sched_keeps
              exact h1
            · with_reducible apply State.sched_keeps
              exact h1

theorem execIterationRetire_keeps {a : State} {z1} (h1 : State.Keeps a z1) :
    OnNext (State.Keeps a) (execIterationRetire z1) := by
  unfold execIterationRetire
  extract_lets +onlyGivenNames x1
  clear_value x1
  extract_lets +onlyGivenNames x2
  clear_value x2
  refine OnNext.next ?_
  split
  · rename_i v3 v4
    exact h1
  · rename_i v5 v6 v7
    with_reducible refine ite_keeps (P := State.Keeps a) ?_ ?_
    · exact h1
    · split
      · rename_i v8 v9 v10
        have h11 : State.Keeps a v9 := by
          refine OnSome.get ?_ v10
          with_reducible apply State.commitWaits_keeps
          exact h1
        exact h11
      · rename_i v12 v13
        extract_lets +onlyGivenNames x14
        clear_value x14
        extract_lets +onlyGivenNames x15
        have h16 : State.Keeps a x15 := by
          unfold x15
          with_reducible apply State.commitAct_keeps
          exact h1
        clear_value x15
        split
        · rename_i v17 v18 v19 v20 v21 v22
          with_reducible apply State.applyRfts_keeps
          with_reducible apply State.holdLoop_keeps
          exact h16
        · rename_i v23 v24
          with_reducible apply State.applyRfts_keeps
          with_reducible apply State.retire_keeps
          exact h16

theorem execBlockCommit_keeps {a : State} {z1} (h1 : State.Keeps a z1) :
    OnNext (State.Keeps a) (execBlockCommit z1) := by
  unfold execBlockCommit
  extract_lets +onlyGivenNames x1
  clear_value x1
  extract_lets +onlyGivenNames x2
  clear_value x2
  refine OnNext.next ?_
  split
  · rename_i v3 v4
    exact h1
  · rename_i v5 v6 v7
    with_reducible refine ite_keeps (P := State.Keeps a) ?_ ?_
    · exact h1
    · split
      · rename_i v8 v9 v10
        have h11 : State.Keeps a v9 := by
          refine OnSome.get ?_ v10
          with_reducible apply State.commitWaits_keeps
          exact h1
        exact h11
      · rename_i v12 v13
        extract_lets +onlyGivenNames x14
        clear_value x14
        extract_lets +onlyGivenNames x15
        have h16 : State.Keeps a x15 := by
          unfold x15
          with_reducible apply State.commitAct_keeps
          exact h1
        clear_value x15
        extract_lets +onlyGivenNames x17
        clear_value x17
        extract_lets +onlyGivenNames x18
        have h19 : State.Keeps a x18 := by
          unfold x18
          split
          · rename_i v20 v21 v22 v23 v24 v25
            with_reducible apply State.holdLoop_keeps
            exact h16
          · rename_i v26 v27
            with_reducible refine ite_keeps (P := State.Keeps a) ?_ ?_
            · with_reducible apply State.endHandler_keeps
              exact h16
            · with_reducible apply State.follow_keeps
              exact h16
        clear_value x18
        with_reducible apply State.applyRfts_keeps
        exact h19

theorem State.portArrive_keeps {a : State} {z1 z2 z3} (h1 : State.Keeps a z1) :
    State.Keeps a (State.portArrive z1 z2 z3) := by
  unfold State.portArrive
  extract_lets +onlyGivenNames x1
  clear_value x1
  extract_lets +onlyGivenNames x2
  have h3 : State.Keeps a x2 := by
    unfold x2
    with_reducible apply State.modPage_keeps
    exact h1
  clear_value x2
  extract_lets +onlyGivenNames x4
  have h6 : ∀ y5, State.Keeps a (x4 y5) := by
    intro y5
    unfold x4
    with_reducible apply State.sched_keeps
    exact h3
  clear_value x4
  with_reducible refine ite_keeps (P := State.Keeps a) ?_ ?_
  · with_reducible apply State.stale_keeps
    exact h1
  · with_reducible refine ite_keeps (P := State.Keeps a) ?_ ?_
    · with_reducible apply State.appendReplay_keeps
      exact h1
    · with_reducible refine ite_keeps (P := State.Keeps a) ?_ ?_
      · with_reducible apply h6
      · with_reducible refine ite_keeps (P := State.Keeps a) ?_ ?_
        · with_reducible apply h6
        · with_reducible refine ite_keeps (P := State.Keeps a) ?_ ?_
          · with_reducible apply h6
          · split
            · rename_i v7 v8 v9
              with_reducible refine ite_keeps (P := State.Keeps a) ?_ ?_
              · with_reducible apply State.stale_keeps
                exact h3
              · exact h3
            · rename_i v10 v11
              with_reducible apply State.stale_keeps
              exact h3

theorem execTokenArrival_keeps {a : State} {z1} (h1 : State.Keeps a z1) :
    OnNext (State.Keeps a) (execTokenArrival z1) := by
  unfold execTokenArrival
  extract_lets +onlyGivenNames x1
  clear_value x1
  refine OnNext.next ?_
  split
  · rename_i v2 v3
    split
    · rename_i v4 v5 v6
      with_reducible apply State.arriveExit_keeps
      exact h1
    · rename_i v7 v8
      exact h1
  · rename_i v9 v10 v11
    with_reducible apply State.portArrive_keeps
    exact h1
  · rename_i v12 v13 v14
    with_reducible apply State.arrive_keeps
    exact h1

theorem State.spillBack_keeps {a : State} {z1 z2 z3 z4 z5} (h1 : State.Keeps a z1) :
    State.Keeps a (State.spillBack z1 z2 z3 z4 z5) := by
  unfold State.spillBack
  extract_lets +onlyGivenNames x1
  clear_value x1
  with_reducible refine ite_keeps (P := State.Keeps a) ?_ ?_
  · exact h1
  · with_reducible apply State.sched_keeps
    exact h1

theorem execSpillReturn_keeps {a : State} {z1} (h1 : State.Keeps a z1) :
    OnNext (State.Keeps a) (execSpillReturn z1) := by
  unfold execSpillReturn
  extract_lets +onlyGivenNames x1
  clear_value x1
  extract_lets +onlyGivenNames x2
  clear_value x2
  extract_lets +onlyGivenNames x3
  clear_value x3
  extract_lets +onlyGivenNames x4
  clear_value x4
  refine OnNext.next ?_
  with_reducible refine ite_keeps (P := State.Keeps a) ?_ ?_
  · with_reducible apply State.unholdAll_keeps
    refine foldl_keeps ?_ ?_
    · exact h1
    · intro y5 y6 h7
      refine foldl_keeps ?_ ?_
      · exact h7
      · intro y8 y9 h10
        with_reducible apply State.spillBack_keeps
        exact h10
  · split
    · rename_i v11 v12
      exact h1
    · rename_i v13 v14 v15
      extract_lets +onlyGivenNames x16
      clear_value x16
      extract_lets +onlyGivenNames x17
      have h18 : State.Keeps a x17 := by
        unfold x17
        with_reducible apply State.modPage_keeps
        exact h1
      clear_value x17
      extract_lets +onlyGivenNames x19
      have h20 : State.Keeps a x19 := by
        unfold x19
        with_reducible apply State.enqueue_keeps
        exact h18
      clear_value x19
      extract_lets +onlyGivenNames x21
      have h22 : State.Keeps a x21 := by
        unfold x21
        with_reducible apply State.modPage_keeps
        exact h20
      clear_value x21
      extract_lets +onlyGivenNames x23
      clear_value x23
      extract_lets +onlyGivenNames x24
      have h25 : State.Keeps a x24 := by
        unfold x24
        split
        · rename_i v26 v27
          exact h22
        · rename_i v28 v29 v30
          with_reducible refine ite_keeps (P := State.Keeps a) ?_ ?_
          · with_reducible apply State.sched_keeps
            exact h22
          · exact h22
      clear_value x24
      with_reducible refine ite_keeps (P := State.Keeps a) ?_ ?_
      · exact h1
      · with_reducible apply State.unholdAll_keeps
        exact h25

theorem execReadySetPromote_keeps {a : State} {z1} (h1 : State.Keeps a z1) :
    OnNext (State.Keeps a) (execReadySetPromote z1) := by
  unfold execReadySetPromote
  extract_lets +onlyGivenNames x1
  clear_value x1
  extract_lets +onlyGivenNames x2
  clear_value x2
  refine OnNext.next ?_
  with_reducible apply State.schedFire_keeps
  with_reducible apply State.modPage_keeps
  exact h1

theorem State.setStrandCsr_keeps {a : State} {z1 z2 z3 z4 z5 z6} (h1 : State.Keeps a z1) :
    State.Keeps a (State.setStrandCsr z1 z2 z3 z4 z5 z6) := by
  unfold State.setStrandCsr
  with_reducible apply State.modStrand_keeps
  exact h1

theorem State.setPend_keeps {a : State} {z1 z2 z3 z4 z5 z6} (h1 : State.Keeps a z1) :
    State.Keeps a (State.setPend z1 z2 z3 z4 z5 z6) := by
  unfold State.setPend
  extract_lets +onlyGivenNames x1
  clear_value x1
  with_reducible apply State.modStrand_keeps
  with_reducible apply State.setStrandCsr_keeps
  exact h1

theorem State.tryHandler_keeps {a : State} {z1 z2 z3 z4 z5 z6} (h1 : State.Keeps a z1) :
    State.Keeps a (State.tryHandler z1 z2 z3 z4 z5 z6) := by
  unfold State.tryHandler
  extract_lets +onlyGivenNames x1
  clear_value x1
  extract_lets +onlyGivenNames x2
  clear_value x2
  extract_lets +onlyGivenNames x3
  clear_value x3
  split
  · rename_i v4 v5
    exact h1
  · rename_i v6 v7 v8
    extract_lets +onlyGivenNames x9
    clear_value x9
    extract_lets +onlyGivenNames x10
    clear_value x10
    extract_lets +onlyGivenNames x11
    clear_value x11
    extract_lets +onlyGivenNames x12
    clear_value x12
    extract_lets +onlyGivenNames x13
    have h14 : State.Keeps a x13 := by
      unfold x13
      with_reducible apply State.modPage_keeps
      exact h1
    clear_value x13
    extract_lets +onlyGivenNames x15
    have h16 : State.Keeps a x15 := by
      unfold x15
      with_reducible apply State.setPend_keeps
      exact h14
    clear_value x15
    extract_lets +onlyGivenNames x17
    clear_value x17
    extract_lets +onlyGivenNames x18
    have h19 : State.Keeps a x18 := by
      unfold x18
      refine foldl_keeps ?_ ?_
      · exact h16
      · intro y20 y21 h22
        with_reducible apply State.setPend_keeps
        exact h22
    clear_value x18
    extract_lets +onlyGivenNames x23
    have h24 : State.Keeps a x23 := by
      unfold x23
      with_reducible refine ite_keeps (P := State.Keeps a) ?_ ?_
      · exact h19
      · with_reducible apply State.repend_keeps
        exact h19
    clear_value x23
    extract_lets +onlyGivenNames x25
    clear_value x25
    with_reducible refine ite_keeps (P := State.Keeps a) ?_ ?_
    · exact h1
    · with_reducible apply State.sched_keeps
      exact h24

theorem State.tryHandlers_keeps {a : State} {z1 z2 z3 z4 z5} (h1 : State.Keeps a z1) :
    State.Keeps a (State.tryHandlers z1 z2 z3 z4 z5) := by
  unfold State.tryHandlers
  refine foldl_keeps ?_ ?_
  · exact h1
  · intro y1 y2 h3
    with_reducible apply State.tryHandler_keeps
    exact h3

theorem State.writeRtagen_keeps {a : State} {z1 z2 z3 z4 z5 z6} (h1 : State.Keeps a z1) :
    State.Keeps a (State.writeRtagen z1 z2 z3 z4 z5 z6) := by
  unfold State.writeRtagen
  with_reducible apply State.tryHandlers_keeps
  with_reducible apply State.setStrandCsr_keeps
  exact h1

theorem State.writeRtagpend_keeps {a : State} {z1 z2 z3 z4 z5 z6} (h1 : State.Keeps a z1) :
    State.Keeps a (State.writeRtagpend z1 z2 z3 z4 z5 z6) := by
  unfold State.writeRtagpend
  with_reducible apply State.tryHandlers_keeps
  with_reducible apply State.setStrandCsr_keeps
  exact h1

theorem execRtagen_keeps {a : State} {z1} (h1 : State.Keeps a z1) :
    OnNext (State.Keeps a) (execRtagen z1) := by
  unfold execRtagen
  refine OnNext.next ?_
  with_reducible apply State.writeRtagen_keeps
  exact h1

theorem execRtagpend_keeps {a : State} {z1} (h1 : State.Keeps a z1) :
    OnNext (State.Keeps a) (execRtagpend z1) := by
  unfold execRtagpend
  extract_lets +onlyGivenNames x1
  clear_value x1
  extract_lets +onlyGivenNames x2
  clear_value x2
  refine OnNext.next ?_
  with_reducible refine ite_keeps (P := State.Keeps a) ?_ ?_
  · refine foldl_keeps ?_ ?_
    · exact h1
    · intro y3 y4 h5
      refine foldl_keeps ?_ ?_
      · exact h5
      · intro y6 y7 h8
        with_reducible refine ite_keeps (P := State.Keeps a) ?_ ?_
        · with_reducible apply State.tryHandlers_keeps
          exact h8
        · exact h8
  · with_reducible apply State.writeRtagpend_keeps
    exact h1

theorem State.deliverMsg_keeps {a : State} {z1 z2 z3 z4 z5} (h1 : State.Keeps a z1) :
    State.Keeps a (State.deliverMsg z1 z2 z3 z4 z5) := by
  unfold State.deliverMsg
  split
  · rename_i v1 v2
    with_reducible apply State.stale_keeps
    exact h1
  · rename_i v3 v4 v5
    split
    · rename_i v6 v7
      with_reducible apply State.stale_keeps
      exact h1
    · rename_i v8 v9
      extract_lets +onlyGivenNames x10
      clear_value x10
      with_reducible apply State.addReplay_keeps
      exact h1
    · rename_i v11 v12
      with_reducible apply State.holdSaved_keeps
      exact h1
    · rename_i v13 v14
      extract_lets +onlyGivenNames x15
      clear_value x15
      extract_lets +onlyGivenNames x16
      clear_value x16
      extract_lets +onlyGivenNames x17
      have h18 : State.Keeps a x17 := by
        unfold x17
        with_reducible apply State.modPage_keeps
        exact h1
      clear_value x17
      with_reducible refine ite_keeps (P := State.Keeps a) ?_ ?_
      · with_reducible apply State.stale_keeps
        exact h1
      · with_reducible apply State.tryHandler_keeps
        with_reducible apply State.setPend_keeps
        exact h18

theorem execMessageArrival_keeps {a : State} {z1} (h1 : State.Keeps a z1) :
    OnNext (State.Keeps a) (execMessageArrival z1) := by
  unfold execMessageArrival
  extract_lets +onlyGivenNames x1
  clear_value x1
  refine OnNext.next ?_
  with_reducible refine ite_keeps (P := State.Keeps a) ?_ ?_
  · split
    · rename_i v2 v3
      with_reducible apply State.stale_keeps
      exact h1
    · rename_i v4 v5 v6 v7
      with_reducible apply State.deliverMsg_keeps
      exact h1
  · with_reducible apply State.deliverMsg_keeps
    exact h1

theorem execMulticastCopy_keeps {a : State} {z1} (h1 : State.Keeps a z1) :
    OnNext (State.Keeps a) (execMulticastCopy z1) := by
  unfold execMulticastCopy
  extract_lets +onlyGivenNames x1
  clear_value x1
  refine OnNext.next ?_
  with_reducible apply State.deliverMsg_keeps
  exact h1

theorem execHandlerActivationStart_keeps {a : State} {z1} (h1 : State.Keeps a z1) :
    OnNext (State.Keeps a) (execHandlerActivationStart z1) := by
  unfold execHandlerActivationStart
  extract_lets +onlyGivenNames x1
  clear_value x1
  extract_lets +onlyGivenNames x2
  clear_value x2
  extract_lets +onlyGivenNames x3
  clear_value x3
  extract_lets +onlyGivenNames x4
  clear_value x4
  refine OnNext.next ?_
  split
  · rename_i v5 v6
    exact h1
  · rename_i v7 v8 v9
    extract_lets +onlyGivenNames x10
    have h12 : ∀ y11, State.Keeps a y11 → State.Keeps a (x10 y11) := by
      intro y11 h13
      unfold x10
      with_reducible apply State.setPend_keeps
      with_reducible apply State.modPage_keeps
      exact h13
    clear_value x10
    extract_lets +onlyGivenNames x14
    clear_value x14
    extract_lets +onlyGivenNames x15
    clear_value x15
    with_reducible refine ite_keeps (P := State.Keeps a) ?_ ?_
    · with_reducible apply h12
      exact h1
    · split
      · rename_i v16 v17 v18
        with_reducible apply State.takeTrap_keeps
        with_reducible apply h12
        exact h1
      · rename_i v19 v20 v21
        extract_lets +onlyGivenNames x22
        clear_value x22
        extract_lets +onlyGivenNames x23
        clear_value x23
        with_reducible apply State.sched_keeps
        with_reducible apply State.modPage_keeps
        exact h1

end Sys2Proof.Machine
end

