-- ==== Sys2Proof/Laws/Keep3.lean ====
section
/-! SUPPORT. Sys2Proof/Laws/Keep3.lean: for each operation of the model, that it keeps the clock and the canonical forms of memory
(part 3, in the order of the definitions). -/

namespace Sys2Proof.Machine

theorem State.fillStopped_keeps {a : State} {z1 z2 z3 z4 z5 z6} (h1 : State.Keeps a z1) :
    State.Keeps a (State.fillStopped z1 z2 z3 z4 z5 z6) := by
  unfold State.fillStopped
  with_reducible apply State.modFire_keeps
  exact h1

theorem State.injectLoop_keeps {a : State} {z1 z2 z3 z4 z5 z6 z7 z8} (h1 : State.Keeps a z1) :
    State.Keeps a (State.injectLoop z1 z2 z3 z4 z5 z6 z7 z8) := by
  unfold State.injectLoop
  with_reducible refine ite_keeps (P := State.Keeps a) ?_ ?_
  · with_reducible apply State.stale_keeps
    exact h1
  · with_reducible refine ite_keeps (P := State.Keeps a) ?_ ?_
    · with_reducible apply State.modAct_keeps
      exact h1
    · with_reducible apply State.addReplay_keeps
      with_reducible apply State.takeTrap_keeps
      exact h1

theorem State.injectTok_keeps {a : State} {z1 z2 z3 z4} (h1 : State.Keeps a z1) :
    State.Keeps a (State.injectTok z1 z2 z3 z4) := by
  unfold State.injectTok
  extract_lets +onlyGivenNames x1
  clear_value x1
  extract_lets +onlyGivenNames x2
  clear_value x2
  extract_lets +onlyGivenNames x3
  clear_value x3
  extract_lets +onlyGivenNames x4
  clear_value x4
  extract_lets +onlyGivenNames x5
  clear_value x5
  extract_lets +onlyGivenNames x6
  clear_value x6
  extract_lets +onlyGivenNames x7
  have h8 : State.Keeps a x7 := by
    unfold x7
    with_reducible refine ite_keeps (P := State.Keeps a) ?_ ?_
    · with_reducible apply State.modInst_keeps
      exact h1
    · exact h1
  clear_value x7
  split
  · rename_i v9 v10
    exact h8
  · rename_i v11 v12 v13
    with_reducible refine ite_keeps (P := State.Keeps a) ?_ ?_
    · with_reducible apply State.stale_keeps
      exact h8
    · with_reducible refine ite_keeps (P := State.Keeps a) ?_ ?_
      · with_reducible apply State.sched_keeps
        exact h8
      · with_reducible refine ite_keeps (P := State.Keeps a) ?_ ?_
        · with_reducible apply State.sched_keeps
          exact h8
        · with_reducible refine ite_keeps (P := State.Keeps a) ?_ ?_
          · with_reducible apply State.sched_keeps
            exact h8
          · split
            · rename_i v14 v15
              with_reducible apply State.stale_keeps
              exact h8
            · rename_i v16 v17 v18
              with_reducible refine ite_keeps (P := State.Keeps a) ?_ ?_
              · with_reducible apply State.stale_keeps
                exact h8
              · exact h8
  · rename_i v19 v20 v21
    split
    · rename_i v22 v23 v24
      with_reducible refine ite_keeps (P := State.Keeps a) ?_ ?_
      · with_reducible apply State.stale_keeps
        exact h8
      · with_reducible apply State.deliverReg_keeps
        exact h8
    · rename_i v25 v26
      with_reducible apply State.stale_keeps
      exact h8
  · rename_i v27 v28 v29 v30
    split
    · rename_i v31 v32 v33
      split
      · rename_i v34 v35 v36
        with_reducible apply State.injectLoop_keeps
        exact h8
      · rename_i v37 v38
        with_reducible apply State.enqueue_keeps
        exact h8
    · rename_i v39 v40
      split
      · rename_i v41 v42 v43
        with_reducible apply State.fillStopped_keeps
        exact h8
      · rename_i v44 v45
        with_reducible refine ite_keeps (P := State.Keeps a) ?_ ?_
        · with_reducible apply State.enqueue_keeps
          exact h8
        · with_reducible apply State.stale_keeps
          exact h8
  · rename_i v46 v47
    with_reducible apply State.stale_keeps
    exact h8

theorem State.injectStore_keeps {a : State} {z1 z2 z3 z4 z5} (h1 : State.Keeps a z1) :
    State.Keeps a (State.injectStore z1 z2 z3 z4 z5) := by
  unfold State.injectStore
  extract_lets +onlyGivenNames x1
  clear_value x1
  extract_lets +onlyGivenNames x2
  clear_value x2
  extract_lets +onlyGivenNames x3
  clear_value x3
  split
  · rename_i v4 v5
    with_reducible apply State.stale_keeps
    exact h1
  · rename_i v6 v7 v8
    extract_lets +onlyGivenNames x9
    clear_value x9
    extract_lets +onlyGivenNames x10
    clear_value x10
    extract_lets +onlyGivenNames x11
    clear_value x11
    extract_lets +onlyGivenNames x12
    clear_value x12
    extract_lets +onlyGivenNames x13
    clear_value x13
    with_reducible refine ite_keeps (P := State.Keeps a) ?_ ?_
    · with_reducible apply State.addReplay_keeps
      with_reducible apply State.takeTrap_keeps
      exact h1
    · with_reducible refine ite_keeps (P := State.Keeps a) ?_ ?_
      · with_reducible apply State.checkDone_keeps
        with_reducible apply State.modAct_keeps
        exact h1
      · split
        · rename_i v14 v15 v16
          with_reducible apply State.addReplay_keeps
          with_reducible apply State.takeTrap_keeps
          exact h1
        · rename_i v17 v18 v19 v20
          extract_lets +onlyGivenNames x21
          clear_value x21
          extract_lets +onlyGivenNames x22
          clear_value x22
          with_reducible apply State.checkDone_keeps
          with_reducible apply State.modAct_keeps
          exact h1

theorem State.injectExit_keeps {a : State} {z1 z2 z3 z4 z5} (h1 : State.Keeps a z1) :
    State.Keeps a (State.injectExit z1 z2 z3 z4 z5) := by
  unfold State.injectExit
  extract_lets +onlyGivenNames x1
  clear_value x1
  split
  · rename_i v2 v3
    with_reducible apply State.stale_keeps
    exact h1
  · rename_i v4 v5 v6
    extract_lets +onlyGivenNames x7
    clear_value x7
    with_reducible refine ite_keeps (P := State.Keeps a) ?_ ?_
    · with_reducible apply State.addReplay_keeps
      with_reducible apply State.takeTrap_keeps
      exact h1
    · with_reducible apply State.checkDone_keeps
      with_reducible apply State.modAct_keeps
      exact h1

theorem State.injectRead_keeps {a : State} {z1 z2 z3 z4} (h1 : State.Keeps a z1) :
    State.Keeps a (State.injectRead z1 z2 z3 z4) := by
  unfold State.injectRead
  extract_lets +onlyGivenNames x1
  clear_value x1
  extract_lets +onlyGivenNames x2
  clear_value x2
  split
  · rename_i v3 v4
    with_reducible apply State.stale_keeps
    exact h1
  · rename_i v5 v6 v7
    extract_lets +onlyGivenNames x8
    clear_value x8
    extract_lets +onlyGivenNames x9
    have h10 : State.Keeps a x9 := by
      unfold x9
      with_reducible apply State.modPage_keeps
      exact h1
    clear_value x9
    split
    · rename_i v11 v12
      with_reducible apply State.checkReady_keeps
      exact h10
    · rename_i v13 v14 v15
      extract_lets +onlyGivenNames x16
      have h17 : State.Keeps a x16 := by
        unfold x16
        with_reducible apply State.modAct_keeps
        exact h10
      clear_value x16
      extract_lets +onlyGivenNames x18
      have h19 : State.Keeps a x18 := by
        unfold x18
        with_reducible apply State.modAct_keeps
        exact h10
      clear_value x18
      with_reducible refine ite_keeps (P := State.Keeps a) ?_ ?_
      · with_reducible apply State.checkReady_keeps
        exact h17
      · with_reducible apply State.passReg_keeps
        exact h19

theorem State.injectOne_keeps {a : State} {z1 z2 z3 z4 z5} (h1 : State.Keeps a z1) :
    OnFst (State.Keeps a) (State.injectOne z1 z2 z3 z4 z5) := by
  unfold State.injectOne
  extract_lets +onlyGivenNames x1
  clear_value x1
  extract_lets +onlyGivenNames x2
  have h3 : State.Keeps a x2 := by
    unfold x2
    with_reducible apply State.stale_keeps
    exact h1
  clear_value x2
  extract_lets +onlyGivenNames x4
  clear_value x4
  extract_lets +onlyGivenNames x5
  clear_value x5
  with_reducible refine ite_keeps (P := OnFst (State.Keeps a)) ?_ ?_
  · refine OnFst.mk ?_
    exact h1
  · with_reducible refine ite_keeps (P := OnFst (State.Keeps a)) ?_ ?_
    · refine OnFst.mk ?_
      exact h3
    · with_reducible refine ite_keeps (P := OnFst (State.Keeps a)) ?_ ?_
      · refine OnFst.mk ?_
        exact h3
      · split
        · rename_i v6 v7 v8 v9 v10
          with_reducible refine ite_keeps (P := OnFst (State.Keeps a)) ?_ ?_
          · refine OnFst.mk ?_
            with_reducible apply State.injectStore_keeps
            exact h1
          · refine OnFst.mk ?_
            exact h3
        · rename_i v11 v12 v13 v14 v15
          with_reducible refine ite_keeps (P := OnFst (State.Keeps a)) ?_ ?_
          · refine OnFst.mk ?_
            with_reducible apply State.injectExit_keeps
            exact h1
          · refine OnFst.mk ?_
            exact h3
        · rename_i v16 v17 v18
          refine OnFst.mk ?_
          exact h3
        · rename_i v19 v20 v21
          refine OnFst.mk ?_
          exact h3
        · rename_i v22 v23 v24 v25
          refine OnFst.mk ?_
          with_reducible apply State.injectRead_keeps
          exact h1
        · rename_i v26 v27 v28 v29 v30 v31 v32
          extract_lets +onlyGivenNames x33
          clear_value x33
          with_reducible refine ite_keeps (P := OnFst (State.Keeps a)) ?_ ?_
          · refine OnFst.mk ?_
            with_reducible apply State.modPage_keeps
            exact h1
          · with_reducible refine ite_keeps (P := OnFst (State.Keeps a)) ?_ ?_
            · refine OnFst.mk ?_
              with_reducible apply State.deliverMsg_keeps
              exact h1
            · refine OnFst.mk ?_
              with_reducible apply State.injectTok_keeps
              exact h1
        · rename_i v34 v35 v36 v37 v38
          refine OnFst.mk ?_
          with_reducible apply State.injectTok_keeps
          exact h1

theorem State.reissue_keeps {a : State} {z1 z2 z3 z4} (h1 : State.Keeps a z1) :
    State.Keeps a (State.reissue z1 z2 z3 z4) := by
  unfold State.reissue
  refine foldl_keeps ?_ ?_
  · exact h1
  · intro y1 y2 h3
    extract_lets +onlyGivenNames x4
    clear_value x4
    extract_lets +onlyGivenNames x5
    clear_value x5
    extract_lets +onlyGivenNames x6
    clear_value x6
    extract_lets +onlyGivenNames x7
    clear_value x7
    with_reducible refine ite_keeps (P := State.Keeps a) ?_ ?_
    · with_reducible apply State.dropFire_keeps
      exact h3
    · with_reducible apply State.sched_keeps
      with_reducible apply State.modFire_keeps
      exact h3

theorem State.resumeInst_keeps {a : State} {z1 z2 z3} (h1 : State.Keeps a z1) :
    State.Keeps a (State.resumeInst z1 z2 z3) := by
  unfold State.resumeInst
  extract_lets +onlyGivenNames x1
  have h2 : State.Keeps a x1 := by
    unfold x1
    with_reducible apply State.freeArea_keeps
    exact h1
  clear_value x1
  extract_lets +onlyGivenNames x3
  have h4 : State.Keeps a x3 := by
    unfold x3
    with_reducible apply State.modInst_keeps
    exact h2
  clear_value x3
  extract_lets +onlyGivenNames x5
  clear_value x5
  extract_lets +onlyGivenNames x6
  have h7 : State.Keeps a x6 := by
    unfold x6
    refine foldl_keeps ?_ ?_
    · exact h4
    · intro y8 y9 h10
      extract_lets +onlyGivenNames x11
      clear_value x11
      extract_lets +onlyGivenNames x12
      clear_value x12
      extract_lets +onlyGivenNames x13
      have h14 : State.Keeps a x13 := by
        unfold x13
        with_reducible apply State.reissue_keeps
        with_reducible apply State.wake_keeps
        exact h10
      clear_value x13
      extract_lets +onlyGivenNames x15
      have h16 : State.Keeps a x15 := by
        unfold x15
        refine foldl_keeps ?_ ?_
        · exact h14
        · intro y17 y18 h19
          split
          · rename_i v20 v21
            with_reducible apply State.checkDone_keeps
            exact h19
          · rename_i v22 v23 v24
            with_reducible refine ite_keeps (P := State.Keeps a) ?_ ?_
            · exact h19
            · with_reducible refine ite_keeps (P := State.Keeps a) ?_ ?_
              · with_reducible apply State.sched_keeps
                exact h19
              · with_reducible refine ite_keeps (P := State.Keeps a) ?_ ?_
                · with_reducible apply State.schedIter_keeps
                  exact h19
                · exact h19
      clear_value x15
      extract_lets +onlyGivenNames x25
      have h26 : State.Keeps a x25 := by
        unfold x25
        refine foldl_keeps ?_ ?_
        · exact h16
        · intro y27 y28 h29
          with_reducible apply State.sched_keeps
          exact h29
      clear_value x25
      extract_lets +onlyGivenNames x30
      have h31 : State.Keeps a x30 := by
        unfold x30
        refine foldl_keeps ?_ ?_
        · exact h26
        · intro y32 y33 h34
          with_reducible apply State.enterWait_keeps
          exact h34
      clear_value x30
      with_reducible apply State.repend_keeps
      exact h31
  clear_value x6
  with_reducible apply State.prioChanged_keeps
  exact h7

theorem State.injectNext_keeps {a : State} {z1 z2 z3 z4} (h1 : State.Keeps a z1) :
    State.Keeps a (State.injectNext z1 z2 z3 z4) := by
  unfold State.injectNext
  extract_lets +onlyGivenNames x1
  clear_value x1
  split
  · rename_i v2 v3
    exact h1
  · rename_i v4 v5
    with_reducible apply State.resumeInst_keeps
    exact h1
  · rename_i v6 v7 v8 v9
    extract_lets +onlyGivenNames x10
    have h11 : State.Keeps a x10 := by
      unfold x10
      with_reducible apply State.modInst_keeps
      exact h1
    clear_value x10
    extract_lets +onlyGivenNames x12
    have h13 : OnFst (State.Keeps a) x12 := by
      unfold x12
      with_reducible apply State.injectOne_keeps
      exact h11
    clear_value x12
    extract_lets +onlyGivenNames x14
    have h15 : State.Keeps a x14 := by
      unfold x14
      exact h13
    clear_value x14
    extract_lets +onlyGivenNames x16
    have h17 : State.Keeps a x16 := by
      unfold x16
      with_reducible apply State.modInst_keeps
      exact h15
    clear_value x16
    with_reducible refine ite_keeps (P := State.Keeps a) ?_ ?_
    · with_reducible apply State.sched_keeps
      exact h17
    · with_reducible apply State.modInst_keeps
      exact h15

theorem State.reloadImage_keeps {a : State} {z1 z2 z3 z4} (h1 : State.Keeps a z1) :
    State.Keeps a (State.reloadImage z1 z2 z3 z4) := by
  unfold State.reloadImage
  split
  · rename_i v1 v2 v3
    with_reducible apply State.modAct_keeps
    exact h1
  · rename_i v4 v5 v6 v7
    with_reducible apply State.takeTrap_keeps
    exact h1

theorem State.reloadImages_keeps {a : State} {z1 z2 z3} (h1 : State.Keeps a z1) :
    State.Keeps a (State.reloadImages z1 z2 z3) := by
  unfold State.reloadImages
  refine foldl_keeps ?_ ?_
  · exact h1
  · intro y1 y2 h3
    refine foldl_keeps ?_ ?_
    · exact h3
    · intro y4 y5 h6
      with_reducible apply State.reloadImage_keeps
      exact h6

theorem State.beginInject_keeps {a : State} {z1 z2 z3} (h1 : State.Keeps a z1) :
    State.Keeps a (State.beginInject z1 z2 z3) := by
  unfold State.beginInject
  extract_lets +onlyGivenNames x1
  clear_value x1
  with_reducible refine ite_keeps (P := State.Keeps a) ?_ ?_
  · exact h1
  · split
    · rename_i v2 v3
      with_reducible apply State.doubleFault_keeps
      exact h1
    · rename_i v4 v5 v6
      with_reducible apply State.reloadImages_keeps
      with_reducible apply State.modInst_keeps
      exact h1

theorem execReplayInject_keeps {a : State} {z1} (h1 : State.Keeps a z1) :
    OnNext (State.Keeps a) (execReplayInject z1) := by
  unfold execReplayInject
  extract_lets +onlyGivenNames x1
  clear_value x1
  extract_lets +onlyGivenNames x2
  clear_value x2
  refine OnNext.next ?_
  with_reducible refine ite_keeps (P := State.Keeps a) ?_ ?_
  · with_reducible apply State.stale_keeps
    exact h1
  · with_reducible refine ite_keeps (P := State.Keeps a) ?_ ?_
    · with_reducible refine ite_keeps (P := State.Keeps a) ?_ ?_
      · with_reducible apply State.stale_keeps
        exact h1
      · with_reducible refine ite_keeps (P := State.Keeps a) ?_ ?_
        · with_reducible apply State.modInst_keeps
          exact h1
        · with_reducible refine ite_keeps (P := State.Keeps a) ?_ ?_
          · with_reducible apply State.sched_keeps
            exact h1
          · with_reducible apply State.injectNext_keeps
            with_reducible apply State.beginInject_keeps
            exact h1
    · with_reducible apply State.injectNext_keeps
      exact h1

theorem State.writePinned_keeps {a : State} {z1 z2 z3 z4 z5} (h1 : State.Keeps a z1) :
    OnOk (State.Keeps a) (State.writePinned z1 z2 z3 z4 z5) := by
  induction z3 generalizing z1 z2 z4 z5 with
  | zero =>
    unfold State.writePinned
    refine OnOk.ok ?_
    exact h1
  | succ n ih =>
    unfold State.writePinned
    with_reducible refine ite_keeps (P := OnOk (State.Keeps a)) ?_ ?_
    · refine OnOk.ok ?_
      exact h1
    · split
      · rename_i v1 v2 v3
        exact OnOk.error
      · rename_i v4 v5 v6
        extract_lets +onlyGivenNames x7
        clear_value x7
        with_reducible refine ite_keeps (P := OnOk (State.Keeps a)) ?_ ?_
        · exact OnOk.error
        · with_reducible apply ih
          with_reducible apply State.memWrite_keeps
          exact h1

theorem State.injectAll_keeps {a : State} {z1 z2 z3 z4} (h1 : State.Keeps a z1) :
    State.Keeps a (State.injectAll z1 z2 z3 z4) := by
  induction z4 generalizing z1 z2 z3 with
  | zero =>
    unfold State.injectAll
    exact h1
  | succ n ih =>
    unfold State.injectAll
    extract_lets +onlyGivenNames x1
    clear_value x1
    split
    · rename_i v2 v3 v4 v5
      extract_lets +onlyGivenNames x6
      have h7 : State.Keeps a x6 := by
        unfold x6
        with_reducible apply State.modInst_keeps
        exact h1
      clear_value x6
      extract_lets +onlyGivenNames x8
      have h9 : OnFst (State.Keeps a) x8 := by
        unfold x8
        with_reducible apply State.injectOne_keeps
        exact h7
      clear_value x8
      with_reducible refine ite_keeps (P := State.Keeps a) ?_ ?_
      · with_reducible apply ih
        with_reducible apply State.modInst_keeps
        exact h9
      · with_reducible apply State.modInst_keeps
        exact h9
    · rename_i v10 v11
      with_reducible apply State.resumeInst_keeps
      exact h1
    · rename_i v12 v13
      exact h1

theorem State.thaw_keeps {a : State} {z1 z2 z3} (h1 : State.Keeps a z1) :
    State.Keeps a (State.thaw z1 z2 z3) := by
  unfold State.thaw
  extract_lets +onlyGivenNames x1
  have h2 : State.Keeps a x1 := by
    unfold x1
    with_reducible apply State.modInst_keeps
    exact h1
  clear_value x1
  extract_lets +onlyGivenNames x3
  clear_value x3
  extract_lets +onlyGivenNames x4
  have h5 : State.Keeps a x4 := by
    unfold x4
    with_reducible apply State.modInst_keeps
    exact h2
  clear_value x4
  with_reducible refine ite_keeps (P := State.Keeps a) ?_ ?_
  · exact h2
  · with_reducible refine ite_keeps (P := State.Keeps a) ?_ ?_
    · with_reducible apply State.injectAll_keeps
      exact h5
    · with_reducible apply State.resumeInst_keeps
      exact h2

theorem State.countPre_keeps {a : State} {z1 z2 z3} (h1 : State.Keeps a z1) :
    State.Keeps a (State.countPre z1 z2 z3) := by
  unfold State.countPre
  with_reducible apply State.bumpCsr_keeps
  exact h1

theorem State.askSave_keeps {a : State} {z1 z2 z3 z4 z5} (h1 : State.Keeps a z1) :
    State.Keeps a (State.askSave z1 z2 z3 z4 z5) := by
  unfold State.askSave
  extract_lets +onlyGivenNames x1
  have h2 : State.Keeps a x1 := by
    unfold x1
    with_reducible apply State.modInst_keeps
    exact h1
  clear_value x1
  extract_lets +onlyGivenNames x3
  clear_value x3
  extract_lets +onlyGivenNames x4
  clear_value x4
  with_reducible apply State.sched_keeps
  with_reducible apply State.sched_keeps
  exact h2

theorem State.freezeForSave_keeps {a : State} {z1 z2 z3 z4 z5} (h1 : State.Keeps a z1) :
    State.Keeps a (State.freezeForSave z1 z2 z3 z4 z5) := by
  unfold State.freezeForSave
  extract_lets +onlyGivenNames x1
  have h2 : State.Keeps a x1 := by
    unfold x1
    with_reducible refine ite_keeps (P := State.Keeps a) ?_ ?_
    · with_reducible apply State.modInst_keeps
      with_reducible apply State.freeArea_keeps
      exact h1
    · exact h1
  clear_value x1
  extract_lets +onlyGivenNames x3
  have h4 : State.Keeps a x3 := by
    unfold x3
    with_reducible refine ite_keeps (P := State.Keeps a) ?_ ?_
    · with_reducible apply State.freeze_keeps
      exact h2
    · exact h2
  clear_value x3
  extract_lets +onlyGivenNames x5
  have h6 : State.Keeps a x5 := by
    unfold x5
    with_reducible apply State.modInst_keeps
    exact h4
  clear_value x5
  with_reducible apply State.sched_keeps
  exact h6

theorem execStrandBoundaryStop_keeps {a : State} {z1} (h1 : State.Keeps a z1) :
    OnNext (State.Keeps a) (execStrandBoundaryStop z1) := by
  unfold execStrandBoundaryStop
  extract_lets +onlyGivenNames x1
  clear_value x1
  extract_lets +onlyGivenNames x2
  have h3 : State.Keeps a x2 := by
    unfold x2
    with_reducible refine ite_keeps (P := State.Keeps a) ?_ ?_
    · exact h1
    · with_reducible apply State.modStrand_keeps
      exact h1
  clear_value x2
  extract_lets +onlyGivenNames x4
  clear_value x4
  refine OnNext.next ?_
  split
  · rename_i v5 v6
    exact h3
  · rename_i v7 v8 v9
    with_reducible refine ite_keeps (P := State.Keeps a) ?_ ?_
    · exact h3
    · with_reducible refine ite_keeps (P := State.Keeps a) ?_ ?_
      · with_reducible apply State.freezeForSave_keeps
        exact h3
      · with_reducible refine ite_keeps (P := State.Keeps a) ?_ ?_
        · with_reducible apply State.sched_keeps
          exact h3
        · exact h3

theorem execCheckpointCut_keeps {a : State} {z1} (h1 : State.Keeps a z1) :
    OnNext (State.Keeps a) (execCheckpointCut z1) := by
  unfold execCheckpointCut
  extract_lets +onlyGivenNames x1
  clear_value x1
  extract_lets +onlyGivenNames x2
  clear_value x2
  refine OnNext.next ?_
  split
  · rename_i v3 v4
    exact h1
  · rename_i v5 v6 v7
    with_reducible refine ite_keeps (P := State.Keeps a) ?_ ?_
    · exact h1
    · with_reducible refine ite_keeps (P := State.Keeps a) ?_ ?_
      · with_reducible apply State.sched_keeps
        exact h1
      · with_reducible refine ite_keeps (P := State.Keeps a) ?_ ?_
        · with_reducible apply State.freezeForSave_keeps
          exact h1
        · exact h1

theorem State.preKill_keeps {a : State} {z1 z2 z3} (h1 : State.Keeps a z1) :
    State.Keeps a (State.preKill z1 z2 z3) := by
  unfold State.preKill
  with_reducible apply State.kill_keeps
  with_reducible apply State.countPre_keeps
  exact h1

theorem State.killOrDrain_keeps {a : State} {z1 z2 z3 z4} (h1 : State.Keeps a z1) :
    State.Keeps a (State.killOrDrain z1 z2 z3 z4) := by
  unfold State.killOrDrain
  extract_lets +onlyGivenNames x1
  clear_value x1
  with_reducible refine ite_keeps (P := State.Keeps a) ?_ ?_
  · with_reducible apply State.preKill_keeps
    exact h1
  · with_reducible apply State.countPre_keeps
    exact h1

theorem State.pauseFails_keeps {a : State} {z1 z2} (h1 : State.Keeps a z1) :
    State.Keeps a (State.pauseFails z1 z2) := by
  unfold State.pauseFails
  extract_lets +onlyGivenNames x1
  have h2 : State.Keeps a x1 := by
    unfold x1
    with_reducible apply State.modPart_keeps
    exact h1
  clear_value x1
  extract_lets +onlyGivenNames x3
  have h4 : State.Keeps a x3 := by
    unfold x3
    refine foldl_keeps ?_ ?_
    · exact h2
    · intro y5 y6 h7
      with_reducible apply State.thaw_keeps
      exact h7
  clear_value x3
  refine State.Keeps.upd (s := x3) rfl rfl rfl rfl ?_
  exact h4

theorem State.keepArea_keeps {a : State} {z1 z2 z3 z4 z5} (h1 : State.Keeps a z1) :
    State.Keeps a (State.keepArea z1 z2 z3 z4 z5) := by
  unfold State.keepArea
  with_reducible apply State.modInst_keeps
  exact h1

theorem State.areaTrap_keeps {a : State} {z1 z2 z3 z4 z5} (h1 : State.Keeps a z1) :
    State.Keeps a (State.areaTrap z1 z2 z3 z4 z5) := by
  unfold State.areaTrap
  split
  · rename_i v1 v2
    exact h1
  · rename_i v3 v4 v5 v6
    extract_lets +onlyGivenNames x7
    clear_value x7
    extract_lets +onlyGivenNames x8
    have h10 : ∀ y9, State.Keeps a y9 → State.Keeps a (x8 y9) := by
      intro y9 h11
      unfold x8
      with_reducible refine ite_keeps (P := State.Keeps a) ?_ ?_
      · with_reducible apply State.modPage_keeps
        with_reducible apply State.dropFire_keeps
        exact h11
      · exact h11
    clear_value x8
    with_reducible refine ite_keeps (P := State.Keeps a) ?_ ?_
    · with_reducible apply h10
      with_reducible apply State.dropFire_keeps
      with_reducible apply State.addReplay_keeps
      exact h1
    · with_reducible apply State.trapFire_keeps
      with_reducible apply h10
      with_reducible apply State.modFire_keeps
      exact h1

theorem State.failRequest_keeps {a : State} {z1 z2 z3 z4} (h1 : State.Keeps a z1) :
    State.Keeps a (State.failRequest z1 z2 z3 z4) := by
  unfold State.failRequest
  extract_lets +onlyGivenNames x1
  have h2 : State.Keeps a x1 := by
    unfold x1
    with_reducible apply State.modPart_keeps
    exact h1
  clear_value x1
  split
  · rename_i v3 v4 v5 v6
    with_reducible refine ite_keeps (P := State.Keeps a) ?_ ?_
    · with_reducible apply State.keepArea_keeps
      exact h2
    · with_reducible apply State.areaTrap_keeps
      exact h2
  · rename_i v7 v8 v9
    with_reducible apply State.keepArea_keeps
    exact h2
  · rename_i v10 v11 v12 v13
    with_reducible apply State.sched_keeps
    exact h2
  · rename_i v14 v15 v16
    with_reducible apply State.doubleFault_keeps
    exact h2

theorem State.saveFails_keeps {a : State} {z1 z2 z3 z4} (h1 : State.Keeps a z1) :
    State.Keeps a (State.saveFails z1 z2 z3 z4) := by
  unfold State.saveFails
  split
  · rename_i v1 v2
    exact h1
  · rename_i v3 v4 v5
    extract_lets +onlyGivenNames x6
    have h7 : State.Keeps a x6 := by
      unfold x6
      split
      · rename_i v8 v9
        with_reducible refine ite_keeps (P := State.Keeps a) ?_ ?_
        · exact h1
        · with_reducible apply State.countPre_keeps
          with_reducible apply State.postPf_keeps
          exact h1
      · rename_i v10
        exact h1
    clear_value x6
    extract_lets +onlyGivenNames x11
    have h12 : State.Keeps a x11 := by
      unfold x11
      with_reducible apply State.thaw_keeps
      exact h7
    clear_value x11
    split
    · rename_i v13 v14
      with_reducible refine ite_keeps (P := State.Keeps a) ?_ ?_
      · with_reducible apply State.countPre_keeps
        exact h12
      · with_reducible apply State.killOrDrain_keeps
        exact h12
    · rename_i v15 v16
      split
      · rename_i v17 v18 v19
        extract_lets +onlyGivenNames x20
        clear_value x20
        extract_lets +onlyGivenNames x21
        have h22 : State.Keeps a x21 := by
          unfold x21
          refine foldl_keeps ?_ ?_
          · exact h12
          · intro y23 y24 h25
            extract_lets +onlyGivenNames x26
            have h27 : State.Keeps a x26 := by
              unfold x26
              split
              · rename_i v28 v29 v30 v31
                with_reducible apply State.freeRunOf_keeps
                exact h25
              · rename_i v32 v33
                exact h25
            clear_value x26
            extract_lets +onlyGivenNames x34
            have h35 : State.Keeps a x34 := by
              unfold x34
              with_reducible apply State.cancel_keeps
              exact h27
            clear_value x34
            with_reducible apply State.thaw_keeps
            exact h35
        clear_value x21
        with_reducible apply State.kick_keeps
        with_reducible apply State.failRequest_keeps
        exact h22
      · rename_i v36 v37
        with_reducible apply State.kick_keeps
        exact h12
    · rename_i v38 v39
      with_reducible apply State.gswNext_keeps
      exact h12
    · rename_i v40 v41 v42 v43
      with_reducible apply State.pauseFails_keeps
      exact h12

theorem State.readmit_keeps {a : State} {z1 z2} (h1 : State.Keeps a z1) :
    State.Keeps a (State.readmit z1 z2) := by
  unfold State.readmit
  extract_lets +onlyGivenNames x1
  clear_value x1
  extract_lets +onlyGivenNames x2
  clear_value x2
  extract_lets +onlyGivenNames x3
  have h4 : State.Keeps a x3 := by
    unfold x3
    refine foldl_keeps ?_ ?_
    · exact h1
    · intro y5 y6 h7
      split
      · rename_i v8 v9
        exact h7
      · rename_i v10 v11 v12
        extract_lets +onlyGivenNames x13
        clear_value x13
        with_reducible refine ite_keeps (P := State.Keeps a) ?_ ?_
        · exact h7
        · with_reducible apply State.request_keeps
          exact h7
  clear_value x3
  with_reducible refine ite_keeps (P := State.Keeps a) ?_ ?_
  · exact h1
  · with_reducible apply State.kick_keeps
    exact h4

theorem execContextSaveSizing_keeps {a : State} {z1} (h1 : State.Keeps a z1) :
    OnNext (State.Keeps a) (execContextSaveSizing z1) := by
  unfold execContextSaveSizing
  extract_lets +onlyGivenNames x1
  clear_value x1
  extract_lets +onlyGivenNames x2
  clear_value x2
  extract_lets +onlyGivenNames x3
  clear_value x3
  refine OnNext.next ?_
  split
  · rename_i v4 v5
    exact h1
  · rename_i v6 v7 v8
    extract_lets +onlyGivenNames x9
    clear_value x9
    extract_lets +onlyGivenNames x10
    have h12 : ∀ y11, State.Keeps a y11 → State.Keeps a (x10 y11) := by
      intro y11 h13
      unfold x10
      with_reducible apply State.sched_keeps
      exact h13
    clear_value x10
    split
    · rename_i v14 v15 v16
      with_reducible apply h12
      exact h1
    · rename_i v17 v18
      split
      · rename_i v19 v20
        with_reducible apply State.saveFails_keeps
        exact h1
      · rename_i v21 v22 v23 v24
        have h25 : State.Keeps a v22 := by
          refine OnFst.get (OnSome.get ?_ v24) rfl
          with_reducible apply State.takeRun_keeps
          exact h1
        with_reducible apply h12
        with_reducible apply State.modInst_keeps
        exact h25

theorem State.intoRecord_keeps {a : State} {z1 z2 z3 z4} (h1 : State.Keeps a z1) :
    State.Keeps a (State.intoRecord z1 z2 z3 z4) := by
  unfold State.intoRecord
  extract_lets +onlyGivenNames x1
  clear_value x1
  extract_lets +onlyGivenNames x2
  clear_value x2
  extract_lets +onlyGivenNames x3
  clear_value x3
  extract_lets +onlyGivenNames x4
  have h5 : State.Keeps a x4 := by
    unfold x4
    with_reducible apply State.cancel_keeps
    exact h1
  clear_value x4
  extract_lets +onlyGivenNames x6
  have h7 : State.Keeps a x6 := by
    unfold x6
    refine foldl_keeps ?_ ?_
    · exact h5
    · intro y8 y9 h10
      with_reducible apply State.modPage_keeps
      exact h10
  clear_value x6
  with_reducible apply State.modInst_keeps
  exact h7

theorem State.victimSaved_keeps {a : State} {z1 z2 z3} (h1 : State.Keeps a z1) :
    State.Keeps a (State.victimSaved z1 z2 z3) := by
  unfold State.victimSaved
  with_reducible apply State.sched_keeps
  exact h1

theorem execContextSaveWrite_keeps {a : State} {z1} (h1 : State.Keeps a z1) :
    OnNext (State.Keeps a) (execContextSaveWrite z1) := by
  unfold execContextSaveWrite
  extract_lets +onlyGivenNames x1
  clear_value x1
  extract_lets +onlyGivenNames x2
  clear_value x2
  extract_lets +onlyGivenNames x3
  clear_value x3
  refine OnNext.next ?_
  split
  · rename_i v4 v5
    exact h1
  · rename_i v6 v7 v8
    split
    · rename_i v9 v10
      exact h1
    · rename_i v11 v12 v13 v14
      extract_lets +onlyGivenNames x15
      clear_value x15
      extract_lets +onlyGivenNames x16
      clear_value x16
      extract_lets +onlyGivenNames x17
      clear_value x17
      extract_lets +onlyGivenNames x18
      clear_value x18
      extract_lets +onlyGivenNames x19
      clear_value x19
      extract_lets +onlyGivenNames x20
      clear_value x20
      split
      · rename_i v21 v22 v23
        with_reducible apply State.saveFails_keeps
        with_reducible apply State.freeRunOf_keeps
        exact h1
      · rename_i v24 v25 v26
        have h27 : State.Keeps a v25 := by
          refine OnOk.get ?_ v26
          with_reducible apply State.writePinned_keeps
          exact h1
        extract_lets +onlyGivenNames x28
        have h29 : State.Keeps a x28 := by
          unfold x28
          refine State.Keeps.upd (s := v25) rfl rfl rfl rfl ?_
          exact h27
        clear_value x28
        extract_lets +onlyGivenNames x30
        have h31 : State.Keeps a x30 := by
          unfold x30
          with_reducible apply State.intoRecord_keeps
          exact h29
        clear_value x30
        extract_lets +onlyGivenNames x32
        have h33 : State.Keeps a x32 := by
          unfold x32
          split
          · rename_i v34 v35
            have h36 : State.Keeps a v25 := by
              refine OnOk.get ?_ v26
              with_reducible apply State.writePinned_keeps
              exact h1
            with_reducible apply State.countPre_keeps
            exact h31
          · rename_i v37 v38
            have h39 : State.Keeps a v25 := by
              refine OnOk.get ?_ v26
              with_reducible apply State.writePinned_keeps
              exact h1
            with_reducible apply State.victimSaved_keeps
            exact h31
          · rename_i v40 v41
            have h42 : State.Keeps a v25 := by
              refine OnOk.get ?_ v26
              with_reducible apply State.writePinned_keeps
              exact h1
            with_reducible apply State.gswNext_keeps
            with_reducible apply State.countPre_keeps
            exact h31
          · rename_i v43 v44 v45 v46
            have h47 : State.Keeps a v25 := by
              refine OnOk.get ?_ v26
              with_reducible apply State.writePinned_keeps
              exact h1
            with_reducible apply State.countPre_keeps
            exact h31
        clear_value x32
        with_reducible apply State.kick_keeps
        with_reducible apply State.readmit_keeps
        with_reducible apply State.sched_keeps
        exact h33

theorem State.preDecide_keeps {a : State} {z1 z2 z3 z4} (h1 : State.Keeps a z1) :
    State.Keeps a (State.preDecide z1 z2 z3 z4) := by
  unfold State.preDecide
  extract_lets +onlyGivenNames x1
  clear_value x1
  with_reducible refine ite_keeps (P := State.Keeps a) ?_ ?_
  · exact h1
  · with_reducible refine ite_keeps (P := State.Keeps a) ?_ ?_
    · with_reducible apply State.countPre_keeps
      exact h1
    · with_reducible refine ite_keeps (P := State.Keeps a) ?_ ?_
      · with_reducible apply State.askSave_keeps
        exact h1
      · with_reducible apply State.killOrDrain_keeps
        exact h1

theorem State.acceptPre_keeps {a : State} {z1 z2} (h1 : State.Keeps a z1) :
    State.Keeps a (State.acceptPre z1 z2) := by
  unfold State.acceptPre
  extract_lets +onlyGivenNames x1
  clear_value x1
  with_reducible refine ite_keeps (P := State.Keeps a) ?_ ?_
  · exact h1
  · split
    · rename_i v2 v3
      exact h1
    · rename_i v4 v5 v6
      extract_lets +onlyGivenNames x7
      clear_value x7
      extract_lets +onlyGivenNames x8
      have h9 : State.Keeps a x8 := by
        unfold x8
        with_reducible apply State.modPart_keeps
        exact h1
      clear_value x8
      extract_lets +onlyGivenNames x10
      have h11 : State.Keeps a x10 := by
        unfold x10
        refine foldl_keeps ?_ ?_
        · exact h9
        · intro y12 y13 h14
          refine foldl_keeps ?_ ?_
          · exact h14
          · intro y15 y16 h17
            with_reducible apply State.preDecide_keeps
            exact h17
      clear_value x10
      with_reducible apply State.sched_keeps
      exact h11

theorem State.askPre_keeps {a : State} {z1 z2 z3 z4 z5} (h1 : State.Keeps a z1) :
    State.Keeps a (State.askPre z1 z2 z3 z4 z5) := by
  unfold State.askPre
  with_reducible apply State.acceptPre_keeps
  with_reducible apply State.modPart_keeps
  exact h1

theorem execPreempt_keeps {a : State} {z1} (h1 : State.Keeps a z1) :
    OnNext (State.Keeps a) (execPreempt z1) := by
  unfold execPreempt
  extract_lets +onlyGivenNames x1
  clear_value x1
  extract_lets +onlyGivenNames x2
  clear_value x2
  extract_lets +onlyGivenNames x3
  have h4 : State.Keeps a x3 := by
    unfold x3
    with_reducible refine ite_keeps (P := State.Keeps a) ?_ ?_
    · with_reducible apply State.askPre_keeps
      exact h1
    · exact h1
  clear_value x3
  refine OnNext.next ?_
  refine State.Keeps.upd (s := x3) rfl rfl rfl rfl ?_
  exact h4

theorem execPreemptionComplete_keeps {a : State} {z1} (h1 : State.Keeps a z1) :
    OnNext (State.Keeps a) (execPreemptionComplete z1) := by
  unfold execPreemptionComplete
  extract_lets +onlyGivenNames x1
  clear_value x1
  extract_lets +onlyGivenNames x2
  clear_value x2
  extract_lets +onlyGivenNames x3
  clear_value x3
  extract_lets +onlyGivenNames x4
  have h5 : State.Keeps a x4 := by
    unfold x4
    with_reducible apply State.modPart_keeps
    exact h1
  clear_value x4
  extract_lets +onlyGivenNames x6
  have h7 : State.Keeps a x6 := by
    unfold x6
    refine foldl_keeps ?_ ?_
    · exact h5
    · intro y8 y9 h10
      extract_lets +onlyGivenNames x11
      have h12 : State.Keeps a x11 := by
        unfold x11
        with_reducible apply State.postPf_keeps
        exact h10
      clear_value x11
      with_reducible refine ite_keeps (P := State.Keeps a) ?_ ?_
      · with_reducible apply State.modPart_keeps
        exact h12
      · exact h12
  clear_value x6
  extract_lets +onlyGivenNames x13
  have h14 : State.Keeps a x13 := by
    unfold x13
    with_reducible refine ite_keeps (P := State.Keeps a) ?_ ?_
    · with_reducible apply State.sched_keeps
      with_reducible apply State.modPart_keeps
      exact h7
    · exact h7
  clear_value x13
  refine OnNext.next ?_
  with_reducible refine ite_keeps (P := State.Keeps a) ?_ ?_
  · exact h1
  · with_reducible apply State.kick_keeps
    with_reducible apply State.readmit_keeps
    exact h14

theorem State.gswGo_keeps {a : State} {z1 z2} (h1 : State.Keeps a z1) :
    State.Keeps a (State.gswGo z1 z2) := by
  unfold State.gswGo
  extract_lets +onlyGivenNames x1
  clear_value x1
  extract_lets +onlyGivenNames x2
  clear_value x2
  extract_lets +onlyGivenNames x3
  clear_value x3
  extract_lets +onlyGivenNames x4
  clear_value x4
  extract_lets +onlyGivenNames x5
  have h6 : State.Keeps a x5 := by
    unfold x5
    with_reducible apply State.setCsrF_keeps
    with_reducible apply State.modPart_keeps
    exact h1
  clear_value x5
  with_reducible refine ite_keeps (P := State.Keeps a) ?_ ?_
  · exact h1
  · with_reducible refine ite_keeps (P := State.Keeps a) ?_ ?_
    · with_reducible apply State.setCsrF_keeps
      exact h1
    · with_reducible refine ite_keeps (P := State.Keeps a) ?_ ?_
      · exact h6
      · with_reducible apply State.sched_keeps
        exact h6

theorem execGuestSwitch_keeps {a : State} {z1} (h1 : State.Keeps a z1) :
    OnNext (State.Keeps a) (execGuestSwitch z1) := by
  unfold execGuestSwitch
  extract_lets +onlyGivenNames x1
  clear_value x1
  refine OnNext.next ?_
  split
  · rename_i v2 v3
    exact h1
  · rename_i v4 v5 v6
    with_reducible refine ite_keeps (P := State.Keeps a) ?_ ?_
    · exact h1
    · split
      · rename_i v7 v8
        extract_lets +onlyGivenNames x9
        have h10 : State.Keeps a x9 := by
          unfold x9
          with_reducible apply State.setCsrF_keeps
          with_reducible apply State.setCsrF_keeps
          exact h1
        clear_value x9
        with_reducible apply State.readmit_keeps
        with_reducible apply State.acceptPre_keeps
        with_reducible apply State.modPart_keeps
        exact h10
      · rename_i v11 v12 v13 v14 v15 v16
        extract_lets +onlyGivenNames x17
        have h18 : State.Keeps a x17 := by
          unfold x17
          with_reducible apply State.modPart_keeps
          exact h1
        clear_value x17
        split
        · rename_i v19 v20
          with_reducible apply State.gswNext_keeps
          exact h18
        · rename_i v21 v22 v23
          with_reducible refine ite_keeps (P := State.Keeps a) ?_ ?_
          · with_reducible apply State.gswNext_keeps
            exact h18
          · with_reducible refine ite_keeps (P := State.Keeps a) ?_ ?_
            · with_reducible refine ite_keeps (P := State.Keeps a) ?_ ?_
              · with_reducible apply State.gswNext_keeps
                with_reducible apply State.modInst_keeps
                exact h18
              · with_reducible apply State.gswNext_keeps
                exact h18
            · with_reducible refine ite_keeps (P := State.Keeps a) ?_ ?_
              · with_reducible apply State.gswNext_keeps
                exact h18
              · with_reducible apply State.askSave_keeps
                with_reducible apply State.modPart_keeps
                exact h18

theorem State.newInst_keeps {a : State} {z1 z2 z3 z4 z5 z6 z7 z8} (h1 : State.Keeps a z1) :
    State.Keeps a (State.newInst z1 z2 z3 z4 z5 z6 z7 z8) := by
  unfold State.newInst
  extract_lets +onlyGivenNames x1
  clear_value x1
  extract_lets +onlyGivenNames x2
  clear_value x2
  extract_lets +onlyGivenNames x3
  clear_value x3
  extract_lets +onlyGivenNames x4
  clear_value x4
  extract_lets +onlyGivenNames x5
  clear_value x5
  extract_lets +onlyGivenNames x6
  clear_value x6
  extract_lets +onlyGivenNames x7
  have h8 : State.Keeps a x7 := by
    unfold x7
    with_reducible apply State.modPart_keeps
    exact h1
  clear_value x7
  extract_lets +onlyGivenNames x9
  have h10 : State.Keeps a x9 := by
    unfold x9
    refine foldl_keeps ?_ ?_
    · exact h8
    · intro y11 y12 h13
      with_reducible apply State.modPage_keeps
      exact h13
  clear_value x9
  extract_lets +onlyGivenNames x14
  clear_value x14
  extract_lets +onlyGivenNames x15
  have h16 : State.Keeps a x15 := by
    unfold x15
    with_reducible apply State.sched_keeps
    exact h10
  clear_value x15
  extract_lets +onlyGivenNames x17
  have h18 : State.Keeps a x17 := by
    unfold x17
    with_reducible refine ite_keeps (P := State.Keeps a) ?_ ?_
    · with_reducible apply State.sched_keeps
      exact h16
    · exact h16
  clear_value x17
  split
  · rename_i v19 v20 v21 v22
    with_reducible apply State.prioChanged_keeps
    exact h18
  · rename_i v23 v24
    exact h18

theorem State.regrant_keeps {a : State} {z1 z2 z3 z4 z5 z6} (h1 : State.Keeps a z1) :
    State.Keeps a (State.regrant z1 z2 z3 z4 z5 z6) := by
  unfold State.regrant
  extract_lets +onlyGivenNames x1
  clear_value x1
  extract_lets +onlyGivenNames x2
  clear_value x2
  extract_lets +onlyGivenNames x3
  have h4 : State.Keeps a x3 := by
    unfold x3
    with_reducible apply State.modPart_keeps
    exact h1
  clear_value x3
  extract_lets +onlyGivenNames x5
  clear_value x5
  extract_lets +onlyGivenNames x6
  have h7 : State.Keeps a x6 := by
    unfold x6
    with_reducible apply State.modInst_keeps
    exact h4
  clear_value x6
  with_reducible apply State.sched_keeps
  exact h7

theorem State.grant_keeps {a : State} {z1 z2 z3 z4 z5} (h1 : State.Keeps a z1) :
    State.Keeps a (State.grant z1 z2 z3 z4 z5) := by
  unfold State.grant
  extract_lets +onlyGivenNames x1
  clear_value x1
  extract_lets +onlyGivenNames x2
  clear_value x2
  extract_lets +onlyGivenNames x3
  have h5 : ∀ y4, State.Keeps a (x3 y4) := by
    intro y4
    unfold x3
    split
    · rename_i v6 v7 v8
      with_reducible apply State.newInst_keeps
      exact h1
    · rename_i v9 v10
      exact h1
  clear_value x3
  split
  · rename_i v11 v12 v13 v14
    with_reducible apply h5
  · rename_i v15 v16 v17
    with_reducible apply h5
  · rename_i v18 v19 v20
    with_reducible apply State.regrant_keeps
    exact h1
  · rename_i v21 v22 v23 v24
    extract_lets +onlyGivenNames x25
    have h26 : State.Keeps a x25 := by
      unfold x25
      with_reducible apply h5
    clear_value x25
    with_reducible apply State.sched_keeps
    exact h26

theorem State.takeRuns_keeps {a : State} {z1 z2 z3} (h1 : State.Keeps a z1) :
    OnSome (State.Keeps a) (State.takeRuns z1 z2 z3) := by
  induction z3 generalizing z1 z2 with
  | nil =>
    unfold State.takeRuns
    refine OnSome.some ?_
    exact h1
  | cons y l ih =>
    unfold State.takeRuns
    extract_lets +onlyGivenNames x1
    clear_value x1
    split
    · rename_i v2 v3
      exact OnSome.none
    · rename_i v4 v5 v6 v7
      have h8 : State.Keeps a v5 := by
        refine OnFst.get (OnSome.get ?_ v7) rfl
        with_reducible apply State.takeRun_keeps
        exact h1
      with_reducible apply ih
      with_reducible apply State.modInst_keeps
      exact h8

theorem State.saveVictims_keeps {a : State} {z1 z2 z3 z4} (h1 : State.Keeps a z1) :
    State.Keeps a (State.saveVictims z1 z2 z3 z4) := by
  induction z4 generalizing z1 z2 z3 with
  | nil =>
    unfold State.saveVictims
    exact h1
  | cons y l ih =>
    unfold State.saveVictims
    extract_lets +onlyGivenNames x1
    clear_value x1
    extract_lets +onlyGivenNames x2
    have h3 : State.Keeps a x2 := by
      unfold x2
      with_reducible apply State.freeze_keeps
      exact h1
    clear_value x2
    extract_lets +onlyGivenNames x4
    have h5 : State.Keeps a x4 := by
      unfold x4
      with_reducible apply State.modInst_keeps
      exact h3
    clear_value x4
    extract_lets +onlyGivenNames x6
    have h7 : State.Keeps a x6 := by
      unfold x6
      with_reducible apply State.sched_keeps
      exact h5
    clear_value x6
    with_reducible apply ih
    exact h7

theorem State.saveFor_keeps {a : State} {z1 z2 z3 z4} (h1 : State.Keeps a z1) :
    OnSome (State.Keeps a) (State.saveFor z1 z2 z3 z4) := by
  unfold State.saveFor
  split
  · rename_i v1 v2
    exact OnSome.none
  · rename_i v3 v4 v5 v6
    split
    · rename_i v7 v8
      refine OnSome.some ?_
      with_reducible apply State.failRequest_keeps
      exact h1
    · rename_i v9 v10 v11
      have h12 : State.Keeps a v10 := by
        refine OnSome.get ?_ v11
        with_reducible apply State.takeRuns_keeps
        exact h1
      extract_lets +onlyGivenNames x13
      have h14 : State.Keeps a x13 := by
        unfold x13
        with_reducible apply State.modPart_keeps
        exact h12
      clear_value x13
      refine OnSome.some ?_
      with_reducible apply State.saveVictims_keeps
      exact h14

theorem State.seek_keeps {a : State} {z1 z2 z3} (h1 : State.Keeps a z1) :
    OnSome (State.Keeps a) (State.seek z1 z2 z3) := by
  unfold State.seek
  extract_lets +onlyGivenNames x1
  clear_value x1
  extract_lets +onlyGivenNames x2
  clear_value x2
  extract_lets +onlyGivenNames x3
  clear_value x3
  extract_lets +onlyGivenNames x4
  clear_value x4
  with_reducible refine ite_keeps (P := OnSome (State.Keeps a)) ?_ ?_
  · refine OnSome.some ?_
    with_reducible apply State.failRequest_keeps
    exact h1
  · with_reducible refine ite_keeps (P := OnSome (State.Keeps a)) ?_ ?_
    · refine OnSome.some ?_
      with_reducible apply State.failRequest_keeps
      exact h1
    · split
      · rename_i v5 v6 v7
        refine OnSome.some ?_
        with_reducible apply State.grant_keeps
        exact h1
      · rename_i v8 v9
        split
        · rename_i v10 v11 v12
          refine OnSome.some ?_
          with_reducible apply State.grant_keeps
          exact h1
        · rename_i v13 v14
          with_reducible refine ite_keeps (P := OnSome (State.Keeps a)) ?_ ?_
          · with_reducible apply State.saveFor_keeps
            exact h1
          · exact OnSome.none

theorem State.serve_keeps {a : State} {z1 z2 z3} (h1 : State.Keeps a z1) :
    OnSome (State.Keeps a) (State.serve z1 z2 z3) := by
  unfold State.serve
  extract_lets +onlyGivenNames x1
  clear_value x1
  with_reducible refine ite_keeps (P := OnSome (State.Keeps a)) ?_ ?_
  · exact OnSome.none
  · with_reducible refine ite_keeps (P := OnSome (State.Keeps a)) ?_ ?_
    · refine OnSome.some ?_
      with_reducible apply State.grant_keeps
      exact h1
    · with_reducible apply State.seek_keeps
      exact h1

theorem State.serveFirst_keeps {a : State} {z1 z2 z3} (h1 : State.Keeps a z1) :
    State.Keeps a (State.serveFirst z1 z2 z3) := by
  induction z3 generalizing z1 z2 with
  | nil =>
    unfold State.serveFirst
    exact h1
  | cons y l ih =>
    unfold State.serveFirst
    split
    · rename_i v1 v2 v3
      have h4 : State.Keeps a v2 := by
        refine OnSome.get ?_ v3
        with_reducible apply State.serve_keeps
        exact h1
      exact h4
    · rename_i v5 v6
      with_reducible apply ih
      exact h1

theorem execPelorusRound_keeps {a : State} {z1} (h1 : State.Keeps a z1) :
    OnNext (State.Keeps a) (execPelorusRound z1) := by
  unfold execPelorusRound
  extract_lets +onlyGivenNames x1
  clear_value x1
  extract_lets +onlyGivenNames x2
  clear_value x2
  extract_lets +onlyGivenNames x3
  clear_value x3
  extract_lets +onlyGivenNames x4
  clear_value x4
  extract_lets +onlyGivenNames x5
  have h6 : State.Keeps a x5 := by
    unfold x5
    with_reducible apply State.modPart_keeps
    exact h1
  clear_value x5
  refine OnNext.next ?_
  with_reducible refine ite_keeps (P := State.Keeps a) ?_ ?_
  · with_reducible apply State.kick_keeps
    with_reducible apply State.modPart_keeps
    exact h1
  · with_reducible refine ite_keeps (P := State.Keeps a) ?_ ?_
    · exact h1
    · with_reducible refine ite_keeps (P := State.Keeps a) ?_ ?_
      · with_reducible apply State.readmit_keeps
        exact h1
      · with_reducible apply State.kick_keeps
        with_reducible apply State.serveFirst_keeps
        exact h6

theorem execRequestPromote_keeps {a : State} {z1} (h1 : State.Keeps a z1) :
    OnNext (State.Keeps a) (execRequestPromote z1) := by
  unfold execRequestPromote
  extract_lets +onlyGivenNames x1
  clear_value x1
  refine OnNext.next ?_
  with_reducible apply State.kick_keeps
  with_reducible apply State.modPart_keeps
  exact h1

theorem execCalleeStart_keeps {a : State} {z1} (h1 : State.Keeps a z1) :
    OnNext (State.Keeps a) (execCalleeStart z1) := by
  unfold execCalleeStart
  extract_lets +onlyGivenNames x1
  clear_value x1
  extract_lets +onlyGivenNames x2
  clear_value x2
  extract_lets +onlyGivenNames x3
  clear_value x3
  extract_lets +onlyGivenNames x4
  have h5 : State.Keeps a x4 := by
    unfold x4
    with_reducible refine ite_keeps (P := State.Keeps a) ?_ ?_
    · exact h1
    · with_reducible apply State.flush_keeps
      exact h1
  clear_value x4
  refine OnNext.next ?_
  with_reducible refine ite_keeps (P := State.Keeps a) ?_ ?_
  · exact h1
  · refine foldl_keeps ?_ ?_
    · exact h5
    · intro y6 y7 h8
      with_reducible apply State.sched_keeps
      exact h8

theorem execCallResult_keeps {a : State} {z1} (h1 : State.Keeps a z1) :
    OnNext (State.Keeps a) (execCallResult z1) := by
  unfold execCallResult
  extract_lets +onlyGivenNames x1
  clear_value x1
  extract_lets +onlyGivenNames x2
  clear_value x2
  extract_lets +onlyGivenNames x3
  clear_value x3
  refine OnNext.next ?_
  with_reducible refine ite_keeps (P := State.Keeps a) ?_ ?_
  · with_reducible apply State.holdSaved_keeps
    exact h1
  · split
    · rename_i v4 v5
      exact h1
    · rename_i v6 v7 v8 v9
      extract_lets +onlyGivenNames x10
      clear_value x10
      extract_lets +onlyGivenNames x11
      clear_value x11
      extract_lets +onlyGivenNames x12
      clear_value x12
      extract_lets +onlyGivenNames x13
      clear_value x13
      extract_lets +onlyGivenNames x14
      have h15 : State.Keeps a x14 := by
        unfold x14
        with_reducible apply State.answer_keeps
        exact h1
      clear_value x14
      extract_lets +onlyGivenNames x16
      have h17 : State.Keeps a x16 := by
        unfold x16
        with_reducible apply State.wake_keeps
        exact h15
      clear_value x16
      with_reducible apply State.kick_keeps
      with_reducible apply State.checkDone_keeps
      exact h17

theorem execTeardown_keeps {a : State} {z1} (h1 : State.Keeps a z1) :
    OnNext (State.Keeps a) (execTeardown z1) := by
  unfold execTeardown
  extract_lets +onlyGivenNames x1
  clear_value x1
  extract_lets +onlyGivenNames x2
  clear_value x2
  extract_lets +onlyGivenNames x3
  clear_value x3
  extract_lets +onlyGivenNames x4
  have h5 : State.Keeps a x4 := by
    unfold x4
    with_reducible apply State.sched_keeps
    exact h1
  clear_value x4
  refine OnNext.next ?_
  with_reducible refine ite_keeps (P := State.Keeps a) ?_ ?_
  · with_reducible apply State.kick_keeps
    with_reducible apply State.readmit_keeps
    with_reducible apply State.modPart_keeps
    exact h5
  · with_reducible apply State.kick_keeps
    with_reducible apply State.readmit_keeps
    exact h5

theorem execPrePlace_keeps {a : State} {z1} (h1 : State.Keeps a z1) :
    OnNext (State.Keeps a) (execPrePlace z1) := by
  unfold execPrePlace
  extract_lets +onlyGivenNames x1
  clear_value x1
  extract_lets +onlyGivenNames x2
  clear_value x2
  extract_lets +onlyGivenNames x3
  clear_value x3
  refine OnNext.next ?_
  split
  · rename_i v4 v5
    exact h1
  · rename_i v6 v7 v8
    with_reducible apply State.modPart_keeps
    exact h1

theorem execConfigPrefetch_keeps {a : State} {z1} (h1 : State.Keeps a z1) :
    OnNext (State.Keeps a) (execConfigPrefetch z1) := by
  unfold execConfigPrefetch
  extract_lets +onlyGivenNames x1
  clear_value x1
  refine OnNext.next ?_
  with_reducible apply State.modPage_keeps
  exact h1

theorem execContextFetch_keeps {a : State} {z1} (h1 : State.Keeps a z1) :
    OnNext (State.Keeps a) (execContextFetch z1) := by
  unfold execContextFetch
  extract_lets +onlyGivenNames x1
  clear_value x1
  refine OnNext.next ?_
  with_reducible apply State.modPage_keeps
  exact h1

theorem State.unpack_keeps {a : State} {z1 z2 z3 z4 z5} (h1 : State.Keeps a z1) :
    State.Keeps a (State.unpack z1 z2 z3 z4 z5) := by
  unfold State.unpack
  extract_lets +onlyGivenNames x1
  clear_value x1
  extract_lets +onlyGivenNames x2
  have h3 : State.Keeps a x2 := by
    unfold x2
    refine foldl_keeps ?_ ?_
    · exact h1
    · intro y4 y5 h6
      with_reducible apply State.modPage_keeps
      exact h6
  clear_value x2
  extract_lets +onlyGivenNames x7
  have h8 : State.Keeps a x7 := by
    unfold x7
    refine foldl_keeps ?_ ?_
    · exact h3
    · intro y9 y10 h11
      with_reducible apply State.modPage_keeps
      exact h11
  clear_value x7
  extract_lets +onlyGivenNames x12
  have h13 : State.Keeps a x12 := by
    unfold x12
    refine foldl_keeps ?_ ?_
    · exact h8
    · intro y14 y15 h16
      with_reducible apply State.modPage_keeps
      exact h16
  clear_value x12
  extract_lets +onlyGivenNames x17
  have h18 : State.Keeps a x17 := by
    unfold x17
    refine foldl_keeps ?_ ?_
    · exact h13
    · intro y19 y20 h21
      with_reducible apply State.modPage_keeps
      exact h21
  clear_value x17
  extract_lets +onlyGivenNames x22
  have h23 : State.Keeps a x22 := by
    unfold x22
    refine foldl_keeps ?_ ?_
    · exact h18
    · intro y24 y25 h26
      with_reducible apply State.modPage_keeps
      exact h26
  clear_value x22
  extract_lets +onlyGivenNames x27
  have h28 : State.Keeps a x27 := by
    unfold x27
    refine foldl_keeps ?_ ?_
    · exact h23
    · intro y29 y30 h31
      extract_lets +onlyGivenNames x32
      clear_value x32
      extract_lets +onlyGivenNames x33
      clear_value x33
      extract_lets +onlyGivenNames x34
      have h35 : State.Keeps a x34 := by
        unfold x34
        with_reducible apply State.modPage_keeps
        exact h31
      clear_value x34
      refine foldl_keeps ?_ ?_
      · exact h35
      · intro y36 y37 h38
        with_reducible apply State.sched_keeps
        exact h38
  clear_value x27
  extract_lets +onlyGivenNames x39
  clear_value x39
  with_reducible apply State.modPart_keeps
  exact h28

theorem State.restoreFault_keeps {a : State} {z1 z2 z3 z4} (h1 : State.Keeps a z1) :
    State.Keeps a (State.restoreFault z1 z2 z3 z4) := by
  unfold State.restoreFault
  with_reducible apply State.modInst_keeps
  with_reducible apply State.postPf_keeps
  exact h1

theorem execContextRestore_keeps {a : State} {z1} (h1 : State.Keeps a z1) :
    OnNext (State.Keeps a) (execContextRestore z1) := by
  unfold execContextRestore
  extract_lets +onlyGivenNames x1
  clear_value x1
  extract_lets +onlyGivenNames x2
  clear_value x2
  extract_lets +onlyGivenNames x3
  clear_value x3
  refine OnNext.next ?_
  split
  · rename_i v4 v5
    exact h1
  · rename_i v6 v7 v8
    split
    · rename_i v9 v10 v11
      with_reducible apply State.restoreFault_keeps
      exact h1
    · rename_i v12 v13 v14
      extract_lets +onlyGivenNames x15
      clear_value x15
      extract_lets +onlyGivenNames x16
      clear_value x16
      split
      · rename_i v17 v18
        with_reducible apply State.restoreFault_keeps
        exact h1
      · rename_i v19 v20 v21
        extract_lets +onlyGivenNames x22
        have h23 : State.Keeps a x22 := by
          unfold x22
          with_reducible apply State.freeRunOf_keeps
          exact h1
        clear_value x22
        extract_lets +onlyGivenNames x24
        have h25 : State.Keeps a x24 := by
          unfold x24
          with_reducible apply State.modInst_keeps
          exact h23
        clear_value x24
        extract_lets +onlyGivenNames x26
        have h27 : State.Keeps a x26 := by
          unfold x26
          with_reducible apply State.unpack_keeps
          exact h25
        clear_value x26
        extract_lets +onlyGivenNames x28
        clear_value x28
        extract_lets +onlyGivenNames x29
        clear_value x29
        extract_lets +onlyGivenNames x30
        have h31 : State.Keeps a x30 := by
          unfold x30
          with_reducible apply State.modInst_keeps
          exact h27
        clear_value x30
        extract_lets +onlyGivenNames x32
        have h33 : State.Keeps a x32 := by
          unfold x32
          with_reducible refine ite_keeps (P := State.Keeps a) ?_ ?_
          · with_reducible refine ite_keeps (P := State.Keeps a) ?_ ?_
            · with_reducible apply State.sched_keeps
              exact h31
            · exact h31
          · with_reducible apply State.injectNext_keeps
            with_reducible apply State.modInst_keeps
            exact h27
        clear_value x32
        extract_lets +onlyGivenNames x34
        have h35 : State.Keeps a x34 := by
          unfold x34
          refine foldl_keeps ?_ ?_
          · exact h33
          · intro y36 y37 h38
            with_reducible apply State.sched_keeps
            exact h38
        clear_value x34
        extract_lets +onlyGivenNames x39
        clear_value x39
        refine foldl_keeps ?_ ?_
        · exact h35
        · intro y40 y41 h42
          with_reducible apply State.areaTrap_keeps
          exact h42

theorem State.callOut_keeps {a : State} {z1 z2 z3} (h1 : State.Keeps a z1) :
    State.Keeps a (State.callOut z1 z2 z3) := by
  unfold State.callOut
  extract_lets +onlyGivenNames x1
  clear_value x1
  extract_lets +onlyGivenNames x2
  have h3 : State.Keeps a x2 := by
    unfold x2
    with_reducible apply State.modFire_keeps
    exact h1
  clear_value x2
  with_reducible apply State.request_keeps
  exact h3

theorem execCall_keeps {a : State} {z1 z2 z3 z4 z5} (h5 : State.Keeps a z5) :
    OnNext (State.Keeps a) (execCall z1 z2 z3 z4 z5) := by
  unfold execCall
  refine OnNext.next ?_
  with_reducible apply State.frame_keeps
  · exact h5
  · intro y1 h2
    extract_lets +onlyGivenNames x3
    clear_value x3
    split
    · rename_i v4 v5 v6
      with_reducible apply State.callOut_keeps
      exact h2
    · rename_i v7 v8
      split
      · rename_i v9 v10 v11
        with_reducible apply State.trap_keeps
        exact h2
      · rename_i v12 v13 v14
        with_reducible apply State.callOut_keeps
        exact h2

theorem execCallr_keeps {a : State} {z1 z2 z3 z4} (h4 : State.Keeps a z4) :
    OnNext (State.Keeps a) (execCallr z1 z2 z3 z4) := by
  unfold execCallr
  refine OnNext.next ?_
  with_reducible apply State.frame_keeps
  · exact h4
  · intro y1 h2
    extract_lets +onlyGivenNames x3
    clear_value x3
    extract_lets +onlyGivenNames x4
    clear_value x4
    with_reducible refine ite_keeps (P := State.Keeps a) ?_ ?_
    · with_reducible apply State.trap_keeps
      exact h2
    · split
      · rename_i v5 v6 v7
        with_reducible apply State.trap_keeps
        exact h2
      · rename_i v8 v9 v10
        extract_lets +onlyGivenNames x11
        clear_value x11
        extract_lets +onlyGivenNames x12
        clear_value x12
        with_reducible refine ite_keeps (P := State.Keeps a) ?_ ?_
        · with_reducible apply State.trap_keeps
          exact h2
        · with_reducible apply State.callOut_keeps
          exact h2

theorem execSysc_keeps {a : State} {z1 z2 z3 z4 z5} (h5 : State.Keeps a z5) :
    OnNext (State.Keeps a) (execSysc z1 z2 z3 z4 z5) := by
  unfold execSysc
  refine OnNext.next ?_
  with_reducible apply State.frame_keeps
  · exact h5
  · intro y1 h2
    split
    · rename_i v3 v4
      with_reducible apply State.emit_keeps
      exact h2
    · rename_i v5 v6 v7
      with_reducible apply State.trap_keeps
      exact h2
    · rename_i v8 v9 v10
      with_reducible apply State.callOut_keeps
      exact h2

theorem State.haltAll_keeps {a : State} {z1 z2 z3} (h1 : State.Keeps a z1) :
    State.Keeps a (State.haltAll z1 z2 z3) := by
  unfold State.haltAll
  with_reducible apply State.stopPages_keeps
  exact h1

theorem State.resumeAll_keeps {a : State} {z1 z2} (h1 : State.Keeps a z1) :
    State.Keeps a (State.resumeAll z1 z2) := by
  unfold State.resumeAll
  extract_lets +onlyGivenNames x1
  clear_value x1
  extract_lets +onlyGivenNames x2
  have h3 : State.Keeps a x2 := by
    unfold x2
    refine foldl_keeps ?_ ?_
    · exact h1
    · intro y4 y5 h6
      with_reducible apply State.modPage_keeps
      exact h6
  clear_value x2
  extract_lets +onlyGivenNames x7
  have h8 : State.Keeps a x7 := by
    unfold x7
    refine foldl_keeps ?_ ?_
    · exact h3
    · intro y9 y10 h11
      extract_lets +onlyGivenNames x12
      clear_value x12
      extract_lets +onlyGivenNames x13
      have h14 : State.Keeps a x13 := by
        unfold x13
        with_reducible apply State.modPage_keeps
        exact h11
      clear_value x13
      extract_lets +onlyGivenNames x15
      have h16 : State.Keeps a x15 := by
        unfold x15
        refine foldl_keeps ?_ ?_
        · exact h14
        · intro y17 y18 h19
          with_reducible apply State.sched_keeps
          exact h19
      clear_value x15
      with_reducible apply State.wake_keeps
      with_reducible apply State.unhold_keeps
      exact h16
  clear_value x7
  with_reducible apply State.setCsrF_keeps
  exact h8

theorem State.traceRoom_keeps {a : State} {z1 z2} (h1 : State.Keeps a z1) :
    State.Keeps a (State.traceRoom z1 z2) := by
  unfold State.traceRoom
  extract_lets +onlyGivenNames x1
  clear_value x1
  extract_lets +onlyGivenNames x2
  have h3 : State.Keeps a x2 := by
    unfold x2
    refine foldl_keeps ?_ ?_
    · exact h1
    · intro y4 y5 h6
      with_reducible apply State.sched_keeps
      exact h6
  clear_value x2
  extract_lets +onlyGivenNames x7
  clear_value x7
  extract_lets +onlyGivenNames x8
  have h9 : State.Keeps a x8 := by
    unfold x8
    with_reducible apply State.modPart_keeps
    exact h3
  clear_value x8
  extract_lets +onlyGivenNames x10
  have h11 : State.Keeps a x10 := by
    unfold x10
    refine foldl_keeps ?_ ?_
    · exact h9
    · intro y12 y13 h14
      with_reducible apply State.sched_keeps
      exact h14
  clear_value x10
  with_reducible refine ite_keeps (P := State.Keeps a) ?_ ?_
  · exact h1
  · refine foldl_keeps ?_ ?_
    · exact h11
    · intro y15 y16 h17
      with_reducible apply State.wake_keeps
      exact h17

theorem State.sampling_keeps {a : State} {z1 z2} (h1 : State.Keeps a z1) :
    State.Keeps a (State.sampling z1 z2) := by
  unfold State.sampling
  extract_lets +onlyGivenNames x1
  clear_value x1
  extract_lets +onlyGivenNames x2
  clear_value x2
  with_reducible refine ite_keeps (P := State.Keeps a) ?_ ?_
  · exact h1
  · refine foldl_keeps ?_ ?_
    · exact h1
    · intro y3 y4 h5
      with_reducible apply State.sched_keeps
      exact h5

theorem State.clearPlog_keeps {a : State} {z1 z2} (h1 : State.Keeps a z1) :
    State.Keeps a (State.clearPlog z1 z2) := by
  unfold State.clearPlog
  with_reducible apply State.modPart_keeps
  with_reducible apply State.setCsrF_keeps
  exact h1

theorem State.partEffect_keeps {a : State} {z1 z2 z3 z4} (h1 : State.Keeps a z1) :
    State.Keeps a (State.partEffect z1 z2 z3 z4) := by
  unfold State.partEffect
  extract_lets +onlyGivenNames x1
  have h4 : ∀ y2 y3, State.Keeps a (x1 y2 y3) := by
    intro y2 y3
    unfold x1
    with_reducible refine ite_keeps (P := State.Keeps a) ?_ ?_
    · with_reducible apply State.sched_keeps
      with_reducible apply State.setCsrF_keeps
      exact h1
    · exact h1
  clear_value x1
  extract_lets +onlyGivenNames x5
  have h6 : State.Keeps a x5 := by
    unfold x5
    with_reducible refine ite_keeps (P := State.Keeps a) ?_ ?_
    · with_reducible apply State.resumeAll_keeps
      exact h1
    · exact h1
  clear_value x5
  with_reducible refine ite_keeps (P := State.Keeps a) ?_ ?_
  · with_reducible refine ite_keeps (P := State.Keeps a) ?_ ?_
    · with_reducible apply State.clearPlog_keeps
      exact h1
    · exact h1
  · with_reducible refine ite_keeps (P := State.Keeps a) ?_ ?_
    · with_reducible apply h4
    · with_reducible refine ite_keeps (P := State.Keeps a) ?_ ?_
      · with_reducible refine ite_keeps (P := State.Keeps a) ?_ ?_
        · with_reducible apply State.gswGo_keeps
          exact h1
        · exact h1
      · with_reducible refine ite_keeps (P := State.Keeps a) ?_ ?_
        · with_reducible apply State.sampling_keeps
          with_reducible apply State.traceRoom_keeps
          exact h6
        · with_reducible refine ite_keeps (P := State.Keeps a) ?_ ?_
          · with_reducible refine ite_keeps (P := State.Keeps a) ?_ ?_
            · with_reducible apply State.haltAll_keeps
              exact h1
            · exact h1
          · with_reducible refine ite_keeps (P := State.Keeps a) ?_ ?_
            · with_reducible apply h4
            · with_reducible refine ite_keeps (P := State.Keeps a) ?_ ?_
              · with_reducible apply h4
              · with_reducible refine ite_keeps (P := State.Keeps a) ?_ ?_
                · with_reducible apply State.traceRoom_keeps
                  exact h1
                · with_reducible refine ite_keeps (P := State.Keeps a) ?_ ?_
                  · with_reducible apply State.kick_keeps
                    exact h1
                  · with_reducible refine ite_keeps (P := State.Keeps a) ?_ ?_
                    · with_reducible apply State.areasFree_keeps
                      exact h1
                    · with_reducible refine ite_keeps (P := State.Keeps a) ?_ ?_
                      · with_reducible apply State.spillFreed_keeps
                        exact h1
                      · exact h1

theorem State.latchNext_keeps {a : State} {z1 z2 z3} (h1 : State.Keeps a z1) :
    State.Keeps a (State.latchNext z1 z2 z3) := by
  unfold State.latchNext
  split
  · rename_i v1 v2 v3
    with_reducible apply State.modPart_keeps
    exact h1
  · rename_i v4 v5
    exact h1

theorem State.writePart_keeps {a : State} {z1 z2 z3 z4} (h1 : State.Keeps a z1) :
    State.Keeps a (State.writePart z1 z2 z3 z4) := by
  unfold State.writePart
  split
  · rename_i v1 v2
    exact h1
  · rename_i v3 v4 v5
    extract_lets +onlyGivenNames x6
    clear_value x6
    extract_lets +onlyGivenNames x7
    clear_value x7
    extract_lets +onlyGivenNames x8
    have h9 : State.Keeps a x8 := by
      unfold x8
      with_reducible apply State.latchNext_keeps
      with_reducible apply State.setCsr_keeps
      exact h1
    clear_value x8
    extract_lets +onlyGivenNames x10
    have h11 : State.Keeps a x10 := by
      unfold x10
      with_reducible refine ite_keeps (P := State.Keeps a) ?_ ?_
      · with_reducible apply State.modPart_keeps
        exact h9
      · exact h9
    clear_value x10
    with_reducible refine ite_keeps (P := State.Keeps a) ?_ ?_
    · exact h1
    · with_reducible apply State.partEffect_keeps
      exact h11

theorem State.latchDebug_keeps {a : State} {z1 z2} (h1 : State.Keeps a z1) :
    State.Keeps a (State.latchDebug z1 z2) := by
  unfold State.latchDebug
  extract_lets +onlyGivenNames x1
  clear_value x1
  refine foldl_keeps ?_ ?_
  · refine State.Keeps.upd (s := z1) rfl rfl rfl rfl ?_
    exact h1
  · intro y2 y3 h4
    with_reducible apply State.setCsr_keeps
    exact h4

theorem State.readPart_keeps {a : State} {z1 z2 z3} (h1 : State.Keeps a z1) :
    OnFst (State.Keeps a) (State.readPart z1 z2 z3) := by
  unfold State.readPart
  split
  · rename_i v1 v2
    refine OnFst.mk ?_
    exact h1
  · rename_i v3 v4 v5
    extract_lets +onlyGivenNames x6
    have h7 : State.Keeps a x6 := by
      unfold x6
      with_reducible refine ite_keeps (P := State.Keeps a) ?_ ?_
      · with_reducible apply State.latchDebug_keeps
        exact h1
      · exact h1
    clear_value x6
    extract_lets +onlyGivenNames x8
    clear_value x8
    extract_lets +onlyGivenNames x9
    clear_value x9
    extract_lets +onlyGivenNames x10
    have h11 : State.Keeps a x10 := by
      unfold x10
      with_reducible apply State.latchNext_keeps
      exact h7
    clear_value x10
    with_reducible refine ite_keeps (P := OnFst (State.Keeps a)) ?_ ?_
    · refine OnFst.mk ?_
      exact h1
    · refine OnFst.mk ?_
      with_reducible refine ite_keeps (P := State.Keeps a) ?_ ?_
      · exact h11
      · with_reducible apply State.setCsr_keeps
        exact h11

theorem State.readCsr_keeps {a : State} {z1 z2 z3 z4 z5 z6} (h1 : State.Keeps a z1) :
    OnFst (State.Keeps a) (State.readCsr z1 z2 z3 z4 z5 z6) := by
  unfold State.readCsr
  extract_lets +onlyGivenNames x1
  clear_value x1
  split
  · rename_i v2 v3
    refine OnFst.mk ?_
    exact h1
  · rename_i v4 v5 v6
    split
    · rename_i v7 v8
      refine OnFst.mk ?_
      exact h1
    · rename_i v9 v10
      refine OnFst.mk ?_
      exact h1
    · rename_i v11 v12
      refine OnFst.mk ?_
      exact h1
    · rename_i v13 v14
      with_reducible apply State.readPart_keeps
      exact h1

theorem State.writeCnv_keeps {a : State} {z1 z2 z3 z4 z5 z6} (h1 : State.Keeps a z1) :
    State.Keeps a (State.writeCnv z1 z2 z3 z4 z5 z6) := by
  unfold State.writeCnv
  extract_lets +onlyGivenNames x1
  clear_value x1
  with_reducible refine ite_keeps (P := State.Keeps a) ?_ ?_
  · exact h1
  · split
    · rename_i v2 v3
      exact h1
    · rename_i v4 v5 v6
      extract_lets +onlyGivenNames x7
      clear_value x7
      extract_lets +onlyGivenNames x8
      clear_value x8
      extract_lets +onlyGivenNames x9
      have h10 : State.Keeps a x9 := by
        unfold x9
        with_reducible apply State.modPage_keeps
        exact h1
      clear_value x9
      extract_lets +onlyGivenNames x11
      have h14 : ∀ y12 y13, State.Keeps a y12 → State.Keeps a (x11 y12 y13) := by
        intro y12 y13 h15
        unfold x11
        with_reducible refine ite_keeps (P := State.Keeps a) ?_ ?_
        · with_reducible apply State.sched_keeps
          exact h15
        · exact h15
      clear_value x11
      with_reducible refine ite_keeps (P := State.Keeps a) ?_ ?_
      · with_reducible apply h14
        with_reducible apply h14
        exact h10
      · exact h10

theorem State.writeCsr_keeps {a : State} {z1 z2 z3 z4 z5 z6 z7} (h1 : State.Keeps a z1) :
    State.Keeps a (State.writeCsr z1 z2 z3 z4 z5 z6 z7) := by
  unfold State.writeCsr
  split
  · rename_i v1 v2
    exact h1
  · rename_i v3 v4 v5
    split
    · rename_i v6 v7
      exact h1
    · rename_i v8 v9
      with_reducible apply State.writePart_keeps
      exact h1
    · rename_i v10 v11
      with_reducible apply State.writeCnv_keeps
      exact h1
    · rename_i v12 v13
      extract_lets +onlyGivenNames x14
      clear_value x14
      extract_lets +onlyGivenNames x15
      clear_value x15
      with_reducible refine ite_keeps (P := State.Keeps a) ?_ ?_
      · with_reducible apply State.writeRtagen_keeps
        exact h1
      · with_reducible refine ite_keeps (P := State.Keeps a) ?_ ?_
        · with_reducible apply State.writeRtagpend_keeps
          exact h1
        · with_reducible apply State.setStrandCsr_keeps
          exact h1

theorem execCsrr_keeps {a : State} {z1 z2 z3 z4} (h4 : State.Keeps a z4) :
    OnNext (State.Keeps a) (execCsrr z1 z2 z3 z4) := by
  unfold execCsrr
  extract_lets +onlyGivenNames x1
  clear_value x1
  refine OnNext.next ?_
  with_reducible apply State.frame_keeps
  · exact h4
  · intro y2 h3
    extract_lets +onlyGivenNames x4
    clear_value x4
    extract_lets +onlyGivenNames x5
    have h6 : OnFst (State.Keeps a) x5 := by
      unfold x5
      with_reducible apply State.readCsr_keeps
      exact h3
    clear_value x5
    extract_lets +onlyGivenNames x7
    have h8 : OnFst (State.Keeps a) x7 := by
      unfold x7
      with_reducible apply State.mark_keeps
      exact h6
    clear_value x7
    with_reducible apply State.emit_keeps
    exact h8

theorem execCsrw_keeps {a : State} {z1 z2 z3 z4} (h4 : State.Keeps a z4) :
    OnNext (State.Keeps a) (execCsrw z1 z2 z3 z4) := by
  unfold execCsrw
  extract_lets +onlyGivenNames x1
  clear_value x1
  refine OnNext.next ?_
  with_reducible apply State.frame_keeps
  · exact h4
  · intro y2 h3
    extract_lets +onlyGivenNames x4
    clear_value x4
    extract_lets +onlyGivenNames x5
    clear_value x5
    extract_lets +onlyGivenNames x6
    have h7 : State.Keeps a x6 := by
      unfold x6
      with_reducible apply State.writeCsr_keeps
      exact h3
    clear_value x6
    extract_lets +onlyGivenNames x8
    have h9 : OnFst (State.Keeps a) x8 := by
      unfold x8
      with_reducible apply State.mark_keeps
      exact h7
    clear_value x8
    with_reducible apply State.emit_keeps
    exact h9

theorem State.bar0Write_keeps {a : State} {z1 z2 z3 z4} (h1 : State.Keeps a z1) :
    State.Keeps a (State.bar0Write z1 z2 z3 z4) := by
  unfold State.bar0Write
  extract_lets +onlyGivenNames x1
  have h3 : ∀ y2, State.Keeps a (x1 y2) := by
    intro y2
    unfold x1
    with_reducible apply State.modPart_keeps
    exact h1
  clear_value x1
  extract_lets +onlyGivenNames x4
  have h6 : ∀ y5, State.Keeps a y5 → State.Keeps a (x4 y5) := by
    intro y5 h7
    unfold x4
    with_reducible apply State.sched_keeps
    exact h7
  clear_value x4
  with_reducible refine ite_keeps (P := State.Keeps a) ?_ ?_
  · with_reducible apply State.sched_keeps
    exact h1
  · with_reducible refine ite_keeps (P := State.Keeps a) ?_ ?_
    · with_reducible apply h3
    · with_reducible refine ite_keeps (P := State.Keeps a) ?_ ?_
      · with_reducible apply h3
      · with_reducible refine ite_keeps (P := State.Keeps a) ?_ ?_
        · with_reducible apply h6
          with_reducible apply h3
        · with_reducible refine ite_keeps (P := State.Keeps a) ?_ ?_
          · with_reducible apply h6
            with_reducible apply h3
          · with_reducible refine ite_keeps (P := State.Keeps a) ?_ ?_
            · with_reducible apply h3
            · with_reducible refine ite_keeps (P := State.Keeps a) ?_ ?_
              · with_reducible apply State.writePart_keeps
                exact h1
              · exact h1

theorem State.bar0Read_keeps {a : State} {z1 z2 z3} (h1 : State.Keeps a z1) :
    OnFst (State.Keeps a) (State.bar0Read z1 z2 z3) := by
  unfold State.bar0Read
  extract_lets +onlyGivenNames x1
  clear_value x1
  extract_lets +onlyGivenNames x2
  have h4 : ∀ y3, State.Keeps a (x2 y3) := by
    intro y3
    unfold x2
    with_reducible apply State.modPart_keeps
    exact h1
  clear_value x2
  extract_lets +onlyGivenNames x5
  have h6 : OnFst (State.Keeps a) x5 := by
    unfold x5
    with_reducible apply State.readPart_keeps
    exact h1
  clear_value x5
  with_reducible refine ite_keeps (P := OnFst (State.Keeps a)) ?_ ?_
  · refine OnFst.mk ?_
    exact h1
  · with_reducible refine ite_keeps (P := OnFst (State.Keeps a)) ?_ ?_
    · refine OnFst.mk ?_
      with_reducible apply h4
    · with_reducible refine ite_keeps (P := OnFst (State.Keeps a)) ?_ ?_
      · refine OnFst.mk ?_
        exact h1
      · with_reducible refine ite_keeps (P := OnFst (State.Keeps a)) ?_ ?_
        · refine OnFst.mk ?_
          exact h1
        · with_reducible refine ite_keeps (P := OnFst (State.Keeps a)) ?_ ?_
          · refine OnFst.mk ?_
            exact h1
          · with_reducible refine ite_keeps (P := OnFst (State.Keeps a)) ?_ ?_
            · refine OnFst.mk ?_
              exact h1
            · with_reducible refine ite_keeps (P := OnFst (State.Keeps a)) ?_ ?_
              · refine OnFst.mk ?_
                exact h1
              · with_reducible refine ite_keeps (P := OnFst (State.Keeps a)) ?_ ?_
                · refine OnFst.mk ?_
                  exact h1
                · with_reducible refine ite_keeps (P := OnFst (State.Keeps a)) ?_ ?_
                  · refine OnFst.mk ?_
                    with_reducible apply h4
                  · with_reducible refine ite_keeps (P := OnFst (State.Keeps a)) ?_ ?_
                    · refine OnFst.mk ?_
                      with_reducible apply h4
                    · with_reducible refine ite_keeps (P := OnFst (State.Keeps a)) ?_ ?_
                      · refine OnFst.mk ?_
                        exact h1
                      · with_reducible refine ite_keeps (P := OnFst (State.Keeps a)) ?_ ?_
                        · refine OnFst.mk ?_
                          with_reducible apply h4
                        · with_reducible refine ite_keeps (P := OnFst (State.Keeps a)) ?_ ?_
                          · refine OnFst.mk ?_
                            exact h6
                          · refine OnFst.mk ?_
                            exact h1

theorem State.toHost_keeps {a : State} {z1 z2} (h1 : State.Keeps a z1) :
    State.Keeps a (State.toHost z1 z2) := by
  unfold State.toHost
  refine State.Keeps.upd (s := z1) rfl rfl rfl rfl ?_
  exact h1

theorem execCsrWrite_keeps {a : State} {z1} (h1 : State.Keeps a z1) :
    OnNext (State.Keeps a) (execCsrWrite z1) := by
  unfold execCsrWrite
  extract_lets +onlyGivenNames x1
  clear_value x1
  refine OnNext.next ?_
  with_reducible refine ite_keeps (P := State.Keeps a) ?_ ?_
  · with_reducible apply State.writeCsr_keeps
    exact h1
  · with_reducible refine ite_keeps (P := State.Keeps a) ?_ ?_
    · with_reducible apply State.writePart_keeps
      exact h1
    · with_reducible refine ite_keeps (P := State.Keeps a) ?_ ?_
      · with_reducible apply State.bar0Write_keeps
        exact h1
      · exact h1

theorem execClearOnRead_keeps {a : State} {z1} (h1 : State.Keeps a z1) :
    OnNext (State.Keeps a) (execClearOnRead z1) := by
  unfold execClearOnRead
  extract_lets +onlyGivenNames x1
  clear_value x1
  extract_lets +onlyGivenNames x2
  have h3 : OnFst (State.Keeps a) x2 := by
    unfold x2
    with_reducible apply State.bar0Read_keeps
    exact h1
  clear_value x2
  extract_lets +onlyGivenNames x4
  have h5 : OnFst (State.Keeps a) x4 := by
    unfold x4
    with_reducible apply State.readPart_keeps
    exact h1
  clear_value x4
  refine OnNext.next ?_
  with_reducible refine ite_keeps (P := State.Keeps a) ?_ ?_
  · with_reducible refine ite_keeps (P := State.Keeps a) ?_ ?_
    · with_reducible apply State.toHost_keeps
      exact h3
    · with_reducible apply State.toHost_keeps
      exact h1
  · with_reducible apply State.toHost_keeps
    exact h5

theorem execTsnowl_keeps {a : State} {z1} (h1 : State.Keeps a z1) :
    OnNext (State.Keeps a) (execTsnowl z1) := by
  unfold execTsnowl
  extract_lets +onlyGivenNames x1
  have h2 : OnFst (State.Keeps a) x1 := by
    unfold x1
    with_reducible apply State.bar0Read_keeps
    exact h1
  clear_value x1
  refine OnNext.next ?_
  with_reducible apply State.toHost_keeps
  exact h2

theorem execStoptsl_keeps {a : State} {z1} (h1 : State.Keeps a z1) :
    OnNext (State.Keeps a) (execStoptsl z1) := by
  unfold execStoptsl
  extract_lets +onlyGivenNames x1
  have h2 : OnFst (State.Keeps a) x1 := by
    unfold x1
    with_reducible apply State.readPart_keeps
    exact h1
  clear_value x1
  refine OnNext.next ?_
  with_reducible apply State.toHost_keeps
  exact h2

theorem execWpkal_keeps {a : State} {z1} (h1 : State.Keeps a z1) :
    OnNext (State.Keeps a) (execWpkal z1) := by
  unfold execWpkal
  extract_lets +onlyGivenNames x1
  have h2 : OnFst (State.Keeps a) x1 := by
    unfold x1
    with_reducible apply State.readPart_keeps
    exact h1
  clear_value x1
  refine OnNext.next ?_
  with_reducible apply State.toHost_keeps
  exact h2

theorem execPoisonLogClear_keeps {a : State} {z1} (h1 : State.Keeps a z1) :
    OnNext (State.Keeps a) (execPoisonLogClear z1) := by
  unfold execPoisonLogClear
  refine OnNext.next ?_
  with_reducible apply State.clearPlog_keeps
  exact h1

theorem execDebugHalt_keeps {a : State} {z1} (h1 : State.Keeps a z1) :
    OnNext (State.Keeps a) (execDebugHalt z1) := by
  unfold execDebugHalt
  refine OnNext.next ?_
  with_reducible apply State.haltAll_keeps
  exact h1

theorem execDebugResume_keeps {a : State} {z1} (h1 : State.Keeps a z1) :
    OnNext (State.Keeps a) (execDebugResume z1) := by
  unfold execDebugResume
  refine OnNext.next ?_
  with_reducible apply State.resumeAll_keeps
  exact h1

theorem execDebugDataRead_keeps {a : State} {z1} (h1 : State.Keeps a z1) :
    OnNext (State.Keeps a) (execDebugDataRead z1) := by
  unfold execDebugDataRead
  extract_lets +onlyGivenNames x1
  have h2 : OnFst (State.Keeps a) x1 := by
    unfold x1
    with_reducible apply State.readPart_keeps
    exact h1
  clear_value x1
  refine OnNext.next ?_
  with_reducible apply State.toHost_keeps
  exact h2

end Sys2Proof.Machine
end

