-- ==== Sys2Proof/Laws/Keep4.lean ====
section
/-! SUPPORT. Sys2Proof/Laws/Keep4.lean: for each operation of the model, that it keeps the clock and the canonical forms of memory
(part 4, in the order of the definitions). -/

namespace Sys2Proof.Machine

theorem originOnce_keeps {a : State} {z1 z2 z3 z4 z5 z6} (h1 : ∀ y1 y2 y3, State.Keeps a y1 → OnFst (State.Keeps a) (z1 y1 y2 y3)) (h2 : State.Keeps a z2) :
    OnFst (State.Keeps a) (originOnce z1 z2 z3 z4 z5 z6) := by
  unfold originOnce
  split
  · rename_i v1 v2 v3
    refine OnFst.mk ?_
    exact h2
  · rename_i v4 v5
    extract_lets +onlyGivenNames x6
    have h7 : OnFst (State.Keeps a) x6 := by
      unfold x6
      with_reducible apply h1
      exact h2
    clear_value x6
    refine OnFst.mk ?_
    exact h7

theorem decodeRow_keeps {a : State} {z1 z2 z3 z4 z5 z6} (h1 : ∀ y1 y2 y3, State.Keeps a y1 → OnFst (State.Keeps a) (z1 y1 y2 y3)) (h6 : State.Keeps a z6) :
    OnFst (State.Keeps a) (decodeRow z1 z2 z3 z4 z5 z6) := by
  unfold decodeRow
  extract_lets +onlyGivenNames x1
  clear_value x1
  extract_lets +onlyGivenNames x2
  clear_value x2
  extract_lets +onlyGivenNames x3
  clear_value x3
  extract_lets +onlyGivenNames x4
  clear_value x4
  extract_lets +onlyGivenNames x5
  clear_value x5
  extract_lets +onlyGivenNames x6
  have h9 : ∀ y7 y8, OnFst (State.Keeps a) y7 → OnFst (State.Keeps a) (x6 y7 y8) := by
    intro y7 y8 h10
    unfold x6
    extract_lets +onlyGivenNames x11
    clear_value x11
    extract_lets +onlyGivenNames x12
    clear_value x12
    extract_lets +onlyGivenNames x13
    clear_value x13
    extract_lets +onlyGivenNames x14
    clear_value x14
    extract_lets +onlyGivenNames x15
    clear_value x15
    extract_lets +onlyGivenNames x16
    clear_value x16
    extract_lets +onlyGivenNames x17
    clear_value x17
    split
    · rename_i v18 v19
      refine OnFst.mk ?_
      exact h10
    · rename_i v20
      extract_lets +onlyGivenNames x21
      have h22 : OnFst (State.Keeps a) x21 := by
        unfold x21
        with_reducible apply originOnce_keeps
        · intro y23 y24 y25 h26
          with_reducible apply h1
          exact h26
        · exact h10
      clear_value x21
      extract_lets +onlyGivenNames x27
      have h28 : OnFst (State.Keeps a) x27 := by
        unfold x27
        with_reducible apply originOnce_keeps
        · intro y29 y30 y31 h32
          with_reducible apply h1
          exact h32
        · exact h10
      clear_value x27
      with_reducible refine ite_keeps (P := OnFst (State.Keeps a)) ?_ ?_
      · refine OnFst.mk ?_
        exact h22
      · with_reducible refine ite_keeps (P := OnFst (State.Keeps a)) ?_ ?_
        · refine OnFst.mk ?_
          exact h28
        · refine OnFst.mk ?_
          exact h10
  clear_value x6
  extract_lets +onlyGivenNames x33
  have h34 : OnFst (State.Keeps a) x33 := by
    unfold x33
    refine foldl_keeps ?_ ?_
    · refine OnFst.mk ?_
      exact h6
    · intro y35 y36 h37
      with_reducible apply h9
      exact h37
  clear_value x33
  refine OnFst.mk ?_
  exact h34

theorem decodeRows_keeps {a : State} {z1 z2 z3 z4 z5 z6} (h1 : ∀ y1 y2 y3, State.Keeps a y1 → OnFst (State.Keeps a) (z1 y1 y2 y3)) (h6 : State.Keeps a z6) :
    OnFst (State.Keeps a) (decodeRows z1 z2 z3 z4 z5 z6) := by
  induction z5 generalizing z1 z2 z3 z4 z6 with
  | nil =>
    unfold decodeRows
    refine OnFst.mk ?_
    exact h6
  | cons y l ih =>
    unfold decodeRows
    extract_lets +onlyGivenNames x1
    have h2 : OnFst (State.Keeps a) x1 := by
      unfold x1
      with_reducible apply decodeRow_keeps
      · intro y3 y4 y5 h6
        with_reducible apply h1
        exact h6
      · exact h6
    clear_value x1
    extract_lets +onlyGivenNames x7
    have h8 : OnFst (State.Keeps a) x7 := by
      unfold x7
      with_reducible apply ih
      · intro y9 y10 y11 h12
        with_reducible apply h1
        exact h12
      · exact h2
    clear_value x7
    refine OnFst.mk ?_
    exact h8

theorem accumulate_keeps {a : State} {z1 z2 z3 z4 z5 z6 z7} (h1 : ∀ y1 y2 y3, State.Keeps a y1 → OnFst (State.Keeps a) (z1 y1 y2 y3)) (h4 : State.Keeps a z4) :
    OnFst (State.Keeps a) (accumulate z1 z2 z3 z4 z5 z6 z7) := by
  unfold accumulate
  extract_lets +onlyGivenNames x1
  clear_value x1
  extract_lets +onlyGivenNames x2
  have h6 : ∀ y3 y4 y5, State.Keeps a y3 → OnFst (State.Keeps a) (x2 y3 y4 y5) := by
    intro y3 y4 y5 h7
    unfold x2
    split
    · rename_i v8 v9
      refine OnFst.mk ?_
      exact h7
    · rename_i v10
      extract_lets +onlyGivenNames x11
      have h12 : OnFst (State.Keeps a) x11 := by
        unfold x11
        with_reducible apply h1
        exact h7
      clear_value x11
      with_reducible refine ite_keeps (P := OnFst (State.Keeps a)) ?_ ?_
      · refine OnFst.mk ?_
        exact h7
      · refine OnFst.mk ?_
        exact h12
  clear_value x2
  extract_lets +onlyGivenNames x13
  clear_value x13
  extract_lets +onlyGivenNames x14
  clear_value x14
  extract_lets +onlyGivenNames x15
  clear_value x15
  with_reducible refine ite_keeps (P := OnFst (State.Keeps a)) ?_ ?_
  · with_reducible refine ite_keeps (P := OnFst (State.Keeps a)) ?_ ?_
    · with_reducible apply h6
      exact h4
    · with_reducible apply h6
      exact h4
  · with_reducible apply h6
    exact h4

theorem groupAll_keeps {a : State} {z1 z2 z3 z4 z5 z6 z7 z8} (h1 : ∀ y1 y2 y3, State.Keeps a y1 → OnFst (State.Keeps a) (z1 y1 y2 y3)) (h8 : OnFst (State.Keeps a) z8) :
    OnFst (State.Keeps a) (groupAll z1 z2 z3 z4 z5 z6 z7 z8) := by
  unfold groupAll
  refine foldl_keeps ?_ ?_
  · exact h8
  · intro y1 y2 h3
    extract_lets +onlyGivenNames x4
    clear_value x4
    extract_lets +onlyGivenNames x5
    clear_value x5
    split
    · rename_i v6 v7
      exact h3
    · rename_i v8 v9
      extract_lets +onlyGivenNames x10
      have h11 : OnFst (State.Keeps a) x10 := by
        unfold x10
        with_reducible apply accumulate_keeps
        · intro y12 y13 y14 h15
          with_reducible apply h1
          exact h15
        · exact h3
      clear_value x10
      refine OnFst.mk ?_
      exact h11

theorem multiply_keeps {a : State} {z1 z2 z3 z4 z5 z6 z7 z8 z9 z10 z11} (h1 : ∀ y1 y2 y3, State.Keeps a y1 → OnFst (State.Keeps a) (z1 y1 y2 y3)) (h11 : OnFst (State.Keeps a) z11) :
    OnFst (State.Keeps a) (multiply z1 z2 z3 z4 z5 z6 z7 z8 z9 z10 z11) := by
  unfold multiply
  refine foldl_keeps ?_ ?_
  · exact h11
  · intro y1 y2 h3
    extract_lets +onlyGivenNames x4
    clear_value x4
    extract_lets +onlyGivenNames x5
    clear_value x5
    extract_lets +onlyGivenNames x6
    clear_value x6
    with_reducible apply groupAll_keeps
    · intro y7 y8 y9 h10
      with_reducible apply h1
      exact h10
    · exact h3

theorem State.drainedBy_keeps {a : State} {z1 z2 z3 z4} (h1 : State.Keeps a z1) :
    State.Keeps a (State.drainedBy z1 z2 z3 z4) := by
  unfold State.drainedBy
  extract_lets +onlyGivenNames x1
  clear_value x1
  extract_lets +onlyGivenNames x2
  clear_value x2
  refine foldl_keeps ?_ ?_
  · exact h1
  · intro y3 y4 h5
    with_reducible refine ite_keeps (P := State.Keeps a) ?_ ?_
    · exact h5
    · with_reducible apply State.sched_keeps
      exact h5

theorem State.engineAnswer_keeps {a : State} {z1 z2 z3 z4 z5 z6} (h1 : State.Keeps a z1) :
    State.Keeps a (State.engineAnswer z1 z2 z3 z4 z5 z6) := by
  unfold State.engineAnswer
  split
  · rename_i v1 v2
    exact h1
  · rename_i v3 v4 v5
    extract_lets +onlyGivenNames x6
    have h7 : State.Keeps a x6 := by
      unfold x6
      with_reducible apply State.drainedBy_keeps
      with_reducible apply State.answer_keeps
      exact h1
    clear_value x6
    with_reducible refine ite_keeps (P := State.Keeps a) ?_ ?_
    · with_reducible apply State.drainedBy_keeps
      with_reducible apply State.dropFire_keeps
      exact h7
    · with_reducible apply State.checkDone_keeps
      exact h7

theorem State.engineTrap_keeps {a : State} {z1 z2 z3 z4 z5 z6 z7 z8 z9 z10 z11 z12 z13} (h1 : State.Keeps a z1) :
    State.Keeps a (State.engineTrap z1 z2 z3 z4 z5 z6 z7 z8 z9 z10 z11 z12 z13) := by
  unfold State.engineTrap
  with_reducible apply State.takeTrap_keeps
  exact h1

theorem State.modIsl_keeps {a : State} {z1 z2 z3 z4} (h1 : State.Keeps a z1) :
    State.Keeps a (State.modIsl z1 z2 z3 z4) := by
  unfold State.modIsl
  with_reducible apply State.modPage_keeps
  exact h1

theorem State.modCmd_keeps {a : State} {z1 z2 z3 z4 z5} (h1 : State.Keeps a z1) :
    State.Keeps a (State.modCmd z1 z2 z3 z4 z5) := by
  unfold State.modCmd
  with_reducible apply State.modIsl_keeps
  exact h1

theorem State.modTile_keeps {a : State} {z1 z2 z3 z4 z5} (h1 : State.Keeps a z1) :
    State.Keeps a (State.modTile z1 z2 z3 z4 z5) := by
  unfold State.modTile
  with_reducible apply State.modIsl_keeps
  exact h1

theorem State.islNext_keeps {a : State} {z1 z2 z3 z4 z5 z6} (h1 : State.Keeps a z1) :
    State.Keeps a (State.islNext z1 z2 z3 z4 z5 z6) := by
  unfold State.islNext
  with_reducible apply State.sched_keeps
  exact h1

theorem State.islLook_keeps {a : State} {z1 z2 z3} (h1 : State.Keeps a z1) :
    State.Keeps a (State.islLook z1 z2 z3) := by
  unfold State.islLook
  with_reducible apply State.sched_keeps
  exact h1

theorem State.islDrop_keeps {a : State} {z1 z2 z3 z4} (h1 : State.Keeps a z1) :
    State.Keeps a (State.islDrop z1 z2 z3 z4) := by
  unfold State.islDrop
  with_reducible apply State.islLook_keeps
  with_reducible apply State.modIsl_keeps
  exact h1

theorem State.islDone_keeps {a : State} {z1 z2 z3 z4 z5 z6} (h1 : State.Keeps a z1) :
    State.Keeps a (State.islDone z1 z2 z3 z4 z5 z6) := by
  unfold State.islDone
  extract_lets +onlyGivenNames x1
  have h2 : State.Keeps a x1 := by
    unfold x1
    with_reducible apply State.islDrop_keeps
    exact h1
  clear_value x1
  split
  · rename_i v3 v4
    exact h2
  · rename_i v5 v6 v7
    extract_lets +onlyGivenNames x8
    clear_value x8
    with_reducible apply State.engineAnswer_keeps
    exact h2

theorem State.islTrap_keeps {a : State} {z1 z2 z3 z4 z5 z6 z7} (h1 : State.Keeps a z1) :
    State.Keeps a (State.islTrap z1 z2 z3 z4 z5 z6 z7) := by
  unfold State.islTrap
  with_reducible apply State.engineTrap_keeps
  exact h1

theorem State.islFail_keeps {a : State} {z1 z2 z3 z4 z5 z6 z7} (h1 : State.Keeps a z1) :
    State.Keeps a (State.islFail z1 z2 z3 z4 z5 z6 z7) := by
  unfold State.islFail
  extract_lets +onlyGivenNames x1
  have h2 : State.Keeps a x1 := by
    unfold x1
    with_reducible refine ite_keeps (P := State.Keeps a) ?_ ?_
    · with_reducible apply State.modTile_keeps
      exact h1
    · exact h1
  clear_value x1
  with_reducible refine ite_keeps (P := State.Keeps a) ?_ ?_
  · with_reducible apply State.badRead_keeps
    exact h1
  · with_reducible apply State.islTrap_keeps
    with_reducible apply State.islDrop_keeps
    exact h2

theorem State.islHalt_keeps {a : State} {z1 z2 z3 z4} (h1 : State.Keeps a z1) :
    State.Keeps a (State.islHalt z1 z2 z3 z4) := by
  unfold State.islHalt
  extract_lets +onlyGivenNames x1
  clear_value x1
  extract_lets +onlyGivenNames x2
  clear_value x2
  extract_lets +onlyGivenNames x3
  clear_value x3
  extract_lets +onlyGivenNames x4
  have h5 : State.Keeps a x4 := by
    unfold x4
    with_reducible refine ite_keeps (P := State.Keeps a) ?_ ?_
    · with_reducible apply State.memWrite_keeps
      exact h1
    · exact h1
  clear_value x4
  extract_lets +onlyGivenNames x6
  have h7 : State.Keeps a x6 := by
    unfold x6
    with_reducible apply State.cancel_keeps
    exact h5
  clear_value x6
  extract_lets +onlyGivenNames x8
  have h9 : State.Keeps a x8 := by
    unfold x8
    with_reducible apply State.modIsl_keeps
    exact h7
  clear_value x8
  extract_lets +onlyGivenNames x10
  clear_value x10
  refine foldl_keeps ?_ ?_
  · exact h9
  · intro y11 y12 h13
    with_reducible apply State.appendReplay_keeps
    exact h13

theorem State.islStop_keeps {a : State} {z1 z2 z3 z4 z5 z6 z7} (h1 : State.Keeps a z1) :
    State.Keeps a (State.islStop z1 z2 z3 z4 z5 z6 z7) := by
  unfold State.islStop
  with_reducible refine ite_keeps (P := State.Keeps a) ?_ ?_
  · with_reducible apply State.badRead_keeps
    exact h1
  · with_reducible apply State.islTrap_keeps
    with_reducible apply State.islLook_keeps
    with_reducible apply State.islHalt_keeps
    exact h1

theorem IslCmd.newOrigin_keeps {a : State} {z1 z2 z3 z4 z5 z6} (h4 : State.Keeps a z4) :
    OnFst (State.Keeps a) (IslCmd.newOrigin z1 z2 z3 z4 z5 z6) := by
  unfold IslCmd.newOrigin
  with_reducible apply State.newOrigin_keeps
  exact h4

theorem State.makeResident_keeps {a : State} {z1 z2 z3 z4 z5 z6 z7} (h1 : State.Keeps a z1) :
    State.Keeps a (State.makeResident z1 z2 z3 z4 z5 z6 z7) := by
  unfold State.makeResident
  extract_lets +onlyGivenNames x1
  clear_value x1
  extract_lets +onlyGivenNames x2
  clear_value x2
  extract_lets +onlyGivenNames x3
  clear_value x3
  extract_lets +onlyGivenNames x4
  clear_value x4
  with_reducible refine ite_keeps (P := State.Keeps a) ?_ ?_
  · with_reducible apply State.modIsl_keeps
    exact h1
  · exact h1

theorem State.opRows_keeps {a : State} {z1 z2 z3 z4 z5 z6 z7 z8 z9 z10 z11 z12} (h1 : State.Keeps a z1) :
    OnFst (State.Keeps a) (State.opRows z1 z2 z3 z4 z5 z6 z7 z8 z9 z10 z11 z12) := by
  unfold State.opRows
  extract_lets +onlyGivenNames x1
  clear_value x1
  split
  · rename_i v2 v3 v4
    refine OnFst.mk ?_
    exact h1
  · rename_i v5 v6
    extract_lets +onlyGivenNames x7
    clear_value x7
    refine OnFst.mk ?_
    with_reducible refine ite_keeps (P := State.Keeps a) ?_ ?_
    · with_reducible apply State.makeResident_keeps
      exact h1
    · exact h1

theorem State.mulRun_keeps {a : State} {z1 z2 z3 z4 z5 z6} (h1 : State.Keeps a z1) :
    OnFst (State.Keeps a) (State.mulRun z1 z2 z3 z4 z5 z6) := by
  unfold State.mulRun
  extract_lets +onlyGivenNames x1
  clear_value x1
  extract_lets +onlyGivenNames x2
  have h3 : OnFst (State.Keeps a) x2 := by
    unfold x2
    with_reducible refine ite_keeps (P := OnFst (State.Keeps a)) ?_ ?_
    · refine OnFst.mk ?_
      exact h1
    · with_reducible apply State.opRows_keeps
      exact h1
  clear_value x2
  extract_lets +onlyGivenNames x4
  have h5 : OnFst (State.Keeps a) x4 := by
    unfold x4
    with_reducible apply State.opRows_keeps
    exact h3
  clear_value x4
  extract_lets +onlyGivenNames x6
  clear_value x6
  extract_lets +onlyGivenNames x7
  clear_value x7
  extract_lets +onlyGivenNames x8
  clear_value x8
  extract_lets +onlyGivenNames x9
  have h13 : ∀ y10 y11 y12, State.Keeps a y10 → OnFst (State.Keeps a) (x9 y10 y11 y12) := by
    intro y10 y11 y12 h14
    unfold x9
    with_reducible apply IslCmd.newOrigin_keeps
    exact h14
  clear_value x9
  extract_lets +onlyGivenNames x15
  have h16 : OnFst (State.Keeps a) x15 := by
    unfold x15
    with_reducible apply decodeRows_keeps
    · intro y17 y18 y19 h20
      with_reducible apply h13
      exact h20
    · exact h5
  clear_value x15
  extract_lets +onlyGivenNames x21
  have h22 : OnFst (State.Keeps a) x21 := by
    unfold x21
    with_reducible apply decodeRows_keeps
    · intro y23 y24 y25 h26
      with_reducible apply h13
      exact h26
    · exact h16
  clear_value x21
  extract_lets +onlyGivenNames x27
  clear_value x27
  extract_lets +onlyGivenNames x28
  clear_value x28
  extract_lets +onlyGivenNames x29
  have h30 : OnFst (State.Keeps a) x29 := by
    unfold x29
    with_reducible apply multiply_keeps
    · intro y31 y32 y33 h34
      with_reducible apply h13
      exact h34
    · refine OnFst.mk ?_
      exact h22
  clear_value x29
  refine OnFst.mk ?_
  with_reducible apply State.modTile_keeps
  exact h30

theorem outRow_keeps {a : State} {z1 z2 z3 z4 z5 z6} (h1 : ∀ y1 y2 y3, State.Keeps a y1 → OnFst (State.Keeps a) (z1 y1 y2 y3)) (h6 : State.Keeps a z6) :
    OnFst (State.Keeps a) (outRow z1 z2 z3 z4 z5 z6) := by
  unfold outRow
  refine foldl_keeps ?_ ?_
  · refine OnFst.mk ?_
    exact h6
  · intro y1 y2 h3
    extract_lets +onlyGivenNames x4
    clear_value x4
    extract_lets +onlyGivenNames x5
    clear_value x5
    extract_lets +onlyGivenNames x6
    clear_value x6
    extract_lets +onlyGivenNames x7
    have h8 : OnFst (State.Keeps a) x7 := by
      unfold x7
      with_reducible apply h1
      exact h3
    clear_value x7
    with_reducible refine ite_keeps (P := OnFst (State.Keeps a)) ?_ ?_
    · refine OnFst.mk ?_
      exact h3
    · with_reducible refine ite_keeps (P := OnFst (State.Keeps a)) ?_ ?_
      · refine OnFst.mk ?_
        exact h3
      · refine OnFst.mk ?_
        exact h8

theorem State.outRows_keeps {a : State} {z1 z2 z3 z4 z5 z6 z7} (h1 : State.Keeps a z1) :
    OnFst (State.Keeps a) (State.outRows z1 z2 z3 z4 z5 z6 z7) := by
  unfold State.outRows
  extract_lets +onlyGivenNames x1
  have h5 : ∀ y2 y3 y4, State.Keeps a y2 → OnFst (State.Keeps a) (x1 y2 y3 y4) := by
    intro y2 y3 y4 h6
    unfold x1
    with_reducible apply IslCmd.newOrigin_keeps
    exact h6
  clear_value x1
  refine foldl_keeps ?_ ?_
  · refine OnFst.mk ?_
    exact h1
  · intro y7 y8 h9
    extract_lets +onlyGivenNames x10
    clear_value x10
    extract_lets +onlyGivenNames x11
    have h12 : OnFst (State.Keeps a) x11 := by
      unfold x11
      with_reducible apply outRow_keeps
      · intro y13 y14 y15 h16
        with_reducible apply h5
        exact h16
      · exact h9
    clear_value x11
    extract_lets +onlyGivenNames x17
    clear_value x17
    extract_lets +onlyGivenNames x18
    clear_value x18
    refine OnFst.mk ?_
    exact h12

theorem State.outWrite_keeps {a : State} {z1 z2 z3 z4} (h1 : State.Keeps a z1) :
    State.Keeps a (State.outWrite z1 z2 z3 z4) := by
  unfold State.outWrite
  extract_lets +onlyGivenNames x1
  have h2 : State.Keeps a x1 := by
    unfold x1
    refine foldl_keeps ?_ ?_
    · exact h1
    · intro y3 y4 h5
      with_reducible apply State.memWrite_keeps
      exact h5
  clear_value x1
  refine foldl_keeps ?_ ?_
  · exact h2
  · intro y6 y7 h8
    with_reducible apply State.reportPoison_keeps
    exact h8

theorem State.plaitTake_keeps {a : State} {z1 z2 z3 z4} (h1 : State.Keeps a z1) :
    OnFst (State.Keeps a) (State.plaitTake z1 z2 z3 z4) := by
  unfold State.plaitTake
  extract_lets +onlyGivenNames x1
  clear_value x1
  split
  · rename_i v2 v3 v4
    refine OnFst.mk ?_
    with_reducible apply State.modPlait_keeps
    exact h1
  · rename_i v5 v6
    extract_lets +onlyGivenNames x7
    clear_value x7
    with_reducible refine ite_keeps (P := OnFst (State.Keeps a)) ?_ ?_
    · refine OnFst.mk ?_
      refine State.Keeps.upd (s := z1) rfl rfl rfl rfl ?_
      exact h1
    · split
      · rename_i v8 v9
        refine OnFst.mk ?_
        exact h1
      · rename_i v10 v11 v12
        refine OnFst.mk ?_
        refine State.Keeps.upd (s := z1) rfl rfl rfl rfl ?_
        exact h1

theorem State.spmaChoose_keeps {a : State} {z1 z2 z3 z4} (h1 : State.Keeps a z1) :
    State.Keeps a (State.spmaChoose z1 z2 z3 z4) := by
  unfold State.spmaChoose
  split
  · rename_i v1 v2 v3
    exact h1
  · rename_i v4 v5 v6
    split
    · rename_i v7 v8
      exact h1
    · rename_i v9 v10 v11
      extract_lets +onlyGivenNames x12
      clear_value x12
      extract_lets +onlyGivenNames x13
      have h14 : OnFst (State.Keeps a) x13 := by
        unfold x13
        with_reducible apply State.plaitTake_keeps
        exact h1
      clear_value x13
      extract_lets +onlyGivenNames x15
      have h16 : State.Keeps a x15 := by
        unfold x15
        exact h14
      clear_value x15
      split
      · rename_i v17 v18
        exact h16
      · rename_i v19 v20 v21
        split
        · rename_i v22 v23
          with_reducible apply State.modCmd_keeps
          exact h16
        · rename_i v24 v25
          with_reducible apply State.modCmd_keeps
          with_reducible apply State.modPlait_keeps
          exact h16
        · rename_i v26 v27 v28
          exact h16

theorem State.sendTile_keeps {a : State} {z1 z2 z3 z4 z5} (h1 : State.Keeps a z1) :
    State.Keeps a (State.sendTile z1 z2 z3 z4 z5) := by
  unfold State.sendTile
  with_reducible apply State.sched_keeps
  exact h1

theorem execPlaiterCompileDone_keeps {a : State} {z1} (h1 : State.Keeps a z1) :
    OnNext (State.Keeps a) (execPlaiterCompileDone z1) := by
  unfold execPlaiterCompileDone
  extract_lets +onlyGivenNames x1
  clear_value x1
  extract_lets +onlyGivenNames x2
  clear_value x2
  extract_lets +onlyGivenNames x3
  clear_value x3
  extract_lets +onlyGivenNames x4
  clear_value x4
  extract_lets +onlyGivenNames x5
  clear_value x5
  refine OnNext.next ?_
  split
  · rename_i v6 v7
    exact h1
  · rename_i v8 v9 v10
    extract_lets +onlyGivenNames x11
    clear_value x11
    extract_lets +onlyGivenNames x12
    clear_value x12
    extract_lets +onlyGivenNames x13
    have h14 : State.Keeps a x13 := by
      unfold x13
      with_reducible apply State.modPlait_keeps
      exact h1
    clear_value x13
    extract_lets +onlyGivenNames x15
    clear_value x15
    extract_lets +onlyGivenNames x16
    have h17 : State.Keeps a x16 := by
      unfold x16
      with_reducible apply State.modPlait_keeps
      exact h1
    clear_value x16
    extract_lets +onlyGivenNames x18
    clear_value x18
    with_reducible refine ite_keeps (P := State.Keeps a) ?_ ?_
    · exact h1
    · with_reducible refine ite_keeps (P := State.Keeps a) ?_ ?_
      · with_reducible apply State.sched_keeps
        exact h14
      · refine foldl_keeps ?_ ?_
        · exact h17
        · intro y19 y20 h21
          split
          · rename_i v22 v23
            exact h21
          · rename_i v24 v25 v26
            with_reducible apply State.islDone_keeps
            exact h21

theorem State.spmaGo_keeps {a : State} {z1 z2 z3 z4 z5} (h1 : State.Keeps a z1) :
    State.Keeps a (State.spmaGo z1 z2 z3 z4 z5) := by
  unfold State.spmaGo
  extract_lets +onlyGivenNames x1
  clear_value x1
  extract_lets +onlyGivenNames x2
  clear_value x2
  extract_lets +onlyGivenNames x3
  clear_value x3
  extract_lets +onlyGivenNames x4
  clear_value x4
  extract_lets +onlyGivenNames x5
  clear_value x5
  extract_lets +onlyGivenNames x6
  have h7 : State.Keeps a x6 := by
    unfold x6
    with_reducible refine ite_keeps (P := State.Keeps a) ?_ ?_
    · with_reducible refine ite_keeps (P := State.Keeps a) ?_ ?_
      · with_reducible apply State.sendTile_keeps
        exact h1
      · with_reducible apply State.spmaForgive_keeps
        exact h1
    · exact h1
  clear_value x6
  extract_lets +onlyGivenNames x8
  clear_value x8
  extract_lets +onlyGivenNames x9
  have h10 : State.Keeps a x9 := by
    unfold x9
    with_reducible apply State.modCmd_keeps
    exact h7
  clear_value x9
  with_reducible apply State.islNext_keeps
  exact h10

theorem State.spmaSums_keeps {a : State} {z1 z2 z3 z4 z5 z6} (h1 : State.Keeps a z1) :
    OnFst (State.Keeps a) (State.spmaSums z1 z2 z3 z4 z5 z6) := by
  unfold State.spmaSums
  extract_lets +onlyGivenNames x1
  clear_value x1
  extract_lets +onlyGivenNames x2
  clear_value x2
  split
  · rename_i v3 v4 v5
    refine OnFst.mk ?_
    exact h1
  · rename_i v6 v7
    extract_lets +onlyGivenNames x8
    have h12 : ∀ y9 y10 y11, State.Keeps a y9 → OnFst (State.Keeps a) (x8 y9 y10 y11) := by
      intro y9 y10 y11 h13
      unfold x8
      with_reducible apply IslCmd.newOrigin_keeps
      exact h13
    clear_value x8
    extract_lets +onlyGivenNames x14
    have h15 : OnFst (State.Keeps a) x14 := by
      unfold x14
      with_reducible apply decodeRows_keeps
      · intro y16 y17 y18 h19
        with_reducible apply h12
        exact h19
      · exact h1
    clear_value x14
    extract_lets +onlyGivenNames x20
    clear_value x20
    extract_lets +onlyGivenNames x21
    clear_value x21
    extract_lets +onlyGivenNames x22
    clear_value x22
    extract_lets +onlyGivenNames x23
    clear_value x23
    extract_lets +onlyGivenNames x24
    have h25 : OnFst (State.Keeps a) x24 := by
      unfold x24
      refine foldl_keeps ?_ ?_
      · refine OnFst.mk ?_
        exact h15
      · intro y26 y27 h28
        with_reducible apply groupAll_keeps
        · intro y29 y30 y31 h32
          with_reducible apply h12
          exact h32
        · exact h28
    clear_value x24
    refine OnFst.mk ?_
    with_reducible apply State.modTile_keeps
    exact h25

theorem State.spmaRun_keeps {a : State} {z1 z2 z3 z4 z5} (h1 : State.Keeps a z1) :
    State.Keeps a (State.spmaRun z1 z2 z3 z4 z5) := by
  unfold State.spmaRun
  extract_lets +onlyGivenNames x1
  have h2 : OnFst (State.Keeps a) x1 := by
    unfold x1
    with_reducible apply State.spmaSums_keeps
    exact h1
  clear_value x1
  split
  · rename_i v3 v4 v5
    with_reducible apply State.islStop_keeps
    exact h2
  · rename_i v6 v7
    extract_lets +onlyGivenNames x8
    have h9 : State.Keeps a x8 := by
      unfold x8
      with_reducible apply State.memWrite_keeps
      with_reducible apply State.modTile_keeps
      exact h2
    clear_value x8
    extract_lets +onlyGivenNames x10
    have h11 : State.Keeps a x10 := by
      unfold x10
      with_reducible refine ite_keeps (P := State.Keeps a) ?_ ?_
      · with_reducible apply State.bumpCsr_keeps
        exact h9
      · with_reducible apply State.bumpCsr_keeps
        exact h9
    clear_value x10
    with_reducible apply State.islDone_keeps
    exact h11

theorem State.plctAct_keeps {a : State} {z1 z2 z3 z4} (h1 : State.Keeps a z1) :
    State.Keeps a (State.plctAct z1 z2 z3 z4) := by
  unfold State.plctAct
  split
  · rename_i v1 v2 v3
    with_reducible apply State.islFail_keeps
    exact h1
  · rename_i v4 v5 v6 v7 v8
    split
    · rename_i v9 v10
      with_reducible apply State.islFail_keeps
      exact h1
    · rename_i v11 v12 v13
      with_reducible refine ite_keeps (P := State.Keeps a) ?_ ?_
      · with_reducible apply State.islFail_keeps
        exact h1
      · split
        · rename_i v14 v15 v16
          with_reducible apply State.islFail_keeps
          exact h1
        · rename_i v17 v18
          extract_lets +onlyGivenNames x19
          clear_value x19
          extract_lets +onlyGivenNames x20
          clear_value x20
          extract_lets +onlyGivenNames x21
          have h22 : OnFst (State.Keeps a) x21 := by
            unfold x21
            with_reducible apply State.plaitTake_keeps
            exact h1
          clear_value x21
          extract_lets +onlyGivenNames x23
          have h24 : State.Keeps a x23 := by
            unfold x23
            exact h22
          clear_value x23
          extract_lets +onlyGivenNames x25
          clear_value x25
          extract_lets +onlyGivenNames x26
          have h28 : ∀ y27, State.Keeps a y27 → State.Keeps a (x26 y27) := by
            intro y27 h29
            unfold x26
            with_reducible apply State.modCmd_keeps
            with_reducible apply State.modPlait_keeps
            exact h29
          clear_value x26
          split
          · rename_i v30 v31 v32 v33 v34
            extract_lets +onlyGivenNames x35
            have h36 : State.Keeps a x35 := by
              unfold x35
              with_reducible refine ite_keeps (P := State.Keeps a) ?_ ?_
              · exact h24
              · with_reducible apply State.sched_keeps
                exact h24
            clear_value x35
            extract_lets +onlyGivenNames x37
            have h38 : State.Keeps a x37 := by
              unfold x37
              with_reducible apply State.modPlait_keeps
              exact h36
            clear_value x37
            with_reducible apply State.islDone_keeps
            exact h38
          · rename_i v39 v40 v41 v42 v43
            split
            · rename_i v44 v45
              extract_lets +onlyGivenNames x46
              have h47 : State.Keeps a x46 := by
                unfold x46
                with_reducible apply h28
                with_reducible apply State.modPlait_keeps
                exact h24
              clear_value x46
              extract_lets +onlyGivenNames x48
              have h49 : State.Keeps a x48 := by
                unfold x48
                with_reducible apply State.modCmd_keeps
                exact h47
              clear_value x48
              with_reducible apply State.sendTile_keeps
              exact h49
            · rename_i v50 v51
              with_reducible apply h28
              exact h24
            · rename_i v52 v53 v54
              with_reducible apply State.islDone_keeps
              exact h24
          · rename_i v55 v56 v57 v58
            with_reducible apply State.islDone_keeps
            exact h24

theorem State.scatSend_keeps {a : State} {z1 z2 z3 z4} (h1 : State.Keeps a z1) :
    State.Keeps a (State.scatSend z1 z2 z3 z4) := by
  unfold State.scatSend
  extract_lets +onlyGivenNames x1
  clear_value x1
  with_reducible apply State.sched_keeps
  exact h1

theorem State.scat_keeps {a : State} {z1 z2 z3 z4} (h1 : State.Keeps a z1) :
    State.Keeps a (State.scat z1 z2 z3 z4) := by
  unfold State.scat
  with_reducible apply State.frame_keeps
  · exact h1
  · intro y1 h2
    extract_lets +onlyGivenNames x3
    clear_value x3
    split
    · rename_i v4 v5
      with_reducible apply State.trap_keeps
      exact h2
    · rename_i v6 v7 v8
      extract_lets +onlyGivenNames x9
      clear_value x9
      extract_lets +onlyGivenNames x10
      have h11 : State.Keeps a x10 := by
        unfold x10
        with_reducible apply State.flush_keeps
        exact h2
      clear_value x10
      extract_lets +onlyGivenNames x12
      have h13 : State.Keeps a x12 := by
        unfold x12
        with_reducible apply State.modFire_keeps
        exact h11
      clear_value x12
      with_reducible refine ite_keeps (P := State.Keeps a) ?_ ?_
      · with_reducible apply State.trap_keeps
        exact h2
      · split
        · rename_i v14 v15 v16
          with_reducible apply State.scatSend_keeps
          exact h13
        · rename_i v17 v18
          exact h13

theorem execScatAdd_keeps {a : State} {z1 z2 z3 z4} (h4 : State.Keeps a z4) :
    OnNext (State.Keeps a) (execScatAdd z1 z2 z3 z4) := by
  unfold execScatAdd
  refine OnNext.next ?_
  with_reducible apply State.scat_keeps
  exact h4

theorem execScatFadd_keeps {a : State} {z1 z2 z3 z4} (h4 : State.Keeps a z4) :
    OnNext (State.Keeps a) (execScatFadd z1 z2 z3 z4) := by
  unfold execScatFadd
  refine OnNext.next ?_
  with_reducible apply State.scat_keeps
  exact h4

theorem execScatMax_keeps {a : State} {z1 z2 z3 z4} (h4 : State.Keeps a z4) :
    OnNext (State.Keeps a) (execScatMax z1 z2 z3 z4) := by
  unfold execScatMax
  refine OnNext.next ?_
  with_reducible apply State.scat_keeps
  exact h4

theorem execScatMin_keeps {a : State} {z1 z2 z3 z4} (h4 : State.Keeps a z4) :
    OnNext (State.Keeps a) (execScatMin z1 z2 z3 z4) := by
  unfold execScatMin
  refine OnNext.next ?_
  with_reducible apply State.scat_keeps
  exact h4

theorem execScatOr_keeps {a : State} {z1 z2 z3 z4} (h4 : State.Keeps a z4) :
    OnNext (State.Keeps a) (execScatOr z1 z2 z3 z4) := by
  unfold execScatOr
  refine OnNext.next ?_
  with_reducible apply State.scat_keeps
  exact h4

theorem execScatApply_keeps {a : State} {z1} (h1 : State.Keeps a z1) :
    OnNext (State.Keeps a) (execScatApply z1) := by
  unfold execScatApply
  extract_lets +onlyGivenNames x1
  clear_value x1
  extract_lets +onlyGivenNames x2
  clear_value x2
  refine OnNext.next ?_
  split
  · rename_i v3 v4
    exact h1
  · rename_i v5 v6 v7
    extract_lets +onlyGivenNames x8
    clear_value x8
    extract_lets +onlyGivenNames x9
    clear_value x9
    with_reducible refine ite_keeps (P := State.Keeps a) ?_ ?_
    · exact h1
    · with_reducible refine ite_keeps (P := State.Keeps a) ?_ ?_
      · with_reducible apply State.scatSend_keeps
        exact h1
      · split
        · rename_i v10 v11
          with_reducible apply State.engineTrap_keeps
          exact h1
        · rename_i v12 v13 v14
          extract_lets +onlyGivenNames x15
          clear_value x15
          extract_lets +onlyGivenNames x16
          clear_value x16
          extract_lets +onlyGivenNames x17
          have h18 : State.Keeps a x17 := by
            unfold x17
            refine State.Keeps.set (s := z1) rfl rfl (fun w => ⟨(Mem.sets_wf w.1), w.2⟩) ?_
            exact h1
          clear_value x17
          extract_lets +onlyGivenNames x19
          have h20 : OnFst (State.Keeps a) x19 := by
            unfold x19
            with_reducible apply State.newOrigin_keeps
            exact h18
          clear_value x19
          extract_lets +onlyGivenNames x21
          have h22 : State.Keeps a x21 := by
            unfold x21
            split
            · rename_i v23 v24 v25
              with_reducible apply State.reportPoison_keeps
              exact h18
            · rename_i v26 v27
              with_reducible refine ite_keeps (P := State.Keeps a) ?_ ?_
              · exact h18
              · split
                · rename_i v28 v29 v30
                  with_reducible apply State.reportPoison_keeps
                  exact h18
                · rename_i v31 v32
                  with_reducible apply State.reportPoison_keeps
                  exact h20
          clear_value x21
          extract_lets +onlyGivenNames x33
          clear_value x33
          with_reducible apply State.engineAnswer_keeps
          exact h22

theorem State.islSend_keeps {a : State} {z1 z2 z3 z4} (h1 : State.Keeps a z1) :
    State.Keeps a (State.islSend z1 z2 z3 z4) := by
  unfold State.islSend
  split
  · rename_i v1 v2
    exact h1
  · rename_i v3 v4 v5
    extract_lets +onlyGivenNames x6
    clear_value x6
    with_reducible apply State.sched_keeps
    with_reducible apply State.modIsl_keeps
    exact h1

theorem State.island_keeps {a : State} {z1 z2 z3 z4} (h1 : State.Keeps a z1) :
    State.Keeps a (State.island z1 z2 z3 z4) := by
  unfold State.island
  with_reducible apply State.frame_keeps
  · exact h1
  · intro y1 h2
    extract_lets +onlyGivenNames x3
    clear_value x3
    extract_lets +onlyGivenNames x4
    clear_value x4
    extract_lets +onlyGivenNames x5
    have h6 : State.Keeps a x5 := by
      unfold x5
      with_reducible apply State.flush_keeps
      exact h2
    clear_value x5
    extract_lets +onlyGivenNames x7
    have h8 : State.Keeps a x7 := by
      unfold x7
      with_reducible apply State.modFire_keeps
      exact h6
    clear_value x7
    with_reducible apply State.islSend_keeps
    exact h8

theorem execMmcfg_keeps {a : State} {z1 z2 z3 z4 z5} (h5 : State.Keeps a z5) :
    OnNext (State.Keeps a) (execMmcfg z1 z2 z3 z4 z5) := by
  unfold execMmcfg
  refine OnNext.next ?_
  with_reducible apply State.island_keeps
  exact h5

theorem execMmaOvw_keeps {a : State} {z1 z2 z3 z4 z5} (h5 : State.Keeps a z5) :
    OnNext (State.Keeps a) (execMmaOvw z1 z2 z3 z4 z5) := by
  unfold execMmaOvw
  refine OnNext.next ?_
  with_reducible apply State.island_keeps
  exact h5

theorem execMmaAcc_keeps {a : State} {z1 z2 z3 z4 z5} (h5 : State.Keeps a z5) :
    OnNext (State.Keeps a) (execMmaAcc z1 z2 z3 z4 z5) := by
  unfold execMmaAcc
  refine OnNext.next ?_
  with_reducible apply State.island_keeps
  exact h5

theorem execMmaGrp_keeps {a : State} {z1 z2 z3 z4 z5} (h5 : State.Keeps a z5) :
    OnNext (State.Keeps a) (execMmaGrp z1 z2 z3 z4 z5) := by
  unfold execMmaGrp
  refine OnNext.next ?_
  with_reducible apply State.island_keeps
  exact h5

theorem execMmrd_keeps {a : State} {z1 z2 z3 z4 z5} (h5 : State.Keeps a z5) :
    OnNext (State.Keeps a) (execMmrd z1 z2 z3 z4 z5) := by
  unfold execMmrd
  refine OnNext.next ?_
  with_reducible apply State.island_keeps
  exact h5

theorem execSpmaOvw_keeps {a : State} {z1 z2 z3 z4 z5} (h5 : State.Keeps a z5) :
    OnNext (State.Keeps a) (execSpmaOvw z1 z2 z3 z4 z5) := by
  unfold execSpmaOvw
  refine OnNext.next ?_
  with_reducible apply State.island_keeps
  exact h5

theorem execSpmaAcc_keeps {a : State} {z1 z2 z3 z4 z5} (h5 : State.Keeps a z5) :
    OnNext (State.Keeps a) (execSpmaAcc z1 z2 z3 z4 z5) := by
  unfold execSpmaAcc
  refine OnNext.next ?_
  with_reducible apply State.island_keeps
  exact h5

theorem execPlctPrep_keeps {a : State} {z1 z2 z3 z4} (h4 : State.Keeps a z4) :
    OnNext (State.Keeps a) (execPlctPrep z1 z2 z3 z4) := by
  unfold execPlctPrep
  refine OnNext.next ?_
  with_reducible apply State.island_keeps
  exact h4

theorem execPlctInval_keeps {a : State} {z1 z2 z3 z4} (h4 : State.Keeps a z4) :
    OnNext (State.Keeps a) (execPlctInval z1 z2 z3 z4) := by
  unfold execPlctInval
  refine OnNext.next ?_
  with_reducible apply State.island_keeps
  exact h4

theorem execPlctQuery_keeps {a : State} {z1 z2 z3 z4} (h4 : State.Keeps a z4) :
    OnNext (State.Keeps a) (execPlctQuery z1 z2 z3 z4) := by
  unfold execPlctQuery
  refine OnNext.next ?_
  with_reducible apply State.island_keeps
  exact h4

theorem State.mmcfgAct_keeps {a : State} {z1 z2 z3 z4} (h1 : State.Keeps a z1) :
    State.Keeps a (State.mmcfgAct z1 z2 z3 z4) := by
  unfold State.mmcfgAct
  extract_lets +onlyGivenNames x1
  clear_value x1
  extract_lets +onlyGivenNames x2
  clear_value x2
  with_reducible refine ite_keeps (P := State.Keeps a) ?_ ?_
  · with_reducible apply State.islFail_keeps
    exact h1
  · with_reducible apply State.islDone_keeps
    with_reducible apply State.modIsl_keeps
    exact h1

theorem State.islServe_keeps {a : State} {z1 z2 z3} (h1 : State.Keeps a z1) :
    State.Keeps a (State.islServe z1 z2 z3) := by
  unfold State.islServe
  extract_lets +onlyGivenNames x1
  clear_value x1
  split
  · rename_i v2 v3 v4 v5 v6
    extract_lets +onlyGivenNames x7
    clear_value x7
    extract_lets +onlyGivenNames x8
    have h9 : State.Keeps a x8 := by
      unfold x8
      with_reducible apply State.modIsl_keeps
      exact h1
    clear_value x8
    with_reducible apply State.islNext_keeps
    with_reducible apply State.modCmd_keeps
    exact h9
  · rename_i v10 v11 v12
    exact h1

theorem State.islTake_keeps {a : State} {z1 z2 z3 z4} (h1 : State.Keeps a z1) :
    State.Keeps a (State.islTake z1 z2 z3 z4) := by
  unfold State.islTake
  extract_lets +onlyGivenNames x1
  clear_value x1
  extract_lets +onlyGivenNames x2
  clear_value x2
  extract_lets +onlyGivenNames x3
  clear_value x3
  extract_lets +onlyGivenNames x4
  have h5 : State.Keeps a x4 := by
    unfold x4
    with_reducible apply State.modIsl_keeps
    exact h1
  clear_value x4
  extract_lets +onlyGivenNames x6
  have h7 : State.Keeps a x6 := by
    unfold x6
    with_reducible refine ite_keeps (P := State.Keeps a) ?_ ?_
    · with_reducible apply State.modTile_keeps
      exact h5
    · exact h5
  clear_value x6
  extract_lets +onlyGivenNames x8
  clear_value x8
  extract_lets +onlyGivenNames x9
  have h10 : State.Keeps a x9 := by
    unfold x9
    with_reducible refine ite_keeps (P := State.Keeps a) ?_ ?_
    · with_reducible apply State.modPage_keeps
      exact h7
    · exact h7
  clear_value x9
  extract_lets +onlyGivenNames x11
  have h12 : State.Keeps a x11 := by
    unfold x11
    with_reducible apply State.wake_keeps
    exact h10
  clear_value x11
  split
  · rename_i v13 v14
    with_reducible apply State.mmcfgAct_keeps
    exact h12
  · rename_i v15 v16
    with_reducible apply State.islNext_keeps
    exact h12
  · rename_i v17 v18
    with_reducible apply State.spmaChoose_keeps
    exact h12
  · rename_i v19 v20 v21 v22
    exact h12

theorem State.islAccept_keeps {a : State} {z1 z2 z3 z4} (h1 : State.Keeps a z1) :
    State.Keeps a (State.islAccept z1 z2 z3 z4) := by
  induction z4 generalizing z1 z2 z3 with
  | zero =>
    unfold State.islAccept
    exact h1
  | succ n ih =>
    unfold State.islAccept
    extract_lets +onlyGivenNames x1
    clear_value x1
    split
    · rename_i v2 v3
      exact h1
    · rename_i v4 v5 v6
      extract_lets +onlyGivenNames x7
      have h8 : State.Keeps a x7 := by
        unfold x7
        with_reducible apply State.wake_keeps
        with_reducible apply State.modIsl_keeps
        exact h1
      clear_value x7
      with_reducible refine ite_keeps (P := State.Keeps a) ?_ ?_
      · with_reducible apply ih
        with_reducible apply State.islTake_keeps
        exact h1
      · with_reducible refine ite_keeps (P := State.Keeps a) ?_ ?_
        · with_reducible apply ih
          with_reducible apply State.modIsl_keeps
          exact h1
        · with_reducible apply ih
          with_reducible apply State.islTrap_keeps
          exact h8

theorem execIslandAccept_keeps {a : State} {z1} (h1 : State.Keeps a z1) :
    OnNext (State.Keeps a) (execIslandAccept z1) := by
  unfold execIslandAccept
  extract_lets +onlyGivenNames x1
  clear_value x1
  extract_lets +onlyGivenNames x2
  clear_value x2
  refine OnNext.next ?_
  with_reducible refine ite_keeps (P := State.Keeps a) ?_ ?_
  · with_reducible apply State.islSend_keeps
    exact h1
  · with_reducible apply State.islServe_keeps
    with_reducible apply State.islAccept_keeps
    exact h1

theorem State.takeStream_keeps {a : State} {z1 z2 z3 z4 z5} (h1 : State.Keeps a z1) :
    State.Keeps a (State.takeStream z1 z2 z3 z4 z5) := by
  induction z5 generalizing z1 z2 z3 z4 with
  | zero =>
    unfold State.takeStream
    exact h1
  | succ n ih =>
    unfold State.takeStream
    extract_lets +onlyGivenNames x1
    clear_value x1
    split
    · rename_i v2 v3
      exact h1
    · rename_i v4 v5 v6
      split
      · rename_i v7 v8 v9 v10 v11 v12
        with_reducible refine ite_keeps (P := State.Keeps a) ?_ ?_
        · exact h1
        · split
          · rename_i v13 v14
            exact h1
          · rename_i v15 v16 v17
            extract_lets +onlyGivenNames x18
            have h19 : State.Keeps a x18 := by
              unfold x18
              with_reducible apply State.modIsl_keeps
              exact h1
            clear_value x18
            with_reducible apply ih
            with_reducible apply State.wake_keeps
            with_reducible apply State.modCmd_keeps
            exact h19
      · rename_i v20 v21 v22
        exact h1

theorem State.islFeed_keeps {a : State} {z1 z2 z3 z4} (h1 : State.Keeps a z1) :
    State.Keeps a (State.islFeed z1 z2 z3 z4) := by
  unfold State.islFeed
  extract_lets +onlyGivenNames x1
  have h2 : State.Keeps a x1 := by
    unfold x1
    with_reducible apply State.takeStream_keeps
    exact h1
  clear_value x1
  split
  · rename_i v3 v4
    exact h2
  · rename_i v5 v6 v7
    split
    · rename_i v8 v9
      exact h2
    · rename_i v10 v11 v12
      extract_lets +onlyGivenNames x13
      clear_value x13
      extract_lets +onlyGivenNames x14
      have h15 : State.Keeps a x14 := by
        unfold x14
        with_reducible apply State.modCmd_keeps
        exact h2
      clear_value x14
      with_reducible refine ite_keeps (P := State.Keeps a) ?_ ?_
      · exact h2
      · with_reducible refine ite_keeps (P := State.Keeps a) ?_ ?_
        · with_reducible apply State.spmaGo_keeps
          exact h2
        · with_reducible refine ite_keeps (P := State.Keeps a) ?_ ?_
          · with_reducible apply State.islNext_keeps
            exact h15
          · with_reducible apply State.islNext_keeps
            exact h15

theorem State.islBegin_keeps {a : State} {z1 z2 z3 z4 z5 z6 z7} (h1 : State.Keeps a z1) :
    State.Keeps a (State.islBegin z1 z2 z3 z4 z5 z6 z7) := by
  unfold State.islBegin
  extract_lets +onlyGivenNames x1
  clear_value x1
  extract_lets +onlyGivenNames x2
  clear_value x2
  extract_lets +onlyGivenNames x3
  have h4 : State.Keeps a x3 := by
    unfold x3
    with_reducible apply State.modTile_keeps
    exact h1
  clear_value x3
  with_reducible apply State.modCmd_keeps
  exact h4

theorem State.islRefuse_keeps {a : State} {z1 z2 z3 z4 z5} (h1 : State.Keeps a z1) :
    State.Keeps a (State.islRefuse z1 z2 z3 z4 z5) := by
  unfold State.islRefuse
  extract_lets +onlyGivenNames x1
  have h2 : State.Keeps a x1 := by
    unfold x1
    with_reducible apply State.spmaForgive_keeps
    exact h1
  clear_value x1
  with_reducible refine ite_keeps (P := State.Keeps a) ?_ ?_
  · with_reducible apply State.islStop_keeps
    exact h2
  · with_reducible apply State.islFail_keeps
    exact h2

theorem State.mmaPlan_keeps {a : State} {z1 z2 z3 z4} (h1 : State.Keeps a z1) :
    State.Keeps a (State.mmaPlan z1 z2 z3 z4) := by
  unfold State.mmaPlan
  extract_lets +onlyGivenNames x1
  split
  · rename_i v2 v3 v4
    with_reducible apply State.islRefuse_keeps
    exact h1
  · rename_i v5 v6 v7
    with_reducible apply State.islFeed_keeps
    with_reducible apply State.islBegin_keeps
    exact h1

theorem State.mmaRun_keeps {a : State} {z1 z2 z3 z4 z5} (h1 : State.Keeps a z1) :
    State.Keeps a (State.mmaRun z1 z2 z3 z4 z5) := by
  unfold State.mmaRun
  extract_lets +onlyGivenNames x1
  have h2 : OnFst (State.Keeps a) x1 := by
    unfold x1
    with_reducible apply State.mulRun_keeps
    exact h1
  clear_value x1
  split
  · rename_i v3 v4 v5
    with_reducible apply State.islStop_keeps
    exact h2
  · rename_i v6 v7
    extract_lets +onlyGivenNames x8
    have h9 : State.Keeps a x8 := by
      unfold x8
      with_reducible refine ite_keeps (P := State.Keeps a) ?_ ?_
      · with_reducible apply State.memWrite_keeps
        exact h2
      · exact h2
    clear_value x8
    with_reducible apply State.islDone_keeps
    with_reducible apply State.modTile_keeps
    exact h9

theorem State.spmaStart_keeps {a : State} {z1 z2 z3 z4} (h1 : State.Keeps a z1) :
    State.Keeps a (State.spmaStart z1 z2 z3 z4) := by
  unfold State.spmaStart
  extract_lets +onlyGivenNames x1
  split
  · rename_i v2 v3 v4
    with_reducible apply State.islRefuse_keeps
    exact h1
  · rename_i v5 v6 v7
    extract_lets +onlyGivenNames x8
    have h9 : State.Keeps a x8 := by
      unfold x8
      with_reducible apply State.islBegin_keeps
      exact h1
    clear_value x8
    extract_lets +onlyGivenNames x10
    have h11 : State.Keeps a x10 := by
      unfold x10
      with_reducible apply State.modCmd_keeps
      exact h9
    clear_value x10
    with_reducible apply State.islFeed_keeps
    exact h11

theorem State.readOut_keeps {a : State} {z1 z2 z3 z4 z5 z6} (h1 : State.Keeps a z1) :
    OnFst (State.Keeps a) (State.readOut z1 z2 z3 z4 z5 z6) := by
  unfold State.readOut
  extract_lets +onlyGivenNames x1
  clear_value x1
  extract_lets +onlyGivenNames x2
  have h3 : OnFst (State.Keeps a) x2 := by
    unfold x2
    with_reducible apply State.outRows_keeps
    exact h1
  clear_value x2
  with_reducible refine ite_keeps (P := OnFst (State.Keeps a)) ?_ ?_
  · refine OnFst.mk ?_
    exact h1
  · split
    · rename_i v4 v5 v6 v7 v8 v9
      with_reducible refine ite_keeps (P := OnFst (State.Keeps a)) ?_ ?_
      · refine OnFst.mk ?_
        exact h3
      · split
        · rename_i v10 v11 v12
          refine OnFst.mk ?_
          exact h3
        · rename_i v13 v14
          refine OnFst.mk ?_
          exact h3
    · rename_i v15 v16 v17 v18 v19
      refine OnFst.mk ?_
      exact h3
    · rename_i v20 v21 v22 v23
      refine OnFst.mk ?_
      exact h3

theorem State.islPoison_keeps {a : State} {z1 z2 z3 z4 z5 z6} (h1 : State.Keeps a z1) :
    State.Keeps a (State.islPoison z1 z2 z3 z4 z5 z6) := by
  unfold State.islPoison
  with_reducible apply State.islTrap_keeps
  with_reducible apply State.islDrop_keeps
  with_reducible apply State.modTile_keeps
  exact h1

theorem State.mmrdPlan_keeps {a : State} {z1 z2 z3 z4} (h1 : State.Keeps a z1) :
    State.Keeps a (State.mmrdPlan z1 z2 z3 z4) := by
  unfold State.mmrdPlan
  split
  · rename_i v1 v2 v3
    with_reducible apply State.islFail_keeps
    exact h1
  · rename_i v4 v5 v6
    extract_lets +onlyGivenNames x7
    have h8 : OnFst (State.Keeps a) x7 := by
      unfold x7
      with_reducible apply State.readOut_keeps
      exact h1
    clear_value x7
    split
    · rename_i v9 v10
      with_reducible apply State.islFail_keeps
      exact h8
    · rename_i v11 v12 v13 v14
      with_reducible apply State.islPoison_keeps
      exact h8
    · rename_i v15 v16 v17 v18
      with_reducible apply State.islStop_keeps
      exact h8
    · rename_i v19 v20 v21 v22
      with_reducible apply State.islNext_keeps
      with_reducible apply State.modCmd_keeps
      exact h8

theorem State.mmrdEmpty_keeps {a : State} {z1 z2 z3 z4} (h1 : State.Keeps a z1) :
    State.Keeps a (State.mmrdEmpty z1 z2 z3 z4) := by
  unfold State.mmrdEmpty
  extract_lets +onlyGivenNames x1
  have h2 : State.Keeps a x1 := by
    unfold x1
    with_reducible apply State.modTile_keeps
    exact h1
  clear_value x1
  extract_lets +onlyGivenNames x3
  have h4 : State.Keeps a x3 := by
    unfold x3
    with_reducible apply State.modFire_keeps
    exact h2
  clear_value x3
  extract_lets +onlyGivenNames x5
  have h6 : State.Keeps a x5 := by
    unfold x5
    with_reducible apply State.modIsl_keeps
    exact h4
  clear_value x5
  with_reducible apply State.islLook_keeps
  with_reducible apply State.islNext_keeps
  exact h6

theorem State.postWord_keeps {a : State} {z1 z2 z3 z4} (h1 : State.Keeps a z1) :
    OnOk (State.Keeps a) (State.postWord z1 z2 z3 z4) := by
  unfold State.postWord
  extract_lets +onlyGivenNames x1
  clear_value x1
  with_reducible refine ite_keeps (P := OnOk (State.Keeps a)) ?_ ?_
  · exact OnOk.error
  · split
    · rename_i v2 v3 v4
      exact OnOk.error
    · rename_i v5 v6
      extract_lets +onlyGivenNames x7
      clear_value x7
      extract_lets +onlyGivenNames x8
      have h10 : ∀ y9, State.Keeps a (x8 y9) := by
        intro y9
        unfold x8
        with_reducible apply State.wordChanged_keeps
        with_reducible apply State.setObj_keeps
        exact h1
      clear_value x8
      split
      · rename_i v11 v12
        refine OnOk.ok ?_
        with_reducible apply h10
      · rename_i v13 v14 v15
        refine OnOk.ok ?_
        with_reducible apply h10
      · rename_i v16 v17 v18
        exact OnOk.error

theorem State.postAdd_keeps {a : State} {z1 z2 z3} (h1 : State.Keeps a z1) :
    OnOk (State.Keeps a) (State.postAdd z1 z2 z3) := by
  unfold State.postAdd
  with_reducible apply State.postWord_keeps
  exact h1

theorem State.grpPlan_keeps {a : State} {z1 z2 z3 z4} (h1 : State.Keeps a z1) :
    State.Keeps a (State.grpPlan z1 z2 z3 z4) := by
  unfold State.grpPlan
  extract_lets +onlyGivenNames x1
  have h3 : ∀ y2, State.Keeps a y2 → State.Keeps a (x1 y2) := by
    intro y2 h4
    unfold x1
    with_reducible apply State.modTile_keeps
    exact h4
  clear_value x1
  with_reducible refine ite_keeps (P := State.Keeps a) ?_ ?_
  · with_reducible apply State.islFail_keeps
    exact h1
  · with_reducible refine ite_keeps (P := State.Keeps a) ?_ ?_
    · with_reducible apply State.islDone_keeps
      with_reducible apply h3
      exact h1
    · split
      · rename_i v5 v6 v7
        with_reducible apply State.islFail_keeps
        exact h1
      · rename_i v8 v9 v10 v11 v12
        split
        · rename_i v13 v14 v15
          with_reducible apply State.islFail_keeps
          exact h1
        · rename_i v16 v17
          extract_lets +onlyGivenNames x18
          clear_value x18
          extract_lets +onlyGivenNames x19
          clear_value x19
          extract_lets +onlyGivenNames x20
          have h21 : State.Keeps a x20 := by
            unfold x20
            with_reducible apply State.modCmd_keeps
            exact h1
          clear_value x20
          with_reducible apply State.islNext_keeps
          exact h21

theorem State.grpComplete_keeps {a : State} {z1 z2 z3 z4 z5} (h1 : State.Keeps a z1) :
    State.Keeps a (State.grpComplete z1 z2 z3 z4 z5) := by
  unfold State.grpComplete
  with_reducible apply State.sched_keeps
  exact h1

theorem State.grpNext_keeps {a : State} {z1 z2 z3 z4} (h1 : State.Keeps a z1) :
    State.Keeps a (State.grpNext z1 z2 z3 z4) := by
  unfold State.grpNext
  extract_lets +onlyGivenNames x1
  have h2 : State.Keeps a x1 := by
    unfold x1
    with_reducible refine ite_keeps (P := State.Keeps a) ?_ ?_
    · with_reducible apply State.memWrite_keeps
      exact h1
    · exact h1
  clear_value x1
  with_reducible refine ite_keeps (P := State.Keeps a) ?_ ?_
  · with_reducible apply State.islDone_keeps
    with_reducible apply State.modTile_keeps
    exact h2
  · split
    · rename_i v3 v4 v5
      with_reducible apply State.islFail_keeps
      exact h1
    · rename_i v6 v7 v8 v9 v10 v11 v12
      with_reducible refine ite_keeps (P := State.Keeps a) ?_ ?_
      · with_reducible apply State.sched_keeps
        exact h1
      · with_reducible refine ite_keeps (P := State.Keeps a) ?_ ?_
        · with_reducible apply State.islFail_keeps
          exact h1
        · with_reducible apply State.islNext_keeps
          exact h1

theorem State.grpChunk_keeps {a : State} {z1 z2 z3 z4 z5} (h1 : State.Keeps a z1) :
    State.Keeps a (State.grpChunk z1 z2 z3 z4 z5) := by
  unfold State.grpChunk
  extract_lets +onlyGivenNames x1
  clear_value x1
  extract_lets +onlyGivenNames x2
  have h3 : State.Keeps a x2 := by
    unfold x2
    with_reducible apply State.modTile_keeps
    exact h1
  clear_value x2
  extract_lets +onlyGivenNames x4
  have h5 : State.Keeps a x4 := by
    unfold x4
    with_reducible apply State.modCmd_keeps
    exact h3
  clear_value x4
  with_reducible apply State.islFeed_keeps
  exact h5

theorem State.grpGroup_keeps {a : State} {z1 z2 z3 z4} (h1 : State.Keeps a z1) :
    State.Keeps a (State.grpGroup z1 z2 z3 z4) := by
  unfold State.grpGroup
  split
  · rename_i v1 v2 v3
    with_reducible apply State.islFail_keeps
    exact h1
  · rename_i v4 v5 v6 v7 v8 v9 v10
    split
    · rename_i v11 v12 v13
      with_reducible apply State.islRefuse_keeps
      exact h1
    · rename_i v14 v15 v16
      split
      · rename_i v17 v18 v19
        with_reducible apply State.islFail_keeps
        exact h1
      · rename_i v20 v21 v22
        with_reducible refine ite_keeps (P := State.Keeps a) ?_ ?_
        · with_reducible apply State.islFail_keeps
          exact h1
        · with_reducible apply State.grpChunk_keeps
          with_reducible apply State.modCmd_keeps
          exact h1

theorem State.grpRun_keeps {a : State} {z1 z2 z3 z4 z5 z6} (h1 : State.Keeps a z1) :
    State.Keeps a (State.grpRun z1 z2 z3 z4 z5 z6) := by
  unfold State.grpRun
  extract_lets +onlyGivenNames x1
  have h2 : OnFst (State.Keeps a) x1 := by
    unfold x1
    with_reducible apply State.mulRun_keeps
    exact h1
  clear_value x1
  split
  · rename_i v3 v4 v5
    with_reducible apply State.islStop_keeps
    exact h2
  · rename_i v6 v7
    extract_lets +onlyGivenNames x8
    have h9 : OnFst (State.Keeps a) x8 := by
      unfold x8
      with_reducible apply State.readOut_keeps
      exact h2
    clear_value x8
    extract_lets +onlyGivenNames x10
    clear_value x10
    split
    · rename_i v11 v12
      with_reducible apply State.islFail_keeps
      exact h9
    · rename_i v13 v14 v15 v16
      with_reducible apply State.islTrap_keeps
      with_reducible apply State.islHalt_keeps
      exact h9
    · rename_i v17 v18 v19 v20
      with_reducible apply State.islStop_keeps
      exact h9
    · rename_i v21 v22 v23 v24
      extract_lets +onlyGivenNames x25
      have h26 : State.Keeps a x25 := by
        unfold x25
        with_reducible apply State.outWrite_keeps
        exact h9
      clear_value x25
      extract_lets +onlyGivenNames x27
      clear_value x27
      extract_lets +onlyGivenNames x28
      have h29 : State.Keeps a x28 := by
        unfold x28
        with_reducible apply State.modCmd_keeps
        exact h26
      clear_value x28
      with_reducible refine ite_keeps (P := State.Keeps a) ?_ ?_
      · with_reducible apply State.grpChunk_keeps
        exact h29
      · split
        · rename_i v30 v31 v32
          with_reducible apply State.islFail_keeps
          exact h29
        · rename_i v33 v34 v35 v36 v37 v38 v39
          with_reducible apply State.grpComplete_keeps
          exact h29

theorem execGroupCompletion_keeps {a : State} {z1} (h1 : State.Keeps a z1) :
    OnNext (State.Keeps a) (execGroupCompletion z1) := by
  unfold execGroupCompletion
  extract_lets +onlyGivenNames x1
  clear_value x1
  extract_lets +onlyGivenNames x2
  clear_value x2
  extract_lets +onlyGivenNames x3
  clear_value x3
  refine OnNext.next ?_
  split
  · rename_i v4 v5
    exact h1
  · rename_i v6 v7 v8
    extract_lets +onlyGivenNames x9
    have h11 : ∀ y10, State.Keeps a y10 → State.Keeps a (x9 y10) := by
      intro y10 h12
      unfold x9
      with_reducible apply State.islNext_keeps
      with_reducible apply State.modCmd_keeps
      exact h12
    clear_value x9
    with_reducible refine ite_keeps (P := State.Keeps a) ?_ ?_
    · exact h1
    · with_reducible refine ite_keeps (P := State.Keeps a) ?_ ?_
      · with_reducible apply h11
        exact h1
      · split
        · rename_i v13 v14 v15
          have h16 : State.Keeps a v14 := by
            refine OnOk.get ?_ v15
            with_reducible apply State.postAdd_keeps
            exact h1
          with_reducible apply h11
          exact h16
        · rename_i v17 v18 v19
          with_reducible apply State.islTrap_keeps
          with_reducible apply State.islHalt_keeps
          exact h1

theorem State.islFreeze_keeps {a : State} {z1 z2 z3 z4} (h1 : State.Keeps a z1) :
    State.Keeps a (State.islFreeze z1 z2 z3 z4) := by
  unfold State.islFreeze
  extract_lets +onlyGivenNames x1
  clear_value x1
  extract_lets +onlyGivenNames x2
  clear_value x2
  extract_lets +onlyGivenNames x3
  have h4 : State.Keeps a x3 := by
    unfold x3
    with_reducible apply State.modIsl_keeps
    exact h1
  clear_value x3
  extract_lets +onlyGivenNames x5
  have h6 : State.Keeps a x5 := by
    unfold x5
    refine foldl_keeps ?_ ?_
    · exact h4
    · intro y7 y8 h9
      extract_lets +onlyGivenNames x10
      have h11 : State.Keeps a x10 := by
        unfold x10
        with_reducible apply State.spmaForgive_keeps
        exact h9
      clear_value x10
      split
      · rename_i v12 v13 v14
        extract_lets +onlyGivenNames x15
        clear_value x15
        extract_lets +onlyGivenNames x16
        have h17 : OnFst (State.Keeps a) x16 := by
          unfold x16
          with_reducible apply State.spmaSums_keeps
          exact h11
        clear_value x16
        extract_lets +onlyGivenNames x18
        have h19 : OnFst (State.Keeps a) x18 := by
          unfold x18
          with_reducible apply State.mulRun_keeps
          exact h11
        clear_value x18
        with_reducible refine ite_keeps (P := State.Keeps a) ?_ ?_
        · with_reducible apply State.islHalt_keeps
          exact h11
        · with_reducible refine ite_keeps (P := State.Keeps a) ?_ ?_
          · with_reducible apply State.islHalt_keeps
            exact h17
          · with_reducible apply State.islHalt_keeps
            exact h19
      · rename_i v20 v21
        with_reducible apply State.islHalt_keeps
        exact h11
  clear_value x5
  extract_lets +onlyGivenNames x22
  have h23 : State.Keeps a x22 := by
    unfold x22
    with_reducible refine ite_keeps (P := State.Keeps a) ?_ ?_
    · exact h6
    · refine foldl_keeps ?_ ?_
      · exact h6
      · intro y24 y25 h26
        with_reducible apply State.islDone_keeps
        with_reducible apply State.outWrite_keeps
        exact h26
  clear_value x22
  extract_lets +onlyGivenNames x27
  clear_value x27
  extract_lets +onlyGivenNames x28
  have h29 : State.Keeps a x28 := by
    unfold x28
    with_reducible apply State.modIsl_keeps
    exact h23
  clear_value x28
  extract_lets +onlyGivenNames x30
  have h31 : State.Keeps a x30 := by
    unfold x30
    refine foldl_keeps ?_ ?_
    · exact h29
    · intro y32 y33 h34
      with_reducible apply State.appendReplay_keeps
      exact h34
  clear_value x30
  with_reducible apply State.wake_keeps
  with_reducible apply State.islLook_keeps
  exact h31

theorem execIslandCommandDone_keeps {a : State} {z1} (h1 : State.Keeps a z1) :
    OnNext (State.Keeps a) (execIslandCommandDone z1) := by
  unfold execIslandCommandDone
  extract_lets +onlyGivenNames x1
  clear_value x1
  extract_lets +onlyGivenNames x2
  clear_value x2
  refine OnNext.next ?_
  with_reducible refine ite_keeps (P := State.Keeps a) ?_ ?_
  · with_reducible apply State.islFreeze_keeps
    exact h1
  · split
    · rename_i v3 v4
      exact h1
    · rename_i v5 v6 v7
      with_reducible refine ite_keeps (P := State.Keeps a) ?_ ?_
      · exact h1
      · split
        · rename_i v8 v9 v10
          split
          · rename_i v11 v12
            with_reducible refine ite_keeps (P := State.Keeps a) ?_ ?_
            · with_reducible apply State.grpPlan_keeps
              exact h1
            · with_reducible apply State.mmaPlan_keeps
              exact h1
          · rename_i v13 v14
            with_reducible apply State.mmrdPlan_keeps
            exact h1
          · rename_i v15 v16
            with_reducible apply State.spmaStart_keeps
            exact h1
          · rename_i v17 v18 v19 v20
            with_reducible apply State.plctAct_keeps
            exact h1
        · rename_i v21 v22 v23 v24 v25
          with_reducible refine ite_keeps (P := State.Keeps a) ?_ ?_
          · with_reducible apply State.spmaRun_keeps
            exact h1
          · with_reducible apply State.mmaRun_keeps
            exact h1
        · rename_i v26 v27 v28
          with_reducible apply State.mmrdEmpty_keeps
          exact h1
        · rename_i v29 v30 v31
          with_reducible apply State.grpNext_keeps
          exact h1
        · rename_i v32 v33 v34
          with_reducible apply State.grpGroup_keeps
          exact h1
        · rename_i v35 v36 v37 v38 v39
          split
          · rename_i v40 v41 v42
            with_reducible apply State.grpRun_keeps
            exact h1
          · rename_i v43 v44
            exact h1
        · rename_i v45 v46 v47
          with_reducible apply State.islDone_keeps
          with_reducible apply State.outWrite_keeps
          exact h1
        · rename_i v48 v49 v50 v51 v52 v53 v54 v55 v56
          exact h1

theorem execIslandStreamToken_keeps {a : State} {z1} (h1 : State.Keeps a z1) :
    OnNext (State.Keeps a) (execIslandStreamToken z1) := by
  unfold execIslandStreamToken
  extract_lets +onlyGivenNames x1
  clear_value x1
  extract_lets +onlyGivenNames x2
  clear_value x2
  extract_lets +onlyGivenNames x3
  clear_value x3
  extract_lets +onlyGivenNames x4
  have h5 : State.Keeps a x4 := by
    unfold x4
    with_reducible apply State.modIsl_keeps
    exact h1
  clear_value x4
  refine OnNext.next ?_
  with_reducible refine ite_keeps (P := State.Keeps a) ?_ ?_
  · with_reducible apply State.stale_keeps
    exact h1
  · split
    · rename_i v6 v7 v8
      with_reducible apply State.islFeed_keeps
      exact h5
    · rename_i v9 v10
      exact h5

theorem State.copyPut_keeps {a : State} {z1 z2 z3} (h1 : State.Keeps a z1) :
    State.Keeps a (State.copyPut z1 z2 z3) := by
  unfold State.copyPut
  refine OnFst.fst ?_
  refine foldl_keeps ?_ ?_
  · refine OnFst.mk ?_
    exact h1
  · intro y1 y2 h3
    refine OnFst.mk ?_
    with_reducible apply State.memWrite_keeps
    exact h3

theorem State.modCopy_keeps {a : State} {z1 z2 z3 z4} (h1 : State.Keeps a z1) :
    State.Keeps a (State.modCopy z1 z2 z3 z4) := by
  unfold State.modCopy
  with_reducible apply State.modPart_keeps
  exact h1

theorem State.setChan_keeps {a : State} {z1 z2 z3} (h1 : State.Keeps a z1) :
    State.Keeps a (State.setChan z1 z2 z3) := by
  unfold State.setChan
  with_reducible apply State.modPart_keeps
  exact h1

theorem State.setWptr_keeps {a : State} {z1 z2 z3 z4 z5} (h1 : State.Keeps a z1) :
    State.Keeps a (State.setWptr z1 z2 z3 z4 z5) := by
  unfold State.setWptr
  extract_lets +onlyGivenNames x1
  clear_value x1
  extract_lets +onlyGivenNames x2
  clear_value x2
  extract_lets +onlyGivenNames x3
  have h4 : State.Keeps a x3 := by
    unfold x3
    with_reducible apply State.setChan_keeps
    exact h1
  clear_value x3
  refine foldl_keeps ?_ ?_
  · exact h4
  · intro y5 y6 h7
    split
    · rename_i v8 v9 v10
      with_reducible apply State.checkDone_keeps
      with_reducible apply State.answer_keeps
      exact h7
    · rename_i v11 v12
      exact h7

theorem State.copyRow_keeps {a : State} {z1 z2 z3 z4 z5 z6} (h1 : State.Keeps a z1) :
    State.Keeps a (State.copyRow z1 z2 z3 z4 z5 z6) := by
  unfold State.copyRow
  with_reducible apply State.sched_keeps
  exact h1

theorem State.copyTake_keeps {a : State} {z1 z2 z3} (h1 : State.Keeps a z1) :
    State.Keeps a (State.copyTake z1 z2 z3) := by
  unfold State.copyTake
  split
  · rename_i v1 v2
    exact h1
  · rename_i v3 v4 v5 v6
    extract_lets +onlyGivenNames x7
    clear_value x7
    split
    · rename_i v8 v9 v10
      extract_lets +onlyGivenNames x11
      have h12 : State.Keeps a x11 := by
        unfold x11
        with_reducible apply State.modPage_keeps
        exact h1
      clear_value x11
      with_reducible refine ite_keeps (P := State.Keeps a) ?_ ?_
      · exact h1
      · with_reducible apply State.wake_keeps
        with_reducible apply State.modCopy_keeps
        exact h12
    · rename_i v13 v14
      exact h1

theorem State.copyStep_keeps {a : State} {z1 z2 z3 z4} (h1 : State.Keeps a z1) :
    State.Keeps a (State.copyStep z1 z2 z3 z4) := by
  induction z4 generalizing z1 z2 z3 with
  | zero =>
    unfold State.copyStep
    exact h1
  | succ n ih =>
    unfold State.copyStep
    split
    · rename_i v1 v2
      exact h1
    · rename_i v3 v4 v5
      extract_lets +onlyGivenNames x6
      clear_value x6
      extract_lets +onlyGivenNames x7
      have h8 : State.Keeps a x7 := by
        unfold x7
        with_reducible apply State.copyTake_keeps
        exact h1
      clear_value x7
      with_reducible refine ite_keeps (P := State.Keeps a) ?_ ?_
      · exact h1
      · with_reducible refine ite_keeps (P := State.Keeps a) ?_ ?_
        · with_reducible refine ite_keeps (P := State.Keeps a) ?_ ?_
          · with_reducible apply State.copyRow_keeps
            exact h1
          · exact h1
        · with_reducible refine ite_keeps (P := State.Keeps a) ?_ ?_
          · with_reducible apply State.copyRow_keeps
            exact h1
          · split
            · rename_i v9 v10
              exact h8
            · rename_i v11 v12 v13 v14 v15
              extract_lets +onlyGivenNames x16
              clear_value x16
              extract_lets +onlyGivenNames x17
              have h18 : State.Keeps a x17 := by
                unfold x17
                with_reducible apply State.modCopy_keeps
                exact h8
              clear_value x17
              with_reducible refine ite_keeps (P := State.Keeps a) ?_ ?_
              · with_reducible apply State.copyRow_keeps
                exact h8
              · with_reducible apply ih
                exact h18

theorem State.copyLook_keeps {a : State} {z1 z2 z3 z4} (h1 : State.Keeps a z1) :
    State.Keeps a (State.copyLook z1 z2 z3 z4) := by
  unfold State.copyLook
  extract_lets +onlyGivenNames x1
  clear_value x1
  extract_lets +onlyGivenNames x2
  clear_value x2
  with_reducible refine ite_keeps (P := State.Keeps a) ?_ ?_
  · exact h1
  · split
    · rename_i v3 v4
      exact h1
    · rename_i v5 v6 v7
      extract_lets +onlyGivenNames x8
      have h9 : State.Keeps a x8 := by
        unfold x8
        with_reducible refine ite_keeps (P := State.Keeps a) ?_ ?_
        · with_reducible apply State.setWptr_keeps
          exact h1
        · exact h1
      clear_value x8
      with_reducible apply State.copyStep_keeps
      with_reducible apply State.modCopy_keeps
      exact h9

theorem State.portLook_keeps {a : State} {z1 z2 z3 z4} (h1 : State.Keeps a z1) :
    State.Keeps a (State.portLook z1 z2 z3 z4) := by
  unfold State.portLook
  split
  · rename_i v1 v2 v3
    with_reducible refine ite_keeps (P := State.Keeps a) ?_ ?_
    · with_reducible apply State.copyStep_keeps
      exact h1
    · exact h1
  · rename_i v4 v5
    exact h1

theorem State.copyProgress_keeps {a : State} {z1 z2 z3 z4} (h1 : State.Keeps a z1) :
    OnOk (State.Keeps a) (State.copyProgress z1 z2 z3 z4) := by
  unfold State.copyProgress
  split
  · rename_i v1 v2 v3
    exact OnOk.error
  · rename_i v4 v5 v6
    refine OnOk.ok ?_
    with_reducible apply State.copyPut_keeps
    exact h1

theorem State.copyAdvance_keeps {a : State} {z1 z2 z3 z4 z5} (h1 : State.Keeps a z1) :
    State.Keeps a (State.copyAdvance z1 z2 z3 z4 z5) := by
  unfold State.copyAdvance
  extract_lets +onlyGivenNames x1
  have h2 : State.Keeps a x1 := by
    unfold x1
    with_reducible apply State.modCopy_keeps
    exact h1
  clear_value x1
  with_reducible apply State.setWptr_keeps
  exact h2

theorem State.copyFlush_keeps {a : State} {z1 z2 z3} (h1 : State.Keeps a z1) :
    State.Keeps a (State.copyFlush z1 z2 z3) := by
  unfold State.copyFlush
  split
  · rename_i v1 v2
    exact h1
  · rename_i v3 v4 v5
    extract_lets +onlyGivenNames x6
    have h7 : State.Keeps a x6 := by
      unfold x6
      refine foldl_keeps ?_ ?_
      · exact h1
      · intro y8 y9 h10
        with_reducible apply State.memWrite_keeps
        exact h10
    clear_value x6
    with_reducible refine ite_keeps (P := State.Keeps a) ?_ ?_
    · exact h1
    · with_reducible apply State.copyAdvance_keeps
      with_reducible apply State.modCopy_keeps
      exact h7

theorem State.copyHalt_keeps {a : State} {z1 z2 z3} (h1 : State.Keeps a z1) :
    State.Keeps a (State.copyHalt z1 z2 z3) := by
  unfold State.copyHalt
  extract_lets +onlyGivenNames x1
  have h2 : State.Keeps a x1 := by
    unfold x1
    with_reducible apply State.copyFlush_keeps
    exact h1
  clear_value x1
  extract_lets +onlyGivenNames x3
  clear_value x3
  extract_lets +onlyGivenNames x4
  have h5 : OnFst (State.Keeps a) x4 := by
    unfold x4
    split
    · rename_i v6 v7 v8
      have h9 : State.Keeps a v7 := by
        refine OnOk.get ?_ v8
        with_reducible apply State.copyProgress_keeps
        exact h2
      refine OnFst.mk ?_
      exact h9
    · rename_i v10 v11 v12
      refine OnFst.mk ?_
      exact h2
  clear_value x4
  extract_lets +onlyGivenNames x13
  have h14 : State.Keeps a x13 := by
    unfold x13
    with_reducible apply State.cancel_keeps
    exact h5
  clear_value x13
  extract_lets +onlyGivenNames x15
  have h16 : State.Keeps a x15 := by
    unfold x15
    with_reducible apply State.modCopy_keeps
    exact h14
  clear_value x15
  with_reducible apply State.copyLook_keeps
  exact h16

theorem State.copyReturn_keeps {a : State} {z1 z2 z3} (h1 : State.Keeps a z1) :
    State.Keeps a (State.copyReturn z1 z2 z3) := by
  unfold State.copyReturn
  extract_lets +onlyGivenNames x1
  have h2 : State.Keeps a x1 := by
    unfold x1
    with_reducible apply State.modCopy_keeps
    exact h1
  clear_value x1
  refine foldl_keeps ?_ ?_
  · exact h2
  · intro y3 y4 h5
    with_reducible apply State.appendReplay_keeps
    exact h5

theorem State.copyTrap_keeps {a : State} {z1 z2 z3 z4 z5 z6} (h1 : State.Keeps a z1) :
    State.Keeps a (State.copyTrap z1 z2 z3 z4 z5 z6) := by
  unfold State.copyTrap
  split
  · rename_i v1 v2 v3 v4
    with_reducible apply State.engineTrap_keeps
    exact h1
  · rename_i v5 v6 v7 v8
    with_reducible apply State.sched_keeps
    exact h1

theorem State.copyFault_keeps {a : State} {z1 z2 z3 z4 z5 z6} (h1 : State.Keeps a z1) :
    State.Keeps a (State.copyFault z1 z2 z3 z4 z5 z6) := by
  unfold State.copyFault
  with_reducible refine ite_keeps (P := State.Keeps a) ?_ ?_
  · with_reducible apply State.badRead_keeps
    exact h1
  · with_reducible apply State.copyReturn_keeps
    with_reducible apply State.copyTrap_keeps
    with_reducible apply State.copyHalt_keeps
    exact h1

theorem State.peerSend_keeps {a : State} {z1 z2} (h1 : State.Keeps a z1) :
    State.Keeps a (State.peerSend z1 z2) := by
  unfold State.peerSend
  extract_lets +onlyGivenNames x1
  have h2 : State.Keeps a x1 := by
    unfold x1
    refine State.Keeps.upd (s := z1) rfl rfl rfl rfl ?_
    exact h1
  clear_value x1
  extract_lets +onlyGivenNames x3
  clear_value x3
  extract_lets +onlyGivenNames x4
  clear_value x4
  extract_lets +onlyGivenNames x5
  have h6 : State.Keeps a x5 := by
    unfold x5
    refine State.Keeps.upd (s := x1) rfl rfl rfl rfl ?_
    exact h2
  clear_value x5
  with_reducible refine ite_keeps (P := State.Keeps a) ?_ ?_
  · with_reducible apply State.sched_keeps
    exact h2
  · with_reducible refine ite_keeps (P := State.Keeps a) ?_ ?_
    · with_reducible apply State.sched_keeps
      exact h2
    · with_reducible refine ite_keeps (P := State.Keeps a) ?_ ?_
      · with_reducible apply State.sched_keeps
        exact h6
      · with_reducible apply State.sched_keeps
        exact h6

theorem State.copyDeliver_keeps {a : State} {z1 z2 z3 z4 z5} (h1 : State.Keeps a z1) :
    State.Keeps a (State.copyDeliver z1 z2 z3 z4 z5) := by
  unfold State.copyDeliver
  split
  · rename_i v1 v2
    exact h1
  · rename_i v3 v4 v5
    extract_lets +onlyGivenNames x6
    clear_value x6
    extract_lets +onlyGivenNames x7
    clear_value x7
    extract_lets +onlyGivenNames x8
    have h9 : State.Keeps a x8 := by
      unfold x8
      refine foldl_keeps ?_ ?_
      · exact h1
      · intro y10 y11 h12
        with_reducible apply State.memWrite_keeps
        exact h12
    clear_value x8
    extract_lets +onlyGivenNames x13
    clear_value x13
    extract_lets +onlyGivenNames x14
    have h15 : State.Keeps a x14 := by
      unfold x14
      refine foldl_keeps ?_ ?_
      · exact h1
      · intro y16 y17 h18
        with_reducible apply State.memWrite_keeps
        exact h18
    clear_value x14
    extract_lets +onlyGivenNames x19
    clear_value x19
    extract_lets +onlyGivenNames x20
    have h21 : State.Keeps a x20 := by
      unfold x20
      with_reducible apply State.modCopy_keeps
      exact h15
    clear_value x20
    with_reducible refine ite_keeps (P := State.Keeps a) ?_ ?_
    · with_reducible apply State.copyAdvance_keeps
      with_reducible apply State.modCopy_keeps
      exact h9
    · with_reducible refine ite_keeps (P := State.Keeps a) ?_ ?_
      · with_reducible apply State.copyAdvance_keeps
        exact h21
      · exact h21

theorem State.copyMove_keeps {a : State} {z1 z2 z3} (h1 : State.Keeps a z1) :
    OnOk (State.Keeps a) (State.copyMove z1 z2 z3) := by
  unfold State.copyMove
  extract_lets +onlyGivenNames x1
  clear_value x1
  split
  · rename_i v2 v3 v4
    exact OnOk.error
  · rename_i v5 v6 v7 v8 v9
    extract_lets +onlyGivenNames x10
    have h12 : ∀ y11, State.Keeps a y11 → State.Keeps a (x10 y11) := by
      intro y11 h13
      unfold x10
      with_reducible apply State.modCopy_keeps
      exact h13
    clear_value x10
    extract_lets +onlyGivenNames x14
    have h16 : ∀ y15, State.Keeps a y15 → State.Keeps a (x14 y15) := by
      intro y15 h17
      unfold x14
      with_reducible refine ite_keeps (P := State.Keeps a) ?_ ?_
      · with_reducible apply State.reportPoison_keeps
        exact h17
      · exact h17
    clear_value x14
    split
    · rename_i v18 v19
      split
      · rename_i v20 v21 v22
        exact OnOk.error
      · rename_i v23 v24 v25
        extract_lets +onlyGivenNames x26
        clear_value x26
        refine OnOk.ok ?_
        with_reducible apply State.copyDeliver_keeps
        with_reducible apply h12
        with_reducible apply h16
        exact h1
    · rename_i v27 v28 v29
      extract_lets +onlyGivenNames x30
      have h31 : State.Keeps a x30 := by
        unfold x30
        with_reducible apply State.modCopy_keeps
        with_reducible apply h12
        with_reducible apply h16
        exact h1
      clear_value x30
      with_reducible refine ite_keeps (P := OnOk (State.Keeps a)) ?_ ?_
      · exact OnOk.error
      · refine OnOk.ok ?_
        with_reducible apply State.peerSend_keeps
        exact h31

theorem State.copyFinish_keeps {a : State} {z1 z2 z3 z4} (h1 : State.Keeps a z1) :
    State.Keeps a (State.copyFinish z1 z2 z3 z4) := by
  induction z4 generalizing z1 z2 z3 with
  | zero =>
    unfold State.copyFinish
    exact h1
  | succ n ih =>
    unfold State.copyFinish
    split
    · rename_i v1 v2
      exact h1
    · rename_i v3 v4 v5
      extract_lets +onlyGivenNames x6
      clear_value x6
      with_reducible refine ite_keeps (P := State.Keeps a) ?_ ?_
      · exact h1
      · split
        · rename_i v7 v8 v9
          have h10 : State.Keeps a v8 := by
            refine OnOk.get ?_ v9
            with_reducible apply State.copyMove_keeps
            exact h1
          with_reducible apply ih
          exact h10
        · rename_i v11 v12 v13
          exact h1

theorem State.copyStop_keeps {a : State} {z1 z2 z3} (h1 : State.Keeps a z1) :
    State.Keeps a (State.copyStop z1 z2 z3) := by
  unfold State.copyStop
  extract_lets +onlyGivenNames x1
  have h2 : State.Keeps a x1 := by
    unfold x1
    with_reducible apply State.copyFinish_keeps
    exact h1
  clear_value x1
  split
  · rename_i v3 v4
    exact h2
  · rename_i v5 v6 v7
    with_reducible refine ite_keeps (P := State.Keeps a) ?_ ?_
    · with_reducible apply State.copyHalt_keeps
      exact h2
    · with_reducible apply State.cancel_keeps
      with_reducible apply State.modCopy_keeps
      exact h2

theorem State.copyFreeze_keeps {a : State} {z1 z2 z3 z4} (h1 : State.Keeps a z1) :
    State.Keeps a (State.copyFreeze z1 z2 z3 z4) := by
  unfold State.copyFreeze
  extract_lets +onlyGivenNames x1
  clear_value x1
  extract_lets +onlyGivenNames x2
  clear_value x2
  extract_lets +onlyGivenNames x3
  have h4 : State.Keeps a x3 := by
    unfold x3
    with_reducible apply State.modPart_keeps
    exact h1
  clear_value x3
  extract_lets +onlyGivenNames x5
  have h6 : State.Keeps a x5 := by
    unfold x5
    refine foldl_keeps ?_ ?_
    · exact h4
    · intro y7 y8 h9
      extract_lets +onlyGivenNames x10
      have h11 : State.Keeps a x10 := by
        unfold x10
        with_reducible apply State.copyStop_keeps
        exact h9
      clear_value x10
      split
      · rename_i v12 v13
        exact h11
      · rename_i v14 v15 v16
        with_reducible apply State.copyReturn_keeps
        exact h11
  clear_value x5
  extract_lets +onlyGivenNames x17
  clear_value x17
  extract_lets +onlyGivenNames x18
  have h19 : State.Keeps a x18 := by
    unfold x18
    with_reducible apply State.modPage_keeps
    exact h6
  clear_value x18
  extract_lets +onlyGivenNames x20
  have h21 : State.Keeps a x20 := by
    unfold x20
    refine foldl_keeps ?_ ?_
    · exact h19
    · intro y22 y23 h24
      with_reducible apply State.appendReplay_keeps
      exact h24
  clear_value x20
  refine foldl_keeps ?_ ?_
  · exact h21
  · intro y25 y26 h27
    with_reducible apply State.copyLook_keeps
    exact h27

theorem State.helmHalt_keeps {a : State} {z1 z2} (h1 : State.Keeps a z1) :
    State.Keeps a (State.helmHalt z1 z2) := by
  unfold State.helmHalt
  extract_lets +onlyGivenNames x1
  have h2 : State.Keeps a x1 := by
    unfold x1
    refine foldl_keeps ?_ ?_
    · exact h1
    · intro y3 y4 h5
      with_reducible apply State.modCopy_keeps
      exact h5
  clear_value x1
  refine foldl_keeps ?_ ?_
  · exact h2
  · intro y6 y7 h8
    with_reducible apply State.copyStop_keeps
    exact h8

theorem State.copyWait_keeps {a : State} {z1 z2 z3 z4} (h1 : State.Keeps a z1) :
    State.Keeps a (State.copyWait z1 z2 z3 z4) := by
  unfold State.copyWait
  with_reducible apply State.modPage_keeps
  exact h1

theorem execCopyWritePerform_keeps {a : State} {z1} (h1 : State.Keeps a z1) :
    OnNext (State.Keeps a) (execCopyWritePerform z1) := by
  unfold execCopyWritePerform
  extract_lets +onlyGivenNames x1
  clear_value x1
  refine OnNext.next ?_
  with_reducible refine ite_keeps (P := State.Keeps a) ?_ ?_
  · with_reducible apply State.copyFreeze_keeps
    exact h1
  · split
    · rename_i v2 v3
      exact h1
    · rename_i v4 v5 v6
      with_reducible refine ite_keeps (P := State.Keeps a) ?_ ?_
      · exact h1
      · split
        · rename_i v7 v8 v9
          with_reducible apply State.copyWait_keeps
          exact h1
        · rename_i v10 v11
          split
          · rename_i v12 v13 v14
            have h15 : State.Keeps a v13 := by
              refine OnOk.get ?_ v14
              with_reducible apply State.copyMove_keeps
              exact h1
            with_reducible apply State.copyStep_keeps
            exact h15
          · rename_i v16 v17 v18
            with_reducible apply State.copyFault_keeps
            exact h1

theorem State.copyAccept_keeps {a : State} {z1 z2 z3 z4} (h1 : State.Keeps a z1) :
    State.Keeps a (State.copyAccept z1 z2 z3 z4) := by
  unfold State.copyAccept
  extract_lets +onlyGivenNames x1
  clear_value x1
  extract_lets +onlyGivenNames x2
  clear_value x2
  extract_lets +onlyGivenNames x3
  clear_value x3
  extract_lets +onlyGivenNames x4
  clear_value x4
  extract_lets +onlyGivenNames x5
  clear_value x5
  extract_lets +onlyGivenNames x6
  clear_value x6
  extract_lets +onlyGivenNames x7
  clear_value x7
  extract_lets +onlyGivenNames x8
  clear_value x8
  extract_lets +onlyGivenNames x9
  clear_value x9
  extract_lets +onlyGivenNames x10
  have h11 : State.Keeps a x10 := by
    unfold x10
    with_reducible apply State.modPart_keeps
    exact h1
  clear_value x10
  with_reducible apply State.copyLook_keeps
  exact h11

theorem State.copyReach_keeps {a : State} {z1 z2 z3 z4} (h1 : State.Keeps a z1) :
    OnOk (State.Keeps a) (State.copyReach z1 z2 z3 z4) := by
  unfold State.copyReach
  with_reducible refine ite_keeps (P := OnOk (State.Keeps a)) ?_ ?_
  · exact OnOk.error
  · split
    · rename_i v1 v2 v3
      exact OnOk.error
    · rename_i v4 v5 v6
      extract_lets +onlyGivenNames x7
      clear_value x7
      extract_lets +onlyGivenNames x8
      clear_value x8
      with_reducible refine ite_keeps (P := OnOk (State.Keeps a)) ?_ ?_
      · exact OnOk.error
      · refine OnOk.ok ?_
        with_reducible apply State.copyAccept_keeps
        exact h1

end Sys2Proof.Machine
end

