-- ==== Sys2Proof/Laws/Keep5.lean ====
section
/-! SUPPORT. Sys2Proof/Laws/Keep5.lean: for each operation of the model, that it keeps the clock and the canonical forms of memory
(part 5, in the order of the definitions). -/

namespace Sys2Proof.Machine

theorem State.copyOwed_keeps {a : State} {z1 z2 z3 z4} (h1 : State.Keeps a z1) :
    OnOk (State.Keeps a) (State.copyOwed z1 z2 z3 z4) := by
  unfold State.copyOwed
  split
  · refine ite_keeps ?_ (OnOk.ok h1)
    rename_i o
    have h := State.copyProgress_keeps (z2 := z2) (z3 := z3) (z4 := o.bytes % 2 ^ 32 + 2 ^ 63) h1
    rcases hr : z1.copyProgress z2 z3 (o.bytes % 2 ^ 32 + 2 ^ 63) with e | t
    · exact OnOk.error
    · exact OnOk.ok (OnOk.get h hr)
  · exact OnOk.ok h1

theorem State.copyArrive_keeps {a : State} {z1 z2 z3 z4 z5} (h1 : State.Keeps a z1) :
    State.Keeps a (State.copyArrive z1 z2 z3 z4 z5) := by
  unfold State.copyArrive
  extract_lets +onlyGivenNames x1
  clear_value x1
  extract_lets +onlyGivenNames x2
  clear_value x2
  extract_lets +onlyGivenNames x3
  have h5 : ∀ y4, State.Keeps a (x3 y4) := by
    intro y4
    unfold x3
    with_reducible refine ite_keeps (P := State.Keeps a) ?_ ?_
    · with_reducible apply State.badRead_keeps
      exact h1
    · with_reducible apply State.copyTrap_keeps
      exact h1
  clear_value x3
  split
  · rename_i v6 v7 v8
    with_reducible apply h5
  · rename_i v9 v10 v11
    have h12 : State.Keeps a v10 := by
      refine OnOk.get ?_ v11
      with_reducible apply State.copyOwed_keeps
      exact h1
    split
    · rename_i v13 v14 v15
      have h16 : State.Keeps a v10 := by
        refine OnOk.get ?_ v11
        with_reducible apply State.copyOwed_keeps
        exact h1
      have h17 : State.Keeps a v14 := by
        refine OnOk.get ?_ v15
        with_reducible apply State.copyReach_keeps
        exact h16
      exact h17
    · rename_i v18 v19 v20
      have h21 : State.Keeps a v10 := by
        refine OnOk.get ?_ v11
        with_reducible apply State.copyOwed_keeps
        exact h1
      with_reducible apply h5

theorem execCopyCommandBegin_keeps {a : State} {z1} (h1 : State.Keeps a z1) :
    OnNext (State.Keeps a) (execCopyCommandBegin z1) := by
  unfold execCopyCommandBegin
  extract_lets +onlyGivenNames x1
  clear_value x1
  extract_lets +onlyGivenNames x2
  clear_value x2
  refine OnNext.next ?_
  with_reducible refine ite_keeps (P := State.Keeps a) ?_ ?_
  · with_reducible apply State.copyLook_keeps
    exact h1
  · split
    · rename_i v3 v4
      exact h1
    · rename_i v5 v6 v7
      split
      · rename_i v8 v9 v10
        with_reducible refine ite_keeps (P := State.Keeps a) ?_ ?_
        · with_reducible apply State.copyStep_keeps
          with_reducible apply State.modCopy_keeps
          exact h1
        · with_reducible refine ite_keeps (P := State.Keeps a) ?_ ?_
          · with_reducible apply State.copyArrive_keeps
            exact h1
          · exact h1
      · rename_i v11 v12
        with_reducible refine ite_keeps (P := State.Keeps a) ?_ ?_
        · with_reducible apply State.copyArrive_keeps
          exact h1
        · exact h1

theorem execCopyStreamToken_keeps {a : State} {z1} (h1 : State.Keeps a z1) :
    OnNext (State.Keeps a) (execCopyStreamToken z1) := by
  unfold execCopyStreamToken
  extract_lets +onlyGivenNames x1
  clear_value x1
  extract_lets +onlyGivenNames x2
  clear_value x2
  refine OnNext.next ?_
  with_reducible apply State.portLook_keeps
  with_reducible apply State.modPage_keeps
  exact h1

theorem State.copyEnd_keeps {a : State} {z1 z2 z3} (h1 : State.Keeps a z1) :
    State.Keeps a (State.copyEnd z1 z2 z3) := by
  unfold State.copyEnd
  extract_lets +onlyGivenNames x1
  clear_value x1
  extract_lets +onlyGivenNames x2
  have h3 : State.Keeps a x2 := by
    unfold x2
    with_reducible apply State.modPart_keeps
    exact h1
  clear_value x2
  split
  · rename_i v4 v5 v6 v7
    with_reducible apply State.sched_keeps
    exact h3
  · rename_i v8 v9 v10 v11
    extract_lets +onlyGivenNames x12
    have h13 : State.Keeps a x12 := by
      unfold x12
      with_reducible refine ite_keeps (P := State.Keeps a) ?_ ?_
      · with_reducible apply State.sched_keeps
        exact h3
      · exact h3
    clear_value x12
    extract_lets +onlyGivenNames x14
    clear_value x14
    with_reducible apply State.portLook_keeps
    with_reducible apply State.engineAnswer_keeps
    exact h13

theorem execCopyComplete_keeps {a : State} {z1} (h1 : State.Keeps a z1) :
    OnNext (State.Keeps a) (execCopyComplete z1) := by
  unfold execCopyComplete
  extract_lets +onlyGivenNames x1
  clear_value x1
  refine OnNext.next ?_
  split
  · rename_i v2 v3
    exact h1
  · rename_i v4 v5 v6
    with_reducible refine ite_keeps (P := State.Keeps a) ?_ ?_
    · exact h1
    · split
      · rename_i v7 v8 v9
        with_reducible apply State.copyWait_keeps
        exact h1
      · rename_i v10 v11
        extract_lets +onlyGivenNames x12
        have h13 : OnOk (State.Keeps a) x12 := by
          unfold x12
          with_reducible refine ite_keeps (P := OnOk (State.Keeps a)) ?_ ?_
          · with_reducible apply State.copyProgress_keeps
            exact h1
          · refine OnOk.ok ?_
            exact h1
        clear_value x12
        with_reducible refine ite_keeps (P := State.Keeps a) ?_ ?_
        · with_reducible apply State.copyLook_keeps
          with_reducible apply State.copyEnd_keeps
          exact h1
        · split
          · rename_i v14 v15 v16
            with_reducible apply State.copyFault_keeps
            exact h1
          · rename_i v17 v18 v19 v20
            with_reducible refine ite_keeps (P := State.Keeps a) ?_ ?_
            · with_reducible apply State.copyLook_keeps
              with_reducible apply State.copyEnd_keeps
              exact OnOk.get h13 rfl
            · split
              · rename_i v21 v22 v23
                have h24 : State.Keeps a v22 := by
                  refine OnOk.get ?_ v23
                  with_reducible apply State.postAdd_keeps
                  exact OnOk.get h13 rfl
                with_reducible apply State.copyLook_keeps
                with_reducible apply State.copyEnd_keeps
                exact h24
              · rename_i v25 v26 v27
                with_reducible apply State.copyReturn_keeps
                with_reducible apply State.copyTrap_keeps
                with_reducible apply State.copyHalt_keeps
                exact OnOk.get h13 rfl
          · rename_i v28 v29 v30 v31 v32
            extract_lets +onlyGivenNames x33
            have h34 : State.Keeps a x33 := by
              unfold x33
              split
              · rename_i v35 v36 v37 v38
                with_reducible apply State.modFire_keeps
                exact OnOk.get h13 rfl
              · rename_i v39 v40
                exact OnOk.get h13 rfl
            clear_value x33
            extract_lets +onlyGivenNames x41
            have h42 : State.Keeps a x41 := by
              unfold x41
              with_reducible apply State.modCopy_keeps
              exact h34
            clear_value x41
            with_reducible refine ite_keeps (P := State.Keeps a) ?_ ?_
            · with_reducible apply State.copyLook_keeps
              with_reducible apply State.copyEnd_keeps
              exact OnOk.get h13 rfl
            · with_reducible apply State.peerSend_keeps
              exact h42

theorem State.cpy_keeps {a : State} {z1 z2 z3 z4} (h1 : State.Keeps a z1) :
    State.Keeps a (State.cpy z1 z2 z3 z4) := by
  unfold State.cpy
  with_reducible apply State.frame_keeps
  · exact h1
  · intro y1 h2
    extract_lets +onlyGivenNames x3
    clear_value x3
    extract_lets +onlyGivenNames x4
    clear_value x4
    extract_lets +onlyGivenNames x5
    clear_value x5
    extract_lets +onlyGivenNames x6
    have h7 : State.Keeps a x6 := by
      unfold x6
      with_reducible apply State.flush_keeps
      exact h2
    clear_value x6
    extract_lets +onlyGivenNames x8
    have h9 : State.Keeps a x8 := by
      unfold x8
      with_reducible apply State.modFire_keeps
      exact h7
    clear_value x8
    with_reducible apply State.sched_keeps
    exact h9

theorem execCpyLin_keeps {a : State} {z1 z2 z3 z4} (h4 : State.Keeps a z4) :
    OnNext (State.Keeps a) (execCpyLin z1 z2 z3 z4) := by
  unfold execCpyLin
  refine OnNext.next ?_
  with_reducible apply State.cpy_keeps
  exact h4

theorem execCpy2d_keeps {a : State} {z1 z2 z3 z4} (h4 : State.Keeps a z4) :
    OnNext (State.Keeps a) (execCpy2d z1 z2 z3 z4) := by
  unfold execCpy2d
  refine OnNext.next ?_
  with_reducible apply State.cpy_keeps
  exact h4

theorem execCpyGath_keeps {a : State} {z1 z2 z3 z4} (h4 : State.Keeps a z4) :
    OnNext (State.Keeps a) (execCpyGath z1 z2 z3 z4) := by
  unfold execCpyGath
  refine OnNext.next ?_
  with_reducible apply State.cpy_keeps
  exact h4

theorem execCpyScat_keeps {a : State} {z1 z2 z3 z4} (h4 : State.Keeps a z4) :
    OnNext (State.Keeps a) (execCpyScat z1 z2 z3 z4) := by
  unfold execCpyScat
  refine OnNext.next ?_
  with_reducible apply State.cpy_keeps
  exact h4

theorem execCpyFill_keeps {a : State} {z1 z2 z3 z4} (h4 : State.Keeps a z4) :
    OnNext (State.Keeps a) (execCpyFill z1 z2 z3 z4) := by
  unfold execCpyFill
  refine OnNext.next ?_
  with_reducible apply State.cpy_keeps
  exact h4

theorem State.wptrRead_keeps {a : State} {z1 z2 z3 z4 z5 z6} (h1 : State.Keeps a z1) :
    State.Keeps a (State.wptrRead z1 z2 z3 z4 z5 z6) := by
  unfold State.wptrRead
  with_reducible apply State.frame_keeps
  · exact h1
  · intro y1 h2
    extract_lets +onlyGivenNames x3
    clear_value x3
    split
    · rename_i v4 v5
      extract_lets +onlyGivenNames x6
      have h7 : OnFst (State.Keeps a) x6 := by
        unfold x6
        with_reducible apply State.mark_keeps
        exact h2
      clear_value x6
      with_reducible apply State.emit_keeps
      exact h7
    · rename_i v8 v9 v10
      extract_lets +onlyGivenNames x11
      clear_value x11
      extract_lets +onlyGivenNames x12
      have h13 : OnFst (State.Keeps a) x12 := by
        unfold x12
        with_reducible apply State.mark_keeps
        exact h2
      clear_value x12
      with_reducible refine ite_keeps (P := State.Keeps a) ?_ ?_
      · with_reducible apply State.setChan_keeps
        with_reducible apply State.modFire_keeps
        exact h2
      · with_reducible apply State.emit_keeps
        exact h13

theorem execWptr_keeps {a : State} {z1 z2 z3 z4 z5} (h5 : State.Keeps a z5) :
    OnNext (State.Keeps a) (execWptr z1 z2 z3 z4 z5) := by
  unfold execWptr
  refine OnNext.next ?_
  with_reducible apply State.wptrRead_keeps
  exact h5

theorem execWptrW_keeps {a : State} {z1 z2 z3 z4 z5} (h5 : State.Keeps a z5) :
    OnNext (State.Keeps a) (execWptrW z1 z2 z3 z4 z5) := by
  unfold execWptrW
  refine OnNext.next ?_
  with_reducible apply State.wptrRead_keeps
  exact h5

theorem State.ingressRead_keeps {a : State} {z1 z2 z3 z4} (h1 : State.Keeps a z1) :
    State.Keeps a (State.ingressRead z1 z2 z3 z4) := by
  unfold State.ingressRead
  split
  · rename_i v1 v2 v3
    exact h1
  · rename_i v4 v5 v6
    split
    · rename_i v7 v8 v9
      with_reducible refine ite_keeps (P := State.Keeps a) ?_ ?_
      · with_reducible apply State.badRead_keeps
        exact h1
      · exact h1
    · rename_i v10 v11
      exact h1

theorem State.ingress_keeps {a : State} {z1 z2 z3 z4} (h1 : State.Keeps a z1) :
    OnOk (State.Keeps a) (State.ingress z1 z2 z3 z4) := by
  unfold State.ingress
  with_reducible refine ite_keeps (P := OnOk (State.Keeps a)) ?_ ?_
  · exact OnOk.error
  · split
    · rename_i v1 v2 v3
      exact OnOk.error
    · rename_i v4 v5 v6
      with_reducible refine ite_keeps (P := OnOk (State.Keeps a)) ?_ ?_
      · exact OnOk.error
      · refine OnOk.ok ?_
        with_reducible apply State.copyPut_keeps
        exact h1

theorem execPeerIngressWrite_keeps {a : State} {z1} (h1 : State.Keeps a z1) :
    OnNext (State.Keeps a) (execPeerIngressWrite z1) := by
  unfold execPeerIngressWrite
  extract_lets +onlyGivenNames x1
  clear_value x1
  extract_lets +onlyGivenNames x2
  clear_value x2
  extract_lets +onlyGivenNames x3
  have h7 : ∀ y4 y5 y6, State.Keeps a y4 → State.Keeps a (x3 y4 y5 y6) := by
    intro y4 y5 y6 h8
    unfold x3
    split
    · rename_i v9 v10 v11 v12
      with_reducible apply State.sched_keeps
      exact h8
    · rename_i v13 v14
      exact h8
  clear_value x3
  refine OnNext.next ?_
  with_reducible refine ite_keeps (P := State.Keeps a) ?_ ?_
  · exact h1
  · with_reducible refine ite_keeps (P := State.Keeps a) ?_ ?_
    · with_reducible apply h7
      with_reducible apply State.bumpCsr_keeps
      exact h1
    · with_reducible refine ite_keeps (P := State.Keeps a) ?_ ?_
      · split
        · rename_i v15 v16 v17
          have h18 : State.Keeps a v16 := by
            refine OnOk.get ?_ v17
            with_reducible apply State.postAdd_keeps
            exact h1
          with_reducible apply h7
          exact h18
        · rename_i v19 v20 v21
          with_reducible apply h7
          exact h1
      · split
        · rename_i v22 v23 v24
          have h25 : State.Keeps a v23 := by
            refine OnOk.get ?_ v24
            with_reducible apply State.ingress_keeps
            exact h1
          with_reducible apply h7
          exact h25
        · rename_i v26 v27 v28
          with_reducible apply h7
          with_reducible apply State.ingressRead_keeps
          with_reducible apply State.bumpCsr_keeps
          exact h1

theorem State.peerTake_keeps {a : State} {z1 z2} (h1 : State.Keeps a z1) :
    State.Keeps a (State.peerTake z1 z2) := by
  unfold State.peerTake
  refine State.Keeps.upd (s := z1) rfl rfl rfl rfl ?_
  exact h1

theorem execPeerWriteAck_keeps {a : State} {z1} (h1 : State.Keeps a z1) :
    OnNext (State.Keeps a) (execPeerWriteAck z1) := by
  unfold execPeerWriteAck
  extract_lets +onlyGivenNames x1
  clear_value x1
  refine OnNext.next ?_
  split
  · rename_i v2 v3
    with_reducible apply State.peerTake_keeps
    exact h1
  · rename_i v4 v5 v6 v7
    extract_lets +onlyGivenNames x8
    clear_value x8
    extract_lets +onlyGivenNames x9
    have h10 : State.Keeps a x9 := by
      unfold x9
      with_reducible apply State.modCopy_keeps
      with_reducible apply State.peerTake_keeps
      exact h1
    clear_value x9
    extract_lets +onlyGivenNames x11
    clear_value x11
    split
    · rename_i v12 v13
      extract_lets +onlyGivenNames x14
      have h15 : State.Keeps a x14 := by
        unfold x14
        with_reducible apply State.copyAdvance_keeps
        exact h10
      clear_value x14
      with_reducible refine ite_keeps (P := State.Keeps a) ?_ ?_
      · with_reducible apply State.copyRow_keeps
        exact h10
      · split
        · rename_i v16 v17
          exact h15
        · rename_i v18 v19 v20
          with_reducible refine ite_keeps (P := State.Keeps a) ?_ ?_
          · exact h15
          · with_reducible refine ite_keeps (P := State.Keeps a) ?_ ?_
            · with_reducible apply State.copyHalt_keeps
              exact h15
            · with_reducible refine ite_keeps (P := State.Keeps a) ?_ ?_
              · with_reducible apply State.copyRow_keeps
                exact h15
              · exact h15
    · rename_i v21 v22 v23 v24 v25 v26
      with_reducible apply State.copyReturn_keeps
      with_reducible apply State.copyTrap_keeps
      with_reducible apply State.copyHalt_keeps
      exact h10
    · rename_i v27 v28 v29 v30 v31
      with_reducible apply State.copyFault_keeps
      exact h10

theorem execPeerPathTimeout_keeps {a : State} {z1} (h1 : State.Keeps a z1) :
    OnNext (State.Keeps a) (execPeerPathTimeout z1) := by
  unfold execPeerPathTimeout
  refine OnNext.next ?_
  split
  · rename_i v1 v2
    with_reducible apply State.peerTake_keeps
    exact h1
  · rename_i v3 v4 v5 v6
    with_reducible apply State.copyFault_keeps
    with_reducible apply State.peerTake_keeps
    exact h1

theorem execLinkPortFail_keeps {a : State} {z1} (h1 : State.Keeps a z1) :
    OnNext (State.Keeps a) (execLinkPortFail z1) := by
  unfold execLinkPortFail
  extract_lets +onlyGivenNames x1
  have h2 : State.Keeps a x1 := by
    unfold x1
    refine State.Keeps.upd (s := z1) rfl rfl rfl rfl ?_
    exact h1
  clear_value x1
  refine OnNext.next ?_
  with_reducible refine ite_keeps (P := State.Keeps a) ?_ ?_
  · exact h2
  · refine foldl_keeps ?_ ?_
    · exact h2
    · intro y3 y4 h5
      with_reducible refine ite_keeps (P := State.Keeps a) ?_ ?_
      · with_reducible apply State.sched_keeps
        with_reducible apply State.cancel_keeps
        exact h5
      · exact h5

theorem execPageWalk_keeps {a : State} {z1} (h1 : State.Keeps a z1) :
    OnNext (State.Keeps a) (execPageWalk z1) := by
  unfold execPageWalk
  extract_lets +onlyGivenNames x1
  clear_value x1
  refine OnNext.next ?_
  refine State.Keeps.upd (s := z1) rfl rfl rfl rfl ?_
  exact h1

theorem execTlbInvalidate_keeps {a : State} {z1} (h1 : State.Keeps a z1) :
    OnNext (State.Keeps a) (execTlbInvalidate z1) := by
  unfold execTlbInvalidate
  refine OnNext.next ?_
  with_reducible apply State.sched_keeps
  with_reducible apply State.setCsrF_keeps
  exact h1

theorem execTlbInvalidateDone_keeps {a : State} {z1} (h1 : State.Keeps a z1) :
    OnNext (State.Keeps a) (execTlbInvalidateDone z1) := by
  unfold execTlbInvalidateDone
  refine OnNext.next ?_
  with_reducible apply State.setCsrF_keeps
  exact h1

theorem State.freezePart_keeps {a : State} {z1 z2} (h1 : State.Keeps a z1) :
    State.Keeps a (State.freezePart z1 z2) := by
  unfold State.freezePart
  extract_lets +onlyGivenNames x1
  have h2 : State.Keeps a x1 := by
    unfold x1
    refine foldl_keeps ?_ ?_
    · with_reducible apply State.helmHalt_keeps
      exact h1
    · intro y3 y4 h5
      with_reducible refine ite_keeps (P := State.Keeps a) ?_ ?_
      · with_reducible apply State.freeze_keeps
        exact h5
      · exact h5
  clear_value x1
  extract_lets +onlyGivenNames x6
  have h7 : State.Keeps a x6 := by
    unfold x6
    with_reducible apply State.cancel_keeps
    exact h2
  clear_value x6
  with_reducible refine ite_keeps (P := State.Keeps a) ?_ ?_
  · exact h1
  · with_reducible apply State.modPart_keeps
    exact h7

theorem State.integrityFail_keeps {a : State} {z1 z2 z3 z4} (h1 : State.Keeps a z1) :
    State.Keeps a (State.integrityFail z1 z2 z3 z4) := by
  unfold State.integrityFail
  extract_lets +onlyGivenNames x1
  clear_value x1
  extract_lets +onlyGivenNames x2
  clear_value x2
  extract_lets +onlyGivenNames x3
  clear_value x3
  extract_lets +onlyGivenNames x4
  have h5 : State.Keeps a x4 := by
    unfold x4
    with_reducible refine ite_keeps (P := State.Keeps a) ?_ ?_
    · refine State.Keeps.upd (s := z1) rfl rfl rfl rfl ?_
      exact h1
    · exact h1
  clear_value x4
  extract_lets +onlyGivenNames x6
  clear_value x6
  extract_lets +onlyGivenNames x7
  have h8 : State.Keeps a x7 := by
    unfold x7
    with_reducible apply State.modPart_keeps
    with_reducible apply State.freezePart_keeps
    exact h5
  clear_value x7
  with_reducible apply State.postPf_keeps
  with_reducible apply State.postVf_keeps
  exact h8

theorem execGuardLineRead_keeps {a : State} {z1} (h1 : State.Keeps a z1) :
    OnNext (State.Keeps a) (execGuardLineRead z1) := by
  unfold execGuardLineRead
  extract_lets +onlyGivenNames x1
  clear_value x1
  extract_lets +onlyGivenNames x2
  clear_value x2
  extract_lets +onlyGivenNames x3
  clear_value x3
  extract_lets +onlyGivenNames x4
  have h5 : State.Keeps a x4 := by
    unfold x4
    with_reducible refine ite_keeps (P := State.Keeps a) ?_ ?_
    · exact h1
    · refine State.Keeps.upd (s := z1) rfl rfl rfl rfl ?_
      exact h1
  clear_value x4
  refine OnNext.next ?_
  with_reducible refine ite_keeps (P := State.Keeps a) ?_ ?_
  · exact h5
  · with_reducible apply State.integrityFail_keeps
    exact h5

theorem execPageReencrypt_keeps {a : State} {z1} (h1 : State.Keeps a z1) :
    OnNext (State.Keeps a) (execPageReencrypt z1) := by
  unfold execPageReencrypt
  extract_lets +onlyGivenNames x1
  clear_value x1
  refine OnNext.next ?_
  with_reducible refine ite_keeps (P := State.Keeps a) ?_ ?_
  · with_reducible apply State.integrityFail_keeps
    exact h1
  · with_reducible apply State.reencrypt_keeps
    exact h1

theorem execCounterWriteback_keeps {a : State} {z1} (h1 : State.Keeps a z1) :
    OnNext (State.Keeps a) (execCounterWriteback z1) := by
  unfold execCounterWriteback
  extract_lets +onlyGivenNames x1
  clear_value x1
  extract_lets +onlyGivenNames x2
  clear_value x2
  refine OnNext.next ?_
  with_reducible refine ite_keeps (P := State.Keeps a) ?_ ?_
  · with_reducible apply State.integrityFail_keeps
    exact h1
  · refine State.Keeps.upd (s := z1) rfl rfl rfl rfl ?_
    exact h1

theorem execTileSramError_keeps {a : State} {z1} (h1 : State.Keeps a z1) :
    OnNext (State.Keeps a) (execTileSramError z1) := by
  unfold execTileSramError
  extract_lets +onlyGivenNames x1
  clear_value x1
  refine OnNext.next ?_
  with_reducible apply State.postPf_keeps
  with_reducible apply State.postVf_keeps
  with_reducible apply State.freezePart_keeps
  exact h1

theorem execCorrectedError_keeps {a : State} {z1} (h1 : State.Keeps a z1) :
    OnNext (State.Keeps a) (execCorrectedError z1) := by
  unfold execCorrectedError
  refine OnNext.next ?_
  with_reducible apply State.bumpCsr_keeps
  exact h1

theorem execImageCrcError_keeps {a : State} {z1} (h1 : State.Keeps a z1) :
    OnNext (State.Keeps a) (execImageCrcError z1) := by
  unfold execImageCrcError
  refine OnNext.next ?_
  with_reducible apply State.modPage_keeps
  exact h1

theorem execLineCacheError_keeps {a : State} {z1} (h1 : State.Keeps a z1) :
    OnNext (State.Keeps a) (execLineCacheError z1) := by
  unfold execLineCacheError
  refine OnNext.next ?_
  with_reducible apply State.sched_keeps
  exact h1

theorem execConfigStoreError_keeps {a : State} {z1} (h1 : State.Keeps a z1) :
    OnNext (State.Keeps a) (execConfigStoreError z1) := by
  unfold execConfigStoreError
  extract_lets +onlyGivenNames x1
  clear_value x1
  extract_lets +onlyGivenNames x2
  clear_value x2
  extract_lets +onlyGivenNames x3
  clear_value x3
  extract_lets +onlyGivenNames x4
  have h5 : State.Keeps a x4 := by
    unfold x4
    with_reducible apply State.modPage_keeps
    exact h1
  clear_value x4
  extract_lets +onlyGivenNames x6
  clear_value x6
  extract_lets +onlyGivenNames x7
  have h8 : State.Keeps a x7 := by
    unfold x7
    refine State.Keeps.upd (s := x4) rfl rfl rfl rfl ?_
    exact h5
  clear_value x7
  extract_lets +onlyGivenNames x9
  clear_value x9
  extract_lets +onlyGivenNames x10
  have h11 : State.Keeps a x10 := by
    unfold x10
    with_reducible refine ite_keeps (P := State.Keeps a) ?_ ?_
    · with_reducible apply State.sched_keeps
      exact h8
    · exact h8
  clear_value x10
  refine OnNext.next ?_
  with_reducible apply State.sched_keeps
  exact h11

theorem State.reloadAct_keeps {a : State} {z1 z2 z3 z4} (h1 : State.Keeps a z1) :
    State.Keeps a (State.reloadAct z1 z2 z3 z4) := by
  unfold State.reloadAct
  split
  · rename_i v1 v2
    exact h1
  · rename_i v3 v4 v5
    split
    · rename_i v6 v7
      exact h1
    · rename_i v8 v9 v10
      with_reducible apply State.modAct_keeps
      with_reducible apply State.takeTrap_keeps
      exact h1

theorem execConfigReloadDone_keeps {a : State} {z1} (h1 : State.Keeps a z1) :
    OnNext (State.Keeps a) (execConfigReloadDone z1) := by
  unfold execConfigReloadDone
  extract_lets +onlyGivenNames x1
  clear_value x1
  extract_lets +onlyGivenNames x2
  clear_value x2
  extract_lets +onlyGivenNames x3
  have h4 : State.Keeps a x3 := by
    unfold x3
    refine foldl_keeps ?_ ?_
    · exact h1
    · intro y5 y6 h7
      with_reducible apply State.reloadAct_keeps
      exact h7
  clear_value x3
  extract_lets +onlyGivenNames x8
  clear_value x8
  extract_lets +onlyGivenNames x9
  have h10 : State.Keeps a x9 := by
    unfold x9
    with_reducible apply State.modPage_keeps
    exact h4
  clear_value x9
  refine OnNext.next ?_
  with_reducible refine ite_keeps (P := State.Keeps a) ?_ ?_
  · exact h10
  · with_reducible apply State.wake_keeps
    with_reducible apply State.unhold_keeps
    refine foldl_keeps ?_ ?_
    · exact h10
    · intro y11 y12 h13
      with_reducible apply State.sched_keeps
      exact h13

theorem State.helmWrite_keeps {a : State} {z1 z2 z3 z4} (h1 : State.Keeps a z1) :
    State.Keeps a (State.helmWrite z1 z2 z3 z4) := by
  unfold State.helmWrite
  split
  · rename_i v1 v2 v3
    with_reducible apply State.badRead_keeps
    exact h1
  · rename_i v4 v5
    split
    · rename_i v6 v7 v8
      with_reducible refine ite_keeps (P := State.Keeps a) ?_ ?_
      · exact h1
      · with_reducible refine ite_keeps (P := State.Keeps a) ?_ ?_
        · with_reducible apply State.badRead_keeps
          exact h1
        · with_reducible apply State.memWrite_keeps
          exact h1
    · rename_i v9 v10 v11
      exact h1

theorem State.modSlot_keeps {a : State} {z1 z2 z3 z4} (h1 : State.Keeps a z1) :
    State.Keeps a (State.modSlot z1 z2 z3 z4) := by
  unfold State.modSlot
  refine State.Keeps.upd (s := z1) rfl rfl rfl rfl ?_
  exact h1

theorem State.helmJoin_keeps {a : State} {z1 z2 z3 z4} (h1 : State.Keeps a z1) :
    State.Keeps a (State.helmJoin z1 z2 z3 z4) := by
  unfold State.helmJoin
  with_reducible refine ite_keeps (P := State.Keeps a) h1 ?_
  dsimp only
  with_reducible apply State.sched_keeps
  refine foldl_keeps ?_ ?_
  · exact State.Keeps.upd (s := z1) rfl rfl rfl rfl h1
  · intro z y h
    with_reducible apply State.sched_keeps
    exact h

theorem State.freeSlot_keeps {a : State} {z1 z2} (h1 : State.Keeps a z1) :
    State.Keeps a (State.freeSlot z1 z2) := by
  unfold State.freeSlot
  with_reducible apply State.sched_keeps
  refine State.Keeps.upd (s := z1) rfl rfl rfl rfl ?_
  exact h1

theorem State.withdrawLaunch_keeps {a : State} {z1 z2 z3 z4} (h1 : State.Keeps a z1) :
    State.Keeps a (State.withdrawLaunch z1 z2 z3 z4) := by
  unfold State.withdrawLaunch
  with_reducible apply State.modPart_keeps
  exact h1

theorem State.unmapSlot_keeps {a : State} {z1 z2} (h1 : State.Keeps a z1) :
    State.Keeps a (State.unmapSlot z1 z2) := by
  unfold State.unmapSlot
  extract_lets +onlyGivenNames x1
  have h2 : State.Keeps a x1 := by
    unfold x1
    with_reducible apply State.withdrawLaunch_keeps
    exact h1
  clear_value x1
  extract_lets +onlyGivenNames x3
  have h4 : State.Keeps a x3 := by
    unfold x3
    refine State.Keeps.upd (s := x1) rfl rfl rfl rfl ?_
    exact h2
  clear_value x3
  split
  · rename_i v5 v6 v7
    with_reducible apply State.freeSlot_keeps
    exact h4
  · rename_i v8 v9
    exact h4

theorem State.saveSlot_keeps {a : State} {z1 z2} (h1 : State.Keeps a z1) :
    State.Keeps a (State.saveSlot z1 z2) := by
  unfold State.saveSlot
  extract_lets +onlyGivenNames x1
  have h2 : State.Keeps a x1 := by
    unfold x1
    with_reducible apply State.helmWrite_keeps
    exact h1
  clear_value x1
  with_reducible apply State.freeSlot_keeps
  refine State.Keeps.upd (s := x1) rfl rfl rfl rfl ?_
  exact h2

theorem State.yieldSlot_keeps {a : State} {z1 z2} (h1 : State.Keeps a z1) :
    State.Keeps a (State.yieldSlot z1 z2) := by
  unfold State.yieldSlot
  extract_lets +onlyGivenNames x1
  have h2 : State.Keeps a x1 := by
    unfold x1
    with_reducible apply State.saveSlot_keeps
    exact h1
  clear_value x1
  refine State.Keeps.upd (s := x1) rfl rfl rfl rfl ?_
  exact h2

theorem State.chartError_keeps {a : State} {z1 z2 z3 z4} (h1 : State.Keeps a z1) :
    State.Keeps a (State.chartError z1 z2 z3 z4) := by
  unfold State.chartError
  extract_lets +onlyGivenNames x1
  clear_value x1
  extract_lets +onlyGivenNames x2
  have h3 : State.Keeps a x2 := by
    unfold x2
    with_reducible apply State.helmWrite_keeps
    exact h1
  clear_value x2
  extract_lets +onlyGivenNames x4
  have h5 : State.Keeps a x4 := by
    unfold x4
    with_reducible apply State.helmWrite_keeps
    exact h3
  clear_value x4
  with_reducible apply State.postVf_keeps
  with_reducible apply State.unmapSlot_keeps
  exact h5

theorem State.helmFail_keeps {a : State} {z1 z2 z3 z4 z5} (h1 : State.Keeps a z1) :
    State.Keeps a (State.helmFail z1 z2 z3 z4 z5) := by
  unfold State.helmFail
  split
  · rename_i v1 v2 v3 v4
    with_reducible apply State.badRead_keeps
    exact h1
  · rename_i v5 v6
    with_reducible apply State.chartError_keeps
    exact h1

theorem State.modWalker_keeps {a : State} {z1 z2 z3 z4} (h1 : State.Keeps a z1) :
    State.Keeps a (State.modWalker z1 z2 z3 z4) := by
  unfold State.modWalker
  extract_lets +onlyGivenNames x1
  clear_value x1
  refine State.Keeps.upd (s := z1) rfl rfl rfl rfl ?_
  exact h1

theorem State.queueError_keeps {a : State} {z1 z2 z3 z4 z5 z6 z7 z8} (h1 : State.Keeps a z1) :
    State.Keeps a (State.queueError z1 z2 z3 z4 z5 z6 z7 z8) := by
  unfold State.queueError
  extract_lets +onlyGivenNames x1
  clear_value x1
  with_reducible apply State.chartError_keeps
  exact h1

theorem State.waitFor_keeps {a : State} {z1 z2 z3} (h1 : State.Keeps a z1) :
    State.Keeps a (State.waitFor z1 z2 z3) := by
  unfold State.waitFor
  extract_lets +onlyGivenNames x1
  clear_value x1
  extract_lets +onlyGivenNames x2
  have h3 : State.Keeps a x2 := by
    unfold x2
    with_reducible apply State.modSlot_keeps
    exact h1
  clear_value x2
  with_reducible refine ite_keeps (P := State.Keeps a) ?_ ?_
  · exact h3
  · with_reducible refine ite_keeps (P := State.Keeps a) ?_ ?_
    · with_reducible apply State.saveSlot_keeps
      exact h3
    · with_reducible refine ite_keeps (P := State.Keeps a) ?_ ?_
      · with_reducible apply State.yieldSlot_keeps
        exact h3
      · exact h3

theorem State.nodeGo_keeps {a : State} {z1 z2 z3} (h1 : State.Keeps a z1) :
    State.Keeps a (State.nodeGo z1 z2 z3) := by
  unfold State.nodeGo
  extract_lets +onlyGivenNames x1
  clear_value x1
  extract_lets +onlyGivenNames x2
  have h3 : State.Keeps a x2 := by
    unfold x2
    with_reducible apply State.modSlot_keeps
    exact h1
  clear_value x2
  extract_lets +onlyGivenNames x4
  clear_value x4
  with_reducible refine ite_keeps (P := State.Keeps a) ?_ ?_
  · exact h3
  · with_reducible refine ite_keeps (P := State.Keeps a) ?_ ?_
    · with_reducible apply State.saveSlot_keeps
      exact h3
    · with_reducible refine ite_keeps (P := State.Keeps a) ?_ ?_
      · with_reducible apply State.yieldSlot_keeps
        exact h3
      · with_reducible refine ite_keeps (P := State.Keeps a) ?_ ?_
        · with_reducible apply State.chartError_keeps
          exact h3
        · split
          · rename_i v5 v6
            with_reducible apply State.helmFail_keeps
            exact h3
          · rename_i v7 v8 v9
            split
            · rename_i v10 v11
              with_reducible apply State.chartError_keeps
              exact h3
            · rename_i v12 v13 v14
              extract_lets +onlyGivenNames x15
              have h16 : State.Keeps a x15 := by
                unfold x15
                with_reducible apply State.modSlot_keeps
                exact h3
              clear_value x15
              with_reducible apply State.sched_keeps
              exact h16

theorem State.nodeLater_keeps {a : State} {z1 z2 z3 z4 z5} (h1 : State.Keeps a z1) :
    State.Keeps a (State.nodeLater z1 z2 z3 z4 z5) := by
  unfold State.nodeLater
  with_reducible apply State.sched_keeps
  exact h1

theorem execDoorbell_keeps {a : State} {z1} (h1 : State.Keeps a z1) :
    OnNext (State.Keeps a) (execDoorbell z1) := by
  unfold execDoorbell
  extract_lets +onlyGivenNames x1
  clear_value x1
  extract_lets +onlyGivenNames x2
  clear_value x2
  extract_lets +onlyGivenNames x3
  clear_value x3
  extract_lets +onlyGivenNames x4
  clear_value x4
  extract_lets +onlyGivenNames x5
  have h7 : ∀ y6, State.Keeps a y6 → State.Keeps a (x5 y6) := by
    intro y6 h8
    unfold x5
    with_reducible apply State.modPart_keeps
    exact h8
  clear_value x5
  refine OnNext.next ?_
  with_reducible refine ite_keeps (P := State.Keeps a) ?_ ?_
  · with_reducible apply h7
    exact h1
  · split
    · rename_i v9 v10
      with_reducible apply h7
      exact h1
    · rename_i v11 v12 v13
      extract_lets +onlyGivenNames x14
      have h15 : State.Keeps a x14 := by
        unfold x14
        with_reducible apply State.helmWrite_keeps
        exact h1
      clear_value x14
      with_reducible refine ite_keeps (P := State.Keeps a) ?_ ?_
      · with_reducible apply h7
        exact h15
      · with_reducible refine ite_keeps (P := State.Keeps a) ?_ ?_
        · exact h15
        · split
          · rename_i v16 v17 v18
            with_reducible apply State.helmJoin_keeps
            exact h15
          · rename_i v19 v20
            exact h15

theorem State.entryStart_keeps {a : State} {z1 z2} (h1 : State.Keeps a z1) :
    State.Keeps a (State.entryStart z1 z2) := by
  unfold State.entryStart
  split
  · rename_i v1 v2
    with_reducible apply State.helmFail_keeps
    exact h1
  · rename_i v3 v4 v5
    extract_lets +onlyGivenNames x6
    clear_value x6
    extract_lets +onlyGivenNames x7
    clear_value x7
    extract_lets +onlyGivenNames x8
    clear_value x8
    extract_lets +onlyGivenNames x9
    have h10 : State.Keeps a x9 := by
      unfold x9
      with_reducible apply State.modSlot_keeps
      refine State.Keeps.upd (s := z1) rfl rfl rfl rfl ?_
      exact h1
    clear_value x9
    split
    · rename_i v11 v12
      with_reducible apply State.helmFail_keeps
      exact h10
    · rename_i v13 v14 v15
      extract_lets +onlyGivenNames x16
      clear_value x16
      extract_lets +onlyGivenNames x17
      have h18 : State.Keeps a x17 := by
        unfold x17
        with_reducible apply State.helmWrite_keeps
        exact h10
      clear_value x17
      with_reducible refine ite_keeps (P := State.Keeps a) ?_ ?_
      · with_reducible apply State.chartError_keeps
        exact h18
      · with_reducible apply State.nodeGo_keeps
        exact h18

theorem execHelmEntryStart_keeps {a : State} {z1} (h1 : State.Keeps a z1) :
    OnNext (State.Keeps a) (execHelmEntryStart z1) := by
  unfold execHelmEntryStart
  refine OnNext.next ?_
  split
  · rename_i v1 v2 v3
    with_reducible refine ite_keeps (P := State.Keeps a) ?_ ?_
    · exact h1
    · with_reducible refine ite_keeps (P := State.Keeps a) ?_ ?_
      · with_reducible apply State.unmapSlot_keeps
        exact h1
      · with_reducible apply State.entryStart_keeps
        exact h1
  · rename_i v4 v5
    exact h1

theorem State.slotGo_keeps {a : State} {z1 z2 z3} (h1 : State.Keeps a z1) :
    State.Keeps a (State.slotGo z1 z2 z3) := by
  unfold State.slotGo
  split
  · rename_i v1 v2 v3
    split
    · rename_i v4 v5 v6
      with_reducible refine ite_keeps (P := State.Keeps a) ?_ ?_
      · with_reducible apply State.nodeGo_keeps
        exact h1
      · exact h1
    · rename_i v7 v8
      exact h1
  · rename_i v9 v10
    exact h1

theorem State.resumeSlot_keeps {a : State} {z1 z2} (h1 : State.Keeps a z1) :
    State.Keeps a (State.resumeSlot z1 z2) := by
  unfold State.resumeSlot
  split
  · rename_i v1 v2
    with_reducible apply State.nodeGo_keeps
    exact h1
  · rename_i v3 v4 v5
    with_reducible apply State.slotGo_keeps
    exact h1
  · rename_i v6 v7
    extract_lets +onlyGivenNames x8
    clear_value x8
    with_reducible refine ite_keeps (P := State.Keeps a) ?_ ?_
    · exact h1
    · with_reducible apply State.nodeGo_keeps
      exact h1
  · rename_i v9 v10 v11 v12
    extract_lets +onlyGivenNames x13
    clear_value x13
    with_reducible refine ite_keeps (P := State.Keeps a) ?_ ?_
    · with_reducible apply State.nodeGo_keeps
      exact h1
    · exact h1
  · rename_i v14 v15 v16 v17
    exact h1
  · rename_i v18 v19 v20
    exact h1

theorem execHelmQueueMap_keeps {a : State} {z1} (h1 : State.Keeps a z1) :
    OnNext (State.Keeps a) (execHelmQueueMap z1) := by
  unfold execHelmQueueMap
  extract_lets +onlyGivenNames x1
  clear_value x1
  extract_lets +onlyGivenNames x2
  clear_value x2
  refine OnNext.next ?_
  split
  · rename_i v3 v4 v5 v6 v7 v8 v9
    extract_lets +onlyGivenNames x10
    clear_value x10
    extract_lets +onlyGivenNames x11
    clear_value x11
    extract_lets +onlyGivenNames x12
    have h13 : State.Keeps a x12 := by
      unfold x12
      refine State.Keeps.upd (s := z1) rfl rfl rfl rfl ?_
      exact h1
    clear_value x12
    extract_lets +onlyGivenNames x14
    have h15 : State.Keeps a x14 := by
      unfold x14
      with_reducible refine ite_keeps (P := State.Keeps a) ?_ ?_
      · exact h13
      · with_reducible apply State.sched_keeps
        exact h13
    clear_value x14
    extract_lets +onlyGivenNames x16
    clear_value x16
    extract_lets +onlyGivenNames x17
    have h18 : State.Keeps a x17 := by
      unfold x17
      refine State.Keeps.upd (s := x14) rfl rfl rfl rfl ?_
      exact h15
    clear_value x17
    extract_lets +onlyGivenNames x19
    clear_value x19
    extract_lets +onlyGivenNames x20
    clear_value x20
    extract_lets +onlyGivenNames x21
    clear_value x21
    extract_lets +onlyGivenNames x22
    have h23 : State.Keeps a x22 := by
      unfold x22
      refine State.Keeps.upd (s := x17) rfl rfl rfl rfl ?_
      exact h18
    clear_value x22
    extract_lets +onlyGivenNames x24
    have h25 : State.Keeps a x24 := by
      unfold x24
      with_reducible apply State.sched_keeps
      exact h23
    clear_value x24
    with_reducible refine ite_keeps (P := State.Keeps a) ?_ ?_
    · exact h15
    · with_reducible refine ite_keeps (P := State.Keeps a) ?_ ?_
      · with_reducible apply State.resumeSlot_keeps
        exact h25
      · with_reducible apply State.sched_keeps
        exact h25
  · rename_i v26 v27 v28
    exact h1

theorem execHelmSliceExpiry_keeps {a : State} {z1} (h1 : State.Keeps a z1) :
    OnNext (State.Keeps a) (execHelmSliceExpiry z1) := by
  unfold execHelmSliceExpiry
  refine OnNext.next ?_
  split
  · rename_i v1 v2 v3
    split
    · rename_i v4 v5
      exact h1
    · rename_i v6 v7
      with_reducible refine ite_keeps (P := State.Keeps a) ?_ ?_
      · with_reducible apply State.yieldSlot_keeps
        exact h1
      · exact h1
  · rename_i v8 v9
    exact h1

theorem execLaunch_keeps {a : State} {z1} (h1 : State.Keeps a z1) :
    OnNext (State.Keeps a) (execLaunch z1) := by
  unfold execLaunch
  refine OnNext.next ?_
  split
  · rename_i v1 v2
    exact h1
  · rename_i v3 v4 v5
    split
    · rename_i v6 v7 v8 v9
      with_reducible apply State.helmFail_keeps
      exact h1
    · rename_i v10 v11 v12 v13 v14
      with_reducible apply State.helmFail_keeps
      exact h1
    · rename_i v15 v16 v17 v18 v19 v20
      extract_lets +onlyGivenNames x21
      clear_value x21
      extract_lets +onlyGivenNames x22
      clear_value x22
      with_reducible refine ite_keeps (P := State.Keeps a) ?_ ?_
      · with_reducible apply State.chartError_keeps
        exact h1
      · with_reducible apply State.request_keeps
        with_reducible apply State.waitFor_keeps
        exact h1

theorem execLaunchResult_keeps {a : State} {z1} (h1 : State.Keeps a z1) :
    OnNext (State.Keeps a) (execLaunchResult z1) := by
  unfold execLaunchResult
  extract_lets +onlyGivenNames x1
  clear_value x1
  extract_lets +onlyGivenNames x2
  clear_value x2
  extract_lets +onlyGivenNames x3
  have h4 : OnSome (State.Keeps a) x3 := by
    unfold x3
    with_reducible refine ite_keeps (P := OnSome (State.Keeps a)) ?_ ?_
    · refine OnSome.some ?_
      exact h1
    · split
      · rename_i v5 v6 v7
        with_reducible refine ite_keeps (P := OnSome (State.Keeps a)) ?_ ?_
        · refine OnSome.some ?_
          with_reducible apply State.memWrite_keeps
          exact h1
        · exact OnSome.none
      · rename_i v8 v9 v10
        exact OnSome.none
  clear_value x3
  extract_lets +onlyGivenNames x11
  clear_value x11
  extract_lets +onlyGivenNames x12
  have h15 : ∀ y13 y14, State.Keeps a y13 → State.Keeps a (x12 y13 y14) := by
    intro y13 y14 h16
    unfold x12
    split
    · rename_i v17 v18 v19
      with_reducible apply State.queueError_keeps
      exact h16
    · rename_i v20 v21
      exact h16
  clear_value x12
  refine OnNext.next ?_
  split
  · rename_i v22 v23
    with_reducible apply State.badRead_keeps
    exact h1
  · rename_i v24 v25
    split
    · rename_i v26
      with_reducible apply h15
      exact h1
    · rename_i v27 v28
      split
      · rename_i v29 v30 v31
        with_reducible apply h15
        exact OnSome.get h4 rfl
      · rename_i v32 v33 v34
        have h35 : State.Keeps a v33 := by
          refine OnOk.get ?_ v34
          with_reducible refine ite_keeps (P := OnOk (State.Keeps a)) ?_ ?_
          · refine OnOk.ok ?_
            exact OnSome.get h4 rfl
          · with_reducible apply State.postAdd_keeps
            exact OnSome.get h4 rfl
        split
        · rename_i v36 v37 v38
          have h39 : State.Keeps a v33 := by
            refine OnOk.get ?_ v34
            with_reducible refine ite_keeps (P := OnOk (State.Keeps a)) ?_ ?_
            · refine OnOk.ok ?_
              exact OnSome.get h4 rfl
            · with_reducible apply State.postAdd_keeps
              exact OnSome.get h4 rfl
          with_reducible apply State.sched_keeps
          with_reducible apply State.modWalker_keeps
          exact h39
        · rename_i v40 v41
          have h42 : State.Keeps a v33 := by
            refine OnOk.get ?_ v34
            with_reducible refine ite_keeps (P := OnOk (State.Keeps a)) ?_ ?_
            · refine OnOk.ok ?_
              exact OnSome.get h4 rfl
            · with_reducible apply State.postAdd_keeps
              exact OnSome.get h4 rfl
          exact h42

theorem execLaunchContinue_keeps {a : State} {z1} (h1 : State.Keeps a z1) :
    OnNext (State.Keeps a) (execLaunchContinue z1) := by
  unfold execLaunchContinue
  extract_lets +onlyGivenNames x1
  clear_value x1
  extract_lets +onlyGivenNames x2
  clear_value x2
  refine OnNext.next ?_
  with_reducible refine ite_keeps (P := State.Keeps a) ?_ ?_
  · exact h1
  · split
    · rename_i v3 v4
      with_reducible apply State.slotGo_keeps
      exact h1
    · rename_i v5 v6
      split
      · rename_i v7 v8 v9
        with_reducible apply State.slotGo_keeps
        with_reducible apply State.modWalker_keeps
        exact h1
      · rename_i v10 v11
        exact h1
    · rename_i v12 v13
      extract_lets +onlyGivenNames x14
      have h15 : State.Keeps a x14 := by
        unfold x14
        with_reducible apply State.modPart_keeps
        exact h1
      clear_value x14
      with_reducible apply State.queueError_keeps
      exact h15
    · rename_i v16 v17 v18 v19
      split
      · rename_i v20 v21
        exact h1
      · rename_i v22 v23 v24
        extract_lets +onlyGivenNames x25
        clear_value x25
        extract_lets +onlyGivenNames x26
        have h27 : State.Keeps a x26 := by
          unfold x26
          with_reducible apply State.modInst_keeps
          exact h1
        clear_value x26
        extract_lets +onlyGivenNames x28
        clear_value x28
        with_reducible refine ite_keeps (P := State.Keeps a) ?_ ?_
        · exact h1
        · with_reducible refine ite_keeps (P := State.Keeps a) ?_ ?_
          · with_reducible apply State.queueError_keeps
            exact h1
          · with_reducible refine ite_keeps (P := State.Keeps a) ?_ ?_
            · with_reducible apply State.waitFor_keeps
              exact h27
            · with_reducible apply State.slotGo_keeps
              with_reducible apply State.modWalker_keeps
              exact h27

theorem State.helmReach_keeps {a : State} {z1 z2 z3 z4} (h1 : State.Keeps a z1) :
    State.Keeps a (State.helmReach z1 z2 z3 z4) := by
  unfold State.helmReach
  extract_lets +onlyGivenNames x1
  have h3 : ∀ y2, State.Keeps a (x1 y2) := by
    intro y2
    unfold x1
    with_reducible refine ite_keeps (P := State.Keeps a) ?_ ?_
    · with_reducible apply State.badRead_keeps
      exact h1
    · split
      · rename_i v4 v5 v6 v7 v8 v9
        with_reducible apply State.queueError_keeps
        exact h1
      · rename_i v10 v11 v12 v13
        exact h1
  clear_value x1
  split
  · rename_i v14 v15 v16
    with_reducible apply h3
  · rename_i v17 v18 v19
    have h20 : State.Keeps a v18 := by
      refine OnOk.get ?_ v19
      with_reducible apply State.copyOwed_keeps
      exact h1
    split
    · rename_i v21 v22 v23
      have h24 : State.Keeps a v18 := by
        refine OnOk.get ?_ v19
        with_reducible apply State.copyOwed_keeps
        exact h1
      have h25 : State.Keeps a v22 := by
        refine OnOk.get ?_ v23
        with_reducible apply State.copyReach_keeps
        exact h24
      exact h25
    · rename_i v26 v27 v28
      have h29 : State.Keeps a v18 := by
        refine OnOk.get ?_ v19
        with_reducible apply State.copyOwed_keeps
        exact h1
      with_reducible apply h3

theorem State.helmCopy_keeps {a : State} {z1 z2 z3 z4 z5 z6} (h1 : State.Keeps a z1) :
    State.Keeps a (State.helmCopy z1 z2 z3 z4 z5 z6) := by
  unfold State.helmCopy
  split
  · rename_i v1 v2 v3 v4 v5 v6
    extract_lets +onlyGivenNames x7
    clear_value x7
    with_reducible refine ite_keeps (P := State.Keeps a) ?_ ?_
    · with_reducible apply State.modPart_keeps
      exact h1
    · with_reducible apply State.helmReach_keeps
      exact h1
  · rename_i v8 v9
    exact h1

theorem State.helmUnhalt_keeps {a : State} {z1 z2} (h1 : State.Keeps a z1) :
    State.Keeps a (State.helmUnhalt z1 z2) := by
  unfold State.helmUnhalt
  refine foldl_keeps ?_ ?_
  · exact h1
  · intro y1 y2 h3
    with_reducible apply State.helmReach_keeps
    exact h3

theorem execCopy_keeps {a : State} {z1} (h1 : State.Keeps a z1) :
    OnNext (State.Keeps a) (execCopy z1) := by
  unfold execCopy
  extract_lets +onlyGivenNames x1
  clear_value x1
  refine OnNext.next ?_
  with_reducible refine ite_keeps (P := State.Keeps a) ?_ ?_
  · with_reducible refine ite_keeps (P := State.Keeps a) ?_ ?_
    · exact h1
    · with_reducible apply State.helmCopy_keeps
      exact h1
  · split
    · rename_i v2 v3
      exact h1
    · rename_i v4 v5 v6
      extract_lets +onlyGivenNames x7
      clear_value x7
      extract_lets +onlyGivenNames x8
      clear_value x8
      extract_lets +onlyGivenNames x9
      clear_value x9
      extract_lets +onlyGivenNames x10
      have h11 : State.Keeps a x10 := by
        unfold x10
        with_reducible apply State.sched_keeps
        refine State.Keeps.upd (s := z1) rfl rfl rfl rfl ?_
        exact h1
      clear_value x10
      with_reducible refine ite_keeps (P := State.Keeps a) ?_ ?_
      · with_reducible apply State.chartError_keeps
        exact h1
      · with_reducible refine ite_keeps (P := State.Keeps a) ?_ ?_
        · with_reducible apply State.waitFor_keeps
          exact h11
        · with_reducible apply State.nodeGo_keeps
          exact h11

theorem execWait_keeps {a : State} {z1} (h1 : State.Keeps a z1) :
    OnNext (State.Keeps a) (execWait z1) := by
  unfold execWait
  refine OnNext.next ?_
  generalize z1.argSlot = o
  rcases o with _ | z
  · exact h1
  · dsimp only
    with_reducible refine ite_keeps (P := State.Keeps a) (State.nodeLater_keeps h1) ?_
    with_reducible refine ite_keeps (P := State.Keeps a) (State.chartError_keeps h1) ?_
    generalize (z1.obj z.p (z.f 8 4)).st = v
    cases v with
    | word w =>
      dsimp only
      exact ite_keeps (State.nodeGo_keeps h1) (State.waitFor_keeps h1)
    | free =>
      dsimp only
      exact ite_keeps (State.nodeGo_keeps h1) (State.waitFor_keeps h1)
    | _ =>
      dsimp only
      exact State.chartError_keeps h1

theorem execWaitSatisfied_keeps {a : State} {z1} (h1 : State.Keeps a z1) :
    OnNext (State.Keeps a) (execWaitSatisfied z1) := by
  unfold execWaitSatisfied
  refine OnNext.next ?_
  with_reducible apply State.slotGo_keeps
  exact h1

theorem execSignal_keeps {a : State} {z1} (h1 : State.Keeps a z1) :
    OnNext (State.Keeps a) (execSignal z1) := by
  unfold execSignal
  refine OnNext.next ?_
  split
  · rename_i v1 v2
    exact h1
  · rename_i v3 v4 v5
    extract_lets +onlyGivenNames x6
    clear_value x6
    extract_lets +onlyGivenNames x7
    clear_value x7
    extract_lets +onlyGivenNames x8
    clear_value x8
    extract_lets +onlyGivenNames x9
    clear_value x9
    with_reducible refine ite_keeps (P := State.Keeps a) ?_ ?_
    · with_reducible apply State.nodeLater_keeps
      exact h1
    · with_reducible refine ite_keeps (P := State.Keeps a) ?_ ?_
      · with_reducible apply State.nodeGo_keeps
        with_reducible apply State.sched_keeps
        exact h1
      · split
        · rename_i v10 v11 v12
          have h13 : State.Keeps a v11 := by
            refine OnOk.get ?_ v12
            with_reducible apply State.postWord_keeps
            exact h1
          with_reducible apply State.nodeGo_keeps
          exact h13
        · rename_i v14 v15 v16
          with_reducible apply State.chartError_keeps
          exact h1

theorem execCond_keeps {a : State} {z1} (h1 : State.Keeps a z1) :
    OnNext (State.Keeps a) (execCond z1) := by
  unfold execCond
  refine OnNext.next ?_
  split
  · rename_i v1 v2
    exact h1
  · rename_i v3 v4 v5
    with_reducible refine ite_keeps (P := State.Keeps a) ?_ ?_
    · with_reducible apply State.nodeLater_keeps
      exact h1
    · split
      · rename_i v6 v7
        with_reducible apply State.helmFail_keeps
        exact h1
      · rename_i v8 v9 v10
        with_reducible apply State.nodeGo_keeps
        exact h1

theorem execHelmLoop_keeps {a : State} {z1} (h1 : State.Keeps a z1) :
    OnNext (State.Keeps a) (execHelmLoop z1) := by
  unfold execHelmLoop
  refine OnNext.next ?_
  split
  · rename_i v1 v2
    exact h1
  · rename_i v3 v4 v5
    with_reducible refine ite_keeps (P := State.Keeps a) ?_ ?_
    · with_reducible apply State.nodeLater_keeps
      exact h1
    · split
      · rename_i v6 v7
        with_reducible apply State.helmFail_keeps
        exact h1
      · rename_i v8 v9 v10
        extract_lets +onlyGivenNames x11
        clear_value x11
        with_reducible refine ite_keeps (P := State.Keeps a) ?_ ?_
        · with_reducible refine ite_keeps (P := State.Keeps a) ?_ ?_
          · with_reducible apply State.chartError_keeps
            exact h1
          · with_reducible apply State.nodeGo_keeps
            exact h1
        · with_reducible apply State.nodeGo_keeps
          exact h1

theorem execHelmEnd_keeps {a : State} {z1} (h1 : State.Keeps a z1) :
    OnNext (State.Keeps a) (execHelmEnd z1) := by
  unfold execHelmEnd
  refine OnNext.next ?_
  split
  · rename_i v1 v2
    exact h1
  · rename_i v3 v4 v5
    extract_lets +onlyGivenNames x6
    have h7 : State.Keeps a x6 := by
      unfold x6
      with_reducible apply State.helmWrite_keeps
      exact h1
    clear_value x6
    extract_lets +onlyGivenNames x8
    have h9 : State.Keeps a x8 := by
      unfold x8
      with_reducible apply State.helmWrite_keeps
      exact h7
    clear_value x8
    split
    · rename_i v10 v11
      with_reducible apply State.unmapSlot_keeps
      exact h9
    · rename_i v12 v13 v14
      extract_lets +onlyGivenNames x15
      clear_value x15
      extract_lets +onlyGivenNames x16
      have h17 : State.Keeps a x16 := by
        unfold x16
        with_reducible apply State.helmWrite_keeps
        exact h9
      clear_value x16
      extract_lets +onlyGivenNames x18
      have h19 : State.Keeps a x18 := by
        unfold x18
        with_reducible apply State.unmapSlot_keeps
        exact h17
      clear_value x18
      with_reducible refine ite_keeps (P := State.Keeps a) ?_ ?_
      · with_reducible apply State.unmapSlot_keeps
        exact h17
      · with_reducible refine ite_keeps (P := State.Keeps a) ?_ ?_
        · refine State.Keeps.upd (s := x18) rfl rfl rfl rfl ?_
          exact h19
        · with_reducible apply State.sched_keeps
          exact h17

theorem State.reply_keeps {a : State} {z1 z2 z3 z4} (h1 : State.Keeps a z1) :
    State.Keeps a (State.reply z1 z2 z3 z4) := by
  unfold State.reply
  refine State.Keeps.upd (s := z1) rfl rfl rfl rfl ?_
  exact h1

theorem State.emptyQueue_keeps {a : State} {z1 z2 z3 z4} (h1 : State.Keeps a z1) :
    State.Keeps a (State.emptyQueue z1 z2 z3 z4) := by
  unfold State.emptyQueue
  split
  · rename_i v1
    exact h1
  · rename_i v2 v3
    with_reducible apply State.helmWrite_keeps
    with_reducible apply State.helmWrite_keeps
    exact h1

theorem State.clearQueue_keeps {a : State} {z1 z2 z3} (h1 : State.Keeps a z1) :
    State.Keeps a (State.clearQueue z1 z2 z3) := by
  unfold State.clearQueue
  extract_lets +onlyGivenNames x1
  have h2 : State.Keeps a x1 := by
    unfold x1
    refine foldl_keeps ?_ ?_
    · exact h1
    · intro y3 y4 h5
      with_reducible apply State.unmapSlot_keeps
      exact h5
  clear_value x1
  extract_lets +onlyGivenNames x6
  have h7 : State.Keeps a x6 := by
    unfold x6
    refine foldl_keeps ?_ ?_
    · exact h2
    · intro y8 y9 h10
      with_reducible apply State.withdrawLaunch_keeps
      exact h10
  clear_value x6
  extract_lets +onlyGivenNames x11
  have h12 : State.Keeps a x11 := by
    unfold x11
    refine State.Keeps.upd (s := x6) rfl rfl rfl rfl ?_
    exact h7
  clear_value x11
  with_reducible apply State.emptyQueue_keeps
  exact h12

theorem execResetQueue_keeps {a : State} {z1} (h1 : State.Keeps a z1) :
    OnNext (State.Keeps a) (execResetQueue z1) := by
  unfold execResetQueue
  extract_lets +onlyGivenNames x1
  clear_value x1
  extract_lets +onlyGivenNames x2
  clear_value x2
  refine OnNext.next ?_
  with_reducible apply State.reply_keeps
  with_reducible refine ite_keeps (P := State.Keeps a) ?_ ?_
  · with_reducible apply State.clearQueue_keeps
    exact h1
  · exact h1

theorem State.clearContext_keeps {a : State} {z1 z2 z3} (h1 : State.Keeps a z1) :
    State.Keeps a (State.clearContext z1 z2 z3) := by
  unfold State.clearContext
  extract_lets +onlyGivenNames x1
  clear_value x1
  extract_lets +onlyGivenNames x2
  clear_value x2
  extract_lets +onlyGivenNames x3
  have h4 : State.Keeps a x3 := by
    unfold x3
    refine foldl_keeps ?_ ?_
    · exact h1
    · intro y5 y6 h7
      with_reducible apply State.clearQueue_keeps
      exact h7
  clear_value x3
  extract_lets +onlyGivenNames x8
  clear_value x8
  refine foldl_keeps ?_ ?_
  · exact h4
  · intro y9 y10 h11
    with_reducible apply State.modPart_keeps
    with_reducible apply State.kill_keeps
    exact h11

theorem State.startReset_keeps {a : State} {z1 z2 z3 z4 z5} (h1 : State.Keeps a z1) :
    State.Keeps a (State.startReset z1 z2 z3 z4 z5) := by
  unfold State.startReset
  extract_lets +onlyGivenNames x1
  clear_value x1
  with_reducible refine ite_keeps (P := State.Keeps a) ?_ ?_
  · exact h1
  · with_reducible apply State.sched_keeps
    refine State.Keeps.upd (s := z1) rfl rfl rfl rfl ?_
    exact h1

theorem State.endReset_keeps {a : State} {z1 z2 z3 z4} (h1 : State.Keeps a z1) :
    State.Keeps a (State.endReset z1 z2 z3 z4) := by
  unfold State.endReset
  extract_lets +onlyGivenNames x1
  clear_value x1
  extract_lets +onlyGivenNames x2
  have h3 : State.Keeps a x2 := by
    unfold x2
    refine State.Keeps.upd (s := z1) rfl rfl rfl rfl ?_
    exact h1
  clear_value x2
  refine foldl_keeps ?_ ?_
  · exact h3
  · intro y4 y5 h6
    with_reducible apply State.reply_keeps
    exact h6

theorem execResetContext_keeps {a : State} {z1} (h1 : State.Keeps a z1) :
    OnNext (State.Keeps a) (execResetContext z1) := by
  unfold execResetContext
  extract_lets +onlyGivenNames x1
  clear_value x1
  extract_lets +onlyGivenNames x2
  have h4 : ∀ y3, State.Keeps a y3 → State.Keeps a (x2 y3) := by
    intro y3 h5
    unfold x2
    with_reducible apply State.sched_keeps
    exact h5
  clear_value x2
  refine OnNext.next ?_
  with_reducible refine ite_keeps (P := State.Keeps a) ?_ ?_
  · with_reducible refine ite_keeps (P := State.Keeps a) ?_ ?_
    · exact h1
    · with_reducible apply State.reply_keeps
      exact h1
  · with_reducible refine ite_keeps (P := State.Keeps a) ?_ ?_
    · with_reducible refine ite_keeps (P := State.Keeps a) ?_ ?_
      · with_reducible apply State.endReset_keeps
        exact h1
      · with_reducible apply h4
        exact h1
    · with_reducible apply h4
      with_reducible apply State.clearContext_keeps
      with_reducible apply State.startReset_keeps
      exact h1

theorem State.abortFire_keeps {a : State} {z1 z2 z3 z4} (h1 : State.Keeps a z1) :
    State.Keeps a (State.abortFire z1 z2 z3 z4) := by
  unfold State.abortFire
  split
  · rename_i v1 v2
    exact h1
  · rename_i v3 v4 v5
    with_reducible refine ite_keeps (P := State.Keeps a) ?_ ?_
    · with_reducible apply State.drainedBy_keeps
      with_reducible apply State.dropFire_keeps
      exact h1
    · exact h1

theorem State.clearEngines_keeps {a : State} {z1 z2 z3} (h1 : State.Keeps a z1) :
    State.Keeps a (State.clearEngines z1 z2 z3) := by
  unfold State.clearEngines
  extract_lets +onlyGivenNames x1
  clear_value x1
  extract_lets +onlyGivenNames x2
  have h3 : State.Keeps a x2 := by
    unfold x2
    refine foldl_keeps ?_ ?_
    · exact h1
    · intro y4 y5 h6
      extract_lets +onlyGivenNames x7
      have h8 : State.Keeps a x7 := by
        unfold x7
        split
        · rename_i v9 v10 v11
          have h12 : State.Keeps a v10 := by
            refine OnOk.get ?_ v11
            with_reducible apply State.copyProgress_keeps
            exact h6
          exact h12
        · rename_i v13 v14 v15
          exact h6
      clear_value x7
      split
      · rename_i v16 v17 v18 v19
        with_reducible apply State.abortFire_keeps
        exact h8
      · rename_i v20 v21
        exact h8
  clear_value x2
  extract_lets +onlyGivenNames x22
  have h23 : State.Keeps a x22 := by
    unfold x22
    with_reducible apply State.modPart_keeps
    exact h3
  clear_value x22
  refine foldl_keeps ?_ ?_
  · exact h23
  · intro y24 y25 h26
    extract_lets +onlyGivenNames x27
    clear_value x27
    extract_lets +onlyGivenNames x28
    have h29 : State.Keeps a x28 := by
      unfold x28
      refine foldl_keeps ?_ ?_
      · exact h26
      · intro y30 y31 h32
        extract_lets +onlyGivenNames x33
        have h34 : State.Keeps a x33 := by
          unfold x33
          with_reducible apply State.spmaForgive_keeps
          exact h32
        clear_value x33
        extract_lets +onlyGivenNames x35
        have h36 : State.Keeps a x35 := by
          unfold x35
          with_reducible refine ite_keeps (P := State.Keeps a) ?_ ?_
          · with_reducible apply State.memWrite_keeps
            exact h34
          · exact h34
        clear_value x35
        with_reducible apply State.abortFire_keeps
        exact h36
    clear_value x28
    with_reducible apply State.modPage_keeps
    exact h29

theorem execResetEngine_keeps {a : State} {z1} (h1 : State.Keeps a z1) :
    OnNext (State.Keeps a) (execResetEngine z1) := by
  unfold execResetEngine
  extract_lets +onlyGivenNames x1
  clear_value x1
  refine OnNext.next ?_
  with_reducible refine ite_keeps (P := State.Keeps a) ?_ ?_
  · with_reducible apply State.reply_keeps
    exact h1
  · with_reducible apply State.endReset_keeps
    with_reducible apply State.clearEngines_keeps
    with_reducible apply State.startReset_keeps
    exact h1

theorem State.clearSram_keeps {a : State} {z1 z2 z3} (h1 : State.Keeps a z1) :
    State.Keeps a (State.clearSram z1 z2 z3) := by
  unfold State.clearSram
  extract_lets +onlyGivenNames x1
  clear_value x1
  refine State.Keeps.set (s := z1) rfl rfl (fun w => ⟨(Mem.clear_wf w.1), (Fe.filter_ok w.2)⟩) ?_
  exact h1

theorem State.endPart_keeps {a : State} {z1 z2} (h1 : State.Keeps a z1) :
    State.Keeps a (State.endPart z1 z2) := by
  unfold State.endPart
  refine foldl_keeps ?_ ?_
  · exact h1
  · intro y1 y2 h3
    extract_lets +onlyGivenNames x4
    have h5 : State.Keeps a x4 := by
      unfold x4
      with_reducible apply State.flush_keeps
      exact h3
    clear_value x4
    split
    · rename_i v6 v7 v8 v9 v10
      with_reducible refine ite_keeps (P := State.Keeps a) ?_ ?_
      · exact h5
      · with_reducible apply State.helmWrite_keeps
        exact h5
    · rename_i v11 v12
      exact h5

theorem State.clearPart_keeps {a : State} {z1 z2} (h1 : State.Keeps a z1) :
    State.Keeps a (State.clearPart z1 z2) := by
  unfold State.clearPart
  extract_lets +onlyGivenNames x1
  have h2 : State.Keeps a x1 := by
    unfold x1
    with_reducible apply State.endPart_keeps
    exact h1
  clear_value x1
  extract_lets +onlyGivenNames x3
  clear_value x3
  extract_lets +onlyGivenNames x4
  have h5 : State.Keeps a x4 := by
    unfold x4
    refine foldl_keeps ?_ ?_
    · exact h2
    · intro y6 y7 h8
      with_reducible apply State.postPf_keeps
      exact h8
  clear_value x4
  extract_lets +onlyGivenNames x9
  have h10 : State.Keeps a x9 := by
    unfold x9
    refine foldl_keeps ?_ ?_
    · exact h5
    · intro y11 y12 h13
      refine OnSome.getD ?_ ?_
      · with_reducible apply State.devWrite_keeps
        exact h13
      · exact h13
  clear_value x9
  extract_lets +onlyGivenNames x14
  have h15 : State.Keeps a x14 := by
    unfold x14
    refine State.Keeps.upd (s := x9) rfl rfl rfl rfl ?_
    exact h10
  clear_value x14
  extract_lets +onlyGivenNames x16
  clear_value x16
  extract_lets +onlyGivenNames x17
  have h18 : State.Keeps a x17 := by
    unfold x17
    refine State.Keeps.upd (s := x14) rfl rfl rfl rfl ?_
    exact h15
  clear_value x17
  extract_lets +onlyGivenNames x19
  have h20 : State.Keeps a x19 := by
    unfold x19
    refine foldl_keeps ?_ ?_
    · exact h18
    · intro y21 y22 h23
      with_reducible apply State.sched_keeps
      exact h23
  clear_value x19
  extract_lets +onlyGivenNames x24
  have h25 : State.Keeps a x24 := by
    unfold x24
    refine foldl_keeps ?_ ?_
    · exact h20
    · intro y26 y27 h28
      with_reducible apply State.clearSram_keeps
      exact h28
  clear_value x24
  extract_lets +onlyGivenNames x29
  have h30 : State.Keeps a x29 := by
    unfold x29
    with_reducible apply State.modPart_keeps
    exact h25
  clear_value x29
  with_reducible refine ite_keeps (P := State.Keeps a) ?_ ?_
  · exact h30
  · with_reducible apply State.sched_keeps
    exact h30

theorem execResetPartition_keeps {a : State} {z1} (h1 : State.Keeps a z1) :
    OnNext (State.Keeps a) (execResetPartition z1) := by
  unfold execResetPartition
  extract_lets +onlyGivenNames x1
  clear_value x1
  extract_lets +onlyGivenNames x2
  clear_value x2
  extract_lets +onlyGivenNames x3
  have h4 : State.Keeps a x3 := by
    unfold x3
    with_reducible apply State.clearPart_keeps
    refine State.Keeps.upd (s := z1) rfl rfl rfl rfl ?_
    exact h1
  clear_value x3
  refine OnNext.next ?_
  with_reducible refine ite_keeps (P := State.Keeps a) ?_ ?_
  · with_reducible apply State.reply_keeps
    exact h1
  · refine State.Keeps.upd (s := x3) rfl rfl rfl rfl ?_
    exact h4

theorem execFunctionReset_keeps {a : State} {z1} (h1 : State.Keeps a z1) :
    OnNext (State.Keeps a) (execFunctionReset z1) := by
  unfold execFunctionReset
  extract_lets +onlyGivenNames x1
  clear_value x1
  refine OnNext.next ?_
  with_reducible refine ite_keeps (P := State.Keeps a) ?_ ?_
  · exact h1
  · with_reducible apply State.modPart_keeps
    with_reducible apply State.clearPart_keeps
    exact h1

theorem State.clearDevice_keeps {a : State} {z1} (h1 : State.Keeps a z1) :
    State.Keeps a (State.clearDevice z1) := by
  unfold State.clearDevice
  refine State.Keeps.upd (s := z1) rfl rfl rfl rfl ?_
  exact h1

theorem execResetDevice_keeps {a : State} {z1} (h1 : State.Keeps a z1) :
    OnNext (State.Keeps a) (execResetDevice z1) := by
  unfold execResetDevice
  extract_lets +onlyGivenNames x1
  have h2 : State.Keeps a x1 := by
    unfold x1
    with_reducible apply State.clearDevice_keeps
    exact h1
  clear_value x1
  refine OnNext.next ?_
  with_reducible apply State.sched_keeps
  refine State.Keeps.upd (s := x1) rfl rfl rfl rfl ?_
  exact h2

theorem State.escalate_keeps {a : State} {z1 z2 z3 z4} (h1 : State.Keeps a z1) :
    State.Keeps a (State.escalate z1 z2 z3 z4) := by
  unfold State.escalate
  split
  · rename_i v1
    extract_lets +onlyGivenNames x2
    clear_value x2
    with_reducible apply State.sched_keeps
    exact h1
  · rename_i v3
    with_reducible apply State.sched_keeps
    exact h1
  · rename_i v4
    with_reducible apply State.sched_keeps
    exact h1
  · rename_i v5 v6 v7 v8
    with_reducible apply State.sched_keeps
    exact h1

theorem execResetEscalate_keeps {a : State} {z1} (h1 : State.Keeps a z1) :
    OnNext (State.Keeps a) (execResetEscalate z1) := by
  unfold execResetEscalate
  extract_lets +onlyGivenNames x1
  clear_value x1
  extract_lets +onlyGivenNames x2
  have h3 : State.Keeps a x2 := by
    unfold x2
    refine State.Keeps.upd (s := z1) rfl rfl rfl rfl ?_
    exact h1
  clear_value x2
  refine OnNext.next ?_
  with_reducible refine ite_keeps (P := State.Keeps a) ?_ ?_
  · exact h1
  · with_reducible apply State.escalate_keeps
    with_reducible apply State.postPf_keeps
    exact h3

theorem State.apFault_keeps {a : State} {z1 z2} (h1 : State.Keeps a z1) :
    State.Keeps a (State.apFault z1 z2) := by
  unfold State.apFault
  with_reducible apply State.modPart_keeps
  exact h1

theorem execHostApertureRead_keeps {a : State} {z1} (h1 : State.Keeps a z1) :
    OnNext (State.Keeps a) (execHostApertureRead z1) := by
  unfold execHostApertureRead
  extract_lets +onlyGivenNames x1
  clear_value x1
  extract_lets +onlyGivenNames x2
  have h4 : ∀ y3, State.Keeps a y3 → State.Keeps a (x2 y3) := by
    intro y3 h5
    unfold x2
    with_reducible apply State.toHost_keeps
    with_reducible apply State.apFault_keeps
    exact h5
  clear_value x2
  refine OnNext.next ?_
  split
  · rename_i v6 v7
    with_reducible apply h4
    exact h1
  · rename_i v8 v9 v10
    split
    · rename_i v11 v12 v13
      with_reducible apply State.badRead_keeps
      with_reducible apply h4
      exact h1
    · rename_i v14 v15
      with_reducible apply State.toHost_keeps
      exact h1

theorem execHostApertureWrite_keeps {a : State} {z1} (h1 : State.Keeps a z1) :
    OnNext (State.Keeps a) (execHostApertureWrite z1) := by
  unfold execHostApertureWrite
  extract_lets +onlyGivenNames x1
  clear_value x1
  refine OnNext.next ?_
  split
  · rename_i v2 v3
    with_reducible apply State.apFault_keeps
    exact h1
  · rename_i v4 v5 v6
    split
    · rename_i v7 v8 v9
      with_reducible apply State.badRead_keeps
      with_reducible apply State.apFault_keeps
      exact h1
    · rename_i v10 v11
      with_reducible apply State.copyPut_keeps
      exact h1

theorem State.command_keeps {a : State} {z1 z2 z3 z4 z5} (h1 : State.Keeps a z1) (h5 : ∀ y1, State.Keeps a y1 → State.Keeps a (z5 y1)) :
    State.Keeps a (State.command z1 z2 z3 z4 z5) := by
  unfold State.command
  with_reducible apply State.reply_keeps
  with_reducible refine ite_keeps (P := State.Keeps a) ?_ ?_
  · with_reducible apply h5
    exact h1
  · exact h1

theorem execCreate_keeps {a : State} {z1} (h1 : State.Keeps a z1) :
    OnNext (State.Keeps a) (execCreate z1) := by
  unfold execCreate
  extract_lets +onlyGivenNames x1
  clear_value x1
  refine OnNext.next ?_
  with_reducible apply State.command_keeps
  · exact h1
  · intro y2 h3
    refine State.Keeps.upd (s := y2) rfl rfl rfl rfl ?_
    exact h3

theorem execDestroy_keeps {a : State} {z1} (h1 : State.Keeps a z1) :
    OnNext (State.Keeps a) (execDestroy z1) := by
  unfold execDestroy
  extract_lets +onlyGivenNames x1
  clear_value x1
  refine OnNext.next ?_
  with_reducible apply State.command_keeps
  · exact h1
  · intro y2 h3
    extract_lets +onlyGivenNames x4
    have h5 : State.Keeps a x4 := by
      unfold x4
      with_reducible apply State.clearPart_keeps
      exact h3
    clear_value x4
    refine State.Keeps.upd (s := x4) rfl rfl rfl rfl ?_
    exact h5

theorem State.zeroRegion_keeps {a : State} {z1 z2} (h1 : State.Keeps a z1) :
    State.Keeps a (State.zeroRegion z1 z2) := by
  unfold State.zeroRegion
  with_reducible apply State.plaiterMark_keeps
  refine State.Keeps.set (s := z1) rfl rfl (fun w => ⟨(Mem.clear_wf w.1), w.2⟩) ?_
  exact h1

theorem State.mapPage_keeps {a : State} {z1 z2 z3 z4} (h1 : State.Keeps a z1) :
    State.Keeps a (State.mapPage z1 z2 z3 z4) := by
  unfold State.mapPage
  with_reducible apply State.modPart_keeps
  with_reducible apply State.clearSram_keeps
  exact h1

theorem State.mapPages_keeps {a : State} {z1 z2 z3} (h1 : State.Keeps a z1) :
    OnSome (State.Keeps a) (State.mapPages z1 z2 z3) := by
  induction z3 generalizing z1 z2 with
  | nil =>
    unfold State.mapPages
    refine OnSome.some ?_
    exact h1
  | cons y l ih =>
    unfold State.mapPages
    with_reducible refine ite_keeps (P := OnSome (State.Keeps a)) ?_ ?_
    · with_reducible apply ih
      with_reducible apply State.mapPage_keeps
      exact h1
    · exact OnSome.none

theorem State.grantKind_keeps {a : State} {z1 z2} (h1 : State.Keeps a z1) :
    OnSome (State.Keeps a) (State.grantKind z1 z2) := by
  unfold State.grantKind
  extract_lets +onlyGivenNames x1
  clear_value x1
  extract_lets +onlyGivenNames x2
  clear_value x2
  split
  · rename_i v3 v4
    refine OnSome.map (Q := State.Keeps a) ?_ ?_
    · with_reducible apply State.mapPages_keeps
      exact h1
    · intro y5 h6
      with_reducible apply State.kick_keeps
      exact h6
  · rename_i v7 v8
    with_reducible refine ite_keeps (P := OnSome (State.Keeps a)) ?_ ?_
    · refine OnSome.some ?_
      with_reducible apply State.modPart_keeps
      refine foldl_keeps ?_ ?_
      · exact h1
      · intro y9 y10 h11
        with_reducible apply State.zeroRegion_keeps
        exact h11
    · exact OnSome.none
  · rename_i v12 v13
    extract_lets +onlyGivenNames x14
    clear_value x14
    with_reducible refine ite_keeps (P := OnSome (State.Keeps a)) ?_ ?_
    · exact OnSome.none
    · refine OnSome.some ?_
      with_reducible apply State.modPart_keeps
      exact h1
  · rename_i v15 v16
    extract_lets +onlyGivenNames x17
    clear_value x17
    with_reducible refine ite_keeps (P := OnSome (State.Keeps a)) ?_ ?_
    · exact OnSome.none
    · refine OnSome.some ?_
      with_reducible apply State.modPart_keeps
      exact h1
  · rename_i v18 v19
    with_reducible refine ite_keeps (P := OnSome (State.Keeps a)) ?_ ?_
    · exact OnSome.none
    · refine OnSome.some ?_
      with_reducible apply State.setCsrF_keeps
      exact h1
  · rename_i v20 v21
    extract_lets +onlyGivenNames x22
    clear_value x22
    with_reducible refine ite_keeps (P := OnSome (State.Keeps a)) ?_ ?_
    · exact OnSome.none
    · refine OnSome.some ?_
      with_reducible apply State.modPart_keeps
      exact h1
  · rename_i v23 v24
    with_reducible refine ite_keeps (P := OnSome (State.Keeps a)) ?_ ?_
    · exact OnSome.none
    · refine OnSome.some ?_
      with_reducible apply State.modPart_keeps
      exact h1
  · rename_i v25 v26
    refine OnSome.some ?_
    with_reducible apply State.modPart_keeps
    exact h1
  · rename_i v27 v28 v29 v30 v31 v32 v33 v34 v35
    exact OnSome.none

theorem execGrant_keeps {a : State} {z1} (h1 : State.Keeps a z1) :
    OnNext (State.Keeps a) (execGrant z1) := by
  unfold execGrant
  extract_lets +onlyGivenNames x1
  clear_value x1
  refine OnNext.next ?_
  split
  · rename_i v2 v3 v4
    have h5 : State.Keeps a v3 := by
      refine OnSome.get ?_ v4
      with_reducible refine ite_keeps (P := OnSome (State.Keeps a)) ?_ ?_
      · with_reducible apply State.grantKind_keeps
        exact h1
      · exact OnSome.none
    with_reducible apply State.reply_keeps
    exact h5
  · rename_i v6 v7
    with_reducible apply State.reply_keeps
    exact h1

theorem State.reclaimKind_keeps {a : State} {z1 z2} (h1 : State.Keeps a z1) :
    OnSome (State.Keeps a) (State.reclaimKind z1 z2) := by
  unfold State.reclaimKind
  extract_lets +onlyGivenNames x1
  clear_value x1
  extract_lets +onlyGivenNames x2
  clear_value x2
  split
  · rename_i v3 v4
    with_reducible refine ite_keeps (P := OnSome (State.Keeps a)) ?_ ?_
    · refine OnSome.some ?_
      with_reducible apply State.askPre_keeps
      exact h1
    · exact OnSome.none
  · rename_i v5 v6
    with_reducible refine ite_keeps (P := OnSome (State.Keeps a)) ?_ ?_
    · refine OnSome.some ?_
      with_reducible apply State.modPart_keeps
      exact h1
    · exact OnSome.none
  · rename_i v7 v8
    with_reducible refine ite_keeps (P := OnSome (State.Keeps a)) ?_ ?_
    · refine OnSome.some ?_
      with_reducible apply State.modPart_keeps
      exact h1
    · exact OnSome.none
  · rename_i v9 v10
    extract_lets +onlyGivenNames x11
    have h12 : State.Keeps a x11 := by
      unfold x11
      refine foldl_keeps ?_ ?_
      · exact h1
      · intro y13 y14 h15
        with_reducible apply State.unmapSlot_keeps
        exact h15
    clear_value x11
    with_reducible refine ite_keeps (P := OnSome (State.Keeps a)) ?_ ?_
    · exact OnSome.none
    · refine OnSome.some ?_
      with_reducible apply State.modPart_keeps
      refine State.Keeps.upd (s := x11) rfl rfl rfl rfl ?_
      exact h12
  · rename_i v16 v17
    with_reducible refine ite_keeps (P := OnSome (State.Keeps a)) ?_ ?_
    · exact OnSome.none
    · refine OnSome.some ?_
      with_reducible apply State.setCsrF_keeps
      exact h1
  · rename_i v18 v19
    extract_lets +onlyGivenNames x20
    clear_value x20
    with_reducible refine ite_keeps (P := OnSome (State.Keeps a)) ?_ ?_
    · exact OnSome.none
    · refine OnSome.some ?_
      with_reducible apply State.modPart_keeps
      exact h1
  · rename_i v21 v22
    refine OnSome.some ?_
    with_reducible apply State.modPart_keeps
    exact h1
  · rename_i v23 v24 v25 v26 v27 v28 v29 v30
    exact OnSome.none

theorem execReclaim_keeps {a : State} {z1} (h1 : State.Keeps a z1) :
    OnNext (State.Keeps a) (execReclaim z1) := by
  unfold execReclaim
  extract_lets +onlyGivenNames x1
  clear_value x1
  refine OnNext.next ?_
  split
  · rename_i v2 v3 v4
    have h5 : State.Keeps a v3 := by
      refine OnSome.get ?_ v4
      with_reducible refine ite_keeps (P := OnSome (State.Keeps a)) ?_ ?_
      · with_reducible apply State.reclaimKind_keeps
        exact h1
      · exact OnSome.none
    with_reducible apply State.reply_keeps
    exact h5
  · rename_i v6 v7
    with_reducible apply State.reply_keeps
    exact h1

theorem execSetmin_keeps {a : State} {z1} (h1 : State.Keeps a z1) :
    OnNext (State.Keeps a) (execSetmin z1) := by
  unfold execSetmin
  extract_lets +onlyGivenNames x1
  clear_value x1
  extract_lets +onlyGivenNames x2
  clear_value x2
  extract_lets +onlyGivenNames x3
  clear_value x3
  extract_lets +onlyGivenNames x4
  clear_value x4
  extract_lets +onlyGivenNames x5
  clear_value x5
  refine OnNext.next ?_
  with_reducible apply State.command_keeps
  · exact h1
  · intro y6 h7
    with_reducible apply State.modPart_keeps
    exact h7

theorem State.requeue_keeps {a : State} {z1 z2} (h1 : State.Keeps a z1) :
    State.Keeps a (State.requeue z1 z2) := by
  unfold State.requeue
  refine foldl_keeps ?_ ?_
  · exact h1
  · intro y1 y2 h3
    split
    · rename_i v4 v5 v6
      with_reducible apply State.helmJoin_keeps
      exact h3
    · rename_i v7 v8
      exact h3

theorem State.afterPause_keeps {a : State} {z1 z2} (h1 : State.Keeps a z1) :
    State.Keeps a (State.afterPause z1 z2) := by
  unfold State.afterPause
  with_reducible apply State.kick_keeps
  with_reducible apply State.readmit_keeps
  with_reducible apply State.requeue_keeps
  with_reducible apply State.helmUnhalt_keeps
  exact h1

theorem execVfstateRunning_keeps {a : State} {z1} (h1 : State.Keeps a z1) :
    OnNext (State.Keeps a) (execVfstateRunning z1) := by
  unfold execVfstateRunning
  extract_lets +onlyGivenNames x1
  clear_value x1
  extract_lets +onlyGivenNames x2
  clear_value x2
  refine OnNext.next ?_
  with_reducible apply State.command_keeps
  · exact h1
  · intro y3 h4
    extract_lets +onlyGivenNames x5
    have h6 : State.Keeps a x5 := by
      unfold x5
      with_reducible apply State.sched_keeps
      with_reducible apply State.modPart_keeps
      exact h4
    clear_value x5
    extract_lets +onlyGivenNames x7
    have h8 : State.Keeps a x7 := by
      unfold x7
      with_reducible apply State.modPart_keeps
      exact h6
    clear_value x7
    extract_lets +onlyGivenNames x9
    have h10 : State.Keeps a x9 := by
      unfold x9
      refine foldl_keeps ?_ ?_
      · exact h8
      · intro y11 y12 h13
        with_reducible refine ite_keeps (P := State.Keeps a) ?_ ?_
        · with_reducible apply State.thaw_keeps
          exact h13
        · exact h13
    clear_value x9
    with_reducible refine ite_keeps (P := State.Keeps a) ?_ ?_
    · exact h6
    · with_reducible apply State.afterPause_keeps
      exact h10

theorem execVfstateDescheduled_keeps {a : State} {z1} (h1 : State.Keeps a z1) :
    OnNext (State.Keeps a) (execVfstateDescheduled z1) := by
  unfold execVfstateDescheduled
  extract_lets +onlyGivenNames x1
  clear_value x1
  refine OnNext.next ?_
  with_reducible apply State.command_keeps
  · exact h1
  · intro y2 h3
    with_reducible apply State.modPart_keeps
    exact h3

theorem execVfstatePaused_keeps {a : State} {z1} (h1 : State.Keeps a z1) :
    OnNext (State.Keeps a) (execVfstatePaused z1) := by
  unfold execVfstatePaused
  extract_lets +onlyGivenNames x1
  clear_value x1
  extract_lets +onlyGivenNames x2
  have h4 : ∀ y3, State.Keeps a y3 → State.Keeps a (x2 y3) := by
    intro y3 h5
    unfold x2
    with_reducible apply State.sched_keeps
    exact h5
  clear_value x2
  extract_lets +onlyGivenNames x6
  have h7 : State.Keeps a x6 := by
    unfold x6
    with_reducible apply State.modPart_keeps
    exact h1
  clear_value x6
  extract_lets +onlyGivenNames x8
  have h9 : State.Keeps a x8 := by
    unfold x8
    refine foldl_keeps ?_ ?_
    · exact h7
    · intro y10 y11 h12
      with_reducible apply State.withdrawLaunch_keeps
      with_reducible apply State.saveSlot_keeps
      exact h12
  clear_value x8
  extract_lets +onlyGivenNames x13
  have h14 : State.Keeps a x13 := by
    unfold x13
    with_reducible apply State.helmHalt_keeps
    exact h9
  clear_value x13
  extract_lets +onlyGivenNames x15
  clear_value x15
  refine OnNext.next ?_
  with_reducible refine ite_keeps (P := State.Keeps a) ?_ ?_
  · with_reducible refine ite_keeps (P := State.Keeps a) ?_ ?_
    · exact h1
    · with_reducible refine ite_keeps (P := State.Keeps a) ?_ ?_
      · with_reducible apply State.reply_keeps
        exact h1
      · with_reducible apply h4
        exact h1
  · with_reducible refine ite_keeps (P := State.Keeps a) ?_ ?_
    · with_reducible refine ite_keeps (P := State.Keeps a) ?_ ?_
      · exact h1
      · with_reducible apply State.afterPause_keeps
        with_reducible apply State.sched_keeps
        exact h1
    · with_reducible refine ite_keeps (P := State.Keeps a) ?_ ?_
      · with_reducible apply State.reply_keeps
        exact h1
      · with_reducible apply h4
        refine foldl_keeps ?_ ?_
        · exact h14
        · intro y16 y17 h18
          with_reducible apply State.askSave_keeps
          exact h18

theorem execWincreate_keeps {a : State} {z1} (h1 : State.Keeps a z1) :
    OnNext (State.Keeps a) (execWincreate z1) := by
  unfold execWincreate
  extract_lets +onlyGivenNames x1
  clear_value x1
  extract_lets +onlyGivenNames x2
  clear_value x2
  extract_lets +onlyGivenNames x3
  clear_value x3
  refine OnNext.next ?_
  with_reducible apply State.command_keeps
  · exact h1
  · intro y4 h5
    extract_lets +onlyGivenNames x6
    have h7 : State.Keeps a x6 := by
      unfold x6
      refine foldl_keeps ?_ ?_
      · exact h5
      · intro y8 y9 h10
        with_reducible apply State.zeroRegion_keeps
        exact h10
    clear_value x6
    refine State.Keeps.upd (s := x6) rfl rfl rfl rfl ?_
    exact h7

theorem execWinattach_keeps {a : State} {z1} (h1 : State.Keeps a z1) :
    OnNext (State.Keeps a) (execWinattach z1) := by
  unfold execWinattach
  extract_lets +onlyGivenNames x1
  clear_value x1
  extract_lets +onlyGivenNames x2
  clear_value x2
  refine OnNext.next ?_
  with_reducible apply State.command_keeps
  · exact h1
  · intro y3 h4
    with_reducible apply State.modPart_keeps
    refine State.Keeps.upd (s := y3) rfl rfl rfl rfl ?_
    exact h4

theorem execWindetach_keeps {a : State} {z1} (h1 : State.Keeps a z1) :
    OnNext (State.Keeps a) (execWindetach z1) := by
  unfold execWindetach
  extract_lets +onlyGivenNames x1
  clear_value x1
  extract_lets +onlyGivenNames x2
  have h4 : ∀ y3, State.Keeps a y3 → State.Keeps a (x2 y3) := by
    intro y3 h5
    unfold x2
    with_reducible apply State.reply_keeps
    refine State.Keeps.upd (s := y3) rfl rfl rfl rfl ?_
    exact h5
  clear_value x2
  extract_lets +onlyGivenNames x6
  have h8 : ∀ y7, State.Keeps a y7 → State.Keeps a (x6 y7) := by
    intro y7 h9
    unfold x6
    with_reducible refine ite_keeps (P := State.Keeps a) ?_ ?_
    · with_reducible apply State.sched_keeps
      exact h9
    · with_reducible apply h4
      exact h9
  clear_value x6
  refine OnNext.next ?_
  with_reducible refine ite_keeps (P := State.Keeps a) ?_ ?_
  · with_reducible apply h8
    exact h1
  · with_reducible refine ite_keeps (P := State.Keeps a) ?_ ?_
    · with_reducible apply State.reply_keeps
      exact h1
    · with_reducible apply h8
      with_reducible apply State.modPart_keeps
      exact h1

end Sys2Proof.Machine
end

