-- ==== Sys2Proof/Laws/Keep6.lean ====
section
/-! SUPPORT. Sys2Proof/Laws/Keep6.lean: for each operation of the model, that it keeps the clock and the canonical forms of memory
(part 6, in the order of the definitions). -/

namespace Sys2Proof.Machine

theorem execWindestroy_keeps {a : State} {z1} (h1 : State.Keeps a z1) :
    OnNext (State.Keeps a) (execWindestroy z1) := by
  unfold execWindestroy
  extract_lets +onlyGivenNames x1
  clear_value x1
  refine OnNext.next ?_
  with_reducible apply State.command_keeps
  · exact h1
  · intro y2 h3
    refine State.Keeps.upd (s := y2) rfl rfl rfl rfl ?_
    exact h3

theorem execObjreset_keeps {a : State} {z1} (h1 : State.Keeps a z1) :
    OnNext (State.Keeps a) (execObjreset z1) := by
  unfold execObjreset
  extract_lets +onlyGivenNames x1
  clear_value x1
  extract_lets +onlyGivenNames x2
  clear_value x2
  refine OnNext.next ?_
  with_reducible apply State.command_keeps
  · exact h1
  · intro y3 h4
    refine foldl_keeps ?_ ?_
    · exact h4
    · intro y5 y6 h7
      extract_lets +onlyGivenNames x8
      have h9 : State.Keeps a x8 := by
        unfold x8
        with_reducible apply State.dropWft_keeps
        with_reducible apply State.modPart_keeps
        exact h7
      clear_value x8
      with_reducible refine ite_keeps (P := State.Keeps a) ?_ ?_
      · refine OnSome.getD ?_ ?_
        · with_reducible apply State.devWrite_keeps
          exact h9
        · exact h9
      · exact h9

theorem execInstctlResume_keeps {a : State} {z1} (h1 : State.Keeps a z1) :
    OnNext (State.Keeps a) (execInstctlResume z1) := by
  unfold execInstctlResume
  extract_lets +onlyGivenNames x1
  clear_value x1
  refine OnNext.next ?_
  with_reducible apply State.command_keeps
  · exact h1
  · intro y2 h3
    with_reducible apply State.sched_keeps
    exact h3

theorem execInstctlKill_keeps {a : State} {z1} (h1 : State.Keeps a z1) :
    OnNext (State.Keeps a) (execInstctlKill z1) := by
  unfold execInstctlKill
  extract_lets +onlyGivenNames x1
  clear_value x1
  refine OnNext.next ?_
  with_reducible apply State.command_keeps
  · exact h1
  · intro y2 h3
    with_reducible apply State.sched_keeps
    exact h3

theorem execMigsave_keeps {a : State} {z1} (h1 : State.Keeps a z1) :
    OnNext (State.Keeps a) (execMigsave z1) := by
  unfold execMigsave
  extract_lets +onlyGivenNames x1
  clear_value x1
  extract_lets +onlyGivenNames x2
  clear_value x2
  extract_lets +onlyGivenNames x3
  clear_value x3
  refine OnNext.next ?_
  with_reducible apply State.command_keeps
  · exact h1
  · intro y4 h5
    extract_lets +onlyGivenNames x6
    clear_value x6
    extract_lets +onlyGivenNames x7
    clear_value x7
    extract_lets +onlyGivenNames x8
    clear_value x8
    extract_lets +onlyGivenNames x9
    clear_value x9
    extract_lets +onlyGivenNames x10
    have h11 : State.Keeps a x10 := by
      unfold x10
      with_reducible apply State.memWrite_keeps
      exact h5
    clear_value x10
    refine State.Keeps.upd (s := x10) rfl rfl rfl rfl ?_
    exact h11

theorem State.loadMig_keeps {a : State} {z1 z2 z3 z4} (h1 : State.Keeps a z1) :
    OnSome (State.Keeps a) (State.loadMig z1 z2 z3 z4) := by
  unfold State.loadMig
  extract_lets +onlyGivenNames x1
  clear_value x1
  with_reducible refine ite_keeps (P := OnSome (State.Keeps a)) OnSome.none ?_
  extract_lets +onlyGivenNames put
  have hp : z1.sound → Mem.wf put = true := by
    intro w
    unfold put
    refine Mem.foldl_wf (fun m x h => ?_) (Mem.foldl_wf (fun _ _ h => Mem.clear_wf h) w.1)
    split
    · exact Mem.set_wf h
    · exact h
  clear_value put
  generalize moveAddr z4 z3.part.root = r
  rcases r with _ | root
  · exact OnSome.none
  · dsimp only
    rcases hm : movePfns x1.tableKey z4 4 [root] put with _ | mem
    · exact OnSome.none
    · dsimp only
      refine OnSome.some ?_
      with_reducible apply State.plaiterMark_keeps
      with_reducible apply State.modPart_keeps
      exact State.Keeps.set (s := z1) rfl rfl (fun w => ⟨movePfns_wf (hp w) hm, Fe.foldl_ok (fun _ _ h => Fe.set_ok h) w.2⟩) h1

theorem execMigload_keeps {a : State} {z1} (h1 : State.Keeps a z1) :
    OnNext (State.Keeps a) (execMigload z1) := by
  unfold execMigload
  extract_lets +onlyGivenNames x1
  clear_value x1
  extract_lets +onlyGivenNames x2
  clear_value x2
  extract_lets +onlyGivenNames x3
  have h4 : OnSome (State.Keeps a) x3 := by
    unfold x3
    split
    · rename_i v5 v6 v7
      with_reducible refine ite_keeps (P := OnSome (State.Keeps a)) ?_ ?_
      · with_reducible apply State.loadMig_keeps
        exact h1
      · exact OnSome.none
    · rename_i v8 v9
      exact OnSome.none
  clear_value x3
  refine OnNext.next ?_
  split
  · rename_i v10 v11
    with_reducible apply State.reply_keeps
    exact OnSome.get h4 rfl
  · rename_i v12
    with_reducible apply State.reply_keeps
    exact h1

theorem execPowerOn_keeps {a : State} {z1} (h1 : State.Keeps a z1) :
    OnNext (State.Keeps a) (execPowerOn z1) := by
  unfold execPowerOn
  extract_lets +onlyGivenNames x1
  clear_value x1
  extract_lets +onlyGivenNames x2
  clear_value x2
  extract_lets +onlyGivenNames x3
  have h4 : State.Keeps a x3 := by
    unfold x3
    with_reducible apply State.clearDevice_keeps
    exact h1
  clear_value x3
  refine OnNext.next ?_
  split
  · rename_i v5 v6 v7
    extract_lets +onlyGivenNames x8
    have h9 : State.Keeps a x8 := by
      unfold x8
      refine State.Keeps.upd (s := x3) rfl rfl rfl rfl ?_
      exact h4
    clear_value x8
    with_reducible refine ite_keeps (P := State.Keeps a) ?_ ?_
    · with_reducible apply State.reply_keeps
      exact h9
    · exact h9
  · rename_i v10 v11
    extract_lets +onlyGivenNames x12
    have h13 : State.Keeps a x12 := by
      unfold x12
      with_reducible apply State.sched_keeps
      refine State.Keeps.set (s := x3) rfl rfl (fun w => ⟨(Mem.filter_wf (Mem.clear_wf w.1)), rfl⟩) ?_
      exact h4
    clear_value x12
    extract_lets +onlyGivenNames x14
    have h15 : State.Keeps a x14 := by
      unfold x14
      with_reducible refine ite_keeps (P := State.Keeps a) ?_ ?_
      · with_reducible apply State.sched_keeps
        exact h13
      · exact h13
    clear_value x14
    with_reducible refine ite_keeps (P := State.Keeps a) ?_ ?_
    · with_reducible apply State.reply_keeps
      exact h15
    · exact h15

theorem State.scaleMinima_keeps {a : State} {z1 z2 z3} (h1 : State.Keeps a z1) :
    State.Keeps a (State.scaleMinima z1 z2 z3) := by
  unfold State.scaleMinima
  refine foldl_keeps ?_ ?_
  · exact h1
  · intro y1 y2 h3
    extract_lets +onlyGivenNames x4
    clear_value x4
    extract_lets +onlyGivenNames x5
    clear_value x5
    extract_lets +onlyGivenNames x6
    clear_value x6
    with_reducible refine ite_keeps (P := State.Keeps a) ?_ ?_
    · exact h3
    · with_reducible apply State.postPf_keeps
      with_reducible apply State.postVf_keeps
      with_reducible apply State.modPart_keeps
      exact h3

theorem State.reduceBandwidth_keeps {a : State} {z1 z2} (h1 : State.Keeps a z1) :
    State.Keeps a (State.reduceBandwidth z1 z2) := by
  unfold State.reduceBandwidth
  extract_lets +onlyGivenNames x1
  clear_value x1
  extract_lets +onlyGivenNames x2
  clear_value x2
  with_reducible refine ite_keeps (P := State.Keeps a) ?_ ?_
  · exact h1
  · with_reducible apply State.scaleMinima_keeps
    exact h1

theorem State.reducePages_keeps {a : State} {z1 z2} (h1 : State.Keeps a z1) :
    State.Keeps a (State.reducePages z1 z2) := by
  unfold State.reducePages
  extract_lets +onlyGivenNames x1
  clear_value x1
  extract_lets +onlyGivenNames x2
  clear_value x2
  extract_lets +onlyGivenNames x3
  have h4 : State.Keeps a x3 := by
    unfold x3
    with_reducible apply State.scaleMinima_keeps
    exact h1
  clear_value x3
  with_reducible refine ite_keeps (P := State.Keeps a) ?_ ?_
  · exact h1
  · refine foldl_keeps ?_ ?_
    · exact h4
    · intro y5 y6 h7
      extract_lets +onlyGivenNames x8
      clear_value x8
      extract_lets +onlyGivenNames x9
      clear_value x9
      with_reducible refine ite_keeps (P := State.Keeps a) ?_ ?_
      · exact h7
      · with_reducible apply State.askPre_keeps
        exact h7

theorem State.remapPage_keeps {a : State} {z1 z2 z3} (h1 : State.Keeps a z1) :
    State.Keeps a (State.remapPage z1 z2 z3) := by
  unfold State.remapPage
  split
  · rename_i v1 v2 v3
    with_reducible apply State.mapPage_keeps
    exact h1
  · rename_i v4 v5
    exact h1

theorem State.remapLost_keeps {a : State} {z1 z2} (h1 : State.Keeps a z1) :
    State.Keeps a (State.remapLost z1 z2) := by
  induction z2 generalizing z1 with
  | nil =>
    unfold State.remapLost
    exact h1
  | cons y l ih =>
    unfold State.remapLost
    extract_lets +onlyGivenNames x1
    clear_value x1
    extract_lets +onlyGivenNames x2
    clear_value x2
    with_reducible apply ih
    with_reducible refine ite_keeps (P := State.Keeps a) ?_ ?_
    · with_reducible apply State.kick_keeps
      with_reducible apply State.remapPage_keeps
      exact h1
    · exact h1

theorem execChannelSpareSwitch_keeps {a : State} {z1} (h1 : State.Keeps a z1) :
    OnNext (State.Keeps a) (execChannelSpareSwitch z1) := by
  unfold execChannelSpareSwitch
  extract_lets +onlyGivenNames x1
  clear_value x1
  refine OnNext.next ?_
  with_reducible refine ite_keeps (P := State.Keeps a) ?_ ?_
  · exact h1
  · split
    · rename_i v2 v3
      exact h1
    · rename_i v4 v5 v6
      with_reducible refine ite_keeps (P := State.Keeps a) ?_ ?_
      · exact h1
      · split
        · rename_i v7 v8 v9
          refine State.Keeps.upd (s := z1) rfl rfl rfl rfl ?_
          exact h1
        · rename_i v10 v11
          with_reducible apply State.reduceBandwidth_keeps
          refine State.Keeps.upd (s := z1) rfl rfl rfl rfl ?_
          exact h1

theorem State.moveCluster_keeps {a : State} {z1 z2 z3 z4} (h1 : State.Keeps a z1) :
    State.Keeps a (State.moveCluster z1 z2 z3 z4) :=
  State.Keeps.set (s := z1) rfl rfl (fun w => ⟨Mem.foldl_wf (fun _ _ h => Mem.set_wf h) (Mem.clear_wf (Mem.clear_wf w.1)),
    Fe.foldl_ok (fun _ _ h => Fe.set_ok h) (Fe.filter_ok w.2)⟩) h1

theorem State.unholdPre_keeps {a : State} {z1 z2} (h1 : State.Keeps a z1) :
    State.Keeps a (State.unholdPre z1 z2) := by
  unfold State.unholdPre
  refine foldl_keeps ?_ ?_
  · exact h1
  · intro y1 y2 h3
    with_reducible refine ite_keeps (P := State.Keeps a) ?_ ?_
    · with_reducible apply State.sched_keeps
      with_reducible apply State.modPart_keeps
      exact h3
    · exact h3

theorem execClusterRetire_keeps {a : State} {z1} (h1 : State.Keeps a z1) :
    OnNext (State.Keeps a) (execClusterRetire z1) := by
  unfold execClusterRetire
  extract_lets +onlyGivenNames x1
  clear_value x1
  extract_lets +onlyGivenNames x2
  have h5 : ∀ y3 y4, State.Keeps a y3 → State.Keeps a (x2 y3 y4) := by
    intro y3 y4 h6
    unfold x2
    with_reducible apply State.sched_keeps
    exact h6
  clear_value x2
  extract_lets +onlyGivenNames x7
  clear_value x7
  extract_lets +onlyGivenNames x8
  have h9 : State.Keeps a x8 := by
    unfold x8
    refine State.Keeps.upd (s := z1) rfl rfl rfl rfl ?_
    exact h1
  clear_value x8
  refine OnNext.next ?_
  with_reducible refine ite_keeps (P := State.Keeps a) ?_ ?_
  · with_reducible refine ite_keeps (P := State.Keeps a) ?_ ?_
    · with_reducible apply h5
      exact h1
    · with_reducible apply State.remapLost_keeps
      exact h1
  · with_reducible refine ite_keeps (P := State.Keeps a) ?_ ?_
    · exact h1
    · with_reducible refine ite_keeps (P := State.Keeps a) ?_ ?_
      · with_reducible apply h5
        refine foldl_keeps ?_ ?_
        · exact h9
        · intro y10 y11 h12
          extract_lets +onlyGivenNames x13
          clear_value x13
          with_reducible apply State.modPart_keeps
          with_reducible apply State.askPre_keeps
          exact h12
      · with_reducible refine ite_keeps (P := State.Keeps a) ?_ ?_
        · with_reducible apply h5
          exact h1
        · split
          · rename_i v14 v15 v16
            extract_lets +onlyGivenNames x17
            have h18 : State.Keeps a x17 := by
              unfold x17
              with_reducible apply State.moveCluster_keeps
              exact h1
            clear_value x17
            with_reducible apply State.unholdPre_keeps
            refine State.Keeps.upd (s := x17) rfl rfl rfl rfl ?_
            exact h18
          · rename_i v19 v20
            extract_lets +onlyGivenNames x21
            have h22 : State.Keeps a x21 := by
              unfold x21
              refine State.Keeps.upd (s := z1) rfl rfl rfl rfl ?_
              exact h1
            clear_value x21
            extract_lets +onlyGivenNames x23
            have h24 : State.Keeps a x23 := by
              unfold x23
              with_reducible apply State.reducePages_keeps
              with_reducible apply State.unholdPre_keeps
              exact h22
            clear_value x23
            with_reducible apply h5
            exact h24

theorem execPowerRefill_keeps {a : State} {z1} (h1 : State.Keeps a z1) :
    OnNext (State.Keeps a) (execPowerRefill z1) := by
  unfold execPowerRefill
  extract_lets +onlyGivenNames x1
  clear_value x1
  refine OnNext.next ?_
  with_reducible refine ite_keeps (P := State.Keeps a) ?_ ?_
  · exact h1
  · with_reducible apply State.sched_keeps
    refine State.Keeps.upd (s := z1) rfl rfl rfl rfl ?_
    exact h1

theorem execModuleLimit_keeps {a : State} {z1} (h1 : State.Keeps a z1) :
    OnNext (State.Keeps a) (execModuleLimit z1) := by
  unfold execModuleLimit
  extract_lets +onlyGivenNames x1
  clear_value x1
  refine OnNext.next ?_
  with_reducible apply State.command_keeps
  · exact h1
  · intro y2 h3
    refine State.Keeps.upd (s := y2) rfl rfl rfl rfl ?_
    exact h3

theorem execThermalLimit_keeps {a : State} {z1} (h1 : State.Keeps a z1) :
    OnNext (State.Keeps a) (execThermalLimit z1) := by
  unfold execThermalLimit
  refine OnNext.next ?_
  with_reducible refine ite_keeps (P := State.Keeps a) ?_ ?_
  · refine State.Keeps.upd (s := z1) rfl rfl rfl rfl ?_
    exact h1
  · with_reducible refine ite_keeps (P := State.Keeps a) ?_ ?_
    · exact h1
    · with_reducible apply State.sched_keeps
      refine State.Keeps.upd (s := z1) rfl rfl rfl rfl ?_
      exact h1

theorem execThermalStep_keeps {a : State} {z1} (h1 : State.Keeps a z1) :
    OnNext (State.Keeps a) (execThermalStep z1) := by
  unfold execThermalStep
  extract_lets +onlyGivenNames x1
  clear_value x1
  refine OnNext.next ?_
  with_reducible refine ite_keeps (P := State.Keeps a) ?_ ?_
  · exact h1
  · with_reducible apply State.sched_keeps
    refine State.Keeps.upd (s := z1) rfl rfl rfl rfl ?_
    exact h1

theorem State.powerOff_keeps {a : State} {z1} (h1 : State.Keeps a z1) :
    State.Keeps a (State.powerOff z1) := by
  have h2 : State.Keeps a z1.clearDevice := State.clearDevice_keeps h1
  refine ⟨?_, ?_, fun w => ⟨Mem.filter_wf (h1.2.2 w).1, rfl⟩⟩
  · exact h2.1
  · exact h2.2.1

theorem execThermalShutdown_keeps {a : State} {z1} (h1 : State.Keeps a z1) :
    OnNext (State.Keeps a) (execThermalShutdown z1) := by
  unfold execThermalShutdown
  refine OnNext.next ?_
  with_reducible apply State.powerOff_keeps
  exact h1

theorem execPowerLoss_keeps {a : State} {z1} (h1 : State.Keeps a z1) :
    OnNext (State.Keeps a) (execPowerLoss z1) := by
  unfold execPowerLoss
  refine OnNext.next ?_
  with_reducible apply State.powerOff_keeps
  exact h1

theorem execBridgeLoss_keeps {a : State} {z1} (h1 : State.Keeps a z1) :
    OnNext (State.Keeps a) (execBridgeLoss z1) := by
  unfold execBridgeLoss
  refine OnNext.next ?_
  with_reducible refine ite_keeps (P := State.Keeps a) ?_ ?_
  · exact h1
  · refine State.Keeps.upd (s := z1) rfl rfl rfl rfl ?_
    exact h1

theorem State.fop_keeps {a : State} {z1 z2 z3 z4 z5 z6} (h1 : State.Keeps a z1) :
    OnNext (State.Keeps a) (State.fop z1 z2 z3 z4 z5 z6) := by
  unfold State.fop
  refine OnNext.next ?_
  with_reducible apply State.one_keeps
  exact h1

theorem execFadd_keeps {a : State} {z1 z2 z3 z4} (h4 : State.Keeps a z4) :
    OnNext (State.Keeps a) (execFadd z1 z2 z3 z4) := by
  unfold execFadd
  with_reducible apply State.fop_keeps
  exact h4

theorem execFsub_keeps {a : State} {z1 z2 z3 z4} (h4 : State.Keeps a z4) :
    OnNext (State.Keeps a) (execFsub z1 z2 z3 z4) := by
  unfold execFsub
  with_reducible apply State.fop_keeps
  exact h4

theorem execFmul_keeps {a : State} {z1 z2 z3 z4} (h4 : State.Keeps a z4) :
    OnNext (State.Keeps a) (execFmul z1 z2 z3 z4) := by
  unfold execFmul
  with_reducible apply State.fop_keeps
  exact h4

theorem execFmin_keeps {a : State} {z1 z2 z3 z4} (h4 : State.Keeps a z4) :
    OnNext (State.Keeps a) (execFmin z1 z2 z3 z4) := by
  unfold execFmin
  with_reducible apply State.fop_keeps
  exact h4

theorem execFmax_keeps {a : State} {z1 z2 z3 z4} (h4 : State.Keeps a z4) :
    OnNext (State.Keeps a) (execFmax z1 z2 z3 z4) := by
  unfold execFmax
  with_reducible apply State.fop_keeps
  exact h4

theorem execFabs_keeps {a : State} {z1 z2 z3 z4} (h4 : State.Keeps a z4) :
    OnNext (State.Keeps a) (execFabs z1 z2 z3 z4) := by
  unfold execFabs
  with_reducible apply State.fop_keeps
  exact h4

theorem execFneg_keeps {a : State} {z1 z2 z3 z4} (h4 : State.Keeps a z4) :
    OnNext (State.Keeps a) (execFneg z1 z2 z3 z4) := by
  unfold execFneg
  with_reducible apply State.fop_keeps
  exact h4

theorem execFcopys_keeps {a : State} {z1 z2 z3 z4} (h4 : State.Keeps a z4) :
    OnNext (State.Keeps a) (execFcopys z1 z2 z3 z4) := by
  unfold execFcopys
  with_reducible apply State.fop_keeps
  exact h4

theorem execFma_keeps {a : State} {z1 z2 z3 z4} (h4 : State.Keeps a z4) :
    OnNext (State.Keeps a) (execFma z1 z2 z3 z4) := by
  unfold execFma
  with_reducible apply State.fop_keeps
  exact h4

theorem execFms_keeps {a : State} {z1 z2 z3 z4} (h4 : State.Keeps a z4) :
    OnNext (State.Keeps a) (execFms z1 z2 z3 z4) := by
  unfold execFms
  with_reducible apply State.fop_keeps
  exact h4

theorem execFnma_keeps {a : State} {z1 z2 z3 z4} (h4 : State.Keeps a z4) :
    OnNext (State.Keeps a) (execFnma z1 z2 z3 z4) := by
  unfold execFnma
  with_reducible apply State.fop_keeps
  exact h4

theorem execFnms_keeps {a : State} {z1 z2 z3 z4} (h4 : State.Keeps a z4) :
    OnNext (State.Keeps a) (execFnms z1 z2 z3 z4) := by
  unfold execFnms
  with_reducible apply State.fop_keeps
  exact h4

theorem execFdiv_keeps {a : State} {z1 z2 z3 z4} (h4 : State.Keeps a z4) :
    OnNext (State.Keeps a) (execFdiv z1 z2 z3 z4) := by
  unfold execFdiv
  with_reducible apply State.fop_keeps
  exact h4

theorem execFsqrt_keeps {a : State} {z1 z2 z3 z4} (h4 : State.Keeps a z4) :
    OnNext (State.Keeps a) (execFsqrt z1 z2 z3 z4) := by
  unfold execFsqrt
  with_reducible apply State.fop_keeps
  exact h4

theorem execFrcpe_keeps {a : State} {z1 z2 z3 z4} (h4 : State.Keeps a z4) :
    OnNext (State.Keeps a) (execFrcpe z1 z2 z3 z4) := by
  unfold execFrcpe
  with_reducible apply State.fop_keeps
  exact h4

theorem execFrsqe_keeps {a : State} {z1 z2 z3 z4} (h4 : State.Keeps a z4) :
    OnNext (State.Keeps a) (execFrsqe z1 z2 z3 z4) := by
  unfold execFrsqe
  with_reducible apply State.fop_keeps
  exact h4

theorem State.ftest_keeps {a : State} {z1 z2 z3 z4 z5} (h1 : State.Keeps a z1) :
    OnNext (State.Keeps a) (State.ftest z1 z2 z3 z4 z5) := by
  unfold State.ftest
  refine OnNext.next ?_
  with_reducible apply State.one_keeps
  exact h1

theorem execFteq_keeps {a : State} {z1 z2 z3 z4} (h4 : State.Keeps a z4) :
    OnNext (State.Keeps a) (execFteq z1 z2 z3 z4) := by
  unfold execFteq
  with_reducible apply State.ftest_keeps
  exact h4

theorem execFtlt_keeps {a : State} {z1 z2 z3 z4} (h4 : State.Keeps a z4) :
    OnNext (State.Keeps a) (execFtlt z1 z2 z3 z4) := by
  unfold execFtlt
  with_reducible apply State.ftest_keeps
  exact h4

theorem execFtle_keeps {a : State} {z1 z2 z3 z4} (h4 : State.Keeps a z4) :
    OnNext (State.Keeps a) (execFtle z1 z2 z3 z4) := by
  unfold execFtle
  with_reducible apply State.ftest_keeps
  exact h4

theorem execFtun_keeps {a : State} {z1 z2 z3 z4} (h4 : State.Keeps a z4) :
    OnNext (State.Keeps a) (execFtun z1 z2 z3 z4) := by
  unfold execFtun
  with_reducible apply State.ftest_keeps
  exact h4

theorem execFclass_keeps {a : State} {z1 z2 z3 z4} (h4 : State.Keeps a z4) :
    OnNext (State.Keeps a) (execFclass z1 z2 z3 z4) := by
  unfold execFclass
  refine OnNext.next ?_
  with_reducible apply State.one_keeps
  exact h4

theorem execFcvt_keeps {a : State} {z1 z2 z3 z4 z5} (h5 : State.Keeps a z5) :
    OnNext (State.Keeps a) (execFcvt z1 z2 z3 z4 z5) := by
  unfold execFcvt
  with_reducible apply State.fop_keeps
  exact h5

theorem execFcvts_keeps {a : State} {z1 z2 z3 z4 z5} (h5 : State.Keeps a z5) :
    OnNext (State.Keeps a) (execFcvts z1 z2 z3 z4 z5) := by
  unfold execFcvts
  extract_lets +onlyGivenNames x1
  clear_value x1
  with_reducible apply State.fop_keeps
  exact h5

theorem State.modCnv_keeps {a : State} {z1 z2 z3 z4 z5} (h1 : State.Keeps a z1) :
    State.Keeps a (State.modCnv z1 z2 z3 z4 z5) := by
  unfold State.modCnv
  with_reducible apply State.modPage_keeps
  exact h1

theorem execCnvImageLoad_keeps {a : State} {z1} (h1 : State.Keeps a z1) :
    OnNext (State.Keeps a) (execCnvImageLoad z1) := by
  unfold execCnvImageLoad
  extract_lets +onlyGivenNames x1
  clear_value x1
  extract_lets +onlyGivenNames x2
  clear_value x2
  extract_lets +onlyGivenNames x3
  clear_value x3
  extract_lets +onlyGivenNames x4
  clear_value x4
  extract_lets +onlyGivenNames x5
  clear_value x5
  extract_lets +onlyGivenNames x6
  clear_value x6
  extract_lets +onlyGivenNames x7
  clear_value x7
  extract_lets +onlyGivenNames x8
  clear_value x8
  extract_lets +onlyGivenNames x9
  clear_value x9
  extract_lets +onlyGivenNames x10
  clear_value x10
  refine OnNext.next ?_
  with_reducible refine ite_keeps (P := State.Keeps a) ?_ ?_
  · exact h1
  · with_reducible refine ite_keeps (P := State.Keeps a) ?_ ?_
    · with_reducible apply State.modCnv_keeps
      exact h1
    · with_reducible apply State.sched_keeps
      with_reducible apply State.modCnv_keeps
      exact h1

theorem execCnvLoadDone_keeps {a : State} {z1} (h1 : State.Keeps a z1) :
    OnNext (State.Keeps a) (execCnvLoadDone z1) := by
  unfold execCnvLoadDone
  extract_lets +onlyGivenNames x1
  clear_value x1
  extract_lets +onlyGivenNames x2
  clear_value x2
  extract_lets +onlyGivenNames x3
  clear_value x3
  extract_lets +onlyGivenNames x4
  clear_value x4
  extract_lets +onlyGivenNames x5
  clear_value x5
  extract_lets +onlyGivenNames x6
  clear_value x6
  refine OnNext.next ?_
  with_reducible refine ite_keeps (P := State.Keeps a) ?_ ?_
  · exact h1
  · refine foldl_keeps ?_ ?_
    · with_reducible apply State.modCnv_keeps
      exact h1
    · intro y7 y8 h9
      with_reducible apply State.sched_keeps
      exact h9

theorem State.convertAt_keeps {a : State} {z1 z2 z3 z4 z5 z6 z7 z8 z9 z10 z11 z12 z13 z14} (h1 : State.Keeps a z1) :
    OnFst (State.Keeps a) (State.convertAt z1 z2 z3 z4 z5 z6 z7 z8 z9 z10 z11 z12 z13 z14) := by
  unfold State.convertAt
  extract_lets +onlyGivenNames x1
  have h2 : State.Keeps a x1 := by
    unfold x1
    with_reducible refine ite_keeps (P := State.Keeps a) ?_ ?_
    · with_reducible apply State.modPage_keeps
      exact h1
    · exact h1
  clear_value x1
  extract_lets +onlyGivenNames x3
  clear_value x3
  extract_lets +onlyGivenNames x4
  clear_value x4
  extract_lets +onlyGivenNames x5
  have h6 : State.Keeps a x5 := by
    unfold x5
    with_reducible refine ite_keeps (P := State.Keeps a) ?_ ?_
    · with_reducible apply State.modCnv_keeps
      exact h2
    · exact h2
  clear_value x5
  split
  · rename_i v7 v8
    refine OnFst.mk ?_
    exact h6
  · rename_i v9
    extract_lets +onlyGivenNames x10
    have h11 : OnFst (State.Keeps a) x10 := by
      unfold x10
      with_reducible apply State.newOrigin_keeps
      exact h6
    clear_value x10
    with_reducible refine ite_keeps (P := OnFst (State.Keeps a)) ?_ ?_
    · refine OnFst.mk ?_
      exact h6
    · refine OnFst.mk ?_
      exact h11

theorem State.cnvTake_keeps {a : State} {z1 z2 z3 z4} (h1 : State.Keeps a z1) :
    State.Keeps a (State.cnvTake z1 z2 z3 z4) := by
  unfold State.cnvTake
  split
  · rename_i v1 v2
    exact h1
  · rename_i v3 v4 v5
    extract_lets +onlyGivenNames x6
    clear_value x6
    extract_lets +onlyGivenNames x7
    clear_value x7
    extract_lets +onlyGivenNames x8
    clear_value x8
    extract_lets +onlyGivenNames x9
    clear_value x9
    extract_lets +onlyGivenNames x10
    have h11 : OnFst (State.Keeps a) x10 := by
      unfold x10
      with_reducible apply State.convertAt_keeps
      exact h1
    clear_value x10
    with_reducible refine ite_keeps (P := State.Keeps a) ?_ ?_
    · with_reducible apply State.modCnv_keeps
      exact h1
    · with_reducible apply State.sched_keeps
      with_reducible apply State.modFire_keeps
      exact h11

theorem execCnv_keeps {a : State} {z1 z2 z3 z4 z5} (h5 : State.Keeps a z5) :
    OnNext (State.Keeps a) (execCnv z1 z2 z3 z4 z5) := by
  unfold execCnv
  refine OnNext.next ?_
  with_reducible apply State.frame_keeps
  · exact h5
  · intro y1 h2
    extract_lets +onlyGivenNames x3
    clear_value x3
    with_reducible apply State.cnvTake_keeps
    with_reducible apply State.modFire_keeps
    exact h2

theorem execCnvPortInput_keeps {a : State} {z1} (h1 : State.Keeps a z1) :
    OnNext (State.Keeps a) (execCnvPortInput z1) := by
  unfold execCnvPortInput
  extract_lets +onlyGivenNames x1
  clear_value x1
  extract_lets +onlyGivenNames x2
  clear_value x2
  extract_lets +onlyGivenNames x3
  clear_value x3
  refine OnNext.next ?_
  split
  · rename_i v4 v5
    with_reducible apply State.cnvTake_keeps
    exact h1
  · rename_i v6 v7
    with_reducible apply State.engineAnswer_keeps
    exact h1
  · rename_i v8 v9 v10
    extract_lets +onlyGivenNames x11
    clear_value x11
    extract_lets +onlyGivenNames x12
    clear_value x12
    extract_lets +onlyGivenNames x13
    clear_value x13
    extract_lets +onlyGivenNames x14
    clear_value x14
    extract_lets +onlyGivenNames x15
    clear_value x15
    extract_lets +onlyGivenNames x16
    clear_value x16
    extract_lets +onlyGivenNames x17
    have h18 : OnFst (State.Keeps a) x17 := by
      unfold x17
      with_reducible refine ite_keeps (P := OnFst (State.Keeps a)) ?_ ?_
      · refine OnFst.mk ?_
        exact h1
      · with_reducible apply State.convertAt_keeps
        exact h1
    clear_value x17
    extract_lets +onlyGivenNames x19
    clear_value x19
    extract_lets +onlyGivenNames x20
    clear_value x20
    extract_lets +onlyGivenNames x21
    have h23 : ∀ y22, State.Keeps a (x21 y22) := by
      intro y22
      unfold x21
      with_reducible apply State.sched_keeps
      exact h18
    clear_value x21
    with_reducible refine ite_keeps (P := State.Keeps a) ?_ ?_
    · with_reducible apply State.modCnv_keeps
      exact h1
    · split
      · rename_i v24 v25
        with_reducible apply h23
      · rename_i v26 v27
        with_reducible apply h23
      · rename_i v28 v29
        with_reducible apply h23
      · rename_i v30 v31 v32 v33
        with_reducible apply State.stale_keeps
        exact h18

theorem State.pack2_keeps {a : State} {z1 z2 z3 z4 z5 z6} (h1 : State.Keeps a z1) :
    OnNext (State.Keeps a) (State.pack2 z1 z2 z3 z4 z5 z6) := by
  unfold State.pack2
  refine OnNext.next ?_
  with_reducible apply State.one_keeps
  exact h1

theorem execPaddH_keeps {a : State} {z1 z2 z3 z4} (h4 : State.Keeps a z4) :
    OnNext (State.Keeps a) (execPaddH z1 z2 z3 z4) := by
  unfold execPaddH
  with_reducible apply State.pack2_keeps
  exact h4

theorem execPsubH_keeps {a : State} {z1 z2 z3 z4} (h4 : State.Keeps a z4) :
    OnNext (State.Keeps a) (execPsubH z1 z2 z3 z4) := by
  unfold execPsubH
  with_reducible apply State.pack2_keeps
  exact h4

theorem execPaddB_keeps {a : State} {z1 z2 z3 z4} (h4 : State.Keeps a z4) :
    OnNext (State.Keeps a) (execPaddB z1 z2 z3 z4) := by
  unfold execPaddB
  with_reducible apply State.pack2_keeps
  exact h4

theorem execPsubB_keeps {a : State} {z1 z2 z3 z4} (h4 : State.Keeps a z4) :
    OnNext (State.Keeps a) (execPsubB z1 z2 z3 z4) := by
  unfold execPsubB
  with_reducible apply State.pack2_keeps
  exact h4

theorem execPmaxH_keeps {a : State} {z1 z2 z3 z4} (h4 : State.Keeps a z4) :
    OnNext (State.Keeps a) (execPmaxH z1 z2 z3 z4) := by
  unfold execPmaxH
  with_reducible apply State.pack2_keeps
  exact h4

theorem execPminH_keeps {a : State} {z1 z2 z3 z4} (h4 : State.Keeps a z4) :
    OnNext (State.Keeps a) (execPminH z1 z2 z3 z4) := by
  unfold execPminH
  with_reducible apply State.pack2_keeps
  exact h4

theorem execPdot4_keeps {a : State} {z1 z2 z3 z4} (h4 : State.Keeps a z4) :
    OnNext (State.Keeps a) (execPdot4 z1 z2 z3 z4) := by
  unfold execPdot4
  with_reducible apply State.pack2_keeps
  exact h4

theorem execPdot4u_keeps {a : State} {z1 z2 z3 z4} (h4 : State.Keeps a z4) :
    OnNext (State.Keeps a) (execPdot4u z1 z2 z3 z4) := by
  unfold execPdot4u
  with_reducible apply State.pack2_keeps
  exact h4

theorem execPdot2H_keeps {a : State} {z1 z2 z3 z4} (h4 : State.Keeps a z4) :
    OnNext (State.Keeps a) (execPdot2H z1 z2 z3 z4) := by
  unfold execPdot2H
  with_reducible apply State.pack2_keeps
  exact h4

theorem execPackH_keeps {a : State} {z1 z2 z3 z4} (h4 : State.Keeps a z4) :
    OnNext (State.Keeps a) (execPackH z1 z2 z3 z4) := by
  unfold execPackH
  with_reducible apply State.pack2_keeps
  exact h4

theorem execPackB_keeps {a : State} {z1 z2 z3 z4} (h4 : State.Keeps a z4) :
    OnNext (State.Keeps a) (execPackB z1 z2 z3 z4) := by
  unfold execPackB
  with_reducible apply State.pack2_keeps
  exact h4

theorem execTunpk_keeps {a : State} {z1 z2 z3 z4} (h4 : State.Keeps a z4) :
    OnNext (State.Keeps a) (execTunpk z1 z2 z3 z4) := by
  unfold execTunpk
  extract_lets +onlyGivenNames x1
  clear_value x1
  refine OnNext.next ?_
  with_reducible apply State.two_keeps
  exact h4

theorem execTdot4_keeps {a : State} {z1 z2 z3 z4 z5} (h5 : State.Keeps a z5) :
    OnNext (State.Keeps a) (execTdot4 z1 z2 z3 z4 z5) := by
  unfold execTdot4
  extract_lets +onlyGivenNames x1
  clear_value x1
  extract_lets +onlyGivenNames x2
  clear_value x2
  extract_lets +onlyGivenNames x3
  clear_value x3
  refine OnNext.next ?_
  with_reducible apply State.one_keeps
  exact h5

theorem execLcdec_keeps {a : State} {z1 z2 z3 z4} (h4 : State.Keeps a z4) :
    OnNext (State.Keeps a) (execLcdec z1 z2 z3 z4) := by
  unfold execLcdec
  extract_lets +onlyGivenNames x1
  clear_value x1
  refine OnNext.next ?_
  with_reducible apply State.two_keeps
  exact h4

theorem execQnt_keeps {a : State} {z1 z2 z3 z4 z5} (h5 : State.Keeps a z5) :
    OnNext (State.Keeps a) (execQnt z1 z2 z3 z4 z5) := by
  unfold execQnt
  extract_lets +onlyGivenNames x1
  clear_value x1
  extract_lets +onlyGivenNames x2
  clear_value x2
  refine OnNext.next ?_
  with_reducible apply State.one_keeps
  exact h5

theorem State.setRegion_keeps {a : State} {z1 z2 z3} (h1 : State.Keeps a z1) :
    State.Keeps a (State.setRegion z1 z2 z3) := by
  unfold State.setRegion
  with_reducible apply State.modPart_keeps
  exact h1

theorem State.schedWave_keeps {a : State} {z1 z2} (h1 : State.Keeps a z1) :
    State.Keeps a (State.schedWave z1 z2) := by
  unfold State.schedWave
  with_reducible refine ite_keeps (P := State.Keeps a) ?_ ?_
  · exact h1
  · with_reducible apply State.sched_keeps
    exact h1

theorem State.qrg_keeps {a : State} {z1 z2 z3 z4 z5} (h1 : State.Keeps a z1) (h5 : ∀ y1 y2, State.Keeps a y1 → OnSome (State.Keeps a) (z5 y1 y2)) :
    State.Keeps a (State.qrg z1 z2 z3 z4 z5) := by
  unfold State.qrg
  with_reducible apply State.frame_keeps
  · exact h1
  · intro y1 h2
    extract_lets +onlyGivenNames x3
    extract_lets +onlyGivenNames x6
    have h7 : State.Keeps a x6 := by
      unfold x6
      with_reducible apply State.trap_keeps
      refine State.Keeps.upd (s := y1) rfl rfl rfl rfl ?_
      exact h2
    clear_value x6
    with_reducible refine ite_keeps (P := State.Keeps a) ?_ ?_
    · exact h7
    · refine OnSome.getD ?_ ?_
      · with_reducible apply h5
        exact h2
      · exact h7

theorem execQbegin_keeps {a : State} {z1 z2 z3 z4} (h4 : State.Keeps a z4) :
    OnNext (State.Keeps a) (execQbegin z1 z2 z3 z4) := by
  unfold execQbegin
  refine OnNext.next ?_
  with_reducible apply State.qrg_keeps
  · exact h4
  · intro y1 y2 h3
    extract_lets +onlyGivenNames x4
    clear_value x4
    extract_lets +onlyGivenNames x5
    have h6 : State.Keeps a x5 := by
      unfold x5
      with_reducible apply State.setRegion_keeps
      exact h3
    clear_value x5
    extract_lets +onlyGivenNames x7
    have h8 : OnFst (State.Keeps a) x7 := by
      unfold x7
      with_reducible apply State.mark_keeps
      exact h6
    clear_value x7
    with_reducible refine ite_keeps (P := OnSome (State.Keeps a)) ?_ ?_
    · exact OnSome.none
    · refine OnSome.some ?_
      with_reducible apply State.emit_keeps
      exact h8

theorem State.qrgPark_keeps {a : State} {z1} (h1 : State.Keeps a z1) :
    State.Keeps a (State.qrgPark z1) := by
  unfold State.qrgPark
  with_reducible apply State.schedWave_keeps
  with_reducible apply State.modFire_keeps
  exact h1

theorem execQend_keeps {a : State} {z1 z2 z3 z4} (h4 : State.Keeps a z4) :
    OnNext (State.Keeps a) (execQend z1 z2 z3 z4) := by
  unfold execQend
  refine OnNext.next ?_
  with_reducible apply State.qrg_keeps
  · exact h4
  · intro y1 y2 h3
    with_reducible refine ite_keeps (P := OnSome (State.Keeps a)) ?_ ?_
    · exact OnSome.none
    · refine OnSome.some ?_
      with_reducible apply State.qrgPark_keeps
      with_reducible apply State.setRegion_keeps
      exact h3

theorem execPhase_keeps {a : State} {z1 z2 z3 z4} (h4 : State.Keeps a z4) :
    OnNext (State.Keeps a) (execPhase z1 z2 z3 z4) := by
  unfold execPhase
  refine OnNext.next ?_
  with_reducible apply State.qrg_keeps
  · exact h4
  · intro y1 y2 h3
    extract_lets +onlyGivenNames x4
    clear_value x4
    extract_lets +onlyGivenNames x5
    have h6 : OnFst (State.Keeps a) x5 := by
      unfold x5
      with_reducible apply State.mark_keeps
      with_reducible apply State.setRegion_keeps
      exact h3
    clear_value x5
    with_reducible refine ite_keeps (P := OnSome (State.Keeps a)) ?_ ?_
    · exact OnSome.none
    · with_reducible refine ite_keeps (P := OnSome (State.Keeps a)) ?_ ?_
      · refine OnSome.some ?_
        with_reducible apply State.schedWave_keeps
        with_reducible apply State.emit_keeps
        exact h6
      · refine OnSome.some ?_
        with_reducible apply State.qrgPark_keeps
        with_reducible apply State.setRegion_keeps
        exact h3

theorem State.qrgAnswer_keeps {a : State} {z1 z2 z3 z4 z5} (h1 : State.Keeps a z1) :
    State.Keeps a (State.qrgAnswer z1 z2 z3 z4 z5) := by
  unfold State.qrgAnswer
  split
  · rename_i v1 v2
    exact h1
  · rename_i v3 v4 v5
    with_reducible refine ite_keeps (P := State.Keeps a) ?_ ?_
    · exact h1
    · with_reducible apply State.checkDone_keeps
      with_reducible apply State.answer_keeps
      exact h1

theorem State.waveRegion_keeps {a : State} {z1 z2 z3} (h1 : State.Keeps a z1) :
    State.Keeps a (State.waveRegion z1 z2 z3) := by
  unfold State.waveRegion
  extract_lets +onlyGivenNames x1
  clear_value x1
  extract_lets +onlyGivenNames x2
  clear_value x2
  extract_lets +onlyGivenNames x3
  have h6 : ∀ y4 y5, OnFst (State.Keeps a) y4 → OnFst (State.Keeps a) (x3 y4 y5) := by
    intro y4 y5 h7
    unfold x3
    extract_lets +onlyGivenNames x8
    clear_value x8
    refine OnFst.mk ?_
    with_reducible apply State.qrgAnswer_keeps
    exact h7
  clear_value x3
  extract_lets +onlyGivenNames x9
  have h10 : OnFst (State.Keeps a) x9 := by
    unfold x9
    refine foldl_keeps ?_ ?_
    · refine OnFst.mk ?_
      exact h1
    · intro y11 y12 h13
      with_reducible apply h6
      exact h13
  clear_value x9
  extract_lets +onlyGivenNames x14
  have h15 : State.Keeps a x14 := by
    unfold x14
    exact h10
  clear_value x14
  extract_lets +onlyGivenNames x16
  clear_value x16
  extract_lets +onlyGivenNames x17
  clear_value x17
  extract_lets +onlyGivenNames x18
  clear_value x18
  extract_lets +onlyGivenNames x19
  clear_value x19
  extract_lets +onlyGivenNames x20
  have h21 : State.Keeps a x20 := by
    unfold x20
    refine foldl_keeps ?_ ?_
    · with_reducible apply State.setRegion_keeps
      exact h15
    · intro y22 y23 h24
      with_reducible apply State.flush_keeps
      exact h24
  clear_value x20
  with_reducible refine ite_keeps (P := State.Keeps a) ?_ ?_
  · refine foldl_keeps ?_ ?_
    · exact h21
    · intro y25 y26 h27
      with_reducible apply State.qrgAnswer_keeps
      exact h27
  · with_reducible apply State.setRegion_keeps
    exact h15

theorem execQuiescenceWave_keeps {a : State} {z1} (h1 : State.Keeps a z1) :
    OnNext (State.Keeps a) (execQuiescenceWave z1) := by
  unfold execQuiescenceWave
  extract_lets +onlyGivenNames x1
  clear_value x1
  extract_lets +onlyGivenNames x2
  have h3 : State.Keeps a x2 := by
    unfold x2
    refine foldl_keeps ?_ ?_
    · exact h1
    · intro y4 y5 h6
      with_reducible apply State.waveRegion_keeps
      exact h6
  clear_value x2
  refine OnNext.next ?_
  with_reducible refine ite_keeps (P := State.Keeps a) ?_ ?_
  · with_reducible apply State.schedWave_keeps
    exact h3
  · exact h3

theorem State.alu2_keeps {a : State} {z1 z2 z3 z4 z5} (h1 : State.Keeps a z1) :
    OnNext (State.Keeps a) (State.alu2 z1 z2 z3 z4 z5) := by
  unfold State.alu2
  refine OnNext.next ?_
  with_reducible apply State.one_keeps
  exact h1

theorem State.alu1_keeps {a : State} {z1 z2 z3 z4 z5} (h1 : State.Keeps a z1) :
    OnNext (State.Keeps a) (State.alu1 z1 z2 z3 z4 z5) := by
  unfold State.alu1
  refine OnNext.next ?_
  with_reducible apply State.one_keeps
  exact h1

theorem State.test2_keeps {a : State} {z1 z2 z3 z4 z5} (h1 : State.Keeps a z1) :
    OnNext (State.Keeps a) (State.test2 z1 z2 z3 z4 z5) := by
  unfold State.test2
  refine OnNext.next ?_
  with_reducible apply State.one_keeps
  exact h1

theorem State.mul3_keeps {a : State} {z1 z2 z3 z4 z5} (h1 : State.Keeps a z1) :
    OnNext (State.Keeps a) (State.mul3 z1 z2 z3 z4 z5) := by
  unfold State.mul3
  refine OnNext.next ?_
  with_reducible apply State.one_keeps
  exact h1

theorem State.idiv_keeps {a : State} {z1 z2 z3 z4 z5} (h1 : State.Keeps a z1) :
    OnNext (State.Keeps a) (State.idiv z1 z2 z3 z4 z5) := by
  unfold State.idiv
  refine OnNext.next ?_
  with_reducible apply State.one_keeps
  exact h1

theorem execMov_keeps {a : State} {z1 z2 z3 z4} (h4 : State.Keeps a z4) :
    OnNext (State.Keeps a) (execMov z1 z2 z3 z4) := by
  unfold execMov
  refine OnNext.next ?_
  with_reducible apply State.rawFrame_keeps
  · exact h4
  · intro y1 h2
    extract_lets +onlyGivenNames x3
    clear_value x3
    with_reducible apply State.emit_keeps
    exact h2

theorem execNull_keeps {a : State} {z1 z2 z3 z4} (h4 : State.Keeps a z4) :
    OnNext (State.Keeps a) (execNull z1 z2 z3 z4) := by
  unfold execNull
  refine OnNext.next ?_
  with_reducible apply State.frame_keeps
  · exact h4
  · intro y1 h2
    with_reducible apply State.emit_keeps
    exact h2

theorem execBfly_keeps {a : State} {z1 z2 z3 z4} (h4 : State.Keeps a z4) :
    OnNext (State.Keeps a) (execBfly z1 z2 z3 z4) := by
  unfold execBfly
  refine OnNext.next ?_
  with_reducible apply State.two_keeps
  exact h4

theorem execFbfly_keeps {a : State} {z1 z2 z3 z4} (h4 : State.Keeps a z4) :
    OnNext (State.Keeps a) (execFbfly z1 z2 z3 z4) := by
  unfold execFbfly
  extract_lets +onlyGivenNames x1
  clear_value x1
  extract_lets +onlyGivenNames x2
  clear_value x2
  refine OnNext.next ?_
  with_reducible apply State.two_keeps
  exact h4

theorem execGenc_keeps {a : State} {z1 z2 z3} (h3 : State.Keeps a z3) :
    OnNext (State.Keeps a) (execGenc z1 z2 z3) := by
  unfold execGenc
  refine OnNext.next ?_
  with_reducible apply State.one_keeps
  exact h3

theorem execGens_keeps {a : State} {z1 z2 z3} (h3 : State.Keeps a z3) :
    OnNext (State.Keeps a) (execGens z1 z2 z3) := by
  unfold execGens
  refine OnNext.next ?_
  with_reducible apply State.one_keeps
  exact h3

theorem execGenh_keeps {a : State} {z1 z2 z3} (h3 : State.Keeps a z3) :
    OnNext (State.Keeps a) (execGenh z1 z2 z3) := by
  unfold execGenh
  refine OnNext.next ?_
  with_reducible apply State.one_keeps
  exact h3

theorem execSel_keeps {a : State} {z1 z2 z3 z4} (h4 : State.Keeps a z4) :
    OnNext (State.Keeps a) (execSel z1 z2 z3 z4) := by
  unfold execSel
  refine OnNext.next ?_
  with_reducible apply State.frame_keeps
  · exact h4
  · intro y1 h2
    extract_lets +onlyGivenNames x3
    clear_value x3
    with_reducible apply State.emit_keeps
    exact h2

theorem execAdd_keeps {a : State} {z1 z2 z3 z4} (h4 : State.Keeps a z4) :
    OnNext (State.Keeps a) (execAdd z1 z2 z3 z4) := by
  unfold execAdd
  with_reducible apply State.alu2_keeps
  exact h4

theorem execSub_keeps {a : State} {z1 z2 z3 z4} (h4 : State.Keeps a z4) :
    OnNext (State.Keeps a) (execSub z1 z2 z3 z4) := by
  unfold execSub
  with_reducible apply State.alu2_keeps
  exact h4

theorem execAnd_keeps {a : State} {z1 z2 z3 z4} (h4 : State.Keeps a z4) :
    OnNext (State.Keeps a) (execAnd z1 z2 z3 z4) := by
  unfold execAnd
  with_reducible apply State.alu2_keeps
  exact h4

theorem execOr_keeps {a : State} {z1 z2 z3 z4} (h4 : State.Keeps a z4) :
    OnNext (State.Keeps a) (execOr z1 z2 z3 z4) := by
  unfold execOr
  with_reducible apply State.alu2_keeps
  exact h4

theorem execXor_keeps {a : State} {z1 z2 z3 z4} (h4 : State.Keeps a z4) :
    OnNext (State.Keeps a) (execXor z1 z2 z3 z4) := by
  unfold execXor
  with_reducible apply State.alu2_keeps
  exact h4

theorem execAndn_keeps {a : State} {z1 z2 z3 z4} (h4 : State.Keeps a z4) :
    OnNext (State.Keeps a) (execAndn z1 z2 z3 z4) := by
  unfold execAndn
  with_reducible apply State.alu2_keeps
  exact h4

theorem execOrn_keeps {a : State} {z1 z2 z3 z4} (h4 : State.Keeps a z4) :
    OnNext (State.Keeps a) (execOrn z1 z2 z3 z4) := by
  unfold execOrn
  with_reducible apply State.alu2_keeps
  exact h4

theorem execXnor_keeps {a : State} {z1 z2 z3 z4} (h4 : State.Keeps a z4) :
    OnNext (State.Keeps a) (execXnor z1 z2 z3 z4) := by
  unfold execXnor
  with_reducible apply State.alu2_keeps
  exact h4

theorem execShl_keeps {a : State} {z1 z2 z3 z4} (h4 : State.Keeps a z4) :
    OnNext (State.Keeps a) (execShl z1 z2 z3 z4) := by
  unfold execShl
  with_reducible apply State.alu2_keeps
  exact h4

theorem execShr_keeps {a : State} {z1 z2 z3 z4} (h4 : State.Keeps a z4) :
    OnNext (State.Keeps a) (execShr z1 z2 z3 z4) := by
  unfold execShr
  with_reducible apply State.alu2_keeps
  exact h4

theorem execSar_keeps {a : State} {z1 z2 z3 z4} (h4 : State.Keeps a z4) :
    OnNext (State.Keeps a) (execSar z1 z2 z3 z4) := by
  unfold execSar
  with_reducible apply State.alu2_keeps
  exact h4

theorem execRol_keeps {a : State} {z1 z2 z3 z4} (h4 : State.Keeps a z4) :
    OnNext (State.Keeps a) (execRol z1 z2 z3 z4) := by
  unfold execRol
  with_reducible apply State.alu2_keeps
  exact h4

theorem execRor_keeps {a : State} {z1 z2 z3 z4} (h4 : State.Keeps a z4) :
    OnNext (State.Keeps a) (execRor z1 z2 z3 z4) := by
  unfold execRor
  with_reducible apply State.alu2_keeps
  exact h4

theorem execMin_keeps {a : State} {z1 z2 z3 z4} (h4 : State.Keeps a z4) :
    OnNext (State.Keeps a) (execMin z1 z2 z3 z4) := by
  unfold execMin
  with_reducible apply State.alu2_keeps
  exact h4

theorem execMax_keeps {a : State} {z1 z2 z3 z4} (h4 : State.Keeps a z4) :
    OnNext (State.Keeps a) (execMax z1 z2 z3 z4) := by
  unfold execMax
  with_reducible apply State.alu2_keeps
  exact h4

theorem execMinu_keeps {a : State} {z1 z2 z3 z4} (h4 : State.Keeps a z4) :
    OnNext (State.Keeps a) (execMinu z1 z2 z3 z4) := by
  unfold execMinu
  with_reducible apply State.alu2_keeps
  exact h4

theorem execMaxu_keeps {a : State} {z1 z2 z3 z4} (h4 : State.Keeps a z4) :
    OnNext (State.Keeps a) (execMaxu z1 z2 z3 z4) := by
  unfold execMaxu
  with_reducible apply State.alu2_keeps
  exact h4

theorem execAddc_keeps {a : State} {z1 z2 z3 z4} (h4 : State.Keeps a z4) :
    OnNext (State.Keeps a) (execAddc z1 z2 z3 z4) := by
  unfold execAddc
  extract_lets +onlyGivenNames x1
  clear_value x1
  refine OnNext.next ?_
  with_reducible apply State.two_keeps
  exact h4

theorem execSubb_keeps {a : State} {z1 z2 z3 z4} (h4 : State.Keeps a z4) :
    OnNext (State.Keeps a) (execSubb z1 z2 z3 z4) := by
  unfold execSubb
  extract_lets +onlyGivenNames x1
  clear_value x1
  refine OnNext.next ?_
  with_reducible apply State.two_keeps
  exact h4

theorem execAbsd_keeps {a : State} {z1 z2 z3 z4} (h4 : State.Keeps a z4) :
    OnNext (State.Keeps a) (execAbsd z1 z2 z3 z4) := by
  unfold execAbsd
  with_reducible apply State.alu2_keeps
  exact h4

theorem execMul_keeps {a : State} {z1 z2 z3 z4} (h4 : State.Keeps a z4) :
    OnNext (State.Keeps a) (execMul z1 z2 z3 z4) := by
  unfold execMul
  with_reducible apply State.mul3_keeps
  exact h4

theorem execMulh_keeps {a : State} {z1 z2 z3 z4} (h4 : State.Keeps a z4) :
    OnNext (State.Keeps a) (execMulh z1 z2 z3 z4) := by
  unfold execMulh
  with_reducible apply State.mul3_keeps
  exact h4

theorem execMulhu_keeps {a : State} {z1 z2 z3 z4} (h4 : State.Keeps a z4) :
    OnNext (State.Keeps a) (execMulhu z1 z2 z3 z4) := by
  unfold execMulhu
  with_reducible apply State.mul3_keeps
  exact h4

theorem execMulhsu_keeps {a : State} {z1 z2 z3 z4} (h4 : State.Keeps a z4) :
    OnNext (State.Keeps a) (execMulhsu z1 z2 z3 z4) := by
  unfold execMulhsu
  with_reducible apply State.mul3_keeps
  exact h4

theorem execMadd_keeps {a : State} {z1 z2 z3 z4} (h4 : State.Keeps a z4) :
    OnNext (State.Keeps a) (execMadd z1 z2 z3 z4) := by
  unfold execMadd
  with_reducible apply State.mul3_keeps
  exact h4

theorem execMsub_keeps {a : State} {z1 z2 z3 z4} (h4 : State.Keeps a z4) :
    OnNext (State.Keeps a) (execMsub z1 z2 z3 z4) := by
  unfold execMsub
  with_reducible apply State.mul3_keeps
  exact h4

theorem execDiv_keeps {a : State} {z1 z2 z3 z4} (h4 : State.Keeps a z4) :
    OnNext (State.Keeps a) (execDiv z1 z2 z3 z4) := by
  unfold execDiv
  with_reducible apply State.idiv_keeps
  exact h4

theorem execDivu_keeps {a : State} {z1 z2 z3 z4} (h4 : State.Keeps a z4) :
    OnNext (State.Keeps a) (execDivu z1 z2 z3 z4) := by
  unfold execDivu
  with_reducible apply State.idiv_keeps
  exact h4

theorem execRem_keeps {a : State} {z1 z2 z3 z4} (h4 : State.Keeps a z4) :
    OnNext (State.Keeps a) (execRem z1 z2 z3 z4) := by
  unfold execRem
  with_reducible apply State.idiv_keeps
  exact h4

theorem execRemu_keeps {a : State} {z1 z2 z3 z4} (h4 : State.Keeps a z4) :
    OnNext (State.Keeps a) (execRemu z1 z2 z3 z4) := by
  unfold execRemu
  with_reducible apply State.idiv_keeps
  exact h4

theorem execNeg_keeps {a : State} {z1 z2 z3 z4} (h4 : State.Keeps a z4) :
    OnNext (State.Keeps a) (execNeg z1 z2 z3 z4) := by
  unfold execNeg
  with_reducible apply State.alu1_keeps
  exact h4

theorem execNot_keeps {a : State} {z1 z2 z3 z4} (h4 : State.Keeps a z4) :
    OnNext (State.Keeps a) (execNot z1 z2 z3 z4) := by
  unfold execNot
  with_reducible apply State.alu1_keeps
  exact h4

theorem execAbs_keeps {a : State} {z1 z2 z3 z4} (h4 : State.Keeps a z4) :
    OnNext (State.Keeps a) (execAbs z1 z2 z3 z4) := by
  unfold execAbs
  with_reducible apply State.alu1_keeps
  exact h4

theorem execClz_keeps {a : State} {z1 z2 z3 z4} (h4 : State.Keeps a z4) :
    OnNext (State.Keeps a) (execClz z1 z2 z3 z4) := by
  unfold execClz
  with_reducible apply State.alu1_keeps
  exact h4

theorem execCtz_keeps {a : State} {z1 z2 z3 z4} (h4 : State.Keeps a z4) :
    OnNext (State.Keeps a) (execCtz z1 z2 z3 z4) := by
  unfold execCtz
  with_reducible apply State.alu1_keeps
  exact h4

theorem execPopc_keeps {a : State} {z1 z2 z3 z4} (h4 : State.Keeps a z4) :
    OnNext (State.Keeps a) (execPopc z1 z2 z3 z4) := by
  unfold execPopc
  with_reducible apply State.alu1_keeps
  exact h4

theorem execBrev_keeps {a : State} {z1 z2 z3 z4} (h4 : State.Keeps a z4) :
    OnNext (State.Keeps a) (execBrev z1 z2 z3 z4) := by
  unfold execBrev
  with_reducible apply State.alu1_keeps
  exact h4

theorem execBswap_keeps {a : State} {z1 z2 z3 z4} (h4 : State.Keeps a z4) :
    OnNext (State.Keeps a) (execBswap z1 z2 z3 z4) := by
  unfold execBswap
  with_reducible apply State.alu1_keeps
  exact h4

theorem execSextb_keeps {a : State} {z1 z2 z3 z4} (h4 : State.Keeps a z4) :
    OnNext (State.Keeps a) (execSextb z1 z2 z3 z4) := by
  unfold execSextb
  with_reducible apply State.alu1_keeps
  exact h4

theorem execSexth_keeps {a : State} {z1 z2 z3 z4} (h4 : State.Keeps a z4) :
    OnNext (State.Keeps a) (execSexth z1 z2 z3 z4) := by
  unfold execSexth
  with_reducible apply State.alu1_keeps
  exact h4

theorem execZextb_keeps {a : State} {z1 z2 z3 z4} (h4 : State.Keeps a z4) :
    OnNext (State.Keeps a) (execZextb z1 z2 z3 z4) := by
  unfold execZextb
  with_reducible apply State.alu1_keeps
  exact h4

theorem execZexth_keeps {a : State} {z1 z2 z3 z4} (h4 : State.Keeps a z4) :
    OnNext (State.Keeps a) (execZexth z1 z2 z3 z4) := by
  unfold execZexth
  with_reducible apply State.alu1_keeps
  exact h4

theorem execExtr_keeps {a : State} {z1 z2 z3 z4 z5 z6} (h6 : State.Keeps a z6) :
    OnNext (State.Keeps a) (execExtr z1 z2 z3 z4 z5 z6) := by
  unfold execExtr
  with_reducible apply State.alu1_keeps
  exact h6

theorem execIns_keeps {a : State} {z1 z2 z3 z4 z5 z6} (h6 : State.Keeps a z6) :
    OnNext (State.Keeps a) (execIns z1 z2 z3 z4 z5 z6) := by
  unfold execIns
  with_reducible apply State.alu2_keeps
  exact h6

theorem execAddi_keeps {a : State} {z1 z2 z3 z4} (h4 : State.Keeps a z4) :
    OnNext (State.Keeps a) (execAddi z1 z2 z3 z4) := by
  unfold execAddi
  with_reducible apply State.alu1_keeps
  exact h4

theorem execAndi_keeps {a : State} {z1 z2 z3 z4} (h4 : State.Keeps a z4) :
    OnNext (State.Keeps a) (execAndi z1 z2 z3 z4) := by
  unfold execAndi
  with_reducible apply State.alu1_keeps
  exact h4

theorem execOri_keeps {a : State} {z1 z2 z3 z4} (h4 : State.Keeps a z4) :
    OnNext (State.Keeps a) (execOri z1 z2 z3 z4) := by
  unfold execOri
  with_reducible apply State.alu1_keeps
  exact h4

theorem execXori_keeps {a : State} {z1 z2 z3 z4} (h4 : State.Keeps a z4) :
    OnNext (State.Keeps a) (execXori z1 z2 z3 z4) := by
  unfold execXori
  with_reducible apply State.alu1_keeps
  exact h4

theorem execShli_keeps {a : State} {z1 z2 z3 z4} (h4 : State.Keeps a z4) :
    OnNext (State.Keeps a) (execShli z1 z2 z3 z4) := by
  unfold execShli
  with_reducible apply State.alu1_keeps
  exact h4

theorem execShri_keeps {a : State} {z1 z2 z3 z4} (h4 : State.Keeps a z4) :
    OnNext (State.Keeps a) (execShri z1 z2 z3 z4) := by
  unfold execShri
  with_reducible apply State.alu1_keeps
  exact h4

theorem execSari_keeps {a : State} {z1 z2 z3 z4} (h4 : State.Keeps a z4) :
    OnNext (State.Keeps a) (execSari z1 z2 z3 z4) := by
  unfold execSari
  with_reducible apply State.alu1_keeps
  exact h4

theorem execMuli_keeps {a : State} {z1 z2 z3 z4} (h4 : State.Keeps a z4) :
    OnNext (State.Keeps a) (execMuli z1 z2 z3 z4) := by
  unfold execMuli
  with_reducible apply State.mul3_keeps
  exact h4

theorem execTeq_keeps {a : State} {z1 z2 z3 z4} (h4 : State.Keeps a z4) :
    OnNext (State.Keeps a) (execTeq z1 z2 z3 z4) := by
  unfold execTeq
  with_reducible apply State.test2_keeps
  exact h4

theorem execTne_keeps {a : State} {z1 z2 z3 z4} (h4 : State.Keeps a z4) :
    OnNext (State.Keeps a) (execTne z1 z2 z3 z4) := by
  unfold execTne
  with_reducible apply State.test2_keeps
  exact h4

theorem execTlt_keeps {a : State} {z1 z2 z3 z4} (h4 : State.Keeps a z4) :
    OnNext (State.Keeps a) (execTlt z1 z2 z3 z4) := by
  unfold execTlt
  with_reducible apply State.test2_keeps
  exact h4

theorem execTle_keeps {a : State} {z1 z2 z3 z4} (h4 : State.Keeps a z4) :
    OnNext (State.Keeps a) (execTle z1 z2 z3 z4) := by
  unfold execTle
  with_reducible apply State.test2_keeps
  exact h4

theorem execTltu_keeps {a : State} {z1 z2 z3 z4} (h4 : State.Keeps a z4) :
    OnNext (State.Keeps a) (execTltu z1 z2 z3 z4) := by
  unfold execTltu
  with_reducible apply State.test2_keeps
  exact h4

theorem execTleu_keeps {a : State} {z1 z2 z3 z4} (h4 : State.Keeps a z4) :
    OnNext (State.Keeps a) (execTleu z1 z2 z3 z4) := by
  unfold execTleu
  with_reducible apply State.test2_keeps
  exact h4

theorem execTgt_keeps {a : State} {z1 z2 z3 z4} (h4 : State.Keeps a z4) :
    OnNext (State.Keeps a) (execTgt z1 z2 z3 z4) := by
  unfold execTgt
  with_reducible apply State.test2_keeps
  exact h4

theorem execTge_keeps {a : State} {z1 z2 z3 z4} (h4 : State.Keeps a z4) :
    OnNext (State.Keeps a) (execTge z1 z2 z3 z4) := by
  unfold execTge
  with_reducible apply State.test2_keeps
  exact h4

theorem execTgtu_keeps {a : State} {z1 z2 z3 z4} (h4 : State.Keeps a z4) :
    OnNext (State.Keeps a) (execTgtu z1 z2 z3 z4) := by
  unfold execTgtu
  with_reducible apply State.test2_keeps
  exact h4

theorem execTgeu_keeps {a : State} {z1 z2 z3 z4} (h4 : State.Keeps a z4) :
    OnNext (State.Keeps a) (execTgeu z1 z2 z3 z4) := by
  unfold execTgeu
  with_reducible apply State.test2_keeps
  exact h4

theorem execTbit_keeps {a : State} {z1 z2 z3 z4} (h4 : State.Keeps a z4) :
    OnNext (State.Keeps a) (execTbit z1 z2 z3 z4) := by
  unfold execTbit
  with_reducible apply State.test2_keeps
  exact h4

theorem execTeqi_keeps {a : State} {z1 z2 z3 z4} (h4 : State.Keeps a z4) :
    OnNext (State.Keeps a) (execTeqi z1 z2 z3 z4) := by
  unfold execTeqi
  with_reducible apply State.test2_keeps
  exact h4

theorem execTnei_keeps {a : State} {z1 z2 z3 z4} (h4 : State.Keeps a z4) :
    OnNext (State.Keeps a) (execTnei z1 z2 z3 z4) := by
  unfold execTnei
  with_reducible apply State.test2_keeps
  exact h4

theorem execTlti_keeps {a : State} {z1 z2 z3 z4} (h4 : State.Keeps a z4) :
    OnNext (State.Keeps a) (execTlti z1 z2 z3 z4) := by
  unfold execTlti
  with_reducible apply State.test2_keeps
  exact h4

theorem execTgei_keeps {a : State} {z1 z2 z3 z4} (h4 : State.Keeps a z4) :
    OnNext (State.Keeps a) (execTgei z1 z2 z3 z4) := by
  unfold execTgei
  with_reducible apply State.test2_keeps
  exact h4

theorem execTltui_keeps {a : State} {z1 z2 z3 z4} (h4 : State.Keeps a z4) :
    OnNext (State.Keeps a) (execTltui z1 z2 z3 z4) := by
  unfold execTltui
  with_reducible apply State.test2_keeps
  exact h4

theorem execTgeui_keeps {a : State} {z1 z2 z3 z4} (h4 : State.Keeps a z4) :
    OnNext (State.Keeps a) (execTgeui z1 z2 z3 z4) := by
  unfold execTgeui
  with_reducible apply State.test2_keeps
  exact h4

theorem execTopk_keeps {a : State} {z1 z2 z3 z4 z5} (h5 : State.Keeps a z5) :
    OnNext (State.Keeps a) (execTopk z1 z2 z3 z4 z5) := by
  unfold execTopk
  extract_lets +onlyGivenNames x1
  clear_value x1
  extract_lets +onlyGivenNames x2
  clear_value x2
  extract_lets +onlyGivenNames x3
  clear_value x3
  extract_lets +onlyGivenNames x4
  clear_value x4
  extract_lets +onlyGivenNames x5
  clear_value x5
  extract_lets +onlyGivenNames x6
  have h8 : ∀ y7, State.Keeps a y7 → State.Keeps a (x6 y7) := by
    intro y7 h9
    unfold x6
    extract_lets +onlyGivenNames x10
    have h11 : State.Keeps a x10 := by
      unfold x10
      with_reducible apply State.modPage_keeps
      exact h9
    clear_value x10
    extract_lets +onlyGivenNames x12
    have h13 : State.Keeps a x12 := by
      unfold x12
      with_reducible apply State.modFire_keeps
      exact h11
    clear_value x12
    with_reducible refine ite_keeps (P := State.Keeps a) ?_ ?_
    · with_reducible apply State.silent_keeps
      exact h9
    · with_reducible refine ite_keeps (P := State.Keeps a) ?_ ?_
      · with_reducible apply State.sched_keeps
        exact h13
      · with_reducible refine ite_keeps (P := State.Keeps a) ?_ ?_
        · with_reducible apply State.silent_keeps
          exact h9
        · with_reducible apply State.silent_keeps
          with_reducible apply State.modPage_keeps
          exact h9
  clear_value x6
  refine OnNext.next ?_
  split
  · rename_i v14 v15
    with_reducible apply h8
    exact h5
  · rename_i v16 v17
    with_reducible apply State.silent_keeps
    exact h5
  · rename_i v18 v19 v20
    with_reducible apply State.emit_keeps
    exact h5

theorem execTopkEmit_keeps {a : State} {z1} (h1 : State.Keeps a z1) :
    OnNext (State.Keeps a) (execTopkEmit z1) := by
  unfold execTopkEmit
  extract_lets +onlyGivenNames x1
  clear_value x1
  extract_lets +onlyGivenNames x2
  clear_value x2
  extract_lets +onlyGivenNames x3
  clear_value x3
  extract_lets +onlyGivenNames x4
  clear_value x4
  refine OnNext.next ?_
  split
  · rename_i v5 v6
    with_reducible apply State.modPage_keeps
    exact h1
  · rename_i v7 v8 v9
    extract_lets +onlyGivenNames x10
    clear_value x10
    extract_lets +onlyGivenNames x11
    clear_value x11
    extract_lets +onlyGivenNames x12
    have h13 : State.Keeps a x12 := by
      unfold x12
      with_reducible apply State.modFire_keeps
      exact h1
    clear_value x12
    split
    · rename_i v14 v15 v16 v17
      extract_lets +onlyGivenNames x18
      clear_value x18
      extract_lets +onlyGivenNames x19
      have h20 : State.Keeps a x19 := by
        unfold x19
        with_reducible apply State.send_keeps
        with_reducible apply State.send_keeps
        exact h13
      clear_value x19
      extract_lets +onlyGivenNames x21
      clear_value x21
      with_reducible apply State.sched_keeps
      exact h20
    · rename_i v22 v23
      extract_lets +onlyGivenNames x24
      clear_value x24
      extract_lets +onlyGivenNames x25
      have h26 : State.Keeps a x25 := by
        unfold x25
        with_reducible apply State.send_keeps
        with_reducible apply State.send_keeps
        exact h13
      clear_value x25
      extract_lets +onlyGivenNames x27
      have h28 : State.Keeps a x27 := by
        unfold x27
        with_reducible apply State.modPage_keeps
        exact h26
      clear_value x27
      extract_lets +onlyGivenNames x29
      have h30 : State.Keeps a x29 := by
        unfold x29
        with_reducible apply State.modFire_keeps
        exact h28
      clear_value x29
      with_reducible apply State.checkDone_keeps
      with_reducible apply State.schedFire_keeps
      exact h30

theorem State.requestHandler_keeps {a : State} {z1 z2 z3 z4 z5} (h1 : State.Keeps a z1) :
    State.Keeps a (State.requestHandler z1 z2 z3 z4 z5) := by
  unfold State.requestHandler
  split
  · rename_i v1
    with_reducible apply State.doubleFault_keeps
    exact h1
  · rename_i v2 v3
    with_reducible apply State.doubleFault_keeps
    exact h1
  · rename_i v4 v5
    extract_lets +onlyGivenNames x6
    clear_value x6
    with_reducible apply State.request_keeps
    exact h1

theorem State.defaultRequest_keeps {a : State} {z1 z2 z3 z4} (h1 : State.Keeps a z1) :
    State.Keeps a (State.defaultRequest z1 z2 z3 z4) := by
  unfold State.defaultRequest
  with_reducible apply State.requestHandler_keeps
  exact h1

theorem State.handle_keeps {a : State} {z1 z2 z3 z4} (h1 : State.Keeps a z1) :
    State.Keeps a (State.handle z1 z2 z3 z4) := by
  unfold State.handle
  extract_lets +onlyGivenNames x1
  clear_value x1
  split
  · rename_i v2 v3
    exact h1
  · rename_i v4 v5 v6
    extract_lets +onlyGivenNames x7
    clear_value x7
    with_reducible refine ite_keeps (P := State.Keeps a) ?_ ?_
    · with_reducible apply State.sched_keeps
      with_reducible apply State.modPage_keeps
      exact h1
    · with_reducible refine ite_keeps (P := State.Keeps a) ?_ ?_
      · with_reducible apply State.doubleFault_keeps
        exact h1
      · with_reducible apply State.defaultRequest_keeps
        exact h1

theorem execTrapFrameWrite_keeps {a : State} {z1} (h1 : State.Keeps a z1) :
    OnNext (State.Keeps a) (execTrapFrameWrite z1) := by
  unfold execTrapFrameWrite
  extract_lets +onlyGivenNames x1
  clear_value x1
  extract_lets +onlyGivenNames x2
  clear_value x2
  extract_lets +onlyGivenNames x3
  clear_value x3
  extract_lets +onlyGivenNames x4
  clear_value x4
  refine OnNext.next ?_
  split
  · rename_i v5 v6
    exact h1
  · rename_i v7 v8 v9
    with_reducible refine ite_keeps (P := State.Keeps a) ?_ ?_
    · exact h1
    · split
      · rename_i v10 v11
        with_reducible refine ite_keeps (P := State.Keeps a) ?_ ?_
        · exact h1
        · with_reducible apply State.bumpCsr_keeps
          with_reducible apply State.modInst_keeps
          exact h1
      · rename_i v12 v13 v14
        extract_lets +onlyGivenNames x15
        clear_value x15
        extract_lets +onlyGivenNames x16
        clear_value x16
        extract_lets +onlyGivenNames x17
        clear_value x17
        extract_lets +onlyGivenNames x18
        clear_value x18
        extract_lets +onlyGivenNames x19
        clear_value x19
        extract_lets +onlyGivenNames x20
        clear_value x20
        split
        · rename_i v21 v22 v23
          with_reducible apply State.doubleFault_keeps
          exact h1
        · rename_i v24 v25 v26
          have h27 : State.Keeps a v25 := by
            refine OnOk.get ?_ v26
            with_reducible apply State.writePinned_keeps
            exact h1
          extract_lets +onlyGivenNames x28
          have h29 : State.Keeps a x28 := by
            unfold x28
            with_reducible apply State.modPart_keeps
            exact h27
          clear_value x28
          extract_lets +onlyGivenNames x30
          have h31 : State.Keeps a x30 := by
            unfold x30
            with_reducible apply State.setCsrF_keeps
            exact h29
          clear_value x30
          extract_lets +onlyGivenNames x32
          have h33 : State.Keeps a x32 := by
            unfold x32
            with_reducible apply State.modInst_keeps
            exact h31
          clear_value x32
          with_reducible apply State.handle_keeps
          exact h33

theorem execTrapHandlerStart_keeps {a : State} {z1} (h1 : State.Keeps a z1) :
    OnNext (State.Keeps a) (execTrapHandlerStart z1) := by
  unfold execTrapHandlerStart
  extract_lets +onlyGivenNames x1
  clear_value x1
  extract_lets +onlyGivenNames x2
  clear_value x2
  extract_lets +onlyGivenNames x3
  clear_value x3
  extract_lets +onlyGivenNames x4
  clear_value x4
  extract_lets +onlyGivenNames x5
  clear_value x5
  refine OnNext.next ?_
  with_reducible refine ite_keeps (P := State.Keeps a) ?_ ?_
  · exact h1
  · with_reducible apply State.sched_keeps
    with_reducible apply State.modPage_keeps
    exact h1

theorem execInstanceKill_keeps {a : State} {z1} (h1 : State.Keeps a z1) :
    OnNext (State.Keeps a) (execInstanceKill z1) := by
  unfold execInstanceKill
  extract_lets +onlyGivenNames x1
  clear_value x1
  refine OnNext.next ?_
  with_reducible refine ite_keeps (P := State.Keeps a) ?_ ?_
  · with_reducible apply State.kill_keeps
    exact h1
  · exact h1

theorem execTrap_keeps {a : State} {z1 z2 z3} (h3 : State.Keeps a z3) :
    OnNext (State.Keeps a) (execTrap z1 z2 z3) := by
  unfold execTrap
  refine OnNext.next ?_
  with_reducible apply State.bareFrame_keeps
  · exact h3
  · intro y1 h2
    with_reducible apply State.trap_keeps
    with_reducible apply State.silent_keeps
    exact h2

theorem execRft_keeps {a : State} {z1 z2} (h2 : State.Keeps a z2) :
    OnNext (State.Keeps a) (execRft z1 z2) := by
  unfold execRft
  refine OnNext.next ?_
  split
  · rename_i v1 v2
    with_reducible apply State.modAct_keeps
    with_reducible apply State.settle_keeps
    with_reducible apply State.silent_keeps
    exact h2
  · rename_i v3 v4
    with_reducible apply State.settle_keeps
    with_reducible apply State.silent_keeps
    exact h2

theorem execBkpt_keeps {a : State} {z1 z2 z3 z4} (h4 : State.Keeps a z4) :
    OnNext (State.Keeps a) (execBkpt z1 z2 z3 z4) := by
  unfold execBkpt
  refine OnNext.next ?_
  with_reducible apply State.frame_keeps
  · exact h4
  · intro y1 h2
    extract_lets +onlyGivenNames x3
    clear_value x3
    extract_lets +onlyGivenNames x4
    have h5 : OnFst (State.Keeps a) x4 := by
      unfold x4
      with_reducible apply State.mark_keeps
      exact h2
    clear_value x4
    extract_lets +onlyGivenNames x6
    have h7 : State.Keeps a x6 := by
      unfold x6
      with_reducible apply State.modFire_keeps
      with_reducible apply State.emit_keeps
      exact h5
    clear_value x6
    with_reducible refine ite_keeps (P := State.Keeps a) ?_ ?_
    · with_reducible apply State.stopPages_keeps
      exact h7
    · with_reducible apply State.trap_keeps
      exact h7

theorem execTsc_keeps {a : State} {z1 z2 z3 z4} (h4 : State.Keeps a z4) :
    OnNext (State.Keeps a) (execTsc z1 z2 z3 z4) := by
  unfold execTsc
  refine OnNext.next ?_
  with_reducible apply State.two_keeps
  exact h4

theorem execTrace_keeps {a : State} {z1 z2 z3 z4 z5} (h5 : State.Keeps a z5) :
    OnNext (State.Keeps a) (execTrace z1 z2 z3 z4 z5) := by
  unfold execTrace
  refine OnNext.next ?_
  with_reducible apply State.frame_keeps
  · exact h5
  · intro y1 h2
    extract_lets +onlyGivenNames x3
    clear_value x3
    extract_lets +onlyGivenNames x4
    have h5 : State.Keeps a x4 := by
      unfold x4
      with_reducible apply State.traceRec_keeps
      exact h2
    clear_value x4
    extract_lets +onlyGivenNames x6
    have h7 : OnFst (State.Keeps a) x6 := by
      unfold x6
      with_reducible apply State.mark_keeps
      exact h5
    clear_value x6
    with_reducible apply State.emit_keeps
    exact h7

theorem execEvt_keeps {a : State} {z1 z2 z3 z4 z5} (h5 : State.Keeps a z5) :
    OnNext (State.Keeps a) (execEvt z1 z2 z3 z4 z5) := by
  unfold execEvt
  refine OnNext.next ?_
  with_reducible apply State.frame_keeps
  · exact h5
  · intro y1 h2
    extract_lets +onlyGivenNames x3
    clear_value x3
    with_reducible apply State.sched_keeps
    with_reducible apply State.modFire_keeps
    with_reducible apply State.flush_keeps
    exact h2

theorem execEst_keeps {a : State} {z1 z2 z3 z4} (h4 : State.Keeps a z4) :
    OnNext (State.Keeps a) (execEst z1 z2 z3 z4) := by
  unfold execEst
  refine OnNext.next ?_
  with_reducible apply State.frame_keeps
  · exact h4
  · intro y1 h2
    extract_lets +onlyGivenNames x3
    clear_value x3
    extract_lets +onlyGivenNames x4
    have h5 : State.Keeps a x4 := by
      unfold x4
      with_reducible apply State.modInst_keeps
      exact h2
    clear_value x4
    extract_lets +onlyGivenNames x6
    have h7 : OnFst (State.Keeps a) x6 := by
      unfold x6
      with_reducible apply State.mark_keeps
      exact h5
    clear_value x6
    with_reducible apply State.emit_keeps
    exact h7

theorem State.deliverEvents_keeps {a : State} {z1 z2 z3} (h1 : State.Keeps a z1) :
    State.Keeps a (State.deliverEvents z1 z2 z3) := by
  induction z3 generalizing z1 z2 with
  | zero =>
    unfold State.deliverEvents
    exact h1
  | succ n ih =>
    unfold State.deliverEvents
    extract_lets +onlyGivenNames x1
    clear_value x1
    extract_lets +onlyGivenNames x2
    clear_value x2
    extract_lets +onlyGivenNames x3
    have h6 : ∀ y4 y5, State.Keeps a y4 → State.Keeps a (x3 y4 y5) := by
      intro y4 y5 h7
      unfold x3
      with_reducible apply State.modPart_keeps
      exact h7
    clear_value x3
    split
    · rename_i v8 v9
      exact h1
    · rename_i v10 v11 v12 v13
      extract_lets +onlyGivenNames x14
      clear_value x14
      extract_lets +onlyGivenNames x15
      clear_value x15
      extract_lets +onlyGivenNames x16
      clear_value x16
      extract_lets +onlyGivenNames x17
      clear_value x17
      extract_lets +onlyGivenNames x18
      have h19 : State.Keeps a x18 := by
        unfold x18
        with_reducible apply State.memWrite_keeps
        exact h1
      clear_value x18
      with_reducible refine ite_keeps (P := State.Keeps a) ?_ ?_
      · exact h1
      · with_reducible refine ite_keeps (P := State.Keeps a) ?_ ?_
        · with_reducible apply ih
          with_reducible apply h6
          exact h1
        · with_reducible refine ite_keeps (P := State.Keeps a) ?_ ?_
          · exact h1
          · with_reducible apply ih
            with_reducible apply h6
            exact h19

theorem execEventRecordWrite_keeps {a : State} {z1} (h1 : State.Keeps a z1) :
    OnNext (State.Keeps a) (execEventRecordWrite z1) := by
  unfold execEventRecordWrite
  extract_lets +onlyGivenNames x1
  clear_value x1
  extract_lets +onlyGivenNames x2
  clear_value x2
  extract_lets +onlyGivenNames x3
  clear_value x3
  extract_lets +onlyGivenNames x4
  clear_value x4
  extract_lets +onlyGivenNames x5
  have h6 : State.Keeps a x5 := by
    unfold x5
    with_reducible apply State.postVf_keeps
    exact h1
  clear_value x5
  extract_lets +onlyGivenNames x7
  have h8 : State.Keeps a x7 := by
    unfold x7
    with_reducible refine ite_keeps (P := State.Keeps a) ?_ ?_
    · split
      · rename_i v9 v10
        exact h1
      · rename_i v11 v12 v13
        extract_lets +onlyGivenNames x14
        clear_value x14
        with_reducible apply State.checkDone_keeps
        with_reducible apply State.answer_keeps
        exact h6
    · exact h1
  clear_value x7
  refine OnNext.next ?_
  with_reducible apply State.deliverEvents_keeps
  exact h8

theorem execHistogramReadout_keeps {a : State} {z1} (h1 : State.Keeps a z1) :
    OnNext (State.Keeps a) (execHistogramReadout z1) := by
  unfold execHistogramReadout
  extract_lets +onlyGivenNames x1
  clear_value x1
  extract_lets +onlyGivenNames x2
  clear_value x2
  extract_lets +onlyGivenNames x3
  clear_value x3
  extract_lets +onlyGivenNames x4
  have h5 : State.Keeps a x4 := by
    unfold x4
    with_reducible apply State.setCsrF_keeps
    exact h1
  clear_value x4
  refine OnNext.next ?_
  split
  · rename_i v6 v7 v8
    with_reducible apply State.postVf_keeps
    exact h5
  · rename_i v9 v10 v11
    have h12 : State.Keeps a v10 := by
      refine OnOk.get ?_ v11
      with_reducible apply State.writePinned_keeps
      exact h5
    with_reducible refine ite_keeps (P := State.Keeps a) ?_ ?_
    · with_reducible apply State.modPart_keeps
      exact h12
    · exact h12

theorem execTraceSample_keeps {a : State} {z1} (h1 : State.Keeps a z1) :
    OnNext (State.Keeps a) (execTraceSample z1) := by
  unfold execTraceSample
  extract_lets +onlyGivenNames x1
  clear_value x1
  extract_lets +onlyGivenNames x2
  clear_value x2
  extract_lets +onlyGivenNames x3
  clear_value x3
  extract_lets +onlyGivenNames x4
  clear_value x4
  extract_lets +onlyGivenNames x5
  clear_value x5
  extract_lets +onlyGivenNames x6
  clear_value x6
  extract_lets +onlyGivenNames x7
  clear_value x7
  extract_lets +onlyGivenNames x8
  have h9 : State.Keeps a x8 := by
    unfold x8
    with_reducible apply State.modPart_keeps
    exact h1
  clear_value x8
  extract_lets +onlyGivenNames x10
  have h11 : State.Keeps a x10 := by
    unfold x10
    split
    · rename_i v12 v13 v14
      with_reducible apply State.traceRec_keeps
      exact h9
    · rename_i v15 v16
      exact h9
  clear_value x10
  refine OnNext.next ?_
  with_reducible refine ite_keeps (P := State.Keeps a) ?_ ?_
  · exact h1
  · with_reducible refine ite_keeps (P := State.Keeps a) ?_ ?_
    · with_reducible apply State.modPart_keeps
      exact h1
    · with_reducible apply State.sched_keeps
      exact h11

theorem State.writeFrames_keeps {a : State} {z1 z2 z3 z4} (h1 : State.Keeps a z1) :
    State.Keeps a (State.writeFrames z1 z2 z3 z4) := by
  induction z4 generalizing z1 z2 z3 with
  | zero =>
    unfold State.writeFrames
    exact h1
  | succ n ih =>
    unfold State.writeFrames
    extract_lets +onlyGivenNames x1
    clear_value x1
    extract_lets +onlyGivenNames x2
    have h5 : ∀ y3 y4, State.Keeps a y3 → State.Keeps a (x2 y3 y4) := by
      intro y3 y4 h6
      unfold x2
      with_reducible apply State.modPart_keeps
      exact h6
    clear_value x2
    split
    · rename_i v7 v8
      exact h1
    · rename_i v9 v10 v11
      split
      · rename_i v12 v13
        exact h1
      · rename_i v14 v15 v16 v17
        extract_lets +onlyGivenNames x18
        clear_value x18
        extract_lets +onlyGivenNames x19
        have h21 : ∀ y20, State.Keeps a y20 → State.Keeps a (x19 y20) := by
          intro y20 h22
          unfold x19
          with_reducible apply ih
          with_reducible apply State.bumpCsr_keeps
          with_reducible apply h5
          exact h22
        clear_value x19
        extract_lets +onlyGivenNames x23
        clear_value x23
        with_reducible refine ite_keeps (P := State.Keeps a) ?_ ?_
        · with_reducible apply h21
          exact h1
        · with_reducible refine ite_keeps (P := State.Keeps a) ?_ ?_
          · with_reducible refine ite_keeps (P := State.Keeps a) ?_ ?_
            · with_reducible apply h21
              exact h1
            · exact h1
          · split
            · rename_i v24 v25 v26
              with_reducible apply h21
              exact h1
            · rename_i v27 v28 v29
              have h30 : State.Keeps a v28 := by
                refine OnOk.get ?_ v29
                with_reducible apply State.writePinned_keeps
                exact h1
              extract_lets +onlyGivenNames x31
              have h32 : State.Keeps a x31 := by
                unfold x31
                with_reducible apply h5
                exact h30
              clear_value x31
              with_reducible apply ih
              with_reducible apply State.setCsr_keeps
              exact h32

theorem execLoglineFrameWrite_keeps {a : State} {z1} (h1 : State.Keeps a z1) :
    OnNext (State.Keeps a) (execLoglineFrameWrite z1) := by
  unfold execLoglineFrameWrite
  refine OnNext.next ?_
  with_reducible apply State.writeFrames_keeps
  exact h1

theorem State.dumpWrite_keeps {a : State} {z1 z2 z3 z4 z5} (h1 : State.Keeps a z1) :
    OnFst (State.Keeps a) (State.dumpWrite z1 z2 z3 z4 z5) := by
  induction z5 generalizing z1 z2 z3 z4 with
  | nil =>
    unfold State.dumpWrite
    refine OnFst.mk ?_
    exact h1
  | cons y l ih =>
    unfold State.dumpWrite
    with_reducible refine ite_keeps (P := OnFst (State.Keeps a)) ?_ ?_
    · with_reducible apply ih
      exact h1
    · split
      · rename_i v1 v2 v3
        refine OnFst.mk ?_
        exact h1
      · rename_i v4 v5 v6
        have h7 : State.Keeps a v5 := by
          refine OnOk.get ?_ v6
          with_reducible apply State.writePinned_keeps
          exact h1
        with_reducible apply ih
        exact h7

theorem execCoreDump_keeps {a : State} {z1} (h1 : State.Keeps a z1) :
    OnNext (State.Keeps a) (execCoreDump z1) := by
  unfold execCoreDump
  extract_lets +onlyGivenNames x1
  clear_value x1
  extract_lets +onlyGivenNames x2
  have h3 : State.Keeps a x2 := by
    unfold x2
    with_reducible refine ite_keeps (P := State.Keeps a) ?_ ?_
    · exact h1
    · with_reducible apply State.haltAll_keeps
      exact h1
  clear_value x2
  extract_lets +onlyGivenNames x4
  clear_value x4
  extract_lets +onlyGivenNames x5
  clear_value x5
  extract_lets +onlyGivenNames x6
  clear_value x6
  extract_lets +onlyGivenNames x7
  clear_value x7
  extract_lets +onlyGivenNames x8
  clear_value x8
  extract_lets +onlyGivenNames x9
  clear_value x9
  extract_lets +onlyGivenNames x10
  clear_value x10
  extract_lets +onlyGivenNames x11
  clear_value x11
  extract_lets +onlyGivenNames x12
  have h15 : ∀ y13 y14, State.Keeps a y13 → State.Keeps a (x12 y13 y14) := by
    intro y13 y14 h16
    unfold x12
    with_reducible apply State.setCsrF_keeps
    with_reducible apply State.setCsrF_keeps
    exact h16
  clear_value x12
  refine OnNext.next ?_
  with_reducible refine ite_keeps (P := State.Keeps a) ?_ ?_
  · with_reducible apply h15
    exact h3
  · split
    · rename_i v17 v18 v19
      with_reducible apply h15
      exact h3
    · rename_i v20 v21 v22
      have h23 : State.Keeps a v21 := by
        refine OnOk.get ?_ v22
        with_reducible apply State.writePinned_keeps
        exact h3
      extract_lets +onlyGivenNames x24
      have h25 : OnFst (State.Keeps a) x24 := by
        unfold x24
        with_reducible apply State.dumpWrite_keeps
        exact h23
      clear_value x24
      extract_lets +onlyGivenNames x26
      clear_value x26
      split
      · rename_i v27 v28 v29
        have h30 : State.Keeps a v21 := by
          refine OnOk.get ?_ v22
          with_reducible apply State.writePinned_keeps
          exact h3
        with_reducible apply h15
        exact h25
      · rename_i v31 v32 v33
        have h34 : State.Keeps a v21 := by
          refine OnOk.get ?_ v22
          with_reducible apply State.writePinned_keeps
          exact h3
        have h35 : State.Keeps a v32 := by
          refine OnOk.get ?_ v33
          with_reducible apply State.writePinned_keeps
          exact h25
        with_reducible apply h15
        exact h35

theorem State.begin_keeps {a : State} {z1 z2 z3 z4 z5 z6} (h1 : State.Keeps a z1) :
    State.Keeps a (State.begin z1 z2 z3 z4 z5 z6) := by
  unfold State.begin
  extract_lets +onlyGivenNames x1
  clear_value x1
  extract_lets +onlyGivenNames x2
  clear_value x2
  extract_lets +onlyGivenNames x3
  have h4 : State.Keeps a x3 := by
    unfold x3
    with_reducible apply State.modPage_keeps
    exact h1
  clear_value x3
  refine State.Keeps.upd (s := x3) rfl rfl rfl rfl ?_
  exact h4

theorem State.after_keeps {a : State} {z1 z2 z3 z4} (h1 : State.Keeps a z1) :
    State.Keeps a (State.after z1 z2 z3 z4) := by
  unfold State.after
  extract_lets +onlyGivenNames x1
  clear_value x1
  extract_lets +onlyGivenNames x2
  have h3 : State.Keeps a x2 := by
    unfold x2
    with_reducible refine ite_keeps (P := State.Keeps a) ?_ ?_
    · with_reducible apply State.freed_keeps
      exact h1
    · exact h1
  clear_value x2
  extract_lets +onlyGivenNames x4
  have h5 : State.Keeps a x4 := by
    unfold x4
    with_reducible refine ite_keeps (P := State.Keeps a) ?_ ?_
    · with_reducible apply State.schedFire_keeps
      exact h3
    · exact h3
  clear_value x4
  with_reducible apply State.checkDone_keeps
  exact h5

theorem State.askPromote_keeps {a : State} {z1 z2 z3 z4} (h1 : State.Keeps a z1) :
    State.Keeps a (State.askPromote z1 z2 z3 z4) := by
  unfold State.askPromote
  extract_lets +onlyGivenNames x1
  clear_value x1
  extract_lets +onlyGivenNames x2
  have h3 : State.Keeps a x2 := by
    unfold x2
    refine foldl_keeps ?_ ?_
    · exact h1
    · intro y4 y5 h6
      with_reducible apply State.sched_keeps
      exact h6
  clear_value x2
  with_reducible apply State.modPage_keeps
  exact h3

theorem State.placed_keeps {a : State} {z1 z2 z3} (h1 : State.Keeps a z1) :
    State.Keeps a (State.placed z1 z2 z3) := by
  unfold State.placed
  extract_lets +onlyGivenNames x1
  clear_value x1
  extract_lets +onlyGivenNames x2
  clear_value x2
  extract_lets +onlyGivenNames x3
  clear_value x3
  extract_lets +onlyGivenNames x4
  clear_value x4
  extract_lets +onlyGivenNames x5
  clear_value x5
  extract_lets +onlyGivenNames x6
  clear_value x6
  extract_lets +onlyGivenNames x7
  clear_value x7
  extract_lets +onlyGivenNames x8
  clear_value x8
  refine State.Keeps.upd (s := z1) rfl rfl rfl rfl ?_
  exact h1

theorem State.withFetchWord_keeps {a : State} {z1 z2 z3} (h1 : State.Keeps a z1) :
    State.Keeps a (State.withFetchWord z1 z2 z3) := by
  unfold State.withFetchWord
  with_reducible apply State.placed_keeps
  exact h1

end Sys2Proof.Machine
end

