-- ==== Sys2Proof/Laws/Ops.lean ====
section
/-! SUPPORT. Sys2Proof/Laws/Ops.lean: what the shared operations do, one lemma each: sending, marking with poison, the frames of a firing,
updates of a partition, a page and a firing, and what each leaves as it was. -/

namespace Sys2Proof.Machine

/-! ### Marks and frames of a firing (R16 to R18, R82 to R84) -/

/-- A result without an event carries the first poisoned operand's origin and changes nothing. -/
theorem mark_zero (s : State) (v : Word) : s.mark ⟨v, 0⟩ = (s, withPoison (tokV v) s.cur.firstOrigin) := by
  unfold State.mark withPoison tokV
  cases s.cur.firstOrigin <;> rfl
/-- A firing that P and its operands let run runs. -/
theorem frame_run (s : State) (pr lat t1 t0 run) (h : s.cur.verdict pr = .run) : s.frame pr lat t1 t0 run = run s := by
  unfold State.frame; rw [h]
/-- One result without an event. -/
theorem one_zero (s : State) (pr lat t1 t0 v) (h : s.cur.verdict pr = .run) :
    Host.Outcome.next (s.one pr lat t1 t0 ⟨v, 0⟩) = s.gives lat t1 t0 v := by
  unfold State.one; rw [frame_run _ _ _ _ _ _ h]; simp only [mark_zero]; rfl
/-- Two results without events. -/
theorem two_zero (s : State) (pr lat t1 t0 v0 v1) (h : s.cur.verdict pr = .run) :
    Host.Outcome.next (s.two pr lat t1 t0 ⟨v0, 0⟩ ⟨v1, 0⟩) = s.givesTwo lat t1 t0 v0 v1 := by
  unfold State.two; rw [frame_run _ _ _ _ _ _ h]; simp only [mark_zero]; rfl
/-- A result with an event and no poisoned operand takes a new origin. -/
theorem mark_kind (s : State) (v : Word) (k : Nat) (hk : k ≠ 0) (ho : s.cur.firstOrigin = none) :
    s.mark ⟨v, k⟩ = ((s.origin k).1, withPoison (tokV v) (some (s.origin k).2)) := by
  unfold State.mark; rw [ho]; simp only [hk, if_false]; rfl
/-- With a poisoned operand no new origin is taken (R82). -/
theorem mark_pois (s : State) (v : Word) (k : Nat) (ho : s.cur.firstOrigin ≠ none) :
    s.mark ⟨v, k⟩ = (s, withPoison (tokV v) s.cur.firstOrigin) := by
  unfold State.mark withPoison tokV
  cases h : s.cur.firstOrigin with
  | none => exact absurd h ho
  | some o => rfl
/-- One result with an event of kind k, or none. -/
theorem one_kind (s : State) (pr lat t1 t0 v k) (h : s.cur.verdict pr = .run) :
    Host.Outcome.next (s.one pr lat t1 t0 ⟨v, k⟩) = s.givesKind lat t1 t0 v k := by
  unfold State.givesKind
  split
  · rename_i hk
    unfold State.one; rw [frame_run _ _ _ _ _ _ h]
    rcases hk with hk | hk
    · subst hk; simp only [mark_zero]; rfl
    · simp only [mark_pois _ _ _ hk]; rfl
  · rename_i hk
    have h1 : k ≠ 0 := fun e => hk (.inl e)
    have h2 : s.cur.firstOrigin = none := by by_contra e; exact hk (.inr e)
    unfold State.one; rw [frame_run _ _ _ _ _ _ h]
    simp only [mark_kind _ _ _ h1 h2]

/-- A routing form that P lets run runs, whatever its operands. -/
theorem raw_run (s : State) (pr lat t1 t0 run) (h : s.cur.pRuns pr) : s.rawFrame pr lat t1 t0 run = run s := by
  obtain ⟨h1, h2⟩ := h
  unfold State.rawFrame; simp [h1, h2]
/-- A form without results that may run runs. -/
theorem bare_run (s : State) (pr run) (h : s.cur.verdict pr = .run) : s.bareFrame pr run = run s := by unfold State.bareFrame; rw [h]
/-- A form without results that may not run leaves nothing. -/
theorem bare_not (s : State) (pr run) (h : s.cur.verdict pr ≠ .run) : s.bareFrame pr run = s.silent := by
  unfold State.bareFrame; split
  · rename_i e; exact absurd e h
  · rfl


/-! ### Sending (R10, R36) -/

/-- A step is pending after its insertion exactly when it was or is the new one. -/
theorem mem_ins (x t : Timed) (l) : x ∈ insTimed t l ↔ x = t ∨ x ∈ l := by
  induction l with
  | nil => simp [insTimed]
  | cons y l ih => unfold insTimed; split <;> simp [ih]; tauto

/-- A token without a target, or that ends its instance's iterations, is not sent; any other arrives as `arrivalOf` says. -/
theorem send_eq (s : State) (lat : Nat) (tg : Target) (r : Token) :
    (tg ≠ .none → ∀ tag, s.carryTag s.cur tg = some tag →
      s.send s.cur (s.now + lat) tg r = { s with agenda := insTimed (s.arrivalOf (s.now + lat) tg tag r) s.agenda }) ∧
    (tg = .none ∨ s.carryTag s.cur tg = none → s.send s.cur (s.now + lat) tg r = s) := by
  refine ⟨fun hn tag ht => ?_, fun hn => ?_⟩
  · unfold State.send
    rw [ht]
    cases tg with
    | none => exact absurd rfl hn
    | _ => simp only [State.sched, State.arrivalOf]
  · unfold State.send
    rcases hn with h | h
    · subst h; rfl
    · rw [h]; cases tg <;> rfl

/-! ### Updates by a key -/

/-- Finding by a key in a list that was updated by the key. -/
theorem find_map {α : Type} (l : List α) (k : α → Nat) (n m : Nat) (f : α → α) (hf : ∀ x, k (f x) = k x) :
    (l.map (fun x => if k x == n then f x else x)).find? (fun x => k x == m) =
      (l.find? (fun x => k x == m)).map (fun x => if k x == n then f x else x) := by
  induction l with
  | nil => rfl
  | cons x l ih =>
    have h : k (if k x == n then f x else x) = k x := by split <;> simp [hf]
    simp only [List.map_cons, List.find?_cons, h, ih]
    cases hk : (k x == m)
    · rfl
    · rfl

/-- A partition after an update of one partition. -/
theorem part_mod (s : State) (p q : Nat) (f : Part → Part) (hf : ∀ x, (f x).num = x.num) :
    (s.modPart p f).part q = s.part q ∨ (q = p ∧ (s.modPart p f).part q = f (s.part q)) := by
  unfold State.part State.modPart
  simp only [find_map s.parts Part.num p q f hf]
  cases h : s.parts.find? (fun x => x.num == q) with
  | none => left; rfl
  | some x =>
    have hx := List.find?_some h
    simp only [beq_iff_eq] at hx
    by_cases hp : x.num = p
    · right; refine ⟨by omega, ?_⟩; simp [hp]
    · left; simp [hp]

/-- A page after an update of one page. -/
theorem page_mod (x : Part) (p q : Nat) (f : Page → Page) (hf : ∀ x, (f x).num = x.num) :
    (x.modPage p f).page q = x.page q ∨ (q = p ∧ (x.modPage p f).page q = f (x.page q)) := by
  unfold Part.page Part.modPage
  simp only [find_map x.pages Page.num p q f hf]
  cases h : x.pages.find? (fun x => x.num == q) with
  | none => left; rfl
  | some x =>
    have hx := List.find?_some h
    simp only [beq_iff_eq] at hx
    by_cases hp : x.num = p
    · right; refine ⟨by omega, ?_⟩; simp [hp]
    · left; simp [hp]

/-- The updated element is found where the old one stood. -/
theorem find_map' {α κ : Type} [BEq κ] [LawfulBEq κ] (l : List α) (k : α → κ) (n : κ) (f : α → α) (hf : ∀ x, k (f x) = k x) :
    (l.map (fun x => if k x == n then f x else x)).find? (fun x => k x == n) = (l.find? (fun x => k x == n)).map f := by
  induction l with
  | nil => rfl
  | cons x l ih =>
    have h : k (if k x == n then f x else x) = k x := by split <;> simp [hf]
    simp only [List.map_cons, List.find?_cons, h, ih]
    cases k x == n <;> simp

/-- The page that was updated, where it exists. -/
theorem page_in (s : State) (p pg : Nat) (f : Page → Page) (hf : ∀ y, (f y).num = y.num) (hne : s.page p pg ≠ { num := pg }) :
    (s.modPage p pg f).page p pg = f (s.page p pg) := by
  have h1 : ∀ (x : Part), x.page pg ≠ { num := pg } → (x.modPage pg f).page pg = f (x.page pg) := by
    intro x hx
    unfold Part.page Part.modPage at *
    dsimp only at *
    rw [find_map' x.pages Page.num pg f hf]
    cases h : x.pages.find? (fun y => y.num == pg) with
    | none => rw [h] at hx; exact absurd rfl hx
    | some y => rfl
  unfold State.modPage State.page State.modPart State.part at *
  dsimp only at *
  rw [find_map' s.parts Part.num p (fun x => x.modPage pg f) (fun _ => rfl)]
  cases h : s.parts.find? (fun y => y.num == p) with
  | none => rw [h] at hne; exact absurd rfl hne
  | some x => rw [h] at hne; exact h1 x hne

/-- The activation that was updated, where it exists. -/
theorem act_in (s : State) (p pg : Nat) (tag : Tag) (f : Act → Act) (hf : ∀ a, (f a).tag = a.tag) (a : Act) (h : (s.page p pg).act? tag = some a) :
    ((s.modAct p pg tag f).page p pg).act? tag = some (f a) := by
  unfold State.modAct
  rw [page_in]
  · unfold Page.act? at *
    dsimp only
    rw [find_map' _ Act.tag tag f hf, h]; rfl
  · intro _; rfl
  · intro e; rw [e] at h; cases h

/-- An update of a firing leaves every activation. -/
theorem fire_act (s : State) (p pg n p' pg' : Nat) (g) (tag) : ((s.modFire p pg n g).page p' pg').act? tag = (s.page p' pg').act? tag := by
  unfold State.modFire State.modPage State.page
  rcases part_mod s p p' (fun x => x.modPage pg (fun y => { y with fires := y.fires.map (fun f => if f.fid == n then g f else f) })) (fun _ => rfl) with h | ⟨_, h⟩ <;> rw [h]
  rcases page_mod (s.part p') pg pg' (fun y => { y with fires := y.fires.map (fun f => if f.fid == n then g f else f) }) (fun _ => rfl) with h | ⟨_, h⟩ <;> rw [h]
  rfl
/-- A CSR update leaves every activation. -/
theorem csr_act (s : State) (p n v p' pg' : Nat) (tag) : ((s.setCsr p n v).page p' pg').act? tag = (s.page p' pg').act? tag := by
  unfold State.setCsr State.page
  rcases part_mod s p p' (fun x => { x with csr := kset x.csr n (word v) }) (fun _ => rfl) with h | ⟨_, h⟩ <;> rw [h]
  rfl
/-! ### The frame of a scalar firing (R89): nothing but its own firing record, the count of new origins, the agenda, the event queue and the bytes that P
names may change -/

/-- What may differ: firing (cp, cpg, cf), CSR 0x098 of cp, agenda, event queue, and the bytes of P. -/
structure Framed (cp cpg cf : Nat) (P : Nat → Prop) (s t : State) : Prop where
  core : t.core = s.core
  pc : ∀ p, (t.part p).core = (s.part p).core
  yc : ∀ p pg, (t.page p pg).core = (s.page p pg).core
  fo : ∀ p pg n, (p, pg, n) ≠ (cp, cpg, cf) → (t.page p pg).fire? n = (s.page p pg).fire? n
  co : ∀ p n, (p, n) ≠ (cp, 0x098) → (t.part p).csrN n = (s.part p).csrN n
  mb : Mem.wf s.mem = true → ∀ a, ¬P a → Mem.byte t.mem a = Mem.byte s.mem a
  wf : Mem.wf s.mem = true → Mem.wf t.mem = true

theorem Framed.refl (a b c P s) : Framed a b c P s s := ⟨rfl, fun _ => rfl, fun _ _ => rfl, fun _ _ _ _ => rfl, fun _ _ _ => rfl, fun _ _ _ => rfl, id⟩
theorem Framed.trans {a b c P s t u} (h : Framed a b c P s t) (g : Framed a b c P t u) : Framed a b c P s u :=
  ⟨g.core.trans h.core, fun p => (g.pc p).trans (h.pc p), fun p q => (g.yc p q).trans (h.yc p q),
   fun p q n e => (g.fo p q n e).trans (h.fo p q n e), fun p n e => (g.co p n e).trans (h.co p n e),
   fun w a e => (g.mb (h.wf w) a e).trans (h.mb w a e), fun w => g.wf (h.wf w)⟩
theorem Framed.mono {a b c P Q s t} (hPQ : ∀ x, P x → Q x) (h : Framed a b c P s t) : Framed a b c Q s t :=
  { h with mb := fun w a e => h.mb w a (fun hp => e (hPQ a hp)) }

/-- States that differ outside their partitions and memory. -/
theorem Framed.out {a b c P} {s t : State} (h1 : t.parts = s.parts) (h2 : t.mem = s.mem) (h3 : t.core = s.core) : Framed a b c P s t := by
  have hp : ∀ p, t.part p = s.part p := fun p => by unfold State.part; rw [h1]
  refine ⟨h3, fun p => by rw [hp], fun p q => by unfold State.page; rw [hp], fun p q n _ => by unfold State.page; rw [hp],
    fun p n _ => by rw [hp], fun _ a _ => by rw [h2], fun w => by rw [h2]; exact w⟩

/-- An update of one partition's CSR 0x098, event queue or lost origins. -/
theorem Framed.part {a b c P} {s : State} {f : Part → Part} (hn : ∀ x, (f x).num = x.num) (hc : ∀ x, (f x).core = x.core)
    (hy : ∀ x, (f x).pages = x.pages) (hs : ∀ x n, n ≠ 0x098 → (f x).csrN n = x.csrN n) : Framed a b c P s (s.modPart a f) := by
  have h := fun q => part_mod s a q f hn
  refine ⟨rfl, fun p => ?_, fun p q => ?_, fun p q n _ => ?_, fun p n e => ?_, fun _ _ _ => rfl, id⟩
  · rcases h p with e | ⟨_, e⟩ <;> rw [e]; exact hc _
  · unfold State.page; rcases h p with e | ⟨_, e⟩ <;> rw [e]; simp only [Part.page, hy]
  · unfold State.page; rcases h p with e | ⟨_, e⟩ <;> rw [e]; simp only [Part.page, hy]
  · rcases h p with e' | ⟨e1, e'⟩ <;> rw [e']
    exact hs _ _ (fun hh => e (by rw [e1, hh]))

/-- An update of one firing. -/
theorem Framed.fire {a b c P} {s : State} {g : Fire → Fire} (hg : ∀ x, (g x).fid = x.fid) : Framed a b c P s (s.modFire a b c g) := by
  have hn : ∀ x : Part, (x.modPage b (fun y => { y with fires := y.fires.map (fun f => if f.fid == c then g f else f) })).num = x.num := fun _ => rfl
  have h := fun q => part_mod s a q _ hn
  have hpg : ∀ (x : Part) q, (x.modPage b (fun y => { y with fires := y.fires.map (fun f => if f.fid == c then g f else f) })).page q = x.page q ∨
     (q = b ∧ (x.modPage b (fun y => { y with fires := y.fires.map (fun f => if f.fid == c then g f else f) })).page q = { x.page q with fires := (x.page q).fires.map (fun f => if f.fid == c then g f else f) }) :=
    fun x q => page_mod x b q _ (fun _ => rfl)
  show Framed a b c P s (s.modPart a (fun x => x.modPage b _))
  refine ⟨rfl, fun p => ?_, fun p q => ?_, fun p q n hne => ?_, fun p n e => ?_, fun _ _ _ => rfl, id⟩
  · rcases h p with e | ⟨_, e⟩ <;> rw [e]; rfl
  · unfold State.page
    rcases h p with e | ⟨_, e⟩ <;> rw [e]
    rcases hpg (s.part p) q with e | ⟨_, e⟩ <;> rw [e]; rfl
  · unfold State.page
    rcases h p with e | ⟨e1, e⟩ <;> rw [e]
    rcases hpg (s.part p) q with e | ⟨e2, e⟩ <;> rw [e]
    unfold Page.fire?
    rw [find_map _ Fire.fid c n g hg]
    have hc : n ≠ c := fun h => hne (by rw [e1, e2, h])
    cases hh : ((s.part p).page q).fires.find? (fun f => f.fid == n) with
    | none => rfl
    | some f =>
      have := List.find?_some hh
      simp only [beq_iff_eq] at this
      simp; intro h; omega
  · rcases h p with e' | ⟨e1, e'⟩ <;> rw [e']; rfl

/-- An update of a page but for its firings. -/
theorem Framed.page {a b c P} {s : State} {g : Page → Page} (hn : ∀ y, (g y).num = y.num) (hc : ∀ y, (g y).core = y.core)
    (hf : ∀ y, (g y).fires = y.fires) : Framed a b c P s (s.modPage a b g) := by
  have h := fun q => part_mod s a q (fun x => x.modPage b g) (fun _ => rfl)
  have hpg : ∀ (x : Part) q, (x.modPage b g).page q = x.page q ∨ (q = b ∧ (x.modPage b g).page q = g (x.page q)) := fun x q => page_mod x b q g hn
  refine ⟨rfl, fun p => ?_, fun p q => ?_, fun p q n _ => ?_, fun p n _ => ?_, fun _ _ _ => rfl, id⟩
  · rcases h p with e | ⟨_, e⟩ <;> rw [show (s.modPage a b g).part p = _ from e]; rfl
  · unfold State.page
    rcases h p with e | ⟨_, e⟩ <;> rw [show (s.modPage a b g).part p = _ from e]
    rcases hpg (s.part p) q with e | ⟨_, e⟩ <;> rw [e]; exact hc _
  · unfold State.page
    rcases h p with e | ⟨_, e⟩ <;> rw [show (s.modPage a b g).part p = _ from e]
    rcases hpg (s.part p) q with e | ⟨_, e⟩ <;> rw [e]; unfold Page.fire?; rw [hf]
  · rcases h p with e | ⟨_, e⟩ <;> rw [show (s.modPage a b g).part p = _ from e]; rfl

/-- Sending a token. -/
theorem send_framed {a b c P} (s : State) (cc lv tg t) : Framed a b c P s (s.send cc lv tg t) := by
  unfold State.send; split
  · exact Framed.refl ..
  · split
    · exact Framed.refl ..
    · exact Framed.out rfl rfl rfl

theorem send_cur (s : State) (cc lv tg t) : (s.send cc lv tg t).cur = s.cur := by
  unfold State.send; split
  · rfl
  · split <;> rfl

/-- Sending the results of a firing. -/
theorem emit_framed {P} (s : State) (lat t0 t1 r0 r1) (a b c) (h : (s.cur.p, s.cur.pg, s.cur.fid) = (a, b, c)) :
    Framed a b c P s (s.emit lat t0 t1 r0 r1) := by
  cases h
  unfold State.emit
  dsimp only
  refine Framed.trans ?_ (Framed.fire (fun _ => rfl))
  refine Framed.trans ?_ (Framed.page (fun _ => rfl) (fun _ => rfl) (fun _ => rfl))
  exact (send_framed s _ _ t0 r0).trans (send_framed _ _ _ t1 r1)

/-- A firing that gives nothing. -/
theorem silent_framed {P} (s : State) (a b c) (h : (s.cur.p, s.cur.pg, s.cur.fid) = (a, b, c)) : Framed a b c P s s.silent := by
  cases h; exact Framed.fire (fun _ => rfl)

theorem sched_framed {a b c P} (s : State) (t r i z) : Framed a b c P s (s.sched t r i z) := Framed.out rfl rfl rfl
theorem bad_framed {a b c P} (s : State) (l) : Framed a b c P s { s with badLines := l } := Framed.out rfl rfl rfl
theorem foldl_framed {β : Type} {a b c P} (l : List β) (f : State → β → State) (hf : ∀ z y, Framed a b c P z (f z y)) : ∀ s, Framed a b c P s (l.foldl f s) := by
  induction l with
  | nil => intro s; exact Framed.refl ..
  | cons y l ih => intro s; exact (hf s y).trans (ih _)

theorem setGuard_framed {a b c P} (s : State) (g) : Framed a b c P s (s.setGuard g) := Framed.out rfl rfl rfl
theorem reencryptFail_framed {a b c P} (s : State) (n) : Framed a b c P s (s.reencryptFail n) := by
  unfold State.reencryptFail
  dsimp only
  repeat' split
  all_goals first | exact sched_framed .. | exact Framed.refl ..
theorem countLine_framed {a b c P} (s : State) (n) : Framed a b c P s (s.countLine n) := by
  unfold State.countLine State.reencrypt
  dsimp only
  split
  · exact ((reencryptFail_framed ..).trans (setGuard_framed ..)).trans (setGuard_framed ..)
  · exact setGuard_framed ..
theorem countLines_framed {a b c P} (n : Nat) : ∀ (s : State) (l), Framed a b c P s (s.countLines l n) := by
  induction n with
  | zero => intro s l; exact Framed.refl ..
  | succ n ih => intro s l; exact (countLine_framed ..).trans (ih _ _)
theorem plaiter_framed {a b c P} (s : State) (h) : Framed a b c P s (s.plaiterMark h) := by
  unfold State.plaiterMark
  dsimp only
  refine Framed.trans (foldl_framed _ _ (fun z y => ?_) s) (Framed.out rfl rfl rfl)
  exact Framed.out rfl rfl rfl

/-- A write changes the bytes that it names and no other. -/
theorem memWrite_framed {a b c} (s : State) (k : Nat) (bs) : Framed a b c (fun x => k ≤ x ∧ x < k + bs.length) s (s.memWrite k bs) := by
  have h0 : Framed a b c (fun x => k ≤ x ∧ x < k + bs.length) s
      { s with oldPtes := s.noteOld (Mem.sets s.mem k bs) (wordsAt k bs.length), mem := Mem.sets s.mem k bs } := by
    refine ⟨rfl, fun _ => rfl, fun _ _ => rfl, fun _ _ _ _ => rfl, fun _ _ _ => rfl, fun w x hx => ?_, fun w => Mem.sets_wf w⟩
    exact Mem.byte_sets_other w (by omega)
  unfold State.memWrite
  dsimp only
  split
  · exact h0
  · refine h0.trans ((countLines_framed _ _ _).trans (Framed.trans (bad_framed ..) (plaiter_framed ..)))

/-- Another key's value. -/
theorem kget_kset {α : Type} (l : List (Nat × α)) (k m v) (h : m ≠ k) : kget (kset l k v) m = kget l m := by
  induction l with
  | nil => simp [kset, kget]; omega
  | cons x l ih =>
    obtain ⟨x, y⟩ := x
    unfold kset; split
    · rename_i e; simp [kget, e, h.symm]
    · unfold kget at *
      by_cases hx : x = m
      · simp [hx]
      · simpa [hx] using ih

theorem setCsr98_framed {b c P} (s : State) (p hi lo v) : Framed p b c P s (s.setCsrF p 0x098 hi lo v) := by
  unfold State.setCsrF State.setCsr
  refine Framed.part (fun _ => rfl) (fun _ => rfl) (fun _ => rfl) (fun x n hn => ?_)
  simp only [Part.csrN, csrWord]
  rw [kget_kset _ _ _ _ hn]

theorem postVf_framed {b c P} (s : State) (p ty pay) : Framed p b c P s (s.postVf p ty pay) := by
  unfold State.postVf
  dsimp only
  split
  · refine Framed.trans ?_ (sched_framed ..)
    exact Framed.part (fun _ => rfl) (fun _ => rfl) (fun _ => rfl) (fun x n hn => rfl)
  · exact Framed.part (fun _ => rfl) (fun _ => rfl) (fun _ => rfl) (fun x n hn => rfl)

/-- An access uses the translation by the tables as they stand, or an old one (R211). -/
theorem translate_cases (s : State) (x : Part) (va : Nat) :
    s.translate x va = s.walkNow x va ∨ ∃ l ∈ s.oldLeaves x va, s.translate x va = .ok l := by
  unfold State.translate
  split
  · exact .inl rfl
  · rename_i l ls h
    split
    · rename_i k hk
      exact .inr ⟨k, by rw [h]; exact List.mem_of_getElem? hk, rfl⟩
    · exact .inl rfl

/-- Without an old entry of the partition, it is the translation by the tables. -/
theorem translate_now (s : State) (x : Part) (va : Nat) (h : ∀ r ∈ s.oldPtes, r.p ≠ x.num) : s.translate x va = s.walkNow x va := by
  have e : s.oldPtes.filter (fun r => r.p == x.num) = [] := by
    rw [List.filter_eq_nil_iff]; intro r hr; simpa using h r hr
  unfold State.translate State.oldLeaves
  simp [e]

theorem addr_congr (s t : State) (p va) (h : (t.part p).core = (s.part p).core) (hm : t.mem = s.mem) (ho : t.oldPtes = s.oldPtes) (hw : t.core = s.core) :
    t.devAddr p va = s.devAddr p va := by
  have h1 : (t.part p).wins = (s.part p).wins := by have := congrArg Part.wins h; exact this
  have h2 : (t.part p).root = (s.part p).root := by have := congrArg Part.root h; exact this
  have h3 : (t.part p).hostLen = (s.part p).hostLen := by have := congrArg Part.hostLen h; exact this
  have h4 : (t.part p).regions = (s.part p).regions := by have := congrArg Part.regions h; exact this
  have h5 : (t.part p).hostBase = (s.part p).hostBase := by have := congrArg Part.hostBase h; exact this
  have h6 : t.windows = s.windows := by have := congrArg State.windows hw; exact this
  have h7 : (t.part p).num = (s.part p).num := by have := congrArg Part.num h; exact this
  have h8 : t.now = s.now := by have := congrArg State.now hw; exact this
  have h9 : t.free = s.free := by have := congrArg State.free hw; exact this
  have hk : (t.part p).tableKey = (s.part p).tableKey := by funext a; unfold Part.tableKey; rw [h5]
  have hh : ∀ n r, t.windowHas n r = s.windowHas n r := by intro n r; unfold State.windowHas; rw [h6]
  have hr : t.readPte (t.part p) = s.readPte (s.part p) := by funext a; unfold State.readPte; rw [hk, hm]
  have hq : t.tableOk (t.part p) = s.tableOk (s.part p) := by funext a; unfold State.tableOk; simp only [hh, h1, h3, h4]
  have hl : t.reach (t.part p) = s.reach (s.part p) := by funext l; unfold State.reach State.leafOk; simp only [hh, h3, h4, hk]
  have hn : t.walkNow (t.part p) va = s.walkNow (s.part p) va := by unfold State.walkNow; rw [hr, hq, h1, h2, hl]
  have hv : t.oldLeaves (t.part p) va = s.oldLeaves (s.part p) va := by
    unfold State.oldLeaves; rw [ho, h7, hk, hr, hq, h1, h2, hl, hn]
  unfold State.devAddr State.translate
  rw [hv, hn, h8, h9]

/-- The bytes of the log entry that a new origin would write. -/
def OriginBytes (s : State) (a : Nat) : Prop := ∃ pa, s.originPlace = some pa ∧ pa ≤ a ∧ a < pa + 32

theorem le_len (n v) : (leBytes n v).length = n := by
  induction n generalizing v with
  | zero => rfl
  | succ n ih => simp [leBytes, ih]

theorem write_framed {b c} (s s1 : State) (p va bs lost) (h : Framed p b c (fun _ => False) s s1) (hl : bs.length ≤ 32) (hm : s1.mem = s.mem) (ho : s1.oldPtes = s.oldPtes) (hlost : Framed p b c (fun _ => False) s1 lost)
   (P : Nat → Prop) (hP : ∀ pa a, s.devAddr p va = some pa → pa ≤ a → a < pa + 32 → P a) :
   (∀ t, s1.devWrite p va bs = some t → Framed p b c P s t) ∧ Framed p b c P s lost := by
  refine ⟨?_, (h.trans hlost).mono (fun _ => False.elim)⟩
  intro t ht
  have e := addr_congr s s1 p va (h.pc p) hm ho h.core
  have h' : Framed p b c P s s1 := h.mono (fun _ => False.elim)
  unfold State.devWrite at ht
  split at ht
  · cases ht; exact h'.trans (sched_framed ..)
  · split at ht
    · rename_i l hl'
      split at ht
      · rename_i hw
        cases ht
        have hd : s.devAddr p va = some l.pa := by
          rw [← e]; unfold State.devAddr; rw [hl']; simp only [Bool.and_eq_true] at hw; simp [hw.1]
        exact h'.trans ((memWrite_framed s1 l.pa bs).mono (fun x hx => hP l.pa x hd hx.1 (by omega)))
      · cases ht
    · cases ht

/-- A new origin: its log entry, its count, and perhaps an event. -/
theorem origin_framed (s : State) (k : Nat) : Framed s.cur.p s.cur.pg s.cur.fid (OriginBytes s) s (s.origin k).1 := by
  have pl : ∀ pa a, s.originPlace = some pa → pa ≤ a → a < pa + 32 → OriginBytes s a := fun pa a h1 h2 h3 => ⟨pa, h1, h2, h3⟩
  unfold State.originPlace at pl
  dsimp only at pl
  unfold State.origin State.newOrigin
  by_cases h : bits ((s.part s.cur.p).csrN 152) 26 16 < 0x7FF
  · simp only [h, if_true] at pl ⊢
    have hs : ∀ v, Framed s.cur.p s.cur.pg s.cur.fid (fun _ => False) s (s.setCsrF s.cur.p 0x098 26 16 v) := fun v => setCsr98_framed ..
    split
    · rename_i hd
      exact (write_framed s _ _ _ _ _ (hs _) (by simp [le_len]) rfl rfl (Framed.refl ..) _ pl).1 _ hd
    · exact ((hs _).trans (postVf_framed ..)).mono (fun _ => False.elim)
  · simp only [h, if_false] at pl ⊢
    have hf : Framed s.cur.p s.cur.pg s.cur.fid (fun _ => False) s (s.modPart s.cur.p (fun y => { y with plogOver := (s.part s.cur.p).plogOver + 1 })) :=
      Framed.part (fun _ => rfl) (fun _ => rfl) (fun _ => rfl) (fun x n hn => rfl)
    split
    · rename_i hd
      refine (write_framed s _ _ _ _ _ hf ?_ rfl rfl (Framed.refl ..) _ pl).1 _ hd
      split <;> simp [le_len]
    · exact (hf.trans (postVf_framed ..)).mono (fun _ => False.elim)

/-- Marking a result. -/
theorem mark_framed (s : State) (r : Res) : Framed s.cur.p s.cur.pg s.cur.fid (OriginBytes s) s (s.mark r).1 := by
  by_cases ho : s.cur.firstOrigin = none
  · obtain ⟨v, k⟩ := r
    by_cases hk : k = 0
    · subst hk; rw [mark_zero]; exact Framed.refl ..
    · rw [mark_kind _ _ _ hk ho]; exact origin_framed ..
  · obtain ⟨v, k⟩ := r
    rw [mark_pois _ _ _ ho]; exact Framed.refl ..

theorem core_cur {a b c P s t} (h : Framed a b c P s t) : t.cur = s.cur := by have := congrArg State.cur h.core; exact this

/-- A firing of one result. -/
theorem one_framed (s : State) (pr lat t1 t0 r) : Framed s.cur.p s.cur.pg s.cur.fid (OriginBytes s) s (s.one pr lat t1 t0 r) := by
  unfold State.one State.frame
  split
  · have h := mark_framed s r
    refine h.trans (emit_framed _ _ _ _ _ _ _ _ _ ?_)
    rw [core_cur h]
  · exact silent_framed _ _ _ _ rfl
  · exact emit_framed _ _ _ _ _ _ _ _ _ rfl

/-- A firing of two results. -/
theorem two_framed (s : State) (pr lat t1 t0 r0 r1) (Q : Nat → Prop) (h1 : ∀ a, OriginBytes s a → Q a) (h2 : ∀ a, r0.kind ≠ 0 → OriginBytes (s.origin r0.kind).1 a → Q a):
    Framed s.cur.p s.cur.pg s.cur.fid Q s (s.two pr lat t1 t0 r0 r1) := by
  unfold State.two State.frame
  split
  · have h := (mark_framed s r0).mono h1
    have hc := core_cur h
    have hm : Framed s.cur.p s.cur.pg s.cur.fid Q (s.mark r0).1 ((s.mark r0).1.mark r1).1 := by
      have := mark_framed (s.mark r0).1 r1
      rw [hc] at this
      refine this.mono ?_
      obtain ⟨v, k⟩ := r0
      by_cases ho : s.cur.firstOrigin = none
      · by_cases hk : k = 0
        · subst hk; rw [mark_zero]; exact h1
        · rw [mark_kind _ _ _ hk ho]; exact fun a => h2 a hk
      · rw [mark_pois _ _ _ ho]; exact h1
    refine (h.trans hm).trans (emit_framed _ _ _ _ _ _ _ _ _ ?_)
    rw [core_cur (h.trans hm)]
  · exact silent_framed _ _ _ _ rfl
  · exact emit_framed _ _ _ _ _ _ _ _ _ rfl

end Sys2Proof.Machine
end

