-- ==== Sys2Proof/Laws/PerInstr.lean ====
section
/-! SUPPORT. Sys2Proof/Laws/PerInstr.lean: for every instruction, that the word which the encoder makes of it decodes to it (R32 to R44). -/

namespace Sys2Proof.Laws

open Machine

/-- The word of a well-formed instruction decodes to it. A step of the device has no word. -/
def RoundTrip.Statement (i : Instr) : Prop := i.wf = true → ∀ w, encode i = some w → decode w = .ok i

/-- An instruction that has one word, which decodes to it. -/
theorem roundTrip_of {i : Instr} {v : Word} (he : encode i = some v) (h : i.wf = true → decode v = .ok i) : RoundTrip.Statement i := by
  intro w u e
  rw [he] at e
  cases e
  exact h w

theorem RoundTrip.read (g : BitVec 6) (t1 : Target) (t0 : Target) : RoundTrip.Statement (.read g t1 t0) :=
  roundTrip_of rfl fun h => by
    have h := Bool.and_eq_true_iff.mp h
    have hf : fmtOf (opF (wordG g t1 t0)).toNat = some .g := by rw [opF_wordG]; rfl
    unfold decode
    rw [if_neg (ne_zero_of_fmtOf hf), hf]
    simp only [t1F_wordG, t0F_wordG]
    exact withTarget_encTarget h.1 (withTarget_encTarget h.2 (by rw [bit18F_wordG, gF_wordG]; rfl))
theorem RoundTrip.mov (pr : BitVec 2) (t1 : Target) (t0 : Target) : RoundTrip.Statement (.mov pr t1 t0) := roundTrip_of rfl fun h => have h := Bool.and_eq_true_iff.mp h; decode_wordT rfl rfl h.1 h.2
theorem RoundTrip.null (pr : BitVec 2) (t1 : Target) (t0 : Target) : RoundTrip.Statement (.null pr t1 t0) := roundTrip_of rfl fun h => have h := Bool.and_eq_true_iff.mp h; decode_wordT rfl rfl h.1 h.2
theorem RoundTrip.bfly (pr : BitVec 2) (t1 : Target) (t0 : Target) : RoundTrip.Statement (.bfly pr t1 t0) := roundTrip_of rfl fun h => have h := Bool.and_eq_true_iff.mp h; decode_wordT rfl rfl h.1 h.2
theorem RoundTrip.fbfly (pr : BitVec 2) (t1 : Target) (t0 : Target) : RoundTrip.Statement (.fbfly pr t1 t0) := roundTrip_of rfl fun h => have h := Bool.and_eq_true_iff.mp h; decode_wordT rfl rfl h.1 h.2
theorem RoundTrip.genc (imm : BitVec 16) (t0 : Target) : RoundTrip.Statement (.genc imm t0) :=
  roundTrip_of rfl fun h => by
    have hf : fmtOf (opF (wordK 3#7 imm t0)).toNat = some .k := by rw [opF_wordK]; rfl
    unfold decode
    rw [if_neg (ne_zero_of_fmtOf hf), hf]
    simp only [t0F_wordK]
    exact withTarget_encTarget h (by rw [opF_wordK, imm16F_wordK]; rfl)
theorem RoundTrip.gens (imm : BitVec 16) (t0 : Target) : RoundTrip.Statement (.gens imm t0) :=
  roundTrip_of rfl fun h => by
    have hf : fmtOf (opF (wordK 4#7 imm t0)).toNat = some .k := by rw [opF_wordK]; rfl
    unfold decode
    rw [if_neg (ne_zero_of_fmtOf hf), hf]
    simp only [t0F_wordK]
    exact withTarget_encTarget h (by rw [opF_wordK, imm16F_wordK]; rfl)
theorem RoundTrip.genh (imm : BitVec 16) (t0 : Target) : RoundTrip.Statement (.genh imm t0) :=
  roundTrip_of rfl fun h => by
    have hf : fmtOf (opF (wordK 5#7 imm t0)).toNat = some .k := by rw [opF_wordK]; rfl
    unfold decode
    rw [if_neg (ne_zero_of_fmtOf hf), hf]
    simp only [t0F_wordK]
    exact withTarget_encTarget h (by rw [opF_wordK, imm16F_wordK]; rfl)
theorem RoundTrip.steer (pr : BitVec 2) (t1 : Target) (t0 : Target) : RoundTrip.Statement (.steer pr t1 t0) := roundTrip_of rfl fun h => have h := Bool.and_eq_true_iff.mp h; decode_wordT rfl rfl h.1 h.2
theorem RoundTrip.steerf (pr : BitVec 2) (t1 : Target) (t0 : Target) : RoundTrip.Statement (.steerf pr t1 t0) := roundTrip_of rfl fun h => have h := Bool.and_eq_true_iff.mp h; decode_wordT rfl rfl h.1 h.2
theorem RoundTrip.merge (pr : BitVec 2) (t1 : Target) (t0 : Target) : RoundTrip.Statement (.merge pr t1 t0) := roundTrip_of rfl fun h => have h := Bool.and_eq_true_iff.mp h; decode_wordT rfl rfl h.1 h.2
theorem RoundTrip.sel (pr : BitVec 2) (t1 : Target) (t0 : Target) : RoundTrip.Statement (.sel pr t1 t0) := roundTrip_of rfl fun h => have h := Bool.and_eq_true_iff.mp h; decode_wordT rfl rfl h.1 h.2
theorem RoundTrip.loop (pr : BitVec 2) (off : BitVec 20) : RoundTrip.Statement (.loop pr off) :=
  roundTrip_of rfl fun _ => by
    have hf : fmtOf (opF (wordB 9#7 pr 0#3 off)).toNat = some .b := by rw [opF_wordB]; rfl
    unfold decode
    rw [if_neg (ne_zero_of_fmtOf hf), hf]
    simp only
    rw [opF_wordB, prF_wordB, exitF_wordB, off20F_wordB]
    rfl
theorem RoundTrip.br (pr : BitVec 2) (exit : BitVec 3) (off : BitVec 20) : RoundTrip.Statement (.br pr exit off) :=
  roundTrip_of rfl fun _ => by
    have hf : fmtOf (opF (wordB 10#7 pr exit off)).toNat = some .b := by rw [opF_wordB]; rfl
    unfold decode
    rw [if_neg (ne_zero_of_fmtOf hf), hf]
    simp only
    rw [opF_wordB, prF_wordB, exitF_wordB, off20F_wordB]
    rfl
theorem RoundTrip.brr (pr : BitVec 2) (exit : BitVec 3) : RoundTrip.Statement (.brr pr exit) :=
  roundTrip_of rfl fun _ => by
    have e1 : (0#2 ++ exit).extractLsb' 3 2 = 0#2 := (by decide : ∀ (exit : BitVec 3), (0#2 ++ exit).extractLsb' 3 2 = 0#2) exit
    have e2 : (0#2 ++ exit).extractLsb' 0 3 = exit := (by decide : ∀ (exit : BitVec 3), (0#2 ++ exit).extractLsb' 0 3 = exit) exit
    exact decode_wordN (mk := fun pr => .brr pr exit) rfl (by simp [formN, e1, e2])
theorem RoundTrip.call (pr : BitVec 2) (fn : BitVec 5) (t1 : Target) (t0 : Target) : RoundTrip.Statement (.call pr fn t1 t0) := roundTrip_of rfl fun h => have h := Bool.and_eq_true_iff.mp h; decode_wordT (mk := fun pr t1 t0 => .call pr fn t1 t0) rfl rfl h.1 h.2
theorem RoundTrip.callr (pr : BitVec 2) (t1 : Target) (t0 : Target) : RoundTrip.Statement (.callr pr t1 t0) := roundTrip_of rfl fun h => have h := Bool.and_eq_true_iff.mp h; decode_wordT rfl rfl h.1 h.2
theorem RoundTrip.ret (pr : BitVec 2) : RoundTrip.Statement (.ret pr) := roundTrip_of rfl fun _ => decode_wordN rfl rfl
theorem RoundTrip.add (pr : BitVec 2) (t1 : Target) (t0 : Target) : RoundTrip.Statement (.add pr t1 t0) := roundTrip_of rfl fun h => have h := Bool.and_eq_true_iff.mp h; decode_wordT rfl rfl h.1 h.2
theorem RoundTrip.sub (pr : BitVec 2) (t1 : Target) (t0 : Target) : RoundTrip.Statement (.sub pr t1 t0) := roundTrip_of rfl fun h => have h := Bool.and_eq_true_iff.mp h; decode_wordT rfl rfl h.1 h.2
theorem RoundTrip.and (pr : BitVec 2) (t1 : Target) (t0 : Target) : RoundTrip.Statement (.and pr t1 t0) := roundTrip_of rfl fun h => have h := Bool.and_eq_true_iff.mp h; decode_wordT rfl rfl h.1 h.2
theorem RoundTrip.or (pr : BitVec 2) (t1 : Target) (t0 : Target) : RoundTrip.Statement (.or pr t1 t0) := roundTrip_of rfl fun h => have h := Bool.and_eq_true_iff.mp h; decode_wordT rfl rfl h.1 h.2
theorem RoundTrip.xor (pr : BitVec 2) (t1 : Target) (t0 : Target) : RoundTrip.Statement (.xor pr t1 t0) := roundTrip_of rfl fun h => have h := Bool.and_eq_true_iff.mp h; decode_wordT rfl rfl h.1 h.2
theorem RoundTrip.andn (pr : BitVec 2) (t1 : Target) (t0 : Target) : RoundTrip.Statement (.andn pr t1 t0) := roundTrip_of rfl fun h => have h := Bool.and_eq_true_iff.mp h; decode_wordT rfl rfl h.1 h.2
theorem RoundTrip.orn (pr : BitVec 2) (t1 : Target) (t0 : Target) : RoundTrip.Statement (.orn pr t1 t0) := roundTrip_of rfl fun h => have h := Bool.and_eq_true_iff.mp h; decode_wordT rfl rfl h.1 h.2
theorem RoundTrip.xnor (pr : BitVec 2) (t1 : Target) (t0 : Target) : RoundTrip.Statement (.xnor pr t1 t0) := roundTrip_of rfl fun h => have h := Bool.and_eq_true_iff.mp h; decode_wordT rfl rfl h.1 h.2
theorem RoundTrip.shl (pr : BitVec 2) (t1 : Target) (t0 : Target) : RoundTrip.Statement (.shl pr t1 t0) := roundTrip_of rfl fun h => have h := Bool.and_eq_true_iff.mp h; decode_wordT rfl rfl h.1 h.2
theorem RoundTrip.shr (pr : BitVec 2) (t1 : Target) (t0 : Target) : RoundTrip.Statement (.shr pr t1 t0) := roundTrip_of rfl fun h => have h := Bool.and_eq_true_iff.mp h; decode_wordT rfl rfl h.1 h.2
theorem RoundTrip.sar (pr : BitVec 2) (t1 : Target) (t0 : Target) : RoundTrip.Statement (.sar pr t1 t0) := roundTrip_of rfl fun h => have h := Bool.and_eq_true_iff.mp h; decode_wordT rfl rfl h.1 h.2
theorem RoundTrip.rol (pr : BitVec 2) (t1 : Target) (t0 : Target) : RoundTrip.Statement (.rol pr t1 t0) := roundTrip_of rfl fun h => have h := Bool.and_eq_true_iff.mp h; decode_wordT rfl rfl h.1 h.2
theorem RoundTrip.ror (pr : BitVec 2) (t1 : Target) (t0 : Target) : RoundTrip.Statement (.ror pr t1 t0) := roundTrip_of rfl fun h => have h := Bool.and_eq_true_iff.mp h; decode_wordT rfl rfl h.1 h.2
theorem RoundTrip.min (pr : BitVec 2) (t1 : Target) (t0 : Target) : RoundTrip.Statement (.min pr t1 t0) := roundTrip_of rfl fun h => have h := Bool.and_eq_true_iff.mp h; decode_wordT rfl rfl h.1 h.2
theorem RoundTrip.max (pr : BitVec 2) (t1 : Target) (t0 : Target) : RoundTrip.Statement (.max pr t1 t0) := roundTrip_of rfl fun h => have h := Bool.and_eq_true_iff.mp h; decode_wordT rfl rfl h.1 h.2
theorem RoundTrip.minu (pr : BitVec 2) (t1 : Target) (t0 : Target) : RoundTrip.Statement (.minu pr t1 t0) := roundTrip_of rfl fun h => have h := Bool.and_eq_true_iff.mp h; decode_wordT rfl rfl h.1 h.2
theorem RoundTrip.maxu (pr : BitVec 2) (t1 : Target) (t0 : Target) : RoundTrip.Statement (.maxu pr t1 t0) := roundTrip_of rfl fun h => have h := Bool.and_eq_true_iff.mp h; decode_wordT rfl rfl h.1 h.2
theorem RoundTrip.addc (pr : BitVec 2) (t1 : Target) (t0 : Target) : RoundTrip.Statement (.addc pr t1 t0) := roundTrip_of rfl fun h => have h := Bool.and_eq_true_iff.mp h; decode_wordT rfl rfl h.1 h.2
theorem RoundTrip.subb (pr : BitVec 2) (t1 : Target) (t0 : Target) : RoundTrip.Statement (.subb pr t1 t0) := roundTrip_of rfl fun h => have h := Bool.and_eq_true_iff.mp h; decode_wordT rfl rfl h.1 h.2
theorem RoundTrip.absd (pr : BitVec 2) (t1 : Target) (t0 : Target) : RoundTrip.Statement (.absd pr t1 t0) := roundTrip_of rfl fun h => have h := Bool.and_eq_true_iff.mp h; decode_wordT rfl rfl h.1 h.2
theorem RoundTrip.mul (pr : BitVec 2) (t1 : Target) (t0 : Target) : RoundTrip.Statement (.mul pr t1 t0) := roundTrip_of rfl fun h => have h := Bool.and_eq_true_iff.mp h; decode_wordT rfl rfl h.1 h.2
theorem RoundTrip.mulh (pr : BitVec 2) (t1 : Target) (t0 : Target) : RoundTrip.Statement (.mulh pr t1 t0) := roundTrip_of rfl fun h => have h := Bool.and_eq_true_iff.mp h; decode_wordT rfl rfl h.1 h.2
theorem RoundTrip.mulhu (pr : BitVec 2) (t1 : Target) (t0 : Target) : RoundTrip.Statement (.mulhu pr t1 t0) := roundTrip_of rfl fun h => have h := Bool.and_eq_true_iff.mp h; decode_wordT rfl rfl h.1 h.2
theorem RoundTrip.mulhsu (pr : BitVec 2) (t1 : Target) (t0 : Target) : RoundTrip.Statement (.mulhsu pr t1 t0) := roundTrip_of rfl fun h => have h := Bool.and_eq_true_iff.mp h; decode_wordT rfl rfl h.1 h.2
theorem RoundTrip.madd (pr : BitVec 2) (t1 : Target) (t0 : Target) : RoundTrip.Statement (.madd pr t1 t0) := roundTrip_of rfl fun h => have h := Bool.and_eq_true_iff.mp h; decode_wordT rfl rfl h.1 h.2
theorem RoundTrip.msub (pr : BitVec 2) (t1 : Target) (t0 : Target) : RoundTrip.Statement (.msub pr t1 t0) := roundTrip_of rfl fun h => have h := Bool.and_eq_true_iff.mp h; decode_wordT rfl rfl h.1 h.2
theorem RoundTrip.div (pr : BitVec 2) (t1 : Target) (t0 : Target) : RoundTrip.Statement (.div pr t1 t0) := roundTrip_of rfl fun h => have h := Bool.and_eq_true_iff.mp h; decode_wordT rfl rfl h.1 h.2
theorem RoundTrip.divu (pr : BitVec 2) (t1 : Target) (t0 : Target) : RoundTrip.Statement (.divu pr t1 t0) := roundTrip_of rfl fun h => have h := Bool.and_eq_true_iff.mp h; decode_wordT rfl rfl h.1 h.2
theorem RoundTrip.rem (pr : BitVec 2) (t1 : Target) (t0 : Target) : RoundTrip.Statement (.rem pr t1 t0) := roundTrip_of rfl fun h => have h := Bool.and_eq_true_iff.mp h; decode_wordT rfl rfl h.1 h.2
theorem RoundTrip.remu (pr : BitVec 2) (t1 : Target) (t0 : Target) : RoundTrip.Statement (.remu pr t1 t0) := roundTrip_of rfl fun h => have h := Bool.and_eq_true_iff.mp h; decode_wordT rfl rfl h.1 h.2
theorem RoundTrip.neg (pr : BitVec 2) (t1 : Target) (t0 : Target) : RoundTrip.Statement (.neg pr t1 t0) := roundTrip_of rfl fun h => have h := Bool.and_eq_true_iff.mp h; decode_wordT rfl rfl h.1 h.2
theorem RoundTrip.not (pr : BitVec 2) (t1 : Target) (t0 : Target) : RoundTrip.Statement (.not pr t1 t0) := roundTrip_of rfl fun h => have h := Bool.and_eq_true_iff.mp h; decode_wordT rfl rfl h.1 h.2
theorem RoundTrip.abs (pr : BitVec 2) (t1 : Target) (t0 : Target) : RoundTrip.Statement (.abs pr t1 t0) := roundTrip_of rfl fun h => have h := Bool.and_eq_true_iff.mp h; decode_wordT rfl rfl h.1 h.2
theorem RoundTrip.clz (pr : BitVec 2) (t1 : Target) (t0 : Target) : RoundTrip.Statement (.clz pr t1 t0) := roundTrip_of rfl fun h => have h := Bool.and_eq_true_iff.mp h; decode_wordT rfl rfl h.1 h.2
theorem RoundTrip.ctz (pr : BitVec 2) (t1 : Target) (t0 : Target) : RoundTrip.Statement (.ctz pr t1 t0) := roundTrip_of rfl fun h => have h := Bool.and_eq_true_iff.mp h; decode_wordT rfl rfl h.1 h.2
theorem RoundTrip.popc (pr : BitVec 2) (t1 : Target) (t0 : Target) : RoundTrip.Statement (.popc pr t1 t0) := roundTrip_of rfl fun h => have h := Bool.and_eq_true_iff.mp h; decode_wordT rfl rfl h.1 h.2
theorem RoundTrip.brev (pr : BitVec 2) (t1 : Target) (t0 : Target) : RoundTrip.Statement (.brev pr t1 t0) := roundTrip_of rfl fun h => have h := Bool.and_eq_true_iff.mp h; decode_wordT rfl rfl h.1 h.2
theorem RoundTrip.bswap (pr : BitVec 2) (t1 : Target) (t0 : Target) : RoundTrip.Statement (.bswap pr t1 t0) := roundTrip_of rfl fun h => have h := Bool.and_eq_true_iff.mp h; decode_wordT rfl rfl h.1 h.2
theorem RoundTrip.sextb (pr : BitVec 2) (t1 : Target) (t0 : Target) : RoundTrip.Statement (.sextb pr t1 t0) := roundTrip_of rfl fun h => have h := Bool.and_eq_true_iff.mp h; decode_wordT rfl rfl h.1 h.2
theorem RoundTrip.sexth (pr : BitVec 2) (t1 : Target) (t0 : Target) : RoundTrip.Statement (.sexth pr t1 t0) := roundTrip_of rfl fun h => have h := Bool.and_eq_true_iff.mp h; decode_wordT rfl rfl h.1 h.2
theorem RoundTrip.zextb (pr : BitVec 2) (t1 : Target) (t0 : Target) : RoundTrip.Statement (.zextb pr t1 t0) := roundTrip_of rfl fun h => have h := Bool.and_eq_true_iff.mp h; decode_wordT rfl rfl h.1 h.2
theorem RoundTrip.zexth (pr : BitVec 2) (t1 : Target) (t0 : Target) : RoundTrip.Statement (.zexth pr t1 t0) := roundTrip_of rfl fun h => have h := Bool.and_eq_true_iff.mp h; decode_wordT rfl rfl h.1 h.2
theorem RoundTrip.extr (pr : BitVec 2) (sgn : BitVec 1) (len : BitVec 5) (lsb : BitVec 5) (t0 : Target) : RoundTrip.Statement (.extr pr sgn len lsb t0) :=
  roundTrip_of rfl fun h => by
    have h := Bool.and_eq_true_iff.mp h
    have e1 : (0#3 ++ sgn ++ len ++ lsb).extractLsb' 11 3 = 0#3 := by
      apply BitVec.eq_of_toNat_eq
      simp only [BitVec.extractLsb'_toNat, append_toNat, Nat.shiftRight_eq_div_pow, BitVec.toNat_ofNat]
      omega
    have e2 : (0#3 ++ sgn ++ len ++ lsb).extractLsb' 10 1 = sgn := by
      apply BitVec.eq_of_toNat_eq
      simp only [BitVec.extractLsb'_toNat, append_toNat, Nat.shiftRight_eq_div_pow, BitVec.toNat_ofNat]
      omega
    have e3 : (0#3 ++ sgn ++ len ++ lsb).extractLsb' 5 5 = len := by
      apply BitVec.eq_of_toNat_eq
      simp only [BitVec.extractLsb'_toNat, append_toNat, Nat.shiftRight_eq_div_pow, BitVec.toNat_ofNat]
      omega
    have e4 : (0#3 ++ sgn ++ len ++ lsb).extractLsb' 0 5 = lsb := by
      apply BitVec.eq_of_toNat_eq
      simp only [BitVec.extractLsb'_toNat, append_toNat, Nat.shiftRight_eq_div_pow, BitVec.toNat_ofNat]
      omega
    exact decode_wordI (mk := fun pr t0 => .extr pr sgn len lsb t0) rfl (by simp [formI, e1, e2, e3, e4, h.2]) h.1
theorem RoundTrip.ins (pr : BitVec 2) (sgn : BitVec 1) (len : BitVec 5) (lsb : BitVec 5) (t0 : Target) : RoundTrip.Statement (.ins pr sgn len lsb t0) :=
  roundTrip_of rfl fun h => by
    have h := Bool.and_eq_true_iff.mp h
    have e1 : (0#3 ++ sgn ++ len ++ lsb).extractLsb' 11 3 = 0#3 := by
      apply BitVec.eq_of_toNat_eq
      simp only [BitVec.extractLsb'_toNat, append_toNat, Nat.shiftRight_eq_div_pow, BitVec.toNat_ofNat]
      omega
    have e2 : (0#3 ++ sgn ++ len ++ lsb).extractLsb' 10 1 = sgn := by
      apply BitVec.eq_of_toNat_eq
      simp only [BitVec.extractLsb'_toNat, append_toNat, Nat.shiftRight_eq_div_pow, BitVec.toNat_ofNat]
      omega
    have e3 : (0#3 ++ sgn ++ len ++ lsb).extractLsb' 5 5 = len := by
      apply BitVec.eq_of_toNat_eq
      simp only [BitVec.extractLsb'_toNat, append_toNat, Nat.shiftRight_eq_div_pow, BitVec.toNat_ofNat]
      omega
    have e4 : (0#3 ++ sgn ++ len ++ lsb).extractLsb' 0 5 = lsb := by
      apply BitVec.eq_of_toNat_eq
      simp only [BitVec.extractLsb'_toNat, append_toNat, Nat.shiftRight_eq_div_pow, BitVec.toNat_ofNat]
      omega
    exact decode_wordI (mk := fun pr t0 => .ins pr sgn len lsb t0) rfl (by simp [formI, e1, e2, e3, e4, h.2]) h.1
theorem RoundTrip.addi (pr : BitVec 2) (imm : BitVec 14) (t0 : Target) : RoundTrip.Statement (.addi pr imm t0) := roundTrip_of rfl fun h => decode_wordI (mk := fun pr t0 => .addi pr imm t0) rfl rfl h
theorem RoundTrip.andi (pr : BitVec 2) (imm : BitVec 14) (t0 : Target) : RoundTrip.Statement (.andi pr imm t0) := roundTrip_of rfl fun h => decode_wordI (mk := fun pr t0 => .andi pr imm t0) rfl rfl h
theorem RoundTrip.ori (pr : BitVec 2) (imm : BitVec 14) (t0 : Target) : RoundTrip.Statement (.ori pr imm t0) := roundTrip_of rfl fun h => decode_wordI (mk := fun pr t0 => .ori pr imm t0) rfl rfl h
theorem RoundTrip.xori (pr : BitVec 2) (imm : BitVec 14) (t0 : Target) : RoundTrip.Statement (.xori pr imm t0) := roundTrip_of rfl fun h => decode_wordI (mk := fun pr t0 => .xori pr imm t0) rfl rfl h
theorem RoundTrip.shli (pr : BitVec 2) (sh : BitVec 5) (t0 : Target) : RoundTrip.Statement (.shli pr sh t0) :=
  roundTrip_of rfl fun h => by
    have e1 : (0#9 ++ sh).extractLsb' 5 9 = 0#9 := (by decide : ∀ (sh : BitVec 5), (0#9 ++ sh).extractLsb' 5 9 = 0#9) sh
    have e2 : (0#9 ++ sh).extractLsb' 0 5 = sh := (by decide : ∀ (sh : BitVec 5), (0#9 ++ sh).extractLsb' 0 5 = sh) sh
    exact decode_wordI (mk := fun pr t0 => .shli pr sh t0) rfl (by simp [formI, e1, e2]) h
theorem RoundTrip.shri (pr : BitVec 2) (sh : BitVec 5) (t0 : Target) : RoundTrip.Statement (.shri pr sh t0) :=
  roundTrip_of rfl fun h => by
    have e1 : (0#9 ++ sh).extractLsb' 5 9 = 0#9 := (by decide : ∀ (sh : BitVec 5), (0#9 ++ sh).extractLsb' 5 9 = 0#9) sh
    have e2 : (0#9 ++ sh).extractLsb' 0 5 = sh := (by decide : ∀ (sh : BitVec 5), (0#9 ++ sh).extractLsb' 0 5 = sh) sh
    exact decode_wordI (mk := fun pr t0 => .shri pr sh t0) rfl (by simp [formI, e1, e2]) h
theorem RoundTrip.sari (pr : BitVec 2) (sh : BitVec 5) (t0 : Target) : RoundTrip.Statement (.sari pr sh t0) :=
  roundTrip_of rfl fun h => by
    have e1 : (0#9 ++ sh).extractLsb' 5 9 = 0#9 := (by decide : ∀ (sh : BitVec 5), (0#9 ++ sh).extractLsb' 5 9 = 0#9) sh
    have e2 : (0#9 ++ sh).extractLsb' 0 5 = sh := (by decide : ∀ (sh : BitVec 5), (0#9 ++ sh).extractLsb' 0 5 = sh) sh
    exact decode_wordI (mk := fun pr t0 => .sari pr sh t0) rfl (by simp [formI, e1, e2]) h
theorem RoundTrip.muli (pr : BitVec 2) (imm : BitVec 14) (t0 : Target) : RoundTrip.Statement (.muli pr imm t0) := roundTrip_of rfl fun h => decode_wordI (mk := fun pr t0 => .muli pr imm t0) rfl rfl h
theorem RoundTrip.teq (pr : BitVec 2) (t1 : Target) (t0 : Target) : RoundTrip.Statement (.teq pr t1 t0) := roundTrip_of rfl fun h => have h := Bool.and_eq_true_iff.mp h; decode_wordT rfl rfl h.1 h.2
theorem RoundTrip.tne (pr : BitVec 2) (t1 : Target) (t0 : Target) : RoundTrip.Statement (.tne pr t1 t0) := roundTrip_of rfl fun h => have h := Bool.and_eq_true_iff.mp h; decode_wordT rfl rfl h.1 h.2
theorem RoundTrip.tlt (pr : BitVec 2) (t1 : Target) (t0 : Target) : RoundTrip.Statement (.tlt pr t1 t0) := roundTrip_of rfl fun h => have h := Bool.and_eq_true_iff.mp h; decode_wordT rfl rfl h.1 h.2
theorem RoundTrip.tle (pr : BitVec 2) (t1 : Target) (t0 : Target) : RoundTrip.Statement (.tle pr t1 t0) := roundTrip_of rfl fun h => have h := Bool.and_eq_true_iff.mp h; decode_wordT rfl rfl h.1 h.2
theorem RoundTrip.tltu (pr : BitVec 2) (t1 : Target) (t0 : Target) : RoundTrip.Statement (.tltu pr t1 t0) := roundTrip_of rfl fun h => have h := Bool.and_eq_true_iff.mp h; decode_wordT rfl rfl h.1 h.2
theorem RoundTrip.tleu (pr : BitVec 2) (t1 : Target) (t0 : Target) : RoundTrip.Statement (.tleu pr t1 t0) := roundTrip_of rfl fun h => have h := Bool.and_eq_true_iff.mp h; decode_wordT rfl rfl h.1 h.2
theorem RoundTrip.tgt (pr : BitVec 2) (t1 : Target) (t0 : Target) : RoundTrip.Statement (.tgt pr t1 t0) := roundTrip_of rfl fun h => have h := Bool.and_eq_true_iff.mp h; decode_wordT rfl rfl h.1 h.2
theorem RoundTrip.tge (pr : BitVec 2) (t1 : Target) (t0 : Target) : RoundTrip.Statement (.tge pr t1 t0) := roundTrip_of rfl fun h => have h := Bool.and_eq_true_iff.mp h; decode_wordT rfl rfl h.1 h.2
theorem RoundTrip.tgtu (pr : BitVec 2) (t1 : Target) (t0 : Target) : RoundTrip.Statement (.tgtu pr t1 t0) := roundTrip_of rfl fun h => have h := Bool.and_eq_true_iff.mp h; decode_wordT rfl rfl h.1 h.2
theorem RoundTrip.tgeu (pr : BitVec 2) (t1 : Target) (t0 : Target) : RoundTrip.Statement (.tgeu pr t1 t0) := roundTrip_of rfl fun h => have h := Bool.and_eq_true_iff.mp h; decode_wordT rfl rfl h.1 h.2
theorem RoundTrip.tbit (pr : BitVec 2) (t1 : Target) (t0 : Target) : RoundTrip.Statement (.tbit pr t1 t0) := roundTrip_of rfl fun h => have h := Bool.and_eq_true_iff.mp h; decode_wordT rfl rfl h.1 h.2
theorem RoundTrip.teqi (pr : BitVec 2) (imm : BitVec 14) (t0 : Target) : RoundTrip.Statement (.teqi pr imm t0) := roundTrip_of rfl fun h => decode_wordI (mk := fun pr t0 => .teqi pr imm t0) rfl rfl h
theorem RoundTrip.tnei (pr : BitVec 2) (imm : BitVec 14) (t0 : Target) : RoundTrip.Statement (.tnei pr imm t0) := roundTrip_of rfl fun h => decode_wordI (mk := fun pr t0 => .tnei pr imm t0) rfl rfl h
theorem RoundTrip.tlti (pr : BitVec 2) (imm : BitVec 14) (t0 : Target) : RoundTrip.Statement (.tlti pr imm t0) := roundTrip_of rfl fun h => decode_wordI (mk := fun pr t0 => .tlti pr imm t0) rfl rfl h
theorem RoundTrip.tgei (pr : BitVec 2) (imm : BitVec 14) (t0 : Target) : RoundTrip.Statement (.tgei pr imm t0) := roundTrip_of rfl fun h => decode_wordI (mk := fun pr t0 => .tgei pr imm t0) rfl rfl h
theorem RoundTrip.tltui (pr : BitVec 2) (imm : BitVec 14) (t0 : Target) : RoundTrip.Statement (.tltui pr imm t0) := roundTrip_of rfl fun h => decode_wordI (mk := fun pr t0 => .tltui pr imm t0) rfl rfl h
theorem RoundTrip.tgeui (pr : BitVec 2) (imm : BitVec 14) (t0 : Target) : RoundTrip.Statement (.tgeui pr imm t0) := roundTrip_of rfl fun h => decode_wordI (mk := fun pr t0 => .tgeui pr imm t0) rfl rfl h
theorem RoundTrip.fadd (pr : BitVec 2) (t1 : Target) (t0 : Target) : RoundTrip.Statement (.fadd pr t1 t0) := roundTrip_of rfl fun h => have h := Bool.and_eq_true_iff.mp h; decode_wordT rfl rfl h.1 h.2
theorem RoundTrip.fsub (pr : BitVec 2) (t1 : Target) (t0 : Target) : RoundTrip.Statement (.fsub pr t1 t0) := roundTrip_of rfl fun h => have h := Bool.and_eq_true_iff.mp h; decode_wordT rfl rfl h.1 h.2
theorem RoundTrip.fmul (pr : BitVec 2) (t1 : Target) (t0 : Target) : RoundTrip.Statement (.fmul pr t1 t0) := roundTrip_of rfl fun h => have h := Bool.and_eq_true_iff.mp h; decode_wordT rfl rfl h.1 h.2
theorem RoundTrip.fmin (pr : BitVec 2) (t1 : Target) (t0 : Target) : RoundTrip.Statement (.fmin pr t1 t0) := roundTrip_of rfl fun h => have h := Bool.and_eq_true_iff.mp h; decode_wordT rfl rfl h.1 h.2
theorem RoundTrip.fmax (pr : BitVec 2) (t1 : Target) (t0 : Target) : RoundTrip.Statement (.fmax pr t1 t0) := roundTrip_of rfl fun h => have h := Bool.and_eq_true_iff.mp h; decode_wordT rfl rfl h.1 h.2
theorem RoundTrip.fabs (pr : BitVec 2) (t1 : Target) (t0 : Target) : RoundTrip.Statement (.fabs pr t1 t0) := roundTrip_of rfl fun h => have h := Bool.and_eq_true_iff.mp h; decode_wordT rfl rfl h.1 h.2
theorem RoundTrip.fneg (pr : BitVec 2) (t1 : Target) (t0 : Target) : RoundTrip.Statement (.fneg pr t1 t0) := roundTrip_of rfl fun h => have h := Bool.and_eq_true_iff.mp h; decode_wordT rfl rfl h.1 h.2
theorem RoundTrip.fcopys (pr : BitVec 2) (t1 : Target) (t0 : Target) : RoundTrip.Statement (.fcopys pr t1 t0) := roundTrip_of rfl fun h => have h := Bool.and_eq_true_iff.mp h; decode_wordT rfl rfl h.1 h.2
theorem RoundTrip.fma (pr : BitVec 2) (t1 : Target) (t0 : Target) : RoundTrip.Statement (.fma pr t1 t0) := roundTrip_of rfl fun h => have h := Bool.and_eq_true_iff.mp h; decode_wordT rfl rfl h.1 h.2
theorem RoundTrip.fms (pr : BitVec 2) (t1 : Target) (t0 : Target) : RoundTrip.Statement (.fms pr t1 t0) := roundTrip_of rfl fun h => have h := Bool.and_eq_true_iff.mp h; decode_wordT rfl rfl h.1 h.2
theorem RoundTrip.fnma (pr : BitVec 2) (t1 : Target) (t0 : Target) : RoundTrip.Statement (.fnma pr t1 t0) := roundTrip_of rfl fun h => have h := Bool.and_eq_true_iff.mp h; decode_wordT rfl rfl h.1 h.2
theorem RoundTrip.fnms (pr : BitVec 2) (t1 : Target) (t0 : Target) : RoundTrip.Statement (.fnms pr t1 t0) := roundTrip_of rfl fun h => have h := Bool.and_eq_true_iff.mp h; decode_wordT rfl rfl h.1 h.2
theorem RoundTrip.fdiv (pr : BitVec 2) (t1 : Target) (t0 : Target) : RoundTrip.Statement (.fdiv pr t1 t0) := roundTrip_of rfl fun h => have h := Bool.and_eq_true_iff.mp h; decode_wordT rfl rfl h.1 h.2
theorem RoundTrip.fsqrt (pr : BitVec 2) (t1 : Target) (t0 : Target) : RoundTrip.Statement (.fsqrt pr t1 t0) := roundTrip_of rfl fun h => have h := Bool.and_eq_true_iff.mp h; decode_wordT rfl rfl h.1 h.2
theorem RoundTrip.frcpe (pr : BitVec 2) (t1 : Target) (t0 : Target) : RoundTrip.Statement (.frcpe pr t1 t0) := roundTrip_of rfl fun h => have h := Bool.and_eq_true_iff.mp h; decode_wordT rfl rfl h.1 h.2
theorem RoundTrip.frsqe (pr : BitVec 2) (t1 : Target) (t0 : Target) : RoundTrip.Statement (.frsqe pr t1 t0) := roundTrip_of rfl fun h => have h := Bool.and_eq_true_iff.mp h; decode_wordT rfl rfl h.1 h.2
theorem RoundTrip.fteq (pr : BitVec 2) (t1 : Target) (t0 : Target) : RoundTrip.Statement (.fteq pr t1 t0) := roundTrip_of rfl fun h => have h := Bool.and_eq_true_iff.mp h; decode_wordT rfl rfl h.1 h.2
theorem RoundTrip.ftlt (pr : BitVec 2) (t1 : Target) (t0 : Target) : RoundTrip.Statement (.ftlt pr t1 t0) := roundTrip_of rfl fun h => have h := Bool.and_eq_true_iff.mp h; decode_wordT rfl rfl h.1 h.2
theorem RoundTrip.ftle (pr : BitVec 2) (t1 : Target) (t0 : Target) : RoundTrip.Statement (.ftle pr t1 t0) := roundTrip_of rfl fun h => have h := Bool.and_eq_true_iff.mp h; decode_wordT rfl rfl h.1 h.2
theorem RoundTrip.ftun (pr : BitVec 2) (t1 : Target) (t0 : Target) : RoundTrip.Statement (.ftun pr t1 t0) := roundTrip_of rfl fun h => have h := Bool.and_eq_true_iff.mp h; decode_wordT rfl rfl h.1 h.2
theorem RoundTrip.fclass (pr : BitVec 2) (t1 : Target) (t0 : Target) : RoundTrip.Statement (.fclass pr t1 t0) := roundTrip_of rfl fun h => have h := Bool.and_eq_true_iff.mp h; decode_wordT rfl rfl h.1 h.2
theorem RoundTrip.fcvt (pr : BitVec 2) (code : BitVec 5) (t1 : Target) (t0 : Target) : RoundTrip.Statement (.fcvt pr code t1 t0) :=
  roundTrip_of rfl fun h => by
    have h := Bool.and_eq_true_iff.mp h
    have h1 := Bool.and_eq_true_iff.mp h.1
    exact decode_wordT (mk := fun pr t1 t0 => .fcvt pr code t1 t0) rfl (by simp [formT, h.2]) h1.1 h1.2
theorem RoundTrip.fcvts (pr : BitVec 2) (code : BitVec 5) (t1 : Target) (t0 : Target) : RoundTrip.Statement (.fcvts pr code t1 t0) :=
  roundTrip_of rfl fun h => by
    have h := Bool.and_eq_true_iff.mp h
    have h1 := Bool.and_eq_true_iff.mp h.1
    exact decode_wordT (mk := fun pr t1 t0 => .fcvts pr code t1 t0) rfl (by simp [formT, h.2]) h1.1 h1.2
theorem RoundTrip.paddH (pr : BitVec 2) (t1 : Target) (t0 : Target) : RoundTrip.Statement (.paddH pr t1 t0) := roundTrip_of rfl fun h => have h := Bool.and_eq_true_iff.mp h; decode_wordT rfl rfl h.1 h.2
theorem RoundTrip.psubH (pr : BitVec 2) (t1 : Target) (t0 : Target) : RoundTrip.Statement (.psubH pr t1 t0) := roundTrip_of rfl fun h => have h := Bool.and_eq_true_iff.mp h; decode_wordT rfl rfl h.1 h.2
theorem RoundTrip.paddB (pr : BitVec 2) (t1 : Target) (t0 : Target) : RoundTrip.Statement (.paddB pr t1 t0) := roundTrip_of rfl fun h => have h := Bool.and_eq_true_iff.mp h; decode_wordT rfl rfl h.1 h.2
theorem RoundTrip.psubB (pr : BitVec 2) (t1 : Target) (t0 : Target) : RoundTrip.Statement (.psubB pr t1 t0) := roundTrip_of rfl fun h => have h := Bool.and_eq_true_iff.mp h; decode_wordT rfl rfl h.1 h.2
theorem RoundTrip.pmaxH (pr : BitVec 2) (t1 : Target) (t0 : Target) : RoundTrip.Statement (.pmaxH pr t1 t0) := roundTrip_of rfl fun h => have h := Bool.and_eq_true_iff.mp h; decode_wordT rfl rfl h.1 h.2
theorem RoundTrip.pminH (pr : BitVec 2) (t1 : Target) (t0 : Target) : RoundTrip.Statement (.pminH pr t1 t0) := roundTrip_of rfl fun h => have h := Bool.and_eq_true_iff.mp h; decode_wordT rfl rfl h.1 h.2
theorem RoundTrip.pdot4 (pr : BitVec 2) (t1 : Target) (t0 : Target) : RoundTrip.Statement (.pdot4 pr t1 t0) := roundTrip_of rfl fun h => have h := Bool.and_eq_true_iff.mp h; decode_wordT rfl rfl h.1 h.2
theorem RoundTrip.pdot4u (pr : BitVec 2) (t1 : Target) (t0 : Target) : RoundTrip.Statement (.pdot4u pr t1 t0) := roundTrip_of rfl fun h => have h := Bool.and_eq_true_iff.mp h; decode_wordT rfl rfl h.1 h.2
theorem RoundTrip.pdot2H (pr : BitVec 2) (t1 : Target) (t0 : Target) : RoundTrip.Statement (.pdot2H pr t1 t0) := roundTrip_of rfl fun h => have h := Bool.and_eq_true_iff.mp h; decode_wordT rfl rfl h.1 h.2
theorem RoundTrip.packH (pr : BitVec 2) (t1 : Target) (t0 : Target) : RoundTrip.Statement (.packH pr t1 t0) := roundTrip_of rfl fun h => have h := Bool.and_eq_true_iff.mp h; decode_wordT rfl rfl h.1 h.2
theorem RoundTrip.packB (pr : BitVec 2) (t1 : Target) (t0 : Target) : RoundTrip.Statement (.packB pr t1 t0) := roundTrip_of rfl fun h => have h := Bool.and_eq_true_iff.mp h; decode_wordT rfl rfl h.1 h.2
theorem RoundTrip.tunpk (pr : BitVec 2) (t1 : Target) (t0 : Target) : RoundTrip.Statement (.tunpk pr t1 t0) := roundTrip_of rfl fun h => have h := Bool.and_eq_true_iff.mp h; decode_wordT rfl rfl h.1 h.2
theorem RoundTrip.tdot4 (pr : BitVec 2) (group : BitVec 2) (t1 : Target) (t0 : Target) : RoundTrip.Statement (.tdot4 pr group t1 t0) :=
  roundTrip_of rfl fun h => by
    have h1 := Bool.and_eq_true_iff.mp h
    have e1 : (0#3 ++ group).extractLsb' 2 3 = 0#3 := (by decide : ∀ (group : BitVec 2), (0#3 ++ group).extractLsb' 2 3 = 0#3) group
    have e2 : (0#3 ++ group).extractLsb' 0 2 = group := (by decide : ∀ (group : BitVec 2), (0#3 ++ group).extractLsb' 0 2 = group) group
    exact decode_wordT (mk := fun pr t1 t0 => .tdot4 pr group t1 t0) rfl (by simp [formT, e1, e2]) h1.1 h1.2
theorem RoundTrip.lcdec (pr : BitVec 2) (t1 : Target) (t0 : Target) : RoundTrip.Statement (.lcdec pr t1 t0) := roundTrip_of rfl fun h => have h := Bool.and_eq_true_iff.mp h; decode_wordT rfl rfl h.1 h.2
theorem RoundTrip.qnt (pr : BitVec 2) (code : BitVec 5) (t1 : Target) (t0 : Target) : RoundTrip.Statement (.qnt pr code t1 t0) :=
  roundTrip_of rfl fun h => by
    have h := Bool.and_eq_true_iff.mp h
    have h1 := Bool.and_eq_true_iff.mp h.1
    exact decode_wordT (mk := fun pr t1 t0 => .qnt pr code t1 t0) rfl (by simp [formT, h.2]) h1.1 h1.2
theorem RoundTrip.ldw (pr : BitVec 2) (lsid : BitVec 5) (w : BitVec 3) (off : BitVec 6) (t0 : Target) : RoundTrip.Statement (.ldw pr lsid w off t0) := roundTrip_of rfl fun h => decode_wordLoad rfl rfl h
theorem RoundTrip.ldh (pr : BitVec 2) (lsid : BitVec 5) (w : BitVec 3) (off : BitVec 6) (t0 : Target) : RoundTrip.Statement (.ldh pr lsid w off t0) := roundTrip_of rfl fun h => decode_wordLoad rfl rfl h
theorem RoundTrip.ldhu (pr : BitVec 2) (lsid : BitVec 5) (w : BitVec 3) (off : BitVec 6) (t0 : Target) : RoundTrip.Statement (.ldhu pr lsid w off t0) := roundTrip_of rfl fun h => decode_wordLoad rfl rfl h
theorem RoundTrip.ldb (pr : BitVec 2) (lsid : BitVec 5) (w : BitVec 3) (off : BitVec 6) (t0 : Target) : RoundTrip.Statement (.ldb pr lsid w off t0) := roundTrip_of rfl fun h => decode_wordLoad rfl rfl h
theorem RoundTrip.ldbu (pr : BitVec 2) (lsid : BitVec 5) (w : BitVec 3) (off : BitVec 6) (t0 : Target) : RoundTrip.Statement (.ldbu pr lsid w off t0) := roundTrip_of rfl fun h => decode_wordLoad rfl rfl h
theorem RoundTrip.ldf (pr : BitVec 2) (lsid : BitVec 5) (w : BitVec 3) (off : BitVec 6) (t0 : Target) : RoundTrip.Statement (.ldf pr lsid w off t0) := roundTrip_of rfl fun h => decode_wordLoad rfl rfl h
theorem RoundTrip.ldx (pr : BitVec 2) (lsid : BitVec 5) (w : BitVec 3) (off : BitVec 6) (t0 : Target) : RoundTrip.Statement (.ldx pr lsid w off t0) := roundTrip_of rfl fun h => decode_wordLoad rfl rfl h
theorem RoundTrip.stw (pr : BitVec 2) (lsid : BitVec 5) (w : BitVec 3) (off : BitVec 6) : RoundTrip.Statement (.stw pr lsid w off) := roundTrip_of rfl fun _ => decode_wordStore rfl rfl
theorem RoundTrip.sth (pr : BitVec 2) (lsid : BitVec 5) (w : BitVec 3) (off : BitVec 6) : RoundTrip.Statement (.sth pr lsid w off) := roundTrip_of rfl fun _ => decode_wordStore rfl rfl
theorem RoundTrip.stb (pr : BitVec 2) (lsid : BitVec 5) (w : BitVec 3) (off : BitVec 6) : RoundTrip.Statement (.stb pr lsid w off) := roundTrip_of rfl fun _ => decode_wordStore rfl rfl
theorem RoundTrip.ste (pr : BitVec 2) (lsid : BitVec 5) (w : BitVec 3) (off : BitVec 6) : RoundTrip.Statement (.ste pr lsid w off) := roundTrip_of rfl fun _ => decode_wordStore rfl rfl
theorem RoundTrip.stf (pr : BitVec 2) (lsid : BitVec 5) (w : BitVec 3) (off : BitVec 6) : RoundTrip.Statement (.stf pr lsid w off) := roundTrip_of rfl fun _ => decode_wordStore rfl rfl
theorem RoundTrip.clre (pr : BitVec 2) (lsid : BitVec 5) (w : BitVec 3) (off : BitVec 6) : RoundTrip.Statement (.clre pr lsid w off) := roundTrip_of rfl fun _ => decode_wordStore rfl rfl
theorem RoundTrip.stm (pr : BitVec 2) (lsid : BitVec 5) (w : BitVec 3) (off : BitVec 6) : RoundTrip.Statement (.stm pr lsid w off) := roundTrip_of rfl fun _ => decode_wordStore rfl rfl
theorem RoundTrip.setwBase (pr : BitVec 2) (w : BitVec 3) (t1 : Target) (t0 : Target) : RoundTrip.Statement (.setwBase pr w t1 t0) :=
  roundTrip_of rfl fun h => by
    have h1 := Bool.and_eq_true_iff.mp h
    have e1 : (0#2 ++ w).extractLsb' 3 2 = 0#2 := (by decide : ∀ (w : BitVec 3), (0#2 ++ w).extractLsb' 3 2 = 0#2) w
    have e2 : (0#2 ++ w).extractLsb' 0 3 = w := (by decide : ∀ (w : BitVec 3), (0#2 ++ w).extractLsb' 0 3 = w) w
    exact decode_wordT (mk := fun pr t1 t0 => .setwBase pr w t1 t0) rfl (by simp [formT, e1, e2]) h1.1 h1.2
theorem RoundTrip.setwLim (pr : BitVec 2) (w : BitVec 3) (t1 : Target) (t0 : Target) : RoundTrip.Statement (.setwLim pr w t1 t0) :=
  roundTrip_of rfl fun h => by
    have h1 := Bool.and_eq_true_iff.mp h
    have e1 : (1#2 ++ w).extractLsb' 3 2 = 1#2 := (by decide : ∀ (w : BitVec 3), (1#2 ++ w).extractLsb' 3 2 = 1#2) w
    have e2 : (1#2 ++ w).extractLsb' 0 3 = w := (by decide : ∀ (w : BitVec 3), (1#2 ++ w).extractLsb' 0 3 = w) w
    exact decode_wordT (mk := fun pr t1 t0 => .setwLim pr w t1 t0) rfl (by simp [formT, e1, e2]) h1.1 h1.2
theorem RoundTrip.setwAttr (pr : BitVec 2) (w : BitVec 3) (t1 : Target) (t0 : Target) : RoundTrip.Statement (.setwAttr pr w t1 t0) :=
  roundTrip_of rfl fun h => by
    have h1 := Bool.and_eq_true_iff.mp h
    have e1 : (2#2 ++ w).extractLsb' 3 2 = 2#2 := (by decide : ∀ (w : BitVec 3), (2#2 ++ w).extractLsb' 3 2 = 2#2) w
    have e2 : (2#2 ++ w).extractLsb' 0 3 = w := (by decide : ∀ (w : BitVec 3), (2#2 ++ w).extractLsb' 0 3 = w) w
    exact decode_wordT (mk := fun pr t1 t0 => .setwAttr pr w t1 t0) rfl (by simp [formT, e1, e2]) h1.1 h1.2
theorem RoundTrip.fenceAcq (pr : BitVec 2) (scope : BitVec 3) (t1 : Target) (t0 : Target) : RoundTrip.Statement (.fenceAcq pr scope t1 t0) :=
  roundTrip_of rfl fun h => by
    have h := Bool.and_eq_true_iff.mp h
    have h1 := Bool.and_eq_true_iff.mp h.1
    have e1 : (scope ++ 0#2).extractLsb' 2 3 = scope := (by decide : ∀ (scope : BitVec 3), (scope ++ 0#2).extractLsb' 2 3 = scope) scope
    have e2 : (scope ++ 0#2).extractLsb' 0 2 = 0#2 := (by decide : ∀ (scope : BitVec 3), (scope ++ 0#2).extractLsb' 0 2 = 0#2) scope
    exact decode_wordT (mk := fun pr t1 t0 => .fenceAcq pr scope t1 t0) rfl (by simp [formT, e1, e2, h.2]) h1.1 h1.2
theorem RoundTrip.fenceRel (pr : BitVec 2) (scope : BitVec 3) (t1 : Target) (t0 : Target) : RoundTrip.Statement (.fenceRel pr scope t1 t0) :=
  roundTrip_of rfl fun h => by
    have h := Bool.and_eq_true_iff.mp h
    have h1 := Bool.and_eq_true_iff.mp h.1
    have e1 : (scope ++ 1#2).extractLsb' 2 3 = scope := (by decide : ∀ (scope : BitVec 3), (scope ++ 1#2).extractLsb' 2 3 = scope) scope
    have e2 : (scope ++ 1#2).extractLsb' 0 2 = 1#2 := (by decide : ∀ (scope : BitVec 3), (scope ++ 1#2).extractLsb' 0 2 = 1#2) scope
    exact decode_wordT (mk := fun pr t1 t0 => .fenceRel pr scope t1 t0) rfl (by simp [formT, e1, e2, h.2]) h1.1 h1.2
theorem RoundTrip.fenceAr (pr : BitVec 2) (scope : BitVec 3) (t1 : Target) (t0 : Target) : RoundTrip.Statement (.fenceAr pr scope t1 t0) :=
  roundTrip_of rfl fun h => by
    have h := Bool.and_eq_true_iff.mp h
    have h1 := Bool.and_eq_true_iff.mp h.1
    have e1 : (scope ++ 2#2).extractLsb' 2 3 = scope := (by decide : ∀ (scope : BitVec 3), (scope ++ 2#2).extractLsb' 2 3 = scope) scope
    have e2 : (scope ++ 2#2).extractLsb' 0 2 = 2#2 := (by decide : ∀ (scope : BitVec 3), (scope ++ 2#2).extractLsb' 0 2 = 2#2) scope
    exact decode_wordT (mk := fun pr t1 t0 => .fenceAr pr scope t1 t0) rfl (by simp [formT, e1, e2, h.2]) h1.1 h1.2
theorem RoundTrip.fenceSc (pr : BitVec 2) (scope : BitVec 3) (t1 : Target) (t0 : Target) : RoundTrip.Statement (.fenceSc pr scope t1 t0) :=
  roundTrip_of rfl fun h => by
    have h := Bool.and_eq_true_iff.mp h
    have h1 := Bool.and_eq_true_iff.mp h.1
    have e1 : (scope ++ 3#2).extractLsb' 2 3 = scope := (by decide : ∀ (scope : BitVec 3), (scope ++ 3#2).extractLsb' 2 3 = scope) scope
    have e2 : (scope ++ 3#2).extractLsb' 0 2 = 3#2 := (by decide : ∀ (scope : BitVec 3), (scope ++ 3#2).extractLsb' 0 2 = 3#2) scope
    exact decode_wordT (mk := fun pr t1 t0 => .fenceSc pr scope t1 t0) rfl (by simp [formT, e1, e2, h.2]) h1.1 h1.2
theorem RoundTrip.amoAdd (pr : BitVec 2) (t1 : Target) (t0 : Target) : RoundTrip.Statement (.amoAdd pr t1 t0) := roundTrip_of rfl fun h => have h := Bool.and_eq_true_iff.mp h; decode_wordT rfl rfl h.1 h.2
theorem RoundTrip.amoAnd (pr : BitVec 2) (t1 : Target) (t0 : Target) : RoundTrip.Statement (.amoAnd pr t1 t0) := roundTrip_of rfl fun h => have h := Bool.and_eq_true_iff.mp h; decode_wordT rfl rfl h.1 h.2
theorem RoundTrip.amoOr (pr : BitVec 2) (t1 : Target) (t0 : Target) : RoundTrip.Statement (.amoOr pr t1 t0) := roundTrip_of rfl fun h => have h := Bool.and_eq_true_iff.mp h; decode_wordT rfl rfl h.1 h.2
theorem RoundTrip.amoXor (pr : BitVec 2) (t1 : Target) (t0 : Target) : RoundTrip.Statement (.amoXor pr t1 t0) := roundTrip_of rfl fun h => have h := Bool.and_eq_true_iff.mp h; decode_wordT rfl rfl h.1 h.2
theorem RoundTrip.amoMin (pr : BitVec 2) (t1 : Target) (t0 : Target) : RoundTrip.Statement (.amoMin pr t1 t0) := roundTrip_of rfl fun h => have h := Bool.and_eq_true_iff.mp h; decode_wordT rfl rfl h.1 h.2
theorem RoundTrip.amoMax (pr : BitVec 2) (t1 : Target) (t0 : Target) : RoundTrip.Statement (.amoMax pr t1 t0) := roundTrip_of rfl fun h => have h := Bool.and_eq_true_iff.mp h; decode_wordT rfl rfl h.1 h.2
theorem RoundTrip.amoMinu (pr : BitVec 2) (t1 : Target) (t0 : Target) : RoundTrip.Statement (.amoMinu pr t1 t0) := roundTrip_of rfl fun h => have h := Bool.and_eq_true_iff.mp h; decode_wordT rfl rfl h.1 h.2
theorem RoundTrip.amoMaxu (pr : BitVec 2) (t1 : Target) (t0 : Target) : RoundTrip.Statement (.amoMaxu pr t1 t0) := roundTrip_of rfl fun h => have h := Bool.and_eq_true_iff.mp h; decode_wordT rfl rfl h.1 h.2
theorem RoundTrip.amoSwap (pr : BitVec 2) (t1 : Target) (t0 : Target) : RoundTrip.Statement (.amoSwap pr t1 t0) := roundTrip_of rfl fun h => have h := Bool.and_eq_true_iff.mp h; decode_wordT rfl rfl h.1 h.2
theorem RoundTrip.amoFadd (pr : BitVec 2) (t1 : Target) (t0 : Target) : RoundTrip.Statement (.amoFadd pr t1 t0) := roundTrip_of rfl fun h => have h := Bool.and_eq_true_iff.mp h; decode_wordT rfl rfl h.1 h.2
theorem RoundTrip.amoCas (pr : BitVec 2) (t1 : Target) (t0 : Target) : RoundTrip.Statement (.amoCas pr t1 t0) := roundTrip_of rfl fun h => have h := Bool.and_eq_true_iff.mp h; decode_wordT rfl rfl h.1 h.2
theorem RoundTrip.lockAcq (pr : BitVec 2) (t1 : Target) (t0 : Target) : RoundTrip.Statement (.lockAcq pr t1 t0) := roundTrip_of rfl fun h => have h := Bool.and_eq_true_iff.mp h; decode_wordT rfl rfl h.1 h.2
theorem RoundTrip.lockTry (pr : BitVec 2) (t1 : Target) (t0 : Target) : RoundTrip.Statement (.lockTry pr t1 t0) := roundTrip_of rfl fun h => have h := Bool.and_eq_true_iff.mp h; decode_wordT rfl rfl h.1 h.2
theorem RoundTrip.lockRel (pr : BitVec 2) (t1 : Target) (t0 : Target) : RoundTrip.Statement (.lockRel pr t1 t0) := roundTrip_of rfl fun h => have h := Bool.and_eq_true_iff.mp h; decode_wordT rfl rfl h.1 h.2
theorem RoundTrip.barArrive (pr : BitVec 2) (t1 : Target) (t0 : Target) : RoundTrip.Statement (.barArrive pr t1 t0) := roundTrip_of rfl fun h => have h := Bool.and_eq_true_iff.mp h; decode_wordT rfl rfl h.1 h.2
theorem RoundTrip.barWait (pr : BitVec 2) (t1 : Target) (t0 : Target) : RoundTrip.Statement (.barWait pr t1 t0) := roundTrip_of rfl fun h => have h := Bool.and_eq_true_iff.mp h; decode_wordT rfl rfl h.1 h.2
theorem RoundTrip.barArrwait (pr : BitVec 2) (t1 : Target) (t0 : Target) : RoundTrip.Statement (.barArrwait pr t1 t0) := roundTrip_of rfl fun h => have h := Bool.and_eq_true_iff.mp h; decode_wordT rfl rfl h.1 h.2
theorem RoundTrip.barInit (pr : BitVec 2) (t1 : Target) (t0 : Target) : RoundTrip.Statement (.barInit pr t1 t0) := roundTrip_of rfl fun h => have h := Bool.and_eq_true_iff.mp h; decode_wordT rfl rfl h.1 h.2
theorem RoundTrip.qpush (pr : BitVec 2) (t1 : Target) (t0 : Target) : RoundTrip.Statement (.qpush pr t1 t0) := roundTrip_of rfl fun h => have h := Bool.and_eq_true_iff.mp h; decode_wordT rfl rfl h.1 h.2
theorem RoundTrip.qpop (pr : BitVec 2) (t1 : Target) (t0 : Target) : RoundTrip.Statement (.qpop pr t1 t0) := roundTrip_of rfl fun h => have h := Bool.and_eq_true_iff.mp h; decode_wordT rfl rfl h.1 h.2
theorem RoundTrip.qpopt (pr : BitVec 2) (t1 : Target) (t0 : Target) : RoundTrip.Statement (.qpopt pr t1 t0) := roundTrip_of rfl fun h => have h := Bool.and_eq_true_iff.mp h; decode_wordT rfl rfl h.1 h.2
theorem RoundTrip.qclose (pr : BitVec 2) (t1 : Target) (t0 : Target) : RoundTrip.Statement (.qclose pr t1 t0) := roundTrip_of rfl fun h => have h := Bool.and_eq_true_iff.mp h; decode_wordT rfl rfl h.1 h.2
theorem RoundTrip.qinit (pr : BitVec 2) (t1 : Target) (t0 : Target) : RoundTrip.Statement (.qinit pr t1 t0) := roundTrip_of rfl fun h => have h := Bool.and_eq_true_iff.mp h; decode_wordT rfl rfl h.1 h.2
theorem RoundTrip.wreg (pr : BitVec 2) (t1 : Target) (t0 : Target) : RoundTrip.Statement (.wreg pr t1 t0) := roundTrip_of rfl fun h => have h := Bool.and_eq_true_iff.mp h; decode_wordT rfl rfl h.1 h.2
theorem RoundTrip.wown (pr : BitVec 2) (t1 : Target) (t0 : Target) : RoundTrip.Statement (.wown pr t1 t0) := roundTrip_of rfl fun h => have h := Bool.and_eq_true_iff.mp h; decode_wordT rfl rfl h.1 h.2
theorem RoundTrip.wrel (pr : BitVec 2) (t1 : Target) (t0 : Target) : RoundTrip.Statement (.wrel pr t1 t0) := roundTrip_of rfl fun h => have h := Bool.and_eq_true_iff.mp h; decode_wordT rfl rfl h.1 h.2
theorem RoundTrip.wpri (pr : BitVec 2) (t1 : Target) (t0 : Target) : RoundTrip.Statement (.wpri pr t1 t0) := roundTrip_of rfl fun h => have h := Bool.and_eq_true_iff.mp h; decode_wordT rfl rfl h.1 h.2
theorem RoundTrip.qbegin (pr : BitVec 2) (t1 : Target) (t0 : Target) : RoundTrip.Statement (.qbegin pr t1 t0) := roundTrip_of rfl fun h => have h := Bool.and_eq_true_iff.mp h; decode_wordT rfl rfl h.1 h.2
theorem RoundTrip.qend (pr : BitVec 2) (t1 : Target) (t0 : Target) : RoundTrip.Statement (.qend pr t1 t0) := roundTrip_of rfl fun h => have h := Bool.and_eq_true_iff.mp h; decode_wordT rfl rfl h.1 h.2
theorem RoundTrip.phase (pr : BitVec 2) (t1 : Target) (t0 : Target) : RoundTrip.Statement (.phase pr t1 t0) := roundTrip_of rfl fun h => have h := Bool.and_eq_true_iff.mp h; decode_wordT rfl rfl h.1 h.2
theorem RoundTrip.mmcfg (pr : BitVec 2) (reg : BitVec 2) (t1 : Target) (t0 : Target) : RoundTrip.Statement (.mmcfg pr reg t1 t0) :=
  roundTrip_of rfl fun h => by
    have h := Bool.and_eq_true_iff.mp h
    have h1 := Bool.and_eq_true_iff.mp h.1
    have e1 : (0#3 ++ reg).extractLsb' 2 3 = 0#3 := (by decide : ∀ (reg : BitVec 2), (0#3 ++ reg).extractLsb' 2 3 = 0#3) reg
    have e2 : (0#3 ++ reg).extractLsb' 0 2 = reg := (by decide : ∀ (reg : BitVec 2), (0#3 ++ reg).extractLsb' 0 2 = reg) reg
    exact decode_wordT (mk := fun pr t1 t0 => .mmcfg pr reg t1 t0) rfl (by simp [formT, e1, e2, h.2]) h1.1 h1.2
theorem RoundTrip.mmaOvw (pr : BitVec 2) (acc : BitVec 2) (t1 : Target) (t0 : Target) : RoundTrip.Statement (.mmaOvw pr acc t1 t0) :=
  roundTrip_of rfl fun h => by
    have h1 := Bool.and_eq_true_iff.mp h
    have e1 : (0#1 ++ acc ++ 0#2).extractLsb' 4 1 = 0#1 := (by decide : ∀ (acc : BitVec 2), (0#1 ++ acc ++ 0#2).extractLsb' 4 1 = 0#1) acc
    have e2 : (0#1 ++ acc ++ 0#2).extractLsb' 0 2 = 0#2 := (by decide : ∀ (acc : BitVec 2), (0#1 ++ acc ++ 0#2).extractLsb' 0 2 = 0#2) acc
    have e3 : (0#1 ++ acc ++ 0#2).extractLsb' 2 2 = acc := (by decide : ∀ (acc : BitVec 2), (0#1 ++ acc ++ 0#2).extractLsb' 2 2 = acc) acc
    exact decode_wordT (mk := fun pr t1 t0 => .mmaOvw pr acc t1 t0) rfl (by simp [formT, e1, e2, e3]) h1.1 h1.2
theorem RoundTrip.mmaAcc (pr : BitVec 2) (acc : BitVec 2) (t1 : Target) (t0 : Target) : RoundTrip.Statement (.mmaAcc pr acc t1 t0) :=
  roundTrip_of rfl fun h => by
    have h1 := Bool.and_eq_true_iff.mp h
    have e1 : (0#1 ++ acc ++ 1#2).extractLsb' 4 1 = 0#1 := (by decide : ∀ (acc : BitVec 2), (0#1 ++ acc ++ 1#2).extractLsb' 4 1 = 0#1) acc
    have e2 : (0#1 ++ acc ++ 1#2).extractLsb' 0 2 = 1#2 := (by decide : ∀ (acc : BitVec 2), (0#1 ++ acc ++ 1#2).extractLsb' 0 2 = 1#2) acc
    have e3 : (0#1 ++ acc ++ 1#2).extractLsb' 2 2 = acc := (by decide : ∀ (acc : BitVec 2), (0#1 ++ acc ++ 1#2).extractLsb' 2 2 = acc) acc
    exact decode_wordT (mk := fun pr t1 t0 => .mmaAcc pr acc t1 t0) rfl (by simp [formT, e1, e2, e3]) h1.1 h1.2
theorem RoundTrip.mmaGrp (pr : BitVec 2) (acc : BitVec 2) (t1 : Target) (t0 : Target) : RoundTrip.Statement (.mmaGrp pr acc t1 t0) :=
  roundTrip_of rfl fun h => by
    have h1 := Bool.and_eq_true_iff.mp h
    have e1 : (0#1 ++ acc ++ 2#2).extractLsb' 4 1 = 0#1 := (by decide : ∀ (acc : BitVec 2), (0#1 ++ acc ++ 2#2).extractLsb' 4 1 = 0#1) acc
    have e2 : (0#1 ++ acc ++ 2#2).extractLsb' 0 2 = 2#2 := (by decide : ∀ (acc : BitVec 2), (0#1 ++ acc ++ 2#2).extractLsb' 0 2 = 2#2) acc
    have e3 : (0#1 ++ acc ++ 2#2).extractLsb' 2 2 = acc := (by decide : ∀ (acc : BitVec 2), (0#1 ++ acc ++ 2#2).extractLsb' 2 2 = acc) acc
    exact decode_wordT (mk := fun pr t1 t0 => .mmaGrp pr acc t1 t0) rfl (by simp [formT, e1, e2, e3]) h1.1 h1.2
theorem RoundTrip.mmrd (pr : BitVec 2) (acc : BitVec 2) (t1 : Target) (t0 : Target) : RoundTrip.Statement (.mmrd pr acc t1 t0) :=
  roundTrip_of rfl fun h => by
    have h1 := Bool.and_eq_true_iff.mp h
    have e1 : (0#1 ++ acc ++ 0#2).extractLsb' 4 1 = 0#1 := (by decide : ∀ (acc : BitVec 2), (0#1 ++ acc ++ 0#2).extractLsb' 4 1 = 0#1) acc
    have e2 : (0#1 ++ acc ++ 0#2).extractLsb' 0 2 = 0#2 := (by decide : ∀ (acc : BitVec 2), (0#1 ++ acc ++ 0#2).extractLsb' 0 2 = 0#2) acc
    have e3 : (0#1 ++ acc ++ 0#2).extractLsb' 2 2 = acc := (by decide : ∀ (acc : BitVec 2), (0#1 ++ acc ++ 0#2).extractLsb' 2 2 = acc) acc
    exact decode_wordT (mk := fun pr t1 t0 => .mmrd pr acc t1 t0) rfl (by simp [formT, e1, e2, e3]) h1.1 h1.2
theorem RoundTrip.spmaOvw (pr : BitVec 2) (acc : BitVec 2) (t1 : Target) (t0 : Target) : RoundTrip.Statement (.spmaOvw pr acc t1 t0) :=
  roundTrip_of rfl fun h => by
    have h1 := Bool.and_eq_true_iff.mp h
    have e1 : (0#1 ++ acc ++ 0#2).extractLsb' 4 1 = 0#1 := (by decide : ∀ (acc : BitVec 2), (0#1 ++ acc ++ 0#2).extractLsb' 4 1 = 0#1) acc
    have e2 : (0#1 ++ acc ++ 0#2).extractLsb' 0 2 = 0#2 := (by decide : ∀ (acc : BitVec 2), (0#1 ++ acc ++ 0#2).extractLsb' 0 2 = 0#2) acc
    have e3 : (0#1 ++ acc ++ 0#2).extractLsb' 2 2 = acc := (by decide : ∀ (acc : BitVec 2), (0#1 ++ acc ++ 0#2).extractLsb' 2 2 = acc) acc
    exact decode_wordT (mk := fun pr t1 t0 => .spmaOvw pr acc t1 t0) rfl (by simp [formT, e1, e2, e3]) h1.1 h1.2
theorem RoundTrip.spmaAcc (pr : BitVec 2) (acc : BitVec 2) (t1 : Target) (t0 : Target) : RoundTrip.Statement (.spmaAcc pr acc t1 t0) :=
  roundTrip_of rfl fun h => by
    have h1 := Bool.and_eq_true_iff.mp h
    have e1 : (0#1 ++ acc ++ 1#2).extractLsb' 4 1 = 0#1 := (by decide : ∀ (acc : BitVec 2), (0#1 ++ acc ++ 1#2).extractLsb' 4 1 = 0#1) acc
    have e2 : (0#1 ++ acc ++ 1#2).extractLsb' 0 2 = 1#2 := (by decide : ∀ (acc : BitVec 2), (0#1 ++ acc ++ 1#2).extractLsb' 0 2 = 1#2) acc
    have e3 : (0#1 ++ acc ++ 1#2).extractLsb' 2 2 = acc := (by decide : ∀ (acc : BitVec 2), (0#1 ++ acc ++ 1#2).extractLsb' 2 2 = acc) acc
    exact decode_wordT (mk := fun pr t1 t0 => .spmaAcc pr acc t1 t0) rfl (by simp [formT, e1, e2, e3]) h1.1 h1.2
theorem RoundTrip.plctPrep (pr : BitVec 2) (t1 : Target) (t0 : Target) : RoundTrip.Statement (.plctPrep pr t1 t0) := roundTrip_of rfl fun h => have h := Bool.and_eq_true_iff.mp h; decode_wordT rfl rfl h.1 h.2
theorem RoundTrip.plctInval (pr : BitVec 2) (t1 : Target) (t0 : Target) : RoundTrip.Statement (.plctInval pr t1 t0) := roundTrip_of rfl fun h => have h := Bool.and_eq_true_iff.mp h; decode_wordT rfl rfl h.1 h.2
theorem RoundTrip.plctQuery (pr : BitVec 2) (t1 : Target) (t0 : Target) : RoundTrip.Statement (.plctQuery pr t1 t0) := roundTrip_of rfl fun h => have h := Bool.and_eq_true_iff.mp h; decode_wordT rfl rfl h.1 h.2
theorem RoundTrip.scatAdd (pr : BitVec 2) (t1 : Target) (t0 : Target) : RoundTrip.Statement (.scatAdd pr t1 t0) := roundTrip_of rfl fun h => have h := Bool.and_eq_true_iff.mp h; decode_wordT rfl rfl h.1 h.2
theorem RoundTrip.scatFadd (pr : BitVec 2) (t1 : Target) (t0 : Target) : RoundTrip.Statement (.scatFadd pr t1 t0) := roundTrip_of rfl fun h => have h := Bool.and_eq_true_iff.mp h; decode_wordT rfl rfl h.1 h.2
theorem RoundTrip.scatMax (pr : BitVec 2) (t1 : Target) (t0 : Target) : RoundTrip.Statement (.scatMax pr t1 t0) := roundTrip_of rfl fun h => have h := Bool.and_eq_true_iff.mp h; decode_wordT rfl rfl h.1 h.2
theorem RoundTrip.scatMin (pr : BitVec 2) (t1 : Target) (t0 : Target) : RoundTrip.Statement (.scatMin pr t1 t0) := roundTrip_of rfl fun h => have h := Bool.and_eq_true_iff.mp h; decode_wordT rfl rfl h.1 h.2
theorem RoundTrip.scatOr (pr : BitVec 2) (t1 : Target) (t0 : Target) : RoundTrip.Statement (.scatOr pr t1 t0) := roundTrip_of rfl fun h => have h := Bool.and_eq_true_iff.mp h; decode_wordT rfl rfl h.1 h.2
theorem RoundTrip.fibIsect (pr : BitVec 2) (t1 : Target) (t0 : Target) : RoundTrip.Statement (.fibIsect pr t1 t0) := roundTrip_of rfl fun h => have h := Bool.and_eq_true_iff.mp h; decode_wordT rfl rfl h.1 h.2
theorem RoundTrip.fibUnion (pr : BitVec 2) (t1 : Target) (t0 : Target) : RoundTrip.Statement (.fibUnion pr t1 t0) := roundTrip_of rfl fun h => have h := Bool.and_eq_true_iff.mp h; decode_wordT rfl rfl h.1 h.2
theorem RoundTrip.fibEoft (pr : BitVec 2) (t1 : Target) (t0 : Target) : RoundTrip.Statement (.fibEoft pr t1 t0) := roundTrip_of rfl fun h => have h := Bool.and_eq_true_iff.mp h; decode_wordT rfl rfl h.1 h.2
theorem RoundTrip.fibMkeof (pr : BitVec 2) (t1 : Target) (t0 : Target) : RoundTrip.Statement (.fibMkeof pr t1 t0) := roundTrip_of rfl fun h => have h := Bool.and_eq_true_iff.mp h; decode_wordT rfl rfl h.1 h.2
theorem RoundTrip.fibMkcrd (pr : BitVec 2) (t1 : Target) (t0 : Target) : RoundTrip.Statement (.fibMkcrd pr t1 t0) := roundTrip_of rfl fun h => have h := Bool.and_eq_true_iff.mp h; decode_wordT rfl rfl h.1 h.2
theorem RoundTrip.topk (pr : BitVec 2) (k : BitVec 5) (t1 : Target) (t0 : Target) : RoundTrip.Statement (.topk pr k t1 t0) := roundTrip_of rfl fun h => have h := Bool.and_eq_true_iff.mp h; decode_wordT (mk := fun pr t1 t0 => .topk pr k t1 t0) rfl rfl h.1 h.2
theorem RoundTrip.cpyLin (pr : BitVec 2) (t1 : Target) (t0 : Target) : RoundTrip.Statement (.cpyLin pr t1 t0) := roundTrip_of rfl fun h => have h := Bool.and_eq_true_iff.mp h; decode_wordT rfl rfl h.1 h.2
theorem RoundTrip.cpy2d (pr : BitVec 2) (t1 : Target) (t0 : Target) : RoundTrip.Statement (.cpy2d pr t1 t0) := roundTrip_of rfl fun h => have h := Bool.and_eq_true_iff.mp h; decode_wordT rfl rfl h.1 h.2
theorem RoundTrip.cpyGath (pr : BitVec 2) (t1 : Target) (t0 : Target) : RoundTrip.Statement (.cpyGath pr t1 t0) := roundTrip_of rfl fun h => have h := Bool.and_eq_true_iff.mp h; decode_wordT rfl rfl h.1 h.2
theorem RoundTrip.cpyScat (pr : BitVec 2) (t1 : Target) (t0 : Target) : RoundTrip.Statement (.cpyScat pr t1 t0) := roundTrip_of rfl fun h => have h := Bool.and_eq_true_iff.mp h; decode_wordT rfl rfl h.1 h.2
theorem RoundTrip.cpyFill (pr : BitVec 2) (t1 : Target) (t0 : Target) : RoundTrip.Statement (.cpyFill pr t1 t0) := roundTrip_of rfl fun h => have h := Bool.and_eq_true_iff.mp h; decode_wordT rfl rfl h.1 h.2
theorem RoundTrip.wptr (pr : BitVec 2) (ch : BitVec 3) (t1 : Target) (t0 : Target) : RoundTrip.Statement (.wptr pr ch t1 t0) :=
  roundTrip_of rfl fun h => by
    have h1 := Bool.and_eq_true_iff.mp h
    have e1 : (0#2 ++ ch).extractLsb' 4 1 = 0#1 := (by decide : ∀ (ch : BitVec 3), (0#2 ++ ch).extractLsb' 4 1 = 0#1) ch
    have e2 : (0#2 ++ ch).extractLsb' 3 1 = 0#1 := (by decide : ∀ (ch : BitVec 3), (0#2 ++ ch).extractLsb' 3 1 = 0#1) ch
    have e3 : (0#2 ++ ch).extractLsb' 0 3 = ch := (by decide : ∀ (ch : BitVec 3), (0#2 ++ ch).extractLsb' 0 3 = ch) ch
    exact decode_wordT (mk := fun pr t1 t0 => .wptr pr ch t1 t0) rfl (by simp [formT, e1, e2, e3]) h1.1 h1.2
theorem RoundTrip.wptrW (pr : BitVec 2) (ch : BitVec 3) (t1 : Target) (t0 : Target) : RoundTrip.Statement (.wptrW pr ch t1 t0) :=
  roundTrip_of rfl fun h => by
    have h1 := Bool.and_eq_true_iff.mp h
    have e1 : (1#2 ++ ch).extractLsb' 4 1 = 0#1 := (by decide : ∀ (ch : BitVec 3), (1#2 ++ ch).extractLsb' 4 1 = 0#1) ch
    have e2 : (1#2 ++ ch).extractLsb' 3 1 = 1#1 := (by decide : ∀ (ch : BitVec 3), (1#2 ++ ch).extractLsb' 3 1 = 1#1) ch
    have e3 : (1#2 ++ ch).extractLsb' 0 3 = ch := (by decide : ∀ (ch : BitVec 3), (1#2 ++ ch).extractLsb' 0 3 = ch) ch
    exact decode_wordT (mk := fun pr t1 t0 => .wptrW pr ch t1 t0) rfl (by simp [formT, e1, e2, e3]) h1.1 h1.2
theorem RoundTrip.cnv (pr : BitVec 2) (path : BitVec 3) (t1 : Target) (t0 : Target) : RoundTrip.Statement (.cnv pr path t1 t0) :=
  roundTrip_of rfl fun h => by
    have h1 := Bool.and_eq_true_iff.mp h
    have e1 : (0#2 ++ path).extractLsb' 3 2 = 0#2 := (by decide : ∀ (path : BitVec 3), (0#2 ++ path).extractLsb' 3 2 = 0#2) path
    have e2 : (0#2 ++ path).extractLsb' 0 3 = path := (by decide : ∀ (path : BitVec 3), (0#2 ++ path).extractLsb' 0 3 = path) path
    exact decode_wordT (mk := fun pr t1 t0 => .cnv pr path t1 t0) rfl (by simp [formT, e1, e2]) h1.1 h1.2
theorem RoundTrip.trap (pr : BitVec 2) (n : BitVec 5) : RoundTrip.Statement (.trap pr n) := roundTrip_of rfl fun _ => decode_wordN (mk := fun pr => .trap pr n) rfl rfl
theorem RoundTrip.rft (pr : BitVec 2) : RoundTrip.Statement (.rft pr) := roundTrip_of rfl fun _ => decode_wordN rfl rfl
theorem RoundTrip.csrr (pr : BitVec 2) (csr : BitVec 14) (t0 : Target) : RoundTrip.Statement (.csrr pr csr t0) :=
  roundTrip_of rfl fun h => by
    have h := Bool.and_eq_true_iff.mp h
    exact decode_wordI (mk := fun pr t0 => .csrr pr csr t0) rfl (by simp [formI, h.2]) h.1
theorem RoundTrip.csrw (pr : BitVec 2) (csr : BitVec 14) (t0 : Target) : RoundTrip.Statement (.csrw pr csr t0) :=
  roundTrip_of rfl fun h => by
    have h := Bool.and_eq_true_iff.mp h
    exact decode_wordI (mk := fun pr t0 => .csrw pr csr t0) rfl (by simp [formI, h.2]) h.1
theorem RoundTrip.tsc (pr : BitVec 2) (t1 : Target) (t0 : Target) : RoundTrip.Statement (.tsc pr t1 t0) := roundTrip_of rfl fun h => have h := Bool.and_eq_true_iff.mp h; decode_wordT rfl rfl h.1 h.2
theorem RoundTrip.bkpt (pr : BitVec 2) (t1 : Target) (t0 : Target) : RoundTrip.Statement (.bkpt pr t1 t0) := roundTrip_of rfl fun h => have h := Bool.and_eq_true_iff.mp h; decode_wordT rfl rfl h.1 h.2
theorem RoundTrip.trace (pr : BitVec 2) (n : BitVec 5) (t1 : Target) (t0 : Target) : RoundTrip.Statement (.trace pr n t1 t0) := roundTrip_of rfl fun h => have h := Bool.and_eq_true_iff.mp h; decode_wordT (mk := fun pr t1 t0 => .trace pr n t1 t0) rfl rfl h.1 h.2
theorem RoundTrip.evt (pr : BitVec 2) (n : BitVec 5) (t1 : Target) (t0 : Target) : RoundTrip.Statement (.evt pr n t1 t0) := roundTrip_of rfl fun h => have h := Bool.and_eq_true_iff.mp h; decode_wordT (mk := fun pr t1 t0 => .evt pr n t1 t0) rfl rfl h.1 h.2
theorem RoundTrip.est (pr : BitVec 2) (t1 : Target) (t0 : Target) : RoundTrip.Statement (.est pr t1 t0) := roundTrip_of rfl fun h => have h := Bool.and_eq_true_iff.mp h; decode_wordT rfl rfl h.1 h.2
theorem RoundTrip.sysc (pr : BitVec 2) (n : BitVec 5) (t1 : Target) (t0 : Target) : RoundTrip.Statement (.sysc pr n t1 t0) := roundTrip_of rfl fun h => have h := Bool.and_eq_true_iff.mp h; decode_wordT (mk := fun pr t1 t0 => .sysc pr n t1 t0) rfl rfl h.1 h.2
theorem RoundTrip.blockFetch : RoundTrip.Statement .blockFetch := fun _ _ e => nomatch e
theorem RoundTrip.tokenArrival : RoundTrip.Statement .tokenArrival := fun _ _ e => nomatch e
theorem RoundTrip.spillReturn : RoundTrip.Statement .spillReturn := fun _ _ e => nomatch e
theorem RoundTrip.readySetPromote : RoundTrip.Statement .readySetPromote := fun _ _ e => nomatch e
theorem RoundTrip.storeBufferPerform : RoundTrip.Statement .storeBufferPerform := fun _ _ e => nomatch e
theorem RoundTrip.loadReply : RoundTrip.Statement .loadReply := fun _ _ e => nomatch e
theorem RoundTrip.loadReplay : RoundTrip.Statement .loadReplay := fun _ _ e => nomatch e
theorem RoundTrip.blockCommit : RoundTrip.Statement .blockCommit := fun _ _ e => nomatch e
theorem RoundTrip.configDrain : RoundTrip.Statement .configDrain := fun _ _ e => nomatch e
theorem RoundTrip.loopIterationStart : RoundTrip.Statement .loopIterationStart := fun _ _ e => nomatch e
theorem RoundTrip.iterationRetire : RoundTrip.Statement .iterationRetire := fun _ _ e => nomatch e
theorem RoundTrip.messageArrival : RoundTrip.Statement .messageArrival := fun _ _ e => nomatch e
theorem RoundTrip.handlerActivationStart : RoundTrip.Statement .handlerActivationStart := fun _ _ e => nomatch e
theorem RoundTrip.rtagen : RoundTrip.Statement .rtagen := fun _ _ e => nomatch e
theorem RoundTrip.rtagpend : RoundTrip.Statement .rtagpend := fun _ _ e => nomatch e
theorem RoundTrip.quiescenceWave : RoundTrip.Statement .quiescenceWave := fun _ _ e => nomatch e
theorem RoundTrip.pelorusRound : RoundTrip.Statement .pelorusRound := fun _ _ e => nomatch e
theorem RoundTrip.requestPromote : RoundTrip.Statement .requestPromote := fun _ _ e => nomatch e
theorem RoundTrip.calleeStart : RoundTrip.Statement .calleeStart := fun _ _ e => nomatch e
theorem RoundTrip.callResult : RoundTrip.Statement .callResult := fun _ _ e => nomatch e
theorem RoundTrip.teardown : RoundTrip.Statement .teardown := fun _ _ e => nomatch e
theorem RoundTrip.prePlace : RoundTrip.Statement .prePlace := fun _ _ e => nomatch e
theorem RoundTrip.configPrefetch : RoundTrip.Statement .configPrefetch := fun _ _ e => nomatch e
theorem RoundTrip.contextFetch : RoundTrip.Statement .contextFetch := fun _ _ e => nomatch e
theorem RoundTrip.fullEmptyAct : RoundTrip.Statement .fullEmptyAct := fun _ _ e => nomatch e
theorem RoundTrip.pageWalk : RoundTrip.Statement .pageWalk := fun _ _ e => nomatch e
theorem RoundTrip.tlbInvalidate : RoundTrip.Statement .tlbInvalidate := fun _ _ e => nomatch e
theorem RoundTrip.tlbInvalidateDone : RoundTrip.Statement .tlbInvalidateDone := fun _ _ e => nomatch e
theorem RoundTrip.multicastCopy : RoundTrip.Statement .multicastCopy := fun _ _ e => nomatch e
theorem RoundTrip.channelWrite : RoundTrip.Statement .channelWrite := fun _ _ e => nomatch e
theorem RoundTrip.pageReencrypt : RoundTrip.Statement .pageReencrypt := fun _ _ e => nomatch e
theorem RoundTrip.guardLineRead : RoundTrip.Statement .guardLineRead := fun _ _ e => nomatch e
theorem RoundTrip.counterWriteback : RoundTrip.Statement .counterWriteback := fun _ _ e => nomatch e
theorem RoundTrip.configStoreError : RoundTrip.Statement .configStoreError := fun _ _ e => nomatch e
theorem RoundTrip.configReloadDone : RoundTrip.Statement .configReloadDone := fun _ _ e => nomatch e
theorem RoundTrip.tileSramError : RoundTrip.Statement .tileSramError := fun _ _ e => nomatch e
theorem RoundTrip.syncOperationArrival : RoundTrip.Statement .syncOperationArrival := fun _ _ e => nomatch e
theorem RoundTrip.cycleWalkEnd : RoundTrip.Statement .cycleWalkEnd := fun _ _ e => nomatch e
theorem RoundTrip.priorityPropagate : RoundTrip.Statement .priorityPropagate := fun _ _ e => nomatch e
theorem RoundTrip.islandAccept : RoundTrip.Statement .islandAccept := fun _ _ e => nomatch e
theorem RoundTrip.islandCommandDone : RoundTrip.Statement .islandCommandDone := fun _ _ e => nomatch e
theorem RoundTrip.groupCompletion : RoundTrip.Statement .groupCompletion := fun _ _ e => nomatch e
theorem RoundTrip.islandStreamToken : RoundTrip.Statement .islandStreamToken := fun _ _ e => nomatch e
theorem RoundTrip.cnvImageLoad : RoundTrip.Statement .cnvImageLoad := fun _ _ e => nomatch e
theorem RoundTrip.cnvLoadDone : RoundTrip.Statement .cnvLoadDone := fun _ _ e => nomatch e
theorem RoundTrip.cnvPortInput : RoundTrip.Statement .cnvPortInput := fun _ _ e => nomatch e
theorem RoundTrip.plaiterCompileDone : RoundTrip.Statement .plaiterCompileDone := fun _ _ e => nomatch e
theorem RoundTrip.scatApply : RoundTrip.Statement .scatApply := fun _ _ e => nomatch e
theorem RoundTrip.copyCommandBegin : RoundTrip.Statement .copyCommandBegin := fun _ _ e => nomatch e
theorem RoundTrip.copyStreamToken : RoundTrip.Statement .copyStreamToken := fun _ _ e => nomatch e
theorem RoundTrip.copyWritePerform : RoundTrip.Statement .copyWritePerform := fun _ _ e => nomatch e
theorem RoundTrip.copyComplete : RoundTrip.Statement .copyComplete := fun _ _ e => nomatch e
theorem RoundTrip.topkEmit : RoundTrip.Statement .topkEmit := fun _ _ e => nomatch e
theorem RoundTrip.peerIngressWrite : RoundTrip.Statement .peerIngressWrite := fun _ _ e => nomatch e
theorem RoundTrip.peerWriteAck : RoundTrip.Statement .peerWriteAck := fun _ _ e => nomatch e
theorem RoundTrip.peerPathTimeout : RoundTrip.Statement .peerPathTimeout := fun _ _ e => nomatch e
theorem RoundTrip.linkPortFail : RoundTrip.Statement .linkPortFail := fun _ _ e => nomatch e
theorem RoundTrip.doorbell : RoundTrip.Statement .doorbell := fun _ _ e => nomatch e
theorem RoundTrip.helmQueueMap : RoundTrip.Statement .helmQueueMap := fun _ _ e => nomatch e
theorem RoundTrip.helmSliceExpiry : RoundTrip.Statement .helmSliceExpiry := fun _ _ e => nomatch e
theorem RoundTrip.helmEntryStart : RoundTrip.Statement .helmEntryStart := fun _ _ e => nomatch e
theorem RoundTrip.launch : RoundTrip.Statement .launch := fun _ _ e => nomatch e
theorem RoundTrip.copy : RoundTrip.Statement .copy := fun _ _ e => nomatch e
theorem RoundTrip.wait : RoundTrip.Statement .wait := fun _ _ e => nomatch e
theorem RoundTrip.signal : RoundTrip.Statement .signal := fun _ _ e => nomatch e
theorem RoundTrip.cond : RoundTrip.Statement .cond := fun _ _ e => nomatch e
theorem RoundTrip.helmLoop : RoundTrip.Statement .helmLoop := fun _ _ e => nomatch e
theorem RoundTrip.helmEnd : RoundTrip.Statement .helmEnd := fun _ _ e => nomatch e
theorem RoundTrip.waitSatisfied : RoundTrip.Statement .waitSatisfied := fun _ _ e => nomatch e
theorem RoundTrip.launchResult : RoundTrip.Statement .launchResult := fun _ _ e => nomatch e
theorem RoundTrip.launchContinue : RoundTrip.Statement .launchContinue := fun _ _ e => nomatch e
theorem RoundTrip.trapFrameWrite : RoundTrip.Statement .trapFrameWrite := fun _ _ e => nomatch e
theorem RoundTrip.trapHandlerStart : RoundTrip.Statement .trapHandlerStart := fun _ _ e => nomatch e
theorem RoundTrip.replayInject : RoundTrip.Statement .replayInject := fun _ _ e => nomatch e
theorem RoundTrip.instanceKill : RoundTrip.Statement .instanceKill := fun _ _ e => nomatch e
theorem RoundTrip.strandBoundaryStop : RoundTrip.Statement .strandBoundaryStop := fun _ _ e => nomatch e
theorem RoundTrip.checkpointCut : RoundTrip.Statement .checkpointCut := fun _ _ e => nomatch e
theorem RoundTrip.contextSaveSizing : RoundTrip.Statement .contextSaveSizing := fun _ _ e => nomatch e
theorem RoundTrip.contextSaveWrite : RoundTrip.Statement .contextSaveWrite := fun _ _ e => nomatch e
theorem RoundTrip.contextRestore : RoundTrip.Statement .contextRestore := fun _ _ e => nomatch e
theorem RoundTrip.preemptionComplete : RoundTrip.Statement .preemptionComplete := fun _ _ e => nomatch e
theorem RoundTrip.guestSwitch : RoundTrip.Statement .guestSwitch := fun _ _ e => nomatch e
theorem RoundTrip.create : RoundTrip.Statement .create := fun _ _ e => nomatch e
theorem RoundTrip.destroy : RoundTrip.Statement .destroy := fun _ _ e => nomatch e
theorem RoundTrip.grant : RoundTrip.Statement .grant := fun _ _ e => nomatch e
theorem RoundTrip.reclaim : RoundTrip.Statement .reclaim := fun _ _ e => nomatch e
theorem RoundTrip.setmin : RoundTrip.Statement .setmin := fun _ _ e => nomatch e
theorem RoundTrip.preempt : RoundTrip.Statement .preempt := fun _ _ e => nomatch e
theorem RoundTrip.resetQueue : RoundTrip.Statement .resetQueue := fun _ _ e => nomatch e
theorem RoundTrip.resetContext : RoundTrip.Statement .resetContext := fun _ _ e => nomatch e
theorem RoundTrip.resetEngine : RoundTrip.Statement .resetEngine := fun _ _ e => nomatch e
theorem RoundTrip.resetPartition : RoundTrip.Statement .resetPartition := fun _ _ e => nomatch e
theorem RoundTrip.resetDevice : RoundTrip.Statement .resetDevice := fun _ _ e => nomatch e
theorem RoundTrip.resetEscalate : RoundTrip.Statement .resetEscalate := fun _ _ e => nomatch e
theorem RoundTrip.vfstateRunning : RoundTrip.Statement .vfstateRunning := fun _ _ e => nomatch e
theorem RoundTrip.vfstateDescheduled : RoundTrip.Statement .vfstateDescheduled := fun _ _ e => nomatch e
theorem RoundTrip.vfstatePaused : RoundTrip.Statement .vfstatePaused := fun _ _ e => nomatch e
theorem RoundTrip.wincreate : RoundTrip.Statement .wincreate := fun _ _ e => nomatch e
theorem RoundTrip.winattach : RoundTrip.Statement .winattach := fun _ _ e => nomatch e
theorem RoundTrip.windetach : RoundTrip.Statement .windetach := fun _ _ e => nomatch e
theorem RoundTrip.windestroy : RoundTrip.Statement .windestroy := fun _ _ e => nomatch e
theorem RoundTrip.objreset : RoundTrip.Statement .objreset := fun _ _ e => nomatch e
theorem RoundTrip.instctlResume : RoundTrip.Statement .instctlResume := fun _ _ e => nomatch e
theorem RoundTrip.instctlKill : RoundTrip.Statement .instctlKill := fun _ _ e => nomatch e
theorem RoundTrip.migsave : RoundTrip.Statement .migsave := fun _ _ e => nomatch e
theorem RoundTrip.migload : RoundTrip.Statement .migload := fun _ _ e => nomatch e
theorem RoundTrip.eventRecordWrite : RoundTrip.Statement .eventRecordWrite := fun _ _ e => nomatch e
theorem RoundTrip.tsnowl : RoundTrip.Statement .tsnowl := fun _ _ e => nomatch e
theorem RoundTrip.hostApertureRead : RoundTrip.Statement .hostApertureRead := fun _ _ e => nomatch e
theorem RoundTrip.hostApertureWrite : RoundTrip.Statement .hostApertureWrite := fun _ _ e => nomatch e
theorem RoundTrip.functionReset : RoundTrip.Statement .functionReset := fun _ _ e => nomatch e
theorem RoundTrip.debugResume : RoundTrip.Statement .debugResume := fun _ _ e => nomatch e
theorem RoundTrip.debugHalt : RoundTrip.Statement .debugHalt := fun _ _ e => nomatch e
theorem RoundTrip.debugDataRead : RoundTrip.Statement .debugDataRead := fun _ _ e => nomatch e
theorem RoundTrip.histogramReadout : RoundTrip.Statement .histogramReadout := fun _ _ e => nomatch e
theorem RoundTrip.traceSample : RoundTrip.Statement .traceSample := fun _ _ e => nomatch e
theorem RoundTrip.loglineFrameWrite : RoundTrip.Statement .loglineFrameWrite := fun _ _ e => nomatch e
theorem RoundTrip.coreDump : RoundTrip.Statement .coreDump := fun _ _ e => nomatch e
theorem RoundTrip.poisonLogClear : RoundTrip.Statement .poisonLogClear := fun _ _ e => nomatch e
theorem RoundTrip.clearOnRead : RoundTrip.Statement .clearOnRead := fun _ _ e => nomatch e
theorem RoundTrip.csrWrite : RoundTrip.Statement .csrWrite := fun _ _ e => nomatch e
theorem RoundTrip.powerOn : RoundTrip.Statement .powerOn := fun _ _ e => nomatch e
theorem RoundTrip.powerRefill : RoundTrip.Statement .powerRefill := fun _ _ e => nomatch e
theorem RoundTrip.thermalLimit : RoundTrip.Statement .thermalLimit := fun _ _ e => nomatch e
theorem RoundTrip.thermalStep : RoundTrip.Statement .thermalStep := fun _ _ e => nomatch e
theorem RoundTrip.thermalShutdown : RoundTrip.Statement .thermalShutdown := fun _ _ e => nomatch e
theorem RoundTrip.powerLoss : RoundTrip.Statement .powerLoss := fun _ _ e => nomatch e
theorem RoundTrip.channelSpareSwitch : RoundTrip.Statement .channelSpareSwitch := fun _ _ e => nomatch e
theorem RoundTrip.clusterRetire : RoundTrip.Statement .clusterRetire := fun _ _ e => nomatch e
theorem RoundTrip.tileSramStore : RoundTrip.Statement .tileSramStore := fun _ _ e => nomatch e
theorem RoundTrip.hostMemoryWrite : RoundTrip.Statement .hostMemoryWrite := fun _ _ e => nomatch e
theorem RoundTrip.correctedError : RoundTrip.Statement .correctedError := fun _ _ e => nomatch e
theorem RoundTrip.imageCrcError : RoundTrip.Statement .imageCrcError := fun _ _ e => nomatch e
theorem RoundTrip.lineCacheError : RoundTrip.Statement .lineCacheError := fun _ _ e => nomatch e
theorem RoundTrip.bridgeLoss : RoundTrip.Statement .bridgeLoss := fun _ _ e => nomatch e
theorem RoundTrip.moduleLimit : RoundTrip.Statement .moduleLimit := fun _ _ e => nomatch e
theorem RoundTrip.stoptsl : RoundTrip.Statement .stoptsl := fun _ _ e => nomatch e
theorem RoundTrip.wpkal : RoundTrip.Statement .wpkal := fun _ _ e => nomatch e

end Sys2Proof.Laws
end

