-- ==== Sys2Proof/Laws/State.lean ====
section
/-! SUPPORT. Sys2Proof/Laws/State.lean: what each named update of the state leaves alone, field by field, true by definition. -/

namespace Sys2Proof.Machine

@[simp] theorem State.modPart_now (s : State) (p : Nat) (f : Part → Part) : (s.modPart p f).now = s.now := rfl
@[simp] theorem State.modPart_tsBase (s : State) (p : Nat) (f : Part → Part) : (s.modPart p f).tsBase = s.tsBase := rfl
@[simp] theorem State.modPart_power (s : State) (p : Nat) (f : Part → Part) : (s.modPart p f).power = s.power := rfl
@[simp] theorem State.modPart_agenda (s : State) (p : Nat) (f : Part → Part) : (s.modPart p f).agenda = s.agenda := rfl
@[simp] theorem State.modPart_nextFid (s : State) (p : Nat) (f : Part → Part) : (s.modPart p f).nextFid = s.nextFid := rfl
@[simp] theorem State.modPart_free (s : State) (p : Nat) (f : Part → Part) : (s.modPart p f).free = s.free := rfl
@[simp] theorem State.modPart_cur (s : State) (p : Nat) (f : Part → Part) : (s.modPart p f).cur = s.cur := rfl
@[simp] theorem State.modPart_arg (s : State) (p : Nat) (f : Part → Part) : (s.modPart p f).arg = s.arg := rfl
@[simp] theorem State.modPart_mem (s : State) (p : Nat) (f : Part → Part) : (s.modPart p f).mem = s.mem := rfl
@[simp] theorem State.modPart_fe (s : State) (p : Nat) (f : Part → Part) : (s.modPart p f).fe = s.fe := rfl
@[simp] theorem State.modPart_guard (s : State) (p : Nat) (f : Part → Part) : (s.modPart p f).guard = s.guard := rfl
@[simp] theorem State.modPart_tree (s : State) (p : Nat) (f : Part → Part) : (s.modPart p f).tree = s.tree := rfl
@[simp] theorem State.modPart_badLines (s : State) (p : Nat) (f : Part → Part) : (s.modPart p f).badLines = s.badLines := rfl
@[simp] theorem State.modPart_oldPtes (s : State) (p : Nat) (f : Part → Part) : (s.modPart p f).oldPtes = s.oldPtes := rfl
@[simp] theorem State.modPart_pfEvents (s : State) (p : Nat) (f : Part → Part) : (s.modPart p f).pfEvents = s.pfEvents := rfl
@[simp] theorem State.modPart_plait (s : State) (p : Nat) (f : Part → Part) : (s.modPart p f).plait = s.plait := rfl
@[simp] theorem State.modPart_windows (s : State) (p : Nat) (f : Part → Part) : (s.modPart p f).windows = s.windows := rfl
@[simp] theorem State.modPart_helmSlots (s : State) (p : Nat) (f : Part → Part) : (s.modPart p f).helmSlots = s.helmSlots := rfl
@[simp] theorem State.modPart_helmLine (s : State) (p : Nat) (f : Part → Part) : (s.modPart p f).helmLine = s.helmLine := rfl
@[simp] theorem State.modPart_helmSaved (s : State) (p : Nat) (f : Part → Part) : (s.modPart p f).helmSaved = s.helmSaved := rfl
@[simp] theorem State.modPart_module (s : State) (p : Nat) (f : Part → Part) : (s.modPart p f).module = s.module := rfl
@[simp] theorem State.modPart_boot (s : State) (p : Nat) (f : Part → Part) : (s.modPart p f).boot = s.boot := rfl
@[simp] theorem State.modPart_clusters (s : State) (p : Nat) (f : Part → Part) : (s.modPart p f).clusters = s.clusters := rfl
@[simp] theorem State.modPart_channels (s : State) (p : Nat) (f : Part → Part) : (s.modPart p f).channels = s.channels := rfl
@[simp] theorem State.modPart_retired (s : State) (p : Nat) (f : Part → Part) : (s.modPart p f).retired = s.retired := rfl
@[simp] theorem State.modPart_worn (s : State) (p : Nat) (f : Part → Part) : (s.modPart p f).worn = s.worn := rfl
@[simp] theorem State.modPart_cfgErrs (s : State) (p : Nat) (f : Part → Part) : (s.modPart p f).cfgErrs = s.cfgErrs := rfl
@[simp] theorem State.modPart_limit (s : State) (p : Nat) (f : Part → Part) : (s.modPart p f).limit = s.limit := rfl
@[simp] theorem State.modPart_credits (s : State) (p : Nat) (f : Part → Part) : (s.modPart p f).credits = s.credits := rfl
@[simp] theorem State.modPart_hot (s : State) (p : Nat) (f : Part → Part) : (s.modPart p f).hot = s.hot := rfl
@[simp] theorem State.modPart_bridges (s : State) (p : Nat) (f : Part → Part) : (s.modPart p f).bridges = s.bridges := rfl
@[simp] theorem State.modPart_ports (s : State) (p : Nat) (f : Part → Part) : (s.modPart p f).ports = s.ports := rfl
@[simp] theorem State.modPart_hostOut (s : State) (p : Nat) (f : Part → Part) : (s.modPart p f).hostOut = s.hostOut := rfl
@[simp] theorem State.modPart_replies (s : State) (p : Nat) (f : Part → Part) : (s.modPart p f).replies = s.replies := rfl
@[simp] theorem State.modPart_resets (s : State) (p : Nat) (f : Part → Part) : (s.modPart p f).resets = s.resets := rfl
@[simp] theorem State.modPart_migs (s : State) (p : Nat) (f : Part → Part) : (s.modPart p f).migs = s.migs := rfl
@[simp] theorem State.modPart_peerOut (s : State) (p : Nat) (f : Part → Part) : (s.modPart p f).peerOut = s.peerOut := rfl
@[simp] theorem State.modPart_nextKey (s : State) (p : Nat) (f : Part → Part) : (s.modPart p f).nextKey = s.nextKey := rfl
@[simp] theorem State.modPart_synced (s : State) (p : Nat) (f : Part → Part) : (s.modPart p f).synced = s.synced := rfl
@[simp] theorem State.modPart_reports (s : State) (p : Nat) (f : Part → Part) : (s.modPart p f).reports = s.reports := rfl

@[simp] theorem State.modPage_now (s : State) (p pg : Nat) (f : Page → Page) : (s.modPage p pg f).now = s.now := rfl
@[simp] theorem State.modPage_tsBase (s : State) (p pg : Nat) (f : Page → Page) : (s.modPage p pg f).tsBase = s.tsBase := rfl
@[simp] theorem State.modPage_power (s : State) (p pg : Nat) (f : Page → Page) : (s.modPage p pg f).power = s.power := rfl
@[simp] theorem State.modPage_agenda (s : State) (p pg : Nat) (f : Page → Page) : (s.modPage p pg f).agenda = s.agenda := rfl
@[simp] theorem State.modPage_nextFid (s : State) (p pg : Nat) (f : Page → Page) : (s.modPage p pg f).nextFid = s.nextFid := rfl
@[simp] theorem State.modPage_free (s : State) (p pg : Nat) (f : Page → Page) : (s.modPage p pg f).free = s.free := rfl
@[simp] theorem State.modPage_cur (s : State) (p pg : Nat) (f : Page → Page) : (s.modPage p pg f).cur = s.cur := rfl
@[simp] theorem State.modPage_arg (s : State) (p pg : Nat) (f : Page → Page) : (s.modPage p pg f).arg = s.arg := rfl
@[simp] theorem State.modPage_mem (s : State) (p pg : Nat) (f : Page → Page) : (s.modPage p pg f).mem = s.mem := rfl
@[simp] theorem State.modPage_fe (s : State) (p pg : Nat) (f : Page → Page) : (s.modPage p pg f).fe = s.fe := rfl
@[simp] theorem State.modPage_guard (s : State) (p pg : Nat) (f : Page → Page) : (s.modPage p pg f).guard = s.guard := rfl
@[simp] theorem State.modPage_tree (s : State) (p pg : Nat) (f : Page → Page) : (s.modPage p pg f).tree = s.tree := rfl
@[simp] theorem State.modPage_badLines (s : State) (p pg : Nat) (f : Page → Page) : (s.modPage p pg f).badLines = s.badLines := rfl
@[simp] theorem State.modPage_oldPtes (s : State) (p pg : Nat) (f : Page → Page) : (s.modPage p pg f).oldPtes = s.oldPtes := rfl
@[simp] theorem State.modPage_pfEvents (s : State) (p pg : Nat) (f : Page → Page) : (s.modPage p pg f).pfEvents = s.pfEvents := rfl
@[simp] theorem State.modPage_plait (s : State) (p pg : Nat) (f : Page → Page) : (s.modPage p pg f).plait = s.plait := rfl
@[simp] theorem State.modPage_windows (s : State) (p pg : Nat) (f : Page → Page) : (s.modPage p pg f).windows = s.windows := rfl
@[simp] theorem State.modPage_helmSlots (s : State) (p pg : Nat) (f : Page → Page) : (s.modPage p pg f).helmSlots = s.helmSlots := rfl
@[simp] theorem State.modPage_helmLine (s : State) (p pg : Nat) (f : Page → Page) : (s.modPage p pg f).helmLine = s.helmLine := rfl
@[simp] theorem State.modPage_helmSaved (s : State) (p pg : Nat) (f : Page → Page) : (s.modPage p pg f).helmSaved = s.helmSaved := rfl
@[simp] theorem State.modPage_module (s : State) (p pg : Nat) (f : Page → Page) : (s.modPage p pg f).module = s.module := rfl
@[simp] theorem State.modPage_boot (s : State) (p pg : Nat) (f : Page → Page) : (s.modPage p pg f).boot = s.boot := rfl
@[simp] theorem State.modPage_clusters (s : State) (p pg : Nat) (f : Page → Page) : (s.modPage p pg f).clusters = s.clusters := rfl
@[simp] theorem State.modPage_channels (s : State) (p pg : Nat) (f : Page → Page) : (s.modPage p pg f).channels = s.channels := rfl
@[simp] theorem State.modPage_retired (s : State) (p pg : Nat) (f : Page → Page) : (s.modPage p pg f).retired = s.retired := rfl
@[simp] theorem State.modPage_worn (s : State) (p pg : Nat) (f : Page → Page) : (s.modPage p pg f).worn = s.worn := rfl
@[simp] theorem State.modPage_cfgErrs (s : State) (p pg : Nat) (f : Page → Page) : (s.modPage p pg f).cfgErrs = s.cfgErrs := rfl
@[simp] theorem State.modPage_limit (s : State) (p pg : Nat) (f : Page → Page) : (s.modPage p pg f).limit = s.limit := rfl
@[simp] theorem State.modPage_credits (s : State) (p pg : Nat) (f : Page → Page) : (s.modPage p pg f).credits = s.credits := rfl
@[simp] theorem State.modPage_hot (s : State) (p pg : Nat) (f : Page → Page) : (s.modPage p pg f).hot = s.hot := rfl
@[simp] theorem State.modPage_bridges (s : State) (p pg : Nat) (f : Page → Page) : (s.modPage p pg f).bridges = s.bridges := rfl
@[simp] theorem State.modPage_ports (s : State) (p pg : Nat) (f : Page → Page) : (s.modPage p pg f).ports = s.ports := rfl
@[simp] theorem State.modPage_hostOut (s : State) (p pg : Nat) (f : Page → Page) : (s.modPage p pg f).hostOut = s.hostOut := rfl
@[simp] theorem State.modPage_replies (s : State) (p pg : Nat) (f : Page → Page) : (s.modPage p pg f).replies = s.replies := rfl
@[simp] theorem State.modPage_resets (s : State) (p pg : Nat) (f : Page → Page) : (s.modPage p pg f).resets = s.resets := rfl
@[simp] theorem State.modPage_migs (s : State) (p pg : Nat) (f : Page → Page) : (s.modPage p pg f).migs = s.migs := rfl
@[simp] theorem State.modPage_peerOut (s : State) (p pg : Nat) (f : Page → Page) : (s.modPage p pg f).peerOut = s.peerOut := rfl
@[simp] theorem State.modPage_nextKey (s : State) (p pg : Nat) (f : Page → Page) : (s.modPage p pg f).nextKey = s.nextKey := rfl
@[simp] theorem State.modPage_synced (s : State) (p pg : Nat) (f : Page → Page) : (s.modPage p pg f).synced = s.synced := rfl
@[simp] theorem State.modPage_reports (s : State) (p pg : Nat) (f : Page → Page) : (s.modPage p pg f).reports = s.reports := rfl

@[simp] theorem State.modInst_now (s : State) (p id : Nat) (f : Inst → Inst) : (s.modInst p id f).now = s.now := rfl
@[simp] theorem State.modInst_tsBase (s : State) (p id : Nat) (f : Inst → Inst) : (s.modInst p id f).tsBase = s.tsBase := rfl
@[simp] theorem State.modInst_power (s : State) (p id : Nat) (f : Inst → Inst) : (s.modInst p id f).power = s.power := rfl
@[simp] theorem State.modInst_agenda (s : State) (p id : Nat) (f : Inst → Inst) : (s.modInst p id f).agenda = s.agenda := rfl
@[simp] theorem State.modInst_nextFid (s : State) (p id : Nat) (f : Inst → Inst) : (s.modInst p id f).nextFid = s.nextFid := rfl
@[simp] theorem State.modInst_free (s : State) (p id : Nat) (f : Inst → Inst) : (s.modInst p id f).free = s.free := rfl
@[simp] theorem State.modInst_cur (s : State) (p id : Nat) (f : Inst → Inst) : (s.modInst p id f).cur = s.cur := rfl
@[simp] theorem State.modInst_arg (s : State) (p id : Nat) (f : Inst → Inst) : (s.modInst p id f).arg = s.arg := rfl
@[simp] theorem State.modInst_mem (s : State) (p id : Nat) (f : Inst → Inst) : (s.modInst p id f).mem = s.mem := rfl
@[simp] theorem State.modInst_fe (s : State) (p id : Nat) (f : Inst → Inst) : (s.modInst p id f).fe = s.fe := rfl
@[simp] theorem State.modInst_guard (s : State) (p id : Nat) (f : Inst → Inst) : (s.modInst p id f).guard = s.guard := rfl
@[simp] theorem State.modInst_tree (s : State) (p id : Nat) (f : Inst → Inst) : (s.modInst p id f).tree = s.tree := rfl
@[simp] theorem State.modInst_badLines (s : State) (p id : Nat) (f : Inst → Inst) : (s.modInst p id f).badLines = s.badLines := rfl
@[simp] theorem State.modInst_oldPtes (s : State) (p id : Nat) (f : Inst → Inst) : (s.modInst p id f).oldPtes = s.oldPtes := rfl
@[simp] theorem State.modInst_pfEvents (s : State) (p id : Nat) (f : Inst → Inst) : (s.modInst p id f).pfEvents = s.pfEvents := rfl
@[simp] theorem State.modInst_plait (s : State) (p id : Nat) (f : Inst → Inst) : (s.modInst p id f).plait = s.plait := rfl
@[simp] theorem State.modInst_windows (s : State) (p id : Nat) (f : Inst → Inst) : (s.modInst p id f).windows = s.windows := rfl
@[simp] theorem State.modInst_helmSlots (s : State) (p id : Nat) (f : Inst → Inst) : (s.modInst p id f).helmSlots = s.helmSlots := rfl
@[simp] theorem State.modInst_helmLine (s : State) (p id : Nat) (f : Inst → Inst) : (s.modInst p id f).helmLine = s.helmLine := rfl
@[simp] theorem State.modInst_helmSaved (s : State) (p id : Nat) (f : Inst → Inst) : (s.modInst p id f).helmSaved = s.helmSaved := rfl
@[simp] theorem State.modInst_module (s : State) (p id : Nat) (f : Inst → Inst) : (s.modInst p id f).module = s.module := rfl
@[simp] theorem State.modInst_boot (s : State) (p id : Nat) (f : Inst → Inst) : (s.modInst p id f).boot = s.boot := rfl
@[simp] theorem State.modInst_clusters (s : State) (p id : Nat) (f : Inst → Inst) : (s.modInst p id f).clusters = s.clusters := rfl
@[simp] theorem State.modInst_channels (s : State) (p id : Nat) (f : Inst → Inst) : (s.modInst p id f).channels = s.channels := rfl
@[simp] theorem State.modInst_retired (s : State) (p id : Nat) (f : Inst → Inst) : (s.modInst p id f).retired = s.retired := rfl
@[simp] theorem State.modInst_worn (s : State) (p id : Nat) (f : Inst → Inst) : (s.modInst p id f).worn = s.worn := rfl
@[simp] theorem State.modInst_cfgErrs (s : State) (p id : Nat) (f : Inst → Inst) : (s.modInst p id f).cfgErrs = s.cfgErrs := rfl
@[simp] theorem State.modInst_limit (s : State) (p id : Nat) (f : Inst → Inst) : (s.modInst p id f).limit = s.limit := rfl
@[simp] theorem State.modInst_credits (s : State) (p id : Nat) (f : Inst → Inst) : (s.modInst p id f).credits = s.credits := rfl
@[simp] theorem State.modInst_hot (s : State) (p id : Nat) (f : Inst → Inst) : (s.modInst p id f).hot = s.hot := rfl
@[simp] theorem State.modInst_bridges (s : State) (p id : Nat) (f : Inst → Inst) : (s.modInst p id f).bridges = s.bridges := rfl
@[simp] theorem State.modInst_ports (s : State) (p id : Nat) (f : Inst → Inst) : (s.modInst p id f).ports = s.ports := rfl
@[simp] theorem State.modInst_hostOut (s : State) (p id : Nat) (f : Inst → Inst) : (s.modInst p id f).hostOut = s.hostOut := rfl
@[simp] theorem State.modInst_replies (s : State) (p id : Nat) (f : Inst → Inst) : (s.modInst p id f).replies = s.replies := rfl
@[simp] theorem State.modInst_resets (s : State) (p id : Nat) (f : Inst → Inst) : (s.modInst p id f).resets = s.resets := rfl
@[simp] theorem State.modInst_migs (s : State) (p id : Nat) (f : Inst → Inst) : (s.modInst p id f).migs = s.migs := rfl
@[simp] theorem State.modInst_peerOut (s : State) (p id : Nat) (f : Inst → Inst) : (s.modInst p id f).peerOut = s.peerOut := rfl
@[simp] theorem State.modInst_nextKey (s : State) (p id : Nat) (f : Inst → Inst) : (s.modInst p id f).nextKey = s.nextKey := rfl
@[simp] theorem State.modInst_synced (s : State) (p id : Nat) (f : Inst → Inst) : (s.modInst p id f).synced = s.synced := rfl
@[simp] theorem State.modInst_reports (s : State) (p id : Nat) (f : Inst → Inst) : (s.modInst p id f).reports = s.reports := rfl

@[simp] theorem State.modStrand_now (s : State) (p id n : Nat) (f : Strand → Strand) : (s.modStrand p id n f).now = s.now := rfl
@[simp] theorem State.modStrand_tsBase (s : State) (p id n : Nat) (f : Strand → Strand) : (s.modStrand p id n f).tsBase = s.tsBase := rfl
@[simp] theorem State.modStrand_power (s : State) (p id n : Nat) (f : Strand → Strand) : (s.modStrand p id n f).power = s.power := rfl
@[simp] theorem State.modStrand_agenda (s : State) (p id n : Nat) (f : Strand → Strand) : (s.modStrand p id n f).agenda = s.agenda := rfl
@[simp] theorem State.modStrand_nextFid (s : State) (p id n : Nat) (f : Strand → Strand) : (s.modStrand p id n f).nextFid = s.nextFid := rfl
@[simp] theorem State.modStrand_free (s : State) (p id n : Nat) (f : Strand → Strand) : (s.modStrand p id n f).free = s.free := rfl
@[simp] theorem State.modStrand_cur (s : State) (p id n : Nat) (f : Strand → Strand) : (s.modStrand p id n f).cur = s.cur := rfl
@[simp] theorem State.modStrand_arg (s : State) (p id n : Nat) (f : Strand → Strand) : (s.modStrand p id n f).arg = s.arg := rfl
@[simp] theorem State.modStrand_mem (s : State) (p id n : Nat) (f : Strand → Strand) : (s.modStrand p id n f).mem = s.mem := rfl
@[simp] theorem State.modStrand_fe (s : State) (p id n : Nat) (f : Strand → Strand) : (s.modStrand p id n f).fe = s.fe := rfl
@[simp] theorem State.modStrand_guard (s : State) (p id n : Nat) (f : Strand → Strand) : (s.modStrand p id n f).guard = s.guard := rfl
@[simp] theorem State.modStrand_tree (s : State) (p id n : Nat) (f : Strand → Strand) : (s.modStrand p id n f).tree = s.tree := rfl
@[simp] theorem State.modStrand_badLines (s : State) (p id n : Nat) (f : Strand → Strand) : (s.modStrand p id n f).badLines = s.badLines := rfl
@[simp] theorem State.modStrand_oldPtes (s : State) (p id n : Nat) (f : Strand → Strand) : (s.modStrand p id n f).oldPtes = s.oldPtes := rfl
@[simp] theorem State.modStrand_pfEvents (s : State) (p id n : Nat) (f : Strand → Strand) : (s.modStrand p id n f).pfEvents = s.pfEvents := rfl
@[simp] theorem State.modStrand_plait (s : State) (p id n : Nat) (f : Strand → Strand) : (s.modStrand p id n f).plait = s.plait := rfl
@[simp] theorem State.modStrand_windows (s : State) (p id n : Nat) (f : Strand → Strand) : (s.modStrand p id n f).windows = s.windows := rfl
@[simp] theorem State.modStrand_helmSlots (s : State) (p id n : Nat) (f : Strand → Strand) : (s.modStrand p id n f).helmSlots = s.helmSlots := rfl
@[simp] theorem State.modStrand_helmLine (s : State) (p id n : Nat) (f : Strand → Strand) : (s.modStrand p id n f).helmLine = s.helmLine := rfl
@[simp] theorem State.modStrand_helmSaved (s : State) (p id n : Nat) (f : Strand → Strand) : (s.modStrand p id n f).helmSaved = s.helmSaved := rfl
@[simp] theorem State.modStrand_module (s : State) (p id n : Nat) (f : Strand → Strand) : (s.modStrand p id n f).module = s.module := rfl
@[simp] theorem State.modStrand_boot (s : State) (p id n : Nat) (f : Strand → Strand) : (s.modStrand p id n f).boot = s.boot := rfl
@[simp] theorem State.modStrand_clusters (s : State) (p id n : Nat) (f : Strand → Strand) : (s.modStrand p id n f).clusters = s.clusters := rfl
@[simp] theorem State.modStrand_channels (s : State) (p id n : Nat) (f : Strand → Strand) : (s.modStrand p id n f).channels = s.channels := rfl
@[simp] theorem State.modStrand_retired (s : State) (p id n : Nat) (f : Strand → Strand) : (s.modStrand p id n f).retired = s.retired := rfl
@[simp] theorem State.modStrand_worn (s : State) (p id n : Nat) (f : Strand → Strand) : (s.modStrand p id n f).worn = s.worn := rfl
@[simp] theorem State.modStrand_cfgErrs (s : State) (p id n : Nat) (f : Strand → Strand) : (s.modStrand p id n f).cfgErrs = s.cfgErrs := rfl
@[simp] theorem State.modStrand_limit (s : State) (p id n : Nat) (f : Strand → Strand) : (s.modStrand p id n f).limit = s.limit := rfl
@[simp] theorem State.modStrand_credits (s : State) (p id n : Nat) (f : Strand → Strand) : (s.modStrand p id n f).credits = s.credits := rfl
@[simp] theorem State.modStrand_hot (s : State) (p id n : Nat) (f : Strand → Strand) : (s.modStrand p id n f).hot = s.hot := rfl
@[simp] theorem State.modStrand_bridges (s : State) (p id n : Nat) (f : Strand → Strand) : (s.modStrand p id n f).bridges = s.bridges := rfl
@[simp] theorem State.modStrand_ports (s : State) (p id n : Nat) (f : Strand → Strand) : (s.modStrand p id n f).ports = s.ports := rfl
@[simp] theorem State.modStrand_hostOut (s : State) (p id n : Nat) (f : Strand → Strand) : (s.modStrand p id n f).hostOut = s.hostOut := rfl
@[simp] theorem State.modStrand_replies (s : State) (p id n : Nat) (f : Strand → Strand) : (s.modStrand p id n f).replies = s.replies := rfl
@[simp] theorem State.modStrand_resets (s : State) (p id n : Nat) (f : Strand → Strand) : (s.modStrand p id n f).resets = s.resets := rfl
@[simp] theorem State.modStrand_migs (s : State) (p id n : Nat) (f : Strand → Strand) : (s.modStrand p id n f).migs = s.migs := rfl
@[simp] theorem State.modStrand_peerOut (s : State) (p id n : Nat) (f : Strand → Strand) : (s.modStrand p id n f).peerOut = s.peerOut := rfl
@[simp] theorem State.modStrand_nextKey (s : State) (p id n : Nat) (f : Strand → Strand) : (s.modStrand p id n f).nextKey = s.nextKey := rfl
@[simp] theorem State.modStrand_synced (s : State) (p id n : Nat) (f : Strand → Strand) : (s.modStrand p id n f).synced = s.synced := rfl
@[simp] theorem State.modStrand_reports (s : State) (p id n : Nat) (f : Strand → Strand) : (s.modStrand p id n f).reports = s.reports := rfl

@[simp] theorem State.modAct_now (s : State) (p pg : Nat) (t : Tag) (f : Act → Act) : (s.modAct p pg t f).now = s.now := rfl
@[simp] theorem State.modAct_tsBase (s : State) (p pg : Nat) (t : Tag) (f : Act → Act) : (s.modAct p pg t f).tsBase = s.tsBase := rfl
@[simp] theorem State.modAct_power (s : State) (p pg : Nat) (t : Tag) (f : Act → Act) : (s.modAct p pg t f).power = s.power := rfl
@[simp] theorem State.modAct_agenda (s : State) (p pg : Nat) (t : Tag) (f : Act → Act) : (s.modAct p pg t f).agenda = s.agenda := rfl
@[simp] theorem State.modAct_nextFid (s : State) (p pg : Nat) (t : Tag) (f : Act → Act) : (s.modAct p pg t f).nextFid = s.nextFid := rfl
@[simp] theorem State.modAct_free (s : State) (p pg : Nat) (t : Tag) (f : Act → Act) : (s.modAct p pg t f).free = s.free := rfl
@[simp] theorem State.modAct_cur (s : State) (p pg : Nat) (t : Tag) (f : Act → Act) : (s.modAct p pg t f).cur = s.cur := rfl
@[simp] theorem State.modAct_arg (s : State) (p pg : Nat) (t : Tag) (f : Act → Act) : (s.modAct p pg t f).arg = s.arg := rfl
@[simp] theorem State.modAct_mem (s : State) (p pg : Nat) (t : Tag) (f : Act → Act) : (s.modAct p pg t f).mem = s.mem := rfl
@[simp] theorem State.modAct_fe (s : State) (p pg : Nat) (t : Tag) (f : Act → Act) : (s.modAct p pg t f).fe = s.fe := rfl
@[simp] theorem State.modAct_guard (s : State) (p pg : Nat) (t : Tag) (f : Act → Act) : (s.modAct p pg t f).guard = s.guard := rfl
@[simp] theorem State.modAct_tree (s : State) (p pg : Nat) (t : Tag) (f : Act → Act) : (s.modAct p pg t f).tree = s.tree := rfl
@[simp] theorem State.modAct_badLines (s : State) (p pg : Nat) (t : Tag) (f : Act → Act) : (s.modAct p pg t f).badLines = s.badLines := rfl
@[simp] theorem State.modAct_oldPtes (s : State) (p pg : Nat) (t : Tag) (f : Act → Act) : (s.modAct p pg t f).oldPtes = s.oldPtes := rfl
@[simp] theorem State.modAct_pfEvents (s : State) (p pg : Nat) (t : Tag) (f : Act → Act) : (s.modAct p pg t f).pfEvents = s.pfEvents := rfl
@[simp] theorem State.modAct_plait (s : State) (p pg : Nat) (t : Tag) (f : Act → Act) : (s.modAct p pg t f).plait = s.plait := rfl
@[simp] theorem State.modAct_windows (s : State) (p pg : Nat) (t : Tag) (f : Act → Act) : (s.modAct p pg t f).windows = s.windows := rfl
@[simp] theorem State.modAct_helmSlots (s : State) (p pg : Nat) (t : Tag) (f : Act → Act) : (s.modAct p pg t f).helmSlots = s.helmSlots := rfl
@[simp] theorem State.modAct_helmLine (s : State) (p pg : Nat) (t : Tag) (f : Act → Act) : (s.modAct p pg t f).helmLine = s.helmLine := rfl
@[simp] theorem State.modAct_helmSaved (s : State) (p pg : Nat) (t : Tag) (f : Act → Act) : (s.modAct p pg t f).helmSaved = s.helmSaved := rfl
@[simp] theorem State.modAct_module (s : State) (p pg : Nat) (t : Tag) (f : Act → Act) : (s.modAct p pg t f).module = s.module := rfl
@[simp] theorem State.modAct_boot (s : State) (p pg : Nat) (t : Tag) (f : Act → Act) : (s.modAct p pg t f).boot = s.boot := rfl
@[simp] theorem State.modAct_clusters (s : State) (p pg : Nat) (t : Tag) (f : Act → Act) : (s.modAct p pg t f).clusters = s.clusters := rfl
@[simp] theorem State.modAct_channels (s : State) (p pg : Nat) (t : Tag) (f : Act → Act) : (s.modAct p pg t f).channels = s.channels := rfl
@[simp] theorem State.modAct_retired (s : State) (p pg : Nat) (t : Tag) (f : Act → Act) : (s.modAct p pg t f).retired = s.retired := rfl
@[simp] theorem State.modAct_worn (s : State) (p pg : Nat) (t : Tag) (f : Act → Act) : (s.modAct p pg t f).worn = s.worn := rfl
@[simp] theorem State.modAct_cfgErrs (s : State) (p pg : Nat) (t : Tag) (f : Act → Act) : (s.modAct p pg t f).cfgErrs = s.cfgErrs := rfl
@[simp] theorem State.modAct_limit (s : State) (p pg : Nat) (t : Tag) (f : Act → Act) : (s.modAct p pg t f).limit = s.limit := rfl
@[simp] theorem State.modAct_credits (s : State) (p pg : Nat) (t : Tag) (f : Act → Act) : (s.modAct p pg t f).credits = s.credits := rfl
@[simp] theorem State.modAct_hot (s : State) (p pg : Nat) (t : Tag) (f : Act → Act) : (s.modAct p pg t f).hot = s.hot := rfl
@[simp] theorem State.modAct_bridges (s : State) (p pg : Nat) (t : Tag) (f : Act → Act) : (s.modAct p pg t f).bridges = s.bridges := rfl
@[simp] theorem State.modAct_ports (s : State) (p pg : Nat) (t : Tag) (f : Act → Act) : (s.modAct p pg t f).ports = s.ports := rfl
@[simp] theorem State.modAct_hostOut (s : State) (p pg : Nat) (t : Tag) (f : Act → Act) : (s.modAct p pg t f).hostOut = s.hostOut := rfl
@[simp] theorem State.modAct_replies (s : State) (p pg : Nat) (t : Tag) (f : Act → Act) : (s.modAct p pg t f).replies = s.replies := rfl
@[simp] theorem State.modAct_resets (s : State) (p pg : Nat) (t : Tag) (f : Act → Act) : (s.modAct p pg t f).resets = s.resets := rfl
@[simp] theorem State.modAct_migs (s : State) (p pg : Nat) (t : Tag) (f : Act → Act) : (s.modAct p pg t f).migs = s.migs := rfl
@[simp] theorem State.modAct_peerOut (s : State) (p pg : Nat) (t : Tag) (f : Act → Act) : (s.modAct p pg t f).peerOut = s.peerOut := rfl
@[simp] theorem State.modAct_nextKey (s : State) (p pg : Nat) (t : Tag) (f : Act → Act) : (s.modAct p pg t f).nextKey = s.nextKey := rfl
@[simp] theorem State.modAct_synced (s : State) (p pg : Nat) (t : Tag) (f : Act → Act) : (s.modAct p pg t f).synced = s.synced := rfl
@[simp] theorem State.modAct_reports (s : State) (p pg : Nat) (t : Tag) (f : Act → Act) : (s.modAct p pg t f).reports = s.reports := rfl

@[simp] theorem State.modFire_now (s : State) (p pg k : Nat) (f : Fire → Fire) : (s.modFire p pg k f).now = s.now := rfl
@[simp] theorem State.modFire_tsBase (s : State) (p pg k : Nat) (f : Fire → Fire) : (s.modFire p pg k f).tsBase = s.tsBase := rfl
@[simp] theorem State.modFire_power (s : State) (p pg k : Nat) (f : Fire → Fire) : (s.modFire p pg k f).power = s.power := rfl
@[simp] theorem State.modFire_agenda (s : State) (p pg k : Nat) (f : Fire → Fire) : (s.modFire p pg k f).agenda = s.agenda := rfl
@[simp] theorem State.modFire_nextFid (s : State) (p pg k : Nat) (f : Fire → Fire) : (s.modFire p pg k f).nextFid = s.nextFid := rfl
@[simp] theorem State.modFire_free (s : State) (p pg k : Nat) (f : Fire → Fire) : (s.modFire p pg k f).free = s.free := rfl
@[simp] theorem State.modFire_cur (s : State) (p pg k : Nat) (f : Fire → Fire) : (s.modFire p pg k f).cur = s.cur := rfl
@[simp] theorem State.modFire_arg (s : State) (p pg k : Nat) (f : Fire → Fire) : (s.modFire p pg k f).arg = s.arg := rfl
@[simp] theorem State.modFire_mem (s : State) (p pg k : Nat) (f : Fire → Fire) : (s.modFire p pg k f).mem = s.mem := rfl
@[simp] theorem State.modFire_fe (s : State) (p pg k : Nat) (f : Fire → Fire) : (s.modFire p pg k f).fe = s.fe := rfl
@[simp] theorem State.modFire_guard (s : State) (p pg k : Nat) (f : Fire → Fire) : (s.modFire p pg k f).guard = s.guard := rfl
@[simp] theorem State.modFire_tree (s : State) (p pg k : Nat) (f : Fire → Fire) : (s.modFire p pg k f).tree = s.tree := rfl
@[simp] theorem State.modFire_badLines (s : State) (p pg k : Nat) (f : Fire → Fire) : (s.modFire p pg k f).badLines = s.badLines := rfl
@[simp] theorem State.modFire_oldPtes (s : State) (p pg k : Nat) (f : Fire → Fire) : (s.modFire p pg k f).oldPtes = s.oldPtes := rfl
@[simp] theorem State.modFire_pfEvents (s : State) (p pg k : Nat) (f : Fire → Fire) : (s.modFire p pg k f).pfEvents = s.pfEvents := rfl
@[simp] theorem State.modFire_plait (s : State) (p pg k : Nat) (f : Fire → Fire) : (s.modFire p pg k f).plait = s.plait := rfl
@[simp] theorem State.modFire_windows (s : State) (p pg k : Nat) (f : Fire → Fire) : (s.modFire p pg k f).windows = s.windows := rfl
@[simp] theorem State.modFire_helmSlots (s : State) (p pg k : Nat) (f : Fire → Fire) : (s.modFire p pg k f).helmSlots = s.helmSlots := rfl
@[simp] theorem State.modFire_helmLine (s : State) (p pg k : Nat) (f : Fire → Fire) : (s.modFire p pg k f).helmLine = s.helmLine := rfl
@[simp] theorem State.modFire_helmSaved (s : State) (p pg k : Nat) (f : Fire → Fire) : (s.modFire p pg k f).helmSaved = s.helmSaved := rfl
@[simp] theorem State.modFire_module (s : State) (p pg k : Nat) (f : Fire → Fire) : (s.modFire p pg k f).module = s.module := rfl
@[simp] theorem State.modFire_boot (s : State) (p pg k : Nat) (f : Fire → Fire) : (s.modFire p pg k f).boot = s.boot := rfl
@[simp] theorem State.modFire_clusters (s : State) (p pg k : Nat) (f : Fire → Fire) : (s.modFire p pg k f).clusters = s.clusters := rfl
@[simp] theorem State.modFire_channels (s : State) (p pg k : Nat) (f : Fire → Fire) : (s.modFire p pg k f).channels = s.channels := rfl
@[simp] theorem State.modFire_retired (s : State) (p pg k : Nat) (f : Fire → Fire) : (s.modFire p pg k f).retired = s.retired := rfl
@[simp] theorem State.modFire_worn (s : State) (p pg k : Nat) (f : Fire → Fire) : (s.modFire p pg k f).worn = s.worn := rfl
@[simp] theorem State.modFire_cfgErrs (s : State) (p pg k : Nat) (f : Fire → Fire) : (s.modFire p pg k f).cfgErrs = s.cfgErrs := rfl
@[simp] theorem State.modFire_limit (s : State) (p pg k : Nat) (f : Fire → Fire) : (s.modFire p pg k f).limit = s.limit := rfl
@[simp] theorem State.modFire_credits (s : State) (p pg k : Nat) (f : Fire → Fire) : (s.modFire p pg k f).credits = s.credits := rfl
@[simp] theorem State.modFire_hot (s : State) (p pg k : Nat) (f : Fire → Fire) : (s.modFire p pg k f).hot = s.hot := rfl
@[simp] theorem State.modFire_bridges (s : State) (p pg k : Nat) (f : Fire → Fire) : (s.modFire p pg k f).bridges = s.bridges := rfl
@[simp] theorem State.modFire_ports (s : State) (p pg k : Nat) (f : Fire → Fire) : (s.modFire p pg k f).ports = s.ports := rfl
@[simp] theorem State.modFire_hostOut (s : State) (p pg k : Nat) (f : Fire → Fire) : (s.modFire p pg k f).hostOut = s.hostOut := rfl
@[simp] theorem State.modFire_replies (s : State) (p pg k : Nat) (f : Fire → Fire) : (s.modFire p pg k f).replies = s.replies := rfl
@[simp] theorem State.modFire_resets (s : State) (p pg k : Nat) (f : Fire → Fire) : (s.modFire p pg k f).resets = s.resets := rfl
@[simp] theorem State.modFire_migs (s : State) (p pg k : Nat) (f : Fire → Fire) : (s.modFire p pg k f).migs = s.migs := rfl
@[simp] theorem State.modFire_peerOut (s : State) (p pg k : Nat) (f : Fire → Fire) : (s.modFire p pg k f).peerOut = s.peerOut := rfl
@[simp] theorem State.modFire_nextKey (s : State) (p pg k : Nat) (f : Fire → Fire) : (s.modFire p pg k f).nextKey = s.nextKey := rfl
@[simp] theorem State.modFire_synced (s : State) (p pg k : Nat) (f : Fire → Fire) : (s.modFire p pg k f).synced = s.synced := rfl
@[simp] theorem State.modFire_reports (s : State) (p pg k : Nat) (f : Fire → Fire) : (s.modFire p pg k f).reports = s.reports := rfl

@[simp] theorem State.dropFire_now (s : State) (p pg k : Nat) : (s.dropFire p pg k).now = s.now := rfl
@[simp] theorem State.dropFire_tsBase (s : State) (p pg k : Nat) : (s.dropFire p pg k).tsBase = s.tsBase := rfl
@[simp] theorem State.dropFire_power (s : State) (p pg k : Nat) : (s.dropFire p pg k).power = s.power := rfl
@[simp] theorem State.dropFire_agenda (s : State) (p pg k : Nat) : (s.dropFire p pg k).agenda = s.agenda := rfl
@[simp] theorem State.dropFire_nextFid (s : State) (p pg k : Nat) : (s.dropFire p pg k).nextFid = s.nextFid := rfl
@[simp] theorem State.dropFire_free (s : State) (p pg k : Nat) : (s.dropFire p pg k).free = s.free := rfl
@[simp] theorem State.dropFire_cur (s : State) (p pg k : Nat) : (s.dropFire p pg k).cur = s.cur := rfl
@[simp] theorem State.dropFire_arg (s : State) (p pg k : Nat) : (s.dropFire p pg k).arg = s.arg := rfl
@[simp] theorem State.dropFire_mem (s : State) (p pg k : Nat) : (s.dropFire p pg k).mem = s.mem := rfl
@[simp] theorem State.dropFire_fe (s : State) (p pg k : Nat) : (s.dropFire p pg k).fe = s.fe := rfl
@[simp] theorem State.dropFire_guard (s : State) (p pg k : Nat) : (s.dropFire p pg k).guard = s.guard := rfl
@[simp] theorem State.dropFire_tree (s : State) (p pg k : Nat) : (s.dropFire p pg k).tree = s.tree := rfl
@[simp] theorem State.dropFire_badLines (s : State) (p pg k : Nat) : (s.dropFire p pg k).badLines = s.badLines := rfl
@[simp] theorem State.dropFire_oldPtes (s : State) (p pg k : Nat) : (s.dropFire p pg k).oldPtes = s.oldPtes := rfl
@[simp] theorem State.dropFire_pfEvents (s : State) (p pg k : Nat) : (s.dropFire p pg k).pfEvents = s.pfEvents := rfl
@[simp] theorem State.dropFire_plait (s : State) (p pg k : Nat) : (s.dropFire p pg k).plait = s.plait := rfl
@[simp] theorem State.dropFire_windows (s : State) (p pg k : Nat) : (s.dropFire p pg k).windows = s.windows := rfl
@[simp] theorem State.dropFire_helmSlots (s : State) (p pg k : Nat) : (s.dropFire p pg k).helmSlots = s.helmSlots := rfl
@[simp] theorem State.dropFire_helmLine (s : State) (p pg k : Nat) : (s.dropFire p pg k).helmLine = s.helmLine := rfl
@[simp] theorem State.dropFire_helmSaved (s : State) (p pg k : Nat) : (s.dropFire p pg k).helmSaved = s.helmSaved := rfl
@[simp] theorem State.dropFire_module (s : State) (p pg k : Nat) : (s.dropFire p pg k).module = s.module := rfl
@[simp] theorem State.dropFire_boot (s : State) (p pg k : Nat) : (s.dropFire p pg k).boot = s.boot := rfl
@[simp] theorem State.dropFire_clusters (s : State) (p pg k : Nat) : (s.dropFire p pg k).clusters = s.clusters := rfl
@[simp] theorem State.dropFire_channels (s : State) (p pg k : Nat) : (s.dropFire p pg k).channels = s.channels := rfl
@[simp] theorem State.dropFire_retired (s : State) (p pg k : Nat) : (s.dropFire p pg k).retired = s.retired := rfl
@[simp] theorem State.dropFire_worn (s : State) (p pg k : Nat) : (s.dropFire p pg k).worn = s.worn := rfl
@[simp] theorem State.dropFire_cfgErrs (s : State) (p pg k : Nat) : (s.dropFire p pg k).cfgErrs = s.cfgErrs := rfl
@[simp] theorem State.dropFire_limit (s : State) (p pg k : Nat) : (s.dropFire p pg k).limit = s.limit := rfl
@[simp] theorem State.dropFire_credits (s : State) (p pg k : Nat) : (s.dropFire p pg k).credits = s.credits := rfl
@[simp] theorem State.dropFire_hot (s : State) (p pg k : Nat) : (s.dropFire p pg k).hot = s.hot := rfl
@[simp] theorem State.dropFire_bridges (s : State) (p pg k : Nat) : (s.dropFire p pg k).bridges = s.bridges := rfl
@[simp] theorem State.dropFire_ports (s : State) (p pg k : Nat) : (s.dropFire p pg k).ports = s.ports := rfl
@[simp] theorem State.dropFire_hostOut (s : State) (p pg k : Nat) : (s.dropFire p pg k).hostOut = s.hostOut := rfl
@[simp] theorem State.dropFire_replies (s : State) (p pg k : Nat) : (s.dropFire p pg k).replies = s.replies := rfl
@[simp] theorem State.dropFire_resets (s : State) (p pg k : Nat) : (s.dropFire p pg k).resets = s.resets := rfl
@[simp] theorem State.dropFire_migs (s : State) (p pg k : Nat) : (s.dropFire p pg k).migs = s.migs := rfl
@[simp] theorem State.dropFire_peerOut (s : State) (p pg k : Nat) : (s.dropFire p pg k).peerOut = s.peerOut := rfl
@[simp] theorem State.dropFire_nextKey (s : State) (p pg k : Nat) : (s.dropFire p pg k).nextKey = s.nextKey := rfl
@[simp] theorem State.dropFire_synced (s : State) (p pg k : Nat) : (s.dropFire p pg k).synced = s.synced := rfl
@[simp] theorem State.dropFire_reports (s : State) (p pg k : Nat) : (s.dropFire p pg k).reports = s.reports := rfl

@[simp] theorem State.setCsr_now (s : State) (p n v : Nat) : (s.setCsr p n v).now = s.now := rfl
@[simp] theorem State.setCsr_tsBase (s : State) (p n v : Nat) : (s.setCsr p n v).tsBase = s.tsBase := rfl
@[simp] theorem State.setCsr_power (s : State) (p n v : Nat) : (s.setCsr p n v).power = s.power := rfl
@[simp] theorem State.setCsr_agenda (s : State) (p n v : Nat) : (s.setCsr p n v).agenda = s.agenda := rfl
@[simp] theorem State.setCsr_nextFid (s : State) (p n v : Nat) : (s.setCsr p n v).nextFid = s.nextFid := rfl
@[simp] theorem State.setCsr_free (s : State) (p n v : Nat) : (s.setCsr p n v).free = s.free := rfl
@[simp] theorem State.setCsr_cur (s : State) (p n v : Nat) : (s.setCsr p n v).cur = s.cur := rfl
@[simp] theorem State.setCsr_arg (s : State) (p n v : Nat) : (s.setCsr p n v).arg = s.arg := rfl
@[simp] theorem State.setCsr_mem (s : State) (p n v : Nat) : (s.setCsr p n v).mem = s.mem := rfl
@[simp] theorem State.setCsr_fe (s : State) (p n v : Nat) : (s.setCsr p n v).fe = s.fe := rfl
@[simp] theorem State.setCsr_guard (s : State) (p n v : Nat) : (s.setCsr p n v).guard = s.guard := rfl
@[simp] theorem State.setCsr_tree (s : State) (p n v : Nat) : (s.setCsr p n v).tree = s.tree := rfl
@[simp] theorem State.setCsr_badLines (s : State) (p n v : Nat) : (s.setCsr p n v).badLines = s.badLines := rfl
@[simp] theorem State.setCsr_oldPtes (s : State) (p n v : Nat) : (s.setCsr p n v).oldPtes = s.oldPtes := rfl
@[simp] theorem State.setCsr_pfEvents (s : State) (p n v : Nat) : (s.setCsr p n v).pfEvents = s.pfEvents := rfl
@[simp] theorem State.setCsr_plait (s : State) (p n v : Nat) : (s.setCsr p n v).plait = s.plait := rfl
@[simp] theorem State.setCsr_windows (s : State) (p n v : Nat) : (s.setCsr p n v).windows = s.windows := rfl
@[simp] theorem State.setCsr_helmSlots (s : State) (p n v : Nat) : (s.setCsr p n v).helmSlots = s.helmSlots := rfl
@[simp] theorem State.setCsr_helmLine (s : State) (p n v : Nat) : (s.setCsr p n v).helmLine = s.helmLine := rfl
@[simp] theorem State.setCsr_helmSaved (s : State) (p n v : Nat) : (s.setCsr p n v).helmSaved = s.helmSaved := rfl
@[simp] theorem State.setCsr_module (s : State) (p n v : Nat) : (s.setCsr p n v).module = s.module := rfl
@[simp] theorem State.setCsr_boot (s : State) (p n v : Nat) : (s.setCsr p n v).boot = s.boot := rfl
@[simp] theorem State.setCsr_clusters (s : State) (p n v : Nat) : (s.setCsr p n v).clusters = s.clusters := rfl
@[simp] theorem State.setCsr_channels (s : State) (p n v : Nat) : (s.setCsr p n v).channels = s.channels := rfl
@[simp] theorem State.setCsr_retired (s : State) (p n v : Nat) : (s.setCsr p n v).retired = s.retired := rfl
@[simp] theorem State.setCsr_worn (s : State) (p n v : Nat) : (s.setCsr p n v).worn = s.worn := rfl
@[simp] theorem State.setCsr_cfgErrs (s : State) (p n v : Nat) : (s.setCsr p n v).cfgErrs = s.cfgErrs := rfl
@[simp] theorem State.setCsr_limit (s : State) (p n v : Nat) : (s.setCsr p n v).limit = s.limit := rfl
@[simp] theorem State.setCsr_credits (s : State) (p n v : Nat) : (s.setCsr p n v).credits = s.credits := rfl
@[simp] theorem State.setCsr_hot (s : State) (p n v : Nat) : (s.setCsr p n v).hot = s.hot := rfl
@[simp] theorem State.setCsr_bridges (s : State) (p n v : Nat) : (s.setCsr p n v).bridges = s.bridges := rfl
@[simp] theorem State.setCsr_ports (s : State) (p n v : Nat) : (s.setCsr p n v).ports = s.ports := rfl
@[simp] theorem State.setCsr_hostOut (s : State) (p n v : Nat) : (s.setCsr p n v).hostOut = s.hostOut := rfl
@[simp] theorem State.setCsr_replies (s : State) (p n v : Nat) : (s.setCsr p n v).replies = s.replies := rfl
@[simp] theorem State.setCsr_resets (s : State) (p n v : Nat) : (s.setCsr p n v).resets = s.resets := rfl
@[simp] theorem State.setCsr_migs (s : State) (p n v : Nat) : (s.setCsr p n v).migs = s.migs := rfl
@[simp] theorem State.setCsr_peerOut (s : State) (p n v : Nat) : (s.setCsr p n v).peerOut = s.peerOut := rfl
@[simp] theorem State.setCsr_nextKey (s : State) (p n v : Nat) : (s.setCsr p n v).nextKey = s.nextKey := rfl
@[simp] theorem State.setCsr_synced (s : State) (p n v : Nat) : (s.setCsr p n v).synced = s.synced := rfl
@[simp] theorem State.setCsr_reports (s : State) (p n v : Nat) : (s.setCsr p n v).reports = s.reports := rfl

@[simp] theorem State.setCsrF_now (s : State) (p n hi lo v : Nat) : (s.setCsrF p n hi lo v).now = s.now := rfl
@[simp] theorem State.setCsrF_tsBase (s : State) (p n hi lo v : Nat) : (s.setCsrF p n hi lo v).tsBase = s.tsBase := rfl
@[simp] theorem State.setCsrF_power (s : State) (p n hi lo v : Nat) : (s.setCsrF p n hi lo v).power = s.power := rfl
@[simp] theorem State.setCsrF_agenda (s : State) (p n hi lo v : Nat) : (s.setCsrF p n hi lo v).agenda = s.agenda := rfl
@[simp] theorem State.setCsrF_nextFid (s : State) (p n hi lo v : Nat) : (s.setCsrF p n hi lo v).nextFid = s.nextFid := rfl
@[simp] theorem State.setCsrF_free (s : State) (p n hi lo v : Nat) : (s.setCsrF p n hi lo v).free = s.free := rfl
@[simp] theorem State.setCsrF_cur (s : State) (p n hi lo v : Nat) : (s.setCsrF p n hi lo v).cur = s.cur := rfl
@[simp] theorem State.setCsrF_arg (s : State) (p n hi lo v : Nat) : (s.setCsrF p n hi lo v).arg = s.arg := rfl
@[simp] theorem State.setCsrF_mem (s : State) (p n hi lo v : Nat) : (s.setCsrF p n hi lo v).mem = s.mem := rfl
@[simp] theorem State.setCsrF_fe (s : State) (p n hi lo v : Nat) : (s.setCsrF p n hi lo v).fe = s.fe := rfl
@[simp] theorem State.setCsrF_guard (s : State) (p n hi lo v : Nat) : (s.setCsrF p n hi lo v).guard = s.guard := rfl
@[simp] theorem State.setCsrF_tree (s : State) (p n hi lo v : Nat) : (s.setCsrF p n hi lo v).tree = s.tree := rfl
@[simp] theorem State.setCsrF_badLines (s : State) (p n hi lo v : Nat) : (s.setCsrF p n hi lo v).badLines = s.badLines := rfl
@[simp] theorem State.setCsrF_oldPtes (s : State) (p n hi lo v : Nat) : (s.setCsrF p n hi lo v).oldPtes = s.oldPtes := rfl
@[simp] theorem State.setCsrF_pfEvents (s : State) (p n hi lo v : Nat) : (s.setCsrF p n hi lo v).pfEvents = s.pfEvents := rfl
@[simp] theorem State.setCsrF_plait (s : State) (p n hi lo v : Nat) : (s.setCsrF p n hi lo v).plait = s.plait := rfl
@[simp] theorem State.setCsrF_windows (s : State) (p n hi lo v : Nat) : (s.setCsrF p n hi lo v).windows = s.windows := rfl
@[simp] theorem State.setCsrF_helmSlots (s : State) (p n hi lo v : Nat) : (s.setCsrF p n hi lo v).helmSlots = s.helmSlots := rfl
@[simp] theorem State.setCsrF_helmLine (s : State) (p n hi lo v : Nat) : (s.setCsrF p n hi lo v).helmLine = s.helmLine := rfl
@[simp] theorem State.setCsrF_helmSaved (s : State) (p n hi lo v : Nat) : (s.setCsrF p n hi lo v).helmSaved = s.helmSaved := rfl
@[simp] theorem State.setCsrF_module (s : State) (p n hi lo v : Nat) : (s.setCsrF p n hi lo v).module = s.module := rfl
@[simp] theorem State.setCsrF_boot (s : State) (p n hi lo v : Nat) : (s.setCsrF p n hi lo v).boot = s.boot := rfl
@[simp] theorem State.setCsrF_clusters (s : State) (p n hi lo v : Nat) : (s.setCsrF p n hi lo v).clusters = s.clusters := rfl
@[simp] theorem State.setCsrF_channels (s : State) (p n hi lo v : Nat) : (s.setCsrF p n hi lo v).channels = s.channels := rfl
@[simp] theorem State.setCsrF_retired (s : State) (p n hi lo v : Nat) : (s.setCsrF p n hi lo v).retired = s.retired := rfl
@[simp] theorem State.setCsrF_worn (s : State) (p n hi lo v : Nat) : (s.setCsrF p n hi lo v).worn = s.worn := rfl
@[simp] theorem State.setCsrF_cfgErrs (s : State) (p n hi lo v : Nat) : (s.setCsrF p n hi lo v).cfgErrs = s.cfgErrs := rfl
@[simp] theorem State.setCsrF_limit (s : State) (p n hi lo v : Nat) : (s.setCsrF p n hi lo v).limit = s.limit := rfl
@[simp] theorem State.setCsrF_credits (s : State) (p n hi lo v : Nat) : (s.setCsrF p n hi lo v).credits = s.credits := rfl
@[simp] theorem State.setCsrF_hot (s : State) (p n hi lo v : Nat) : (s.setCsrF p n hi lo v).hot = s.hot := rfl
@[simp] theorem State.setCsrF_bridges (s : State) (p n hi lo v : Nat) : (s.setCsrF p n hi lo v).bridges = s.bridges := rfl
@[simp] theorem State.setCsrF_ports (s : State) (p n hi lo v : Nat) : (s.setCsrF p n hi lo v).ports = s.ports := rfl
@[simp] theorem State.setCsrF_hostOut (s : State) (p n hi lo v : Nat) : (s.setCsrF p n hi lo v).hostOut = s.hostOut := rfl
@[simp] theorem State.setCsrF_replies (s : State) (p n hi lo v : Nat) : (s.setCsrF p n hi lo v).replies = s.replies := rfl
@[simp] theorem State.setCsrF_resets (s : State) (p n hi lo v : Nat) : (s.setCsrF p n hi lo v).resets = s.resets := rfl
@[simp] theorem State.setCsrF_migs (s : State) (p n hi lo v : Nat) : (s.setCsrF p n hi lo v).migs = s.migs := rfl
@[simp] theorem State.setCsrF_peerOut (s : State) (p n hi lo v : Nat) : (s.setCsrF p n hi lo v).peerOut = s.peerOut := rfl
@[simp] theorem State.setCsrF_nextKey (s : State) (p n hi lo v : Nat) : (s.setCsrF p n hi lo v).nextKey = s.nextKey := rfl
@[simp] theorem State.setCsrF_synced (s : State) (p n hi lo v : Nat) : (s.setCsrF p n hi lo v).synced = s.synced := rfl
@[simp] theorem State.setCsrF_reports (s : State) (p n hi lo v : Nat) : (s.setCsrF p n hi lo v).reports = s.reports := rfl

@[simp] theorem State.sched_now (s : State) (t k : Nat) (i : Instr) (a : Args) : (s.sched t k i a).now = s.now := rfl
@[simp] theorem State.sched_tsBase (s : State) (t k : Nat) (i : Instr) (a : Args) : (s.sched t k i a).tsBase = s.tsBase := rfl
@[simp] theorem State.sched_power (s : State) (t k : Nat) (i : Instr) (a : Args) : (s.sched t k i a).power = s.power := rfl
@[simp] theorem State.sched_nextFid (s : State) (t k : Nat) (i : Instr) (a : Args) : (s.sched t k i a).nextFid = s.nextFid := rfl
@[simp] theorem State.sched_free (s : State) (t k : Nat) (i : Instr) (a : Args) : (s.sched t k i a).free = s.free := rfl
@[simp] theorem State.sched_cur (s : State) (t k : Nat) (i : Instr) (a : Args) : (s.sched t k i a).cur = s.cur := rfl
@[simp] theorem State.sched_arg (s : State) (t k : Nat) (i : Instr) (a : Args) : (s.sched t k i a).arg = s.arg := rfl
@[simp] theorem State.sched_mem (s : State) (t k : Nat) (i : Instr) (a : Args) : (s.sched t k i a).mem = s.mem := rfl
@[simp] theorem State.sched_fe (s : State) (t k : Nat) (i : Instr) (a : Args) : (s.sched t k i a).fe = s.fe := rfl
@[simp] theorem State.sched_parts (s : State) (t k : Nat) (i : Instr) (a : Args) : (s.sched t k i a).parts = s.parts := rfl
@[simp] theorem State.sched_guard (s : State) (t k : Nat) (i : Instr) (a : Args) : (s.sched t k i a).guard = s.guard := rfl
@[simp] theorem State.sched_tree (s : State) (t k : Nat) (i : Instr) (a : Args) : (s.sched t k i a).tree = s.tree := rfl
@[simp] theorem State.sched_badLines (s : State) (t k : Nat) (i : Instr) (a : Args) : (s.sched t k i a).badLines = s.badLines := rfl
@[simp] theorem State.sched_oldPtes (s : State) (t k : Nat) (i : Instr) (a : Args) : (s.sched t k i a).oldPtes = s.oldPtes := rfl
@[simp] theorem State.sched_pfEvents (s : State) (t k : Nat) (i : Instr) (a : Args) : (s.sched t k i a).pfEvents = s.pfEvents := rfl
@[simp] theorem State.sched_plait (s : State) (t k : Nat) (i : Instr) (a : Args) : (s.sched t k i a).plait = s.plait := rfl
@[simp] theorem State.sched_windows (s : State) (t k : Nat) (i : Instr) (a : Args) : (s.sched t k i a).windows = s.windows := rfl
@[simp] theorem State.sched_helmSlots (s : State) (t k : Nat) (i : Instr) (a : Args) : (s.sched t k i a).helmSlots = s.helmSlots := rfl
@[simp] theorem State.sched_helmLine (s : State) (t k : Nat) (i : Instr) (a : Args) : (s.sched t k i a).helmLine = s.helmLine := rfl
@[simp] theorem State.sched_helmSaved (s : State) (t k : Nat) (i : Instr) (a : Args) : (s.sched t k i a).helmSaved = s.helmSaved := rfl
@[simp] theorem State.sched_module (s : State) (t k : Nat) (i : Instr) (a : Args) : (s.sched t k i a).module = s.module := rfl
@[simp] theorem State.sched_boot (s : State) (t k : Nat) (i : Instr) (a : Args) : (s.sched t k i a).boot = s.boot := rfl
@[simp] theorem State.sched_clusters (s : State) (t k : Nat) (i : Instr) (a : Args) : (s.sched t k i a).clusters = s.clusters := rfl
@[simp] theorem State.sched_channels (s : State) (t k : Nat) (i : Instr) (a : Args) : (s.sched t k i a).channels = s.channels := rfl
@[simp] theorem State.sched_retired (s : State) (t k : Nat) (i : Instr) (a : Args) : (s.sched t k i a).retired = s.retired := rfl
@[simp] theorem State.sched_worn (s : State) (t k : Nat) (i : Instr) (a : Args) : (s.sched t k i a).worn = s.worn := rfl
@[simp] theorem State.sched_cfgErrs (s : State) (t k : Nat) (i : Instr) (a : Args) : (s.sched t k i a).cfgErrs = s.cfgErrs := rfl
@[simp] theorem State.sched_limit (s : State) (t k : Nat) (i : Instr) (a : Args) : (s.sched t k i a).limit = s.limit := rfl
@[simp] theorem State.sched_credits (s : State) (t k : Nat) (i : Instr) (a : Args) : (s.sched t k i a).credits = s.credits := rfl
@[simp] theorem State.sched_hot (s : State) (t k : Nat) (i : Instr) (a : Args) : (s.sched t k i a).hot = s.hot := rfl
@[simp] theorem State.sched_bridges (s : State) (t k : Nat) (i : Instr) (a : Args) : (s.sched t k i a).bridges = s.bridges := rfl
@[simp] theorem State.sched_ports (s : State) (t k : Nat) (i : Instr) (a : Args) : (s.sched t k i a).ports = s.ports := rfl
@[simp] theorem State.sched_hostOut (s : State) (t k : Nat) (i : Instr) (a : Args) : (s.sched t k i a).hostOut = s.hostOut := rfl
@[simp] theorem State.sched_replies (s : State) (t k : Nat) (i : Instr) (a : Args) : (s.sched t k i a).replies = s.replies := rfl
@[simp] theorem State.sched_resets (s : State) (t k : Nat) (i : Instr) (a : Args) : (s.sched t k i a).resets = s.resets := rfl
@[simp] theorem State.sched_migs (s : State) (t k : Nat) (i : Instr) (a : Args) : (s.sched t k i a).migs = s.migs := rfl
@[simp] theorem State.sched_peerOut (s : State) (t k : Nat) (i : Instr) (a : Args) : (s.sched t k i a).peerOut = s.peerOut := rfl
@[simp] theorem State.sched_nextKey (s : State) (t k : Nat) (i : Instr) (a : Args) : (s.sched t k i a).nextKey = s.nextKey := rfl
@[simp] theorem State.sched_synced (s : State) (t k : Nat) (i : Instr) (a : Args) : (s.sched t k i a).synced = s.synced := rfl
@[simp] theorem State.sched_reports (s : State) (t k : Nat) (i : Instr) (a : Args) : (s.sched t k i a).reports = s.reports := rfl

@[simp] theorem State.schedCommit_now (s : State) (t k : Nat) (i : Instr) (a : Args) : (s.schedCommit t k i a).now = s.now := rfl
@[simp] theorem State.schedCommit_tsBase (s : State) (t k : Nat) (i : Instr) (a : Args) : (s.schedCommit t k i a).tsBase = s.tsBase := rfl
@[simp] theorem State.schedCommit_power (s : State) (t k : Nat) (i : Instr) (a : Args) : (s.schedCommit t k i a).power = s.power := rfl
@[simp] theorem State.schedCommit_nextFid (s : State) (t k : Nat) (i : Instr) (a : Args) : (s.schedCommit t k i a).nextFid = s.nextFid := rfl
@[simp] theorem State.schedCommit_free (s : State) (t k : Nat) (i : Instr) (a : Args) : (s.schedCommit t k i a).free = s.free := rfl
@[simp] theorem State.schedCommit_cur (s : State) (t k : Nat) (i : Instr) (a : Args) : (s.schedCommit t k i a).cur = s.cur := rfl
@[simp] theorem State.schedCommit_arg (s : State) (t k : Nat) (i : Instr) (a : Args) : (s.schedCommit t k i a).arg = s.arg := rfl
@[simp] theorem State.schedCommit_mem (s : State) (t k : Nat) (i : Instr) (a : Args) : (s.schedCommit t k i a).mem = s.mem := rfl
@[simp] theorem State.schedCommit_fe (s : State) (t k : Nat) (i : Instr) (a : Args) : (s.schedCommit t k i a).fe = s.fe := rfl
@[simp] theorem State.schedCommit_parts (s : State) (t k : Nat) (i : Instr) (a : Args) : (s.schedCommit t k i a).parts = s.parts := rfl
@[simp] theorem State.schedCommit_guard (s : State) (t k : Nat) (i : Instr) (a : Args) : (s.schedCommit t k i a).guard = s.guard := rfl
@[simp] theorem State.schedCommit_tree (s : State) (t k : Nat) (i : Instr) (a : Args) : (s.schedCommit t k i a).tree = s.tree := rfl
@[simp] theorem State.schedCommit_badLines (s : State) (t k : Nat) (i : Instr) (a : Args) : (s.schedCommit t k i a).badLines = s.badLines := rfl
@[simp] theorem State.schedCommit_oldPtes (s : State) (t k : Nat) (i : Instr) (a : Args) : (s.schedCommit t k i a).oldPtes = s.oldPtes := rfl
@[simp] theorem State.schedCommit_pfEvents (s : State) (t k : Nat) (i : Instr) (a : Args) : (s.schedCommit t k i a).pfEvents = s.pfEvents := rfl
@[simp] theorem State.schedCommit_plait (s : State) (t k : Nat) (i : Instr) (a : Args) : (s.schedCommit t k i a).plait = s.plait := rfl
@[simp] theorem State.schedCommit_windows (s : State) (t k : Nat) (i : Instr) (a : Args) : (s.schedCommit t k i a).windows = s.windows := rfl
@[simp] theorem State.schedCommit_helmSlots (s : State) (t k : Nat) (i : Instr) (a : Args) : (s.schedCommit t k i a).helmSlots = s.helmSlots := rfl
@[simp] theorem State.schedCommit_helmLine (s : State) (t k : Nat) (i : Instr) (a : Args) : (s.schedCommit t k i a).helmLine = s.helmLine := rfl
@[simp] theorem State.schedCommit_helmSaved (s : State) (t k : Nat) (i : Instr) (a : Args) : (s.schedCommit t k i a).helmSaved = s.helmSaved := rfl
@[simp] theorem State.schedCommit_module (s : State) (t k : Nat) (i : Instr) (a : Args) : (s.schedCommit t k i a).module = s.module := rfl
@[simp] theorem State.schedCommit_boot (s : State) (t k : Nat) (i : Instr) (a : Args) : (s.schedCommit t k i a).boot = s.boot := rfl
@[simp] theorem State.schedCommit_clusters (s : State) (t k : Nat) (i : Instr) (a : Args) : (s.schedCommit t k i a).clusters = s.clusters := rfl
@[simp] theorem State.schedCommit_channels (s : State) (t k : Nat) (i : Instr) (a : Args) : (s.schedCommit t k i a).channels = s.channels := rfl
@[simp] theorem State.schedCommit_retired (s : State) (t k : Nat) (i : Instr) (a : Args) : (s.schedCommit t k i a).retired = s.retired := rfl
@[simp] theorem State.schedCommit_worn (s : State) (t k : Nat) (i : Instr) (a : Args) : (s.schedCommit t k i a).worn = s.worn := rfl
@[simp] theorem State.schedCommit_cfgErrs (s : State) (t k : Nat) (i : Instr) (a : Args) : (s.schedCommit t k i a).cfgErrs = s.cfgErrs := rfl
@[simp] theorem State.schedCommit_limit (s : State) (t k : Nat) (i : Instr) (a : Args) : (s.schedCommit t k i a).limit = s.limit := rfl
@[simp] theorem State.schedCommit_credits (s : State) (t k : Nat) (i : Instr) (a : Args) : (s.schedCommit t k i a).credits = s.credits := rfl
@[simp] theorem State.schedCommit_hot (s : State) (t k : Nat) (i : Instr) (a : Args) : (s.schedCommit t k i a).hot = s.hot := rfl
@[simp] theorem State.schedCommit_bridges (s : State) (t k : Nat) (i : Instr) (a : Args) : (s.schedCommit t k i a).bridges = s.bridges := rfl
@[simp] theorem State.schedCommit_ports (s : State) (t k : Nat) (i : Instr) (a : Args) : (s.schedCommit t k i a).ports = s.ports := rfl
@[simp] theorem State.schedCommit_hostOut (s : State) (t k : Nat) (i : Instr) (a : Args) : (s.schedCommit t k i a).hostOut = s.hostOut := rfl
@[simp] theorem State.schedCommit_replies (s : State) (t k : Nat) (i : Instr) (a : Args) : (s.schedCommit t k i a).replies = s.replies := rfl
@[simp] theorem State.schedCommit_resets (s : State) (t k : Nat) (i : Instr) (a : Args) : (s.schedCommit t k i a).resets = s.resets := rfl
@[simp] theorem State.schedCommit_migs (s : State) (t k : Nat) (i : Instr) (a : Args) : (s.schedCommit t k i a).migs = s.migs := rfl
@[simp] theorem State.schedCommit_peerOut (s : State) (t k : Nat) (i : Instr) (a : Args) : (s.schedCommit t k i a).peerOut = s.peerOut := rfl
@[simp] theorem State.schedCommit_nextKey (s : State) (t k : Nat) (i : Instr) (a : Args) : (s.schedCommit t k i a).nextKey = s.nextKey := rfl
@[simp] theorem State.schedCommit_synced (s : State) (t k : Nat) (i : Instr) (a : Args) : (s.schedCommit t k i a).synced = s.synced := rfl
@[simp] theorem State.schedCommit_reports (s : State) (t k : Nat) (i : Instr) (a : Args) : (s.schedCommit t k i a).reports = s.reports := rfl

@[simp] theorem State.schedLate_now (s : State) (t : Nat) (i : Instr) (a : Args) : (s.schedLate t i a).now = s.now := rfl
@[simp] theorem State.schedLate_tsBase (s : State) (t : Nat) (i : Instr) (a : Args) : (s.schedLate t i a).tsBase = s.tsBase := rfl
@[simp] theorem State.schedLate_power (s : State) (t : Nat) (i : Instr) (a : Args) : (s.schedLate t i a).power = s.power := rfl
@[simp] theorem State.schedLate_nextFid (s : State) (t : Nat) (i : Instr) (a : Args) : (s.schedLate t i a).nextFid = s.nextFid := rfl
@[simp] theorem State.schedLate_free (s : State) (t : Nat) (i : Instr) (a : Args) : (s.schedLate t i a).free = s.free := rfl
@[simp] theorem State.schedLate_cur (s : State) (t : Nat) (i : Instr) (a : Args) : (s.schedLate t i a).cur = s.cur := rfl
@[simp] theorem State.schedLate_arg (s : State) (t : Nat) (i : Instr) (a : Args) : (s.schedLate t i a).arg = s.arg := rfl
@[simp] theorem State.schedLate_mem (s : State) (t : Nat) (i : Instr) (a : Args) : (s.schedLate t i a).mem = s.mem := rfl
@[simp] theorem State.schedLate_fe (s : State) (t : Nat) (i : Instr) (a : Args) : (s.schedLate t i a).fe = s.fe := rfl
@[simp] theorem State.schedLate_parts (s : State) (t : Nat) (i : Instr) (a : Args) : (s.schedLate t i a).parts = s.parts := rfl
@[simp] theorem State.schedLate_guard (s : State) (t : Nat) (i : Instr) (a : Args) : (s.schedLate t i a).guard = s.guard := rfl
@[simp] theorem State.schedLate_tree (s : State) (t : Nat) (i : Instr) (a : Args) : (s.schedLate t i a).tree = s.tree := rfl
@[simp] theorem State.schedLate_badLines (s : State) (t : Nat) (i : Instr) (a : Args) : (s.schedLate t i a).badLines = s.badLines := rfl
@[simp] theorem State.schedLate_oldPtes (s : State) (t : Nat) (i : Instr) (a : Args) : (s.schedLate t i a).oldPtes = s.oldPtes := rfl
@[simp] theorem State.schedLate_pfEvents (s : State) (t : Nat) (i : Instr) (a : Args) : (s.schedLate t i a).pfEvents = s.pfEvents := rfl
@[simp] theorem State.schedLate_plait (s : State) (t : Nat) (i : Instr) (a : Args) : (s.schedLate t i a).plait = s.plait := rfl
@[simp] theorem State.schedLate_windows (s : State) (t : Nat) (i : Instr) (a : Args) : (s.schedLate t i a).windows = s.windows := rfl
@[simp] theorem State.schedLate_helmSlots (s : State) (t : Nat) (i : Instr) (a : Args) : (s.schedLate t i a).helmSlots = s.helmSlots := rfl
@[simp] theorem State.schedLate_helmLine (s : State) (t : Nat) (i : Instr) (a : Args) : (s.schedLate t i a).helmLine = s.helmLine := rfl
@[simp] theorem State.schedLate_helmSaved (s : State) (t : Nat) (i : Instr) (a : Args) : (s.schedLate t i a).helmSaved = s.helmSaved := rfl
@[simp] theorem State.schedLate_module (s : State) (t : Nat) (i : Instr) (a : Args) : (s.schedLate t i a).module = s.module := rfl
@[simp] theorem State.schedLate_boot (s : State) (t : Nat) (i : Instr) (a : Args) : (s.schedLate t i a).boot = s.boot := rfl
@[simp] theorem State.schedLate_clusters (s : State) (t : Nat) (i : Instr) (a : Args) : (s.schedLate t i a).clusters = s.clusters := rfl
@[simp] theorem State.schedLate_channels (s : State) (t : Nat) (i : Instr) (a : Args) : (s.schedLate t i a).channels = s.channels := rfl
@[simp] theorem State.schedLate_retired (s : State) (t : Nat) (i : Instr) (a : Args) : (s.schedLate t i a).retired = s.retired := rfl
@[simp] theorem State.schedLate_worn (s : State) (t : Nat) (i : Instr) (a : Args) : (s.schedLate t i a).worn = s.worn := rfl
@[simp] theorem State.schedLate_cfgErrs (s : State) (t : Nat) (i : Instr) (a : Args) : (s.schedLate t i a).cfgErrs = s.cfgErrs := rfl
@[simp] theorem State.schedLate_limit (s : State) (t : Nat) (i : Instr) (a : Args) : (s.schedLate t i a).limit = s.limit := rfl
@[simp] theorem State.schedLate_credits (s : State) (t : Nat) (i : Instr) (a : Args) : (s.schedLate t i a).credits = s.credits := rfl
@[simp] theorem State.schedLate_hot (s : State) (t : Nat) (i : Instr) (a : Args) : (s.schedLate t i a).hot = s.hot := rfl
@[simp] theorem State.schedLate_bridges (s : State) (t : Nat) (i : Instr) (a : Args) : (s.schedLate t i a).bridges = s.bridges := rfl
@[simp] theorem State.schedLate_ports (s : State) (t : Nat) (i : Instr) (a : Args) : (s.schedLate t i a).ports = s.ports := rfl
@[simp] theorem State.schedLate_hostOut (s : State) (t : Nat) (i : Instr) (a : Args) : (s.schedLate t i a).hostOut = s.hostOut := rfl
@[simp] theorem State.schedLate_replies (s : State) (t : Nat) (i : Instr) (a : Args) : (s.schedLate t i a).replies = s.replies := rfl
@[simp] theorem State.schedLate_resets (s : State) (t : Nat) (i : Instr) (a : Args) : (s.schedLate t i a).resets = s.resets := rfl
@[simp] theorem State.schedLate_migs (s : State) (t : Nat) (i : Instr) (a : Args) : (s.schedLate t i a).migs = s.migs := rfl
@[simp] theorem State.schedLate_peerOut (s : State) (t : Nat) (i : Instr) (a : Args) : (s.schedLate t i a).peerOut = s.peerOut := rfl
@[simp] theorem State.schedLate_nextKey (s : State) (t : Nat) (i : Instr) (a : Args) : (s.schedLate t i a).nextKey = s.nextKey := rfl
@[simp] theorem State.schedLate_synced (s : State) (t : Nat) (i : Instr) (a : Args) : (s.schedLate t i a).synced = s.synced := rfl
@[simp] theorem State.schedLate_reports (s : State) (t : Nat) (i : Instr) (a : Args) : (s.schedLate t i a).reports = s.reports := rfl

@[simp] theorem State.cancel_now (s : State) (dead : Instr → Args → Bool) : (s.cancel dead).now = s.now := rfl
@[simp] theorem State.cancel_tsBase (s : State) (dead : Instr → Args → Bool) : (s.cancel dead).tsBase = s.tsBase := rfl
@[simp] theorem State.cancel_power (s : State) (dead : Instr → Args → Bool) : (s.cancel dead).power = s.power := rfl
@[simp] theorem State.cancel_nextFid (s : State) (dead : Instr → Args → Bool) : (s.cancel dead).nextFid = s.nextFid := rfl
@[simp] theorem State.cancel_free (s : State) (dead : Instr → Args → Bool) : (s.cancel dead).free = s.free := rfl
@[simp] theorem State.cancel_cur (s : State) (dead : Instr → Args → Bool) : (s.cancel dead).cur = s.cur := rfl
@[simp] theorem State.cancel_arg (s : State) (dead : Instr → Args → Bool) : (s.cancel dead).arg = s.arg := rfl
@[simp] theorem State.cancel_mem (s : State) (dead : Instr → Args → Bool) : (s.cancel dead).mem = s.mem := rfl
@[simp] theorem State.cancel_fe (s : State) (dead : Instr → Args → Bool) : (s.cancel dead).fe = s.fe := rfl
@[simp] theorem State.cancel_parts (s : State) (dead : Instr → Args → Bool) : (s.cancel dead).parts = s.parts := rfl
@[simp] theorem State.cancel_guard (s : State) (dead : Instr → Args → Bool) : (s.cancel dead).guard = s.guard := rfl
@[simp] theorem State.cancel_tree (s : State) (dead : Instr → Args → Bool) : (s.cancel dead).tree = s.tree := rfl
@[simp] theorem State.cancel_badLines (s : State) (dead : Instr → Args → Bool) : (s.cancel dead).badLines = s.badLines := rfl
@[simp] theorem State.cancel_oldPtes (s : State) (dead : Instr → Args → Bool) : (s.cancel dead).oldPtes = s.oldPtes := rfl
@[simp] theorem State.cancel_pfEvents (s : State) (dead : Instr → Args → Bool) : (s.cancel dead).pfEvents = s.pfEvents := rfl
@[simp] theorem State.cancel_plait (s : State) (dead : Instr → Args → Bool) : (s.cancel dead).plait = s.plait := rfl
@[simp] theorem State.cancel_windows (s : State) (dead : Instr → Args → Bool) : (s.cancel dead).windows = s.windows := rfl
@[simp] theorem State.cancel_helmSlots (s : State) (dead : Instr → Args → Bool) : (s.cancel dead).helmSlots = s.helmSlots := rfl
@[simp] theorem State.cancel_helmLine (s : State) (dead : Instr → Args → Bool) : (s.cancel dead).helmLine = s.helmLine := rfl
@[simp] theorem State.cancel_helmSaved (s : State) (dead : Instr → Args → Bool) : (s.cancel dead).helmSaved = s.helmSaved := rfl
@[simp] theorem State.cancel_module (s : State) (dead : Instr → Args → Bool) : (s.cancel dead).module = s.module := rfl
@[simp] theorem State.cancel_boot (s : State) (dead : Instr → Args → Bool) : (s.cancel dead).boot = s.boot := rfl
@[simp] theorem State.cancel_clusters (s : State) (dead : Instr → Args → Bool) : (s.cancel dead).clusters = s.clusters := rfl
@[simp] theorem State.cancel_channels (s : State) (dead : Instr → Args → Bool) : (s.cancel dead).channels = s.channels := rfl
@[simp] theorem State.cancel_retired (s : State) (dead : Instr → Args → Bool) : (s.cancel dead).retired = s.retired := rfl
@[simp] theorem State.cancel_worn (s : State) (dead : Instr → Args → Bool) : (s.cancel dead).worn = s.worn := rfl
@[simp] theorem State.cancel_cfgErrs (s : State) (dead : Instr → Args → Bool) : (s.cancel dead).cfgErrs = s.cfgErrs := rfl
@[simp] theorem State.cancel_limit (s : State) (dead : Instr → Args → Bool) : (s.cancel dead).limit = s.limit := rfl
@[simp] theorem State.cancel_credits (s : State) (dead : Instr → Args → Bool) : (s.cancel dead).credits = s.credits := rfl
@[simp] theorem State.cancel_hot (s : State) (dead : Instr → Args → Bool) : (s.cancel dead).hot = s.hot := rfl
@[simp] theorem State.cancel_bridges (s : State) (dead : Instr → Args → Bool) : (s.cancel dead).bridges = s.bridges := rfl
@[simp] theorem State.cancel_ports (s : State) (dead : Instr → Args → Bool) : (s.cancel dead).ports = s.ports := rfl
@[simp] theorem State.cancel_hostOut (s : State) (dead : Instr → Args → Bool) : (s.cancel dead).hostOut = s.hostOut := rfl
@[simp] theorem State.cancel_replies (s : State) (dead : Instr → Args → Bool) : (s.cancel dead).replies = s.replies := rfl
@[simp] theorem State.cancel_resets (s : State) (dead : Instr → Args → Bool) : (s.cancel dead).resets = s.resets := rfl
@[simp] theorem State.cancel_migs (s : State) (dead : Instr → Args → Bool) : (s.cancel dead).migs = s.migs := rfl
@[simp] theorem State.cancel_peerOut (s : State) (dead : Instr → Args → Bool) : (s.cancel dead).peerOut = s.peerOut := rfl
@[simp] theorem State.cancel_nextKey (s : State) (dead : Instr → Args → Bool) : (s.cancel dead).nextKey = s.nextKey := rfl
@[simp] theorem State.cancel_synced (s : State) (dead : Instr → Args → Bool) : (s.cancel dead).synced = s.synced := rfl
@[simp] theorem State.cancel_reports (s : State) (dead : Instr → Args → Bool) : (s.cancel dead).reports = s.reports := rfl

@[simp] theorem State.setGuard_now (s : State) (g : GuardPage) : (s.setGuard g).now = s.now := rfl
@[simp] theorem State.setGuard_tsBase (s : State) (g : GuardPage) : (s.setGuard g).tsBase = s.tsBase := rfl
@[simp] theorem State.setGuard_power (s : State) (g : GuardPage) : (s.setGuard g).power = s.power := rfl
@[simp] theorem State.setGuard_agenda (s : State) (g : GuardPage) : (s.setGuard g).agenda = s.agenda := rfl
@[simp] theorem State.setGuard_nextFid (s : State) (g : GuardPage) : (s.setGuard g).nextFid = s.nextFid := rfl
@[simp] theorem State.setGuard_free (s : State) (g : GuardPage) : (s.setGuard g).free = s.free := rfl
@[simp] theorem State.setGuard_cur (s : State) (g : GuardPage) : (s.setGuard g).cur = s.cur := rfl
@[simp] theorem State.setGuard_arg (s : State) (g : GuardPage) : (s.setGuard g).arg = s.arg := rfl
@[simp] theorem State.setGuard_mem (s : State) (g : GuardPage) : (s.setGuard g).mem = s.mem := rfl
@[simp] theorem State.setGuard_fe (s : State) (g : GuardPage) : (s.setGuard g).fe = s.fe := rfl
@[simp] theorem State.setGuard_parts (s : State) (g : GuardPage) : (s.setGuard g).parts = s.parts := rfl
@[simp] theorem State.setGuard_tree (s : State) (g : GuardPage) : (s.setGuard g).tree = s.tree := rfl
@[simp] theorem State.setGuard_badLines (s : State) (g : GuardPage) : (s.setGuard g).badLines = s.badLines := rfl
@[simp] theorem State.setGuard_oldPtes (s : State) (g : GuardPage) : (s.setGuard g).oldPtes = s.oldPtes := rfl
@[simp] theorem State.setGuard_pfEvents (s : State) (g : GuardPage) : (s.setGuard g).pfEvents = s.pfEvents := rfl
@[simp] theorem State.setGuard_plait (s : State) (g : GuardPage) : (s.setGuard g).plait = s.plait := rfl
@[simp] theorem State.setGuard_windows (s : State) (g : GuardPage) : (s.setGuard g).windows = s.windows := rfl
@[simp] theorem State.setGuard_helmSlots (s : State) (g : GuardPage) : (s.setGuard g).helmSlots = s.helmSlots := rfl
@[simp] theorem State.setGuard_helmLine (s : State) (g : GuardPage) : (s.setGuard g).helmLine = s.helmLine := rfl
@[simp] theorem State.setGuard_helmSaved (s : State) (g : GuardPage) : (s.setGuard g).helmSaved = s.helmSaved := rfl
@[simp] theorem State.setGuard_module (s : State) (g : GuardPage) : (s.setGuard g).module = s.module := rfl
@[simp] theorem State.setGuard_boot (s : State) (g : GuardPage) : (s.setGuard g).boot = s.boot := rfl
@[simp] theorem State.setGuard_clusters (s : State) (g : GuardPage) : (s.setGuard g).clusters = s.clusters := rfl
@[simp] theorem State.setGuard_channels (s : State) (g : GuardPage) : (s.setGuard g).channels = s.channels := rfl
@[simp] theorem State.setGuard_retired (s : State) (g : GuardPage) : (s.setGuard g).retired = s.retired := rfl
@[simp] theorem State.setGuard_worn (s : State) (g : GuardPage) : (s.setGuard g).worn = s.worn := rfl
@[simp] theorem State.setGuard_cfgErrs (s : State) (g : GuardPage) : (s.setGuard g).cfgErrs = s.cfgErrs := rfl
@[simp] theorem State.setGuard_limit (s : State) (g : GuardPage) : (s.setGuard g).limit = s.limit := rfl
@[simp] theorem State.setGuard_credits (s : State) (g : GuardPage) : (s.setGuard g).credits = s.credits := rfl
@[simp] theorem State.setGuard_hot (s : State) (g : GuardPage) : (s.setGuard g).hot = s.hot := rfl
@[simp] theorem State.setGuard_bridges (s : State) (g : GuardPage) : (s.setGuard g).bridges = s.bridges := rfl
@[simp] theorem State.setGuard_ports (s : State) (g : GuardPage) : (s.setGuard g).ports = s.ports := rfl
@[simp] theorem State.setGuard_hostOut (s : State) (g : GuardPage) : (s.setGuard g).hostOut = s.hostOut := rfl
@[simp] theorem State.setGuard_replies (s : State) (g : GuardPage) : (s.setGuard g).replies = s.replies := rfl
@[simp] theorem State.setGuard_resets (s : State) (g : GuardPage) : (s.setGuard g).resets = s.resets := rfl
@[simp] theorem State.setGuard_migs (s : State) (g : GuardPage) : (s.setGuard g).migs = s.migs := rfl
@[simp] theorem State.setGuard_peerOut (s : State) (g : GuardPage) : (s.setGuard g).peerOut = s.peerOut := rfl
@[simp] theorem State.setGuard_nextKey (s : State) (g : GuardPage) : (s.setGuard g).nextKey = s.nextKey := rfl
@[simp] theorem State.setGuard_synced (s : State) (g : GuardPage) : (s.setGuard g).synced = s.synced := rfl
@[simp] theorem State.setGuard_reports (s : State) (g : GuardPage) : (s.setGuard g).reports = s.reports := rfl

@[simp] theorem State.postPf_now (s : State) (p ty : Nat) (pay : List Nat) : (s.postPf p ty pay).now = s.now := rfl
@[simp] theorem State.postPf_tsBase (s : State) (p ty : Nat) (pay : List Nat) : (s.postPf p ty pay).tsBase = s.tsBase := rfl
@[simp] theorem State.postPf_power (s : State) (p ty : Nat) (pay : List Nat) : (s.postPf p ty pay).power = s.power := rfl
@[simp] theorem State.postPf_agenda (s : State) (p ty : Nat) (pay : List Nat) : (s.postPf p ty pay).agenda = s.agenda := rfl
@[simp] theorem State.postPf_nextFid (s : State) (p ty : Nat) (pay : List Nat) : (s.postPf p ty pay).nextFid = s.nextFid := rfl
@[simp] theorem State.postPf_free (s : State) (p ty : Nat) (pay : List Nat) : (s.postPf p ty pay).free = s.free := rfl
@[simp] theorem State.postPf_cur (s : State) (p ty : Nat) (pay : List Nat) : (s.postPf p ty pay).cur = s.cur := rfl
@[simp] theorem State.postPf_arg (s : State) (p ty : Nat) (pay : List Nat) : (s.postPf p ty pay).arg = s.arg := rfl
@[simp] theorem State.postPf_mem (s : State) (p ty : Nat) (pay : List Nat) : (s.postPf p ty pay).mem = s.mem := rfl
@[simp] theorem State.postPf_fe (s : State) (p ty : Nat) (pay : List Nat) : (s.postPf p ty pay).fe = s.fe := rfl
@[simp] theorem State.postPf_parts (s : State) (p ty : Nat) (pay : List Nat) : (s.postPf p ty pay).parts = s.parts := rfl
@[simp] theorem State.postPf_guard (s : State) (p ty : Nat) (pay : List Nat) : (s.postPf p ty pay).guard = s.guard := rfl
@[simp] theorem State.postPf_tree (s : State) (p ty : Nat) (pay : List Nat) : (s.postPf p ty pay).tree = s.tree := rfl
@[simp] theorem State.postPf_badLines (s : State) (p ty : Nat) (pay : List Nat) : (s.postPf p ty pay).badLines = s.badLines := rfl
@[simp] theorem State.postPf_oldPtes (s : State) (p ty : Nat) (pay : List Nat) : (s.postPf p ty pay).oldPtes = s.oldPtes := rfl
@[simp] theorem State.postPf_plait (s : State) (p ty : Nat) (pay : List Nat) : (s.postPf p ty pay).plait = s.plait := rfl
@[simp] theorem State.postPf_windows (s : State) (p ty : Nat) (pay : List Nat) : (s.postPf p ty pay).windows = s.windows := rfl
@[simp] theorem State.postPf_helmSlots (s : State) (p ty : Nat) (pay : List Nat) : (s.postPf p ty pay).helmSlots = s.helmSlots := rfl
@[simp] theorem State.postPf_helmLine (s : State) (p ty : Nat) (pay : List Nat) : (s.postPf p ty pay).helmLine = s.helmLine := rfl
@[simp] theorem State.postPf_helmSaved (s : State) (p ty : Nat) (pay : List Nat) : (s.postPf p ty pay).helmSaved = s.helmSaved := rfl
@[simp] theorem State.postPf_module (s : State) (p ty : Nat) (pay : List Nat) : (s.postPf p ty pay).module = s.module := rfl
@[simp] theorem State.postPf_boot (s : State) (p ty : Nat) (pay : List Nat) : (s.postPf p ty pay).boot = s.boot := rfl
@[simp] theorem State.postPf_clusters (s : State) (p ty : Nat) (pay : List Nat) : (s.postPf p ty pay).clusters = s.clusters := rfl
@[simp] theorem State.postPf_channels (s : State) (p ty : Nat) (pay : List Nat) : (s.postPf p ty pay).channels = s.channels := rfl
@[simp] theorem State.postPf_retired (s : State) (p ty : Nat) (pay : List Nat) : (s.postPf p ty pay).retired = s.retired := rfl
@[simp] theorem State.postPf_worn (s : State) (p ty : Nat) (pay : List Nat) : (s.postPf p ty pay).worn = s.worn := rfl
@[simp] theorem State.postPf_cfgErrs (s : State) (p ty : Nat) (pay : List Nat) : (s.postPf p ty pay).cfgErrs = s.cfgErrs := rfl
@[simp] theorem State.postPf_limit (s : State) (p ty : Nat) (pay : List Nat) : (s.postPf p ty pay).limit = s.limit := rfl
@[simp] theorem State.postPf_credits (s : State) (p ty : Nat) (pay : List Nat) : (s.postPf p ty pay).credits = s.credits := rfl
@[simp] theorem State.postPf_hot (s : State) (p ty : Nat) (pay : List Nat) : (s.postPf p ty pay).hot = s.hot := rfl
@[simp] theorem State.postPf_bridges (s : State) (p ty : Nat) (pay : List Nat) : (s.postPf p ty pay).bridges = s.bridges := rfl
@[simp] theorem State.postPf_ports (s : State) (p ty : Nat) (pay : List Nat) : (s.postPf p ty pay).ports = s.ports := rfl
@[simp] theorem State.postPf_hostOut (s : State) (p ty : Nat) (pay : List Nat) : (s.postPf p ty pay).hostOut = s.hostOut := rfl
@[simp] theorem State.postPf_replies (s : State) (p ty : Nat) (pay : List Nat) : (s.postPf p ty pay).replies = s.replies := rfl
@[simp] theorem State.postPf_resets (s : State) (p ty : Nat) (pay : List Nat) : (s.postPf p ty pay).resets = s.resets := rfl
@[simp] theorem State.postPf_migs (s : State) (p ty : Nat) (pay : List Nat) : (s.postPf p ty pay).migs = s.migs := rfl
@[simp] theorem State.postPf_peerOut (s : State) (p ty : Nat) (pay : List Nat) : (s.postPf p ty pay).peerOut = s.peerOut := rfl
@[simp] theorem State.postPf_nextKey (s : State) (p ty : Nat) (pay : List Nat) : (s.postPf p ty pay).nextKey = s.nextKey := rfl
@[simp] theorem State.postPf_synced (s : State) (p ty : Nat) (pay : List Nat) : (s.postPf p ty pay).synced = s.synced := rfl
@[simp] theorem State.postPf_reports (s : State) (p ty : Nat) (pay : List Nat) : (s.postPf p ty pay).reports = s.reports := rfl

end Sys2Proof.Machine
end

