-- ==== Sys2Proof/Tests/Slice0.lean ====
section
/-! SUPPORT. Sys2Proof/Tests/Slice0.lean: the smoke tests of well-formedness and of decoding, one firing each of values that the
spec works out, and for every statement that has hypotheses a state and operands that meet them. -/

namespace Sys2Proof.Tests
open Machine

/-! ### Small states -/

/-- An instruction word of an opcode and X whose T0 is the L queue of slot 5. -/
def opw (n x : Nat) : Word := BitVec.ofNat 32 (n * 2 ^ 25 + x * 2 ^ 18 + 0x85)

/-- Page tables at 0x10000 that map VA 0x200000 to 0x3FFFFF onto PA 0x400000, with R, W, I, MC and PIN. -/
def cells : List Host.Cell := [(0x10000, 1), (0x10002, 0x40), (0x10008, 0x0F), (0x10009, 0x80), (0x1000A, 0x02), (0x1000B, 0x10), (0x1000F, 0x20)]

/-- A window on the fabric and a window on memory, each with R and W, on memory with MC too. -/
def fabWin : Win := { base := 0, limit := 0xFFFFFFFF, attr := 0x0E }
def memWin : Win := { base := 0x200000, limit := 0x1FFFFF, attr := 0x10D }

def tag5 : Tag := tagOf 5 1
def arr (v : Word) : Option Arr := some { tok := tokV v, fid := 3 }
def inst5 : Inst := { id := 5, gen := 1, regs := List.replicate 64 {}, wins := [fabWin, memWin, {}], strands := [{ num := 0, pg := 0, gen := 1 }], origin := .launch 0 0 0x8000 }
def act5 : Act := { tag := tag5, id := 5, strand := 0, words := [opw 0x10 0], arity := [0], regs := List.replicate 64 {}, wins := [fabWin, memWin, {}] }
def fire7 : Fire := { fid := 7, id := 5, strand := 0, tile := 0, tag := tag5, word := opw 0x10 0 }
def page0 : Page := { num := 0, acts := [act5], fires := [fire7] }
def part1 : Part := { num := 1, live := true, root := 0x10000, regions := [0], map := [(0, 0, 0, 0)], pages := [page0], insts := [inst5] }
def cur7 : Cur := { p := 1, pg := 0, id := 5, strand := 0, tile := 0, tag := tag5, fid := 7, word := opw 0x10 0 }

/-- Partition 1 with page 0, whose instance 5 runs one block and has firing 7 in progress. -/
def base (x : Part := part1) (c : Cur := cur7) (a : Args := {}) : State :=
  { State.reset with now := 100, power := .on, agenda := [], mem := cells, nextFid := 8, cur := c, arg := a, parts := [x] }

def onPage (y : Page) : Part := { part1 with pages := [y] }
def onFire (f : Fire) : Part := onPage { page0 with fires := [f] }
/-- The firing in progress with operands. -/
def ops (l r c pt : Option Token := none) : Cur := { cur7 with l := l, r := r, c := c, pt := pt }
def bad (v : Word) (o : BitVec 11) : Token := { val := v, pois := true, origin := o }
def to7 (x : Nat := 0) (y : Nat := 0) (z : Nat := 0) (l : List Nat := []) : Args := { p := 1, pg := 0, id := 5, fid := 7, tag := tag5, x := x, y := y, z := z, l := l }

/-- A firing whose operands are L, R and C. -/
def lrc (l r c : Word) : State := base part1 (ops (some (tokV l)) (some (tokV r)) (some (tokV c)))

/-! ### Witnesses: states and operands that meet the hypotheses of the statements -/

/-- For MovesAndButterflies, IntegerAlu, UnaryAndImmediateForms, IntegerTests, FloatArithmetic. -/
theorem test_w_runs : (lrc 1 2 3).cur.verdict 0 = .run ∧ (base part1 (ops (some (tokV 1)) none none (some (tokV 1)))).cur.verdict 1 = .run ∧
    (isNull (lrc 1 2 3).cur.pt = false ∧ predOf 0 (lrc 1 2 3).cur.pt = .run) ∧ isNull (some tokNull) = true := by decide

/-- For MultiplyDivide. -/
theorem test_w_divide : (lrc 7 0 0).rv = 0 ∧ (lrc 0x80000000 0xFFFFFFFF 0).lv = 0x80000000 ∧ (lrc 0x80000000 0xFFFFFFFF 0).rv = 0xFFFFFFFF ∧
    (lrc 7 0xFFFFFFFF 0).rv ≠ 0 ∧ ¬((lrc 7 0xFFFFFFFF 0).lv = 0x80000000 ∧ (lrc 7 0xFFFFFFFF 0).rv = 0xFFFFFFFF) := by decide

/-- For UnaryAndImmediateForms. -/
theorem test_w_fields : (31 : BitVec 5).toNat + (0 : BitVec 5).toNat + 1 ≤ 32 ∧ (0 : BitVec 5).toNat + (31 : BitVec 5).toNat + 1 ≤ 32 := by decide

/-- For MovesAndButterflies. Two infinities, a finite sum, an invalid difference alone, an invalid sum alone, and a poisoned operand. -/
theorem test_w_fbfly : (addNum .rne (decodeF fp32 0x3F800000) (decodeF fp32 0x40000000)).2 = 0 ∧
    (addNum .rne (decodeF fp32 0x7F800000) (decodeF fp32 0x7F800000)).2 = 0 ∧ (addNum .rne (decodeF fp32 0x7F800000) (decodeF fp32 0x7F800000).neg).2 ≠ 0 ∧
    (addNum .rne (decodeF fp32 0x7F800000) (decodeF fp32 0xFF800000)).2 ≠ 0 ∧ (base part1 (ops (some (bad 1 9)))).cur.firstOrigin ≠ none ∧
    (lrc 1 2 3).cur.firstOrigin = none := by decide

/-- For FloatSpecials, FloatSignsAndTests, Conversions. R64: the least and the greatest NaN, the infinities, zeros, a subnormal and a negative number. -/
theorem test_w_floats : 0x7F800000 < (0x7F800001 : Word).toNat % 2 ^ 31 ∧ 0x7F800000 < (0xFFFFFFFF : Word).toNat % 2 ^ 31 ∧
    ¬0x7F800000 < (0xFF800000 : Word).toNat % 2 ^ 31 ∧ (0xFF800000 : Word) &&& 0x7FFFFFFF = 0x7F800000 ∧ (0x80000000 : Word) &&& 0x7FFFFFFF = 0 ∧
    (0x80000001 : Word).getLsbD 31 = true ∧ (0x80000001 : Word) &&& 0x7FFFFFFF ≠ 0 ∧ (0x00000001 &&& 0x7FFFFFFF : Word).toNat < 0x7F800000 := by decide

/-- For FloatSpecials. R107, R111: the invalid product, infinite products with a finite addend, the product's own infinity and its opposite, an infinite addend,
and zero products with an addend. -/
theorem test_w_fused : (lrc 1 2 3).cur.verdict 0 = .run ∧ ((0x7F800000 : Word) &&& 0x7FFFFFFF = 0x7F800000 ∧ (0x80000000 : Word) &&& 0x7FFFFFFF = 0) ∧
    ((0x3F800000 : Word) &&& 0x7FFFFFFF).toNat < 0x7F800000 ∧ (0x3F800000 : Word) &&& 0x7FFFFFFF ≠ 0 ∧
    (0xFF800000 : Word) = 0x7F800000 ||| (((0xFF800000 ^^^ 0x3F800000) &&& 0x80000000) ^^^ 0) ∧
    (0x7F800000 ^^^ 0x80000000 : Word) = 0x7F800000 ||| (((0x7F800000 ^^^ 0x3F800000) &&& 0x80000000) ^^^ 0x80000000) ∧
    ¬((0x3F800000 : Word) &&& 0x7FFFFFFF = 0x7F800000 ∧ (0x80000000 : Word) &&& 0x7FFFFFFF = 0) := by decide

/-- For TritsAndCodebook, PackedAndDotForms. A group of legal trit codes, one with code 10, four legal bytes, and a byte of 243. -/
theorem test_w_trits : (∀ i, i < 4 → (0x00FF : Nat) / 4 ^ i % 4 ≠ 2) ∧ ¬(∀ i, i < 4 → (0x0080 : Nat) / 4 ^ i % 4 ≠ 2) ∧
    (∀ n, n < 4 → (0xF2F2F2F2 : Nat) / 256 ^ n % 256 < 243) ∧ (∃ n, n < 4 ∧ 243 ≤ (0x00F30000 : Nat) / 256 ^ n % 256) ∧ (0x00F30000 : Nat) / 256 ^ 3 % 256 < 243 := by
  decide

/-- For PredicationAndSuppression. R16 to R18: what each clause on P and the operands speaks of. -/
theorem test_w_predicates : (ops none none none (some (bad 1 5))).pt = some (bad 1 5) ∧ (bad 1 5).null = false ∧ (bad 1 5).val.getLsbD 0 = true ∧
    (bad 2 5).val.getLsbD 0 = false ∧ isNull (ops (some tokNull)).l = true ∧ predOf 0 (ops (some tokNull)).pt = .run ∧
    origOf (ops (some (bad 1 2047))).l = some 2047 ∧ origOf (ops none (some (bad 1 0))).r = some 0 ∧ origOf (ops none none (some (bad 1 0))).c = some 0 := by decide

/-- For PredicationAndSuppression. -/
theorem test_w_suppressed : (ops none none none (some (tokV 0))).verdict 1 = .silent ∧ (ops none none none (some (tokV 0))).verdict 3 = .nulls none ∧
    (ops (some tokNull)).verdict 1 = .nulls none ∧ scalarForm (.add 1 .none .none) = some (1, 1, .none, .none) ∧
    predOf 1 (ops none none none (some (tokV 0))).pt = .silent ∧ predOf 3 (ops none none none (some (tokV 0))).pt = .nulls none := by decide

/-- For EmissionEffect. -/
theorem test_w_emission : base.carryTag base.cur (.queue .l 63) = some tag5 ∧ base.carryTag base.cur (.reg 0) = some tag5 := by decide

/-- For ScalarFrame. -/
theorem test_w_frame : Mem.wf base.mem = true ∧ Fe.rising 0 base.fe = true ∧ scalarForm (.add 0 .none .none) ≠ none := by decide

/-! #### Reads, exits, loops, routing and fibres -/

def poisonedReg : State := base (onPage { page0 with acts := [{ act5 with regs := [{ val := 3, pois := true, origin := 9 }, {}] }] })

/-- For ReadsAndRouting. -/
theorem test_w_read : (poisonedReg.page 1 0).act? tag5 = some { act5 with regs := [{ val := 3, pois := true, origin := 9 }, {}] } ∧
    ([{ val := 3, pois := true, origin := 9 }, {}] : List Reg)[0]? = some { val := 3, pois := true, origin := 9 } ∧ act5.regs[63]? = some ({} : Reg) := by decide

/-- For ExitsAndLoops. -/
theorem test_w_exits : base.curAct.role = .main ∧ base.curAct.strand = 0 ∧ hdrKind base.curAct.hdr ≠ 3 ∧ base.cur.verdict 0 = .run ∧
    (ops none none none (some (tokV 0))).verdict 1 ≠ .run ∧ (ops (some (tokV 8)) (some (tokV 1))).r = some (tokV 1) ∧
    ¬((base (onPage { page0 with acts := [{ act5 with role := .iter }] })).curAct.role = .main) := by decide

/-- For ExitsAndLoops. -/
theorem test_w_loops : (base.page base.cur.p base.cur.pg).act? base.cur.tag = some act5 ∧ act5.ofStrand = true ∧ (lrc 1 0 0).lv ≠ 0 ∧ base.lv = 0 ∧
    ({ act5 with role := .msg 0 } : Act).ofStrand = false := by decide

/-- For ReadsAndRouting. -/
theorem test_w_routing : (lrc 1 0 0).cur.anyNull = false ∧ (ops (some { tokNull with eof := true })).anyNull = true ∧ isNull (ops none none (some tokNull)).c = true := by decide

/-- For FibreForms. R164: a plain null, coordinates at the edge, and an end of fibre. -/
theorem test_w_fibres : (tokIn (ops (some tokNull)).l).null = true ∧ (tokIn (ops (some tokNull)).l).eof = false ∧ (tokIn (lrc 0x3FFFFFFF 0 0).cur.l).val.toNat < 2 ^ 30 ∧
    (tokIn (lrc 0x3FFFFFFF 0 0).cur.l).null = false ∧ (tokIn (ops (some { tokNull with eof := true })).l).eof = true := by decide

/-- A committed store that another agent may not see yet. -/
def owed : Posted := { wid := 0, id := 5, agent := 0, kind := 1, va := 0, cells := [] }
/-- For WindowsAndFences. With such a store, and with none. -/
theorem test_w_fences : (base { part1 with posted := [owed], nextWid := 1 }).cur.verdict 0 = .run ∧ base.cur.verdict 0 = .run ∧
    ((base { part1 with posted := [owed] }).part 1).posted = [owed] ∧ owed.id = base.cur.id := by decide

/-! #### Accesses -/

def weak (w : Win) (at' : Word) : Win := { w with attr := at' }

/-- For AccessChecks. R132: a NONE window, an address past the limit, full/empty off the fabric, misalignment, a window without R, an unmapped fabric page, an unmapped
VA, and accesses at the last word of a window that pass. -/
theorem test_w_access : ({} : Win).attr.toNat % 4 = 0 ∧ memWin.base.toNat + memWin.limit.toNat < 0x3FFFFD + 4 - 1 ∧ memWin.attr.toNat % 4 ≠ 2 ∧
    0x200002 % 4 ≠ 0 ∧ (weak memWin 1).attr.getLsbD 2 = false ∧ part1.fabKey 0x400000 = none ∧ part1.fabKey 0x10004 = some (sramKey 0 0 1 4) ∧
    base.walkFail part1 0x3FFFFC = none ∧ (base.translate part1 0x400000).toOption = none ∧ (base.translate part1 0x3FFFFC).toOption = some ⟨0x5FFFFC, 0x200000001002800F⟩ ∧
    Pte.r 0x200000001002800F = true ∧ part1.mayWrite ⟨0x5FFFFC, 0x200000001002800F⟩ = true ∧ Pte.mc 0x200000001002800F = true ∧ Pte.r 0x2000000010028009 = false := by
  decide +kernel

/-- A load or store of word 4 by a window: fabric, memory, or none. -/
def acc (l : Token) (r : Token := tokV 7) (pt : Option Token := none) : State := base part1 (ops (some l) (some r) none pt)

/-- For LoadsAndStoresFire, FullEmptyOperations. -/
theorem test_w_accesses_fire : (acc (tokV 4)).cur.verdict 0 = .run ∧ (base.checkAccess 1 1 memWin 0x200004 4 {}).toOption = some (0x400004, 0x200000001002800F) ∧
    part1.watch 1 0x200004 4 true false = none ∧ part1.watch 1 0x200004 4 false true = none ∧
    (base.checkAccess 1 1 memWin 0x200004 4 { store := true, stm := true }).toOption = some (0x400004, 0x200000001002800F) ∧
    (base.checkAccess 1 2 {} 4 4 {}).toOption = none ∧ (acc tokNull).cur.verdict 0 = .nulls none ∧ (acc (tokV 4) (tokV 7) (some (tokV 0))).cur.verdict 1 = .silent ∧
    (acc (tokV 4) (bad 7 3)).cur.storeOrigin = some 3 ∧ (acc (tokV 4)).cur.storeOrigin = none ∧ (weak memWin 0x11D).attr.getLsbD 4 = true ∧
    (base.checkAccess 1 0 fabWin 0x10004 4 { fe := true, store := true }).toOption = some (sramKey 0 0 1 4, 0) ∧ part1.watch 2 0x10004 4 true true = none := by decide

/-- A load whose request is out, at word 4 of memory. -/
def load (op size : Nat) : Fire := { fire7 with phase := .out, word := opw op 0, size := size, key := 0x400004, va := 0x200004, got := List.replicate size 0x85, aux := [1, 0, 0, 0], lsid := 4 }

/-- The last slot that the SRAM of tile 1 has given. -/
def slotted (k : Nat) : State := base (onPage { page0 with sram := [(1, k)] }) {} (to7)

/-- For LoadReplies. -/
theorem test_w_replies : ((base (onFire (load 0x40 4)) {} (to7 1)).page 1 0).fire? 7 = some (load 0x40 4) ∧ (load 0x40 4).got ≠ [] ∧
    (opF (load 0x40 4).word).toNat = 0x40 ∧ (opF (load 0x41 2).word).toNat = 0x41 ∧ (opF (load 0x42 2).word).toNat = 0x42 ∧ (opF (load 0x43 1).word).toNat = 0x43 ∧
    (opF (load 0x44 1).word).toNat = 0x44 ∧ base.badAt 0x400004 4 = false ∧ ({ base with badLines := [0x400004 / 64] } : State).badAt 0x400004 4 = true ∧
    ((load 0x40 4).aux[0]?).getD 0 = 1 ∧ (∀ g ∈ (onFire { load 0x40 4 with got := [] }).page 0 |>.fires, g.got = []) := by decide

/-- For StoresPerform. -/
theorem test_w_buffer : (base.page 1 0).act? tag5 = some act5 ∧ act5.lsidDone 31 = false ∧ ({ act5 with nulled := [⟨31, 0, 2, none⟩] } : Act).lsidDone 31 = true := by decide

def po4 : Posted := { wid := 4, id := 5, agent := 0, kind := 1, va := 0x200000, cells := [(0x400003, 7), (0x400000, 0), (0x400001, 8)] }

/-- For StoresPerform. -/
theorem test_w_posted : ((base { part1 with posted := [po4] }).part 1).posted.find? (fun v => v.wid == 4) = some po4 ∧ base.badAt 0x400003 1 = false ∧
    (po4.cells.map Prod.fst).Nodup ∧ Mem.wf base.mem = true ∧ Fe.rising 0 base.fe = true := by decide

/-- A full/empty operation at its word. -/
def feOp (op : Nat) : Fire := { fire7 with phase := .out, word := opw op 0, size := 4, key := sramKey 0 0 1 4, va := 0x10004, aux := [2, 0], l := arr 1, r := arr 9, lsid := 4 }

/-- For FullEmptyOperations. -/
theorem test_w_fullEmpty : ((base (onFire (feOp 0x46))).page 1 0).fire? 7 = some (feOp 0x46) ∧ (feOp 0x46).acted = false ∧ part1.feq = [] ∧ part1.posted = [] ∧ ((feOp 0x46).aux[1]?).getD 0 = 0 ∧
    kget (page0.sram) (fabTile 0x10004) = none ∧ kget ({ page0 with sram := [(1, 99)] } : Page).sram (fabTile 0x10004) = some 99 ∧
    act5.lsidDone 4 = false ∧ (opF (feOp 0x45).word).toNat = 0x45 ∧ (opF (feOp 0x46).word).toNat = 0x46 ∧ (opF (feOp 0x4B).word).toNat = 0x4B ∧
    (opF (feOp 0x4C).word).toNat = 0x4C ∧ (opF (feOp 0x4D).word).toNat = 0x4D ∧ sramKey 0 0 1 4 ∈ [3, sramKey 0 0 1 4] ∧ sramKey 0 0 1 4 ∉ [3] := by decide

/-- For LoadReplies, StoresPerform. R205: the SRAM of tile 1 has given its slot of this fclk, and its last slot was that of the fclk before. -/
theorem test_w_sram : ((feOp 0x46).aux[0]?).getD 0 = 2 ∧ (∃ y ∈ (slotted 100).parts, ∃ z ∈ y.pages, kget z.sram (fabTile 0x10004) = some 100) ∧
    kget ((slotted 100).page 1 (fabPage 0x10004)).sram (fabTile 0x10004) = some 100 ∧ (slotted 100).now < max (slotted 100).now (100 + 1) ∧
    max (slotted 99).now (99 + 1) = (slotted 99).now ∧ kget ((slotted 99).page 1 (fabPage 0x10004)).sram (fabTile 0x10004) = some 99 ∧ (slotted 99).arg.y ≠ 1 := by decide

/-! #### Synchronisation -/

/-- A synchronisation operation at its engine, with objects 2 and 3, the storage of a queue, and no memory-backed objects below 0x100. -/
def syncF (op x : Nat) (l : Word := 3) (r : Word := 5) : Fire := { fire7 with phase := .out, word := opw op x, l := arr l, r := arr r, aux := [4] }
def objs (f : Fire) (st : ObjSt) : Part :=
  { onFire f with objs := [{ h := 2, st := .lock none }, { h := 3, st := st }, { h := 4, st := .qstore 3 11 12 13 14 }], csr := [(0x0C2, 0x10001)] }
def sync (op x : Nat) (st : ObjSt) (l : Word := 3) : State := base (objs (syncF op x l) st) {} (to7)

/-- The engine of die 0 has served n other objects in this fclk. -/
def busy (n : Nat) : State := { sync 0x58 0 .free with synced := [(0, 100, (List.range n).map (fun k => (2, k)))] }

/-- For SyncRequests, AtomicOperations. -/
theorem test_w_sync : ((sync 0x58 0 .free).page 1 0).fire? 7 = some (syncF 0x58 0) ∧ (opF (syncF 0x58 0).word).toNat = 0x58 ∧ (objs (syncF 0x58 0) .free).handleOk 3 = true ∧
    (objs (syncF 0x58 0) .free).inMemory 3 = false ∧ (objs (syncF 0x58 0) .free).handleOk 0x1FF = true ∧ (objs (syncF 0x58 0) .free).inMemory 0x100 = true ∧
    (objs (syncF 0x58 0) .free).handleOk 0x200 = false ∧ (((sync 0x58 0 (.word 9)).atObject 1 3 (syncF 0x58 0)).obj 1 3).st = .word 9 ∧
    (∀ x < 11, (xF (syncF 0x58 x).word).toNat = x) ∧ (sync 0x58 0 .free).engineFree 1 3 = true ∧ ((sync 0x58 0 .free).served 1 3).objFault 1 3 = none ∧
    ((sync 0x58 0 .free).objFault 1 0x100).isSome = true ∧ (busy 8).servedOn 0 = (List.range 8).map (fun k => (2, k)) ∧ (busy 8).objName 1 3 ∉ (busy 8).servedOn 0 ∧
    (busy 8).engineFree 1 3 = false ∧ (busy 7).engineFree 1 3 = true ∧ ((base { part1 with posted := [owed] }).part 1).posted = [owed] ∧ base.badLines = [] := by decide

/-- Object 3 as an operation finds it that acts there. -/
def acted (op x : Nat) (st : ObjSt) : Obj := ((sync op x st).atObject 1 3 (syncF op x)).obj 1 3

/-- For LocksAndBarriers. -/
theorem test_w_locks : (opF (syncF 0x59 2).word).toNat = 0x59 ∧ (xF (syncF 0x59 2).word).toNat = 2 ∧ ((sync 0x59 2 (.lock (some (5, 1)))).inst 1 5).id = 5 ∧
    ((sync 0x59 2 (.lock (some (5, 1)))).inst 1 5).gen = 1 ∧ (acted 0x59 0 (.lock none)).waiters = [] ∧ ((sync 0x59 2 .free).atObject 1 3 (syncF 0x59 2)).inst 1 5 = inst5 ∧
    (acted 0x59 0 (.lock (some (4, 1)))).st = .lock (some (4, 1)) ∧ (acted 0x59 2 (.lock (some (5, 1)))).st = .lock (some (5, 1)) ∧ (acted 0x59 0 .free).st = .free ∧ (opF (syncF 0x5A 3).word).toNat = 0x5A ∧ (xF (syncF 0x5A 3).word).toNat = 3 ∧
    (acted 0x5A 0 (.barrier 2 1 0xFFFF)).st = .barrier 2 1 0xFFFF ∧ (acted 0x5A 1 (.word 0)).st = .word 0 ∧ (valOf ((syncF 0x5A 3 3 65535).r.map Arr.tok)).toNat = 65535 := by decide

/-- A partition without a record of an object. -/
def twoObjs : State := base { onFire (syncF 0x5B 4 3 1) with csr := [(0x0C2, 0x10001)] } {} (to7)

/-- For Queues. -/
theorem test_w_queues : (opF (syncF 0x5B 1).word).toNat = 0x5B ∧ (∀ x < 5, (xF (syncF 0x5B x).word).toNat = x) ∧
    (acted 0x5B 1 (.queue 4 3 0 true)).st = .queue 4 3 0 true ∧ (acted 0x5B 1 (.queue 4 3 4 false)).st = .queue 4 3 4 false ∧ (acted 0x5B 1 (.queue 4 3 4 false)).waiters = [] ∧
    (objs (syncF 0x5B 0) .free).inMemory (storeOf 3 3) = false := by decide

/-- For Queues. QINIT of capacities 0, 1025 and 1, with the storage at handle 4 free. -/
theorem test_w_qinit : (valOf ((syncF 0x5B 4 3 1025).r.map Arr.tok)).toNat = 1025 ∧ (valOf ((syncF 0x5B 4 3 0).r.map Arr.tok)).toNat = 0 ∧
    (valOf ((syncF 0x5B 4 3 1).r.map Arr.tok)).toNat = 1 ∧ storeOf 3 0 = 4 ∧ hIndex 3 + 1 < ((twoObjs.atObject 1 3 (syncF 0x5B 4 3 1)).part 1).objLimit ∧
    ((twoObjs.atObject 1 3 (syncF 0x5B 4 3 1)).obj 1 3).st = .free ∧ ((twoObjs.atObject 1 3 (syncF 0x5B 4 3 1)).obj 1 4).st = .free ∧
    (twoObjs.part 1).inMemory 4 = false ∧ (twoObjs.part 1).handleOk 3 = true := by decide

theorem num_empty (k n : Nat) : Mem.num [] k n = 0 := by
  induction n generalizing k with
  | zero => rfl
  | succ n ih =>
    have h : ofLE (Mem.bytes [] (k + 1) n) = 0 := ih (k + 1)
    simp [Mem.num, Mem.bytes, ofLE, h, Mem.byte, Mem.unlisted]

theorem obj_empty (s : State) (p h : Nat) (hm : s.mem = []) (ho : (s.part p).objs = []) : (s.obj p h).st = .free := by
  simp only [State.obj, ho, List.find?_nil, Option.getD_none, State.devRead, hm, num_empty]
  split
  · rfl
  · split
    · rfl
    · rename_i w hw
      split at hw
      · rw [← Option.some.inj hw]; rfl
      · simp at hw

/-- For Queues. With nothing in memory every storage object that no record names is free. -/
theorem test_w_storage (j : Nat) : ((({ twoObjs with mem := [] } : State).atObject 1 3 (syncF 0x5B 4 3 1025)).obj 1 (storeOf 3 j)).st = .free :=
  obj_empty _ _ _ (by decide) (by decide)

/-- For SyncAnswers. -/
theorem test_w_answers : base.carryTag (curOf 1 0 (syncF 0x58 0)) (targetsOf (syncF 0x58 0).word).1 = some tag5 ∧ (targetsOf (syncF 0x58 0).word).1 ≠ .none := by decide

/-- For WaitsAndPriorities. -/
theorem test_w_waitFor : (opF (syncF 0x5C 3).word).toNat = 0x5C ∧ (onFire (syncF 0x5C 3)).inst? 5 = some inst5 ∧ (xF (syncF 0x5C 3).word).toNat = 3 ∧
    (bitAt 0x200 15 = false ∧ (objs (syncF 0x5C 0) .free).handleOk 0x200 = false) ∧
    ({ part1 with wft := [{ wait := false, id := 5, gen := 1, name := 3 }] } : Part).holds 5 3 = true := by decide

def wait (id name fid : Nat) : WftEnt := { wait := true, id := id, gen := 1, name := name, fid := fid }
def hold (id name : Nat) : WftEnt := { wait := false, id := id, gen := 1, name := name }

/-- For WaitsAndPriorities. -/
theorem test_w_cycles : ({ part1 with wft := [wait 5 2 7, hold 5 3, wait 4 3 8, hold 4 2] } : Part).cycleOf (wait 5 2 7) = some [(5, 1, 2), (4, 1, 3)] ∧
    ({ part1 with wft := [wait 5 2 7] } : Part).cycleOf (wait 5 2 7) = none ∧ ({ part1 with wft := [wait 5 2 7] } : Part).wft.contains (wait 5 2 7) = true ∧ part1.callerOf 5 = [] := by decide

/-- Two instances that wait for each other's objects, and a walk for the first one's wait that has read three entries and reads the fourth. -/
def ring : Part := { part1 with wft := [wait 5 2 7, hold 5 3, wait 4 3 8, hold 4 2], walk := some { ent := wait 5 2 7, seen := [hold 4 2, wait 4 3 8], reading := some (hold 5 3), todo := [(true, 3, 0)] } }

/-- For WaitsAndPriorities. A walk that has reached its start with its entry standing and gone, one that goes on, and one at its end. -/
theorem test_w_walks : ring.walk.map (fun k => (k.pass ring).2) = some true ∧ ring.wft.contains (wait 5 2 7) = true ∧
    (ring.walk.bind (fun k => ({ ring with walk := none, wft := (k.pass ring).1.seen ++ [k.ent] } : Part).cycleOf k.ent)).isSome = true ∧
    ({ ring with wft := [hold 5 3] } : Part).wft.contains (wait 5 2 7) = false ∧ (ring.walk.map (fun k => (k.pass { ring with wft := [hold 5 3] }).2)) = some true ∧
    (({ ent := wait 5 2 7 } : Walk).pass ring).2 = false ∧ ring.walkNext [] [(true, 2, 0)] = some (hold 4 2, [(true, 2, 0)]) ∧ ring.walkNext [hold 4 2] [(true, 2, 0)] = none ∧
    ring.regq = [] ∧ (hold 4 2).home ≠ 2 ∧ nameDie 2 = 0 ∧ ({ hold 4 2 with home := 2 } : WftEnt).home = 2 := by decide

/-! #### Engines -/

/-- An engine's firing, as it fires. -/
def engF (op x : Nat) (l : Word := 0x10004) (r : Word := 9) : Fire := { fire7 with word := opw op x, l := arr l, r := arr r }
def eng (f : Fire) (a : Args := to7) : State := base (onFire f) (curOf 1 0 f) a

/-- For EngineCommandsFire. -/
theorem test_w_engines : ((eng (engF 0x61 5)).page 1 0).fire? 7 = some (engF 0x61 5) ∧ (eng (engF 0x61 5)).cur = curOf 1 0 (engF 0x61 5) ∧ (eng (engF 0x61 5)).cur.verdict 1 = .run ∧
    part1.fabKey 0x10004 = some (sramKey 0 0 1 4) ∧ part1.fabKey 0x10006 = some (sramKey 0 0 1 6) ∧ 0x10006 % 4 ≠ 0 ∧ part1.fabKey 0x400000 = none ∧
    (eng { engF 0x65 0 with l := some { tok := tokNull, fid := 0 } }).cur.verdict 0 = .nulls none ∧ (eng { engF 0x65 0 with p := arr 0 }).cur.verdict 1 = .silent ∧
    (base.inst 1 5).strand? 0 = some { num := 0, pg := 0, gen := 1 } := by decide

/-- A command that waits alone at its island. -/
def islC (op x lv rv : Nat) : IslCmd :=
  { ch := islChannel op x, fid := 7, id := 5, strand := 0, slot := 0, tag := tag5, word := opw op x, lv := lv, rv := rv, wins := act5.wins, here := 100 }
def islP (c : IslCmd) (st : TileSt := .empty) : Part :=
  onPage { page0 with fires := [{ fire7 with phase := .engine, word := c.word }], island := { owner := some 5, cmds := [c], tiles := [{}, { st := st }, {}, {}] } }
def isl (c : IslCmd) (st : TileSt := .empty) (a : Args := to7) : State := base (islP c st) {} a

/-- For MatrixIslands. -/
theorem test_w_accept : ((isl (islC 0x60 0 0x1A 0x1F)).isl 1 0).cmds = [islC 0x60 0 0x1A 0x1F] ∧ (islC 0x60 0 0x1A 0x1F).op = 0x60 ∧ (islC 0x60 2 0 0).x = 2 ∧
    (islC 0x61 5 0 0).op = 0x61 ∧ (islC 0x61 5 0 0).x % 4 = 1 ∧ (islC 0x61 5 0 0).tile = 1 ∧ (islC 0x62 7 0 0).op = 0x62 ∧ (islC 0x61 14 0 0).ch < 4 ∧
    ((0 &&& (0xFFFFFFFF - 0x1F)) ||| (0x1A &&& 0x1F) : Nat) = 0x1A ∧ 0x1A % 4 ≠ 3 ∧ 0x1A / 4 % 4 ≠ 3 ∧ (0x0F0E &&& 0x1F1F : Nat) = 0x0F0E ∧ 0x0F0E % 32 < 16 ∧ 0x0F0E / 256 < 16 ∧
    (0x7531 &&& 0x7777 : Nat) = 0x7531 ∧ ((isl (islC 0x61 5 0 0) .full).isl 1 0).tiles.length = 4 ∧ (((isl (islC 0x61 5 0 0) .full).isl 1 0).tileAt 1).st = .full ∧
    ((isl (islC 0x61 5 0 0) .full).isl 1 0).serving = none ∧ ((isl (islC 0x61 5 0 0)).isl 1 0).owner = some 5 := by decide

/-- A multiplication of two FP32 elements from the mapped page. -/
def dsc : TDesc := { va := 0x200000, base := 0x200100, rows := 1, cols := 1, stride := 4, ovr := 0, flags := 0, chan := 0, prog := 0, pkey := 0 }
def mul1 : Mul := { aw := 1, bw := 1, da := dsc, db := dsc, ga := ⟨0, 0, 0⟩, gb := ⟨0, 0, 0⟩, rows := 1, cols := 1, k := 1, int := false, stream := none }
def taken (c : IslCmd) : IslCmd := { c with accepted := true }

/-- For MatrixIslands. -/
theorem test_w_works : ((isl (taken (islC 0x61 4 0 0))).isl 1 0).cmd? 7 = some (taken (islC 0x61 4 0 0)) ∧ (taken (islC 0x61 4 0 0)).stopped = false ∧
    (({} : Reg).pois = false) ∧ ({ num := .fin false 0 0 } : El).pois = none ∧ ((sync 0x58 0 (.word 9)).obj 1 3).st = .word 9 := by decide

/-- For ScatterAndTopk. -/
theorem test_w_scatter : ((base (onFire { engF 0x65 4 with phase := .engine }) {} to7).page 1 0).fire? 7 = some { engF 0x65 4 with phase := .engine } ∧
    (opF (engF 0x65 4).word).toNat = 0x65 ∧ (∀ x < 5, (xF (engF 0x65 x).word).toNat = x) ∧ part1.fabKey 0x10004 = some (sramKey 0 0 1 4) ∧
    (addNum .rne (decodeF fp32 0) (decodeF fp32 9)).2 = 0 ∧ (addNum .rne (decodeF fp32 0x7F800000) (decodeF fp32 0xFF800000)).2 ≠ 0 ∧
    (curOf 1 0 (engF 0x65 1)).firstOrigin = none ∧ (curOf 1 0 { engF 0x65 1 with r := some { tok := bad 1 3, fid := 0 } }).firstOrigin = some 3 ∧ origOf (({ engF 0x65 1 with r := some { tok := bad 1 3, fid := 0 } } : Fire).r.map Arr.tok) ≠ none := by decide

/-- For ScatterAndTopk. -/
theorem test_w_topk : ((base (onFire (engF 0x67 0))).page 1 0).fire? 7 = some (engF 0x67 0) ∧ isNull (ops (some (tokV 1)) (some (tokV 2))).pt = false ∧
    predOf 0 (ops (some (tokV 1)) (some (tokV 2))).pt = .run ∧ ({ tokNull with eof := true } : Token).null = true ∧ tokNull.eof = false ∧
    ([(tokV 1, tokV 2)] : List (Token × Token))[0]? = some (tokV 1, tokV 2) ∧ ([(tokV 1, tokV 2)] : List (Token × Token))[1]? = none := by decide

/-- Page 0 with conversion island 1 loading or not. -/
def cnvP (busy : Bool) (z : CnvIsl := {}) : Part := onPage { page0 with fires := [engF 0x62 7], cnv := { owner := some 5, isl := [{}, { z with busy := busy }] } }

/-- For ConversionIslands. -/
theorem test_w_cnv : (xF (engF 0x62 7).word).toNat / 4 % 2 = 1 ∧ ((base (cnvP false)).cnvIsl 1 0 1).busy = false ∧ ((base (cnvP true)).cnvIsl 1 0 1).busy = true ∧
    ((base (cnvP true)).page 1 0).cnv.owner = some 5 ∧ ((base (cnvP true)).page 1 0).cnv.isl.length = 2 ∧
    (({ image := .std 5 0 } : CnvIsl).run 0 0 0).2.1 = 0 ∧ (ops (some (bad 1 9))).firstOrigin = some 9 := by decide

/-- A copy of n bytes of one byte each from 0x200100 to 0x200200, of a form, as its CPY sent it. -/
def cp (form n : Nat) (flags : Nat := 0) (handle : Nat := 0) : CopyCmd :=
  { num := 7, eng := 0, ch := 0, src := .fire 0 7, id := 5, slot := 0, tag := tag5, form := form, descVa := 0x200000, win := memWin, sw := memWin, dw := memWin,
    desc := flags + n * 2 ^ 32 + 0x200100 * 2 ^ 64 + 0x200200 * 2 ^ 128 + 1 * 2 ^ 192 + 1 * 2 ^ 224 + 1 * 2 ^ 256 + 1 * 2 ^ 144 * 2 ^ 144 + 0x200300 * 2 ^ 160 * 2 ^ 160 + handle * 2 ^ 208 * 2 ^ 208,
    accepted := 50, begun := true, ready := 60 }
def copying (c : CopyCmd) (a : Args := to7 7) : State := base { onFire { fire7 with phase := .engine } with copies := [c], engines := [(0, 0)] } {} a

/-- For CopyEngines. -/
theorem test_w_copy : ((copying (cp 2 4)).part 1).copy? 7 = some (cp 2 4) ∧ (cp 2 4).tw = false ∧ (cp 2 4).begun = true ∧ (cp 2 4).malformed = false ∧ (cp 2 4).e = 1 ∧
    (cp 2 4).sig = false ∧ (cp 0 4 4096 3).sig = true ∧ (cp 0 4 4096 3).handle = 3 ∧ ((copying (cp 2 4)).copyNum 1 memWin 0x200300 4).toOption = some 0 ∧
    ((copying (cp 2 4)).copyAccess 1 memWin false 0x200100 1 1).toOption = some [⟨0x200100, 0x400100, 0x200000001002800F, 1⟩] ∧
    ((copying (cp 2 4)).copyAccess 1 memWin true 0x200200 1 1).toOption = some [⟨0x200200, 0x400200, 0x200000001002800F, 1⟩] ∧
    ((copying (cp 2 4)).copyElem 1 (cp 2 4) {}).toOption = some (0x200200, [0], some (0x400100 / 64, List.replicate 64 0)) ∧ (cp 2 4).line = none ∧ (cp 2 4).tail = [] ∧ (cp 2 4).held = 0 := by decide +kernel

/-- A CPY whose command reaches engine 0 of its die, and a page with that engine. -/
def cpyF : Fire := { engF 0x66 0 0 with phase := .engine, aux := [0, 1], wins := act5.wins }
def copyDesc : List Host.Cell := [(0x400000, 9), (0x400004, 4), (0x400024, 1)]
def arriving : State := { base { onFire cpyF with engines := [(0, 0)] } {} (to7 0 0 3) with mem := cells ++ copyDesc }

/-- For CopyEngines. -/
theorem test_w_copy_begin : (arriving.page 1 0).fire? 7 = some cpyF ∧ (arriving.part 1).copy? 7 = none ∧ (cpyCmd 0 cpyF).win = memWin ∧ (cpyCmd 0 cpyF).descVa = 0x200000 ∧
    (arriving.copyAccess 1 memWin false 0x200000 64 64).toOption = some [⟨0x200000, 0x400000, 0x200000001002800F, 64⟩] ∧
    ({ (cpyCmd 0 cpyF).bind cpyF.wins (9 + 4 * 2 ^ 32 + 2 ^ 144 * 2 ^ 144) with desc := 9 + 4 * 2 ^ 32 + 2 ^ 144 * 2 ^ 144, ch := 0 } : CopyCmd).malformed = false ∧
    ofLE (arriving.pieceBytes [⟨0x200000, 0x400000, 0, 64⟩]) = 9 + 4 * 2 ^ 32 + 2 ^ 144 * 2 ^ 144 := by decide +kernel

/-- For CopyEngines. R224: an element whose line the next one shares is held back; the last one is written. -/
theorem test_w_copy_lines : (copying (cp 0 4)).copyShares 1 (cp 0 4) 0x200200 = true ∧ ((copying (cp 0 4)).copyElem 1 (cp 0 4) {}).toOption.map (fun z => (z.1, z.2.1)) = some (0x200200, [0]) ∧
    ((copying (cp 0 4)).copyAccess 1 memWin true 0x200200 1 1).toOption = some [⟨0x200200, 0x400200, 0x200000001002800F, 1⟩] ∧ isSram 0x400200 = false ∧
    (copying { cp 0 4 with sent := 3 }).copyShares 1 { cp 0 4 with sent := 3 } 0x200203 = false ∧
    ((copying { cp 0 4 with sent := 3 }).copyElem 1 { cp 0 4 with sent := 3 } {}).toOption.map (fun z => (z.1, z.2.1)) = some (0x200203, [0]) ∧
    ((copying { cp 0 4 with sent := 3 }).copyAccess 1 memWin true 0x200203 1 1).toOption = some [⟨0x200203, 0x400203, 0x200000001002800F, 1⟩] ∧
    (arriving.part 1).copyOld cpyF = none ∧ (0x400100 : Nat) % 64 + 1 ≤ 64 := by decide +kernel

def gated : State := base { onPage { page0 with gated := true } with copies := [cp 0 4] } {} (to7 7)
/-- For CopyCommands and AStepRunsTheInstruction. R412: a command pauses with its page's clocks at a 64-byte boundary. -/
theorem test_w_copy_gated : gated.copyGated 1 (cp 0 4) = some 0 ∧ gated.copyStill 1 (cp 0 4) = some 0 ∧ (copying (cp 0 4)).copyGated 1 (cp 0 4) = none ∧
    (copying (cp 0 4)).copyStill 1 (cp 0 4) = none ∧ gated.copyGated 1 { cp 0 4 with bytes := 4 } = none ∧
    rowWaits .islandCommandDone {} { page0 with gated := true } = true ∧ rowWaits .islandCommandDone {} { page0 with reload := true } = false ∧
    rowWaits .blockFetch {} { page0 with reload := true } = true ∧ rowWaits .launch {} { page0 with gated := true } = false := by decide

/-- For CopyEngines. -/
theorem test_w_pointers : ({ base part1 (ops (some (tokV 5))) with parts := [{ part1 with engines := [(0, 0)] }] } : State).pageEngine = some 0 ∧ base.pageEngine = none ∧
    0 ≤ ((5 : Word) - 5).toInt ∧ ((4 : Word) - 5).toInt < 0 ∧ ((0x80000004 : Word) - 5).toInt > 0 := by decide

/-! #### Calls, system instructions and traps -/

/-- Memory with a block at 0x200000 (a RET), the descriptor of a one-page function of no arguments at 0x200100, of one at 0x200140 and of two at
0x200180, one of reserved arity 3 at 0x2001C0, and an image at 0x200200 whose function 0 is the first. -/
def descCells : List Host.Cell :=
  [(0x40000B, 0x1C), (0x400102, 0x20), (0x400142, 0x20), (0x400151, 1), (0x400152, 2), (0x400182, 0x20), (0x400191, 2), (0x400192, 2), (0x4001C2, 0x20), (0x4001D1, 3), (0x4001D2, 3),
   (0x400210, 1), (0x400218, 0x40), (0x400241, 1), (0x400242, 0x20)]
def descOf (va ar : Nat) : Desc :=
  { va := va, entries := [0x200000], handler := 0, w := 1, h := 1, arity := ar, results := 0, nregs := if ar = 0 then 0 else if ar = 3 then 3 else 2, depth := 0, foldable := false,
    ckptable := false, killable := false, recursive := false, prio := 0, hint := 0, image := 0 }
def inImage : Inst := { inst5 with image := 0x200200, descVa := 0x200140 }
/-- A call with operands; DEFHL names a default handler or none. -/
def calling (c : Cur := ops) (def' : Nat := 0) : State :=
  { base { part1 with insts := [inImage], csr := [(0x094, BitVec.ofNat 32 def'), (0x092, 0x20000)] } c with mem := cells ++ descCells }

set_option maxRecDepth 8000 in
/-- For CallsLeave. -/
theorem test_w_calls : ((calling).page 1 0).fire? 7 = some fire7 ∧ calling.cur.verdict 0 = .run ∧ calling.pending 1 .pelorusRound = false ∧
    kget calling.curAct.descs 0 = none ∧ (calling.functionDesc 1 0x200200 0).toOption = some (descOf 0x200100 0) ∧
    (calling.readDesc 1 0x200140).toOption = some (descOf 0x200140 1) ∧ (calling.readDesc 1 0x200180).toOption = some (descOf 0x200180 2) ∧
    (calling.readDesc 1 0x2001C0).toOption = some (descOf 0x2001C0 3) ∧ (calling.readDesc 1 0x400000).toOption = none ∧
    ((calling (ops (some (tokV 0x200180)) (some (tokV 1)) (some (tokV 2)))).curAct.blk / 2 ^ 32 * 2 ^ 32 + 0x200180) % 64 = 0 ∧ 0x200181 % 64 ≠ 0 ∧
    ((calling (def' := 0x200140)).defaultHandler 1).bind Except.toOption = some (descOf 0x200140 1) ∧ (calling.defaultHandler 1).isNone = true ∧
    ((calling (def' := 0x400000)).defaultHandler 1).isSome = true ∧ ((calling (def' := 0x400000)).defaultHandler 1).bind Except.toOption = none := by decide

/-- For SystemForms. -/
theorem test_w_system : bitAt (({ part1 with csr := [(0x100, 1)] } : Part).csrN 0x100) 0 = true ∧ bitAt (part1.csrN 0x100) 0 = false ∧ part1.tracing = false ∧
    ({ part1 with csr := [(0x100, 2), (0x132, 1)] } : Part).tracing = true ∧ (0x002 : BitVec 14).toNat ≤ 2 ∧ (base.page 1 0).num ∈ part1.clusterOf 0 := by decide

/-- For RegisterWrites. R7: a field of each access code, with a bit that no field holds. -/
theorem test_w_registers : (∃ d ∈ csrMap, ∃ f ∈ d.fields, f.acc = .rw) ∧ (∃ d ∈ csrMap, ∃ f ∈ d.fields, f.acc = .ro) ∧ (∃ d ∈ csrMap, ∃ f ∈ d.fields, f.acc = .rc) ∧
    (∃ d ∈ csrMap, ∃ f ∈ d.fields, f.acc = .wo) ∧ (∃ d ∈ csrMap, ∀ f ∈ d.fields, (31 : Nat) < f.lo ∨ f.hi < 31) := by decide

def trapped (t : TrapRec) (k : Nat := 2) : State :=
  base { part1 with insts := [{ inst5 with status := .frozen, trapRec := some t }], csr := [(0x090, 0x200000), (0x092, BitVec.ofNat 32 (k * 65536))] } {} (to7)
def rec5 : TrapRec := trapAt 0 act5 0 0x04 4 0x200002

/-- For TakingATrap. -/
theorem test_w_traps : (base.part 1).inst? 5 = some inst5 ∧ isTrapTag rec5.tag = false ∧ rec5.code ≠ 255 ∧ ({ rec5 with code := 255 } : TrapRec).code = 255 ∧ inst5.status = .running ∧ bits (part1.csrN 0x092) 27 16 = 0 ∧
    bits (((trapped rec5).part 1).csrN 0x092) 27 16 = 2 ∧ ((trapped rec5).inst 1 5).status ≠ .running ∧ rec5.double = false ∧ rec5.area = none ∧ rec5.cycle = [] ∧
    64 + 16 * 0 ≤ ((trapped rec5).part 1).areaSize ∧ ((trapped rec5).writePinned 1 4 0x200000 (rec5.header inst5 0 0 64)).toOption.isSome = true ∧
    ((trapped { rec5 with waited := true } 0).inst 1 5).trapRec = some { rec5 with waited := true } := by decide

/-- For TakingATrap. -/
theorem test_w_handlers : ((trapped rec5).inst 1 5).handler = 0 ∧ ((trapped rec5).inst 1 5).descVa ≠ ((calling (def' := 0x200140)).part 1).base64 0x094 6 ∧
    ((trapped rec5).defaultHandler 1).isNone = true ∧ ({ inst5 with handler := 8 } : Inst).handler ≠ 0 ∧ (base.page 1 0).liveCtx < 4 ∧
    ((trapped { rec5 with area := some 0 }).readFrame 1 ((trapped { rec5 with area := some 0 }).inst 1 5)).isSome = true ∧
    ((trapped rec5).inst 1 5).gen = 1 ∧ ((trapped rec5).inst 1 5).saving = none := by decide

/-- Iteration 1 of a loop whose iterations below a number have committed. -/
def iter1 : Act := { act5 with tag := tagIter tag5 1, role := .iter, iter := 1, holder := tag5 }
def looped (retired : Nat) : State :=
  base (onPage { page0 with acts := [{ act5 with looping := some { n := 40, body := 0x200000, hdr := 0, mask := 0, words := [opw 0x0E 0], next := 2, retired := retired, ready := 100 } }, iter1] })

/-- For TakingATrap. R162: a trap of iteration 1 before and after iteration 0 has committed, and one of the block itself. -/
theorem test_w_early : (looped 0).early 1 (trapAt 0 iter1 0 0x04 4 0x200002) = some iter1 ∧ (looped 1).early 1 (trapAt 0 iter1 0 0x04 4 0x200002) = none ∧
    (looped 0).early 1 rec5 = none ∧ isTrapTag (tagIter tag5 1) = false ∧ ((looped 0).part 1).inst? 5 = some inst5 := by decide

/-! #### Blocks and arrivals -/

def next5 (entry : Bool := true) : NextBlk := { tag := tag5, id := 5, strand := 0, blk := 0x200000, entry := entry, ready := 108 }
def fetching (n : NextBlk := next5) (fs : List Fire := []) : State :=
  { base { part1 with pages := [{ num := 0, nexts := [n], fires := fs }] } {} (to7) with mem := cells ++ [(0x40000B, 0x1C)] }

set_option maxRecDepth 8000 in
/-- For BlocksGoOn. -/
theorem test_w_fetch : (fetching.page 1 0).nexts.find? (fun m => m.tag == tag5) = some next5 ∧ fetching.mayRun 1 5 tag5 = true ∧
    (fetching.page 1 0).undrained 5 0 tag5 false = false ∧ ((fetching next5 [{ fire7 with phase := .engine }]).page 1 0).undrained 5 0 tag5 false = true ∧
    ((fetching.inst 1 5).strand? 0).any (fun t => t.stopReq) = false ∧ (fetching.page 1 0).act? tag5 = none ∧
    (fetching.loadBlock 1 inst5 0 true .entry 0x200000).toOption.isSome = true ∧ (fetching.loadBlock 1 inst5 0 true .entry 0x400000).toOption = none := by decide

def exit5 : ExitRec := { addr := 0x200000, num := 0, slot := 0, fid := 7 }
def done5 (a : Act := act5) : Act := { a with exit := some exit5, commitAt := some 100 }
def committing (a : Act) (y : Page := {num := 0}) : State := base (onPage { y with acts := [a] }) {} (to7)

/-- For BlocksGoOn. -/
theorem test_w_commit : ((committing (done5)).page 1 0).act? tag5 = some (done5) ∧ (committing (done5)).mayRun 1 5 tag5 = true ∧ (done5).role = .main ∧ (done5).latched = none ∧
    ((committing (done5)).commitWaits 1 0 (done5) .blockCommit).isNone = true ∧ ((committing { done5 with latched := some (2, 8, 0, 7) }).commitWaits 1 0 (done5) .blockCommit).isNone = true ∧
    ((committing (done5)).commitWaits 1 0 (done5) .iterationRetire).isNone = true ∧ (base.part 1).inst? 5 = some inst5 ∧ inst5.wins[1]? = some memWin := by decide

/-- For BlocksGoOn. A block of a configuration that the page holds already, and the last block of a handler. -/
theorem test_w_ends : ({ num := 0, ctxs := [0x400000] } : Page).ctxs.contains 0x400000 = true ∧ (fetching.page 1 0).ctxs.contains 0x400000 = false ∧
    ((committing { done5 with role := .msg 0, exit := some { exit5 with ret := true } }).commitWaits 1 0 { done5 with role := .msg 0, exit := some { exit5 with ret := true } } .blockCommit).isNone = true ∧
    ({ exit5 with ret := true } : ExitRec).ret = true ∧ (Role.msg 0) ≠ .main := by decide

/-- For BlocksGoOn. A register delivery, a null one, a window part of each kind, and one store. -/
theorem test_w_commits : (∀ d ∈ [((63 : Nat), ({ tok := tokNull, fid := 1 } : Arr))], d.1 = 63 → d.2.tok.null = true) ∧ (63, ({ tok := tokV 9, fid := 1 } : Arr)) ∈ [((63 : Nat), ({ tok := tokV 9, fid := 1 } : Arr))] ∧
    (tokV 9).null = false ∧ 63 < inst5.regs.length ∧ (base.part 1).posted = [] ∧
    ({ act5 with stores := [{ lsid := 31, slot := 0, fid := 7, kind := 1, va := 0x200004, key := 0x400004, size := 4, data := 9, so := true }] } : Act).nulled = [] ∧
    ({ act5 with setws := [(0, 1, 2, 5)] } : Act).setws = [(0, 1, 2, 5)] := by decide

def loop5 (n next retired : Nat) : LoopRec := { n := n, body := 0x200000, hdr := 0, mask := 0, words := [opw 0x0E 0], next := next, retired := retired, ready := 100 }
/-- For BlocksGoOn. -/
theorem test_w_iterations : ((committing { act5 with looping := some (loop5 40 32 1) }).page 1 0).act? tag5 = some { act5 with looping := some (loop5 40 32 1) } ∧
    (loop5 40 32 1).stopped = false ∧ (loop5 40 32 1).words ≠ [] ∧ 0 < (loop5 40 32 1).next ∧ (loop5 40 32 1).next < (loop5 40 32 1).retired + 32 ∧
    ((committing { act5 with looping := some (loop5 40 32 1) }).page 1 0).act? (tagIter tag5 32) = none ∧ (loop5 40 32 0).retired + 32 ≤ (loop5 40 32 0).next ∧
    (loop5 32 32 1).n ≤ (loop5 32 32 1).next := by decide

/-- For BlocksGoOn. -/
theorem test_w_follows : (done5).exit = some exit5 ∧ (done5).role = .main ∧ (committing (done5)).parts = [onPage { num := 0, acts := [done5] }] ∧ exit5.ret = false ∧
    part1.inst? 5 = some inst5 ∧ inst5.strand? 0 = some { num := 0, pg := 0, gen := 1 } := by decide

/-- An arrival of a token for a target of page 0. -/
def arrival (tg : Target) (y : Page := page0) (l : List Nat := []) : State := base (onPage y) {} { to7 with tg := tg, tok := tokV 9, l := l, fid := 3 }
def ent (k : Nat) (l : Option Arr) : Entry := { tile := k, tag := tag5, l := l, since := 90 }

/-- For ArrivalsAtAPage. -/
theorem test_w_arrivals : part1.inst? (tagId tag5) = some inst5 ∧ inst5.gen = tagGen tag5 ∧ inst5.gen ≠ tagGen (tagOf 5 2) ∧ tagId (tagOf 5 2) = 5 ∧ inst5.inject = none ∧
    page0.gated = false ∧ page0.reload = false ∧ page0.act? tag5 = some act5 ∧ act5.looping = none ∧ (∀ e ∈ page0.ents, e.tile ≠ 63) ∧ page0.spill = [] ∧
    ({ page0 with ents := [ent 63 (arr 1)] } : Page).ents.find? (fun e => e.tile == 63 && e.tag == tag5) = some (ent 63 (arr 1)) ∧
    (ent 63 (arr 1)).at .l = arr 1 ∧ (arrival .none page0 [0x200000, 7, 63, 0]).arg.l = [0x200000, 7, 63, 0] ∧
    page0.behind (.queue .l 63) 3 = false ∧ inst5.save = none ∧ act5.id = inst5.id ∧ act5.exit = none := by decide

def spilt : Spilled := { tile := 63, tag := tag5, pos := .c, arr := { tok := tokV 9, fid := 3 }, slot := 0 }
def ldDone : Fire := { load 0x40 4 with acted := true }
/-- For ArrivalsAtAPage. -/
theorem test_w_returns : (({ page0 with spill := [spilt] } : Page).spill = [spilt]) ∧ spilt.tile < 64 ∧ (∀ w ∈ part1.pages, w.held = []) ∧ ((onFire ldDone).page 0).fire? 7 = some ldDone ∧
    ldDone.acted = true := by decide

def msgd (csr : List (Nat × Word)) : Part := { part1 with insts := [{ inst5 with strands := [{ num := 0, pg := 0, csr := csr }] }] }
set_option maxRecDepth 8000 in
/-- For ArrivalsAtAPage. -/
theorem test_w_messages : (msgd []).inst? 5 = some { inst5 with strands := [{ num := 0, pg := 0 }] } ∧ ({ num := 0, pg := 0 } : Strand).csrN 0x040 = 0 ∧
    ({ num := 0, pg := 0 } : Strand).csrN 0x041 = 0 ∧ ({ num := 0, pg := 0 } : Strand).ended = false ∧ (∃ z ∈ (msgd []).pages, z.num = 0) ∧ page0.msgs = [] ∧ page0.msgWait = [] ∧
    ({ num := 0, pg := 0 } : Strand).pendAt = [] ∧ inst5.live = true ∧ ((base).readTable 1 ((0 * 2 ^ 32 + 0x200008 / 16 * 16 + 16 * 15) % 2 ^ 64) 16).toOption = some 0 := by decide

/-! #### Quiescence and placement -/

def q3 : QRegion := { n := 3, isOpen := true, members := [5] }
def region (q : QRegion) : Part := { part1 with qregs := [q] }
/-- For QuiescenceRegions. -/
theorem test_w_regions : (∀ r ∈ part1.qregs, r.isOpen = true → r.n ≠ 15 ∧ 5 ∉ r.members) ∧ ((region q3).region 3).isOpen = true ∧ q3.older.length < 3 ∧
    3 ≤ ({ q3 with older := [(0, 1), (1, 2), (2, 3)] } : QRegion).older.length ∧ (∃ r ∈ (region q3).qregs, r.isOpen = true ∧ 5 ∈ r.members) ∧ (part1.region 15).isOpen = false := by decide

def parkF : Fire := { fire7 with phase := .parked }
def waves (q : QRegion) : State := base { onFire parkF with qregs := [q] } {} (to7)
/-- For QuiescenceRegions. -/
theorem test_w_waves : (waves { q3 with qends := [(0, 7)], quiet := 1, totals := [5, 0] }).isQuiet 1 { q3 with qends := [(0, 7)], quiet := 1, totals := [5, 0] } = true ∧
    (waves { q3 with qends := [(0, 7)] }).totals 1 q3 = [5, 0] ∧ (waves { q3 with older := [(0, 50)] }).phaseBusy 1 q3 50 = false ∧
    (base { onFire { fire7 with phase := .out } with qregs := [q3] }).phaseBusy 1 q3 50 = true ∧ ((waves q3).page 1 0).fire? 7 = some parkF ∧ parkF.phase = .parked := by decide

def ask (k : ReqKind) : Request := { kind := k, desc := descOf 0x200100 0, pg := 0, since := 90 }
def twoPages (k : ReqKind) (w : Nat := 1) : Part :=
  { part1 with map := [(0, 0, 0, 0), (1, 1, 1, 0)], pages := [page0, { num := 1 }], requests := [{ ask k with desc := { descOf 0x200100 0 with w := w } }] }
set_option maxRecDepth 8000 in
/-- For Placement. -/
theorem test_w_rounds : (twoPages (.call 5 7)).requests = [ask (.call 5 7)] ∧ (ask (.call 5 7)).rect = [] ∧ (twoPages (.call 5 7)).frozen = false ∧
    (twoPages (.call 5 7)).vf.state ≠ .paused ∧ (twoPages (.call 5 7)).stepsTo4 0 [0] 1 1 ((twoPages (.call 5 7)).isFree 100) = some [1] ∧ (ask (.call 5 7)).saving = [] ∧
    (twoPages (.call 5 7)).reqPages (ask (.call 5 7)) 100 = [0] ∧ (twoPages (.call 5 7)).reqPg (ask (.call 5 7)) = 0 ∧
    (twoPages (.call 5 7)).rects 1 1 ≠ [] ∧ lowestFree ((twoPages (.call 5 7)).insts.map Inst.id) 65536 0 = some 0 ∧ (twoPages (.call 5 7) 4).rects 4 1 = [] := by decide

/-- For Placement. -/
theorem test_w_instances : (∃ x ∈ base.parts, x.num = 1) ∧ [3] ≠ ([] : List Nat) ∧ ([{}] : List Reg)[0]? = some ({} : Reg) ∧ inst5.gen ≠ 0 ∧
    ((base { part1 with posted := [owed] }).part 1).posted = [owed] ∧ inst5.strands = [{ num := 0, pg := 0, gen := 1 }] ∧ inst5.save = none ∧
    ({ inst5 with save := some { va := 0x200000, len := 4096, swap := false } } : Inst).save ≠ none ∧
    (base.fireOf 1 5 7) = some (0, fire7) ∧ (curOf 1 0 fire7).firstOrigin = none ∧ origOf (curOf 1 0 fire7).pt = none ∧
    (∀ st ∈ ({ inst5 with strands := [{ num := 0, pg := 0, ended := true, endAt := 92 }] } : Inst).strands, st.ended = true ∧ st.endAt + 8 ≤ 100) ∧ page0.liveCtx < 4 := by
  decide

/-- For Placement. -/
theorem test_w_roots : ∀ c fid, ReqKind.launch 0 0 ≠ .call c fid := by intro c fid h; cases h

/-! #### Guard, stores and peers -/

/-- For GuardAndStores. -/
theorem test_w_guard : (base.translate part1 0x200000).toOption.isSome = true ∧ (base.translate part1 0x400000).toOption = none ∧ (∃ x ∈ base.parts, x.num = 1) ∧
    0x400004 / 64 ∉ base.badLines ∧ 0x400004 / 64 ∈ ({ base with badLines := [0x10000] } : State).badLines ∧ part1.frozen = false ∧
    (base.guardPage 0x400).major + 1 < 2 ^ 64 ∧ (({ base with guard := [{ pg := 0x400, major := 2 ^ 64 - 1 }] } : State).guardPage 0x400).major + 1 = 2 ^ 64 ∧
    ((base.tree.find? (fun t => t.1 == 0 && t.2.1 == 1)).map (fun t => t.2.2)).getD 0 + 1 < 2 ^ 56 ∧
    (((({ base with tree := [(0, 1, 2 ^ 56 - 1)] } : State).tree.find? (fun t => t.1 == 0 && t.2.1 == 1)).map (fun t => t.2.2)).getD 0) + 1 = 2 ^ 56 := by decide

/-- For GuardAndStores. R375, R378: whatever a line's bytes are, some side-band word fails its check. -/
theorem test_w_bad_line (s : State) (line : Nat) (c : List Nat) : ∃ side, s.lineGood line c side = false := by
  refine ⟨lineMac (keyOf (s.keyAt (line * 64))) (line * 64) (s.guardPage (line / 64)).major ((s.guardPage (line / 64)).minor (line % 64)) c + 1, ?_⟩
  simp only [State.lineGood, beq_eq_false_iff_ne, ne_eq]
  omega

/-- The leaf of VA 0x200000 replaced. -/
def remapped (pte : Nat) : State := base.memWrite 0x10008 (leBytes 8 pte)

/-- For GuardAndStores. R211: a leaf made invalid may still be used; an invalidation that names another page of 2 MiB leaves it so. -/
theorem test_w_old : (remapped 0).oldPtes = [{ p := 1, addr := 0x10008, old := 0x200000001002800F }] ∧
    ((remapped 0).walkNow part1 0x200004).toOption = none ∧ ((remapped 0).oldLeaves part1 0x200004).map Leaf.pa = [0x400004] ∧
    (({ remapped 0 with oldPtes := (remapped 0).oldPtes.map (fun r => { r with dead := [0x400000] }) } : State).oldLeaves part1 0x200004).map Leaf.pa = [0x400004] ∧
    (∀ r ∈ ({ base with oldPtes := [{ p := 1, addr := 0, old := 1, armed := true }] } : State).oldPtes, r.p = 1 → r.armed = true) := by decide +kernel

/-- R211: an invalidation that names a VA of the page, and one of all, end that; a change of a word outside the tables is no change of an entry. -/
theorem test_invalidate : (({ remapped 0 with oldPtes := (remapped 0).oldPtes.map (fun r => { r with dead := [0x3F0000] }) } : State).oldLeaves part1 0x200004) = [] ∧
    ((remapped 0).oldPtes.map (fun r => { r with armed := true })).filterMap (OldPte.after 1 1 0) = [] ∧
    ((base.memWrite 0x20000 [1]).memWrite 0x20000 [2]).oldPtes = [] := by decide +kernel

/-- R209, R330, R370, R380: a leaf of level 1 outside the partition's regions fails at level 1; a walk that reads a failing line answers its key. -/
theorem test_walk_fails : (match (remapped 0x200000010000000F).walkNow part1 0x200000 with
      | .error n => n
      | .ok _ => 9) = 1 ∧ ({ base with badLines := [0x400] } : State).walkFail part1 0x200000 = some 0x10000 := by decide +kernel

set_option maxRecDepth 8000 in
/-- For GuardAndStores. -/
theorem test_w_stores : (∀ w ∈ base.windows, 0x400004 >>> 26 ∉ w.regions) ∧ (part1.vf.held.length < 256) ∧ (part1.place? 0).map (fun z => z.1 / 16) = some 0 ∧ (∃ y ∈ part1.pages, y.num = 0) ∧
    2 ≤ (({ base with cfgErrs := [(0, 0, 1), (0, 0, 2)] } : State).cfgErrs.filter (fun e => e.2.1 == 0)).length ∧ (onPage { num := 0 }).pages = [{ num := 0 }] ∧
    fetching.rewritten 1 0x200000 0 0 [0x1C000000] = none ∧ fetching.rewritten 1 0x200000 0 0 [0x1C000001] = some 0 ∧
    ((fetching.takeTrap 1 5 (trapAt 0 act5 0 0x05 0x18 0)).loadBlock 1 ((fetching.takeTrap 1 5 (trapAt 0 act5 0 0x05 0x18 0)).inst 1 5) 0 true .entry 0x400000).toOption = none := by decide

/-- A partition that accepts every partition of device 9 and takes writes to 0x200000 to 0x20FFFF. -/
def open' : Part := { part1 with csr := [(0x0F8, 0x200000), (0x0FA, 1), (0x0FB, 0xC0000009)] }
def pw : PeerWrite := { n := 4, p := 1, num := 7, elem := 1, peer := 9, va := 0x200000, data := [1] }
def sending (w : PeerWrite := pw) (c : CopyCmd := { cp 4 4 with flying := 1 }) (z : Nat := 0) (l : List Nat := []) : State := { copying c { to7 4 with z := z, l := l } with peerOut := [w] }
/-- For Peers. -/
theorem test_w_peers : open'.live = true ∧ open'.frozen = false ∧ open'.accepts 9 63 = true ∧ open'.accepts 8 0 = false ∧ base.peerCmd 0 = none ∧ open'.inIngress 0x20FFFF 1 = true ∧
    open'.inIngress 0x20FFFF 2 = false ∧ ((base open').ingressPieces 1 3 0x20FFFF 1).toOption = some [⟨0x20FFFF, 0x40FFFF, 0x200000001002800F, 1⟩] ∧ base.badAt 0x40FFFF 1 = false ∧
    ((base open').copyPut [⟨0x20FFFF, 0x40FFFF, 0, 1⟩] [1]).peerCmd 0 = none ∧ ((base { open' with objs := [{ h := 3, st := .word 9 }], csr := [(0x0C2, 0x10001)] }).postAdd 1 3).toOption.isSome = true ∧
    ((base { open' with objs := [{ h := 3, st := .lock none }], csr := [(0x0C2, 0x10001)] }).postAdd 1 3).toOption = none := by decide +kernel

set_option maxRecDepth 8000 in
/-- For Peers. -/
theorem test_w_acks : (sending).peerCmd 4 = some (pw, { cp 4 4 with flying := 1 }) ∧ (sending { pw with sig := true }).peerCmd 4 = some ({ pw with sig := true }, { cp 4 4 with flying := 1 }) ∧
    (sending (z := 4) (l := [4, 1, 0])).arg.l = [4, 1, 0] ∧ base.peerCmd 0 = none ∧ (∀ n ∈ List.range 15, n ∈ ({ base with ports := List.range 15 } : State).ports) ∧
    part1.ownPeer 9 = false ∧ (cp 4 4).total = 4 ∧ (cp 4 4).stopping = false ∧ ({ cp 4 4 with sent := 4 } : CopyCmd).total ≤ 4 := by decide

/-! #### Helm -/

/-- A queue descriptor at 0x200000 for die 0 with its entry at 0x200100, head 0 and tail 1; the entry's chart at 0x200200 with node 0; node 0. -/
def helmCells (tail : Byte := 1) (die : Byte := 0) (ty : Byte := 7) (base0 : Byte := 0) : List Host.Cell :=
  ([(0x400001, 1), (0x400002, 0x20), (0x400009, die), (0x40000E, tail), (0x400100, base0), (0x400101, 2), (0x400102, 0x20), (0x400200, ty), (0x400202, 1)]).filter (fun c => c.2 != 0)
def helmP : Part := { part1 with helmDies := [0], csr := [(0x0E0, 0x200000), (0x0E2, 1), (0x0C2, 0x10001)] }
def slot0 (raw : Nat := 0) (w : HelmWait := .none) : HelmSlot :=
  { die := 0, num := 0, p := 1, q := 0, serial := 4, dva := 0x200000, eva := 0x200100, base := 0x200200, raw := raw, wait := w, slice := 85000 }
def helm (z : List HelmSlot := [slot0]) (m : List Host.Cell := helmCells) (x : Part := helmP) (a : Args := { p := 1, fid := 4 }) : State :=
  { base x {} a with mem := cells ++ m, helmSlots := z }

set_option maxRecDepth 8000 in
/-- For HelmQueues. -/
theorem test_w_doorbells : ((helm []).part 1).csrN 0x0E2 % 2048 = 1 ∧ ((helm []).helmRead 1 (helmP.queueVa 0) 20).isSome = true ∧
    ((helm [] helmCells { helmP with csr := [(0x0E0, 0x400000), (0x0E2, 1)] }).helmRead 1 0x400000 20).isNone = true ∧
    fieldAt (((helm []).helmRead 1 0x200000 20).getD 0) 9 1 = 0 ∧ (0 : Nat) ∈ helmP.helmDies ∧ fieldAt (((helm [] (helmCells 1 3)).helmRead 1 0x200000 20).getD 0) 9 1 ∉ helmP.helmDies ∧
    helmP.frozen = false ∧ helmP.vf.state ≠ .paused ∧ (helm []).queueWork 1 0 = some 0 ∧ (helm [] (helmCells 0)).queueWork 1 0 = none := by decide

set_option maxRecDepth 8000 in
/-- For HelmQueues. -/
theorem test_w_slots : lowestFree (((helm []).helmSlots.filter (fun z => z.die == 0)).map HelmSlot.num) 64 0 = some 0 ∧ ({ helm [] with helmLine := [(0, 1, 0)] } : State).lineOf 0 = [(0, 1, 0)] ∧
    (∀ z ∈ (helm []).helmSaved, ¬(z.p = 1 ∧ z.q = 0)) ∧ (helm []).lineOf 0 = [] ∧ (helm []).slot? 0 0 = none ∧ (helm).slot? 0 0 = some slot0 ∧ slot0.wait = .none ∧
    ({ helm [slot0 0 (.word 3 1)] with now := 85000 } : State).slot? 0 0 = some (slot0 0 (.word 3 1)) ∧ (slot0 0 (.word 3 1)).slice ≤ 85000 ∧
    (helm.helmRead 1 0x200100 64).isSome = true ∧ fieldAt ((helm.helmRead 1 0x200100 64).getD 0) 0 8 % 64 = 0 ∧
    fieldAt (((helm [slot0] (helmCells 1 0 7 1)).helmRead 1 0x200100 64).getD 0) 0 8 % 64 ≠ 0 ∧
    nodeRow (fieldAt ((helm.helmRead 1 0x200200 64).getD 0) 0 1) = some .helmEnd ∧ nodeRow (fieldAt (((helm [slot0] (helmCells 1 0 8)).helmRead 1 0x200200 64).getD 0) 0 1) = none ∧
    (helm.translate helmP 0x200000).toOption.isSome = true ∧ helm.walkFail helmP 0x200000 = none ∧ (helm.readVa 1 0x400000 20 false).toOption = none ∧ helm.walker 1 0 = some slot0 := by decide

/-- A node: its type, flags, next node, and the bytes from +8. -/
def node (ty fl : Nat) (rest : Nat) : Nat := ty + 256 * fl + 65536 * 1 + rest * 2 ^ 64

set_option maxRecDepth 8000 in
/-- For HelmNodes. -/
theorem test_w_nodes : (helm [slot0 (node 1 0 0x200100)]).argSlot = some (slot0 (node 1 0 0x200100)) ∧ (slot0 (node 1 0 0x200100)).f 8 8 = 0x200100 ∧ 0x200100 % 64 = 0 ∧
    ({ helm with mem := cells ++ descCells } : State).launchWins 1 0 0 0 = some (List.replicate 8 {}) ∧ helm.launchWins 1 0x400000 1 0 = none ∧
    ((slot0 (node 2 1 (0x200000 + 4 * 2 ^ 64))).f 16 1 = 4 ∧ (slot0 (node 2 1 (0x200000 + 4 * 2 ^ 64))).flag 0 = true) ∧ (0, 0) ∈ ({ helmP with engines := [(0, 0)] } : Part).engines ∧
    (slot0 (node 3 0 (3 + 9 * 2 ^ 32))).f 8 4 = 3 ∧ (slot0 (node 3 0 (3 + 9 * 2 ^ 32))).f 12 4 = 9 ∧ helmP.handleOk 3 = true ∧ helmP.handleOk 0x8000 = false ∧ (helm).objFault 1 3 = none ∧
    helmP.inMemory 0x100 = true ∧ (helm.objFault 1 0x100).isSome = true ∧ ((helm [slot0] helmCells { helmP with objs := [{ h := 3, st := .word 9 }] }).obj 1 3).st = .word 9 ∧
    (helm.obj 1 3).st = .free ∧ ((helm [slot0] helmCells { helmP with objs := [{ h := 3, st := .lock none }] }).obj 1 3).st = .lock none ∧ (helm.postWord 1 3 id).toOption.isSome = true ∧ (helm.postWord 1 0x8000 id).toOption = none := by decide

set_option maxRecDepth 8000 in
/-- For HelmNodes. -/
theorem test_w_chart : (slot0 (node 5 0 0x200200)).f 8 8 = 0x200200 ∧ helm.helmRead 1 0x200200 4 = some 0x10007 ∧ helm.helmRead 1 0x200300 4 = some 0 ∧ helm.helmRead 1 0x400000 4 = none ∧
    (kget (slot0).loops 0).getD 0 < (slot0 (node 6 0 (1 + 2 ^ 128 * 3))).f 24 4 ∧ ({ slot0 with loops := (List.range 8).map (fun k => (k + 1, 1)) } : HelmSlot).loops.length = 8 ∧
    ({ slot0 with loops := [(0, 3)] } : HelmSlot).loops = [(0, 3)] ∧ helm.helmRead 1 0x200000 20 ≠ none ∧ helm.now < slot0.slice ∧ (helm []).argSlot = none := by decide

/-- A queue that waits, in its slot or saved. -/
def waiting (w : HelmWait) : State := helm [slot0 0 w]
def parked (w : HelmWait) : State := { helm [] with helmSaved := [slot0 0 w] }

/-- A COPY node's command. -/
def helmCopy : CopyCmd := { num := 7, eng := 0, ch := 0, src := .helm 0 0 0 0x200100, form := 0, descVa := 0x200000, desc := 0, win := wholeSpace, sw := wholeSpace, dw := wholeSpace }
def copier : State := { helm [slot0] helmCells { helmP with engines := [(0, 0)] } with mem := cells ++ copyDesc }

/-- For HelmNodes. Each wait met by a queue in its slot, by a saved one, and by none. -/
theorem test_w_waits : (waiting (.go 100)).queueSlot 1 0 = some (slot0 0 (.go 100)) ∧ (helm []).queueSlot 1 0 = none ∧ (waiting (.word 3 9)).queueSlot 1 0 = some (slot0 0 (.word 3 9)) ∧
    (waiting (.go 101)).now < 101 ∧ (waiting (.copy 7)).waiter 1 (.copy 7) = some (slot0 0 (.copy 7)) ∧ (parked (.copy 7)).waiter 1 (.copy 7) = some (slot0 0 (.copy 7)) ∧
    helm.waiter 1 (.copy 7) = none ∧ (waiting .grant).walker 1 0 = some (slot0 0 .grant) ∧ (parked .grant).walker 1 0 = some (slot0 0 .grant) ∧ (helm []).walker 1 0 = none ∧
    (slot0 0 .grant).wait = .grant ∧ (parked .grant).queueSlot 1 0 = none ∧ (slot0 (node 1 1 0)).flag 0 = true ∧ (slot0 (node 1 0 0)).flag 0 = false ∧
    (waiting (.inst 5 1)).waiter 1 (.inst 5 1) = some (slot0 0 (.inst 5 1)) ∧ helm.waiter 1 (.inst 5 1) = none ∧ bitAt 0x8000 15 = true ∧ bitAt 3 15 = false ∧
    helm.queueSlot 1 0 = some slot0 := by decide

set_option maxRecDepth 8000 in
/-- For HelmNodes. A copy whose descriptor is read or cannot be, and a result VA that is mapped, not mapped, or reached through a failing line. -/
theorem test_w_launched : (copier.copyReach 1 helmCopy none).toOption.isSome = true ∧ (copier.copyReach 1 { helmCopy with descVa := 0x400000 } none).toOption = none ∧
    (helm.translate (helm.part 1) 0x200000).toOption.isSome = true ∧ (helm.translate (helm.part 1) 0x400000).toOption = none ∧ helm.walkFail (helm.part 1) 0x200000 = none ∧
    ({ helm with badLines := [0x400] } : State).walkFail (helm.part 1) 0x200000 = some 0x10000 ∧ helm.badAt 0x400000 4 = false ∧
    ({ helm with badLines := [0x10000] } : State).badAt 0x400000 4 = true ∧ ({ helm with badLines := [0x10000] } : State).walkFail (helm.part 1) 0x200000 = none := by decide +kernel

/-! #### Saves and pre-emption -/

def savingI (v : Saving := { why := 0, asked := 90 }) : Inst := { inst5 with saving := some v, strands := [{ num := 0, pg := 0, stopReq := true, stopped := true }] }
def saved (i : Inst := savingI) : State := base { part1 with insts := [i], csr := [(0x0B2, 0x200000), (0x0B4, 64)] } {} { to7 90 with z := 1 }

set_option maxRecDepth 8000 in
/-- For SavesAndPreemption. -/
theorem test_w_saves : saved.inst 1 5 = savingI ∧ savingI.status = .running ∧ savingI.trapRec = none ∧ saved.hasHandler 1 savingI = false ∧ (∀ t ∈ savingI.strands, saved.atBoundary 1 savingI t = true) ∧
    (∃ t ∈ ({ savingI with strands := [{ num := 0, pg := 0 }] } : Inst).strands, saved.atBoundary 1 savingI t = false) ∧ ({ why := 0, asked := 90 } : Saving).asked = saved.arg.x ∧
    (saved.takeRun 1 false 1).isSome = true ∧ (base.takeRun 1 false 1).isNone = true ∧ (saved.part 1).inst? 5 = some savingI ∧ inst5.saving = none ∧
    ({ why := 0, asked := 90, run := some (0, 1), va := 0x200000 } : Saving).run = some (0, 1) ∧
    (saved.writePinned 1 2 0x200000 (saved.recordBytes 1 savingI 0 4096 [])).toOption.map State.parts = some saved.parts ∧
    (saved.writePinned 1 2 0x400000 (saved.recordBytes 1 savingI 0 4096 [])).toOption = none := by decide +kernel

/-- An RFT that names the instance, on its way. -/
def resuming (i : Inst := savingI) : State := { saved i with agenda := [⟨110, 0, 0, .row .replayInject { p := 1, id := 5, x := 1 }⟩] }
def keptFrozen : Inst := { inst5 with status := .saved, trapRec := some rec5, save := some { va := 0, len := 0, swap := false } }
set_option maxRecDepth 8000 in
/-- For SavesAndPreemption and Traps. R340, R358, R360: a save waits for a re-injection that is about to begin, and a record keeps an RFT's resumption. -/
theorem test_w_resuming : resuming.hasHandler 1 savingI = true ∧ savingI.saving = some { why := 0, asked := 90 } ∧ keptFrozen.stopped = true ∧ inst5.stopped = false ∧
    ({ inst5 with status := .frozen } : Inst).stopped = true ∧ keptFrozen.trapRec ≠ none ∧ (∀ b ∈ page0.acts, b.rewrote = false) ∧ part1.copies = [] ∧ part1.posted = [] ∧
    base.helmCopying 1 = false ∧ ({ base with agenda := [⟨1, 0, 0, .row .copy { p := 1, z := 1 }⟩] } : State).helmCopying 1 = true := by decide

/-- A record at 0x200000 without entries, and a pre-emption's counts. -/
def record (held : List (Instr × Args) := []) : SaveRec := { va := 0x200000, len := 4096, swap := false, held := held }
def decided (i : Inst) (minEst : Word := 0) : State := base { part1 with insts := [i], csr := [(0x0B0, minEst)] }

set_option maxRecDepth 8000 in
/-- For SavesAndPreemption. -/
theorem test_w_preempts : (decided inst5).inst 1 5 = inst5 ∧ inst5.estNow 100 < ((decided inst5 5).part 1).csrN 0x0B0 ∧ ((decided inst5).part 1).csrN 0x0B0 ≤ inst5.estNow 100 ∧
    ((decided inst5).part 1).csrN 0x0B1 % 32 = 16 ∧ inst5.ckptable = false ∧ inst5.killable = false ∧ 15 < 16 ∧ (∀ pg ∈ [0], part1.place? pg ≠ none) ∧ part1.place? 1 = none ∧
    ({ part1 with preempts := [{ pgs := [1], ptok := 15, accepted := true }] } : Part).preempts = [{ pgs := [1], ptok := 15, accepted := true }] ∧ base.pageClear 1 1 = true ∧ base.pageClear 1 0 = false ∧
    (part1.gsw.isNone = true) ∧ part1.inst? 6 = none ∧ inst5.gen ≠ 2 ∧ bitAt 8 3 = true := by decide

set_option maxRecDepth 8000 in
/-- For SavesAndPreemption. -/
theorem test_w_restores : (base.readVa 1 (record).va 960 false).toOption.isSome = true ∧ (base.readVa 1 0x400000 960 false).toOption = none ∧ (record).held = [] ∧ (record).area = [] ∧
    (record).islands = [] ∧ (base.readEntries 1 (min 0 (4096 / 16)) (0x200000 + 832 + 128 + 0)) = some [] := by decide

/-! #### The management function -/

def manage (a : Args := {}) (x : Part := part1) : State := { base x {} { a with p := 1 } with clusters := [(0, 0)], channels := [(0, 0)] }

set_option maxRecDepth 8000 in
/-- For ManagementCommands. -/
theorem test_w_commands : manage.power = .on ∧ (∃ y ∈ manage.parts, y.num = 1 ∧ y.live = true) ∧ part1.frozen = false ∧ (∀ y ∈ manage.parts, y.num ≠ 39) ∧ manage.pageOk 1 1 1 = true ∧ manage.pageOk 1 0 0 = false ∧
    manage.regionOk 1 = true ∧ manage.regionFree 1 = true ∧ manage.regionOk 31 = false ∧ manage.regionFree 0 = false ∧ (manage.parts.filter (fun y => y.engines.contains (3, 3))).length < 8 ∧
    (manage.parts.filter (fun y => y.helmDies.contains 3)).length < 10 ∧ manage.sumOver Part.share + 1024 ≤ 1024 ∧ 1024 < manage.sumOver Part.share + 1025 ∧
    manage.sumOver (fun y => (kget y.wftShare 3).getD 0) + 8192 ≤ 8192 ∧ part1.minOn 0 = (0, 0, 0) ∧ 16 ≤ manage.pageCount 0 ∧ part1.vf.state ≠ .paused ∧ part1.switching = false ∧
    (∀ i ∈ part1.insts, i.saving = none) ∧ (∀ z ∈ manage.helmSlots, z.p ≠ 1) ∧ (∀ i ∈ ({ part1 with insts := [] } : Part).insts, i.status = .saved ∨ i.status = .ended) ∧
    (∃ i ∈ part1.insts, i.status ≠ .saved ∧ i.status ≠ .ended) := by decide

/-- A detachment under way, and commands that wait for it. -/
def detaching (cmds : List (Instr × Args) := []) : State :=
  { manage {} { part1 with cmds := cmds } with agenda := [⟨164, 0, 0, .row .windetach { p := 1, x := 7, z := 1 }⟩] }
set_option maxRecDepth 8000 in
/-- For AStepRunsTheInstruction. R366: the commands of one partition act one at a time. -/
theorem test_w_in_order : (detaching).cmdBusy 1 = true ∧ manage.cmdBusy 1 = false ∧ cmdRow .setmin {} = true ∧ cmdRow .windetach { z := 1 } = false ∧ cmdEnd .windetach = true ∧
    cmdEnd .setmin = false ∧ ((detaching [(.setmin, {})]).part 1).cmds = [(.setmin, {})] ∧ (manage.part 1).cmds = [] := by decide

/-- For ManagementCommands. No queue of a partition without a Helm context holds work. -/
theorem test_w_idle : ∀ q, manage.queueWork 1 q = none := by
  intro q
  unfold State.queueWork
  split
  · rfl
  · rw [show (manage.part 1).helmDies = [] by decide]; simp

def win7 (ms : List (Nat × Nat)) : State := { manage { x := 7 } { part1 with wins := ms.map (fun m => (7, m.2)) } with windows := [{ n := 7, die := 0, regions := [2], members := ms }] }
/-- For WindowsAndMigration. -/
theorem test_w_windows : (∀ w ∈ manage.windows, w.n ≠ 63) ∧ (∃ w ∈ (win7 []).windows, w.n = 7 ∧ w.members.length < 8) ∧ kget ((win7 []).part 1).wins 7 = none ∧ kget ((win7 [(1, 3)]).part 1).wins 7 ≠ none ∧
    (win7 [(1, 3)]).windowBusy 1 7 = false ∧ (∃ w ∈ (win7 []).windows, w.n = 7 ∧ w.members = []) ∧ (∀ w ∈ (win7 [(1, 3)]).windows, w.n = 7 → w.members ≠ []) ∧
    (∀ w ∈ (win7 ((List.range 8).map (fun k => (k, 1)))).windows, w.n = 7 → 8 ≤ w.members.length) ∧ (objs (syncF 0x58 0) .free).handleOk 0xFF = true ∧ (objs (syncF 0x58 0) .free).inMemory 0xFF = false := by decide

def migrant : Part := { part1 with insts := [], map := [], regions := [], hostLen := 64, vf := { state := .paused } }
set_option maxRecDepth 8000 in
/-- For WindowsAndMigration. -/
theorem test_w_migration : migrant.vf.state = .paused ∧ migrant.wins = [] ∧ migrant.map.length * 64 * (32768 + 1024) + migrant.regions.length * 2 ^ 26 ≤ 64 ∧ 0 + 64 ≤ migrant.hostLen ∧
    Mem.wf (base migrant).mem = true ∧ (∃ y ∈ (base migrant).parts, y.num = 1) ∧
    ({ base migrant with migs := [{ addr := 2 ^ 45, len := 0, start := 0, part := migrant, cells := [], fe := [] }] } : State).migs.find? (fun m => m.addr == 2 ^ 45 + migrant.hostBase + 0 && m.len == 0) =
      some { addr := 2 ^ 45, len := 0, start := 0, part := migrant, cells := [], fe := [] } := by decide

/-- For ManagementCommands, WindowsAndMigration. -/
theorem test_w_done : manage.power = .on ∧ ({ l := [1, 2] } : Args).l.eraseDups = [1, 2] ∧ (∀ r ∈ [1, 2], manage.regionOk r = true ∧ manage.regionFree r = true ∧ r / 2048 = [1, 2].headD 0 / 2048) ∧
    (objs (syncF 0x58 0) .free).handleOk 0x1FF = true ∧ (objs (syncF 0x58 0) .free).inMemory 0x1FF = true ∧ ((trapped rec5).inst 1 5).status = .frozen ∧
    ((trapped rec5).inst 1 5).gen = 1 ∧ ((trapped rec5).inst 1 5).saving = none ∧ (∃ y ∈ (trapped rec5).parts, y.num = 1 ∧ y.live = true) ∧
    ((trapped rec5).part 1).frozen = false ∧ (∀ i ∈ migrant.insts, i.status = .saved ∨ i.status = .ended) ∧ ((base migrant).part 1).frozen = false := by decide

theorem byte_empty (k : Nat) : Mem.byte [] k = 0 := rfl
theorem pte_empty (e : Nat) : Pte.v (Mem.num [] e 8) = false := by
  simp [Mem.num, Mem.bytes, byte_empty, ofLE, Pte.v, bitAt]

/-- For WindowsAndMigration. R387: tables of an empty memory move to themselves. -/
theorem test_w_tables (key : Nat → Nat) (l : List (Nat × Nat)) : ∀ n ts, movePfns key l n ts [] = some [] := by
  intro n
  induction n with
  | zero => intro ts; rfl
  | succ n ih =>
    intro ts
    have hf : ∀ xs : List Nat, xs.filter (fun _ => false) = [] := fun xs => List.filter_eq_nil_iff.mpr (by simp)
    simp only [movePfns, pte_empty, hf, List.foldl_nil]
    exact ih _

/-- For WindowsAndMigration. A buffer of no bytes, whose tables map nothing, loads. -/
theorem test_w_migload : (({ base migrant with mem := [] } : State).loadMig 1 { addr := 2 ^ 45, len := 0, start := 0, part := { migrant with root := 2 ^ 45 }, cells := [], fe := [] } []).isSome = true := by
  have h : (({ base migrant with mem := [] } : State).part 1) = migrant := by decide
  have h2 : moveAddr [] (2 ^ 45) = some (2 ^ 45) := by decide
  have h4 : migrant.insts = [] := by decide
  have h5 : migrant.regions = [] := by decide
  simp only [State.loadMig, h, h2, h4, h5, List.foldl_nil, test_w_tables]
  rfl

/-- For ResetLadder. -/
theorem test_w_resets : (∃ y ∈ helm.parts, y.num = 1 ∧ y.live = true) ∧ 0 < helmP.csrN 0x0E2 % 2048 ∧ (0 : Nat) ∈ helmP.helmDies ∧ (3 : Nat) ∉ helmP.helmDies ∧ helm.contextClear 1 3 = true ∧
    helm.contextClear 1 0 = false ∧ ((helm.startReset 2 1 0 10).clearContext 1 0).now = helm.now ∧
    (∃ r ∈ ({ helm with resets := [⟨2, 1, 0, 9⟩] } : State).resets, r.p = 1 ∧ r.x = 0 ∧ r.rung = 2) ∧ (∀ o ∈ migrant.objs, o.va = 0) ∧ migrant.preempts = [] ∧ migrant.map = [] ∧
    migrant.posted = [] ∧ migrant.insts = [] := by decide

def rooted : Part := { part1 with insts := [{ inst5 with origin := .launch 0 0x200000 0 }] }
set_option maxRecDepth 8000 in
/-- For ResetLadder. R357: what Helm started, with its result words in a page that can be written. -/
theorem test_w_killed_roots : ((base rooted).part 1).posted = [] ∧ inst5.status ≠ .ended ∧ (base rooted).walkFail rooted 0x200000 = none ∧
    ((base rooted).translate rooted 0x200000).toOption = some ⟨0x400000, 0x200000001002800F⟩ ∧ rooted.mayWrite ⟨0x400000, 0x200000001002800F⟩ = true ∧
    (base rooted).badAt 0x400000 8 = false := by decide +kernel

/-! #### Boot, power and heat -/

def booting (m : Module := {}) (z : Nat := 0) (br : List Nat := []) : State := { State.reset with module := m, arg := { z := z }, bridges := br }

set_option maxRecDepth 8000 in
/-- For BootAndPower. -/
theorem test_w_boot : (booting).bootFails = none ∧ (booting { failStep := 1, cause := 7 }).bootFails = some (1, 7) ∧ (booting { failStep := 4, cause := 9 } 1).bootFails = some (4, 9) ∧
    (booting {} 0 [6]).bootFails = some (3, 6) ∧ (booting { badClusters := (List.range 10).map (fun k => (2, k)) }).bootFails = some (5, 2) ∧
    (booting { badClusters := (List.range 9).map (fun k => (2, k)) }).bootFails = none := by decide

/-- A device with clusters 0 and 1 of die 0, and its spares. -/
def powered (a : Args) (x : Part := part1) (gone : List (Nat × Nat) := []) : State :=
  { base x {} a with clusters := [(0, 0), (0, 1)], channels := [(0, 0), (0, 65)], retired := gone, worn := gone }

set_option maxRecDepth 8000 in
/-- For BootAndPower. -/
theorem test_w_power : (powered {}).power = .on ∧ (booting).power ≠ .on ∧ (powered { x := 2600 }).arg.x ≤ 2600 ∧ 2600 < (powered { x := 2601 }).arg.x ∧ (powered {}).hot = false ∧
    ({ powered {} with hot := true } : State).hot = true ∧ (onDie 0 (powered {}).channels)[2]? = none ∧ (onDie 0 (powered {}).channels)[1]? = some (0, 65) ∧
    spareOf 0 66 [] (powered {}).channels [] = some (0, 1) ∧ spareOf 0 66 ((List.range 66).map (fun k => (0, k))) (powered {}).channels [] = none := by decide

set_option maxRecDepth 8000 in
/-- For BootAndPower. -/
theorem test_w_retire : (powered {}).clusterPages 0 1 = [] ∧ (powered {}).clusterPages 0 0 = [(1, 0)] ∧ (powered {}).pageClear 1 0 = false ∧ (base { part1 with insts := [], pages := [{ num := 0 }] }).pageClear 1 0 = true ∧
    spareOf 0 11 [] (powered {}).clusters [] = some (0, 2) ∧ spareOf 0 11 ((List.range 11).map (fun k => (0, k))) (powered {}).clusters [] = none ∧
    (∃ x ∈ (powered {} { part1 with preempts := [{ pgs := [0], ptok := 0, accepted := true, reclaim := true }] }).parts, ∃ r ∈ x.preempts, r.reclaim = true ∧ ∃ pg ∈ r.pgs, pg / 256 = 0) ∧
    (∀ x ∈ (powered {}).parts, ∀ r ∈ x.preempts, r.reclaim = true → ∀ pg ∈ r.pgs, pg / 256 ≠ 0) := by decide

/-! #### Events and the host -/

def ev (pay : List Nat) (g : Nat := 0) : EvRec := { ty := 1, pgen := g, ts := 0, pay := pay }
def fn (f : Vf) (a : Args := { p := 1 }) (x : Part := part1) : State := base { x with vf := f } {} a

/-- For EventsAndHost. -/
theorem test_w_events : ((fn { held := [ev [1, 2]] }).part 1).vf.held = [ev [1, 2]] ∧ (ev [1, 2]).pgen = part1.pgen ∧ (ev [1, 2, 3, 4] 5).pgen ≠ part1.pgen ∧ (2 ^ 4 ≤ (16 + 65536 - 0) % 65536) ∧
    ({ en := true, tail := 15 } : Vf).en = true ∧ (15 + 65536 - 0) % 65536 < 2 ^ ({} : Vf).log2 ∧ ({} : Vf).state = .running ∧ (ev [1, 2, 3, 4]).pay = [1, 2, 3, 4] ∧
    ({ state := .paused } : Vf).state ≠ .running ∧ ((base part1 {} to7).page 1 0).fire? 7 = some fire7 := by decide

/-- For EventsAndHost. -/
theorem test_w_host : (∀ y ∈ [0x000, 0x008, 0x014, 0x020, 0x024, 0x028, 0x02C, 0x030, 0x034, 0x038, 0x040, 0x044, 0x1000, 0x15FC], y % 4 = 0) ∧ 0x1002 % 4 ≠ 0 ∧
    ((fn { apb := 0 }).hostPieces 1 false 3 0x3FFFFC 4) = some [⟨0x3FFFFC, 0x5FFFFC, 0x200000001002800F, 4⟩] ∧ ((fn {}).hostPieces 1 false 3 0x3FFFFC 8) = none ∧
    ((fn {}).hostPieces 1 true 3 0x200004 4) = some [⟨0x200004, 0x400004, 0x200000001002800F, 4⟩] ∧ ((fn {}).hostPieces 1 true 3 0x400000 4) = none ∧ (fn {}).badAt 0x400004 4 = false := by decide +kernel

/-! #### Debug and trace -/

def rec9 : TraceRec := { ty := 35, src := 0, gen := 0, ts := 0, tag := tag5, w0 := 0, w1 := 0 }
def tracer (y : Page := page0) (full : Nat := 0) : State :=
  base { onPage y with csr := [(0x100, 0x102), (0x130, 0x200000), (0x132, 1), (0x134, BitVec.ofNat 32 full)], trace := [{ die := 0, closed := [[rec9]] }] } {} { p := 1 }

/-- For DebugAndTrace. -/
theorem test_w_debug : (∃ y ∈ (tracer).parts, y.num = 1) ∧ (∀ y ∈ ((tracer).part 1).pages, y.held = []) ∧ kget ((tracer).part 1).latch 0x102 = none ∧ kget ((tracer).part 1).latch (0x110 + 4 * 3) = none ∧
    (tracer).debugData 1 = [0, word (2 ^ 31), 0, 0] ∧ ((tracer { page0 with gated := true }).debugData 1).length = 4 ∧ bits (((tracer).part 1).csrN 0x100) 15 8 = 1 ∧
    ((tracer).part 1).traceStalls = false ∧ ((tracer page0 1).part 1).traceStalls = true ∧ page0.last.find? (fun l => l.tile == 0) = none ∧
    ({ page0 with last := [⟨0, opw 0x10 0, tag5, 1⟩] } : Page).last.find? (fun l => l.tile == 0) = some ⟨0, opw 0x10 0, tag5, 1⟩ := by decide

/-- A partition without pages or instances, which is frozen, with room for a dump of k x 4,096 bytes at va. -/
def still (k : Nat := 1) (va : Nat := 0x200000) : State :=
  base { part1 with pages := [], insts := [], map := [], frozen := true, csr := [(0x140, BitVec.ofNat 32 va), (0x142, BitVec.ofNat 32 k)] } {} { p := 1 }
def head' : List Byte := dumpHeader 0 128 128 0 (dumpPlan 4096 1 128 [[], [], [], []])

set_option maxRecDepth 8000 in
/-- For DebugAndTrace. -/
theorem test_w_dump : ((still).part 1).histBytes = [] ∧ ((still).writePinned 1 2 0x400000 [1]).toOption = none ∧ ((still).part 1).frozen = true ∧ (still).dumpSections 1 = [[], [], [], []] ∧
    bits (((still 0).part 1).csrN 0x142) 23 0 * 4096 < 128 ∧ 128 ≤ bits (((still).part 1).csrN 0x142) 23 0 * 4096 ∧ (∀ z ∈ dumpPlan 4096 1 128 [[], [], [], []], z.2.1 = false) ∧
    ((still).writePinned 1 2 0x400000 head').toOption = none ∧ ((still).writePinned 1 2 0x200000 head').toOption.isSome = true ∧
    ((still).dumpWrite 1 0x200000 128 ((dumpPlan 4096 1 128 [[], [], [], []]).zip [[], [], [], []])).2 = (128, false) := by decide

set_option maxRecDepth 30000 in
/-- For DebugAndTrace. -/
theorem test_w_frames : ((tracer).writePinned 1 2 0x200000 (frameBytes 0 0 0 [rec9])).toOption.map State.parts = some (tracer).parts ∧ ((tracer).part 1).sinkFull = false ∧
    (tracer).arg.x = 0 ∧ ((tracer).part 1).trace.map (fun l => l.settle.closed) = [[[rec9]]] ∧ ((tracer).part 1).trace.map (fun l => (l.settle.seq, l.settle.drops)) = [(0, 0)] := by decide

/-! #### Steps -/

/-- The next step is the turn of tile 0, which holds ready sets. -/
def ready (tg : Tag) (w : Nat) : Entry := { tile := 0, tag := tg, way := w, l := arr 7, r := arr 9, since := 90, ready := some 95, lastPos := w }
def turn (es : List Entry) (y : Page := page0) : State := { base (onPage { y with ents := es }) with agenda := [⟨100, 1, 0, .fire 1 0 0⟩] }

set_option maxRecDepth 8000 in
/-- For AStepRunsTheInstruction. -/
theorem test_w_turns : ((turn [ready tag5 0]).page 1 0).ents.filter (fun d => d.tile == 0 && (turn [ready tag5 0]).eligible 1 0 d) = [ready tag5 0] ∧ page0.act? tag5 = some act5 ∧
    (decode (opw 0x10 0)).toOption = some (.add 0 .none (.queue .l 5)) ∧ (turn [ready tag5 0]).goesFirst 1 0 (ready tag5 1) (ready tag5 0) = false ∧
    (turn [ready tag5 1, ready tag5 0]).goesFirst 1 0 (ready tag5 0) (ready tag5 1) = true ∧
    ((turn [ready tag5 1, ready tag5 0]).page 1 0).ents.filter (fun d => d.tile == 0 && (turn [ready tag5 1, ready tag5 0]).eligible 1 0 d) = [ready tag5 1, ready tag5 0] ∧
    page0.unsettled act5 (ready tag5 0) = false ∧ (turn [ready tag5 0]).staleFor 1 0 (ready tag5 0) = [] ∧ (kget ({ page0 with nextFire := [(0, 120)] } : Page).nextFire 0).getD 0 = 120 ∧
    ((turn [{ ready tag5 0 with ready := none }]).eligible 1 0 { ready tag5 0 with ready := none }) = false ∧
    pageLocal .spillReturn {} = true ∧ pageLocal .powerRefill {} = false ∧ (onPage { page0 with gated := true }).page 0 = { page0 with gated := true } := by decide

/-- For NothingStops, EveryStepKeepsClockAndMemory. -/
theorem test_w_loaded : (∀ x ∈ (turn [ready tag5 0]).parts, ∀ y ∈ x.pages, ∀ e ∈ y.ents, e.ready ≠ none → ∀ a ∈ y.acts, (decode ((a.words[e.tile]?).getD 0)).toOption.isSome = true) ∧
    (base).agenda = [] ∧ (match step State.reset with
      | .next t => Mem.wf t.mem
      | _ => false) = true := by decide

/-! ### Well-formedness: a term that each check refuses, beside one it accepts -/

def t5 : Target := .queue .l 5
def t6 : Target := .queue .l 6

/-- R40: e47 is a target; e48 is not, as T1 or as T0. -/
theorem test_wf_ports : (Instr.add 0 (.port 47) t5).wf = true ∧ (Instr.add 0 (.port 48) t5).wf = false ∧ (Instr.add 0 t6 (.port 63)).wf = false ∧
    (Instr.ldw 0 0 0 0 (.port 48)).wf = false := by decide

/-- R44, R76: conversion code 26 is the last; 27 is refused. -/
theorem test_wf_fcvt : (Instr.fcvt 0 26 .none t5).wf = true ∧ (Instr.fcvt 0 27 .none t5).wf = false ∧ (Instr.fcvts 0 31 .none t5).wf = false := by decide

/-- R41: a fence's scope is 0 to 5. -/
theorem test_wf_fence : (Instr.fenceSc 0 5 .none t5).wf = true ∧ (Instr.fenceSc 0 6 .none t5).wf = false ∧ (Instr.fenceAcq 0 7 .none t5).wf = false := by decide

/-- R44: a field that ends above bit 31 (lsb + length is 33). -/
theorem test_wf_field : (Instr.extr 0 0 7 24 t5).wf = true ∧ (Instr.extr 0 0 8 24 t5).wf = false ∧ (Instr.ins 0 1 31 1 t5).wf = false := by decide

/-- R44: a CSR that the map does not assign. -/
theorem test_wf_csr : (Instr.csrr 0 0x098 t5).wf = true ∧ (Instr.csrr 0 0x3FFF t5).wf = false ∧ (Instr.csrw 0 0x3FFF t5).wf = false := by decide

/-- R123: 14 is a QNT target; raw, FP32, TRI5, LC2 and INT32 are none. -/
theorem test_wf_qnt : (Instr.qnt 0 14 .none t5).wf = true ∧ (∀ x ∈ [0, 11, 12, 13, 15, 16], (Instr.qnt 0 x .none t5).wf = false) := by decide

/-- R44: an MMCFG that names no register of its island. -/
theorem test_wf_mmcfg : (Instr.mmcfg 0 0 .none t5).wf = true ∧ (Instr.mmcfg 0 3 .none t5).wf = false := by decide

/-! ### Decoding: words written out bit by bit from R32, R35 and R41; the values in hexadecimal are the contrast tables' -/

/-- The instruction that a word decodes to, and the reason for which it is none. -/
def reads (w : Word) : Option Instr := (decode w).toOption
def rejects (w : Word) : Option Reject :=
  match decode w with
  | .error r => some r
  | .ok _ => none

theorem test_decode_control : reads 0b00000011_11111010_11011001_11000001#32 = some (.read 63 (.port 44) (.queue .c 1)) ∧
    reads 0b00001001_11111111_11111111_01100100#32 = some (.gens 0xFFFF (.port 36)) ∧
    reads 0b00000100_00001001_00001100_10000101#32 = some (.bfly 0 t6 t5) ∧
    reads 0b00001100_00000001_00010000_10000111#32 = some (.steer 0 (.queue .l 8) (.queue .l 7)) ∧
    reads 0b00010101_00101111_11111111_11110100#32 = some (.br 2 2 0xFFFF4) ∧
    reads 0b00011000_00000100_00000000_10000110#32 = some (.call 0 1 .none t6) ∧
    reads 0b00010110_00001100_00000000_00000000#32 = some (.brr 0 3) := by decide

theorem test_decode_integer : reads 0b00100000_01000111_10010100_10001100#32 = some (.addc 0 (.queue .c 10) (.queue .l 12)) ∧
    reads 0b00100101_10000000_00000000_10000101#32 = some (.div 3 .none t5) ∧
    reads 0b00100010_00001001_10001011_00001000#32 = some (.mulhu 0 (.reg 5) (.queue .r 8)) ∧
    reads 0b00100110_00001100_00000000_10000110#32 = some (.clz 0 .none t6) ∧
    reads 0b00101000_00001000_11010000_10000010#32 = some (.extr 0 1 3 8 (.queue .l 2)) ∧
    reads 0b00110000_01111111_11111011_00000111#32 = some (.addi 0 0x3FFD (.queue .r 7)) ∧
    reads 0b00111000_00000000_00001000_10000110#32 = some (.shli 0 4 t6) ∧
    reads 0b01001110_01111111_11111111_10000100#32 = some (.tgeui 0 0x3FFF (.queue .p 4)) ∧
    reads 0b01000000_00010000_00000001_10001001#32 = some (.tltu 0 .none (.queue .p 9)) := by decide

theorem test_decode_floats : reads 0b01100011_00000000_00000000_11000111#32 = some (.fma 2 .none (.reg 7)) ∧
    reads 0b01100000_00010000_00000000_11000010#32 = some (.fmax 0 .none (.reg 2)) ∧
    reads 0b01101000_00100000_00000000_10000100#32 = some (.fcvt 0 8 .none (.queue .l 4)) ∧
    reads 0b01110000_00011000_00000001_11000111#32 = some (.pdot4 0 .none (.queue .c 7)) ∧
    reads 0b01110010_00000001_00001110_10000011#32 = some (.tunpk 0 (.queue .l 7) (.queue .l 3)) ∧
    reads 0b01110100_00001000_00000001_11000100#32 = some (.tdot4 0 2 .none (.queue .c 4)) ∧
    reads 0b01111000_00010000_00000000_10000010#32 = some (.qnt 0 4 .none (.queue .l 2)) := by decide

theorem test_decode_memory : reads 0b10000000_00001101_00000010_10001001#32 = some (.ldw 0 3 2 1 (.queue .l 9)) ∧
    reads 0b10000100_00001000_10001011_00000100#32 = some (.ldhu 0 2 1 5 (.queue .r 4)) ∧
    reads 0b10010100_10011101_11111110_00000000#32 = some (.stb 1 7 3 63) ∧
    reads 0b10011100_00011010_10000000_00000000#32 = some (.stm 0 6 5 0) ∧
    reads 0b10001100_00000110_00000000_10000011#32 = some (.ldx 0 1 4 0 (.queue .l 3)) ∧
    reads 0b10011010_00010100_00000010_00000000#32 = some (.clre 0 5 0 1) ∧
    reads 0b10100000_00101100_00000000_10000100#32 = some (.setwLim 0 3 .none (.queue .l 4)) ∧
    reads 0b10100010_00100100_00000000_10001100#32 = some (.fenceRel 0 2 .none (.queue .l 12)) ∧
    reads 0b10100010_00110000_00000000_10000101#32 = some (.fenceAcq 0 3 .none t5) := by decide

theorem test_decode_synchronisation : reads 0b10110000_00101000_00000000_10000101#32 = some (.amoCas 0 .none t5) ∧
    reads 0b10110010_00001000_00000000_10000101#32 = some (.lockRel 0 .none t5) ∧
    reads 0b10110100_00001100_00000000_10000101#32 = some (.barInit 0 .none t5) ∧
    reads 0b10110110_00010000_00000000_10000101#32 = some (.qinit 0 .none t5) ∧
    reads 0b10111000_00001100_00000000_10000101#32 = some (.wpri 0 .none t5) ∧
    reads 0b10111010_00001000_00000000_10000101#32 = some (.phase 0 .none t5) := by decide

theorem test_decode_engines : reads 0b11000000_00001000_00000000_10000101#32 = some (.mmcfg 0 2 .none t5) ∧
    reads 0b11000010_00111000_00000000_10000101#32 = some (.mmaGrp 0 3 .none t5) ∧
    reads 0b11000100_00010000_00000000_10000101#32 = some (.mmrd 0 1 .none t5) ∧
    reads 0b11000110_00100100_00000000_10000101#32 = some (.spmaAcc 0 2 .none t5) ∧
    reads 0b11001000_00001000_00000000_10000101#32 = some (.plctQuery 0 .none t5) ∧
    reads 0b11001010_00010000_00000000_10000101#32 = some (.scatOr 0 .none t5) ∧
    reads 0b11001100_00010000_00000000_10000101#32 = some (.fibMkcrd 0 .none t5) ∧
    reads 0b11001110_01111101_00001100_10000101#32 = some (.topk 0 31 t6 t5) ∧
    reads 0b11010000_00010000_00000000_10000101#32 = some (.cpyFill 0 .none t5) ∧
    reads 0b11010010_00110100_00000000_10000101#32 = some (.wptrW 0 5 .none t5) ∧
    reads 0b11010100_00011100_00000000_10000101#32 = some (.cnv 0 7 .none t5) := by decide

theorem test_decode_system : reads 0b11100000_00010100_00000000_00000000#32 = some (.trap 0 5) ∧
    reads 0b11100011_00000000_00000000_00000000#32 = some (.rft 2) ∧
    reads 0b11100100_00000001_11110000_10000101#32 = some (.csrr 0 0x0F8 t5) ∧
    reads 0b11100110_00000001_11110000_10000101#32 = some (.csrw 0 0x0F8 t5) ∧
    reads 0b11101000_00000001_00001100_10000101#32 = some (.tsc 0 t6 t5) ∧
    reads 0b11101100_01111100_00000000_10000101#32 = some (.trace 0 31 .none t5) ∧
    reads 0b11110010_01111101_00001100_10000101#32 = some (.sysc 0 31 t6 t5) := by decide

/-- R43, R35: what is no instruction is rejected by its reason. 0x2000_0005 is the spec's own word of reason 0x06. -/
theorem test_decode_rejects : rejects 0x20000005 = some .targetReserved ∧ rejects 0 = some .zeroWord ∧ rejects (0x7A#32 <<< 25) = some .unassignedOp ∧
    rejects 0b11000010_00001100_00000000_10000101#32 = some .xReserved ∧ rejects 0b00000010_00000100_00000000_10000101#32 = some .mustBeZero ∧
    rejects 0b00100000_00000000_00000001_01110000#32 = some .portNotAllowed ∧ rejects 0b00111000_00000000_01000000_10000101#32 = some .immRange := by decide

/-- For DecodeAndEncodeAgree. A hex word of the table is the instruction's one word. -/
theorem test_encode : encode (.addc 0 (.queue .c 10) (.queue .l 12)) = some 0x2047948C ∧ encode (.ldhu 0 2 1 5 (.queue .r 4)) = some 0x84088B04 ∧
    encode .powerOn = none ∧ (Instr.addc 0 (.queue .c 10) (.queue .l 12)).wf = true := by decide

/-! ### One firing each: values from the worked examples and tables of 03_number_formats.md, 04_scalar_instructions.md and
05_block_and_memory_instructions.md, or worked out by hand from the rules -/

/-- The tokens that an instruction sends to a target: value and poison. -/
def sent (i : Instr) (s : State) (q : Target := t5) : List (Word × Bool) :=
  match exec i s with
  | .next t => t.agenda.filterMap (fun x => match x.act with
    | .row .tokenArrival a => if a.tg = q then some (a.tok.val, a.tok.pois) else none
    | _ => none)
  | _ => []

/-- R99: the low word of the 64-bit sum. -/
theorem test_addc_carries : sent (.addc 0 t6 t5) (lrc 0xFFFFFFFF 0x1 0x0) = [(0x0, false)] ∧ sent (.addc 0 t6 t5) (lrc 0xFFFFFFFF 0x1 0x0) t6 = [(0x1, false)] := by decide
theorem test_addc_takes_carry : sent (.addc 0 t6 t5) (lrc 0x1 0x0 0x1) = [(0x2, false)] ∧ sent (.addc 0 t6 t5) (lrc 0x1 0x0 0x1) t6 = [(0x0, false)] := by decide
theorem test_subb_low : sent (.subb 0 t6 t5) (lrc 0xFFFFFFFF 0x1 0x0) = [(0xFFFFFFFE, false)] ∧ sent (.subb 0 t6 t5) (lrc 0xFFFFFFFF 0x1 0x0) t6 = [(0x0, false)] := by decide
theorem test_sub_wraps : sent (.sub 0 .none t5) (lrc 0x0 0x1 0x0) = [(0xFFFFFFFF, false)] := by decide
theorem test_andn : sent (.andn 0 .none t5) (lrc 0xF0F0 0xFF00 0x0) = [(0xF0, false)] := by decide
theorem test_orn : sent (.orn 0 .none t5) (lrc 0x0 0xFFFFFF00 0x0) = [(0xFF, false)] := by decide
theorem test_xnor : sent (.xnor 0 .none t5) (lrc 0xFFFF0000 0xFFFFFFFF 0x0) = [(0xFFFF0000, false)] := by decide
theorem test_shl_by_32 : sent (.shl 0 .none t5) (lrc 0x1 0x20 0x0) = [(0x0, false)] := by decide
theorem test_shr_by_more : sent (.shr 0 .none t5) (lrc 0xFFFFFFFF 0xFFFFFFFF 0x0) = [(0x0, false)] := by decide
theorem test_sar_by_32 : sent (.sar 0 .none t5) (lrc 0x80000000 0x20 0x0) = [(0xFFFFFFFF, false)] := by decide
theorem test_rol : sent (.rol 0 .none t5) (lrc 0x80000001 0x21 0x0) = [(0x3, false)] := by decide
theorem test_ror_by_32 : sent (.ror 0 .none t5) (lrc 0x80000001 0x20 0x0) = [(0x80000001, false)] := by decide
theorem test_min_signed : sent (.min 0 .none t5) (lrc 0xFFFFFFFF 0x1 0x0) = [(0xFFFFFFFF, false)] := by decide
theorem test_minu : sent (.minu 0 .none t5) (lrc 0xFFFFFFFF 0x1 0x0) = [(0x1, false)] := by decide
theorem test_absd : sent (.absd 0 .none t5) (lrc 0x80000000 0x7FFFFFFF 0x0) = [(0xFFFFFFFF, false)] := by decide
theorem test_mulh : sent (.mulh 0 .none t5) (lrc 0xFFFFFFFF 0xFFFFFFFF 0x0) = [(0x0, false)] := by decide
theorem test_mulhu : sent (.mulhu 0 .none t5) (lrc 0xFFFFFFFF 0xFFFFFFFF 0x0) = [(0xFFFFFFFE, false)] := by decide
theorem test_mulhsu : sent (.mulhsu 0 .none t5) (lrc 0xFFFFFFFF 0xFFFFFFFF 0x0) = [(0xFFFFFFFF, false)] := by decide
theorem test_madd : sent (.madd 0 .none t5) (lrc 0x10000 0x10000 0x7) = [(0x7, false)] := by decide
theorem test_msub : sent (.msub 0 .none t5) (lrc 0x3 0x4 0x14) = [(0x8, false)] := by decide
theorem test_div : sent (.div 0 .none t5) (lrc 0xFFFFFFF9 0x2 0x0) = [(0xFFFFFFFD, false)] := by decide
theorem test_rem : sent (.rem 0 .none t5) (lrc 0xFFFFFFF9 0x2 0x0) = [(0xFFFFFFFF, false)] := by decide
theorem test_div_by_0 : sent (.div 0 .none t5) (lrc 0x7 0x0 0x0) = [(0xFFFFFFFF, true)] := by decide
theorem test_rem_by_0 : sent (.rem 0 .none t5) (lrc 0x7 0x0 0x0) = [(0x7, true)] := by decide
theorem test_div_overflow : sent (.div 0 .none t5) (lrc 0x80000000 0xFFFFFFFF 0x0) = [(0x80000000, true)] := by decide
theorem test_divu_no_overflow : sent (.divu 0 .none t5) (lrc 0x80000000 0xFFFFFFFF 0x0) = [(0x0, false)] := by decide
theorem test_remu_no_overflow : sent (.remu 0 .none t5) (lrc 0x80000000 0xFFFFFFFF 0x0) = [(0x80000000, false)] := by decide
theorem test_abs_least : sent (.abs 0 .none t5) (lrc 0x80000000 0x0 0x0) = [(0x80000000, false)] := by decide
theorem test_clz_0 : sent (.clz 0 .none t5) (lrc 0x0 0x0 0x0) = [(0x20, false)] := by decide
theorem test_ctz : sent (.ctz 0 .none t5) (lrc 0x80000000 0x0 0x0) = [(0x1F, false)] := by decide
theorem test_popc : sent (.popc 0 .none t5) (lrc 0xFFFFFFFE 0x0 0x0) = [(0x1F, false)] := by decide
theorem test_brev : sent (.brev 0 .none t5) (lrc 0x3 0x0 0x0) = [(0xC0000000, false)] := by decide
theorem test_bswap : sent (.bswap 0 .none t5) (lrc 0x11223344 0x0 0x0) = [(0x44332211, false)] := by decide
theorem test_sextb : sent (.sextb 0 .none t5) (lrc 0x12345680 0x0 0x0) = [(0xFFFFFF80, false)] := by decide
theorem test_zexth : sent (.zexth 0 .none t5) (lrc 0x1234F680 0x0 0x0) = [(0xF680, false)] := by decide
theorem test_extr_s : sent (.extr 0 1 3 8 t5) (lrc 0xA700 0x0 0x0) = [(0x7, false)] := by decide
theorem test_extr_s_negative : sent (.extr 0 1 3 8 t5) (lrc 0xC00 0x0 0x0) = [(0xFFFFFFFC, false)] := by decide
theorem test_genh : sent (.genh 0x1234 t5) (lrc 0x5678 0x0 0x0) = [(0x12345678, false)] := by decide
theorem test_addi_negative : sent (.addi 0 0x3FFD t5) (lrc 0x2 0x0 0x0) = [(0xFFFFFFFF, false)] := by decide
theorem test_tltui_minus_1 : sent (.tltui 0 0x3FFF t5) (lrc 0xFFFFFFFF 0x0 0x0) = [(0x0, false)] := by decide
theorem test_tgeui_minus_1 : sent (.tgeui 0 0x3FFF t5) (lrc 0xFFFFFFFF 0x0 0x0) = [(0x1, false)] := by decide
theorem test_tlt_signed : sent (.tlt 0 .none t5) (lrc 0x80000000 0x1 0x0) = [(0x1, false)] := by decide
theorem test_tltu : sent (.tltu 0 .none t5) (lrc 0x80000000 0x1 0x0) = [(0x0, false)] := by decide
theorem test_tbit : sent (.tbit 0 .none t5) (lrc 0x80000000 0x1F 0x0) = [(0x1, false)] := by decide
theorem test_fadd : sent (.fadd 0 .none t5) (lrc 0x3F800000 0x40000000 0x0) = [(0x40400000, false)] := by decide
theorem test_fsub_zero : sent (.fsub 0 .none t5) (lrc 0x3F800000 0x3F800000 0x0) = [(0x0, false)] := by decide
theorem test_fmul_zero_inf : sent (.fmul 0 .none t5) (lrc 0x0 0x7F800000 0x0) = [(0x7FC00000, true)] := by decide
theorem test_fmin_zeros : sent (.fmin 0 .none t5) (lrc 0x80000000 0x0 0x0) = [(0x80000000, false)] := by decide
theorem test_fmax_nan : sent (.fmax 0 .none t5) (lrc 0x3F800000 0x7FC00001 0x0) = [(0x3F800000, false)] := by decide
theorem test_fmin_nans : sent (.fmin 0 .none t5) (lrc 0xFFC00000 0x7F800001 0x0) = [(0x7FC00000, false)] := by decide
theorem test_fneg_nan : sent (.fneg 0 .none t5) (lrc 0x7F800001 0x0 0x0) = [(0x7FC00000, false)] := by decide
theorem test_fma : sent (.fma 0 .none t5) (lrc 0x40000000 0x40400000 0x3F800000) = [(0x40E00000, false)] := by decide
theorem test_fnms : sent (.fnms 0 .none t5) (lrc 0x40000000 0x40400000 0x3F800000) = [(0xC0E00000, false)] := by decide
theorem test_fdiv_by_0 : sent (.fdiv 0 .none t5) (lrc 0x3F800000 0x0 0x0) = [(0x7F800000, true)] := by decide
theorem test_fsqrt : sent (.fsqrt 0 .none t5) (lrc 0x40800000 0x0 0x0) = [(0x40000000, false)] := by decide
theorem test_fsqrt_negative : sent (.fsqrt 0 .none t5) (lrc 0xBF800000 0x0 0x0) = [(0x7FC00000, true)] := by decide
theorem test_frcpe : sent (.frcpe 0 .none t5) (lrc 0x40400000 0x0 0x0) = [(0x3EAAA000, false)] := by decide
theorem test_frsqe_zero : sent (.frsqe 0 .none t5) (lrc 0x80000000 0x0 0x0) = [(0xFF800000, true)] := by decide
theorem test_fteq_zeros : sent (.fteq 0 .none t5) (lrc 0x0 0x80000000 0x0) = [(0x1, false)] := by decide
theorem test_fclass_subnormal : sent (.fclass 0 .none t5) (lrc 0x80000001 0x0 0x0) = [(0x4, false)] := by decide
/-- R79: 470.0. -/
theorem test_fcvt_e4m3 : sent (.fcvt 0 8 .none t5) (lrc 0x43EB0000 0x0 0x0) = [(0x7E, true)] := by decide
theorem test_fcvt_int_nan : sent (.fcvt 0 0 .none t5) (lrc 0x7FC00000 0x0 0x0) = [(0x0, true)] := by decide
theorem test_fcvt_int16 : sent (.fcvt 0 25 .none t5) (lrc 0xFFFF0000 0x0 0x0) = [(0xFFFF8000, true)] := by decide
theorem test_fcvts_exact : sent (.fcvts 0 0 .none t5) (lrc 0x40400000 0x0 0x0) = [(0x3, false)] := by decide
theorem test_pdot4 : sent (.pdot4 0 .none t5) (lrc 0x1FF0203 0x2020304 0xA) = [(0x1C, false)] := by decide
theorem test_paddB : sent (.paddB 0 .none t5) (lrc 0xFF01FF01 0x1010101 0x0) = [(0x20002, false)] := by decide
theorem test_pmaxH : sent (.pmaxH 0 .none t5) (lrc 0x80000001 0x7FFFFFFF 0x0) = [(0x7FFF0001, false)] := by decide
theorem test_packB : sent (.packB 0 .none t5) (lrc 0x110022 0x330044 0x0) = [(0x33441122, false)] := by decide
theorem test_packH : sent (.packH 0 .none t5) (lrc 0x10002 0x30004 0x0) = [(0x40002, false)] := by decide
theorem test_tunpk : sent (.tunpk 0 t6 t5) (lrc 0xFA58 0x0 0x0) = [(0xAA90D, true)] ∧ sent (.tunpk 0 t6 t5) (lrc 0xFA58 0x0 0x0) t6 = [(0x0, false)] := by decide
theorem test_tdot4_0 : sent (.tdot4 0 0 .none t5) (lrc 0xAA90D 0x4030201 0xA) = [(0x9, false)] := by decide
theorem test_lcdec : sent (.lcdec 0 t6 t5) (lrc 0x5A7 0x0 0x0) = [(0x343EA8BA, false)] ∧ sent (.lcdec 0 t6 t5) (lrc 0x5A7 0x0 0x0) t6 = [(0x34A834A8, false)] := by decide
theorem test_qnt : sent (.qnt 0 8 .none t5) (lrc 0x41500000 0x3E800000 0x0) = [(0x5, false)] := by decide
theorem test_qnt_saturates : sent (.qnt 0 8 .none t5) (lrc 0x41F00000 0x3E800000 0x0) = [(0x7, true)] := by decide
theorem test_qnt_int4 : sent (.qnt 0 3 .none t5) (lrc 0xC1400000 0x3E800000 0x0) = [(0xFFFFFFFD, false)] := by decide

/-- R4, R140: what a load makes of its bytes, least significant byte first. -/
def loaded (op : Nat) (l : List Byte) : List (Word × Bool) := sent .loadReply (base (onFire { load op l.length with got := l }) {} (to7 1))

theorem test_ldw : loaded 0x40 [0x78, 0x56, 0x34, 0x12] = [(0x12345678, false)] := by decide
theorem test_ldh : loaded 0x41 [0x34, 0x92] = [(0xFFFF9234, false)] := by decide
theorem test_ldhu : loaded 0x42 [0x34, 0x92] = [(0x00009234, false)] := by decide
theorem test_ldb : loaded 0x43 [0x80] = [(0xFFFFFF80, false)] := by decide
theorem test_ldbu : loaded 0x44 [0x80] = [(0x00000080, false)] := by decide

/-- The object that an operation of value 5 at object 3 leaves, and what it answers. -/
def objAfter (op x : Nat) (st : ObjSt) : ObjSt :=
  match exec .syncOperationArrival (sync op x st) with
  | .next t => (t.obj 1 3).st
  | _ => .free

theorem test_amo_add : objAfter 0x58 0 (.word 9) = .word 14 ∧ sent .syncOperationArrival (sync 0x58 0 (.word 9)) = [(9, false)] := by decide
theorem test_amo_min : objAfter 0x58 4 (.word 0x80000000) = .word 0x80000000 ∧ objAfter 0x58 6 (.word 0x80000000) = .word 5 := by decide
theorem test_amo_swap : objAfter 0x58 8 (.word 9) = .word 5 := by decide
theorem test_lock_acq : objAfter 0x59 0 (.lock none) = .lock (some (5, 1)) := by decide +kernel
/-- R244: the last arrival starts the next phase. -/
theorem test_bar_arrive : objAfter 0x5A 0 (.barrier 2 1 3) = .barrier 2 0 4 ∧ objAfter 0x5A 0 (.barrier 3 1 3) = .barrier 3 2 3 := by decide +kernel

theorem test_steer : sent (.steer 0 t6 t5) (lrc 8 1 0) = [(8, false)] ∧ sent (.steer 0 t6 t5) (lrc 8 2 0) = [] ∧ sent (.steer 0 t6 t5) (lrc 8 2 0) t6 = [(8, false)] := by decide
theorem test_sel : sent (.sel 0 .none t5) (lrc 8 9 0) = [(9, false)] ∧ sent (.sel 0 .none t5) (lrc 8 9 1) = [(8, false)] := by decide
/-- R16, R17: PR = 01 fires without a result when P is 0. -/
theorem test_predicate : sent (.add 1 .none t5) (base part1 (ops (some (tokV 1)) (some (tokV 2)) none (some (tokV 0)))) = [] ∧
    sent (.add 1 .none t5) (base part1 (ops (some (tokV 1)) (some (tokV 2)) none (some (tokV 1)))) = [(3, false)] := by decide
/-- R124: READ gives the register's value and poison. -/
theorem test_read : sent (.read 0 .none t5) poisonedReg = [(3, true)] := by decide
theorem test_gens : sent (.gens 0x8000 t5) (lrc 0 0 0) = [(0xFFFF8000, false)] := by decide
/-- R374: the AES-256 example vector of its standard. -/
theorem test_aes256 : aes256 (List.range 32) ((List.range 16).map (fun k => k * 17)) = beBytes 16 0x8ea2b7ca516745bfeafc49904b496089 := by decide +kernel
/-- R375: the GHASH of its standard's second test case: hash key, one block of ciphertext and the lengths. -/
theorem test_ghash : ghash 0x66e94bd4ef8a2c3b884cfa59ca342b2e [0x0388dace60b6a392f328c2b971b2fe78, 128] = 0xf38cbb1ad69223dcc3457ae5b6b0f885 := by decide +kernel
/-- R5, R6: fclk is 0.85 GHz and the counter 1 GHz, so that 117 ns have passed at fclk 100. -/
theorem test_tsc : sent (.tsc 0 t6 t5) (lrc 0 0 0) = [(117, false)] ∧ sent (.tsc 0 t6 t5) (lrc 0 0 0) t6 = [(0, false)] := by decide

/-! ### A step from reset with one instruction placed -/

set_option maxRecDepth 8000 in
/-- The step fires it (log 1). -/
theorem test_step_add : (match step (State.reset.withFetchWord 32 0x20000083) with
    | .next t => t.parts.length == 1
    | _ => false) = true := by decide

end Sys2Proof.Tests
end

section
/-! PROOFS of the statements of scope: every step keeps the clock and the canonical forms of memory; what a step runs; what sending results does; reset and
the boot. -/

namespace Sys2Proof.Machine

/-! ### Every turn keeps the clock and the canonical forms -/

/-- Every instruction keeps the clock and the canonical forms of memory: each by the lemma of its meaning. -/
theorem exec_keeps {a s : State} (h : a.Keeps s) : ∀ i : Instr, OnNext a.Keeps (exec i s)
  | .read .. => execRead_keeps h
  | .mov .. => execMov_keeps h
  | .null .. => execNull_keeps h
  | .bfly .. => execBfly_keeps h
  | .fbfly .. => execFbfly_keeps h
  | .genc .. => execGenc_keeps h
  | .gens .. => execGens_keeps h
  | .genh .. => execGenh_keeps h
  | .steer .. => execSteer_keeps h
  | .steerf .. => execSteerf_keeps h
  | .merge .. => execMerge_keeps h
  | .sel .. => execSel_keeps h
  | .loop .. => execLoop_keeps h
  | .br .. => execBr_keeps h
  | .brr .. => execBrr_keeps h
  | .call .. => execCall_keeps h
  | .callr .. => execCallr_keeps h
  | .ret .. => execRet_keeps h
  | .add .. => execAdd_keeps h
  | .sub .. => execSub_keeps h
  | .and .. => execAnd_keeps h
  | .or .. => execOr_keeps h
  | .xor .. => execXor_keeps h
  | .andn .. => execAndn_keeps h
  | .orn .. => execOrn_keeps h
  | .xnor .. => execXnor_keeps h
  | .shl .. => execShl_keeps h
  | .shr .. => execShr_keeps h
  | .sar .. => execSar_keeps h
  | .rol .. => execRol_keeps h
  | .ror .. => execRor_keeps h
  | .min .. => execMin_keeps h
  | .max .. => execMax_keeps h
  | .minu .. => execMinu_keeps h
  | .maxu .. => execMaxu_keeps h
  | .addc .. => execAddc_keeps h
  | .subb .. => execSubb_keeps h
  | .absd .. => execAbsd_keeps h
  | .mul .. => execMul_keeps h
  | .mulh .. => execMulh_keeps h
  | .mulhu .. => execMulhu_keeps h
  | .mulhsu .. => execMulhsu_keeps h
  | .madd .. => execMadd_keeps h
  | .msub .. => execMsub_keeps h
  | .div .. => execDiv_keeps h
  | .divu .. => execDivu_keeps h
  | .rem .. => execRem_keeps h
  | .remu .. => execRemu_keeps h
  | .neg .. => execNeg_keeps h
  | .not .. => execNot_keeps h
  | .abs .. => execAbs_keeps h
  | .clz .. => execClz_keeps h
  | .ctz .. => execCtz_keeps h
  | .popc .. => execPopc_keeps h
  | .brev .. => execBrev_keeps h
  | .bswap .. => execBswap_keeps h
  | .sextb .. => execSextb_keeps h
  | .sexth .. => execSexth_keeps h
  | .zextb .. => execZextb_keeps h
  | .zexth .. => execZexth_keeps h
  | .extr .. => execExtr_keeps h
  | .ins _ sgn _ _ _ => execIns_keeps (z2 := sgn) h
  | .addi .. => execAddi_keeps h
  | .andi .. => execAndi_keeps h
  | .ori .. => execOri_keeps h
  | .xori .. => execXori_keeps h
  | .shli .. => execShli_keeps h
  | .shri .. => execShri_keeps h
  | .sari .. => execSari_keeps h
  | .muli .. => execMuli_keeps h
  | .teq .. => execTeq_keeps h
  | .tne .. => execTne_keeps h
  | .tlt .. => execTlt_keeps h
  | .tle .. => execTle_keeps h
  | .tltu .. => execTltu_keeps h
  | .tleu .. => execTleu_keeps h
  | .tgt .. => execTgt_keeps h
  | .tge .. => execTge_keeps h
  | .tgtu .. => execTgtu_keeps h
  | .tgeu .. => execTgeu_keeps h
  | .tbit .. => execTbit_keeps h
  | .teqi .. => execTeqi_keeps h
  | .tnei .. => execTnei_keeps h
  | .tlti .. => execTlti_keeps h
  | .tgei .. => execTgei_keeps h
  | .tltui .. => execTltui_keeps h
  | .tgeui .. => execTgeui_keeps h
  | .fadd .. => execFadd_keeps h
  | .fsub .. => execFsub_keeps h
  | .fmul .. => execFmul_keeps h
  | .fmin .. => execFmin_keeps h
  | .fmax .. => execFmax_keeps h
  | .fabs .. => execFabs_keeps h
  | .fneg .. => execFneg_keeps h
  | .fcopys .. => execFcopys_keeps h
  | .fma .. => execFma_keeps h
  | .fms .. => execFms_keeps h
  | .fnma .. => execFnma_keeps h
  | .fnms .. => execFnms_keeps h
  | .fdiv .. => execFdiv_keeps h
  | .fsqrt .. => execFsqrt_keeps h
  | .frcpe .. => execFrcpe_keeps h
  | .frsqe .. => execFrsqe_keeps h
  | .fteq .. => execFteq_keeps h
  | .ftlt .. => execFtlt_keeps h
  | .ftle .. => execFtle_keeps h
  | .ftun .. => execFtun_keeps h
  | .fclass .. => execFclass_keeps h
  | .fcvt .. => execFcvt_keeps h
  | .fcvts .. => execFcvts_keeps h
  | .paddH .. => execPaddH_keeps h
  | .psubH .. => execPsubH_keeps h
  | .paddB .. => execPaddB_keeps h
  | .psubB .. => execPsubB_keeps h
  | .pmaxH .. => execPmaxH_keeps h
  | .pminH .. => execPminH_keeps h
  | .pdot4 .. => execPdot4_keeps h
  | .pdot4u .. => execPdot4u_keeps h
  | .pdot2H .. => execPdot2H_keeps h
  | .packH .. => execPackH_keeps h
  | .packB .. => execPackB_keeps h
  | .tunpk .. => execTunpk_keeps h
  | .tdot4 .. => execTdot4_keeps h
  | .lcdec .. => execLcdec_keeps h
  | .qnt .. => execQnt_keeps h
  | .ldw .. => execLdw_keeps h
  | .ldh .. => execLdh_keeps h
  | .ldhu .. => execLdhu_keeps h
  | .ldb .. => execLdb_keeps h
  | .ldbu .. => execLdbu_keeps h
  | .ldf .. => execLdf_keeps h
  | .ldx .. => execLdx_keeps h
  | .stw .. => execStw_keeps h
  | .sth .. => execSth_keeps h
  | .stb .. => execStb_keeps h
  | .ste .. => execSte_keeps h
  | .stf .. => execStf_keeps h
  | .clre .. => execClre_keeps h
  | .stm .. => execStm_keeps h
  | .setwBase .. => execSetwBase_keeps h
  | .setwLim .. => execSetwLim_keeps h
  | .setwAttr .. => execSetwAttr_keeps h
  | .fenceAcq .. => execFenceAcq_keeps h
  | .fenceRel .. => execFenceRel_keeps h
  | .fenceAr .. => execFenceAr_keeps h
  | .fenceSc .. => execFenceSc_keeps h
  | .amoAdd .. => execAmoAdd_keeps h
  | .amoAnd .. => execAmoAnd_keeps h
  | .amoOr .. => execAmoOr_keeps h
  | .amoXor .. => execAmoXor_keeps h
  | .amoMin .. => execAmoMin_keeps h
  | .amoMax .. => execAmoMax_keeps h
  | .amoMinu .. => execAmoMinu_keeps h
  | .amoMaxu .. => execAmoMaxu_keeps h
  | .amoSwap .. => execAmoSwap_keeps h
  | .amoFadd .. => execAmoFadd_keeps h
  | .amoCas .. => execAmoCas_keeps h
  | .lockAcq .. => execLockAcq_keeps h
  | .lockTry .. => execLockTry_keeps h
  | .lockRel .. => execLockRel_keeps h
  | .barArrive .. => execBarArrive_keeps h
  | .barWait .. => execBarWait_keeps h
  | .barArrwait .. => execBarArrwait_keeps h
  | .barInit .. => execBarInit_keeps h
  | .qpush .. => execQpush_keeps h
  | .qpop .. => execQpop_keeps h
  | .qpopt .. => execQpopt_keeps h
  | .qclose .. => execQclose_keeps h
  | .qinit .. => execQinit_keeps h
  | .wreg .. => execWreg_keeps h
  | .wown .. => execWown_keeps h
  | .wrel .. => execWrel_keeps h
  | .wpri .. => execWpri_keeps h
  | .qbegin .. => execQbegin_keeps h
  | .qend .. => execQend_keeps h
  | .phase .. => execPhase_keeps h
  | .mmcfg _ reg _ _ => execMmcfg_keeps (z2 := reg) h
  | .mmaOvw _ acc _ _ => execMmaOvw_keeps (z2 := acc) h
  | .mmaAcc _ acc _ _ => execMmaAcc_keeps (z2 := acc) h
  | .mmaGrp _ acc _ _ => execMmaGrp_keeps (z2 := acc) h
  | .mmrd _ acc _ _ => execMmrd_keeps (z2 := acc) h
  | .spmaOvw _ acc _ _ => execSpmaOvw_keeps (z2 := acc) h
  | .spmaAcc _ acc _ _ => execSpmaAcc_keeps (z2 := acc) h
  | .plctPrep .. => execPlctPrep_keeps h
  | .plctInval .. => execPlctInval_keeps h
  | .plctQuery .. => execPlctQuery_keeps h
  | .scatAdd .. => execScatAdd_keeps h
  | .scatFadd .. => execScatFadd_keeps h
  | .scatMax .. => execScatMax_keeps h
  | .scatMin .. => execScatMin_keeps h
  | .scatOr .. => execScatOr_keeps h
  | .fibIsect .. => execFibIsect_keeps h
  | .fibUnion .. => execFibUnion_keeps h
  | .fibEoft .. => execFibEoft_keeps h
  | .fibMkeof .. => execFibMkeof_keeps h
  | .fibMkcrd .. => execFibMkcrd_keeps h
  | .topk .. => execTopk_keeps h
  | .cpyLin .. => execCpyLin_keeps h
  | .cpy2d .. => execCpy2d_keeps h
  | .cpyGath .. => execCpyGath_keeps h
  | .cpyScat .. => execCpyScat_keeps h
  | .cpyFill .. => execCpyFill_keeps h
  | .wptr .. => execWptr_keeps h
  | .wptrW .. => execWptrW_keeps h
  | .cnv _ path _ _ => execCnv_keeps (z2 := path) h
  | .trap .. => execTrap_keeps h
  | .rft .. => execRft_keeps h
  | .csrr .. => execCsrr_keeps h
  | .csrw .. => execCsrw_keeps h
  | .tsc .. => execTsc_keeps h
  | .bkpt .. => execBkpt_keeps h
  | .trace .. => execTrace_keeps h
  | .evt .. => execEvt_keeps h
  | .est .. => execEst_keeps h
  | .sysc .. => execSysc_keeps h
  | .blockFetch => execBlockFetch_keeps h
  | .tokenArrival => execTokenArrival_keeps h
  | .spillReturn => execSpillReturn_keeps h
  | .readySetPromote => execReadySetPromote_keeps h
  | .storeBufferPerform => execStoreBufferPerform_keeps h
  | .loadReply => execLoadReply_keeps h
  | .loadReplay => execLoadReplay_keeps h
  | .blockCommit => execBlockCommit_keeps h
  | .configDrain => execConfigDrain_keeps h
  | .loopIterationStart => execLoopIterationStart_keeps h
  | .iterationRetire => execIterationRetire_keeps h
  | .messageArrival => execMessageArrival_keeps h
  | .handlerActivationStart => execHandlerActivationStart_keeps h
  | .rtagen => execRtagen_keeps h
  | .rtagpend => execRtagpend_keeps h
  | .quiescenceWave => execQuiescenceWave_keeps h
  | .pelorusRound => execPelorusRound_keeps h
  | .requestPromote => execRequestPromote_keeps h
  | .calleeStart => execCalleeStart_keeps h
  | .callResult => execCallResult_keeps h
  | .teardown => execTeardown_keeps h
  | .prePlace => execPrePlace_keeps h
  | .configPrefetch => execConfigPrefetch_keeps h
  | .contextFetch => execContextFetch_keeps h
  | .fullEmptyAct => execFullEmptyAct_keeps h
  | .pageWalk => execPageWalk_keeps h
  | .tlbInvalidate => execTlbInvalidate_keeps h
  | .tlbInvalidateDone => execTlbInvalidateDone_keeps h
  | .multicastCopy => execMulticastCopy_keeps h
  | .channelWrite => execChannelWrite_keeps h
  | .pageReencrypt => execPageReencrypt_keeps h
  | .guardLineRead => execGuardLineRead_keeps h
  | .counterWriteback => execCounterWriteback_keeps h
  | .configStoreError => execConfigStoreError_keeps h
  | .configReloadDone => execConfigReloadDone_keeps h
  | .tileSramError => execTileSramError_keeps h
  | .syncOperationArrival => execSyncOperationArrival_keeps h
  | .cycleWalkEnd => execCycleWalkEnd_keeps h
  | .priorityPropagate => execPriorityPropagate_keeps h
  | .islandAccept => execIslandAccept_keeps h
  | .islandCommandDone => execIslandCommandDone_keeps h
  | .groupCompletion => execGroupCompletion_keeps h
  | .islandStreamToken => execIslandStreamToken_keeps h
  | .cnvImageLoad => execCnvImageLoad_keeps h
  | .cnvLoadDone => execCnvLoadDone_keeps h
  | .cnvPortInput => execCnvPortInput_keeps h
  | .plaiterCompileDone => execPlaiterCompileDone_keeps h
  | .scatApply => execScatApply_keeps h
  | .copyCommandBegin => execCopyCommandBegin_keeps h
  | .copyStreamToken => execCopyStreamToken_keeps h
  | .copyWritePerform => execCopyWritePerform_keeps h
  | .copyComplete => execCopyComplete_keeps h
  | .topkEmit => execTopkEmit_keeps h
  | .peerIngressWrite => execPeerIngressWrite_keeps h
  | .peerWriteAck => execPeerWriteAck_keeps h
  | .peerPathTimeout => execPeerPathTimeout_keeps h
  | .linkPortFail => execLinkPortFail_keeps h
  | .doorbell => execDoorbell_keeps h
  | .helmQueueMap => execHelmQueueMap_keeps h
  | .helmSliceExpiry => execHelmSliceExpiry_keeps h
  | .helmEntryStart => execHelmEntryStart_keeps h
  | .launch => execLaunch_keeps h
  | .copy => execCopy_keeps h
  | .wait => execWait_keeps h
  | .signal => execSignal_keeps h
  | .cond => execCond_keeps h
  | .helmLoop => execHelmLoop_keeps h
  | .helmEnd => execHelmEnd_keeps h
  | .waitSatisfied => execWaitSatisfied_keeps h
  | .launchResult => execLaunchResult_keeps h
  | .launchContinue => execLaunchContinue_keeps h
  | .trapFrameWrite => execTrapFrameWrite_keeps h
  | .trapHandlerStart => execTrapHandlerStart_keeps h
  | .replayInject => execReplayInject_keeps h
  | .instanceKill => execInstanceKill_keeps h
  | .strandBoundaryStop => execStrandBoundaryStop_keeps h
  | .checkpointCut => execCheckpointCut_keeps h
  | .contextSaveSizing => execContextSaveSizing_keeps h
  | .contextSaveWrite => execContextSaveWrite_keeps h
  | .contextRestore => execContextRestore_keeps h
  | .preemptionComplete => execPreemptionComplete_keeps h
  | .guestSwitch => execGuestSwitch_keeps h
  | .create => execCreate_keeps h
  | .destroy => execDestroy_keeps h
  | .grant => execGrant_keeps h
  | .reclaim => execReclaim_keeps h
  | .setmin => execSetmin_keeps h
  | .preempt => execPreempt_keeps h
  | .resetQueue => execResetQueue_keeps h
  | .resetContext => execResetContext_keeps h
  | .resetEngine => execResetEngine_keeps h
  | .resetPartition => execResetPartition_keeps h
  | .resetDevice => execResetDevice_keeps h
  | .resetEscalate => execResetEscalate_keeps h
  | .vfstateRunning => execVfstateRunning_keeps h
  | .vfstateDescheduled => execVfstateDescheduled_keeps h
  | .vfstatePaused => execVfstatePaused_keeps h
  | .wincreate => execWincreate_keeps h
  | .winattach => execWinattach_keeps h
  | .windetach => execWindetach_keeps h
  | .windestroy => execWindestroy_keeps h
  | .objreset => execObjreset_keeps h
  | .instctlResume => execInstctlResume_keeps h
  | .instctlKill => execInstctlKill_keeps h
  | .migsave => execMigsave_keeps h
  | .migload => execMigload_keeps h
  | .eventRecordWrite => execEventRecordWrite_keeps h
  | .tsnowl => execTsnowl_keeps h
  | .hostApertureRead => execHostApertureRead_keeps h
  | .hostApertureWrite => execHostApertureWrite_keeps h
  | .functionReset => execFunctionReset_keeps h
  | .debugResume => execDebugResume_keeps h
  | .debugHalt => execDebugHalt_keeps h
  | .debugDataRead => execDebugDataRead_keeps h
  | .histogramReadout => execHistogramReadout_keeps h
  | .traceSample => execTraceSample_keeps h
  | .loglineFrameWrite => execLoglineFrameWrite_keeps h
  | .coreDump => execCoreDump_keeps h
  | .poisonLogClear => execPoisonLogClear_keeps h
  | .clearOnRead => execClearOnRead_keeps h
  | .csrWrite => execCsrWrite_keeps h
  | .powerOn => execPowerOn_keeps h
  | .powerRefill => execPowerRefill_keeps h
  | .thermalLimit => execThermalLimit_keeps h
  | .thermalStep => execThermalStep_keeps h
  | .thermalShutdown => execThermalShutdown_keeps h
  | .powerLoss => execPowerLoss_keeps h
  | .channelSpareSwitch => execChannelSpareSwitch_keeps h
  | .clusterRetire => execClusterRetire_keeps h
  | .tileSramStore => execTileSramStore_keeps h
  | .hostMemoryWrite => execHostMemoryWrite_keeps h
  | .correctedError => execCorrectedError_keeps h
  | .imageCrcError => execImageCrcError_keeps h
  | .lineCacheError => execLineCacheError_keeps h
  | .bridgeLoss => execBridgeLoss_keeps h
  | .moduleLimit => execModuleLimit_keeps h
  | .stoptsl => execStoptsl_keeps h
  | .wpkal => execWpkal_keeps h

/-- The firing of one entry keeps, whether it goes on, waits, or has the loads that it rests on read again. -/
theorem State.fireEntry_keeps {a s : State} (h : a.Keeps s) (p pg : Nat) (e : Entry) :
    OnSome (OnNext a.Keeps) (s.fireEntry p pg e) := by
  unfold State.fireEntry
  split
  · exact OnSome.none
  rename_i act _
  dsimp only
  split
  · exact OnSome.some OnNext.fault
  rename_i i _
  have hexec := exec_keeps (s := s.begin p pg act e ((act.words[e.tile]?).getD 0)) (State.begin_keeps h) i
  split
  · rename_i t ht
    have hafter : a.Keeps (t.after p pg e) := State.after_keeps (hexec.get ht)
    split
    · exact OnSome.some (OnNext.next hafter)
    split
    · exact OnSome.none
    split
    · exact OnSome.some (OnNext.next hafter)
    · exact OnSome.some (OnNext.next (foldl_keeps h fun _ _ hz => State.sched_keeps hz))
  · exact OnSome.some hexec

/-- Trying sets one after the other keeps, by induction on the tries left. -/
theorem State.tryFire_keeps {a s : State} (h : a.Keeps s) (p pg tile : Nat) :
    ∀ (n : Nat) (l : List Entry), OnNext a.Keeps (s.tryFire p pg tile n l)
  | 0, _ => OnNext.next h
  | n + 1, l => by
    unfold State.tryFire
    split
    · exact OnNext.next h
    rename_i e _
    have hfire := State.fireEntry_keeps h p pg e
    split
    · exact State.tryFire_keeps h p pg tile n _
    · rename_i t ht
      exact OnNext.next (State.askPromote_keeps ((hfire.get ht).get rfl))
    · rename_i o _ ho
      exact hfire.get ho

/-- A tile's turn keeps. -/
theorem State.fireTurn_keeps {a s : State} (h : a.Keeps s) (p pg tile : Nat) : OnNext a.Keeps (s.fireTurn p pg tile) := by
  unfold State.fireTurn
  dsimp only
  split
  · exact OnNext.next (ite_keeps h (State.schedFire_keeps h))
  · exact State.tryFire_keeps h p pg tile _ _

/-- Handing an instruction its arguments keeps. -/
theorem State.withArg_keeps {a s : State} (h : a.Keeps s) (arg : Args) : a.Keeps { s with arg := arg } :=
  State.Keeps.upd (s := s) rfl rfl rfl rfl h

/-- Commands that act one after the other keep, by induction on their list. -/
theorem State.runCmds_keeps {a : State} (p : Nat) :
    ∀ (l : List (Instr × Args)) {s : State}, a.Keeps s → OnNext a.Keeps (State.runCmds p l s)
  | [], _, h => OnNext.next h
  | (i, arg) :: rest, s, h => by
    have hexec := exec_keeps (State.withArg_keeps h arg) i
    unfold State.runCmds
    split
    · exact OnNext.next (State.modPart_keeps h)
    split
    · rename_i t ht
      exact State.runCmds_keeps p rest (hexec.get ht)
    · exact hexec

/-- A row's turn keeps, whether it runs or waits. -/
theorem State.rowTurn_keeps {a s : State} (h : a.Keeps s) (i : Instr) (arg : Args) : OnNext a.Keeps (s.rowTurn i arg) := by
  have harg := State.withArg_keeps h arg
  unfold State.rowTurn
  dsimp only
  split
  · exact OnNext.next (State.modPage_keeps harg)
  split
  · exact OnNext.next (State.modPart_keeps harg)
  split
  · have hexec := exec_keeps (s := ({ s with arg := arg } : State).modPart arg.p (fun x => { x with cmds := [] })) (State.modPart_keeps harg) i
    split
    · rename_i t ht
      exact State.runCmds_keeps arg.p _ (hexec.get ht)
    · exact hexec
  · exact exec_keeps harg i

/-! ### A step (R6, log 4) -/

/-- The state in which the next pending step runs: it is off the agenda, and the clock stands at its time. -/
def State.atStep (s : State) (t : Timed) (rest : List Timed) : State := { s with agenda := rest, now := max s.now t.ts }

/-- A step that runs a row is the row's turn. -/
theorem step_row {s : State} {t : Timed} {rest : List Timed} {i : Instr} {a : Args} (h : s.agenda = t :: rest) (hact : t.act = .row i a) :
    step s = (s.atStep t rest).rowTurn i a := by
  unfold step
  simp only [h, hact]
  rfl

/-- A step that runs a tile's turn. -/
theorem step_fire {s : State} {t : Timed} {rest : List Timed} {p pg tile : Nat} (h : s.agenda = t :: rest) (hact : t.act = .fire p pg tile) :
    step s = (s.atStep t rest).fireTurn p pg tile := by
  unfold step
  simp only [h, hact]
  rfl

/-- With nothing pending, one fclk passes (log 4). -/
theorem step_nil {s : State} (h : s.agenda = []) : step s = .next { s with now := s.now + 1 } := by
  unfold step
  rw [h]

/-- The turn of a pending step keeps what the clock's move to its time leaves. -/
theorem step_keeps {s : State} {t : Timed} {rest : List Timed} (h : s.agenda = t :: rest) :
    OnNext (s.atStep t rest).Keeps (step s) := by
  cases hact : t.act with
  | row i a => rw [step_row h hact]; exact State.rowTurn_keeps (State.Keeps.refl _) i a
  | fire p pg tile => rw [step_fire h hact]; exact State.fireTurn_keeps (State.Keeps.refl _) p pg tile

/-- Settles O5: no turn moves the clock or breaks a canonical form, so that only the move to the pending step's time, or the one idle fclk, is left. -/
theorem everyStepKeepsClockAndMemory : Obligations.EveryStepKeepsClockAndMemory := by
  intro s t hstep
  cases hag : s.agenda with
  | nil =>
    rw [step_nil hag] at hstep
    cases hstep
    exact ⟨id, rfl, Nat.le_succ s.now, fun _ => rfl, fun y l e => absurd e (List.cons_ne_nil y l).symm⟩
  | cons x rest =>
    obtain ⟨hnow, hbase, hsound⟩ := step_keeps hag t hstep
    have hnow : t.now = max s.now x.ts := hnow
    refine ⟨hsound, hbase, hnow ▸ Nat.le_max_left .., fun e => absurd e (List.cons_ne_nil x rest), fun y l e => ?_⟩
    rw [hnow, List.head_eq_of_cons_eq e]

/-! ### The turn of a row (R344, R366, R412) -/

section
variable {s : State} {i : Instr} {a : Args}

/-- A row that waits for its page's clocks joins the skid buffer. -/
theorem State.rowTurn_waits (hw : rowWaits i a (s.page a.p a.pg) = true) :
    s.rowTurn i a = .next (({ s with arg := a } : State).modPage a.p a.pg (fun y => { y with skid := y.skid ++ [(i, a)] })) := by
  unfold State.rowTurn
  exact if_pos hw

/-- A command that finds one under way, or others that wait, joins those that wait. -/
theorem State.rowTurn_queues (hw : rowWaits i a (s.page a.p a.pg) = false) (hc : cmdRow i a = true)
    (hb : s.cmdBusy a.p = true ∨ (s.part a.p).cmds ≠ []) :
    s.rowTurn i a = .next (({ s with arg := a } : State).modPart a.p (fun x => { x with cmds := x.cmds ++ [(i, a)] })) := by
  have hq : (cmdRow i a && (s.cmdBusy a.p || !(s.part a.p).cmds.isEmpty)) = true := by simpa [hc] using hb
  unfold State.rowTurn
  exact (if_neg (by simp [hw])).trans (if_pos hq)

/-- A row that ends no command, or that nothing waits for, runs as `exec` runs it. -/
theorem State.rowTurn_runs (hw : rowWaits i a (s.page a.p a.pg) = false)
    (hq : cmdRow i a = false ∨ (s.cmdBusy a.p = false ∧ (s.part a.p).cmds = [])) (he : cmdEnd i = false ∨ (s.part a.p).cmds = []) :
    s.rowTurn i a = exec i { s with arg := a } := by
  have hq : ¬(cmdRow i a && (s.cmdBusy a.p || !(s.part a.p).cmds.isEmpty)) = true := by
    rcases hq with hc | ⟨hb, hl⟩
    · simp [hc]
    · simp [hb, hl]
  have he : ¬(cmdEnd i && !(s.part a.p).cmds.isEmpty) = true := by rcases he with he | he <;> simp [he]
  unfold State.rowTurn
  exact (if_neg (by simp [hw])).trans ((if_neg hq).trans (if_neg he))

/-- The end of a command lets those that wait act. -/
theorem State.rowTurn_ends {t : State} (hw : rowWaits i a (s.page a.p a.pg) = false) (hc : cmdRow i a = false) (he : cmdEnd i = true)
    (hl : (s.part a.p).cmds ≠ []) (ht : exec i (({ s with arg := a } : State).modPart a.p (fun x => { x with cmds := [] })) = .next t) :
    s.rowTurn i a = State.runCmds a.p (s.part a.p).cmds t := by
  have he : (cmdEnd i && !(s.part a.p).cmds.isEmpty) = true := by simpa [he] using hl
  unfold State.rowTurn
  exact (if_neg (by simp [hw])).trans ((if_neg (by simp [hc])).trans ((if_pos he).trans (by rw [ht]; rfl)))

/-- No row waits on a page that is neither gated nor reloading. -/
theorem rowWaits_free {y : Page} (hg : y.gated = false) (hr : y.reload = false) : rowWaits i a y = false := by
  simp [rowWaits, hg, hr]

/-- A row of a page's clocks waits while the page reloads. -/
theorem rowWaits_reload {y : Page} (hp : pageLocal i a = true) (hr : y.reload = true) : rowWaits i a y = true := by
  simp [rowWaits, hp, hr]

/-! ### Commands in their order (R366) -/

/-- A command that finds one under way waits, with those after it. -/
theorem State.runCmds_busy {p : Nat} {l : List (Instr × Args)} (hb : s.cmdBusy p = true) :
    State.runCmds p ((i, a) :: l) s = .next (s.modPart p (fun x => { x with cmds := (i, a) :: l })) := by
  unfold State.runCmds
  exact if_pos hb

/-- A command that acts lets the next one act. -/
theorem State.runCmds_next {p : Nat} {l : List (Instr × Args)} {t : State} (hb : s.cmdBusy p = false) (ht : exec i { s with arg := a } = .next t) :
    State.runCmds p ((i, a) :: l) s = State.runCmds p l t := by
  rw [State.runCmds, if_neg (by simp [hb]), ht]

end

/-! ### The turn of a tile (R13, R153) -/

section
variable {s v : State} {p pg tile : Nat} {e d : Entry} {a : Act} {i : Instr}

/-- The eligible sets of a tile, in their order. -/
def State.eligibleSets (s : State) (p pg tile : Nat) : List Entry := (s.page p pg).ents.filter (fun e => e.tile == tile && s.eligible p pg e)

theorem State.eligibleSets_nil : s.eligibleSets p pg tile = [] ↔ ∀ e ∈ (s.page p pg).ents, e.tile = tile → s.eligible p pg e = false := by
  simp [State.eligibleSets]

/-- The fclk from which a tile may fire again. -/
def State.freeAt (s : State) (p pg tile : Nat) : Nat := (kget (s.page p pg).nextFire tile).getD 0

/-- A tile without an eligible set does nothing. -/
theorem State.fireTurn_none (h : s.eligibleSets p pg tile = []) : s.fireTurn p pg tile = .next s := by
  unfold State.fireTurn
  change (if s.now < s.freeAt p pg tile then _ else s.tryFire p pg tile (s.eligibleSets p pg tile).length (s.eligibleSets p pg tile)) = _
  split
  · exact congrArg _ (if_pos (List.isEmpty_iff.mpr h))
  · rw [h]; rfl

/-- A tile that may not fire yet has its turn again when it may. -/
theorem State.fireTurn_early (hn : s.now < s.freeAt p pg tile) (h : s.eligibleSets p pg tile ≠ []) :
    s.fireTurn p pg tile = .next (s.schedFire (s.freeAt p pg tile) p pg tile) := by
  unfold State.fireTurn
  exact (if_pos hn).trans (congrArg _ (if_neg (mt List.isEmpty_iff.mp h)))

/-- A firing that goes on: its word's instruction acts between the taking of its operands and what follows. It may not rest on a load that is not
settled or must be read again, unless it has no lasting effect. -/
theorem State.fireEntry_next (ha : (s.page p pg).act? e.tag = some a) (hi : decode ((a.words[e.tile]?).getD 0) = .ok i)
    (hv : exec i (s.begin p pg a e ((a.words[e.tile]?).getD 0)) = .next v)
    (hl : s.lasting v p pg a ((a.words[e.tile]?).getD 0) = false ∨ ((s.page p pg).unsettled a e = false ∧ s.staleFor p pg e = [])) :
    s.fireEntry p pg e = some (.next (v.after p pg e)) := by
  unfold State.fireEntry
  simp only [ha, hi, hv]
  rcases hl with hl | ⟨hu, hs⟩
  · rw [hl]; rfl
  · simp only [hu, hs]
    split <;> rfl

/-- A tile that may fire fires the set that goes first, where that firing goes on. -/
theorem State.fireTurn_fires (hn : s.freeAt p pg tile ≤ s.now) (hb : s.best p pg (s.eligibleSets p pg tile) = some e)
    (hf : s.fireEntry p pg e = some (.next v)) : s.fireTurn p pg tile = .next (v.askPromote p pg tile) := by
  unfold State.fireTurn
  refine (if_neg (Nat.not_lt.mpr hn)).trans ?_
  change s.tryFire p pg tile (s.eligibleSets p pg tile).length (s.eligibleSets p pg tile) = _
  cases hl : s.eligibleSets p pg tile with
  | nil => rw [hl] at hb; cases hb
  | cons d l =>
    rw [hl] at hb
    rw [List.length_cons, State.tryFire, hb]
    simp only [hf]

/-- The only set goes first. -/
theorem State.best_singleton : s.best p pg [e] = some e := rfl

/-- The second of two sets goes first where it goes before the other. -/
theorem State.best_pair (h : s.goesFirst p pg e d = true) : s.best p pg [d, e] = some e := if_pos h

end

/-- Settles O3: the turns of rows and tiles, case by case. -/
theorem aStepRunsTheInstruction : Obligations.AStepRunsTheInstruction := by
  refine ⟨fun s h => step_nil h, fun s t rest i a hag hact => ?rows, fun s p i a l => ?commands, fun s t rest p pg tile hag hact => ?tiles⟩
  case rows =>
    have hstep := step_row hag hact
    refine ⟨fun hw hl hq => ?_, fun hw hc he => ?_, fun hw hc hb => ?_, fun v hw hc he hl hv => ?_, rowWaits_free, rowWaits_reload, fun hw => ?_⟩
    · exact hstep.trans (State.rowTurn_runs hw (hq.imp_right fun hb => ⟨hb, hl⟩) (.inr hl))
    · exact hstep.trans (State.rowTurn_runs hw (.inl hc) (.inl he))
    · exact hstep.trans (State.rowTurn_queues hw hc hb)
    · exact hstep.trans (State.rowTurn_ends hw hc he hl hv)
    · exact hstep.trans (State.rowTurn_waits hw)
  case commands => exact ⟨rfl, State.runCmds_busy, fun v => State.runCmds_next⟩
  case tiles =>
    have hstep := step_fire hag hact
    refine ⟨fun hnone => ?_, fun hn ⟨e, he, ht, hel⟩ => ?_, fun e a i v hn hl ha hi hv hlast => ?_,
      fun d e a i v hn hl hd ha hi hv hlast => ?_, fun a e w => ?_⟩
    · exact hstep.trans (State.fireTurn_none (State.eligibleSets_nil.mpr hnone))
    · refine hstep.trans (State.fireTurn_early hn fun h => ?_)
      exact Bool.false_ne_true ((State.eligibleSets_nil.mp h e he ht).symm.trans hel)
    · exact hstep.trans (State.fireTurn_fires hn ((congrArg _ hl).trans State.best_singleton) (State.fireEntry_next ha hi hv hlast))
    · exact hstep.trans (State.fireTurn_fires hn ((congrArg _ hl).trans (State.best_pair hd)) (State.fireEntry_next ha hi hv hlast))
    · exact ⟨rfl, rfl, rfl, rfl, rfl, rfl, rfl, rfl, rfl, rfl, rfl⟩

/-! ### Sending the results of a firing (R5, R13, R36, R92) -/

/-- Sending a result of the firing in progress changes the agenda alone: its arrival joins, where it has a target that a tag reaches. -/
theorem State.send_agenda (s : State) {leaves : Nat} (h : s.now ≤ leaves) (tg : Target) (r : Token) :
    ∃ l, s.send s.cur leaves tg r = { s with agenda := l } ∧
      ∀ z, z ∈ l ↔ z ∈ s.agenda ∨ ∃ tag, tg ≠ .none ∧ s.carryTag s.cur tg = some tag ∧ z = s.arrivalOf leaves tg tag r := by
  obtain ⟨lat, rfl⟩ := Nat.exists_eq_add_of_le h
  obtain ⟨hsent, hkept⟩ := send_eq s lat tg r
  by_cases hn : tg = .none
  · exact ⟨s.agenda, hkept (.inl hn), by simp [hn]⟩
  cases hc : s.carryTag s.cur tg with
  | none => exact ⟨s.agenda, hkept (.inr hc), by simp⟩
  | some tag => exact ⟨_, hsent hn tag hc, by simp [mem_ins, hn, or_comm]⟩

/-- When the results of the firing in progress leave: after its latency, and not before those of its tile's earlier firings (R92). -/
def State.leavesAt (s : State) (lat : Nat) : Nat := max (s.now + lat) ((kget (s.page s.cur.p s.cur.pg).lastOut s.cur.tile).getD 0)

theorem State.now_le_leavesAt (s : State) (lat : Nat) : s.now ≤ s.leavesAt lat := le_max_of_le_left (Nat.le_add_right ..)

/-- A firing and its page once they have noted when its results leave. -/
def State.noteLeaves (s : State) (c : Cur) (leaves : Nat) : State :=
  (s.modPage c.p c.pg (fun y => { y.stir c.id leaves with lastOut := kset y.lastOut c.tile leaves })).modFire c.p c.pg c.fid
    (fun f => { f with leaves := leaves, phase := .run })

/-- Sending the results: both arrivals join the agenda, and the partitions note when the results leave. -/
theorem State.emit_agenda (s : State) (lat : Nat) (t0 t1 : Target) (r0 r1 : Token) :
    ∃ l, s.emit lat t0 t1 r0 r1 = { s with agenda := l, parts := (s.noteLeaves s.cur (s.leavesAt lat)).parts } ∧
      ∀ z, z ∈ l ↔ z ∈ s.agenda ∨ ∃ x ∈ [(t0, r0), (t1, r1)], ∃ tag, x.1 ≠ .none ∧ s.carryTag s.cur x.1 = some tag ∧
        z = s.arrivalOf (s.leavesAt lat) x.1 tag x.2 := by
  have hle := s.now_le_leavesAt lat
  obtain ⟨l0, h0, m0⟩ := s.send_agenda hle t0 r0
  obtain ⟨l1, h1, m1⟩ := State.send_agenda { s with agenda := l0 } hle t1 r1
  have m1 (z : Timed) : z ∈ l1 ↔ z ∈ l0 ∨ ∃ tag, t1 ≠ .none ∧ s.carryTag s.cur t1 = some tag ∧ z = s.arrivalOf (s.leavesAt lat) t1 tag r1 := m1 z
  have hsend : (s.send s.cur (s.leavesAt lat) t0 r0).send s.cur (s.leavesAt lat) t1 r1 = { s with agenda := l1 } := by rw [h0]; exact h1
  refine ⟨l1, congrArg (fun u : State => u.noteLeaves s.cur (s.leavesAt lat)) hsend, fun z => ?_⟩
  simp [m0, m1, or_assoc]

/-- Settles O20: by what `emit` makes of the agenda and the partitions. -/
theorem emissionEffect : Obligations.EmissionEffect := by
  intro s lat t0 t1 r0 r1 t leaves
  obtain ⟨l, ht, hmem⟩ := s.emit_agenda lat t0 t1 r0 r1
  have ht : t = _ := ht
  rw [ht]
  exact ⟨fun x hx hn tag htag => (hmem _).mpr (.inr ⟨x, hx, tag, hn, htag, rfl⟩), fun x hx => (hmem x).mpr (.inl hx), fun z => (hmem z).mp, rfl, rfl⟩

/-! ### Reset and boot (R7, R205, R241, R261, R419) -/

/-- Where nothing is retired, a die has as many active units as it should, of those it has. -/
theorem activeUnits_length {die phys n : Nat} (h : n ≤ phys) : (activeUnits die phys n []).length = n := by
  simp [activeUnits, h]

/-- A module without retired units has its ten clusters and 64 channels on each of its four dies (R420). -/
theorem Module.clusters_length {m : Module} (h : m.badClusters = []) : m.clusters.length = 40 := by
  simp [Module.clusters, h, activeUnits_length]
theorem Module.channels_length {m : Module} (h : m.badChannels = []) : m.channels.length = 256 := by
  simp [Module.channels, h, activeUnits_length]

/-- A boot of which no step fails turns the device on, with its active units and nothing of a partition (R419, R420). -/
theorem exec_powerOn_boots {s : State} (h : s.clearDevice.bootFails = none) :
    ∃ t, exec .powerOn s = .next t ∧ t.power = .on ∧ t.boot = (0, 0) ∧ t.clusters = s.module.clusters ∧ t.channels = s.module.channels ∧
      t.parts = [] ∧ t.windows = [] ∧ t.fe = [] := by
  change ∃ t, execPowerOn s = .next t ∧ _
  unfold execPowerOn
  simp only [h]
  refine ⟨_, rfl, ?_⟩
  split <;> split <;> exact ⟨rfl, rfl, rfl, rfl, rfl, rfl, rfl⟩

/-- The device at reset stands in the canonical forms. -/
theorem reset_sound : State.reset.sound := ⟨rfl, rfl⟩

/-- The state in which the first step's row runs: reset, with nothing pending. -/
def State.booting : State := { State.reset.atStep ⟨0, 0, 0, .row .powerOn {}⟩ [] with arg := {} }

/-- No step of the first boot fails. -/
theorem booting_bootFails : State.booting.clearDevice.bootFails = none := by decide

/-- The first step is the boot (R419, log 1). -/
theorem step_reset : step State.reset = exec .powerOn State.booting :=
  (step_row rfl rfl).trans (State.rowTurn_runs rfl (.inl rfl) (.inl rfl))

/-- The CSRs whose reset word is not 0. -/
theorem csrReset_values : (csrReset 0x080).toNat = 2 ∧ (csrReset 0x09F).toNat = 256 ∧ (csrReset 0x0AA).toNat = 64 ∧
    bits (csrReset 0x0B1).toNat 4 0 = 16 ∧ bits (csrReset 0x0B1).toNat 31 16 = 1024 ∧ (csrReset 0x0C6).toNat = 256 := by decide

/-- Every other row of the map has fields that reset to 0. -/
theorem csrMap_resets : ∀ d ∈ csrMap, d.num ∉ [0x080, 0x09F, 0x0AA, 0x0B1, 0x0C6] → d.fields.foldl (fun a f => a + f.reset * 2 ^ f.lo) 0 = 0 := by
  simp only [csrMap, List.forall_mem_append]
  decide

/-- A CSR resets to 0 unless it is one of those above. -/
theorem csrReset_zero {n : Nat} (h : n ∉ [0x080, 0x09F, 0x0AA, 0x0B1, 0x0C6]) : (csrReset n).toNat = 0 := by
  unfold csrReset
  cases hd : csrDef? n with
  | none => rfl
  | some d =>
    have hnum : d.num = n := by simpa using List.find?_some hd
    have hzero := csrMap_resets d (List.mem_of_find?_eq_some hd) (hnum ▸ h)
    simp only [hzero]
    rfl

/-- An object on the die of a partition that has none is free (R241). -/
theorem State.obj_free {s : State} {p h : Nat} (ho : (s.part p).objs = []) (hm : (s.part p).inMemory h = false) : (s.obj p h).st = .free := by
  simp [State.obj, Part.objPlace, ho, hm]

/-- The accumulator tiles of a new island are empty (R261). -/
theorem island_tiles_empty : ∀ t ∈ ({} : Island).tiles, t.st = .empty := by decide

/-- Settles O6: the boot by its equation and O5; a new partition's CSRs by the map's reset words. -/
theorem resetAndBoot : Obligations.ResetAndBoot := by
  refine ⟨reset_sound, rfl, rfl, rfl, rfl, ?boot, fun n => ?part, fun n => ⟨rfl, island_tiles_empty, rfl, rfl, rfl, rfl, rfl, rfl, rfl⟩⟩
  case boot =>
    obtain ⟨t, ht, hon, hboot, hcl, hch, hparts, hwin, hfe⟩ := exec_powerOn_boots booting_bootFails
    have hstep := step_reset.trans ht
    have hsound := (everyStepKeepsClockAndMemory _ _ hstep).1 reset_sound
    exact ⟨t, hstep, hsound, hon, hboot, hcl ▸ Module.clusters_length rfl, hch ▸ Module.channels_length rfl, hparts, hwin, hfe⟩
  case part =>
    obtain ⟨h80, h9F, hAA, hB1a, hB1b, hC6⟩ := csrReset_values
    exact ⟨h80, h9F, hAA, hB1a, hB1b, hC6, fun _ _ => csrReset_zero, fun s h hp hm => State.obj_free (by rw [hp]) (by rw [hp]; exact hm), rfl, rfl⟩

end Sys2Proof.Machine
end

section
/-! PROOFS of the statements of the sequential machine: predication, reads, routing, exits and loops. -/

namespace Sys2Proof.Machine

/-! ### Verdicts (R16 to R18) -/

section
variable {c : Cur} {pr : BitVec 2} {t : Token} {o : Option (BitVec 11)}

/-- A null P makes nulls, whatever PR holds (R17). -/
theorem Cur.verdict_of_null_p (h : isNull c.pt = true) : c.verdict pr = .nulls c.firstOrigin := by
  simp [Cur.verdict, Cur.anyNull, h]

/-- Where P lets the firing run, a null operand makes nulls. -/
theorem Cur.verdict_of_pRuns (h : c.pRuns pr) :
    c.verdict pr = if isNull c.l || isNull c.r || isNull c.c then .nulls c.firstOrigin else .run := by
  obtain ⟨hp, hrun⟩ := h
  simp [Cur.verdict, Cur.anyNull, hp, hrun]

/-- A P that is not null and does not let the firing run decides alone (log 5). -/
theorem Cur.verdict_of_predOf (hp : isNull c.pt = false) (h : predOf pr c.pt ≠ .run) : c.verdict pr = predOf pr c.pt := by
  unfold Cur.verdict
  simp only [hp, Bool.false_eq_true, if_false]

/-- A firing runs as P says where nothing else is null. -/
theorem Cur.verdict_of_full (hp : isNull c.pt = false) (hl : isNull c.l = false) (hr : isNull c.r = false) (hc : isNull c.c = false) :
    c.verdict pr = predOf pr c.pt := by
  by_cases h : predOf pr c.pt = .run
  · rw [Cur.verdict_of_pRuns ⟨hp, h⟩, h]
    simp [hl, hr, hc]
  · exact Cur.verdict_of_predOf hp h

/-- Without P a firing runs (R16). -/
theorem predOf_none : predOf pr none = .run := by
  unfold predOf
  split <;> simp_all

/-- PR 0 does not look at P. -/
theorem predOf_zero {p : Option Token} : predOf 0 p = .run := rfl

/-- PR 1 and PR 3 let a true P run, PR 2 a false one; otherwise a poisoned P makes nulls, and an unpoisoned one nothing, or nulls under PR 3. -/
theorem predOf_one : predOf 1 (some t) = if t.val.getLsbD 0 then .run else if t.pois then .nulls (some t.origin) else .silent := rfl
theorem predOf_two : predOf 2 (some t) = if !t.val.getLsbD 0 then .run else if t.pois then .nulls (some t.origin) else .silent := rfl
theorem predOf_three : predOf 3 (some t) = if t.val.getLsbD 0 then .run else if t.pois then .nulls (some t.origin) else .nulls none := rfl

/-- The first origin is that of the first poisoned operand in the order L, R, C, P (R82). -/
theorem Cur.firstOrigin_l {o : BitVec 11} (h : origOf c.l = some o) : c.firstOrigin = some o := by simp [Cur.firstOrigin, h]
theorem Cur.firstOrigin_r {o : BitVec 11} (hl : origOf c.l = none) (h : origOf c.r = some o) : c.firstOrigin = some o := by
  simp [Cur.firstOrigin, hl, h]
theorem Cur.firstOrigin_c {o : BitVec 11} (hl : origOf c.l = none) (hr : origOf c.r = none) (h : origOf c.c = some o) :
    c.firstOrigin = some o := by
  simp [Cur.firstOrigin, hl, hr, h]
theorem Cur.firstOrigin_none :
    c.firstOrigin = none ↔ origOf c.l = none ∧ origOf c.r = none ∧ origOf c.c = none ∧ origOf c.pt = none := by
  simp [Cur.firstOrigin, Option.or_eq_none_iff, and_assoc]

/-- A firing of the frame of R91 that is suppressed does nothing. -/
theorem frame_silent {s : State} {lat : Nat} {t1 t0 : Target} {run : State → State} (h : s.cur.verdict pr = .silent) :
    s.frame pr lat t1 t0 run = s.silent := by
  unfold State.frame; rw [h]

/-- A firing of the frame of R91 that is nulled sends nulls with its latency. -/
theorem frame_nulls {s : State} {lat : Nat} {t1 t0 : Target} {run : State → State} (h : s.cur.verdict pr = .nulls o) :
    s.frame pr lat t1 t0 run = s.emit lat t0 t1 (withPoison tokNull o) (withPoison tokNull o) := by
  unfold State.frame; rw [h]; rfl

/-- A routing form that P suppresses does nothing. -/
theorem raw_silent {s : State} {lat : Nat} {t1 t0 : Target} {run : State → State} (hp : isNull s.cur.pt = false)
    (h : predOf pr s.cur.pt = .silent) : s.rawFrame pr lat t1 t0 run = s.silent := by
  unfold State.rawFrame; simp [hp, h]

/-- A routing form that P nulls sends nulls. -/
theorem raw_nulls {s : State} {lat : Nat} {t1 t0 : Target} {run : State → State} (hp : isNull s.cur.pt = false)
    (h : predOf pr s.cur.pt = .nulls o) :
    s.rawFrame pr lat t1 t0 run = s.emit lat t0 t1 (withPoison tokNull o) (withPoison tokNull o) := by
  unfold State.rawFrame; simp only [hp, h]; rfl

/-- A null P makes a routing form send nulls. -/
theorem raw_null_p {s : State} {lat : Nat} {t1 t0 : Target} {run : State → State} (hp : isNull s.cur.pt = true) :
    s.rawFrame pr lat t1 t0 run =
      s.emit lat t0 t1 (withPoison tokNull s.cur.firstOrigin) (withPoison tokNull s.cur.firstOrigin) := by
  unfold State.rawFrame; simp only [hp]; rfl

end

/-- Every form of the chapter but MOV and NULL fires in the frame of R91, with its latency, PR and targets. -/
theorem exec_of_scalarForm {i : Instr} {lat : Nat} {pr : BitVec 2} {t1 t0 : Target} (h : scalarForm i = some (lat, pr, t1, t0)) (s : State) :
    ∃ run, exec i s = .next (s.frame pr lat t1 t0 run) := by
  cases i <;> cases h <;> exact ⟨_, rfl⟩

/-- What P alone decides for MOV, which routes a null L, and NULL, for which a null L is like any other. -/
theorem exec_mov_null_nulled {s : State} {pr : BitVec 2} {t1 t0 : Target} {o : Option (BitVec 11)}
    (h : if isNull s.cur.pt then o = s.cur.firstOrigin else predOf pr s.cur.pt = .nulls o) :
    ∀ i ∈ [Instr.mov pr t1 t0, Instr.null pr t1 t0], exec i s = .next (s.emit 1 t0 t1 (withPoison tokNull o) (withPoison tokNull o)) := by
  have hmov : exec (.mov pr t1 t0) s = .next (s.emit 1 t0 t1 (withPoison tokNull o) (withPoison tokNull o)) := by
    refine congrArg Host.Outcome.next ?_
    split at h
    · subst h; exact raw_null_p ‹_›
    · exact raw_nulls (Bool.not_eq_true _ ▸ ‹_›) h
  have hnull : exec (.null pr t1 t0) s = .next (s.emit 1 t0 t1 (withPoison tokNull o) (withPoison tokNull o)) := by
    refine congrArg Host.Outcome.next (frame_nulls ?_)
    split at h
    · subst h; exact Cur.verdict_of_null_p ‹_›
    · exact (Cur.verdict_of_predOf (Bool.not_eq_true _ ▸ ‹_›) (by rw [h]; nofun)).trans h
  simp [hmov, hnull]

/-- Settles O19: the verdict by its cases, the forms by the frame in which each fires. -/
theorem predicationAndSuppression : Obligations.PredicationAndSuppression := by
  refine ⟨fun c pr => ⟨fun t hp ht hl hr hc => ?verdicts, fun hp => ?noP, Cur.verdict_of_null_p, fun h hn => ?nulled, Cur.firstOrigin_none,
    fun o => Cur.firstOrigin_l, fun o => Cur.firstOrigin_r, fun o => Cur.firstOrigin_c⟩, fun s => ⟨fun i lat pr t1 t0 h => ?forms,
    fun pr t1 t0 i hi => ?routing⟩⟩
  case verdicts =>
    have hfull : ∀ pr, c.verdict pr = predOf pr (some t) := fun pr => hp ▸ Cur.verdict_of_full (by rw [hp]; exact ht) hl hr hc
    simp only [hfull]
    refine ⟨?_, ?_, ?_, ?_, ?_, ?_, ?_⟩ <;> rintro rfl
    · exact predOf_zero
    all_goals intro hb
    · rw [predOf_one, hb]; rfl
    · rw [predOf_one, hb]; rfl
    · rw [predOf_two, hb]; rfl
    · rw [predOf_two, hb]; rfl
    · rw [predOf_three, hb]; rfl
    · rw [predOf_three, hb]; rfl
  case noP => exact Cur.verdict_of_pRuns ⟨by rw [hp]; rfl, by rw [hp]; exact predOf_none⟩
  case nulled =>
    rw [Cur.verdict_of_pRuns h]
    rcases hn with hn | hn | hn <;> simp [hn]
  case forms =>
    obtain ⟨run, hrun⟩ := exec_of_scalarForm h s
    exact ⟨fun hv => hrun.trans (congrArg _ (frame_silent hv)), fun o hv => hrun.trans (congrArg _ (frame_nulls hv))⟩
  case routing =>
    refine ⟨fun hp => exec_mov_null_nulled (by rw [if_pos hp]) i hi, fun hp hs => ?_, fun o hp ho => exec_mov_null_nulled (by simpa [hp] using ho) i hi⟩
    have hmov : exec (.mov pr t1 t0) s = .next s.silent := congrArg Host.Outcome.next (raw_silent hp hs)
    have hnull : exec (.null pr t1 t0) s = .next s.silent :=
      congrArg Host.Outcome.next (frame_silent ((Cur.verdict_of_predOf hp (by rw [hs]; nofun)).trans hs))
    rcases List.mem_pair.mp hi with rfl | rfl
    · exact hmov
    · exact hnull

/-! ### READ, STEER, STEERF and MERGE (R124, R129, R130) -/

/-- READ sends the register as its activation holds it. -/
theorem exec_read {s : State} {g : BitVec 6} {t1 t0 : Target} {a : Act} {r : Reg} (ha : (s.page s.cur.p s.cur.pg).act? s.cur.tag = some a)
    (hr : a.regs[g.toNat]? = some r) :
    exec (.read g t1 t0) s = .next (s.emit 1 t0 t1 { val := r.val, pois := r.pois, origin := if r.pois then r.origin else 0 }
      { val := r.val, pois := r.pois, origin := if r.pois then r.origin else 0 }) := by
  have hreg : regAt s.curAct.regs g.toNat = r := by simp [State.curAct, ha, regAt, hr]
  change execRead g t1 t0 s = _
  unfold execRead
  rw [hreg]

/-- STEER, P letting it run: nulls where an operand is null, otherwise L to the target that R names. -/
theorem exec_steer {s : State} {pr : BitVec 2} {t1 t0 : Target} (h : s.cur.pRuns pr) :
    exec (.steer pr t1 t0) s = .next (if s.cur.anyNull then s.emit 1 t0 t1 (steerNull s.cur) (steerNull s.cur)
      else if s.rv.getLsbD 0 then s.emit 1 t0 .none (passed s.cur.firstOrigin (tokIn s.cur.l)) (passed s.cur.firstOrigin (tokIn s.cur.l))
      else s.emit 1 .none t1 (passed s.cur.firstOrigin (tokIn s.cur.l)) (passed s.cur.firstOrigin (tokIn s.cur.l))) := by
  change execSteer pr t1 t0 s = _
  unfold execSteer
  simp only [h.1, h.2, Bool.false_eq_true, if_false]

/-- A token that is passed on keeps its end-of-fibre flag. -/
theorem passed_eof (o : Option (BitVec 11)) (t : Token) : (passed o t).eof = t.eof := by cases o <;> rfl

/-- STEERF, P letting it run: nulls where an operand is null, otherwise L to T0 where it closes a fibre. -/
theorem exec_steerf {s : State} {pr : BitVec 2} {t1 t0 : Target} (h : s.cur.pRuns pr) :
    exec (.steerf pr t1 t0) s = .next (if s.cur.anyNull then s.emit 1 t0 t1 (steerNull s.cur) (steerNull s.cur)
      else if (tokIn s.cur.l).eof then s.emit 1 t0 .none (passed s.cur.firstOrigin (tokIn s.cur.l)) (passed s.cur.firstOrigin (tokIn s.cur.l))
      else s.emit 1 .none t1 (passed s.cur.firstOrigin (tokIn s.cur.l)) (passed s.cur.firstOrigin (tokIn s.cur.l))) := by
  change execSteerf pr t1 t0 s = _
  unfold execSteerf
  simp only [h.1, h.2, Bool.false_eq_true, if_false, passed_eof]

/-- MERGE, P letting it run: nulls where C is null, otherwise the token of the position that C names. -/
theorem exec_merge {s : State} {pr : BitVec 2} {t1 t0 : Target} (h : s.cur.pRuns pr) :
    exec (.merge pr t1 t0) s = .next (if isNull s.cur.c then
        s.emit 1 t0 t1 (withPoison tokNull s.cur.firstOrigin) (withPoison tokNull s.cur.firstOrigin)
      else s.emit 1 t0 t1 (passed s.cur.firstOrigin (if s.cv.getLsbD 0 then tokIn s.cur.l else tokIn s.cur.r))
        (passed s.cur.firstOrigin (if s.cv.getLsbD 0 then tokIn s.cur.l else tokIn s.cur.r))) :=
  congrArg Host.Outcome.next (raw_run s pr 1 t1 t0 _ h)

/-- Settles O22: each form by its equation. -/
theorem readsAndRouting : Obligations.ReadsAndRouting := by
  refine ⟨fun s g t1 t0 a r ha hr => ⟨fun hp => ?_, fun hp => ?_⟩,
    fun s pr t1 t0 h => ⟨fun hn => ⟨?_, ?_⟩, fun hn => ⟨?_, ?_⟩, fun hn => ?_, fun hn => ?_⟩⟩
  · rw [exec_read ha hr, hp]; rfl
  · rw [exec_read ha hr, hp]; rfl
  · rw [exec_steer h, hn]; rfl
  · rw [exec_steerf h, hn]; rfl
  · rw [exec_steer h, hn]; rfl
  · rw [exec_steerf h, hn]; rfl
  · rw [exec_merge h, hn]; rfl
  · rw [exec_merge h, hn]
    cases s.cv.getLsbD 0 <;> rfl

end Sys2Proof.Machine
end

section
/-! PROOFS of the statements of the sequential machine: the rules of the state's operations that they share. -/

namespace Sys2Proof.Machine

/-! ### More pending steps, and nothing else -/

/-- t is s with more steps pending. -/
def State.Adds (s t : State) : Prop := ∃ l, t = { s with agenda := l } ∧ ∀ x ∈ s.agenda, x ∈ l

section
variable {s t u : State}

theorem State.Adds.refl (s : State) : s.Adds s := ⟨s.agenda, rfl, fun _ h => h⟩

theorem State.Adds.trans (h : s.Adds t) (g : t.Adds u) : s.Adds u := by
  obtain ⟨l, rfl, hl⟩ := h
  obtain ⟨m, rfl, hm⟩ := g
  exact ⟨m, rfl, fun x hx => hm x (hl x hx)⟩

theorem State.Adds.parts (h : s.Adds t) : t.parts = s.parts := by obtain ⟨l, rfl, -⟩ := h; rfl
theorem State.Adds.part (h : s.Adds t) (p : Nat) : t.part p = s.part p := by obtain ⟨l, rfl, -⟩ := h; rfl
theorem State.Adds.page (h : s.Adds t) (p pg : Nat) : t.page p pg = s.page p pg := by obtain ⟨l, rfl, -⟩ := h; rfl
theorem State.Adds.mem (h : s.Adds t) : t.mem = s.mem := by obtain ⟨l, rfl, -⟩ := h; rfl
theorem State.Adds.agenda (h : s.Adds t) : ∀ x ∈ s.agenda, x ∈ t.agenda := by obtain ⟨l, rfl, hl⟩ := h; exact hl

/-- A step that is put into the agenda. -/
theorem State.adds_insTimed (s : State) (x : Timed) : s.Adds { s with agenda := insTimed x s.agenda } :=
  ⟨_, rfl, fun _ h => (mem_ins _ _ _).mpr (.inr h)⟩

theorem State.sched_adds (s : State) (at' src : Nat) (i : Instr) (a : Args) : s.Adds (s.sched at' src i a) := s.adds_insTimed _

/-- A row is pending once it has been put into the agenda. -/
theorem State.mem_sched (s : State) (at' src : Nat) (i : Instr) (a : Args) : ⟨at', 0, src, .row i a⟩ ∈ (s.sched at' src i a).agenda :=
  (mem_ins _ _ _).mpr (.inl rfl)

theorem State.schedCommit_adds (s : State) (at' src : Nat) (i : Instr) (a : Args) : s.Adds (s.schedCommit at' src i a) := s.adds_insTimed _

theorem State.schedFire_adds (s : State) (at' p pg tile : Nat) : s.Adds (s.schedFire at' p pg tile) := by
  unfold State.schedFire
  dsimp only
  split
  · exact .refl s
  · exact s.adds_insTimed _

/-- Adding steps one after the other adds them all. -/
theorem foldl_adds {β : Type} (f : State → β → State) (hf : ∀ s x, State.Adds s (f s x)) (l : List β) (s : State) : s.Adds (l.foldl f s) := by
  induction l generalizing s with
  | nil => exact .refl s
  | cons x l ih => exact (hf s x).trans (ih _)

theorem State.wake_adds (s : State) (p pg : Nat) : s.Adds (s.wake p pg) := by
  refine foldl_adds _ (fun s e => ?_) _ s
  split
  · exact s.schedFire_adds ..
  · exact .refl s

theorem State.replayLoads_adds (s : State) (p pg : Nat) (a : Act) (st : StoreRec) (wait : Nat) : s.Adds (s.replayLoads p pg a st wait) := by
  refine foldl_adds _ (fun s f => ?_) _ s
  split
  · exact s.sched_adds ..
  · exact .refl s

/-- Sending a token adds its arrival. -/
theorem State.send_adds (s : State) (c : Cur) (leaves : Nat) (tg : Target) (r : Token) : s.Adds (s.send c leaves tg r) := by
  unfold State.send
  split
  · exact .refl s
  · split
    · exact .refl s
    · exact s.sched_adds ..

/-- The arrival of a token that is sent, by the firing that sends it. -/
theorem State.mem_send (s : State) {c : Cur} {leaves : Nat} {tg : Target} {r : Token} {tag : Tag} (hn : tg ≠ .none)
    (ht : s.carryTag c tg = some tag) : ({ s with cur := c } : State).arrivalOf leaves tg tag r ∈ (s.send c leaves tg r).agenda := by
  unfold State.send
  rw [ht]
  cases tg with
  | none => exact absurd rfl hn
  | _ => exact s.mem_sched ..

end

/-! ### What the operations that answer and complete leave alone -/

/-- From s to t the clock, memory and the full words stand still, and no pending step is lost. -/
structure State.Grows (s t : State) : Prop where
  now : t.now = s.now
  mem : t.mem = s.mem
  fe : t.fe = s.fe
  agenda : ∀ x ∈ s.agenda, x ∈ t.agenda

section
variable {s t u : State}

theorem State.Grows.refl (s : State) : s.Grows s := ⟨rfl, rfl, rfl, fun _ h => h⟩

theorem State.Grows.trans (h : s.Grows t) (g : t.Grows u) : s.Grows u :=
  ⟨g.now.trans h.now, g.mem.trans h.mem, g.fe.trans h.fe, fun x hx => g.agenda x (h.agenda x hx)⟩

theorem State.Adds.grows (h : s.Adds t) : s.Grows t := by
  obtain ⟨l, rfl, hl⟩ := h
  exact ⟨rfl, rfl, rfl, hl⟩

/-- A change of a partition is none of these. -/
theorem State.modPart_grows (s : State) (p : Nat) (f : Part → Part) : s.Grows (s.modPart p f) := ⟨rfl, rfl, rfl, fun _ h => h⟩

/-- Completion fixes the commit of an activation, or does nothing. -/
theorem State.checkDone_cases (s : State) (p pg : Nat) (tag : Tag) : s.checkDone p pg tag = s ∨ ∃ t i,
    s.checkDone p pg tag = (s.modAct p pg tag (fun a => { a with commitAt := some t })).schedCommit t (srcOf pg 0) i { p := p, pg := pg, tag := tag } := by
  unfold State.checkDone
  dsimp only
  split
  · exact .inl rfl
  · split
    · exact .inl rfl
    · exact .inr ⟨_, _, rfl⟩

theorem State.checkDone_grows (s : State) (p pg : Nat) (tag : Tag) : s.Grows (s.checkDone p pg tag) := by
  obtain h | ⟨t, i, h⟩ := s.checkDone_cases p pg tag
  · rw [h]; exact .refl s
  · rw [h]; exact (s.modPart_grows p _).trans (State.schedCommit_adds ..).grows

end

/-- Reporting a poisoned store leaves every activation. -/
theorem reportPoison_act (s : State) (p : Nat) (o : BitVec 11) (va p' pg' : Nat) (tag : Tag) :
    ((s.reportPoison p o va false).page p' pg').act? tag = (s.page p' pg').act? tag :=
  (csr_act ..).trans ((csr_act ..).trans (csr_act ..))

/-! ### Exits (R126, R127, R176) -/

/-- A block address plus 8-byte units, modulo 2^64 (R28). -/
theorem blkPlus_eq (blk : Nat) (off : BitVec 20) : blkPlus blk off = (((blk : Int) + 8 * off.toInt) % 2 ^ 64).toNat := by
  unfold blkPlus wrap
  rw [mul_comm]
  norm_num

/-- Without R the high half of a far address is the block's (R127). -/
theorem farAddr_none (blk : Nat) (l : Word) : farAddr blk l none = blk - blk % 2 ^ 32 + l.toNat := by
  unfold farAddr
  dsimp only
  omega

/-! ### LOOP (R155, R168) -/

/-- LOOP reports a poisoned count (R85). -/
def State.noteCount (s : State) : State :=
  match origOf s.cur.l with
  | some o => s.reportPoison s.cur.p o 0 false
  | none => s

theorem State.noteCount_cur (s : State) : s.noteCount.cur = s.cur := by
  unfold State.noteCount
  cases origOf s.cur.l <;> rfl

theorem State.noteCount_act (s : State) (p pg : Nat) (tag : Tag) : (s.noteCount.page p pg).act? tag = (s.page p pg).act? tag := by
  unfold State.noteCount
  cases origOf s.cur.l with
  | none => rfl
  | some o => exact reportPoison_act ..

/-- A LOOP of a strand's own run that fires latches its count, unless it is 0. -/
theorem exec_loop_run {s : State} {pr : BitVec 2} {off : BitVec 20} (hv : s.cur.verdict pr = .run) (ho : s.curAct.ofStrand = true) :
    exec (.loop pr off) s = .next (if s.lv.toNat = 0 then s.noteCount.silent.settle
      else s.noteCount.silent.settle.modAct s.cur.p s.cur.pg s.cur.tag (fun a =>
        { a with latched := some (s.lv.toNat, blkPlus a.blk off, s.cur.tile, s.cur.fid) })) := by
  change execLoop pr off s = _
  unfold execLoop
  rw [hv]
  dsimp only
  rw [if_pos ho]
  change Host.Outcome.next (if s.noteCount.lv.toNat = 0 then s.noteCount.silent.settle
    else s.noteCount.silent.settle.modAct s.noteCount.cur.p s.noteCount.cur.pg s.noteCount.cur.tag (fun a =>
      { a with latched := some (s.noteCount.lv.toNat, blkPlus a.blk off, s.noteCount.cur.tile, s.noteCount.cur.fid) })) = _
  unfold State.lv
  rw [s.noteCount_cur]

/-- A LOOP of a handler activation raises DEPTH (R168). -/
theorem exec_loop_handler {s : State} {pr : BitVec 2} {off : BitVec 20} (hv : s.cur.verdict pr = .run) (ho : s.curAct.ofStrand = false) :
    exec (.loop pr off) s = .next (s.trap 0x07 1 0) := by
  change execLoop pr off s = _
  unfold execLoop
  rw [hv]
  dsimp only
  rw [if_neg (by simp [ho])]

/-- A LOOP that is suppressed or nulled counts as settled. -/
theorem exec_loop_not {s : State} {pr : BitVec 2} {off : BitVec 20} (hv : s.cur.verdict pr ≠ .run) :
    exec (.loop pr off) s = .next s.silent.settle := by
  change execLoop pr off s = _
  unfold execLoop
  split
  · exact absurd ‹_› hv
  · rfl

/-- The activation of a LOOP that has settled. -/
theorem State.settle_act {s : State} {a : Act} (h : (s.page s.cur.p s.cur.pg).act? s.cur.tag = some a) :
    (s.silent.settle.page s.cur.p s.cur.pg).act? s.cur.tag = some { a with settled := a.settled ++ [s.cur.tile] } := by
  have hs : (s.silent.page s.cur.p s.cur.pg).act? s.cur.tag = some a := (fire_act ..).trans h
  exact act_in s.silent s.cur.p s.cur.pg s.cur.tag (fun a => { a with settled := a.settled ++ [s.cur.tile] }) (fun _ => rfl) a hs

/-- Settles O23: each exit by its equation, LOOP by what becomes of its activation. -/
theorem exitsAndLoops : Obligations.ExitsAndLoops := by
  refine ⟨fun s pr exit off => ⟨fun hv => ⟨?_, fun r hr => ?_, fun hr => ?_, fun hrole hstrand hkind => ?_, fun hnot => ?_⟩, fun hv => ⟨?_, ?_, ?_⟩⟩,
    fun s pr off a ha => ?loops⟩
  · rw [← blkPlus_eq]
    exact congrArg Host.Outcome.next (bare_run s pr _ hv)
  · refine congrArg Host.Outcome.next ((bare_run s pr _ hv).trans ?_)
    rw [hr]; rfl
  · refine congrArg Host.Outcome.next ((bare_run s pr _ hv).trans ?_)
    rw [hr, farAddr_none]; rfl
  · refine congrArg Host.Outcome.next ((bare_run s pr _ hv).trans ?_)
    dsimp only
    rw [if_pos (by simp [hrole, hstrand, hkind])]; rfl
  · refine congrArg Host.Outcome.next ((bare_run s pr _ hv).trans ?_)
    dsimp only
    rw [if_neg (by simpa [and_assoc] using hnot)]; rfl
  · exact congrArg Host.Outcome.next (bare_not s pr _ hv)
  · exact congrArg Host.Outcome.next (bare_not s pr _ hv)
  · exact congrArg Host.Outcome.next (bare_not s pr _ hv)
  case loops =>
    have hcur : s.curAct = a := by simp [State.curAct, ha]
    have hsettled : (s.noteCount.silent.settle.page s.cur.p s.cur.pg).act? s.cur.tag = some { a with settled := a.settled ++ [s.cur.tile] } := by
      have h := State.settle_act (s := s.noteCount) (a := a) (by rw [s.noteCount_cur]; exact (s.noteCount_act ..).trans ha)
      rwa [s.noteCount_cur] at h
    refine ⟨fun hv ho hl => ⟨_, exec_loop_run hv (hcur ▸ ho), ?_⟩, fun hv ho hl => ⟨_, exec_loop_run hv (hcur ▸ ho), ?_⟩,
      fun hv => ⟨_, exec_loop_not hv, State.settle_act ha⟩, fun hv ho => exec_loop_handler hv (hcur ▸ ho)⟩
    · have hn : s.lv.toNat ≠ 0 := fun h => hl (BitVec.eq_of_toNat_eq h)
      rw [if_neg hn, ← blkPlus_eq]
      exact act_in _ s.cur.p s.cur.pg s.cur.tag (fun a => { a with latched := some (s.lv.toNat, blkPlus a.blk off, s.cur.tile, s.cur.fid) })
        (fun _ => rfl) _ hsettled
    · rw [if_pos (by rw [hl]; rfl)]
      exact hsettled

/-! ### Synchronisation (R243, R244) -/

/-- A partition with one firing, which has no operation's numbers of its own. -/
def State.oneFiring : State :=
  { State.reset with parts := [{ num := 0, pages := [{ num := 0, fires := [{ fid := 0, id := 0, strand := 0, tile := 0, tag := 0, word := 0 }] }] }] }

/-- The operations' numbers of the firings on page 0 of partition 0, after a step. -/
def firingNumbers : Out → List (List Nat)
  | .next t => (t.page 0 0).fires.map Fire.aux
  | _ => []

/-- Refutes O31: a synchronisation instruction that fires leaves its firing's `aux` as it was (State.sync), where the statement has it hold the
partition's next write number. -/
theorem not_syncRequests : ¬ Obligations.SyncRequests := by
  intro h
  have hrun := (h.1 State.oneFiring 0 .none .none (.amoAdd 0 .none .none) (List.mem_cons_self ..)).1 rfl
  have hleft : firingNumbers (exec (.amoAdd 0 .none .none) State.oneFiring) = [[]] := by decide
  have hwanted := congrArg firingNumbers hrun
  rw [hleft] at hwanted
  exact absurd hwanted (by decide)

/-- Settles O35: an answer sends its tokens, and what follows loses nothing. -/
theorem syncAnswers : Obligations.SyncAnswers := by
  intro s p pg h f r0 r1 c at' t sent
  let s0 := s.send c at' (targetsOf f.word).1 (withPoison r0 c.firstOrigin)
  let s1 := match r1 with
    | some u => s0.send c at' (targetsOf f.word).2 (withPoison u c.firstOrigin)
    | none => s0
  have h0 : s.Adds s0 := s.send_adds ..
  have h1 : s0.Adds s1 := by
    cases r1 with
    | none => exact .refl s0
    | some u => exact s0.send_adds ..
  have ht : s1.Grows t := (s1.modPart_grows p _).trans (State.checkDone_grows ..)
  have hall : s.Grows t := (h0.trans h1).grows.trans ht
  refine ⟨fun hn tag htag => ht.agenda _ (h1.agenda _ (s.mem_send hn htag)), fun r hr hn tag htag => ht.agenda _ ?_, hall.agenda, hall.mem, hall.fe⟩
  subst hr
  obtain ⟨l, hl, -⟩ := h0
  have htag : s0.carryTag c (targetsOf f.word).2 = some tag := by rw [hl]; exact htag
  have hsent := s0.mem_send (leaves := at') (r := withPoison r c.firstOrigin) hn htag
  rw [show ({ s0 with cur := c } : State).arrivalOf at' (targetsOf f.word).2 tag (withPoison r c.firstOrigin) =
    ({ s with cur := c } : State).arrivalOf at' (targetsOf f.word).2 tag (withPoison r c.firstOrigin) by rw [hl]; rfl] at hsent
  exact hsent

end Sys2Proof.Machine
end

section
/-! PROOFS of the statements of the sequential machine: loads, stores and engine commands that fire. -/

namespace Sys2Proof.Machine

/-- A bit of a word, read from its number. -/
theorem bitAt_toNat {n : Nat} (w : BitVec n) (i : Nat) : bitAt w.toNat i = w.getLsbD i := by
  simp [bitAt, BitVec.getLsbD, Nat.testBit_eq_decide_div_mod_eq, Nat.shiftRight_eq_div_pow, beq_eq_decide]

/-! ### What an update of a page leaves (R204) -/

/-- What an update of a partition leaves of every partition. -/
theorem part_modPart {α : Type} (π : Part → α) (s : State) (p q : Nat) (f : Part → Part) (hn : ∀ x, (f x).num = x.num) (hf : ∀ x, π (f x) = π x) :
    π ((s.modPart p f).part q) = π (s.part q) := by
  rcases part_mod s p q f hn with h | ⟨-, h⟩ <;> rw [h]
  exact hf _

/-- What an update of a page leaves of every page. -/
theorem page_modPage {α : Type} (π : Page → α) (s : State) (p pg q qg : Nat) (f : Page → Page) (hn : ∀ y, (f y).num = y.num)
    (hf : ∀ y, π (f y) = π y) : π ((s.modPage p pg f).page q qg) = π (s.page q qg) := by
  unfold State.modPage State.page
  rcases part_mod s p q (fun x => x.modPage pg f) (fun _ => rfl) with h | ⟨-, h⟩ <;> rw [h]
  rcases page_mod (s.part q) pg qg f hn with h | ⟨-, h⟩ <;> rw [h]
  exact hf _

/-- The mesh cost between tiles depends on the page map alone. -/
theorem pathCost_congr {x z : Part} (h : x.map = z.map) : x.pathCost = z.pathCost := by
  unfold Part.pathCost Part.hops Part.grid Part.place?
  rw [h]

/-- And so do the legs of a load. -/
theorem loadLegs_congr {s t : State} {p : Nat} (h : (t.part p).map = (s.part p).map) (pg tile kind va key : Nat) :
    t.loadLegs p pg tile kind va key = s.loadLegs p pg tile kind va key := by
  unfold State.loadLegs
  dsimp only
  rw [pathCost_congr h]

/-- An update of a page leaves every partition's page map. -/
theorem State.modPage_map (s : State) (p pg q : Nat) (f : Page → Page) : ((s.modPage p pg f).part q).map = (s.part q).map :=
  part_modPart Part.map s p q _ (fun _ => rfl) fun _ => rfl

/-- And the committed stores that are on their way. -/
theorem State.modPage_posted (s : State) (p pg q : Nat) (f : Page → Page) : ((s.modPage p pg f).part q).posted = (s.part q).posted :=
  part_modPart Part.posted s p q _ (fun _ => rfl) fun _ => rfl

/-- The firing that was updated. -/
theorem fire_in (s : State) (p pg n : Nat) (g : Fire → Fire) (hg : ∀ f, (g f).fid = f.fid) (f : Fire) (h : (s.page p pg).fire? n = some f) :
    ((s.modFire p pg n g).page p pg).fire? n = some (g f) := by
  unfold State.modFire
  rw [page_in]
  · unfold Page.fire? at *
    dsimp only
    rw [find_map' _ Fire.fid n g hg, h]; rfl
  · intro _; rfl
  · intro e; rw [e] at h; cases h

/-- A firing is found under its number. -/
theorem fire_fid {y : Page} {n : Nat} {f : Fire} (h : y.fire? n = some f) : f.fid = n := by
  have := List.find?_some h
  simpa using this

/-! ### An access that fires (R131, R132, R413) -/

section
variable {s : State} {pr : BitVec 2} {lsid : BitVec 5} {w : BitVec 3} {off : BitVec 6} {t0 : Target} {size key pte code detail : Nat}

/-- An access that passes its checks and meets no watchpoint goes on. -/
theorem State.accessM_ok {a : AccKind} {run : State → Nat → Nat → Nat → Nat → State}
    (hc : s.checkAccess s.cur.p w.toNat (s.winOf w.toNat) (s.ea w off size) size a = .ok (key, pte))
    (hw : (s.part s.cur.p).watch (bits (s.winOf w.toNat).attr.toNat 1 0) (s.ea w off size) size (!a.store || a.fe) (a.store || a.fe) = none) :
    s.accessM w off size a run = run s (bits (s.winOf w.toNat).attr.toNat 1 0) (s.ea w off size) key pte := by
  unfold State.accessM
  simp only [hc, hw]

/-- An access that fails its checks traps. -/
theorem State.accessM_error {a : AccKind} {run : State → Nat → Nat → Nat → Nat → State}
    (hc : s.checkAccess s.cur.p w.toNat (s.winOf w.toNat) (s.ea w off size) size a = .error (code, detail)) :
    s.accessM w off size a run = s.trap code detail (if code = 255 then detail else s.ea w off size) := by
  unfold State.accessM
  simp only [hc]

/-- The five ordinary loads are one operation of different sizes. -/
theorem exec_loads (s : State) (pr : BitVec 2) (lsid : BitVec 5) (w : BitVec 3) (off : BitVec 6) (t0 : Target) :
    ∀ x ∈ [(Instr.ldw pr lsid w off t0, 4), (.ldh pr lsid w off t0, 2), (.ldhu pr lsid w off t0, 2), (.ldb pr lsid w off t0, 1),
      (.ldbu pr lsid w off t0, 1)], exec x.1 s = .next (s.load pr lsid w off t0 x.2) := by
  simp only [List.forall_mem_cons]
  exact ⟨rfl, rfl, rfl, rfl, rfl, by simp⟩

/-- The four ordinary stores are one operation of different sizes, STM with its channel. -/
theorem exec_stores (s : State) (pr : BitVec 2) (lsid : BitVec 5) (w : BitVec 3) (off : BitVec 6) :
    ∀ x ∈ [(Instr.stw pr lsid w off, 4, false), (.sth pr lsid w off, 2, false), (.stb pr lsid w off, 1, false), (.stm pr lsid w off, 4, true)],
      exec x.1 s = .next (s.store pr lsid w off x.2.1 x.2.2) := by
  simp only [List.forall_mem_cons]
  exact ⟨rfl, rfl, rfl, rfl, by simp⟩

/-! ### Loads (R134, R147) -/

/-- The state in which a load's firing waits for its bytes. -/
def State.loadWaits (s : State) (lsid size kind va key pte : Nat) : State :=
  s.modFire s.cur.p s.cur.pg s.cur.fid (fun f => { f with
    phase := .out, lsid := lsid, va := va, key := key, size := size, aux := [kind, if isSO kind pte then 1 else 0, 0, 0] })

/-- A load that starts waits for its reply: 2 fclk where buffered stores give all its bytes, otherwise the way to memory. -/
theorem State.startLoad_cases (s : State) (lsid size kind va key pte : Nat) : ∃ at' x', s.startLoad lsid size kind va key pte =
    (s.loadWaits lsid size kind va key pte).sched at' (srcOf s.cur.pg s.cur.tile) .loadReply
      { p := s.cur.p, pg := s.cur.pg, fid := s.cur.fid, tag := s.cur.tag, x := x' } ∧
    ((x' = 1 ∧ at' = s.now + 2) ∨ (x' = 0 ∧ at' = s.now + (s.loadLegs s.cur.p s.cur.pg s.cur.tile kind va key).1)) := by
  have hlegs := loadLegs_congr (s := s) (t := s.loadWaits lsid size kind va key pte) (p := s.cur.p) (s.modPage_map ..)
    s.cur.pg s.cur.tile kind va key
  unfold State.startLoad
  dsimp only
  split
  · exact ⟨s.now + 2, 1, rfl, .inl ⟨rfl, rfl⟩⟩
  · refine ⟨s.now + (s.loadLegs s.cur.p s.cur.pg s.cur.tile kind va key).1, 0, ?_, .inr ⟨rfl, rfl⟩⟩
    rw [← hlegs]
    rfl

/-! ### Stores (R17, R22, R85, R135) -/

/-- The arrival of a store, or of its nulling (y = 1), at the store buffer. -/
def State.bufferStep (s : State) (lsid y : Nat) (l : List Nat) : Timed :=
  ⟨s.now + 1, 0, srcOf s.cur.pg s.cur.tile, .row .storeBufferPerform
    { p := s.cur.p, pg := s.cur.pg, fid := s.cur.fid, tag := s.cur.tag, x := lsid, y := y, l := l }⟩

theorem State.storeFrame_run {run : State → State} (h : s.cur.verdict pr = .run) : s.storeFrame pr lsid run = run s := by
  unfold State.storeFrame; rw [h]
theorem State.storeFrame_silent {run : State → State} (h : s.cur.verdict pr = .silent) : s.storeFrame pr lsid run = s.silent := by
  unfold State.storeFrame; rw [h]
theorem State.storeFrame_nulls {run : State → State} {o : Option (BitVec 11)} (h : s.cur.verdict pr = .nulls o) :
    s.storeFrame pr lsid run = s.nullStore lsid.toNat o := by
  unfold State.storeFrame; rw [h]

/-- Through a window without PT, or unpoisoned, a store goes on after its checks. -/
theorem State.poisonCheck_none {va : Nat} {run : State → State}
    (h : s.cur.storeOrigin = none ∨ (s.winOf w.toNat).attr.getLsbD 4 = false) : s.poisonCheck w va run = run s := by
  unfold State.poisonCheck
  rw [bitAt_toNat]
  rcases h with h | h
  · rw [h]
  · rw [h]
    split <;> rfl

/-- Through a window with PT set, a poisoned store traps. -/
theorem State.poisonCheck_trap {va : Nat} {run : State → State} {o : BitVec 11} (ho : s.cur.storeOrigin = some o)
    (hpt : (s.winOf w.toNat).attr.getLsbD 4 = true) : s.poisonCheck w va run = s.trap 0x08 o.toNat va := by
  unfold State.poisonCheck
  simp only [bitAt_toNat, ho, hpt, if_true]

/-- A store that goes on: its firing carries its access, its arrival at the store buffer is pending, and so may be replays of loads. -/
theorem State.store_run {stm : Bool} (hv : s.cur.verdict pr = .run)
    (hc : s.checkAccess s.cur.p w.toNat (s.winOf w.toNat) (s.ea w off size) size { store := true, stm := stm } = .ok (key, pte))
    (hw : (s.part s.cur.p).watch (bits (s.winOf w.toNat).attr.toNat 1 0) (s.ea w off size) size false true = none)
    (hp : s.cur.storeOrigin = none ∨ (s.winOf w.toNat).attr.getLsbD 4 = false) :
    let u := s.modFire s.cur.p s.cur.pg s.cur.fid (fun f => { f with
      leaves := s.now + 1, phase := .run, lsid := lsid.toNat, va := s.ea w off size, key := key, size := size
      aux := [bits (s.winOf w.toNat).attr.toNat 1 0, if isSO (bits (s.winOf w.toNat).attr.toNat 1 0) pte then 1 else 0,
        bits (s.winOf w.toNat).attr.toNat 7 5] })
    ({ u with agenda := insTimed (s.bufferStep lsid.toNat 0 []) u.agenda } : State).Adds (s.store pr lsid w off size stm) := by
  intro u
  unfold State.store
  rw [State.storeFrame_run hv, State.accessM_ok hc hw, State.poisonCheck_none hp]
  dsimp only
  split
  · exact State.replayLoads_adds ..
  · exact .refl _

end

/-- Settles O27: the frame decides, the checks answer, and the access sets out. -/
theorem loadsAndStoresFire : Obligations.LoadsAndStoresFire := by
  refine ⟨fun s pr lsid w off t0 x hx => ?loads, fun s pr lsid w off x hx => ?stores⟩
  case loads =>
    have hexec := exec_loads s pr lsid w off t0 x hx
    refine ⟨fun key pte hv hr hw => ?_, fun code detail hv hr => ?_, fun o hv => ?_, fun hv => ?_⟩
    · obtain ⟨at', x', hstart, hwhen⟩ := s.startLoad_cases lsid.toNat x.2 (bits (s.winOf w.toNat).attr.toNat 1 0) (s.ea w off x.2) key pte
      have ht := hexec.trans (congrArg Host.Outcome.next ((frame_run s pr 1 .none t0 _ hv).trans ((State.accessM_ok hr hw).trans hstart)))
      exact ⟨_, _, ht, rfl, rfl, rfl, at', x', State.mem_sched .., hwhen⟩
    · exact hexec.trans (congrArg _ ((frame_run s pr 1 .none t0 _ hv).trans (State.accessM_error hr)))
    · exact hexec.trans (congrArg _ (frame_nulls hv))
    · exact hexec.trans (congrArg _ (frame_silent hv))
  case stores =>
    have hexec := exec_stores s pr lsid w off x hx
    refine ⟨fun key pte hv hr hw hp => ?_, fun o key pte hv hr hw ho hpt => ?_, fun code detail hv hr => ?_, fun o hv => ?_, fun hv => ?_⟩
    · have hadds := State.store_run (lsid := lsid) hv hr hw hp
      exact ⟨_, _, hexec, rfl, hadds.parts, hadds.mem, hadds.agenda _ ((mem_ins _ _ _).mpr (.inl rfl))⟩
    · exact hexec.trans (congrArg _ ((State.storeFrame_run hv).trans ((State.accessM_ok hr hw).trans (State.poisonCheck_trap ho hpt))))
    · exact hexec.trans (congrArg _ ((State.storeFrame_run hv).trans (State.accessM_error hr)))
    · refine ⟨_, hexec.trans (congrArg _ (State.storeFrame_nulls hv)), ?_⟩
      cases o <;> exact State.mem_sched ..
    · exact hexec.trans (congrArg _ (State.storeFrame_silent hv))

end Sys2Proof.Machine
end

section
/-! PROOFS of the statements of the sequential machine: committed stores that perform, the replies of loads, and engine commands. -/

namespace Sys2Proof.Machine

/-- The partition that was updated, where it exists. -/
theorem part_in (s : State) (p : Nat) (f : Part → Part) (hf : ∀ x, (f x).num = x.num) (hne : s.part p ≠ { num := p }) :
    (s.modPart p f).part p = f (s.part p) := by
  unfold State.modPart State.part at *
  dsimp only at *
  rw [find_map' s.parts Part.num p f hf]
  cases h : s.parts.find? (fun x => x.num == p) with
  | none => rw [h] at hne; exact absurd rfl hne
  | some x => rfl

/-! ### The accounts of memory: guard counters and Plaiters (R287, R379) -/

/-- From s to t only the agenda and what keeps account of memory change. -/
structure State.Accounts (s t : State) : Prop where
  parts : t.parts = s.parts
  core : t.core = s.core
  mem : t.mem = s.mem

section
variable {s t u : State}

theorem State.Accounts.refl (s : State) : s.Accounts s := ⟨rfl, rfl, rfl⟩

theorem State.Accounts.trans (h : s.Accounts t) (g : t.Accounts u) : s.Accounts u :=
  ⟨g.parts.trans h.parts, g.core.trans h.core, g.mem.trans h.mem⟩

theorem State.reencryptFail_accounts (s : State) (line : Nat) : s.Accounts (s.reencryptFail line) := by
  unfold State.reencryptFail
  dsimp only
  split
  · exact .refl s
  · split
    · exact ⟨rfl, rfl, rfl⟩
    · split <;> exact ⟨rfl, rfl, rfl⟩

theorem State.countLine_accounts (s : State) (line : Nat) : s.Accounts (s.countLine line) := by
  unfold State.countLine
  dsimp only
  split
  · exact (s.reencryptFail_accounts line).trans ⟨rfl, rfl, rfl⟩
  · exact ⟨rfl, rfl, rfl⟩

theorem State.plaiterMark_accounts (s : State) (hit : PlaitEnt → Bool) : s.Accounts (s.plaiterMark hit) := by
  have hsched (l : List PlaitEnt) : ∀ s : State, s.Accounts (l.foldl (fun s e =>
      s.sched s.now 0 .plaiterCompileDone { p := e.part, x := e.die, y := e.pa, z := 2 }) s) := by
    induction l with
    | nil => exact fun s => .refl s
    | cons e l ih => exact fun s => State.Accounts.trans (t := s.sched s.now 0 .plaiterCompileDone _) ⟨rfl, rfl, rfl⟩ (ih _)
  exact (hsched _ s).trans ⟨rfl, rfl, rfl⟩

/-! ### A line's write (R224) -/

/-- Memory after bytes are set one after the other. -/
def setCells (m : List Host.Cell) (cells : List (Nat × Byte)) : List Host.Cell := cells.foldl (fun m c => Mem.set m c.1 c.2) m

/-- A byte that no cell names stays. -/
theorem byte_setCells_other {a : Nat} (cells : List (Nat × Byte)) : ∀ {m : List Host.Cell}, Mem.wf m = true → (∀ c ∈ cells, c.1 ≠ a) →
    Mem.byte (setCells m cells) a = Mem.byte m a := by
  induction cells with
  | nil => exact fun _ _ => rfl
  | cons c cells ih =>
    intro m w h
    obtain ⟨hc, hcs⟩ := List.forall_mem_cons.mp h
    exact (ih (Mem.set_wf w) hcs).trans (Mem.byte_set_other (Ne.symm hc) w)

/-- The bytes of cells with different keys all stand in memory. -/
theorem byte_setCells_same (cells : List (Nat × Byte)) : ∀ {m : List Host.Cell}, Mem.wf m = true → (cells.map Prod.fst).Nodup →
    ∀ c ∈ cells, Mem.byte (setCells m cells) c.1 = c.2 := by
  induction cells with
  | nil => simp
  | cons c cells ih =>
    intro m w hd
    obtain ⟨hc, hcs⟩ := List.nodup_cons.mp hd
    refine List.forall_mem_cons.mpr ⟨?_, ih (Mem.set_wf w) hcs⟩
    have hother : ∀ d ∈ cells, d.1 ≠ c.1 := fun d hd he => hc (he ▸ List.mem_map_of_mem hd)
    exact (byte_setCells_other cells (Mem.set_wf w) hother).trans (Mem.byte_set_same w (Nat.zero_le _))

/-- The state once the bytes of a line's write stand in memory. -/
def State.withCells (s : State) (cells : List (Nat × Byte)) : State :=
  { s with oldPtes := s.noteOld (setCells s.mem cells) (cells.map (fun c => c.1 / 8 * 8)).eraseDups, mem := setCells s.mem cells }

/-- A line's write sets its bytes, and otherwise only keeps account. -/
theorem State.lineWrite_accounts (s : State) (cells : List (Nat × Byte)) : (s.withCells cells).Accounts (s.lineWrite cells) := by
  cases cells with
  | nil => exact .refl _
  | cons c cells =>
    obtain ⟨k, b⟩ := c
    have hcount := (s.withCells ((k, b) :: cells)).countLine_accounts (k / 64)
    refine ite_keeps (P := (s.withCells ((k, b) :: cells)).Accounts) (.refl _) (State.Accounts.trans ?_ (State.plaiterMark_accounts ..))
    exact ite_keeps (P := (s.withCells ((k, b) :: cells)).Accounts) (hcount.trans ⟨rfl, rfl, rfl⟩) hcount

end

/-! ### Committed stores that perform (R22, R224) -/

/-- A partition but for its committed stores on their way. -/
def Part.unposted (x : Part) : Part := { x with posted := [] }

/-- From s to t committed stores perform: nothing changes but memory with its accounts, and the stores that are on their way. -/
structure State.Performs (s t : State) : Prop where
  core : t.core = s.core
  parts : ∀ p, (t.part p).unposted = (s.part p).unposted

section
variable {s t u : State}

theorem State.Performs.refl (s : State) : s.Performs s := ⟨rfl, fun _ => rfl⟩
theorem State.Performs.trans (h : s.Performs t) (g : t.Performs u) : s.Performs u := ⟨g.core.trans h.core, fun p => (g.parts p).trans (h.parts p)⟩

theorem State.Accounts.performs (h : s.Accounts t) : s.Performs t := ⟨h.core, fun p => by unfold State.part; rw [h.parts]⟩

theorem State.Performs.now (h : s.Performs t) : t.now = s.now := by have := congrArg State.now h.core; exact this
theorem State.Performs.cur (h : s.Performs t) : t.cur = s.cur := by have := congrArg State.cur h.core; exact this
theorem State.Performs.page (h : s.Performs t) (p pg : Nat) : t.page p pg = s.page p pg := by
  have := congrArg (fun x : Part => x.page pg) (h.parts p); exact this
theorem State.Performs.map (h : s.Performs t) (p : Nat) : (t.part p).map = (s.part p).map := by have := congrArg Part.map (h.parts p); exact this

theorem State.Performs.fe (h : s.Performs t) : t.fe = s.fe := by have := congrArg State.fe h.core; exact this

theorem State.lineWrite_performs (s : State) (cells : List (Nat × Byte)) : s.Performs (s.lineWrite cells) :=
  State.Performs.trans (t := s.withCells cells) ⟨rfl, fun _ => rfl⟩ (s.lineWrite_accounts cells).performs

/-- The posted store with a number performs. -/
theorem State.performPosted_performs (s : State) (p wid : Nat) : s.Performs (s.performPosted p wid) := by
  have hdrop : s.Performs (s.modPart p (fun x => { x with posted := x.posted.filter (fun v => v.wid != wid) })) :=
    ⟨rfl, fun q => part_modPart Part.unposted s p q _ (fun _ => rfl) fun _ => rfl⟩
  unfold State.performPosted
  split
  · exact .refl s
  · refine ite_keeps (P := s.Performs) (hdrop.trans ⟨rfl, fun _ => rfl⟩) (hdrop.trans (State.lineWrite_performs _ _))

/-- So do all the stores of one ID. -/
theorem State.flush_performs (s : State) (p id : Nat) : s.Performs (s.flush p id) := by
  suffices h : ∀ (l : List Posted) (s : State), s.Performs (l.foldl (fun s w => s.performPosted p w.wid) s) from h _ s
  intro l
  induction l with
  | nil => exact State.Performs.refl
  | cons w l ih => exact fun s => (s.performPosted_performs p w.wid).trans (ih _)

/-- A posted store whose line is in order performs: its bytes stand in memory together and no other changes, and it is posted no more. -/
theorem State.performPosted_found {p wid : Nat} {w : Posted} (hs : s.sound) (hw : (s.part p).posted.find? (fun v => v.wid == wid) = some w)
    (hgood : ∀ c, w.cells.head? = some c → s.badAt c.1 1 = false) (hd : (w.cells.map Prod.fst).Nodup) :
    let t := s.performPosted p wid
    t.fe = s.fe ∧ (∀ v ∈ (t.part p).posted, v.wid ≠ wid) ∧ (∀ c ∈ w.cells, Mem.byte t.mem c.1 = c.2) ∧
      (∀ a, (∀ c ∈ w.cells, c.1 ≠ a) → Mem.byte t.mem a = Mem.byte s.mem a) := by
  intro t
  let v := s.modPart p (fun x => { x with posted := x.posted.filter (fun v => v.wid != wid) })
  have hmem : t.parts = v.parts ∧ t.mem = setCells s.mem w.cells := by
    have hwrite := State.lineWrite_accounts v w.cells
    have ht : t = if (w.cells.length < 64 && v.badAt (((w.cells.head?).map Prod.fst).getD 0) 1) = true
        then v.badRead p (((w.cells.head?).map Prod.fst).getD 0) else v.lineWrite w.cells := by
      change s.performPosted p wid = _
      unfold State.performPosted
      rw [hw]
    cases hc : w.cells with
    | nil =>
      rw [hc] at ht
      rw [ht]
      exact ite_keeps (P := fun t : State => t.parts = v.parts ∧ t.mem = s.mem) ⟨rfl, rfl⟩ ⟨rfl, rfl⟩
    | cons c cells =>
      have hbad : v.badAt (((w.cells.head?).map Prod.fst).getD 0) 1 = false := by rw [hc]; exact hgood c (by rw [hc]; rfl)
      rw [ht, hbad, Bool.and_false, if_neg Bool.false_ne_true, ← hc]
      exact ⟨hwrite.parts, hwrite.mem⟩
  have hfe : t.fe = s.fe := (s.performPosted_performs p wid).fe
  have hposted : ∀ x ∈ (t.part p).posted, x.wid ≠ wid := by
    have hpart : t.part p = v.part p := by unfold State.part; rw [hmem.1]
    have hdrop : v.part p = _ := part_in s p (fun x => { x with posted := x.posted.filter (fun v => v.wid != wid) }) (fun _ => rfl)
      fun e => by rw [e] at hw; cases hw
    rw [hpart, hdrop]
    exact fun x hx => by simpa using (List.mem_filter.mp hx).2
  refine ⟨hfe, hposted, ?_, ?_⟩
  · rw [hmem.2]; exact byte_setCells_same w.cells hs.1 hd
  · rw [hmem.2]; exact fun a => byte_setCells_other w.cells hs.1

end

/-! ### The activations of a page, but for what is passed between them -/

/-- An activation but for the registers that it is given, and for when it commits. -/
def Act.shell (a : Act) : Act := { a with regs := [], unres := [], regFrom := [], commitAt := none }

/-- From s to t memory stays, and the activations of a page but for what is passed between them and for when they commit. -/
structure State.SameActs (p pg : Nat) (s t : State) : Prop where
  mem : t.mem = s.mem
  acts : ∀ tag, ((t.page p pg).act? tag).map Act.shell = ((s.page p pg).act? tag).map Act.shell

section
variable {p pg : Nat} {s t u : State}

theorem State.SameActs.refl (s : State) : State.SameActs p pg s s := ⟨rfl, fun _ => rfl⟩
theorem State.SameActs.trans (h : State.SameActs p pg s t) (g : State.SameActs p pg t u) : State.SameActs p pg s u :=
  ⟨g.mem.trans h.mem, fun tag => (g.acts tag).trans (h.acts tag)⟩

/-- An activation has one of the same shell after it. -/
theorem State.SameActs.act (h : State.SameActs p pg s t) {tag : Tag} {a : Act} (ha : (s.page p pg).act? tag = some a) :
    ∃ b, (t.page p pg).act? tag = some b ∧ b.shell = a.shell := by
  have h := h.acts tag
  rw [ha] at h
  exact Option.map_eq_some_iff.mp h

/-- Activations of the same shell hold the same stores, exits and deliveries. -/
theorem Act.stores_of_shell {a b : Act} (h : b.shell = a.shell) : b.stores = a.stores := by have := congrArg Act.stores h; exact this
theorem Act.nulled_of_shell {a b : Act} (h : b.shell = a.shell) : b.nulled = a.nulled := by have := congrArg Act.nulled h; exact this

theorem State.Adds.sameActs (h : s.Adds t) : State.SameActs p pg s t := ⟨h.mem, fun tag => by rw [h.page]⟩

/-- An update of a page that leaves its activations. -/
theorem State.modPage_sameActs (s : State) (q qg : Nat) (f : Page → Page) (hn : ∀ y, (f y).num = y.num) (hf : ∀ y, (f y).acts = y.acts) :
    State.SameActs p pg s (s.modPage q qg f) :=
  ⟨rfl, fun tag => page_modPage (fun y => (y.act? tag).map Act.shell) s q qg p pg f hn fun y => by unfold Page.act?; rw [hf]⟩

/-- An update of an activation that leaves its shell. -/
theorem State.modAct_sameActs (s : State) (q qg : Nat) (tag : Tag) (f : Act → Act) (ht : ∀ a, (f a).tag = a.tag) (hf : ∀ a, (f a).shell = a.shell) :
    State.SameActs p pg s (s.modAct q qg tag f) := by
  refine ⟨rfl, fun tag' => page_modPage (fun y => (y.act? tag').map Act.shell) s q qg p pg _ (fun _ => rfl) fun y => ?_⟩
  have htag : ∀ a : Act, (if a.tag == tag then f a else a).tag = a.tag := fun a => by split <;> simp [ht]
  have hshell : ∀ a : Act, (if a.tag == tag then f a else a).shell = a.shell := fun a => by split <;> simp [hf]
  unfold Page.act?
  rw [List.find?_map, Option.map_map]
  simp only [Function.comp_def, htag, hshell]

theorem State.checkDone_sameActs (s : State) (q qg : Nat) (tag : Tag) : State.SameActs p pg s (s.checkDone q qg tag) := by
  obtain h | ⟨t, i, h⟩ := s.checkDone_cases q qg tag
  · rw [h]; exact .refl s
  · rw [h]
    exact (s.modAct_sameActs q qg tag (fun a => { a with commitAt := some t }) (fun _ => rfl) fun _ => rfl).trans (State.schedCommit_adds ..).sameActs

end

/-! ### The store buffer (R22 to R24) -/

section
variable {s : State} {a : Act} {f : Fire}

/-- What arrives at the store buffer, as its activation keeps it: a store, or an LSID that counts as nulled. -/
def Act.buffer (a : Act) (null : Bool) (n : NullRec) (st : StoreRec) : Act :=
  if null then { a with nulled := a.nulled ++ [n] } else { a with stores := a.stores ++ [st] }

theorem Act.buffer_tag (a : Act) (null : Bool) (n : NullRec) (st : StoreRec) : (a.buffer null n st).tag = a.tag := by
  cases null <;> rfl

/-- The nulled LSID that arrives at the store buffer. -/
def State.nullArrival (s : State) (f : Fire) : NullRec :=
  { lsid := s.arg.x, slot := f.tile, fid := f.fid, origin := s.arg.l.head?.map (BitVec.ofNat 11) }

/-- A first delivery of an LSID joins its activation's buffer. -/
theorem exec_storeBufferPerform_first (ha : (s.page s.arg.p s.arg.pg).act? s.arg.tag = some a) (hf : (s.page s.arg.p s.arg.pg).fire? s.arg.fid = some f)
    (hd : a.lsidDone s.arg.x = false) : ∃ t, exec .storeBufferPerform s = .next t ∧ t.mem = s.mem ∧ ∃ c,
      (t.page s.arg.p s.arg.pg).act? s.arg.tag = some c ∧ c.shell = (a.buffer (s.arg.y == 1) (s.nullArrival f) f.storeRec).shell := by
  have htag : a.tag = s.arg.tag := by simpa using List.find?_some ha
  let b := a.buffer (s.arg.y == 1) (s.nullArrival f) f.storeRec
  let s1 := s.modAct s.arg.p s.arg.pg a.tag (fun a => a.buffer (s.arg.y == 1) (s.nullArrival f) f.storeRec)
  let s2 := s1.modFire s.arg.p s.arg.pg f.fid (fun f => { f with phase := .done, acted := true })
  let s3 := if s.arg.y == 1 then s2 else s2.replayLoads s.arg.p s.arg.pg a f.storeRec 0
  have hexec : exec .storeBufferPerform s = .next ((s3.wake s.arg.p s.arg.pg).checkDone s.arg.p s.arg.pg a.tag) := by
    change execStoreBufferPerform s = _
    unfold execStoreBufferPerform
    simp only [ha, hf]
    rw [if_neg (by simp [hd])]
    rfl
  have h2 : (s2.page s.arg.p s.arg.pg).act? s.arg.tag = some b :=
    (fire_act ..).trans (htag ▸ act_in s s.arg.p s.arg.pg a.tag _ (fun a => a.buffer_tag ..) a (htag ▸ ha))
  have h3 : s2.Adds s3 := ite_keeps (P := s2.Adds) (.refl s2) (s2.replayLoads_adds ..)
  have hrest := ((h3.trans (s3.wake_adds s.arg.p s.arg.pg)).sameActs (p := s.arg.p) (pg := s.arg.pg)).trans
    (State.checkDone_sameActs (s3.wake s.arg.p s.arg.pg) s.arg.p s.arg.pg a.tag)
  exact ⟨_, hexec, hrest.mem, hrest.act h2⟩

/-- A second delivery of an LSID raises TAGDUP, and both are kept. -/
theorem exec_storeBufferPerform_second (ha : (s.page s.arg.p s.arg.pg).act? s.arg.tag = some a) (hf : (s.page s.arg.p s.arg.pg).fire? s.arg.fid = some f)
    (hd : a.lsidDone s.arg.x = true) : exec .storeBufferPerform s =
      .next (s.dupStore s.arg.p s.arg.pg a f.tile s.arg.x (if s.arg.y == 1 then
          { tag := a.tag, id := a.id, strand := a.strand, nulled := [s.nullArrival f] } else
          { tag := a.tag, id := a.id, strand := a.strand, stores := [f.storeRec] } : Act).heldStores) := by
  change execStoreBufferPerform s = _
  unfold execStoreBufferPerform
  simp only [ha, hf]
  rw [if_pos hd]
  rfl

end

/-! ### The slots of a tile's SRAM (R205) -/

section
variable {s : State} {p va src : Nat} {row : Instr} {a : Args} {run : State → State}

/-- The first fclk, from now on, in which a tile's SRAM serves no access yet. -/
def State.sramNext (s : State) (p va : Nat) : Nat := max s.now (((kget (s.page p (fabPage va)).sram (fabTile va)).map (· + 1)).getD 0)

/-- The state once an access has taken that slot. -/
def State.sramTaken (s : State) (p va : Nat) : State :=
  s.modPage p (fabPage va) (fun y => { y with sram := kset y.sram (fabTile va) (s.sramNext p va) })

/-- An access that has its slot acts. -/
theorem State.sramTurn_again (hy : a.y = 1) : s.sramTurn p va src row a run = run s := if_pos hy

/-- An access that finds this fclk's slot free acts. -/
theorem State.sramTurn_now (hy : a.y ≠ 1) (hn : s.sramNext p va = s.now) : s.sramTurn p va src row a run = run (s.sramTaken p va) :=
  (if_neg hy).trans (if_pos hn)

/-- An access that finds it taken comes again in the next free one. -/
theorem State.sramTurn_later (hy : a.y ≠ 1) (hn : s.now < s.sramNext p va) :
    s.sramTurn p va src row a run = (s.sramTaken p va).sched (s.sramNext p va) src row { a with y := 1 } :=
  (if_neg hy).trans (if_neg (Nat.ne_of_gt hn))

/-- The slot is this fclk's where the last one taken has passed. -/
theorem State.sramNext_now (h : ∀ k, kget (s.page p (fabPage va)).sram (fabTile va) = some k → k < s.now) : s.sramNext p va = s.now := by
  unfold State.sramNext
  cases hk : kget (s.page p (fabPage va)).sram (fabTile va) with
  | none => simp
  | some k => simpa [Nat.succ_le_iff] using h k hk

/-- The slot follows the last one taken where that is still to come. -/
theorem State.sramNext_later {k : Nat} (hk : kget (s.page p (fabPage va)).sram (fabTile va) = some k) (h : s.now ≤ k) : s.sramNext p va = k + 1 := by
  unfold State.sramNext
  rw [hk]
  exact max_eq_right (Nat.le_succ_of_le h)

end

/-- Settles O30: the store buffer by its two cases, a committed store by what it performs, in its slot. -/
theorem storesPerform : Obligations.StoresPerform := by
  refine ⟨fun s a f ha hf => ⟨fun hd => ?first, fun hd hy => ?nulledTwice, fun hd hy => ?storedTwice⟩, fun s w hs hw hgood hnd => ?performs⟩
  case first =>
    obtain ⟨t, hexec, hmem, c, hc, hshell⟩ := exec_storeBufferPerform_first ha hf hd
    refine ⟨t, hexec, hmem, fun hy => ⟨c, hc, ?_, ?_⟩, fun hy => ⟨c, hc, ?_, ?_⟩⟩
    · rw [Act.stores_of_shell hshell, beq_false_of_ne hy]; rfl
    · rw [Act.nulled_of_shell hshell, beq_false_of_ne hy]; rfl
    · rw [Act.stores_of_shell hshell, hy]; rfl
    · rw [Act.nulled_of_shell hshell, hy]; rfl
  case nulledTwice => rw [exec_storeBufferPerform_second ha hf hd, hy]; rfl
  case storedTwice => rw [exec_storeBufferPerform_second ha hf hd, beq_false_of_ne hy]; rfl
  case performs =>
    have hexec : exec .tileSramStore s = .next (s.sramTurn s.arg.p w.va (srcOf s.arg.pg w.slot) .tileSramStore s.arg
        fun s => s.performPosted s.arg.p s.arg.x) := by
      change execTileSramStore s = _
      unfold execTileSramStore
      rw [hw]
    have hnow := State.performPosted_found hs hw hgood hnd
    refine ⟨fun k hk hle hy => ?later, fun i hi hslot => ?_⟩
    case later =>
      have hnext := State.sramNext_later hk hle
      rw [hexec, State.sramTurn_later hy (hnext ▸ Nat.lt_succ_of_le hle)]
      unfold State.sramTaken
      rw [hnext]
    simp only [List.mem_cons, List.not_mem_nil, or_false] at hi
    rcases hi with rfl | rfl | rfl
    · exact ⟨_, rfl, hnow⟩
    · by_cases hy : s.arg.y = 1
      · exact ⟨_, hexec.trans (congrArg _ (State.sramTurn_again hy)), hnow⟩
      · have hnext := State.sramNext_now ((hslot rfl).resolve_left hy)
        have hfound : ((s.sramTaken s.arg.p w.va).part s.arg.p).posted.find? (fun v => v.wid == s.arg.x) = some w :=
          (congrArg _ (s.modPage_posted ..)).trans hw
        refine ⟨_, hexec.trans (congrArg _ (State.sramTurn_now hy hnext)), ?_⟩
        exact State.performPosted_found hs hfound hgood hnd
    · exact ⟨_, rfl, hnow⟩

end Sys2Proof.Machine
end

section
/-! PROOFS of the statements of the sequential machine: engine instructions that fire (R262, R296, R309). -/

namespace Sys2Proof.Machine

section
variable {s : State} {pr : BitVec 2} {t1 t0 : Target} {f : Fire}

/-- The ten island instructions are one operation. -/
theorem exec_islands (s : State) (pr acc : BitVec 2) (t1 t0 : Target) : ∀ i ∈ [Instr.mmcfg pr acc t1 t0, .mmaOvw pr acc t1 t0,
    .mmaAcc pr acc t1 t0, .mmaGrp pr acc t1 t0, .mmrd pr acc t1 t0, .spmaOvw pr acc t1 t0, .spmaAcc pr acc t1 t0, .plctPrep pr t1 t0,
    .plctInval pr t1 t0, .plctQuery pr t1 t0], exec i s = .next (s.island pr t1 t0) := by
  simp only [List.forall_mem_cons]
  exact ⟨rfl, rfl, rfl, rfl, rfl, rfl, rfl, rfl, rfl, rfl, by simp⟩

/-- So are the five forms of SCAT. -/
theorem exec_scats (s : State) (pr : BitVec 2) (t1 t0 : Target) : ∀ i ∈ [Instr.scatAdd pr t1 t0, .scatFadd pr t1 t0, .scatMax pr t1 t0,
    .scatMin pr t1 t0, .scatOr pr t1 t0], exec i s = .next (s.scat pr t1 t0) := by
  simp only [List.forall_mem_cons]
  exact ⟨rfl, rfl, rfl, rfl, rfl, by simp⟩

/-- And the five forms of CPY. -/
theorem exec_copies (s : State) (pr : BitVec 2) (t1 t0 : Target) : ∀ i ∈ [Instr.cpyLin pr t1 t0, .cpy2d pr t1 t0, .cpyGath pr t1 t0,
    .cpyScat pr t1 t0, .cpyFill pr t1 t0], exec i s = .next (s.cpy pr t1 t0) := by
  simp only [List.forall_mem_cons]
  exact ⟨rfl, rfl, rfl, rfl, rfl, by simp⟩

/-- What an engine's firing keeps of its activation, with the numbers of its command. -/
def Act.keep (a : Act) (aux : List Nat) (f : Fire) : Fire := { f with phase := .engine, wins := a.wins, blk := a.blk, gen := a.gen, aux := aux }

/-- The state in which an engine instruction's firing waits for its engine, its strand's committed stores being visible (R235). -/
def State.engineWaits (s : State) (g : Fire → Fire) : State := (s.flush s.cur.p s.cur.id).modFire s.cur.p s.cur.pg s.cur.fid g

/-- The flush of committed stores leaves the firings of every page. -/
theorem State.flush_page (s : State) (p id q qg : Nat) : (s.flush p id).page q qg = s.page q qg := (s.flush_performs p id).page q qg

/-- The firing that waits for its engine. -/
theorem State.engineWaits_fire {g : Fire → Fire} (hg : ∀ f, (g f).fid = f.fid) (hf : (s.page s.cur.p s.cur.pg).fire? s.cur.fid = some f) :
    ((s.engineWaits g).page s.cur.p s.cur.pg).fire? s.cur.fid = some (g f) :=
  fire_in _ _ _ _ g hg f (by rw [State.flush_page]; exact hf)

theorem State.engineWaits_now (s : State) (g : Fire → Fire) : (s.engineWaits g).now = s.now := (s.flush_performs s.cur.p s.cur.id).now

/-- The flushed stores apart, the wait changes nothing but the firing. -/
theorem State.engineWaits_grows (s : State) (g : Fire → Fire) : (s.flush s.cur.p s.cur.id).Grows (s.engineWaits g) := State.modPart_grows ..

theorem State.engineWaits_isl (s : State) (g : Fire → Fire) (p pg : Nat) :
    (s.engineWaits g).isl p pg = (s.flush s.cur.p s.cur.id).isl p pg :=
  page_modPage Page.island _ _ _ _ _ _ (fun _ => rfl) fun _ => rfl

/-- The page of a firing exists, so that its island is updated. -/
theorem isl_in (s : State) (p pg n : Nat) (g : Island → Island) (hf : (s.page p pg).fire? n = some f) :
    (s.modIsl p pg g).isl p pg = g (s.isl p pg) := by
  unfold State.modIsl State.isl
  exact congrArg Page.island (page_in s p pg (fun y => { y with island := g y.island }) (fun _ => rfl) fun e => by rw [e] at hf; cases hf)

/-- When a command of a channel reaches its island, behind the commands before it. -/
def State.islWhen (s : State) (p pg tile ch : Nat) : Nat :=
  (s.isl p pg).cmds.foldl (fun t c => if c.ch == ch then max t c.here else t) (s.now + tile / 8 + 1)

/-- A command that waits in its channel, and its arrival at the island. -/
def State.islQueue (s : State) (p pg : Nat) (c : IslCmd) : State :=
  (s.modIsl p pg (fun z => { z with cmds := z.cmds ++ [c] })).sched c.here (srcOf pg c.slot) .islandAccept { p := p, pg := pg }

/-- An island instruction sends its command. -/
theorem State.island_run (hv : s.cur.verdict pr = .run) (hf : (s.page s.cur.p s.cur.pg).fire? s.cur.fid = some f) :
    let g := s.curAct.keep [hdrRM s.curAct.hdr]
    s.island pr t1 t0 = (s.engineWaits g).islQueue s.cur.p s.cur.pg (cmdOf (g f)
      ((s.engineWaits g).islWhen s.cur.p s.cur.pg f.tile (islChannel (opF f.word).toNat (xF f.word).toNat))) := by
  intro g
  have hfire : ((s.engineWaits g).page s.cur.p s.cur.pg).fire? s.cur.fid = some (g f) := State.engineWaits_fire (fun _ => rfl) hf
  have hsend : s.island pr t1 t0 = (s.engineWaits g).islSend s.cur.p s.cur.pg s.cur.fid := frame_run s pr 1 t1 t0 _ hv
  rw [hsend]
  unfold State.islSend
  rw [hfire]
  rfl

/-- Its command waits behind those before it, and its arrival is pending. -/
theorem State.islQueue_cmds {p pg n : Nat} {c : IslCmd} (hf : (s.page p pg).fire? n = some f) :
    ((s.islQueue p pg c).isl p pg).cmds = (s.isl p pg).cmds ++ [c] := 
  congrArg Island.cmds (isl_in s p pg n (fun z => { z with cmds := z.cmds ++ [c] }) hf)

theorem State.mem_islQueue (s : State) (p pg : Nat) (c : IslCmd) :
    ⟨c.here, 0, srcOf pg c.slot, .row .islandAccept { p := p, pg := pg }⟩ ∈ (s.islQueue p pg c).agenda := State.mem_sched ..

theorem State.islQueue_grows (s : State) (p pg : Nat) (c : IslCmd) : s.Grows (s.islQueue p pg c) :=
  (State.modPart_grows ..).trans (State.sched_adds ..).grows

/-- SCAT at an address that is not mapped traps. -/
theorem State.scat_unmapped (hv : s.cur.verdict pr = .run) (hk : (s.part s.cur.p).fabKey s.lv.toNat = none) :
    s.scat pr t1 t0 = s.trap 0x02 1280 s.lv.toNat := by
  refine (frame_run s pr 1 t1 t0 _ hv).trans ?_
  dsimp only
  rw [hk]

/-- SCAT at an address that is not aligned traps. -/
theorem State.scat_misaligned {key : Nat} (hv : s.cur.verdict pr = .run) (hk : (s.part s.cur.p).fabKey s.lv.toNat = some key)
    (ha : s.lv.toNat % 4 ≠ 0) : s.scat pr t1 t0 = s.trap 0x04 4 s.lv.toNat := by
  refine (frame_run s pr 1 t1 t0 _ hv).trans ?_
  dsimp only
  rw [hk]
  exact if_pos ha

/-- What SCAT's firing keeps of its activation. -/
def Act.keepScat (a : Act) (f : Fire) : Fire := { f with phase := .engine, wins := a.wins, blk := a.blk, gen := a.gen }

/-- Any other SCAT sets out for the tile that owns its word. -/
theorem State.scat_run {key : Nat} (hv : s.cur.verdict pr = .run) (hk : (s.part s.cur.p).fabKey s.lv.toNat = some key)
    (ha : s.lv.toNat % 4 = 0) (hf : (s.page s.cur.p s.cur.pg).fire? s.cur.fid = some f) :
    s.scat pr t1 t0 = (s.engineWaits s.curAct.keepScat).scatSend s.cur.p s.cur.pg (s.curAct.keepScat f) := by
  refine (frame_run s pr 1 t1 t0 _ hv).trans ?_
  have hcur : (s.flush s.cur.p s.cur.id).cur = s.cur := (s.flush_performs s.cur.p s.cur.id).cur
  have hfire : ((s.engineWaits s.curAct.keepScat).page s.cur.p s.cur.pg).fire? s.cur.fid = some (s.curAct.keepScat f) :=
    State.engineWaits_fire (fun _ => rfl) hf
  dsimp only
  rw [hk]
  dsimp only
  rw [if_neg (not_not.mpr ha)]
  simp only [State.modFire_cur, hcur]
  change (match ((s.engineWaits s.curAct.keepScat).page s.cur.p s.cur.pg).fire? s.cur.fid with | some f => _ | none => _) = _
  rw [hfire]
  rfl

/-- Its way is the path to that tile. -/
theorem State.mem_scatSend (s : State) (p pg : Nat) (f : Fire) : let fa := (valOf (f.l.map Arr.tok)).toNat
    ⟨s.now + 1 + (s.part p).pathCost pg f.tile (fabPage fa) (fabTile fa), 0, srcOf pg f.tile,
      .row .scatApply { p := p, pg := pg, id := f.id, fid := f.fid, tag := f.tag }⟩ ∈ (s.scatSend p pg f).agenda := by
  intro fa
  rw [Nat.add_assoc]
  exact s.mem_sched ..

end

/-- The two fields of a copy's configuration: its engine, and its class. -/
theorem bits_copyConfig (n : Nat) : [bits n 1 0, bits n 4 2] = [n % 4, n / 4 % 8] := by simp [bits, Nat.shiftRight_eq_div_pow]

/-- Settles O38: the frame decides, each engine's instructions by the state in which their firing waits. -/
theorem engineCommandsFire : Obligations.EngineCommandsFire := by
  intro s f pr acc ch t1 t0 hf hc p pg a u island scat copy kept stays here ch'
  have hid : s.cur.id = f.id := by have := congrArg Cur.id hc; exact this
  have htile : s.cur.tile = f.tile := by have := congrArg Cur.tile hc; exact this
  have hl : s.lv = valOf (f.l.map Arr.tok) := by have := congrArg (fun c : Cur => valOf c.l) hc; exact this
  have hr : s.rv = valOf (f.r.map Arr.tok) := by have := congrArg (fun c : Cur => valOf c.r) hc; exact this
  have hstrand : s.cur.strand = f.strand := by have := congrArg Cur.strand hc; exact this
  have hfid : s.cur.fid = f.fid := (fire_fid hf).symm
  have hu : s.flush s.cur.p s.cur.id = u := by rw [hid]
  have hnow : u.now = s.now := hu ▸ (s.flush_performs s.cur.p s.cur.id).now
  have hstay : ∀ g t, (s.engineWaits g).Grows t → stays t := fun g t ht => by
    have hg := (hu ▸ s.engineWaits_grows g).trans ht
    exact ⟨hg.mem, hg.fe, hg.now.trans hnow, hg.agenda⟩
  have hframe : ∀ i ∈ island ++ scat ++ copy, ∃ run, exec i s = .next (s.frame pr 1 t1 t0 run) := by
    intro i hi
    rcases List.mem_append.mp hi with hi | hi
    · rcases List.mem_append.mp hi with hi | hi
      · exact ⟨_, exec_islands s pr acc t1 t0 i hi⟩
      · exact ⟨_, exec_scats s pr t1 t0 i hi⟩
    · exact ⟨_, exec_copies s pr t1 t0 i hi⟩
  refine ⟨fun hv => ⟨fun i hi => ?island, fun i hi => ⟨fun hk => ?_, fun key hk ha => ?_, fun key hk ha => ?scat⟩, fun i hi => ?copy⟩,
    fun o hv => ⟨fun i hi => ?_, congrArg _ (frame_nulls hv)⟩, fun hv i hi => ?_⟩
  case island =>
    let g : Fire → Fire := a.keep [hdrRM a.hdr]
    have hisl : (s.engineWaits g).isl p pg = u.isl p pg := hu ▸ s.engineWaits_isl g p pg
    have hwhen : (s.engineWaits g).islWhen p pg f.tile ch' = here ch' := by unfold State.islWhen; rw [hisl, s.engineWaits_now]
    have hcmd : cmdOf (g f) (here ch') = {
        ch := ch', fid := f.fid, id := f.id, strand := f.strand, slot := f.tile, tag := f.tag
        word := f.word, lv := s.lv.toNat, rv := s.rv.toNat, wins := a.wins, blk := a.blk, gen := a.gen, rm := hdrRM a.hdr
        here := here ch' } := by rw [hl, hr]; rfl
    have hrun := (exec_islands s pr acc t1 t0 i hi).trans (congrArg Host.Outcome.next (State.island_run hv hf))
    rw [show (s.engineWaits g).islWhen s.cur.p s.cur.pg f.tile (islChannel (opF f.word).toNat (xF f.word).toNat) = here ch' from hwhen, hcmd] at hrun
    refine ⟨_, hrun, hstay g _ (State.islQueue_grows ..), State.mem_islQueue .., ?_⟩
    rw [← hisl]
    exact State.islQueue_cmds (State.engineWaits_fire (fun _ => rfl) hf)
  case scat =>
    have hmap : ((s.engineWaits a.keepScat).part p).map = (s.part p).map := (State.modPage_map ..).trans ((s.flush_performs ..).map p)
    refine ⟨_, (exec_scats s pr t1 t0 i hi).trans (congrArg _ (State.scat_run hv hk ha hf)), hstay a.keepScat _ (State.sched_adds ..).grows, ?_, ?_⟩
    · change (s.engineWaits a.keepScat).parts = _
      unfold State.engineWaits
      rw [hu, hfid]; rfl
    · have hmem := (s.engineWaits a.keepScat).mem_scatSend p pg (a.keepScat f)
      dsimp only at hmem
      rw [s.engineWaits_now, pathCost_congr hmap] at hmem
      rw [hl]
      exact hmem
  case copy =>
    let cfg := (((s.inst p s.cur.id).strand? s.cur.strand).map (fun t => t.csrN 0x050)).getD 0
    have hrun : s.cpy pr t1 t0 = _ := frame_run s pr 1 t1 t0 _ hv
    let w := s.engineWaits (a.keep [bits cfg 1 0, bits cfg 4 2])
    have hnow' : w.now = s.now := s.engineWaits_now _
    refine ⟨_, (exec_copies s pr t1 t0 i hi).trans (congrArg _ hrun), hstay (a.keep [bits cfg 1 0, bits cfg 4 2]) _ (State.sched_adds ..).grows,
      fun st hst => ?_, ?_⟩
    · have hcfg : cfg = st.csrN 0x050 := by
        change (((s.inst p s.cur.id).strand? s.cur.strand).map _).getD 0 = _
        rw [hid, hstrand, hst]; rfl
      change w.parts = _
      rw [← bits_copyConfig, ← hcfg]
      change ((s.flush s.cur.p s.cur.id).modFire p pg s.cur.fid _).parts = _
      rw [hu, hfid]; rfl
    · rw [← hnow', ← htile, ← hid, ← hfid]
      exact State.mem_sched w _ _ _ _
  · exact (exec_scats s pr t1 t0 i hi).trans (congrArg _ (State.scat_unmapped hv hk))
  · exact (exec_scats s pr t1 t0 i hi).trans (congrArg _ (State.scat_misaligned hv hk ha))
  · obtain ⟨run, hrun⟩ := hframe i hi
    exact hrun.trans (congrArg _ (frame_nulls hv))
  · rcases List.mem_cons.mp hi with rfl | hi
    · exact congrArg _ (frame_silent hv)
    · obtain ⟨run, hrun⟩ := hframe i hi
      exact hrun.trans (congrArg _ (frame_silent hv))

end Sys2Proof.Machine
end

section
/-! PROOFS of the statements of the sequential machine: the replies of loads (R134, R147, R205). -/

namespace Sys2Proof.Machine

section
variable {s : State} {p pg : Nat} {f : Fire}

/-! ### A load's bytes -/

/-- A list is what its positions hold. -/
theorem map_range_getD {α : Type} (l : List α) (d : α) : (List.range l.length).map (fun i => (l[i]?).getD d) = l := by
  refine List.ext_getElem (by simp) fun i h _ => ?_
  have hi : i < l.length := by simpa using h
  simp [hi]

theorem State.strandBytes_length (s : State) (p id agent key n : Nat) : (s.strandBytes p id agent key n).length = n := by
  simp [State.strandBytes]

/-- Where no load has read yet, a load reads what memory and its agent's committed stores hold. -/
theorem State.loadBytes_fresh (h : ∀ g ∈ (s.page p pg).fires, g.got = []) :
    s.loadBytes p pg f = s.strandBytes p f.id (agentOf f.strand f.tag) f.key f.size := by
  unfold State.loadBytes
  dsimp only
  split
  · rfl
  · rw [List.filter_eq_nil_iff.mpr fun g hg => by simp [h g hg]]
    have hall := map_range_getD (s.strandBytes p f.id (agentOf f.strand f.tag) f.key f.size) 0
    rw [s.strandBytes_length] at hall
    exact hall

/-- The two's-complement reading of a number's low bits is that of the bit vector of that width. -/
theorem sxt_eq_toInt (k n : Nat) : sxt (k + 1) n = (BitVec.ofNat (k + 1) n).toInt := by
  unfold sxt
  rw [BitVec.toInt_eq_toNat_cond, BitVec.toNat_ofNat]
  dsimp only
  have hpow : (2 : Nat) ^ (k + 1) = 2 * 2 ^ k := Nat.pow_succ'
  rw [Nat.add_sub_cancel, hpow]
  exact if_congr (Nat.mul_lt_mul_left (by decide)).symm rfl rfl

/-- The little-endian number of four bytes, two, and one. -/
theorem ofLE_four (a b c d : Byte) : ofLE [a, b, c, d] = a.toNat + 256 * b.toNat + 65536 * c.toNat + 16777216 * d.toNat := by
  simp only [ofLE]; omega
theorem ofLE_two (a b : Byte) : ofLE [a, b] = a.toNat + 256 * b.toNat := by simp [ofLE]
theorem ofLE_one (a : Byte) : ofLE [a] = a.toNat := by simp [ofLE]

/-- The value of a signed half word, and of a signed byte. -/
theorem loadValue_half (bs : List Byte) : loadValue 0x41 bs = BitVec.signExtend 32 (BitVec.ofNat 16 (ofLE bs)) :=
  congrArg (BitVec.ofInt 32) (sxt_eq_toInt 15 _)
theorem loadValue_byte (bs : List Byte) : loadValue 0x43 bs = BitVec.signExtend 32 (BitVec.ofNat 8 (ofLE bs)) :=
  congrArg (BitVec.ofInt 32) (sxt_eq_toInt 7 _)

/-! ### The read, and the way back -/

/-- A load that has its bytes. -/
def State.loadGot (s : State) (p pg : Nat) (f : Fire) : State :=
  s.modFire p pg f.fid (fun f' => { f' with got := s.loadBytes p pg f, aux := (f'.aux.set 2 s.now).set 3 0 })

/-- A load reads its bytes, and their way back begins; a line that fails its check is the guard's. -/
def State.loadRead (s : State) (p pg : Nat) (f : Fire) : State :=
  if s.badAt f.key f.size then s.badRead p f.key
  else (s.loadGot p pg f).sched (s.now + ((s.loadGot p pg f).loadLegs p pg f.tile ((f.aux[0]?).getD 0) f.va f.key).2) (srcOf pg f.tile) .loadReply
    { s.arg with x := 1 }

/-- The way back is that of the state before the read. -/
theorem State.loadRead_good (hb : s.badAt f.key f.size = false) : s.loadRead p pg f = (s.loadGot p pg f).sched
    (s.now + (s.loadLegs p pg f.tile ((f.aux[0]?).getD 0) f.va f.key).2) (srcOf pg f.tile) .loadReply { s.arg with x := 1 } := by
  rw [← loadLegs_congr (s := s) (t := s.loadGot p pg f) (p := p) (s.modPage_map ..)]
  exact if_neg (by simp [hb])

theorem State.loadRead_bad (hb : s.badAt f.key f.size = true) : s.loadRead p pg f = s.badRead p f.key := if_pos hb

/-- A line's failure is the guard's to answer, at once. -/
theorem State.mem_badRead (s : State) (p key : Nat) : ⟨s.now, 0, 0, .row .guardLineRead { p := p, x := key / 64 * 64, y := 1 }⟩ ∈ (s.badRead p key).agenda :=
  State.mem_sched ..

/-- A load's first reply reads, for tile SRAM in its slot. -/
theorem exec_loadReply_read (hf : (s.page s.arg.p s.arg.pg).fire? s.arg.fid = some f) (ho : f.phase = .out) (hx : s.arg.x = 0) :
    exec .loadReply s = .next (if (f.aux[0]?).getD 0 = 2 then
        s.sramTurn s.arg.p f.va (srcOf s.arg.pg f.tile) .loadReply { s.arg with x := 0 } (fun s' => s'.loadRead s.arg.p s.arg.pg f)
      else s.loadRead s.arg.p s.arg.pg f) := by
  have hkind : f.aux[0]? = some 2 ↔ (f.aux[0]?).getD 0 = 2 := by cases f.aux[0]? <;> simp
  change execLoadReply s = _
  unfold execLoadReply
  dsimp only
  rw [hf]
  dsimp only
  rw [if_neg (by simp [ho]), if_pos (by simp [hx])]
  exact congrArg Host.Outcome.next (if_congr hkind rfl rfl)

/-- Once it has its bytes, its value leaves, buffered stores that it sees standing over them. -/
theorem exec_loadReply_back (hf : (s.page s.arg.p s.arg.pg).fire? s.arg.fid = some f) (ho : f.phase = .out) (hx : s.arg.x = 1)
    (hg : f.got ≠ []) : exec .loadReply s = .next ((s.answer s.arg.p s.arg.pg f.fid s.now (f.done (loadValue (opF f.word).toNat
      ((List.range f.size).map fun i => (((((s.page s.arg.p s.arg.pg).forward f)[i]?).getD none).getD ((f.got[i]?).getD 0))))) {}).checkDone
        s.arg.p s.arg.pg f.tag) := by
  change execLoadReply s = _
  unfold execLoadReply
  dsimp only
  rw [hf]
  dsimp only
  rw [if_neg (by simp [ho]), if_neg (by simp [hx, hg])]

end

/-- Settles O29: the first reply by its slot and its line, the second by the size of its load. -/
theorem loadReplies : Obligations.LoadReplies := by
  intro s f hf ho p pg fw octet kind turn u
  refine ⟨fun hx hk hy ht => ?later, fun hx hslot => ?read, State.loadBytes_fresh, fun hx hg => ?back⟩
  case later =>
    have hu : u = s.sramTaken p f.va := if_pos ⟨hk, hy⟩
    rw [exec_loadReply_read hf ho hx, if_pos hk, hu]
    exact congrArg _ (State.sramTurn_later hy ht)
  case read =>
    have hrun : exec .loadReply s = .next (u.loadRead p pg f) := by
      rw [exec_loadReply_read hf ho hx]
      by_cases hk : kind = 2
      · rw [if_pos hk]
        by_cases hy : s.arg.y = 1
        · rw [show u = s from if_neg fun h => h.2 hy]
          exact congrArg _ (State.sramTurn_again hy)
        · rw [show u = s.sramTaken p f.va from if_pos ⟨hk, hy⟩]
          exact congrArg _ (State.sramTurn_now hy ((hslot.resolve_left (not_not.mpr hk)).resolve_left hy))
      · rw [if_neg hk, show u = s from if_neg fun h => hk h.1]
    have hsame : u.now = s.now ∧ u.arg = s.arg ∧ u.badAt = s.badAt ∧ (u.part p).map = (s.part p).map :=
      ite_keeps (P := fun u : State => u.now = s.now ∧ u.arg = s.arg ∧ u.badAt = s.badAt ∧ (u.part p).map = (s.part p).map)
        ⟨rfl, rfl, rfl, s.modPage_map ..⟩ ⟨rfl, rfl, rfl, rfl⟩
    obtain ⟨hnow, harg, hbad, hmap⟩ := hsame
    refine ⟨fun hb => ?_, fun hb => ⟨_, hrun.trans (congrArg _ (State.loadRead_bad (hbad ▸ hb))), ?_⟩⟩
    · rw [hrun, State.loadRead_good (hbad ▸ hb), loadLegs_congr hmap, hnow, harg, ← hnow]
      rfl
    · rw [← hnow]
      exact u.mem_badRead p f.key
  case back =>
    intro sends
    let byte (i : Nat) : Byte := ((fw[i]?).getD none).getD ((f.got[i]?).getD 0)
    have hback : exec .loadReply s = sends (loadValue (opF f.word).toNat ((List.range f.size).map byte)) := exec_loadReply_back hf ho hx hg
    refine ⟨fun hop hs => ?_, fun hop hs => ?_, fun hop hs => ?_, fun hop hs => ?_, fun hop hs => ?_⟩ <;> rw [hback, hop, hs]
    · exact congrArg (fun n => sends (word n)) (ofLE_four (byte 0) (byte 1) (byte 2) (byte 3))
    · exact congrArg (fun n => sends (word n)) (ofLE_two (byte 0) (byte 1))
    · exact congrArg (fun n => sends (word n)) (ofLE_one (byte 0))
    · rw [loadValue_half]
      exact congrArg (fun n => sends (BitVec.signExtend 32 (BitVec.ofNat 16 n))) (ofLE_two (byte 0) (byte 1))
    · rw [loadValue_byte]
      exact congrArg (fun n => sends (BitVec.signExtend 32 (BitVec.ofNat 8 n))) (ofLE_one (byte 0))

end Sys2Proof.Machine
end

section
/-! PROOFS of the statements of the sequential machine: what reaches a page (R13, R150 to R153, R166 to R168). -/

namespace Sys2Proof.Machine

/-! ### Pages that exist, and the strands of Inst -/

/-- Has a partition a page of a number? -/
def State.hasPage (s : State) (p pg : Nat) : Prop := pg ∈ (s.part p).pages.map Page.num

section
variable {s : State} {p pg : Nat}

/-- A page that is not blank exists. -/
theorem State.hasPage_of_ne (h : s.page p pg ≠ { num := pg }) : s.hasPage p pg := by
  unfold State.page Part.page at h
  cases hy : (s.part p).pages.find? (fun y => y.num == pg) with
  | none => rw [hy] at h; exact absurd rfl h
  | some y =>
    have hn : y.num = pg := by simpa using List.find?_some hy
    exact List.mem_map.mpr ⟨y, List.mem_of_find?_eq_some hy, hn⟩

/-- A page with an activation exists. -/
theorem State.hasPage_of_act {tag : Tag} {a : Act} (h : (s.page p pg).act? tag = some a) : s.hasPage p pg :=
  State.hasPage_of_ne fun e => by rw [e] at h; cases h

/-- What an update of a page leaves of a partition's pages. -/
theorem pages_modPage {α : Type} (π : Page → α) (s : State) (q qg p : Nat) (f : Page → Page) (hf : ∀ y, π (f y) = π y) :
    ((s.modPage q qg f).part p).pages.map π = (s.part p).pages.map π := by
  refine part_modPart (fun x => x.pages.map π) s q p _ (fun _ => rfl) fun x => ?_
  refine List.map_map.trans (List.map_congr_left fun y _ => ?_)
  change π (if y.num == qg then f y else y) = π y
  split
  · exact hf y
  · rfl

theorem State.hasPage_modPage (s : State) (q qg : Nat) (f : Page → Page) (hn : ∀ y, (f y).num = y.num) :
    (s.modPage q qg f).hasPage p pg ↔ s.hasPage p pg := by
  unfold State.hasPage
  rw [pages_modPage Page.num s q qg p f hn]

/-- An update of a page that exists. -/
theorem State.hasPage.page_in (h : s.hasPage p pg) (f : Page → Page) (hf : ∀ y, (f y).num = y.num) :
    (s.modPage p pg f).page p pg = f (s.page p pg) := by
  obtain ⟨z, hz, hn⟩ := List.mem_map.mp h
  have hpart : s.part p ≠ { num := p } := fun e => by rw [e] at hz; cases hz
  have hfind : ((s.part p).pages.find? (fun y => y.num == pg)).isSome = true := List.find?_isSome.mpr ⟨z, hz, by simpa using hn⟩
  unfold State.modPage State.page
  rw [part_in s p (fun x => x.modPage pg f) (fun _ => rfl) hpart]
  unfold Part.page Part.modPage
  dsimp only
  rw [find_map' _ Page.num pg f hf]
  obtain ⟨y, hy⟩ := Option.isSome_iff_exists.mp hfind
  rw [hy]; rfl

/-- The value under a key that has been set. -/
theorem kget_kset_same {α : Type} (l : List (Nat × α)) (k : Nat) (v : α) : kget (kset l k v) k = some v := by
  induction l with
  | nil => simp [kset, kget]
  | cons x l ih =>
    obtain ⟨x, y⟩ := x
    unfold kset
    split
    · simp [kget, *]
    · unfold kget at *
      simp [*]

/-- A strand's CSR after a write of it, and of another. -/
theorem Strand.csrN_kset_same (t : Strand) (n : Nat) (v : Word) : ({ t with csr := kset t.csr n v } : Strand).csrN n = v.toNat := by
  unfold Strand.csrN csrWord
  dsimp only
  rw [kget_kset_same]; rfl

theorem Strand.csrN_kset_other (t : Strand) {n m : Nat} (h : m ≠ n) (v : Word) : ({ t with csr := kset t.csr n v } : Strand).csrN m = t.csrN m := by
  unfold Strand.csrN csrWord
  dsimp only
  rw [kget_kset _ _ _ _ h]

variable {id n : Nat} {i : Inst} {st : Strand}

theorem State.inst_of (h : (s.part p).inst? id = some i) : s.inst p id = i := by unfold State.inst; rw [h]; rfl

/-- An update of an Inst record. -/
theorem inst_in (f : Inst → Inst) (hf : ∀ i, (f i).id = i.id) (h : (s.part p).inst? id = some i) :
    ((s.modInst p id f).part p).inst? id = some (f i) := by
  unfold State.modInst
  rw [part_in s p (fun x => { x with insts := x.insts.map (fun i => if i.id == id then f i else i) }) (fun _ => rfl)
    fun e => by rw [e] at h; cases h]
  unfold Part.inst? at *
  dsimp only
  rw [find_map' _ Inst.id id f hf, h]; rfl

/-- An update of a strand. -/
theorem strand_in (f : Strand → Strand) (hf : ∀ t, (f t).num = t.num) (h : (s.part p).inst? id = some i) (ht : i.strand? n = some st) :
    ∃ j, ((s.modStrand p id n f).part p).inst? id = some j ∧ j.strand? n = some (f st) := by
  refine ⟨_, inst_in _ (fun _ => rfl) h, ?_⟩
  unfold Inst.strand? at *
  dsimp only
  rw [find_map' _ Strand.num n f hf, ht]; rfl

/-! ### Messages and handlers (R166 to R168) -/

/-- Without an enabled and pending route tag no handler starts. -/
theorem State.tryHandler_idle {rt : Nat} (h : (s.part p).inst? id = some i) (ht : i.strand? n = some st)
    (hbit : bitAt (st.csrN 0x040) rt = false ∨ bitAt (st.csrN 0x041) rt = false) : s.tryHandler p pg id n rt = s := by
  unfold State.tryHandler
  dsimp only
  rw [State.inst_of h, ht]
  dsimp only
  rw [if_pos]
  rcases hbit with hbit | hbit <;> simp [hbit]

theorem bitAt_zero (k : Nat) : bitAt 0 k = false := by simp [bitAt]

/-- Nor does one for any route tag where no tag is enabled, or none pending. -/
theorem State.tryHandlers_idle (h : (s.part p).inst? id = some i) (ht : i.strand? n = some st) (hcsr : st.csrN 0x040 = 0 ∨ st.csrN 0x041 = 0) :
    s.tryHandlers p pg id n = s :=
  List.foldl_fixed' (fun rt => State.tryHandler_idle h ht (by rcases hcsr with hz | hz <;> rw [hz, bitAt_zero] <;> simp)) _

/-- A bit that has been set is set, in a word too. -/
theorem bitAt_setBits (v : Nat) {k : Nat} (hk : k < 32) : bitAt (word (setBits v k k 1)).toNat k = true := by
  have hsplit := Nat.div_add_mod v (2 ^ k)
  have hlow : v % 2 ^ k < 2 ^ k := Nat.mod_lt _ (Nat.two_pow_pos k)
  have hset : setBits v k k 1 = 2 ^ k * (v / 2 ^ k - v / 2 ^ k % 2 + 1) + v % 2 ^ k := by
    unfold setBits bits
    rw [Nat.shiftRight_eq_div_pow, show k + 1 - k = 1 by omega]
    have hle : v / 2 ^ k % 2 ≤ v / 2 ^ k := Nat.mod_le _ _
    have hmul : 2 ^ k * (v / 2 ^ k - v / 2 ^ k % 2) = 2 ^ k * (v / 2 ^ k) - 2 ^ k * (v / 2 ^ k % 2) := Nat.mul_sub ..
    have hmono : 2 ^ k * (v / 2 ^ k % 2) ≤ 2 ^ k * (v / 2 ^ k) := Nat.mul_le_mul_left _ hle
    rw [Nat.mul_add, hmul, Nat.mul_comm (v / 2 ^ k % 2 ^ 1)]
    norm_num
    omega
  rw [bitAt_toNat, word, BitVec.getLsbD_ofNat, hset, Nat.testBit_eq_decide_div_mod_eq, Nat.mul_add_div (Nat.two_pow_pos k), Nat.div_eq_of_lt hlow]
  simp only [hk, decide_true, Bool.true_and, decide_eq_true_eq]
  omega

/-- A pending bit that is set stands in the strand's RTAGPEND, and its enable register is as it was. -/
theorem setPend_strand {rt : Nat} (hrt : rt < 32) (h : (s.part p).inst? id = some i) (ht : i.strand? n = some st) :
    ∃ j st', ((s.setPend p id n rt true).part p).inst? id = some j ∧ j.strand? n = some st' ∧ bitAt (st'.csrN 0x041) rt = true ∧
      st'.csrN 0x040 = st.csrN 0x040 := by
  unfold State.setPend State.setStrandCsr
  dsimp only
  obtain ⟨j, hj, hjt⟩ := strand_in (fun t => { t with csr := kset t.csr 0x041 (word (setBits ((((s.inst p id).strand? n).map
    (fun t => t.csrN 0x041)).getD 0) rt rt (b2n true))) }) (fun _ => rfl) h ht
  obtain ⟨k, hk, hkt⟩ := strand_in (fun t => { t with pendAt := if true then kset t.pendAt rt s.now else t.pendAt.filter (fun z => z.1 != rt) })
    (fun _ => rfl) hj hjt
  refine ⟨k, _, hk, hkt, ?_, ?_⟩
  · exact (congrArg (bitAt · rt) (st.csrN_kset_same 0x041 _)).trans (bitAt_setBits _ hrt)
  · exact st.csrN_kset_other (by decide) _

/-- An update of a strand leaves every page, and so does setting a pending bit. -/
theorem State.modStrand_page (s : State) (p id n : Nat) (f : Strand → Strand) (q qg : Nat) : (s.modStrand p id n f).page q qg = s.page q qg := by
  unfold State.modStrand State.modInst State.page
  exact part_modPart (fun x => x.page qg) s p q _ (fun _ => rfl) fun _ => rfl

theorem State.setPend_page (s : State) (p id n rt : Nat) (b : Bool) (q qg : Nat) : (s.setPend p id n rt b).page q qg = s.page q qg :=
  (State.modStrand_page ..).trans (s.modStrand_page ..)

/-- An update of a page leaves a partition's instances. -/
theorem State.modPage_inst (s : State) (q qg : Nat) (f : Page → Page) : ((s.modPage q qg f).part p).inst? id = (s.part p).inst? id :=
  part_modPart (fun x => x.inst? id) s q p _ (fun _ => rfl) fun _ => rfl

/-- A message waits behind none of another strand, route tag and channel. -/
theorem Msg.after_eq_false {m w : Msg} (h : w.id = m.id → w.strand = m.strand → w.rt ≠ m.rt ∧ (m.ch ≠ none → w.ch ≠ m.ch)) : m.after w = false := by
  rw [Bool.eq_false_iff]
  intro hafter
  have hcases : (w.id = m.id ∧ w.strand = m.strand ∧ w.rt = m.rt) ∨ (m.ch ≠ none ∧ w.ch = m.ch ∧ w.id = m.id ∧ w.strand = m.strand) := by
    simpa [Msg.after, Msg.isFor, and_assoc, Option.isSome_iff_ne_none] using hafter
  obtain ⟨hid, hstrand, hrt⟩ | ⟨hch, hsame, hid, hstrand⟩ := hcases
  · exact (h hid hstrand).1 hrt
  · exact (h hid hstrand).2 hch hsame

/-- A message that finds its place free is held, and its route tag is pending; a handler does not start while its tag is not enabled. -/
theorem State.deliverMsg_held {m : Msg} {row : Instr} (h : (s.part p).inst? m.id = some i) (ht : i.strand? m.strand = some st)
    (hrun : i.status = .running) (hinj : i.inject = none) (hsave : i.save = none) (hend : st.ended = false) (hen : st.csrN 0x040 = 0)
    (hrt : m.rt < 16) (hpage : s.hasPage p pg) (hfree : ∀ w ∈ (s.page p pg).msgs, w.isFor m.id m.strand m.rt = false)
    (hwait : ∀ w ∈ (s.page p pg).msgWait, m.after w = false) :
    let t := s.deliverMsg p pg m row
    t.mem = s.mem ∧ (t.page p pg).msgs = (s.page p pg).msgs ++ [m] ∧
      ∃ st', (t.inst p m.id).strand? m.strand = some st' ∧ bitAt (st'.csrN 0x041) m.rt = true := by
  intro t
  let u := s.modPage p pg (fun y => { y with msgs := y.msgs ++ [m] })
  have hu : (u.part p).inst? m.id = some i := (s.modPage_inst ..).trans h
  obtain ⟨j, st', hj, hjt, hbit, hen'⟩ := setPend_strand (Nat.lt_trans hrt (by decide)) hu ht
  have hfull : ((s.page p pg).msgs.any (Msg.isFor m.id m.strand m.rt) || (s.page p pg).msgWait.any m.after) = false := by
    rw [List.any_eq_false.mpr fun w hw => by simp [hfree w hw], List.any_eq_false.mpr fun w hw => by simp [hwait w hw]]; rfl
  have htu : t = u.setPend p m.id m.strand m.rt true := by
    have hidle : (u.setPend p m.id m.strand m.rt true).tryHandler p pg m.id m.strand m.rt = u.setPend p m.id m.strand m.rt true :=
      State.tryHandler_idle hj hjt (.inl (by rw [hen', hen, bitAt_zero]))
    rw [← hidle]
    change s.deliverMsg p pg m row = _
    unfold State.deliverMsg
    simp only [h, hinj, hsave, hrun, ht, Option.any_some, hend, hfull]
    rfl
  rw [htu]
  refine ⟨rfl, ?_, st', ?_, hbit⟩
  · rw [State.setPend_page]
    exact congrArg Page.msgs (hpage.page_in (fun y => { y with msgs := y.msgs ++ [m] }) fun _ => rfl)
  · rw [State.inst_of hj, hjt]

/-- A write of RTAGEN while no route tag is pending. -/
theorem exec_rtagen_idle (h : (s.part s.arg.p).inst? s.arg.id = some i) (ht : i.strand? s.arg.x = some st) (hpend : st.csrN 0x041 = 0) :
    exec .rtagen s = .next (s.setStrandCsr s.arg.p s.arg.id s.arg.x 0x040 (s.arg.w0.toNat % 65536)) := by
  obtain ⟨j, hj, hjt⟩ := strand_in (fun t => { t with csr := kset t.csr 0x040 (word (s.arg.w0.toNat % 65536)) }) (fun _ => rfl) h ht
  exact congrArg Host.Outcome.next (State.tryHandlers_idle hj hjt (.inr ((st.csrN_kset_other (by decide) _).trans hpend)))

/-- A write of RTAGPEND while no route tag is enabled, and without a message in the same fclk. -/
theorem exec_rtagpend_idle (h : (s.part s.arg.p).inst? s.arg.id = some i) (ht : i.strand? s.arg.x = some st) (hz : s.arg.z = 0)
    (hen : st.csrN 0x040 = 0) (hwon : ∀ z ∈ st.pendAt, z.2 ≠ s.now) :
    exec .rtagpend s = .next (s.setStrandCsr s.arg.p s.arg.id s.arg.x 0x041 (s.arg.w0.toNat % 65536)) := by
  obtain ⟨j, hj, hjt⟩ := strand_in (fun t => { t with csr := kset t.csr 0x041 (word (s.arg.w0.toNat % 65536)) }) (fun _ => rfl) h ht
  have hnone : st.pendAt.filter (fun z => z.2 == s.now) = [] := List.filter_eq_nil_iff.mpr fun z hz => by simpa using hwon z hz
  change execRtagpend s = _
  unfold execRtagpend State.writeRtagpend
  dsimp only
  rw [if_neg (by simp [hz]), State.inst_of h, ht]
  change Host.Outcome.next (State.tryHandlers (s.setStrandCsr s.arg.p s.arg.id s.arg.x 0x041
    ((st.pendAt.filter (fun z => z.2 == s.now)).foldl (fun v z => setBits v z.1 z.1 1) (s.arg.w0.toNat % 65536))) _ _ _ _) = _
  rw [hnone]
  exact congrArg Host.Outcome.next (State.tryHandlers_idle hj hjt (.inl ((st.csrN_kset_other (by decide) _).trans hen)))

/-- The table of a strand's handlers, from the two halves of its address. -/
theorem handlerBase (hi lo : Nat) : ((hi * 2 ^ 32 + lo) >>> 4) <<< 4 = hi * 2 ^ 32 + lo / 16 * 16 := by
  rw [Nat.shiftRight_eq_div_pow, Nat.shiftLeft_eq]
  omega

/-- The priority in an entry of that table. -/
theorem bits_priority (e : Nat) : bits e 67 64 = e / 2 ^ 64 % 16 := by simp [bits, Nat.shiftRight_eq_div_pow]

/-- A handler's block is configured by its entry in that table. -/
theorem exec_handlerActivationStart {e : Nat} (h : (s.part s.arg.p).inst? s.arg.id = some i) (ht : i.strand? s.arg.x = some st) (hl : i.live = true)
    (he : s.readTable s.arg.p ((st.csrN 0x043 * 2 ^ 32 + st.csrN 0x042 / 16 * 16 + 16 * s.arg.y) % 2 ^ 64) 16 = .ok e) :
    exec .handlerActivationStart s = .next ((s.modPage s.arg.p s.arg.pg (fun y => { y with nexts := y.nexts ++ [{
      tag := tagMsg i.id i.gen s.arg.y, id := s.arg.id, strand := s.arg.x, role := .msg s.arg.y, prio := bits e 67 64, blk := e % 2 ^ 64,
      fromBlk := e % 2 ^ 64, entry := true, ready := s.now + 8, payload := [s.arg.w0, s.arg.w1] }] })).sched (s.now + 8) (srcOf s.arg.pg 0)
      .blockFetch { p := s.arg.p, pg := s.arg.pg, id := s.arg.id, tag := tagMsg i.id i.gen s.arg.y }) := by
  change execHandlerActivationStart s = _
  unfold execHandlerActivationStart
  simp only [State.inst_of h, ht, hl, handlerBase, he, Bool.not_true, Bool.false_eq_true, if_false]

/-! ### Entries of the matching store (R151) -/

/-- An entry but for what says when it became ready. -/
def Entry.tokens (e : Entry) : Entry := { e with ready := none, lastPos := 0 }

/-- Marking an entry ready changes nothing else in the page, and only the entries' marks. -/
theorem State.checkReady_cases (s : State) (p pg tile : Nat) (tag : Tag) (by' : Nat) : s.checkReady p pg tile tag by' = s ∨
    ∃ (g : Entry → Entry) (t : Nat), (∀ e, (g e).tokens = e.tokens) ∧
      s.checkReady p pg tile tag by' = (s.modPage p pg (fun y => { y with ents := y.ents.map g })).schedFire t p pg tile := by
  unfold State.checkReady
  dsimp only
  split
  · split
    · exact .inl rfl
    · split
      · refine .inr ⟨_, _, fun e => ?_, rfl⟩
        split <;> rfl
      · exact .inl rfl
  · exact .inl rfl

/-- From s to t memory stays, and of every page its entries but for their marks, its spill table and what is held for it. -/
structure State.Marks (s t : State) : Prop where
  mem : t.mem = s.mem
  ents : ∀ p pg, (t.page p pg).ents.map Entry.tokens = (s.page p pg).ents.map Entry.tokens
  spill : ∀ p pg, (t.page p pg).spill = (s.page p pg).spill
  held : ∀ p, (t.part p).pages.map Page.held = (s.part p).pages.map Page.held
  has : ∀ p pg, t.hasPage p pg ↔ s.hasPage p pg

theorem State.checkReady_marks (s : State) (q qg tile : Nat) (tag : Tag) (by' : Nat) : s.Marks (s.checkReady q qg tile tag by') := by
  obtain h | ⟨g, t, hg, h⟩ := s.checkReady_cases q qg tile tag by'
  · rw [h]; exact ⟨rfl, fun _ _ => rfl, fun _ _ => rfl, fun _ => rfl, fun _ _ => .rfl⟩
  rw [h]
  have hadds := State.schedFire_adds (s.modPage q qg (fun y => { y with ents := y.ents.map g })) t q qg tile
  refine ⟨hadds.mem, fun p pg => ?_, fun p pg => ?_, fun p => ?_, fun p pg => ?_⟩
  · rw [hadds.page]
    refine page_modPage (fun y => y.ents.map Entry.tokens) s q qg p pg _ (fun _ => rfl) fun y => ?_
    exact List.map_map.trans (List.map_congr_left fun e _ => hg e)
  · rw [hadds.page]
    exact page_modPage Page.spill s q qg p pg _ (fun _ => rfl) fun _ => rfl
  · rw [hadds.part]
    exact pages_modPage Page.held s q qg p _ fun _ => rfl
  · unfold State.hasPage
    rw [hadds.part]
    exact s.hasPage_modPage q qg _ fun _ => rfl

/-- The entry that a first token of its tag makes. -/
def newEntry (q : Pos) (tile : Nat) (tag : Tag) (x : Arr) (since : Nat) : Entry := ({ tile := tile, tag := tag, way := 0, since := since } : Entry).put q (some x)

/-- It holds that token alone. -/
theorem newEntry_holds (q : Pos) (tile : Nat) (tag : Tag) (x : Arr) (since : Nat) : let e := newEntry q tile tag x since
    e.tile = tile ∧ e.tag = tag ∧ e.at q = some x ∧ ∀ u, u ≠ q → e.at u = none := by
  cases q <;> refine ⟨rfl, rfl, rfl, fun u hu => ?_⟩ <;> cases u <;> trivial

/-- Entries of the same tokens hold the same. -/
theorem Entry.holds_of_tokens {e d : Entry} (h : e.tokens = d.tokens) : e.tile = d.tile ∧ e.tag = d.tag ∧ ∀ u, e.at u = d.at u := by
  refine ⟨by have := congrArg Entry.tile h; exact this, by have := congrArg Entry.tag h; exact this, fun u => ?_⟩
  have := congrArg (fun e => Entry.at e u) h
  cases u <;> exact this

/-- A page with another entry. -/
def State.addEntry (s : State) (p pg : Nat) (e : Entry) : State := s.modPage p pg (fun y => { y with ents := y.ents ++ [e] })

/-- A token that finds its tile empty takes the first way. -/
theorem State.enqueue_empty {a : Option Act} {q : Pos} {slot : BitVec 6} {tag : Tag} {x : Arr}
    (hents : ∀ e ∈ (s.page p pg).ents, e.tile ≠ slot.toNat) (hspill : (s.page p pg).spill = []) :
    s.enqueue p pg a q slot tag x = (s.addEntry p pg (newEntry q slot.toNat tag x s.now)).checkReady p pg slot.toNat tag (posRank q) := by
  have hfind : (s.page p pg).ents.find? (fun e => e.tile == slot.toNat && e.tag == tag) = none :=
    List.find?_eq_none.mpr fun e he => by simp [hents e he]
  have hset : (s.page p pg).inSet slot.toNat tag = [] := List.filter_eq_nil_iff.mpr fun e he => by simp [hents e he]
  unfold State.enqueue
  simp only [hfind, hspill, hset]
  rfl

/-- Then the page holds its entry. -/
theorem State.enqueue_empty_entry {a : Option Act} {q : Pos} {slot : BitVec 6} {tag : Tag} {x : Arr} (hpage : s.hasPage p pg)
    (hents : ∀ e ∈ (s.page p pg).ents, e.tile ≠ slot.toNat) (hspill : (s.page p pg).spill = []) :
    let t := s.enqueue p pg a q slot tag x
    (∃ e ∈ (t.page p pg).ents, e.tile = slot.toNat ∧ e.tag = tag ∧ e.at q = some x ∧ ∀ u, u ≠ q → e.at u = none) ∧
      t.mem = s.mem ∧ (t.page p pg).spill = [] ∧ t.hasPage p pg ∧ (t.part p).pages.map Page.held = (s.part p).pages.map Page.held := by
  intro t
  let v := s.addEntry p pg (newEntry q slot.toNat tag x s.now)
  have hmarks : v.Marks t := by
    rw [show t = _ from State.enqueue_empty hents hspill]
    exact v.checkReady_marks ..
  have hv : v.page p pg = _ := hpage.page_in (fun y => { y with ents := y.ents ++ [newEntry q slot.toNat tag x s.now] }) fun _ => rfl
  have hhas : v.hasPage p pg := (State.hasPage_modPage _ _ _ _ (by exact fun _ => rfl)).mpr hpage
  refine ⟨?_, hmarks.mem, ?_, (hmarks.has p pg).mpr hhas,
    (hmarks.held p).trans (pages_modPage Page.held s p pg p _ fun _ => rfl)⟩
  · have hmem : (newEntry q slot.toNat tag x s.now).tokens ∈ (t.page p pg).ents.map Entry.tokens := by
      rw [hmarks.ents p pg, hv]
      exact List.mem_map_of_mem (List.mem_append_right _ (List.mem_singleton.mpr rfl))
    obtain ⟨e, he, htok⟩ := List.mem_map.mp hmem
    obtain ⟨htile, htag, hat⟩ := Entry.holds_of_tokens htok
    obtain ⟨htile', htag', hq, hother⟩ := newEntry_holds q slot.toNat tag x s.now
    exact ⟨e, he, htile.trans htile', htag.trans htag', (hat q).trans hq, fun u hu => (hat u).trans (hother u hu)⟩
  · rw [hmarks.spill p pg, hv]
    exact hspill

/-! ### Registers passed to iterations (R158) -/

theorem State.checkReady_sameActs (s : State) (q qg tile : Nat) (tag : Tag) (by' : Nat) : State.SameActs p pg s (s.checkReady q qg tile tag by') := by
  obtain h | ⟨g, t, -, h⟩ := s.checkReady_cases q qg tile tag by'
  · rw [h]; exact .refl s
  · rw [h]
    exact (s.modPage_sameActs q qg (fun y => { y with ents := y.ents.map g }) (fun _ => rfl) fun _ => rfl).trans (State.schedFire_adds ..).sameActs

/-- Steps that leave the shells leave them one after the other. -/
theorem foldl_sameActs {β : Type} (f : State → β → State) (hf : ∀ s x, State.SameActs p pg s (f s x)) (l : List β) (s : State) :
    State.SameActs p pg s (l.foldl f s) := by
  induction l generalizing s with
  | nil => exact .refl s
  | cons x l ih => exact (hf s x).trans (ih _)

/-- Passing a register changes no shell. -/
theorem State.passReg_sameActs (q qg g fuel : Nat) : ∀ (s : State) (tag : Tag), State.SameActs p pg s (s.passReg q qg tag g fuel) := by
  induction fuel with
  | zero => exact fun s _ => .refl s
  | succ fuel ih =>
    intro s tag
    unfold State.passReg
    dsimp only
    split
    · exact .refl s
    · split
      · exact .refl s
      · split
        · split
          · exact .refl s
          · refine State.SameActs.trans (State.SameActs.trans (s.modAct_sameActs q qg _ _ ?_ ?_) (foldl_sameActs _ ?_ _ _)) (ih _ _)
            · exact fun _ => rfl
            · exact fun _ => rfl
            · exact fun s k => s.checkReady_sameActs ..
        · exact .refl s

theorem Act.regW_of_shell {a b : Act} (h : b.shell = a.shell) : b.regW = a.regW := by have := congrArg Act.regW h; exact this
theorem Act.exit_of_shell {a b : Act} (h : b.shell = a.shell) : b.exit = a.exit := by have := congrArg Act.exit h; exact this

/-! ### Tokens (R13, R24, R150) -/

/-- A page at which a token of an ID has come. -/
def State.stirred (s : State) (p pg id : Nat) : State := s.modPage p pg (fun y => y.stir id s.now)

/-- That changes neither its entries, spilled tokens, firings nor activations. -/
theorem State.stirred_page (s : State) (p pg id : Nat) : ((s.stirred p pg id).page p pg).ents = (s.page p pg).ents ∧
    ((s.stirred p pg id).page p pg).spill = (s.page p pg).spill ∧ ((s.stirred p pg id).page p pg).fires = (s.page p pg).fires ∧
    ((s.stirred p pg id).page p pg).acts = (s.page p pg).acts :=
  ⟨page_modPage Page.ents s p pg p pg _ (fun _ => rfl) fun _ => rfl, page_modPage Page.spill s p pg p pg _ (fun _ => rfl) fun _ => rfl,
    page_modPage Page.fires s p pg p pg _ (fun _ => rfl) fun _ => rfl, page_modPage Page.acts s p pg p pg _ (fun _ => rfl) fun _ => rfl⟩

theorem State.stirred_act (s : State) (p pg id : Nat) (tag : Tag) : ((s.stirred p pg id).page p pg).act? tag = (s.page p pg).act? tag := by
  unfold Page.act?
  rw [(s.stirred_page p pg id).2.2.2]

/-- An Inst record is found under its ID. -/
theorem inst_id (h : (s.part p).inst? id = some i) : i.id = id := by simpa using List.find?_some h

section
variable {a : Act} {q : Pos} {slot : BitVec 6} {g : BitVec 6}

/-- A token of another generation is stale. -/
theorem exec_tokenArrival_stale (htg : s.arg.tg = .queue q slot) (hi : (s.part s.arg.p).inst? (tagId s.arg.tag) = some i)
    (hgen : i.gen ≠ tagGen s.arg.tag) : exec .tokenArrival s = .next (s.stale s.arg.p s.arg.pg slot.toNat) := by
  change execTokenArrival s = _
  unfold execTokenArrival State.arrive
  dsimp only
  rw [htg, hi]
  dsimp only
  rw [if_pos hgen]
  rfl

/-- What a token meets at an open page while its ID runs and its activation is live: nothing that stops it. -/
structure State.Opens (s : State) (i : Inst) (a : Act) : Prop where
  inst : (s.part s.arg.p).inst? (tagId s.arg.tag) = some i
  gen : i.gen = tagGen s.arg.tag
  run : i.status = .running
  inject : i.inject = none
  save : i.save = none
  gated : (s.page s.arg.p s.arg.pg).gated = false
  reload : (s.page s.arg.p s.arg.pg).reload = false
  behind : (s.page s.arg.p s.arg.pg).behind s.arg.tg s.arg.x = false
  act : (s.page s.arg.p s.arg.pg).act? s.arg.tag = some a
  looping : a.looping = none

/-- A token is delivered to an activation: to its queue or its register. -/
def State.deliver (s : State) (p pg : Nat) (a : Act) (tg : Target) (tag : Tag) (x : Arr) : State :=
  match tg with
  | .reg g => s.deliverReg p pg a g x
  | .queue q slot => s.enqueue p pg (some a) q slot tag x
  | _ => s

/-- There a token is delivered. -/
theorem State.arrive_open (h : s.Opens i a) : s.arrive s.arg.p s.arg.pg s.arg.tg s.arg.tag s.arg.tok s.arg.fid s.arg.x =
    (s.stirred s.arg.p s.arg.pg (tagId s.arg.tag)).deliver s.arg.p s.arg.pg a s.arg.tg s.arg.tag ⟨s.arg.tok, s.arg.fid, s.arg.x⟩ := by
  have hhalt : i.halted = false := by simp [Inst.halted, h.run, h.inject]
  have hopen : (((s.part s.arg.p).page s.arg.pg).gated || ((s.part s.arg.p).page s.arg.pg).reload ||
      ((s.part s.arg.p).page s.arg.pg).behind s.arg.tg s.arg.x) = false := by
    have hb := h.behind; have hg := h.gated; have hr := h.reload
    unfold State.page at hb hg hr
    rw [hb, hg, hr]; rfl
  unfold State.arrive
  dsimp only
  rw [h.inst]
  dsimp only
  rw [if_neg (not_not.mpr h.gen), if_neg (by simp [hhalt]), if_neg (by simp [h.save]), if_neg (by simp [hopen]), inst_id h.inst]
  rw [show ((s.part s.arg.p).page s.arg.pg).act? s.arg.tag = some a from h.act]
  dsimp only
  rw [if_neg (by simp [h.looping])]
  rfl

/-- The exit token of a live activation whose ID runs reaches its block. -/
theorem exec_tokenArrival_exit {e : ExitRec} (htg : s.arg.tg = .none) (he : exitOf s.arg = some e) (ha : (s.page s.arg.p s.arg.pg).act? s.arg.tag = some a)
    (hhalt : (s.inst s.arg.p a.id).halted = false) (hfirst : a.exit = none) : exec .tokenArrival s =
    .next ((s.modAct s.arg.p s.arg.pg s.arg.tag (fun a => { a with exit := some e })).checkDone s.arg.p s.arg.pg s.arg.tag) := by
  change execTokenArrival s = _
  unfold execTokenArrival State.arriveExit
  dsimp only
  rw [htg]
  dsimp only
  rw [he]
  dsimp only
  rw [ha]
  dsimp only
  rw [if_neg (by simp [hhalt]), if_neg (by simp [hfirst])]

/-- A token of a target other than the exit and the ports arrives. -/
theorem exec_tokenArrival_target (h : s.Opens i a) (hn : s.arg.tg ≠ .none) (hp : ∀ e, s.arg.tg ≠ .port e) : exec .tokenArrival s =
    .next ((s.stirred s.arg.p s.arg.pg (tagId s.arg.tag)).deliver s.arg.p s.arg.pg a s.arg.tg s.arg.tag ⟨s.arg.tok, s.arg.fid, s.arg.x⟩) := by
  rw [← State.arrive_open h]
  change execTokenArrival s = _
  unfold execTokenArrival
  dsimp only
  split
  · exact absurd ‹_› hn
  · exact absurd ‹_› (hp _)
  · rfl

/-- A second token for a position raises TAGDUP. -/
theorem State.enqueue_dup {tag : Tag} {x b : Arr} {e : Entry} (he : (s.page p pg).ents.find? (fun e => e.tile == slot.toNat && e.tag == tag) = some e)
    (hb : e.at q = some b) : s.enqueue p pg (some a) q slot tag x = s.tagdup p pg a slot.toNat (posRank q) (.queue q slot) x.tok := by
  unfold State.enqueue
  dsimp only
  rw [he, if_pos (by simp [hb])]
  rfl

/-- A first delivery to a register joins those of its activation. -/
theorem State.deliverReg_first {x : Arr} {tag : Tag} (ha : (s.page p pg).act? tag = some a) (hfirst : ∀ d ∈ a.regW, d.1 ≠ g.toNat) :
    let t := s.deliverReg p pg a g x
    t.mem = s.mem ∧ ∃ b, (t.page p pg).act? tag = some b ∧ b.regW = a.regW ++ [(g.toNat, x)] := by
  intro t
  obtain rfl : a.tag = tag := by simpa using List.find?_some ha
  have hnone : kget a.regW g.toNat = none := by
    unfold kget
    rw [List.find?_eq_none.mpr fun d hd => by simpa using hfirst d hd]; rfl
  let u := s.modAct p pg a.tag (fun a => { a with regW := a.regW ++ [(g.toNat, x)] })
  have ht : t = (u.passReg p pg a.tag g.toNat 64).checkDone p pg a.tag := if_neg (by simp [hnone])
  have hsame := (State.passReg_sameActs (p := p) (pg := pg) p pg g.toNat 64 u a.tag).trans (State.checkDone_sameActs _ p pg a.tag)
  rw [← ht] at hsame
  obtain ⟨b, hb, hshell⟩ := hsame.act (act_in s p pg a.tag (fun a => { a with regW := a.regW ++ [(g.toNat, x)] }) (fun _ => rfl) a ha)
  exact ⟨hsame.mem, b, hb, Act.regW_of_shell hshell⟩

/-- A second one raises TAGDUP. -/
theorem State.deliverReg_second {x : Arr} {d : Nat × Arr} (hd : d ∈ a.regW) (hg : d.1 = g.toNat) :
    s.deliverReg p pg a g x = s.tagdup p pg a ((s.page p pg).tileOf x.fid 0) (4 + g.toNat * 256) (.reg g) x.tok := by
  refine if_pos ?_
  unfold kget
  rw [Option.isSome_map, List.find?_isSome]
  exact ⟨d, hd, by simpa using hg⟩

end

/-! ### Spilled tokens that return (R152), and promotions (R153) -/

theorem Page.modHist_ents (y : Page) (tile : Nat) (f : Hist → Hist) : (y.modHist tile f).ents = y.ents := by
  unfold Page.modHist
  split <;> rfl

theorem Page.modHist_num (y : Page) (tile : Nat) (f : Hist → Hist) : (y.modHist tile f).num = y.num := by
  unfold Page.modHist
  split <;> rfl

theorem Page.modHist_held (y : Page) (tile : Nat) (f : Hist → Hist) : (y.modHist tile f).held = y.held := by
  unfold Page.modHist
  split <;> rfl

/-- Where nothing is held, nothing tries again. -/
theorem State.unholdAll_none (h : ∀ l ∈ (s.part p).pages.map Page.held, l = []) : s.unholdAll p = s := by
  suffices hfold : ∀ l : List Page, (∀ y ∈ l, y.held = []) → l.foldl (fun s y => if y.held.isEmpty then s else s.unhold p y.num) s = s from
    hfold _ fun y hy => h _ (List.mem_map_of_mem hy)
  intro l
  induction l with
  | nil => exact fun _ => rfl
  | cons y l ih =>
    intro hl
    obtain ⟨hy, hl⟩ := List.forall_mem_cons.mp hl
    rw [List.foldl_cons, if_pos (by rw [hy]; rfl)]
    exact ih hl

/-- A page from which a spilled token has gone. -/
def State.unspilled (s : State) (p pg : Nat) (z : Spilled) : State :=
  s.modPage p pg (fun y => { (y.modHist z.tile (fun h => { h with returns := sat32 h.returns })) with spill := y.spill.filter (fun w => w != z) })

/-- A page in which an entry dates back to a spilled token. -/
def State.backdated (s : State) (p pg : Nat) (z : Spilled) : State :=
  s.modPage p pg (fun y => { y with ents := y.ents.map (fun e =>
    if e.tile == z.tile && e.tag == z.tag then { e with since := min e.since z.since } else e) })

/-- The only spilled token of a page returns to its queue. -/
theorem exec_spillReturn_only {z : Spilled} (hspill : (s.page s.arg.p s.arg.pg).spill = [z]) (hz : s.arg.z ≠ 1) (htile : z.tile = s.arg.x)
    (hset : setOf z.tag = s.arg.y) (hents : ∀ e ∈ (s.page s.arg.p s.arg.pg).ents, e.tile ≠ z.tile) :
    let u := s.unspilled s.arg.p s.arg.pg z
    let t := (u.enqueue s.arg.p s.arg.pg ((u.page s.arg.p s.arg.pg).act? z.tag) z.pos (BitVec.ofNat 6 z.tile) z.tag z.arr).backdated s.arg.p s.arg.pg z
    (t.page s.arg.p s.arg.pg).spill = [] → exec .spillReturn s = .next (t.unholdAll s.arg.p) := by
  intro u t ht
  have hfind : (s.page s.arg.p s.arg.pg).spill.find? (fun w => w.tile == s.arg.x && setOf w.tag == s.arg.y) = some z := by
    simp [hspill, htile, hset]
  have hin : (s.page s.arg.p s.arg.pg).inSet s.arg.x z.tag = [] := List.filter_eq_nil_iff.mpr fun e he => by simp [← htile, hents e he]
  change execSpillReturn s = _
  unfold execSpillReturn
  dsimp only
  rw [if_neg hz, hfind]
  dsimp only
  rw [hin, if_neg (by simp [lowestFree]), ← htile]
  change Host.Outcome.next (State.unholdAll (match (t.page s.arg.p s.arg.pg).spill.find? _ with | none => t | some w => _) s.arg.p) = _
  rw [ht]
  rfl

/-- Where its tile is empty and nothing is held, it stands in its entry, and the spill table is empty. -/
theorem spillReturn_entry {z : Spilled} (hspill : (s.page s.arg.p s.arg.pg).spill = [z]) (hz : s.arg.z ≠ 1) (htile : z.tile = s.arg.x)
    (hlt : z.tile < 64) (hset : setOf z.tag = s.arg.y) (hents : ∀ e ∈ (s.page s.arg.p s.arg.pg).ents, e.tile ≠ z.tile)
    (hheld : ∀ w ∈ (s.part s.arg.p).pages, w.held = []) :
    ∃ t, exec .spillReturn s = .next t ∧ t.mem = s.mem ∧ (t.page s.arg.p s.arg.pg).spill = [] ∧
      ∃ e ∈ (t.page s.arg.p s.arg.pg).ents, e.tile = z.tile ∧ e.tag = z.tag ∧ e.at z.pos = some z.arr := by
  let u := s.unspilled s.arg.p s.arg.pg z
  have hpage : s.hasPage s.arg.p s.arg.pg := State.hasPage_of_ne fun e => by rw [e] at hspill; cases hspill
  have hu := hpage.page_in (fun y => { (y.modHist z.tile (fun h => { h with returns := sat32 h.returns })) with spill := y.spill.filter (fun w => w != z) })
    fun y => y.modHist_num ..
  have hupage : u.hasPage s.arg.p s.arg.pg := (State.hasPage_modPage _ _ _ _ (by exact fun y => y.modHist_num ..)).mpr hpage
  have huspill : (u.page s.arg.p s.arg.pg).spill = [] := (congrArg Page.spill hu).trans (by simp [hspill])
  have huents : (u.page s.arg.p s.arg.pg).ents = (s.page s.arg.p s.arg.pg).ents := (congrArg Page.ents hu).trans (Page.modHist_ents ..)
  have huheld : (u.part s.arg.p).pages.map Page.held = (s.part s.arg.p).pages.map Page.held :=
    pages_modPage Page.held _ _ _ _ _ fun y => y.modHist_held ..
  have hslot : (BitVec.ofNat 6 z.tile).toNat = z.tile := by rw [BitVec.toNat_ofNat]; exact Nat.mod_eq_of_lt hlt
  let v := u.enqueue s.arg.p s.arg.pg ((u.page s.arg.p s.arg.pg).act? z.tag) z.pos (BitVec.ofNat 6 z.tile) z.tag z.arr
  obtain ⟨⟨e, he, hetile, hetag, hat, -⟩, hvmem, hvspill, hvpage, hvheld⟩ :
      (∃ e ∈ (v.page s.arg.p s.arg.pg).ents, e.tile = _ ∧ e.tag = _ ∧ e.at _ = _ ∧ ∀ u, u ≠ _ → e.at u = none) ∧ _ :=
    State.enqueue_empty_entry (s := u) (slot := BitVec.ofNat 6 z.tile) hupage (by rw [huents, hslot]; exact hents) huspill
  have ht := hvpage.page_in (fun y => { y with ents := y.ents.map (fun e =>
    if e.tile == z.tile && e.tag == z.tag then { e with since := min e.since z.since } else e) }) fun _ => rfl
  have hnone : (v.backdated s.arg.p s.arg.pg z).unholdAll s.arg.p = v.backdated s.arg.p s.arg.pg z := by
    refine State.unholdAll_none fun l hl => ?_
    rw [State.backdated, pages_modPage Page.held _ _ _ _ _ (by exact fun _ => rfl), hvheld, huheld] at hl
    obtain ⟨w, hw, rfl⟩ := List.mem_map.mp hl
    exact hheld w hw
  have htspill : ((v.backdated s.arg.p s.arg.pg z).page s.arg.p s.arg.pg).spill = [] := (congrArg Page.spill ht).trans hvspill
  refine ⟨_, (exec_spillReturn_only hspill hz htile hset hents htspill).trans (congrArg _ hnone), hvmem, htspill,
    { e with since := min e.since z.since }, ?_, hetile.trans hslot, hetag, ?_⟩
  · rw [State.backdated, ht]
    refine List.mem_map.mpr ⟨e, he, if_pos ?_⟩
    simp [hetile, hslot, hetag]
  · rw [← hat]
    cases z.pos <;> rfl

/-- A page that does not exist is blank, as is what an update of it leaves. -/
theorem page_of_not_hasPage (h : ¬ s.hasPage p pg) : s.page p pg = { num := pg } := by
  by_contra hne
  exact h (State.hasPage_of_ne hne)

/-- The entries of a page after an update of each. -/
theorem ents_mapped (s : State) (p pg : Nat) (g : Entry → Entry) :
    ((s.modPage p pg (fun y => { y with ents := y.ents.map g })).page p pg).ents = (s.page p pg).ents.map g := by
  by_cases h : s.hasPage p pg
  · rw [h.page_in (fun y => { y with ents := y.ents.map g }) fun _ => rfl]
  · have hu : ¬ (s.modPage p pg (fun y => { y with ents := y.ents.map g })).hasPage p pg := by rwa [State.hasPage_modPage _ _ _ _ (by exact fun _ => rfl)]
    rw [page_of_not_hasPage h, page_of_not_hasPage hu]
    rfl

/-! ### Replays of loads (R21) -/

theorem State.memWrite_core (s : State) (key : Nat) (bs : List Byte) : (s.memWrite key bs).core = s.core := by
  have hlines (n : Nat) : ∀ (s : State) (l : Nat), s.Accounts (s.countLines l n) := by
    induction n with
    | zero => exact fun s _ => .refl s
    | succ n ih => exact fun s l => (s.countLine_accounts l).trans (ih _ _)
  unfold State.memWrite
  refine ite_keeps (P := fun t : State => t.core = s.core) rfl ((State.plaiterMark_accounts _ _).core.trans ?_)
  exact (hlines _ _ _).core

/-- What a firing goes on with does not change as operands go back to their queues. -/
theorem State.putBack_arg (s : State) (p pg tile : Nat) (tag : Tag) (q : Pos) (x : Option Arr) : (s.putBack p pg tile tag q x).arg = s.arg := by
  have hdev : ((s.devEntry p (s.part p).spillVa).getD s).arg = s.arg := by
    unfold State.devEntry State.devWrite
    split
    · rfl
    · split
      · split
        · rename_i l _ _
          have := congrArg State.arg (s.memWrite_core l.pa (freeBytes s.free 32)); exact this
        · rfl
      · rfl
  unfold State.putBack
  dsimp only
  split
  · rfl
  · split
    · rfl
    · rfl
    · split
      · exact hdev
      · rfl

theorem putBack_if_arg {c : Prop} [Decidable c] {u : State} {a : Args} (h : u.arg = a) (p pg tile : Nat) (tag : Tag) (q : Pos) (x : Option Arr) :
    (if c then u.putBack p pg tile tag q x else u).arg = a :=
  ite_keeps (P := fun t : State => t.arg = a) ((u.putBack_arg ..).trans h) h

theorem State.withdraw_arg (s : State) (p pg load : Nat) : (s.withdraw p pg load).arg = s.arg :=
  foldl_keeps (P := fun t : State => t.arg = s.arg) rfl fun _ _ h =>
    putBack_if_arg (putBack_if_arg (putBack_if_arg (putBack_if_arg h _ _ _ _ _ _) _ _ _ _ _ _) _ _ _ _ _ _) _ _ _ _ _ _

/-- The replay of a load that has acted: its bytes come again, or it reads them again. -/
theorem exec_loadReplay {f : Fire} (hf : (s.page s.arg.p s.arg.pg).fire? s.arg.fid = some f) (ha : f.acted = true) :
    let u := s.withdraw s.arg.p s.arg.pg f.fid
    exec .loadReplay s = .next (if s.arg.x = 0 then
        u.sched (u.now + 2 + s.arg.y) (srcOf s.arg.pg f.tile) .loadReply { p := s.arg.p, pg := s.arg.pg, fid := f.fid, tag := f.tag, x := 1 }
      else u.sched (u.now + (u.loadLegs s.arg.p s.arg.pg f.tile ((f.aux[0]?).getD 0) f.va f.key).1) (srcOf s.arg.pg f.tile) .loadReply
        { p := s.arg.p, pg := s.arg.pg, fid := f.fid, tag := f.tag }) := by
  intro u
  have harg : u.arg = s.arg := s.withdraw_arg ..
  change execLoadReplay s = _
  unfold execLoadReplay
  dsimp only
  rw [hf]
  dsimp only
  rw [if_neg (by simp [ha])]
  change Host.Outcome.next (if u.arg.x = 0 then u.sched (u.now + 2 + u.arg.y) _ _ _ else _) = _
  rw [harg]

end

/-- Settles O49: the rows of a page one after the other. -/
theorem arrivalsAtAPage : Obligations.ArrivalsAtAPage := by
  refine ⟨fun s i a hi => ⟨fun hgen q slot htg => exec_tokenArrival_stale htg hi hgen, fun hgen hrun hinj hsave hgate hrel hbeh ha hloop => ?tokens⟩,
    fun s => ⟨fun z hspill hz htile hlt hset hents hheld => spillReturn_entry hspill hz htile hlt hset hents hheld, ?promote, fun f hf hacted => ?replay⟩,
    fun s i st hi hst => ⟨exec_rtagen_idle hi hst, exec_rtagpend_idle hi hst, fun hrun hinj hsave hend hen hrt hpage hfree => ?messages,
      fun e hl he => ?handler⟩⟩
  case tokens =>
    have hopen : s.Opens i a := ⟨hi, hgen, hrun, hinj, hsave, hgate, hrel, hbeh, ha, hloop⟩
    have hact := (s.stirred_act s.arg.p s.arg.pg (tagId s.arg.tag) s.arg.tag).trans ha
    obtain ⟨hents, hspills, hfires, -⟩ := s.stirred_page s.arg.p s.arg.pg (tagId s.arg.tag)
    refine ⟨fun q slot htg he hs => ?_, fun q slot e b htg he hb => ?_, fun g htg hfirst => ?_, fun g d htg hd hg => ?_,
      fun addr num slot htg hl hid hfirst => ?_⟩
    · have hexec := exec_tokenArrival_target hopen (by simp [htg]) (by simp [htg])
      rw [htg] at hexec
      have hpage : (s.stirred s.arg.p s.arg.pg (tagId s.arg.tag)).hasPage s.arg.p s.arg.pg := State.hasPage_of_act hact
      obtain ⟨hentry, hmem, -⟩ := State.enqueue_empty_entry (a := some a) (q := q) (slot := slot) (tag := s.arg.tag)
        (x := ⟨s.arg.tok, s.arg.fid, s.arg.x⟩) hpage (hents ▸ he) (hspills.trans hs)
      exact ⟨_, hexec, hmem, hentry⟩
    · rw [exec_tokenArrival_target hopen (by simp [htg]) (by simp [htg]), htg]
      exact congrArg _ (State.enqueue_dup (hents ▸ he) hb)
    · have hexec := exec_tokenArrival_target hopen (by simp [htg]) (by simp [htg])
      rw [htg] at hexec
      obtain ⟨hmem, b, hb, hregW⟩ := State.deliverReg_first (g := g) (x := ⟨s.arg.tok, s.arg.fid, s.arg.x⟩) hact hfirst
      exact ⟨_, b, hexec, hmem, hb, hregW⟩
    · rw [exec_tokenArrival_target hopen (by simp [htg]) (by simp [htg]), htg]
      refine congrArg _ ((State.deliverReg_second hd hg).trans ?_)
      unfold Page.tileOf Page.fire?
      rw [hfires]
      rfl
    · have hhalt : (s.inst s.arg.p a.id).halted = false := by
        rw [hid, inst_id hi, State.inst_of hi]
        simp [Inst.halted, hrun, hinj]
      have he : exitOf s.arg = some { addr := addr, num := num, slot := slot, fid := s.arg.fid, ret := false } := by
        unfold exitOf
        rw [htg, hl]
        rfl
      have hsame := State.checkDone_sameActs (p := s.arg.p) (pg := s.arg.pg) (s.modAct s.arg.p s.arg.pg s.arg.tag
        (fun a => { a with exit := some { addr := addr, num := num, slot := slot, fid := s.arg.fid, ret := false } })) s.arg.p s.arg.pg s.arg.tag
      obtain ⟨b, hb, hshell⟩ := hsame.act (act_in s s.arg.p s.arg.pg s.arg.tag
        (fun a => { a with exit := some { addr := addr, num := num, slot := slot, fid := s.arg.fid, ret := false } }) (fun _ => rfl) a ha)
      exact ⟨_, b, exec_tokenArrival_exit htg he ha hhalt hfirst, hsame.mem, hb, Act.exit_of_shell hshell⟩
  case promote =>
    let g (e : Entry) : Entry := if e.tile == s.arg.x && e.tag == s.arg.tag && e.ready.isSome then { e with promo := 2 } else e
    have hadds := State.schedFire_adds (s.modPage s.arg.p s.arg.pg (fun y => { y with ents := y.ents.map g })) s.now s.arg.p s.arg.pg s.arg.x
    refine ⟨_, rfl, ?_⟩
    rw [hadds.page, ents_mapped s s.arg.p s.arg.pg g]
    refine List.map_congr_left fun e _ => if_congr ?_ rfl rfl
    simp [Option.isSome_iff_ne_none, and_assoc]
  case replay =>
    intro u
    have hexec := exec_loadReplay hf hacted
    refine ⟨fun hx => ?_, fun hx => ?_⟩
    · rw [hexec, if_pos hx]
    · rw [hexec, if_neg (by simp [hx])]
  case messages =>
    intro held
    have hhas : s.hasPage s.arg.p s.arg.pg := by
      obtain ⟨z, hz, hn⟩ := hpage
      exact List.mem_map.mpr ⟨z, hz, hn⟩
    have hdeliver : ∀ (row : Instr) (ch : Option Nat) (r : Instr), exec row s = .next (s.deliverMsg s.arg.p s.arg.pg
        { strand := s.arg.x, id := s.arg.id, rt := s.arg.y, w0 := s.arg.w0, w1 := s.arg.w1, ch := ch } r) → held row ch := by
      intro row ch r hrow hwait
      refine ⟨_, hrow, State.deliverMsg_held (m := { strand := s.arg.x, id := s.arg.id, rt := s.arg.y, w0 := s.arg.w0, w1 := s.arg.w1, ch := ch })
        hi hst hrun hinj hsave hend hen hrt hhas (fun w hw => ?_) fun w hw => ?_⟩
      · simpa [Msg.isFor, and_assoc] using hfree w hw
      · exact Msg.after_eq_false (hwait w hw)
    exact ⟨fun hz => hdeliver _ _ .messageArrival (congrArg _ (if_neg (by simp [hz]))), hdeliver _ _ .messageArrival rfl⟩
  case handler =>
    rw [exec_handlerActivationStart hi hst hl he, bits_priority]

end Sys2Proof.Machine
end

section
/-! PROOFS of the statements of the sequential machine: blocks that start, commit and follow one another (R22 to R30, R125, R155, R156). -/

namespace Sys2Proof.Machine

section
variable {s : State} {p pg : Nat} {a : Act} {n : NextBlk}

/-! ### Activations that start (R30, R151) -/

/-- An activation that has been inserted is found under its tag, which no other has. -/
theorem insAct_find (y : Page) {l : List Act} (h : l.find? (fun b => b.tag == a.tag) = none) :
    (y.insAct a l).find? (fun b => b.tag == a.tag) = some a := by
  induction l with
  | nil => simp [Page.insAct]
  | cons b l ih =>
    obtain ⟨hb, hl⟩ : ¬(b.tag == a.tag) = true ∧ l.find? (fun b => b.tag == a.tag) = none := by
      rw [List.find?_cons] at h
      split at h
      · cases h
      · exact ⟨by simp [*], h⟩
    unfold Page.insAct
    split
    · simp
    · simpa [List.find?_cons, hb] using ih hl

/-- Marking an entry ready leaves the activations. -/
theorem State.checkReady_acts (s : State) (q qg tile : Nat) (tag : Tag) (by' p pg : Nat) :
    ((s.checkReady q qg tile tag by').page p pg).acts = (s.page p pg).acts := by
  obtain h | ⟨g, t, -, h⟩ := s.checkReady_cases q qg tile tag by'
  · rw [h]
  · rw [h, (State.schedFire_adds ..).page]
    exact page_modPage Page.acts s q qg p pg _ (fun _ => rfl) fun _ => rfl

/-- An activation that starts stands on its page, whatever else its start does: only the first iteration of a loop gets tokens of its own. -/
theorem State.startAct_act (hpage : s.hasPage p pg) (hnone : (s.page p pg).act? a.tag = none) (hfirst : ¬(a.role = .iter ∧ a.iter = 0)) :
    ((s.startAct p pg a).page p pg).act? a.tag = some a := by
  let v := s.modPage p pg (fun y => { y with acts := y.insAct a y.acts })
  have hv : (v.page p pg).act? a.tag = some a := by
    have hv := hpage.page_in (fun y => { y with acts := y.insAct a y.acts }) fun _ => rfl
    exact (congrArg (fun y => Page.act? y a.tag) hv).trans (insAct_find _ hnone)
  let holds (t : State) : Prop := (t.page p pg).acts = (v.page p pg).acts
  have hsame : ((s.startAct p pg a).page p pg).acts = (v.page p pg).acts := by
    unfold State.startAct
    dsimp only
    rw [if_neg (by simpa using hfirst)]
    refine foldl_keeps (P := holds) (foldl_keeps (P := holds) rfl fun t k ht => ?_) fun t k ht => (t.checkReady_acts ..).trans ht
    · split
      · exact ht
      · exact (page_modPage Page.acts t p pg p pg (fun y => { y with ents := y.ents ++ [{ tile := k, tag := a.tag, way := 4 }] })
          (fun _ => rfl) fun _ => rfl).trans ht
  unfold Page.act?
  rw [hsame]
  exact hv


/-! ### Configuration changes (R28 to R30) -/

/-- A change under way whose activation's firings drain, and whose strand is not asked to stop. -/
theorem exec_configDrain_waits (hn : (s.page s.arg.p s.arg.pg).nexts.find? (fun m => m.tag == s.arg.tag) = some n)
    (hd : (s.page s.arg.p s.arg.pg).undrained n.id n.strand n.tag (n.ret && n.role == .main) = true) : exec .configDrain s = .next s := by
  change execConfigDrain s = _
  unfold execConfigDrain
  dsimp only
  rw [hn]
  dsimp only
  rw [hd, if_pos (by simp)]

theorem exec_configDrain_goes (hn : (s.page s.arg.p s.arg.pg).nexts.find? (fun m => m.tag == s.arg.tag) = some n) (hrun : s.mayRun s.arg.p n.id n.tag = true)
    (hd : (s.page s.arg.p s.arg.pg).undrained n.id n.strand n.tag false = false) (hret : n.ret = false)
    (hstop : n.role ≠ .main ∨ ((s.inst s.arg.p n.id).strand? n.strand).any (fun t => t.stopReq) = false) :
    exec .configDrain s = .next (s.sched (max s.now n.ready) (srcOf s.arg.pg 0) .blockFetch { p := s.arg.p, pg := s.arg.pg, id := n.id, tag := n.tag }) := by
  change execConfigDrain s = _
  unfold execConfigDrain
  dsimp only
  rw [hn]
  dsimp only
  rw [hret, Bool.false_and, hd, hrun, if_neg (by simp), if_neg (by simp), if_neg (by rcases hstop with h | h <;> simp [h])]

/-- The block that a change reached, as its strand's next activation, with the registers of its ID. -/
def NextBlk.start (n : NextBlk) (i : Inst) (wins : List Win) (now gen : Nat) (b : Loaded) : Act where
  tag := n.tag
  id := n.id
  strand := n.strand
  role := n.role
  prio := n.prio
  blk := n.blk
  hdr := b.hdr
  mask := b.mask
  words := b.words
  arity := b.arity
  descs := b.descs
  gen := gen
  started := now
  regs := i.regs
  wins := wins

/-- The strand of a change points at its block, with a new generation. -/
def State.repointed (s : State) (p : Nat) (n : NextBlk) : State :=
  s.modStrand p n.id n.strand (fun t =>
    let t := { t with gen := (t.gen + 1) % 65536 }
    if n.role == .main then { t with blk := n.blk } else t)

/-- And the change is no longer under way. -/
def State.changed (s : State) (p pg : Nat) (n : NextBlk) : State :=
  (s.repointed p n).modPage p pg (fun y => { y with nexts := y.nexts.filter (fun m => m.tag != n.tag) })

theorem State.changed_act (s : State) (p pg : Nat) (n : NextBlk) (tag : Tag) : ((s.changed p pg n).page p pg).act? tag = (s.page p pg).act? tag := by
  unfold State.changed
  rw [page_modPage (fun y => y.act? tag) (s.repointed p n) p pg p pg _ (by exact fun _ => rfl) (by exact fun _ => rfl)]
  exact congrArg (fun y : Page => y.act? tag) (s.modStrand_page ..)

/-- Updates of pages and strands leave a partition's CSRs, and so the windows of what starts. -/
theorem State.modPage_csr (s : State) (p pg q : Nat) (f : Page → Page) : ((s.modPage p pg f).part q).csr = (s.part q).csr :=
  part_modPart Part.csr s p q _ (fun _ => rfl) fun _ => rfl

theorem State.modStrand_csr (s : State) (p id n : Nat) (f : Strand → Strand) (q : Nat) : ((s.modStrand p id n f).part q).csr = (s.part q).csr := by
  unfold State.modStrand State.modInst
  exact part_modPart Part.csr s p q _ (fun _ => rfl) fun _ => rfl

theorem State.changed_winsFor (s : State) (p pg : Nat) (n : NextBlk) (i : Inst) : (s.changed p pg n).winsFor p i n.role = s.winsFor p i n.role := by
  have hcsr : ((s.changed p pg n).part p).csr = (s.part p).csr := (State.modPage_csr ..).trans (s.modStrand_csr ..)
  unfold State.winsFor Part.base64 Part.csrN
  dsimp only
  rw [hcsr]

theorem State.changed_hasPage (h : s.hasPage p pg) (n : NextBlk) : (s.changed p pg n).hasPage p pg := by
  unfold State.changed
  rw [State.hasPage_modPage _ _ _ _ (by exact fun _ => rfl)]
  unfold State.hasPage State.repointed State.modStrand State.modInst
  rw [part_modPart (fun x => x.pages.map Page.num) s p p _ (by exact fun _ => rfl) (by exact fun _ => rfl)]
  exact h

/-- A block that is fetched without fault starts. -/
theorem exec_blockFetch_ok {b : Loaded} (hn : (s.page s.arg.p s.arg.pg).nexts.find? (fun m => m.tag == s.arg.tag) = some n)
    (hrun : s.mayRun s.arg.p n.id n.tag = true) (hpay : n.payload = []) (hrole : n.role ≠ .iter)
    (hnone : (s.page s.arg.p s.arg.pg).act? n.tag = none)
    (hload : s.loadBlock s.arg.p (s.inst s.arg.p n.id) n.strand (n.role == .main) (if n.entry then .entry else .exit) n.blk = .ok b) :
    ∃ t gen, exec .blockFetch s = .next t ∧ (t.page s.arg.p s.arg.pg).act? n.tag =
      some (n.start (s.inst s.arg.p n.id) (s.winsFor s.arg.p (s.inst s.arg.p n.id) n.role) s.now gen b) := by
  let gen := (((s.inst s.arg.p n.id).strand? n.strand).map Strand.gen).getD 0
  let v := s.changed s.arg.p s.arg.pg n
  have hexec : exec .blockFetch s = .next (v.startAct s.arg.p s.arg.pg
      (n.start (s.inst s.arg.p n.id) (v.winsFor s.arg.p (s.inst s.arg.p n.id) n.role) s.now gen b)) := by
    change execBlockFetch s = _
    unfold execBlockFetch
    dsimp only
    rw [hn]
    dsimp only
    rw [hrun, if_neg (by simp), hload, hpay]
    rfl
  rw [s.changed_winsFor] at hexec
  have hpage : v.hasPage s.arg.p s.arg.pg := State.changed_hasPage (State.hasPage_of_ne fun e => by rw [e] at hn; cases hn) n
  exact ⟨_, gen, hexec, State.startAct_act hpage ((s.changed_act ..).trans hnone) fun h => hrole h.1⟩

/-- A block whose fetch faults traps; one that a context holds does so without being read again. -/
theorem exec_blockFetch_error {k : Option Nat} {f : LoadFault} (hn : (s.page s.arg.p s.arg.pg).nexts.find? (fun m => m.tag == s.arg.tag) = some n)
    (hrun : s.mayRun s.arg.p n.id n.tag = true)
    (hload : s.loadBlock s.arg.p (s.inst s.arg.p n.id) n.strand (n.role == .main) (if n.entry then .entry else .exit) n.blk = .error (k, f)) :
    exec .blockFetch s = .next (s.takeTrap s.arg.p n.id (if (s.page s.arg.p s.arg.pg).ctxs.contains n.blk
      then s.loadTrap s.arg.p s.arg.pg n n.blk none { f with va := n.blk } else s.loadTrap s.arg.p s.arg.pg n n.blk k f)) := by
  change execBlockFetch s = _
  unfold execBlockFetch
  dsimp only
  rw [hn]
  dsimp only
  rw [hrun, if_neg (by simp), hload]

/-! ### Commits (R22, R25, R125, R145, R155, R156) -/

/-- A block that commits is followed by its loop, by the end of its handler, or by the block that its exit names. -/
theorem exec_blockCommit (ha : (s.page s.arg.p s.arg.pg).act? s.arg.tag = some a) (hc : a.commitAt ≠ none) (hrun : s.mayRun s.arg.p a.id a.tag = true)
    (hw : s.commitWaits s.arg.p s.arg.pg a .blockCommit = none) : let c := s.commitAct s.arg.p s.arg.pg a
    exec .blockCommit s = .next ((match a.latched with
      | some (n, body, _, _) => c.holdLoop s.arg.p s.arg.pg a n body
      | none => if (a.role != Role.main && ((a.exit.map ExitRec.ret).getD false || (a.role == Role.trap && a.ownRft (s.inst s.arg.p a.id)))) = true
        then c.endHandler s.arg.p s.arg.pg a else c.follow s.arg.p s.arg.pg a).applyRfts s.arg.p s.arg.pg a) := by
  intro c
  change execBlockCommit s = _
  unfold execBlockCommit
  dsimp only
  rw [ha]
  dsimp only
  rw [hrun, if_neg (by simpa using hc), hw] <;> rfl

/-- An iteration that retires goes on to its loop, or to the one that it holds. -/
theorem exec_iterationRetire (ha : (s.page s.arg.p s.arg.pg).act? s.arg.tag = some a) (hc : a.commitAt ≠ none) (hrun : s.mayRun s.arg.p a.id a.tag = true)
    (hw : s.commitWaits s.arg.p s.arg.pg a .iterationRetire = none) : let c := s.commitAct s.arg.p s.arg.pg a
    exec .iterationRetire s = .next (match a.latched with
      | some (n, body, _, _) => (c.holdLoop s.arg.p s.arg.pg a n body).applyRfts s.arg.p s.arg.pg a
      | none => (c.retire s.arg.p s.arg.pg a (s.iterRegs s.arg.p s.arg.pg a) 9).applyRfts s.arg.p s.arg.pg a) := by
  intro c
  change execIterationRetire s = _
  unfold execIterationRetire
  dsimp only
  rw [ha]
  dsimp only
  rw [hrun, if_neg (by simpa using hc), hw] <;> rfl

/-! ### What a commit leaves in registers and windows (R25, R125, R145) -/

theorem putRegs_cons (l : List Reg) (d : Nat × Arr) (ds : List (Nat × Arr)) :
    putRegs l (d :: ds) = putRegs (if d.2.tok.null then l else l.set d.1 (regOf d.2.tok)) ds := rfl

/-- A register that nothing but nulls was delivered to keeps its value. -/
theorem putRegs_nulls {g : Nat} (ds : List (Nat × Arr)) : ∀ (l : List Reg), (∀ d ∈ ds, d.1 = g → d.2.tok.null = true) → (putRegs l ds)[g]? = l[g]? := by
  induction ds with
  | nil => exact fun _ _ => rfl
  | cons d ds ih =>
    intro l h
    obtain ⟨hd, hds⟩ := List.forall_mem_cons.mp h
    rw [putRegs_cons, ih _ hds]
    split
    · rfl
    · exact List.getElem?_set_ne fun e => absurd (hd e) ‹_›

/-- A register that one delivery names, and no other, takes its value. -/
theorem putRegs_one {g : Nat} {x : Arr} (hx : x.tok.null = false) (ds : List (Nat × Arr)) : ∀ (l : List Reg), g < l.length → (g, x) ∈ ds →
    (∀ d ∈ ds, d.1 = g → d = (g, x)) → (putRegs l ds)[g]? = some (regOf x.tok) := by
  induction ds with
  | nil => exact fun _ _ h => nomatch h
  | cons d ds ih =>
    intro l hg hmem h
    obtain ⟨hd, hds⟩ := List.forall_mem_cons.mp h
    rw [putRegs_cons]
    by_cases hin : (g, x) ∈ ds
    · refine ih _ ?_ hin hds
      split <;> simpa using hg
    · have hdx : d = (g, x) := ((List.mem_cons.mp hmem).resolve_right hin).symm
      have hrest : ∀ e ∈ ds, e.1 = g → e.2.tok.null = true := fun e he heg => absurd (hds e he heg ▸ he) hin
      refine (putRegs_nulls ds _ hrest).trans ?_
      rw [hdx, hx]
      simp [hg]

/-- The windows after the changes that a block asked for, in the order of their slots. -/
def setWins (setws : List (Nat × Nat × Nat × DWord)) (ws : List Win) : List Win :=
  (sortKey Prod.fst setws).foldl (fun l z => l.set z.2.1 (((l[z.2.1]?).getD {}).setPart z.2.2.1 z.2.2.2)) ws

/-- The Inst record of a block after its registers and windows have been committed. -/
theorem State.commitRegs_inst {p : Nat} {i : Inst} (h : (s.part p).inst? a.id = some i) :
    (s.commitRegs p a).inst p a.id = { i with regs := putRegs i.regs a.regW, wins := setWins a.setws i.wins } := by
  let u := a.regW.foldl (fun s d => if d.2.tok.null && d.2.tok.pois then s.reportPoison p d.2.tok.origin 0 false else s) s
  have hset (t : State) (n v : Nat) : ((t.setCsr p n v).part p).inst? a.id = (t.part p).inst? a.id := by
    unfold State.setCsr
    exact part_modPart (fun x => x.inst? a.id) t p p _ (fun _ => rfl) fun _ => rfl
  have hu : (u.part p).inst? a.id = some i := by
    refine foldl_keeps (P := fun t : State => (t.part p).inst? a.id = some i) h fun t d ht => ?_
    split
    · exact (hset ..).trans ((hset ..).trans ((hset ..).trans ht))
    · exact ht
  exact State.inst_of (inst_in (fun i => { i with regs := putRegs i.regs a.regW, wins := setWins a.setws i.wins }) (fun _ => rfl) hu)

/-- One change of a window sets its part, and leaves every other window. -/
theorem setWins_one {k w part : Nat} {v : DWord} {win : Win} {ws : List Win} (h : ws[w]? = some win) :
    (setWins [(k, w, part, v)] ws)[w]? = some (win.setPart part v) ∧ ∀ u, u ≠ w → (setWins [(k, w, part, v)] ws)[u]? = ws[u]? := by
  have heq : setWins [(k, w, part, v)] ws = ws.set w (win.setPart part v) := by
    change ws.set w (((ws[w]?).getD {}).setPart part v) = _
    rw [h]; rfl
  have hlt : w < ws.length := (List.getElem?_eq_some_iff.mp h).1
  rw [heq]
  exact ⟨by simp [hlt], fun u hu => List.getElem?_set_ne (Ne.symm hu)⟩

/-! ### Stores that commit (R22, R24, R85) -/

theorem State.setCsr_grows (s : State) (p n v : Nat) : s.Grows (s.setCsr p n v) := s.modPart_grows ..

/-- A poisoned store that is reported changes no more than CSRs. -/
theorem State.reportPoison_grows (s : State) (p : Nat) (o : BitVec 11) (va : Nat) (counted : Bool) : s.Grows (s.reportPoison p o va counted) := by
  have hset : s.Grows (((s.setCsr p 0x099 (o.toNat + 2 ^ 31)).setCsr p 0x09A (va % 2 ^ 32)).setCsr p 0x09B (va / 2 ^ 32)) :=
    ((s.setCsr_grows ..).trans (State.setCsr_grows ..)).trans (State.setCsr_grows ..)
  unfold State.reportPoison
  dsimp only
  split
  · exact hset.trans (ite_keeps (P := State.Grows _) (State.setCsr_grows ..) (.refl _))
  · exact hset

theorem State.setCsr_posted (s : State) (p n v q : Nat) : ((s.setCsr p n v).part q).posted = (s.part q).posted := by
  unfold State.setCsr
  exact part_modPart Part.posted s p q _ (fun _ => rfl) fun _ => rfl

theorem State.reportPoison_posted (s : State) (p : Nat) (o : BitVec 11) (va : Nat) (counted : Bool) (q : Nat) :
    ((s.reportPoison p o va counted).part q).posted = (s.part q).posted := by
  have hset := ((((s.setCsr p 0x099 (o.toNat + 2 ^ 31)).setCsr p 0x09A (va % 2 ^ 32)).setCsr_posted p 0x09B (va / 2 ^ 32) q).trans
    (State.setCsr_posted _ p 0x09A (va % 2 ^ 32) q)).trans (s.setCsr_posted p 0x099 (o.toNat + 2 ^ 31) q)
  unfold State.reportPoison
  dsimp only
  split
  · refine Eq.trans ?_ hset
    exact ite_keeps (P := fun t : State => (t.part q).posted = _) (State.setCsr_posted ..) rfl
  · exact hset

/-- A store that is posted changes no byte. -/
theorem State.post_grows (s : State) (p pg : Nat) (w : Posted) : s.Grows (s.post p pg w) :=
  (s.modPart_grows p _).trans (State.sched_adds ..).grows

theorem State.multicast_grows (s : State) (p pg slot ch va : Nat) (data : Word) : s.Grows (s.multicast p pg slot ch va data) :=
  foldl_keeps (P := s.Grows) (.refl s) fun t _ ht => ht.trans ((t.modPart_grows p _).trans (State.sched_adds ..).grows)

/-- Nor does a commit: its stores perform later. -/
theorem State.commitStores_grows (s : State) (p pg : Nat) (a : Act) : s.Grows (s.commitStores p pg a) := by
  have hfree : s.Grows { s with free := s.free + 32 } := ⟨rfl, rfl, rfl, fun _ h => h⟩
  unfold State.commitStores
  refine foldl_keeps (P := s.Grows) (foldl_keeps (P := s.Grows) (foldl_keeps (P := s.Grows) (foldl_keeps (P := s.Grows) hfree ?post) ?pois) ?null) ?cast
  case post => exact fun t w ht => ht.trans (t.post_grows ..)
  case pois => exact fun t st ht => ite_keeps (P := s.Grows) (ht.trans (t.reportPoison_grows ..)) ht
  case null =>
    intro t n ht
    split
    · exact ite_keeps (P := s.Grows) ht (ht.trans (t.reportPoison_grows ..))
    · exact ht
  case cast =>
    intro t st ht
    split
    · exact ht.trans (t.multicast_grows ..)
    · exact ht

/-- A key that is not listed is appended. -/
theorem kset_append {α : Type} {l : List (Nat × α)} {k : Nat} (h : ∀ x ∈ l, x.1 ≠ k) (v : α) : kset l k v = l ++ [(k, v)] := by
  induction l with
  | nil => rfl
  | cons x l ih =>
    obtain ⟨hx, hl⟩ := List.forall_mem_cons.mp h
    obtain ⟨x, y⟩ := x
    exact (if_neg hx).trans (congrArg ((x, y) :: ·) (ih hl))

/-- The bytes of one store, little-endian from its key. -/
theorem putCells_nil (st : StoreRec) : putCells [] st =
    (List.range st.size).map (fun k => (st.key + k, BitVec.ofNat 8 (st.data.toNat / 2 ^ (8 * k)))) := by
  unfold putCells
  simp only [Nat.shiftRight_eq_div_pow]
  generalize st.size = n
  induction n with
  | zero => rfl
  | succ n ih =>
    rw [List.range_succ, List.foldl_append, ih, List.map_append]
    refine kset_append (fun x hx => ?_) _
    obtain ⟨k, hk, rfl⟩ := List.mem_map.mp hx
    have := List.mem_range.mp hk
    change st.key + k ≠ st.key + n
    omega

/-- What a block's only store is posted as, until its place in the order of stores is known. -/
def Act.onlyPosted (a : Act) (st : StoreRec) (due : Nat) : Posted :=
  { wid := 0, id := a.id, agent := agentOf a.strand a.tag, slot := st.slot, kind := st.kind, va := st.va, cells := putCells [] st, due := due }

theorem State.commitStores_single {st : StoreRec} (hst : a.stores = [st]) (hn : a.nulled = []) (hm : st.mch = none) :
    let t := ({ s with free := s.free + 32 } : State).post p pg (a.onlyPosted st (s.now + storeDelay s.free st))
    s.commitStores p pg a = if st.pois then t.reportPoison p st.origin st.va true else t := by
  intro t
  unfold State.commitStores
  rw [hst, hn]
  change (match st.mch with | some ch => _ | none => if st.pois then t.reportPoison p st.origin st.va true else t) = _
  rw [hm]

/-- A store that is posted joins those on their way, and becomes visible no earlier than those before it in its unit of order. -/
theorem State.post_posted (hp : s.part p ≠ { num := p }) (w : Posted) : ∃ v : Posted, ((s.post p pg w).part p).posted = (s.part p).posted ++ [v] ∧
    v = { w with wid := v.wid, due := v.due } ∧ w.due ≤ v.due ∧ ((s.part p).posted = [] → v.due = w.due) := by
  refine ⟨_, congrArg Part.posted (part_in s p (fun x => { x with posted := x.posted ++ [_], nextWid := x.nextWid + 1 }) (fun _ => rfl) hp), rfl,
    Nat.le_max_left .., fun h => ?_⟩
  rw [h]
  exact Nat.max_zero _

/-- A block's only store is posted, no earlier than its commit, and at once where it is strongly ordered and alone. -/
theorem State.commitStores_one {st : StoreRec} (hp : s.part p ≠ { num := p }) (hst : a.stores = [st]) (hn : a.nulled = []) (hm : st.mch = none) :
    ∃ w : Posted, ((s.commitStores p pg a).part p).posted = (s.part p).posted ++ [w] ∧ w.id = a.id ∧ w.agent = agentOf a.strand a.tag ∧
      w.slot = st.slot ∧ w.kind = st.kind ∧ (st.so = true → (s.part p).posted = [] → w.due = s.now) ∧ s.now ≤ w.due ∧
      w.cells = (List.range st.size).map (fun k => (st.key + k, BitVec.ofNat 8 (st.data.toNat / 2 ^ (8 * k)))) := by
  obtain ⟨v, hv, hvw, hdue, halone⟩ := State.post_posted (s := { s with free := s.free + 32 }) (pg := pg) hp
    (a.onlyPosted st (s.now + storeDelay s.free st))
  refine ⟨v, ?_, ?_, ?_, ?_, ?_, fun hso hnone => ?_, Nat.le_trans (Nat.le_add_right ..) hdue, ?_⟩
  · rw [State.commitStores_single hst hn hm]
    refine Eq.trans ?_ hv
    exact ite_keeps (P := fun t : State => (t.part p).posted = _) (State.reportPoison_posted ..) rfl
  · rw [hvw]; rfl
  · rw [hvw]; rfl
  · rw [hvw]; rfl
  · rw [hvw]; rfl
  · refine (halone hnone).trans ?_
    change s.now + (if st.so then 0 else _) = s.now
    rw [hso]; rfl
  · rw [hvw]; exact putCells_nil st

/-! ### Iterations that start (R156, R158) -/

/-- An update of an activation brings no other. -/
theorem modAct_act_none {tag tag' : Tag} {f : Act → Act} (hf : ∀ b, (f b).tag = b.tag) (h : (s.page p pg).act? tag' = none) :
    ((s.modAct p pg tag f).page p pg).act? tag' = none := by
  have htag : ∀ b : Act, (if b.tag == tag then f b else b).tag = b.tag := fun b => by split <;> simp [hf]
  have hkeys := page_modPage (fun y => (y.act? tag').map Act.tag) s p pg p pg
    (fun y => { y with acts := y.acts.map (fun b => if b.tag == tag then f b else b) }) (fun _ => rfl) fun y => by
      unfold Page.act?
      rw [List.find?_map, Option.map_map]
      simp only [Function.comp_def, htag]
  rw [h] at hkeys
  exact Option.map_eq_none_iff.mp hkeys

/-- The next iteration of a loop, with what its body's load found and what it takes from its holder. -/
def LoopRec.iteration (lp : LoopRec) (tag holder : Tag) (id strand prio : Nat) (wins : List Win) (gen now : Nat) (unres : List Nat) : Act where
  tag := tag
  id := id
  strand := strand
  role := .iter
  prio := prio
  blk := lp.body
  hdr := lp.hdr
  mask := lp.mask
  words := lp.words
  arity := lp.arity
  descs := lp.descs
  gen := gen
  started := now
  regs := lp.regs
  wins := wins
  iter := lp.next
  holder := holder
  unres := unres

/-- An activation of its shell runs it. -/
theorem LoopRec.iteration_of_shell {lp : LoopRec} {tag holder : Tag} {id strand prio gen now : Nat} {wins : List Win} {unres : List Nat} {b : Act}
    (h : b.shell = (lp.iteration tag holder id strand prio wins gen now unres).shell) : b.iter = lp.next ∧ b.holder = holder ∧ b.role = .iter ∧
      b.blk = lp.body ∧ b.words = lp.words ∧ b.mask = lp.mask ∧ b.id = id := by
  have hblock := congrArg (fun x : Act => (x.iter, x.holder, x.role, x.blk, x.words, x.mask, x.id)) h
  simpa [Act.shell, LoopRec.iteration] using hblock

/-- The iteration before passes what it delivered. -/
def State.passRegs (s : State) (p pg : Nat) (prev : Option Act) : State :=
  match prev with
  | none => s
  | some b => b.regW.foldl (fun s d => s.passReg p pg b.tag d.1 64) s

theorem State.passRegs_sameActs (s : State) (p pg : Nat) (prev : Option Act) : State.SameActs p pg s (s.passRegs p pg prev) := by
  cases prev with
  | none => exact .refl s
  | some b => exact foldl_sameActs (fun s d => s.passReg p pg b.tag d.1 64) (fun t d => State.passReg_sameActs p pg d.1 64 t b.tag) b.regW s

/-- An iteration after the first that starts stands on its page, whatever registers are passed to it. -/
theorem State.startIter_act {h : Act} {lp : LoopRec} {gen : Nat} (hpage : s.hasPage p pg) (hnext : 0 < lp.next)
    (hnone : (s.page p pg).act? (tagIter h.tag lp.next) = none) :
    ∃ b, ((s.startIter p pg h lp gen).page p pg).act? (tagIter h.tag lp.next) = some b ∧ b.iter = lp.next ∧ b.holder = h.tag ∧ b.role = .iter ∧
      b.blk = lp.body ∧ b.words = lp.words ∧ b.mask = lp.mask ∧ b.id = h.id := by
  let prev := if lp.next = lp.retired then none else (s.page p pg).act? (tagIter h.tag (lp.next - 1))
  let waits := (readRegs lp.words).filter (fun g => lp.words.any (fun w => (opF w).toNat == 0x09) || (regTargets lp.words).contains g)
  let a := lp.iteration (tagIter h.tag lp.next) h.tag h.id h.strand h.prio (s.inst p h.id).wins gen s.now (if prev.isSome then waits else [])
  let u := s.modAct p pg h.tag (fun h => { h with looping := h.looping.map (fun l => { l with next := lp.next + 1, ready := s.now + 1 }) })
  have hupage : u.hasPage p pg := (State.hasPage_modPage _ _ _ _ (by exact fun _ => rfl)).mpr hpage
  have hstart : ((u.startAct p pg a).page p pg).act? a.tag = some a :=
    State.startAct_act hupage (modAct_act_none (fun _ => rfl) hnone) fun hfirst => Nat.ne_of_gt hnext hfirst.2
  have heq : s.startIter p pg h lp gen = (u.startAct p pg a).passRegs p pg prev := rfl
  have hpass : State.SameActs p pg (u.startAct p pg a) (s.startIter p pg h lp gen) := heq ▸ State.passRegs_sameActs ..
  obtain ⟨b, hb, hshell⟩ := hpass.act hstart
  exact ⟨b, hb, LoopRec.iteration_of_shell hshell⟩

/-- A loop whose body is loaded and which is open starts its next iteration. -/
theorem exec_loopIterationStart_open {h : Act} {lp : LoopRec} (ha : (s.page s.arg.p s.arg.pg).act? s.arg.tag = some h) (hl : h.looping = some lp)
    (hrun : s.mayRun s.arg.p h.id h.tag = true) (hready : lp.ready ≤ s.now) (hwords : lp.words ≠ []) (hopen : lp.open = true) :
    ∃ gen t, exec .loopIterationStart s = .next t ∧ (s.startIter s.arg.p s.arg.pg h lp gen).Adds t := by
  let gen := (((s.inst s.arg.p h.id).strand? h.strand).map Strand.gen).getD 1 - 1
  let u := s.startIter s.arg.p s.arg.pg h lp gen
  have hexec : exec .loopIterationStart s =
      .next (if { lp with next := lp.next + 1 }.open then u.schedIter s.arg.p s.arg.pg h (u.now + 1) else u) := by
    change execLoopIterationStart s = _
    unfold execLoopIterationStart
    dsimp only
    rw [ha]
    dsimp only
    rw [hl]
    dsimp only
    rw [hrun, hopen, if_neg (by simpa using hready), if_neg (by simpa using hwords)]
  exact ⟨gen, _, hexec, ite_keeps (P := u.Adds) (u.sched_adds ..) (.refl u)⟩

/-- A loop that is not open starts none. -/
theorem exec_loopIterationStart_closed {h : Act} {lp : LoopRec} (ha : (s.page s.arg.p s.arg.pg).act? s.arg.tag = some h) (hl : h.looping = some lp)
    (hopen : lp.open = false) : exec .loopIterationStart s = .next s := by
  change execLoopIterationStart s = _
  unfold execLoopIterationStart
  dsimp only
  rw [ha]
  dsimp only
  rw [hl]
  dsimp only
  rw [hopen, if_pos (by simp)]

/-! ### What follows a block (R28, R234) -/

/-- The change that a block's exit leads to. -/
def Act.nextBlk (a : Act) (e : ExitRec) (now : Nat) : NextBlk :=
  { tag := a.tag, id := a.id, strand := a.strand, role := a.role, prio := a.prio, blk := e.addr, fromSlot := e.slot,
    fromBlk := a.blk, fromWord := (a.words[e.slot]?).getD 0, ret := e.ret, ready := now + 8 }

/-- The state without an activation and its lists. -/
def State.without (s : State) (p pg : Nat) (a : Act) : State :=
  (s.modPage p pg (fun y => { y with acts := y.acts.filter (fun b => b.tag != a.tag) })).dropLists p pg a.tag

theorem State.without_nexts (s : State) (p pg : Nat) (a : Act) : ((s.without p pg a).page p pg).nexts = (s.page p pg).nexts := by
  unfold State.without State.dropLists
  rw [page_modPage Page.nexts _ p pg p pg _ (by exact fun _ => rfl) (by exact fun _ => rfl)]
  exact page_modPage Page.nexts s p pg p pg _ (fun _ => rfl) fun _ => rfl

theorem State.without_inst (s : State) (p pg : Nat) (a : Act) (id : Nat) : ((s.without p pg a).part p).inst? id = (s.part p).inst? id :=
  (State.modPage_inst ..).trans (s.modPage_inst ..)

theorem State.without_hasPage (h : s.hasPage p pg) (a : Act) : (s.without p pg a).hasPage p pg := by
  unfold State.without State.dropLists
  rw [State.hasPage_modPage _ _ _ _ (by exact fun _ => rfl), State.hasPage_modPage _ _ _ _ (by exact fun _ => rfl)]
  exact h

/-- Updates of strands leave which pages exist. -/
theorem State.modStrand_hasPage (h : s.hasPage p pg) (id n : Nat) (f : Strand → Strand) : (s.modStrand p id n f).hasPage p pg := by
  unfold State.hasPage State.modStrand State.modInst
  rw [part_modPart (fun x => x.pages.map Page.num) s p p _ (by exact fun _ => rfl) (by exact fun _ => rfl)]
  exact h

/-- A change that begins is under way, the last of its page. -/
theorem State.toNext_nexts (h : s.hasPage p pg) (n : NextBlk) : ((s.toNext p pg n).page p pg).nexts = (s.page p pg).nexts ++ [n] :=
  congrArg Page.nexts (h.page_in (fun y => { y with nexts := y.nexts ++ [n] }) fun _ => rfl)

theorem State.toNext_inst (s : State) (p pg : Nat) (n : NextBlk) (id : Nat) : ((s.toNext p pg n).part p).inst? id = (s.part p).inst? id :=
  s.modPage_inst ..

/-- A strand's own block is followed by the block that its exit names; its strand points there, unless it ends. -/
theorem State.follow_main {e : ExitRec} (he : a.exit = some e) (hrole : a.role = .main) : s.follow p pg a =
    (if e.ret then s.without p pg a else (s.without p pg a).modStrand p a.id a.strand (fun t => { t with blk := e.addr })).toNext p pg
      (a.nextBlk e s.now) := by
  unfold State.follow
  rw [he]
  exact if_pos hrole

end

/-- Settles O48: the drain, the fetch and the commits by their equations, what they leave by what each of their operations leaves. -/
theorem blocksGoOn : Obligations.BlocksGoOn := by
  refine ⟨fun s n hn hrun => ⟨exec_configDrain_waits hn, exec_configDrain_goes hn hrun, fun b hpay hrole hnone hload => ?fetch, fun k f hload => ?fault⟩,
    fun s a ha hc hrun => ⟨fun hw => ?commit, fun hw => ?retire, fun i hi => ?regs, ?bytes, fun st hst hnull hm => ?store⟩,
    fun s h lp ha hl hrun hstop hready hwords hnext hnone => ⟨fun hlt hroom => ?iterate, fun hfull => ?full⟩,
    fun s p pg a e y x he hrole hparts hx hpages hy => ?follow⟩
  case fetch =>
    obtain ⟨t, gen, hexec, hact⟩ := exec_blockFetch_ok hn hrun hpay hrole hnone hload
    exact ⟨t, _, hexec, hact, rfl, rfl, rfl, rfl, rfl, rfl, rfl, rfl, rfl, rfl, rfl, rfl, rfl⟩
  case fault =>
    have hexec := exec_blockFetch_error hn hrun hload
    exact ⟨fun hctx => by rw [hexec, hctx]; rfl, fun hctx => by rw [hexec, hctx]; rfl⟩
  case commit =>
    have hexec := exec_blockCommit ha hc hrun hw
    refine ⟨fun hrole hl => ?_, fun e hrole hl he hret => ?_, fun n body k fid hl => ?_⟩
    · rw [hexec, hl]
      dsimp only
      rw [if_neg (by simp [hrole])]
    · rw [hexec, hl]
      dsimp only
      rw [if_pos (by simp [hrole, he, hret])]
    · rw [hexec, hl]
  case retire =>
    have hexec := exec_iterationRetire ha hc hrun hw
    exact ⟨fun hl => by rw [hexec, hl], fun n body k fid hl => by rw [hexec, hl]⟩
  case regs =>
    intro j
    have hj : j = { i with regs := putRegs i.regs a.regW, wins := setWins a.setws i.wins } := State.commitRegs_inst hi
    rw [hj]
    refine ⟨fun g hnulls => putRegs_nulls _ _ hnulls, fun g d hg hmem hd hone => putRegs_one hd _ _ hg hmem hone, fun hs => ?_,
      fun k w v win hwin => ⟨fun hs => ?_, fun hs => ?_, fun hs => ?_, fun part u hu hs => ?_⟩⟩ <;> dsimp only <;> rw [hs]
    · rfl
    · exact (setWins_one hwin).1
    · exact (setWins_one hwin).1
    · exact (setWins_one hwin).1
    · exact (setWins_one hwin).2 u hu
  case bytes =>
    have hgrows := s.commitStores_grows s.arg.p s.arg.pg a
    exact ⟨hgrows.mem, hgrows.fe⟩
  case store =>
    exact State.commitStores_one (fun e => by unfold State.page at ha; rw [e] at ha; cases ha) hst hnull hm
  case iterate =>
    have hopen : lp.open = true := by simp [LoopRec.open, hstop, hlt, hroom]
    obtain ⟨gen, t, hexec, hadds⟩ := exec_loopIterationStart_open ha hl hrun hready hwords hopen
    obtain ⟨b, hb, hblock⟩ := State.startIter_act (gen := gen) (State.hasPage_of_act ha) hnext hnone
    exact ⟨t, b, hexec, by rw [hadds.page]; exact hb, hblock⟩
  case full =>
    refine exec_loopIterationStart_closed ha hl ?_
    have hroom : (if lp.serial then 1 else 32) ≤ 32 := by split <;> omega
    unfold LoopRec.open
    rcases hfull with hfull | hfull
    · simp [Nat.not_lt.mpr hfull]
    · simp [Nat.not_lt.mpr (Nat.le_trans (Nat.add_le_add_left hroom lp.retired) hfull)]
  case follow =>
    have hpart : s.part p = x := by simp [State.part, hparts, hx]
    have hpg : s.page p pg = y := by
      unfold State.page Part.page
      simp [hpart, hpages, hy]
    have hpage : s.hasPage p pg := by
      unfold State.hasPage
      simp [hpart, hpages, hy]
    rw [State.follow_main he hrole]
    let u := if e.ret then s.without p pg a else (s.without p pg a).modStrand p a.id a.strand (fun t => { t with blk := e.addr })
    have hupage : u.hasPage p pg := ite_keeps (P := fun t : State => t.hasPage p pg) (State.without_hasPage hpage a)
      (State.modStrand_hasPage (State.without_hasPage hpage a) ..)
    have hunexts : (u.page p pg).nexts = y.nexts := by
      refine Eq.trans ?_ ((s.without_nexts p pg a).trans (congrArg Page.nexts hpg))
      exact ite_keeps (P := fun t : State => (t.page p pg).nexts = _) rfl (congrArg Page.nexts (State.modStrand_page ..))
    refine ⟨a.nextBlk e s.now, (State.toNext_nexts hupage _).trans (congrArg (· ++ _) hunexts), rfl, rfl, rfl, rfl, fun hret i hi st hst => ?_⟩
    obtain ⟨j, hj, hjt⟩ := strand_in (s := s.without p pg a) (fun t => { t with blk := e.addr }) (fun _ => rfl)
      ((s.without_inst p pg a a.id).trans (hpart ▸ hi)) hst
    rw [hret]
    exact (congrArg (fun i : Inst => i.strand? a.strand) (State.inst_of ((State.toNext_inst ..).trans hj))).trans hjt

end Sys2Proof.Machine
end

section
/-! PROOFS of the statements of encodings: decoding and encoding agree (R32 to R44). -/

namespace Sys2Proof

open Machine

/-! ### Targets (R35) -/

/-- A target field that decodes is the encoding of its target. -/
theorem encTarget_of_decTarget : ∀ {f : BitVec 9} {t : Target}, decTarget f = some t → encTarget t = f := by
  have h : ∀ f : BitVec 9, ∀ t ∈ decTarget f, encTarget t = f := by decide
  exact fun {f t} => h f t

/-- What stands behind a target field that is read: the field is a target's, that target may stand there, and the word goes on with it. -/
theorem withTarget_ok {f : BitVec 9} {mk : Target → Except Reject Instr} {i : Instr} (h : withTarget f mk = .ok i) :
    ∃ t, f = encTarget t ∧ targetOk t = true ∧ mk t = .ok i := by
  unfold withTarget at h
  cases ht : decTarget f with
  | none => rw [ht] at h; cases h
  | some t =>
    cases hm : mk t with
    | error e => simp only [ht, hm] at h; cases h
    | ok j =>
      simp only [ht, hm] at h
      split at h
      · exact ⟨t, (encTarget_of_decTarget ht).symm, ‹_›, hm.trans h⟩
      · cases h

/-! ### A word is its fields (R32) -/

section
variable {w : Word} {t1 t0 : Target}

theorem wordT_fields (h1 : t1F w = encTarget t1) (h0 : t0F w = encTarget t0) : wordT (opF w) (xF w) (prF w) t1 t0 = w := by
  rw [wordT, ← h1, ← h0]
  apply BitVec.eq_of_toNat_eq
  simp only [opF, prF, xF, t1F, t0F, BitVec.extractLsb'_toNat, append_toNat, Nat.shiftRight_eq_div_pow]
  omega

theorem wordI_fields (h0 : t0F w = encTarget t0) : wordI (opF w) (imm14F w) (prF w) t0 = w := by
  rw [wordI, ← h0]
  apply BitVec.eq_of_toNat_eq
  simp only [opF, prF, imm14F, t0F, BitVec.extractLsb'_toNat, append_toNat, Nat.shiftRight_eq_div_pow]
  omega

theorem wordK_fields (h0 : t0F w = encTarget t0) : wordK (opF w) (imm16F w) t0 = w := by
  rw [wordK, ← h0]
  apply BitVec.eq_of_toNat_eq
  simp only [opF, imm16F, t0F, BitVec.extractLsb'_toNat, append_toNat, Nat.shiftRight_eq_div_pow]
  omega

theorem wordM_fields (h0 : t0F w = encTarget t0) : wordM (opF w) (prF w) (xF w) (wF w) (off6F w) t0 = w := by
  rw [wordM, ← h0]
  apply BitVec.eq_of_toNat_eq
  simp only [opF, prF, xF, wF, off6F, t0F, BitVec.extractLsb'_toNat, append_toNat, Nat.shiftRight_eq_div_pow]
  omega

theorem wordB_fields (w : Word) : wordB (opF w) (prF w) (exitF w) (off20F w) = w := by
  rw [wordB]
  apply BitVec.eq_of_toNat_eq
  simp only [opF, prF, exitF, off20F, BitVec.extractLsb'_toNat, append_toNat, Nat.shiftRight_eq_div_pow]
  omega

theorem wordG_fields (h : opF w = 1#7) (hb : bit18F w = 0#1) (h1 : t1F w = encTarget t1) (h0 : t0F w = encTarget t0) : wordG (gF w) t1 t0 = w := by
  rw [wordG, ← h1, ← h0, ← hb, ← h]
  apply BitVec.eq_of_toNat_eq
  simp only [opF, gF, bit18F, t1F, t0F, BitVec.extractLsb'_toNat, append_toNat, Nat.shiftRight_eq_div_pow]
  omega

end

/-- A field is its upper part beside its lower part. -/
theorem append_parts {a b : Nat} (x : BitVec (a + b)) : x.extractLsb' b a ++ x.extractLsb' 0 b = x := by
  apply BitVec.eq_of_toNat_eq
  have hx : x.toNat / 2 ^ b < 2 ^ a := Nat.div_lt_of_lt_mul (by rw [Nat.mul_comm, ← Nat.pow_add]; exact x.isLt)
  rw [append_toNat, BitVec.extractLsb'_toNat, BitVec.extractLsb'_toNat, Nat.shiftRight_eq_div_pow, Nat.mod_eq_of_lt hx, Nat.shiftRight_zero]
  exact Nat.div_add_mod' ..

/-- The same where the upper part is known, as a field or as a number. -/
theorem append_lower {a b : Nat} {x : BitVec (a + b)} {hi : BitVec a} (h : x.extractLsb' b a = hi) : hi ++ x.extractLsb' 0 b = x :=
  h ▸ append_parts x

theorem append_lower_nat {a b k : Nat} {x : BitVec (a + b)} (h : (x.extractLsb' b a).toNat = k) : BitVec.ofNat a k ++ x.extractLsb' 0 b = x := by
  subst h
  rw [BitVec.ofNat_toNat, BitVec.setWidth_eq]
  exact append_parts x

/-- And where the lower part is. -/
theorem append_upper_nat {a b k : Nat} {x : BitVec (a + b)} (h : (x.extractLsb' 0 b).toNat = k) : x.extractLsb' b a ++ BitVec.ofNat b k = x := by
  subst h
  rw [BitVec.ofNat_toNat, BitVec.setWidth_eq]
  exact append_parts x

/-- The X of an island's command: a bit 0, the accumulator and the form (R268). -/
theorem append_acc {x : BitVec 5} {k : Nat} (h : x.extractLsb' 4 1 = 0) (hk : (x.extractLsb' 0 2).toNat = k) :
    0#1 ++ x.extractLsb' 2 2 ++ BitVec.ofNat 2 k = x := by
  subst hk
  decide +revert

/-- The X of WPTR: a bit 0, the form and the channel (R310). -/
theorem append_channel {x : BitVec 5} {k : Nat} (h : x.extractLsb' 4 1 = 0) (hk : (x.extractLsb' 3 1).toNat = k) :
    BitVec.ofNat 2 k ++ x.extractLsb' 0 3 = x := by
  subst hk
  decide +revert

/-! ### The forms of T-format words (R41, R44) -/

/-- A form makes, of any PR and targets, an instruction that is well-formed where its targets may stand, and whose word has the opcode and X. -/
def TForm.Encodes (op : BitVec 7) (x : BitVec 5) (mk : TForm) : Prop :=
  ∀ pr t1 t0, ((targetOk t1 && targetOk t0) = true → (mk pr t1 t0).wf = true) ∧ encode (mk pr t1 t0) = some (wordT op x pr t1 t0)

/-- The forms of a list, from X = k on. -/
def EncodeFrom (op : BitVec 7) : Nat → List TForm → Prop
  | _, [] => True
  | k, mk :: l => mk.Encodes op (BitVec.ofNat 5 k) ∧ EncodeFrom op (k + 1) l

/-- The form that X names in a list. -/
theorem EncodeFrom.encodes {op : BitVec 7} {x : BitVec 5} {l : List TForm} {mk : TForm} (hl : EncodeFrom op 0 l) (h : l[x.toNat]? = some mk) :
    mk.Encodes op x := by
  suffices hs : ∀ (l : List TForm) (k n : Nat), EncodeFrom op k l → l[n]? = some mk → mk.Encodes op (BitVec.ofNat 5 (k + n)) by
    simpa using hs l 0 x.toNat hl h
  intro l
  induction l with
  | nil => intro k n _ h; cases h
  | cons m l ih =>
    intro k n hl h
    cases n with
    | zero => cases h; exact hl.1
    | succ n =>
      have hn := ih (k + 1) n hl.2 h
      rwa [Nat.add_assoc, Nat.add_comm 1 n] at hn

/-- The X of a form, written as its parts. -/
theorem TForm.Encodes.of_eq {op : BitVec 7} {x y : BitVec 5} {mk : TForm} (hx : y = x) (h : mk.Encodes op y) : mk.Encodes op x := hx ▸ h

/-- Every form of the T-format opcodes encodes: those of a list by their place in it, the others by the parts of their X. -/
theorem formT_encodes {n : Nat} {x : BitVec 5} {mk : TForm} (h : formT n x = some mk) : mk.Encodes (BitVec.ofNat 7 n) x := by
  unfold formT at h
  split at h
  any_goals
    refine EncodeFrom.encodes ?_ h
    simp only [EncodeFrom, and_true]
    and_intros
    all_goals exact fun _ _ _ => ⟨id, rfl⟩
  case h_5 | h_38 | h_44 | h_45 | h_47 =>
    obtain rfl := Option.some.inj h
    exact fun _ _ _ => ⟨id, rfl⟩
  case h_16 | h_17 | h_22 =>
    obtain ⟨hx, h⟩ := Option.ite_none_right_eq_some.mp h
    obtain rfl := Option.some.inj h
    exact fun _ _ _ => ⟨fun ht => Bool.and_eq_true_iff.mpr ⟨ht, hx⟩, rfl⟩
  case h_20 | h_41 =>
    obtain ⟨hx, h⟩ := Option.ite_none_right_eq_some.mp h
    obtain rfl := Option.some.inj h
    exact .of_eq (append_lower hx) fun _ _ _ => ⟨id, rfl⟩
  case h_31 =>
    obtain ⟨hx, h⟩ := Option.ite_none_right_eq_some.mp h
    obtain ⟨hx, hr⟩ := Bool.and_eq_true_iff.mp hx
    obtain rfl := Option.some.inj h
    exact .of_eq (append_lower (of_decide_eq_true hx)) fun _ _ _ => ⟨fun ht => Bool.and_eq_true_iff.mpr ⟨ht, hr⟩, rfl⟩
  case h_23 =>
    split at h
    case h_4 => cases h
    all_goals
      obtain rfl := Option.some.inj h
      exact .of_eq (append_lower_nat ‹_›) fun _ _ _ => ⟨id, rfl⟩
  case h_24 =>
    obtain ⟨hs, h⟩ := Option.ite_none_right_eq_some.mp h
    split at h
    case h_4 h0 h1 h2 =>
      have last {k : Nat} (h0 : k ≠ 0) (h1 : k ≠ 1) (h2 : k ≠ 2) (h : k < 4) : k = 3 := by omega
      have hx : (x.extractLsb' 0 2).toNat = 3 := last h0 h1 h2 (BitVec.isLt _)
      obtain rfl := Option.some.inj h
      exact .of_eq (append_upper_nat hx) fun _ _ _ => ⟨fun ht => Bool.and_eq_true_iff.mpr ⟨ht, hs⟩, rfl⟩
    all_goals
      obtain rfl := Option.some.inj h
      exact .of_eq (append_upper_nat ‹_›) fun _ _ _ => ⟨fun ht => Bool.and_eq_true_iff.mpr ⟨ht, hs⟩, rfl⟩
  case h_32 | h_33 | h_34 =>
    obtain ⟨hx, h⟩ := Option.ite_none_right_eq_some.mp h
    split at h
    any_goals cases h
    all_goals exact .of_eq (append_acc hx ‹_›) fun _ _ _ => ⟨id, rfl⟩
  case h_40 =>
    obtain ⟨hx, h⟩ := Option.ite_none_right_eq_some.mp h
    split at h
    case h_1 hk =>
      obtain rfl := Option.some.inj h
      exact .of_eq (append_channel hx hk) fun _ _ _ => ⟨id, rfl⟩
    case h_2 h0 =>
      have last {k : Nat} (h0 : k ≠ 0) (h : k < 2) : k = 1 := by omega
      have hk : (x.extractLsb' 3 1).toNat = 1 := last h0 (BitVec.isLt _)
      obtain rfl := Option.some.inj h
      exact .of_eq (append_channel hx hk) fun _ _ _ => ⟨id, rfl⟩
  case h_48 => cases h

/-! ### The forms of the other formats (R41) -/

/-- A form without targets. -/
theorem formN_encodes {n : Nat} {x : BitVec 5} {mk : BitVec 2 → Instr} (h : formN n x = some mk) (pr : BitVec 2) :
    (mk pr).wf = true ∧ encode (mk pr) = some (wordT (BitVec.ofNat 7 n) x pr .none .none) := by
  unfold formN at h
  split at h
  case h_1 =>
    obtain ⟨hx, h⟩ := Option.ite_none_right_eq_some.mp h
    obtain rfl := Option.some.inj h
    exact ⟨rfl, congrArg (fun x => some (wordT 0x0B#7 x pr .none .none)) (append_lower hx)⟩
  case h_2 | h_4 =>
    obtain ⟨rfl, h⟩ := Option.ite_none_right_eq_some.mp h
    obtain rfl := Option.some.inj h
    exact ⟨rfl, rfl⟩
  case h_3 =>
    obtain rfl := Option.some.inj h
    exact ⟨rfl, rfl⟩
  case h_5 => cases h

/-- The immediate of EXTR and INS: three bits 0, the signed flag, the length and the place (R104). -/
theorem append_range {imm : BitVec 14} (h : imm.extractLsb' 11 3 = 0) :
    0#3 ++ imm.extractLsb' 10 1 ++ imm.extractLsb' 5 5 ++ imm.extractLsb' 0 5 = imm := by
  apply BitVec.eq_of_toNat_eq
  have hn : imm.toNat / 2 ^ 11 % 2 ^ 3 = 0 := by
    rw [← Nat.shiftRight_eq_div_pow, ← BitVec.extractLsb'_toNat, h]
    rfl
  simp only [BitVec.extractLsb'_toNat, append_toNat, Nat.shiftRight_eq_div_pow, BitVec.toNat_ofNat]
  omega

/-- A form with an immediate. -/
theorem formI_encodes {n : Nat} {imm : BitVec 14} {mk : BitVec 2 → Target → Instr} (h : formI n imm = some mk) (pr : BitVec 2) {t0 : Target}
    (ht : targetOk t0 = true) : (mk pr t0).wf = true ∧ encode (mk pr t0) = some (wordI (BitVec.ofNat 7 n) imm pr t0) := by
  unfold formI at h
  split at h
  any_goals
    obtain rfl := Option.some.inj h
    exact ⟨ht, rfl⟩
  case h_1 | h_2 =>
    obtain ⟨hx, h⟩ := Option.ite_none_right_eq_some.mp h
    obtain ⟨hx, hr⟩ := Bool.and_eq_true_iff.mp hx
    obtain rfl := Option.some.inj h
    exact ⟨Bool.and_eq_true_iff.mpr ⟨ht, hr⟩, congrArg (fun imm => some (wordI _ imm pr t0)) (append_range (of_decide_eq_true hx))⟩
  case h_7 | h_8 | h_9 =>
    obtain ⟨hx, h⟩ := Option.ite_none_right_eq_some.mp h
    obtain rfl := Option.some.inj h
    exact ⟨ht, congrArg (fun imm => some (wordI _ imm pr t0)) (append_lower hx)⟩
  case h_17 | h_18 =>
    obtain ⟨hc, h⟩ := Option.ite_none_right_eq_some.mp h
    obtain rfl := Option.some.inj h
    exact ⟨Bool.and_eq_true_iff.mpr ⟨ht, hc⟩, rfl⟩
  case h_19 => cases h

/-- A load. -/
theorem formLoad_encodes {n : Nat} {mk : BitVec 2 → BitVec 5 → BitVec 3 → BitVec 6 → Target → Instr} (h : formLoad n = some mk) (pr : BitVec 2)
    (lsid : BitVec 5) (w : BitVec 3) (off : BitVec 6) {t0 : Target} (ht : targetOk t0 = true) :
    (mk pr lsid w off t0).wf = true ∧ encode (mk pr lsid w off t0) = some (wordM (BitVec.ofNat 7 n) pr lsid w off t0) := by
  unfold formLoad at h
  split at h
  any_goals obtain rfl := Option.some.inj h
  any_goals exact ⟨ht, rfl⟩
  cases h

/-- A store. -/
theorem formStore_encodes {n : Nat} {mk : BitVec 2 → BitVec 5 → BitVec 3 → BitVec 6 → Instr} (h : formStore n = some mk) (pr : BitVec 2)
    (lsid : BitVec 5) (w : BitVec 3) (off : BitVec 6) :
    (mk pr lsid w off).wf = true ∧ encode (mk pr lsid w off) = some (wordM (BitVec.ofNat 7 n) pr lsid w off .none) := by
  unfold formStore at h
  split at h
  any_goals obtain rfl := Option.some.inj h
  any_goals exact ⟨rfl, rfl⟩
  cases h

/-! ### Decoding inverts encoding -/

/-- The K-format opcodes. -/
theorem opcode_of_fmt_k {n : Nat} (h : fmtOf n = some .k) : n = 3 ∨ n = 4 ∨ n = 5 := by
  unfold fmtOf at h
  split at h
  any_goals cases h
  all_goals decide
/-- The B-format opcodes. -/
theorem opcode_of_fmt_b {n : Nat} (h : fmtOf n = some .b) : n = 9 ∨ n = 10 := by
  unfold fmtOf at h
  split at h
  any_goals cases h
  all_goals decide
/-- The G-format opcode. -/
theorem opcode_of_fmt_g {n : Nat} (h : fmtOf n = some .g) : n = 1 := by
  unfold fmtOf at h
  split at h
  any_goals cases h
  all_goals decide
/-- A word that decodes is the one word of a well-formed instruction: format by format, its fields are those of the instruction's word. -/
theorem encode_of_decode {w : Word} {i : Instr} (h : decode w = .ok i) : i.wf = true ∧ encode i = some w := by
  have hop : BitVec.ofNat 7 (opF w).toNat = opF w := by rw [BitVec.ofNat_toNat, BitVec.setWidth_eq]
  unfold decode at h
  split at h
  case isTrue => cases h
  split at h
  case h_1 => cases h
  case h_2 hf =>
    obtain ⟨t1, h1, ht1, h⟩ := withTarget_ok h
    obtain ⟨t0, h0, ht0, h⟩ := withTarget_ok h
    split at h
    case isFalse => cases h
    case isTrue hb =>
      obtain rfl := Except.ok.inj h
      rw [opcode_of_fmt_g hf] at hop
      exact ⟨Bool.and_eq_true_iff.mpr ⟨ht1, ht0⟩, congrArg some (wordG_fields hop.symm hb h1 h0)⟩
  case h_3 =>
    split at h
    case h_1 =>
      split at h
      · obtain ⟨_, _, _, h⟩ := withTarget_ok h
        obtain ⟨_, _, _, h⟩ := withTarget_ok h
        cases h
      · cases h
    case h_2 mk hmk =>
      obtain ⟨t1, h1, ht1, h⟩ := withTarget_ok h
      obtain ⟨t0, h0, ht0, h⟩ := withTarget_ok h
      obtain rfl := Except.ok.inj h
      obtain ⟨hwf, henc⟩ := formT_encodes hmk (prF w) t1 t0
      rw [hop, wordT_fields h1 h0] at henc
      exact ⟨hwf (Bool.and_eq_true_iff.mpr ⟨ht1, ht0⟩), henc⟩
  case h_4 =>
    split at h
    case h_1 => cases h
    case h_2 mk hmk =>
      obtain ⟨t1, h1, -, h⟩ := withTarget_ok h
      obtain ⟨t0, h0, -, h⟩ := withTarget_ok h
      split at h
      case isFalse => cases h
      case isTrue hnone =>
        obtain ⟨e1, e0⟩ := Bool.and_eq_true_iff.mp hnone
        obtain rfl := Except.ok.inj h
        have hform := formN_encodes hmk (prF w)
        rwa [hop, wordT_fields (h1.trans (congrArg _ (of_decide_eq_true e1))) (h0.trans (congrArg _ (of_decide_eq_true e0)))] at hform
  case h_5 hf =>
    obtain ⟨t0, h0, ht0, h⟩ := withTarget_ok h
    have hword := wordK_fields h0
    rw [← hop] at hword
    rcases opcode_of_fmt_k hf with hn | hn | hn <;> simp only [hn] at h hword <;> cases h <;> exact ⟨ht0, congrArg some hword⟩
  case h_6 =>
    obtain ⟨t0, h0, ht0, h⟩ := withTarget_ok h
    split at h
    case h_1 => cases h
    case h_2 mk hmk =>
      obtain rfl := Except.ok.inj h
      have hform := formI_encodes hmk (prF w) ht0
      rwa [hop, wordI_fields h0] at hform
  case h_7 =>
    obtain ⟨t0, h0, ht0, h⟩ := withTarget_ok h
    split at h
    case h_1 => cases h
    case h_2 mk hmk =>
      obtain rfl := Except.ok.inj h
      have hform := formLoad_encodes hmk (prF w) (xF w) (wF w) (off6F w) ht0
      rwa [hop, wordM_fields h0] at hform
  case h_8 =>
    obtain ⟨t0, h0, ht0, h⟩ := withTarget_ok h
    split at h
    case h_1 => cases h
    case h_2 mk hmk =>
      split at h
      case isFalse => cases h
      case isTrue hnone =>
        obtain rfl := Except.ok.inj h
        have hform := formStore_encodes hmk (prF w) (xF w) (wF w) (off6F w)
        rwa [hop, wordM_fields (h0.trans (congrArg _ hnone))] at hform
  case h_9 hf =>
    have hword := wordB_fields w
    rw [← hop] at hword
    rcases opcode_of_fmt_b hf with hn | hn <;> simp only [hn] at h hword
    · split at h
      case isFalse => cases h
      case isTrue he =>
        obtain rfl := Except.ok.inj h
        rw [he] at hword
        exact ⟨rfl, congrArg some hword⟩
    · obtain rfl := Except.ok.inj h
      exact ⟨rfl, congrArg some hword⟩

/-! ### The bytes of a word (R4) -/

/-- Four bytes decode as the word that they make, the bytes after them staying. -/
theorem decodeBytes_ok {b0 b1 b2 b3 : Byte} {i : Instr} (rest : List Byte) (h : decode (wordOfBytes b0 b1 b2 b3) = .ok i) :
    decodeBytes (b0 :: b1 :: b2 :: b3 :: rest) = .ok (i, rest) := by
  simp only [decodeBytes, h]

theorem wordOfBytes_bytes (v : Word) :
    wordOfBytes (v.extractLsb' 0 8) (v.extractLsb' 8 8) (v.extractLsb' 16 8) (v.extractLsb' 24 8) = v := by
  apply BitVec.eq_of_toNat_eq
  simp only [wordOfBytes, BitVec.extractLsb'_toNat, append_toNat, Nat.shiftRight_eq_div_pow]
  omega

/-- A number decodes as its word does. -/
theorem decodeTableWord_iff (n w : Nat) (i : Instr) : decodeTableWord n w = some i ↔ decode (BitVec.ofNat 32 w) = .ok i := by
  unfold decodeTableWord decodeBytes
  dsimp only
  rw [wordOfBytes_bytes]
  cases decode (BitVec.ofNat 32 w) <;> simp

section
open Laws.RoundTrip

/-- The word of every well-formed instruction decodes to it: constructor by constructor, in their order. -/
theorem roundTrip (i : Instr) : Laws.RoundTrip.Statement i :=
  Instr.rec (motive := Laws.RoundTrip.Statement)
   read mov null bfly fbfly genc gens genh steer steerf merge sel loop br brr call callr ret add sub and or xor andn orn xnor shl shr sar
   rol ror min max minu maxu addc subb absd mul mulh mulhu mulhsu madd msub div divu rem remu neg not abs clz ctz popc brev bswap sextb
   sexth zextb zexth extr ins addi andi ori xori shli shri sari muli teq tne tlt tle tltu tleu tgt tge tgtu tgeu tbit teqi tnei tlti tgei
   tltui tgeui fadd fsub fmul fmin fmax fabs fneg fcopys fma fms fnma fnms fdiv fsqrt frcpe frsqe fteq ftlt ftle ftun fclass fcvt fcvts
   paddH psubH paddB psubB pmaxH pminH pdot4 pdot4u pdot2H packH packB tunpk tdot4 lcdec qnt ldw ldh ldhu ldb ldbu ldf ldx stw sth stb ste
   stf clre stm setwBase setwLim setwAttr fenceAcq fenceRel fenceAr fenceSc amoAdd amoAnd amoOr amoXor amoMin amoMax amoMinu amoMaxu
   amoSwap amoFadd amoCas lockAcq lockTry lockRel barArrive barWait barArrwait barInit qpush qpop qpopt qclose qinit wreg wown wrel wpri
   qbegin qend phase mmcfg mmaOvw mmaAcc mmaGrp mmrd spmaOvw spmaAcc plctPrep plctInval plctQuery scatAdd scatFadd scatMax scatMin scatOr
   fibIsect fibUnion fibEoft fibMkeof fibMkcrd topk cpyLin cpy2d cpyGath cpyScat cpyFill wptr wptrW cnv trap rft csrr csrw tsc bkpt trace
   evt est sysc blockFetch tokenArrival spillReturn readySetPromote storeBufferPerform loadReply loadReplay blockCommit configDrain
   loopIterationStart iterationRetire messageArrival handlerActivationStart rtagen rtagpend quiescenceWave pelorusRound requestPromote
   calleeStart callResult teardown prePlace configPrefetch contextFetch fullEmptyAct pageWalk tlbInvalidate tlbInvalidateDone
   multicastCopy channelWrite pageReencrypt guardLineRead counterWriteback configStoreError configReloadDone tileSramError
   syncOperationArrival cycleWalkEnd priorityPropagate islandAccept islandCommandDone groupCompletion islandStreamToken cnvImageLoad
   cnvLoadDone cnvPortInput plaiterCompileDone scatApply copyCommandBegin copyStreamToken copyWritePerform copyComplete topkEmit
   peerIngressWrite peerWriteAck peerPathTimeout linkPortFail doorbell helmQueueMap helmSliceExpiry helmEntryStart launch copy wait signal
   cond helmLoop helmEnd waitSatisfied launchResult launchContinue trapFrameWrite trapHandlerStart replayInject instanceKill
   strandBoundaryStop checkpointCut contextSaveSizing contextSaveWrite contextRestore preemptionComplete guestSwitch create destroy grant
   reclaim setmin preempt resetQueue resetContext resetEngine resetPartition resetDevice resetEscalate vfstateRunning vfstateDescheduled
   vfstatePaused wincreate winattach windetach windestroy objreset instctlResume instctlKill migsave migload eventRecordWrite tsnowl
   hostApertureRead hostApertureWrite functionReset debugResume debugHalt debugDataRead histogramReadout traceSample loglineFrameWrite
   coreDump poisonLogClear clearOnRead csrWrite powerOn powerRefill thermalLimit thermalStep thermalShutdown powerLoss channelSpareSwitch
   clusterRetire tileSramStore hostMemoryWrite correctedError imageCrcError lineCacheError bridgeLoss moduleLimit stoptsl wpkal i

end

theorem decode_of_encode {i : Instr} {w : Word} (hwf : i.wf = true) (h : encode i = some w) : decode w = .ok i := roundTrip i hwf w h

/-- Settles O2: a word decodes to an instruction exactly when it is that instruction's word, and the other two decoders read words. -/
theorem decodeAndEncodeAgree : Obligations.DecodeAndEncodeAgree :=
  ⟨fun _ _ => decode_of_encode, fun _ _ => encode_of_decode, fun _ _ _ _ rest _ => decodeBytes_ok rest,
    fun i w n _ => (decodeTableWord_iff n w i).trans ⟨encode_of_decode, fun ⟨hwf, h⟩ => decode_of_encode hwf h⟩⟩

end Sys2Proof
end

section
/-! PROOFS of the statements of encodings: words decode as they should, and nothing stops (R32 to R45). -/

namespace Sys2Proof.Machine

/-- The meaning of every instruction ends in a next state, by its definition. -/
theorem exec_next (i : Instr) (s : State) : ∃ t, exec i s = .next t := by
  cases i <;> exact ⟨_, rfl⟩

/-- Commands that act one after the other go on. -/
theorem State.runCmds_goes (p : Nat) : ∀ (l : List (Instr × Args)) (s : State), ∃ t, State.runCmds p l s = .next t
  | [], s => ⟨s, rfl⟩
  | (i, a) :: l, s => by
    obtain ⟨t, ht⟩ := exec_next i { s with arg := a }
    unfold State.runCmds
    rw [ht]
    split
    · exact ⟨_, rfl⟩
    · exact State.runCmds_goes p l t

/-- A row's turn goes on: it runs, or waits. -/
theorem State.rowTurn_goes (s : State) (i : Instr) (a : Args) : ∃ t, s.rowTurn i a = .next t := by
  unfold State.rowTurn
  dsimp only
  split
  · exact ⟨_, rfl⟩
  split
  · exact ⟨_, rfl⟩
  split
  · obtain ⟨t, ht⟩ := exec_next i (({ s with arg := a } : State).modPart a.p (fun x => { x with cmds := [] }))
    rw [ht]
    exact State.runCmds_goes a.p _ t
  · exact exec_next i _

section
variable {s : State} {p pg tile : Nat} {e : Entry}

/-- An entry's word is an instruction wherever its activation lives on the page. -/
def State.decodes (s : State) (p pg : Nat) (e : Entry) : Prop :=
  ∀ a, (s.page p pg).act? e.tag = some a → ∃ i, decode ((a.words[e.tile]?).getD 0) = .ok i

/-- A page's ready sets hold instructions in a state whose blocks were checked: a page that does not exist holds no set. -/
theorem State.loaded.decodes (h : s.loaded) (he : e ∈ (s.page p pg).ents) (hr : e.ready ≠ none) : s.decodes p pg e := by
  unfold State.decodes
  cases hx : s.parts.find? (fun x => x.num == p) with
  | none =>
    have hblank : s.page p pg = { num := pg } := by unfold State.page State.part; rw [hx]; rfl
    rw [hblank] at he
    cases he
  | some x =>
    cases hy : x.pages.find? (fun y => y.num == pg) with
    | none =>
      have hblank : s.page p pg = { num := pg } := by
        unfold State.page State.part Part.page
        simp only [hx, hy, Option.getD_some, Option.getD_none]
      rw [hblank] at he
      cases he
    | some y =>
      have hpage : s.page p pg = y := by unfold State.page State.part Part.page; simp only [hx, hy, Option.getD_some]
      rw [hpage] at he ⊢
      exact h x (List.mem_of_find?_eq_some hx) y (List.mem_of_find?_eq_some hy) e he hr

/-- An eligible set is ready (R153). -/
theorem State.ready_of_eligible (h : s.eligible p pg e = true) : e.ready ≠ none := by
  unfold State.eligible at h
  dsimp only at h
  split at h
  · cases h
  · simp only [Bool.and_eq_true] at h
    exact Option.isSome_iff_ne_none.mp (by simp only [h])

/-- The firing of an entry that holds an instruction goes on, or waits. -/
theorem State.fireEntry_goes (h : s.decodes p pg e) {o : Out} (ho : s.fireEntry p pg e = some o) : ∃ t, o = .next t := by
  unfold State.fireEntry at ho
  cases ha : (s.page p pg).act? e.tag with
  | none => rw [ha] at ho; cases ho
  | some a =>
    obtain ⟨i, hi⟩ := h a ha
    obtain ⟨t, ht⟩ := exec_next i (s.begin p pg a e ((a.words[e.tile]?).getD 0))
    simp only [ha, hi, ht] at ho
    split at ho
    · exact ⟨_, (Option.some.inj ho).symm⟩
    split at ho
    · cases ho
    split at ho <;> exact ⟨_, (Option.some.inj ho).symm⟩

/-- The set that goes first is one of the list. -/
theorem State.mem_of_best {l : List Entry} (h : s.best p pg l = some e) : e ∈ l := by
  suffices hs : ∀ (l : List Entry) (b : Option Entry), l.foldl (fun b e => match b with
      | none => some e
      | some d => if s.goesFirst p pg e d then some e else some d) b = some e → b = some e ∨ e ∈ l from
    (hs l none h).resolve_left nofun
  intro l
  induction l with
  | nil => exact fun b hb => .inl hb
  | cons d l ih =>
    intro b hb
    rcases ih _ hb with h | h
    · cases b with
      | none =>
        obtain rfl := Option.some.inj h
        exact .inr List.mem_cons_self
      | some c =>
        dsimp only at h
        split at h
        · obtain rfl := Option.some.inj h
          exact .inr List.mem_cons_self
        · exact .inl h
    · exact .inr (List.mem_cons_of_mem d h)

/-- Trying sets that hold instructions goes on, by induction on the tries left. -/
theorem State.tryFire_goes : ∀ (n : Nat) (l : List Entry), (∀ e ∈ l, s.decodes p pg e) → ∃ t, s.tryFire p pg tile n l = .next t
  | 0, _, _ => ⟨s, rfl⟩
  | n + 1, l, h => by
    unfold State.tryFire
    cases hb : s.best p pg l with
    | none => exact ⟨s, rfl⟩
    | some e =>
      cases hf : s.fireEntry p pg e with
      | none =>
        simp only [hf]
        exact State.tryFire_goes n _ fun d hd => h d (List.mem_filter.mp hd).1
      | some o =>
        obtain ⟨t, rfl⟩ := State.fireEntry_goes (h e (State.mem_of_best hb)) hf
        simp only [hf]
        exact ⟨_, rfl⟩

/-- A tile's turn goes on where its ready sets hold instructions. -/
theorem State.fireTurn_goes (h : s.loaded) : ∃ t, s.fireTurn p pg tile = .next t := by
  unfold State.fireTurn
  dsimp only
  split
  · exact ⟨_, rfl⟩
  · refine State.tryFire_goes _ _ fun e he => ?_
    obtain ⟨hmem, hel⟩ := List.mem_filter.mp he
    exact h.decodes hmem (State.ready_of_eligible (Bool.and_eq_true_iff.mp hel).2)

end

/-- Settles O4: a step of a loaded state is the turn of a row or of a tile, and each goes on. -/
theorem nothingStops : Obligations.NothingStops := by
  refine ⟨exec_next, fun s h => ?_, fun s h => ⟨_, step_nil h⟩⟩
  unfold State.goesOn
  cases hag : s.agenda with
  | nil => exact ⟨_, step_nil hag⟩
  | cons t rest =>
    cases hact : t.act with
    | row i a => rw [step_row hag hact]; exact State.rowTurn_goes _ i a
    | fire p pg tile =>
      have hl : (s.atStep t rest).loaded := h
      rw [step_fire hag hact]
      exact State.fireTurn_goes hl

/-- Settles O1: each word's decoding is computed. -/
theorem decodedWords : Obligations.DecodedWords := by
  unfold Obligations.DecodedWords
  decide
end Sys2Proof.Machine
end

section
/-! PROOFS of the statements of encodings: SCAT at the owning tile, and the lists of TOPK (R205, R214, R245, R296, R310, R311). -/

namespace Sys2Proof.Machine

/-! ### SCAT at the owning tile (R205, R214, R245, R296) -/

/-- Little-endian bytes hold the number that they were made of (R4). -/
theorem ofLE_leBytes (k n : Nat) : ofLE (leBytes k n) = n % 256 ^ k := by
  induction k generalizing n with
  | zero => simp [ofLE, leBytes, Nat.mod_one]
  | succ k ih =>
    rw [leBytes, ofLE, ih, pow_succ']
    exact Nat.mod_mul.symm

/-- A word that is written reads back. -/
theorem num_sets_word {m : List Host.Cell} (hm : Mem.wf m = true) (key : Nat) (n : Word) :
    Mem.num (Mem.sets m key (leBytes 4 n.toNat)) key 4 = n.toNat := by
  have hbytes := Mem.bytes_sets (bs := leBytes 4 n.toNat) (a := key) hm
  rw [le_len] at hbytes
  rw [Mem.num, hbytes, ofLE_leBytes]
  exact Nat.mod_eq_of_lt n.isLt

/-- A new origin changes no more than a firing may (R89), bytes apart. -/
theorem newOrigin_framed (s : State) (p pg tile : Nat) (tag : Tag) (gen kind op xf va b c : Nat) :
    Framed p b c (fun _ => True) s (s.newOrigin p pg tile tag gen kind op xf va).1 := by
  unfold State.newOrigin
  dsimp only
  split
  · have hs (v : Nat) : Framed p b c (fun _ => False) s (s.setCsrF p 0x098 26 16 v) := setCsr98_framed ..
    split
    · rename_i hd
      exact (write_framed s _ p _ _ _ (hs _) (by simp [le_len]) rfl rfl (Framed.refl ..) _ fun _ _ _ _ _ => trivial).1 _ hd
    · exact ((hs _).trans (postVf_framed ..)).mono fun _ => False.elim
  · have hs : Framed p b c (fun _ => False) s (s.modPart p (fun y => { y with plogOver := (s.part p).plogOver + 1 })) :=
      Framed.part (fun _ => rfl) (fun _ => rfl) (fun _ => rfl) fun x n hn => rfl
    split
    · rename_i hd
      refine (write_framed s _ p _ _ _ hs ?_ rfl rfl (Framed.refl ..) _ fun _ _ _ _ _ => trivial).1 _ hd
      split <;> simp [le_len]
    · exact (hs.trans (postVf_framed ..)).mono fun _ => False.elim

theorem State.newOrigin_map (s : State) (p pg tile : Nat) (tag : Tag) (gen kind op xf va q : Nat) :
    (((s.newOrigin p pg tile tag gen kind op xf va).1).part q).map = (s.part q).map := by
  have := congrArg Part.map ((newOrigin_framed s p pg tile tag gen kind op xf va 0 0).pc q)
  exact this

theorem State.newOrigin_now (s : State) (p pg tile : Nat) (tag : Tag) (gen kind op xf va : Nat) :
    (s.newOrigin p pg tile tag gen kind op xf va).1.now = s.now := by
  have := congrArg State.now (newOrigin_framed s p pg tile tag gen kind op xf va 0 0).core
  exact this

/-- A poisoned store that is reported leaves every page map. -/
theorem State.setCsr_map (s : State) (p n v q : Nat) : ((s.setCsr p n v).part q).map = (s.part q).map :=
  part_modPart Part.map s p q _ (fun _ => rfl) fun _ => rfl

theorem State.reportPoison_map (s : State) (p : Nat) (o : BitVec 11) (va : Nat) (counted : Bool) (q : Nat) :
    ((s.reportPoison p o va counted).part q).map = (s.part q).map := by
  have hset := ((State.setCsr_map ((s.setCsr p 0x099 (o.toNat + 2 ^ 31)).setCsr p 0x09A (va % 2 ^ 32)) p 0x09B (va / 2 ^ 32) q).trans
    (State.setCsr_map _ p 0x09A (va % 2 ^ 32) q)).trans (s.setCsr_map p 0x099 (o.toNat + 2 ^ 31) q)
  unfold State.reportPoison
  dsimp only
  split
  · exact ite_keeps (P := fun t : State => (t.part q).map = _) ((State.setCsr_map ..).trans hset) hset
  · exact hset

/-- The state with SCAT's new value in its word. -/
def State.scatWrites (s : State) (key : Nat) (n : Word) : State := { s with mem := Mem.sets s.mem key (leBytes 4 n.toNat) }

/-- What SCAT reports of poison (R85, R245): that of its operand, or of a NaN that the operation makes of kind k. -/
def State.scatReports (s : State) (p pg : Nat) (f : Fire) (k : Nat) : State :=
  let va := (valOf (f.l.map Arr.tok)).toNat
  match origOf (f.r.map Arr.tok) with
  | some o => s.reportPoison p o va true
  | none =>
    if k = 0 then s
    else match (curOf p pg f).firstOrigin with
    | some o => s.reportPoison p o va true
    | none =>
      let z := s.newOrigin p pg f.tile f.tag f.gen k (opF f.word).toNat (xF f.word).toNat 0
      z.1.reportPoison p z.2 va true

section
variable {s : State} {p pg : Nat} {f : Fire} {k : Nat}

theorem State.scatReports_map (s : State) (p pg : Nat) (f : Fire) (k q : Nat) : ((s.scatReports p pg f k).part q).map = (s.part q).map := by
  unfold State.scatReports
  dsimp only
  split
  · exact s.reportPoison_map ..
  split
  · rfl
  split
  · exact s.reportPoison_map ..
  · exact (State.reportPoison_map ..).trans (s.newOrigin_map ..)

theorem State.scatReports_now (s : State) (p pg : Nat) (f : Fire) (k : Nat) : (s.scatReports p pg f k).now = s.now := by
  unfold State.scatReports
  dsimp only
  split
  · exact (s.reportPoison_grows ..).now
  split
  · rfl
  split
  · exact (s.reportPoison_grows ..).now
  · exact (State.reportPoison_grows ..).now.trans (s.newOrigin_now ..)

/-- Without a new origin the reports leave memory. -/
theorem State.scatReports_mem (h : (curOf p pg f).firstOrigin ≠ none ∨ k = 0) : (s.scatReports p pg f k).mem = s.mem := by
  unfold State.scatReports
  dsimp only
  split
  · exact (s.reportPoison_grows ..).mem
  split
  · rfl
  rename_i hk
  split
  · exact (s.reportPoison_grows ..).mem
  · rename_i ho
    exact absurd ho (h.resolve_right hk)

/-- A NaN that the operation makes of sound operands takes a new origin. -/
theorem State.scatReports_new (h : (curOf p pg f).firstOrigin = none) (hk : k ≠ 0) :
    let z := s.newOrigin p pg f.tile f.tag f.gen k (opF f.word).toNat (xF f.word).toNat 0
    s.scatReports p pg f k = z.1.reportPoison p z.2 (valOf (f.l.map Arr.tok)).toNat true := by
  have hr : origOf (f.r.map Arr.tok) = none := by
    change (((origOf (f.l.map Arr.tok)).orElse fun _ => origOf (f.r.map Arr.tok)).orElse fun _ => _).orElse _ = none at h
    cases hl : origOf (f.l.map Arr.tok) <;> cases hr : origOf (f.r.map Arr.tok) <;> simp_all
  intro z
  unfold State.scatReports
  simp only [hr, h, hk, if_false]
  rfl

end

section
variable {s : State} {f : Fire} {key : Nat}

/-- SCAT at the owning tile: its word takes the new value, poison is reported, and the old value leaves on the way back. -/
theorem exec_scatApply (hf : (s.page s.arg.p s.arg.pg).fire? s.arg.fid = some f) (hph : f.phase = .engine) (hacted : f.acted = false)
    (hz : s.arg.z = 0) (hkey : (s.part s.arg.p).fabKey (valOf (f.l.map Arr.tok)).toNat = some key) :
    let fa := (valOf (f.l.map Arr.tok)).toNat
    let v := word (Mem.num s.mem key 4)
    let n := scatNew (xF f.word).toNat v (valOf (f.r.map Arr.tok))
    exec .scatApply s = .next (((s.scatWrites key n.1).scatReports s.arg.p s.arg.pg f n.2).engineAnswer s.arg.p s.arg.pg f.fid
      (s.now + (1 + (s.part s.arg.p).pathCost (fabPage fa) (fabTile fa) s.arg.pg f.tile))
      (withPoison (tokV v) (curOf s.arg.p s.arg.pg f).firstOrigin)) := by
  intro fa v n
  have hback : ((s.scatWrites key n.1).scatReports s.arg.p s.arg.pg f n.2).loadLegs s.arg.p s.arg.pg f.tile 2 fa 0 =
      s.loadLegs s.arg.p s.arg.pg f.tile 2 fa 0 := loadLegs_congr (State.scatReports_map ..) ..
  have hnow : ((s.scatWrites key n.1).scatReports s.arg.p s.arg.pg f n.2).now = s.now := State.scatReports_now ..
  change execScatApply s = _
  unfold execScatApply
  dsimp only
  rw [hf]
  refine congrArg Host.Outcome.next ?_
  refine (if_neg (by simp [hph, hacted])).trans ((if_neg (by simp [hz])).trans ?_)
  rw [hkey]
  change State.engineAnswer _ _ _ _ (((s.scatWrites key n.1).scatReports s.arg.p s.arg.pg f n.2).now +
    (((s.scatWrites key n.1).scatReports s.arg.p s.arg.pg f n.2).loadLegs s.arg.p s.arg.pg f.tile 2 fa 0).2) _ = _
  rw [hnow, hback]
  rfl

/-- SCAT without a new origin: its word takes the new value and every other byte stays. -/
theorem exec_scatApply_mem (hs : s.sound) (hf : (s.page s.arg.p s.arg.pg).fire? s.arg.fid = some f) (hph : f.phase = .engine)
    (hacted : f.acted = false) (hz : s.arg.z = 0) (hkey : (s.part s.arg.p).fabKey (valOf (f.l.map Arr.tok)).toNat = some key)
    {v n : Word} {k : Nat} (hv : v = word (Mem.num s.mem key 4)) (hn : scatNew (xF f.word).toNat v (valOf (f.r.map Arr.tok)) = (n, k))
    (ho : (curOf s.arg.p s.arg.pg f).firstOrigin ≠ none ∨ k = 0) :
    let fa := (valOf (f.l.map Arr.tok)).toNat
    ∃ u : State, exec .scatApply s = .next (u.engineAnswer s.arg.p s.arg.pg f.fid
        (s.now + (1 + (s.part s.arg.p).pathCost (fabPage fa) (fabTile fa) s.arg.pg f.tile))
        (withPoison (tokV v) (curOf s.arg.p s.arg.pg f).firstOrigin)) ∧
      Mem.num u.mem key 4 = n.toNat ∧ ∀ a, a < key ∨ key + 4 ≤ a → Mem.byte u.mem a = Mem.byte s.mem a := by
  intro fa
  have hexec := exec_scatApply hf hph hacted hz hkey
  dsimp only at hexec
  rw [← hv, hn] at hexec
  refine ⟨_, hexec, ?_, fun a ha => ?_⟩
  · rw [State.scatReports_mem ho]
    exact num_sets_word hs.1 key n
  · rw [State.scatReports_mem ho]
    exact Mem.byte_sets_other hs.1 (by rwa [le_len])

/-- SCAT that makes a NaN of sound operands: its word takes the NaN, and its new origin is reported. -/
theorem exec_scatApply_event (hf : (s.page s.arg.p s.arg.pg).fire? s.arg.fid = some f) (hph : f.phase = .engine)
    (hacted : f.acted = false) (hz : s.arg.z = 0) (hkey : (s.part s.arg.p).fabKey (valOf (f.l.map Arr.tok)).toNat = some key)
    {v n : Word} {k op x : Nat} (hop : (opF f.word).toNat = op) (hx : (xF f.word).toNat = x) (hv : v = word (Mem.num s.mem key 4))
    (hn : scatNew x v (valOf (f.r.map Arr.tok)) = (n, k)) (ho : (curOf s.arg.p s.arg.pg f).firstOrigin = none) (hk : k ≠ 0) :
    let fa := (valOf (f.l.map Arr.tok)).toNat
    let z := (s.scatWrites key n).newOrigin s.arg.p s.arg.pg f.tile f.tag f.gen k op x 0
    exec .scatApply s = .next ((z.1.reportPoison s.arg.p z.2 fa true).engineAnswer s.arg.p s.arg.pg f.fid
      (s.now + (1 + (s.part s.arg.p).pathCost (fabPage fa) (fabTile fa) s.arg.pg f.tile)) (tokV v)) := by
  subst hop hx
  have hexec := exec_scatApply hf hph hacted hz hkey
  dsimp only at hexec
  rw [← hv, hn, State.scatReports_new ho hk, ho] at hexec
  exact hexec

/-- SCAT whose address is mapped no more traps. -/
theorem exec_scatApply_unmapped (hf : (s.page s.arg.p s.arg.pg).fire? s.arg.fid = some f) (hph : f.phase = .engine) (hacted : f.acted = false)
    (hz : s.arg.z = 0) (hkey : (s.part s.arg.p).fabKey (valOf (f.l.map Arr.tok)).toNat = none) :
    exec .scatApply s = .next (s.engineTrap s.arg.p s.arg.pg f.id f.strand f.tile f.tag f.word f.blk f.gen 0x02 1280
      (valOf (f.l.map Arr.tok)).toNat) := by
  change execScatApply s = _
  unfold execScatApply
  dsimp only
  rw [hf]
  refine congrArg Host.Outcome.next ?_
  refine (if_neg (by simp [hph, hacted])).trans ((if_neg (by simp [hz])).trans ?_)
  rw [hkey]

end

/-! ### The order of scores (R311) -/

/-- The sign of a word, as a number. -/
theorem getLsbD_31 (v : Word) : v.getLsbD 31 = true ↔ 2 ^ 31 ≤ v.toNat := by
  have h := BitVec.msb_eq_decide v
  rw [BitVec.msb_eq_getLsbD_last] at h
  rw [show v.getLsbD 31 = _ from h]
  simp

/-- A NaN ranks below every number. -/
theorem scoreKey_nan {v : Word} (h : fpNaN v) : scoreKey v = -2 ^ 31 := if_pos h

theorem scoreKey_number {v : Word} (h : ¬fpNaN v) : scoreKey v = fpValue v ∧ -2 ^ 31 < scoreKey v := by
  have hs := getLsbD_31 v
  have hlt := v.isLt
  unfold fpNaN at h
  have hkey : scoreKey v = if v.toNat < 2 ^ 31 then ((v.toNat % 2 ^ 31 : Nat) : Int) else -((v.toNat % 2 ^ 31 : Nat) : Int) := if_neg h
  by_cases hneg : 2 ^ 31 ≤ v.toNat
  · rw [hkey, if_neg (Nat.not_lt.mpr hneg), fpValue, if_pos (hs.mpr hneg)]
    omega
  · rw [hkey, if_pos (Nat.not_le.mp hneg), fpValue, if_neg (mt hs.mp hneg)]
    omega

theorem ranksAbove_iff (a b : Token × Token) : ranksAbove a b = true ↔
    scoreKey b.1.val < scoreKey a.1.val ∨ (scoreKey a.1.val = scoreKey b.1.val ∧ a.2.val.toNat < b.2.val.toNat) := by
  simp [ranksAbove]

/-- The order of two pairs, by whether their scores are numbers. -/
theorem ranksAbove_spec (a b : Token × Token) : ranksAbove a b = true ↔
    ((fpNaN b.1.val ∧ ¬fpNaN a.1.val) ∨ (¬fpNaN a.1.val ∧ ¬fpNaN b.1.val ∧ fpValue b.1.val < fpValue a.1.val) ∨
      (((fpNaN a.1.val ∧ fpNaN b.1.val) ∨ (¬fpNaN a.1.val ∧ ¬fpNaN b.1.val ∧ fpValue b.1.val = fpValue a.1.val)) ∧
        a.2.val.toNat < b.2.val.toNat)) := by
  rw [ranksAbove_iff]
  by_cases ha : fpNaN a.1.val <;> by_cases hb : fpNaN b.1.val
  · simp [ha, hb, scoreKey_nan]
  · obtain ⟨-, h⟩ := scoreKey_number hb
    simp only [ha, hb, scoreKey_nan ha, not_true, not_false_iff, false_and, and_false, false_or, iff_false]
    omega
  · obtain ⟨-, h⟩ := scoreKey_number ha
    simp only [ha, hb, scoreKey_nan hb, not_false_iff, and_self, true_or, iff_true]
    omega
  · rw [(scoreKey_number ha).1, (scoreKey_number hb).1]
    simp [ha, hb, eq_comm]

/-- A pair that ranks above another ranks above all that the other is not below. -/
theorem not_ranksAbove_of_above {a b c : Token × Token} (h : ranksAbove a b = true) (hc : ranksAbove c b = false) : ranksAbove c a = false := by
  rw [← Bool.not_eq_true, ranksAbove_iff] at *
  omega

theorem not_ranksAbove_self_of_above {a b : Token × Token} (h : ranksAbove a b = true) : ranksAbove b a = false := by
  rw [← Bool.not_eq_true, ranksAbove_iff] at *
  omega

/-- A list takes a pair as one more of its pairs. -/
theorem rankIn_perm (x : Token × Token) (l : List (Token × Token)) : (rankIn x l).Perm (x :: l) := by
  induction l with
  | nil => exact .refl _
  | cons b l ih =>
    unfold rankIn
    split
    · exact .refl _
    · exact (ih.cons b).trans (.swap ..)

/-- And stays in its order. -/
theorem rankIn_sorted (x : Token × Token) (l : List (Token × Token)) (h : l.Pairwise (fun a b => ranksAbove b a = false)) :
    (rankIn x l).Pairwise (fun a b => ranksAbove b a = false) := by
  induction l with
  | nil => exact List.pairwise_singleton ..
  | cons b l ih =>
    obtain ⟨hb, hl⟩ := List.pairwise_cons.mp h
    unfold rankIn
    split
    · rename_i hx
      refine List.pairwise_cons.mpr ⟨List.forall_mem_cons.mpr ⟨not_ranksAbove_self_of_above hx, fun c hc => ?_⟩, h⟩
      exact not_ranksAbove_of_above hx (hb c hc)
    · rename_i hx
      refine List.pairwise_cons.mpr ⟨fun c hc => ?_, ih hl⟩
      rcases List.mem_cons.mp ((rankIn_perm x l).mem_iff.mp hc) with rfl | hc
      · exact Bool.eq_false_iff.mpr hx
      · exact hb c hc

/-! ### TOPK fires (R16, R311) -/

section
variable {s : State} {f : Fire} {pr : BitVec 2} {k : BitVec 5} {t1 t0 : Target} {l r : Token} {p pg n tile : Nat} {tag : Tag}

/-- The list of a tile belongs to it. -/
theorem topkOf_tile (y : Page) (tile : Nat) (fibre : Tag) : (y.topkOf tile fibre).tile = tile := by
  unfold Page.topkOf
  cases h : y.topk.find? (fun k => k.tile == tile) with
  | none => rfl
  | some k => simpa using List.find?_some h

/-- The list that was set for a tile. -/
theorem topkOf_setTopk (y : Page) (k : TopkList) (fibre : Tag) : (y.setTopk k).topkOf k.tile fibre = k := by
  unfold Page.setTopk Page.topkOf
  dsimp only
  have hnone : (y.topk.filter (fun j => j.tile != k.tile)).find? (fun j => j.tile == k.tile) = none := by simp
  rw [List.find?_append, hnone]
  simp

/-- TOPK with a P that lets it run. -/
theorem execTopk_run (hp : s.cur.pRuns pr) (hl : s.cur.l = some l) (hr : s.cur.r = some r) :
    let list := (s.page s.cur.p s.cur.pg).topkOf s.cur.tile (fibreOf s.cur.tag)
    exec (.topk pr k t1 t0) s = .next (if l.null && l.eof then
        ((s.modPage s.cur.p s.cur.pg (fun y => y.setTopk { list with busy := s.now + 3 + list.pairs.length })).modFire s.cur.p s.cur.pg s.cur.fid
          (fun f => { f with leaves := s.now + 3 + list.pairs.length, phase := .run })).sched (s.now + 2) (srcOf s.cur.pg s.cur.tile) .topkEmit
            { p := s.cur.p, pg := s.cur.pg, id := s.cur.id, x := s.cur.tile, fid := s.cur.fid, tag := s.cur.tag }
      else if l.null || r.null then s.silent
      else (s.modPage s.cur.p s.cur.pg (fun y => y.setTopk { list with
        fibre := fibreOf s.cur.tag, pairs := (rankIn (l, r) list.pairs).take (k.toNat + 1) })).silent) := by
  intro list
  obtain ⟨hnull, hpred⟩ := hp
  change execTopk pr k t1 t0 s = _
  unfold execTopk
  simp only [hnull, hpred, hl, hr, Option.getD_some, if_false, Bool.false_eq_true]
  rfl

/-- A pair of tokens that are not null joins its list. -/
theorem execTopk_pair (hp : s.cur.pRuns pr) (hl : s.cur.l = some l) (hr : s.cur.r = some r) (hln : l.null = false) (hrn : r.null = false) :
    let list := (s.page s.cur.p s.cur.pg).topkOf s.cur.tile (fibreOf s.cur.tag)
    exec (.topk pr k t1 t0) s = .next ((s.modPage s.cur.p s.cur.pg (fun y => y.setTopk { list with
      fibre := fibreOf s.cur.tag, pairs := (rankIn (l, r) list.pairs).take (k.toNat + 1) })).silent) := by
  intro list
  refine (execTopk_run hp hl hr).trans (congrArg _ ?_)
  rw [if_neg (by simp [hln]), if_neg (by simp [hln, hrn])]

/-- A closing L ends the fibre: the emission of its list is pending. -/
theorem execTopk_closing (hp : s.cur.pRuns pr) (hl : s.cur.l = some l) (hr : s.cur.r = some r) (hln : l.null = true) (hle : l.eof = true) :
    ∃ t, exec (.topk pr k t1 t0) s = .next t ∧ ⟨s.now + 2, 0, srcOf s.cur.pg s.cur.tile, .row .topkEmit
      { p := s.cur.p, pg := s.cur.pg, id := s.cur.id, x := s.cur.tile, fid := s.cur.fid, tag := s.cur.tag }⟩ ∈ t.agenda := by
  refine ⟨_, (execTopk_run hp hl hr).trans (congrArg _ (if_pos (by simp [hln, hle]))), State.mem_sched ..⟩

/-- Any other null operand is ranked nowhere. -/
theorem execTopk_null (hp : s.cur.pRuns pr) (hl : s.cur.l = some l) (hr : s.cur.r = some r)
    (h : (l.null = true ∧ l.eof = false) ∨ (l.null = false ∧ r.null = true)) : exec (.topk pr k t1 t0) s = .next s.silent := by
  refine (execTopk_run hp hl hr).trans (congrArg _ ?_)
  obtain ⟨hln, hle⟩ | ⟨hln, hrn⟩ := h
  · rw [if_neg (by simp [hle]), if_pos (by simp [hln])]
  · rw [if_neg (by simp [hln]), if_pos (by simp [hrn])]

/-- Firings that change leave the lists of a page. -/
theorem State.modFire_topk (s : State) (p pg n q qg : Nat) (g : Fire → Fire) : ((s.modFire p pg n g).page q qg).topk = (s.page q qg).topk :=
  page_modPage Page.topk s p pg q qg _ (fun _ => rfl) fun _ => rfl

theorem topkOf_congr {y z : Page} (h : y.topk = z.topk) : y.topkOf = z.topkOf := by
  unfold Page.topkOf
  rw [h]

/-- A pair joins the list of its tile. -/
theorem topk_pair_list (hf : (s.page s.cur.p s.cur.pg).fire? s.cur.fid = some f) {list : TopkList} (ht : list.tile = s.cur.tile) :
    (((s.modPage s.cur.p s.cur.pg (fun y => y.setTopk list)).silent).page s.cur.p s.cur.pg).topkOf s.cur.tile (fibreOf s.cur.tag) = list := by
  have hpage : (s.modPage s.cur.p s.cur.pg (fun y => y.setTopk list)).page s.cur.p s.cur.pg = (s.page s.cur.p s.cur.pg).setTopk list :=
    page_in s _ _ _ (fun _ => rfl) fun e => by rw [e] at hf; cases hf
  unfold State.silent
  rw [topkOf_congr (State.modFire_topk ..)]
  change (((s.modPage s.cur.p s.cur.pg (fun y => y.setTopk list)).page s.cur.p s.cur.pg).topkOf s.cur.tile _) = _
  rw [hpage, ← ht]
  exact topkOf_setTopk ..

/-! ### A list's emission (R36, R311) -/

/-- The state in which TOPK_EMIT sends: its firing has acted. -/
def State.emitting (s : State) (f : Fire) : State := s.modFire s.arg.p s.arg.pg f.fid (fun g => { g with acted := true })

/-- Both tokens of a pair of sends are on their way. -/
theorem State.mem_send_pair {u v : State} {c : Cur} {leaves : Nat} {a b : Target} {t0 t1 : Token}
    (hv : ∀ x ∈ ((u.send c leaves a t0).send c leaves b t1).agenda, x ∈ v.agenda) :
    (a ≠ .none → ∀ tag, u.carryTag c a = some tag → ({ u with cur := c } : State).arrivalOf leaves a tag t0 ∈ v.agenda) ∧
    (b ≠ .none → ∀ tag, u.carryTag c b = some tag → ({ u with cur := c } : State).arrivalOf leaves b tag t1 ∈ v.agenda) := by
  have hadds := u.send_adds c leaves a t0
  refine ⟨fun hn tag ht => hv _ ((State.send_adds ..).agenda _ (u.mem_send hn ht)), fun hn tag ht => ?_⟩
  obtain ⟨m, hm, -⟩ := hadds
  have hmem := State.mem_send (u.send c leaves a t0) (c := c) (leaves := leaves) (tg := b) (r := t1) (tag := tag) hn (by rw [hm]; exact ht)
  rw [hm] at hmem hv
  exact hv _ hmem

/-- The two tokens that TOPK_EMIT sends. -/
def State.emits (s : State) (f : Fire) (t0 t1 : Token) : State :=
  let c := curOf s.arg.p s.arg.pg f
  ((s.emitting f).send c s.now (targetsOf f.word).1 t0).send c s.now (targetsOf f.word).2 t1

theorem State.emits_adds (s : State) (f : Fire) (t0 t1 : Token) : (s.emitting f).Adds (s.emits f t0 t1) :=
  (State.send_adds ..).trans (State.send_adds ..)

theorem State.emits_agenda (s : State) (f : Fire) (t0 t1 : Token) : ∃ l, s.emits f t0 t1 = { s.emitting f with agenda := l } := by
  obtain ⟨l, hl, -⟩ := s.emits_adds f t0 t1
  exact ⟨l, hl⟩

/-- Both tokens are on their way. -/
theorem State.emits_arrive {s v : State} {f : Fire} {t0 t1 : Token} (hv : ∀ x ∈ (s.emits f t0 t1).agenda, x ∈ v.agenda) :
    let c := curOf s.arg.p s.arg.pg f
    let u : State := { s.emitting f with cur := c }
    ((targetsOf f.word).1 ≠ .none → ∀ tag, u.carryTag c (targetsOf f.word).1 = some tag →
      u.arrivalOf s.now (targetsOf f.word).1 tag t0 ∈ v.agenda) ∧
    ((targetsOf f.word).2 ≠ .none → ∀ tag, u.carryTag c (targetsOf f.word).2 = some tag →
      u.arrivalOf s.now (targetsOf f.word).2 tag t1 ∈ v.agenda) :=
  State.mem_send_pair (u := s.emitting f) hv

/-- A pair of the list leaves, and the next has its turn. -/
theorem exec_topkEmit_pair {score index : Token} (hf : (s.page s.arg.p s.arg.pg).fire? s.arg.fid = some f)
    (hz : ((s.page s.arg.p s.arg.pg).topkOf s.arg.x (fibreOf s.arg.tag)).pairs[s.arg.z]? = some (score, index)) :
    let o := (origOf (some score)).orElse fun _ => origOf (some index)
    exec .topkEmit s = .next ((s.emits f (withPoison (tokV index.val) o) (withPoison (tokV score.val) o)).sched (s.now + 1) (srcOf s.arg.pg f.tile)
      .topkEmit { s.arg with z := s.arg.z + 1 }) := by
  intro o
  let u := s.emits f (withPoison (tokV index.val) o) (withPoison (tokV score.val) o)
  obtain ⟨l, hl⟩ : ∃ l, u = { s.emitting f with agenda := l } := s.emits_agenda f _ _
  change execTopkEmit s = _
  unfold execTopkEmit
  dsimp only
  rw [hf]
  dsimp only
  rw [State.modFire_arg, hz]
  change Host.Outcome.next (u.sched (u.now + 1) _ _ { u.arg with z := u.arg.z + 1 }) = Host.Outcome.next (u.sched _ _ _ _)
  rw [hl]
  rfl

/-- The state after a list's closing tokens. -/
def State.closes (s : State) (f : Fire) (len : Nat) : State :=
  let p := s.arg.p
  let pg := s.arg.pg
  let u := (s.emits f (closing (word len)) (closing (word len))).modPage p pg (fun y => { y with topk := y.topk.filter (fun k => k.tile != f.tile) })
  ((u.modFire p pg f.fid (fun f => { f with leaves := u.now, phase := .done })).schedFire (u.now + 1) p pg f.tile).checkDone p pg f.tag

/-- After the last pair the list closes. -/
theorem exec_topkEmit_close (hf : (s.page s.arg.p s.arg.pg).fire? s.arg.fid = some f)
    (hz : ((s.page s.arg.p s.arg.pg).topkOf s.arg.x (fibreOf s.arg.tag)).pairs[s.arg.z]? = none) :
    exec .topkEmit s = .next (s.closes f ((s.page s.arg.p s.arg.pg).topkOf s.arg.x (fibreOf s.arg.tag)).pairs.length) := by
  change execTopkEmit s = _
  unfold execTopkEmit
  dsimp only
  rw [hf]
  dsimp only
  rw [State.modFire_arg, hz]
  rfl

theorem State.checkDone_topk (s : State) (p pg q qg : Nat) (tag : Tag) : ((s.checkDone p pg tag).page q qg).topk = (s.page q qg).topk := by
  obtain h | ⟨t, i, h⟩ := s.checkDone_cases p pg tag
  · rw [h]
  · rw [h]
    exact page_modPage Page.topk s p pg q qg _ (fun _ => rfl) fun _ => rfl

theorem State.closes_grows (s : State) (f : Fire) (len : Nat) : (s.emits f (closing (word len)) (closing (word len))).Grows (s.closes f len) :=
  (((State.modPart_grows ..).trans (State.modPart_grows ..)).trans (State.schedFire_adds ..).grows).trans (State.checkDone_grows ..)

/-- And the tile's list is gone. -/
theorem State.closes_topk (hf : (s.page s.arg.p s.arg.pg).fire? s.arg.fid = some f) (len : Nat) :
    ((s.closes f len).page s.arg.p s.arg.pg).topk = (s.page s.arg.p s.arg.pg).topk.filter (fun k => k.tile != f.tile) := by
  have hpage := (s.emits_adds f (closing (word len)) (closing (word len))).page s.arg.p s.arg.pg
  have hfid : f.fid = s.arg.fid := fire_fid hf
  have hfire := fire_in s s.arg.p s.arg.pg s.arg.fid (fun g => { g with acted := true }) (fun _ => rfl) f hf
  unfold State.closes
  dsimp only
  rw [State.checkDone_topk, (State.schedFire_adds ..).page, State.modFire_topk,
    page_in _ _ _ (fun y => { y with topk := y.topk.filter (fun k => k.tile != f.tile) }) (fun _ => rfl)]
  · dsimp only
    rw [hpage, State.emitting, State.modFire_topk]
  · rw [hpage, State.emitting, hfid]
    intro e
    rw [e] at hfire
    cases hfire

end

/-- Settles O40: SCAT by its form, the order of scores, and TOPK with the emission of its list. -/
theorem scatterAndTopk : Obligations.ScatterAndTopk := by
  refine ⟨?scat, ranksAbove_spec, fun x l => ⟨rankIn_perm x l, rankIn_sorted x l⟩, ?fires, ?emits⟩
  case scat =>
    intro s f hs hf hph hacted hz hop p pg fa r
    refine ⟨?_, exec_scatApply_unmapped hf hph hacted hz⟩
    intro key hkey v back becomes
    have apply {x : Nat} {n : Word} {k : Nat} (hx : (xF f.word).toNat = x) (hn : scatNew x v r = (n, k))
        (ho : (curOf p pg f).firstOrigin ≠ none ∨ k = 0) : becomes n :=
      exec_scatApply_mem hs hf hph hacted hz hkey rfl (hx ▸ hn) ho
    refine ⟨fun hx => apply hx rfl (.inr rfl), ⟨fun hx ho => apply hx rfl ho, fun hx ho hk => ?_⟩, fun hx => apply hx ?_ (.inr rfl),
      fun hx => apply hx ?_ (.inr rfl), fun hx => apply hx rfl (.inr rfl)⟩
    · exact exec_scatApply_event hf hph hacted hz hkey hop hx rfl rfl ho hk
    · simp [scatNew, BitVec.slt]
    · simp [scatNew, BitVec.slt]
  case fires =>
    intro s f pr k t1 t0 l r hf hp hl hr p pg fibre list
    exact ⟨fun hln hrn => ⟨_, execTopk_pair hp hl hr hln hrn, rfl, rfl, topk_pair_list hf (topkOf_tile ..)⟩,
      execTopk_closing hp hl hr, execTopk_null hp hl hr⟩
  case emits =>
    intro s f hf p pg list u arrives
    exact ⟨fun score index hpair =>
        ⟨_, exec_topkEmit_pair hf hpair, State.emits_arrive (State.sched_adds ..).agenda, State.mem_sched ..⟩,
      fun hnone => ⟨_, exec_topkEmit_close hf hnone, State.emits_arrive (s.closes_grows ..).agenda, State.closes_topk hf _⟩⟩

end Sys2Proof.Machine
end

section
/-! PROOFS of the statements of encodings: rounds of placement, starts, results and teardown, and speculative fetches (R46, R182 to R198). -/

namespace Sys2Proof.Machine

section
variable {s : State} {p id : Nat} {r : Request}

/-! ### Rounds of placement (R182, R183, R198) -/

/-- Serving a lone request, which waits for no victim and has no rectangle to take, is seeking one for it. -/
theorem State.serveFirst_single (hsaving : r.saving = []) (hrect : r.rect = []) :
    s.serveFirst p [r] = (s.seek p { r with pg := (s.part p).reqPg r }).getD s := by
  have hserve : s.serve p r = s.seek p { r with pg := (s.part p).reqPg r } := by
    unfold State.serve
    simp [hsaving, hrect]
  unfold State.serveFirst
  rw [hserve]
  cases s.seek p { r with pg := (s.part p).reqPg r } <;> rfl

/-- A shape for which the partition has no rectangle at all fails its request. -/
theorem State.seek_unfit (h : (s.part p).rects r.desc.w r.desc.h = []) : s.seek p r = some (s.failRequest p r 3) := by
  unfold State.seek
  simp [h]

/-- A call's request takes the rectangle that steps 1 to 4 find, where an ID is free. -/
theorem State.seek_call {c fid : Nat} {rect : List Nat} (hk : r.kind = .call c fid) (hfit : (s.part p).rects r.desc.w r.desc.h ≠ [])
    (hid : lowestFree ((s.part p).insts.map Inst.id) 65536 0 = some id)
    (hrect : (s.part p).stepsTo4 r.pg ((s.part p).reqPages r s.now) r.desc.w r.desc.h ((s.part p).isFree s.now) = some rect) :
    s.seek p r = some (s.grant p r rect false) := by
  unfold State.seek
  simp [hk, hfit, hid, hrect]

/-- The grant of a call's request makes a new Inst of the lowest free ID. -/
theorem State.grant_call {c fid : Nat} {rect : List Nat} (hk : r.kind = .call c fid)
    (hid : lowestFree ((s.part p).insts.map Inst.id) 65536 0 = some id) :
    s.grant p r rect false = s.newInst p r rect false id (.call c fid) ((s.part p).prePlaced.contains (r.desc.va, rect.headD 0)) := by
  unfold State.grant
  simp [hk, hid]

/-- A round of a partition that runs serves the one request that has reached it. -/
theorem exec_pelorusRound_single (hfrozen : (s.part s.arg.p).frozen = false) (hpaused : (s.part s.arg.p).vf.state ≠ .paused)
    (hz : s.arg.z = 0) (hone : (s.part s.arg.p).requests = [r]) (hsince : r.since ≤ s.now) :
    exec .pelorusRound s =
      .next (((s.modPart s.arg.p (fun x => { x with nextRound := s.now + 6 })).serveFirst s.arg.p [r]).kick s.arg.p) := by
  change execPelorusRound s = _
  unfold execPelorusRound
  simp [hfrozen, hpaused, hz, hone, hsince, Part.insReq]

/-- A victim's pages are free: no request waits for it any more. -/
theorem exec_pelorusRound_saved (hz : s.arg.z = 1) : exec .pelorusRound s = .next ((s.modPart s.arg.p (fun x =>
    { x with requests := x.requests.map (fun r => { r with saving := r.saving.filter (· != s.arg.id) }) })).kick s.arg.p) := by
  change execPelorusRound s = _
  unfold execPelorusRound
  simp [hz]

/-- A partition that is frozen or paused has no round. -/
theorem exec_pelorusRound_stopped (hz : s.arg.z ≠ 1) (h : (s.part s.arg.p).frozen = true ∨ (s.part s.arg.p).vf.state = .paused) :
    exec .pelorusRound s = .next s := by
  change execPelorusRound s = _
  unfold execPelorusRound
  simp [hz, h]

/-- The round that a saved Inst's eligibility asks for readmits what it can. -/
theorem exec_pelorusRound_readmit (hfrozen : (s.part s.arg.p).frozen = false) (hpaused : (s.part s.arg.p).vf.state ≠ .paused)
    (hz : s.arg.z = 2) : exec .pelorusRound s = .next (s.readmit s.arg.p) := by
  change execPelorusRound s = _
  unfold execPelorusRound
  simp [hfrozen, hpaused, hz]

/-- A request is promoted where it was, or has waited for more than 4,096 fclk. -/
theorem exec_requestPromote (s : State) : exec .requestPromote s =
    .next ((s.modPart s.arg.p (fun x => { x with requests := x.requests.map (fun r =>
      { r with promoted := r.promoted || decide (r.since + 4096 < s.now) }) })).kick s.arg.p) := by
  have hone : ∀ r : Request, (if r.since + 4096 < s.now then { r with promoted := true } else r) =
      { r with promoted := r.promoted || decide (r.since + 4096 < s.now) } := by
    intro r
    split <;> simp [*]
  change execRequestPromote s = _
  unfold execRequestPromote
  simp only [hone]

end

/-! ### Starting an Inst (R9, R182, R185, R190) -/

/-- A change of priorities only adds to the agenda. -/
theorem State.prioChanged_adds (s : State) (p : Nat) (a : List ((Bool × Nat) × Nat × Nat)) (b : List WftEnt) : s.Adds (s.prioChanged p a b) :=
  foldl_adds _ (fun s _ => ite_keeps (P := s.Adds) (.refl s) (s.sched_adds ..)) _ s

/-- From s to t a partition keeps its Inst records and their generations, and no pending step is lost. -/
structure State.KeepsInsts (p : Nat) (s t : State) : Prop where
  now : t.now = s.now
  mem : t.mem = s.mem
  insts : (t.part p).insts = (s.part p).insts
  idGen : (t.part p).idGen = (s.part p).idGen
  agenda : ∀ x ∈ s.agenda, x ∈ t.agenda

section
variable {s t u : State} {p : Nat}

theorem State.KeepsInsts.refl (s : State) : s.KeepsInsts p s := ⟨rfl, rfl, rfl, rfl, fun _ h => h⟩

theorem State.KeepsInsts.trans (h : s.KeepsInsts p t) (g : t.KeepsInsts p u) : s.KeepsInsts p u :=
  ⟨g.now.trans h.now, g.mem.trans h.mem, g.insts.trans h.insts, g.idGen.trans h.idGen, fun x hx => g.agenda x (h.agenda x hx)⟩

theorem State.Adds.keepsInsts (h : s.Adds t) : s.KeepsInsts p t :=
  ⟨h.grows.now, h.mem, by rw [h.part], by rw [h.part], h.agenda⟩

theorem State.modPage_keepsInsts (s : State) (p pg : Nat) (f : Page → Page) : s.KeepsInsts p (s.modPage p pg f) :=
  ⟨rfl, rfl, part_modPart Part.insts s p p _ (fun _ => rfl) fun _ => rfl, part_modPart Part.idGen s p p _ (fun _ => rfl) fun _ => rfl, fun _ h => h⟩

theorem foldl_keepsInsts {β : Type} (f : State → β → State) (hf : ∀ s x, State.KeepsInsts p s (f s x)) (l : List β) (s : State) :
    s.KeepsInsts p (l.foldl f s) :=
  foldl_keeps (P := s.KeepsInsts p) (.refl s) fun u x h => h.trans (hf u x)

/-- The partition that was updated, where one has its number. -/
theorem part_of_mem (hp : ∃ x ∈ s.parts, x.num = p) (f : Part → Part) (hf : ∀ x, (f x).num = x.num) : (s.modPart p f).part p = f (s.part p) := by
  obtain ⟨x, hx, hn⟩ := hp
  have hfind : (s.parts.find? (fun x => x.num == p)).isSome = true := List.find?_isSome.mpr ⟨x, hx, by simpa using hn⟩
  obtain ⟨y, hy⟩ := Option.isSome_iff_exists.mp hfind
  unfold State.modPart State.part
  dsimp only
  rw [find_map' s.parts Part.num p f hf, hy]
  rfl

end

/-- What a grant makes of a request: one strand for each page of its rectangle, its arguments, and what its descriptor says. -/
structure Inst.StartsAs (i : Inst) (r : Request) (rect : List Nat) (fold : Bool) (id gen age : Nat) (o : Origin) : Prop where
  id : i.id = id
  gen : i.gen = gen
  status : i.status = .running
  strands : ∃ f : Nat → Strand, i.strands = (List.range rect.length).map f ∧
    ∀ k, (f k).num = k ∧ (f k).pg = (rect[k]?).getD 0 ∧ (f k).ended = false ∧ (f k).host = !fold
  base : i.base = r.desc.prio
  age : i.age = age
  wins : i.wins = r.wins
  origin : i.origin = o
  nregs : i.nregs = r.desc.nregs
  regs : i.regs = r.regs

/-- What a grant to a call does last: its caller's priority reaches the callee (R257). -/
theorem State.adds_called {s t : State} {p : Nat} (h : s.Adds t) (k : ReqKind) (f : Nat → List ((Bool × Nat) × Nat × Nat)) :
    s.Adds (match k with
      | .call c _ => t.prioChanged p (f c) []
      | _ => t) := by
  cases k with
  | call => exact h.trans (State.prioChanged_adds ..)
  | _ => exact h

/-- A grant adds one Inst and its generation, and its callee begins after the delay of R190. -/
theorem State.newInst_adds (s : State) (p : Nat) (r : Request) (rect : List Nat) (fold pre : Bool) (id : Nat) (o : Origin) :
    ∃ (i : Inst) (f : Part → Part) (u : State) (a : Args) (src : Nat),
      (u.sched (s.now + (s.part p).startDelay r.kind r.pg rect fold pre) src .calleeStart a).Adds (s.newInst p r rect fold id o pre) ∧
      (s.modPart p f).KeepsInsts p u ∧
      (∀ x, (f x).num = x.num ∧ (f x).insts = x.insts ++ [i] ∧ (f x).idGen = kset x.idGen id i.gen) ∧
      (a.p = p ∧ a.id = id ∧ a.x = i.gen) ∧
      i.StartsAs r rect fold id (((kget (s.part p).idGen id).getD 0 + 1) % 8) s.ts o :=
  ⟨_, _, _, _, _,
    State.adds_called (ite_keeps (P := State.Adds _) (State.sched_adds ..) (.refl _)) r.kind (fun c => [((false, c), rect.headD 0 / 256, 0)]),
    foldl_keepsInsts _ (fun s _ => s.modPage_keepsInsts ..) _ _,
    fun _ => ⟨rfl, rfl, rfl⟩, ⟨rfl, rfl, rfl⟩,
    ⟨rfl, rfl, rfl, ⟨_, rfl, fun _ => ⟨rfl, rfl, rfl, rfl⟩⟩, rfl, rfl, rfl, rfl, rfl, rfl⟩⟩

/-- The pages of the strands are the rectangle's. -/
theorem map_getD_range (l : List Nat) : (List.range l.length).map (fun k => (l[k]?).getD 0) = l := by
  apply List.ext_getElem (by simp)
  intro k h1 h2
  simp [h2]

/-- The registers of a callee: its arguments, then blank ones. -/
theorem Request.regs_spec (r : Request) : r.regs.length = 64 ∧ (∀ g v, r.args[g]? = some v → g < 64 → r.regs[g]? = some v) ∧
    (∀ g, r.args.length ≤ g → g < 64 → r.regs[g]? = some ({} : Reg)) := by
  unfold Request.regs argRegs
  refine ⟨by simp, fun g v hv hg => ?_, fun g hn hg => ?_⟩
  · obtain ⟨hlt, rfl⟩ := List.getElem?_eq_some_iff.mp hv
    simp [hg, hlt]
  · simp [hg, Nat.not_lt.mpr hn]

/-- The callee's agenda entry, memory and Inst record after a grant. -/
theorem State.newInst_spec (s : State) (p : Nat) (r : Request) (rect : List Nat) (fold pre : Bool) (id : Nat) (o : Origin)
    (hp : ∃ x ∈ s.parts, x.num = p) :
    let t := s.newInst p r rect fold id o pre
    t.mem = s.mem ∧ ∃ i : Inst, i.StartsAs r rect fold id (((kget (s.part p).idGen id).getD 0 + 1) % 8) s.ts o ∧
      (t.part p).insts = (s.part p).insts ++ [i] ∧ kget (t.part p).idGen id = some i.gen ∧
      ∃ e ∈ t.agenda, e.ts = s.now + (s.part p).startDelay r.kind r.pg rect fold pre ∧
        ∃ a, e.act = .row .calleeStart a ∧ a.p = p ∧ a.id = id ∧ a.x = i.gen := by
  obtain ⟨i, f, u, a, src, hadds, hkeeps, hf, hargs, hstarts⟩ := s.newInst_adds p r rect fold pre id o
  have hpart : (s.modPart p f).part p = f (s.part p) := part_of_mem hp f fun x => (hf x).1
  obtain ⟨-, hinsts, hidGen⟩ := hf (s.part p)
  have hall := hkeeps.trans ((State.sched_adds ..).trans hadds).keepsInsts
  refine ⟨hall.mem, i, hstarts, ?_, ?_, ⟨_, hadds.agenda _ (State.mem_sched ..), rfl, a, rfl, hargs⟩⟩
  · rw [hall.insts, hpart, hinsts]
  · rw [hall.idGen, hpart, hidGen, kget_kset_same]

/-! ### The callee begins, and ends (R179, R190, R194) -/

section
variable {s : State} {p : Nat}

/-- A store that performs is on its way no more. -/
theorem State.performPosted_posted (s : State) (p wid : Nat) :
    ((s.performPosted p wid).part p).posted = (s.part p).posted.filter (fun v => v.wid != wid) := by
  unfold State.performPosted
  cases h : (s.part p).posted.find? (fun w => w.wid == wid) with
  | none =>
    refine (List.filter_eq_self.mpr fun v hv => ?_).symm
    simpa using List.find?_eq_none.mp h v hv
  | some w =>
    have hpart : (s.modPart p (fun x => { x with posted := x.posted.filter (fun v => v.wid != wid) })).part p = _ :=
      part_in s p _ (fun _ => rfl) fun e => by rw [e] at h; cases h
    dsimp only
    refine ite_keeps (P := fun u : State => (u.part p).posted = _) ?_ ?_
    · rw [State.badRead, (State.sched_adds ..).part, hpart]
    · unfold State.part at *
      rw [(State.lineWrite_accounts ..).parts]
      exact congrArg Part.posted hpart

/-- Stores that perform one after the other are all on their way no more, and no other store comes. -/
theorem State.foldl_performPosted_posted (l : List Posted) (s : State) :
    ∀ v ∈ ((l.foldl (fun s w => s.performPosted p w.wid) s).part p).posted, v ∈ (s.part p).posted ∧ ∀ w ∈ l, v.wid ≠ w.wid := by
  induction l generalizing s with
  | nil => exact fun v hv => ⟨hv, nofun⟩
  | cons w l ih =>
    intro v hv
    obtain ⟨hin, hother⟩ := ih _ v hv
    rw [State.performPosted_posted] at hin
    obtain ⟨hs, hw⟩ := List.mem_filter.mp hin
    exact ⟨hs, List.forall_mem_cons.mpr ⟨by simpa using hw, hother⟩⟩

/-- After a flush no store of the ID is on its way. -/
theorem State.flush_posted (s : State) (p id : Nat) : ∀ w ∈ ((s.flush p id).part p).posted, w.id ≠ id := by
  intro w hw hid
  obtain ⟨hs, hother⟩ := State.foldl_performPosted_posted _ s w hw
  exact hother w (List.mem_filter.mpr ⟨hs, by simpa using hid⟩) rfl

/-- A callee whose generation has passed does not begin. -/
theorem exec_calleeStart_stale (h : (s.inst s.arg.p s.arg.id).gen ≠ s.arg.x) : exec .calleeStart s = .next s := by
  change execCalleeStart s = _
  unfold execCalleeStart
  simp [h]

/-- A callee of one strand begins by fetching its entry block, the caller's stores having performed. -/
theorem exec_calleeStart_single {st : Strand} (hgen : (s.inst s.arg.p s.arg.id).gen = s.arg.x) (hone : (s.inst s.arg.p s.arg.id).strands = [st]) :
    let i := s.inst s.arg.p s.arg.id
    let t := if s.arg.z = 0 then s else s.flush s.arg.p s.arg.y
    exec .calleeStart s = .next (t.sched t.now (srcOf st.pg 0) .blockFetch { p := s.arg.p, pg := st.pg, id := i.id, tag := tagOf i.id i.gen }) := by
  intro i t
  change execCalleeStart s = _
  unfold execCalleeStart
  dsimp only
  rw [hone, if_neg (not_not.mpr hgen)]
  rfl

/-- The results of a call of a saved caller are held with its record. -/
theorem exec_callResult_saved (h : (s.inst s.arg.p s.arg.id).save ≠ none) :
    exec .callResult s = .next (s.holdSaved s.arg.p s.arg.id .callResult s.arg) := by
  change execCallResult s = _
  unfold execCallResult
  simp [Option.isSome_iff_ne_none.mpr h]

/-- The results of a call whose operands are not poisoned leave as they are. -/
theorem exec_callResult_clean {pg : Nat} {f : Fire} (hsave : (s.inst s.arg.p s.arg.id).save = none)
    (hf : s.fireOf s.arg.p s.arg.id s.arg.fid = some (pg, f)) (ho : (curOf s.arg.p pg f).firstOrigin = none)
    (hpt : origOf (curOf s.arg.p pg f).pt = none) : exec .callResult s =
      .next ((((s.answer s.arg.p pg s.arg.fid s.now s.arg.tok s.arg.tok1).wake s.arg.p pg).checkDone s.arg.p pg f.tag).kick s.arg.p) := by
  change execCallResult s = _
  unfold execCallResult
  simp only [hsave, hf, ho, hpt, ite_self, Option.isSome_none, Bool.false_eq_true, if_false]

/-- When the teardown has passed over all the pages of an ended Inst. -/
theorem Inst.torn_iff (i : Inst) (now : Nat) : (i.status == .ended && i.strands.all (fun t => t.ended && decide (t.endAt + 8 ≤ now))) = true ↔
    i.status = .ended ∧ ∀ st ∈ i.strands, st.ended = true ∧ st.endAt + 8 ≤ now := by simp

/-- With the teardown of its last page an ended Inst is gone. -/
theorem exec_teardown_gone (hended : (s.inst s.arg.p s.arg.id).status = .ended)
    (hall : ∀ st ∈ (s.inst s.arg.p s.arg.id).strands, st.ended = true ∧ st.endAt + 8 ≤ s.now) :
    let i := s.inst s.arg.p s.arg.id
    exec .teardown s = .next ((((s.sched s.now 0 .preemptionComplete { p := s.arg.p }).modPart s.arg.p (fun x =>
      { x with insts := x.insts.filter (fun j => j.id != i.id || j.gen != i.gen) })).readmit s.arg.p).kick s.arg.p) := by
  change execTeardown s = _
  unfold execTeardown
  exact congrArg Host.Outcome.next (if_pos ((Inst.torn_iff ..).mpr ⟨hended, hall⟩))

/-- Until then its pages alone are looked at. -/
theorem exec_teardown_waits (h : (s.inst s.arg.p s.arg.id).status ≠ .ended ∨
      ∃ st ∈ (s.inst s.arg.p s.arg.id).strands, st.ended = false ∨ s.now < st.endAt + 8) :
    exec .teardown s = .next (((s.sched s.now 0 .preemptionComplete { p := s.arg.p }).readmit s.arg.p).kick s.arg.p) := by
  change execTeardown s = _
  unfold execTeardown
  refine congrArg Host.Outcome.next (if_neg fun hdone => ?_)
  obtain ⟨hended, hall⟩ := (Inst.torn_iff _ s.now).mp hdone
  rcases h with hrun | ⟨st, hst, hlate⟩
  · exact hrun hended
  · have hgone := hall st hst
    rcases hlate with hlate | hlate
    · rw [hlate] at hgone; cases hgone.1
    · omega

end

/-! ### Speculative configuration (R46, R195, R196) -/

/-- A page that was not updated. -/
theorem page_modPage_ne (s : State) (p pg q qg : Nat) (f : Page → Page) (hn : ∀ y, (f y).num = y.num) (h : qg ≠ pg) :
    (s.modPage p pg f).page q qg = s.page q qg := by
  unfold State.modPage State.page
  rcases part_mod s p q (fun x => x.modPage pg f) (fun _ => rfl) with hpart | ⟨-, hpart⟩ <;> rw [hpart]
  exact (page_mod (s.part q) pg qg f hn).resolve_right fun hsame => h hsame.1

/-- Placing ahead notes a rectangle, and nothing else. -/
theorem exec_prePlace (s : State) : ∃ l : Part → List (Nat × Nat),
    exec .prePlace s = .next s ∨ exec .prePlace s = .next (s.modPart s.arg.p (fun x => { x with prePlaced := l x })) := by
  change ∃ l : Part → List (Nat × Nat), execPrePlace s = .next s ∨ execPrePlace s = _
  unfold execPrePlace
  dsimp only
  split
  · exact ⟨fun _ => [], .inl rfl⟩
  · exact ⟨_, .inr rfl⟩

/-- A speculative fetch changes the contexts of its page, and nothing else. -/
theorem exec_speculative (s : State) {g : Instr} (hg : g = .configPrefetch ∨ g = .contextFetch) :
    ∃ l : Page → List Nat, exec g s = .next (s.modPage s.arg.p s.arg.pg (fun y => { y with ctxs := l y })) := by
  rcases hg with rfl | rfl
  · exact ⟨_, rfl⟩
  · exact ⟨_, rfl⟩

/-- A page once the block at a VA stands in one of its free contexts. -/
def Page.prefetched (y : Page) (va : Nat) : Page :=
  let l := y.ctxs.filter (· != va) ++ [va]
  { y with ctxs := l.drop (l.length - (4 - y.liveCtx)) }

theorem exec_configPrefetch (s : State) : exec .configPrefetch s = .next (s.modPage s.arg.p s.arg.pg (fun y => y.prefetched s.arg.x)) := rfl

/-- Where a context is free, the block stands in one, and the contexts that live leave room for all. -/
theorem Page.prefetched_spec {y : Page} (h : y.liveCtx < 4) (va : Nat) :
    va ∈ (y.prefetched va).ctxs ∧ (y.prefetched va).ctxs.length ≤ 4 - y.liveCtx := by
  unfold Page.prefetched
  dsimp only
  rw [List.length_drop]
  refine ⟨?_, by omega⟩
  rw [List.drop_append_of_le_length (by simp; omega)]
  simp

/-- Settles O44: rounds, new Inst records, their start, results and teardown, and speculative fetches. -/
theorem placement : Obligations.Placement := by
  refine ⟨?round, ?rows, ?new, ?delays, ?life⟩
  case round =>
    intro s r p x u here hfrozen hpaused hz hone hsince hsaving hrect
    have hround : exec .pelorusRound s = .next (((u.seek p here).getD u).kick p) :=
      (exec_pelorusRound_single hfrozen hpaused hz hone hsince).trans (by rw [State.serveFirst_single hsaving hrect])
    refine ⟨fun hunfit => ?_, fun c fid rect id hk hsteps hfit hid => ?_⟩
    · rw [hround, State.seek_unfit (r := here) hunfit]
      rfl
    · rw [hround, State.seek_call (r := here) hk hfit hid hsteps, State.grant_call (r := here) hk hid]
      rfl
  case rows =>
    intro s x
    exact ⟨exec_pelorusRound_stopped, exec_pelorusRound_saved,
      exec_pelorusRound_readmit, exec_requestPromote s⟩
  case new =>
    intro s p r rect fold pre id o x t hp hrect
    obtain ⟨hmem, i, hi, hinsts, hidGen, hstart⟩ := s.newInst_spec p r rect fold pre id o hp
    obtain ⟨hlen, hargs, hblank⟩ := r.regs_spec
    obtain ⟨f, hstrands, hf⟩ := hi.strands
    refine ⟨hmem, i, hinsts, hi.id, hi.gen, hidGen, hi.status, ?_, ?_, ?_, hi.base, hi.age, hi.wins, hi.origin, hi.nregs, ?_⟩
    · rw [hstrands, List.map_map]
      exact (List.map_congr_left fun k _ => (hf k).2.1).trans (map_getD_range rect)
    · rw [hstrands, List.map_map]
      exact (List.map_congr_left fun k _ => (hf k).1).trans (List.map_id _)
    · rw [hstrands]
      exact List.forall_mem_map.mpr fun k _ => (hf k).2.2
    · rw [hi.regs]
      exact ⟨hlen, hargs, hblank, hstart⟩
  case delays =>
    intro x k pg c fid rect far
    refine ⟨?_, ?_, ?_, fun hk => ?_⟩
    · unfold Part.startDelay; simp [far]; omega
    · unfold Part.startDelay; simp [far]; omega
    · unfold Part.startDelay; simp [far]; omega
    · unfold Part.startDelay
      cases k with
      | call c fid => exact absurd rfl (hk c fid)
      | _ => simp [far]; omega
  case life =>
    intro s a p i
    refine ⟨exec_calleeStart_stale, ?begins, exec_callResult_saved, fun pg f => exec_callResult_clean,
      ⟨exec_teardown_gone, exec_teardown_waits⟩, ?ahead, ?frame, ?prefetch⟩
    case begins =>
      intro st hgen hone begins
      have hbegins := exec_calleeStart_single hgen hone
      refine ⟨fun hz => ?_, fun hz => ⟨?_, s.flush_posted p a.y⟩⟩
      · rw [hbegins, if_pos hz]
      · rw [hbegins, if_neg hz]
    case ahead =>
      obtain ⟨l, h | h⟩ := exec_prePlace s
      · exact ⟨_, h, rfl, rfl, rfl, rfl, rfl⟩
      · have hkeeps {α : Type} (π : Part → α) (hπ : ∀ x, π { x with prePlaced := l x } = π x) :=
          part_modPart π s p p (fun x => { x with prePlaced := l x }) (fun _ => rfl) hπ
        exact ⟨_, h, rfl, rfl, hkeeps Part.insts fun _ => rfl, hkeeps Part.pages fun _ => rfl, hkeeps Part.requests fun _ => rfl⟩
    case frame =>
      intro g hg
      obtain ⟨l, h⟩ := exec_speculative s hg
      have hkeeps {α : Type} (pg : Nat) (π : Page → α) (hπ : ∀ y, π { y with ctxs := l y } = π y) :=
        page_modPage π s p a.pg p pg (fun y => { y with ctxs := l y }) (fun _ => rfl) hπ
      exact ⟨_, h, rfl, rfl, (s.modPage_keepsInsts ..).insts, fun pg => ⟨hkeeps pg Page.ents fun _ => rfl,
        hkeeps pg Page.acts fun _ => rfl, hkeeps pg Page.fires fun _ => rfl, page_modPage_ne s p a.pg p pg _ (fun _ => rfl)⟩⟩
    case prefetch =>
      intro y hone hnum hlive hp
      have hpage : s.page p a.pg = y := by
        unfold State.page Part.page
        rw [hone]
        simp [hnum]
      have hhas : s.hasPage p a.pg := by
        unfold State.hasPage
        rw [hone]
        simp [hnum]
      refine ⟨_, exec_configPrefetch s, ?_⟩
      rw [hhas.page_in (fun y => y.prefetched a.x) fun _ => rfl, hpage]
      exact Page.prefetched_spec hlive a.x

end Sys2Proof.Machine
end

section
/-! PROOFS of the statements of number formats: rounding, conversions, trits and the codebook (R70 to R72, R78, R79, R116, R120, R122). -/

namespace Sys2Proof.Machine

/-! ### One rounding (R78) -/

/-- In no mode does an exact multiple of the grid round up. -/
theorem roundsUp_exact (rm : RMode) (neg odd : Bool) (sh : Nat) : roundsUp rm neg odd 0 sh false = false := by
  cases rm <;> simp [roundsUp]

/-- On a grid of 2^sh of the last place, the quotient is rounded up or kept, by what the rest is. -/
theorem roundAt_grid (rm : RMode) (neg : Bool) (m sh : Nat) (e : Int) : roundAt rm neg m e (e + sh) false =
    if roundsUp rm neg (m / 2 ^ sh % 2 == 1) (m % 2 ^ sh) sh false then m / 2 ^ sh + 1 else m / 2 ^ sh := by
  unfold roundAt
  cases sh with
  | zero => simp [Nat.mod_one, roundsUp_exact]
  | succ sh =>
    rw [if_neg (by omega)]
    simp [Nat.shiftRight_eq_div_pow]

/-- Settles O14: on the grid each mode rounds the quotient up, or keeps it, by the rest and the sign. -/
theorem roundingModes : Obligations.RoundingModes := by
  rintro neg m sh e _ rfl
  intro k up
  simp only [roundAt_grid]
  refine ⟨rfl, ?up, ?down, ?rne⟩
  case up => cases neg <;> by_cases h : m % 2 ^ sh = 0 <;> simp [roundsUp, k, up, h, Nat.pos_iff_ne_zero]
  case down => cases neg <;> by_cases h : m % 2 ^ sh = 0 <;> simp [roundsUp, k, up, h, Nat.pos_iff_ne_zero]
  case rne =>
    have htie : 2 ^ sh = 2 * (m % 2 ^ sh) → 0 < sh := fun h => Nat.pos_of_ne_zero fun h0 => by subst h0; simp [Nat.mod_one] at h
    rcases Nat.lt_trichotomy (2 * (m % 2 ^ sh)) (2 ^ sh) with hlt | heq | hgt
    · simp [roundsUp, k, hlt, hlt.not_gt, hlt.ne']
    · rcases Nat.mod_two_eq_zero_or_one k with hk | hk <;> simp [roundsUp, k, heq, htie heq.symm, hk]
    · simp [roundsUp, k, hgt, hgt.not_gt]

/-! ### Conversions of special values (R79, R92, R116) -/

/-- The FP32 words of infinities and NaNs (R64). -/
theorem decodeF_inf {w : Word} (h : w.toNat % 2 ^ 31 = 0x7F800000) : decodeF fp32 w.toNat = .inf (w.getLsbD 31) := by
  have hm : w.toNat % 8388608 = 0 := by omega
  have he : w.toNat >>> 23 % 256 = 255 := by rw [Nat.shiftRight_eq_div_pow]; omega
  simp [decodeF, fp32, hm, he, bitAt_toNat]
theorem decodeF_nan {w : Word} (h : fpNaN w) : decodeF fp32 w.toNat = .nan (w.getLsbD 31) := by
  unfold fpNaN at h
  have hm : w.toNat % 8388608 ≠ 0 := by omega
  have he : w.toNat >>> 23 % 256 = 255 := by rw [Nat.shiftRight_eq_div_pow]; omega
  simp [decodeF, fp32, hm, he, bitAt_toNat]

/-- The floating-point format that a conversion code narrows to, and the limits of the integer format (R76). -/
def narrowFmt (code : BitVec 5) : FFmt :=
  if code = 4 then fp16 else if code = 6 then bf16 else if code = 8 then e4m3 else if code = 10 then e5m2
  else if code = 12 then e3m2 else if code = 14 then e2m3 else e2m1
def intLimits (code : BitVec 5) : Int × Int :=
  if code = 0 then (-2147483648, 2147483647) else if code = 1 then (0, 4294967295) else if code = 18 then (-32768, 32767)
  else if code = 19 then (-128, 127) else if code = 20 then (0, 255) else (-8, 7)

/-- The words of those formats, by the conversion code: the canonical NaN, the sign bit, the largest finite value and the infinity (R64, R65). -/
def narrowCanon (code : BitVec 5) : Word := if code = 4 then 0x7E00 else if code = 6 then 0x7FC0 else if code = 8 then 0x7F else 0x7F
def narrowSign (code : BitVec 5) : Word :=
  if code = 4 ∨ code = 6 then 0x8000 else if code = 8 ∨ code = 10 then 0x80 else if code = 16 then 0x8 else 0x20
def narrowTop (code : BitVec 5) : Word := if code = 8 then 0x7E else if code = 16 then 0x7 else 0x1F
def narrowInf (code : BitVec 5) : Word := if code = 4 then 0x7C00 else if code = 6 then 0x7F80 else 0x7C

/-- They are the model's bits of the formats. -/
theorem word_canonNaN : ∀ code ∈ ([4, 6, 8, 10] : List (BitVec 5)), ∀ n,
    word (canonNaN (narrowFmt code) n) = narrowCanon code ||| (if n then narrowSign code else 0) := by decide
theorem word_maxBits : ∀ code ∈ ([8, 12, 14, 16] : List (BitVec 5)), ∀ n,
    word (maxBits (narrowFmt code) n) = narrowTop code ||| (if n then narrowSign code else 0) := by decide
theorem word_infBits : ∀ code ∈ ([4, 6, 10] : List (BitVec 5)), ∀ n,
    word (infBits (narrowFmt code) n) = narrowInf code ||| (if n then narrowSign code else 0) := by decide

/-- What narrows to them, with the event (R79): a format without a NaN or an infinity saturates. -/
theorem narrowF_canonical (rm : RMode) (n : Bool) : ∀ code ∈ ([4, 6, 8, 10] : List (BitVec 5)),
    narrowF (narrowFmt code) rm (.nan n) = (canonNaN (narrowFmt code) n, 0) := by
  simp only [List.forall_mem_cons]
  exact ⟨rfl, rfl, rfl, rfl, nofun⟩
theorem narrowF_noNaN (rm : RMode) (n : Bool) : ∀ code ∈ ([12, 14, 16] : List (BitVec 5)),
    narrowF (narrowFmt code) rm (.nan n) = (maxBits (narrowFmt code) n, 7) := by
  simp only [List.forall_mem_cons]
  exact ⟨rfl, rfl, rfl, nofun⟩
theorem narrowF_noInf (rm : RMode) (n : Bool) : ∀ code ∈ ([8, 12, 14, 16] : List (BitVec 5)),
    narrowF (narrowFmt code) rm (.inf n) = (maxBits (narrowFmt code) n, 6) := by
  simp only [List.forall_mem_cons]
  exact ⟨rfl, rfl, rfl, rfl, nofun⟩
theorem narrowF_infinite (rm : RMode) (n : Bool) : ∀ code ∈ ([4, 6, 10] : List (BitVec 5)),
    narrowF (narrowFmt code) rm (.inf n) = (infBits (narrowFmt code) n, 0) := by
  simp only [List.forall_mem_cons]
  exact ⟨rfl, rfl, rfl, nofun⟩

/-- A conversion to a narrower floating-point format narrows the decoded operand. -/
theorem convert_float (rm : RMode) (a : Nat) : ∀ code ∈ ([4, 6, 8, 10, 12, 14, 16] : List (BitVec 5)),
    convert code.toNat rm a = narrowF (narrowFmt code) rm (decodeF fp32 a) := by
  simp only [List.forall_mem_cons]
  exact ⟨rfl, rfl, rfl, rfl, rfl, rfl, rfl, nofun⟩

/-- A conversion to an integer format rounds the decoded operand within its limits. -/
theorem convert_int (rm : RMode) (a : Nat) : ∀ code ∈ ([0, 1, 18, 19, 20, 21] : List (BitVec 5)),
    convert code.toNat rm a = (wrap 32 (narrowI (intLimits code).1 (intLimits code).2 rm (decodeF fp32 a)).1,
      (narrowI (intLimits code).1 (intLimits code).2 rm (decodeF fp32 a)).2) := by
  simp only [List.forall_mem_cons]
  exact ⟨rfl, rfl, rfl, rfl, rfl, rfl, nofun⟩

/-- An integer as a word is its remainder modulo 2^32 as one. -/
theorem word_wrap (v : Int) : word (wrap 32 v) = BitVec.ofInt 32 v := by
  apply BitVec.eq_of_toNat_eq
  simp only [word, wrap, BitVec.toNat_ofNat, BitVec.toNat_ofInt]
  omega

/-- Without an event a result is its value. -/
theorem State.givesKind_zero (s : State) (lat : Nat) (t1 t0 : Target) (v : Word) : s.givesKind lat t1 t0 v 0 = s.gives lat t1 t0 v := if_pos (.inl rfl)

section
variable {s : State} {pr : BitVec 2} {t1 t0 : Target}

/-- FCVT and FCVTS give what the conversion gives, rounded as the block's RM says and stochastically. -/
theorem exec_fcvt (hv : s.cur.verdict pr = .run) (code : BitVec 5) :
    exec (.fcvt pr code t1 t0) s = s.givesNum 2 t1 t0 (convert code.toNat s.rm s.lv.toNat) := one_kind _ _ _ _ _ _ _ hv
theorem exec_fcvts (hv : s.cur.verdict pr = .run) (code : BitVec 5) :
    exec (.fcvts pr code t1 t0) s = s.givesNum 3 t1 t0
      (convert code.toNat (.stoch (stochWord s.cur.id s.cur.tile s.cur.tag.toNat s.curCommits)) s.lv.toNat) := one_kind _ _ _ _ _ _ _ hv

/-- Where a conversion does not depend on the mode, FCVT and FCVTS give the same value and event. -/
theorem exec_fcvt_special (hv : s.cur.verdict pr = .run) {code : BitVec 5} {n k : Nat} (hc : ∀ rm, convert code.toNat rm s.lv.toNat = (n, k)) {v : Word}
    (hw : word n = v) : exec (.fcvt pr code t1 t0) s = s.givesKind 2 t1 t0 v k ∧ exec (.fcvts pr code t1 t0) s = s.givesKind 3 t1 t0 v k := by
  subst hw
  rw [exec_fcvt hv, exec_fcvts hv, hc, hc]
  exact ⟨rfl, rfl⟩

/-- And where there is no event, that value alone. -/
theorem exec_fcvt_plain (hv : s.cur.verdict pr = .run) {code : BitVec 5} {n : Nat} (hc : ∀ rm, convert code.toNat rm s.lv.toNat = (n, 0)) {v : Word}
    (hw : word n = v) : exec (.fcvt pr code t1 t0) s = s.gives 2 t1 t0 v ∧ exec (.fcvts pr code t1 t0) s = s.gives 3 t1 t0 v := by
  simpa only [State.givesKind_zero] using exec_fcvt_special (t1 := t1) (t0 := t0) hv hc hw

end

/-- Settles O16: a NaN and the infinities by the format to which each code narrows. -/
theorem conversions : Obligations.Conversions := by
  intro s pr t1 t0 hv minus canon signBit top infOf lim
  have hnan : fpNaN s.lv → decodeF fp32 s.lv.toNat = .nan minus := decodeF_nan
  have hinf : s.lv.toNat % 2 ^ 31 = 0x7F800000 → decodeF fp32 s.lv.toNat = .inf minus := decodeF_inf
  have hfloat : ∀ {code : BitVec 5}, code ∈ ([4, 6, 8, 10, 12, 14, 16] : List (BitVec 5)) → ∀ {x : Num} {r : Nat × Nat},
      decodeF fp32 s.lv.toNat = x → (∀ rm, narrowF (narrowFmt code) rm x = r) → ∀ rm, convert code.toNat rm s.lv.toNat = r :=
    fun hcode x r hx hr rm => (convert_float rm _ _ hcode).trans (hx ▸ hr rm)
  have hint : ∀ {code : BitVec 5}, code ∈ ([0, 1, 18, 19, 20, 21] : List (BitVec 5)) → ∀ {x : Num}, decodeF fp32 s.lv.toNat = x → ∀ rm,
      convert code.toNat rm s.lv.toNat = (wrap 32 (narrowI (lim code).1 (lim code).2 rm x).1, (narrowI (lim code).1 (lim code).2 rm x).2) :=
    fun hcode x hx rm => hx ▸ convert_int rm _ _ hcode
  refine ⟨fun code => ⟨exec_fcvt hv code, exec_fcvts hv code⟩, fun code hcode => ⟨fun h => ?intNaN, fun h => ?intInf⟩, fun code hcode h => ?canonical,
    fun code hcode h => ?noNaN, fun code hcode h => ?noInf, fun code hcode h => ?infinite⟩
  case intNaN => exact exec_fcvt_special hv (hint hcode (hnan h)) rfl
  case intInf => exact exec_fcvt_special hv (hint hcode (hinf h)) (word_wrap _)
  case canonical =>
    exact exec_fcvt_plain hv (hfloat (by revert code; decide) (hnan h) fun rm => narrowF_canonical rm _ _ hcode) (word_canonNaN _ hcode _)
  case noNaN =>
    exact exec_fcvt_special hv (hfloat (by revert code; decide) (hnan h) fun rm => narrowF_noNaN rm _ _ hcode)
      (word_maxBits _ (List.mem_cons_of_mem _ hcode) _)
  case noInf =>
    exact exec_fcvt_special hv (hfloat (by revert code; decide) (hinf h) fun rm => narrowF_noInf rm _ _ hcode) (word_maxBits _ hcode _)
  case infinite =>
    exact exec_fcvt_plain hv (hfloat (by revert code; decide) (hinf h) fun rm => narrowF_infinite rm _ _ hcode) (word_infBits _ hcode _)

/-! ### Trits (R70, R71, R120) -/

/-- The multiplications of R70 divide a legal byte by the powers of 3, so its trits are its digits to base 3. -/
theorem tritDigit_eq {b i : Nat} (hb : b < 243) (hi : i < 5) : tritDigit b i = b / 3 ^ i % 3 := by
  obtain ⟨h0, h1, h2, h3, h4⟩ : b * 65536 / 65536 = b ∧ b * 21846 / 65536 = b / 3 ∧ b * 7282 / 65536 = b / 9 ∧ b * 2428 / 65536 = b / 27 ∧
      b * 810 / 65536 = b / 81 := by refine ⟨?_, ?_, ?_, ?_, ?_⟩ <;> omega
  have h5 : b / 81 < 3 := by clear h0 h1 h2 h3 h4; omega
  match i, hi with
  | 0, _ | 1, _ | 2, _ | 3, _ | 4, _ =>
    simp only [tritDigit, List.getElem?_cons_zero, List.getElem?_cons_succ, List.getElem?_nil, Nat.shiftRight_eq_div_pow, Nat.reducePow, Nat.div_one,
      h0, h1, h2, h3, h4, Nat.mod_eq_sub, Nat.div_div_eq_div_mul, Nat.div_eq_of_lt h5]

theorem tritCode_legal {b i : Nat} (hb : b < 243) (hi : i < 5) : tritCode b i = codeOfDigit (b / 3 ^ i % 3) := by
  have hd : b / 3 ^ i % 3 < 3 := Nat.mod_lt _ (by decide)
  unfold tritCode
  rw [if_neg (by omega), tritDigit_eq hb hi]
  match b / 3 ^ i % 3, hd with
  | 0, _ | 1, _ | 2, _ => rfl

/-- Code 10 stands for the trits of an illegal byte and no others (R71). -/
theorem tritCode_lt (b i : Nat) : tritCode b i < 4 := by
  unfold tritCode
  split
  · decide
  · split <;> decide
theorem tritCode_two (b i : Nat) : tritCode b i = 2 ↔ 243 ≤ b := by
  unfold tritCode
  split
  · simp [*]
  · split <;> simp [*]

section
variable (l : Word)

/-- The codes of a run of trits are the digits to base 4 of their number. -/
theorem tunpkCodes_lt (j n : Nat) : tunpkCodes l j n < 4 ^ n := by
  induction n generalizing j with
  | zero => exact Nat.one_pos
  | succ n ih =>
    have h : tunpkCode l j < 4 := tritCode_lt ..
    have := ih (j + 1)
    rw [tunpkCodes, Nat.pow_succ]
    omega
theorem tunpkCodes_digit {i n : Nat} (h : i < n) (j : Nat) : tunpkCodes l j n / 4 ^ i % 4 = tunpkCode l (j + i) := by
  induction n generalizing i j with
  | zero => omega
  | succ n ih =>
    have hc : tunpkCode l j < 4 := tritCode_lt ..
    rw [tunpkCodes]
    cases i with
    | zero => simp; omega
    | succ i => rw [Nat.pow_succ', ← Nat.div_div_eq_div_mul, show (tunpkCode l j + 4 * tunpkCodes l (j + 1) n) / 4 = tunpkCodes l (j + 1) n by omega,
        ih (by omega), Nat.add_right_comm, Nat.add_assoc]

/-- A run has an illegal code exactly where it has a trit of an illegal byte. -/
theorem tunpkBad_iff (j n : Nat) : tunpkBad l j n = true ↔ ∃ i < n, 243 ≤ (byteOf l ((j + i) / 5)).toNat := by
  induction n generalizing j with
  | zero => simp [tunpkBad]
  | succ n ih =>
    have hshift : ∀ i, j + 1 + i = j + (i + 1) := fun i => by omega
    simp only [tunpkBad, Bool.or_eq_true, beq_iff_eq, tunpkCode, tritCode_two, ih, Nat.exists_lt_succ_left, Nat.add_zero, hshift]

end

/-- Byte n of a word as a number. -/
theorem byteOf_toNat (w : Word) (n : Nat) : (byteOf w n).toNat = w.toNat / 256 ^ n % 256 := by
  rw [byteOf, BitVec.extractLsb'_toNat, Nat.shiftRight_eq_div_pow, Nat.pow_mul]

/-- TUNPK's two results: sixteen trits and four. -/
theorem word_tunpkCodes (l : Word) {j n : Nat} (hn : n ≤ 16) : (word (tunpkCodes l j n)).toNat = tunpkCodes l j n := by
  have h := tunpkCodes_lt l j n
  have hp : 4 ^ n ≤ 4 ^ 16 := Nat.pow_le_pow_right (by decide) hn
  rw [word, BitVec.toNat_ofNat, Nat.mod_eq_of_lt (by omega)]

section
variable {s : State} {pr : BitVec 2} {t1 t0 : Target}

theorem exec_tunpk : exec (.tunpk pr t1 t0) s = .next (s.two pr 2 t1 t0 ⟨word (tunpkCodes s.lv 0 16), if tunpkBad s.lv 0 16 then 8 else 0⟩
    ⟨word (tunpkCodes s.lv 16 4), if tunpkBad s.lv 16 4 then 8 else 0⟩) := rfl

/-- Two results where an operand is poisoned: whatever their events, they carry its origin. -/
theorem two_pois (hv : s.cur.verdict pr = .run) (ho : s.cur.firstOrigin ≠ none) (lat : Nat) (v0 v1 : Word) (k0 k1 : Nat) :
    Host.Outcome.next (s.two pr lat t1 t0 ⟨v0, k0⟩ ⟨v1, k1⟩) = s.givesTwo lat t1 t0 v0 v1 := by
  simp only [State.two, frame_run _ _ _ _ _ _ hv, mark_pois _ _ _ ho]
  rfl

/-- Two results of which the first alone has an event: it carries a new origin, and the second no poison. -/
theorem two_kind_zero (hv : s.cur.verdict pr = .run) (ho : s.cur.firstOrigin = none) (lat : Nat) (v0 v1 : Word) {k : Nat} (hk : k ≠ 0) :
    s.two pr lat t1 t0 ⟨v0, k⟩ ⟨v1, 0⟩ = (s.origin k).1.emit lat t0 t1 (withPoison (tokV v0) (some (s.origin k).2)) (tokV v1) := by
  simp only [State.two, frame_run _ _ _ _ _ _ hv, mark_kind _ _ _ hk ho, mark_zero, core_cur (origin_framed s k), ho]
  rfl

end

/-! ### The codebook (R72, R122) -/

/-- R72's parts of an index, in quarters: the magnitude of element j, the signed elements 0 to 6, their sum with the magnitude of element 7, the offset,
and element j itself. -/
def lc2Mag (l : Word) (j : Nat) : Int := if l.getLsbD (8 + j) then 6 else 2
def lc2Signed (l : Word) (j : Nat) : Int := if l.getLsbD (j + 1) then -lc2Mag l j else lc2Mag l j
def lc2Sum (l : Word) : Int := lc2Signed l 0 + lc2Signed l 1 + lc2Signed l 2 + lc2Signed l 3 + lc2Signed l 4 + lc2Signed l 5 + lc2Signed l 6 + lc2Mag l 7
def lc2Offset (l : Word) : Int := if l.getLsbD 0 then 1 else -1
def lc2Elem (l : Word) (j : Nat) : Int := (if j = 7 then (if lc2Sum l % 8 = 0 then lc2Mag l 7 else -lc2Mag l 7) else lc2Signed l j) + lc2Offset l

/-- The E4M3 byte of an odd number of quarters below 2. -/
def lc2Octet (q : Int) : BitVec 8 :=
  (if q < 0 then 0x80 else 0) ||| (if q.natAbs = 1 then 0x28 else if q.natAbs = 3 then 0x34 else if q.natAbs = 5 then 0x3A else 0x3E)

section
variable (l : Word)

theorem lc2Mag_cases (j : Nat) : lc2Mag l j = 6 ∨ lc2Mag l j = 2 := by
  unfold lc2Mag
  split <;> simp
theorem lc2Signed_cases (j : Nat) : lc2Signed l j ∈ ([-6, -2, 2, 6] : List Int) := by
  unfold lc2Signed
  rcases lc2Mag_cases l j with h | h <;> split <;> simp [h]

/-- Eight numbers that are 2 modulo 4 sum to a multiple of 4. -/
theorem lc2Sum_mod : lc2Sum l % 4 = 0 := by
  have hm : lc2Mag l 7 % 4 = 2 := by rcases lc2Mag_cases l 7 with h | h <;> rw [h] <;> rfl
  have hs : ∀ j, lc2Signed l j % 4 = 2 := fun j => (by decide : ∀ v ∈ ([-6, -2, 2, 6] : List Int), v % 4 = 2) _ (lc2Signed_cases l j)
  have h0 := hs 0; have h1 := hs 1; have h2 := hs 2; have h3 := hs 3; have h4 := hs 4; have h5 := hs 5; have h6 := hs 6
  unfold lc2Sum
  omega

/-- Every element is an odd number of quarters between -7 and 7. -/
theorem lc2Elem_cases (j : Nat) : lc2Elem l j ∈ ([-7, -5, -3, -1, 1, 3, 5, 7] : List Int) := by
  have hv : (if j = 7 then (if lc2Sum l % 8 = 0 then lc2Mag l 7 else -lc2Mag l 7) else lc2Signed l j) ∈ ([-6, -2, 2, 6] : List Int) := by
    split
    · rcases lc2Mag_cases l 7 with h | h <;> split <;> simp [h]
    · exact lc2Signed_cases l j
  have ho : lc2Offset l ∈ ([1, -1] : List Int) := by
    unfold lc2Offset
    split <;> simp
  exact (by decide : ∀ v ∈ ([-6, -2, 2, 6] : List Int), ∀ o ∈ ([1, -1] : List Int), v + o ∈ ([-7, -5, -3, -1, 1, 3, 5, 7] : List Int)) _ hv _ ho

/-- A low bit of an index is that bit of the operand. -/
theorem bitAt_index {k : Nat} (hk : k < 16) : bitAt (l.toNat % 65536) k = l.getLsbD k := by
  rw [show l.toNat % 65536 = (l.setWidth 16).toNat by simp, bitAt_toNat, BitVec.getLsbD_setWidth]
  simp [hk]

theorem lc2Quarters_eq : lc2Quarters (l.toNat % 65536) =
    [lc2Elem l 0, lc2Elem l 1, lc2Elem l 2, lc2Elem l 3, lc2Elem l 4, lc2Elem l 5, lc2Elem l 6, lc2Elem l 7] := by
  have hsum := lc2Sum_mod l
  have hpar : lc2Sum l / 4 % 2 = 0 ↔ lc2Sum l % 8 = 0 := by omega
  have hfold : lc2Mag l 7 + lc2Signed l 0 + lc2Signed l 1 + lc2Signed l 2 + lc2Signed l 3 + lc2Signed l 4 + lc2Signed l 5 + lc2Signed l 6 = lc2Sum l := by
    unfold lc2Sum
    omega
  have hbit : ∀ k < 16, bitAt (l.toNat % 65536) k = l.getLsbD k := fun k hk => bitAt_index l hk
  have hlast : lc2Elem l 7 = (if lc2Sum l / 4 % 2 = 0 then lc2Mag l 7 else -lc2Mag l 7) + lc2Offset l := by simp only [lc2Elem, hpar, if_true]
  rw [hlast, ← hfold]
  simp only [lc2Quarters, hbit, Nat.reduceAdd, Nat.reduceLT, List.foldl_cons, List.foldl_nil]
  rfl

end

/-- An odd number of quarters is exact in E4M3. -/
theorem lc2Byte_eq : ∀ q ∈ ([-7, -5, -3, -1, 1, 3, 5, 7] : List Int), lc2Byte q = (lc2Octet q).toNat := by decide

/-- Four bytes side by side. -/
theorem word_bytes (a b c d : BitVec 8) : word (a.toNat + 256 * b.toNat + 65536 * c.toNat + 16777216 * d.toNat) = d ++ c ++ b ++ a := by
  apply BitVec.eq_of_toNat_eq
  simp only [word, BitVec.toNat_ofNat, append_toNat]
  omega

theorem lc2Word_elems (l : Word) (a b c d : Nat) : lc2Word [lc2Elem l a, lc2Elem l b, lc2Elem l c, lc2Elem l d] =
    lc2Octet (lc2Elem l d) ++ lc2Octet (lc2Elem l c) ++ lc2Octet (lc2Elem l b) ++ lc2Octet (lc2Elem l a) := by
  simp only [lc2Word, lc2Byte_eq _ (lc2Elem_cases l _), word_bytes]

/-- LCDEC gives the elements of its operand. -/
theorem exec_lcdec {s : State} {pr : BitVec 2} {t1 t0 : Target} (hv : s.cur.verdict pr = .run) : exec (.lcdec pr t1 t0) s = s.givesTwo 1 t1 t0
    (lc2Word [lc2Elem s.lv 0, lc2Elem s.lv 1, lc2Elem s.lv 2, lc2Elem s.lv 3]) (lc2Word [lc2Elem s.lv 4, lc2Elem s.lv 5, lc2Elem s.lv 6, lc2Elem s.lv 7]) := by
  have h : exec (.lcdec pr t1 t0) s = .next (s.two pr 1 t1 t0 ⟨lc2Word ((lc2Quarters (s.lv.toNat % 65536)).take 4), 0⟩
    ⟨lc2Word ((lc2Quarters (s.lv.toNat % 65536)).drop 4), 0⟩) := rfl
  rw [h, two_zero _ _ _ _ _ _ _ hv, lc2Quarters_eq]
  rfl

/-- Settles O18: the trits of TUNPK are digits to base 3, and LCDEC's elements odd quarters. -/
theorem tritsAndCodebook : Obligations.TritsAndCodebook := by
  refine ⟨?tunpk, ?lcdec⟩
  case tunpk =>
    intro s pr t1 t0 hv b code
    have hb : ∀ n, (byteOf s.lv n).toNat = b n := byteOf_toNat _
    have hcode : ∀ j, tunpkCode s.lv j = code j := fun j => by
      unfold tunpkCode code
      rw [hb]
      split
      · exact (tritCode_two ..).mpr ‹_›
      · exact tritCode_legal (by omega) (Nat.mod_lt _ (by decide))
    have hbad : ∀ j n, tunpkBad s.lv j n = true ↔ ∃ i < n, 243 ≤ b ((j + i) / 5) := by simp only [tunpkBad_iff, hb, implies_true]
    refine ⟨word (tunpkCodes s.lv 0 16), word (tunpkCodes s.lv 16 4), fun j hj => ?_, ?_, fun j hj => ?_, fun h => ?legal, fun ho => ?poisoned,
      fun ho hill h3 => ?illegal⟩
    · rw [word_tunpkCodes _ (by decide), tunpkCodes_digit _ hj, Nat.zero_add, hcode]
    · rw [word_tunpkCodes _ (by decide)]
      exact tunpkCodes_lt ..
    · rw [word_tunpkCodes _ (by decide), tunpkCodes_digit _ hj, hcode]
    case legal =>
      have hno : ∀ j n, j + n ≤ 20 → ¬ tunpkBad s.lv j n = true := fun j n hn hb' => by
        obtain ⟨i, hi, hill⟩ := (hbad j n).mp hb'
        exact absurd (h ((j + i) / 5) (by omega)) (by omega)
      rw [exec_tunpk, if_neg (hno 0 16 (by decide)), if_neg (hno 16 4 (by decide))]
      exact two_zero _ _ _ _ _ _ _ hv
    case poisoned => exact two_pois hv ho ..
    case illegal =>
      obtain ⟨n, hn, hill⟩ := hill
      have hn3 : n ≠ 3 := by rintro rfl; omega
      have h0 : tunpkBad s.lv 0 16 = true := (hbad 0 16).mpr ⟨5 * n, by omega, by rwa [Nat.zero_add, Nat.mul_div_cancel_left _ (by decide)]⟩
      have h1 : ¬ tunpkBad s.lv 16 4 = true := fun hb' => by
        obtain ⟨i, hi, hill⟩ := (hbad 16 4).mp hb'
        rw [show (16 + i) / 5 = 3 by omega] at hill
        omega
      rw [exec_tunpk, if_pos h0, if_neg h1, two_kind_zero hv ho _ _ _ (by decide)]
  case lcdec =>
    intro s pr t1 t0 hv x m v t off e octet
    refine ⟨lc2Sum_mod s.lv, ?_⟩
    rw [exec_lcdec hv, lc2Word_elems, lc2Word_elems]
    rfl

end Sys2Proof.Machine
end

section
/-! PROOFS of the statements of the scalar instructions: what a firing of the chapter may change (R83, R89). -/

namespace Sys2Proof.Machine

/-- How a firing of the chapter can end: it gives nothing, sends tokens without an origin of its own, or marks and sends one or two results; the first of
two has no event unless `both` holds. -/
inductive State.Fired (s : State) (both : Prop) : State → Prop
  | silent : Fired s both s.silent
  | sent (lat t0 t1 r0 r1) : Fired s both (s.emit lat t0 t1 r0 r1)
  | one (pr lat t1 t0 r) : Fired s both (s.one pr lat t1 t0 r)
  | two (pr lat t1 t0 r0 r1) (h : r0.kind = 0 ∨ both) : Fired s both (s.two pr lat t1 t0 r0 r1)

/-- The instructions of which both results can have events: FBFLY and TUNPK. -/
def TwoEvents (i : Instr) : Prop := ∃ pr t1 t0, i = .fbfly pr t1 t0 ∨ i = .tunpk pr t1 t0

section
variable {s t : State} {both : Prop}

/-- What holds of a firing that runs, of one that gives nothing and of one that sends nulls holds of it in the frame of R91, and in that of R93. -/
theorem frame_of_run {P : State → Prop} {pr lat t1 t0} {run : State → State} (hrun : P (run s)) (hsilent : P s.silent)
    (hsent : ∀ r, P (s.emit lat t0 t1 r r)) : P (s.frame pr lat t1 t0 run) := by
  unfold State.frame
  split
  · exact hrun
  · exact hsilent
  · exact hsent _
theorem rawFrame_of_run {P : State → Prop} {pr lat t1 t0} {run : State → State} (hrun : P (run s)) (hsilent : P s.silent)
    (hsent : ∀ r, P (s.emit lat t0 t1 r r)) : P (s.rawFrame pr lat t1 t0 run) := by
  unfold State.rawFrame
  split
  · exact hrun
  · exact hsilent
  · exact hsent _

/-- Every instruction of the chapter ends so. -/
theorem exec_fired_of_scalarForm {i : Instr} {form} (h : scalarForm i = some form) (s : State) : ∃ t, exec i s = .next t ∧ s.Fired (TwoEvents i) t := by
  cases i
  case fbfly => exact ⟨_, rfl, .two _ _ _ _ _ _ (.inr ⟨_, _, _, .inl rfl⟩)⟩
  case tunpk => exact ⟨_, rfl, .two _ _ _ _ _ _ (.inr ⟨_, _, _, .inr rfl⟩)⟩
  case bfly | addc | subb | lcdec => exact ⟨_, rfl, .two _ _ _ _ _ _ (.inl rfl)⟩
  case sel => exact ⟨_, rfl, frame_of_run (.sent ..) .silent fun _ => .sent ..⟩
  all_goals cases h <;> exact ⟨_, rfl, .one ..⟩

theorem exec_fired {i : Instr} (h : scalarForm i ≠ none ∨ ∃ pr t1 t0, i = .mov pr t1 t0 ∨ i = .null pr t1 t0) (hrun : exec i s = .next t) :
    s.Fired (TwoEvents i) t := by
  obtain h | ⟨pr, t1, t0, rfl | rfl⟩ := h
  · obtain ⟨form, hform⟩ := Option.ne_none_iff_exists'.mp h
    obtain ⟨u, hu, hfired⟩ := exec_fired_of_scalarForm hform s
    cases hrun.symm.trans hu
    exact hfired
  · cases hrun
    exact rawFrame_of_run (.sent ..) .silent fun _ => .sent ..
  · cases hrun
    exact frame_of_run (.sent ..) .silent fun _ => .sent ..

/-- The bytes of the log entries that a firing can write: that of its own next origin, and where it has two events that of the one after. -/
def EntryBytes (s : State) (both : Prop) (a : Nat) : Prop := OriginBytes s a ∨ both ∧ ∃ k, OriginBytes (s.origin k).1 a

/-- A firing changes its own record, the count of origins, and the bytes of its log entries. -/
theorem State.Fired.framed (h : s.Fired both t) : Framed s.cur.p s.cur.pg s.cur.fid (EntryBytes s both) s t := by
  cases h with
  | silent => exact silent_framed _ _ _ _ rfl
  | sent => exact emit_framed _ _ _ _ _ _ _ _ _ rfl
  | one => exact (one_framed ..).mono fun _ => .inl
  | two _ _ _ _ _ _ h => exact two_framed _ _ _ _ _ _ _ _ (fun _ => .inl) fun a hk ha => .inr ⟨h.resolve_left hk, _, ha⟩

/-- t is s after a firing that only sends, or gives nothing. -/
def State.Sends (s t : State) : Prop := t = s.silent ∨ ∃ lat t0 t1 r0 r1, t = s.emit lat t0 t1 r0 r1
theorem State.Sends.emit (s : State) (lat t0 t1 r0 r1) : s.Sends (s.emit lat t0 t1 r0 r1) := .inr ⟨_, _, _, _, _, rfl⟩

/-- With a poisoned operand a firing takes no origin, and is such a one. -/
theorem State.Fired.sends_of_pois (h : s.Fired both t) (ho : s.cur.firstOrigin ≠ none) : s.Sends t := by
  have hmark : ∀ r, (s.mark r).1 = s := fun ⟨v, k⟩ => by rw [mark_pois _ _ _ ho]
  cases h with
  | silent => exact .inl rfl
  | sent => exact .emit ..
  | one => exact frame_of_run (by simp only [hmark]; exact .emit ..) (.inl rfl) fun _ => .emit ..
  | two => exact frame_of_run (by simp only [hmark]; exact .emit ..) (.inl rfl) fun _ => .emit ..

/-- Sending and giving nothing leave memory and every CSR. -/
theorem emit_csr (s : State) (lat t0 t1 r0 r1) (q : Nat) : ((s.emit lat t0 t1 r0 r1).part q).csr = (s.part q).csr := by
  unfold State.emit State.modFire
  rw [State.modPage_csr, State.modPage_csr, (State.send_adds ..).part, (State.send_adds ..).part]
theorem emit_mem (s : State) (lat t0 t1 r0 r1) : (s.emit lat t0 t1 r0 r1).mem = s.mem :=
  (State.send_adds ..).mem.trans (State.send_adds ..).mem

theorem State.Fired.still_of_pois (h : s.Fired both t) (ho : s.cur.firstOrigin ≠ none) : t.mem = s.mem ∧ ∀ p, (t.part p).csr = (s.part p).csr := by
  obtain rfl | ⟨lat, t0, t1, r0, r1, rfl⟩ := h.sends_of_pois ho
  · exact ⟨rfl, fun p => s.modPage_csr ..⟩
  · exact ⟨emit_mem .., emit_csr s lat t0 t1 r0 r1⟩

end

/-- Settles O21: every firing of the chapter is framed, and one with a poisoned operand takes no origin. -/
theorem scalarFrame : Obligations.ScalarFrame := by
  intro s t i hi hrun hsound
  have hfired := exec_fired hi hrun
  obtain ⟨hcore, hpart, hpage, hfire, hcsr, hbyte, -⟩ := hfired.framed
  have hwf : Mem.wf s.mem = true := hsound.1
  refine ⟨hcore, hpart, hpage, hfire, hcsr, fun a hown htwo => hbyte hwf a ?outside, fun ho => ?poisoned⟩
  case outside =>
    rintro (⟨pa, hpa, hle, hlt⟩ | ⟨hboth, k, pa, hpa, hle, hlt⟩)
    · exact (hown pa hpa).elim (by omega) (by omega)
    · exact (htwo k pa hboth hpa).elim (by omega) (by omega)
  case poisoned =>
    obtain ⟨hmem, hcsr⟩ := hfired.still_of_pois ho
    exact ⟨hmem, fun p n => by unfold Part.csrN; rw [hcsr]⟩

end Sys2Proof.Machine
end

section
/-! PROOFS of the statements of matrix islands: what leaves the islands as they are (R263, R264, R331). -/

namespace Sys2Proof.Machine

/-! ### Operations that leave every island as it is -/

theorem Page.modHist_island (y : Page) (tile : Nat) (f : Hist → Hist) : (y.modHist tile f).island = y.island := by
  unfold Page.modHist
  split <;> rfl

section
variable {s t : State} {z : Nat → Nat → Island}

/-- A state's islands are in its partitions. -/
theorem isl_of_parts (h : t.parts = s.parts) : t.isl = s.isl := by
  unfold State.isl State.page State.part
  rw [h]
theorem State.Adds.isl (h : s.Adds t) : t.isl = s.isl := isl_of_parts h.parts

/-- An update of a partition but for its pages, and one of a page but for its island. -/
theorem isl_modPart {p : Nat} {f : Part → Part} (h : s.isl = z) (hn : ∀ x, (f x).num = x.num) (hp : ∀ x, (f x).pages = x.pages) :
    (s.modPart p f).isl = z := by
  rw [← h]
  funext q qg
  unfold State.isl State.page Part.page
  rw [part_modPart Part.pages s p q f hn hp]
theorem isl_modPage {p pg : Nat} {f : Page → Page} (h : s.isl = z) (hn : ∀ y, (f y).num = y.num) (hi : ∀ y, (f y).island = y.island) :
    (s.modPage p pg f).isl = z := by
  rw [← h]
  exact funext₂ fun _ _ => page_modPage Page.island s p pg _ _ f hn hi

/-- Steps taken one after the other, and a choice. -/
theorem isl_foldl {β : Type} {f : State → β → State} (l : List β) (h : s.isl = z) (hf : ∀ u x, u.isl = z → (f u x).isl = z) : (l.foldl f s).isl = z :=
  foldl_keeps (P := fun t : State => t.isl = z) h hf
theorem isl_ite {c : Prop} [Decidable c] (h : s.isl = z) (g : t.isl = z) : (if c then s else t).isl = z :=
  ite_keeps (P := fun t : State => t.isl = z) h g

theorem isl_modFire {p pg fid : Nat} {g : Fire → Fire} (h : s.isl = z) : (s.modFire p pg fid g).isl = z := isl_modPage h (fun _ => rfl) fun _ => rfl
theorem isl_dropFire {p pg fid : Nat} (h : s.isl = z) : (s.dropFire p pg fid).isl = z := isl_modPage h (fun _ => rfl) fun _ => rfl
theorem isl_modAct {p pg : Nat} {tag : Tag} {f : Act → Act} (h : s.isl = z) : (s.modAct p pg tag f).isl = z := isl_modPage h (fun _ => rfl) fun _ => rfl
theorem isl_modInst {p id : Nat} {f : Inst → Inst} (h : s.isl = z) : (s.modInst p id f).isl = z := isl_modPart h (fun _ => rfl) fun _ => rfl
theorem isl_setCsrF {p n hi lo v : Nat} (h : s.isl = z) : (s.setCsrF p n hi lo v).isl = z := isl_modPart h (fun _ => rfl) fun _ => rfl
theorem isl_sched {at' src : Nat} {i : Instr} {a : Args} (h : s.isl = z) : (s.sched at' src i a).isl = z := (s.sched_adds ..).isl.trans h
theorem isl_cancel {dead : Instr → Args → Bool} (h : s.isl = z) : (s.cancel dead).isl = z := (isl_of_parts rfl).trans h
theorem isl_badRead {p key : Nat} (h : s.isl = z) : (s.badRead p key).isl = z := isl_sched h
theorem isl_checkDone {p pg : Nat} {tag : Tag} (h : s.isl = z) : (s.checkDone p pg tag).isl = z := by
  obtain e | ⟨t, i, e⟩ := s.checkDone_cases p pg tag
  · rwa [e]
  · rw [e]; exact (State.schedCommit_adds ..).isl.trans (isl_modAct h)

/-! ### Answering and dropping a command's firing (R263) -/

theorem State.drainedBy_adds (s : State) (p pg : Nat) (f : Fire) : s.Adds (s.drainedBy p pg f) :=
  foldl_adds _ (fun s _ => ite_keeps (P := s.Adds) (.refl s) (s.sched_adds ..)) _ s

/-- An answer sends tokens and then notes in the page that it has left. -/
theorem State.answer_cases (s : State) (p pg fid leaves : Nat) (r0 r1 : Token) : s.answer p pg fid leaves r0 r1 = s ∨ ∃ u id, s.Adds u ∧
    s.answer p pg fid leaves r0 r1 =
      (u.modPage p pg (fun y => y.stir id leaves)).modFire p pg fid (fun f => { f with leaves := leaves, phase := .run, acted := true }) := by
  unfold State.answer
  split
  · exact .inl rfl
  · exact .inr ⟨_, _, (s.send_adds _ _ _ _).trans (State.send_adds _ _ _ _ _), rfl⟩
theorem State.answer_grows (s : State) (p pg fid leaves : Nat) (r0 r1 : Token) : s.Grows (s.answer p pg fid leaves r0 r1) := by
  obtain h | ⟨u, id, hu, h⟩ := s.answer_cases p pg fid leaves r0 r1
  · rw [h]; exact .refl s
  · rw [h]; exact (hu.grows.trans (u.modPart_grows ..)).trans (State.modPart_grows ..)
theorem isl_answer {p pg fid leaves : Nat} {r0 r1 : Token} (h : s.isl = z) : (s.answer p pg fid leaves r0 r1).isl = z := by
  obtain e | ⟨u, id, hu, e⟩ := s.answer_cases p pg fid leaves r0 r1
  · rwa [e]
  · rw [e]; exact isl_modFire (isl_modPage (hu.isl.trans h) (fun _ => rfl) fun _ => rfl)

theorem State.engineAnswer_grows (s : State) (p pg fid leaves : Nat) (t : Token) : s.Grows (s.engineAnswer p pg fid leaves t) := by
  unfold State.engineAnswer
  split
  · exact .refl s
  · rename_i f _
    have h : s.Grows ((s.answer p pg fid leaves t t).drainedBy p pg f) := (s.answer_grows ..).trans (State.drainedBy_adds ..).grows
    refine ite_keeps (P := s.Grows) ?_ (h.trans (State.checkDone_grows ..))
    exact (h.trans (State.modPart_grows ..)).trans (State.drainedBy_adds ..).grows
theorem isl_engineAnswer {p pg fid leaves : Nat} {r : Token} (h : s.isl = z) : (s.engineAnswer p pg fid leaves r).isl = z := by
  unfold State.engineAnswer
  split
  · exact h
  · rename_i f _
    have hd : ((s.answer p pg fid leaves r r).drainedBy p pg f).isl = z := (State.drainedBy_adds ..).isl.trans (isl_answer h)
    exact isl_ite ((State.drainedBy_adds ..).isl.trans (isl_dropFire hd)) (isl_checkDone hd)

/-- A command that completes leaves its island, and nothing else of any island changes. -/
theorem isl_islDone (s : State) (p pg : Nat) (c : IslCmd) (v after : Nat) : (s.islDone p pg c v after).isl = (s.islDrop p pg c).isl := by
  unfold State.islDone
  dsimp only
  split
  · rfl
  · exact isl_engineAnswer rfl
theorem State.islDrop_grows (s : State) (p pg : Nat) (c : IslCmd) : s.Grows (s.islDrop p pg c) :=
  (State.modPart_grows ..).trans (State.sched_adds ..).grows
theorem State.islDone_grows (s : State) (p pg : Nat) (c : IslCmd) (v after : Nat) : s.Grows (s.islDone p pg c v after) := by
  unfold State.islDone
  dsimp only
  split
  · exact s.islDrop_grows ..
  · exact (s.islDrop_grows ..).trans (State.engineAnswer_grows ..)

/-! ### Taking a trap leaves every island as it is (R331) -/

theorem State.memWrite_parts (s : State) (key : Nat) (bs : List Byte) : (s.memWrite key bs).parts = s.parts := by
  have hlines (n : Nat) : ∀ (s : State) (l : Nat), (s.countLines l n).parts = s.parts := by
    induction n with
    | zero => exact fun s _ => rfl
    | succ n ih => exact fun s l => (ih _ _).trans (s.countLine_accounts l).parts
  unfold State.memWrite
  exact ite_keeps (P := fun t : State => t.parts = s.parts) rfl ((State.plaiterMark_accounts _ _).parts.trans (hlines _ _ _))

theorem isl_devEntry {p va : Nat} (h : s.isl = z) : ((s.devEntry p va).getD s).isl = z := by
  unfold State.devEntry State.devWrite
  split
  · rename_i k _
    exact (isl_badRead h : (s.badRead p k).isl = z)
  · split
    · split
      · exact (isl_of_parts (s.memWrite_parts ..)).trans h
      · exact h
    · exact h

theorem isl_spillTok {p pg tile : Nat} {tag : Tag} {q : Pos} {x : Arr} (h : s.isl = z) : (s.spillTok p pg tile tag q x).isl = z :=
  isl_modPage (isl_devEntry h) (fun y => y.modHist_num ..) fun y => y.modHist_island ..

theorem isl_putBack {p pg tile : Nat} {tag : Tag} {q : Pos} {x : Option Arr} (h : s.isl = z) : (s.putBack p pg tile tag q x).isl = z := by
  unfold State.putBack
  refine isl_ite (isl_modPage h (fun _ => rfl) fun _ => rfl) ?_
  split
  · exact isl_modPage h (fun _ => rfl) fun _ => rfl
  · exact isl_modPage h (fun _ => rfl) fun _ => rfl
  · exact isl_ite (isl_spillTok h) (isl_modPage h (fun _ => rfl) fun _ => rfl)

theorem isl_withdraw {p pg load : Nat} (h : s.isl = z) : (s.withdraw p pg load).isl = z := by
  have hput {c : Prop} [Decidable c] {u : State} {tile : Nat} {tag : Tag} {q : Pos} {x : Option Arr} (hu : u.isl = z) :
      (if c then u.putBack p pg tile tag q x else u).isl = z := isl_ite (isl_putBack hu) hu
  exact isl_foldl _ (isl_modPage (isl_cancel h) (fun _ => rfl) fun _ => rfl) fun _ _ hu => hput (hput (hput (hput hu)))

theorem isl_unsettle {p pg id gen : Nat} (h : s.isl = z) : (s.unsettle p pg id gen).isl = z := by
  refine isl_foldl _ h fun u n hu => ?_
  split
  · exact hu
  · exact isl_ite (isl_withdraw hu) hu

theorem isl_dropWft {p : Nat} {dead : WftEnt → Bool} (h : s.isl = z) : (s.dropWft p dead).isl = z :=
  isl_ite h ((State.prioChanged_adds ..).isl.trans (isl_setCsrF (isl_modPart h (fun _ => rfl) fun _ => rfl)))

theorem isl_feRetry {p : Nat} (h : s.isl = z) : (s.feRetry p).isl = z := by
  unfold State.feRetry
  split
  · exact h
  · exact isl_sched (isl_modPart h (fun _ => rfl) fun _ => rfl)

theorem isl_spillFreed {p : Nat} (h : s.isl = z) : (s.spillFreed p).isl = z := isl_ite (isl_sched h) h

theorem isl_sendStatus {p pg fid die v extra : Nat} (h : s.isl = z) : (s.sendStatus p pg fid die v extra).isl = z := by
  unfold State.sendStatus
  split
  · exact h
  · exact (s.send_adds ..).isl.trans h

theorem isl_wregStatus {p id name v extra : Nat} (h : s.isl = z) : (s.wregStatus p id name v extra).isl = z := by
  unfold State.wregStatus
  split
  · exact h
  · dsimp only
    split
    · exact isl_checkDone (isl_modPart (isl_modFire (isl_sendStatus h)) (fun _ => rfl) fun _ => rfl)
    · exact isl_modPart (isl_modFire (isl_sendStatus h)) (fun _ => rfl) fun _ => rfl

/-- A freeze takes nothing from an island: its commands stop at their next boundary. -/
theorem isl_freeze {p id : Nat} (h : s.isl = z) : (s.freeze p id).isl = z := by
  refine isl_modPart (isl_foldl _ ?_ fun _ _ hu => isl_wregStatus hu) (fun _ => rfl) fun _ => rfl
  refine isl_modInst (isl_spillFreed (isl_feRetry (isl_foldl _ ?_ fun _ _ hu => isl_sched (isl_sched hu))))
  refine isl_dropWft (isl_modPart (isl_foldl _ ?_ fun _ _ hu => isl_modPage hu (fun _ => rfl) fun _ => rfl) (fun _ => rfl) fun _ => rfl)
  exact isl_cancel (isl_foldl _ h fun _ _ hu => isl_unsettle hu)

theorem isl_freeArea {p id : Nat} (h : s.isl = z) : (s.freeArea p id).isl = z := by
  unfold State.freeArea
  split
  · exact h
  · exact isl_foldl _ (isl_setCsrF (isl_modInst (isl_modPart h (fun _ => rfl) fun _ => rfl))) fun _ _ hu => isl_ite (isl_sched hu) hu

theorem isl_traceRec {p ty src gen : Nat} {tag : Tag} {w0 w1 : Word} {spec : Bool} (h : s.isl = z) :
    (s.traceRec p ty src gen tag w0 w1 spec).isl = z := by
  refine isl_ite h (isl_ite (isl_modPart h (fun _ => rfl) fun _ => rfl) ((isl_of_parts rfl).trans (isl_modPart h (fun _ => rfl) fun _ => rfl)))

theorem isl_postVf {p ty : Nat} {pay : List Nat} (h : s.isl = z) : (s.postVf p ty pay).isl = z :=
  isl_ite (isl_sched (isl_modPart h (fun _ => rfl) fun _ => rfl)) (isl_modPart h (fun _ => rfl) fun _ => rfl)

theorem isl_doubleFault {p id code : Nat} (h : s.isl = z) : (s.doubleFault p id code).isl = z := (isl_of_parts rfl).trans (isl_postVf (isl_modInst h))

theorem isl_takeTrap {p id : Nat} {r : TrapRec} (h : s.isl = z) : (s.takeTrap p id r).isl = z := by
  refine isl_ite (isl_badRead h) (isl_ite ?double (isl_ite h (isl_ite (isl_modAct h) (isl_ite (isl_doubleFault ?record) (isl_sched ?record)))))
  case double => exact isl_doubleFault (isl_dropWft (isl_foldl _ h fun _ _ hu => isl_modPage hu (fun _ => rfl) fun _ => rfl))
  case record => exact isl_traceRec (isl_modInst (isl_freeArea (isl_freeze h)))

end
end Sys2Proof.Machine
end

section
/-! PROOFS of the statements of matrix islands: acceptance of a command alone at its island (R263, R264). -/

namespace Sys2Proof.Machine

section
variable {z : Island} {c : IslCmd} {now : Nat}

/-- A page with a command at its island exists, so that its island is updated. -/
theorem State.hasPage_of_cmds {s : State} {p pg : Nat} (h : (s.isl p pg).cmds ≠ []) : s.hasPage p pg :=
  State.hasPage_of_ne fun e => h (by unfold State.isl; rw [e])
theorem State.hasPage.isl_modIsl {s : State} {p pg : Nat} (h : s.hasPage p pg) (g : Island → Island) : (s.modIsl p pg g).isl p pg = g (s.isl p pg) :=
  congrArg Page.island (h.page_in (fun y => { y with island := g y.island }) fun _ => rfl)
theorem State.hasPage.modIsl {s : State} {p pg : Nat} (h : s.hasPage p pg) (g : Island → Island) : (s.modIsl p pg g).hasPage p pg :=
  (State.hasPage_modPage s p pg (fun y => { y with island := g y.island }) fun _ => rfl).mpr h

/-! ### Which command is taken (R262, R263) -/

/-- Where no command waits, none is taken. -/
theorem Island.nextTake_none (h : ∀ c ∈ z.cmds, c.waitsAt now = false) : z.nextTake now = none := by
  refine List.findSome?_eq_none_iff.mpr fun ch _ => List.find?_eq_none.mpr fun c hc => ?_
  simp [h c hc]

/-- A command alone at its island, of the Inst that claims it, is taken when it may be. -/
theorem Island.nextTake_single (hz : z.cmds = [c]) (ho : z.owner = some c.id) (hch : c.ch < 4) :
    z.nextTake now = if z.mayTake now c then some c else none := by
  have hin : c.ch ∈ [0, 1, 2, 3] := by simp; omega
  have hfind : ∀ ch, z.cmds.find? (fun d => d.ch == ch && d.waitsAt now && (z.owner != some d.id || z.mayTake now d)) =
      if c.ch = ch ∧ z.mayTake now c = true then some c else none := fun ch => by
    have hwaits : z.mayTake now c = true → c.waitsAt now = true := fun h => by unfold Island.mayTake at h; simp at h; exact h.1
    rw [hz]
    by_cases hm : z.mayTake now c = true
    · by_cases he : c.ch = ch <;> simp [ho, hm, hwaits hm, he]
    · simp [ho, hm]
  unfold Island.nextTake
  simp only [hfind]
  by_cases hm : z.mayTake now c = true
  · simp only [List.mem_cons, List.not_mem_nil, or_false] at hin
    rcases hin with h | h | h | h <;> simp [hm, h]
  · simp [hm]

/-- A command that waits alone goes on with no stopped one. -/
theorem Island.stoppedOf_single (hz : z.cmds = [c]) (hs : c.stopped = false) : z.stoppedOf c = none := by
  simp [Island.stoppedOf, hz, hs]

/-- It may be taken when its tile is in the state that it requires, if it names one. -/
theorem Island.mayTake_single (hz : z.cmds = [c]) (ha : c.accepted = false) (hs : c.stopped = false) (hh : c.here ≤ now) :
    z.mayTake now c = true ↔ ∀ st, c.needs = some st → (z.tileAt c.tile).st = st := by
  unfold Island.mayTake
  rw [Island.stoppedOf_single hz hs]
  cases hn : c.needs <;> simp [IslCmd.waitsAt, ha, hs, hh]

/-- The command as accepted: it keeps the registers as they stand and the state in which it found its tile. -/
def IslCmd.taken (c : IslCmd) (z : Island) : IslCmd :=
  { c with accepted := true, mode := z.mode, fmt := z.fmt, win := z.win, found := (z.tileAt c.tile).st, fresh := false, resume := false, rows := [] }

end

section
variable {s : State} {p pg : Nat} {c : IslCmd}

/-! ### What accepting does to the island -/

/-- Where no command is to be taken, accepting changes nothing. -/
theorem State.islAccept_none (h : (s.isl p pg).nextTake s.now = none) (n : Nat) : s.islAccept p pg n = s := by
  cases n with
  | zero => rfl
  | succ n =>
    unfold State.islAccept
    dsimp only
    rw [h]

/-- A command of the Inst that claims the island is taken. -/
theorem State.islAccept_some (h : (s.isl p pg).nextTake s.now = some c) (ho : (s.isl p pg).owner = some c.id) (n : Nat) :
    s.islAccept p pg (n + 1) = (s.islTake p pg c).islAccept p pg n := by
  rw [State.islAccept]
  dsimp only
  rw [h]
  dsimp only
  rw [if_pos (by simp [ho])]

/-- Where no accepted command waits for the array, the array takes none. -/
theorem State.islServe_none (h : ∀ c ∈ (s.isl p pg).cmds, c.accepted = true → c.array = false) : s.islServe p pg = s := by
  have hfind : (s.isl p pg).cmds.find? (fun c => c.accepted && !c.stopped && c.array && c.start.isNone) = none := by
    refine List.find?_eq_none.mpr fun c hc => ?_
    cases ha : c.accepted
    · simp
    · simp [h c hc ha]
  unfold State.islServe
  dsimp only
  rw [hfind]
  split
  · contradiction
  · rfl

/-- A free array takes the one accepted command that has not started. -/
theorem State.islServe_single (hz : (s.isl p pg).cmds = [c]) (hfree : (s.isl p pg).serving = none) (ha : c.accepted = true) (hs : c.stopped = false)
    (harr : c.array = true) (hstart : c.start = none) :
    ((s.islServe p pg).isl p pg).serving = some c.fid ∧ ((s.islServe p pg).isl p pg).tiles = (s.isl p pg).tiles := by
  have hpage : s.hasPage p pg := State.hasPage_of_cmds (by rw [hz]; simp)
  have hfind : (s.isl p pg).cmds.find? (fun c => c.accepted && !c.stopped && c.array && c.start.isNone) = some c := by
    simp [hz, ha, hs, harr, hstart]
  unfold State.islServe
  dsimp only
  rw [hfind, hfree]
  dsimp only
  rw [State.islNext, isl_sched rfl, State.modCmd, (hpage.modIsl _).isl_modIsl, hpage.isl_modIsl]
  exact ⟨rfl, rfl⟩

/-- The state in which a command that goes on with no stopped one has been accepted, before an MMCFG acts: its tile is BUSY, and its wait counted. -/
def State.islSeat (s : State) (p pg : Nat) (c : IslCmd) : State :=
  let d := c.taken (s.isl p pg)
  let s1 := s.modIsl p pg (fun z => { z with cmds := z.cmds.filter (fun e => e.fid != c.fid && some e != none) ++ [d] })
  let s2 := if d.array then s1.modTile p pg d.tile (fun t => { t with st := .busy }) else s1
  let s3 := if c.here < s2.now then
      s2.modPage p pg (fun y => y.modHist c.slot (fun h =>
        let b := min (bitLen (s2.now - c.here)) 7
        { h with buckets := h.buckets.set b (sat32 ((h.buckets[b]?).getD 0)) }))
    else s2
  s3.wake p pg

/-- MMCFG acts in it, and a command of the array waits there for the array. -/
theorem State.islTake_mmcfg (h : (s.isl p pg).stoppedOf c = none) (hop : c.op = 0x60) :
    s.islTake p pg c = (s.islSeat p pg c).mmcfgAct p pg (c.taken (s.isl p pg)) := by
  unfold State.islTake
  dsimp only
  rw [h, hop]
  rfl
theorem State.islTake_array (h : (s.isl p pg).stoppedOf c = none) (hop : c.op = 0x61 ∨ c.op = 0x62) : s.islTake p pg c = s.islSeat p pg c := by
  unfold State.islTake
  dsimp only
  rw [h]
  rcases hop with hop | hop <;> rw [hop] <;> rfl

theorem State.islSeat_grows (s : State) (p pg : Nat) (c : IslCmd) : s.Grows (s.islSeat p pg c) := by
  refine State.Grows.trans (ite_keeps (P := s.Grows) ?_ ?_) (State.wake_adds ..).grows
  · exact (ite_keeps (P := s.Grows) ((State.modPart_grows ..).trans (State.modPart_grows ..)) (State.modPart_grows ..)).trans (State.modPart_grows ..)
  · exact ite_keeps (P := s.Grows) ((State.modPart_grows ..).trans (State.modPart_grows ..)) (State.modPart_grows ..)

/-- The island then holds the command alone, as accepted, and its tile is BUSY where it names one. -/
theorem State.islSeat_isl (hz : (s.isl p pg).cmds = [c]) : (s.islSeat p pg c).isl p pg = { s.isl p pg with
    cmds := [c.taken (s.isl p pg)]
    tiles := if c.array then (s.isl p pg).tiles.set c.tile { (s.isl p pg).tileAt c.tile with st := .busy } else (s.isl p pg).tiles } := by
  have hpage : s.hasPage p pg := State.hasPage_of_cmds (by rw [hz]; simp)
  have harr : (c.taken (s.isl p pg)).array = c.array := rfl
  unfold State.islSeat
  dsimp only
  rw [(State.wake_adds ..).isl, isl_ite (isl_modPage rfl (fun y => y.modHist_num ..) fun y => y.modHist_island ..) rfl, harr]
  split
  · rw [State.modTile, (hpage.modIsl _).isl_modIsl, hpage.isl_modIsl, hz]
    simp [IslCmd.taken, IslCmd.tile, IslCmd.x, Island.tileAt]
  · rw [hpage.isl_modIsl, hz]
    simp

end
end Sys2Proof.Machine
end

section
/-! PROOFS of the statements of matrix islands: MMCFG, and the commands that name a tile (R263, R264). -/

namespace Sys2Proof.Machine

/-! ### Reserved values of MMCFG's registers (R264) -/

/-- A value whose bits all lie in a mask has none outside it. -/
theorem and_eq_zero_of_and {v m n : Nat} (h : v &&& m = v) (hm : m &&& n = 0) : v &&& n = 0 := by rw [← h, Nat.and_assoc, hm, Nat.and_zero]

/-- Of the bits of a word, those from bit 5 on. -/
theorem and_high_eq_zero {v : Nat} (h : v < 2 ^ 32) : v &&& 0xFFFFFFE0 = 0 ↔ v < 32 := by
  constructor
  · intro h0
    have hs : (v &&& 0xFFFFFFE0) >>> 5 = v >>> 5 &&& (2 ^ 27 - 1) := Nat.shiftRight_and_distrib ..
    rw [h0, Nat.and_two_pow_sub_one_eq_mod, Nat.zero_shiftRight, Nat.shiftRight_eq_div_pow] at hs
    omega
  · exact fun hlt => (by decide : ∀ v < 32, v &&& 0xFFFFFFE0 = 0) v hlt

theorem islReserved_mode {v : Nat} (h : v < 2 ^ 32) : islReserved 0 v = true ↔ 32 ≤ v ∨ v % 4 = 3 ∨ v / 4 % 4 = 3 := by
  have hhigh : v &&& 4294967295 - islMask 0 = 0 ↔ v < 32 := and_high_eq_zero h
  simp [islReserved, hhigh, bits, Nat.shiftRight_eq_div_pow]
theorem islReserved_fmt {v : Nat} (h : v &&& 0x1F1F = v) (h0 : v % 32 < 16) (h1 : v / 256 < 16) : islReserved 1 v = false := by
  have hhigh : v &&& 4294967295 - islMask 1 = 0 := and_eq_zero_of_and h rfl
  simp [islReserved, hhigh, bits, Nat.shiftRight_eq_div_pow]
  omega
theorem islReserved_win {v : Nat} (h : v &&& 0x7777 = v) : islReserved 2 v = false := by
  have hhigh : v &&& 4294967295 - islMask 2 = 0 := and_eq_zero_of_and h rfl
  simp [islReserved, hhigh]

/-- The word that MMCFG writes: the bits that R selects from L, the others as they stand. -/
def IslCmd.merged (c : IslCmd) (old : Nat) : Nat := (old &&& (0xFFFFFFFF - c.rv)) ||| (c.lv &&& c.rv)
theorem IslCmd.merged_lt {c : IslCmd} {old : Nat} (ho : old < 2 ^ 32) (hl : c.lv < 2 ^ 32) : c.merged old < 2 ^ 32 :=
  Nat.or_lt_two_pow (lt_of_le_of_lt Nat.and_le_left ho) (lt_of_le_of_lt Nat.and_le_left hl)

section
variable {s u : State} {p pg : Nat} {c d : IslCmd}

/-! ### MMCFG acts -/

/-- A value that is not reserved is written, and the command completes; a reserved one fails. -/
theorem State.mmcfgAct_write {x v : Nat} (hx : c.x = x) (hv : c.merged ((u.isl p pg).reg x) = v) (hok : islReserved x v = false) :
    u.mmcfgAct p pg c = (u.modIsl p pg (fun z => z.setReg x v)).islDone p pg c 0 2 := by
  subst hx hv
  unfold State.mmcfgAct
  exact if_neg (Bool.eq_false_iff.mp hok)
theorem State.mmcfgAct_reserved {x v : Nat} (hx : c.x = x) (hv : c.merged ((u.isl p pg).reg x) = v) (hok : islReserved x v = true) :
    u.mmcfgAct p pg c = u.islFail p pg c 0x0A 0 0 := by
  subst hx hv
  unfold State.mmcfgAct
  exact if_pos hok

/-- A command that leaves its island alone leaves none there. -/
theorem State.hasPage.islDrop_isl (h : u.hasPage p pg) (c : IslCmd) : (u.islDrop p pg c).isl p pg = { u.isl p pg with
    cmds := (u.isl p pg).cmds.filter (fun d => d.fid != c.fid)
    serving := if (u.isl p pg).serving = some c.fid then none else (u.isl p pg).serving } := by
  unfold State.islDrop State.islLook
  rw [isl_sched rfl, h.isl_modIsl]

/-- A command that was alone leaves its island empty as it completes. -/
theorem State.hasPage.islDone_isl (h : u.hasPage p pg) (hcmds : (u.isl p pg).cmds = [c]) (v after : Nat) : ∃ free,
    (u.islDone p pg c v after).isl p pg = { u.isl p pg with cmds := [], serving := free } := by
  rw [isl_islDone, h.islDrop_isl, hcmds]
  exact ⟨if (u.isl p pg).serving = some c.fid then none else (u.isl p pg).serving, by simp⟩

/-- A command that names no tile and fails leaves its island, and traps. -/
theorem isl_islFail (harr : c.array = false) (code va : Nat) : (u.islFail p pg c code 0 va).isl = (u.islDrop p pg c).isl := by
  unfold State.islFail
  rw [if_neg (by decide), harr]
  exact isl_takeTrap rfl

/-! ### ISLAND_ACCEPT with one command -/

/-- A command that leaves its island empty as it is taken: nothing is left to accept or to serve. -/
theorem State.accept_emptied (ht : (s.isl p pg).nextTake s.now = some c) (ho : (s.isl p pg).owner = some c.id)
    (hempty : ((s.islTake p pg c).isl p pg).cmds = []) (n : Nat) : (s.islAccept p pg (n + 1)).islServe p pg = s.islTake p pg c := by
  have hnone : ∀ d ∈ ((s.islTake p pg c).isl p pg).cmds, d.waitsAt (s.islTake p pg c).now = false := by simp [hempty]
  rw [State.islAccept_some ht ho, State.islAccept_none (Island.nextTake_none hnone), State.islServe_none (by simp [hempty])]

/-- ISLAND_ACCEPT runs where a command is alone at its island, which its Inst claims; it has arrived, and waits to be accepted. -/
structure State.Lone (s : State) (p pg : Nat) (c : IslCmd) : Prop where
  p_eq : s.arg.p = p
  pg_eq : s.arg.pg = pg
  z_eq : s.arg.z = 0
  cmds : (s.isl p pg).cmds = [c]
  owner : (s.isl p pg).owner = some c.id
  ch : c.ch < 4
  accepted : c.accepted = false
  stopped : c.stopped = false
  here : c.here ≤ s.now
  start : c.start = none

/-- The island looks for commands and serves its array. -/
theorem State.Lone.exec (h : s.Lone p pg c) : exec .islandAccept s = .next ((s.islAccept p pg 3).islServe p pg) := by
  obtain ⟨rfl, rfl, hz, hcmds, -⟩ := h
  change execIslandAccept s = _
  unfold execIslandAccept
  dsimp only
  rw [if_neg (by omega), hcmds]
  rfl

theorem State.Lone.mayTake (h : s.Lone p pg c) : (s.isl p pg).mayTake s.now c = true ↔ ∀ st, c.needs = some st → ((s.isl p pg).tileAt c.tile).st = st :=
  Island.mayTake_single h.cmds h.accepted h.stopped h.here

/-- The command is taken, where its tile allows it. -/
theorem State.Lone.nextTake_some (h : s.Lone p pg c) (hm : ∀ st, c.needs = some st → ((s.isl p pg).tileAt c.tile).st = st) :
    (s.isl p pg).nextTake s.now = some c := by
  rw [Island.nextTake_single h.cmds h.owner h.ch, if_pos (h.mayTake.mpr hm)]

/-- Otherwise nothing happens. -/
theorem State.Lone.exec_waits (h : s.Lone p pg c) {st : TileSt} (hn : c.needs = some st) (ht : ((s.isl p pg).tileAt c.tile).st ≠ st) :
    Machine.exec .islandAccept s = .next s := by
  have hnone : (s.isl p pg).nextTake s.now = none := by
    rw [Island.nextTake_single h.cmds h.owner h.ch, if_neg fun hm => ht (h.mayTake.mp hm st hn)]
  have hserve : ∀ d ∈ (s.isl p pg).cmds, d.accepted = true → d.array = false := by simp [h.cmds, h.accepted]
  rw [h.exec, State.islAccept_none hnone, State.islServe_none hserve]

theorem State.Lone.stoppedOf (h : s.Lone p pg c) : (s.isl p pg).stoppedOf c = none := Island.stoppedOf_single h.cmds h.stopped
theorem State.Lone.seat_hasPage (h : s.Lone p pg c) : (s.islSeat p pg c).hasPage p pg :=
  State.hasPage_of_cmds (by rw [State.islSeat_isl h.cmds]; simp)

/-! ### MMCFG alone -/

theorem IslCmd.needs_mmcfg (h : c.op = 0x60) : c.needs = none := by
  unfold IslCmd.needs
  rw [h]
  rfl

/-- It sits at its island, whose registers and tiles are as they were. -/
theorem State.Lone.seat_mmcfg (h : s.Lone p pg c) (hop : c.op = 0x60) :
    (s.islSeat p pg c).isl p pg = { s.isl p pg with cmds := [c.taken (s.isl p pg)] } := by
  have harr : c.array = false := by unfold IslCmd.array; rw [IslCmd.needs_mmcfg hop]; rfl
  rw [State.islSeat_isl h.cmds, harr]
  rfl

/-- Once its act has emptied the island, ISLAND_ACCEPT is over. -/
theorem State.Lone.exec_mmcfg (h : s.Lone p pg c) (hop : c.op = 0x60) {t : State} (hact : (s.islSeat p pg c).mmcfgAct p pg (c.taken (s.isl p pg)) = t)
    (hempty : (t.isl p pg).cmds = []) : Machine.exec .islandAccept s = .next t := by
  have htake : s.islTake p pg c = t := (State.islTake_mmcfg h.stoppedOf hop).trans hact
  rw [h.exec, State.accept_emptied (h.nextTake_some (by simp [IslCmd.needs_mmcfg hop])) h.owner (by rwa [htake]), htake]

/-- A register takes a value that is not reserved, and the island is empty again. -/
theorem State.Lone.exec_mmcfg_write (h : s.Lone p pg c) (hop : c.op = 0x60) {x v : Nat} (hx : c.x = x) (hv : c.merged ((s.isl p pg).reg x) = v)
    (hok : islReserved x v = false) : ∃ t, Machine.exec .islandAccept s = .next t ∧ t.mem = s.mem ∧ ∃ free,
      t.isl p pg = { (s.isl p pg).setReg x v with cmds := [], serving := free } := by
  have hreg : ((s.islSeat p pg c).isl p pg).reg x = (s.isl p pg).reg x := by rw [h.seat_mmcfg hop]; rfl
  have hact := State.mmcfgAct_write (u := s.islSeat p pg c) (p := p) (pg := pg) (c := c.taken (s.isl p pg)) hx (by rw [hreg]; exact hv) hok
  have hisl : ((s.islSeat p pg c).modIsl p pg (fun z => z.setReg x v)).isl p pg =
      { (s.isl p pg).setReg x v with cmds := [c.taken (s.isl p pg)] } := by
    rw [h.seat_hasPage.isl_modIsl, h.seat_mmcfg hop]
    unfold Island.setReg
    split <;> rfl
  obtain ⟨free, hdone⟩ := (State.hasPage.modIsl h.seat_hasPage (fun z => z.setReg x v)).islDone_isl (c := c.taken (s.isl p pg)) (by rw [hisl]) 0 2
  rw [hisl] at hdone
  refine ⟨_, h.exec_mmcfg hop hact (by rw [hdone]), ?_, free, hdone⟩
  exact ((s.islSeat_grows ..).trans ((State.modPart_grows ..).trans (State.islDone_grows ..))).mem

/-- A reserved value traps, and the registers are as they were. -/
theorem State.Lone.exec_mmcfg_reserved (h : s.Lone p pg c) (hop : c.op = 0x60) {x v : Nat} (hx : c.x = x) (hv : c.merged ((s.isl p pg).reg x) = v)
    (hok : islReserved x v = true) :
    Machine.exec .islandAccept s = .next ((s.islSeat p pg c).islFail p pg (c.taken (s.isl p pg)) 0x0A 0 0) := by
  have hreg : ((s.islSeat p pg c).isl p pg).reg x = (s.isl p pg).reg x := by rw [h.seat_mmcfg hop]; rfl
  have hact := State.mmcfgAct_reserved (u := s.islSeat p pg c) (p := p) (pg := pg) (c := c.taken (s.isl p pg)) hx (by rw [hreg]; exact hv) hok
  have harr : (c.taken (s.isl p pg)).array = false := by
    change c.needs.isSome = false
    rw [IslCmd.needs_mmcfg hop]
    rfl
  refine h.exec_mmcfg hop hact ?_
  rw [isl_islFail harr, h.seat_hasPage.islDrop_isl, h.seat_mmcfg hop]
  simp

/-! ### A command alone that names a tile -/

/-- Its tile is BUSY once it is accepted, and the free array takes it. -/
theorem State.Lone.exec_takes (h : s.Lone p pg c) (hop : c.op = 0x61 ∨ c.op = 0x62) {st : TileSt} (hn : c.needs = some st)
    (ht : ((s.isl p pg).tileAt c.tile).st = st) (hfree : (s.isl p pg).serving = none) (hlt : c.tile < (s.isl p pg).tiles.length) :
    ∃ t, Machine.exec .islandAccept s = .next t ∧ ((t.isl p pg).tileAt c.tile).st = .busy ∧ (t.isl p pg).serving = some c.fid := by
  have harr : c.array = true := by unfold IslCmd.array; rw [hn]; rfl
  have hisl := State.islSeat_isl h.cmds
  have hwaits : ∀ d ∈ ((s.islSeat p pg c).isl p pg).cmds, d.waitsAt (s.islSeat p pg c).now = false := by rw [hisl]; simp [IslCmd.waitsAt, IslCmd.taken]
  have htake := h.nextTake_some fun st' hst' => ht.trans (Option.some.inj (hn.symm.trans hst'))
  obtain ⟨hserving, htiles⟩ := State.islServe_single (s := s.islSeat p pg c) (p := p) (pg := pg) (c := c.taken (s.isl p pg)) (by rw [hisl])
    (by rw [hisl]; exact hfree) rfl h.stopped harr h.start
  refine ⟨(s.islSeat p pg c).islServe p pg, ?_, ?_, hserving⟩
  · rw [h.exec, State.islAccept_some htake h.owner, State.islTake_array h.stoppedOf hop, State.islAccept_none (Island.nextTake_none hwaits)]
  · rw [Island.tileAt, htiles, hisl, harr]
    simp [hlt]

/-- A command that names a tile is accepted where its tile is in the state that it requires, and waits otherwise. -/
theorem State.Lone.exec_ready (h : s.Lone p pg c) (hop : c.op = 0x61 ∨ c.op = 0x62) {st : TileSt} (hn : c.needs = some st)
    (hfree : (s.isl p pg).serving = none) (hlt : c.tile < (s.isl p pg).tiles.length) :
    (((s.isl p pg).tileAt c.tile).st = st →
      ∃ t, Machine.exec .islandAccept s = .next t ∧ ((t.isl p pg).tileAt c.tile).st = .busy ∧ (t.isl p pg).serving = some c.fid) ∧
    (((s.isl p pg).tileAt c.tile).st ≠ st → Machine.exec .islandAccept s = .next s) :=
  ⟨fun ht => h.exec_takes hop hn ht hfree hlt, fun ht => h.exec_waits hn ht⟩

end
end Sys2Proof.Machine
end

section
/-! PROOFS of the statements of matrix islands: integer sums, and the steps of accepted commands (R88, R245, R268, R271 to R273, R285, R289). -/

namespace Sys2Proof.Machine

/-! ### Integer elements of a tile (R85, R88) -/

/-- Where no element of a group is poisoned, none gives an origin. -/
theorem firstPois_none {ts : List (El × El)} (h : ∀ t ∈ ts, t.1.pois = none ∧ t.2.pois = none) : firstPois ts = none := by
  induction ts with
  | nil => rfl
  | cons t ts ih =>
    obtain ⟨⟨h1, h2⟩, hts⟩ := List.forall_mem_cons.mp h
    simp [firstPois, h1, h2, ih hts]

/-- The exact sum that an integer element becomes. -/
def groupSum (acc : Reg) (ts : List (El × El)) : Int := acc.val.toInt + (ts.map (fun t => intOf t.1.num * intOf t.2.num)).sum

theorem foldl_products (ts : List (El × El)) : ts.foldl (fun n t => n + intOf t.1.num * intOf t.2.num) 0 =
    (ts.map (fun t => intOf t.1.num * intOf t.2.num)).sum := by
  rw [List.sum_eq_foldl, List.foldl_map]

section
variable {mk : MkOrigin} {sat : Bool} {s : State} {acc : Reg} {ts : List (El × El)} {va : Nat}

/-- Without poison an integer element wraps, unless it saturates. -/
theorem accumulate_wraps (ha : acc.pois = false) (hts : ∀ t ∈ ts, t.1.pois = none ∧ t.2.pois = none)
    (h : sat = false ∨ (-2147483648 ≤ groupSum acc ts ∧ groupSum acc ts ≤ 2147483647)) :
    accumulate mk true sat s acc ts va = (s, ⟨BitVec.ofInt 32 (groupSum acc ts), false, 0⟩) := by
  have hcond : (sat && (decide (groupSum acc ts < -2147483648) || decide (2147483647 < groupSum acc ts))) = false := by
    rcases h with h | ⟨h1, h2⟩
    · simp [h]
    · simp [h1, h2]
  unfold accumulate
  simp only [ha, firstPois_none hts, foldl_products, Bool.false_eq_true, if_false, if_true]
  rw [← groupSum, hcond]
  rfl

/-- One that saturates has an event of kind 10 and a new origin. -/
theorem accumulate_saturates (ha : acc.pois = false) (hts : ∀ t ∈ ts, t.1.pois = none ∧ t.2.pois = none) (hsat : sat = true)
    (h : ¬(-2147483648 ≤ groupSum acc ts ∧ groupSum acc ts ≤ 2147483647)) :
    accumulate mk true sat s acc ts va = ((mk s 10 va).1, ⟨if groupSum acc ts < 0 then 0x80000000 else 0x7FFFFFFF, true, (mk s 10 va).2⟩) := by
  have hcond : (sat && (decide (groupSum acc ts < -2147483648) || decide (2147483647 < groupSum acc ts))) = true := by
    simp [hsat]
    omega
  unfold accumulate
  simp only [ha, firstPois_none hts, foldl_products, Bool.false_eq_true, if_false, if_true]
  rw [← groupSum, hcond]
  rfl

end

/-! ### The steps of an accepted command (R268, R273) -/

section
variable {s : State} {p pg : Nat} {c : IslCmd}

/-- ISLAND_COMMAND_DONE goes on with a command that is accepted and not stopped: an MMA computes, a read-out empties its tile, or its writes perform. -/
theorem exec_islandCommandDone (hc : (s.isl s.arg.p s.arg.pg).cmd? s.arg.fid = some c) (ha : c.accepted = true) (hs : c.stopped = false) :
    (∀ m, s.arg.z = 1 → c.mul = some m → c.op = 0x61 → exec .islandCommandDone s = .next (s.mmaRun s.arg.p s.arg.pg c m)) ∧
    (s.arg.z = 3 → exec .islandCommandDone s = .next (s.mmrdEmpty s.arg.p s.arg.pg c)) ∧
    (s.arg.z = 7 → exec .islandCommandDone s = .next ((s.outWrite s.arg.p c.outs c.marks).islDone s.arg.p s.arg.pg c 0 4)) := by
  have hon : (c.stopped || !c.accepted) = false := by rw [ha, hs]; rfl
  change (∀ m, _ → _ → _ → execIslandCommandDone s = _) ∧ (_ → execIslandCommandDone s = _) ∧ (_ → execIslandCommandDone s = _)
  unfold execIslandCommandDone
  simp only [hc, hon]
  refine ⟨fun m hz hm hop => ?_, fun hz => ?_, fun hz => ?_⟩
  · rw [hz, hm, if_neg (by decide), hop]
    rfl
  · rw [hz]
    rfl
  · rw [hz]
    rfl

/-- An MMA whose rows are all there ends with its tile FULL; one that meets a fault stops. -/
theorem State.mmaRun_done {m : Mul} (h : (s.mulRun p pg c m m.k).2.2 = none) (hr : c.resume = false) : s.mmaRun p pg c m =
    ((s.mulRun p pg c m m.k).1.modTile p pg c.tile (fun t => { t with st := .full })).islDone p pg c 0 0 := by
  unfold State.mmaRun
  simp only [h, hr, Bool.false_eq_true, if_false]
theorem State.mmaRun_fault {m : Mul} {e : Nat × Nat} (h : (s.mulRun p pg c m m.k).2.2 = some e) : s.mmaRun p pg c m =
    (s.mulRun p pg c m m.k).1.islStop p pg { c with k := (s.mulRun p pg c m m.k).2.1 } 0x02 e.1 e.2 := by
  unfold State.mmaRun
  simp only [h]

/-- A command found at an island is one of it. -/
theorem State.hasPage_of_cmd {fid : Nat} (h : (s.isl p pg).cmd? fid = some c) : s.hasPage p pg :=
  State.hasPage_of_cmds fun e => by unfold Island.cmd? at h; rw [e] at h; cases h

theorem State.hasPage_modFire (s : State) (p pg fid q qg : Nat) (g : Fire → Fire) : (s.modFire q qg fid g).hasPage p pg ↔ s.hasPage p pg :=
  State.hasPage_modPage s q qg (fun y => { y with fires := y.fires.map (fun f => if f.fid == fid then g f else f) }) fun _ => rfl

/-- A read-out leaves its tile EMPTY, and its writes are to come. -/
theorem State.mmrdEmpty_spec (hpage : s.hasPage p pg) (hlt : c.tile < (s.isl p pg).tiles.length) : (s.mmrdEmpty p pg c).mem = s.mem ∧
    (((s.mmrdEmpty p pg c).isl p pg).tileAt c.tile).st = .empty ∧
    ⟨s.now + 48, 0, srcOf pg c.slot, .row .islandCommandDone { p := p, pg := pg, id := c.id, fid := c.fid, z := 7 }⟩ ∈ (s.mmrdEmpty p pg c).agenda := by
  refine ⟨?_, ?_, (State.sched_adds ..).agenda _ (State.mem_sched ..)⟩
  · exact (((((State.modPart_grows ..).trans (State.modPart_grows ..)).trans (State.modPart_grows ..)).trans
      (State.sched_adds ..).grows).trans (State.sched_adds ..).grows).mem
  · have htile : ((s.modTile p pg c.tile (fun t => { t with st := .empty })).isl p pg).tiles =
        (s.isl p pg).tiles.set c.tile { (s.isl p pg).tileAt c.tile with st := .empty } := by rw [State.modTile, hpage.isl_modIsl]
    have hfire : ((s.modTile p pg c.tile (fun t => { t with st := .empty })).modFire p pg c.fid (fun f => { f with acted := true })).hasPage p pg :=
      (State.hasPage_modFire ..).mpr (State.hasPage.modIsl hpage _)
    unfold State.mmrdEmpty State.islLook State.islNext
    rw [isl_sched rfl, isl_sched rfl, State.hasPage.isl_modIsl hfire, isl_modFire rfl]
    simp [Island.tileAt, htile, hlt]

/-! ### The completion of a group (R245, R272) -/

/-- The list goes on once a group's completion has acted. -/
def State.groupOn (s : State) (p pg : Nat) (c : IslCmd) : State :=
  (s.modCmd p pg c.fid (fun c => { c with group := c.group + 1, chunk := 0, k := 0 })).islNext p pg c 0 4

theorem State.mem_groupOn (s : State) (p pg : Nat) (c : IslCmd) :
    ⟨s.now, 0, srcOf pg c.slot, .row .islandCommandDone { p := p, pg := pg, id := c.id, fid := c.fid, z := 4 }⟩ ∈ (s.groupOn p pg c).agenda :=
  State.mem_sched ..

/-- A handle without an object has no completion; any other takes 1 more. -/
theorem exec_groupCompletion (hc : (s.isl s.arg.p s.arg.pg).cmd? s.arg.fid = some c) (ha : c.accepted = true) (hs : c.stopped = false) :
    (bitAt s.arg.x 15 = true → exec .groupCompletion s = .next (s.groupOn s.arg.p s.arg.pg c)) ∧
    (∀ t, bitAt s.arg.x 15 = false → s.postAdd s.arg.p s.arg.x = .ok t → exec .groupCompletion s = .next (t.groupOn s.arg.p s.arg.pg c)) := by
  have hon : (c.stopped || !c.accepted) = false := by rw [ha, hs]; rfl
  change (_ → execGroupCompletion s = _) ∧ (∀ t, _ → _ → execGroupCompletion s = _)
  unfold execGroupCompletion
  simp only [hc, hon, Bool.false_eq_true, if_false]
  refine ⟨fun hb => ?_, fun t hb ht => ?_⟩
  · rw [if_pos hb]
    rfl
  · rw [if_neg (by simp [hb]), ht]
    rfl

/-- A list of objects after one on the die has been put in its place, or behind the others. -/
def putObj (o : Obj) (l : List Obj) : List Obj :=
  if l.any (fun q => q.isAt 0 o.h) then l.map (fun q => if q.isAt 0 o.h then { o with va := 0 } else q) else l ++ [{ o with va := 0 }]

/-- It is the first that is found there. -/
theorem find_putObj (o : Obj) (l : List Obj) : (putObj o l).find? (fun q => q.isAt 0 o.h) = some { o with va := 0 } := by
  have hat : ({ o with va := 0 } : Obj).isAt 0 o.h = true := by simp [Obj.isAt]
  unfold putObj
  split
  case isTrue h =>
    induction l with
    | nil => simp at h
    | cons q l ih =>
      by_cases hq : q.isAt 0 o.h = true
      · simp [hq, hat]
      · simpa [hq] using ih (by simpa [hq] using h)
  case isFalse h =>
    rw [List.find?_append, List.find?_eq_none.mpr fun q hq => by simpa using fun hkq => h (List.any_eq_true.mpr ⟨q, hq, hkq⟩)]
    simp [hat]

/-- An object kept on the die, and the partition that holds it. -/
theorem State.obj_onChip {h : Nat} (hm : (s.part p).inMemory h = false) :
    s.obj p h = { (((s.part p).objs.find? (fun o => o.isAt 0 h)).getD { h := h, va := 0 }) with h := h } := by
  have hplace : (s.part p).objPlace h = 0 := by unfold Part.objPlace; rw [hm]; rfl
  unfold State.obj
  simp only [hplace, if_true]
theorem State.obj_h (s : State) (p h : Nat) : (s.obj p h).h = h := by
  unfold State.obj
  dsimp only
  split
  · rfl
  · split
    · rfl
    · split <;> rfl

/-- Setting one on the die. -/
theorem State.setObj_onChip {o : Obj} (hm : (s.part p).inMemory o.h = false) :
    s.setObj p o = s.modPart p (fun x => { x with objs := putObj o x.objs }) := by
  have hplace : (s.part p).objPlace o.h = 0 := by unfold Part.objPlace; rw [hm]; rfl
  unfold State.setObj
  simp only [hplace, if_true]
  rfl

/-- An object on the die that has been put reads back in every state with that partition's objects and CSRs. -/
theorem State.obj_put {t : State} {o : Obj} (hm : (s.part p).inMemory o.h = false) (hobjs : (t.part p).objs = putObj o (s.part p).objs)
    (hcsr : (t.part p).csr = (s.part p).csr) : (t.obj p o.h).st = o.st := by
  have hmt : (t.part p).inMemory o.h = false := by
    unfold Part.inMemory Part.onDie Part.csrN at hm ⊢
    rwa [hcsr]
  rw [State.obj_onChip hmt, hobjs, find_putObj]
  rfl

/-- A word's change sets the slots that wait for it going, and adds their steps. -/
theorem State.wordChanged_frame (s : State) (p h v : Nat) : (s.wordChanged p h v).now = s.now ∧ (s.wordChanged p h v).part = s.part := by
  obtain ⟨a, b, hadds⟩ : ∃ a b, ({ s with helmSlots := a, helmSaved := b } : State).Adds (s.wordChanged p h v) :=
    ⟨_, _, foldl_adds _ (fun u _ => u.sched_adds ..) _ _⟩
  exact ⟨hadds.grows.now, funext hadds.part⟩

/-- A completion at a handle whose object is a word on the die: the word is 1 more, the clock and memory stand. -/
theorem State.postAdd_word {h : Nat} {w : Word} (hok : (s.part p).handleOk h = true) (hm : (s.part p).inMemory h = false)
    (hw : (s.obj p h).st = .word w) (hpage : s.hasPage p pg) : ∃ t, s.postAdd p h = .ok t ∧ t.now = s.now ∧
    (t.part p).objs = putObj { s.obj p h with st := .word (w + 1) } (s.part p).objs ∧ (t.part p).csr = (s.part p).csr := by
  have hfault : s.objFault p h = none := by unfold State.objFault; simp [hm]
  have hne : s.part p ≠ { num := p } := fun e => by unfold State.hasPage at hpage; rw [e] at hpage; cases hpage
  have hset := State.setObj_onChip (s := s) (p := p) (o := { s.obj p h with st := .word (w + 1) }) (by rw [State.obj_h]; exact hm)
  have hpart := part_in s p (fun x => { x with objs := putObj { s.obj p h with st := .word (w + 1) } x.objs }) (fun _ => rfl) hne
  obtain ⟨hnow, hparts⟩ := State.wordChanged_frame (s.setObj p { s.obj p h with st := .word (w + 1) }) p h (w + 1).toNat
  rw [hset] at hnow hparts
  refine ⟨(s.setObj p { s.obj p h with st := .word (w + 1) }).wordChanged p h (w + 1).toNat, ?_, ?_, ?_, ?_⟩
  · unfold State.postAdd State.postWord
    simp only [hok, hfault, hw, Bool.not_true, Bool.false_eq_true, if_false]
  · rw [hset]
    exact hnow
  · rw [hset, hparts, hpart]
  · rw [hset, hparts, hpart]

/-- The list goes on without a change of the objects or CSRs. -/
theorem State.groupOn_part (s : State) (p pg q : Nat) (c : IslCmd) :
    ((s.groupOn p pg c).part q).objs = (s.part q).objs ∧ ((s.groupOn p pg c).part q).csr = (s.part q).csr := by
  unfold State.groupOn State.islNext
  rw [(State.sched_adds ..).part]
  exact ⟨part_modPart Part.objs s p q _ (fun _ => rfl) fun _ => rfl, part_modPart Part.csr s p q _ (fun _ => rfl) fun _ => rfl⟩

/-- A group of MMA.GRP counts at its handle, and its list goes on. -/
theorem exec_groupCompletion_word (hc : (s.isl s.arg.p s.arg.pg).cmd? s.arg.fid = some c) (ha : c.accepted = true) (hs : c.stopped = false) {w : Word}
    (hok : (s.part s.arg.p).handleOk s.arg.x = true) (hm : (s.part s.arg.p).inMemory s.arg.x = false) (hw : (s.obj s.arg.p s.arg.x).st = .word w) :
    ∃ t, exec .groupCompletion s = .next t ∧ (t.obj s.arg.p s.arg.x).st = .word (w + 1) ∧
      ⟨s.now, 0, srcOf s.arg.pg c.slot, .row .islandCommandDone { p := s.arg.p, pg := s.arg.pg, id := c.id, fid := c.fid, z := 4 }⟩ ∈ t.agenda := by
  have hbit : bitAt s.arg.x 15 = false := by
    unfold Part.handleOk at hok
    simp only [Bool.and_eq_true, Bool.not_eq_true'] at hok
    exact hok.1
  obtain ⟨t, ht, hnow, hobjs, hcsr⟩ := State.postAdd_word hok hm hw (State.hasPage_of_cmd hc)
  obtain ⟨hobjs', hcsr'⟩ := t.groupOn_part s.arg.p s.arg.pg s.arg.p c
  have hread := State.obj_put (t := t.groupOn s.arg.p s.arg.pg c) (o := { s.obj s.arg.p s.arg.x with st := .word (w + 1) })
    (by rw [State.obj_h]; exact hm) (hobjs'.trans hobjs) (hcsr'.trans hcsr)
  rw [State.obj_h] at hread
  exact ⟨_, (exec_groupCompletion hc ha hs).2 t hbit ht, hread, hnow ▸ t.mem_groupOn ..⟩

end

/-! ### Stream tokens (R271) and the Plaiter (R285, R289) -/

section
variable {s : State}

/-- An update of an island that keeps its commands. -/
theorem isl_cmds_modIsl (s : State) (p pg q qg : Nat) {g : Island → Island} (hg : ∀ z, (g z).cmds = z.cmds) :
    ((s.modIsl p pg g).isl q qg).cmds = (s.isl q qg).cmds :=
  page_modPage (fun y => y.island.cmds) s p pg q qg (fun y => { y with island := g y.island }) (fun _ => rfl) fun y => hg y.island

/-- A token for e0 to e3 is discarded; any other joins the queues, and waits there where no command takes it. -/
theorem exec_islandStreamToken_discarded (h : s.arg.x < 4) : exec .islandStreamToken s = .next (s.stale s.arg.p s.arg.pg 0) :=
  congrArg Host.Outcome.next (if_pos h)
theorem exec_islandStreamToken_queued (h : 4 ≤ s.arg.x) (hcmds : (s.isl s.arg.p s.arg.pg).cmds = []) : exec .islandStreamToken s =
    .next (s.modIsl s.arg.p s.arg.pg (fun z => { z with streams := z.streams ++ [(s.arg.x - 4, ⟨s.arg.tok, s.arg.fid, s.arg.y⟩, s.arg.tag)] })) := by
  have hnone := (isl_cmds_modIsl s s.arg.p s.arg.pg s.arg.p s.arg.pg (g := fun z => { z with
    streams := z.streams ++ [(s.arg.x - 4, ⟨s.arg.tok, s.arg.fid, s.arg.y⟩, s.arg.tag)] }) fun _ => rfl).trans hcmds
  change execIslandStreamToken s = _
  unfold execIslandStreamToken
  dsimp only
  rw [if_neg (by omega)]
  rw [hnone]
  rfl

/-- An entry of the Plaiter after a change that keeps its identity. -/
theorem State.plaitEnt_modPlait {die p pa : Nat} {e : PlaitEnt} {f : PlaitEnt → PlaitEnt} (hf : ∀ e : PlaitEnt, (f e).is die p pa = e.is die p pa)
    (h : s.plaitEnt? die p pa = some e) : (s.modPlait die p pa f).plaitEnt? die p pa = some (f e) := by
  unfold State.plaitEnt? State.modPlait at *
  dsimp only
  generalize s.plait = l at h
  induction l with
  | nil => cases h
  | cons x l ih =>
    by_cases hx : x.is die p pa = true
    · simp only [List.map_cons, List.find?_cons, hx, if_true, hf, Option.some.injEq] at h ⊢
      rw [h]
    · simp only [List.map_cons, List.find?_cons, hx, Bool.false_eq_true, if_false] at h ⊢
      exact ih h

theorem State.plaitEnt_sched (s : State) (at' src : Nat) (i : Instr) (a : Args) (die p pa : Nat) :
    (s.sched at' src i a).plaitEnt? die p pa = s.plaitEnt? die p pa := rfl

/-- The bytes of a tile reach the Plaiter, which compiles a tile that does not run dense. -/
theorem exec_plaiterCompileDone_start {e : PlaitEnt} (he : s.plaitEnt? s.arg.x s.arg.p s.arg.y = some e) (hst : e.st = .compiling)
    (hl : s.arg.l = [e.gen]) (hz : s.arg.z = 0) (hd : runsDense (Mem.bytes s.mem s.arg.y 1296) = false) :
    let tile := Mem.bytes s.mem s.arg.y 1296
    exec .plaiterCompileDone s = .next ((s.modPlait s.arg.x s.arg.p s.arg.y
      (fun e => { e with prog := microProgram tile, wts := macWeights tile (microProgram tile) })).sched
      (s.now + (16 + (microProgram tile).length)) 0 .plaiterCompileDone { s.arg with z := 1 }) := by
  change execPlaiterCompileDone s = _
  unfold execPlaiterCompileDone
  dsimp only
  rw [he]
  dsimp only
  rw [if_neg (by simp [hst, hl]), if_pos hz]
  simp only [hd, Bool.false_eq_true, if_false]
  rfl

/-- A compile ends with a program, or dense where there is none. -/
theorem exec_plaiterCompileDone_end {e : PlaitEnt} (he : s.plaitEnt? s.arg.x s.arg.p s.arg.y = some e) (hst : e.st = .compiling)
    (hl : s.arg.l = [e.gen]) (hz : s.arg.z = 1) (hw : e.waiters = []) : exec .plaiterCompileDone s = .next (s.modPlait s.arg.x s.arg.p s.arg.y
      (fun e => { e with st := if e.prog.isEmpty then .dense else .program, waiters := [] })) := by
  change execPlaiterCompileDone s = _
  unfold execPlaiterCompileDone
  simp [he, hst, hl, hz, hw]

end
end Sys2Proof.Machine
end

section
/-! PROOFS of the statements of matrix islands: what an island accepts, and what an accepted command does. -/

namespace Sys2Proof.Machine

theorem IslCmd.needs_mma {c : IslCmd} (h : c.op = 0x61) : c.needs = some (if c.x % 4 = 1 then .full else .empty) := by
  unfold IslCmd.needs
  rw [h]
  rfl
theorem IslCmd.needs_mmrd {c : IslCmd} (h : c.op = 0x62) : c.needs = some .full := by
  unfold IslCmd.needs
  rw [h]
  rfl

/-- A write of another register than MODE keeps the resident operand, and none touches the tiles (R264). -/
theorem Island.setReg_resident (z : Island) {x : Nat} (v : Nat) (h : x ≠ 0) : (z.setReg x v).resident = z.resident := by
  unfold Island.setReg
  split
  · exact absurd rfl h
  · rfl
  · rfl
theorem Island.setReg_tiles (z : Island) (x v : Nat) : (z.setReg x v).tiles = z.tiles := by
  unfold Island.setReg
  split <;> rfl

/-- Settles O39: a command alone at its island by `State.Lone`, the sums of integer elements, and the steps of accepted commands one by one. -/
theorem matrixIslands : Obligations.MatrixIslands := by
  refine ⟨?accepts, ?sums, ?steps, ?tokens, ?plaiter⟩
  case accepts =>
    intro s c harg p pg z hcmds haccepted hstopped hhere howner hch hstart v mode fmt win writes reserved ready
    have h : s.Lone p pg c := ⟨rfl, rfl, harg, hcmds, howner, hch, haccepted, hstopped, hhere, hstart⟩
    have hwrite : ∀ {x : Nat}, c.op = 0x60 → c.x = x → islReserved x (v (z.reg x)) = false →
        writes (z.setReg x (v (z.reg x))).mode (z.setReg x (v (z.reg x))).fmt (z.setReg x (v (z.reg x))).win := by
      rintro _ hop rfl hok
      obtain ⟨t, ht, hmem, free, hisl⟩ := h.exec_mmcfg_write hop rfl rfl hok
      refine ⟨t, ht, by rw [hisl]; rfl, by rw [hisl]; rfl, by rw [hisl]; rfl, by rw [hisl], ?_, fun hx => ?_, fun hx => ?_, hmem⟩
      · rw [hisl]
        exact z.setReg_tiles ..
      · rw [hisl]
        exact z.setReg_resident _ hx
      · rw [hisl, hx]
        rfl
    refine ⟨fun hop hx hlt h0 h1 => hwrite hop hx ?mode, fun hop hx hall h0 h1 => hwrite hop hx (islReserved_fmt hall h0 h1),
      fun hop hx hall => hwrite hop hx (islReserved_win hall), fun hop hx hl _ hm hbad => ?reserved,
      fun hop hx hfree hlt => h.exec_ready (.inl hop) ?full hfree hlt, fun hop hx hfree hlt => h.exec_ready (.inl hop) ?empty hfree hlt,
      fun hop hfree hlt => h.exec_ready (.inr hop) (IslCmd.needs_mmrd hop) hfree hlt⟩
    case mode =>
      refine Bool.eq_false_iff.mpr fun hr => ?_
      have hbad : 32 ≤ mode ∨ mode % 4 = 3 ∨ mode / 4 % 4 = 3 := (islReserved_mode (Nat.lt_trans hlt (by decide))).mp hr
      omega
    case reserved =>
      have hseat := h.seat_mmcfg hop
      have hres : islReserved 0 mode = true := (islReserved_mode (IslCmd.merged_lt hm hl)).mpr hbad
      exact ⟨s.islSeat p pg c, h.exec_mmcfg_reserved hop hx rfl hres, by rw [hseat], by rw [hseat], by rw [hseat]⟩
    case full => rw [IslCmd.needs_mma hop, if_pos hx]
    case empty => rw [IslCmd.needs_mma hop, if_neg hx]
  case sums =>
    intro mk sat s acc ts va ha hts v fits
    exact ⟨accumulate_wraps ha hts, accumulate_saturates ha hts⟩
  case steps =>
    intro s c hc ha hs p pg h
    obtain ⟨hmma, hread, hperform⟩ := exec_islandCommandDone hc ha hs
    refine ⟨fun m hz hm hop hrun hr => ?_, fun m cause va hz hm hop hrun => ?_, fun hz hlt => ?_, hperform, fun hok hmem w hw => ?_, fun hh => ?_⟩
    · rw [hmma m hz hm hop, State.mmaRun_done hrun hr]
    · rw [hmma m hz hm hop, State.mmaRun_fault hrun]
    · exact ⟨_, hread hz, State.mmrdEmpty_spec (State.hasPage_of_cmd hc) hlt⟩
    · exact exec_groupCompletion_word hc ha hs hok hmem hw
    · have hbit : bitAt h 15 = true := by rw [hh]; simp [bitAt]
      exact (exec_groupCompletion hc ha hs).1 hbit
  case tokens => exact fun s => ⟨exec_islandStreamToken_discarded, exec_islandStreamToken_queued⟩
  case plaiter =>
    intro s e he hst hl tile prog held
    refine ⟨fun hz hd => ⟨_, exec_plaiterCompileDone_start he hst hl hz hd, ?_, ?_⟩, fun hz hw => ⟨_, exec_plaiterCompileDone_end he hst hl hz hw, ?_⟩⟩
    · exact (State.plaitEnt_sched ..).trans <| State.plaitEnt_modPlait (f := fun e => { e with prog := prog, wts := macWeights tile prog })
        (fun _ => by simp only [PlaitEnt.is]) he
    · rw [Nat.add_assoc]
      exact State.mem_sched ..
    · refine (State.plaitEnt_modPlait (f := fun e => { e with st := if e.prog.isEmpty then .dense else .program, waiters := [] }) (fun _ => rfl) he).trans ?_
      simp [hw, List.isEmpty_iff]

end Sys2Proof.Machine
end

section
/-! PROOFS of the statements of debugging: stopping, reading, histograms, trace frames and dumps (R84, R342, R411, R412, R414 to R418). -/

namespace Sys2Proof.Machine

/-- A state with two partitions of one number: the first holds no trace log, the second a log of die 0 with a record that is not settled yet. -/
def State.twinParts : State :=
  { State.reset with
    parts := [{ num := 0 }, { num := 0, trace := [{ die := 0, fresh := [{ ty := 1, src := 0, gen := 0, ts := 0, tag := 0, w0 := 0, w1 := 0 }] }] }], arg := {} }

/-- How many records of each trace log are not settled yet, after a step. -/
def freshNumbers : Out → List Nat
  | .next t => t.parts.flatMap (fun x => x.trace.map (fun l => l.fresh.length))
  | _ => []

/-- Refutes O60: where a frame is due and the partition read has no log of the die, the statement has nothing change; but the step settles the log of
that die in every partition of the number, and the statement is of every state, also of one with two partitions of one number. The device reaches no such
state. -/
theorem not_debugAndTrace : ¬ Obligations.DebugAndTrace := by
  intro h
  obtain ⟨-, -, -, -, -, -, -, -, hnone, -⟩ := h State.twinParts
  have hstep : exec .loglineFrameWrite State.twinParts = .next State.twinParts := hnone rfl
  have hleft : freshNumbers (exec .loglineFrameWrite State.twinParts) = [0] := by decide
  have hwanted : freshNumbers (.next State.twinParts) = [1] := by decide
  rw [hstep, hwanted] at hleft
  exact absurd hleft (by decide)

end Sys2Proof.Machine
end

section
/-! PROOFS of the statements of the scalar instructions: moves, selection and butterflies, and integer arithmetic (R93 to R101). -/

namespace Sys2Proof.Machine

/-! ### Moves, selection and butterflies (R93 to R96) -/

section
variable {s : State} {pr : BitVec 2} {t1 t0 : Target}

/-- Two results of which the second alone has an event: the first carries no poison, and the second a new origin. -/
theorem two_zero_kind (hv : s.cur.verdict pr = .run) (ho : s.cur.firstOrigin = none) (lat : Nat) (v0 v1 : Word) {k : Nat} (hk : k ≠ 0) :
    s.two pr lat t1 t0 ⟨v0, 0⟩ ⟨v1, k⟩ = (s.origin k).1.emit lat t0 t1 (tokV v0) (withPoison (tokV v1) (some (s.origin k).2)) := by
  simp only [State.two, frame_run _ _ _ _ _ _ hv, mark_zero, mark_kind _ _ _ hk ho, ho]
  rfl

/-- MOV passes the token of L, a null one as well. -/
theorem exec_mov (h : s.cur.pRuns pr) : exec (.mov pr t1 t0) s =
    .next (s.emit 1 t0 t1 (passed s.cur.firstOrigin (tokIn s.cur.l)) (passed s.cur.firstOrigin (tokIn s.cur.l))) :=
  congrArg Host.Outcome.next (raw_run _ _ _ _ _ _ h)

/-- NULL gives the null of the firing's first origin, whether it runs or is nulled by an operand. -/
theorem exec_null (h : s.cur.pRuns pr) : exec (.null pr t1 t0) s =
    .next (s.emit 1 t0 t1 (withPoison tokNull s.cur.firstOrigin) (withPoison tokNull s.cur.firstOrigin)) := by
  refine congrArg Host.Outcome.next ?_
  have hv := Cur.verdict_of_pRuns h
  split at hv
  · exact frame_nulls hv
  · exact frame_run _ _ _ _ _ _ hv

/-- SEL passes the token that C selects. -/
theorem exec_sel (hv : s.cur.verdict pr = .run) : exec (.sel pr t1 t0) s =
    .next (s.emit 1 t0 t1 (passed s.cur.firstOrigin (if s.cv.getLsbD 0 then tokIn s.cur.l else tokIn s.cur.r))
      (passed s.cur.firstOrigin (if s.cv.getLsbD 0 then tokIn s.cur.l else tokIn s.cur.r))) :=
  congrArg Host.Outcome.next (frame_run _ _ _ _ _ _ hv)

/-- FBFLY gives the sum and the difference of L and R, each with its own event. -/
theorem exec_fbfly : exec (.fbfly pr t1 t0) s = .next (s.two pr 4 t1 t0 (resOf (addNum s.rm (decodeF fp32 s.lv.toNat) (decodeF fp32 s.rv.toNat)))
    (resOf (addNum s.rm (decodeF fp32 s.lv.toNat) (decodeF fp32 s.rv.toNat).neg))) := rfl

end

/-- A halfword above the low half of a word, by masks (R95). -/
theorem append_low_half (imm : BitVec 16) (l : Word) :
    (imm ++ l.extractLsb' 0 16 : Word) = (l &&& 0x0000FFFF) ||| (BitVec.ofNat 32 imm.toNat <<< 16) := by
  apply BitVec.eq_of_toNat_eq
  have hmask : l.toNat &&& 65535 = l.toNat % 2 ^ 16 := Nat.and_two_pow_sub_one_eq_mod _ 16
  have himm : imm.toNat <<< 16 % 2 ^ 32 = imm.toNat <<< 16 := Nat.mod_eq_of_lt (by rw [Nat.shiftLeft_eq]; omega)
  simp only [BitVec.toNat_append, BitVec.extractLsb'_toNat, BitVec.toNat_or, BitVec.toNat_and, BitVec.toNat_shiftLeft, BitVec.toNat_ofNat]
  rw [Nat.mod_eq_of_lt (show imm.toNat < 2 ^ 32 by omega), himm, Nat.or_comm]
  simp [hmask]

/-- Settles O7: each form by its equation, FBFLY by which of its two sums has an event. -/
theorem movesAndButterflies : Obligations.MovesAndButterflies := by
  refine ⟨fun s pr imm t1 t0 => ⟨fun h => ⟨exec_mov h, exec_null h⟩, fun hv => ⟨?genc, ?gens, ?genh⟩, exec_sel⟩,
    fun s pr t1 t0 hv => ⟨two_zero _ _ _ _ _ _ _ hv, fun h => ?neither, fun ho hs hd => ?first, fun ho hs hd => ?second⟩⟩
  case genc => exact BitVec.ofNat_toNat 32 imm ▸ one_zero _ _ _ _ _ _ hv
  case gens => exact one_zero _ _ _ _ _ _ hv
  case genh => exact append_low_half imm s.lv ▸ one_zero _ _ _ _ _ _ hv
  case neither =>
    rw [exec_fbfly]
    rcases h with ho | ⟨hs, hd⟩
    · exact two_pois hv ho ..
    · rw [resOf, resOf, hs, hd]
      exact two_zero _ _ _ _ _ _ _ hv
  case first =>
    rw [exec_fbfly, resOf, resOf, hd, two_kind_zero hv ho _ _ _ hs]
  case second =>
    rw [exec_fbfly, resOf, resOf, hs, two_zero_kind hv ho _ _ _ hd]

/-! ### What a firing that runs gives (R36, R91) -/

section
variable {s : State} {pr : BitVec 2} {lat : Nat} {t1 t0 : Target} {v v' w w' : Word}

/-- One result and two without events, by their values. -/
theorem one_gives (hv : s.cur.verdict pr = .run) (h : v = w) : Host.Outcome.next (s.one pr lat t1 t0 ⟨v, 0⟩) = s.gives lat t1 t0 w :=
  h ▸ one_zero _ _ _ _ _ _ hv
theorem two_gives (hv : s.cur.verdict pr = .run) (h : v = w) (h' : v' = w') :
    Host.Outcome.next (s.two pr lat t1 t0 ⟨v, 0⟩ ⟨v', 0⟩) = s.givesTwo lat t1 t0 w w' :=
  h ▸ h' ▸ two_zero _ _ _ _ _ _ _ hv

end

/-- A Bool as a word is 1 where what it decides holds, and 0 otherwise. -/
theorem boolW_eq {b : Bool} {p : Prop} [Decidable p] (h : b = true ↔ p) : boolW b = if p then 1 else 0 := by
  unfold boolW
  simp only [h]

/-! ### Values (R97 to R99) -/

/-- A difference of integers as a word. -/
theorem ofInt_sub {n : Nat} (x y : Int) : BitVec.ofInt n (x - y) = BitVec.ofInt n x - BitVec.ofInt n y := by
  rw [Int.sub_eq_add_neg, BitVec.ofInt_add, BitVec.ofInt_neg, BitVec.sub_eq_add_neg]

section
variable (l r : Word)

/-- An arithmetic shift by 31 or more leaves the sign in every bit. -/
theorem sarV_eq : sarV l r = if r.toNat < 32 then l.sshiftRight r.toNat else if l.getLsbD 31 then 0xFFFFFFFF else 0 := by
  unfold sarV
  split
  · rw [Nat.min_eq_left (by omega)]
  · rw [Nat.min_eq_right (by omega)]
    apply BitVec.eq_of_getLsbD_eq
    intro i hi
    have hsign : (if 31 + i < 32 then l.getLsbD (31 + i) else l.msb) = l.getLsbD 31 := by
      split
      · rw [show i = 0 by omega]
      · rfl
    rw [BitVec.getLsbD_sshiftRight, hsign, decide_eq_false (by omega), Bool.not_false, Bool.true_and]
    cases l.getLsbD 31
    · simp
    · exact (BitVec.getLsbD_allOnes (v := 32) ▸ decide_eq_true hi).symm

/-- A rotation is two shifts. -/
theorem rotateLeft_mod : l.rotateLeft (r.toNat % 32) = l <<< (r.toNat % 32) ||| l >>> (32 - r.toNat % 32) := by
  rw [BitVec.rotateLeft_def, Nat.mod_mod]
theorem rotateRight_mod : l.rotateRight (r.toNat % 32) = l >>> (r.toNat % 32) ||| l <<< (32 - r.toNat % 32) := by
  rw [BitVec.rotateRight_def, Nat.mod_mod]

/-- The lesser and the greater of two words, by their signed and by their unsigned readings (R97). -/
theorem ite_slt_min : (if l.slt r then l else r) = BitVec.ofInt 32 (Min.min l.toInt r.toInt) := by
  rw [min_def_lt, apply_ite (BitVec.ofInt 32), BitVec.ofInt_toInt, BitVec.ofInt_toInt]
  simp only [BitVec.slt_iff_toInt_lt]
theorem ite_slt_max : (if l.slt r then r else l) = BitVec.ofInt 32 (Max.max l.toInt r.toInt) := by
  rw [max_def_lt, apply_ite (BitVec.ofInt 32), BitVec.ofInt_toInt, BitVec.ofInt_toInt]
  simp only [BitVec.slt_iff_toInt_lt]
theorem ite_ult_min : (if l.ult r then l else r) = BitVec.ofNat 32 (Min.min l.toNat r.toNat) := by
  rw [min_def_lt, apply_ite (BitVec.ofNat 32), BitVec.ofNat_toNat, BitVec.ofNat_toNat, BitVec.setWidth_eq, BitVec.setWidth_eq]
  simp only [BitVec.ult_iff_toNat_lt]
theorem ite_ult_max : (if l.ult r then r else l) = BitVec.ofNat 32 (Max.max l.toNat r.toNat) := by
  rw [max_def_lt, apply_ite (BitVec.ofNat 32), BitVec.ofNat_toNat, BitVec.ofNat_toNat, BitVec.setWidth_eq, BitVec.setWidth_eq]
  simp only [BitVec.ult_iff_toNat_lt]

/-- SUBB subtracts modulo 2^32. -/
theorem sub_borrow (b : Nat) : l - r - word b = BitVec.ofInt 32 ((l.toNat : Int) - r.toNat - b) := by
  simp [word, ofInt_sub, BitVec.ofInt_natCast]

/-- The distance of two signed readings, as the difference that is not negative. -/
theorem ite_le_dist : (if r.toInt ≤ l.toInt then l - r else r - l) = BitVec.ofNat 32 (l.toInt - r.toInt).natAbs := by
  rw [← BitVec.ofInt_natCast]
  split
  · rw [Int.natAbs_of_nonneg (by omega), ofInt_sub, BitVec.ofInt_toInt, BitVec.ofInt_toInt]
  · rw [Int.ofNat_natAbs_of_nonpos (by omega), Int.neg_sub, ofInt_sub, BitVec.ofInt_toInt, BitVec.ofInt_toInt]

end

/-- Settles O8: each form by the value of its operation. -/
theorem integerAlu : Obligations.IntegerAlu := by
  intro s pr t1 t0 hv
  exact ⟨one_gives hv rfl, one_gives hv rfl, one_gives hv rfl, one_gives hv rfl, one_gives hv rfl, one_gives hv rfl, one_gives hv rfl,
    one_gives hv rfl, one_gives hv rfl, one_gives hv rfl, one_gives hv (sarV_eq ..), one_gives hv (rotateLeft_mod ..),
    one_gives hv (rotateRight_mod ..), one_gives hv (ite_slt_min ..), one_gives hv (ite_slt_max ..), one_gives hv (ite_ult_min ..),
    one_gives hv (ite_ult_max ..), two_gives hv rfl (boolW_eq decide_eq_true_iff),
    two_gives hv (sub_borrow ..) (boolW_eq decide_eq_true_iff), one_gives hv (ite_le_dist ..)⟩

/-! ### Multiplication and division (R100, R101) -/

/-- One result of a division that has an event, and one of a division that has none. -/
theorem idiv_kind {s : State} {pr : BitVec 2} {t1 t0 : Target} (hv : s.cur.verdict pr = .run) {f : Word → Word → Res} {v : Word} {k : Nat}
    (h : f s.lv s.rv = ⟨v, k⟩) : s.idiv pr t1 t0 f = s.givesKind 20 t1 t0 v k := by
  unfold State.idiv
  rw [h, one_kind _ _ _ _ _ _ _ hv]
theorem idiv_exact {s : State} {pr : BitVec 2} {t1 t0 : Target} (hv : s.cur.verdict pr = .run) {f : Word → Word → Res} {v : Word}
    (h : f s.lv s.rv = ⟨v, 0⟩) : s.idiv pr t1 t0 f = s.gives 20 t1 t0 v := by
  rw [idiv_kind hv h, State.givesKind_zero]

section
variable {l r : Word}

/-- The low 32 bits of a product do not depend on the readings of its factors. -/
theorem mul_eq_ofNat : l * r = BitVec.ofNat 32 (l.toNat * r.toNat) := by
  rw [BitVec.ofNat_mul, BitVec.ofNat_toNat, BitVec.ofNat_toNat, BitVec.setWidth_eq, BitVec.setWidth_eq]

/-- The high 32 bits of an unsigned product. -/
theorem mulHi_unsigned : mulHi l.toNat r.toNat = BitVec.ofNat 32 (l.toNat * r.toNat / 2 ^ 32) := by
  rw [← BitVec.ofInt_natCast, Int.natCast_ediv, Int.natCast_mul]
  rfl

/-- Division by zero (R101). -/
theorem divV_zero : divV l 0 = ⟨0xFFFFFFFF, 3⟩ := rfl
theorem divuV_zero : divuV l 0 = ⟨0xFFFFFFFF, 3⟩ := rfl
theorem remV_zero : remV l 0 = ⟨l, 3⟩ := rfl
theorem remuV_zero : remuV l 0 = ⟨l, 3⟩ := rfl

/-- Every other division: the quotient rounds toward zero, and the remainder is what is left of L. -/
theorem divV_exact (h0 : r ≠ 0) (ho : ¬(l = 0x80000000 ∧ r = 0xFFFFFFFF)) : divV l r = ⟨BitVec.ofInt 32 (l.toInt.tdiv r.toInt), 0⟩ := by
  unfold divV
  rw [if_neg h0, if_neg ho, ← BitVec.ofInt_toInt (x := l.sdiv r), BitVec.toInt_sdiv, ← BitVec.toInt_ofInt, BitVec.ofInt_toInt]
theorem remV_exact (h0 : r ≠ 0) (ho : ¬(l = 0x80000000 ∧ r = 0xFFFFFFFF)) :
    remV l r = ⟨BitVec.ofInt 32 (l.toInt - r.toInt * l.toInt.tdiv r.toInt), 0⟩ := by
  unfold remV
  rw [if_neg h0, if_neg ho, ← Int.tmod_def, ← BitVec.toInt_srem, BitVec.ofInt_toInt]
theorem divuV_exact (h0 : r ≠ 0) : divuV l r = ⟨BitVec.ofNat 32 (l.toNat / r.toNat), 0⟩ := by
  unfold divuV
  rw [if_neg h0, ← BitVec.toNat_udiv, BitVec.ofNat_toNat, BitVec.setWidth_eq]
theorem remuV_exact (h0 : r ≠ 0) : remuV l r = ⟨BitVec.ofNat 32 (l.toNat - r.toNat * (l.toNat / r.toNat)), 0⟩ := by
  unfold remuV
  rw [if_neg h0, ← Nat.mod_eq_sub, ← BitVec.toNat_umod, BitVec.ofNat_toNat, BitVec.setWidth_eq]

end

/-- Settles O9: the products by their values, the divisions by their three cases. -/
theorem multiplyDivide : Obligations.MultiplyDivide := by
  intro s pr t1 t0 hv
  refine ⟨one_gives hv mul_eq_ofNat, one_gives hv rfl, one_gives hv mulHi_unsigned, one_gives hv rfl, one_gives hv rfl, one_gives hv rfl,
    fun h0 => ?zero, fun hl hr => ?overflow, fun h0 ho => ⟨idiv_exact hv (divV_exact h0 ho), idiv_exact hv (remV_exact h0 ho)⟩,
    fun h0 => ⟨idiv_exact hv (divuV_exact h0), idiv_exact hv (remuV_exact h0)⟩⟩
  case zero =>
    exact ⟨idiv_kind hv (h0 ▸ divV_zero), idiv_kind hv (h0 ▸ divuV_zero), idiv_kind hv (h0 ▸ remV_zero), idiv_kind hv (h0 ▸ remuV_zero)⟩
  case overflow => exact ⟨idiv_kind hv (by rw [hl, hr]; rfl), idiv_kind hv (by rw [hl, hr]; rfl)⟩

end Sys2Proof.Machine
end

section
/-! PROOFS of the statements of the scalar instructions: the unary, field and immediate forms and the integer tests (R102 to R106). -/

namespace Sys2Proof.Machine

/-! ### Counting and reversing bits (R102) -/

/-- The bits of a number by their place. -/
theorem bitAt_eq_testBit (n i : Nat) : bitAt n i = n.testBit i := by
  rw [bitAt, Nat.shiftRight_eq_div_pow, Nat.testBit_eq_decide_div_mod_eq, beq_eq_decide]

theorem word_getLsbD (n : Nat) {i : Nat} (h : i < 32) : (word n).getLsbD i = n.testBit i := by
  rw [word, BitVec.getLsbD_ofNat, decide_eq_true h, Bool.true_and]

/-- CLZ counts the places above the highest bit that is set. -/
theorem clz_le (k n : Nat) : clz k n ≤ k := by
  induction k with
  | zero => exact Nat.le_refl 0
  | succ k ih => rw [clz]; split <;> omega
theorem testBit_of_clz_le {k n i : Nat} (hi : i < k) (h : k - clz k n ≤ i) : n.testBit i = false := by
  induction k with
  | zero => omega
  | succ k ih =>
    rw [clz, bitAt_eq_testBit] at h
    split at h
    · omega
    · rcases Nat.lt_succ_iff_lt_or_eq.mp hi with hlt | rfl
      · exact ih hlt (by have := clz_le k n; omega)
      · exact Bool.eq_false_iff.mpr ‹_›
theorem testBit_clz {k n : Nat} (h : clz k n < k) : n.testBit (k - 1 - clz k n) = true := by
  induction k with
  | zero => omega
  | succ k ih =>
    rw [clz, bitAt_eq_testBit] at h ⊢
    split
    · assumption
    · rw [if_neg ‹_›] at h
      rw [show k + 1 - 1 - (1 + clz k n) = k - 1 - clz k n by omega]
      exact ih (by omega)

/-- CTZ counts the places below the lowest bit that is set. -/
theorem ctz_le (k n : Nat) : ctz k n ≤ k := by
  induction k generalizing n with
  | zero => exact Nat.le_refl 0
  | succ k ih => have := ih (n / 2); rw [ctz]; split <;> omega
theorem testBit_of_lt_ctz {k n i : Nat} (h : i < ctz k n) : n.testBit i = false := by
  induction k generalizing n i with
  | zero => exact absurd h (Nat.not_lt_zero i)
  | succ k ih =>
    rw [ctz] at h
    split at h
    · omega
    · cases i with
      | zero => rw [Nat.testBit_zero]; exact decide_eq_false ‹_›
      | succ i => rw [Nat.testBit_succ]; exact ih (by omega)
theorem testBit_ctz {k n : Nat} (h : ctz k n < k) : n.testBit (ctz k n) = true := by
  induction k generalizing n with
  | zero => omega
  | succ k ih =>
    rw [ctz] at h ⊢
    split
    · rw [Nat.testBit_zero]; exact decide_eq_true ‹_›
    · rw [if_neg ‹_›] at h
      rw [Nat.add_comm, Nat.testBit_succ]
      exact ih (by omega)

/-- POPC counts the bits that are set. -/
theorem popc_eq_countP (k n : Nat) : popc k n = (List.range k).countP n.testBit := by
  induction k generalizing n with
  | zero => rfl
  | succ k ih =>
    have hshift : n.testBit ∘ Nat.succ = (n / 2).testBit := funext fun i => Nat.testBit_succ ..
    rw [popc, ih, List.range_succ_eq_map, List.countP_cons, List.countP_map, hshift, Nat.testBit_zero]
    rcases Nat.mod_two_eq_zero_or_one n with h | h <;> simp [h, Nat.add_comm]

/-- BREV moves each bit to its mirror place. -/
theorem brev_lt (k n : Nat) : brev k n < 2 ^ k := by
  induction k generalizing n with
  | zero => exact Nat.one_pos
  | succ k ih =>
    have := ih (n / 2)
    rw [brev, Nat.pow_succ]
    rcases Nat.mod_two_eq_zero_or_one n with h | h <;> simp [h] <;> omega
theorem testBit_brev {k n i : Nat} (h : i < k) : (brev k n).testBit (k - 1 - i) = n.testBit i := by
  induction k generalizing n i with
  | zero => omega
  | succ k ih =>
    rw [brev, Nat.mul_comm, Nat.testBit_two_pow_mul_add _ (brev_lt ..)]
    cases i with
    | zero => simp [Nat.testBit_zero]
    | succ i =>
      rw [if_pos (by omega), show k + 1 - 1 - (i + 1) = k - 1 - i by omega, ih (by omega), Nat.testBit_succ]

/-- BSWAP moves each byte to its mirror place. -/
theorem bswapV_getLsbD (l : Word) {i j : Nat} (hi : i < 4) (hj : j < 8) : (bswapV l).getLsbD (8 * (3 - i) + j) = l.getLsbD (8 * i + j) := by
  unfold bswapV
  simp only [BitVec.getLsbD_append, BitVec.getLsbD_extractLsb']
  match i, hi with
  | 0, _ =>
    simp [hj, show ¬ 24 + j < 8 by omega, show ¬ 24 + j - 8 < 8 by omega, show ¬ 24 + j - 8 - 8 < 8 by omega, show 24 + j - 8 - 8 - 8 = j by omega]
  | 1, _ => simp [hj, show ¬ 16 + j < 8 by omega, show ¬ 16 + j - 8 < 8 by omega, show 16 + j - 8 - 8 = j by omega]
  | 2, _ => simp [hj, show ¬ 8 + j < 8 by omega]
  | 3, _ => simp [hj]

/-! ### Signs and low parts (R102) -/

/-- The magnitude of a signed reading. -/
theorem ite_slt_zero (l : Word) : (if l.slt 0 then 0 - l else l) = if 0 ≤ l.toInt then l else 0 - l := by
  rw [BitVec.slt_eq_decide]
  by_cases h : l.toInt < 0
  · simp [h, Int.not_le.mpr h]
  · simp [h, Int.not_lt.mp h]

/-- The low bits of a word, extended by their sign and by zeros. -/
theorem signExtend_low (l : Word) {k : Nat} (h : k ≤ 32) : (l.extractLsb' 0 k).signExtend 32 = BitVec.signExtend 32 (BitVec.setWidth k l) := by
  rw [BitVec.setWidth_eq_extractLsb' h]
theorem setWidth_low (l : Word) (k : Nat) : (l.extractLsb' 0 k).setWidth 32 = l &&& BitVec.ofNat 32 (2 ^ k - 1) := by
  apply BitVec.eq_of_getLsbD_eq
  intro i hi
  simp only [BitVec.getLsbD_setWidth, BitVec.getLsbD_extractLsb', BitVec.getLsbD_and, BitVec.getLsbD_ofNat, Nat.testBit_two_pow_sub_one, Nat.zero_add]
  rw [decide_eq_true hi, Bool.true_and, Bool.true_and, Bool.and_comm]

/-! ### Fields (R103) -/

/-- EXTR extends its field by its sign, or by zeros. -/
theorem extrV_eq (sgn : BitVec 1) (len lsb : BitVec 5) (l : Word) : extrV sgn len lsb l =
    if sgn = 1 then (l.extractLsb' lsb.toNat (len.toNat + 1)).signExtend 32 else (l.extractLsb' lsb.toNat (len.toNat + 1)).setWidth 32 := by
  have hfield : bits l.toNat (lsb.toNat + (len.toNat + 1) - 1) lsb.toNat = (l.extractLsb' lsb.toNat (len.toNat + 1)).toNat := by
    rw [bits, BitVec.extractLsb'_toNat, show lsb.toNat + (len.toNat + 1) - 1 + 1 - lsb.toNat = len.toNat + 1 by omega]
  simp only [extrV, hfield, sxt_eq_toInt, BitVec.ofNat_toNat, BitVec.setWidth_eq, wordOfInt, word]
  rfl

/-- The bits of EXTR: its field, and above it the sign or zeros. -/
theorem extrV_getLsbD (sgn : BitVec 1) (len lsb : BitVec 5) (l : Word) {i : Nat} (hi : i < 32) : (extrV sgn len lsb l).getLsbD i =
    if i < len.toNat + 1 then l.getLsbD (lsb.toNat + i) else decide (sgn = 1) && l.getLsbD (lsb.toNat + len.toNat) := by
  rw [extrV_eq]
  by_cases hs : sgn = 1
  · rw [if_pos hs, BitVec.getLsbD_signExtend, BitVec.msb_eq_getLsbD_last]
    simp only [BitVec.getLsbD_extractLsb', hs, hi, decide_true, Bool.true_and, Nat.add_sub_cancel, Nat.lt_succ_self]
    split <;> simp [*]
  · rw [if_neg hs, BitVec.getLsbD_setWidth, decide_eq_true hi, decide_eq_false hs]
    simp only [BitVec.getLsbD_extractLsb', Bool.true_and, Bool.false_and]
    split <;> simp [*]

/-- The bits of a number in which the bits [hi:lo] have been replaced. -/
theorem testBit_setBits {n hi lo v : Nat} (h : lo ≤ hi) (i : Nat) :
    (setBits n hi lo v).testBit i = if lo ≤ i ∧ i ≤ hi then v.testBit (i - lo) else n.testBit i := by
  obtain ⟨w, rfl⟩ : ∃ w, hi = lo + w := ⟨hi - lo, by omega⟩
  have hw : lo + w + 1 - lo = w + 1 := by omega
  have hlow : n % 2 ^ lo < 2 ^ lo := Nat.mod_lt _ (Nat.two_pow_pos lo)
  have hnew : v % 2 ^ (w + 1) < 2 ^ (w + 1) := Nat.mod_lt _ (Nat.two_pow_pos _)
  have hold : n / 2 ^ lo % 2 ^ (w + 1) < 2 ^ (w + 1) := Nat.mod_lt _ (Nat.two_pow_pos _)
  have hn : n = 2 ^ lo * (2 ^ (w + 1) * (n / 2 ^ lo / 2 ^ (w + 1)) + n / 2 ^ lo % 2 ^ (w + 1)) + n % 2 ^ lo := by
    rw [Nat.div_add_mod, Nat.div_add_mod]
  have hset : setBits n (lo + w) lo v = 2 ^ lo * (2 ^ (w + 1) * (n / 2 ^ lo / 2 ^ (w + 1)) + v % 2 ^ (w + 1)) + n % 2 ^ lo := by
    rw [setBits, bits, Nat.shiftRight_eq_div_pow, hw]
    conv_lhs => enter [1, 1]; rw [hn]
    rw [Nat.mul_add, Nat.mul_add, Nat.mul_comm (n / 2 ^ lo % _), Nat.mul_comm (v % _)]
    omega
  rw [hset, Nat.testBit_two_pow_mul_add _ hlow, Nat.testBit_two_pow_mul_add _ hnew]
  conv_rhs => rw [hn, Nat.testBit_two_pow_mul_add _ hlow, Nat.testBit_two_pow_mul_add _ hold]
  by_cases h1 : i < lo
  · simp [h1, Nat.not_le.mpr h1]
  · by_cases h2 : i - lo < w + 1
    · simp [h1, h2, Nat.not_lt.mp h1, show i ≤ lo + w by omega, Nat.testBit_mod_two_pow]
    · simp [h1, h2, show ¬ i ≤ lo + w by omega]

/-- The bits of INS. -/
theorem insV_getLsbD (len lsb : BitVec 5) (l r : Word) {i : Nat} (hi : i < 32) : (insV len lsb l r).getLsbD i =
    if lsb.toNat ≤ i ∧ i ≤ lsb.toNat + len.toNat then r.getLsbD (i - lsb.toNat) else l.getLsbD i := by
  rw [insV, word_getLsbD _ hi, testBit_setBits (Nat.le_add_right ..), BitVec.testBit_toNat, BitVec.testBit_toNat]

/-- Settles O10: the unary forms and the fields bit by bit, the immediate forms by their values. -/
theorem unaryAndImmediateForms : Obligations.UnaryAndImmediateForms := by
  refine ⟨fun s pr t1 t0 hv => ⟨one_gives hv rfl, one_gives hv rfl, one_gives hv (ite_slt_zero _), ?clz, ?ctz,
    one_gives hv (congrArg _ (popc_eq_countP ..)), ⟨_, one_gives hv rfl, fun i hi => ?brev⟩, ⟨_, one_gives hv rfl, fun i j => bswapV_getLsbD _⟩,
    one_gives hv (signExtend_low _ (by decide)), one_gives hv (signExtend_low _ (by decide)), one_gives hv (setWidth_low _ 8), one_gives hv (setWidth_low _ 16),
    fun sgn len lsb hfit => ⟨⟨_, one_gives hv rfl, fun i hi => ?part, fun i hi h32 => ?above⟩,
      ⟨_, one_gives hv rfl, fun i hi => ?field, fun i hi => ?outside⟩⟩⟩,
    fun s pr imm sh t0 hv => ⟨one_gives hv rfl, one_gives hv rfl, one_gives hv rfl, one_gives hv rfl, one_gives hv rfl, one_gives hv rfl,
      one_gives hv rfl, one_gives hv rfl⟩⟩
  case clz =>
    refine ⟨clz 32 s.lv.toNat, one_gives hv rfl, clz_le .., fun i hi => ?_, fun h => testBit_clz h⟩
    by_cases h : i < 32
    · exact testBit_of_clz_le h hi
    · exact BitVec.getLsbD_of_ge _ _ (Nat.not_lt.mp h)
  case ctz => exact ⟨ctz 32 s.lv.toNat, one_gives hv rfl, ctz_le .., fun i => testBit_of_lt_ctz, fun h => testBit_ctz h⟩
  case brev =>
    rw [word_getLsbD _ (by omega)]
    exact testBit_brev hi
  case part => rw [extrV_getLsbD _ _ _ _ (by omega), if_pos (by omega)]
  case above => rw [extrV_getLsbD _ _ _ _ h32, if_neg (by omega)]
  case field =>
    rw [insV_getLsbD _ _ _ _ (by omega), if_pos (by omega), Nat.add_sub_cancel_left]
  case outside =>
    by_cases h : i < 32
    · rw [insV_getLsbD _ _ _ _ h, if_neg (by omega)]
    · rw [BitVec.getLsbD_of_ge _ _ (Nat.not_lt.mp h), BitVec.getLsbD_of_ge _ _ (Nat.not_lt.mp h)]

/-! ### Tests (R105, R106) -/

section
variable {s : State} {pr : BitVec 2} {t1 t0 : Target} {b : Bool} {p : Prop} [Decidable p]

/-- A test gives 1 where its relation holds, and 0 otherwise. -/
theorem one_test (hv : s.cur.verdict pr = .run) (h : b = true ↔ p) :
    Host.Outcome.next (s.one pr 1 t1 t0 ⟨boolW b, 0⟩) = s.gives 1 t1 t0 (if p then 1 else 0) := one_gives hv (boolW_eq h)

end

/-- TBIT of a place outside the word is 0. -/
theorem tbitV_iff (l r : Word) : tbitV l r = true ↔ r.toNat < 32 ∧ l.getLsbD r.toNat = true := by
  rw [tbitV, Bool.and_eq_true, decide_eq_true_iff, bitAt_toNat]

/-- Settles O11: each test by its relation. -/
theorem integerTests : Obligations.IntegerTests := by
  intro s pr imm t1 t0 hv i
  exact ⟨one_test hv beq_iff_eq, one_test hv bne_iff_ne, one_test hv BitVec.slt_iff_toInt_lt, one_test hv BitVec.sle_iff_toInt_le,
    one_test hv BitVec.slt_iff_toInt_lt, one_test hv BitVec.sle_iff_toInt_le, one_test hv BitVec.ult_iff_toNat_lt,
    one_test hv BitVec.ule_iff_toNat_le, one_test hv BitVec.ult_iff_toNat_lt, one_test hv BitVec.ule_iff_toNat_le,
    one_test hv (tbitV_iff ..), one_test hv beq_iff_eq, one_test hv bne_iff_ne, one_test hv BitVec.slt_iff_toInt_lt,
    one_test hv BitVec.sle_iff_toInt_le, one_test hv BitVec.ult_iff_toNat_lt, one_test hv BitVec.ule_iff_toNat_le⟩

end Sys2Proof.Machine
end

section
/-! PROOFS of the statements of the scalar instructions: FP32 words, the order of their values, and the forms that do not round (R64, R109, R110, R114, R115). -/

namespace Sys2Proof.Machine

/-! ### The sign and the magnitude of a word (R64) -/

/-- The word of a sign. -/
def fpSign (b : Bool) : Word := if b then 0x80000000 else 0

section
variable (w : Word)

/-- The magnitude of a word is its low 31 bits. -/
theorem and_mag_toNat : (w &&& 0x7FFFFFFF).toNat = w.toNat % 2 ^ 31 := by
  rw [BitVec.toNat_and]
  exact Nat.and_two_pow_sub_one_eq_mod _ 31
theorem and_mag_eq_iff {k : Nat} (hk : k < 2 ^ 32) : w &&& 0x7FFFFFFF = BitVec.ofNat 32 k ↔ w.toNat % 2 ^ 31 = k := by
  rw [← BitVec.toNat_inj, and_mag_toNat, BitVec.toNat_ofNat, Nat.mod_eq_of_lt hk]

/-- The sign of a word is its bit 31. -/
theorem getLsbD_sign : w.getLsbD 31 = decide (2 ^ 31 ≤ w.toNat) := by
  rw [BitVec.getLsbD, Nat.testBit_eq_decide_div_mod_eq]
  refine decide_eq_decide.mpr ?_
  omega
theorem and_sign : w &&& 0x80000000 = fpSign (w.getLsbD 31) := by
  have h := BitVec.and_twoPow w 31
  rw [fpSign]
  exact h

/-- A word is its magnitude with its sign. -/
theorem mag_or_sign : (w &&& 0x7FFFFFFF) ||| fpSign (w.getLsbD 31) = w := by
  rw [← and_sign, ← BitVec.and_or_distrib_left]
  exact BitVec.and_allOnes

end

/-- The word of a sign and a magnitude, by its number. -/
theorem word_sign_mag (b : Bool) {n : Nat} (h : n < 2 ^ 31) : word (b2n b * 2 ^ 31 + n) = word n ||| fpSign b := by
  cases b with
  | false => simp [b2n, fpSign]
  | true =>
    apply BitVec.eq_of_toNat_eq
    rw [BitVec.toNat_or, word, word, BitVec.toNat_ofNat, BitVec.toNat_ofNat, Nat.mod_eq_of_lt (a := n) (by omega), Nat.or_comm,
      Nat.mod_eq_of_lt (by simp only [b2n, if_true]; omega)]
    exact Nat.two_pow_add_eq_or_of_lt h 1

/-- A sign that is inverted leaves the magnitude. -/
theorem xor_sign_mag (w : Word) (b : Bool) : (w ^^^ fpSign b) &&& 0x7FFFFFFF = w &&& 0x7FFFFFFF := by
  cases b with
  | false => simp [fpSign]
  | true =>
    have hbit : ∀ i, (0x7FFFFFFF : Word).getLsbD i = decide (i < 31) := fun i => Nat.testBit_two_pow_sub_one 31 i
    apply BitVec.eq_of_getLsbD_eq
    intro i _
    rw [BitVec.getLsbD_and, BitVec.getLsbD_and, BitVec.getLsbD_xor, hbit, fpSign, if_pos rfl, show (0x80000000 : Word) = BitVec.twoPow 32 31 from rfl,
      BitVec.getLsbD_twoPow]
    by_cases h : i < 31
    · simp [h, h.ne']
    · simp [h]
theorem xor_sign_sign (w : Word) (b : Bool) : (w ^^^ fpSign b).getLsbD 31 = (w.getLsbD 31 != b) := by
  rw [BitVec.getLsbD_xor]
  cases b <;> rfl

/-! ### The number that a word holds (R64) -/

/-- The significand and the exponent of a finite magnitude: below 2^23 it is subnormal. -/
def fpMant (a : Nat) : Nat := if a < 2 ^ 23 then a else 2 ^ 23 + a % 2 ^ 23
def fpExp (a : Nat) : Int := ((a / 2 ^ 23 - 1 : Nat) : Int) - 149

/-- A word is a NaN, an infinity or a finite number. -/
theorem fp_cases (w : Word) : fpNaN w ∨ w.toNat % 2 ^ 31 = 0x7F800000 ∨ w.toNat % 2 ^ 31 < 0x7F800000 := by
  unfold fpNaN
  omega

/-- The FP32 words of finite numbers, and of zeros. -/
theorem decodeF_finite {w : Word} (h : w.toNat % 2 ^ 31 < 0x7F800000) :
    decodeF fp32 w.toNat = .fin (w.getLsbD 31) (fpMant (w.toNat % 2 ^ 31)) (fpExp (w.toNat % 2 ^ 31)) := by
  have he : w.toNat >>> 23 % 256 = w.toNat % 2 ^ 31 / 2 ^ 23 := by rw [Nat.shiftRight_eq_div_pow]; omega
  have hm : w.toNat % 8388608 = w.toNat % 2 ^ 31 % 2 ^ 23 := by omega
  have htop : w.toNat % 2 ^ 31 / 2 ^ 23 ≠ 255 := by omega
  simp only [decodeF, fp32, Nat.reducePow, Nat.reduceAdd, Nat.reduceSub, bitAt_toNat] at *
  simp only [hm, he, htop, and_false, if_false, reduceCtorEq, false_and]
  generalize w.toNat % 2147483648 = a at *
  unfold fpMant fpExp
  split
  · rw [if_pos (by omega)]
    congr 1 <;> omega
  · rw [if_neg (by omega)]
    congr 1; omega
theorem decodeF_zero {w : Word} (h : w.toNat % 2 ^ 31 = 0) : decodeF fp32 w.toNat = .fin (w.getLsbD 31) 0 (-149) := by
  rw [decodeF_finite (by omega), h]
  rfl

/-- A word whose sign is inverted holds the number whose sign is inverted. -/
theorem decodeF_neg (w : Word) : decodeF fp32 (w ^^^ fpSign true).toNat = (decodeF fp32 w.toNat).neg := by
  have hmag : (w ^^^ fpSign true).toNat % 2 ^ 31 = w.toNat % 2 ^ 31 := by
    rw [← and_mag_toNat, xor_sign_mag, and_mag_toNat]
  have hsign : (w ^^^ fpSign true).getLsbD 31 = !w.getLsbD 31 := by rw [xor_sign_sign, Bool.bne_true]
  rcases fp_cases w with h | h | h
  · rw [decodeF_nan h, decodeF_nan (by unfold fpNaN; rwa [hmag]), hsign]
    rfl
  · rw [decodeF_inf h, decodeF_inf (hmag.trans h), hsign]
    rfl
  · rw [decodeF_finite h, decodeF_finite (hmag.trans_lt h), hmag, hsign]
    rfl

/-! ### The order of numbers (R109, R114) -/

/-- Two magnitudes compare as their multiples of any grid that is finer. -/
theorem magLt_grid {m1 m2 : Nat} {e1 e2 q : Int} (h1 : q ≤ e1) (h2 : q ≤ e2) :
    magLt m1 e1 m2 e2 = decide (m1 * 2 ^ (e1 - q).toNat < m2 * 2 ^ (e2 - q).toNat) := by
  have hs1 : (e1 - q).toNat = (e1 - min e1 e2).toNat + (min e1 e2 - q).toNat := by omega
  have hs2 : (e2 - q).toNat = (e2 - min e1 e2).toNat + (min e1 e2 - q).toNat := by omega
  rw [magLt, hs1, hs2, Nat.pow_add, Nat.pow_add, ← Nat.mul_assoc, ← Nat.mul_assoc]
  exact decide_eq_decide.mpr (Nat.mul_lt_mul_right (Nat.two_pow_pos _)).symm

/-- A magnitude as a multiple of the smallest one. -/
def fpScaled (a : Nat) : Nat := fpMant a * 2 ^ (a / 2 ^ 23 - 1)

/-- Magnitudes are ordered as the words that hold them. -/
theorem fpScaled_strictMono : StrictMono fpScaled := by
  refine strictMono_nat_of_lt_succ fun a => ?_
  unfold fpScaled fpMant
  by_cases hlast : a % 2 ^ 23 = 2 ^ 23 - 1
  · have hsucc : (a + 1) / 2 ^ 23 = a / 2 ^ 23 + 1 ∧ (a + 1) % 2 ^ 23 = 0 := by omega
    rw [hsucc.1, hsucc.2, if_neg (by omega : ¬ a + 1 < 2 ^ 23), Nat.add_sub_cancel]
    split
    · rw [show a / 2 ^ 23 = 0 by omega]
      omega
    · have hpow : 2 ^ (a / 2 ^ 23) = 2 * 2 ^ (a / 2 ^ 23 - 1) := by rw [Nat.mul_comm, Nat.two_pow_pred_mul_two (by omega)]
      rw [hpow, ← Nat.mul_assoc]
      exact Nat.mul_lt_mul_of_pos_right (by omega) (Nat.two_pow_pos _)
  · have hsucc : (a + 1) / 2 ^ 23 = a / 2 ^ 23 := by omega
    rw [hsucc]
    refine Nat.mul_lt_mul_of_pos_right ?_ (Nat.two_pow_pos _)
    split <;> split <;> omega

theorem magLt_fpMant (a b : Nat) : magLt (fpMant a) (fpExp a) (fpMant b) (fpExp b) = decide (a < b) := by
  have hexp : ∀ c, -149 ≤ fpExp c ∧ (fpExp c - (-149)).toNat = c / 2 ^ 23 - 1 := fun c => by unfold fpExp; omega
  rw [magLt_grid (hexp a).1 (hexp b).1, (hexp a).2, (hexp b).2]
  exact decide_eq_decide.mpr fpScaled_strictMono.lt_iff_lt

theorem fpMant_eq_zero {a : Nat} : fpMant a = 0 ↔ a = 0 := by
  unfold fpMant
  split <;> omega

/-- A magnitude with its sign. -/
def signed (n : Bool) (a : Nat) : Int := if n then -(a : Int) else a

theorem fpValue_eq (w : Word) : fpValue w = signed (w.getLsbD 31) (w.toNat % 2 ^ 31) := by
  unfold fpValue signed
  split
  · rfl
  · rename_i h
    rw [getLsbD_sign, decide_eq_true_iff] at h
    omega

/-- Numbers are ordered as their magnitudes with their signs, and an infinity as the magnitude of its word. -/
theorem numLt_inf_inf (n n' : Bool) : numLt (.inf n) (.inf n') = decide (signed n 0x7F800000 < signed n' 0x7F800000) := by revert n n'; decide
theorem numLt_inf_fin (n n' : Bool) {b : Nat} (hb : b < 0x7F800000) :
    numLt (.inf n) (.fin n' (fpMant b) (fpExp b)) = decide (signed n 0x7F800000 < signed n' b) := by
  unfold numLt signed
  cases n <;> simp <;> split <;> omega
theorem numLt_fin_inf (n n' : Bool) {a : Nat} (ha : a < 0x7F800000) :
    numLt (.fin n (fpMant a) (fpExp a)) (.inf n') = decide (signed n a < signed n' 0x7F800000) := by
  unfold numLt signed
  cases n' <;> simp <;> split <;> omega
theorem numLt_fin_fin (n n' : Bool) (a b : Nat) :
    numLt (.fin n (fpMant a) (fpExp a)) (.fin n' (fpMant b) (fpExp b)) = decide (signed n a < signed n' b) := by
  simp only [numLt, fpMant_eq_zero, magLt_fpMant, signed]
  rw [Bool.eq_iff_iff]
  cases n <;> cases n' <;> simp <;> omega

/-- Words that are no NaN are ordered by their values; -0 and +0 are equal. -/
theorem numLt_decodeF {l r : Word} (hl : ¬fpNaN l) (hr : ¬fpNaN r) :
    numLt (decodeF fp32 l.toNat) (decodeF fp32 r.toNat) = decide (fpValue l < fpValue r) := by
  rw [fpValue_eq, fpValue_eq]
  rcases (fp_cases l).resolve_left hl with h | h <;> rcases (fp_cases r).resolve_left hr with h' | h'
  · rw [decodeF_inf h, decodeF_inf h', h, h', numLt_inf_inf]
  · rw [decodeF_inf h, decodeF_finite h', h, numLt_inf_fin _ _ h']
  · rw [decodeF_finite h, decodeF_inf h', h', numLt_fin_inf _ _ h]
  · rw [decodeF_finite h, decodeF_finite h', numLt_fin_fin]

/-! ### NaNs -/

/-- A word decodes to a NaN exactly when it is one. -/
theorem isNaN_decodeF (w : Word) : (decodeF fp32 w.toNat).isNaN = true ↔ fpNaN w := by
  rcases fp_cases w with h | h | h
  · simp [decodeF_nan h, Num.isNaN, h]
  · rw [decodeF_inf h]
    exact iff_of_false nofun fun hn => by unfold fpNaN at hn; omega
  · rw [decodeF_finite h]
    exact iff_of_false nofun fun hn => by unfold fpNaN at hn; omega
theorem isNaN_of_nan {w : Word} (h : fpNaN w) : (decodeF fp32 w.toNat).isNaN = true := (isNaN_decodeF w).mpr h
theorem isNaN_of_not {w : Word} (h : ¬fpNaN w) : (decodeF fp32 w.toNat).isNaN = false := Bool.eq_false_iff.mpr fun hn => h ((isNaN_decodeF w).mp hn)

/-- The sign of a decoded word is its bit 31. -/
theorem isNeg_decodeF (w : Word) : (decodeF fp32 w.toNat).isNeg = w.getLsbD 31 := by
  rcases fp_cases w with h | h | h
  · rw [decodeF_nan h]; rfl
  · rw [decodeF_inf h]; rfl
  · rw [decodeF_finite h]; rfl

theorem word_toNat (w : Word) : word w.toNat = w := (BitVec.ofNat_toNat 32 w).trans (BitVec.setWidth_eq w)

/-! ### Minimum and maximum (R109) -/

/-- The rank is the order of the values, in which -0 goes before +0, and no two words share one. -/
theorem fpRank_lt_iff (l r : Word) : fpRank l < fpRank r ↔
    fpValue l < fpValue r ∨ ¬fpValue r < fpValue l ∧ l.getLsbD 31 = true ∧ r.getLsbD 31 = false := by
  unfold fpRank fpValue
  cases l.getLsbD 31 <;> cases r.getLsbD 31 <;> simp <;> omega
theorem fpRank_injective : Function.Injective fpRank := by
  intro l r h
  unfold fpRank at h
  rw [getLsbD_sign, getLsbD_sign] at h
  apply BitVec.eq_of_toNat_eq
  split at h <;> split at h <;> simp only [decide_eq_true_iff] at * <;> omega

section
variable {l r : Word}

/-- Two NaNs give the NaN, and one gives the other operand. -/
theorem fminmax_nan_nan (mx : Bool) (hl : fpNaN l) (hr : fpNaN r) : fminmax mx l.toNat r.toNat = nan32 := by
  simp [fminmax, isNaN_of_nan hl, isNaN_of_nan hr]
theorem fminmax_nan_left (mx : Bool) (hl : fpNaN l) (hr : ¬fpNaN r) : fminmax mx l.toNat r.toNat = r.toNat := by
  simp [fminmax, isNaN_of_nan hl, isNaN_of_not hr]
theorem fminmax_nan_right (mx : Bool) (hl : ¬fpNaN l) (hr : fpNaN r) : fminmax mx l.toNat r.toNat = l.toNat := by
  simp [fminmax, isNaN_of_not hl, isNaN_of_nan hr]

/-- Otherwise the rank decides. -/
theorem fminmax_ordered (mx : Bool) (hl : ¬fpNaN l) (hr : ¬fpNaN r) :
    fminmax mx l.toNat r.toNat = if fpRank l < fpRank r ↔ mx = true then r.toNat else l.toNat := by
  have hlt : (numLt (decodeF fp32 l.toNat) (decodeF fp32 r.toNat) || (!numLt (decodeF fp32 r.toNat) (decodeF fp32 l.toNat) &&
      (decodeF fp32 l.toNat).isNeg && !(decodeF fp32 r.toNat).isNeg)) = decide (fpRank l < fpRank r) := by
    rw [numLt_decodeF hl hr, numLt_decodeF hr hl, isNeg_decodeF, isNeg_decodeF, Bool.eq_iff_iff, decide_eq_true_iff, fpRank_lt_iff]
    simp [and_assoc]
  simp only [fminmax, isNaN_of_not hl, isNaN_of_not hr, hlt, Bool.false_and, Bool.false_eq_true, if_false]
  by_cases h : fpRank l < fpRank r <;> cases mx <;> simp [h]

theorem word_fmin (hl : ¬fpNaN l) (hr : ¬fpNaN r) : word (fminmax false l.toNat r.toNat) = if fpRank l ≤ fpRank r then l else r := by
  rw [fminmax_ordered _ hl hr]
  rcases Int.lt_trichotomy (fpRank l) (fpRank r) with h | h | h
  · simp [h, h.le, word_toNat]
  · simp [fpRank_injective h, word_toNat]
  · simp [h.not_gt, h.not_ge, word_toNat]
theorem word_fmax (hl : ¬fpNaN l) (hr : ¬fpNaN r) : word (fminmax true l.toNat r.toNat) = if fpRank l ≤ fpRank r then r else l := by
  rw [fminmax_ordered _ hl hr]
  rcases Int.lt_trichotomy (fpRank l) (fpRank r) with h | h | h
  · simp [h, h.le, word_toNat]
  · simp [fpRank_injective h, word_toNat]
  · simp [h.not_gt, h.not_ge, word_toNat]

/-! ### Sign forms (R110) -/

/-- A NaN gives the NaN; otherwise the magnitude takes the new sign. -/
theorem signForm_nan (h : fpNaN l) (n : Bool) : signForm l n = (nan32, 0) := by
  rw [signForm, if_pos (isNaN_of_nan h)]
theorem resOf_signForm (h : ¬fpNaN l) (n : Bool) : resOf (signForm l n) = ⟨(l &&& 0x7FFFFFFF) ||| fpSign n, 0⟩ := by
  have hmag : word (l.toNat % 2 ^ 31) = l &&& 0x7FFFFFFF := ((and_mag_eq_iff l (by omega)).mpr rfl).symm
  rw [signForm, isNaN_of_not h, if_neg (by decide), resOf, Nat.add_comm, word_sign_mag _ (by omega), hmag]

theorem mag_or_not_sign (w : Word) : (w &&& 0x7FFFFFFF) ||| fpSign (!w.getLsbD 31) = w ^^^ 0x80000000 := by
  rw [← xor_sign_mag w true, ← Bool.bne_true, ← xor_sign_sign, mag_or_sign]
  rfl

end

/-! ### Tests and classes (R114, R115) -/

section
variable {s : State} {pr : BitVec 2} {t1 t0 : Target} {b : Bool}

/-- A test that holds, and one that does not. -/
theorem one_test_true (hv : s.cur.verdict pr = .run) (h : b = true) : Host.Outcome.next (s.one pr 1 t1 t0 ⟨boolW b, 0⟩) = s.gives 1 t1 t0 1 :=
  one_gives hv (congrArg boolW h)
theorem one_test_false (hv : s.cur.verdict pr = .run) (h : b = false) : Host.Outcome.next (s.one pr 1 t1 t0 ⟨boolW b, 0⟩) = s.gives 1 t1 t0 0 :=
  one_gives hv (congrArg boolW h)

end

/-- Where an operand is a NaN, not both are numbers. -/
theorem not_numbers {l r : Word} (h : fpNaN l ∨ fpNaN r) : (!(decodeF fp32 l.toNat).isNaN && !(decodeF fp32 r.toNat).isNaN) = false := by
  rcases h with h | h
  · rw [isNaN_of_nan h]; rfl
  · rw [isNaN_of_nan h, Bool.not_true, Bool.and_false]
theorem numbers {l r : Word} (hl : ¬fpNaN l) (hr : ¬fpNaN r) : (!(decodeF fp32 l.toNat).isNaN && !(decodeF fp32 r.toNat).isNaN) = true := by
  rw [isNaN_of_not hl, isNaN_of_not hr]
  rfl

/-- FCLASS by the magnitude and the sign. -/
theorem word_fclass (w : Word) : word (fclass w.toNat) =
    if 0x7F800000 < w.toNat % 2 ^ 31 then 256
    else if w.toNat % 2 ^ 31 = 0x7F800000 then (if w.getLsbD 31 then 1 else 128)
    else if w.toNat % 2 ^ 31 = 0 then (if w.getLsbD 31 then 8 else 16)
    else if w.toNat % 2 ^ 31 < 0x00800000 then (if w.getLsbD 31 then 4 else 32)
    else (if w.getLsbD 31 then 2 else 64) := by
  unfold fclass
  rcases fp_cases w with h | h | h
  · rw [decodeF_nan h, if_pos (show 0x7F800000 < w.toNat % 2 ^ 31 from h)]
    rfl
  · rw [decodeF_inf h, if_neg h.not_gt, if_pos h]
    cases w.getLsbD 31 <;> rfl
  · have hsub : fpMant (w.toNat % 2 ^ 31) < 2 ^ 23 ↔ w.toNat % 2 ^ 31 < 0x00800000 := by unfold fpMant; split <;> omega
    rw [decodeF_finite h, if_neg h.not_gt, if_neg h.ne]
    simp only [fpMant_eq_zero, hsub]
    cases w.getLsbD 31 <;> simp only [if_true, if_false, Bool.false_eq_true, apply_ite word] <;> rfl

/-- Settles O15: the sign forms bit by bit, minimum and maximum by the rank, the tests by the values. -/
theorem floatSignsAndTests : Obligations.FloatSignsAndTests := by
  refine ⟨?signs, ?tests⟩
  case signs =>
    intro s pr t1 t0 hv l r
    refine ⟨fun hl hr => ?nan_nan, fun hl hr => ?nan_left, fun hl hr => ?nan_right, fun hl hr => ?ordered, fun hl => ?nan, fun hl => ?number⟩
    case nan_nan => exact ⟨one_gives hv (congrArg word (fminmax_nan_nan _ hl hr)), one_gives hv (congrArg word (fminmax_nan_nan _ hl hr))⟩
    case nan_left =>
      have h : ∀ mx, word (fminmax mx l.toNat r.toNat) = r := fun mx => by rw [fminmax_nan_left mx hl hr, word_toNat]
      exact ⟨one_gives hv (h _), one_gives hv (h _)⟩
    case nan_right =>
      have h : ∀ mx, word (fminmax mx l.toNat r.toNat) = l := fun mx => by rw [fminmax_nan_right mx hl hr, word_toNat]
      exact ⟨one_gives hv (h _), one_gives hv (h _)⟩
    case ordered => exact ⟨one_gives hv (word_fmin hl hr), one_gives hv (word_fmax hl hr)⟩
    case nan =>
      have h : ∀ n, s.fop pr 1 t1 t0 (signForm s.lv n) = s.gives 1 t1 t0 0x7FC00000 := fun n => by
        rw [State.fop, signForm_nan hl]
        exact one_zero _ _ _ _ _ _ hv
      exact ⟨h _, h _, h _⟩
    case number =>
      have h : ∀ n, s.fop pr 1 t1 t0 (signForm s.lv n) = s.gives 1 t1 t0 ((l &&& 0x7FFFFFFF) ||| fpSign n) := fun n => by
        rw [State.fop, resOf_signForm hl]
        exact one_zero _ _ _ _ _ _ hv
      refine ⟨?_, ?_, ?_⟩
      · rw [← BitVec.or_zero (x := l &&& 0x7FFFFFFF)]
        exact h false
      · exact mag_or_not_sign l ▸ h _
      · exact and_sign r ▸ h _
  case tests =>
    intro s pr t1 t0 hv l r m minus
    refine ⟨fun hn => ?nan, fun hl hr => ?number, one_gives hv (word_fclass l)⟩
    case nan =>
      have hnum : (!s.lf.isNaN && !s.rf.isNaN) = false := not_numbers hn
      refine ⟨one_test_false hv ?_, one_test_false hv ?_, one_test_false hv ?_, one_test_true hv ?_⟩
      · simp only [hnum, Bool.false_and]
      · simp only [hnum, Bool.false_and]
      · simp only [hnum, Bool.false_and]
      · simpa only [← Bool.not_or, Bool.not_eq_false'] using hnum
    case number =>
      have hlt : numLt s.lf s.rf = decide (fpValue l < fpValue r) := numLt_decodeF hl hr
      have hgt : numLt s.rf s.lf = decide (fpValue r < fpValue l) := numLt_decodeF hr hl
      have hnum : (!s.lf.isNaN && !s.rf.isNaN) = true := numbers hl hr
      refine ⟨one_test hv ?_, one_test hv ?_, one_test hv ?_, one_test_false hv ?_⟩
      · simp only [hnum, hlt, hgt, Bool.true_and, Bool.and_eq_true, Bool.not_eq_true', decide_eq_false_iff_not]
        omega
      · simp only [hnum, hlt, Bool.true_and, decide_eq_true_iff]
      · simp only [hnum, hgt, Bool.true_and, Bool.not_eq_true', decide_eq_false_iff_not, Int.not_lt]
      · simpa only [← Bool.not_or, Bool.not_eq_true'] using hnum

end Sys2Proof.Machine
end

section
/-! PROOFS of the statements of the scalar instructions: FP32 arithmetic and its special cases (R107, R108, R111 to R113). -/

namespace Sys2Proof.Machine

/-- Settles O12: each form rounds once what its number function gives. -/
theorem floatArithmetic : Obligations.FloatArithmetic := by
  intro s pr t1 t0 hv x y z
  have hgives : ∀ (lat : Nat) (r : Nat × Nat), Host.Outcome.next (s.one pr lat t1 t0 (resOf r)) = s.givesNum lat t1 t0 r :=
    fun lat r => one_kind _ _ _ _ _ _ _ hv
  exact ⟨hgives _ _, hgives _ _, hgives _ _, hgives _ _, hgives _ _, hgives _ _, hgives _ _, hgives _ _, hgives _ _, hgives _ _, hgives _ _⟩

/-! ### Numbers that FP32 holds (R65, R78) -/

/-- How many bits a number has, by the powers of 2 around it. -/
theorem bitLen_eq {n k : Nat} (hlo : 2 ^ k ≤ n) (hhi : n < 2 ^ (k + 1)) : bitLen n = k + 1 := by
  have hn : n ≠ 0 := by have := Nat.two_pow_pos k; omega
  rw [bitLen, if_neg hn, (Nat.log2_eq_iff hn).mpr ⟨hlo, hhi⟩]
theorem bitLen_mul_two_pow {n : Nat} (h : n ≠ 0) (j : Nat) : bitLen (n * 2 ^ j) = bitLen n + j := by
  obtain ⟨hlo, hhi⟩ := (Nat.log2_eq_iff h).mp rfl
  rw [bitLen_eq (k := n.log2 + j), bitLen, if_neg h]
  · omega
  · rw [Nat.pow_add]; exact Nat.mul_le_mul_right _ hlo
  · rw [Nat.add_right_comm, Nat.pow_add]; exact Nat.mul_lt_mul_of_pos_right hhi (Nat.two_pow_pos j)
theorem bitLen_le {n k : Nat} (h : n < 2 ^ k) : bitLen n ≤ k := by
  unfold bitLen
  split
  · omega
  · have := (Nat.log2_lt ‹_›).mpr h
    omega

section
variable {a : Nat}

/-- A normal magnitude has 24 significant bits, and a subnormal one stands on the finest grid. -/
theorem bitLen_fpMant (h : 2 ^ 23 ≤ a) : bitLen (fpMant a) = 24 := by
  unfold fpMant
  rw [if_neg (by omega)]
  exact bitLen_eq (k := 23) (by omega) (by omega)
theorem ulpExp_fpMant (h : a ≠ 0) (j : Nat) : ulpExp 24 fp32.emin (fpMant a * 2 ^ j) (fpExp a - j) = fpExp a := by
  rw [ulpExp, bitLen_mul_two_pow (fpMant_eq_zero.not.mpr h), show fp32.emin = -149 from rfl]
  by_cases hn : 2 ^ 23 ≤ a
  · rw [bitLen_fpMant hn]
    unfold fpExp
    omega
  · have hlen : bitLen (fpMant a) ≤ 23 := bitLen_le (by unfold fpMant; split <;> omega)
    have hexp : fpExp a = -149 := by unfold fpExp; omega
    omega

/-- A magnitude is packed into the bits that hold it. -/
theorem packF_fpMant (n : Bool) (h0 : a ≠ 0) (h : a < 0x7F800000) : packF fp32 n (fpMant a) (fpExp a) = b2n n * 2 ^ 31 + a := by
  unfold packF
  rw [if_neg (fpMant_eq_zero.not.mpr h0)]
  simp only [show fp32.mb = 23 from rfl, show fp32.eb = 8 from rfl, show fp32.emin = -149 from rfl]
  by_cases hn : 2 ^ 23 ≤ a
  · have hm : fpMant a = 2 ^ 23 + a % 2 ^ 23 := by unfold fpMant; rw [if_neg (by omega)]
    have he : fpExp a = ((a / 2 ^ 23 - 1 : Nat) : Int) - 149 := rfl
    have hplace : (fpExp a + (24 : Nat) - ((23 : Nat) + 1) - -149 + 1).toNat = a / 2 ^ 23 := by omega
    rw [bitLen_fpMant hn, if_pos (Nat.le_refl _), if_neg (by omega), hplace, hm, Nat.sub_self, Nat.pow_zero, Nat.mul_one, Nat.add_sub_cancel_left]
    omega
  · have hm : fpMant a = a := by unfold fpMant; rw [if_pos (by omega)]
    have hlen : bitLen a ≤ 23 := bitLen_le (by omega)
    have hexp : fpExp a = -149 := by unfold fpExp; omega
    rw [hm, hexp, if_pos (by omega), if_pos (by omega), show ((-149 : Int) - (-149 + bitLen a - ((23 : Nat) + 1))).toNat = 23 + 1 - bitLen a by omega,
      Nat.shiftRight_eq_div_pow, Nat.mul_div_cancel _ (Nat.two_pow_pos _)]

/-- No magnitude is above the largest one. -/
theorem aboveMax_fpMant (h : a < 0x7F800000) : aboveMax fp32 (fpMant a) (fpExp a) = false := by
  rw [aboveMax, show maxFin fp32 = (fpMant 0x7F7FFFFF, fpExp 0x7F7FFFFF) by decide, magLt_fpMant]
  exact decide_eq_false (by omega)

/-- A number that FP32 holds is rounded to itself in every mode, on whatever finer grid it is given. -/
theorem roundFP32_exact (rm : RMode) (n : Bool) (h0 : a ≠ 0) (h : a < 0x7F800000) {e : Int} (he : e ≤ fpExp a) :
    roundFP32 rm n (fpMant a * 2 ^ (fpExp a - e).toNat) e false = (b2n n * 2 ^ 31 + a, 0) := by
  obtain ⟨j, hj⟩ : ∃ j : Nat, e = fpExp a - j := ⟨(fpExp a - e).toNat, by omega⟩
  subst hj
  rw [show (fpExp a - (fpExp a - j)).toNat = j by omega]
  have hround : roundAt rm n (fpMant a * 2 ^ j) (fpExp a - j) (fpExp a) false = fpMant a := by
    have hgrid := roundAt_grid rm n (fpMant a * 2 ^ j) j (fpExp a - j)
    rw [Int.sub_add_cancel] at hgrid
    rw [hgrid, Nat.mul_mod_left, roundsUp_exact, if_neg (by decide), Nat.mul_div_cancel _ (Nat.two_pow_pos _)]
  unfold roundFP32
  dsimp only
  rw [ulpExp_fpMant h0, hround, if_neg (by rw [aboveMax_fpMant h]; decide), packF_fpMant n h0 h]

/-- The sum with a zero is the other number, on the finer of the two grids. -/
theorem addFin_zero_right (zneg n n' : Bool) {m : Nat} (hm : m ≠ 0) (e e' : Int) :
    addFin zneg n m e n' 0 e' = (n, m * 2 ^ (e - min e e').toNat, min e e') := by
  have hpos : 0 < m * 2 ^ (e - min e e').toNat := Nat.mul_pos (Nat.pos_of_ne_zero hm) (Nat.two_pow_pos _)
  simp only [addFin, Nat.zero_mul, Nat.add_zero, Nat.sub_zero, if_neg hpos.ne', if_pos hpos, ite_self]
theorem addFin_zero_left (zneg n n' : Bool) {m : Nat} (hm : m ≠ 0) (e e' : Int) :
    addFin zneg n' 0 e' n m e = (n, m * 2 ^ (e - min e' e).toNat, min e' e) := by
  have hpos : 0 < m * 2 ^ (e - min e' e).toNat := Nat.mul_pos (Nat.pos_of_ne_zero hm) (Nat.two_pow_pos _)
  simp only [addFin, Nat.zero_mul, Nat.zero_add, Nat.sub_zero, if_neg hpos.ne, if_neg hpos.not_gt]
  split
  · rw [‹n' = n›]
  · rfl

end

/-! ### Words of special values (R64, R65) -/

theorem word_infBits_sign (b : Bool) : word (infBits fp32 b) = 0x7F800000 ||| fpSign b := by revert b; decide
theorem word_packF_zero (b : Bool) : word (packF fp32 b 0 0) = fpSign b := by revert b; decide

section
variable {w : Word}

/-- What a word holds, by its magnitude as a word. -/
theorem decodeF_of_inf (h : w &&& 0x7FFFFFFF = 0x7F800000) : decodeF fp32 w.toNat = .inf (w.getLsbD 31) :=
  decodeF_inf ((and_mag_eq_iff w (by decide)).mp h)
theorem decodeF_of_zero (h : w &&& 0x7FFFFFFF = 0) : decodeF fp32 w.toNat = .fin (w.getLsbD 31) 0 (-149) :=
  decodeF_zero ((and_mag_eq_iff w (by decide)).mp h)
theorem decodeF_of_finite (h : (w &&& 0x7FFFFFFF).toNat < 0x7F800000) :
    decodeF fp32 w.toNat = .fin (w.getLsbD 31) (fpMant (w.toNat % 2 ^ 31)) (fpExp (w.toNat % 2 ^ 31)) :=
  decodeF_finite (and_mag_toNat w ▸ h)

/-- A word that is no NaN is an infinity or finite. -/
theorem inf_or_finite (h : ¬fpNaN w) : w &&& 0x7FFFFFFF = 0x7F800000 ∨ (w &&& 0x7FFFFFFF).toNat < 0x7F800000 :=
  ((fp_cases w).resolve_left h).imp (and_mag_eq_iff w (by decide)).mpr (and_mag_toNat w ▸ ·)
theorem fpMant_ne_zero (h : w &&& 0x7FFFFFFF ≠ 0) : fpMant (w.toNat % 2 ^ 31) ≠ 0 :=
  fun h0 => h ((and_mag_eq_iff w (by decide)).mpr (fpMant_eq_zero.mp h0))

/-- An infinity and a zero are their sign and magnitude. -/
theorem inf_word (h : w &&& 0x7FFFFFFF = 0x7F800000) : 0x7F800000 ||| fpSign (w.getLsbD 31) = w := h ▸ mag_or_sign w
theorem zero_word (h : w &&& 0x7FFFFFFF = 0) : fpSign (w.getLsbD 31) = w := by
  conv_rhs => rw [← mag_or_sign w, h]
  exact BitVec.zero_or.symm

/-- A finite number is rounded to its word. -/
theorem roundFP32_word (rm : RMode) (h0 : w &&& 0x7FFFFFFF ≠ 0) (h : (w &&& 0x7FFFFFFF).toNat < 0x7F800000) {e : Int}
    (he : e ≤ fpExp (w.toNat % 2 ^ 31)) :
    ∃ n, roundFP32 rm (w.getLsbD 31) (fpMant (w.toNat % 2 ^ 31) * 2 ^ (fpExp (w.toNat % 2 ^ 31) - e).toNat) e false = (n, 0) ∧ word n = w := by
  refine ⟨_, roundFP32_exact rm _ (fun hz => h0 ((and_mag_eq_iff w (by decide)).mpr hz)) (and_mag_toNat w ▸ h) he, ?_⟩
  have hmag : w &&& 0x7FFFFFFF = word (w.toNat % 2 ^ 31) := (and_mag_eq_iff w (by omega)).mpr rfl
  rw [word_sign_mag _ (Nat.mod_lt _ (by decide)), ← hmag]
  exact mag_or_sign w

end

/-! ### Results by their number and kind -/

section
variable {s : State} {lat : Nat} {t1 t0 : Target} {r : Nat × Nat} {n k : Nat} {v : Word}

theorem State.givesNum_event (h : r = (n, k)) (hw : word n = v) : s.givesNum lat t1 t0 r = s.givesKind lat t1 t0 v k := by
  subst h hw
  rfl
theorem State.givesNum_plain (h : r = (n, 0)) (hw : word n = v) : s.givesNum lat t1 t0 r = s.gives lat t1 t0 v :=
  (State.givesNum_event h hw).trans (State.givesKind_zero ..)

end

/-! ### Sums, products and quotients (R107, R108, R112) -/

section
variable (rm : RMode) {l r : Word}

/-- An operation that a NaN on either side makes the NaN gives it for words. -/
theorem of_nan_operand {op : Num → Num → Nat × Nat} (hl : ∀ n y, op (.nan n) y = (nan32, 0)) (hr : ∀ x n, op x (.nan n) = (nan32, 0))
    (h : fpNaN l ∨ fpNaN r) : op (decodeF fp32 l.toNat) (decodeF fp32 r.toNat) = (nan32, 0) := by
  rcases h with h | h
  · rw [decodeF_nan h, hl]
  · rw [decodeF_nan h, hr]

theorem addNum_nan (h : fpNaN l ∨ fpNaN r) : addNum rm (decodeF fp32 l.toNat) (decodeF fp32 r.toNat) = (nan32, 0) :=
  of_nan_operand (fun _ _ => rfl) (fun x _ => by cases x <;> rfl) h
theorem subNum_nan (h : fpNaN l ∨ fpNaN r) : addNum rm (decodeF fp32 l.toNat) (decodeF fp32 r.toNat).neg = (nan32, 0) :=
  of_nan_operand (op := fun x y => addNum rm x y.neg) (fun _ _ => rfl) (fun x _ => by cases x <;> rfl) h
theorem mulNum_nan (h : fpNaN l ∨ fpNaN r) : mulNum rm (decodeF fp32 l.toNat) (decodeF fp32 r.toNat) = (nan32, 0) :=
  of_nan_operand (fun _ _ => rfl) (fun x _ => by cases x <;> rfl) h
theorem divNum_nan (h : fpNaN l ∨ fpNaN r) : divNum rm (decodeF fp32 l.toNat) (decodeF fp32 r.toNat) = (nan32, 0) :=
  of_nan_operand (fun _ _ => rfl) (fun x _ => by cases x <;> rfl) h

/-- Infinities add where their signs agree. -/
theorem addNum_inf_inf (a b : Bool) : addNum rm (.inf a) (.inf b) = if a = b then (infBits fp32 a, 0) else (nan32, 1) := rfl

/-- Two infinities are one word where their signs agree. -/
theorem inf_sign_inj (hl : l &&& 0x7FFFFFFF = 0x7F800000) (hr : r &&& 0x7FFFFFFF = 0x7F800000) : l.getLsbD 31 = r.getLsbD 31 ↔ l = r :=
  ⟨fun h => by rw [← inf_word hl, ← inf_word hr, h], fun h => h ▸ rfl⟩

/-- A quotient by zero of a number that is neither a zero nor an infinity. -/
theorem divNum_by_zero (hl : (l &&& 0x7FFFFFFF).toNat < 0x7F800000) (h0 : l &&& 0x7FFFFFFF ≠ 0) (n : Bool) (e : Int) :
    divNum rm (decodeF fp32 l.toNat) (.fin n 0 e) = (infBits fp32 (l.getLsbD 31 != n), 2) := by
  rw [decodeF_of_finite hl]
  simp only [divNum, if_true, if_neg (fpMant_ne_zero h0), Num.isNeg]

/-- A zero that is added leaves any other number as it is. -/
theorem addNum_zero (hl : ¬fpNaN l) (h0 : l &&& 0x7FFFFFFF ≠ 0) (n : Bool) (e : Int) :
    ∃ m, addNum rm (decodeF fp32 l.toNat) (.fin n 0 e) = (m, 0) ∧ word m = l := by
  rcases inf_or_finite hl with h | h
  · rw [decodeF_of_inf h]
    exact ⟨_, rfl, (word_infBits_sign _).trans (inf_word h)⟩
  · rw [decodeF_of_finite h]
    simp only [addNum, addFin_zero_right _ _ _ (fpMant_ne_zero h0)]
    exact roundFP32_word rm h0 h (min_le_left _ _)

/-- The root of a negative number is invalid, and so is the estimate of its reciprocal (R112, R113). -/
theorem sqrtNum_negative (hs : l.getLsbD 31 = true) (h0 : l &&& 0x7FFFFFFF ≠ 0) (hl : ¬fpNaN l) :
    sqrtNum rm (decodeF fp32 l.toNat) = (nan32, 1) := by
  rcases inf_or_finite hl with h | h
  · rw [decodeF_of_inf h, hs]; rfl
  · rw [decodeF_of_finite h, hs]
    simp only [sqrtNum, if_neg (fpMant_ne_zero h0), if_true]
theorem rsqe_negative (hs : l.getLsbD 31 = true) (h0 : l &&& 0x7FFFFFFF ≠ 0) (hl : ¬fpNaN l) : rsqe (decodeF fp32 l.toNat) = (nan32, 1) := by
  rcases inf_or_finite hl with h | h
  · rw [decodeF_of_inf h, hs]; rfl
  · rw [decodeF_of_finite h, hs]
    simp only [rsqe, if_neg (fpMant_ne_zero h0), if_true]

end

/-! ### Fused forms (R111) -/

section
variable (rm : RMode)

/-- An infinite product is that of two infinities, whatever finite number its other factor was. -/
theorem fmaNum_inf_fin (a b : Bool) {m : Nat} (hm : m ≠ 0) (e : Int) (z : Num) :
    fmaNum rm (.inf a) (.fin b m e) z = fmaNum rm (.inf a) (.inf b) z := by
  obtain ⟨m, rfl⟩ := Nat.exists_eq_succ_of_ne_zero hm
  cases z <;> rfl
theorem fmaNum_fin_inf (a b : Bool) {m : Nat} (hm : m ≠ 0) (e : Int) (z : Num) :
    fmaNum rm (.fin a m e) (.inf b) z = fmaNum rm (.inf a) (.inf b) z := by
  obtain ⟨m, rfl⟩ := Nat.exists_eq_succ_of_ne_zero hm
  cases z <;> rfl

/-- A finite product leaves a NaN and an infinity that are added, and otherwise is added to the addend. -/
theorem fmaNum_fin_nan (a b n : Bool) (m m' : Nat) (e e' : Int) : fmaNum rm (.fin a m e) (.fin b m' e') (.nan n) = (nan32, 0) := by cases m <;> rfl
theorem fmaNum_fin_infinite (a b n : Bool) (m m' : Nat) (e e' : Int) :
    fmaNum rm (.fin a m e) (.fin b m' e') (.inf n) = (infBits fp32 n, 0) := by
  cases m <;> rfl
theorem fmaNum_fin_fin (a b n : Bool) (m m' m'' : Nat) (e e' e'' : Int) : fmaNum rm (.fin a m e) (.fin b m' e') (.fin n m'' e'') =
    roundFP32 rm (addFin (zeroNeg rm) (a != b) (m * m') (e + e') n m'' e'').1 (addFin (zeroNeg rm) (a != b) (m * m') (e + e') n m'' e'').2.1
      (addFin (zeroNeg rm) (a != b) (m * m') (e + e') n m'' e'').2.2 false := by cases m <;> rfl

/-- A NaN factor gives the NaN. -/
theorem fmaNum_nan_right (x z : Num) (n : Bool) : fmaNum rm x (.nan n) z = (nan32, 0) := by
  cases x with
  | fin a m e => cases m <;> rfl
  | _ => rfl

variable {a b c : Word}

/-- An infinity times a zero is invalid, whatever is added. -/
def InfZero (a b : Word) : Prop :=
  (a &&& 0x7FFFFFFF = 0x7F800000 ∧ b &&& 0x7FFFFFFF = 0) ∨ (a &&& 0x7FFFFFFF = 0 ∧ b &&& 0x7FFFFFFF = 0x7F800000)
theorem fmaNum_invalid (h : InfZero a b) (z : Num) : fmaNum rm (decodeF fp32 a.toNat) (decodeF fp32 b.toNat) z = (nan32, 1) := by
  rcases h with ⟨ha, hb⟩ | ⟨ha, hb⟩
  · rw [decodeF_of_inf ha, decodeF_of_zero hb]; rfl
  · rw [decodeF_of_zero ha, decodeF_of_inf hb]; rfl

theorem fmaNum_nan_factor (h : fpNaN a ∨ fpNaN b) (z : Num) : fmaNum rm (decodeF fp32 a.toNat) (decodeF fp32 b.toNat) z = (nan32, 0) :=
  of_nan_operand (op := fun x y => fmaNum rm x y z) (fun _ _ => rfl) (fun x n => fmaNum_nan_right rm x z n) h

/-- A valid product with an infinite factor is infinite. -/
theorem fmaNum_infinite (h : a &&& 0x7FFFFFFF = 0x7F800000 ∨ b &&& 0x7FFFFFFF = 0x7F800000) (hv : ¬InfZero a b) (ha : ¬fpNaN a) (hb : ¬fpNaN b)
    (z : Num) : fmaNum rm (decodeF fp32 a.toNat) (decodeF fp32 b.toNat) z = fmaNum rm (.inf (a.getLsbD 31)) (.inf (b.getLsbD 31)) z := by
  rcases inf_or_finite ha with hia | hfa <;> rcases inf_or_finite hb with hib | hfb
  · rw [decodeF_of_inf hia, decodeF_of_inf hib]
  · rw [decodeF_of_inf hia, decodeF_of_finite hfb, fmaNum_inf_fin _ _ _ (fpMant_ne_zero fun h0 => hv (.inl ⟨hia, h0⟩))]
  · rw [decodeF_of_finite hfa, decodeF_of_inf hib, fmaNum_fin_inf _ _ _ (fpMant_ne_zero fun h0 => hv (.inr ⟨h0, hib⟩))]
  · rcases h with h | h
    · rw [h] at hfa; exact absurd hfa (by decide)
    · rw [h] at hfb; exact absurd hfb (by decide)

theorem fmaNum_nan_addend (hv : ¬InfZero a b) (h : fpNaN c) :
    fmaNum rm (decodeF fp32 a.toNat) (decodeF fp32 b.toNat) (decodeF fp32 c.toNat) = (nan32, 0) := by
  by_cases hn : fpNaN a ∨ fpNaN b
  · exact fmaNum_nan_factor rm hn _
  · obtain ⟨ha, hb⟩ := not_or.mp hn
    rw [decodeF_nan h]
    by_cases hi : a &&& 0x7FFFFFFF = 0x7F800000 ∨ b &&& 0x7FFFFFFF = 0x7F800000
    · rw [fmaNum_infinite rm hi hv ha hb]; rfl
    · obtain ⟨hia, hib⟩ := not_or.mp hi
      rw [decodeF_of_finite ((inf_or_finite ha).resolve_left hia), decodeF_of_finite ((inf_or_finite hb).resolve_left hib), fmaNum_fin_nan]

/-- To a product of zero the addend is added unchanged. -/
theorem fmaNum_zero_product (h : a &&& 0x7FFFFFFF = 0 ∨ b &&& 0x7FFFFFFF = 0) (ha : (a &&& 0x7FFFFFFF).toNat < 0x7F800000)
    (hb : (b &&& 0x7FFFFFFF).toNat < 0x7F800000) (hc : (c &&& 0x7FFFFFFF).toNat < 0x7F800000) (h0 : c &&& 0x7FFFFFFF ≠ 0) :
    ∃ n, fmaNum rm (decodeF fp32 a.toNat) (decodeF fp32 b.toNat) (decodeF fp32 c.toNat) = (n, 0) ∧ word n = c := by
  have hprod : fpMant (a.toNat % 2 ^ 31) * fpMant (b.toNat % 2 ^ 31) = 0 := by
    rcases h with h | h
    · rw [fpMant_eq_zero.mpr ((and_mag_eq_iff a (by decide)).mp h), Nat.zero_mul]
    · rw [fpMant_eq_zero.mpr ((and_mag_eq_iff b (by decide)).mp h), Nat.mul_zero]
  rw [decodeF_of_finite ha, decodeF_of_finite hb, decodeF_of_finite hc, fmaNum_fin_fin, hprod, addFin_zero_left _ _ _ (fpMant_ne_zero h0)]
  exact roundFP32_word rm h0 hc (min_le_right _ _)

end

/-- A flag that inverts a sign, and one that does not. -/
theorem decodeF_unflipped (w : Word) : decodeF fp32 (w ^^^ fpSign false).toNat = decodeF fp32 w.toNat :=
  congrArg (fun v : Word => decodeF fp32 v.toNat) BitVec.xor_zero
theorem fpNaN_flip (w : Word) (b : Bool) : fpNaN (w ^^^ fpSign b) ↔ fpNaN w := by
  unfold fpNaN
  rw [← and_mag_toNat, ← and_mag_toNat, xor_sign_mag]
theorem fpSign_xor (a b : Bool) : fpSign a ^^^ fpSign b = fpSign (a != b) := by revert a b; decide

/-- An infinity and its sign. -/
theorem decodeF_signed_inf (b : Bool) : decodeF fp32 (0x7F800000 ||| fpSign b : Word).toNat = .inf b := by
  cases b
  · exact decodeF_of_inf rfl
  · exact decodeF_of_inf rfl

/-- An infinite product takes a finite addend, or an infinity of its sign; another infinity is invalid. -/
theorem fmaNum_inf_fin_addend (rm : RMode) (a b n : Bool) (m : Nat) (e : Int) :
    fmaNum rm (.inf a) (.inf b) (.fin n m e) = (infBits fp32 (a != b), 0) := rfl
theorem fmaNum_inf_inf_addend (rm : RMode) (a b n : Bool) :
    fmaNum rm (.inf a) (.inf b) (.inf n) = if (a != b) = n then (infBits fp32 (a != b), 0) else (nan32, 1) := rfl

/-- The fused forms by which of the product and the addend they negate. -/
theorem exec_fused {s : State} {pr : BitVec 2} {t1 t0 : Target} (hv : s.cur.verdict pr = .run) :
    ∀ z ∈ [(Instr.fma pr t1 t0, false, false), (.fms pr t1 t0, false, true), (.fnma pr t1 t0, true, false), (.fnms pr t1 t0, true, true)],
      exec z.1 s = s.givesNum 4 t1 t0 (fmaNum s.rm (decodeF fp32 (s.lv ^^^ fpSign z.2.1).toNat) (decodeF fp32 s.rv.toNat)
        (decodeF fp32 (s.cv ^^^ fpSign z.2.2).toNat)) := by
  obtain ⟨-, -, -, hfma, hfms, hfnma, hfnms, -⟩ := floatArithmetic s pr t1 t0 hv
  simp only [List.forall_mem_cons]
  refine ⟨?_, ?_, ?_, ?_, List.forall_mem_nil _⟩
  · rw [decodeF_unflipped, decodeF_unflipped, hfma]
  · rw [decodeF_unflipped, decodeF_neg, hfms]
  · rw [decodeF_neg, decodeF_unflipped, hfnma]
  · rw [decodeF_neg, decodeF_neg, hfnms]

/-- Every form goes on. -/
theorem State.givesNum_next (s : State) (lat : Nat) (t1 t0 : Target) (r : Nat × Nat) : ∃ t, s.givesNum lat t1 t0 r = .next t := by
  unfold State.givesNum State.givesKind
  split
  · exact ⟨_, rfl⟩
  · exact ⟨_, rfl⟩

/-- Settles O13: each form by what its operands hold, the fused forms by their product and their addend. -/
theorem floatSpecials : Obligations.FloatSpecials := by
  refine ⟨?unfused, ?fused⟩
  case unfused =>
    intro s pr t1 t0 hv l r inf mag sgn
    obtain ⟨hadd, hsub, hmul, -, -, -, -, hdiv, hsqrt, hrcpe, hrsqe⟩ := floatArithmetic s pr t1 t0 hv
    have hsgn : sgn = fpSign (l.getLsbD 31 != r.getLsbD 31) := (and_sign _).trans (congrArg fpSign (BitVec.getLsbD_xor ..))
    have hinf : word (infBits fp32 (l.getLsbD 31 != r.getLsbD 31)) = inf ||| sgn := hsgn ▸ word_infBits_sign _
    rw [hadd, hsub, hmul, hdiv, hsqrt, hrcpe, hrsqe]
    refine ⟨fun h => ?nan, fun hl hr => ?inf_inf, fun h => ?inf_zero, fun hr hl => ?zero_zero, fun hr hl => ?inf_by_zero, fun hr h0 hl => ?by_zero,
      fun h => ?nan_one, fun hs h0 hn => ?negative, fun h => ?zero, fun h => ?inf, fun h => ?minus_inf, fun hr h0 hn => ?add_zero⟩
    case nan =>
      exact ⟨State.givesNum_plain (addNum_nan _ h) rfl, State.givesNum_plain (subNum_nan _ h) rfl, State.givesNum_plain (mulNum_nan _ h) rfl,
        State.givesNum_plain (divNum_nan _ h) rfl⟩
    case inf_inf =>
      have hmulinf : mulNum s.rm (.inf (l.getLsbD 31)) (.inf (r.getLsbD 31)) = (infBits fp32 (l.getLsbD 31 != r.getLsbD 31), 0) := rfl
      rw [decodeF_of_inf hl, decodeF_of_inf hr]
      refine ⟨?_, ?_, State.givesNum_plain hmulinf hinf, State.givesNum_event rfl rfl⟩
      · rw [addNum_inf_inf]
        by_cases h : l = r
        · rw [if_pos h, if_pos ((inf_sign_inj hl hr).mpr h)]
          exact State.givesNum_plain rfl ((word_infBits_sign _).trans (inf_word hl))
        · rw [if_neg h, if_neg ((inf_sign_inj hl hr).not.mpr h)]
          exact State.givesNum_event rfl rfl
      · rw [Num.neg, addNum_inf_inf]
        by_cases h : l = r
        · rw [if_pos h, if_neg (by rw [Bool.eq_not, not_not]; exact (inf_sign_inj hl hr).mpr h)]
          exact State.givesNum_event rfl rfl
        · rw [if_neg h, if_pos (Bool.eq_not.mpr ((inf_sign_inj hl hr).not.mpr h))]
          exact State.givesNum_plain rfl ((word_infBits_sign _).trans (inf_word hl))
    case inf_zero =>
      rcases h with ⟨hl, hr⟩ | ⟨hl, hr⟩
      · rw [decodeF_of_inf hl, decodeF_of_zero hr]
        exact State.givesNum_event rfl rfl
      · rw [decodeF_of_zero hl, decodeF_of_inf hr]
        exact State.givesNum_event rfl rfl
    case zero_zero =>
      rw [decodeF_of_zero hl, decodeF_of_zero hr]
      exact State.givesNum_event rfl rfl
    case inf_by_zero =>
      rw [decodeF_of_inf hl, decodeF_of_zero hr]
      exact State.givesNum_plain rfl hinf
    case by_zero =>
      rw [decodeF_of_zero hr]
      exact State.givesNum_event (divNum_by_zero _ hl h0 _ _) hinf
    case nan_one =>
      rw [decodeF_nan h]
      exact ⟨State.givesNum_plain rfl rfl, State.givesNum_plain rfl rfl, State.givesNum_plain rfl rfl⟩
    case negative =>
      exact ⟨State.givesNum_event (sqrtNum_negative _ hs h0 hn) rfl, State.givesNum_event (rsqe_negative hs h0 hn) rfl⟩
    case zero =>
      have hinf0 : word (infBits fp32 (l.getLsbD 31)) = inf ||| l := by rw [word_infBits_sign, zero_word h]
      rw [decodeF_of_zero h]
      exact ⟨State.givesNum_plain rfl ((word_packF_zero _).trans (zero_word h)), State.givesNum_event rfl hinf0, State.givesNum_event rfl hinf0⟩
    case inf =>
      have hl : decodeF fp32 l.toNat = .inf false := h ▸ decodeF_of_inf (w := 0x7F800000) rfl
      rw [hl, h]
      exact ⟨State.givesNum_plain rfl rfl, State.givesNum_plain rfl rfl, State.givesNum_plain rfl rfl⟩
    case minus_inf =>
      have hl : decodeF fp32 l.toNat = .inf true := h ▸ decodeF_of_inf (w := 0xFF800000) rfl
      rw [hl]
      exact State.givesNum_plain rfl rfl
    case add_zero =>
      rw [decodeF_of_zero hr]
      obtain ⟨m, hm, hw⟩ := addNum_zero s.rm hn h0 (r.getLsbD 31) (-149)
      obtain ⟨m', hm', hw'⟩ := addNum_zero s.rm hn h0 (!r.getLsbD 31) (-149)
      exact ⟨State.givesNum_plain hm hw, State.givesNum_plain hm' hw'⟩
  case fused =>
    intro s pr t1 t0 hv z hz l r inf mag flip product addend infZero gives invalid
    have hexec := exec_fused hv z hz
    have hplain : ∀ {n : Nat} {w : Word},
        fmaNum s.rm (decodeF fp32 (l ^^^ fpSign z.2.1).toNat) (decodeF fp32 r.toNat) (decodeF fp32 addend.toNat) = (n, 0) → word n = w → gives w :=
      fun h hw => hexec.trans (State.givesNum_plain h hw)
    have hmag : (l ^^^ fpSign z.2.1) &&& 0x7FFFFFFF = mag l := xor_sign_mag ..
    have hmagc : addend &&& 0x7FFFFFFF = mag s.cv := xor_sign_mag ..
    have hvalid : InfZero (l ^^^ fpSign z.2.1) r ↔ infZero := by unfold InfZero; rw [hmag]
    have hnan : fpNaN (l ^^^ fpSign z.2.1) ↔ fpNaN l := fpNaN_flip ..
    have hprod : product = inf ||| fpSign ((l ^^^ fpSign z.2.1).getLsbD 31 != r.getLsbD 31) := by
      have hsign : (l ^^^ r) &&& 0x80000000 = fpSign (l.getLsbD 31 != r.getLsbD 31) :=
        (and_sign _).trans (congrArg fpSign (BitVec.getLsbD_xor ..))
      have hflip : flip z.2.1 = fpSign z.2.1 := rfl
      rw [xor_sign_sign, show product = inf ||| (((l ^^^ r) &&& 0x80000000) ^^^ flip z.2.1) from rfl, hsign, hflip, fpSign_xor]
      exact congrArg (inf ||| fpSign ·) (Bool.xor_right_comm ..)
    refine ⟨hexec ▸ State.givesNum_next .., fun h => hexec.trans (State.givesNum_event (fmaNum_invalid _ (hvalid.mpr h) _) rfl),
      fun h => hplain (fmaNum_nan_factor _ (h.imp_left hnan.mpr) _) rfl,
      fun hv h => hplain (fmaNum_nan_addend _ (hvalid.not.mpr hv) ((fpNaN_flip ..).mpr h)) rfl,
      fun h hv hl hr => ?infinite, fun hl hr hc => ?infinite_addend, fun h hl hr hc h0 => ?zero_product⟩
    case infinite =>
      have hfma := fmaNum_infinite s.rm (h.imp_left hmag.trans) (hvalid.not.mpr hv) (hnan.not.mpr hl) hr (decodeF fp32 addend.toNat)
      refine ⟨fun hc => hplain (hfma.trans ?_) ((word_infBits_sign _).trans hprod.symm),
        fun hc hne => hexec.trans (State.givesNum_event (hfma.trans ?_) rfl)⟩
      · rcases hc with hc | hc
        · rw [decodeF_of_finite (hmagc ▸ hc), fmaNum_inf_fin_addend]
        · rw [hc, hprod, decodeF_signed_inf, fmaNum_inf_inf_addend, if_pos rfl]
      · have hs : ((l ^^^ fpSign z.2.1).getLsbD 31 != r.getLsbD 31) ≠ addend.getLsbD 31 :=
          fun hs => hne (by rw [hprod, hs, inf_word (hmagc.trans hc)])
        rw [decodeF_of_inf (hmagc.trans hc), fmaNum_inf_inf_addend, if_neg hs]
        rfl
    case infinite_addend =>
      refine hplain ?_ ((word_infBits_sign _).trans (inf_word (hmagc.trans hc)))
      rw [decodeF_of_finite (hmag ▸ hl), decodeF_of_finite hr, decodeF_of_inf (hmagc.trans hc), fmaNum_fin_infinite]
    case zero_product =>
      obtain ⟨n, hn, hw⟩ := fmaNum_zero_product s.rm (h.imp_left hmag.trans) (hmag ▸ hl) hr (hmagc ▸ hc) (hmagc ▸ h0)
      exact hplain hn hw

end Sys2Proof.Machine
end

section
/-! PROOFS of the statements of the scalar instructions: packed lanes, dot products, TDOT4 and QNT (R117 to R119, R121, R123). -/

namespace Sys2Proof.Machine

/-! ### Lanes (R117) -/

/-- A lane of a word, by its place in the number. -/
theorem halfOf_eq (w : Word) (i : Nat) : halfOf w i = BitVec.ofNat 16 (w.toNat / 65536 ^ i) := by
  rw [halfOf, BitVec.extractLsb', Nat.shiftRight_eq_div_pow, Nat.pow_mul]
theorem byteOf_eq (w : Word) (i : Nat) : byteOf w i = BitVec.ofNat 8 (w.toNat / 256 ^ i) := by
  rw [byteOf, BitVec.extractLsb', Nat.shiftRight_eq_div_pow, Nat.pow_mul]

/-- The greater and the lesser of two lanes: where they are equal, either is both. -/
theorem greater_of_slt {n : Nat} (a b : BitVec n) : (if a.slt b then b else a) = if a.toInt ≤ b.toInt then b else a := by
  rcases Int.lt_trichotomy a.toInt b.toInt with h | h | h
  · simp [BitVec.slt_eq_decide, h, h.le]
  · simp [BitVec.toInt_inj.mp h]
  · simp [BitVec.slt_eq_decide, h.not_gt, h.not_ge]
theorem lesser_of_slt {n : Nat} (a b : BitVec n) : (if a.slt b then a else b) = if a.toInt ≤ b.toInt then a else b := by
  rcases Int.lt_trichotomy a.toInt b.toInt with h | h | h
  · simp [BitVec.slt_eq_decide, h, h.le]
  · simp [BitVec.toInt_inj.mp h]
  · simp [BitVec.slt_eq_decide, h.not_gt, h.not_ge]

/-! ### Sums of lanes (R118, R121) -/

theorem sum_range_two (f : Nat → Int) : ((List.range 2).map f).sum = f 0 + f 1 := by simp [List.range_succ]
theorem sum_range_four (f : Nat → Int) : ((List.range 4).map f).sum = f 0 + f 1 + f 2 + f 3 := by
  simp [List.range_succ, Int.add_assoc]

/-- A trit's code and its value. -/
theorem codeOf_eq (l : Word) (i : Nat) : codeOf l i = l.toNat / 4 ^ i % 4 := by
  rw [codeOf, bits, Nat.shiftRight_eq_div_pow, Nat.pow_mul, show 2 * i + 1 + 1 - 2 * i = 2 by omega]
  rfl
theorem tritVal_eq {c : Nat} (h : c < 4) : tritVal c = tritOf c := by
  match c, h with
  | 0, _ | 1, _ | 2, _ | 3, _ => rfl

/-- The sum of TDOT4 on the four trits from place k on, and whether one of their codes is 10. -/
def tdotTerm (l r : Word) (k i : Nat) : Int := tritVal (codeOf l (k + i)) * (byteOf r i).toInt
def tdotSum (l r : Word) (k : Nat) : Int := tdotTerm l r k 0 + tdotTerm l r k 1 + tdotTerm l r k 2 + tdotTerm l r k 3
def tdotBad (l : Word) (k : Nat) : Bool := codeOf l (k + 0) == 2 || codeOf l (k + 1) == 2 || codeOf l (k + 2) == 2 || codeOf l (k + 3) == 2

theorem exec_tdot4 {s : State} {pr : BitVec 2} {t1 t0 : Target} (group : BitVec 2) : exec (.tdot4 pr group t1 t0) s =
    .next (s.one pr 2 t1 t0 ⟨s.cv + wordOfInt (tdotSum s.lv s.rv (4 * group.toNat)), if tdotBad s.lv (4 * group.toNat) then 8 else 0⟩) := rfl

theorem tdotSum_eq (l r : Word) (k : Nat) : tdotSum l r k =
    ((List.range 4).map fun i => tritOf (l.toNat / 4 ^ (k + i) % 4) * (BitVec.ofNat 8 (r.toNat / 256 ^ i)).toInt).sum := by
  have hterm : ∀ i, tdotTerm l r k i = tritOf (l.toNat / 4 ^ (k + i) % 4) * (BitVec.ofNat 8 (r.toNat / 256 ^ i)).toInt := fun i => by
    rw [tdotTerm, byteOf_eq, codeOf_eq, tritVal_eq (Nat.mod_lt _ (by decide))]
  rw [tdotSum, hterm, hterm, hterm, hterm, sum_range_four]
theorem tdotBad_iff (l : Word) (k : Nat) : tdotBad l k = true ↔ ¬∀ i, i < 4 → l.toNat / 4 ^ (k + i) % 4 ≠ 2 := by
  have hall : (∀ i, i < 4 → codeOf l (k + i) ≠ 2) ↔
      codeOf l (k + 0) ≠ 2 ∧ codeOf l (k + 1) ≠ 2 ∧ codeOf l (k + 2) ≠ 2 ∧ codeOf l (k + 3) ≠ 2 := by
    refine ⟨fun h => ⟨h 0 (by decide), h 1 (by decide), h 2 (by decide), h 3 (by decide)⟩, fun ⟨h0, h1, h2, h3⟩ i hi => ?_⟩
    match i, hi with
    | 0, _ => exact h0
    | 1, _ => exact h1
    | 2, _ => exact h2
    | 3, _ => exact h3
  simp only [← codeOf_eq, hall, tdotBad, Bool.or_eq_true, beq_iff_eq, ne_eq, not_and_or, not_not, or_assoc]

/-- Settles O17: each packed form by the lanes that it combines, the dot forms by the sums of their terms. -/
theorem packedAndDotForms : Obligations.PackedAndDotForms := by
  refine ⟨?lanes, ?dots⟩
  case lanes =>
    intro s pr t1 t0 hv hl hr bl br halves octets
    have hhl : ∀ i, halfOf s.lv i = hl i := halfOf_eq _
    have hhr : ∀ i, halfOf s.rv i = hr i := halfOf_eq _
    have hbl : ∀ i, byteOf s.lv i = bl i := byteOf_eq _
    have hbr : ∀ i, byteOf s.rv i = br i := byteOf_eq _
    have hH : ∀ f, lanesH f s.lv s.rv = halves (fun i => f (hl i) (hr i)) := fun f => by simp only [lanesH, hhl, hhr]; rfl
    have hB : ∀ f, lanesB f s.lv s.rv = octets (fun i => f (bl i) (br i)) := fun f => by simp only [lanesB, hbl, hbr]; rfl
    refine ⟨one_gives hv (hH _), one_gives hv (hH _), one_gives hv (hB _), one_gives hv (hB _), one_gives hv ?max, one_gives hv ?min,
      one_gives hv ?packH, one_gives hv ?packB⟩
    case max => rw [hH]; simp only [greater_of_slt]
    case min => rw [hH]; simp only [lesser_of_slt]
    case packH => simp only [hhl, hhr]
    case packB => simp only [hbl, hbr]
  case dots =>
    intro s pr t1 t0 hv hl hr bl br sum
    have hhl : ∀ i, halfOf s.lv i = hl i := halfOf_eq _
    have hhr : ∀ i, halfOf s.rv i = hr i := halfOf_eq _
    have hbl : ∀ i, byteOf s.lv i = bl i := byteOf_eq _
    have hbr : ∀ i, byteOf s.rv i = br i := byteOf_eq _
    have hdot4 : ∀ f, dot4 f s.lv s.rv = sum 4 (fun i => f (bl i) * f (br i)) := fun f => by
      simp only [dot4, hbl, hbr, sum, sum_range_four]
    have hdot2 : dot2 s.lv s.rv = sum 2 (fun i => (hl i).toInt * (hr i).toInt) := by simp only [dot2, hhl, hhr, sum, sum_range_two]
    refine ⟨one_gives hv ?pdot4, one_gives hv ?pdot4u, one_gives hv ?pdot2,
      fun group => ⟨fun h => ?good, fun h => ?bad⟩, fun code => one_kind _ _ _ _ _ _ _ hv⟩
    case pdot4 => exact congrArg (s.cv + BitVec.ofInt 32 ·) (hdot4 _)
    case pdot4u => exact congrArg (s.cv + BitVec.ofInt 32 ·) (hdot4 _)
    case pdot2 => exact congrArg (s.cv + BitVec.ofInt 32 ·) hdot2
    case good =>
      rw [exec_tdot4, if_neg ((tdotBad_iff ..).not.mpr (not_not.mpr h))]
      exact one_gives hv (congrArg (s.cv + BitVec.ofInt 32 ·) (tdotSum_eq ..))
    case bad =>
      rw [exec_tdot4, if_pos ((tdotBad_iff ..).mpr h), one_kind _ _ _ _ _ _ _ hv]
      exact congrArg (s.givesKind 2 t1 t0 · 8) (congrArg (s.cv + BitVec.ofInt 32 ·) (tdotSum_eq ..))

end Sys2Proof.Machine
end

section
/-! PROOFS of the statements of block and memory instructions: SETW, the fences, and the checks of an access (R131, R132, R145 to R147, R230). -/

namespace Sys2Proof.Machine

/-! ### SETW and FENCE (R145 to R147, R230) -/

section
variable {s : State} {pr : BitVec 2} {w scope : BitVec 3} {t1 t0 : Target}

/-- A SETW that runs keeps its part for the commit, and gives its done token. -/
theorem State.setw_run (part : Nat) (v : DWord) (hv : s.cur.verdict pr = .run) : s.setw pr w part t1 t0 v =
    (s.modAct s.cur.p s.cur.pg s.cur.tag (fun a => { a with setws := a.setws ++ [(s.cur.tile, w.toNat, part, v)] })).emit 1 t0 t1
      (withPoison (tokV 0) s.cur.firstOrigin) (withPoison (tokV 0) s.cur.firstOrigin) := by
  refine (frame_run s pr 1 t1 t0 _ hv).trans ?_
  simp only [mark_zero]
  rfl

/-- A fence that runs answers after the latency of its scope; a releasing one flushes its instance's stores first. -/
theorem State.fence_run (rel : Bool) (hv : s.cur.verdict pr = .run) : s.fence rel pr scope t1 t0 =
    (if rel then s.flush s.cur.p s.cur.id else s).emit (fenceLat scope.toNat) t0 t1
      (withPoison (tokV 0) s.cur.firstOrigin) (withPoison (tokV 0) s.cur.firstOrigin) := by
  have hcur : (if rel then s.flush s.cur.p s.cur.id else s).cur = s.cur :=
    ite_keeps (P := fun t : State => t.cur = s.cur) (s.flush_performs s.cur.p s.cur.id).cur rfl
  unfold State.fence
  rw [frame_run _ _ _ _ _ _ hv]
  simp only [mark_zero, hcur]

end

/-- The three releasing fences are one operation. -/
theorem exec_releasingFences (s : State) (pr : BitVec 2) (scope : BitVec 3) (t1 t0 : Target) :
    ∀ i ∈ [Instr.fenceRel pr scope t1 t0, .fenceAr pr scope t1 t0, .fenceSc pr scope t1 t0], exec i s = .next (s.fence true pr scope t1 t0) := by
  simp only [List.forall_mem_cons]
  exact ⟨rfl, rfl, rfl, by simp⟩

/-- A word with no upper half is the word extended by zeros. -/
theorem zero_append_eq_setWidth (l : Word) : (0#32 ++ l : DWord) = l.setWidth 64 := by
  rw [BitVec.setWidth_eq_append (by decide : 32 ≤ 64)]
  rfl

/-- Settles O25: the frame runs; a SETW by what its activation keeps, a fence by its flush. -/
theorem windowsAndFences : Obligations.WindowsAndFences := by
  intro s pr w scope t1 t0 hv tok sets lat
  refine ⟨congrArg _ (State.setw_run 0 _ hv), congrArg _ (State.setw_run 1 _ hv), ?_, congrArg _ (State.fence_run false hv),
    fun i hi => (exec_releasingFences s pr scope t1 t0 i hi).trans (congrArg _ (State.fence_run true hv)), s.flush_posted s.cur.p s.cur.id⟩
  rw [zero_append_eq_setWidth]
  exact congrArg _ (State.setw_run 2 _ hv)

/-! ### The checks of an access (R131, R132) -/

/-- The check that comes first: a NONE window, an address past the window's limit, or one past the space of its kind. -/
abbrev Win.refuses (win : Win) (va size : Nat) : Prop :=
  win.attr.toNat % 4 = 0 ∨ win.base.toNat + win.limit.toNat < va + size - 1 ∨
    (if win.attr.toNat % 4 = 2 then 0xFFFFFFFF else 0xFFFFFFFFFFFF) < va + size - 1

/-- The window lacks the permission that an access asks for. -/
abbrev Win.denies (win : Win) (a : AccKind) : Prop :=
  (a.store = false ∧ win.attr.getLsbD 2 = false) ∨ (a.store = true ∧ win.attr.getLsbD 3 = false) ∨
    (a.stm = true ∧ (win.attr.toNat % 4 ≠ 1 ∨ win.attr.getLsbD 8 = false))

/-- The page of an access lacks it. -/
abbrev Part.bars (x : Part) (l : Leaf) (a : AccKind) : Prop :=
  (a.store = false ∧ Pte.r l.pte = false) ∨ (a.store = true ∧ x.mayWrite l = false) ∨ (a.stm = true ∧ Pte.mc l.pte = false)

/-- What follows the checks of the window: the place on the fabric, or the walk and the checks of the page. -/
def State.placeOf (s : State) (p va kind : Nat) (a : AccKind) : Except (Nat × Nat) (Nat × Nat) :=
  let st := if a.store then 256 else 0
  if kind = 2 then
    match (s.part p).fabKey va with
    | none => .error (0x02, st + 1024)
    | some k => .ok (k, 0)
  else
    match s.walkFail (s.part p) va with
    | some k => .error (255, k)
    | none =>
      match s.translate (s.part p) va with
      | .error l => .error (0x02, l + st)
      | .ok l => if (s.part p).bars l a then .error (0x03, st + (if a.stm then 1024 else 0)) else .ok (l.pa, l.pte)

section
variable {s : State} {p w va size level k : Nat} {win : Win} {a : AccKind} {l : Leaf}

/-- The kind of a window. -/
theorem bits_kind (n : Nat) : bits n 1 0 = n % 4 := rfl

/-- The checks one after the other. -/
theorem State.checkAccess_eq (s : State) (p w : Nat) (win : Win) (va size : Nat) (a : AccKind) : s.checkAccess p w win va size a =
    if win.refuses va size then .error (0x01, w + size * 16 + if a.store then 256 else 0)
    else if a.fe = true ∧ win.attr.toNat % 4 ≠ 2 then .error (0x0B, 0)
    else if va % size ≠ 0 then .error (0x04, size)
    else if win.denies a then .error (0x03, (if a.store then 256 else 0) + if a.stm then 1024 else 0)
    else s.placeOf p va (win.attr.toNat % 4) a := by
  unfold State.checkAccess State.placeOf
  dsimp only
  rw [bits_kind]
  refine if_congr ?refused rfl (if_congr ?bits rfl (if_congr Iff.rfl rfl (if_congr ?denied rfl ?place)))
  case refused =>
    have hlt : win.attr.toNat % 4 < 4 := Nat.mod_lt _ (by decide)
    unfold Win.refuses
    generalize win.attr.toNat % 4 = kind at hlt
    match kind, hlt with
    | 0, _ => simp
    | 1, _ | 2, _ | 3, _ => simp; omega
  case bits => simp
  case denied => simp [Win.denies, bitAt_toNat, or_assoc]
  case place =>
    refine if_congr Iff.rfl rfl ?_
    cases s.walkFail (s.part p) va with
    | some k => rfl
    | none =>
      cases s.translate (s.part p) va with
      | error level => rfl
      | ok l => exact if_congr (by simp [Part.bars, Part.mayRead, or_assoc]) rfl rfl

/-- On the fabric an access reaches the page that the page map gives, or none. -/
theorem State.placeOf_fabric (hk : (s.part p).fabKey va = some k) : s.placeOf p va 2 a = .ok (k, 0) := by
  simp [State.placeOf, hk]
theorem State.placeOf_unmapped (hk : (s.part p).fabKey va = none) :
    s.placeOf p va 2 a = .error (0x02, (if a.store then 256 else 0) + 1024) := by
  simp [State.placeOf, hk]

variable {kind : Nat}

/-- In memory a walk that meets a failing line answers with its key. -/
theorem State.placeOf_walkFail (hkind : kind ≠ 2) (hw : s.walkFail (s.part p) va = some k) : s.placeOf p va kind a = .error (255, k) := by
  simp [State.placeOf, hkind, hw]

/-- A walk that ends at no leaf answers with its level, -/
theorem State.placeOf_fault (hkind : kind ≠ 2) (hw : s.walkFail (s.part p) va = none) (ht : s.translate (s.part p) va = .error level) :
    s.placeOf p va kind a = .error (0x02, level + if a.store then 256 else 0) := by
  simp [State.placeOf, hkind, hw, ht]

/-- and one that ends at a leaf with its place, if the page gives the permission. -/
theorem State.placeOf_leaf (hkind : kind ≠ 2) (hw : s.walkFail (s.part p) va = none) (ht : s.translate (s.part p) va = .ok l) :
    s.placeOf p va kind a =
      if (s.part p).bars l a then .error (0x03, (if a.store then 256 else 0) + if a.stm then 1024 else 0) else .ok (l.pa, l.pte) := by
  simp [State.placeOf, hkind, hw, ht]

end

/-- Settles O26: the checks one after the other, then the place of the access. -/
theorem accessChecks : Obligations.AccessChecks := by
  intro s p w win va size a hsize kind st far refused noBits denied stm r
  have heq : r = if refused then .error (0x01, w + size * 16 + st) else if noBits then .error (0x0B, 0) else if va % size ≠ 0 then .error (0x04, size)
      else if denied then .error (0x03, st + stm) else s.placeOf p va kind a := s.checkAccess_eq p w win va size a
  have hplace : ¬refused → ¬noBits → va % size = 0 → ¬denied → r = s.placeOf p va kind a := fun hr hb ha hd => by
    rw [heq, if_neg hr, if_neg hb, if_neg (not_not.mpr ha), if_neg hd]
  refine ⟨fun hr => ?_, fun hr hb => ?_, fun hr hb ha => ?_, fun hr hb ha hd => ?_, fun hr ha hd hk => ?fabric,
    fun hr hb ha hd hk key hw => (hplace hr hb ha hd).trans (State.placeOf_walkFail hk hw), fun hr hb ha hd hk hw => ?memory⟩
  · rw [heq, if_pos hr]
  · rw [heq, if_neg hr, if_pos hb]
  · rw [heq, if_neg hr, if_neg hb, if_pos ha]
  · rw [heq, if_neg hr, if_neg hb, if_neg (not_not.mpr ha), if_pos hd]
  case fabric =>
    have hfab := hplace hr (fun hb => hb.2 hk) ha hd
    rw [hk] at hfab
    exact ⟨fun key hkey => hfab.trans (State.placeOf_fabric hkey), fun hkey => hfab.trans (State.placeOf_unmapped hkey)⟩
  case memory =>
    refine ⟨fun level ht => (hplace hr hb ha hd).trans (State.placeOf_fault hk hw ht), fun l ht => ?_⟩
    have hleaf := (hplace hr hb ha hd).trans (State.placeOf_leaf hk hw ht)
    exact ⟨fun hbar => hleaf.trans (if_pos hbar), fun hbar => hleaf.trans (if_neg hbar)⟩

end Sys2Proof.Machine
end

section
/-! PROOFS of the statements of block and memory instructions: full/empty operations, and the waits of those that park (R138, R139, R215, R252, R260). -/

namespace Sys2Proof.Machine

/-! ### A full/empty operation at its word (R138, R139) -/

section
variable {s t : State} {p pg id : Nat} {f : Fire}

/-- With no committed store on its way a flush does nothing. -/
theorem State.flush_nil (h : (s.part p).posted = []) : s.flush p id = s := by
  unfold State.flush
  rw [h]
  rfl

/-- An LDX that finds its word empty, in the slot of its tile's SRAM, parks. -/
theorem exec_fullEmptyAct_ldx_empty (hf : (s.page s.arg.p s.arg.pg).fire? s.arg.fid = some f) (hacted : f.acted = false)
    (hop : (opF f.word).toNat = 0x46) (hfirst : (f.aux[1]?).getD 0 = 0) (hposted : (s.part s.arg.p).posted = [])
    (hy : s.arg.y ≠ 1) (hslot : s.sramNext s.arg.p f.va = s.now) (hempty : f.key ∉ s.fe) :
    exec .fullEmptyAct s = .next ((s.sramTaken s.arg.p f.va).fePark s.arg.p s.arg.pg f (s.arg.z == 1)) := by
  have hdup : s.feDup s.arg.p s.arg.pg f = false := by simp [State.feDup, hop]
  have hbefore : s.feBefore s.arg.p f = none := if_pos hfirst
  have hflush : (s.sramTaken s.arg.p f.va).flush s.arg.p f.id = s.sramTaken s.arg.p f.va :=
    State.flush_nil ((s.modPage_posted ..).trans hposted)
  have hfull : (s.sramTaken s.arg.p f.va).fe.contains f.key = false := by simpa [State.sramTaken] using hempty
  change execFullEmptyAct s = _
  unfold execFullEmptyAct
  simp only [hf, hacted, hdup, hbefore, State.sramTurn_now hy hslot, hflush, hfull, hop]
  rfl

/-! ### The wait of a parked access (R215, R252, R260) -/

/-- An access that stands in its tile's table. -/
def State.feParked (s : State) (p pg : Nat) (f : Fire) : State :=
  let tile := fabPage f.va * 64 + fabTile f.va
  (s.modPart p (fun x => { x with feq := x.feq ++ [⟨f.key, tile, pg, f.fid, 0⟩] })).modFire p pg f.fid (fun f => { f with phase := .parked })

/-- An access for which its tile's table has room, and a WREG stands, enters its wait. -/
theorem State.fePark_waits {again : Bool} (hroom : s.fePlace p (fabPage f.va * 64 + fabTile f.va) = 0)
    (hwreg : (s.part p).wregs.any (fun w => w.id == f.id && w.name == wordName f.va && w.parked == 0) = true) :
    s.fePark p pg f again = (s.feParked p pg f).enterWait p pg f (wordName f.va) false := by
  unfold State.fePark
  simp [hroom, hwreg, State.feParked]

/-- From s to t memory stays, and the registrations of a partition that wait for their turn. -/
structure State.KeepsRegq (p : Nat) (s t : State) : Prop where
  mem : t.mem = s.mem
  regq : (t.part p).regq = (s.part p).regq

theorem State.KeepsRegq.refl (s : State) : s.KeepsRegq p s := ⟨rfl, rfl⟩
theorem State.KeepsRegq.trans {u : State} (h : s.KeepsRegq p t) (g : t.KeepsRegq p u) : s.KeepsRegq p u :=
  ⟨g.mem.trans h.mem, g.regq.trans h.regq⟩
theorem State.Adds.keepsRegq (h : s.Adds t) : s.KeepsRegq p t := ⟨h.mem, by rw [h.part]⟩
theorem State.modPart_keepsRegq (s : State) (q : Nat) (g : Part → Part) (hn : ∀ x, (g x).num = x.num) (hr : ∀ x, (g x).regq = x.regq) :
    s.KeepsRegq p (s.modPart q g) := ⟨rfl, part_modPart Part.regq s q p g hn hr⟩

theorem State.setCsrF_keepsRegq (s : State) (q n hi lo v : Nat) : s.KeepsRegq p (s.setCsrF q n hi lo v) :=
  s.modPart_keepsRegq q _ (fun _ => rfl) fun _ => rfl
theorem State.modPage_keepsRegq (s : State) (q qg : Nat) (g : Page → Page) : s.KeepsRegq p (s.modPage q qg g) :=
  s.modPart_keepsRegq q _ (fun _ => rfl) fun _ => rfl

theorem State.checkDone_keepsRegq (s : State) (q qg : Nat) (tag : Tag) : s.KeepsRegq p (s.checkDone q qg tag) := by
  obtain h | ⟨t, i, h⟩ := s.checkDone_cases q qg tag
  · rw [h]; exact .refl _
  · rw [h]; exact (s.modPage_keepsRegq ..).trans (State.schedCommit_adds ..).keepsRegq

/-- A status token is on its way, and nothing else changes. -/
theorem State.sendStatus_adds (s : State) (q qg fid die v extra : Nat) : s.Adds (s.sendStatus q qg fid die v extra) := by
  unfold State.sendStatus
  split
  · exact .refl s
  · exact s.send_adds ..

theorem State.wregStatus_keepsRegq (s : State) (q id name v extra : Nat) : s.KeepsRegq p (s.wregStatus q id name v extra) := by
  unfold State.wregStatus
  split
  · exact .refl _
  · rename_i w _
    have hsent : s.KeepsRegq p (((s.sendStatus q w.pg w.fid (nameDie name) v extra).modFire q w.pg w.fid
        (fun f => { f with phase := .done, acted := true })).modPart q
          (fun x => { x with wregs := x.wregs.map (fun u => if u == w then { u with fid := 0 } else u) })) :=
      (s.sendStatus_adds ..).keepsRegq.trans ((State.modPage_keepsRegq ..).trans (State.modPart_keepsRegq _ q _ (fun _ => rfl) fun _ => rfl))
    dsimp only
    split
    · exact hsent.trans (State.checkDone_keepsRegq ..)
    · exact hsent

/-- The status tokens of a registration leave: its own, and the one of the WREG that stands for it. -/
def State.regStatus (s : State) (p : Nat) (r : RegReq) (home : Nat) : State :=
  let die := nameDie r.ent.name
  let extra := if home = 2 then 140 else 0
  let s := if r.stFid = 0 then s else s.sendStatus p r.stPg r.stFid die home extra
  if r.ent.wait then s.wregStatus p r.ent.id r.ent.name home extra else s

theorem State.regStatus_keepsRegq (s : State) (r : RegReq) (home : Nat) : s.KeepsRegq p (s.regStatus p r home) := by
  have hown : s.KeepsRegq p (if r.stFid = 0 then s else s.sendStatus p r.stPg r.stFid (nameDie r.ent.name) home (if home = 2 then 140 else 0)) :=
    ite_keeps (P := s.KeepsRegq p) (.refl s) (s.sendStatus_adds ..).keepsRegq
  exact ite_keeps (P := s.KeepsRegq p) (hown.trans (State.wregStatus_keepsRegq ..)) hown

/-- A registration that is entered leaves memory, and those that wait behind it. -/
theorem State.enter_keepsRegq (s : State) (r : RegReq) (home : Nat) : s.KeepsRegq p (s.enter p r home) := by
  refine ite_keeps (P := s.KeepsRegq p) ((s.regStatus_keepsRegq r home).trans ?_) ((s.regStatus_keepsRegq r home).trans ?_)
  · exact ite_keeps (P := (s.regStatus p r home).KeepsRegq p) (State.setCsrF_keepsRegq ..) (.refl _)
  · exact (State.modPart_keepsRegq _ p _ (by exact fun _ => rfl) (by exact fun _ => rfl)).trans ((State.setCsrF_keepsRegq ..).trans
      ((State.sched_adds ..).trans (State.prioChanged_adds ..)).keepsRegq)

/-- Where no registration waits, none is entered. -/
theorem State.regNext_nil {n : Nat} (h : (s.part p).regq = []) : s.regNext p n = s := by
  cases n with
  | zero => rfl
  | succ n =>
    unfold State.regNext
    dsimp only
    rw [h]
    cases (s.part p).walk <;> rfl

/-- The state in which the turn of a partition's only registration has come. -/
def State.regTaken (s : State) (p : Nat) : State := s.modPart p (fun x => { x with regq := [] })

/-- A registration that stands alone and finds no room on its die is written to the overflow area. -/
theorem State.regAll_overflow {r : RegReq} (hwalk : (s.part p).walk = none) (hone : (s.part p).regq = [r])
    (hstands : (s.regTaken p).regStands p r.ent = true) (hhome : (s.regTaken p).wftHome p r.ent.name = 2)
    (hwrite : (s.regTaken p).wftWrite p = some t) (hnone : (t.part p).regq = []) : (s.regAll p).mem = t.mem := by
  have hkeeps := State.enter_keepsRegq (p := p) t r 2
  have hall : s.regAll p = (t.enter p r 2).regNext p 1 := by
    unfold State.regAll
    rw [hone]
    conv_lhs => unfold State.regNext
    dsimp only
    rw [hwalk, hone]
    unfold State.regTaken at hstands hhome hwrite
    simp only [hstands, hhome, hwrite]
    rfl
  rw [hall, State.regNext_nil (hkeeps.regq.trans hnone)]
  exact hkeeps.mem

/-- The first of the bytes that are written. -/
theorem Mem.byte_sets_head {m : List Host.Cell} {k : Nat} {b : Byte} {bs : List Byte} (w : Mem.wf m = true) :
    Mem.byte (Mem.sets m k (b :: bs)) k = b :=
  (Mem.byte_sets_other (Mem.set_wf w) (.inl (Nat.lt_succ_self k))).trans (Mem.byte_set_same w (Nat.zero_le _))

/-- A write sets its bytes. -/
theorem State.memWrite_mem (s : State) (key : Nat) (bs : List Byte) : (s.memWrite key bs).mem = Mem.sets s.mem key bs := by
  have hlines (n : Nat) : ∀ (s : State) (l : Nat), (s.countLines l n).mem = s.mem := by
    induction n with
    | zero => exact fun s _ => rfl
    | succ n ih => exact fun s l => (ih _ _).trans (s.countLine_accounts l).mem
  unfold State.memWrite
  exact ite_keeps (P := fun t : State => t.mem = Mem.sets s.mem key bs) rfl ((State.plaiterMark_accounts _ _).mem.trans (hlines _ _ _))

/-- An entry of a structure of the device, on a pinned page that may be written, is 32 bytes of its own. -/
theorem State.devEntry_mem {va : Nat} {l : Leaf} (hfail : s.walkFail (s.part p) va = none) (hleaf : s.translate (s.part p) va = .ok l)
    (hpin : Pte.pin l.pte = true) (hmay : (s.part p).mayWrite l = true) :
    ∃ t, s.devEntry p va = some t ∧ t.mem = Mem.sets s.mem l.pa (freeBytes s.free 32) ∧ t.parts = s.parts := by
  have hwrite : s.devWrite p va (freeBytes s.free 32) = some (s.memWrite l.pa (freeBytes s.free 32)) := by
    unfold State.devWrite
    simp [hfail, hleaf, hpin, hmay]
  exact ⟨_, congrArg (Option.map _) hwrite, s.memWrite_mem l.pa _, s.memWrite_parts l.pa _⟩


end

/-! ### A parked LDX whose wait is written to memory -/

/-- An LDX of instance 5 that has come to word 4 of a tile's SRAM. -/
def ldxFiring : Fire :=
  { fid := 7, id := 5, strand := 0, tile := 0, tag := tagOf 5 1, word := 0x8C000000, phase := .out, va := 4, key := sramKey 0 0 0 4, size := 4, aux := [2, 0] }

/-- The word is empty, and a WREG stands for it; the partition has no share of the die's wait-for table, and byte b stands at the first entry of its
overflow area, at 0x10000. The page tables at 0 map that VA onto itself, on a pinned page. -/
def State.ldxParks (b : Byte) : State :=
  { State.reset with
    mem := [(0, 1), (2, 4), (0x1000, 7), (0x1002, 2), (0x1007, 0x30), (0x10000, b)]
    arg := { p := 1, fid := 7, tag := tagOf 5 1 }
    parts := [{
      num := 1, live := true, regions := [0], map := [(0, 0, 0, 0)], csr := [(0x0C4, 0x10000)]
      insts := [{ id := 5, gen := 1, strands := [{ num := 0, pg := 0, gen := 1 }], origin := .launch 0 0 0 }]
      wregs := [{ id := 5, gen := 1, name := wordName 4, pg := 0, fid := 6 }]
      pages := [{ num := 0, fires := [
        { fid := 6, id := 5, strand := 0, tile := 1, tag := tagOf 5 1, word := 0xB8000000, acted := true }, ldxFiring] }] }] }

/-- The registration of its wait. -/
def ldxRequest : RegReq := { ent := { wait := true, id := 5, gen := 1, name := wordName 4, tag := tagOf 5 1, fid := 7, pg := 0 } }

/-- The state in which that registration waits for its turn. -/
def State.ldxWaits (b : Byte) : State :=
  (((State.ldxParks b).sramTaken 1 4).feParked 1 0 ldxFiring).modPart 1 (fun x => { x with
    wregs := x.wregs.map (fun w => if w.id == 5 && w.name == wordName 4 && w.parked == 0 then { w with parked := 7 } else w)
    regq := x.regq ++ [ldxRequest] })

/-- The state in which its turn has come. -/
def State.ldxTurn (b : Byte) : State := (State.ldxWaits b).regTaken 1

/-- The LDX parks, and its wait is registered. -/
theorem exec_ldxParks (b : Byte) : exec .fullEmptyAct (State.ldxParks b) = .next ((State.ldxWaits b).regAll 1) := by
  refine (exec_fullEmptyAct_ldx_empty (f := ldxFiring) rfl rfl (by decide) rfl rfl Nat.zero_ne_one rfl List.not_mem_nil).trans (congrArg _ ?_)
  rw [State.fePark_waits rfl rfl]
  rfl

/-- Memory is canonical before, with byte b. -/
theorem ldxParks_mem : ∀ b ∈ ([2, 4] : List Byte), Mem.wf (State.ldxParks b).mem = true ∧ Mem.byte (State.ldxParks b).mem 0x10000 = b := by decide

/-- The entry of its wait goes to the overflow area, whose first entry's VA is mapped by a pinned page that may be written. -/
theorem ldxTurn_overflows : ∀ b ∈ ([2, 4] : List Byte), let s := State.ldxTurn b
    s.regStands 1 ldxRequest.ent = true ∧ s.wftHome 1 (wordName 4) = 2 ∧
      (s.part 1).wftVa = 0x10000 ∧ s.walkFail (s.part 1) 0x10000 = none ∧
      s.translate (s.part 1) 0x10000 = .ok ⟨0x10000, 0x3000000000020007⟩ ∧ (s.part 1).mayWrite ⟨0x10000, 0x3000000000020007⟩ = true := by
  decide +kernel

/-- The wait is written to that area. -/
theorem ldxWaits_mem {b : Byte} (hb : b ∈ ([2, 4] : List Byte)) :
    ((State.ldxWaits b).regAll 1).mem = Mem.sets (State.ldxParks b).mem 0x10000 (freeBytes 0 32) := by
  obtain ⟨hstands, hhome, hva, hfail, hleaf, hmay⟩ := ldxTurn_overflows b hb
  obtain ⟨t, hwrite, hmem, hparts⟩ := State.devEntry_mem hfail hleaf rfl hmay
  have hentry : (State.ldxTurn b).wftWrite 1 = some t := by rw [State.wftWrite, hva, hwrite]
  have hnone : (t.part 1).regq = [] := by unfold State.part; rw [hparts]; rfl
  exact (State.regAll_overflow (s := State.ldxWaits b) (p := 1) (r := ldxRequest) rfl rfl hstands hhome hentry hnone).trans hmem

/-- Refutes O28: an LDX that parks leaves memory as it was, says the statement; but where a WREG stands for its word its wait is registered (R252, R253),
and beyond the partition's share of the die's table that registration writes an entry of the overflow area in memory (R260). No rule gives that entry's
bytes (Config.freeByte), so two memories stand here: at most one of them already holds what is written. -/
theorem not_fullEmptyOperations : ¬ Obligations.FullEmptyOperations := by
  rintro ⟨-, hact⟩
  have hfree : ∀ b ∈ ([2, 4] : List Byte), Config.freeByte 0 = b := by
    intro b hb
    have hslot : kget ((State.ldxParks b).page 1 (fabPage 4)).sram (fabTile 4) = none := rfl
    have hgone : ((State.ldxParks b).page 1 0).act? (tagOf 5 1) = none := rfl
    obtain ⟨t, hexec, -, -, hsame, -⟩ := hact (State.ldxParks b) ldxFiring rfl rfl rfl rfl rfl (.inr fun k hk => absurd (hslot.symm.trans hk) nofun)
      fun a ha => absurd (hgone.symm.trans ha) nofun
    have ht : t = (State.ldxWaits b).regAll 1 := Host.Outcome.next.inj (hexec.symm.trans (exec_ldxParks b))
    obtain ⟨hmem, -⟩ := hsame (by decide) List.not_mem_nil
    rw [ht, ldxWaits_mem hb] at hmem
    obtain ⟨hwf, hbyte⟩ := ldxParks_mem b hb
    calc Config.freeByte 0 = Mem.byte (Mem.sets (State.ldxParks b).mem 0x10000 (freeBytes 0 32)) 0x10000 := (Mem.byte_sets_head hwf).symm
      _ = Mem.byte (State.ldxParks b).mem 0x10000 := by rw [hmem]
      _ = b := hbyte
  exact absurd ((hfree 2 (by decide)).symm.trans (hfree 4 (by decide))) (by decide)

end Sys2Proof.Machine
end

section
/-! PROOFS of the statements of tags, loops and streams: the fibre operations (R164, R165). -/

namespace Sys2Proof.Machine

/-! ### What a form gives in its frame (R165) -/

/-- A result that a fibre form sends to both targets, with the poison of the first poisoned operand. -/
def State.fibSends (s : State) (t1 t0 : Target) (t : Token) : Out :=
  .next (s.emit 1 t0 t1 (withPoison t s.cur.firstOrigin) (withPoison t s.cur.firstOrigin))

/-- A token that is null and closes no fibre is plainly null, and no other is. -/
theorem plainNull_of_null {t : Token} (hn : t.null = true) (he : t.eof = false) : plainNull t = true := by simp [plainNull, hn, he]
theorem plainNull_of_full {t : Token} (hn : t.null = false) : plainNull t = false := by simp [plainNull, hn]
theorem plainNull_of_eof {t : Token} (he : t.eof = true) : plainNull t = false := by simp [plainNull, he]

section
variable {s : State} {pr : BitVec 2} {t1 t0 : Target} {two : Bool} {r : Token × Nat} {t : Token}

/-- A plain null operand makes a plain null (R17). -/
theorem State.fib_null (h : s.cur.pRuns pr) (hn : plainNull (tokIn s.cur.l) = true ∨ (two = true ∧ plainNull (tokIn s.cur.r) = true)) :
    .next (s.fib pr t1 t0 two r) = s.fibSends t1 t0 tokNull := by
  have hn : (plainNull (tokIn s.cur.l) || (two && plainNull (tokIn s.cur.r))) = true := by simpa using hn
  exact congrArg Host.Outcome.next ((raw_run s pr 1 t1 t0 _ h).trans (if_pos hn))

/-- Otherwise the form sends its result, where that has no event. -/
theorem State.fib_result (h : s.cur.pRuns pr) (hl : plainNull (tokIn s.cur.l) = false) (hr : two = false ∨ plainNull (tokIn s.cur.r) = false)
    (hp : r.1.pois = false) (ho : r.1.origin = 0) (ht : r = (t, 0)) : .next (s.fib pr t1 t0 two r) = s.fibSends t1 t0 t := by
  have hn : ¬(plainNull (tokIn s.cur.l) || (two && plainNull (tokIn s.cur.r))) = true := by rcases hr with hr | hr <;> simp [hl, hr]
  subst ht
  refine congrArg Host.Outcome.next ((raw_run s pr 1 t1 t0 _ h).trans ((if_neg hn).trans ?_))
  have hmark : { t with pois := (withPoison (tokV t.val) s.cur.firstOrigin).pois, origin := (withPoison (tokV t.val) s.cur.firstOrigin).origin } =
      withPoison t s.cur.firstOrigin := by
    obtain ⟨v, n, p, e, sc, co, o⟩ := t
    obtain rfl : p = false := hp
    obtain rfl : o = 0 := ho
    cases s.cur.firstOrigin <;> rfl
  simp only [mark_zero, hmark]

end

/-! ### Pairs of coordinates (R165) -/

section
variable {l r : Token} {union : Bool}

/-- A coordinate below 2^30 is the token's value. -/
theorem coordOf_small {t : Token} (h : t.val.toNat < 2 ^ 30) : coordOf t = (t.val.toNat, false) := by
  unfold coordOf
  rw [Nat.mod_eq_of_lt h, decide_eq_false (Nat.not_le.mpr h)]

/-- Two coordinates: the code says which streams advance, and the lower coordinate is kept; it is marked as one where both agree, and by a union always. -/
theorem fibPair_coords (hl : l.null = false) (hr : r.null = false) (hlc : l.val.toNat < 2 ^ 30) (hrc : r.val.toNat < 2 ^ 30) :
    fibPair union l r = (if l.val.toNat = r.val.toNat then { val := word (3 * 2 ^ 30 + l.val.toNat), coord := true }
      else if l.val.toNat < r.val.toNat then { val := word (1 * 2 ^ 30 + l.val.toNat), coord := union }
      else { val := word (2 * 2 ^ 30 + r.val.toNat), coord := union }, 0) := by
  unfold fibPair
  simp only [hl, hr, coordOf_small hlc, coordOf_small hrc]
  rcases Nat.lt_trichotomy l.val.toNat r.val.toNat with h | h | h
  · simp [h, h.ne, h.le, b2n]
  · simp [h, b2n]
  · simp [h.ne', h.not_gt, h.le, b2n]

/-- A union with a closed fibre takes the coordinate of the other. -/
theorem fibPair_left_closed (hl : l.null = true) (hr : r.null = false) (hrc : r.val.toNat < 2 ^ 30) :
    fibPair true l r = ({ val := word (2 * 2 ^ 30 + r.val.toNat), coord := true }, 0) := by
  simp [fibPair, hl, hr, coordOf_small hrc, b2n]
theorem fibPair_right_closed (hl : l.null = false) (hr : r.null = true) (hlc : l.val.toNat < 2 ^ 30) :
    fibPair true l r = ({ val := word (1 * 2 ^ 30 + l.val.toNat), coord := true }, 0) := by
  simp [fibPair, hl, hr, coordOf_small hlc, b2n]

end

/-! ### The forms (R165) -/

section
variable {s : State} {pr : BitVec 2} {t1 t0 : Target} {t : Token}

/-- ISECT where both streams have a coordinate, and where one is closed. -/
theorem exec_fibIsect_coords (h : s.cur.pRuns pr) (hl : (tokIn s.cur.l).null = false) (hr : (tokIn s.cur.r).null = false)
    (ht : fibPair false (tokIn s.cur.l) (tokIn s.cur.r) = (t, 0)) : exec (.fibIsect pr t1 t0) s = s.fibSends t1 t0 t := by
  have hopen : ¬((tokIn s.cur.l).null || (tokIn s.cur.r).null) = true := by simp [hl, hr]
  refine (congrArg (fun r => Host.Outcome.next (s.fib pr t1 t0 true r)) (if_neg hopen)).trans ?_
  exact State.fib_result h (plainNull_of_full hl) (.inr (plainNull_of_full hr)) rfl rfl ht
theorem exec_fibIsect_closed (h : s.cur.pRuns pr) (hl : plainNull (tokIn s.cur.l) = false) (hr : plainNull (tokIn s.cur.r) = false)
    (hn : (tokIn s.cur.l).null = true ∨ (tokIn s.cur.r).null = true) : exec (.fibIsect pr t1 t0) s = s.fibSends t1 t0 (closing 0) := by
  have hclosed : ((tokIn s.cur.l).null || (tokIn s.cur.r).null) = true := by simpa using hn
  refine (congrArg (fun r => Host.Outcome.next (s.fib pr t1 t0 true r)) (if_pos hclosed)).trans ?_
  exact State.fib_result h hl (.inr hr) rfl rfl rfl

/-- UNION where a stream has a coordinate, and where both are closed. -/
theorem exec_fibUnion_coords (h : s.cur.pRuns pr) (hl : plainNull (tokIn s.cur.l) = false) (hr : plainNull (tokIn s.cur.r) = false)
    (hn : (tokIn s.cur.l).null = false ∨ (tokIn s.cur.r).null = false)
    (ht : fibPair true (tokIn s.cur.l) (tokIn s.cur.r) = (t, 0)) : exec (.fibUnion pr t1 t0) s = s.fibSends t1 t0 t := by
  have hopen : ¬((tokIn s.cur.l).null && (tokIn s.cur.r).null) = true := by rcases hn with hn | hn <;> simp [hn]
  refine (congrArg (fun r => Host.Outcome.next (s.fib pr t1 t0 true r)) (if_neg hopen)).trans ?_
  exact State.fib_result h hl (.inr hr) rfl rfl ht
theorem exec_fibUnion_closed (h : s.cur.pRuns pr) (hl : plainNull (tokIn s.cur.l) = false) (hr : plainNull (tokIn s.cur.r) = false)
    (hln : (tokIn s.cur.l).null = true) (hrn : (tokIn s.cur.r).null = true) : exec (.fibUnion pr t1 t0) s = s.fibSends t1 t0 (closing 0) := by
  have hclosed : ((tokIn s.cur.l).null && (tokIn s.cur.r).null) = true := by simp [hln, hrn]
  refine (congrArg (fun r => Host.Outcome.next (s.fib pr t1 t0 true r)) (if_pos hclosed)).trans ?_
  exact State.fib_result h hl (.inr hr) rfl rfl rfl

/-- The operand's value is that of its token. -/
theorem State.lv_eq (s : State) : s.lv = (tokIn s.cur.l).val := by unfold State.lv tokIn valOf; cases s.cur.l <;> rfl

/-- The forms of one operand. -/
theorem exec_fibEoft (h : s.cur.pRuns pr) (hl : plainNull (tokIn s.cur.l) = false) :
    exec (.fibEoft pr t1 t0) s = s.fibSends t1 t0 (tokV (if (tokIn s.cur.l).eof then 1 else 0)) := State.fib_result h hl (.inl rfl) rfl rfl rfl
theorem exec_fibMkeof (h : s.cur.pRuns pr) (hl : plainNull (tokIn s.cur.l) = false) :
    exec (.fibMkeof pr t1 t0) s = s.fibSends t1 t0 (closing (tokIn s.cur.l).val) :=
  State.fib_result h hl (.inl rfl) rfl rfl (by rw [s.lv_eq])
theorem exec_fibMkcrd (h : s.cur.pRuns pr) (hl : plainNull (tokIn s.cur.l) = false) (hlc : (tokIn s.cur.l).val.toNat < 2 ^ 30) :
    exec (.fibMkcrd pr t1 t0) s = s.fibSends t1 t0 { val := (tokIn s.cur.l).val, coord := true } :=
  State.fib_result h hl (.inl rfl) rfl rfl (by rw [coordOf_small hlc, word_toNat]; rfl)

end

/-- Settles O24: each form by its equations, the coordinates by those of the pair. -/
theorem fibreForms : Obligations.FibreForms := by
  intro s pr t1 t0 h l r sends eof lc rc coord bare
  refine ⟨fun hl he => ?leftNull, fun hr he => ?rightNull, fun hl hr hlc hrc => ?coords, fun hl hle hr => ?leftClosed, fun hl hr hre => ?rightClosed,
    fun hl hle hr hre => ?bothClosed, fun hl => ?oneOperand⟩
  case leftNull =>
    have hnull {two : Bool} {r : Token × Nat} : .next (s.fib pr t1 t0 two r) = s.fibSends t1 t0 tokNull :=
      State.fib_null h (.inl (plainNull_of_null hl he))
    simp only [List.forall_mem_cons]
    exact ⟨hnull, hnull, hnull, hnull, hnull, by simp⟩
  case rightNull =>
    have hnull {r : Token × Nat} : .next (s.fib pr t1 t0 true r) = s.fibSends t1 t0 tokNull :=
      State.fib_null h (.inr ⟨rfl, plainNull_of_null hr he⟩)
    exact ⟨hnull, hnull⟩
  case coords =>
    exact ⟨exec_fibIsect_coords h hl hr (fibPair_coords hl hr hlc hrc),
      exec_fibUnion_coords h (plainNull_of_full hl) (plainNull_of_full hr) (.inl hl) (fibPair_coords hl hr hlc hrc)⟩
  case leftClosed =>
    exact ⟨exec_fibIsect_closed h (plainNull_of_eof hle) (plainNull_of_full hr) (.inl hl), fun hrc =>
      exec_fibUnion_coords h (plainNull_of_eof hle) (plainNull_of_full hr) (.inr hr) (fibPair_left_closed hl hr hrc)⟩
  case rightClosed =>
    exact ⟨exec_fibIsect_closed h (plainNull_of_full hl) (plainNull_of_eof hre) (.inr hr), fun hlc =>
      exec_fibUnion_coords h (plainNull_of_full hl) (plainNull_of_eof hre) (.inl hl) (fibPair_right_closed hl hr hlc)⟩
  case bothClosed =>
    exact ⟨exec_fibIsect_closed h (plainNull_of_eof hle) (plainNull_of_eof hre) (.inl hl),
      exec_fibUnion_closed h (plainNull_of_eof hle) (plainNull_of_eof hre) hl hr⟩
  case oneOperand =>
    have hl : plainNull l = false := hl.elim plainNull_of_full plainNull_of_eof
    exact ⟨exec_fibEoft h hl, exec_fibMkeof h hl, exec_fibMkcrd h hl⟩

end Sys2Proof.Machine
end

section
/-! PROOFS of the statements of tags, loops and streams: quiescence regions and their waves (R169, R170). -/

namespace Sys2Proof.Machine

/-! ### Regions of a partition -/

/-- Region n bears its number, and is closed where no open region does. -/
theorem Part.region_n (x : Part) (n : Nat) : (x.region n).n = n := by
  unfold Part.region
  cases h : x.qregs.find? (fun q => q.n == n) with
  | none => rfl
  | some q => simpa using List.find?_some h
theorem Part.region_closed {x : Part} {n : Nat} (h : ∀ r ∈ x.qregs, r.isOpen = true → r.n ≠ n) : (x.region n).isOpen = false := by
  unfold Part.region
  cases hf : x.qregs.find? (fun q => q.n == n) with
  | none => rfl
  | some q => exact Bool.eq_false_iff.mpr fun ho => h q (List.mem_of_find?_eq_some hf) ho (by simpa using List.find?_some hf)

/-- The only region of a partition is replaced by what is set under its number. -/
theorem State.setRegion_qregs {s : State} {p : Nat} {q r : QRegion} (hone : (s.part p).qregs = [q]) (hn : r.n = q.n) :
    ((s.setRegion p r).part p).qregs = [r] := by
  have hne : s.part p ≠ { num := p } := fun h => by rw [h] at hone; cases hone
  exact (congrArg Part.qregs (part_in s p _ (by exact fun _ => rfl) hne)).trans (by simp [hone, hn])

/-! ### QBEGIN, QEND and PHASE in their frame (R169) -/

/-- The trap of a use that is not allowed: one of the details 1 to 6, which a free value chooses (log 9). -/
def State.qrgTraps (s : State) : Out := .next (({ s with free := s.free + 1 } : State).trap 0x0C (1 + Config.freeNat s.free % 6) 0)

section
variable {s t : State} {pr : BitVec 2} {t1 t0 : Target} {run : State → QRegion → Option State} {q : QRegion}

/-- A form acts on the region that L names, where its use is allowed; otherwise it traps. -/
theorem State.qrg_acts (hv : s.cur.verdict pr = .run) (hn : s.lv.toNat < 16) (ht : run s ((s.part s.cur.p).region s.lv.toNat) = some t) :
    (.next (s.qrg pr t1 t0 run) : Out) = .next t := by
  refine congrArg Host.Outcome.next ((frame_run s pr 16 t1 t0 _ hv).trans ((if_neg (Nat.not_le.mpr hn)).trans ?_))
  rw [ht]; rfl
theorem State.qrg_traps (hv : s.cur.verdict pr = .run) (ht : s.lv.toNat < 16 → run s ((s.part s.cur.p).region s.lv.toNat) = none) :
    .next (s.qrg pr t1 t0 run) = s.qrgTraps := by
  refine congrArg Host.Outcome.next ((frame_run s pr 16 t1 t0 _ hv).trans ?_)
  by_cases hn : 16 ≤ s.lv.toNat
  · exact if_pos hn
  · refine (if_neg hn).trans ?_
    rw [ht (Nat.not_le.mp hn)]; rfl

/-- QBEGIN opens a region that is closed, for an instance that is in no open one. -/
theorem exec_qbegin_opens (hv : s.cur.verdict pr = .run) (hn : s.lv.toNat < 16)
    (h : ∀ r ∈ (s.part s.cur.p).qregs, r.isOpen = true → r.n ≠ s.lv.toNat ∧ s.cur.id ∉ r.members) :
    exec (.qbegin pr t1 t0) s =
      (s.setRegion s.cur.p { n := s.lv.toNat, isOpen := true, members := [s.cur.id] }).gives 16 t1 t0 (word s.lv.toNat) := by
  have hclosed : ((s.part s.cur.p).region s.lv.toNat).isOpen = false := Part.region_closed fun r hr ho => (h r hr ho).1
  have hfree : (s.part s.cur.p).qregs.any (fun r => r.isOpen && r.members.contains s.cur.id) = false := by
    simpa using fun r hr ho => (h r hr ho).2
  refine State.qrg_acts hv hn ?_
  simp only [hclosed, hfree, Part.region_n, mark_zero]
  rfl
theorem exec_qbegin_traps (hv : s.cur.verdict pr = .run) (h : s.lv.toNat < 16 → ((s.part s.cur.p).region s.lv.toNat).isOpen = true ∨
    ∃ r ∈ (s.part s.cur.p).qregs, r.isOpen = true ∧ s.cur.id ∈ r.members) : exec (.qbegin pr t1 t0) s = s.qrgTraps :=
  State.qrg_traps hv fun hn => if_pos (by simpa using h hn)

/-- A QEND waits, where its region is open. -/
theorem exec_qend_parks (hv : s.cur.verdict pr = .run) (hn : s.lv.toNat < 16) (hq : (s.part s.cur.p).region s.lv.toNat = q) (ho : q.isOpen = true) :
    exec (.qend pr t1 t0) s = .next (s.setRegion s.cur.p { q with qends := q.qends ++ [(s.cur.pg, s.cur.fid)], quiet := 0 }).qrgPark := by
  refine State.qrg_acts hv hn ?_
  simp only [hq, ho]
  rfl
theorem exec_qend_traps (hv : s.cur.verdict pr = .run) (h : s.lv.toNat < 16 → ((s.part s.cur.p).region s.lv.toNat).isOpen = false) :
    exec (.qend pr t1 t0) s = s.qrgTraps :=
  State.qrg_traps hv fun hn => if_pos (by simp [h hn])

/-- A PHASE goes on while fewer than three earlier phases are open, and waits otherwise. -/
theorem exec_phase_goes (hv : s.cur.verdict pr = .run) (hn : s.lv.toNat < 16) (hq : (s.part s.cur.p).region s.lv.toNat = q) (ho : q.isOpen = true)
    (hlen : q.older.length < 3) : exec (.phase pr t1 t0) s = .next (((s.setRegion s.cur.p (q.nextPhase s.now)).emit 16 t0 t1
      (withPoison (tokV (word (q.nextPhase s.now).phase)) s.cur.firstOrigin)
      (withPoison (tokV (word (q.nextPhase s.now).phase)) s.cur.firstOrigin)).schedWave s.cur.p) := by
  refine State.qrg_acts hv hn ?_
  simp only [hq, ho, if_pos hlen, mark_zero]
  rfl
theorem exec_phase_parks (hv : s.cur.verdict pr = .run) (hn : s.lv.toNat < 16) (hq : (s.part s.cur.p).region s.lv.toNat = q) (ho : q.isOpen = true)
    (hlen : 3 ≤ q.older.length) :
    exec (.phase pr t1 t0) s = .next (s.setRegion s.cur.p { q with phases := q.phases ++ [(s.cur.pg, s.cur.fid)] }).qrgPark := by
  refine State.qrg_acts hv hn ?_
  simp only [hq, ho, if_neg (Nat.not_lt.mpr hlen)]
  rfl
theorem exec_phase_traps (hv : s.cur.verdict pr = .run) (h : s.lv.toNat < 16 → ((s.part s.cur.p).region s.lv.toNat).isOpen = false) :
    exec (.phase pr t1 t0) s = s.qrgTraps :=
  State.qrg_traps hv fun hn => if_pos (by simp [h hn])

/-- Nulled, they send nulls. -/
theorem exec_qrg_nulls {o : Option (BitVec 11)} (hv : s.cur.verdict pr = .nulls o) : ∀ i ∈ [Instr.qbegin pr t1 t0, .qend pr t1 t0, .phase pr t1 t0],
    exec i s = .next (s.emit 16 t0 t1 (withPoison tokNull o) (withPoison tokNull o)) := by
  have hnulls {run : State → QRegion → Option State} :
      (.next (s.qrg pr t1 t0 run) : Out) = .next (s.emit 16 t0 t1 (withPoison tokNull o) (withPoison tokNull o)) :=
    congrArg Host.Outcome.next (frame_nulls hv)
  simp only [List.forall_mem_cons]
  exact ⟨hnulls, hnulls, hnulls, by simp⟩

end

/-! ### What leaves the regions of a partition as they are -/

section
variable {s t : State} {p : Nat}

theorem State.Performs.qregs (h : s.Performs t) (p : Nat) : (t.part p).qregs = (s.part p).qregs := by
  have := congrArg Part.qregs (h.parts p); exact this
theorem State.Adds.qregs (h : s.Adds t) (p : Nat) : (t.part p).qregs = (s.part p).qregs := by rw [h.part]
theorem State.modPage_qregs (s : State) (p q qg : Nat) (g : Page → Page) : ((s.modPage q qg g).part p).qregs = (s.part p).qregs :=
  part_modPart Part.qregs s q p _ (fun _ => rfl) fun _ => rfl

theorem State.flushAll_qregs (q : Nat) (ids : List Nat) : ∀ s : State,
    ((ids.foldl (fun s id => s.flush q id) s).part p).qregs = (s.part p).qregs := by
  induction ids with
  | nil => exact fun _ => rfl
  | cons id ids ih => exact fun s => (ih _).trans ((s.flush_performs q id).qregs p)

theorem State.checkDone_qregs (s : State) (q qg : Nat) (tag : Tag) : ((s.checkDone q qg tag).part p).qregs = (s.part p).qregs := by
  obtain h | ⟨at', i, h⟩ := s.checkDone_cases q qg tag
  · rw [h]
  · rw [h]; exact ((State.schedCommit_adds ..).qregs p).trans (s.modPage_qregs ..)

theorem State.answer_qregs (s : State) (q qg fid leaves : Nat) (r0 r1 : Token) :
    ((s.answer q qg fid leaves r0 r1).part p).qregs = (s.part p).qregs := by
  obtain h | ⟨u, id, hu, h⟩ := s.answer_cases q qg fid leaves r0 r1
  · rw [h]
  · rw [h]; exact (State.modPage_qregs ..).trans ((State.modPage_qregs ..).trans (hu.qregs p))

theorem State.qrgAnswer_qregs (s : State) (q v extra : Nat) (w : Nat × Nat) : ((s.qrgAnswer q v extra w).part p).qregs = (s.part p).qregs := by
  unfold State.qrgAnswer
  split
  · rfl
  · split
    · rfl
    · exact (State.checkDone_qregs ..).trans (State.answer_qregs ..)

end

/-! ### A wave (R170) -/

/-- The waves in a row that have found a region quiet, with one that finds it as it is now. -/
def State.quietWaves (s : State) (p : Nat) (q : QRegion) : Nat := if s.isQuiet p q && s.totals p q == q.totals then q.quiet + 1 else 0

/-- A region with what a wave finds. -/
def State.seenRegion (s : State) (p : Nat) (q : QRegion) : QRegion := { q with quiet := s.quietWaves p q, totals := s.totals p q }

/-- A region's close: its members' committed stores are visible, and its QENDs return. -/
def State.closeRegion (s : State) (p : Nat) (q : QRegion) : State :=
  let c := q.members.foldl (fun c id => c.flush p id) (s.setRegion p { n := q.n })
  q.qends.foldl (fun s w => s.qrgAnswer p q.n (24 * ((s.part p).regionDies q - 1)) w) c

/-- A wave's end for a region whose phases have gone on: it closes, or notes what the wave has found. -/
def State.endRegion (s : State) (p : Nat) (q : QRegion) : State :=
  if 2 ≤ s.quietWaves p q && !q.qends.isEmpty && q.older.isEmpty then s.closeRegion p q else s.setRegion p (s.seenRegion p q)

/-- A wave's beginning: the earlier phases that are no longer busy end, and PHASEs that wait go on as far as there is room. -/
def State.phasesGo (s : State) (p : Nat) (q : QRegion) : State × QRegion :=
  let q := { q with older := q.older.filter (fun z => s.phaseBusy p q z.2) }
  (q.phases.take (3 - q.older.length)).foldl (fun acc w => (acc.1.qrgAnswer p (acc.2.nextPhase s.now).phase 0 w, acc.2.nextPhase s.now))
    (s, { q with phases := q.phases.drop (3 - q.older.length) })

/-- Does something of a region wait for a wave? -/
def QRegion.awaits (q : QRegion) : Bool := q.isOpen && (!q.qends.isEmpty || !q.phases.isEmpty || !q.older.isEmpty)

section
variable {s t : State} {p : Nat} {q : QRegion} {w : Nat × Nat}

theorem State.quietWaves_eq (s : State) (p : Nat) (q : QRegion) :
    s.quietWaves p q = if s.isQuiet p q = true ∧ s.totals p q = q.totals then q.quiet + 1 else 0 := by
  simp [State.quietWaves]

/-- A region closes when two waves in a row have found it quiet, a QEND waits and no earlier phase is open. -/
theorem State.endRegion_closes (hquiet : 2 ≤ s.quietWaves p q) (hends : q.qends ≠ []) (hold : q.older = []) :
    s.endRegion p q = s.closeRegion p q := if_pos (by simp [hquiet, hends, hold])
theorem State.endRegion_notes (h : s.quietWaves p q < 2 ∨ q.qends = [] ∨ q.older ≠ []) :
    s.endRegion p q = s.setRegion p (s.seenRegion p q) := by
  refine if_neg ?_
  rcases h with h | h | h <;> simp [h]

/-- Where no PHASE waits and every earlier phase is still busy, nothing goes on. -/
theorem State.phasesGo_still (hp : q.phases = []) (hbusy : ∀ z ∈ q.older, s.phaseBusy p q z.2 = true) : s.phasesGo p q = (s, q) := by
  have holder : q.older.filter (fun z => s.phaseBusy p q z.2) = q.older := List.filter_eq_self.mpr hbusy
  unfold State.phasesGo
  simp only [holder, hp, List.take_nil, List.drop_nil, List.foldl_nil]
  rw [← hp]

/-- Where one PHASE waits and no earlier phase is busy, it goes on. -/
theorem State.phasesGo_one (hp : q.phases = [w]) (hidle : ∀ z ∈ q.older, s.phaseBusy p q z.2 = false) :
    s.phasesGo p q = (s.qrgAnswer p ((q.phase + 1) % 4) 0 w, { q with older := [(q.phase, s.now)], phase := (q.phase + 1) % 4, phases := [] }) := by
  have holder : q.older.filter (fun z => s.phaseBusy p q z.2) = [] := List.filter_eq_nil_iff.mpr fun z hz => by simp [hidle z hz]
  unfold State.phasesGo
  simp only [holder, hp]
  rfl

/-- A wave is its beginning and then its end. -/
theorem State.waveRegion_eq {u : State × QRegion} (h : s.phasesGo p q = u) : s.waveRegion p q = u.1.endRegion p u.2 := by
  subst h; rfl

/-- The wave of a partition with one region, which is open. -/
theorem exec_quiescenceWave (hone : (s.part s.arg.p).qregs = [q]) (ho : q.isOpen = true) (ht : s.waveRegion s.arg.p q = t) :
    exec .quiescenceWave s = .next (if (t.part s.arg.p).qregs.any QRegion.awaits then t.schedWave s.arg.p else t) := by
  have hopen : (s.part s.arg.p).qregs.filter (fun q => q.isOpen) = [q] := by simp [hone, ho]
  change execQuiescenceWave s = _
  unfold execQuiescenceWave
  simp only [hopen, List.foldl_cons, List.foldl_nil, ht]
  rfl

/-- The next wave follows while the region awaits it, and none once it has closed. -/
theorem exec_quiescenceWave_again {r : QRegion} (hone : (s.part s.arg.p).qregs = [q]) (ho : q.isOpen = true)
    (ht : s.waveRegion s.arg.p q = t.setRegion s.arg.p r) (htq : (t.part s.arg.p).qregs = [q]) (hn : r.n = q.n) (hr : r.awaits = true) :
    exec .quiescenceWave s = .next ((t.setRegion s.arg.p r).schedWave s.arg.p) := by
  rw [exec_quiescenceWave hone ho ht, State.setRegion_qregs htq hn]
  simp [hr]
theorem exec_quiescenceWave_closes (hone : (s.part s.arg.p).qregs = [q]) (ho : q.isOpen = true) (hq : q.qends = [w])
    (ht : s.waveRegion s.arg.p q = s.closeRegion s.arg.p q) : exec .quiescenceWave s = .next (s.closeRegion s.arg.p q) := by
  have hclosed : ((s.closeRegion s.arg.p q).part s.arg.p).qregs = [{ n := q.n }] := by
    unfold State.closeRegion
    rw [hq]
    exact (State.qrgAnswer_qregs ..).trans ((State.flushAll_qregs ..).trans (State.setRegion_qregs hone rfl))
  rw [exec_quiescenceWave hone ho ht, hclosed]
  rfl

/-- The answer to a form that waits: its results leave, and its activation may be complete. -/
theorem State.qrgAnswer_parked {pg fid : Nat} {f : Fire} (v extra : Nat) (hf : (s.page p pg).fire? fid = some f) (hpark : f.phase = .parked) :
    s.qrgAnswer p v extra (pg, fid) = (s.answer p pg fid (s.now + extra + 1) (f.done (word v)) (f.done (word v))).checkDone p pg f.tag := by
  unfold State.qrgAnswer
  simp only [hf, hpark]
  rfl

end

/-- Settles O37: the forms by their equations, the waves by the end of the one region's. -/
theorem quiescenceRegions : Obligations.QuiescenceRegions := by
  constructor
  · intro s pr t1 t0 p n q parks traps
    refine ⟨fun hv => ⟨exec_qbegin_opens hv, fun hn ho => ?opened, fun _ h => exec_qbegin_traps hv fun _ => h,
      fun _ h => ⟨exec_qend_traps hv fun _ => h, exec_phase_traps hv fun _ => h⟩, fun hn => ?noRegion⟩, fun o => exec_qrg_nulls⟩
    case opened =>
      exact ⟨exec_qend_parks hv hn rfl ho, fun hlen => ⟨_, exec_phase_goes hv hn rfl ho hlen, rfl⟩, exec_phase_parks hv hn rfl ho⟩
    case noRegion =>
      have hno {P : Prop} (h : n < 16) : P := absurd h (Nat.not_lt.mpr hn)
      exact ⟨exec_qbegin_traps hv hno, exec_qend_traps hv hno, exec_phase_traps hv hno⟩
  intro s q p hone ho same seen
  have hsame : s.quietWaves p q = same := State.quietWaves_eq s p q
  have hseen : s.seenRegion p q = seen := by rw [State.seenRegion, hsame]
  refine ⟨fun w hold hph hq hquiet => ?closes, fun hold hph hq hquiet => ?notQuiet, fun hph hold hbusy => ?busy,
    fun w hph hq hlen hidle => ?phase, fun pg fid f v extra => State.qrgAnswer_parked v extra⟩
  case closes =>
    have hend : s.waveRegion p q = s.closeRegion p q :=
      (State.waveRegion_eq (State.phasesGo_still hph (by simp [hold]))).trans (State.endRegion_closes (hsame ▸ hquiet) (by simp [hq]) hold)
    rw [exec_quiescenceWave_closes hone ho hq hend, State.closeRegion, hq]
    rfl
  case notQuiet =>
    have hend : s.waveRegion p q = s.setRegion p (s.seenRegion p q) :=
      (State.waveRegion_eq (State.phasesGo_still hph (by simp [hold]))).trans (State.endRegion_notes (.inl (hsame ▸ hquiet)))
    rw [← hseen]
    exact exec_quiescenceWave_again hone ho hend hone rfl (by simp [State.seenRegion, QRegion.awaits, ho, hq])
  case busy =>
    have hend : s.waveRegion p q = s.setRegion p (s.seenRegion p q) :=
      (State.waveRegion_eq (State.phasesGo_still hph hbusy)).trans (State.endRegion_notes (.inr (.inr hold)))
    rw [← hseen]
    exact exec_quiescenceWave_again hone ho hend hone rfl (by simp [State.seenRegion, QRegion.awaits, ho, hold])
  case phase =>
    intro u next
    have hend : s.waveRegion p q = u.setRegion p (u.seenRegion p next) :=
      (State.waveRegion_eq (State.phasesGo_one hph hidle)).trans (State.endRegion_notes (.inr (.inl hq)))
    exact ⟨u.quietWaves p next, exec_quiescenceWave_again hone ho hend ((State.qrgAnswer_qregs ..).trans hone) rfl
      (by simp [next, QRegion.awaits, ho])⟩

end Sys2Proof.Machine
end

section
/-! PROOFS of the statements of calls and placement: CALL, CALLR and SYSC leave for their callees (R174, R175, R178, R353). -/

namespace Sys2Proof.Machine

/-! ### Asking Pelorus for area (R182, R198) -/

section
variable {s : State} {p : Nat}

/-- What it means that a row is pending for a partition. -/
theorem State.pending_iff {i : Instr} : s.pending p i = true ↔ ∃ x ∈ s.agenda, ∃ a, x.act = .row i a ∧ a.p = p := by
  unfold State.pending
  refine List.any_eq_true.trans (exists_congr fun x => and_congr_right fun _ => ?_)
  cases x.act with
  | row j a => simp
  | fire => simp

/-- A row that comes leaves pending what was, where it is not the row asked for. -/
theorem State.pending_sched {i j : Instr} (h : j ≠ i) (at' src : Nat) (a : Args) : (s.sched at' src j a).pending p i = s.pending p i := by
  rw [Bool.eq_iff_iff, State.pending_iff, State.pending_iff]
  unfold State.sched
  simp [mem_ins, h]

theorem State.schedLate_adds (s : State) (at' : Nat) (i : Instr) (a : Args) : s.Adds (s.schedLate at' i a) := s.adds_insTimed _

/-- Pelorus's being told of requests adds its round, or nothing. -/
theorem State.kick_adds (s : State) (p : Nat) : s.Adds (s.kick p) := by
  unfold State.kick
  dsimp only
  split
  · exact .refl s
  · exact ite_keeps (.refl s) (s.schedLate_adds ..)

/-- A partition with a request and no row for its rounds gets a round, which does not lie in the past. -/
theorem State.kick_round (hreq : (s.part p).requests ≠ []) (hnone : s.pending p .pelorusRound = false) :
    ∃ at', s.now ≤ at' ∧ ⟨at', 3, 0, .row .pelorusRound { p := p }⟩ ∈ (s.kick p).agenda := by
  obtain ⟨r, rs, hrs⟩ := List.exists_cons_of_ne_nil hreq
  unfold State.kick
  simp only [hrs, List.map_cons]
  split
  case isTrue hround =>
    obtain ⟨x, hx, hrow⟩ := List.any_eq_true.mp hround
    split at hrow
    · next a hact =>
      obtain ⟨hp, -⟩ : a.p = p ∧ a.z = 0 := by simpa using hrow
      exact absurd (State.pending_iff.mpr ⟨x, hx, a, hact, hp⟩) (Bool.eq_false_iff.mp hnone)
    · cases hrow
  case isFalse => exact ⟨_, Nat.le_max_left .., (mem_ins _ _ _).mpr (.inl rfl)⟩

/-- A partition with one more request. -/
def Part.withRequest (x : Part) (r : Request) : Part := { x with requests := x.requests ++ [r] }

/-- A request joins those of its partition, and the rest of what it does is to come. -/
theorem State.request_adds (s : State) (p : Nat) (r : Request) :
    (s.modPart p (fun x => x.withRequest r)).Adds (s.request p r) :=
  (State.sched_adds ..).trans (State.kick_adds ..)

theorem State.request_grows (s : State) (p : Nat) (r : Request) : s.Grows (s.request p r) :=
  (s.modPart_grows p _).trans (s.request_adds p r).grows

theorem State.request_page (s : State) (p q qg : Nat) (r : Request) : (s.request p r).page q qg = s.page q qg :=
  ((s.request_adds p r).page q qg).trans (part_modPart (fun x => x.page qg) s p q (fun x => x.withRequest r) (fun _ => rfl) fun _ => rfl)

theorem State.request_requests (hp : s.part p ≠ { num := p }) (r : Request) :
    ((s.request p r).part p).requests = (s.part p).requests ++ [r] := by
  rw [(s.request_adds p r).part, part_in s p (fun x => x.withRequest r) (fun _ => rfl) hp]
  rfl

/-- A request of a partition without a row for its rounds brings one about. -/
theorem State.request_round (hp : s.part p ≠ { num := p }) (hnone : s.pending p .pelorusRound = false) (r : Request) :
    ∃ at', s.now ≤ at' ∧ ⟨at', 3, 0, .row .pelorusRound { p := p }⟩ ∈ (s.request p r).agenda := by
  refine State.kick_round (s := (s.modPart p (fun x => x.withRequest r)).sched (r.since + 4097) 0 .requestPromote { p := p }) ?waits ?none
  case waits =>
    rw [(State.sched_adds ..).part, part_in s p (fun x => x.withRequest r) (fun _ => rfl) hp]
    exact List.append_ne_nil_of_right_ne_nil _ (List.cons_ne_nil r [])
  case none => exact (State.pending_sched (by nofun) ..).trans hnone

end

/-! ### A call becomes outstanding (R174) -/

/-- The request for area that the call which fires makes. -/
def State.callRequest (s : State) (d : Desc) (args : List Reg) : Request :=
  { kind := .call s.cur.id s.cur.fid, desc := d, args := args, wins := s.curAct.wins, pg := s.curInst.page0, since := s.now }

/-- A firing that is outstanding and has had its effect. -/
def Fire.goesOut (f : Fire) : Fire := { f with phase := .out, acted := true }

/-- From s to t the firing f has become an outstanding call with a request of its own, for which a round is to come. -/
structure State.Called (s : State) (f : Fire) (r : Request) (t : State) : Prop where
  mem : t.mem = s.mem
  requests : (t.part s.cur.p).requests = (s.part s.cur.p).requests ++ [r]
  fire : (t.page s.cur.p s.cur.pg).fire? s.cur.fid = some f.goesOut
  agenda : ∀ x ∈ s.agenda, x ∈ t.agenda
  round : ∃ at', s.now ≤ at' ∧ ⟨at', 3, 0, .row .pelorusRound { p := s.cur.p }⟩ ∈ t.agenda

section
variable {s : State} {p pg n : Nat} {f : Fire}

/-- The partition of a firing exists. -/
theorem State.part_ne_of_fire (hf : (s.page p pg).fire? n = some f) : s.part p ≠ { num := p } := by
  unfold State.page at hf
  intro h
  rw [h] at hf
  cases hf

/-- The state in which the firing is an outstanding call. -/
def State.goesOut (s : State) : State := s.modFire s.cur.p s.cur.pg s.cur.fid Fire.goesOut

/-- What a call asks for does not turn on its own firing record. -/
theorem State.goesOut_callRequest (s : State) (d : Desc) (args : List Reg) : s.goesOut.callRequest d args = s.callRequest d args := by
  have hact : s.goesOut.curAct = s.curAct := congrArg (Option.getD · _) (fire_act s s.cur.p s.cur.pg s.cur.fid s.cur.p s.cur.pg _ s.cur.tag)
  have hinst : s.goesOut.curInst = s.curInst := by
    have hinsts : (s.goesOut.part s.cur.p).insts = (s.part s.cur.p).insts := (s.modPage_keepsInsts s.cur.p s.cur.pg _).insts
    change s.goesOut.inst s.cur.p s.cur.id = s.inst s.cur.p s.cur.id
    unfold State.inst Part.inst?
    rw [hinsts]
  unfold State.callRequest
  rw [hact, hinst]
  rfl

/-- A call becomes outstanding, and its request is made. -/
theorem State.callOut_eq (s : State) (d : Desc) (args : List Reg) : s.callOut d args = s.goesOut.request s.cur.p (s.callRequest d args) :=
  congrArg (s.goesOut.request s.cur.p) (s.goesOut_callRequest d args)

/-- A call that fires becomes outstanding and asks for its callee's area. -/
theorem State.callOut_called (hf : (s.page s.cur.p s.cur.pg).fire? s.cur.fid = some f) (hnone : s.pending s.cur.p .pelorusRound = false)
    (d : Desc) (args : List Reg) : s.Called f (s.callRequest d args) (s.callOut d args) := by
  have hfire : (s.goesOut.page s.cur.p s.cur.pg).fire? s.cur.fid = some f.goesOut :=
    fire_in s s.cur.p s.cur.pg s.cur.fid Fire.goesOut (fun _ => rfl) f hf
  have hpart : s.goesOut.part s.cur.p ≠ { num := s.cur.p } := State.part_ne_of_fire hfire
  have hrequests : (s.goesOut.part s.cur.p).requests = (s.part s.cur.p).requests :=
    part_modPart Part.requests s s.cur.p s.cur.p (fun x => x.modPage s.cur.pg _) (fun _ => rfl) fun _ => rfl
  have hgrows := s.goesOut.request_grows s.cur.p (s.callRequest d args)
  rw [State.callOut_eq]
  exact ⟨hgrows.mem, by rw [State.request_requests hpart, hrequests], by rw [State.request_page, hfire], hgrows.agenda,
    State.request_round hpart hnone _⟩

end

/-! ### CALL, CALLR and SYSC (R174, R175, R353) -/

section
variable {s : State} {pr : BitVec 2} {t1 t0 : Target} {d : Desc} {e : LoadFault}

/-- CALL takes the descriptor that its block's load has read. -/
theorem exec_call_loaded {fn : BitVec 5} (hv : s.cur.verdict pr = .run) (hd : kget s.curAct.descs s.cur.tile = some d) :
    exec (.call pr fn t1 t0) s = .next (s.callOut d (([s.cur.l, s.cur.r, s.cur.c].map argReg).take d.arity)) := by
  change execCall pr fn t1 t0 s = _
  unfold execCall
  rw [frame_run _ _ _ _ _ _ hv]
  simp only [hd]

/-- A CALL whose descriptor the load has not read reads it from the image's function table. -/
theorem exec_call_reads {fn : BitVec 5} (hv : s.cur.verdict pr = .run) (hnone : kget s.curAct.descs s.cur.tile = none)
    (hd : s.functionDesc s.cur.p s.curInst.image fn.toNat = .ok d) :
    exec (.call pr fn t1 t0) s = .next (s.callOut d (([s.cur.l, s.cur.r, s.cur.c].map argReg).take d.arity)) := by
  change execCall pr fn t1 t0 s = _
  unfold execCall
  rw [frame_run _ _ _ _ _ _ hv]
  simp only [hnone, hd]

/-- Does a function's arity suit the positions R and C of the CALLR that fires? -/
def Cur.suits (c : Cur) (arity : Nat) : Prop :=
  (arity = 0 ∧ c.r = none ∧ c.c = none) ∨ (arity = 1 ∧ c.r ≠ none) ∨ (arity = 2 ∧ c.r ≠ none ∧ c.c ≠ none)

/-- CALLR of an address that is not a multiple of 64 traps. -/
theorem exec_callr_misaligned (hv : s.cur.verdict pr = .run) (hva : farAddr s.curAct.blk s.lv none % 64 ≠ 0) :
    exec (.callr pr t1 t0) s = .next (s.trap 0x04 64 (farAddr s.curAct.blk s.lv none)) := by
  change execCallr pr t1 t0 s = _
  unfold execCallr
  rw [frame_run _ _ _ _ _ _ hv]
  exact congrArg Host.Outcome.next (if_pos hva)

section
variable (hv : s.cur.verdict pr = .run) (hva : farAddr s.curAct.blk s.lv none % 64 = 0)
include hv hva

/-- CALLR of a descriptor that cannot be used traps. -/
theorem exec_callr_fault (he : s.readDesc s.cur.p (farAddr s.curAct.blk s.lv none) = .error e) :
    exec (.callr pr t1 t0) s = .next (s.trap e.code e.detail e.va) := by
  change execCallr pr t1 t0 s = _
  unfold execCallr
  rw [frame_run _ _ _ _ _ _ hv]
  simp only [hva, he, ne_eq, not_true_eq_false, if_false]

/-- CALLR of a descriptor of the reserved arity traps. -/
theorem exec_callr_reserved (hd : s.readDesc s.cur.p (farAddr s.curAct.blk s.lv none) = .ok d) (harity : d.arity = 3) :
    exec (.callr pr t1 t0) s = .next (s.trap 0x05 0x13 0) := by
  change execCallr pr t1 t0 s = _
  unfold execCallr
  rw [frame_run _ _ _ _ _ _ hv]
  simp [hva, hd, harity]

/-- CALLR of a descriptor whose arity suits calls its function with R and C. -/
theorem exec_callr_suits (hd : s.readDesc s.cur.p (farAddr s.curAct.blk s.lv none) = .ok d) (hfit : s.cur.suits d.arity) :
    exec (.callr pr t1 t0) s = .next (s.callOut d (([s.cur.r, s.cur.c].map argReg).take d.arity)) := by
  change execCallr pr t1 t0 s = _
  unfold execCallr
  rw [frame_run _ _ _ _ _ _ hv]
  rcases hfit with ⟨ha, hr, hc⟩ | ⟨ha, hr⟩ | ⟨ha, hr, hc⟩
  · simp [hva, hd, ha, hr, hc]
  · simp [hva, hd, ha, hr]
  · simp [hva, hd, ha, hr, hc]

end

/-- SYSC without a default handler answers at once. -/
theorem exec_sysc_none {n : BitVec 5} (hv : s.cur.verdict pr = .run) (hd : s.defaultHandler s.cur.p = none) : exec (.sysc pr n t1 t0) s =
    .next (s.emit 1 t0 t1 (withPoison (tokV 0xFFFFFFFF) s.cur.firstOrigin) (withPoison tokNull s.cur.firstOrigin)) := by
  change execSysc pr n t1 t0 s = _
  unfold execSysc
  rw [frame_run _ _ _ _ _ _ hv, hd]

/-- SYSC of a default handler that cannot be used traps. -/
theorem exec_sysc_fault {n : BitVec 5} (hv : s.cur.verdict pr = .run) (hd : s.defaultHandler s.cur.p = some (.error e)) :
    exec (.sysc pr n t1 t0) s = .next (s.trap e.code e.detail e.va) := by
  change execSysc pr n t1 t0 s = _
  unfold execSysc
  rw [frame_run _ _ _ _ _ _ hv, hd]

/-- SYSC calls the default handler with its number and two operands. -/
theorem exec_sysc_calls {n : BitVec 5} (hv : s.cur.verdict pr = .run) (hd : s.defaultHandler s.cur.p = some (.ok d)) : exec (.sysc pr n t1 t0) s =
    .next (s.callOut d [{ val := word (0x100 + n.toNat) }, argReg s.cur.l, argReg s.cur.r]) := by
  change execSysc pr n t1 t0 s = _
  unfold execSysc
  rw [frame_run _ _ _ _ _ _ hv, hd]

end

/-- An operand that is not there makes a blank register, and any other is carried over with its poison (R19). -/
theorem argReg_eq (o : Option Token) : argReg o = (o.map regOf).getD {} := by cases o <;> rfl

/-- Settles O43: each form in its frame is a trap, an answer or State.callOut, which makes the firing outstanding and asks for area. -/
theorem callsLeave : Obligations.CallsLeave := by
  intro s pr fn n t1 t0 f hf hv p reg called lrc va
  have hregs (l : List (Option Token)) : l.map argReg = l.map reg := List.map_congr_left fun o _ => argReg_eq o
  refine ⟨fun hnone => ?calls, exec_callr_misaligned hv, fun d => exec_callr_reserved hv, fun e => exec_callr_fault hv,
    exec_sysc_none hv, fun e => exec_sysc_fault hv⟩
  have leaves {i : Instr} {d : Desc} {l args : List Reg} (hl : l = args) (h : exec i s = .next (s.callOut d l)) : called i d args := by
    obtain ⟨hmem, hreq, hfire, hagenda, at', hlater, hround⟩ := State.callOut_called hf hnone d l
    subst hl
    exact ⟨_, h, hmem, hreq, hfire, hagenda, at', _, rfl, hlater, hround⟩
  have callr {d : Desc} {args : List Reg} (hva : va % 64 = 0) (hd : s.readDesc p va = .ok d) (hfit : s.cur.suits d.arity)
      (hargs : ([s.cur.r, s.cur.c].map reg).take d.arity = args) : called (.callr pr t1 t0) d args :=
    leaves ((congrArg (List.take _) (hregs _)).trans hargs) (exec_callr_suits hv hva hd hfit)
  refine ⟨fun d hd => ?loaded, fun d hd hread => ?reads, fun d hva hd => ⟨fun ha hr hc => ?none, fun ha hr => ?one, fun ha hr hc => ?two⟩,
    fun d hd => ?sysc⟩
  case loaded => exact leaves (congrArg (List.take _) (hregs _)) (exec_call_loaded hv hd)
  case reads => exact leaves (congrArg (List.take _) (hregs _)) (exec_call_reads hv hd hread)
  case none => exact callr hva hd (.inl ⟨ha, hr, hc⟩) (by rw [ha]; rfl)
  case one => exact callr hva hd (.inr (.inl ⟨ha, hr⟩)) (by rw [ha]; rfl)
  case two => exact callr hva hd (.inr (.inr ⟨ha, hr, hc⟩)) (by rw [ha]; rfl)
  case sysc => exact leaves (congrArg (List.cons _) (hregs [_, _])) (exec_sysc_calls hv hd)

end Sys2Proof.Machine
end

section
/-! PROOFS of the statements of memory levels: what a partition that freezes whole writes (R219, R308, R380). -/

namespace Sys2Proof.Machine

/-! ### A channel goes on (R302, R310) -/

section
variable (s : State) (p : Nat)

theorem foldl_grows {β : Type} (f : State → β → State) (hf : ∀ s x, State.Grows s (f s x)) (l : List β) : s.Grows (l.foldl f s) :=
  foldl_keeps (P := s.Grows) (.refl s) fun t x h => h.trans (hf t x)

theorem State.setWptr_grows (eng ch : Nat) (v : Word) : s.Grows (s.setWptr p eng ch v) := by
  refine (s.modPart_grows p _).trans (foldl_grows _ _ (fun t w => ?_) _)
  split
  · exact (t.answer_grows ..).trans (State.checkDone_grows ..)
  · exact .refl t

theorem State.copyRow_grows (c : CopyCmd) (at' : Nat) (i : Instr) (z : Nat) : s.Grows (s.copyRow p c at' i z) := (s.sched_adds ..).grows

theorem State.copyTake_grows (c : CopyCmd) : s.Grows (s.copyTake p c) := by
  unfold State.copyTake
  split
  · exact .refl s
  · dsimp only
    split
    · exact ite_keeps (P := s.Grows) (.refl s)
        (((s.modPart_grows p _).trans (State.modPart_grows ..)).trans (State.wake_adds ..).grows)
    · exact .refl s

/-- Timing a command's next element writes nothing. -/
theorem State.copyStep_grows (num n : Nat) : ∀ s : State, s.Grows (s.copyStep p num n) := by
  induction n with
  | zero => exact fun s => .refl s
  | succ n ih =>
    intro s
    unfold State.copyStep
    split
    · exact .refl s
    · rename_i c _
      refine ite_keeps (P := s.Grows) (.refl s) (ite_keeps (ite_keeps (s.copyRow_grows ..) (.refl s)) (ite_keeps (s.copyRow_grows ..) ?_))
      have htake := s.copyTake_grows p c
      dsimp only
      split
      · exact htake
      · exact ite_keeps (P := s.Grows) (htake.trans (State.copyRow_grows ..)) ((htake.trans (State.modPart_grows ..)).trans (ih _))

/-- A command that begins writes nothing yet. -/
theorem State.copyLook_grows (eng ch : Nat) : s.Grows (s.copyLook p eng ch) := by
  refine ite_keeps (P := s.Grows) (.refl s) ?_
  split
  · exact .refl s
  · rename_i c _
    have hptr : s.Grows (if c.rp && !c.resume && c.bytes = 0 then s.setWptr p eng ch 0 else s) :=
      ite_keeps (P := s.Grows) (s.setWptr_grows p eng ch 0) (.refl s)
    exact (hptr.trans (State.modPart_grows ..)).trans (State.copyStep_grows ..)

end

/-! ### A command that stops writes its progress (R308) -/

section
variable {s : State} {p pa cause : Nat} {c : CopyCmd} {l : List Piece}

/-- The progress word of a command: V = 1 and the bytes delivered. -/
def CopyCmd.progress (c : CopyCmd) : List Byte := leBytes 8 (c.bytes % 2 ^ 32 + 2 ^ 63)

/-- A command with no element waiting for the rest of its line writes its progress, and nothing more. -/
theorem State.copyHalt_mem (hc : (s.part p).copy? c.num = some c) (hheld : c.held = 0)
    (hl : s.copyAccess p c.win true (c.descVa + 56) 8 8 = .ok l) : (s.copyHalt p c).mem = (s.copyPut l c.progress).mem := by
  have hflush : s.copyFlush p c.num = s := by simp only [State.copyFlush, hc, hheld, if_true]
  unfold State.copyHalt
  simp only [hflush, hc, Option.getD_some, State.copyProgress, hl]
  exact (State.copyLook_grows ..).mem

/-- A command that stands at a 64-byte boundary with nothing on its way to a peer stops there. -/
theorem State.copyStop_boundary (hc : (s.part p).copy? c.num = some c) (hat : (c.bytes + c.held * c.e) % 64 = 0) (hfly : c.flying = 0) :
    s.copyStop p c.num = s.copyHalt p c := by
  have hfinish : s.copyFinish p c.num 64 = s := by simp [State.copyFinish, hc, hat]
  simp [State.copyStop, hfinish, hc, hfly]

/-- The only command of a partition, of a COPY node and at work, is stopped. -/
theorem State.helmHalt_one (hone : (s.part p).copies = [c]) (hplace : c.place = none) (hbegun : c.begun = true) (hgoing : c.stopped = false) :
    s.helmHalt p = s.copyStop p c.num := by
  simp [State.helmHalt, hone, hplace, hbegun, hgoing]

/-- A partition without instances that freezes whole writes what its COPY nodes' commands do as they stop. -/
theorem State.freezePart_mem (hfrozen : (s.part p).frozen = false) (hnone : (s.part p).insts = []) :
    (s.freezePart p).mem = (s.helmHalt p).mem := by
  simp [State.freezePart, hfrozen, hnone, State.cancel]

theorem State.postVf_mem (s : State) (p ty : Nat) (pay : List Nat) : (s.postVf p ty pay).mem = s.mem :=
  ite_keeps (P := fun t : State => t.mem = s.mem) rfl rfl

/-- An integrity failure outside windows writes what its partition's freezing does. -/
theorem State.integrityFail_mem (hwin : ∀ w ∈ s.windows, pa >>> 26 ∉ w.regions) (hcause : cause ≠ 5) :
    (s.integrityFail p pa cause).mem = (s.freezePart p).mem := by
  have hw : s.windows.find? (fun w => w.regions.contains (pa >>> 26)) = none := by simpa using hwin
  unfold State.integrityFail
  simp only [hw, Option.isSome_none, Bool.false_and, Bool.false_eq_true, if_false, if_neg hcause]
  exact State.postVf_mem ..

end

/-! ### A COPY node at work when a line fails -/

/-- A COPY node's fill of 64 bytes that has begun and delivered nothing; its descriptor stands at VA 0x10000. -/
def nodeFill : CopyCmd :=
  { helmCmd 7 0 4 0x10000 (.helm 0 0 0 0x10100) with desc := 64 * 2 ^ 32 + 0x10200 * 2 ^ 128 + 2 ^ 144 * 2 ^ 144, begun := true }

/-- That command at work; the page tables at 0 map VA 0x10000 onto itself, on a page that may be written. -/
def State.nodeFills : State :=
  { State.reset with
    mem := [(0, 1), (2, 4), (0x1000, 7), (0x1002, 2), (0x1007, 0x30)]
    parts := [{ num := 1, live := true, regions := [0], map := [(0, 0, 0, 0)], engines := [(0, 0)], copies := [nodeFill] }] }

/-- Its progress word, at byte 56 of the descriptor, may be written. -/
theorem nodeFills_access : State.nodeFills.copyAccess 1 wholeSpace true 0x10038 8 8 = .ok [⟨0x10038, 0x10038, 0x3000000000020007, 8⟩] := by
  decide +kernel

/-- The partition that freezes whole has the progress written. -/
theorem nodeFills_freezes : (State.nodeFills.freezePart 1).mem = Mem.sets State.nodeFills.mem 0x10038 nodeFill.progress :=
  calc (State.nodeFills.freezePart 1).mem = (State.nodeFills.helmHalt 1).mem := State.freezePart_mem rfl rfl
    _ = (State.nodeFills.copyStop 1 7).mem := congrArg State.mem (State.helmHalt_one (c := nodeFill) rfl rfl rfl rfl)
    _ = (State.nodeFills.copyHalt 1 nodeFill).mem := congrArg State.mem (State.copyStop_boundary (c := nodeFill) rfl (by decide) rfl)
    _ = (State.nodeFills.copyPut [⟨0x10038, 0x10038, 0x3000000000020007, 8⟩] nodeFill.progress).mem :=
      State.copyHalt_mem (c := nodeFill) rfl rfl nodeFills_access
    _ = Mem.sets State.nodeFills.mem 0x10038 nodeFill.progress := State.memWrite_mem ..

/-- Refutes O50: an integrity failure leaves memory as it was, says the statement; but engine commands stop at their next boundary (R380), and a command
that stops early writes its progress (R308). Here a COPY node's command is at work when the line 0x20000 fails, and the progress word of its descriptor
takes V = 1. -/
theorem not_guardAndStores : ¬ Obligations.GuardAndStores := by
  rintro ⟨-, -, -, hfails, -⟩
  have hwin : ∀ w ∈ State.nodeFills.windows, 0x20000 >>> 26 ∉ w.regions := List.forall_mem_nil _
  obtain ⟨hsame, -⟩ := hfails State.nodeFills 1 0x20000 1 rfl ⟨_, List.mem_singleton_self _, rfl⟩ hwin (by decide)
  have hwritten : (State.nodeFills.integrityFail 1 0x20000 1).mem = Mem.sets State.nodeFills.mem 0x10038 nodeFill.progress :=
    (State.integrityFail_mem hwin (by decide)).trans nodeFills_freezes
  exact absurd (hwritten.symm.trans hsame) (by decide)

end Sys2Proof.Machine
end

section
/-! PROOFS of the statements of synchronisation: what the operations of the engines leave of the objects on the dies (R240 to R260). -/

namespace Sys2Proof.Machine

/-! ### A partition that exists -/

/-- Is there a partition of a number? -/
def State.hasPart (s : State) (p : Nat) : Prop := ∃ x ∈ s.parts, x.num = p

section
variable {s t u : State} {p : Nat}

theorem State.hasPart_iff : s.hasPart p ↔ p ∈ s.parts.map Part.num := List.mem_map.symm

/-- A partition with something in it exists. -/
theorem State.hasPart_of_ne (h : s.part p ≠ { num := p }) : s.hasPart p := by
  unfold State.part at h
  cases hx : s.parts.find? (fun x => x.num == p) with
  | none => rw [hx] at h; exact absurd rfl h
  | some x => exact ⟨x, List.mem_of_find?_eq_some hx, by simpa using List.find?_some hx⟩

theorem State.hasPart_modPart (q : Nat) (f : Part → Part) (hf : ∀ x, (f x).num = x.num) : (s.modPart q f).hasPart p ↔ s.hasPart p := by
  have hnums : (s.modPart q f).parts.map Part.num = s.parts.map Part.num :=
    List.map_map.trans (List.map_congr_left fun x _ => by simp only [Function.comp]; split <;> simp [hf])
  rw [State.hasPart_iff, State.hasPart_iff, hnums]

/-- The partition that was updated, where it exists. -/
theorem State.hasPart.part_in (h : s.hasPart p) (f : Part → Part) (hf : ∀ x, (f x).num = x.num) : (s.modPart p f).part p = f (s.part p) := by
  obtain ⟨x, hx, hn⟩ := h
  obtain ⟨y, hy⟩ := Option.isSome_iff_exists.mp (List.find?_isSome.mpr ⟨x, hx, by simpa using hn⟩ : (s.parts.find? (fun x => x.num == p)).isSome = true)
  unfold State.part State.modPart
  dsimp only
  rw [find_map' s.parts Part.num p f hf, hy]
  rfl

/-! ### What leaves the objects on the dies as they are -/

/-- From s to t the clock stands, a partition exists as before, and so many of its objects are kept on the dies. -/
structure State.KeepsDies (p : Nat) (s t : State) : Prop where
  now : t.now = s.now
  limit : (t.part p).csrN 0x0C2 = (s.part p).csrN 0x0C2
  parts : t.hasPart p ↔ s.hasPart p

/-- And its objects stand. -/
structure State.KeepsObjs (p : Nat) (s t : State) : Prop extends State.KeepsDies p s t where
  objs : (t.part p).objs = (s.part p).objs

theorem State.KeepsDies.trans (h : s.KeepsDies p t) (g : t.KeepsDies p u) : s.KeepsDies p u :=
  ⟨g.now.trans h.now, g.limit.trans h.limit, g.parts.trans h.parts⟩

theorem State.KeepsObjs.refl (s : State) : s.KeepsObjs p s := ⟨⟨rfl, rfl, .rfl⟩, rfl⟩
theorem State.KeepsObjs.trans (h : s.KeepsObjs p t) (g : t.KeepsObjs p u) : s.KeepsObjs p u :=
  ⟨h.toKeepsDies.trans g.toKeepsDies, g.objs.trans h.objs⟩

/-- What is kept on a die is kept there still. -/
theorem State.KeepsDies.inMemory (h : s.KeepsDies p t) (n : Nat) : (t.part p).inMemory n = (s.part p).inMemory n := by
  unfold Part.inMemory Part.onDie
  rw [h.limit]

/-- An object kept on a die stands. -/
theorem State.KeepsObjs.obj (h : s.KeepsObjs p t) {n : Nat} (hm : (s.part p).inMemory n = false) : t.obj p n = s.obj p n := by
  rw [State.obj_onChip hm, State.obj_onChip ((h.inMemory n).trans hm), h.objs]

/-- An object on a die that has been set reads back, until an object is set again. -/
theorem State.KeepsObjs.obj_put {o : Obj} (h : (s.setObj p o).KeepsObjs p t) (hp : s.hasPart p) (hm : (s.part p).inMemory o.h = false) :
    t.obj p o.h = { o with va := 0 } := by
  have hset := State.setObj_onChip (s := s) (p := p) hm
  have hpart := hp.part_in (fun x => { x with objs := putObj o x.objs }) (fun _ => rfl)
  rw [hset] at h
  have hobjs : (t.part p).objs = putObj o (s.part p).objs := h.objs.trans (by rw [hpart])
  have hmt : (t.part p).inMemory o.h = false := (h.inMemory o.h).trans (by rw [hpart]; exact hm)
  rw [State.obj_onChip hmt, hobjs, find_putObj]
  rfl

/-- Setting one changes no more than the objects. -/
theorem State.setObj_keepsDies {o : Obj} (hm : (s.part p).inMemory o.h = false) : s.KeepsDies p (s.setObj p o) := by
  rw [State.setObj_onChip hm]
  exact ⟨rfl, part_modPart (fun x => x.csrN 0x0C2) s p p _ (fun _ => rfl) fun _ => rfl, State.hasPart_modPart p _ fun _ => rfl⟩

/-- Steps, memory and what stands outside the partitions are not objects. -/
theorem State.keepsObjs_of_parts (hp : t.parts = s.parts) (hn : t.now = s.now) : s.KeepsObjs p t := by
  have hpart : t.part p = s.part p := by unfold State.part; rw [hp]
  refine ⟨⟨hn, by rw [hpart], ?_⟩, by rw [hpart]⟩
  unfold State.hasPart
  rw [hp]

theorem State.Adds.keepsObjs (h : s.Adds t) : s.KeepsObjs p t := State.keepsObjs_of_parts h.parts h.grows.now

theorem State.modPart_keepsObjs (s : State) (q : Nat) (f : Part → Part) (hn : ∀ x, (f x).num = x.num) (ho : ∀ x, (f x).objs = x.objs)
    (hc : ∀ x, (f x).csrN 0x0C2 = x.csrN 0x0C2) : s.KeepsObjs p (s.modPart q f) :=
  ⟨⟨rfl, part_modPart (fun x => x.csrN 0x0C2) s q p f hn hc, State.hasPart_modPart q f hn⟩, part_modPart Part.objs s q p f hn ho⟩

theorem State.modPage_keepsObjs (s : State) (q qg : Nat) (f : Page → Page) : s.KeepsObjs p (s.modPage q qg f) :=
  s.modPart_keepsObjs q _ (fun _ => rfl) (fun _ => rfl) fun _ => rfl

theorem State.setCsr_keepsObjs (s : State) (q v : Nat) {n : Nat} (h : 0x0C2 ≠ n) : s.KeepsObjs p (s.setCsr q n v) :=
  s.modPart_keepsObjs q _ (fun _ => rfl) (fun _ => rfl) fun x => by unfold Part.csrN csrWord; rw [kget_kset _ _ _ _ h]

theorem State.setCsrF_keepsObjs (s : State) (q hi lo v : Nat) {n : Nat} (h : 0x0C2 ≠ n) : s.KeepsObjs p (s.setCsrF q n hi lo v) :=
  s.setCsr_keepsObjs q _ h

theorem State.bumpCsr_keepsObjs (s : State) (q hi lo : Nat) {n : Nat} (h : 0x0C2 ≠ n) : s.KeepsObjs p (s.bumpCsr q n hi lo) :=
  ite_keeps (P := s.KeepsObjs p) (s.setCsrF_keepsObjs q hi lo _ h) (.refl s)

/-! ### Answers, and what they report -/

theorem State.checkDone_keepsObjs (s : State) (q qg : Nat) (tag : Tag) : s.KeepsObjs p (s.checkDone q qg tag) := by
  obtain h | ⟨t, i, h⟩ := s.checkDone_cases q qg tag
  · rw [h]; exact .refl s
  · rw [h]; exact (s.modPage_keepsObjs ..).trans (State.schedCommit_adds ..).keepsObjs

theorem State.syncAnswer_keepsObjs (s : State) (q qg h : Nat) (f : Fire) (r0 : Token) (r1 : Option Token) :
    s.KeepsObjs p (s.syncAnswer q qg h f r0 r1) := by
  have hsent := s.send_adds (curOf q qg f) (s.syncBack qg h) (targetsOf f.word).1 (withPoison r0 (curOf q qg f).firstOrigin)
  unfold State.syncAnswer
  cases r1 with
  | none => exact hsent.keepsObjs.trans ((State.modPage_keepsObjs ..).trans (State.checkDone_keepsObjs ..))
  | some r =>
    exact (hsent.trans (State.send_adds ..)).keepsObjs.trans ((State.modPage_keepsObjs ..).trans (State.checkDone_keepsObjs ..))

theorem State.postVf_keepsObjs (s : State) (q ty : Nat) (pay : List Nat) : s.KeepsObjs p (s.postVf q ty pay) :=
  ite_keeps (P := s.KeepsObjs p) ((s.modPart_keepsObjs q _ (by exact fun _ => rfl) (by exact fun _ => rfl) (by exact fun _ => rfl)).trans
    (State.sched_adds ..).keepsObjs) (s.modPart_keepsObjs q _ (fun _ => rfl) (fun _ => rfl) fun _ => rfl)

/-- A write to memory by the device changes no partition. -/
theorem State.devWrite_parts {q va : Nat} {bs : List Byte} (h : s.devWrite q va bs = some t) : t.parts = s.parts ∧ t.now = s.now := by
  unfold State.devWrite at h
  split at h
  · cases h; exact ⟨rfl, rfl⟩
  · split at h
    · split at h
      · cases h
        exact ⟨s.memWrite_parts .., by have := congrArg State.now (memWrite_framed (a := q) (b := 0) (c := 0) s ‹Leaf›.pa bs).core; exact this⟩
      · cases h
    · cases h

theorem State.devWrite_keepsObjs {q va : Nat} {bs : List Byte} (h : s.devWrite q va bs = some t) : s.KeepsObjs p t :=
  have ⟨hparts, hnow⟩ := State.devWrite_parts h
  State.keepsObjs_of_parts hparts hnow

theorem State.reportPoison_keepsObjs (s : State) (q : Nat) (o : BitVec 11) (va : Nat) (c : Bool) : s.KeepsObjs p (s.reportPoison q o va c) := by
  have hcsrs : s.KeepsObjs p (((s.setCsr q 0x099 (o.toNat + 2 ^ 31)).setCsr q 0x09A (va % 2 ^ 32)).setCsr q 0x09B (va / 2 ^ 32)) :=
    (s.setCsr_keepsObjs q _ (by decide)).trans ((State.setCsr_keepsObjs _ q _ (by decide)).trans (State.setCsr_keepsObjs _ q _ (by decide)))
  exact ite_keeps (P := s.KeepsObjs p) (hcsrs.trans (State.bumpCsr_keepsObjs _ q 31 0 (by decide))) hcsrs

theorem State.reportStored_keepsObjs (s : State) (q h : Nat) (f : Fire) : s.KeepsObjs p (s.reportStored q h f) := by
  unfold State.reportStored
  split
  · exact s.reportPoison_keepsObjs ..
  · exact .refl s

/-- A new origin is a log entry, or the event that it was lost. -/
theorem State.newOrigin_keepsObjs (s : State) (q pg tile : Nat) (tag : Tag) (gen kind op xf va : Nat) :
    s.KeepsObjs p (s.newOrigin q pg tile tag gen kind op xf va).1 := by
  have hnext : s.KeepsObjs p (s.setCsrF q 0x098 26 16 (bits ((s.part q).csrN 0x098) 26 16 + 1)) := s.setCsrF_keepsObjs q 26 16 _ (by decide)
  have hlost : s.KeepsObjs p (s.modPart q (fun y => { y with plogOver := (s.part q).plogOver + 1 })) :=
    s.modPart_keepsObjs q _ (fun _ => rfl) (fun _ => rfl) fun _ => rfl
  unfold State.newOrigin
  dsimp only
  split
  · refine hnext.trans ?_
    dsimp only
    split
    · rename_i hw; exact State.devWrite_keepsObjs hw
    · exact State.postVf_keepsObjs ..
  · refine hlost.trans ?_
    dsimp only
    split
    · rename_i hw; exact State.devWrite_keepsObjs hw
    · exact State.postVf_keepsObjs ..

/-! ### The wait-for table -/

theorem State.wregStatus_keepsObjs (s : State) (q id name v extra : Nat) : s.KeepsObjs p (s.wregStatus q id name v extra) := by
  unfold State.wregStatus
  split
  · exact .refl s
  · rename_i w _
    have hsent : s.KeepsObjs p (((s.sendStatus q w.pg w.fid (nameDie name) v extra).modFire q w.pg w.fid
        (fun f => { f with phase := .done, acted := true })).modPart q
          (fun x => { x with wregs := x.wregs.map (fun u => if u == w then { u with fid := 0 } else u) })) :=
      (s.sendStatus_adds ..).keepsObjs.trans ((State.modPage_keepsObjs ..).trans
        (State.modPart_keepsObjs _ q _ (fun _ => rfl) (fun _ => rfl) fun _ => rfl))
    dsimp only
    split
    · exact hsent.trans (State.checkDone_keepsObjs ..)
    · exact hsent

theorem State.dropWft_keepsObjs (s : State) (q : Nat) (dead : WftEnt → Bool) : s.KeepsObjs p (s.dropWft q dead) :=
  ite_keeps (P := s.KeepsObjs p) (.refl s) ((s.modPart_keepsObjs q _ (by exact fun _ => rfl) (by exact fun _ => rfl) (by exact fun _ => rfl)).trans
    ((State.setCsrF_keepsObjs _ q _ _ _ (by decide)).trans (State.prioChanged_adds ..).keepsObjs))

theorem State.endHold_keepsObjs (s : State) (q id name : Nat) : s.KeepsObjs p (s.endHold q id name) :=
  (s.modPart_keepsObjs q _ (by exact fun _ => rfl) (by exact fun _ => rfl) (by exact fun _ => rfl)).trans (State.dropWft_keepsObjs ..)

/-- The status tokens of a registration are not objects. -/
theorem State.regStatus_keepsObjs (s : State) (q : Nat) (r : RegReq) (home : Nat) : s.KeepsObjs p (s.regStatus q r home) := by
  have hown : s.KeepsObjs p (if r.stFid = 0 then s else s.sendStatus q r.stPg r.stFid (nameDie r.ent.name) home (if home = 2 then 140 else 0)) :=
    ite_keeps (P := s.KeepsObjs p) (.refl s) (s.sendStatus_adds ..).keepsObjs
  exact ite_keeps (P := s.KeepsObjs p) (hown.trans (State.wregStatus_keepsObjs ..)) hown

theorem State.enter_keepsObjs (s : State) (q : Nat) (r : RegReq) (home : Nat) : s.KeepsObjs p (s.enter q r home) := by
  refine ite_keeps (P := s.KeepsObjs p) ((s.regStatus_keepsObjs q r home).trans ?_) ((s.regStatus_keepsObjs q r home).trans ?_)
  · exact State.bumpCsr_keepsObjs _ q 15 0 (by decide)
  · exact (State.modPart_keepsObjs _ q _ (by exact fun _ => rfl) (by exact fun _ => rfl) (by exact fun _ => rfl)).trans
      ((State.setCsrF_keepsObjs _ q _ _ _ (by decide)).trans ((State.sched_adds ..).trans (State.prioChanged_adds ..)).keepsObjs)

theorem State.wftWrite_keepsObjs {q : Nat} (h : s.wftWrite q = some t) : s.KeepsObjs p t := by
  obtain ⟨u, hu, rfl⟩ := Option.map_eq_some_iff.mp h
  exact (State.devWrite_keepsObjs hu).trans (State.keepsObjs_of_parts rfl rfl)

/-- Registrations that are entered leave the objects. -/
theorem State.regNext_keepsObjs (q n : Nat) : ∀ s : State, s.KeepsObjs p (s.regNext q n) := by
  induction n with
  | zero => exact .refl
  | succ n ih =>
    intro s
    unfold State.regNext
    dsimp only
    split
    · rename_i r rest _ _
      have htaken : s.KeepsObjs p (s.modPart q (fun x => { x with regq := rest })) :=
        s.modPart_keepsObjs q _ (fun _ => rfl) (fun _ => rfl) fun _ => rfl
      refine htaken.trans ?_
      split
      · exact (ite_keeps (P := State.KeepsObjs p _) (.refl _) (State.sendStatus_adds ..).keepsObjs).trans (ih _)
      · split
        · split
          · exact (State.wftWrite_keepsObjs ‹_›).trans ((State.enter_keepsObjs ..).trans (ih _))
          · exact (State.postVf_keepsObjs ..).trans ((State.enter_keepsObjs ..).trans (ih _))
        · exact (State.enter_keepsObjs ..).trans (ih _)
    · exact .refl s

theorem State.register_keepsObjs (s : State) (q : Nat) (r : RegReq) : s.KeepsObjs p (s.register q r) :=
  (s.modPart_keepsObjs q _ (by exact fun _ => rfl) (by exact fun _ => rfl) (by exact fun _ => rfl)).trans (State.regNext_keepsObjs ..)

theorem State.enterHold_keepsObjs (s : State) (q : Nat) (i : Inst) (name pg fid : Nat) (b : Bool) :
    s.KeepsObjs p (s.enterHold q i name pg fid b) := s.register_keepsObjs ..

theorem State.enterWait_keepsObjs (s : State) (q pg : Nat) (f : Fire) (name : Nat) (b : Bool) : s.KeepsObjs p (s.enterWait q pg f name b) :=
  (s.modPart_keepsObjs q _ (by exact fun _ => rfl) (by exact fun _ => rfl) (by exact fun _ => rfl)).trans (State.register_keepsObjs ..)

end

end Sys2Proof.Machine
end

section
/-! PROOFS of the statements of synchronisation: atomic operations, locks, barriers and queues on the dies (R240 to R249). -/

namespace Sys2Proof.Machine

/-! ### An operation that acts at its object (R230, R240, R242) -/

section
variable {s t : State} {p pg h : Nat} {f : Fire}

theorem State.served_parts (s : State) (p h : Nat) : (s.served p h).parts = s.parts := by
  unfold State.served
  dsimp only
  split <;> rfl

theorem State.served_now (s : State) (p h : Nat) : (s.served p h).now = s.now := by
  unfold State.served
  dsimp only
  split <;> rfl

theorem State.served_part (s : State) (p h q : Nat) : (s.served p h).part q = s.part q := by unfold State.part; rw [s.served_parts]

/-- The state in which an operation acts differs in what its engine has served, and in its instance's committed stores. -/
theorem State.atObject_performs (s : State) (p h : Nat) (f : Fire) : (s.served p h).Performs (s.atObject p h f) :=
  ite_keeps (P := (s.served p h).Performs) (State.flush_performs ..) (.refl _)

theorem State.atObject_now : (s.atObject p h f).now = s.now := (s.atObject_performs p h f).now.trans (s.served_now p h)

theorem State.atObject_page (s : State) (p h : Nat) (f : Fire) (q qg : Nat) : (s.atObject p h f).page q qg = s.page q qg :=
  ((s.atObject_performs p h f).page q qg).trans (by unfold State.page; rw [s.served_part])

theorem State.atObject_inMemory (s : State) (p h : Nat) (f : Fire) (q k : Nat) : ((s.atObject p h f).part q).inMemory k = (s.part q).inMemory k := by
  have hflush := congrArg (fun x : Part => x.inMemory k) ((s.atObject_performs p h f).parts q)
  rw [s.served_part] at hflush
  exact hflush

theorem State.atObject_hasPart {pg n : Nat} {g : Fire} (hf : (s.page p pg).fire? n = some g) : (s.atObject p h f).hasPart p :=
  State.hasPart_of_ne (part_ne_of_fire ((congrArg (Page.fire? · n) (s.atObject_page ..)).trans hf))

theorem State.objFault_onChip (hm : (s.part p).inMemory h = false) : s.objFault p h = none := by
  unfold State.objFault
  simp [hm]

/-- An operation whose objects are all kept on the dies acts. -/
theorem State.withObjs_onChip {k : Nat} {run : State → State} (hm : (s.part p).inMemory k = false) : s.withObjs p pg f [k] run = run s := by
  unfold State.withObjs
  simp [State.objFault_onChip hm]

/-- What an operation does at its object, by its opcode. -/
def State.objOp (s : State) (p pg h : Nat) (f : Fire) : State :=
  match (opF f.word).toNat with
  | 0x58 => s.amo p pg h f
  | 0x59 => s.lockOp p pg h f
  | 0x5A => s.barOp p pg h f
  | _ => s.qOp p pg h f

theorem State.objOp_amo (h' : (opF f.word).toNat = 0x58) : s.objOp p pg h f = s.amo p pg h f := by unfold State.objOp; simp only [h']
theorem State.objOp_lock (h' : (opF f.word).toNat = 0x59) : s.objOp p pg h f = s.lockOp p pg h f := by unfold State.objOp; simp only [h']
theorem State.objOp_bar (h' : (opF f.word).toNat = 0x5A) : s.objOp p pg h f = s.barOp p pg h f := by unfold State.objOp; simp only [h']
theorem State.objOp_queue (h' : (opF f.word).toNat = 0x5B) : s.objOp p pg h f = s.qOp p pg h f := by unfold State.objOp; simp only [h']

/-- What reaches a free engine acts at its object on the die. -/
theorem State.syncAct_onChip (hm : (s.part p).inMemory (valOf (f.l.map Arr.tok)).toNat = false)
    (hfree : s.engineFree p (valOf (f.l.map Arr.tok)).toNat = true) (hop : (opF f.word).toNat ≠ 0x5C) : s.syncAct p pg f =
      (s.atObject p (valOf (f.l.map Arr.tok)).toNat f).objOp p pg (valOf (f.l.map Arr.tok)).toNat f := by
  have hserved : ((s.served p (valOf (f.l.map Arr.tok)).toNat).part p).inMemory (valOf (f.l.map Arr.tok)).toNat = false := by
    rw [s.served_part]; exact hm
  unfold State.syncAct State.engineTurn
  simp only [if_neg hop, hfree, if_true, State.withObjs_onChip hserved]
  rfl

/-- A firing's operation whose handle is good reaches its object on the die. -/
theorem exec_syncOperationArrival_onChip (hf : (s.page s.arg.p s.arg.pg).fire? s.arg.fid = some f) (hphase : f.phase = .out)
    (hok : (s.part s.arg.p).handleOk (valOf (f.l.map Arr.tok)).toNat = true)
    (hm : (s.part s.arg.p).inMemory (valOf (f.l.map Arr.tok)).toNat = false)
    (hfree : s.engineFree s.arg.p (valOf (f.l.map Arr.tok)).toNat = true) (hop : (opF f.word).toNat ≠ 0x5C) : exec .syncOperationArrival s =
      .next ((s.atObject s.arg.p (valOf (f.l.map Arr.tok)).toNat f).objOp s.arg.p s.arg.pg (valOf (f.l.map Arr.tok)).toNat f) := by
  rw [← State.syncAct_onChip hm hfree hop]
  have hout : (f.phase != .out) = false := by rw [hphase]; rfl
  change execSyncOperationArrival s = _
  unfold execSyncOperationArrival
  simp only [hf, hout, hok, hm, Bool.not_true, Bool.false_eq_true, if_false, ite_self]

/-- What is parked at an object without waiters. -/
theorem State.parkedAt_nil {o : Obj} (h : o.waiters = []) : s.parkedAt p o = [] := by unfold State.parkedAt; rw [h]; rfl
theorem State.savedAt_nil {o : Obj} (h : o.waiters = []) : s.savedAt p o = [] := by unfold State.savedAt; rw [h]; rfl
theorem State.parkedForm_nil {o : Obj} {x : Nat} (h : o.waiters = []) : s.parkedForm p o x = [] := by
  unfold State.parkedForm
  rw [State.parkedAt_nil h]
  rfl

/-- A firing that parks at an object is the last of its waiters, and waits. -/
theorem State.syncPark_keepsObjs (o : Obj) (b : Bool) :
    (s.setObj p { o with waiters := o.waiters ++ [(pg, f.fid)] }).KeepsObjs p (s.syncPark p pg o f b) :=
  (State.modPage_keepsObjs ..).trans (State.enterWait_keepsObjs ..)

end

/-! ### Atomic operations (R245) -/

section
variable {s : State} {p pg h : Nat} {f : Fire}

theorem State.wordChanged_keepsObjs (s : State) (q h v : Nat) : s.KeepsObjs p (s.wordChanged q h v) := by
  obtain ⟨a, b, hadds⟩ : ∃ a b, ({ s with helmSlots := a, helmSaved := b } : State).Adds (s.wordChanged q h v) :=
    ⟨_, _, foldl_adds _ (fun u _ => u.sched_adds ..) _ _⟩
  have hslots : s.KeepsObjs p { s with helmSlots := a, helmSaved := b } := State.keepsObjs_of_parts rfl rfl
  exact hslots.trans hadds.keepsObjs

/-- The new value of an operation at a word, or at a free object as at 0. -/
def Fire.amoValue (f : Fire) (v : Word) : Word :=
  (amoNew (xF f.word).toNat v (valOf (f.r.map Arr.tok)) (valOf (f.c.map Arr.tok))).1

/-- At a free object or a word an operation sets its new value and answers the old one. -/
theorem State.amo_word {v : Word} (hst : (s.obj p h).st = .word v ∨ ((s.obj p h).st = .free ∧ v = 0)) :
    ∃ u, s.amo p pg h f = u.syncOne p pg h f (tokV v) ∧ (s.setObj p { s.obj p h with st := .word (f.amoValue v) }).KeepsObjs p u := by
  have hact : ∃ u, s.amo p pg h f = u.syncOne p pg h f (tokV v) ∧
      ((s.setObj p { s.obj p h with st := .word (f.amoValue v) }).wordChanged p h (f.amoValue v).toNat).KeepsObjs p u := by
    unfold State.amo
    rcases hst with hst | ⟨hst, rfl⟩ <;>
    · simp only [hst]
      refine ⟨_, rfl, ite_keeps (State.reportStored_keepsObjs ..) ?_⟩
      split
      · exact State.reportPoison_keepsObjs ..
      · exact (State.newOrigin_keepsObjs ..).trans (State.reportPoison_keepsObjs ..)
  obtain ⟨u, hu, hkeeps⟩ := hact
  exact ⟨u, hu, (State.wordChanged_keepsObjs ..).trans hkeeps⟩

/-- At an object of another type an operation traps. -/
theorem State.amo_wrong (hfree : (s.obj p h).st ≠ .free) (hword : ∀ v, (s.obj p h).st ≠ .word v) : s.amo p pg h f = s.syncFault p pg f 2 := by
  unfold State.amo
  cases hst : (s.obj p h).st with
  | free => exact absurd hst hfree
  | word v => exact absurd hst (hword v)
  | _ => simp only [hst]

end

/-- Settles O32: the object by `State.amo_word`, the new value by its form. -/
theorem atomicOperations : Obligations.AtomicOperations := by
  intro s f hf hphase hop h hok hm hfree z o r c
  have hexec : exec .syncOperationArrival s = .next (z.amo s.arg.p s.arg.pg h f) := by
    rw [exec_syncOperationArrival_onChip hf hphase hok hm hfree (by rw [hop]; decide), State.objOp_amo hop]
  have hmz : (z.part s.arg.p).inMemory (z.obj s.arg.p h).h = false := by
    rw [State.obj_h]
    exact (s.atObject_inMemory ..).trans hm
  refine ⟨fun v hst => ?word, fun hne hnw => hexec.trans (congrArg _ (State.amo_wrong hne hnw))⟩
  case word =>
    intro becomes
    obtain ⟨u, hamo, hkeeps⟩ := State.amo_word (pg := s.arg.pg) (f := f) hst
    have hput := hkeeps.obj_put (State.atObject_hasPart hf) hmz
    rw [show ({ z.obj s.arg.p h with st := .word (f.amoValue v) } : Obj).h = h from State.obj_h ..] at hput
    have hform {x : Nat} {n : Word} (hx : (xF f.word).toNat = x) (hn : (amoNew x v r c).1 = n) : becomes n := by
      refine ⟨u, hexec.trans (congrArg _ hamo), ?_, ?_⟩
      · exact (hkeeps.now.trans (State.setObj_keepsDies (o := { z.obj s.arg.p h with st := .word (f.amoValue v) }) hmz).now).trans s.atObject_now
      · rw [hput, ← hn, ← hx]
        rfl
    have hpick {b : Bool} {q : Prop} [Decidable q] (hb : b = true ↔ q) (x y : Word) : (if b then x else y) = if q then x else y := by
      simp only [hb]
    exact ⟨fun hx => hform hx rfl, fun hx => hform hx rfl, fun hx => hform hx rfl, fun hx => hform hx rfl,
      fun hx => hform hx (hpick BitVec.slt_iff_toInt_lt _ _), fun hx => hform hx (hpick BitVec.slt_iff_toInt_lt _ _),
      fun hx => hform hx (hpick BitVec.ult_iff_lt _ _), fun hx => hform hx (hpick BitVec.ult_iff_lt _ _),
      fun hx => hform hx rfl, fun hx => hform hx rfl, fun hx => hform hx rfl⟩

end Sys2Proof.Machine
end

section
/-! PROOFS of the statements of synchronisation: locks, barriers and queues on the dies (R246 to R249). -/

namespace Sys2Proof.Machine

/-! ### An object that is set -/

/-- From s to t an object is set last to a state, with its waiters. -/
def State.Sets (p h : Nat) (st : ObjSt) (ws : List (Nat × Nat)) (s t : State) : Prop :=
  ∃ (u : State) (o : Obj), s.KeepsDies p u ∧ o.h = h ∧ o.st = st ∧ o.waiters = ws ∧ (u.setObj p o).KeepsObjs p t

section
variable {s t u : State} {p pg h : Nat} {f : Fire} {st : ObjSt} {ws : List (Nat × Nat)}

theorem State.KeepsDies.sets {o : Obj} (hd : s.KeepsDies p u) (ho : o.h = h) (hst : o.st = st) (hws : o.waiters = ws) :
    s.Sets p h st ws (u.setObj p o) := ⟨u, o, hd, ho, hst, hws, .refl _⟩

theorem State.Sets.keeps (hs : s.Sets p h st ws t) (hk : t.KeepsObjs p u) : s.Sets p h st ws u := by
  obtain ⟨v, o, hd, ho, hst, hws, hv⟩ := hs
  exact ⟨v, o, hd, ho, hst, hws, hv.trans hk⟩

theorem State.KeepsDies.before (hd : s.KeepsDies p t) (hs : t.Sets p h st ws u) : s.Sets p h st ws u := by
  obtain ⟨v, o, hv, rest⟩ := hs
  exact ⟨v, o, hd.trans hv, rest⟩

/-- Setting it changes no more than the objects. -/
theorem State.Sets.keepsDies (hs : s.Sets p h st ws t) (hm : (s.part p).inMemory h = false) : s.KeepsDies p t := by
  obtain ⟨u, o, hd, rfl, -, -, hv⟩ := hs
  exact hd.trans ((State.setObj_keepsDies ((hd.inMemory _).trans hm)).trans hv.toKeepsDies)

/-- On a die it reads back. -/
theorem State.Sets.obj (hs : s.Sets p h st ws t) (hp : s.hasPart p) (hm : (s.part p).inMemory h = false) :
    (t.obj p h).st = st ∧ (t.obj p h).waiters = ws := by
  obtain ⟨u, o, hd, rfl, rfl, rfl, hv⟩ := hs
  rw [hv.obj_put (hd.parts.mpr hp) ((hd.inMemory _).trans hm)]
  exact ⟨rfl, rfl⟩

/-- A firing that parks is the last of the waiters. -/
theorem State.syncPark_sets {o : Obj} (ho : o.h = h) (b : Bool) :
    s.Sets p h o.st (o.waiters ++ [(pg, f.fid)]) (s.syncPark p pg o f b) :=
  ((State.KeepsObjs.refl s).toKeepsDies.sets (by exact ho) rfl rfl).keeps (State.syncPark_keepsObjs o b)

/-! ### LOCK (R246) -/

/-- The lock that an instance holds. -/
def State.lockOf (s : State) (p id : Nat) : ObjSt := .lock (some ((s.inst p id).id, (s.inst p id).gen))

theorem State.lockTake_sets {o : Obj} (ho : o.h = h) : s.Sets p h (s.lockOf p f.id) o.waiters (s.lockTake p pg o f) :=
  (State.KeepsDies.sets (o := { o with st := s.lockOf p f.id }) (State.KeepsObjs.refl s).toKeepsDies ho rfl rfl).keeps
    (State.enterHold_keepsObjs ..)

/-- A lock that nothing holds is granted. -/
theorem State.lockOp_grants (hx : (xF f.word).toNat ≤ 1) (hst : (s.obj p h).st = .free ∨ (s.obj p h).st = .lock none) :
    s.Sets p h (s.lockOf p f.id) (s.obj p h).waiters (s.lockOp p pg h f) := by
  have htake : s.Sets p h (s.lockOf p f.id) (s.obj p h).waiters (s.lockTake p pg (s.obj p h) f) := State.lockTake_sets (s.obj_h p h)
  obtain hx | hx : (xF f.word).toNat = 0 ∨ (xF f.word).toNat = 1 := by omega
  · have hop : s.lockOp p pg h f = (((s.lockTake p pg (s.obj p h) f).wregStatus p f.id h 0 0).syncAnswer p pg h f (tokV 0) (some (tokV 0))) := by
      unfold State.lockOp
      rcases hst with hst | hst <;> simp [hst, hx]
    rw [hop]
    exact htake.keeps ((State.wregStatus_keepsObjs ..).trans (State.syncAnswer_keepsObjs ..))
  · have hop : s.lockOp p pg h f = (s.lockTake p pg (s.obj p h) f).syncOne p pg h f (tokV 1) := by
      unfold State.lockOp
      rcases hst with hst | hst <;> simp [hst, hx]
    rw [hop]
    exact htake.keeps (State.syncAnswer_keepsObjs ..)

/-- An ACQUIRE of a lock that is held parks. -/
theorem State.lockOp_parks {q : Nat × Nat} (hx : (xF f.word).toNat = 0) (hst : (s.obj p h).st = .lock (some q)) :
    s.lockOp p pg h f = s.syncPark p pg (s.obj p h) f true := by
  unfold State.lockOp
  simp [hst, hx]

/-- A TRY of a lock that is held answers 0. -/
theorem State.lockOp_misses {q : Nat × Nat} (hx : (xF f.word).toNat = 1) (hst : (s.obj p h).st = .lock (some q)) :
    s.lockOp p pg h f = s.syncOne p pg h f (tokV 0) := by
  unfold State.lockOp
  simp [hst, hx]

/-- A lock that its holder releases, with nothing parked, is held by nothing. -/
theorem State.lockOp_releases (hx : (xF f.word).toNat = 2) (hst : (s.obj p h).st = s.lockOf p f.id) (hw : (s.obj p h).waiters = []) :
    s.Sets p h (.lock none) [] (s.lockOp p pg h f) := by
  have hop : s.lockOp p pg h f = ((s.endHold p (s.inst p f.id).id h).syncOne p pg h f (tokV 0)).setObj p
      { s.obj p h with st := .lock none, waiters := [] } := by
    unfold State.lockOp
    simp only [hst, State.lockOf, hx, if_true]
    unfold State.lockPass
    rw [State.parkedAt_nil hw]
    rfl
  rw [hop]
  exact ((State.endHold_keepsObjs ..).trans (State.syncAnswer_keepsObjs ..)).toKeepsDies.sets (by exact s.obj_h p h) rfl rfl

/-- A lock that another holds, or nothing, is not released. -/
theorem State.lockOp_notOwner {q : Option (Nat × Nat)} (hx : (xF f.word).toNat = 2) (hst : (s.obj p h).st = .lock q)
    (hq : (s.obj p h).st ≠ s.lockOf p f.id) : s.lockOp p pg h f = s.syncFault p pg f 3 := by
  have hne : ¬q = some ((s.inst p f.id).id, (s.inst p f.id).gen) := fun e => hq (by rw [hst, e]; rfl)
  unfold State.lockOp
  simp only [hst, hx, if_neg hne]

/-- A free object is not released, and an object of another type is no lock. -/
theorem State.lockOp_wrong (hst : (s.obj p h).st = .free ∧ (xF f.word).toNat = 2 ∨ (s.obj p h).st ≠ .free ∧ ∀ q, (s.obj p h).st ≠ .lock q) :
    s.lockOp p pg h f = s.syncFault p pg f 2 := by
  unfold State.lockOp
  rcases hst with ⟨hst, hx⟩ | ⟨hfree, hlock⟩
  · simp [hst, hx]
  · cases hst : (s.obj p h).st with
    | free => exact absurd hst hfree
    | lock q => exact absurd hst (hlock q)
    | _ => simp only [hst]

/-! ### BAR (R247) -/

/-- An arrival at a barrier without waiters counts, and the last of a phase begins the next. -/
theorem State.barArrive_nil {o : Obj} (hw : o.waiters = []) (c a ph : Nat) : s.barArrive p o c a ph =
    if a + 1 = c then (s.setObj p { o with st := .barrier c 0 ((ph + 1) % 65536), waiters := [] }, true)
    else (s.setObj p { o with st := .barrier c (a + 1) ph }, false) := by
  unfold State.barArrive
  dsimp only
  rw [State.parkedAt_nil hw, State.savedAt_nil hw]
  rfl

/-- A barrier once one more has arrived. -/
def arrived (c a ph : Nat) : ObjSt := if a + 1 = c then .barrier c 0 ((ph + 1) % 65536) else .barrier c (a + 1) ph

/-- A firing whose operation has acted. -/
def State.acted (s : State) (p pg : Nat) (f : Fire) : State := s.modFire p pg f.fid (fun f => { f with acted := true })

theorem State.acted_keepsObjs (s : State) (p pg : Nat) (f : Fire) : s.KeepsObjs p (s.acted p pg f) := s.modPage_keepsObjs ..

/-- ARRIVE and ARRWAIT count at a barrier with nothing parked. -/
theorem State.barOp_arrives {c a ph : Nat} (hx : (xF f.word).toNat = 0 ∨ (xF f.word).toNat = 2) (hst : (s.obj p h).st = .barrier c a ph)
    (hw : (s.obj p h).waiters = []) (hp : s.hasPart p) (hm : (s.part p).inMemory h = false) : ∃ ws, s.Sets p h (arrived c a ph) ws (s.barOp p pg h f) := by
  have hhold := s.endHold_keepsObjs (p := p) p f.id h
  have harr := (s.endHold p f.id h).barArrive_nil (p := p) hw c a ph
  have hset : s.Sets p h (arrived c a ph) [] (((s.endHold p f.id h).barArrive p (s.obj p h) c a ph).1) := by
    rw [harr]
    unfold arrived
    split
    · exact hhold.toKeepsDies.sets (by exact s.obj_h p h) rfl rfl
    · exact hhold.toKeepsDies.sets (by exact s.obj_h p h) rfl hw
  rcases hx with hx | hx
  · have hop : s.barOp p pg h f = (((s.endHold p f.id h).barArrive p (s.obj p h) c a ph).1).syncOne p pg h f (tokV (word ph)) := by
      unfold State.barOp
      simp only [hst, hx]
    rw [hop]
    exact ⟨_, hset.keeps (State.syncAnswer_keepsObjs ..)⟩
  · let z := (s.endHold p f.id h).barArrive p (s.obj p h) c a ph
    have hop : s.barOp p pg h f = if z.2 then (z.1.wregStatus p f.id h 0 0).syncAnswer p pg h f (tokV (word ((ph + 1) % 65536))) (some (tokV 0))
        else (z.1.acted p pg f).syncPark p pg
          ((z.1.acted p pg f).obj p h) f true := by
      unfold State.barOp
      simp only [hst, hx]
      rfl
    rw [hop]
    split
    · exact ⟨_, hset.keeps ((State.wregStatus_keepsObjs ..).trans (State.syncAnswer_keepsObjs ..))⟩
    · have hacted := hset.keeps (z.1.acted_keepsObjs p pg f)
      have hpark := State.syncPark_sets (s := z.1.acted p pg f) (p := p) (pg := pg) (f := f) ((z.1.acted p pg f).obj_h p h) true
      rw [(hacted.obj hp hm).1] at hpark
      exact ⟨_, (hacted.keepsDies hm).before hpark⟩

/-- WAIT parks at a barrier. -/
theorem State.barOp_parks {c a ph : Nat} (hx : (xF f.word).toNat = 1) (hst : (s.obj p h).st = .barrier c a ph) :
    s.barOp p pg h f = s.syncPark p pg (s.obj p h) f true := by
  unfold State.barOp
  simp only [hst, hx]

/-- INIT makes a barrier, with nothing parked, of a free object or a barrier. -/
theorem State.barOp_inits (hx : (xF f.word).toNat = 3) (hst : (s.obj p h).st = .free ∨ ∃ c a ph, (s.obj p h).st = .barrier c a ph)
    (hw : (s.obj p h).waiters = []) : s.barOp p pg h f =
      if (valOf (f.r.map Arr.tok)).toNat = 0 ∨ 65535 < (valOf (f.r.map Arr.tok)).toNat then s.syncFault p pg f 5
      else ((s.setObj p { s.obj p h with st := .barrier (valOf (f.r.map Arr.tok)).toNat 0 0, waiters := [] }).reportStored p h f).syncOne p pg h f
        (tokV 0) := by
  unfold State.barOp
  rcases hst with hst | ⟨c, a, ph, hst⟩ <;> simp [hst, hx, State.parkedAt_nil hw]

/-- No other form acts at an object of another type. -/
theorem State.barOp_wrong (hx : (xF f.word).toNat ≠ 3) (hst : ∀ c a ph, (s.obj p h).st ≠ .barrier c a ph) :
    s.barOp p pg h f = s.syncFault p pg f 2 := by
  unfold State.barOp
  dsimp only
  split
  case h_1 => exact absurd ‹_› hx
  case h_2 => exact absurd ‹_› hx
  case h_6 => rfl
  all_goals exact absurd ‹_› (hst _ _ _)

end

/-- Settles O33: each form by what it sets, or by its fault. -/
theorem locksAndBarriers : Obligations.LocksAndBarriers := by
  intro s f hf hphase p pg h hok hm hfree z o me x n leaves traps hw hid
  have hp : z.hasPart p := State.atObject_hasPart hf
  have hmz : (z.part p).inMemory h = false := (s.atObject_inMemory ..).trans hm
  have hme : z.lockOf p f.id = .lock (some me) := by unfold State.lockOf; rw [hid]
  have acts (hop : (opF f.word).toNat ≠ 0x5C) : exec .syncOperationArrival s = .next (z.objOp p pg h f) :=
    exec_syncOperationArrival_onChip hf hphase hok hm hfree hop
  refine ⟨fun hop => ?lock, fun hop => ?barrier⟩
  case lock =>
    have hexec : exec .syncOperationArrival s = .next (z.lockOp p pg h f) := (acts (by rw [hop]; decide)).trans (by rw [State.objOp_lock hop])
    have sets {st : ObjSt} {ws : List (Nat × Nat)} (hs : z.Sets p h st ws (z.lockOp p pg h f)) : leaves st := ⟨_, hexec, (hs.obj hp hmz).1⟩
    have parks {q : Nat × Nat} (hx : x = 0) (hq : o.st = .lock (some q)) : z.Sets p h (.lock (some q)) [(pg, f.fid)] (z.lockOp p pg h f) := by
      rw [State.lockOp_parks hx hq, ← hq]
      have hpark := State.syncPark_sets (s := z) (p := p) (pg := pg) (f := f) (z.obj_h p h) true
      rwa [show (z.obj p h).waiters = [] from hw] at hpark
    refine ⟨fun hx hst => hme ▸ sets (State.lockOp_grants hx hst), fun q hx hst => ?_, fun hx q hst => ⟨_, hexec, ((parks hx hst).obj hp hmz).2⟩,
      fun hx hst => sets (State.lockOp_releases hx (hst.trans hme.symm) hw), fun hx hst hq => ?_, fun hx hst => ?_, fun hfree hlock => ?_⟩
    · obtain hx | hx : x = 0 ∨ x = 1 := by omega
      · exact sets (parks hx hst)
      · refine ⟨_, hexec.trans (by rw [State.lockOp_misses hx hst]), ?_⟩
        exact (congrArg Obj.st ((State.syncAnswer_keepsObjs ..).obj hmz)).trans hst
    · obtain ⟨q, hq⟩ := hq
      exact hexec.trans (congrArg _ (State.lockOp_notOwner hx hq (hme ▸ hst)))
    · exact hexec.trans (congrArg _ (State.lockOp_wrong (.inl ⟨hst, hx⟩)))
    · exact hexec.trans (congrArg _ (State.lockOp_wrong (.inr ⟨hfree, hlock⟩)))
  case barrier =>
    have hexec : exec .syncOperationArrival s = .next (z.barOp p pg h f) := (acts (by rw [hop]; decide)).trans (by rw [State.objOp_bar hop])
    refine ⟨fun c a ph hst => ⟨fun hx ha => ?_, fun hx ha => ?_, fun hx => ?_⟩, fun hx hst => ⟨fun hn hle => ?_, fun hn => ?_⟩, fun hx hst => ?_⟩
    · obtain ⟨ws, hs⟩ := State.barOp_arrives (pg := pg) hx hst hw hp hmz
      exact ⟨_, hexec, ((hs.obj hp hmz).1).trans (if_pos ha)⟩
    · obtain ⟨ws, hs⟩ := State.barOp_arrives (pg := pg) hx hst hw hp hmz
      exact ⟨_, hexec, ((hs.obj hp hmz).1).trans (if_neg ha)⟩
    · have hs := State.syncPark_sets (s := z) (p := p) (pg := pg) (f := f) (z.obj_h p h) true
      rw [← State.barOp_parks hx hst, hst] at hs
      exact ⟨_, hexec, (hs.obj hp hmz).1⟩
    · refine ⟨_, hexec.trans (by rw [State.barOp_inits hx hst hw, if_neg (by omega)]), ?_⟩
      have hs : z.Sets p h (.barrier n 0 0) [] (z.setObj p { z.obj p h with st := .barrier n 0 0, waiters := [] }) :=
        (State.KeepsObjs.refl z).toKeepsDies.sets (by exact z.obj_h p h) rfl rfl
      exact ((hs.keeps ((State.reportStored_keepsObjs ..).trans (State.syncAnswer_keepsObjs ..))).obj hp hmz).1
    · exact hexec.trans (by rw [State.barOp_inits hx hst hw, if_pos hn]; rfl)
    · exact hexec.trans (congrArg _ (State.barOp_wrong hx hst))

end Sys2Proof.Machine
end

section
/-! PROOFS of the statements of synchronisation: queues on the dies (R248, R249). -/

namespace Sys2Proof.Machine

/-! ### Two objects of a partition -/

section
variable {s t : State} {p pg h k : Nat} {f : Fire}

/-- Putting one leaves every other. -/
theorem find_putObj_other {o : Obj} (hk : o.h ≠ k) (l : List Obj) : (putObj o l).find? (fun q => q.isAt 0 k) = l.find? (fun q => q.isAt 0 k) := by
  have hnot : ({ o with va := 0 } : Obj).isAt 0 k = false := by simp [Obj.isAt, hk]
  have hswap (q : Obj) : (if q.isAt 0 o.h then { o with va := 0 } else q).isAt 0 k = q.isAt 0 k := by
    split
    case isFalse => rfl
    case isTrue hq =>
      have hqk : q.isAt 0 k = false := by
        simp only [Obj.isAt, bne_self_eq_false, Bool.false_or, Bool.and_eq_true, beq_iff_eq] at hq
        simp [Obj.isAt, hq, hk]
      rw [hnot, hqk]
  have hmap (l : List Obj) : (l.map (fun q => if q.isAt 0 o.h then { o with va := 0 } else q)).find? (fun q => q.isAt 0 k) =
      l.find? (fun q => q.isAt 0 k) := by
    induction l with
    | nil => rfl
    | cons q l ih =>
      simp only [List.map_cons, List.find?_cons, hswap]
      cases hq : q.isAt 0 k with
      | false => exact ih
      | true =>
        have hqo : q.isAt 0 o.h = false := by
          simp only [Obj.isAt, bne_self_eq_false, Bool.false_or, Bool.and_eq_true, beq_iff_eq] at hq
          simp [Obj.isAt, hq, Ne.symm hk]
        simp [hqo]
  unfold putObj
  split
  · exact hmap l
  · rw [List.find?_append]
    simp [hnot]

theorem State.setObj_obj_other {o : Obj} (hm : (s.part p).inMemory o.h = false) (hk : o.h ≠ k) (hmk : (s.part p).inMemory k = false)
    (hp : s.hasPart p) : (s.setObj p o).obj p k = s.obj p k := by
  have hdies := State.setObj_keepsDies hm
  have hpart := hp.part_in (fun x => { x with objs := putObj o x.objs }) (fun _ => rfl)
  rw [State.obj_onChip hmk, State.obj_onChip ((hdies.inMemory k).trans hmk), State.setObj_onChip hm, hpart]
  simp only [find_putObj_other hk]

/-! ### QOP (R248, R249) -/

variable {cap head len : Nat}

/-- Setting an entry of a queue whose store is on the die changes no more than the objects. -/
theorem State.setEntry_keepsDies {j : Nat} (v : Word) (hm : (s.part p).inMemory (storeOf h j) = false) : s.KeepsDies p (s.setEntry p h j v) := by
  unfold State.setEntry
  dsimp only
  split
  · exact State.setObj_keepsDies ((congrArg _ (State.obj_h ..)).trans hm)
  · exact (State.KeepsObjs.refl s).toKeepsDies

/-- A PUSH with nothing parked and room on the die appends. -/
theorem State.qOp_pushes (hx : (xF f.word).toNat = 0) (hst : (s.obj p h).st = .queue cap head len false) (hw : (s.obj p h).waiters = [])
    (hroom : len ≠ cap) (hm : (s.part p).inMemory (storeOf h ((head + len) % cap)) = false) :
    ∃ ws, s.Sets p h (.queue cap head (len + 1) false) ws (s.qOp p pg h f) := by
  have hop : s.qOp p pg h f = ((((s.qAppend p h cap head len false (valOf (f.r.map Arr.tok))).reportStored p h f).wregStatus p f.id h 0 0).syncOne
      p pg h f (tokV 0)) := by
    unfold State.qOp
    simp only [hst, hx]
    unfold State.qPush
    simp only [State.parkedForm_nil hw, Bool.false_eq_true, if_false]
    exact (if_neg hroom).trans (State.withObjs_onChip hm)
  rw [hop]
  have hset : s.Sets p h (.queue cap head (len + 1) false) _ (s.qAppend p h cap head len false (valOf (f.r.map Arr.tok))) :=
    (State.setEntry_keepsDies _ hm).sets (by exact State.obj_h ..) rfl rfl
  exact ⟨_, hset.keeps ((State.reportStored_keepsObjs ..).trans ((State.wregStatus_keepsObjs ..).trans (State.syncAnswer_keepsObjs ..)))⟩

/-- A PUSH to a full queue parks, and so does a POP of an empty one. -/
theorem State.qOp_parks (hst : (s.obj p h).st = .queue cap head len false) (hw : (s.obj p h).waiters = [])
    (hx : ((xF f.word).toNat = 0 ∧ len = cap) ∨ ((xF f.word).toNat = 1 ∧ len = 0)) :
    ∃ b, s.qOp p pg h f = s.syncPark p pg (s.obj p h) f b := by
  unfold State.qOp
  rcases hx with ⟨hx, hlen⟩ | ⟨hx, hlen⟩
  · simp only [hst, hx]
    unfold State.qPush
    simp only [State.parkedForm_nil hw, Bool.false_eq_true, if_false]
    exact ⟨_, if_pos hlen⟩
  · simp only [hst, hx, hlen]
    exact ⟨_, rfl⟩

/-- The state in which a POP, or a TRY of one, acts. -/
def State.popping (s : State) (p h : Nat) (f : Fire) : State := if (xF f.word).toNat = 1 then s.wregStatus p f.id h 0 0 else s

theorem State.popping_keepsObjs (s : State) (p h : Nat) (f : Fire) : s.KeepsObjs p (s.popping p h f) :=
  ite_keeps (P := s.KeepsObjs p) (State.wregStatus_keepsObjs ..) (.refl s)

/-- The head of a queue whose store is on the die is taken. -/
theorem State.qTake_onChip {o : Obj} {closed : Bool} {st : Option Token} (hm : (s.part p).inMemory (storeOf h head) = false) :
    s.qTake p pg h o f cap head len closed st = ((s.setObj p { o with st := .queue cap ((head + 1) % cap) (len - 1) closed }).syncAnswer p pg h f
      (tokV (s.qEntry p h head)) (some (st.getD (tokV (s.qEntry p h head))))).qRefill p h := by
  unfold State.qTake
  rw [State.withObjs_onChip hm]
  cases st <;> rfl

/-- A queue that is not empty gives its head. -/
theorem State.qOp_takes {closed : Bool} (hx : (xF f.word).toNat = 1 ∨ (xF f.word).toNat = 2) (hst : (s.obj p h).st = .queue cap head len closed)
    (hlen : len ≠ 0) (hm : (s.part p).inMemory (storeOf h head) = false) :
    s.qOp p pg h f = ((((s.popping p h f).setObj p { s.obj p h with st := .queue cap ((head + 1) % cap) (len - 1) closed }).syncAnswer p pg h f
      (tokV (s.qEntry p h head)) (some (if (xF f.word).toNat = 1 then tokV 0 else tokV (s.qEntry p h head)))).qRefill p h) := by
  have hkeeps := s.popping_keepsObjs p h f
  have hentry : (s.popping p h f).qEntry p h head = s.qEntry p h head := by
    unfold State.qEntry
    rw [hkeeps.obj hm]
  have htake (st : Option Token) := State.qTake_onChip (pg := pg) (o := s.obj p h) (f := f) (cap := cap) (len := len) (closed := closed) (st := st)
    ((hkeeps.inMemory _).trans hm)
  rw [hentry] at htake
  have hop : s.qOp p pg h f = (s.popping p h f).qTake p pg h (s.obj p h) f cap head len closed
      (if (xF f.word).toNat = 1 then some (tokV 0) else none) := by
    unfold State.qOp State.popping
    rcases hx with hx | hx <;> simp [hst, hx, hlen]
  rw [hop, htake]
  split <;> rfl

/-- CLOSE of a queue with nothing parked. -/
theorem State.qOp_closes (hx : (xF f.word).toNat = 3) (hst : (s.obj p h).st = .queue cap head len false) (hw : (s.obj p h).waiters = []) :
    s.Sets p h (.queue cap head len true) [] (s.qOp p pg h f) := by
  have hop : s.qOp p pg h f = (s.setObj p { s.obj p h with st := .queue cap head len true, waiters := [] }).syncOne p pg h f (tokV 0) := by
    unfold State.qOp
    simp only [hst, hx]
    unfold State.qClose
    rw [State.parkedAt_nil hw]
    rfl
  have hset : s.Sets p h (.queue cap head len true) [] (s.setObj p { s.obj p h with st := .queue cap head len true, waiters := [] }) :=
    (State.KeepsObjs.refl s).toKeepsDies.sets (by exact s.obj_h p h) rfl rfl
  rw [hop]
  exact hset.keeps (State.syncAnswer_keepsObjs ..)

/-- A closed queue that takes nothing more answers the terminate token, and a CLOSE of it 0. -/
theorem State.qOp_closed (hst : (s.obj p h).st = .queue cap head len true) :
    ((xF f.word).toNat = 0 → s.qOp p pg h f = (s.wregStatus p f.id h 0 0).syncOne p pg h f terminateTok) ∧
    ((xF f.word).toNat = 1 → len = 0 → s.qOp p pg h f = (s.wregStatus p f.id h 0 0).syncAnswer p pg h f terminateTok (some (tokV 0))) ∧
    ((xF f.word).toNat = 2 → len = 0 → s.qOp p pg h f = s.syncOne p pg h f terminateTok) ∧
    ((xF f.word).toNat = 3 → s.qOp p pg h f = s.syncOne p pg h f (tokV 0)) := by
  unfold State.qOp
  refine ⟨fun hx => ?_, fun hx hlen => ?_, fun hx hlen => ?_, fun hx => ?_⟩
  · simp only [hst, hx, if_true]
  · simp [hst, hx, hlen]
  · simp [hst, hx, hlen]
  · simp only [hst, hx, if_true]

/-- An empty queue has nothing to try. -/
theorem State.qOp_tries (hx : (xF f.word).toNat = 2) (hst : (s.obj p h).st = .queue cap head 0 false) :
    s.qOp p pg h f = s.syncOne p pg h f tokNull := by
  unfold State.qOp
  simp [hst, hx]

/-- No form but INIT acts at an object of another type. -/
theorem State.qOp_wrong (hx : (xF f.word).toNat ≤ 3) (hst : ∀ cap head len closed, (s.obj p h).st ≠ .queue cap head len closed) :
    s.qOp p pg h f = s.syncFault p pg f 2 := by
  unfold State.qOp
  dsimp only
  split
  case h_1 => omega
  case h_7 => rfl
  all_goals exact absurd ‹_› (hst _ _ _ _)

/-! ### INIT (R248) -/

/-- INIT of a free object. -/
theorem State.qOp_inits (hx : (xF f.word).toNat = 4) (hst : (s.obj p h).st = .free) : s.qOp p pg h f = s.qInit p pg h (s.obj p h) f := by
  unfold State.qOp
  simp only [hst, hx]

/-- INIT of a capacity that a queue cannot have, where no object in the way has a type, traps. -/
theorem State.qInit_badCap {cap : Nat} (hw : (s.obj p h).waiters = []) (hcap : (valOf (f.r.map Arr.tok)).toNat = cap) (hbad : cap = 0 ∨ 1024 < cap)
    (hfree : ∀ j, cap ≠ 0 → (s.obj p (storeOf h j)).st = .free) : s.qInit p pg h (s.obj p h) f = s.syncFault p pg f 5 := by
  have hbadCap : (decide (cap = 0) || decide (1024 < cap) || decide ((s.part p).objLimit ≤ hIndex h + cdiv cap 4)) = true := by
    rcases hbad with hbad | hbad <;> simp [hbad]
  unfold State.qInit
  simp only [State.parkedAt_nil hw, hcap, hbadCap, if_true]
  refine if_neg ?_
  by_cases hc : cap = 0
  · simp [hc, cdiv]
  · simp [hfree _ hc]

/-- INIT of one entry on the die makes a queue of a free object, and a store of the free object behind it. -/
theorem State.qInit_one (hp : s.hasPart p) (hm : (s.part p).inMemory h = false) (hw : (s.obj p h).waiters = [])
    (hcap : (valOf (f.r.map Arr.tok)).toNat = 1) (hlim : hIndex h + 1 < (s.part p).objLimit) (hmk : (s.part p).inMemory (storeOf h 0) = false)
    (hfree : (s.obj p (storeOf h 0)).st = .free) (hne : storeOf h 0 ≠ h) : let u := s.setObj p { s.obj p h with st := .queue 1 0 0 false, waiters := [] }
    s.qInit p pg h (s.obj p h) f =
      ((u.setObj p { u.obj p (storeOf h 0) with st := .qstore h 0 0 0 0 }).reportStored p h f).syncOne p pg h f (tokV 0) := by
  have hset : ((s.setObj p { s.obj p h with st := .queue 1 0 0 false, waiters := [] }).obj p (storeOf h 0)).st = .free := by
    have hother := State.setObj_obj_other (o := { s.obj p h with st := .queue 1 0 0 false, waiters := [] }) ((congrArg _ (s.obj_h p h)).trans hm)
      (fun e => hne (e.symm.trans (s.obj_h p h))) hmk hp
    exact (congrArg Obj.st hother).trans hfree
  have hone : min (cdiv 1 4) ((s.part p).objLimit - 1 - hIndex h) = 1 := by rw [show cdiv 1 4 = 1 from rfl]; omega
  have hbadCap : (decide (1 = 0) || decide (1024 < 1) || decide ((s.part p).objLimit ≤ hIndex h + cdiv 1 4)) = false := by
    rw [show cdiv 1 4 = 1 from rfl]; simp; omega
  unfold State.qInit
  simp only [State.parkedAt_nil hw, hcap, hone, hbadCap]
  simp [hfree, State.withObjs_onChip hmk, hset]

end

/-- Settles O34: each form by what it sets or answers, or by its fault. -/
theorem queues : Obligations.Queues := by
  intro s f hf hphase hop p pg h hok hm hfree z o x leaves onDie status terminate hw
  have hp : z.hasPart p := State.atObject_hasPart hf
  have places (k : Nat) : (z.part p).inMemory k = (s.part p).inMemory k := s.atObject_inMemory ..
  have hmz : (z.part p).inMemory h = false := (places h).trans hm
  have hexec : exec .syncOperationArrival s = .next (z.qOp p pg h f) :=
    (exec_syncOperationArrival_onChip hf hphase hok hm hfree (by rw [hop]; decide)).trans (by rw [State.objOp_queue hop])
  have parks {cap head len : Nat} (hst : o.st = .queue cap head len false) (hx : (x = 0 ∧ len = cap) ∨ (x = 1 ∧ len = 0)) :
      ∃ t, exec .syncOperationArrival s = .next t ∧ (t.obj p h).waiters = [(pg, f.fid)] := by
    obtain ⟨b, hb⟩ := State.qOp_parks (pg := pg) hst hw hx
    have hpark := State.syncPark_sets (s := z) (p := p) (pg := pg) (f := f) (z.obj_h p h) b
    rw [← hb, show (z.obj p h).waiters = [] from hw] at hpark
    exact ⟨_, hexec, (hpark.obj hp hmz).2⟩
  refine ⟨fun cap head len hst => ⟨fun hx hlen hj => ?_, fun hx hlen => parks hst (.inl ⟨hx, hlen⟩), fun hx hlen hj => ?_,
    fun hx hlen => parks hst (.inr ⟨hx, hlen⟩), fun hx hlen => ?_, fun hx => ?_⟩, fun cap head len hst => ?closed, fun hx hst => ?init, fun hx hst => ?_⟩
  · obtain ⟨ws, hs⟩ := State.qOp_pushes (pg := pg) hx hst hw hlen ((places _).trans hj)
    exact ⟨_, hexec, (hs.obj hp hmz).1⟩
  · refine ⟨_, hexec.trans (by rw [State.qOp_takes hx hst hlen ((places _).trans hj)]), ?_⟩
    have hset : z.Sets p h (.queue cap ((head + 1) % cap) (len - 1) false) [] ((z.popping p h f).setObj p
        { z.obj p h with st := .queue cap ((head + 1) % cap) (len - 1) false }) :=
      (z.popping_keepsObjs p h f).toKeepsDies.sets (by exact z.obj_h p h) rfl hw
    exact (hset.obj hp hmz).1
  · subst hlen
    exact hexec.trans (by rw [State.qOp_tries hx hst])
  · exact ⟨_, hexec, ((State.qOp_closes hx hst hw).obj hp hmz).1⟩
  case closed =>
    obtain ⟨hpush, hpop, htry, hclose⟩ := State.qOp_closed (pg := pg) (f := f) hst
    exact ⟨fun hx => hexec.trans (by rw [hpush hx]; rfl), fun hx hlen => hexec.trans (by rw [hpop hx hlen]; rfl),
      fun hx hlen => hexec.trans (by rw [htry hx hlen]; rfl), fun hx => hexec.trans (by rw [hclose hx])⟩
  case init =>
    intro cap
    have hinit : exec .syncOperationArrival s = .next (z.qInit p pg h o f) := hexec.trans (by rw [State.qOp_inits hx hst])
    refine ⟨fun hbad hst => hinit.trans (by rw [State.qInit_badCap hw rfl hbad hst]; rfl), fun hcap hlim hj hfree hne => ?_⟩
    have hmk : (z.part p).inMemory (storeOf h 0) = false := (places _).trans hj
    have hqueue : z.Sets p h (.queue 1 0 0 false) [] (z.setObj p { z.obj p h with st := .queue 1 0 0 false, waiters := [] }) :=
      (State.KeepsObjs.refl z).toKeepsDies.sets (by exact z.obj_h p h) rfl rfl
    have hd := hqueue.keepsDies hmz
    let u := z.setObj p { z.obj p h with st := .queue 1 0 0 false, waiters := [] }
    have hstore : z.Sets p (storeOf h 0) (.qstore h 0 0 0 0) _ (u.setObj p { u.obj p (storeOf h 0) with st := .qstore h 0 0 0 0 }) :=
      hd.sets (by exact u.obj_h p _) rfl rfl
    have hrest {v : State} : v.KeepsObjs p ((v.reportStored p h f).syncOne p pg h f (tokV 0)) :=
      (State.reportStored_keepsObjs ..).trans (State.syncAnswer_keepsObjs ..)
    have hother := State.setObj_obj_other (s := u) (o := { u.obj p (storeOf h 0) with st := .qstore h 0 0 0 0 })
      ((congrArg _ (u.obj_h p _)).trans ((hd.inMemory _).trans hmk)) (fun e => hne ((u.obj_h p _).symm.trans e)) ((hd.inMemory _).trans hmz) (hd.parts.mpr hp)
    refine ⟨_, hinit.trans (by rw [State.qInit_one hp hmz hw hcap hlim hmk hfree hne]), ?_, ((hstore.keeps hrest).obj hp hmk).1⟩
    exact (congrArg Obj.st ((hrest.obj (((hstore.keepsDies hmk).inMemory h).trans hmz)).trans hother)).trans (hqueue.obj hp hmz).1
  · exact hexec.trans (by rw [State.qOp_wrong hx hst]; rfl)

end Sys2Proof.Machine
end

section
/-! PROOFS of the statements of synchronisation: the wait-for table, priorities and walks (R253, R255, R257). -/

namespace Sys2Proof.Machine

/-! ### What an answer leaves of the wait-for table -/

/-- From s to t a partition's WREGs, its wait-for table and its registrations stand. -/
structure State.KeepsWft (p : Nat) (s t : State) : Prop where
  wregs : (t.part p).wregs = (s.part p).wregs
  wft : (t.part p).wft = (s.part p).wft
  regq : (t.part p).regq = (s.part p).regq

section
variable {s t u : State} {p pg : Nat} {f : Fire}

theorem State.KeepsWft.refl (s : State) : s.KeepsWft p s := ⟨rfl, rfl, rfl⟩
theorem State.KeepsWft.trans (h : s.KeepsWft p t) (g : t.KeepsWft p u) : s.KeepsWft p u :=
  ⟨g.wregs.trans h.wregs, g.wft.trans h.wft, g.regq.trans h.regq⟩
theorem State.KeepsWft.holds (h : s.KeepsWft p t) (id name : Nat) : (t.part p).holds id name = (s.part p).holds id name := by
  unfold Part.holds
  rw [h.wft, h.regq]

theorem State.Adds.keepsWft (h : s.Adds t) : s.KeepsWft p t := ⟨by rw [h.part], by rw [h.part], by rw [h.part]⟩
theorem State.modPage_keepsWft (s : State) (q qg : Nat) (g : Page → Page) : s.KeepsWft p (s.modPage q qg g) :=
  ⟨part_modPart Part.wregs s q p _ (fun _ => rfl) fun _ => rfl, part_modPart Part.wft s q p _ (fun _ => rfl) fun _ => rfl,
    part_modPart Part.regq s q p _ (fun _ => rfl) fun _ => rfl⟩
theorem State.setCsrF_keepsWft (s : State) (q n hi lo v : Nat) : s.KeepsWft p (s.setCsrF q n hi lo v) :=
  ⟨part_modPart Part.wregs s q p _ (fun _ => rfl) fun _ => rfl, part_modPart Part.wft s q p _ (fun _ => rfl) fun _ => rfl,
    part_modPart Part.regq s q p _ (fun _ => rfl) fun _ => rfl⟩

theorem State.checkDone_keepsWft (s : State) (q qg : Nat) (tag : Tag) : s.KeepsWft p (s.checkDone q qg tag) := by
  obtain h | ⟨t, i, h⟩ := s.checkDone_cases q qg tag
  · rw [h]; exact .refl s
  · rw [h]; exact (s.modPage_keepsWft ..).trans (State.schedCommit_adds ..).keepsWft

theorem State.syncAnswer_keepsWft (s : State) (q qg h : Nat) (f : Fire) (r0 : Token) (r1 : Option Token) :
    s.KeepsWft p (s.syncAnswer q qg h f r0 r1) := by
  have hsent := s.send_adds (curOf q qg f) (s.syncBack qg h) (targetsOf f.word).1 (withPoison r0 (curOf q qg f).firstOrigin)
  unfold State.syncAnswer
  cases r1 with
  | none => exact hsent.keepsWft.trans ((State.modPage_keepsWft ..).trans (State.checkDone_keepsWft ..))
  | some r => exact (hsent.trans (State.send_adds ..)).keepsWft.trans ((State.modPage_keepsWft ..).trans (State.checkDone_keepsWft ..))

/-! ### The forms of WFT (R253) -/

/-- A name of a form other than WPRI that is no word of a fabric address and no handle of the partition. -/
def State.badName (s : State) (p l : Nat) : Prop := bitAt l 15 = false ∧ (s.part p).handleOk l = false

/-- What a firing gives as L. -/
def Fire.lNat (f : Fire) : Nat := (valOf (f.l.map Arr.tok)).toNat

theorem exec_syncOperationArrival_wft (hf : (s.page s.arg.p s.arg.pg).fire? s.arg.fid = some f) (hphase : f.phase = .out)
    (hop : (opF f.word).toNat = 0x5C) : exec .syncOperationArrival s = .next (s.wftOp s.arg.p s.arg.pg f) := by
  have hout : (f.phase != .out) = false := by rw [hphase]; rfl
  change execSyncOperationArrival s = _
  unfold execSyncOperationArrival State.syncAct
  simp [hf, hout, hop]

theorem State.wftOp_bad (hx : (xF f.word).toNat ≤ 2) (hb : s.badName p f.lNat) : s.wftOp p pg f = s.syncFault p pg f 1 := by
  obtain ⟨hbit, hok⟩ := hb
  unfold Fire.lNat at hbit hok
  unfold State.wftOp
  obtain hx | hx | hx : (xF f.word).toNat = 0 ∨ (xF f.word).toNat = 1 ∨ (xF f.word).toNat = 2 := by omega
  all_goals simp [hx, hbit, hok]

/-- WPRI sets the base priority of its instance, or traps beyond 15. -/
theorem State.wftOp_wpri (hx : (xF f.word).toNat = 3) : s.wftOp p pg f = if 15 < f.lNat then s.syncFault p pg f 6 else
    (((s.modInst p f.id (fun i => { i with base := f.lNat })).prioChanged p [((false, f.id), pg / 256, 0)] []).syncOne p pg (pg / 256 * 2 ^ 30) f
      (tokV 0)) := by
  unfold State.wftOp
  simp only [hx]
  rfl

/-- The state in which a WREG stands. -/
def State.withWreg (s : State) (p pg : Nat) (f : Fire) : State :=
  (s.dropWreg p f.id (waitName f.lNat)).modPart p (fun x => { x with wregs := x.wregs ++
    [{ id := f.id, gen := (s.inst p f.id).gen, name := waitName f.lNat, pg := pg, fid := f.fid }] })

theorem State.wftOp_good (hb : ¬s.badName p f.lNat) :
    ((xF f.word).toNat = 0 → s.wftOp p pg f = (s.withWreg p pg f).syncAnswer p pg (waitName f.lNat) f (tokV 0) none) ∧
    ((xF f.word).toNat = 1 → (s.part p).holds f.id (waitName f.lNat) = true →
      s.wftOp p pg f = s.syncAnswer p pg (waitName f.lNat) f (tokV 0) (some (tokV 1))) ∧
    ((xF f.word).toNat = 2 → ∃ v, s.wftOp p pg f = ((s.dropWreg p f.id (waitName f.lNat)).endHold p f.id (waitName f.lNat)).syncOne p pg
      (waitName f.lNat) f v) := by
  have hname : (!bitAt f.lNat 15 && !(s.part p).handleOk f.lNat) = false := by
    unfold State.badName at hb
    simpa [imp_iff_or_not] using hb
  unfold Fire.lNat at hname ⊢
  unfold State.wftOp
  refine ⟨fun hx => ?_, fun hx hh => ?_, fun hx => ?_⟩
  · simp only [hx, hname]
    rfl
  · simp only [hx, hname, hh, if_true]
    rfl
  · simp only [hx, hname]
    exact ⟨_, rfl⟩

/-- The entries that leave the table leave it, and no other. -/
theorem State.dropWft_wft (hp : s.hasPart p) (dead : WftEnt → Bool) :
    ((s.dropWft p dead).part p).wft = (s.part p).wft.filter (fun w => !dead w) ∧ ((s.dropWft p dead).part p).regq = (s.part p).regq := by
  unfold State.dropWft
  dsimp only
  split
  case isTrue h =>
    have hall : ∀ w ∈ (s.part p).wft, dead w = false := by simpa [List.isEmpty_iff, List.filter_eq_nil_iff] using h
    exact ⟨(List.filter_eq_self.mpr fun w hw => by simp [hall w hw]).symm, rfl⟩
  case isFalse =>
    have hkeeps := ((s.modPart p (fun x => { x with wft := x.wft.filter (fun w => !dead w) })).setCsrF_keepsWft (p := p) p 0x0C7 31 16
      (cdiv ((s.modPart p (fun x => { x with wft := x.wft.filter (fun w => !dead w) })).part p).wftOver 256)).trans
      (State.prioChanged_adds _ p (((s.part p).wft.filter dead).map WftEnt.start) ((s.part p).wft.filter dead)).keepsWft
    have hpart := hp.part_in (fun x => { x with wft := x.wft.filter (fun w => !dead w) }) (fun _ => rfl)
    exact ⟨hkeeps.wft.trans (by rw [hpart]), hkeeps.regq.trans (by rw [hpart])⟩

/-- An instance whose hold on a name is withdrawn has none, in the table or on its way. -/
theorem State.endHold_holds (hp : s.hasPart p) (id name : Nat) : ((s.endHold p id name).part p).holds id name = false := by
  let mine : WftEnt → Bool := fun w => !w.wait && w.id == id && w.name == name
  let u := s.modPart p (fun x => { x with regq := x.regq.filter (fun r => !mine r.ent) })
  have hu : u.hasPart p := (State.hasPart_modPart p _ (by exact fun _ => rfl)).mpr hp
  obtain ⟨hwft, hregq⟩ := State.dropWft_wft hu mine
  have hpart : u.part p = _ := hp.part_in (fun x => { x with regq := x.regq.filter (fun r => !mine r.ent) }) (fun _ => rfl)
  have hend : s.endHold p id name = u.dropWft p mine := rfl
  unfold Part.holds
  rw [hend, hwft, hregq, hpart]
  simp only [Bool.or_eq_false_iff, List.any_eq_false, List.mem_filter]
  exact ⟨fun w hw => by simpa [mine, imp_iff_not_or, or_assoc] using hw.2, fun r hr => by simpa [mine, imp_iff_not_or, or_assoc] using hr.2⟩

/-- The Inst records are what an answer leaves. -/
theorem State.syncAnswer_keepsInsts (s : State) (p qg h : Nat) (f : Fire) (r0 : Token) (r1 : Option Token) :
    s.KeepsInsts p (s.syncAnswer p qg h f r0 r1) := by
  have hsent := s.send_adds (curOf p qg f) (s.syncBack qg h) (targetsOf f.word).1 (withPoison r0 (curOf p qg f).firstOrigin)
  have hdone (u : State) (g : Fire → Fire) (tag : Tag) : u.KeepsInsts p ((u.modFire p qg f.fid g).checkDone p qg tag) := by
    have hfire : u.KeepsInsts p (u.modFire p qg f.fid g) := u.modPage_keepsInsts ..
    obtain h | ⟨t, i, h⟩ := (u.modFire p qg f.fid g).checkDone_cases p qg tag
    · rw [h]; exact hfire
    · rw [h]; exact hfire.trans ((State.modPage_keepsInsts ..).trans (State.schedCommit_adds ..).keepsInsts)
  unfold State.syncAnswer
  cases r1 with
  | none => exact hsent.keepsInsts.trans (hdone ..)
  | some r => exact (hsent.trans (State.send_adds ..)).keepsInsts.trans (hdone ..)

/-- WPRI's base priority is the instance's. -/
theorem State.wftOp_base {i : Inst} (hi : (s.part p).inst? f.id = some i) (hx : (xF f.word).toNat = 3) (hl : f.lNat ≤ 15) :
    ((s.wftOp p pg f).inst p f.id).base = f.lNat := by
  have hset := inst_in (fun i => { i with base := f.lNat }) (fun _ => rfl) hi
  rw [State.wftOp_wpri hx, if_neg (by omega)]
  unfold State.syncOne State.inst Part.inst?
  rw [(State.syncAnswer_keepsInsts ..).insts, (State.prioChanged_adds ..).part]
  unfold Part.inst? at hset
  rw [hset]
  rfl

/-- A WREG that was set stands. -/
theorem State.withWreg_stands (hp : s.hasPart p) : ((s.withWreg p pg f).part p).wregs.any (fun w =>
    w.id == f.id && w.name == waitName f.lNat && w.fid == f.fid) = true := by
  have hdrop : (s.dropWreg p f.id (waitName f.lNat)).hasPart p :=
    (State.hasPart_modPart p _ (by exact fun _ => rfl)).mpr ((State.wregStatus_keepsObjs ..).parts.mpr hp)
  unfold State.withWreg
  rw [hdrop.part_in _ (by exact fun _ => rfl)]
  simp

/-! ### Walks (R255, R257) -/

theorem Walk.pass_ent (k : Walk) (x : Part) : (k.pass x).1.ent = k.ent := by
  unfold Walk.pass
  split
  · rfl
  · split <;> rfl

/-- The state whose walk has ended. -/
def State.walkStopped (s : State) (p : Nat) : State := s.modPart p (fun x => { x with walk := none })

theorem State.hasPart_of_walk {k : Walk} (hk : (s.part p).walk = some k) : s.hasPart p :=
  State.hasPart_of_ne fun e => by rw [e] at hk; cases hk

/-- A walk that has not come back reads its next entry, or ends. -/
theorem exec_cycleWalkEnd_on {k : Walk} (hk : (s.part s.arg.p).walk = some k) (hpass : (k.pass (s.part s.arg.p)).2 = false) :
    exec .cycleWalkEnd s = .next (match (s.part s.arg.p).walkNext (k.pass (s.part s.arg.p)).1.seen (k.pass (s.part s.arg.p)).1.todo with
      | none => (s.walkStopped s.arg.p).regAll s.arg.p
      | some (w, todo) =>
        (s.modPart s.arg.p (fun x => { x with walk := some { (k.pass (s.part s.arg.p)).1 with reading := some w, todo := todo } })).sched
          (s.now + readCost w todo) 0 .cycleWalkEnd { p := s.arg.p }) := by
  change execCycleWalkEnd s = _
  unfold execCycleWalkEnd
  simp only [hk, hpass]
  rfl

/-- A walk that has come back closes its cycle. -/
theorem exec_cycleWalkEnd_back {k : Walk} (hk : (s.part s.arg.p).walk = some k) (hpass : (k.pass (s.part s.arg.p)).2 = true) :
    exec .cycleWalkEnd s = .next (((s.walkStopped s.arg.p).closeCycle s.arg.p (k.pass (s.part s.arg.p)).1).regAll s.arg.p) := by
  change execCycleWalkEnd s = _
  unfold execCycleWalkEnd
  simp only [hk, hpass, if_true]
  rfl

/-- The trap of a cycle that an entry has closed. -/
def State.deadlock (s : State) (p : Nat) (e : WftEnt) (m : List Member) : TrapRec :=
  let f := ((s.page p e.pg).fire? e.fid).getD { fid := 0, id := e.id, strand := 0, tile := 0, tag := tagOf e.id e.gen, word := 0 }
  let a := ((s.page p e.pg).act? f.tag).getD { tag := f.tag, id := e.id, strand := f.strand }
  { trapAt e.pg a f.tile 0x09 m.length e.name with cycle := cycleWords e.ts m }

/-- An entry that has gone closes nothing; one that stands traps. -/
theorem State.closeCycle_gone {k : Walk} (h : (s.part p).wft.contains k.ent = false) : s.closeCycle p k = s := by
  unfold State.closeCycle
  simp only [h, Bool.not_false, if_true]

theorem State.closeCycle_stands {k : Walk} {m : List Member} (h : (s.part p).wft.contains k.ent = true)
    (hm : ({ s.part p with wft := k.seen ++ [k.ent] } : Part).cycleOf k.ent = some m) : s.closeCycle p k =
      if k.ent.wait then (s.takeTrap p k.ent.id (s.deadlock p k.ent m)).endWait p k.ent.fid else s.takeTrap p k.ent.id (s.deadlock p k.ent m) := by
  unfold State.closeCycle
  simp only [h, hm]
  rfl

/-- Where no registration waits, none is entered. -/
theorem State.regAll_nil (h : (s.part p).regq = []) : s.regAll p = s := State.regNext_nil h

theorem crossDie_same (d : Nat) : crossDie (d * 256) d = 0 := by simp [crossDie, crossings]

/-- An instance that nothing waits on and nothing called has its base priority. -/
theorem Part.effFrom_nil (x : Part) (n : Nat) : ∀ (e : Nat) (best : Nat × Nat), x.effFrom n e [] [] best = best := by
  induction n with
  | zero => exact fun _ _ => rfl
  | succ n ih =>
    intro e best
    exact (ih (e + 1) _).trans (if_neg (Nat.not_lt_zero _))

theorem Part.effOf_alone {x : Part} {i : Nat} (hw : x.wft = []) (hc : x.callerOf i = []) : x.effOf i = (((x.inst? i).map Inst.base).getD 0, 0) := by
  have hwait : x.waitersOn i = [] := by unfold Part.waitersOn; rw [hw]; rfl
  change x.effFrom 17 0 [i] [] (0, 0) = _
  unfold Part.effFrom
  simp only [List.flatMap_cons, List.flatMap_nil, hwait, hc, List.append_nil]
  refine (x.effFrom_nil 16 _ _).trans ?_
  simp only [List.foldl_cons, List.foldl_nil, Nat.zero_max]
  split
  · rfl
  · exact Prod.ext (by simp; omega) rfl

end

/-- Settles O36: the forms of WFT by their equations, a walk by whether it has come back. -/
theorem waitsAndPriorities : Obligations.WaitsAndPriorities := by
  refine ⟨fun s f i hf hphase hop hi => ?forms, fun s => ?walks⟩
  case forms =>
    intro p pg l name x bad
    have hexec : exec .syncOperationArrival s = .next (s.wftOp p pg f) := exec_syncOperationArrival_wft hf hphase hop
    have hp : s.hasPart p := State.hasPart_of_ne (State.part_ne_of_fire hf)
    refine ⟨fun hx hb => hexec.trans (congrArg _ (State.wftOp_bad hx hb)), fun hx hl => ?_, fun hx hl => ⟨_, hexec, State.wftOp_base hi hx hl⟩,
      fun hx hb => ⟨_, hexec, ?_⟩, fun hx hb hh => hexec.trans (congrArg _ ((State.wftOp_good hb).2.1 hx hh)), fun hx hb => ⟨_, hexec, ?_⟩⟩
    · exact hexec.trans (congrArg _ ((State.wftOp_wpri hx).trans (if_pos hl)))
    · rw [(State.wftOp_good hb).1 hx, (State.syncAnswer_keepsWft ..).wregs]
      exact State.withWreg_stands hp
    · obtain ⟨v, hv⟩ := (State.wftOp_good (pg := pg) hb).2.2 hx
      have hdrop : (s.dropWreg p f.id name).hasPart p :=
        (State.hasPart_modPart p _ (by exact fun _ => rfl)).mpr ((State.wregStatus_keepsObjs ..).parts.mpr hp)
      rw [hv]
      exact ((State.syncAnswer_keepsWft ..).holds ..).trans (State.endHold_holds hdrop ..)
  case walks =>
    intro p x stop
    refine ⟨rfl, fun hk => ?_, fun k hk hpass => ⟨fun hn => ⟨?_, fun hr => ⟨stop, ?_, ?_⟩⟩, fun w todo hn => ?_⟩, fun k hk hpass => ?back,
      fun w todo hw hq hne => ?_, fun w q todo hw hq => ?_, fun x i => Part.effOf_alone⟩
    · change execCycleWalkEnd s = _
      unfold execCycleWalkEnd
      simp only [show (s.part s.arg.p).walk = none from hk]
      rfl
    · rw [exec_cycleWalkEnd_on hk hpass, hn]
      rfl
    · have hstopped : (stop.part p).regq = [] := (congrArg Part.regq ((State.hasPart_of_walk hk).part_in _ (by exact fun _ => rfl))).trans hr
      rw [exec_cycleWalkEnd_on hk hpass, hn]
      exact congrArg _ (State.regAll_nil hstopped)
    · rw [(State.hasPart_of_walk hk).part_in _ (by exact fun _ => rfl)]
      exact ⟨rfl, rfl⟩
    · rw [exec_cycleWalkEnd_on hk hpass, hn]
    case back =>
      intro e
      have hstopped : stop.part p = { x with walk := none } := (State.hasPart_of_walk hk).part_in _ (by exact fun _ => rfl)
      have hwft : (stop.part p).wft = x.wft := by rw [hstopped]
      have hent : (k.pass x).1.ent = e := k.pass_ent x
      have hexec : exec .cycleWalkEnd s = .next ((stop.closeCycle p (k.pass x).1).regAll p) := exec_cycleWalkEnd_back hk hpass
      refine ⟨fun hgone => ?_, fun m hstands hm => ⟨stop.deadlock p e m, rfl, rfl, rfl, ?_⟩⟩
      · rw [hexec, State.closeCycle_gone (by rw [hwft, hent]; exact hgone)]
      · rw [hexec, State.closeCycle_stands (m := m) (by rw [hwft, hent]; exact hstands) (by rw [hstopped, hent]; exact hm), hent]
    · cases todo with
      | nil => exact absurd rfl hne
      | cons q todo =>
        simp only [List.head?_cons, Option.mem_def, Option.some.injEq, forall_eq'] at hq
        simp [readCost, hq, crossDie_same, hw]
    · simp [readCost, hq, crossDie_same, hw]

end Sys2Proof.Machine
end

section
/-! PROOFS of the statements of charts: what each node does, and the end of a launch (R244, R317, R318, R321, R323, R324). -/

namespace Sys2Proof.Machine

/-! ### Nodes that act on their slot (R317, R321) -/

section
variable {s : State} {z : HelmSlot}

/-- A row of a slot that has gone, or whose partition is frozen, does nothing. -/
theorem exec_node_none (h : s.argSlot = none) :
    (∀ i ∈ [Instr.launch, .wait, .signal, .cond, .helmLoop, .helmEnd], exec i s = .next s) ∧ (s.arg.z = 0 → exec .copy s = .next s) := by
  have hall : exec .launch s = .next s ∧ exec .wait s = .next s ∧ exec .signal s = .next s ∧ exec .cond s = .next s ∧ exec .helmLoop s = .next s ∧
      exec .helmEnd s = .next s := by
    change execLaunch s = _ ∧ execWait s = _ ∧ execSignal s = _ ∧ execCond s = _ ∧ execHelmLoop s = _ ∧ execHelmEnd s = _
    unfold execLaunch execWait execSignal execCond execHelmLoop execHelmEnd
    rw [h]
    exact ⟨rfl, rfl, rfl, rfl, rfl, rfl⟩
  refine ⟨by simpa using hall, fun hz => ?_⟩
  change execCopy s = _
  unfold execCopy
  simp only [hz, h]
  rfl

section
variable (h : s.argSlot = some z)
include h

/-! ### LAUNCH (R318) -/

/-- What a LAUNCH asks Pelorus for. -/
def State.launchRequest (s : State) (z : HelmSlot) (d : Desc) (wins : List Win) : Request :=
  { kind := .launch z.die z.q, desc := d, args := ([z.f 16 4, z.f 20 4, z.f 24 4].map (fun v => ({ val := word v } : Reg))).take d.arity, wins := wins
    pg := if z.f 44 2 = 0xFFFF then z.die * 256 else z.f 44 2 / 64, since := s.now }

/-- A descriptor that cannot be read. -/
theorem exec_launch_noDesc {e : LoadFault} (hd : s.readDesc z.p (z.f 8 8) = .error e) :
    exec .launch s = .next (s.helmFail z (z.f 8 8) 64 3) := by
  change execLaunch s = _
  unfold execLaunch
  simp only [h, hd]

/-- Window records that cannot be read. -/
theorem exec_launch_noWins {d : Desc} (hd : s.readDesc z.p (z.f 8 8) = .ok d) (hw : s.launchWins z.p (z.f 32 8) (z.f 40 2) (z.f 42 2) = none) :
    exec .launch s = .next (s.helmFail z (s.badRecord z.p (z.f 32 8) (z.f 40 2)) 32 1) := by
  change execLaunch s = _
  unfold execLaunch
  simp only [h, hd, hw]

/-- Otherwise an aligned descriptor is launched. -/
theorem exec_launch_reads {d : Desc} {wins : List Win} (hd : s.readDesc z.p (z.f 8 8) = .ok d)
    (hw : s.launchWins z.p (z.f 32 8) (z.f 40 2) (z.f 42 2) = some wins) : exec .launch s = .next (if z.f 8 8 % 64 ≠ 0 then s.chartError z 3 0
      else (s.waitFor z .grant).request z.p (s.launchRequest z d wins)) := by
  change execLaunch s = _
  unfold execLaunch
  simp only [h, hd, hw]
  rfl

/-! ### COPY (R324) -/

/-- The state in which a COPY node's command is on its way to its engine. -/
def State.copyIssued (s : State) (z : HelmSlot) : State :=
  ({ s with nextFid := s.nextFid + 1 } : State).sched (s.now + 12) (z.die * 16384) .copy
    { p := z.p, x := z.die, y := z.q, z := 1, id := s.nextFid, l := [z.f 8 8, z.f 16 1, z.f 17 1 % 8, z.node, z.eva] }

theorem exec_copy_node (hz : s.arg.z = 0) : exec .copy s =
    .next (if 3 < z.f 16 1 ∨ 4 < z.f 17 1 % 8 ∨ (z.die, z.f 16 1) ∉ (s.part z.p).engines then s.chartError z 6 0
      else if z.flag 0 then (s.copyIssued z).waitFor z (.copy s.nextFid) else (s.copyIssued z).nodeGo z z.next) := by
  change execCopy s = _
  unfold execCopy
  simp only [hz, h, Bool.or_eq_true, decide_eq_true_eq, Bool.not_eq_true', List.contains_eq_mem, decide_eq_false_iff_not, or_assoc]
  rfl

/-! ### WAIT and SIGNAL (R244, R321, R323) -/

/-- The nodes that reach a handle's die or memory act when they have. -/
theorem exec_node_later (hz : s.arg.z = 0) : let later (i : Instr) (after : Nat) : Prop := exec i s = .next (s.nodeLater z after i 1)
    later .wait (handleTime z.die (z.f 8 4)) ∧ (z.flag 1 = false → later .signal (handleTime z.die (z.f 8 4))) ∧
      (z.flag 1 = true → later .signal (24 + 24 * crossings (z.die * 256) (z.f 8 4 % 65536 / 64))) ∧
      later .cond (s.helmTime z.p z.die (z.f 8 8)) ∧ later .helmLoop (s.helmTime z.p z.die (z.f 16 8)) := by
  change execWait s = _ ∧ (_ → execSignal s = _) ∧ (_ → execSignal s = _) ∧ execCond s = _ ∧ execHelmLoop s = _
  unfold execWait execSignal execCond execHelmLoop
  rw [h]
  dsimp only
  rw [if_pos hz, if_pos hz, if_pos hz, if_pos hz]
  exact ⟨rfl, fun hf => by rw [hf]; rfl, fun hf => by rw [hf]; rfl, rfl, rfl⟩

/-- A WAIT at a handle or an object that cannot be reached. -/
theorem exec_wait_fails (hz : s.arg.z ≠ 0) (hbad : (s.part z.p).handleOk (z.f 8 4) = false ∨ s.objFault z.p (z.f 8 4) ≠ none) :
    exec .wait s = .next (s.chartError z 5 0) := by
  have hor : (!(s.part z.p).handleOk (z.f 8 4) || (s.objFault z.p (z.f 8 4)).isSome) = true := by
    simpa [Option.isSome_iff_ne_none] using hbad
  change execWait s = _
  unfold execWait
  rw [h]
  dsimp only
  rw [if_neg hz, if_pos hor]

/-- A WAIT at a word, or a free object as at 0, goes on or waits; at another object it fails. -/
theorem exec_wait_reaches (hz : s.arg.z ≠ 0) (hok : (s.part z.p).handleOk (z.f 8 4) = true) (hf : s.objFault z.p (z.f 8 4) = none) :
    (∀ v : Word, (s.obj z.p (z.f 8 4)).st = .word v ∨ ((s.obj z.p (z.f 8 4)).st = .free ∧ v = 0) → exec .wait s =
      .next (if z.f 12 4 ≤ v.toNat then s.nodeGo z z.next else s.waitFor z (.word (z.f 8 4) (z.f 12 4)))) ∧
    ((s.obj z.p (z.f 8 4)).st ≠ .free → (∀ v, (s.obj z.p (z.f 8 4)).st ≠ .word v) → exec .wait s = .next (s.chartError z 5 0)) := by
  change (∀ v : Word, _ → execWait s = _) ∧ (_ → _ → execWait s = _)
  have hor : ¬(!(s.part z.p).handleOk (z.f 8 4) || (s.objFault z.p (z.f 8 4)).isSome) = true := by simp [hok, hf]
  unfold execWait
  rw [h]
  dsimp only
  rw [if_neg hz, if_neg hor]
  refine ⟨fun v hst => ?_, fun hfree hword => ?_⟩
  · rcases hst with hst | ⟨hst, rfl⟩
    · rw [hst]
    · rw [hst]; rfl
  · cases hst : (s.obj z.p (z.f 8 4)).st with
    | free => exact absurd hst hfree
    | word v => exact absurd hst (hword v)
    | _ => rfl

/-- A SIGNAL to a page is a message. -/
theorem exec_signal_message (hz : s.arg.z ≠ 0) (hflag : z.flag 1 = true) : exec .signal s =
    .next ((s.sched s.now (srcOf (z.f 8 4 % 65536 / 64) 0) .messageArrival
      { p := z.p, pg := z.f 8 4 % 65536 / 64, z := 1, y := z.f 16 1 % 16, w0 := word z.node, w1 := word (z.f 12 4) }).nodeGo z z.next) := by
  change execSignal s = _
  unfold execSignal
  simp only [h, if_neg hz, hflag, if_true]

/-- A SIGNAL to a handle sets or adds to its word. -/
theorem exec_signal_word (hz : s.arg.z ≠ 0) (hflag : z.flag 1 = false) {put : Word → Word}
    (hput : put = fun w => if z.flag 0 then word (z.f 12 4) else w + word (z.f 12 4)) :
    (∀ t, s.postWord z.p (z.f 8 4) put = .ok t → exec .signal s = .next (t.nodeGo z z.next)) ∧
    (∀ e, s.postWord z.p (z.f 8 4) put = .error e → exec .signal s = .next (s.chartError z 5 0)) := by
  subst hput
  change (∀ t, _ → execSignal s = _) ∧ (∀ e, _ → execSignal s = _)
  unfold execSignal
  simp only [h, if_neg hz, hflag, Bool.false_eq_true, if_false]
  exact ⟨fun t ht => by rw [ht], fun e he => by rw [he]⟩

/-! ### COND and LOOP (R317, R323) -/

/-- A word that cannot be read. -/
theorem exec_branch_fails (hz : s.arg.z ≠ 0) : (s.helmRead z.p (z.f 8 8) 4 = none → exec .cond s = .next (s.helmFail z (z.f 8 8) 4 1)) ∧
    (s.helmRead z.p (z.f 16 8) 4 = none → exec .helmLoop s = .next (s.helmFail z (z.f 16 8) 4 1)) := by
  change (_ → execCond s = _) ∧ (_ → execHelmLoop s = _)
  unfold execCond execHelmLoop
  simp only [h, if_neg hz]
  exact ⟨fun hr => by rw [hr], fun hr => by rw [hr]⟩

theorem exec_cond_reads (hz : s.arg.z ≠ 0) {w : Nat} (hr : s.helmRead z.p (z.f 8 8) 4 = some w) :
    exec .cond s = .next (s.nodeGo z (if w ≠ 0 then z.f 16 2 else z.f 18 2)) := by
  change execCond s = _
  unfold execCond
  simp only [h, if_neg hz, hr]

/-- A LOOP goes back while its count and its word let it, and a count finds room; else it goes on and its count goes. -/
theorem exec_helmLoop_reads (hz : s.arg.z ≠ 0) {w : Nat} (hr : s.helmRead z.p (z.f 16 8) 4 = some w) : exec .helmLoop s =
    .next (if (kget z.loops z.node).getD 0 < z.f 24 4 ∧ w ≠ 0 then
      if kget z.loops z.node = none ∧ 8 ≤ z.loops.length then s.chartError z 7 0
      else s.nodeGo { z with loops := kset z.loops z.node ((kget z.loops z.node).getD 0 + 1) } (z.f 8 2)
    else s.nodeGo { z with loops := z.loops.filter (fun l => l.1 != z.node) } z.next) := by
  change execHelmLoop s = _
  unfold execHelmLoop
  simp only [h, if_neg hz, hr, Bool.and_eq_true, decide_eq_true_eq, Option.isNone_iff_eq_none]

/-! ### END (R317, R320) -/

/-- The state in which an entry's status and end timestamp are written. -/
def State.entryEnded (s : State) (z : HelmSlot) : State :=
  (s.helmWrite z.p (z.eva + 24) (leBytes 8 s.ts)).helmWrite z.p (z.eva + 12) (leBytes 4 1)

/-- The state in which its queue's head is written. -/
def State.headMoved (s : State) (z : HelmSlot) (d : Nat) : State :=
  (s.entryEnded z).helmWrite z.p (z.dva + 12) (leBytes 2 ((fieldAt d 12 2 + 1) % 65536))

theorem exec_helmEnd_lost (hr : (s.entryEnded z).helmRead z.p z.dva 20 = none) : exec .helmEnd s = .next ((s.entryEnded z).unmapSlot z) := by
  unfold State.entryEnded at hr ⊢
  change execHelmEnd s = _
  unfold execHelmEnd
  simp only [h, hr]

theorem exec_helmEnd_reads {d : Nat} (hr : (s.entryEnded z).helmRead z.p z.dva 20 = some d) : exec .helmEnd s =
    .next (if (fieldAt d 12 2 + 1) % 65536 = fieldAt d 14 2 then (s.headMoved z d).unmapSlot z
      else if (s.headMoved z d).sliceDone z then
        { (s.headMoved z d).unmapSlot z with helmLine := ((s.headMoved z d).unmapSlot z).helmLine ++ [(z.die, z.p, z.q)] }
      else (s.headMoved z d).sched (s.headMoved z d).now (z.die * 16384) .helmEntryStart { p := z.p, x := z.die, y := z.num }) := by
  unfold State.headMoved
  unfold State.entryEnded at hr ⊢
  change execHelmEnd s = _
  unfold execHelmEnd
  simp only [h, hr]

end

/-- From s to t a write of Helm's leaves the clock, the line and the slots. -/
structure State.KeepsHelm (s t : State) : Prop where
  now : t.now = s.now
  line : t.helmLine = s.helmLine
  slots : t.helmSlots = s.helmSlots

theorem State.helmWrite_keepsHelm (s : State) (p va : Nat) (bs : List Byte) : s.KeepsHelm (s.helmWrite p va bs) := by
  unfold State.helmWrite
  split
  · exact ⟨rfl, rfl, rfl⟩
  · split
    · rename_i l _
      have hcore := (memWrite_framed (a := p) (b := 0) (c := 0) s l.pa bs).core
      refine ite_keeps (P := s.KeepsHelm) ⟨rfl, rfl, rfl⟩ (ite_keeps ⟨rfl, rfl, rfl⟩ ⟨?_, ?_, ?_⟩)
      · have := congrArg State.now hcore; exact this
      · have := congrArg State.helmLine hcore; exact this
      · have := congrArg State.helmSlots hcore; exact this
    · exact ⟨rfl, rfl, rfl⟩

theorem State.KeepsHelm.trans {t u : State} (h : s.KeepsHelm t) (g : t.KeepsHelm u) : s.KeepsHelm u :=
  ⟨g.now.trans h.now, g.line.trans h.line, g.slots.trans h.slots⟩

theorem State.headMoved_keepsHelm (s : State) (z : HelmSlot) (d : Nat) : s.KeepsHelm (s.headMoved z d) :=
  ((s.helmWrite_keepsHelm ..).trans (State.helmWrite_keepsHelm ..)).trans (State.helmWrite_keepsHelm ..)

theorem State.sliceDone_iff : s.sliceDone z = true ↔ z.slice ≤ s.now ∧ s.lineOf z.die ≠ [] := by
  unfold State.sliceDone
  simp

theorem State.KeepsHelm.sliceDone {t : State} (h : s.KeepsHelm t) (z : HelmSlot) : t.sliceDone z = s.sliceDone z := by
  unfold State.sliceDone State.lineOf
  rw [h.now, h.line]

/-- A queue that is unmapped for good loses its slot, and memory stays. -/
theorem State.unmapSlot_slot (hz : s.queueSlot z.p z.q = some z) :
    (s.unmapSlot z).mem = s.mem ∧ (s.unmapSlot z).slot? z.die z.num = none := by
  have hfree : s.unmapSlot z = ({ s.withdrawLaunch z.p z.die z.q with helmSaved := s.helmSaved.filter (fun y => !(y.p == z.p && y.q == z.q)) } :
      State).freeSlot z := by
    unfold State.queueSlot at hz
    unfold State.unmapSlot State.withdrawLaunch
    simp only [State.modPart_helmSlots, hz, State.modPart_helmSaved]
  rw [hfree]
  refine ⟨rfl, ?_⟩
  change (s.helmSlots.filter (fun y => !(y.die == z.die && y.num == z.num))).find? (fun y => y.die == z.die && y.num == z.num) = none
  rw [List.find?_eq_none]
  intro y hy
  simpa [imp_iff_not_or] using (List.mem_filter.mp hy).2

/-! ### A COPY node's command at its engine (R302, R324, R387) -/

theorem exec_copy_frozen (hz : s.arg.z ≠ 0) (hf : (s.part s.arg.p).frozen = true) : exec .copy s = .next s := by
  change execCopy s = _
  unfold execCopy
  simp only [if_pos hz, if_pos hf]

/-- A COPY node's command that reaches its engine. -/
theorem exec_copy_reaches {va eng form node eva : Nat} (hz : s.arg.z ≠ 0) (hf : (s.part s.arg.p).frozen = false)
    (hl : s.arg.l = [va, eng, form, node, eva]) : let a := s.arg
    let c := helmCmd a.id (a.x * 4 + eng) form va (.helm a.x a.y node eva)
    ((s.part a.p).vf.state = .paused →
      exec .copy s = .next (s.modPart a.p (fun x => { x with copies := x.copies ++ [{ c with stopped := true }] }))) ∧
    (∀ t, (s.part a.p).vf.state ≠ .paused → s.copyReach a.p c none = .ok t → exec .copy s = .next t) ∧
    (∀ e, (s.part a.p).vf.state ≠ .paused → s.copyReach a.p c none = .error e → exec .copy s = .next (if e.2.1 = 255 then s.badRead a.p e.2.2
      else s.queueError a.p a.x a.y node eva 6 0)) := by
  intro a c
  have hexec : exec .copy s = .next (if s.helmPaused a.p then s.modPart a.p (fun x => { x with copies := x.copies ++ [{ c with stopped := true }] })
      else s.helmReach a.p c none) := by
    change execCopy s = _
    unfold execCopy State.helmCopy
    simp only [if_pos hz, hf, hl]
    rfl
  have hreach (hn : (s.part a.p).vf.state ≠ .paused) : exec .copy s = .next (s.helmReach a.p c none) :=
    hexec.trans (congrArg _ (if_neg (by simpa [State.helmPaused] using hn)))
  refine ⟨fun hp => hexec.trans (congrArg _ (if_pos (by simp [State.helmPaused, hp]))), fun t hn ht => (hreach hn).trans ?_,
    fun e hn he => (hreach hn).trans ?_⟩
  · unfold State.helmReach State.copyOwed
    simp only [ht]
  · unfold State.helmReach State.copyOwed
    simp only [he]
    rfl

/-! ### Walks that go on (R317, R318, R321) -/

/-- A slot goes on once what it waits for has come. -/
theorem State.slotGo_cases {p q : Nat} : (s.queueSlot p q = none → s.slotGo p q = s) ∧
    (∀ z t, s.queueSlot p q = some z → z.wait = .go t → t ≤ s.now → (s.part p).frozen = false → s.slotGo p q = s.nodeGo z z.next) ∧
    (∀ z, s.queueSlot p q = some z → (∀ t, z.wait = .go t → s.now < t) → s.slotGo p q = s) ∧ ((s.part p).frozen = true → s.slotGo p q = s) := by
  unfold State.slotGo
  refine ⟨fun hq => by rw [hq], fun z t hq hw ht hf => by simp [hq, hw, ht, hf], fun z hq hw => ?_, fun hf => ?_⟩
  · simp only [hq]
    split
    · rename_i t ht
      simp [Nat.not_le_of_lt (hw t ht)]
    · rfl
  · simp only [hf, Bool.not_true, Bool.and_false, Bool.false_eq_true, if_false]
    split
    · split <;> rfl
    · rfl

theorem exec_launchContinue_frozen (hf : (s.part s.arg.p).frozen = true) : exec .launchContinue s = .next s := by
  change execLaunchContinue s = _
  unfold execLaunchContinue
  simp only [hf, if_true]

section
variable (hf : (s.part s.arg.p).frozen = false)
include hf

theorem exec_launchContinue_slot (hz : s.arg.z = 0) : exec .launchContinue s = .next (s.slotGo s.arg.p s.arg.y) := by
  change execLaunchContinue s = _
  unfold execLaunchContinue
  simp only [hf, hz]
  rfl

/-- A copy has completed. -/
theorem exec_launchContinue_copy (hz : s.arg.z = 3) : (s.waiter s.arg.p (.copy s.arg.id) = none → exec .launchContinue s = .next s) ∧
    ∀ z, s.waiter s.arg.p (.copy s.arg.id) = some z →
      exec .launchContinue s = .next ((s.modWalker z.p z.q (fun z => { z with wait := .go s.now })).slotGo z.p z.q) := by
  change (_ → execLaunchContinue s = _) ∧ ∀ z, _ → execLaunchContinue s = _
  unfold execLaunchContinue
  simp only [hf, hz]
  exact ⟨fun hw => by rw [hw]; rfl, fun z hw => by rw [hw]; rfl⟩

/-- A copy has failed. -/
theorem exec_launchContinue_error {node eva code : Nat} (hz : s.arg.z = 4) (hl : s.arg.l = [node, eva, code]) : exec .launchContinue s =
    .next ((s.modPart s.arg.p (fun x => { x with copies := x.copies.filter (fun c => c.num != s.arg.id) })).queueError s.arg.p s.arg.x s.arg.y
      node eva code 0) := by
  change execLaunchContinue s = _
  unfold execLaunchContinue
  simp only [hf, hz, hl]
  rfl

/-- The state in which a launch's instance is its queue's. -/
def State.launched (s : State) (z : HelmSlot) : State :=
  s.modInst s.arg.p s.arg.id (fun i => { i with origin := .launch z.die (z.f 48 8) (z.f 28 4) })

/-- What a launch's queue waits for. -/
def State.launchWait (s : State) (z : HelmSlot) : HelmWait :=
  if z.flag 0 then .inst s.arg.id (s.inst s.arg.p s.arg.id).gen else .go s.now

/-- A launch has been granted (z = 1) or refused (z = 2). -/
theorem exec_launchContinue_grant (hz : s.arg.z = 1 ∨ s.arg.z = 2) : (s.walker s.arg.p s.arg.y = none → exec .launchContinue s = .next s) ∧
    ∀ z, s.walker s.arg.p s.arg.y = some z → (z.wait ≠ .grant → exec .launchContinue s = .next s) ∧
      (z.wait = .grant → s.arg.z = 2 → exec .launchContinue s = .next (s.queueError z.p z.die z.q z.node z.eva 4 ((s.arg.l[1]?).getD 0))) ∧
      (z.wait = .grant → s.arg.z = 1 → exec .launchContinue s =
        .next (if z.flag 0 && (s.queueSlot s.arg.p s.arg.y).isSome then (s.launched z).waitFor z (s.launchWait z)
          else ((s.launched z).modWalker s.arg.p s.arg.y (fun y => { y with wait := s.launchWait z })).slotGo s.arg.p s.arg.y)) := by
  change (_ → execLaunchContinue s = _) ∧ ∀ z, _ → (_ → execLaunchContinue s = _) ∧ (_ → _ → execLaunchContinue s = _) ∧ (_ → _ → execLaunchContinue s = _)
  unfold execLaunchContinue
  refine ⟨fun hw => ?_, fun z hw => ⟨fun hg => ?_, fun hg h2 => ?_, fun hg h1 => ?_⟩⟩
  · rcases hz with hz | hz <;> simp [hf, hz, hw]
  · rcases hz with hz | hz <;> simp [hf, hz, hw, hg]
  · simp [hf, h2, hw, hg]
  · simp [hf, h1, hw, hg]
    rfl

end

/-- A queue without a slot has none after a change of its walker state. -/
theorem State.queueSlot_modWalker {p q : Nat} (f : HelmSlot → HelmSlot) (hf : ∀ z, (f z).p = z.p ∧ (f z).q = z.q) (h : s.queueSlot p q = none) :
    (s.modWalker p q f).queueSlot p q = none := by
  unfold State.queueSlot State.modWalker at *
  rw [List.find?_eq_none] at h ⊢
  intro y hy
  obtain ⟨z, hz, rfl⟩ := List.mem_map.mp hy
  have hno := h z hz
  split
  · simpa [hf z] using hno
  · exact hno

/-! ### The end of a launch (R318) -/

/-- The queue that waits for the end of an instance goes on 6 fclk later, if there is one. -/
def State.launchEnds (s : State) (a : Args) : State :=
  match s.waiter a.p (.inst a.id a.fid) with
  | some z => (s.modWalker z.p z.q (fun z => { z with wait := .go (s.now + 6) })).sched (s.now + 6) (z.die * 16384) .launchContinue
      { p := a.p, id := a.id, fid := a.fid, x := z.die, y := z.q }
  | none => s

/-- It has an error, if there is one. -/
def State.launchFails (s : State) (a : Args) (code : Nat) : State :=
  match s.waiter a.p (.inst a.id a.fid) with
  | some z => s.queueError z.p z.die z.q z.node z.eva code 0
  | none => s

/-- What follows the writing of the results: the completion at the handle, and the end. -/
def State.resultsDone (s : State) (a : Args) : State :=
  match if bitAt a.z 15 then .ok s else s.postAdd a.p a.z with
  | .error _ => s.launchFails a 5
  | .ok s => s.launchEnds a

/-- Without results to write. -/
theorem exec_launchResult_none (hy : s.arg.y = 0) : exec .launchResult s = .next (s.resultsDone s.arg) := by
  change execLaunchResult s = _
  unfold execLaunchResult
  simp only [hy, if_true]
  rfl

/-- A line of the page tables whose check fails. -/
theorem exec_launchResult_walk {k : Nat} (hy : s.arg.y ≠ 0) (hw : s.walkFail (s.part s.arg.p) s.arg.y = some k) :
    exec .launchResult s = .next (s.badRead s.arg.p k) := by
  change execLaunchResult s = _
  unfold execLaunchResult
  simp only [if_neg hy, hw]
  rfl

/-- A page that is not there, or may not be written. -/
theorem exec_launchResult_fails (hy : s.arg.y ≠ 0) (hw : s.walkFail (s.part s.arg.p) s.arg.y = none)
    (hl : (∃ e, s.translate (s.part s.arg.p) s.arg.y = .error e) ∨ ∃ l, s.translate (s.part s.arg.p) s.arg.y = .ok l ∧ (s.part s.arg.p).mayWrite l = false) :
    exec .launchResult s = .next (s.launchFails s.arg 1) := by
  change execLaunchResult s = _
  unfold execLaunchResult
  rcases hl with ⟨e, hl⟩ | ⟨l, hl, hm⟩
  · simp only [if_neg hy, hw, hl]
    rfl
  · simp only [if_neg hy, hw, hl, hm]
    rfl

/-- The results are written, unless their line fails its check. -/
theorem exec_launchResult_writes {l : Leaf} (hy : s.arg.y ≠ 0) (hw : s.walkFail (s.part s.arg.p) s.arg.y = none)
    (hl : s.translate (s.part s.arg.p) s.arg.y = .ok l) (hm : (s.part s.arg.p).mayWrite l = true) : let bs := s.arg.l.flatMap (leBytes 4)
    exec .launchResult s = .next (if s.badAt l.pa bs.length then s.badRead s.arg.p (s.badKey l.pa bs.length) else (s.memWrite l.pa bs).resultsDone s.arg) := by
  change execLaunchResult s = _
  unfold execLaunchResult
  cases hb : s.badAt l.pa (s.arg.l.flatMap (leBytes 4)).length with
  | false =>
    simp only [if_neg hy, hw, hl, hm, hb]
    rfl
  | true =>
    simp only [if_neg hy, hw, hl, hm, hb]
    rfl

end

/-- Settles O53: each node by its equation. -/
theorem helmNodes : Obligations.HelmNodes := by
  refine ⟨fun s z h => ?nodes, fun s h => exec_node_none h, fun s => ⟨exec_copy_frozen, fun va eng form node eva hz hf hl => exec_copy_reaches hz hf hl⟩,
    fun s => ?walks, fun s => ?results⟩
  case nodes =>
    intro p x on error later
    refine ⟨fun e => exec_launch_noDesc h, fun d => exec_launch_noWins h, fun d wins hd hw => ⟨fun ha => ?_, fun ha => ?_⟩, ?copy, ?waits,
      fun hz => ?later, fun hz => ?branches, ?ends⟩
    · exact (exec_launch_reads h hd hw).trans (congrArg _ (if_pos ha))
    · exact (exec_launch_reads h hd hw).trans (congrArg _ (if_neg (not_not.mpr ha)))
    case copy =>
      intro eng form issued
      refine ⟨fun hz hbad => ?_, fun hz he hf hmem => ?_⟩
      · exact (exec_copy_node h hz).trans (congrArg _ (if_pos hbad))
      · have hgood : ¬(3 < z.f 16 1 ∨ 4 < z.f 17 1 % 8 ∨ (z.die, z.f 16 1) ∉ (s.part z.p).engines) := by
          rintro (h | h | h)
          exacts [Nat.not_lt.mpr he h, Nat.not_lt.mpr hf h, h hmem]
        rw [exec_copy_node h hz, if_neg hgood]
        exact ⟨fun hflag => congrArg _ (if_pos hflag), fun hflag => congrArg _ (if_neg (by simp [hflag]))⟩
    case waits =>
      intro hd v way waits
      refine ⟨fun hz => (exec_node_later h hz).1, fun hz => ⟨fun hok => exec_wait_fails h hz (.inl hok), fun hf => exec_wait_fails h hz (.inr hf),
        fun hok hf => ?reaches⟩, fun hz hflag => (exec_node_later h hz).2.1 hflag, fun hz hflag => (exec_node_later h hz).2.2.1 hflag,
        fun hz hflag => exec_signal_message h hz hflag, fun hz hflag => exec_signal_word h hz hflag rfl⟩
      case reaches =>
        obtain ⟨hword, hother⟩ := exec_wait_reaches h hz hok hf
        refine ⟨fun w hw => ⟨fun hv => ?_, fun hv => ?_⟩, fun hw => ⟨fun hv => ?_, fun hv => ?_⟩, hother⟩
        · exact (hword w (.inl hw)).trans (congrArg _ (if_pos hv))
        · exact (hword w (.inl hw)).trans (congrArg _ (if_neg (Nat.not_le_of_lt hv)))
        · exact (hword 0 (.inr ⟨hw, rfl⟩)).trans (congrArg _ (if_pos (Nat.le_of_eq hv)))
        · exact (hword 0 (.inr ⟨hw, rfl⟩)).trans (congrArg _ (if_neg (Nat.not_le_of_lt hv)))
    case later =>
      obtain ⟨-, -, -, hcond, hloop⟩ := exec_node_later h hz
      exact ⟨hcond, hloop⟩
    case branches =>
      obtain ⟨hcond, hloop⟩ := exec_branch_fails h hz
      refine ⟨hcond, hloop, fun w hr => ⟨fun hw => ?_, fun hw => ?_⟩, fun w hr => ?loop⟩
      · rw [exec_cond_reads h hz hr, if_pos hw]
      · rw [exec_cond_reads h hz hr, if_neg (not_not.mpr hw)]
      case loop =>
        intro n
        have hexec := exec_helmLoop_reads h hz hr
        refine ⟨fun hn hw => ⟨fun hroom => ?_, fun hnone hfull => ?_⟩, fun hend => ?_⟩
        · rw [hexec, if_pos ⟨hn, hw⟩, if_neg fun hfull => hroom.elim (· hfull.1) (Nat.not_lt.mpr hfull.2)]
        · exact hexec.trans (congrArg _ ((if_pos ⟨hn, hw⟩).trans (if_pos ⟨hnone, hfull⟩)))
        · rw [hexec, if_neg fun hgo => hend.elim (Nat.not_le_of_lt hgo.1) hgo.2]
    case ends =>
      intro u
      refine ⟨exec_helmEnd_lost h, fun d hr => ?_⟩
      intro head v
      have hexec := exec_helmEnd_reads h hr
      have hkeeps := s.headMoved_keepsHelm z d
      refine ⟨fun hlast => hexec.trans (congrArg _ (if_pos hlast)), fun hmore hgo => ?_, fun hmore hslice hline hslot => ?_⟩
      · have hnot : ¬(s.headMoved z d).sliceDone z = true := by
          rw [hkeeps.sliceDone, State.sliceDone_iff]
          exact fun hd => hgo.elim (Nat.not_lt.mpr hd.1) hd.2
        rw [hexec, if_neg hmore, if_neg hnot, hkeeps.now]
        rfl
      · have hdone : (s.headMoved z d).sliceDone z = true := (hkeeps.sliceDone z).trans (State.sliceDone_iff.mpr ⟨hslice, hline⟩)
        obtain ⟨hmem, hnone⟩ := State.unmapSlot_slot (s := s.headMoved z d) (z := z) (by unfold State.queueSlot; rw [hkeeps.slots]; exact hslot)
        exact ⟨_, hexec.trans (congrArg _ ((if_neg hmore).trans (if_pos hdone))), hmem, by simp [p], hnone⟩
  case walks =>
    intro a p ready
    have hsat : exec .waitSatisfied s = .next (s.slotGo p a.y) := rfl
    obtain ⟨hnone, hgo, hstill, hfrozen⟩ := State.slotGo_cases (s := s) (p := p) (q := a.y)
    refine ⟨fun hf => ⟨exec_launchContinue_frozen hf, hsat.trans (congrArg _ (hfrozen hf))⟩, fun hf => ⟨fun hq => ?_, fun z hq => ⟨fun t hw ht => ?_,
      fun hw => ?_⟩, exec_launchContinue_copy hf, fun node eva code => exec_launchContinue_error hf, fun hz => ?grant⟩⟩
    · exact ⟨hsat.trans (congrArg _ (hnone hq)), fun hz => (exec_launchContinue_slot hf hz).trans (congrArg _ (hnone hq))⟩
    · exact ⟨hsat.trans (congrArg _ (hgo z t hq hw ht hf)), fun hz => (exec_launchContinue_slot hf hz).trans (congrArg _ (hgo z t hq hw ht hf))⟩
    · exact ⟨hsat.trans (congrArg _ (hstill z hq hw)), fun hz => (exec_launchContinue_slot hf hz).trans (congrArg _ (hstill z hq hw))⟩
    case grant =>
      obtain ⟨hgone, hwalk⟩ := exec_launchContinue_grant hf hz
      refine ⟨hgone, fun z hz => ?_⟩
      obtain ⟨hother, hrefused, hgranted⟩ := hwalk z hz
      refine ⟨hother, hrefused, fun hg h1 => ?_⟩
      intro u w
      have hexec := hgranted hg h1
      refine ⟨fun hflag hslot => ?_, fun hflag hslot => ?_, fun hflag => ?_⟩
      · have hboth : (z.flag 0 && (s.queueSlot s.arg.p s.arg.y).isSome) = true := by
          rw [hflag, Bool.true_and]
          exact Option.isSome_iff_ne_none.mpr hslot
        rw [hexec, if_pos hboth, State.launchWait, if_pos hflag]
        rfl
      · have hlone : ¬(z.flag 0 && (s.queueSlot s.arg.p s.arg.y).isSome) = true := by simp [show s.queueSlot s.arg.p s.arg.y = none from hslot]
        have hstay := State.slotGo_cases (s := (s.launched z).modWalker s.arg.p s.arg.y (fun y => { y with wait := s.launchWait z })) (p := s.arg.p) (q := s.arg.y)
        rw [hexec, if_neg hlone, hstay.1 (State.queueSlot_modWalker _ (fun _ => ⟨rfl, rfl⟩) hslot), State.launchWait, if_pos hflag]
        rfl
      · have hlone : ¬(z.flag 0 && (s.queueSlot s.arg.p s.arg.y).isSome) = true := by simp [hflag]
        rw [hexec, if_neg hlone, State.launchWait, if_neg (by simp [hflag])]
        rfl
  case results =>
    intro a put ends fails written
    have hend (u : State) (he : exec .launchResult s = .next (u.launchEnds a)) : ends u := by
      unfold State.launchEnds at he
      exact ⟨fun hw => by rw [he, hw], fun z hw => by rw [he, hw]⟩
    have hfail (u : State) (code : Nat) (he : exec .launchResult s = .next (u.launchFails a code)) : fails u code := by
      unfold State.launchFails at he
      exact ⟨fun hw => by rw [he, hw], fun z hw => by rw [he, hw]⟩
    have hwritten (b : State) (he : exec .launchResult s = .next (b.resultsDone a)) : written b := by
      unfold State.resultsDone at he
      refine ⟨fun hbit => hend b (by rw [he, if_pos hbit]), fun hbit => ⟨fun u hu => hend u ?_, fun e hu => hfail b 5 ?_⟩⟩
      · rw [he, if_neg (by simp [hbit]), hu]
      · rw [he, if_neg (by simp [hbit]), hu]
    refine ⟨fun hy => hwritten s (exec_launchResult_none hy), fun k hy hw => exec_launchResult_walk hy hw, fun hy hw => ⟨fun l hl => ?leaf, fun e he => ?_⟩⟩
    case leaf =>
      intro n
      refine ⟨fun hm => hfail s 1 (exec_launchResult_fails hy hw (.inr ⟨l, hl, hm⟩)), fun hm hgood => hwritten _ ?_, fun hm hbad => ?_⟩
      · exact (exec_launchResult_writes hy hw hl hm).trans (congrArg _ (if_neg (by rw [hgood]; decide)))
      · exact (exec_launchResult_writes hy hw hl hm).trans (congrArg _ (if_pos hbad))
    · exact hfail s 1 (exec_launchResult_fails hy hw (.inl ⟨e, he⟩))

end Sys2Proof.Machine
end

section
/-! PROOFS of the statements of the management function: partitions, their resources and their functions (R366 to R371, R373, R386, R387). -/

namespace Sys2Proof.Machine

/-! ### Commands and their answers (R366, R380) -/

section
variable {s t : State} {p code : Nat}

theorem State.command_acts {ok : Bool} {f : State → State} (h : ok = true) : s.command code p ok f = (f s).reply code p true := by
  subst h; rfl
theorem State.command_denied {ok : Bool} {f : State → State} (h : ok = false) : s.command code p ok f = s.reply code p false := by
  subst h; rfl

/-- A command may act on a partition that is there, of a device that runs, unless it is frozen. -/
theorem State.commandable_iff : s.commandable p = true ↔
    s.power = .on ∧ (∃ y ∈ s.parts, y.num = p ∧ y.live = true) ∧ (s.part p).frozen = false := by
  simp [State.commandable, State.alive, and_assoc]

theorem State.commandable_hasPart (h : s.commandable p = true) : s.hasPart p := by
  obtain ⟨-, ⟨y, hy, hn, -⟩, -⟩ := State.commandable_iff.mp h
  exact ⟨y, hy, hn⟩

/-- A command on a partition on which none may act is denied. -/
theorem exec_denied (h : s.commandable s.arg.p = false) :
    let denied (i : Instr) (code : Nat) : Prop := exec i s = .next (s.reply code s.arg.p false)
    denied .grant 3 ∧ denied .reclaim 4 ∧ denied .setmin 5 ∧ denied .vfstateRunning 8 ∧ denied .vfstateDescheduled 8 ∧
      denied .winattach 10 ∧ denied .objreset 13 ∧ denied .instctlResume 14 ∧ denied .instctlKill 14 ∧ denied .migsave 15 ∧ denied .migload 16 := by
  have hgrant : exec .grant s = .next (s.reply 3 s.arg.p false) := by
    change execGrant s = _
    unfold execGrant
    simp only [h]
    rfl
  have hreclaim : exec .reclaim s = .next (s.reply 4 s.arg.p false) := by
    change execReclaim s = _
    unfold execReclaim
    simp only [h]
    rfl
  have hmigload : exec .migload s = .next (s.reply 16 s.arg.p false) := by
    change execMigload s = _
    unfold execMigload
    simp only [h, Bool.false_eq_true, if_false]
    cases s.migs.find? _ <;> rfl
  have hcommand {ok : Bool} {f : State → State} (code : Nat) (hok : ok = false) :
      (.next (s.command code s.arg.p ok f) : Out) = .next (s.reply code s.arg.p false) := congrArg _ (State.command_denied hok)
  exact ⟨hgrant, hreclaim, hcommand 5 (by simp [h]), hcommand 8 h, hcommand 8 (by simp [h]), hcommand 10 (by simp [h]), hcommand 13 (by simp [h]),
    hcommand 14 (by simp [State.frozenInst, h]), hcommand 14 (by simp [State.frozenInst, h]), hcommand 15 (by simp [h]), hmigload⟩

/-! ### GRANT (R367 to R370, R403, R207) -/

theorem exec_grant_acts (hc : s.commandable s.arg.p = true) (h : s.grantKind s.arg = some t) : exec .grant s = .next (t.reply 3 s.arg.p true) := by
  change execGrant s = _
  unfold execGrant
  simp only [hc, h, if_true]

theorem exec_grant_denied (hc : s.commandable s.arg.p = true) (h : s.grantKind s.arg = none) : exec .grant s = .next (s.reply 3 s.arg.p false) := by
  change execGrant s = _
  unfold execGrant
  simp only [hc, h, if_true]

variable {a : Args}

theorem State.grantKind_pages (hz : a.z = 0) : s.grantKind a = (s.mapPages a.p (pairs a.l)).map (fun s => s.kick a.p) := by
  unfold State.grantKind
  simp only [hz]

theorem State.grantKind_region {r : Nat} (hz : a.z = 1) (hl : a.l = [r]) : s.grantKind a = if s.regionOk r = true ∧ s.regionFree r = true then
    some ((s.zeroRegion r).modPart a.p (fun x => { x with regions := x.regions ++ [r] })) else none := by
  have hone : ([r] : List Nat).eraseDups = [r] := rfl
  unfold State.grantKind
  rw [hz, hl]
  simp [hone]

theorem State.grantKind_engine (hz : a.z = 2) : s.grantKind a =
    if 4 ≤ a.x ∨ 4 ≤ a.y ∨ (a.x, a.y) ∈ (s.part a.p).engines ∨ 8 ≤ (s.parts.filter (fun y => y.engines.contains (a.x, a.y))).length then none
    else some (s.modPart a.p (fun x => { x with engines := x.engines ++ [(a.x, a.y)] })) := by
  unfold State.grantKind
  rw [hz]
  simp only [Bool.or_eq_true, decide_eq_true_eq, List.contains_eq_mem, or_assoc]

theorem State.grantKind_helm (hz : a.z = 3) : s.grantKind a =
    if 4 ≤ a.x ∨ a.x ∈ (s.part a.p).helmDies ∨ 10 ≤ (s.parts.filter (fun y => y.helmDies.contains a.x)).length then none
    else some (s.modPart a.p (fun x => { x with helmDies := x.helmDies ++ [a.x] })) := by
  unfold State.grantKind
  rw [hz]
  simp only [Bool.or_eq_true, decide_eq_true_eq, List.contains_eq_mem, or_assoc]

theorem State.grantKind_share (hz : a.z = 4) : s.grantKind a =
    if 1024 < s.sumOver Part.share + a.x then none else some (s.setCsrF a.p 0x0C2 31 16 ((s.part a.p).share + a.x)) := by
  unfold State.grantKind
  simp only [hz]

theorem State.grantKind_wft (hz : a.z = 5) : s.grantKind a = if 4 ≤ a.x ∨ 8192 < s.sumOver (fun y => (kget y.wftShare a.x).getD 0) + a.y then none
    else some (s.modPart a.p (fun x => { x with wftShare := kset x.wftShare a.x ((kget x.wftShare a.x).getD 0 + a.y) })) := by
  unfold State.grantKind
  rw [hz]
  simp only [Bool.or_eq_true, decide_eq_true_eq]

theorem State.grantKind_host (hz : a.z = 6) : s.grantKind a =
    if 2 ^ 45 < a.x + a.y then none else some (s.modPart a.p (fun x => { x with hostBase := a.x, hostLen := a.y })) := by
  unfold State.grantKind
  simp only [hz]

theorem State.grantKind_root (hz : a.z = 7) : s.grantKind a = some (s.modPart a.p (fun x => { x with root := a.y })) := by
  unfold State.grantKind
  simp only [hz]

/-! ### RECLAIM (R368) -/

theorem exec_reclaim_acts (hc : s.commandable s.arg.p = true) (h : s.reclaimKind s.arg = some t) : exec .reclaim s = .next (t.reply 4 s.arg.p true) := by
  change execReclaim s = _
  unfold execReclaim
  simp only [hc, h, if_true]

theorem exec_reclaim_denied (hc : s.commandable s.arg.p = true) (h : s.reclaimKind s.arg = none) :
    exec .reclaim s = .next (s.reply 4 s.arg.p false) := by
  change execReclaim s = _
  unfold execReclaim
  simp only [hc, h, if_true]

theorem State.reclaimKind_pages (hz : a.z = 0) : s.reclaimKind a =
    if (∀ pg ∈ a.l, (s.part a.p).place? pg ≠ none) ∧ a.x ≤ 15 then some (s.askPre a.p a.l a.x true) else none := by
  unfold State.reclaimKind
  rw [hz]
  simp [Option.isSome_iff_ne_none]

theorem State.reclaimKind_regions (hz : a.z = 1) : s.reclaimKind a = if ∀ r ∈ a.l, r ∈ (s.part a.p).regions then
    some (s.modPart a.p (fun x => { x with regions := x.regions.filter (fun r => !a.l.contains r) })) else none := by
  unfold State.reclaimKind
  rw [hz]
  simp

theorem State.reclaimKind_engine (hz : a.z = 2) : s.reclaimKind a = if (a.x, a.y) ∈ (s.part a.p).engines then
    some (s.modPart a.p (fun x => { x with engines := x.engines.filter (fun e => e != (a.x, a.y)) })) else none := by
  unfold State.reclaimKind
  rw [hz]
  simp only [List.contains_eq_mem, decide_eq_true_eq]

theorem State.reclaimKind_noHelm (hz : a.z = 3) (hx : a.x ∉ (s.part a.p).helmDies) : s.reclaimKind a = none := by
  unfold State.reclaimKind
  rw [hz]
  simp [hx]

/-- The state in which a partition's Helm context on a die is taken, with no slot of it. -/
def State.helmTaken (s : State) (p die : Nat) : State :=
  ({ s with helmLine := s.helmLine.filter (fun l => !(l.1 == die && l.2.1 == p)) } : State).modPart p (fun x => { x with
    helmDies := x.helmDies.filter (· != die) })

theorem State.reclaimKind_helm (hz : a.z = 3) (hx : a.x ∈ (s.part a.p).helmDies) (hs : ∀ z ∈ s.helmSlots, ¬(z.p = a.p ∧ z.die = a.x)) :
    s.reclaimKind a = some (s.helmTaken a.p a.x) := by
  have hnone : s.helmSlots.filter (fun z => z.p == a.p && z.die == a.x) = [] := by
    rw [List.filter_eq_nil_iff]
    exact fun z hz' => by simpa using hs z hz'
  unfold State.reclaimKind
  rw [hz]
  simp only [hnone, List.contains_eq_mem, hx]
  rfl

theorem State.reclaimKind_share (hz : a.z = 4) : s.reclaimKind a =
    if (s.part a.p).share < a.x then none else some (s.setCsrF a.p 0x0C2 31 16 ((s.part a.p).share - a.x)) := by
  unfold State.reclaimKind
  simp only [hz]

theorem State.reclaimKind_wft (hz : a.z = 5) : s.reclaimKind a = if (kget (s.part a.p).wftShare a.x).getD 0 < a.y then none else
    some (s.modPart a.p (fun x => { x with wftShare := kset x.wftShare a.x ((kget (s.part a.p).wftShare a.x).getD 0 - a.y) })) := by
  unfold State.reclaimKind
  simp only [hz]

theorem State.reclaimKind_host (hz : a.z = 6) : s.reclaimKind a = some (s.modPart a.p (fun x => { x with hostBase := 0, hostLen := 0 })) := by
  unfold State.reclaimKind
  simp only [hz]

end

end Sys2Proof.Machine
end

section
/-! PROOFS of the statements of the management function: partitions that begin, end and pause (R366, R371, R373, R386, R387). -/

namespace Sys2Proof.Machine

section
variable {s t u : State} {p : Nat}

theorem next_congr (h : s = t) : (.next s : Out) = .next t := congrArg _ h

/-! ### CREATE, DESTROY and SETMIN (R366, R371, R373) -/

theorem exec_create_denied (h : s.power ≠ .on ∨ 40 ≤ s.arg.p ∨ ∃ y ∈ s.parts, y.num = s.arg.p) : exec .create s = .next (s.reply 1 s.arg.p false) := by
  have hbad : (s.power == .on && decide (s.arg.p < 40) && !s.parts.any (fun x => x.num == s.arg.p)) = false := by
    rw [Bool.eq_false_iff]
    simp only [ne_eq, Bool.and_eq_true, beq_iff_eq, decide_eq_true_eq, Bool.not_eq_true', List.any_eq_false]
    rintro ⟨⟨hon, hp⟩, hnew⟩
    obtain h | h | ⟨y, hy, hn⟩ := h
    · exact h hon
    · omega
    · exact hnew y hy hn
  exact next_congr (State.command_denied hbad)

theorem exec_create_acts (hon : s.power = .on) (hp : s.arg.p < 40) (hnew : ∀ y ∈ s.parts, y.num ≠ s.arg.p) : exec .create s = .next
    (({ s with parts := s.parts ++ [{ num := s.arg.p, live := true, key := s.nextKey, vf := { devid := s.arg.x } }], nextKey := s.nextKey + 1,
               reports := s.reports ++ [reportOf s.arg.x (some (s.arg.p, s.arg.y))] } : State).reply 1 s.arg.p true) := by
  have hok : (s.power == .on && decide (s.arg.p < 40) && !s.parts.any (fun x => x.num == s.arg.p)) = true := by
    simpa [hon, hp] using hnew
  exact next_congr (State.command_acts hok)

theorem exec_destroy_denied (h : ∀ y ∈ s.parts, y.num = s.arg.p → y.live = false) : exec .destroy s = .next (s.reply 2 s.arg.p false) :=
  next_congr (State.command_denied (by simpa [State.alive] using h))

/-- What goes with a partition that is destroyed: its place, and its memberships of windows. -/
theorem exec_destroy_acts (h : ∃ y ∈ s.parts, y.num = s.arg.p ∧ y.live = true) : ∃ t : State, exec .destroy s = .next t ∧
    (∀ y ∈ t.parts, y.num ≠ s.arg.p) ∧ (∀ w ∈ t.windows, ∀ m ∈ w.members, m.1 ≠ s.arg.p) ∧ ∃ l, t.replies = l ++ [(2, s.arg.p, 0)] := by
  refine ⟨_, next_congr (State.command_acts (by simpa [State.alive] using h)), fun y hy => ?_, fun w hw m hm => ?_, _, rfl⟩
  · simpa using (List.mem_filter.mp hy).2
  · obtain ⟨v, -, rfl⟩ := List.mem_map.mp hw
    simpa using (List.mem_filter.mp hm).2

/-- The sum of a minimum over the partitions, with a new one for partition p. -/
def State.minimaSum (s : State) (p die : Nat) (m : Nat × Nat × Nat) (f : Nat × Nat × Nat → Nat) : Nat :=
  (s.parts.filter (fun y => y.num != p)).foldl (fun n y => n + f (y.minOn die)) (f m)

/-- May the minima of a die be set to m (R371)? -/
def State.minimaFit (s : State) (p die : Nat) (m : Nat × Nat × Nat) : Prop :=
  die < 4 ∧ s.minimaSum p die m (fun m => m.1) ≤ s.pageCount die ∧ s.minimaSum p die m (fun m => m.2.1) ≤ 256 ∧
    s.minimaSum p die m (fun m => m.2.2) ≤ 256

/-- The minima that the arguments of SETMIN give. -/
def Args.minima (a : Args) : Nat × Nat × Nat := ((a.l[0]?).getD 0, (a.l[1]?).getD 0, (a.l[2]?).getD 0)

theorem exec_setmin (hc : s.commandable s.arg.p = true) :
    (s.minimaFit s.arg.p s.arg.x s.arg.minima →
      exec .setmin s = .next ((s.modPart s.arg.p (fun x => x.setMin s.arg.x s.arg.minima)).reply 5 s.arg.p true)) ∧
    (¬s.minimaFit s.arg.p s.arg.x s.arg.minima → exec .setmin s = .next (s.reply 5 s.arg.p false)) := by
  have hok : (s.commandable s.arg.p && decide (s.arg.x < 4) && decide (s.minimaSum s.arg.p s.arg.x s.arg.minima (fun m => m.1) ≤ s.pageCount s.arg.x)
      && decide (s.minimaSum s.arg.p s.arg.x s.arg.minima (fun m => m.2.1) ≤ 256)
      && decide (s.minimaSum s.arg.p s.arg.x s.arg.minima (fun m => m.2.2) ≤ 256)) = true ↔ s.minimaFit s.arg.p s.arg.x s.arg.minima := by
    simp only [hc, Bool.true_and, Bool.and_eq_true, decide_eq_true_eq, State.minimaFit, and_assoc]
  exact ⟨fun h => next_congr (State.command_acts (hok.mpr h)),
    fun h => next_congr (State.command_denied (Bool.eq_false_iff.mpr fun h' => h (hok.mp h')))⟩

/-! ### A partition that runs again (R386, R387) -/

/-- The partition, whose events are no longer held. -/
def State.runs (s : State) (p : Nat) : State :=
  (s.modPart p (fun x => { x with vf := { x.vf with state := .running } })).sched s.now 0 .eventRecordWrite { p := p }

/-- A saved instance that a pause no longer keeps from area. -/
def Inst.freed (i : Inst) : Inst :=
  if i.status == .saved then { i with save := i.save.map (fun v => { v with flags := setBits v.flags 3 3 0, eligible := true }) } else i

/-- The partition, whose events are no longer held and whose saved instances are eligible. -/
def State.unpaused (s : State) (p : Nat) : State := (s.runs p).modPart p (fun x => { x with insts := x.insts.map Inst.freed })

theorem exec_vfstateRunning (hc : s.commandable s.arg.p = true) (h : (s.part s.arg.p).vf.state ≠ .paused) :
    exec .vfstateRunning s = .next ((s.runs s.arg.p).reply 8 s.arg.p true) := by
  refine next_congr ((State.command_acts hc).trans ?_)
  simp only [beq_eq_false_iff_ne.mpr h]
  rfl

theorem exec_vfstateRunning_paused (hc : s.commandable s.arg.p = true) (h : (s.part s.arg.p).vf.state = .paused) :
    exec .vfstateRunning s = .next (((((s.unpaused s.arg.p).part s.arg.p).insts.foldl (fun s' i =>
      if i.saving.any (fun v => v.why == 3) then s'.thaw s.arg.p i.id else s') (s.unpaused s.arg.p)).afterPause s.arg.p).reply 8 s.arg.p true) := by
  refine next_congr ((State.command_acts hc).trans ?_)
  have hpaused : ((s.part s.arg.p).vf.state == .paused) = true := beq_iff_eq.mpr h
  unfold State.unpaused State.runs Inst.freed
  simp only [hpaused, Bool.not_true, Bool.false_eq_true, if_false]

theorem State.unpaused_part (h : s.hasPart p) : (s.unpaused p).part p =
    { s.part p with vf := { (s.part p).vf with state := .running }, insts := (s.part p).insts.map Inst.freed } := by
  have hvf := h.part_in (fun x => { x with vf := { x.vf with state := .running } }) fun _ => rfl
  have hhas : (s.runs p).hasPart p := (State.hasPart_modPart p _ (by exact fun _ => rfl)).mpr h
  have hruns : (s.runs p).part p = { s.part p with vf := { (s.part p).vf with state := .running } } := hvf
  unfold State.unpaused
  rw [hhas.part_in _ (by exact fun _ => rfl), hruns]

theorem Inst.freed_saving (i : Inst) : i.freed.saving = i.saving := by unfold Inst.freed; split <;> rfl

/-- What is saved is eligible. -/
theorem Inst.freed_eligible {i : Inst} {v} (hs : i.freed.status = .saved) (hv : i.freed.save = some v) : v.eligible = true := by
  unfold Inst.freed at hs hv
  split at hs
  · rename_i h
    rw [if_pos h] at hv
    obtain ⟨w, -, rfl⟩ := Option.map_eq_some_iff.mp hv
    rfl
  · rename_i h
    exact absurd (beq_iff_eq.mpr hs) h

section
variable {ps : List Part} {ag : List Timed} {x : Part} {v : Vf} {l : List Inst}

/-! A translation does not turn on the steps to come, on a partition's function or on its instances. -/

theorem State.readPte_runs : ({ s with parts := ps, agenda := ag } : State).readPte { x with vf := v, insts := l } = s.readPte x := rfl
theorem State.tableOk_runs : ({ s with parts := ps, agenda := ag } : State).tableOk { x with vf := v, insts := l } = s.tableOk x := rfl
theorem State.reach_runs : ({ s with parts := ps, agenda := ag } : State).reach { x with vf := v, insts := l } = s.reach x := rfl
theorem State.walkNow_runs (va : Nat) : ({ s with parts := ps, agenda := ag } : State).walkNow { x with vf := v, insts := l } va = s.walkNow x va := by
  unfold State.walkNow
  rw [State.readPte_runs, State.tableOk_runs, State.reach_runs]
theorem State.oldLeaves_runs (va : Nat) :
    ({ s with parts := ps, agenda := ag } : State).oldLeaves { x with vf := v, insts := l } va = s.oldLeaves x va := by
  unfold State.oldLeaves
  rw [State.readPte_runs, State.tableOk_runs, State.reach_runs, State.walkNow_runs]
  rfl
theorem State.translate_runs (va : Nat) :
    ({ s with parts := ps, agenda := ag } : State).translate { x with vf := v, insts := l } va = s.translate x va := by
  unfold State.translate
  rw [State.walkNow_runs, State.oldLeaves_runs]
theorem State.walkFail_runs (va : Nat) :
    ({ s with parts := ps, agenda := ag } : State).walkFail { x with vf := v, insts := l } va = s.walkFail x va := rfl

theorem Part.queueVa_runs (q : Nat) : ({ x with vf := v, insts := l } : Part).queueVa q = x.queueVa q := rfl

theorem State.readOne_runs (h : ({ s with parts := ps, agenda := ag } : State).part p = { s.part p with vf := v, insts := l }) (va n : Nat) (b : Bool) :
    ({ s with parts := ps, agenda := ag } : State).readOne p va n b = s.readOne p va n b := by
  unfold State.readOne
  rw [h, State.walkFail_runs, State.translate_runs]
  rfl

theorem State.readVa_runs (ht : t = { s with parts := ps, agenda := ag }) (h : t.part p = { s.part p with vf := v, insts := l }) (va n : Nat)
    (b : Bool) : t.readVa p va n b = s.readVa p va n b := by
  subst ht
  unfold State.readVa
  simp only [State.readOne_runs h]

end

/-- A queue's work turns on the place and the bytes of its descriptor, on the dies of its partition, and on what is saved. -/
theorem State.queueWork_congr {q : Nat} (hread : ∀ va, t.helmRead p va 20 = s.helmRead p va 20) (hva : (t.part p).queueVa q = (s.part p).queueVa q)
    (hdies : (t.part p).helmDies = (s.part p).helmDies) (hsaved : t.helmSaved = s.helmSaved) : t.queueWork p q = s.queueWork p q := by
  -- Unfolded as a function: at its arguments, the kernel would evaluate the read that the definition matches on.
  have hdef : State.queueWork = State.queueWork := rfl
  conv at hdef => rhs; delta State.queueWork
  rw [hdef]
  beta_reduce
  rw [hread, hva, hdies, hsaved]

theorem State.unpaused_queueWork (h : s.hasPart p) (q : Nat) : (s.unpaused p).queueWork p q = s.queueWork p q := by
  have hpart := State.unpaused_part h
  have hstate : s.unpaused p = { s with parts := (s.unpaused p).parts, agenda := (s.unpaused p).agenda } := rfl
  exact State.queueWork_congr (fun va => congrArg Except.toOption (State.readVa_runs hstate hpart va 20 false))
    (by rw [hpart]; exact Part.queueVa_runs q) (by rw [hpart]) rfl

theorem foldl_skip {α β : Type} {c : β → Bool} {f : α → β → α} {l : List β} (h : ∀ x ∈ l, c x = false) (a : α) :
    l.foldl (fun a x => if c x then f a x else a) a = a := by
  induction l with
  | nil => rfl
  | cons x l ih => rw [List.foldl_cons, h x List.mem_cons_self]; exact ih fun y hy => h y (List.mem_cons_of_mem _ hy)

/-! ### What readmission leaves (R362) -/

/-- From s to t the memory, and a partition's function and instances, stand. -/
structure State.KeepsRuns (p : Nat) (s t : State) : Prop where
  mem : t.mem = s.mem
  vf : (t.part p).vf = (s.part p).vf
  insts : (t.part p).insts = (s.part p).insts

theorem State.KeepsRuns.refl (s : State) : s.KeepsRuns p s := ⟨rfl, rfl, rfl⟩
theorem State.KeepsRuns.trans (h : s.KeepsRuns p t) (g : t.KeepsRuns p u) : s.KeepsRuns p u :=
  ⟨g.mem.trans h.mem, g.vf.trans h.vf, g.insts.trans h.insts⟩
theorem State.Adds.keepsRuns (h : s.Adds t) : s.KeepsRuns p t := ⟨h.mem, by rw [h.part], by rw [h.part]⟩

theorem State.request_keepsRuns (s : State) (q : Nat) (r : Request) : s.KeepsRuns p (s.request q r) := by
  have hasked : s.KeepsRuns p (s.modPart q (fun x => { x with requests := x.requests ++ [r] })) :=
    ⟨rfl, part_modPart Part.vf s q p _ (fun _ => rfl) fun _ => rfl, part_modPart Part.insts s q p _ (fun _ => rfl) fun _ => rfl⟩
  exact hasked.trans ((State.sched_adds ..).trans (State.kick_adds ..)).keepsRuns

theorem State.readmit_keepsRuns (s : State) (q : Nat) : s.KeepsRuns p (s.readmit q) := by
  unfold State.readmit
  refine ite_keeps (P := s.KeepsRuns p) (.refl s) (State.KeepsRuns.trans (foldl_keeps (P := s.KeepsRuns p) (.refl s) fun t i h => ?_)
    (State.kick_adds ..).keepsRuns)
  dsimp only
  split
  · exact h
  · exact ite_keeps (P := s.KeepsRuns p) h (h.trans (State.request_keepsRuns ..))

/-- A pause's end, with no COPY node's command and no queue that goes on. -/
theorem State.afterPause_keepsRuns (hc : (s.part p).copies = []) (hq : ∀ q, s.queueWork p q = none) : s.KeepsRuns p (s.afterPause p) := by
  have hcopies : s.helmUnhalt p = s := by unfold State.helmUnhalt; rw [hc]; rfl
  have hqueues : s.requeue p = s := List.foldl_fixed' (fun q => by rw [hq]) _
  unfold State.afterPause
  rw [hcopies, hqueues]
  exact (s.readmit_keepsRuns p).trans (State.kick_adds ..).keepsRuns

theorem exec_vfstateRunning_frees (hc : s.commandable s.arg.p = true) (h : (s.part s.arg.p).vf.state = .paused)
    (hcopies : (s.part s.arg.p).copies = []) (hsaving : ∀ i ∈ (s.part s.arg.p).insts, i.saving = none)
    (hq : ∀ q, s.queueWork s.arg.p q = none) : ∃ u : State, exec .vfstateRunning s = .next (u.reply 8 s.arg.p true) ∧ u.mem = s.mem ∧
      (u.part s.arg.p).vf.state = .running ∧
      ∀ i ∈ (u.part s.arg.p).insts, ∀ v, i.status = .saved → i.save = some v → v.eligible = true := by
  have hpart := State.unpaused_part (State.commandable_hasPart hc)
  have hthaw : ∀ i ∈ ((s.unpaused s.arg.p).part s.arg.p).insts, i.saving.any (fun v => v.why == 3) = false := by
    rw [hpart]
    intro i hi
    obtain ⟨j, hj, rfl⟩ := List.mem_map.mp hi
    rw [Inst.freed_saving, hsaving j hj]
    rfl
  have hkeeps : (s.unpaused s.arg.p).KeepsRuns s.arg.p ((s.unpaused s.arg.p).afterPause s.arg.p) :=
    State.afterPause_keepsRuns (by rw [hpart]; exact hcopies) fun q => (State.unpaused_queueWork (State.commandable_hasPart hc) q).trans (hq q)
  have hexec := exec_vfstateRunning_paused hc h
  rw [foldl_skip hthaw] at hexec
  refine ⟨_, hexec, hkeeps.mem, by rw [hkeeps.vf, hpart], ?_⟩
  rw [hkeeps.insts, hpart]
  intro i hi v
  obtain ⟨j, -, rfl⟩ := List.mem_map.mp hi
  exact Inst.freed_eligible

/-! ### VFSTATE_DESCHEDULED and VFSTATE_PAUSED (R386, R387) -/

theorem exec_vfstateDescheduled (hc : s.commandable s.arg.p = true) (h : (s.part s.arg.p).vf.state ≠ .paused) : exec .vfstateDescheduled s = .next
    ((s.modPart s.arg.p (fun x => { x with vf := { x.vf with state := .descheduled } })).reply 8 s.arg.p true) :=
  next_congr (State.command_acts (by simpa [hc] using h))

theorem exec_vfstateDescheduled_paused (h : (s.part s.arg.p).vf.state = .paused) :
    exec .vfstateDescheduled s = .next (s.reply 8 s.arg.p false) :=
  next_congr (State.command_denied (by simp [h]))

theorem exec_vfstatePaused_denied (hz : s.arg.z = 0) (h : (s.part s.arg.p).vf.state = .paused ∨ (s.part s.arg.p).switching = true) :
    exec .vfstatePaused s = .next (s.reply 8 s.arg.p false) := by
  have hbad : (!s.commandable s.arg.p || (s.part s.arg.p).vf.state == .paused || (s.part s.arg.p).switching) = true := by
    obtain h | h := h <;> simp [h]
  change execVfstatePaused s = _
  unfold execVfstatePaused
  simp only [hz, hbad]
  rfl

/-- A pause of a partition in which nothing runs. -/
theorem exec_vfstatePaused_empty (hz : s.arg.z = 0) (hc : s.commandable s.arg.p = true) (h : (s.part s.arg.p).vf.state ≠ .paused)
    (hw : (s.part s.arg.p).switching = false) (hi : (s.part s.arg.p).insts = []) (hcopies : (s.part s.arg.p).copies = [])
    (hslots : ∀ z ∈ s.helmSlots, z.p ≠ s.arg.p) : exec .vfstatePaused s = .next
      ((s.modPart s.arg.p (fun x => { x with vf := { x.vf with state := .paused } })).sched (s.now + 64) 0 .vfstatePaused { p := s.arg.p, z := 1 }) := by
  have hgood : (!s.commandable s.arg.p || (s.part s.arg.p).vf.state == .paused || (s.part s.arg.p).switching) = false := by
    simpa [hc, hw] using h
  have hpart := (State.commandable_hasPart hc).part_in (fun x => { x with vf := { x.vf with state := .paused } }) fun _ => rfl
  have hnone : s.helmSlots.filter (fun z => z.p == s.arg.p && z.wait != .none) = [] := by
    rw [List.filter_eq_nil_iff]
    exact fun z hz' => by simp [hslots z hz']
  have hhalt : (s.modPart s.arg.p (fun x => { x with vf := { x.vf with state := .paused } })).helmHalt s.arg.p =
      s.modPart s.arg.p (fun x => { x with vf := { x.vf with state := .paused } }) := by
    unfold State.helmHalt
    rw [hpart]
    simp only [hcopies, List.filter_nil, List.foldl_nil, hpart]
  have hslot : (s.modPart s.arg.p (fun x => { x with vf := { x.vf with state := .paused } })).helmSlots = s.helmSlots := rfl
  change execVfstatePaused s = _
  unfold execVfstatePaused
  simp only [hz, hgood, hslot, hnone, List.foldl_nil, hhalt, hpart, hi, List.filter_nil]
  rfl

theorem exec_vfstatePaused_ends (hz : s.arg.z = 2) :
    ((s.part s.arg.p).vf.state = .paused → exec .vfstatePaused s = .next s) ∧
    ((s.part s.arg.p).vf.state ≠ .paused → exec .vfstatePaused s =
      .next ((s.sched s.now 0 .eventRecordWrite { p := s.arg.p }).afterPause s.arg.p)) := by
  change (_ → execVfstatePaused s = _) ∧ (_ → execVfstatePaused s = _)
  unfold execVfstatePaused
  simp only [hz]
  exact ⟨fun h => by simp only [h]; rfl, fun h => by simp only [beq_eq_false_iff_ne.mpr h]; rfl⟩

/-- A look whether a pause is done. -/
theorem exec_vfstatePaused_looks (hz : s.arg.z = 1) :
    ((s.part s.arg.p).vf.state ≠ .paused → exec .vfstatePaused s = .next s) ∧
    ((s.part s.arg.p).vf.state = .paused → s.pauseDone s.arg.p = true → exec .vfstatePaused s = .next (s.reply 8 s.arg.p true)) ∧
    ((s.part s.arg.p).vf.state = .paused → s.pauseDone s.arg.p = false →
      exec .vfstatePaused s = .next (s.sched (s.now + 64) 0 .vfstatePaused { p := s.arg.p, z := 1 })) := by
  change (_ → execVfstatePaused s = _) ∧ (_ → _ → execVfstatePaused s = _) ∧ (_ → _ → execVfstatePaused s = _)
  unfold execVfstatePaused
  simp only [hz]
  refine ⟨fun h => ?_, fun h hd => ?_, fun h hd => ?_⟩
  · simp only [bne_iff_ne.mpr h]; rfl
  · simp only [h, hd]; rfl
  · simp only [h, hd]; rfl

theorem Part.allSaved_iff {x : Part} : x.allSaved = true ↔ ∀ i ∈ x.insts, i.status = .saved ∨ i.status = .ended := by
  simp [Part.allSaved]

/-- A pause is done when the instances, the committed stores, the slots and the COPY nodes' commands are at rest. -/
theorem State.pauseDone_iff : s.pauseDone p = true ↔ (∀ i ∈ (s.part p).insts, i.status = .saved ∨ i.status = .ended) ∧ (s.part p).posted = [] ∧
    (∀ z ∈ s.helmSlots, z.p ≠ p) ∧ s.helmCopying p = false := by
  simp only [State.pauseDone, Bool.and_eq_true, Part.allSaved_iff, List.isEmpty_iff, Bool.not_eq_true', List.any_eq_false, beq_iff_eq, and_assoc, ne_eq]

end

end Sys2Proof.Machine
end

section
/-! PROOFS of the statements of the management function: windows, objects, instances and migration (R241, R340, R366, R381, R382, R387, R388). -/

namespace Sys2Proof.Machine

section
variable {s t u : State} {p : Nat}

/-- What a step leaves that leaves all but the partitions, the memory and what is counted of it. -/
theorem State.of_core (h : t.core = s.core) : t.windows = s.windows ∧ t.nextKey = s.nextKey ∧ t.replies = s.replies ∧ t.helmSaved = s.helmSaved ∧
    t.migs = s.migs :=
  ⟨by have := congrArg State.windows h; exact this, by have := congrArg State.nextKey h; exact this, by have := congrArg State.replies h; exact this,
    by have := congrArg State.helmSaved h; exact this, by have := congrArg State.migs h; exact this⟩

/-! ### Windows (R381, R382) -/

theorem State.zeroRegion_accounts (s : State) (r : Nat) : (s.zeroRegion r).parts = s.parts ∧ (s.zeroRegion r).windows = s.windows ∧
    (s.zeroRegion r).nextKey = s.nextKey ∧ (s.zeroRegion r).replies = s.replies ∧ (s.zeroRegion r).mem = Mem.clear s.mem (r * 2 ^ 26) (2 ^ 26) := by
  have h := State.plaiterMark_accounts { s with
    mem := Mem.clear s.mem (r * 2 ^ 26) (2 ^ 26), guard := s.guard.filter (fun g => g.pg / 16384 != r)
    badLines := s.badLines.filter (fun l => l / 2 ^ 20 != r), tree := s.tree.filter (fun t => t.2.1 * 8 ^ t.1 / 16384 != r) } (fun e => e.pa >>> 26 == r)
  obtain ⟨hwindows, hkey, hreplies, -⟩ := State.of_core h.core
  exact ⟨h.parts, hwindows, hkey, hreplies, h.mem⟩

/-- Regions that are zeroed leave the partitions, the windows, the keys and the answers. -/
theorem State.zeroRegions_accounts (l : List Nat) : ∀ s : State, let t := l.foldl (fun s r => s.zeroRegion r) s
    t.parts = s.parts ∧ t.windows = s.windows ∧ t.nextKey = s.nextKey ∧ t.replies = s.replies := by
  induction l with
  | nil => exact fun s => ⟨rfl, rfl, rfl, rfl⟩
  | cons r l ih =>
    intro s
    obtain ⟨hparts, hwindows, hkey, hreplies⟩ := ih (s.zeroRegion r)
    obtain ⟨gparts, gwindows, gkey, greplies, -⟩ := s.zeroRegion_accounts r
    exact ⟨hparts.trans gparts, hwindows.trans gwindows, hkey.trans gkey, hreplies.trans greplies⟩

/-- The state with a window n of the zeroed regions l. -/
def State.withWindow (s : State) (n : Nat) (l : List Nat) : State :=
  let t := l.foldl (fun s r => s.zeroRegion r) s
  { t with windows := t.windows ++ [{ n := n, die := l.headD 0 / 2048, regions := l, key := t.nextKey }], nextKey := t.nextKey + 1 }

theorem State.withWindow_accounts (s : State) (n : Nat) (l : List Nat) : (s.withWindow n l).parts = s.parts ∧
    (s.withWindow n l).windows = s.windows ++ [{ n := n, die := l.headD 0 / 2048, regions := l, key := s.nextKey }] ∧
    (s.withWindow n l).nextKey = s.nextKey + 1 ∧ (s.withWindow n l).replies = s.replies := by
  obtain ⟨hparts, hwindows, hkey, hreplies⟩ := State.zeroRegions_accounts l s
  refine ⟨hparts, ?_, congrArg (· + 1) hkey, hreplies⟩
  unfold State.withWindow
  dsimp only
  rw [hwindows, hkey]

theorem exec_wincreate_acts (hon : s.power = .on) (hx : s.arg.x < 64) (hnew : ∀ w ∈ s.windows, w.n ≠ s.arg.x) (hl : s.arg.l ≠ [])
    (hdups : s.arg.l.eraseDups = s.arg.l)
    (hok : ∀ r ∈ s.arg.l, s.regionOk r = true ∧ s.regionFree r = true ∧ r / 2048 = s.arg.l.headD 0 / 2048) :
    exec .wincreate s = .next ((s.withWindow s.arg.x s.arg.l).reply 9 s.arg.p true) := by
  refine next_congr (State.command_acts ?_)
  simpa [hon, hx, hl, hdups, and_assoc, -List.headD_eq_head?_getD] using ⟨hnew, hok⟩

theorem exec_wincreate_nil (hl : s.arg.l = []) : exec .wincreate s = .next (s.reply 9 s.arg.p false) :=
  next_congr (State.command_denied (by simp [hl]))

theorem exec_wincreate_denied {r : Nat} (hl : s.arg.l = [r])
    (h : 64 ≤ s.arg.x ∨ (∃ w ∈ s.windows, w.n = s.arg.x) ∨ s.regionOk r = false ∨ s.regionFree r = false) :
    exec .wincreate s = .next (s.reply 9 s.arg.p false) := by
  refine next_congr (State.command_denied ?_)
  rw [hl, Bool.eq_false_iff]
  simp only [List.all_cons, List.all_nil, ne_eq, Bool.and_eq_true, decide_eq_true_eq, Bool.not_eq_true', List.any_eq_false, beq_iff_eq, and_true]
  rintro ⟨⟨⟨⟨⟨-, hx⟩, hnew⟩, -⟩, -⟩, ⟨hok, hfree⟩, -⟩
  obtain h | ⟨w, hw, hn⟩ | h | h := h
  · omega
  · exact hnew w hw hn
  · simp [h] at hok
  · simp [h] at hfree

/-- The state in which a partition is a member of window n. -/
def State.attached (s : State) (p n y : Nat) : State :=
  ({ s with windows := s.windows.map (fun w => if w.n == n then { w with members := w.members ++ [(p, y)] } else w) } : State).modPart p
    (fun x => { x with wins := x.wins ++ [(n, y)] })

theorem exec_winattach_acts (hc : s.commandable s.arg.p = true) (hy : s.arg.y = 1 ∨ s.arg.y = 3) (hnew : kget (s.part s.arg.p).wins s.arg.x = none)
    (hw : ∃ w ∈ s.windows, w.n = s.arg.x ∧ w.members.length < 8) :
    exec .winattach s = .next ((s.attached s.arg.p s.arg.x s.arg.y).reply 10 s.arg.p true) :=
  next_congr (State.command_acts (by simpa [hc, hnew, hy] using hw))

theorem exec_winattach_denied (h : (s.arg.y ≠ 1 ∧ s.arg.y ≠ 3) ∨ kget (s.part s.arg.p).wins s.arg.x ≠ none ∨
    ∀ w ∈ s.windows, w.n = s.arg.x → 8 ≤ w.members.length) : exec .winattach s = .next (s.reply 10 s.arg.p false) := by
  refine next_congr (State.command_denied ?_)
  rw [Bool.eq_false_iff]
  simp only [ne_eq, Bool.and_eq_true, Bool.or_eq_true, beq_iff_eq, Option.isNone_iff_eq_none, List.any_eq_true, decide_eq_true_eq]
  rintro ⟨⟨⟨-, hy⟩, hnew⟩, w, hw, hn, hlen⟩
  obtain ⟨h1, h3⟩ | h | h := h
  · exact hy.elim h1 h3
  · exact h hnew
  · exact absurd (h w hw hn) (by omega)

theorem kget_append_new {α : Type} {l : List (Nat × α)} {k : Nat} (h : kget l k = none) (v : α) : kget (l ++ [(k, v)]) k = some v := by
  have hfind : l.find? (fun x => x.1 == k) = none := by simpa [kget] using h
  simp [kget, List.find?_append, hfind]

theorem kget_filter_gone {α : Type} (l : List (Nat × α)) (k : Nat) : kget (l.filter (fun x => x.1 != k)) k = none := by
  simp [kget]

theorem State.attached_member (hp : s.hasPart p) {n y : Nat} (hnew : kget (s.part p).wins n = none) :
    kget ((s.attached p n y).part p).wins n = some y ∧ ∀ w ∈ (s.attached p n y).windows, w.n = n → (p, y) ∈ w.members := by
  constructor
  · have hpart := hp.part_in (fun x => { x with wins := x.wins ++ [(n, y)] }) fun _ => rfl
    have hhere : (s.attached p n y).part p = { s.part p with wins := (s.part p).wins ++ [(n, y)] } := hpart
    rw [hhere]
    exact kget_append_new hnew y
  · intro w hw hn
    obtain ⟨v, -, rfl⟩ := List.mem_map.mp hw
    split
    · simp
    · rename_i h
      rw [if_neg h] at hn
      exact absurd (beq_iff_eq.mpr hn) h

/-- The state in which a partition is no member of window n. -/
def State.detached (s : State) (p n : Nat) : State :=
  { s with windows := s.windows.map (fun w => if w.n == n then { w with members := w.members.filter (fun m => m.1 != p) } else w) }

/-- The state in which no translation of a partition leads into window n. -/
def State.unwindowed (s : State) (p n : Nat) : State :=
  ({ s with oldPtes := s.oldPtes.filter (fun r => r.p != p || !(Pte.win r.old && Pte.wix r.old == n)) } : State).modPart p
    (fun x => { x with wins := x.wins.filter (fun w => w.1 != n) })

theorem State.unwindowed_windowBusy (s : State) (p n m : Nat) : (s.unwindowed p n).windowBusy p m = s.windowBusy p m := by
  let cut : State := { s with oldPtes := s.oldPtes.filter (fun r => r.p != p || !(Pte.win r.old && Pte.wix r.old == n)) }
  have hposted : ((s.unwindowed p n).part p).posted = (s.part p).posted := part_modPart Part.posted cut p p _ (fun _ => rfl) fun _ => rfl
  have hpages : ((s.unwindowed p n).part p).pages = (s.part p).pages := part_modPart Part.pages cut p p _ (fun _ => rfl) fun _ => rfl
  have hwindows : (s.unwindowed p n).windows = s.windows := rfl
  unfold State.windowBusy
  rw [hwindows, hposted, hpages]

theorem State.unwindowed_wins (hp : s.hasPart p) (n : Nat) : kget ((s.unwindowed p n).part p).wins n = none := by
  have hpart := hp.part_in (fun x => { x with wins := x.wins.filter (fun w => w.1 != n) }) fun _ => rfl
  have hhere : (s.unwindowed p n).part p = { s.part p with wins := (s.part p).wins.filter (fun w => w.1 != n) } := hpart
  rw [hhere]
  exact kget_filter_gone _ n

theorem exec_windetach_looks (hz : s.arg.z = 1) :
    (s.windowBusy s.arg.p s.arg.x = true → exec .windetach s = .next (s.sched (s.now + 64) 0 .windetach { s.arg with z := 1 })) ∧
    (s.windowBusy s.arg.p s.arg.x = false → exec .windetach s = .next ((s.detached s.arg.p s.arg.x).reply 11 s.arg.p true)) := by
  change (_ → execWindetach s = _) ∧ (_ → execWindetach s = _)
  unfold execWindetach
  dsimp only
  rw [if_pos hz]
  exact ⟨fun h => by rw [if_pos h], fun h => by rw [if_neg (by rw [h]; decide)]; rfl⟩

theorem exec_windetach_denied (hz : s.arg.z ≠ 1) (h : s.commandable s.arg.p = false ∨ kget (s.part s.arg.p).wins s.arg.x = none) :
    exec .windetach s = .next (s.reply 11 s.arg.p false) := by
  have hbad : (!s.commandable s.arg.p || (kget (s.part s.arg.p).wins s.arg.x).isNone) = true := by
    obtain h | h := h <;> simp [h]
  change execWindetach s = _
  unfold execWindetach
  dsimp only
  rw [if_neg hz, if_pos hbad]

theorem exec_windetach_acts (hz : s.arg.z ≠ 1) (hc : s.commandable s.arg.p = true) (hm : kget (s.part s.arg.p).wins s.arg.x ≠ none) :
    (s.windowBusy s.arg.p s.arg.x = true → exec .windetach s =
      .next ((s.unwindowed s.arg.p s.arg.x).sched (s.now + 64) 0 .windetach { s.arg with z := 1 })) ∧
    (s.windowBusy s.arg.p s.arg.x = false → exec .windetach s =
      .next (((s.unwindowed s.arg.p s.arg.x).detached s.arg.p s.arg.x).reply 11 s.arg.p true)) := by
  have hgood : ¬(!s.commandable s.arg.p || (kget (s.part s.arg.p).wins s.arg.x).isNone) = true := by simp [hc, hm]
  have hbusy := s.unwindowed_windowBusy s.arg.p s.arg.x s.arg.x
  change (_ → execWindetach s = _) ∧ (_ → execWindetach s = _)
  unfold execWindetach
  dsimp only
  rw [if_neg hz, if_neg hgood]
  refine ⟨fun h => next_congr (if_pos (hbusy.trans h)), fun h => next_congr (if_neg ?_)⟩
  exact fun h' => absurd (hbusy.symm.trans h') (by rw [h]; decide)

/-- The state without window n, and without what the Plaiters hold of it. -/
def State.withoutWindow (s : State) (n : Nat) : State :=
  { s with windows := s.windows.filter (fun w => w.n != n), plait := s.plait.filter (fun e =>
    !s.windows.any (fun w => w.n == n && w.regions.contains (e.pa >>> 26))) }

theorem exec_windestroy_acts (h : ∃ w ∈ s.windows, w.n = s.arg.x ∧ w.members = []) :
    exec .windestroy s = .next ((s.withoutWindow s.arg.x).reply 12 s.arg.p true) :=
  next_congr (State.command_acts (by simpa using h))

theorem exec_windestroy_denied (h : ∀ w ∈ s.windows, w.n = s.arg.x → w.members ≠ []) : exec .windestroy s = .next (s.reply 12 s.arg.p false) :=
  next_congr (State.command_denied (by simpa using h))

end

end Sys2Proof.Machine
end

section
/-! PROOFS of the statements of the management function: objects, instances and migration (R241, R340, R366, R387, R388). -/

namespace Sys2Proof.Machine

section
variable {s t u : State} {p : Nat}

/-! ### Objects (R241) -/

theorem State.Adds.core (h : s.Adds t) : t.core = s.core := by obtain ⟨l, rfl, -⟩ := h; rfl

theorem State.dropWft_core (s : State) (p : Nat) (dead : WftEnt → Bool) : (s.dropWft p dead).core = s.core := by
  let u := (s.modPart p (fun x => { x with wft := x.wft.filter (fun w => !dead w) })).wftUse p
  have hchanged := (u.prioChanged_adds p (((s.part p).wft.filter dead).map WftEnt.start) ((s.part p).wft.filter dead)).core
  have hu : u.core = s.core := rfl
  exact ite_keeps (P := fun t : State => t.core = s.core) rfl (hchanged.trans hu)

theorem State.devWrite_core {va : Nat} {bs : List Byte} (h : s.devWrite p va bs = some t) : t.core = s.core := by
  unfold State.devWrite at h
  split at h
  · cases h; rfl
  · split at h
    · split at h
      · cases h; exact s.memWrite_core ..
      · cases h
    · cases h

/-- The state in which the object of a handle has its reset value on its die, and no wait for it stands. -/
def State.freeObj (s : State) (p : Nat) (x : Part) (h : Nat) : State :=
  (s.modPart p (fun y => { y with objs := y.objs.filter (fun o => !o.isAt (x.objPlace h) h) })).dropWft p (fun w => w.name == h)

/-- The state in which the object of a handle has its reset value, in memory too. -/
def State.resetObj (s : State) (p : Nat) (x : Part) (h : Nat) : State :=
  if x.inMemory h then ((s.freeObj p x h).devWrite p (x.objVa h) (List.replicate 16 0)).getD (s.freeObj p x h) else s.freeObj p x h

theorem State.resetObj_writes (s : State) (p : Nat) (x : Part) (h : Nat) :
    (s.resetObj p x h).parts = (s.freeObj p x h).parts ∧ (s.resetObj p x h).core = (s.freeObj p x h).core := by
  refine ite_keeps (P := fun t : State => t.parts = (s.freeObj p x h).parts ∧ t.core = (s.freeObj p x h).core) ?_ ⟨rfl, rfl⟩
  cases hw : (s.freeObj p x h).devWrite p (x.objVa h) (List.replicate 16 0) with
  | none => exact ⟨rfl, rfl⟩
  | some t => exact ⟨(State.devWrite_parts hw).1, State.devWrite_core hw⟩

theorem State.freeObj_part (hp : s.hasPart p) (x : Part) (h : Nat) : (s.freeObj p x h).hasPart p ∧
    ((s.freeObj p x h).part p).objs = (s.part p).objs.filter (fun o => !o.isAt (x.objPlace h) h) ∧
    ((s.freeObj p x h).part p).wft = (s.part p).wft.filter (fun w => w.name != h) := by
  let f : Part → Part := fun y => { y with objs := y.objs.filter (fun o => !o.isAt (x.objPlace h) h) }
  have hhas : (s.modPart p f).hasPart p := (State.hasPart_modPart p _ (by exact fun _ => rfl)).mpr hp
  have hpart : (s.modPart p f).part p = f (s.part p) := hp.part_in f fun _ => rfl
  have hkeeps : (s.modPart p f).KeepsObjs p (s.freeObj p x h) := State.dropWft_keepsObjs ..
  obtain ⟨hwft, -⟩ := State.dropWft_wft hhas (fun w => w.name == h)
  have hfree : s.freeObj p x h = (s.modPart p f).dropWft p (fun w => w.name == h) := rfl
  refine ⟨hkeeps.parts.mpr hhas, by rw [hkeeps.objs, hpart], ?_⟩
  rw [hfree, hwft, hpart]
  rfl

theorem State.resetObj_part (hp : s.hasPart p) (x : Part) (h : Nat) : (s.resetObj p x h).hasPart p ∧
    ((s.resetObj p x h).part p).objs = (s.part p).objs.filter (fun o => !o.isAt (x.objPlace h) h) ∧
    ((s.resetObj p x h).part p).wft = (s.part p).wft.filter (fun w => w.name != h) := by
  obtain ⟨hhas, hobjs, hwft⟩ := State.freeObj_part hp x h
  obtain ⟨hparts, -⟩ := s.resetObj_writes p x h
  have hpart : (s.resetObj p x h).part p = (s.freeObj p x h).part p := by unfold State.part; rw [hparts]
  refine ⟨?_, by rw [hpart, hobjs], by rw [hpart, hwft]⟩
  unfold State.hasPart at hhas ⊢
  rwa [hparts]

theorem State.resetObj_core (s : State) (p : Nat) (x : Part) (h : Nat) : (s.resetObj p x h).core = s.core := by
  have hfree : (s.freeObj p x h).core = s.core := State.dropWft_core ..
  exact (s.resetObj_writes p x h).2.trans hfree

theorem State.resetObjs_core (p : Nat) (x : Part) (l : List Nat) (s : State) : (l.foldl (fun s h => s.resetObj p x h) s).core = s.core :=
  foldl_keeps (P := fun t : State => t.core = s.core) rfl fun t h ht => (t.resetObj_core p x h).trans ht

/-- Objects that are reset one after the other: none of them stands, nor a wait for one, and nothing is added. -/
theorem State.resetObjs_part (x : Part) (l : List Nat) : ∀ s : State, s.hasPart p → let t := l.foldl (fun s h => s.resetObj p x h) s
    (∀ o ∈ (t.part p).objs, o ∈ (s.part p).objs ∧ ∀ h ∈ l, o.isAt (x.objPlace h) h = false) ∧
    (∀ w ∈ (t.part p).wft, w ∈ (s.part p).wft ∧ ∀ h ∈ l, w.name ≠ h) := by
  induction l with
  | nil => exact fun s _ => ⟨fun o ho => ⟨ho, by simp⟩, fun w hw => ⟨hw, by simp⟩⟩
  | cons h l ih =>
    intro s hp
    obtain ⟨hhas, hobjs, hwft⟩ := State.resetObj_part hp x h
    obtain ⟨hlobjs, hlwft⟩ := ih (s.resetObj p x h) hhas
    refine ⟨fun o ho => ?_, fun w hw => ?_⟩
    · obtain ⟨hfirst, hrest⟩ := hlobjs o ho
      rw [hobjs] at hfirst
      obtain ⟨hold, hnot⟩ := List.mem_filter.mp hfirst
      exact ⟨hold, List.forall_mem_cons.mpr ⟨by simpa using hnot, hrest⟩⟩
    · obtain ⟨hfirst, hrest⟩ := hlwft w hw
      rw [hwft] at hfirst
      obtain ⟨hold, hnot⟩ := List.mem_filter.mp hfirst
      exact ⟨hold, List.forall_mem_cons.mpr ⟨by simpa using hnot, hrest⟩⟩

theorem exec_objreset_acts (hc : s.commandable s.arg.p = true) (hl : ∀ h ∈ s.arg.l, (s.part s.arg.p).handleOk h = true) : exec .objreset s =
    .next ((s.arg.l.foldl (fun t h => t.resetObj s.arg.p (s.part s.arg.p) h) s).reply 13 s.arg.p true) :=
  next_congr (State.command_acts (by simpa [hc] using hl))

theorem exec_objreset_denied (h : ∃ h ∈ s.arg.l, (s.part s.arg.p).handleOk h = false) : exec .objreset s = .next (s.reply 13 s.arg.p false) := by
  refine next_congr (State.command_denied ?_)
  obtain ⟨h, hl, hbad⟩ := h
  rw [List.all_eq_false.mpr ⟨h, hl, by simp [hbad]⟩, Bool.and_false]

/-! ### INSTCTL (R340) -/

theorem State.frozenInst_iff (hc : s.commandable s.arg.p = true) : s.frozenInst s.arg = true ↔
    (s.inst s.arg.p s.arg.id).stopped = true ∧ (s.inst s.arg.p s.arg.id).gen = s.arg.x := by
  simp [State.frozenInst, hc]

theorem exec_instctl_acts (h : s.frozenInst s.arg = true) :
    exec .instctlResume s = .next ((s.sched (s.now + 64) 0 .replayInject { p := s.arg.p, id := s.arg.id, x := s.arg.x }).reply 14 s.arg.p true) ∧
    exec .instctlKill s = .next ((s.sched s.now 0 .instanceKill { p := s.arg.p, id := s.arg.id, x := s.arg.x }).reply 14 s.arg.p true) :=
  ⟨next_congr (State.command_acts h), next_congr (State.command_acts h)⟩

theorem exec_instctl_denied (h : s.frozenInst s.arg = false) :
    exec .instctlResume s = .next (s.reply 14 s.arg.p false) ∧ exec .instctlKill s = .next (s.reply 14 s.arg.p false) :=
  ⟨next_congr (State.command_denied h), next_congr (State.command_denied h)⟩

/-! ### MIGSAVE (R387) -/

/-- May a partition's state be saved to a buffer of its host range? -/
def Part.saveable (x : Part) (a : Args) : Prop :=
  x.vf.state = .paused ∧ (∀ i ∈ x.insts, i.status = .saved ∨ i.status = .ended) ∧ x.wins = [] ∧ a.z = 1 ∧ x.migSize ≤ a.x ∧ a.y + a.x ≤ x.hostLen

/-- The migration state of a partition, for the buffer of n bytes at an offset of its host range. -/
def State.migOf (s : State) (p off n : Nat) : MigState :=
  let x := s.part p
  let mine (k : Nat) : Bool := x.regions.contains (k >>> 26) && decide (k < 2 ^ 45)
  let sram (k : Nat) : Bool := x.map.any (fun m => decide (sramKey (m.1 / 256) m.2.1 0 0 ≤ k) && decide (k < sramKey (m.1 / 256) m.2.1 64 0))
  { addr := 2 ^ 45 + x.hostBase + off, len := n, start := s.free, part := x, cells := s.mem.filter (fun c => mine c.1 || sram c.1),
    fe := s.fe.filter sram, helm := s.helmSaved.filter (fun z => z.p == p) }

/-- The state after a migration state has been written to its buffer. -/
def State.withMig (s : State) (m : MigState) : State :=
  let t := s.memWrite m.addr (freeBytes s.free m.len)
  { t with free := t.free + m.len, migs := t.migs.filter (fun n => n.addr != m.addr) ++ [m] }

theorem exec_migsave_acts (hc : s.commandable s.arg.p = true) (h : (s.part s.arg.p).saveable s.arg) :
    exec .migsave s = .next ((s.withMig (s.migOf s.arg.p s.arg.y s.arg.x)).reply 15 s.arg.p true) := by
  obtain ⟨hvf, hinsts, hwins, hz, hsize, hlen⟩ := h
  refine next_congr (State.command_acts ?_)
  simp only [hc, hvf, hwins, hz, hsize, hlen, Part.allSaved_iff.mpr hinsts]
  rfl

theorem exec_migsave_denied (h : ¬(s.part s.arg.p).saveable s.arg) : exec .migsave s = .next (s.reply 15 s.arg.p false) := by
  refine next_congr (State.command_denied (Bool.eq_false_iff.mpr fun hok => h ?_))
  simp only [Bool.and_eq_true, beq_iff_eq, decide_eq_true_eq, Part.allSaved_iff, List.isEmpty_iff] at hok
  obtain ⟨⟨⟨⟨⟨⟨-, hvf⟩, hinsts⟩, hwins⟩, hz⟩, hsize⟩, hlen⟩ := hok
  exact ⟨hvf, hinsts, hwins, hz, hsize, hlen⟩

theorem length_freeBytes (n : Nat) : ∀ k, (freeBytes k n).length = n := by
  induction n with
  | zero => exact fun _ => rfl
  | succ n ih => exact fun k => congrArg (· + 1) (ih (k + 1))

theorem State.withMig_accounts (s : State) (m : MigState) : (s.withMig m).parts = s.parts ∧ (s.withMig m).replies = s.replies ∧
    m ∈ (s.withMig m).migs ∧
    (Mem.wf s.mem = true → ∀ k, k < m.addr ∨ m.addr + m.len ≤ k → Mem.byte (s.withMig m).mem k = Mem.byte s.mem k) := by
  obtain ⟨-, -, hreplies, -⟩ := State.of_core (s.memWrite_core m.addr (freeBytes s.free m.len))
  refine ⟨s.memWrite_parts .., hreplies, by simp [State.withMig], fun hwf k hk => ?_⟩
  have hmem : (s.withMig m).mem = Mem.sets s.mem m.addr (freeBytes s.free m.len) := s.memWrite_mem ..
  rw [hmem, Mem.byte_sets_other hwf (by rwa [length_freeBytes])]

/-! ### MIGLOAD (R387, R388) -/

theorem exec_migload_found {m : MigState} (hc : s.commandable s.arg.p = true)
    (hm : s.migs.find? (fun m => m.addr == 2 ^ 45 + (s.part s.arg.p).hostBase + s.arg.y && m.len == s.arg.x) = some m) :
    (∀ u, s.loadMig s.arg.p m (pairs s.arg.l) = some u → exec .migload s = .next (u.reply 16 s.arg.p true)) ∧
    (s.loadMig s.arg.p m (pairs s.arg.l) = none → exec .migload s = .next (s.reply 16 s.arg.p false)) := by
  change (∀ u, _ → execMigload s = _) ∧ (_ → execMigload s = _)
  unfold execMigload
  dsimp only
  rw [hm]
  dsimp only
  rw [if_pos hc]
  exact ⟨fun u h => by rw [h], fun h => by rw [h]⟩

theorem exec_migload_unknown (h : ∀ m ∈ s.migs, ¬(m.addr = 2 ^ 45 + (s.part s.arg.p).hostBase + s.arg.y ∧ m.len = s.arg.x)) :
    exec .migload s = .next (s.reply 16 s.arg.p false) := by
  have hnone : s.migs.find? (fun m => m.addr == 2 ^ 45 + (s.part s.arg.p).hostBase + s.arg.y && m.len == s.arg.x) = none :=
    List.find?_eq_none.mpr fun m hm => by simpa using h m hm
  change execMigload s = _
  unfold execMigload
  dsimp only
  rw [hnone]

/-- An update turns only on what it makes of the partition's own record. -/
theorem State.modPart_congr {f g : Part → Part} (h : ∀ x, x.num = p → f x = g x) : s.modPart p f = s.modPart p g := by
  have hparts : s.parts.map (fun x => if x.num == p then f x else x) = s.parts.map (fun x => if x.num == p then g x else x) :=
    List.map_congr_left fun x _ => by
      by_cases hx : x.num = p
      · simp [hx, h x hx]
      · simp [hx]
  unfold State.modPart
  rw [hparts]

/-- A partition's record that is replaced whole. -/
theorem State.hasPart.part_replaced (hp : s.hasPart p) {y : Part} (hy : y.num = p) : (s.modPart p (fun _ => y)).part p = { y with num := (s.part p).num } := by
  have hsame : s.modPart p (fun _ => y) = s.modPart p (fun x => { y with num := x.num }) := State.modPart_congr fun x hx => by rw [hx, ← hy]
  rw [hsame, hp.part_in (fun x => { y with num := x.num }) fun _ => rfl]

/-- A load: nothing was there, the buffer holds what was written, and the partition takes the recorded state with its own resources. -/
theorem State.loadMig_some {m : MigState} {l : List (Nat × Nat)} (h : s.loadMig p m l = some u) :
    (s.part p).insts = [] ∧ Mem.bytes s.mem m.addr m.len = freeBytes m.start m.len ∧
    ∃ (v : State) (y : Part) (hit : PlaitEnt → Bool), u = (v.modPart p (fun _ => y)).plaiterMark hit ∧ v.parts = s.parts ∧
      v.helmSaved = s.helmSaved.filter (fun z => z.p != p) ++ m.helm.map (fun z => { z with p := p }) ∧
      y.num = p ∧ y.insts = m.part.insts ∧ y.vf.state = .paused ∧ y.map = (s.part p).map ∧ y.regions = (s.part p).regions ∧ y.key = (s.part p).key := by
  unfold State.loadMig at h
  dsimp only at h
  split at h
  case isTrue => cases h
  case isFalse hok =>
    simp only [Bool.or_eq_true, Bool.not_eq_true', bne_iff_ne, ne_eq, not_or, Bool.not_eq_false, List.isEmpty_iff, not_not] at hok
    obtain ⟨⟨-, hinsts⟩, hbytes⟩ := hok
    refine ⟨hinsts, hbytes, ?_⟩
    split at h
    · cases h
    · split at h
      · cases h
      · cases h
        exact ⟨_, _, _, rfl, rfl, rfl, rfl, rfl, rfl, rfl, rfl, rfl⟩

/-- What the loaded partition has, where it exists. -/
theorem State.loadMig_part {m : MigState} {l : List (Nat × Nat)} (h : s.loadMig p m l = some u) (hp : s.hasPart p) :
    (u.part p).insts = m.part.insts ∧ (u.part p).vf.state = .paused ∧ (u.part p).map = (s.part p).map ∧
    (u.part p).regions = (s.part p).regions ∧ (u.part p).key = (s.part p).key := by
  obtain ⟨-, -, v, y, hit, rfl, hv, -, hnum, hinsts, hvf, hmap, hregions, hkey⟩ := State.loadMig_some h
  have hvp : v.hasPart p := by unfold State.hasPart; rwa [hv]
  have hparts := ((v.modPart p (fun _ => y)).plaiterMark_accounts hit).parts
  have hpart : ((v.modPart p (fun _ => y)).plaiterMark hit).part p = { y with num := (v.part p).num } := by
    rw [← hvp.part_replaced hnum]
    unfold State.part
    rw [hparts]
  rw [hpart]
  exact ⟨hinsts, hvf, hmap, hregions, hkey⟩

theorem State.loadMig_helm {m : MigState} {l : List (Nat × Nat)} (h : s.loadMig p m l = some u) : ∀ z ∈ m.helm, { z with p := p } ∈ u.helmSaved := by
  obtain ⟨-, -, v, y, hit, rfl, -, hsaved, -⟩ := State.loadMig_some h
  obtain ⟨-, -, -, hmark, -⟩ := State.of_core ((v.modPart p (fun _ => y)).plaiterMark_accounts hit).core
  intro z hz
  have hv : (v.modPart p (fun _ => y)).helmSaved = v.helmSaved := rfl
  rw [hmark, hv, hsaved]
  exact List.mem_append_right _ (List.mem_map_of_mem hz)

end

end Sys2Proof.Machine
end

section
/-! PROOFS of the statements of the management function: its commands (R366 to R371, R373, R381, R382, R386 to R388). -/

namespace Sys2Proof.Machine

section
variable {s t : State} {c : Prop} [Decidable c]

/-- A GRANT whose kind has a condition to meet. -/
theorem exec_grant_ite (hc : s.commandable s.arg.p = true) (hk : s.grantKind s.arg = if c then some t else none) :
    (c → exec .grant s = .next (t.reply 3 s.arg.p true)) ∧ (¬c → exec .grant s = .next (s.reply 3 s.arg.p false)) :=
  ⟨fun h => exec_grant_acts hc (hk.trans (if_pos h)), fun h => exec_grant_denied hc (hk.trans (if_neg h))⟩

/-- A GRANT whose kind has a condition to avoid. -/
theorem exec_grant_unless (hc : s.commandable s.arg.p = true) (hk : s.grantKind s.arg = if c then none else some t) :
    (¬c → exec .grant s = .next (t.reply 3 s.arg.p true)) ∧ (c → exec .grant s = .next (s.reply 3 s.arg.p false)) :=
  ⟨fun h => exec_grant_acts hc (hk.trans (if_neg h)), fun h => exec_grant_denied hc (hk.trans (if_pos h))⟩

/-- A RECLAIM whose kind has a condition to meet. -/
theorem exec_reclaim_ite (hc : s.commandable s.arg.p = true) (hk : s.reclaimKind s.arg = if c then some t else none) :
    (c → exec .reclaim s = .next (t.reply 4 s.arg.p true)) ∧ (¬c → exec .reclaim s = .next (s.reply 4 s.arg.p false)) :=
  ⟨fun h => exec_reclaim_acts hc (hk.trans (if_pos h)), fun h => exec_reclaim_denied hc (hk.trans (if_neg h))⟩

end

section
variable {s : State}

theorem exec_grant_noPages (hc : s.commandable s.arg.p = true) (hz : s.arg.z = 0) (hl : s.arg.l = []) :
    exec .grant s = .next ((s.kick s.arg.p).reply 3 s.arg.p true) :=
  exec_grant_acts hc (by rw [State.grantKind_pages hz, hl]; rfl)

theorem State.grantKind_page {pg phys : Nat} (hz : s.arg.z = 0) (hl : s.arg.l = [pg, phys]) : s.grantKind s.arg =
    if s.pageOk s.arg.p pg phys = true then some ((s.mapPage s.arg.p pg phys).kick s.arg.p) else none := by
  have hone : s.mapPages s.arg.p [(pg, phys)] = if s.pageOk s.arg.p pg phys = true then some (s.mapPage s.arg.p pg phys) else none := rfl
  have hpairs : pairs [pg, phys] = [(pg, phys)] := rfl
  rw [State.grantKind_pages hz, hl, hpairs, hone]
  split <;> rfl

/-- The Helm context of a partition on a die is taken, where no slot holds it. -/
theorem State.helmTaken_context {p : Nat} (hp : s.hasPart p) (die : Nat) : (s.helmTaken p die).mem = s.mem ∧
    (∀ l ∈ (s.helmTaken p die).helmLine, ¬(l.1 = die ∧ l.2.1 = p)) ∧
    ((s.helmTaken p die).part p).helmDies = (s.part p).helmDies.filter (· != die) := by
  have hpart := hp.part_in (fun x => { x with helmDies := x.helmDies.filter (· != die) }) fun _ => rfl
  have hhere : (s.helmTaken p die).part p = { s.part p with helmDies := (s.part p).helmDies.filter (· != die) } := hpart
  refine ⟨rfl, fun l hl => ?_, by rw [hhere]⟩
  obtain ⟨-, hnot⟩ := List.mem_filter.mp hl
  simpa [imp_iff_not_or] using hnot

end

/-- Settles O55, command by command: each of them acts or is denied by the conditions of its rule. -/
theorem managementCommands : Obligations.ManagementCommands := by
  unfold Obligations.ManagementCommands
  refine ⟨?functions, ?completions⟩
  case functions =>
    intro s
    refine ⟨fun hmay => exec_denied (Bool.eq_false_iff.mpr fun hc => hmay (State.commandable_iff.mp hc)), exec_create_denied,
      exec_create_acts, exec_destroy_denied, exec_destroy_acts, fun hmay => ?commands, exec_vfstatePaused_ends, fun hz => ?looks⟩
    case commands =>
      have hc : s.commandable s.arg.p = true := State.commandable_iff.mpr hmay
      refine ⟨exec_grant_noPages hc, ?page, ?region, ?engine, ?helm, ?share, ?wft, ?host, ?root, ?takePages, ?keepPages, ?takeRegions, ?keepRegions,
        ?takeEngine, ?noHelm, ?takeHelm, ?takeShare, ?takeWft, ?takeHost, exec_setmin hc, exec_vfstateRunning hc, ?frees, exec_vfstateDescheduled hc,
        exec_vfstateDescheduled_paused, exec_vfstatePaused_denied, fun hz h => exec_vfstatePaused_empty hz hc h⟩
      case page =>
        intro pg phys hz hl
        obtain ⟨hacts, hdenied⟩ := exec_grant_ite hc (State.grantKind_page hz hl)
        exact ⟨hacts, fun h => hdenied (by simp [h])⟩
      case region =>
        intro r hz hl
        obtain ⟨hacts, hdenied⟩ := exec_grant_ite hc (State.grantKind_region hz hl)
        exact ⟨fun hok hfree => hacts ⟨hok, hfree⟩, fun h => hdenied fun ⟨hok, hfree⟩ => by simp [hok, hfree] at h⟩
      case engine =>
        intro hz
        obtain ⟨hacts, hdenied⟩ := exec_grant_unless hc (State.grantKind_engine hz)
        exact ⟨fun hx hy hnew hn => hacts fun h => h.elim (by omega) fun h => h.elim (by omega) fun h => h.elim hnew (Nat.not_le_of_lt hn), hdenied⟩
      case helm =>
        intro hz
        obtain ⟨hacts, hdenied⟩ := exec_grant_unless hc (State.grantKind_helm hz)
        exact ⟨fun hx hnew hn => hacts fun h => h.elim (by omega) fun h => h.elim hnew (Nat.not_le_of_lt hn), hdenied⟩
      case share =>
        intro hz
        obtain ⟨hacts, hdenied⟩ := exec_grant_unless hc (State.grantKind_share hz)
        exact ⟨fun h => hacts (Nat.not_lt_of_le h), hdenied⟩
      case wft =>
        intro hz
        obtain ⟨hacts, hdenied⟩ := exec_grant_unless hc (State.grantKind_wft hz)
        exact ⟨fun hx h => hacts fun h' => h'.elim (by omega) (Nat.not_lt_of_le h), hdenied⟩
      case host => exact fun hz h => (exec_grant_unless hc (State.grantKind_host hz)).1 (Nat.not_lt_of_le h)
      case root => exact fun hz => exec_grant_acts hc (State.grantKind_root hz)
      case takePages => exact fun hz h hx => (exec_reclaim_ite hc (State.reclaimKind_pages hz)).1 ⟨h, hx⟩
      case keepPages =>
        exact fun hz h => (exec_reclaim_ite hc (State.reclaimKind_pages hz)).2 fun ⟨hall, hx⟩ =>
          h.elim (fun ⟨pg, hpg, hnone⟩ => hall pg hpg hnone) (Nat.not_lt_of_le hx)
      case takeRegions => exact fun hz h => (exec_reclaim_ite hc (State.reclaimKind_regions hz)).1 h
      case keepRegions =>
        exact fun hz ⟨r, hr, hnot⟩ => (exec_reclaim_ite hc (State.reclaimKind_regions hz)).2 fun hall => hnot (hall r hr)
      case takeEngine => exact fun hz => exec_reclaim_ite hc (State.reclaimKind_engine hz)
      case noHelm => exact fun hz hx => exec_reclaim_denied hc (State.reclaimKind_noHelm hz hx)
      case takeHelm =>
        exact fun hz hx hs => ⟨_, exec_reclaim_acts hc (State.reclaimKind_helm hz hx hs), State.helmTaken_context (State.commandable_hasPart hc) _⟩
      case takeShare => exact fun hz h => exec_reclaim_acts hc ((State.reclaimKind_share hz).trans (if_neg (Nat.not_lt_of_le h)))
      case takeWft => exact fun hz h => exec_reclaim_acts hc ((State.reclaimKind_wft hz).trans (if_neg (Nat.not_lt_of_le h)))
      case takeHost => exact fun hz => exec_reclaim_acts hc (State.reclaimKind_host hz)
      case frees =>
        intro h hcopies hsaving hq
        obtain ⟨u, hexec, hmem, hrun, helig⟩ := exec_vfstateRunning_frees hc h hcopies hsaving hq
        exact ⟨_, u, hexec, rfl, hmem, hrun, helig⟩
    case looks =>
      obtain ⟨hrun, hdone, hnot⟩ := exec_vfstatePaused_looks hz
      refine ⟨hrun, fun h hinsts hposted hcopying hslots => hdone h (State.pauseDone_iff.mpr ⟨hinsts, hposted, hslots, hcopying⟩), fun h hwork =>
        hnot h (Bool.eq_false_iff.mpr fun hd => ?_)⟩
      obtain ⟨hinsts, hposted, hslots, hcopying⟩ := State.pauseDone_iff.mp hd
      obtain ⟨i, hi, hsaved, hended⟩ | hwork | hwork | ⟨z, hz', hzp⟩ := hwork
      · exact (hinsts i hi).elim hsaved hended
      · exact hwork hposted
      · exact absurd (hcopying.symm.trans hwork) (by decide)
      · exact hslots z hz' hzp
  case completions =>
    intro s
    refine ⟨?create, fun hmay => ?attach, fun hmay hz hm => ?detach, ?destroy, fun hmay hl => ?objects, ?resume, ?kill,
      fun hmay hvf hinsts hwins hz hsize hlen => ?save, fun m u hmay hm hload => ?load⟩
    case create =>
      intro hon hx hnew hl hdups hok
      obtain ⟨hparts, hwindows, hkey, hreplies⟩ := s.withWindow_accounts s.arg.x s.arg.l
      exact ⟨_, exec_wincreate_acts hon hx hnew hl hdups hok, congrArg (· ++ [_]) hreplies, hparts, hkey, hwindows⟩
    case attach =>
      have hc : s.commandable s.arg.p = true := State.commandable_iff.mpr hmay
      exact fun hy hnew hw => ⟨_, exec_winattach_acts hc hy hnew hw, rfl, State.attached_member (State.commandable_hasPart hc) hnew⟩
    case detach =>
      have hc : s.commandable s.arg.p = true := State.commandable_iff.mpr hmay
      obtain ⟨hbusy, hidle⟩ := exec_windetach_acts hz hc hm
      have hgone := State.unwindowed_wins (State.commandable_hasPart hc) s.arg.x
      cases hb : s.windowBusy s.arg.p s.arg.x with
      | true => exact ⟨_, hbusy hb, hgone, fun h => absurd h (by decide)⟩
      | false => exact ⟨_, hidle hb, hgone, fun _ => rfl⟩
    case destroy =>
      exact fun h => ⟨_, exec_windestroy_acts h, rfl, fun w hw => by simpa using (List.mem_filter.mp hw).2⟩
    case objects =>
      have hc : s.commandable s.arg.p = true := State.commandable_iff.mpr hmay
      obtain ⟨hobjs, hwft⟩ := State.resetObjs_part (s.part s.arg.p) s.arg.l s (State.commandable_hasPart hc)
      obtain ⟨-, -, hreplies, -⟩ := State.of_core (State.resetObjs_core s.arg.p (s.part s.arg.p) s.arg.l s)
      exact ⟨_, exec_objreset_acts hc hl, congrArg (· ++ [_]) hreplies, fun h hh o ho => (hobjs o ho).2 h hh, fun h hh w hw => (hwft w hw).2 h hh⟩
    case resume =>
      rintro ⟨hmay, hinst⟩
      have hc : s.commandable s.arg.p = true := State.commandable_iff.mpr hmay
      exact ⟨_, (exec_instctl_acts ((State.frozenInst_iff hc).mpr hinst)).1, rfl, State.mem_sched ..⟩
    case kill =>
      rintro ⟨hmay, hinst⟩
      have hc : s.commandable s.arg.p = true := State.commandable_iff.mpr hmay
      exact ⟨_, (exec_instctl_acts ((State.frozenInst_iff hc).mpr hinst)).2, rfl, State.mem_sched ..⟩
    case save =>
      have hc : s.commandable s.arg.p = true := State.commandable_iff.mpr hmay
      obtain ⟨hparts, hreplies, hmem, -⟩ := s.withMig_accounts (s.migOf s.arg.p s.arg.y s.arg.x)
      exact ⟨_, exec_migsave_acts hc ⟨hvf, hinsts, hwins, hz, hsize, hlen⟩, congrArg (· ++ [_]) hreplies, hparts, _, hmem, rfl, rfl, rfl⟩
    case load =>
      have hc : s.commandable s.arg.p = true := State.commandable_iff.mpr hmay
      obtain ⟨hinsts, hvf, -⟩ := State.loadMig_part hload (State.commandable_hasPart hc)
      exact ⟨_, (exec_migload_found hc hm).1 u hload, rfl, hinsts, hvf⟩

/-- Settles O56, command by command; a buffer that holds what was written loads, and no other does. -/
theorem windowsAndMigration : Obligations.WindowsAndMigration := by
  unfold Obligations.WindowsAndMigration
  intro s
  refine ⟨fun r hl => ⟨?create, exec_wincreate_denied hl⟩, exec_wincreate_nil, fun hmay => exec_winattach_acts (State.commandable_iff.mpr hmay),
    exec_winattach_denied, exec_windetach_looks, fun hz => ⟨?keep, fun hmay hm => ?detach⟩, ?destroy, exec_windestroy_denied,
    fun hmay => ⟨?objects, exec_objreset_denied, ?instances, ?save, fun m hm => exec_migload_found (State.commandable_iff.mpr hmay) hm,
      exec_migload_unknown⟩, fun m l u h => ?load⟩
  case create =>
    intro hon hx hnew hok hfree
    have hone : ∀ r' ∈ s.arg.l, s.regionOk r' = true ∧ s.regionFree r' = true ∧ r' / 2048 = s.arg.l.headD 0 / 2048 := by
      rw [hl]
      exact List.forall_mem_singleton.mpr ⟨hok, hfree, rfl⟩
    have hdups : s.arg.l.eraseDups = s.arg.l := by rw [hl]; rfl
    obtain ⟨hparts, hwindows, hkey, -⟩ := s.withWindow_accounts s.arg.x s.arg.l
    obtain ⟨-, -, -, -, hmem⟩ := s.zeroRegion_accounts r
    have hcleared : (s.withWindow s.arg.x s.arg.l).mem = Mem.clear s.mem (r * 2 ^ 26) (2 ^ 26) := by rw [hl]; exact hmem
    have hwindow : (s.withWindow s.arg.x s.arg.l).windows = s.windows ++ [{ n := s.arg.x, die := r / 2048, regions := [r], key := s.nextKey }] := by
      rw [hwindows, hl]
      rfl
    exact ⟨_, exec_wincreate_acts hon hx hnew (by simp [hl]) hdups hone, hwindow, hkey, hcleared, hparts⟩
  case keep =>
    exact fun h => exec_windetach_denied hz (h.imp_left fun hmay => Bool.eq_false_iff.mpr fun hc => hmay (State.commandable_iff.mp hc))
  case detach => exact (exec_windetach_acts hz (State.commandable_iff.mpr hmay) hm).symm
  case destroy => exact fun h => ⟨_, exec_windestroy_acts h, rfl, rfl, rfl⟩
  case objects =>
    intro h hl hok hp
    have hc : s.commandable s.arg.p = true := State.commandable_iff.mpr hmay
    have hacts := exec_objreset_acts hc (by rw [hl]; exact List.forall_mem_singleton.mpr hok)
    rw [hl] at hacts
    obtain ⟨-, -, hwft⟩ := State.freeObj_part hp (s.part s.arg.p) h
    refine ⟨hwft, fun hm => hacts.trans (next_congr ?_), fun hm => hacts.trans (next_congr ?_)⟩
    · exact congrArg (fun t => State.reply t 13 s.arg.p true) (if_neg (by rw [hm]; decide))
    · exact congrArg (fun t => State.reply t 13 s.arg.p true) (if_pos hm)
  case instances =>
    have hiff := State.frozenInst_iff (State.commandable_iff.mpr hmay)
    exact ⟨fun h => exec_instctl_acts (hiff.mpr h), fun h => exec_instctl_denied (Bool.eq_false_iff.mpr fun hf => h (hiff.mp hf))⟩
  case save =>
    refine ⟨exec_migsave_denied, fun h => ?_⟩
    obtain ⟨hparts, -, hmem, hbytes⟩ := s.withMig_accounts (s.migOf s.arg.p s.arg.y s.arg.x)
    exact ⟨_, _, exec_migsave_acts (State.commandable_iff.mpr hmay) h, hmem, rfl, rfl, rfl, rfl, hparts, hbytes⟩
  case load =>
    obtain ⟨hinsts, hbytes, -⟩ := State.loadMig_some h
    exact ⟨hinsts, hbytes, State.loadMig_part h, State.loadMig_helm h⟩

end Sys2Proof.Machine
end

section
/-! PROOFS of the statements of matrix islands: the conversion islands, their images and their ports (R277 to R280). -/

namespace Sys2Proof.Machine

/-! ### The islands of a page (R185, R277) -/

section
variable {s t : State} {p pg k id fid n : Nat}

/-- A page with a firing exists. -/
theorem State.hasPage_of_fire {f : Fire} (h : (s.page p pg).fire? fid = some f) : s.hasPage p pg :=
  State.hasPage_of_ne fun e => by rw [e] at h; cases h

/-- An island is in its page. -/
theorem cnvIsl_of_cnv (h : (t.page p pg).cnv = (s.page p pg).cnv) (k : Nat) : t.cnvIsl p pg k = s.cnvIsl p pg k := by
  unfold State.cnvIsl
  rw [h]

/-- An update of a firing leaves the islands. -/
theorem State.modFire_cnv (s : State) (q qg n : Nat) (g : Fire → Fire) : ((s.modFire q qg n g).page p pg).cnv = (s.page p pg).cnv :=
  page_modPage Page.cnv s q qg p pg _ (fun _ => rfl) fun _ => rfl

/-- An update of an island leaves the claim, and gives the new island. -/
theorem State.modCnv_owner (s : State) (k : Nat) (g : CnvIsl → CnvIsl) : ((s.modCnv p pg k g).page p pg).cnv.owner = (s.page p pg).cnv.owner :=
  page_modPage (fun y => y.cnv.owner) s p pg p pg _ (fun _ => rfl) fun _ => rfl

theorem cnvIsl_in (hp : s.hasPage p pg) (hk : k < (s.page p pg).cnv.isl.length) (g : CnvIsl → CnvIsl) :
    (s.modCnv p pg k g).cnvIsl p pg k = g (s.cnvIsl p pg k) := by
  unfold State.modCnv State.cnvIsl
  rw [hp.page_in]
  · simp [hk]
  · exact fun _ => rfl

/-- The random word of a conversion depends on the instances alone. -/
theorem State.modPage_cnvWord (s : State) (q qg : Nat) (g : Page → Page) (strand slot : Nat) (tag : Tag) :
    (s.modPage q qg g).cnvWord p id strand slot tag = s.cnvWord p id strand slot tag := by
  unfold State.cnvWord State.inst
  rw [State.modPage_inst]

/-- Pending rows leave the islands. -/
theorem State.Adds.cnvIsl (h : s.Adds t) (p pg k : Nat) : t.cnvIsl p pg k = s.cnvIsl p pg k := cnvIsl_of_cnv (by rw [h.page]) k

/-! ### A value that enters an island (R279, R280) -/

/-- The state whose islands an instance claims, where none did. -/
def State.claimCnv (s : State) (p pg id : Nat) : State :=
  if (s.page p pg).cnv.owner.isNone then s.modPage p pg (fun y => { y with cnv := { y.cnv with owner := some id } }) else s

/-- May an instance use the islands of a page: does no other claim them? -/
def State.mayConvert (s : State) (p pg id : Nat) : Prop := (s.page p pg).cnv.owner = none ∨ (s.page p pg).cnv.owner = some id

theorem State.mayConvert_iff : (((s.page p pg).cnv.owner.isNone || (s.page p pg).cnv.owner == some id) = true) ↔ s.mayConvert p pg id := by
  unfold State.mayConvert
  simp

/-- Claiming changes nothing but the claim. -/
theorem State.claimCnv_owner (hp : s.hasPage p pg) (h : s.mayConvert p pg id) : ((s.claimCnv p pg id).page p pg).cnv.owner = some id := by
  unfold State.claimCnv
  obtain h | h := h
  · rw [if_pos (by rw [h]; rfl), hp.page_in]
    exact fun _ => rfl
  · rw [if_neg (by simp [h]), h]

theorem State.claimCnv_cases (s : State) (p pg id : Nat) : s.claimCnv p pg id = s ∨
    s.claimCnv p pg id = s.modPage p pg (fun y => { y with cnv := { y.cnv with owner := some id } }) := by
  unfold State.claimCnv
  split
  · exact .inr rfl
  · exact .inl rfl

theorem State.claimCnv_cnvIsl (s : State) (p pg id k : Nat) : (s.claimCnv p pg id).cnvIsl p pg k = s.cnvIsl p pg k := by
  obtain h | h := s.claimCnv_cases p pg id <;> rw [h]
  exact page_modPage (fun y => (y.cnv.isl[k]?).getD {}) s p pg p pg _ (fun _ => rfl) fun _ => rfl

theorem State.claimCnv_cnvWord (s : State) (p pg id strand slot : Nat) (tag : Tag) :
    (s.claimCnv p pg id).cnvWord p id strand slot tag = s.cnvWord p id strand slot tag := by
  obtain h | h := s.claimCnv_cases p pg id <;> rw [h]
  exact s.modPage_cnvWord ..

theorem State.claimCnv_grows (s : State) (p pg id : Nat) : s.Grows (s.claimCnv p pg id) := by
  obtain h | h := s.claimCnv_cases p pg id <;> rw [h]
  · exact .refl s
  · exact State.modPart_grows ..

/-- The state in which a value has entered an island, whose flops have moved on. -/
def State.entersCnv (s : State) (p pg id k : Nat) (flops : List Bool) : State :=
  (s.claimCnv p pg id).modCnv p pg k (fun z => { z with flops := flops, lastIn := s.now })

/-- An instance that may use an island converts there; a result without an event of its own carries the operand's poison, if any (R82, R280). -/
theorem State.convertAt_enters {strand path tile slot gen : Nat} {tag : Tag} {l : Word} {o : Option (BitVec 11)} {r : Nat × Nat × List Bool}
    (hp : s.hasPage p pg) (hmay : s.mayConvert p pg id) (hr : (s.cnvIsl p pg k).run path l.toNat (s.cnvWord p id strand slot tag) = r)
    (hquiet : o = none → r.2.1 = 0) :
    s.convertAt p pg id strand k path tile slot tag gen true l o = (s.entersCnv p pg id k r.2.2, withPoison (tokV (word r.1)) o) := by
  have hclaim : (if (true && (s.page p pg).cnv.owner.isNone) = true then
      s.modPage p pg (fun y => { y with cnv := { y.cnv with owner := some id } }) else s) = s.claimCnv p pg id := rfl
  unfold State.convertAt
  rw [hclaim]
  simp only [State.claimCnv_owner hp hmay, beq_self_eq_true, if_true, s.claimCnv_cnvIsl, s.claimCnv_cnvWord, hr, (s.claimCnv_grows p pg id).now]
  cases o with
  | some o => rfl
  | none =>
    rw [if_pos (hquiet rfl)]
    rfl

/-! ### CNV (R280) -/

/-- What a CNV's firing keeps of its activation. -/
def Act.keepCnv (a : Act) (f : Fire) : Fire := { f with phase := .engine, blk := a.blk, gen := a.gen }

/-- The row that takes a CNV up again after a load, and the one in which its result comes out. -/
def cnvArgs (p pg : Nat) (f : Fire) (z : Nat) (tok : Token) : Args := { p := p, pg := pg, id := f.id, fid := f.fid, tag := f.tag, z := z, tok := tok }

section
variable {f : Fire} {path : Nat} {r : Nat × Nat × List Bool} (hf : (s.page p pg).fire? fid = some f)
  (hk : bits (xF f.word).toNat 2 2 = k) (hn : bits (xF f.word).toNat 1 0 = path) (hmay : s.mayConvert p pg f.id)
include hf hk hmay

/-- A CNV at an island that loads waits for it. -/
theorem State.cnvTake_waits (hbusy : (s.cnvIsl p pg k).busy = true) :
    s.cnvTake p pg fid = s.modCnv p pg k (fun z => { z with waits := z.waits ++ [(.cnvPortInput, cnvArgs p pg f 1 {})] }) := by
  unfold State.cnvTake
  rw [hf]
  simp only [hk, hbusy, State.mayConvert_iff.mpr hmay, Bool.and_true, if_true, ← fire_fid hf]
  rfl

include hn in
/-- At any other island its value enters, and comes out 10 fclk later. -/
theorem State.cnvTake_enters (hidle : (s.cnvIsl p pg k).busy = false)
    (hr : (s.cnvIsl p pg k).run path (valOf (f.l.map Arr.tok)).toNat (s.cnvWord p f.id f.strand f.tile f.tag) = r)
    (hquiet : (curOf p pg f).firstOrigin = none → r.2.1 = 0) :
    s.cnvTake p pg fid = ((s.entersCnv p pg f.id k r.2.2).modFire p pg fid (fun f => { f with acted := true })).sched
      (s.now + 10) (srcOf pg f.tile) .cnvPortInput (cnvArgs p pg f 2 (withPoison (tokV (word r.1)) (curOf p pg f).firstOrigin)) := by
  have hgo : ¬(((s.page p pg).cnv.owner.isNone || (s.page p pg).cnv.owner == some f.id) && (s.cnvIsl p pg k).busy) = true := by simp [hidle]
  unfold State.cnvTake
  rw [hf]
  dsimp only
  rw [hk, hn, if_neg hgo, State.convertAt_enters (State.hasPage_of_fire hf) hmay hr hquiet, cnvArgs, fire_fid hf]

end

/-- A CNV that runs takes its operand. -/
def State.cnvFires (s : State) : State := s.modFire s.cur.p s.cur.pg s.cur.fid s.curAct.keepCnv

theorem exec_cnv_run {pr : BitVec 2} (hv : s.cur.verdict pr = .run) (path : BitVec 3) (t1 t0 : Target) :
    exec (.cnv pr path t1 t0) s = .next (s.cnvFires.cnvTake s.cur.p s.cur.pg s.cur.fid) :=
  congrArg Host.Outcome.next (frame_run s pr 10 t1 t0 _ hv)

theorem State.cnvFires_cnv (s : State) : (s.cnvFires.page p pg).cnv = (s.page p pg).cnv := s.modFire_cnv ..

section
variable {f : Fire} {pr : BitVec 2} {path : Nat} {r : Nat × Nat × List Bool} (hf : (s.page s.cur.p s.cur.pg).fire? s.cur.fid = some f)
  (hv : s.cur.verdict pr = .run) (hc : s.cur = curOf s.cur.p s.cur.pg f)
  (hk : bits (xF f.word).toNat 2 2 = k) (hn : bits (xF f.word).toNat 1 0 = path) (hmay : s.mayConvert s.cur.p s.cur.pg f.id)

include hf in
theorem State.cnvFires_fire : (s.cnvFires.page s.cur.p s.cur.pg).fire? s.cur.fid = some (s.curAct.keepCnv f) := 
  fire_in s s.cur.p s.cur.pg s.cur.fid s.curAct.keepCnv (fun _ => rfl) f hf

include hmay in
theorem State.cnvFires_mayConvert : s.cnvFires.mayConvert s.cur.p s.cur.pg (s.curAct.keepCnv f).id := by
  unfold State.mayConvert
  rw [s.cnvFires_cnv]
  exact hmay

include hf hv hk hmay

/-- At an island that loads, a CNV that runs waits. -/
theorem exec_cnv_waits (hbusy : (s.cnvIsl s.cur.p s.cur.pg k).busy = true) (path : BitVec 3) (t1 t0 : Target) :
    exec (.cnv pr path t1 t0) s = .next (s.cnvFires.modCnv s.cur.p s.cur.pg k (fun z => { z with
      waits := z.waits ++ [(.cnvPortInput, cnvArgs s.cur.p s.cur.pg f 1 {})] })) := by
  rw [exec_cnv_run hv, State.cnvTake_waits (State.cnvFires_fire hf) hk (State.cnvFires_mayConvert hmay) (by rwa [cnvIsl_of_cnv s.cnvFires_cnv])]
  rfl

include hc hn in
/-- At any other, its instance claims the islands, and its result comes out 10 fclk later. -/
theorem exec_cnv_enters (hidle : (s.cnvIsl s.cur.p s.cur.pg k).busy = false)
    (hr : (s.cnvIsl s.cur.p s.cur.pg k).run path s.lv.toNat (s.cnvWord s.cur.p f.id f.strand f.tile f.tag) = r)
    (hquiet : s.cur.firstOrigin = none → r.2.1 = 0) (x : BitVec 3) (t1 t0 : Target) :
    ∃ t, exec (.cnv pr x t1 t0) s = .next t ∧ (t.page s.cur.p s.cur.pg).cnv.owner = some f.id ∧ t.mem = s.mem ∧
      ⟨s.now + 10, 0, srcOf s.cur.pg f.tile, .row .cnvPortInput
        (cnvArgs s.cur.p s.cur.pg f 2 (withPoison (tokV (word r.1)) s.cur.firstOrigin))⟩ ∈ t.agenda := by
  have hl : s.lv = valOf (f.l.map Arr.tok) := by have := congrArg (fun c : Cur => valOf c.l) hc; exact this
  have ho : s.cur.firstOrigin = (curOf s.cur.p s.cur.pg f).firstOrigin := congrArg Cur.firstOrigin hc
  have hp : s.cnvFires.hasPage s.cur.p s.cur.pg := State.hasPage_of_fire (State.cnvFires_fire hf)
  have hmay' := State.cnvFires_mayConvert hmay
  have hisl : s.cnvFires.cnvIsl s.cur.p s.cur.pg k = s.cnvIsl s.cur.p s.cur.pg k := cnvIsl_of_cnv s.cnvFires_cnv k
  have hword : s.cnvFires.cnvWord s.cur.p f.id f.strand f.tile f.tag = s.cnvWord s.cur.p f.id f.strand f.tile f.tag := s.modPage_cnvWord ..
  have hr' : (s.cnvFires.cnvIsl s.cur.p s.cur.pg k).run path (valOf (f.l.map Arr.tok)).toNat
      (s.cnvFires.cnvWord s.cur.p f.id f.strand f.tile f.tag) = r := by
    rw [hisl, hword, ← hl]
    exact hr
  have htake : s.cnvFires.cnvTake s.cur.p s.cur.pg s.cur.fid = _ :=
    State.cnvTake_enters (State.cnvFires_fire hf) hk hn hmay' (hisl ▸ hidle) hr' fun h => hquiet (ho.trans h)
  refine ⟨_, (exec_cnv_run hv x t1 t0).trans (congrArg _ htake), ?owner, ?mem, ?agenda⟩
  case owner =>
    rw [(State.sched_adds ..).page, State.modFire_cnv]
    exact (State.modCnv_owner ..).trans (State.claimCnv_owner hp hmay')
  case mem => exact (s.cnvFires.claimCnv_grows ..).mem
  case agenda =>
    rw [ho]
    exact State.mem_sched ..

end

/-! ### Images (R277 to R279) -/

/-- An island without an image, and a path that the image lacks, give 0 with kind 1 (R280). -/
theorem CnvIsl.run_none {z : CnvIsl} (h : z.image = .none) (path l w : Nat) : z.run path l w = (0, 1, z.flops) := by
  unfold CnvIsl.run
  rw [h]

theorem CnvIsl.run_mem_absent {z : CnvIsl} {m : Nat} {ks luts ins flops paths : List Nat} {path : Nat} (h : z.image = .mem m ks luts ins flops paths)
    (hpath : bitAt m path = false) (l w : Nat) : z.run path l w = (0, 1, z.flops) := by
  unfold CnvIsl.run
  rw [h]
  simp only [hpath, Bool.not_false, if_true]

theorem CnvIsl.run_std_absent {z : CnvIsl} {fmt srm path : Nat} (h : z.image = .std fmt srm) (hpath : 2 ≤ path) (l w : Nat) :
    z.run path l w = (0, 1, z.flops) := by
  obtain ⟨n, rfl⟩ := Nat.exists_eq_add_of_le' hpath
  unfold CnvIsl.run
  simp only [h]

/-- A field of a number, by division. -/
theorem bits_div (n hi lo : Nat) : bits n hi lo = n / 2 ^ lo % 2 ^ (hi + 1 - lo) := by rw [bits, Nat.shiftRight_eq_div_pow]

/-- An island's half of the control register, and a port's byte of a return register. -/
theorem bits_half (n k : Nat) : bits n (16 * k + 15) (16 * k) = n / 2 ^ (16 * k) % 65536 := by
  rw [bits_div, show 16 * k + 15 + 1 - 16 * k = 16 by omega]
  rfl
theorem bits_octet (n k : Nat) : bits n (8 * k + 7) (8 * k) = n / 2 ^ (8 * k) % 256 := by
  rw [bits_div, show 8 * k + 7 + 1 - 8 * k = 8 by omega]
  rfl

/-! ### Loading (R277, R278) -/

/-- The control half, and the address of an image, of the island that a load names. -/
def State.cnvCtl (s : State) : Nat := (csrWord (s.page s.arg.p s.arg.pg).cnv.csr 0x048).toNat / 2 ^ (16 * s.arg.x) % 65536
def State.cnvVa (s : State) : Nat :=
  (csrWord (s.page s.arg.p s.arg.pg).cnv.csr (0x04A + 2 * s.arg.x)).toNat * 2 ^ 32 +
    (csrWord (s.page s.arg.p s.arg.pg).cnv.csr (0x049 + 2 * s.arg.x)).toNat / 64 * 64

/-- When a load begins: after every CNV inside the island. -/
def State.loadStart (s : State) : Nat :=
  if (s.cnvIsl s.arg.p s.arg.pg s.arg.x).lastIn = 0 then s.now else max s.now ((s.cnvIsl s.arg.p s.arg.pg s.arg.x).lastIn + 10)

/-- The island that a load names, updated. -/
def State.modLoading (s : State) (g : CnvIsl → CnvIsl) : State := s.modCnv s.arg.p s.arg.pg s.arg.x g

/-- An instance that does not claim the islands loads nothing. -/
theorem exec_cnvLoad_other (h : (s.page s.arg.p s.arg.pg).cnv.owner ≠ some s.arg.id) :
    exec .cnvImageLoad s = .next s ∧ exec .cnvLoadDone s = .next s := by
  have hne : ((s.page s.arg.p s.arg.pg).cnv.owner != some s.arg.id) = true := bne_iff_ne.mpr h
  exact ⟨congrArg _ (if_pos hne), congrArg _ (if_pos hne)⟩

section
variable (hown : (s.page s.arg.p s.arg.pg).cnv.owner = some s.arg.id)
include hown

theorem State.not_other : ¬((s.page s.arg.p s.arg.pg).cnv.owner != some s.arg.id) = true := by simp [hown]

/-- A load asked for while another runs waits, as the model chooses (log 36). -/
theorem exec_cnvImageLoad_waits (hbusy : (s.cnvIsl s.arg.p s.arg.pg s.arg.x).busy = true) :
    exec .cnvImageLoad s = .next (s.modLoading (fun z => { z with waits := z.waits ++ [(.cnvImageLoad, s.arg)] })) :=
  congrArg _ ((if_neg (State.not_other hown)).trans (if_pos hbusy))

/-- The load of anything but an image in memory begins, and ends 20 fclk later. -/
theorem exec_cnvImageLoad_begins (hidle : (s.cnvIsl s.arg.p s.arg.pg s.arg.x).busy = false) (hctl : s.cnvCtl % 4 ≠ 2) :
    exec .cnvImageLoad s = .next ((s.modLoading (fun z => { z with busy := true })).sched (s.loadStart + 20) (srcOf s.arg.pg 0) .cnvLoadDone
      { s.arg with w0 := word s.cnvCtl, l := [s.cnvVa] }) := by
  refine congrArg _ ((if_neg (State.not_other hown)).trans ((if_neg (by simp [hidle])).trans ?_))
  rw [bits_half]
  change State.sched _ (s.loadStart + if s.cnvCtl % 4 = 2 then _ else _) _ _ _ = _
  rw [if_neg hctl]
  rfl

/-- The image that a load ends with, or none where its checks fail or its bytes cannot be read. -/
def State.loadedImage (s : State) : Option CnvImage :=
  match s.arg.w0.toNat % 4 with
  | 0 => some .none
  | 1 => if (narrowCode (bits s.arg.w0.toNat 6 2)).isSome && bits s.arg.w0.toNat 9 7 ≤ 4 then
      some (.std (bits s.arg.w0.toNat 6 2) (bits s.arg.w0.toNat 9 7)) else none
  | _ => match s.readVa s.arg.p ((s.arg.l[0]?).getD 0) 2080 false with
    | .ok n => imageOf n
    | .error _ => none

/-- A load that ends leaves its image, flops at 0 and nothing waiting; what waited is pending. -/
theorem exec_cnvLoadDone_holds {img : Option CnvImage} (hp : s.hasPage s.arg.p s.arg.pg) (hx : s.arg.x < (s.page s.arg.p s.arg.pg).cnv.isl.length)
    (himg : s.loadedImage = img) :
    ∃ t, exec .cnvLoadDone s = .next t ∧ t.cnvIsl s.arg.p s.arg.pg s.arg.x = { image := img.getD .none, err := img.isNone } := by
  subst himg
  refine ⟨_, congrArg Host.Outcome.next (if_neg (State.not_other hown)), ?_⟩
  rw [(foldl_adds _ (fun s _ => s.sched_adds ..) _ _).cnvIsl]
  exact cnvIsl_in hp hx _

end

/-! The images of the formats of CNVCTL (R277). -/

theorem State.loadedImage_none (h : s.arg.w0.toNat % 4 = 0) : s.loadedImage = some .none := by
  unfold State.loadedImage
  simp only [h]

/-- The standard images, by their format and rounding; beyond SRM 4 there is none (log 36). -/
theorem State.loadedImage_std (h : s.arg.w0.toNat % 4 = 1) : s.loadedImage =
    if (narrowCode (s.arg.w0.toNat / 4 % 32)).isSome ∧ s.arg.w0.toNat / 128 % 8 ≤ 4 then
      some (.std (s.arg.w0.toNat / 4 % 32) (s.arg.w0.toNat / 128 % 8)) else none := by
  unfold State.loadedImage
  rw [h, bits_div, bits_div]
  simp

/-- The images in memory, by their bytes. -/
theorem State.loadedImage_mem (h : s.arg.w0.toNat % 4 = 2) :
    s.loadedImage = (s.readVa s.arg.p ((s.arg.l[0]?).getD 0) 2080 false).toOption.bind imageOf := by
  unfold State.loadedImage
  rw [h]
  cases s.readVa s.arg.p ((s.arg.l[0]?).getD 0) 2080 false <;> rfl

/-- The formats that standard images convert. -/
theorem narrowCode_isSome : ∀ fmt ∈ [1, 2, 3, 4, 5, 6, 7, 8, 9, 10, 14], (narrowCode fmt).isSome = true := by decide

/-! ### The rows of ports (R280) -/

/-- A null token at a port comes back to the queue that the island's return register names. -/
theorem exec_cnvPortInput_null {q : Nat × Pos} (hz : s.arg.z = 0) (hnull : s.arg.tok.null = true) (hpois : s.arg.tok.pois = false)
    (hidle : (s.cnvIsl s.arg.p s.arg.pg ((s.arg.x - 24) / 4)).busy = false) (hq : q ∈ [(1, Pos.l), (2, .r), (3, .p)]) {ret : Nat}
    (hret : (csrWord (s.page s.arg.p s.arg.pg).cnv.csr (0x04D + (s.arg.x - 24) / 4)).toNat / 2 ^ (8 * ((s.arg.x - 24) % 4)) % 256 = ret)
    (hpos : ret / 64 = q.1) :
    exec .cnvPortInput s = .next (s.sched (s.now + 10) (srcOf s.arg.pg 0) .tokenArrival
      { p := s.arg.p, pg := s.arg.pg, tg := .queue q.2 (BitVec.ofNat 6 (ret % 64)), tag := s.arg.tag, tok := tokNull, fid := s.arg.fid }) := by
  have hmark : withPoison tokNull (origOf (some s.arg.tok)) = tokNull := by simp [origOf, hpois, withPoison]
  change execCnvPortInput s = _
  unfold execCnvPortInput
  simp only [hz, hidle, Bool.and_false, Bool.false_eq_true, if_false, hnull, if_true, hmark, bits_octet, hret]
  fin_cases hq <;> simp only [hpos]

end

/-- Settles O41: a CNV by whether its island loads, images by their form, loads by the claim and the island, port rows by their kind. -/
theorem conversionIslands : Obligations.ConversionIslands := by
  unfold Obligations.ConversionIslands
  refine ⟨fun s f pr path t1 t0 hf hc hv => ?cnv, fun z path l w => ?images, fun s => ⟨exec_cnvLoad_other, fun hx hpage hlen hown => ?loads⟩,
    fun s => ⟨fun hz => ?answer, fun hz hnull hpois hidle q hq hpos => ?null⟩⟩
  case cnv =>
    intro p pg k n z later hmay
    have hk : bits (xF f.word).toNat 2 2 = k := bits_div ..
    have henters := fun hidle => exec_cnv_enters hf hv hc hk (bits_kind _) hmay hidle rfl
    refine ⟨fun hidle ho hquiet => ?_, fun o hidle ho => ?_, fun hbusy hlen => ⟨_, exec_cnv_waits hf hv hk hmay hbusy .., rfl, ?_⟩⟩
    · obtain ⟨t, ht, hown, hmem, hrow⟩ := henters hidle (fun _ => hquiet) path t1 t0
      rw [ho] at hrow
      exact ⟨t, ht, hown, hmem, _, rfl, rfl, rfl, rfl, rfl, hrow⟩
    · obtain ⟨t, ht, -, hmem, hrow⟩ := henters hidle (fun h => nomatch ho.symm.trans h) path t1 t0
      rw [ho] at hrow
      exact ⟨t, ht, hmem, _, rfl, rfl, rfl, rfl, rfl, hrow⟩
    · have hp : s.cnvFires.hasPage p pg := State.hasPage_of_fire (State.cnvFires_fire hf)
      rw [cnvIsl_in hp (by rwa [s.cnvFires_cnv]), cnvIsl_of_cnv s.cnvFires_cnv]
      rfl
  case images =>
    exact ⟨fun h => CnvIsl.run_none h .., fun m ks luts ins flops paths h hpath => CnvIsl.run_mem_absent h hpath ..,
      fun fmt srm h hpath => CnvIsl.run_std_absent h hpath ..⟩
  case loads =>
    have hp : s.hasPage s.arg.p s.arg.pg := List.mem_map.mpr hpage
    have hx' := hx.trans_le hlen
    refine ⟨fun hidle hctl => ⟨_, exec_cnvImageLoad_begins hown hidle hctl, ?_,
        { s.arg with w0 := word s.cnvCtl, l := [s.cnvVa] }, rfl, rfl, State.mem_sched ..⟩,
      fun hbusy => ⟨_, exec_cnvImageLoad_waits hown hbusy, congrArg CnvIsl.waits (cnvIsl_in hp hx' _)⟩, ?_⟩
    · rw [(State.sched_adds ..).cnvIsl]
      exact congrArg CnvIsl.busy (cnvIsl_in hp hx' _)
    · have holds := fun {img} => exec_cnvLoadDone_holds (img := img) hown hp hx'
      refine ⟨fun h => holds (State.loadedImage_none h), fun h fmt srm hfmt hsrm => ?std,
        fun h e he => holds (img := none) ?_, fun b i h hb hi => holds (img := some i) ?_⟩
      case std =>
        subst hfmt hsrm
        have hstd := State.loadedImage_std h
        exact ⟨fun hle hmem => holds (hstd.trans (if_pos ⟨narrowCode_isSome _ hmem, hle⟩)),
          fun hlt => holds (hstd.trans (if_neg fun ⟨_, hle⟩ => by omega))⟩
      · rw [State.loadedImage_mem h, he]
        rfl
      · rw [State.loadedImage_mem h, hb]
        exact hi
  case answer =>
    change execCnvPortInput s = _
    unfold execCnvPortInput
    simp only [hz]
  case null => exact exec_cnvPortInput_null hz hnull hpois hidle hq rfl hpos

end Sys2Proof.Machine
end

section
/-! PROOFS: what a read through the page tables turns on (R207 to R211), which the statements of charts, peers, resets and the host share. -/

namespace Sys2Proof.Machine

/-- What of a partition its translations turn on. -/
def Part.tables (x : Part) : Part :=
  { num := x.num, root := x.root, wins := x.wins, hostBase := x.hostBase, hostLen := x.hostLen, regions := x.regions }

/-- What of a state its translations, and the reads through them, turn on. -/
def State.reads (s : State) : State :=
  { State.reset with now := s.now, free := s.free, mem := s.mem, badLines := s.badLines, oldPtes := s.oldPtes, windows := s.windows }

/-- From s to t, what the reads of partition p turn on stands. -/
structure State.SameReads (p : Nat) (s t : State) : Prop where
  state : t.reads = s.reads
  part : (t.part p).tables = (s.part p).tables

section
variable {s t u : State} {p : Nat} {x : Part}

theorem State.SameReads.refl (s : State) : s.SameReads p s := ⟨rfl, rfl⟩
theorem State.SameReads.trans (h : s.SameReads p t) (g : t.SameReads p u) : s.SameReads p u := ⟨g.state.trans h.state, g.part.trans h.part⟩

theorem State.SameReads.mem (h : s.SameReads p t) : t.mem = s.mem := by have := congrArg State.mem h.state; exact this
theorem State.SameReads.now (h : s.SameReads p t) : t.now = s.now := by have := congrArg State.now h.state; exact this
theorem State.SameReads.badLines (h : s.SameReads p t) : t.badLines = s.badLines := by have := congrArg State.badLines h.state; exact this

/-- An update of a partition that leaves its tables. -/
theorem State.modPart_sameReads (s : State) (q : Nat) (f : Part → Part) (hn : ∀ x, (f x).num = x.num) (hf : ∀ x, (f x).tables = x.tables) :
    s.SameReads p (s.modPart q f) := ⟨rfl, part_modPart Part.tables s q p f hn hf⟩

/-! ### Translations -/

theorem State.readPte_reads : s.reads.readPte x.tables = s.readPte x := rfl
theorem State.tableOk_reads : s.reads.tableOk x.tables = s.tableOk x := rfl
theorem State.reach_reads : s.reads.reach x.tables = s.reach x := rfl

theorem Part.tables_tableKey (x : Part) : x.tables.tableKey = x.tableKey := rfl
theorem Part.tables_wins (x : Part) : x.tables.wins = x.wins := rfl
theorem Part.tables_root (x : Part) : x.tables.root = x.root := rfl

theorem State.walkNow_reads (va : Nat) : s.reads.walkNow x.tables va = s.walkNow x va := by
  unfold State.walkNow
  rw [State.readPte_reads, State.tableOk_reads, State.reach_reads, Part.tables_wins, Part.tables_root]

theorem State.oldLeaves_reads (va : Nat) : s.reads.oldLeaves x.tables va = s.oldLeaves x va := by
  have hold : s.reads.oldPtes = s.oldPtes := rfl
  have hnum : x.tables.num = x.num := rfl
  unfold State.oldLeaves
  rw [State.readPte_reads, State.tableOk_reads, State.reach_reads, State.walkNow_reads, Part.tables_tableKey, Part.tables_wins,
    Part.tables_root, hold, hnum]

theorem State.translate_reads (va : Nat) : s.reads.translate x.tables va = s.translate x va := by
  have hnow : s.reads.now = s.now := rfl
  have hfree : s.reads.free = s.free := rfl
  unfold State.translate
  rw [State.walkNow_reads, State.oldLeaves_reads, hnow, hfree]

theorem State.walkFail_reads (va : Nat) : s.reads.walkFail x.tables va = s.walkFail x va := rfl

theorem State.SameReads.translate (h : s.SameReads p t) (va : Nat) : t.translate (t.part p) va = s.translate (s.part p) va := calc
  t.translate (t.part p) va = t.reads.translate (t.part p).tables va := (State.translate_reads va).symm
  _ = s.reads.translate (s.part p).tables va := by rw [h.state, h.part]
  _ = s.translate (s.part p) va := State.translate_reads va

theorem State.SameReads.walkFail (h : s.SameReads p t) (va : Nat) : t.walkFail (t.part p) va = s.walkFail (s.part p) va := calc
  t.walkFail (t.part p) va = t.reads.walkFail (t.part p).tables va := (State.walkFail_reads va).symm
  _ = s.reads.walkFail (s.part p).tables va := by rw [h.state, h.part]
  _ = s.walkFail (s.part p) va := State.walkFail_reads va

theorem State.SameReads.mayWrite (h : s.SameReads p t) (l : Leaf) : (t.part p).mayWrite l = (s.part p).mayWrite l := by
  have hw : (t.part p).wins = (s.part p).wins := by have := congrArg Part.wins h.part; exact this
  unfold Part.mayWrite
  rw [hw]

theorem State.SameReads.badAt (h : s.SameReads p t) (key n : Nat) : t.badAt key n = s.badAt key n := by
  unfold State.badAt
  rw [h.badLines]

theorem State.SameReads.badKey (h : s.SameReads p t) (key n : Nat) : t.badKey key n = s.badKey key n := by
  unfold State.badKey
  rw [h.badLines]

/-! ### Reads (R29, R61, R317) -/

theorem State.SameReads.readOne (h : s.SameReads p t) (va n : Nat) (fetch : Bool) : t.readOne p va n fetch = s.readOne p va n fetch := by
  unfold State.readOne
  simp only [h.walkFail, h.translate, h.badAt, h.badKey, h.mem]

theorem State.SameReads.readVa (h : s.SameReads p t) (va n : Nat) (fetch : Bool) : t.readVa p va n fetch = s.readVa p va n fetch := by
  unfold State.readVa
  simp only [h.readOne]

theorem State.SameReads.helmRead (h : s.SameReads p t) (va n : Nat) : t.helmRead p va n = s.helmRead p va n :=
  congrArg Except.toOption (h.readVa va n false)

theorem State.SameReads.helmTime (h : s.SameReads p t) (die va : Nat) : t.helmTime p die va = s.helmTime p die va := by
  unfold State.helmTime
  rw [h.translate]

end

end Sys2Proof.Machine
end

section
/-! PROOFS of the statements of charts: doorbells, queue slots and their slices, entries and chart errors (R313 to R317, R319, R320). -/

namespace Sys2Proof.Machine

section
variable {s : State} {z : HelmSlot}

/-! ### Writes of Helm (R317) -/

/-- A write of Helm leaves the partitions. -/
theorem State.helmWrite_parts (s : State) (p va : Nat) (bs : List Byte) : (s.helmWrite p va bs).parts = s.parts := by
  unfold State.helmWrite
  split
  · rfl
  · split
    · exact ite_keeps (P := fun t : State => t.parts = s.parts) rfl (ite_keeps (P := fun t : State => t.parts = s.parts) rfl (s.memWrite_parts _ _))
    · rfl

/-- A write to a page that is there. -/
theorem State.helmWrite_leaf {p va : Nat} {bs : List Byte} {l : Leaf} (hw : s.walkFail (s.part p) va = none)
    (hl : s.translate (s.part p) va = .ok l) : s.helmWrite p va bs = if (s.part p).mayWrite l then
      (if s.badAt l.pa bs.length then s.badRead p (s.badKey l.pa bs.length) else s.memWrite l.pa bs) else s := by
  unfold State.helmWrite
  simp only [hw, hl]
  cases (s.part p).mayWrite l <;> rfl

/-! ### DOORBELL (R314, R316) -/

/-- The queue that a doorbell names. -/
def State.bellQueue (s : State) : Nat := s.arg.w0.toNat % 1024

/-- A doorbell that is discarded and counted. -/
def State.lostBell (s : State) (p : Nat) : State :=
  s.modPart p (fun x => { x with vf := { x.vf with dbdisc := min (x.vf.dbdisc + 1) 0xFFFFFFFF } })

/-- What a doorbell of a context's queue does once its tail stands in memory. -/
def State.rung (s : State) (p q : Nat) : State := (s.queueWork p q).elim s (fun die => s.helmJoin die p q)

theorem State.rung_work {p q die : Nat} (h : s.queueWork p q = some die) : s.rung p q = s.helmJoin die p q := by
  unfold State.rung
  rw [h, Option.elim_some]

theorem State.rung_idle {p q : Nat} (h : s.queueWork p q = none) : s.rung p q = s := by
  unfold State.rung
  rw [h, Option.elim_none]

/-- The state in which a doorbell has written its queue's tail. -/
def State.tailed (s : State) : State :=
  s.helmWrite s.arg.p ((s.part s.arg.p).queueVa s.bellQueue + 14) (leBytes 2 (s.arg.w0.toNat / 65536))

theorem State.tailed_helmPaused (s : State) (p : Nat) : s.tailed.helmPaused p = s.helmPaused p := by
  unfold State.helmPaused State.tailed State.part
  rw [State.helmWrite_parts]

/-- What a doorbell does with its queue's descriptor, where it can be read. -/
def State.bell (s : State) (d : Option Nat) : State :=
  d.elim (s.lostBell s.arg.p) (fun d => if fieldAt d 9 1 ∉ (s.part s.arg.p).helmDies then s.tailed.lostBell s.arg.p
    else if s.helmPaused s.arg.p = true ∨ (s.part s.arg.p).frozen = true then s.tailed else s.tailed.rung s.arg.p s.bellQueue)

theorem exec_doorbell (s : State) : exec .doorbell s = .next (if (s.part s.arg.p).csrN 0x0E2 % 2048 ≤ s.bellQueue then s.lostBell s.arg.p
    else s.bell (s.helmRead s.arg.p ((s.part s.arg.p).queueVa s.bellQueue) 20)) := by
  have hlow : bits s.arg.w0.toNat 9 0 = s.bellQueue := by rw [bits_div]; exact congrArg (· % 1024) (Nat.div_one _)
  have hcount : bits ((s.part s.arg.p).csrN 0x0E2) 10 0 = (s.part s.arg.p).csrN 0x0E2 % 2048 := by
    rw [bits_div]; exact congrArg (· % 2048) (Nat.div_one _)
  have hhigh : bits s.arg.w0.toNat 31 16 = s.arg.w0.toNat / 65536 := by
    rw [bits_div]
    exact Nat.mod_eq_of_lt (Nat.div_lt_of_lt_mul s.arg.w0.isLt)
  change execDoorbell s = _
  unfold execDoorbell State.bell State.rung
  simp only [hlow, hcount, hhigh, ← State.tailed.eq_1, State.tailed_helmPaused, Bool.not_eq_true', List.contains_eq_mem, decide_eq_false_iff_not,
    Bool.or_eq_true]
  generalize s.helmRead s.arg.p ((s.part s.arg.p).queueVa s.bellQueue) 20 = d
  generalize s.tailed.queueWork s.arg.p s.bellQueue = w
  cases d <;> cases w <;> rfl

/-! ### Frozen and paused partitions (R380, R387) -/

theorem State.helmPaused_iff {p : Nat} : s.helmPaused p = true ↔ (s.part p).vf.state = .paused := beq_iff_eq

/-! ### The cases of a doorbell (R314, R316) -/

theorem exec_doorbell_unread (h : ¬(s.part s.arg.p).csrN 0x0E2 % 2048 ≤ s.bellQueue)
    (hd : s.helmRead s.arg.p ((s.part s.arg.p).queueVa s.bellQueue) 20 = none) : exec .doorbell s = .next (s.lostBell s.arg.p) := by
  rw [exec_doorbell, if_neg h, hd]
  rfl

theorem exec_doorbell_read {d : Nat} (h : ¬(s.part s.arg.p).csrN 0x0E2 % 2048 ≤ s.bellQueue)
    (hd : s.helmRead s.arg.p ((s.part s.arg.p).queueVa s.bellQueue) 20 = some d) : exec .doorbell s = .next
    (if fieldAt d 9 1 ∉ (s.part s.arg.p).helmDies then s.tailed.lostBell s.arg.p
      else if s.helmPaused s.arg.p = true ∨ (s.part s.arg.p).frozen = true then s.tailed else s.tailed.rung s.arg.p s.bellQueue) := by
  rw [exec_doorbell, if_neg h, hd]
  rfl

theorem exec_doorbell_goes {d : Nat} (h : ¬(s.part s.arg.p).csrN 0x0E2 % 2048 ≤ s.bellQueue)
    (hd : s.helmRead s.arg.p ((s.part s.arg.p).queueVa s.bellQueue) 20 = some d) (hdie : fieldAt d 9 1 ∈ (s.part s.arg.p).helmDies)
    (hf : (s.part s.arg.p).frozen = false) (hv : (s.part s.arg.p).vf.state ≠ .paused) :
    exec .doorbell s = .next (s.tailed.rung s.arg.p s.bellQueue) := by
  have hstop : ¬(s.helmPaused s.arg.p = true ∨ (s.part s.arg.p).frozen = true) := by
    rintro (hp | hp)
    · exact hv (State.helmPaused_iff.mp hp)
    · exact Bool.false_ne_true (hf.symm.trans hp)
  rw [exec_doorbell_read h hd, if_neg (not_not.mpr hdie), if_neg hstop]

/-! ### A queue that is mapped (R320) -/

theorem exec_helmQueueMap_empty (h : s.lineOf s.arg.x = []) : exec .helmQueueMap s = .next s := by
  change execHelmQueueMap s = _
  unfold execHelmQueueMap
  dsimp only
  rw [h]
  cases lowestFree ((s.helmSlots.filter (fun z => z.die == s.arg.x)).map HelmSlot.num) 64 0 <;> rfl

/-- The slot of a queue that has no saved state. -/
def State.freshSlot (s : State) (die n p q : Nat) : HelmSlot :=
  { die := die, num := n, p := p, q := q, dva := (s.part p).queueVa q, serial := s.nextFid, slice := s.now + 85000 }

/-- The state in which a queue has left its die's line, which held no other, for a slot in which its entry begins. -/
def State.mapped (s : State) (die n p q : Nat) : State :=
  (({ s with helmLine := s.helmLine.filter (· != (die, p, q)), nextFid := s.nextFid + 1, helmSlots := s.helmSlots ++ [s.freshSlot die n p q] } :
    State).sched (s.now + 85000) 0 .helmSliceExpiry { p := p, x := die, y := n, fid := s.now + 85000 }).sched s.now 0 .helmEntryStart
    { p := p, x := die, y := n }

theorem exec_helmQueueMap_maps {n p q die : Nat} (hdie : die = s.arg.x)
    (hn : lowestFree ((s.helmSlots.filter (fun z => z.die == die)).map HelmSlot.num) 64 0 = some n) (hl : s.lineOf die = [(die, p, q)])
    (hf : (s.part p).frozen = false) (hv : (s.part p).vf.state ≠ .paused) (hw : s.queueWork p q = some die)
    (hs : ∀ z ∈ s.helmSaved, ¬(z.p = p ∧ z.q = q)) : exec .helmQueueMap s = .next (s.mapped die n p q) := by
  subst hdie
  have hwork : ({ s with helmLine := s.helmLine.filter (· != (s.arg.x, p, q)) } : State).queueWork p q = some s.arg.x := by
    have hsame : s.SameReads p { s with helmLine := s.helmLine.filter (· != (s.arg.x, p, q)) } := ⟨rfl, rfl⟩
    exact (State.queueWork_congr (fun va => hsame.helmRead va 20) rfl rfl rfl).trans hw
  have hpaused : ({ s with helmLine := s.helmLine.filter (· != (s.arg.x, p, q)) } : State).helmPaused p = false :=
    Bool.eq_false_iff.mpr fun h => hv (State.helmPaused_iff.mp h)
  have hfrozen : (({ s with helmLine := s.helmLine.filter (· != (s.arg.x, p, q)) } : State).part p).frozen = false := hf
  have hnone : s.helmSaved.find? (fun z => z.p == p && z.q == q) = none := by
    rw [List.find?_eq_none]
    exact fun z hz => by simpa using hs z hz
  have hall : s.helmSaved.filter (fun z => !(z.p == p && z.q == q)) = s.helmSaved := by
    rw [List.filter_eq_self]
    exact fun z hz => by simpa [imp_iff_not_or] using hs z hz
  change execHelmQueueMap s = _
  unfold execHelmQueueMap
  simp only [hn, hl, List.isEmpty_nil, if_true, hwork, hpaused, hfrozen, hnone, hall]
  rfl

/-- A line that has lost its only queue. -/
theorem State.mapped_lineOf {n p q die : Nat} (hl : s.lineOf die = [(die, p, q)]) : (s.mapped die n p q).lineOf die = [] := by
  change (s.helmLine.filter (· != (die, p, q))).filter (fun l => l.1 == die) = []
  have hgone : (s.lineOf die).filter (· != (die, p, q)) = [] := by rw [hl]; simp
  rw [← hgone]
  unfold State.lineOf
  rw [List.filter_filter, List.filter_filter]
  exact List.filter_congr fun l _ => Bool.and_comm ..

theorem State.mapped_agenda {n p q die : Nat} : ⟨s.now + 85000, 0, 0, .row .helmSliceExpiry { p := p, x := die, y := n, fid := s.now + 85000 }⟩ ∈
    (s.mapped die n p q).agenda ∧ ⟨s.now, 0, 0, .row .helmEntryStart { p := p, x := die, y := n }⟩ ∈ (s.mapped die n p q).agenda :=
  ⟨(mem_ins _ _ _).mpr (.inr (State.mem_sched ..)), State.mem_sched ..⟩

/-! ### A slice that ends (R320) -/

theorem exec_helmSliceExpiry_none (h : s.slot? s.arg.x s.arg.y = none) : exec .helmSliceExpiry s = .next s := by
  change execHelmSliceExpiry s = _
  unfold execHelmSliceExpiry
  rw [h]

theorem exec_helmSliceExpiry (h : s.slot? s.arg.x s.arg.y = some z) : exec .helmSliceExpiry s = .next
    (if z.wait ≠ .none ∧ s.sliceDone z = true ∧ (s.part z.p).frozen = false then s.yieldSlot z else s) := by
  change execHelmSliceExpiry s = _
  unfold execHelmSliceExpiry
  rw [h]
  cases hw : z.wait <;> simp [hw]

/-! ### An entry that begins (R317) -/

theorem exec_helmEntryStart_none (h : s.slot? s.arg.x s.arg.y = none) : exec .helmEntryStart s = .next s := by
  change execHelmEntryStart s = _
  unfold execHelmEntryStart
  rw [h]

theorem exec_helmEntryStart (h : s.slot? s.arg.x s.arg.y = some z) : exec .helmEntryStart s = .next
    (if (s.part z.p).frozen = true then s else if s.helmPaused z.p = true then s.unmapSlot z else s.entryStart z) := by
  change execHelmEntryStart s = _
  unfold execHelmEntryStart
  rw [h]

theorem State.entryStart_unread (h : s.helmRead z.p z.dva 20 = none) : s.entryStart z = s.helmFail z z.dva 20 1 := by
  have hdef : State.entryStart = State.entryStart := rfl
  conv at hdef => rhs; delta State.entryStart
  rw [hdef]
  beta_reduce
  rw [h]

/-- The walker of the entry at head, whose descriptor is d. -/
def State.entryWalker (s : State) (z : HelmSlot) (d : Nat) : HelmSlot :=
  { z with eva := fieldAt d 0 8 + 64 * (fieldAt d 12 2 % 2 ^ (fieldAt d 8 1 % 16)), serial := s.nextFid, loops := [], node := 0 }

/-- The state in which a slot walks the entry at head. -/
def State.entryTaken (s : State) (z : HelmSlot) (d : Nat) : State :=
  ({ s with nextFid := s.nextFid + 1 } : State).modSlot z.die z.num (fun _ => s.entryWalker z d)

theorem State.entryTaken_sameReads (s : State) (z : HelmSlot) (d p : Nat) : s.SameReads p (s.entryTaken z d) := ⟨rfl, rfl⟩

/-- The state in which the start timestamp of an entry is written. -/
def State.entryStamped (s : State) (z : HelmSlot) (d : Nat) : State :=
  (s.entryTaken z d).helmWrite z.p ((s.entryWalker z d).eva + 16) (leBytes 8 (s.tsBase + s.now * 20 / 17))

theorem State.entryStart_reads {d e : Nat} (hd : s.helmRead z.p z.dva 20 = some d) (he : s.helmRead z.p (s.entryWalker z d).eva 64 = some e) :
    s.entryStart z = if fieldAt e 0 8 % 64 ≠ 0 then (s.entryStamped z d).chartError { s.entryWalker z d with base := fieldAt e 0 8 } 1 0
      else (s.entryStamped z d).nodeGo { s.entryWalker z d with base := fieldAt e 0 8 } (fieldAt e 8 2) := by
  have htaken : (s.entryTaken z d).helmRead z.p (s.entryWalker z d).eva 64 = some e := ((s.entryTaken_sameReads z d z.p).helmRead _ 64).trans he
  have hdef : State.entryStart = State.entryStart := rfl
  conv at hdef => rhs; delta State.entryStart
  rw [hdef]
  beta_reduce
  rw [hd]
  unfold State.entryStamped
  unfold State.entryTaken State.entryWalker at *
  dsimp only
  rw [htaken]
  rfl

/-! ### Nodes (R317, R321) -/

theorem nodeRow_eq (ty : Nat) : nodeRow ty = if ty = 1 then some .launch else if ty = 2 then some .copy else if ty = 3 then some .wait
    else if ty = 4 then some .signal else if ty = 5 then some .cond else if ty = 6 then some .helmLoop else if ty = 7 then some .helmEnd else none := by
  unfold nodeRow
  split <;> simp_all

/-- The slot at the boundary before node idx. -/
def HelmSlot.at (z : HelmSlot) (idx : Nat) : HelmSlot := { z with node := idx, wait := .none }

/-- The state in which a slot has come to the boundary before node idx. -/
def State.nodeAt (s : State) (z : HelmSlot) (idx : Nat) : State := s.modSlot z.die z.num (fun _ => z.at idx)

theorem State.nodeAt_sameReads (s : State) (z : HelmSlot) (idx p : Nat) : s.SameReads p (s.nodeAt z idx) := ⟨rfl, rfl⟩

/-- A node that is read: it acts later, or its type is reserved. -/
def State.nodeRead (s : State) (z : HelmSlot) (va raw : Nat) : State :=
  (nodeRow (fieldAt raw 0 1)).elim (s.chartError z 2 0) fun row =>
    let u := s.modSlot z.die z.num (fun z => { z with raw := raw })
    u.sched (u.now + 16 + u.helmTime z.p z.die va) (z.die * 16384) row { p := z.p, x := z.die, y := z.num, fid := z.serial }

theorem State.nodeRead_reserved {va raw : Nat} (h : nodeRow (fieldAt raw 0 1) = none) : s.nodeRead z va raw = s.chartError z 2 0 := by
  unfold State.nodeRead
  rw [h, Option.elim_none]

theorem State.nodeRead_row {va raw : Nat} {row : Instr} (h : nodeRow (fieldAt raw 0 1) = some row) : s.nodeRead z va raw =
    (s.modSlot z.die z.num (fun z => { z with raw := raw })).sched (s.now + 16 + s.helmTime z.p z.die va) (z.die * 16384) row
      { p := z.p, x := z.die, y := z.num, fid := z.serial } := by
  have hsame : s.SameReads z.p (s.modSlot z.die z.num (fun z => { z with raw := raw })) := ⟨rfl, rfl⟩
  unfold State.nodeRead
  rw [h, Option.elim_some]
  dsimp only
  rw [hsame.helmTime, hsame.now]

theorem State.nodeGo_eq (s : State) (z : HelmSlot) (idx : Nat) : s.nodeGo z idx =
    if (s.part z.p).frozen = true then s.nodeAt z idx
    else if s.helmPaused z.p = true then (s.nodeAt z idx).saveSlot (z.at idx)
    else if s.sliceDone z = true then (s.nodeAt z idx).yieldSlot (z.at idx)
    else if idx = 0xFFFF then (s.nodeAt z idx).chartError (z.at idx) 2 0
    else (s.helmRead z.p (z.base + 64 * idx) 64).elim ((s.nodeAt z idx).helmFail (z.at idx) (z.base + 64 * idx) 64 1)
      ((s.nodeAt z idx).nodeRead (z.at idx) (z.base + 64 * idx)) := by
  have hread : (s.nodeAt z idx).helmRead z.p (z.base + 64 * idx) 64 = s.helmRead z.p (z.base + 64 * idx) 64 :=
    (s.nodeAt_sameReads z idx z.p).helmRead _ 64
  have hdef : State.nodeGo = State.nodeGo := rfl
  conv at hdef => rhs; delta State.nodeGo
  rw [hdef]
  beta_reduce
  rw [← hread]
  unfold State.nodeRead State.nodeAt HelmSlot.at
  dsimp only
  generalize State.helmRead _ z.p _ _ = d
  cases d with
  | none => rfl
  | some raw =>
    dsimp only [Option.elim_some]
    cases nodeRow (fieldAt raw 0 1) <;> rfl

/-- A slot that goes on, its partition neither frozen nor paused. -/
theorem State.nodeGo_goes {idx : Nat} (hf : (s.part z.p).frozen = false) (hv : (s.part z.p).vf.state ≠ .paused) : s.nodeGo z idx =
    if s.sliceDone z = true then (s.nodeAt z idx).yieldSlot (z.at idx)
    else if idx = 0xFFFF then (s.nodeAt z idx).chartError (z.at idx) 2 0
    else (s.helmRead z.p (z.base + 64 * idx) 64).elim ((s.nodeAt z idx).helmFail (z.at idx) (z.base + 64 * idx) 64 1)
      ((s.nodeAt z idx).nodeRead (z.at idx) (z.base + 64 * idx)) := by
  rw [State.nodeGo_eq, hf, if_neg Bool.false_ne_true, if_neg (mt State.helmPaused_iff.mp hv)]

/-! ### Errors (R319) -/

/-- The word that a chart error leaves in its queue's descriptor. -/
def HelmSlot.errorWord (z : HelmSlot) (code detail : Nat) : Nat :=
  if code = 4 then 4 + detail * 256 + z.node * 65536 else code + z.node * 256

theorem State.chartError_eq (s : State) (z : HelmSlot) (code detail : Nat) : s.chartError z code detail =
    (((s.helmWrite z.p (z.eva + 12) (leBytes 4 (2 + code * 256))).helmWrite z.p (z.dva + 16) (leBytes 4 (z.errorWord code detail))).unmapSlot
      z).postVf z.p 0x06 [z.q, z.errorWord code detail] := by
  unfold State.chartError HelmSlot.errorWord
  by_cases h : code = 4
  · subst h; rfl
  · simp only [if_neg h]

theorem State.helmFail_eq {va n code : Nat} {e : Nat × Nat × Nat} (h : s.readVa z.p va n false = .error e) :
    s.helmFail z va n code = if e.1 = 255 then s.badRead z.p e.2.2 else s.chartError z code 0 := by
  have hdef : State.helmFail = State.helmFail := rfl
  conv at hdef => rhs; delta State.helmFail
  rw [hdef]
  beta_reduce
  rw [h]
  obtain ⟨a, b, c⟩ := e
  split
  · rename_i heq
    cases heq
    exact (if_pos rfl).symm
  · rename_i hne
    exact (if_neg fun ha => hne b c (by cases ha; rfl)).symm

theorem State.queueError_walker {p die q node eva code detail : Nat} (h : s.walker p q = some z) :
    s.queueError p die q node eva code detail = s.chartError { z with node := node, eva := eva } code detail := by
  unfold State.queueError
  rw [h]
  rfl

theorem State.waitFor_eq (s : State) (z : HelmSlot) (w : HelmWait) : s.waitFor z w =
    if (s.part z.p).frozen = true then s.modSlot z.die z.num (fun y => { y with wait := w })
    else if s.helmPaused z.p = true then (s.modSlot z.die z.num (fun y => { y with wait := w })).saveSlot { z with wait := w }
    else if s.sliceDone z = true then (s.modSlot z.die z.num (fun y => { y with wait := w })).yieldSlot { z with wait := w }
    else s.modSlot z.die z.num (fun y => { y with wait := w }) := rfl

theorem State.sliceDone_not : s.sliceDone z = false ↔ s.now < z.slice ∨ s.lineOf z.die = [] := by
  rw [Bool.eq_false_iff, ne_eq, State.sliceDone_iff]
  simp only [not_and_or, not_le, ne_eq, not_not]

end

/-- Settles O52: each row of Helm by the cases of its own definition; that a queue is paused or frozen, and what is read through the page tables,
does not turn on Helm's slots and lines. -/
theorem helmQueues : Obligations.HelmQueues := by
  unfold Obligations.HelmQueues
  refine ⟨fun s => ⟨fun h => ?_, fun h hd => ?_, fun d h hd => ⟨fun hdie => ?_, fun hdie hstop => ?_, fun hdie hf hv => ⟨fun die hw => ?_, fun hw => ?_⟩⟩⟩,
    fun s n p q die hdie hn hl hf hv hw hs => ?_, fun s => ⟨exec_helmQueueMap_empty, fun h => ⟨exec_helmSliceExpiry_none h, exec_helmEntryStart_none h⟩⟩,
    fun s z hz => ⟨fun h => ?_, fun hw hs hl hf => ?_, fun hf => ?_, fun hf hv => ?_, fun hf hv => ⟨fun hd => ?_, fun d e hd he => ⟨fun hb => ?_, fun hb => ?_⟩⟩⟩,
    fun s z idx => ⟨fun hf => ?_, fun hf hv => ?_, fun hf hv => ⟨fun hs hl => ?_, fun hs => ⟨fun hi => ?_, fun hi hr => ?_, fun raw hi hr hn => ?_,
      fun raw row hi hr hn => ?_⟩⟩⟩,
    nodeRow_eq, State.chartError_eq, fun s z va n code e => State.helmFail_eq, fun s p die q node eva code detail z => State.queueError_walker,
    fun s z w => ⟨fun hf => ?_, fun hf hv => ?_, fun hf hv => ⟨fun hs hl => ?_, fun hs => ?_⟩⟩, fun s p va bs l => State.helmWrite_leaf⟩
  -- Doorbells.
  · exact (exec_doorbell s).trans (next_congr (if_pos h))
  · exact exec_doorbell_unread (Nat.not_le.mpr h) hd
  · exact (exec_doorbell_read (Nat.not_le.mpr h) hd).trans (next_congr (if_pos hdie))
  · exact (exec_doorbell_read (Nat.not_le.mpr h) hd).trans (next_congr ((if_neg (not_not.mpr hdie)).trans
      (if_pos (hstop.symm.imp State.helmPaused_iff.mpr id))))
  · exact (exec_doorbell_goes (Nat.not_le.mpr h) hd hdie hf hv).trans (next_congr (State.rung_work hw))
  · exact (exec_doorbell_goes (Nat.not_le.mpr h) hd hdie hf hv).trans (next_congr (State.rung_idle hw))
  -- A queue that takes a slot.
  · exact ⟨_, exec_helmQueueMap_maps hdie hn hl hf hv hw hs, rfl, rfl, State.mapped_lineOf hl,
      ⟨s.freshSlot die n p q, rfl, rfl, rfl, rfl, rfl, rfl, rfl, rfl, State.mapped_agenda.1⟩, State.mapped_agenda.2⟩
  -- A slice that ends, and an entry that begins.
  · refine (exec_helmSliceExpiry hz).trans (next_congr (if_neg ?_))
    rintro ⟨hw, hd, hf⟩
    obtain ⟨hs, hl⟩ := State.sliceDone_iff.mp hd
    obtain h | h | h | h := h
    · exact hw h
    · exact Nat.not_lt.mpr hs h
    · exact hl h
    · exact Bool.false_ne_true (hf.symm.trans h)
  · exact (exec_helmSliceExpiry hz).trans (next_congr (if_pos ⟨hw, State.sliceDone_iff.mpr ⟨hs, hl⟩, hf⟩))
  · exact (exec_helmEntryStart hz).trans (next_congr (if_pos hf))
  · rw [exec_helmEntryStart hz, hf, if_neg Bool.false_ne_true, if_pos (State.helmPaused_iff.mpr hv)]
  · rw [exec_helmEntryStart hz, hf, if_neg Bool.false_ne_true, if_neg (mt State.helmPaused_iff.mp hv), State.entryStart_unread hd]
  · rw [exec_helmEntryStart hz, hf, if_neg Bool.false_ne_true, if_neg (mt State.helmPaused_iff.mp hv), State.entryStart_reads hd he,
      if_neg (not_not.mpr hb)]
    rfl
  · rw [exec_helmEntryStart hz, hf, if_neg Bool.false_ne_true, if_neg (mt State.helmPaused_iff.mp hv), State.entryStart_reads hd he, if_pos hb]
    rfl
  -- The boundary before a node.
  · rw [State.nodeGo_eq, if_pos hf]
    rfl
  · rw [State.nodeGo_eq, hf, if_neg Bool.false_ne_true, if_pos (State.helmPaused_iff.mpr hv)]
    rfl
  · rw [State.nodeGo_goes hf hv, if_pos (State.sliceDone_iff.mpr ⟨hs, hl⟩)]
    rfl
  · rw [State.nodeGo_goes hf hv, State.sliceDone_not.mpr hs, if_neg Bool.false_ne_true, if_pos hi]
    rfl
  · rw [State.nodeGo_goes hf hv, State.sliceDone_not.mpr hs, if_neg Bool.false_ne_true, if_neg hi, hr]
    rfl
  · rw [State.nodeGo_goes hf hv, State.sliceDone_not.mpr hs, if_neg Bool.false_ne_true, if_neg hi, hr, Option.elim_some, State.nodeRead_reserved hn]
    rfl
  · rw [State.nodeGo_goes hf hv, State.sliceDone_not.mpr hs, if_neg Bool.false_ne_true, if_neg hi, hr, Option.elim_some, State.nodeRead_row hn,
      (s.nodeAt_sameReads z idx _).helmTime]
    rfl
  -- A slot that waits.
  · rw [State.waitFor_eq, if_pos hf]
  · rw [State.waitFor_eq, hf, if_neg Bool.false_ne_true, if_pos (State.helmPaused_iff.mpr hv)]
  · rw [State.waitFor_eq, hf, if_neg Bool.false_ne_true, if_neg (mt State.helmPaused_iff.mp hv), if_pos (State.sliceDone_iff.mpr ⟨hs, hl⟩)]
  · rw [State.waitFor_eq, hf, if_neg Bool.false_ne_true, if_neg (mt State.helmPaused_iff.mp hv), State.sliceDone_not.mpr hs, if_neg Bool.false_ne_true]

end Sys2Proof.Machine
end

section
/-! PROOFS of the statements of peers: writes from and to other packages (R404 to R409). -/

namespace Sys2Proof.Machine

section
variable {s t u : State} {p : Nat}

/-! ### Sources and the counter of discarded writes (R406) -/

theorem Part.accepts_iff {x : Part} {dev part : Nat} : x.accepts dev part = true ↔ ∃ k < 4, bitAt (x.csrN (0x0FB + k)) 31 = true ∧
    x.csrN (0x0FB + k) % 2 ^ 20 = dev ∧ (bitAt (x.csrN (0x0FB + k)) 30 = true ∨ bits (x.csrN (0x0FB + k)) 25 20 = part) := by
  have hdev (r : Nat) : bits r 19 0 = r % 2 ^ 20 := by rw [bits_div]; exact congrArg (· % 2 ^ 20) (Nat.div_one r)
  unfold Part.accepts
  simp only [List.any_eq_true, List.mem_range, Bool.and_eq_true, Bool.or_eq_true, beq_iff_eq, hdev, and_assoc]

/-- A field of a CSR that is raised changes nothing else of a partition. -/
theorem State.bumpCsr_part {α : Type} (π : Part → α) (q n hi lo : Nat) (hπ : ∀ (x : Part) v, π { x with csr := kset x.csr n v } = π x) :
    π ((s.bumpCsr q n hi lo).part p) = π (s.part p) :=
  ite_keeps (P := fun t : State => π (t.part p) = π (s.part p)) (part_modPart π s q p _ (fun _ => rfl) fun x => hπ x _) rfl

theorem State.bumpCsr_sameReads (q n hi lo : Nat) : s.SameReads p (s.bumpCsr q n hi lo) :=
  ite_keeps (P := s.SameReads p) (s.modPart_sameReads q _ (by exact fun _ => rfl) (by exact fun _ => rfl)) (.refl s)

/-! ### At the peer (R406, R407) -/

/-- The command of a write on its way turns on what is on its way and on the copies of its partition. -/
theorem State.peerCmd_congr {n : Nat} (ho : t.peerOut = s.peerOut) (hc : ∀ q, (t.part q).copies = (s.part q).copies) : t.peerCmd n = s.peerCmd n := by
  unfold State.peerCmd Part.copy?
  simp only [ho, hc]

theorem State.bumpCsr_peerCmd (q n hi lo m : Nat) : (s.bumpCsr q n hi lo).peerCmd m = s.peerCmd m :=
  State.peerCmd_congr (ite_keeps (P := fun t : State => t.peerOut = s.peerOut) rfl rfl) fun _ => State.bumpCsr_part Part.copies q n hi lo fun _ _ => rfl

/-- Where a peer write's pieces lie turns on the page tables. -/
theorem State.SameReads.ingressPieces (h : s.SameReads p t) (fuel va n : Nat) : t.ingressPieces p fuel va n = s.ingressPieces p fuel va n := by
  induction fuel generalizing va n with
  | zero => rfl
  | succ fuel ih =>
    unfold State.ingressPieces
    simp only [h.translate, h.mayWrite, ih]

theorem State.ingressRead_error {va n e : Nat} (h : s.ingressPieces p 3 va n = .error e) : s.ingressRead p va n = s := by
  have hdef : State.ingressRead = State.ingressRead := rfl
  conv at hdef => rhs; delta State.ingressRead
  rw [hdef]
  beta_reduce
  rw [h]

/-- A write outside the ingress window meets no line. -/
theorem State.ingressRead_outside {va n : Nat} (h : (s.part p).inIngress va n = false) : s.ingressRead p va n = s := by
  have hdef : State.ingressRead = State.ingressRead := rfl
  conv at hdef => rhs; delta State.ingressRead
  rw [hdef]
  beta_reduce
  rw [h]
  generalize s.ingressPieces p 3 va n = l
  cases l with
  | error _ => rfl
  | ok l => dsimp only; cases s.ingressFail l <;> rfl

theorem State.ingress_outside {va : Nat} {bs : List Byte} (h : (s.part p).inIngress va bs.length = false) : s.ingress p va bs = .error 0x03 := by
  unfold State.ingress
  rw [h]
  rfl

theorem State.ingress_error {va e : Nat} {bs : List Byte} (hi : (s.part p).inIngress va bs.length = true)
    (h : s.ingressPieces p 3 va bs.length = .error e) : s.ingress p va bs = .error e := by
  have hdef : State.ingress = State.ingress := rfl
  conv at hdef => rhs; delta State.ingress
  rw [hdef]
  beta_reduce
  rw [hi, h]
  rfl

theorem State.ingress_ok {va : Nat} {bs : List Byte} {l : List Piece} (hi : (s.part p).inIngress va bs.length = true)
    (h : s.ingressPieces p 3 va bs.length = .ok l) (hg : ∀ z ∈ l, s.badAt z.key z.len = false) : s.ingress p va bs = .ok (s.copyPut l bs) := by
  have hfail : s.ingressFail l = none := by
    unfold State.ingressFail
    rw [Option.map_eq_none_iff, List.find?_eq_none]
    exact fun z hz => by rw [hg z hz]; exact Bool.false_ne_true
  have hdef : State.ingress = State.ingress := rfl
  conv at hdef => rhs; delta State.ingress
  rw [hdef]
  beta_reduce
  rw [hi, h]
  dsimp only
  rw [hfail]
  rfl

/-- The partition takes writes of the source that a peer write comes from. -/
def State.takesPeer (s : State) : Prop :=
  (s.part s.arg.p).live = true ∧ (s.part s.arg.p).frozen = false ∧ (s.part s.arg.p).accepts (s.arg.z % 2 ^ 20) (s.arg.z / 2 ^ 20) = true

theorem State.takesPeer_iff : (!(s.part s.arg.p).live || (s.part s.arg.p).frozen || !(s.part s.arg.p).accepts (s.arg.z % 2 ^ 20) (s.arg.z / 2 ^ 20)) = false ↔
    s.takesPeer := by
  unfold State.takesPeer
  simp [and_assoc]

/-! The arguments of the row are introduced, and not put in: the kernel would evaluate what they are matched on. -/

theorem exec_peerIngressWrite_gone (hx : s.arg.x ≠ 0) (h : s.peerCmd s.arg.x = none) : exec .peerIngressWrite s = .next s := by
  change execPeerIngressWrite s = _
  unfold execPeerIngressWrite
  lift_lets
  intro a x answer
  rw [if_pos (by simp [a, hx, h])]

section
variable (hx : s.arg.x = 0) (hn : s.peerCmd 0 = none)
include hx hn

theorem exec_peerIngressWrite_refused (h : ¬s.takesPeer) : exec .peerIngressWrite s = .next (s.bumpCsr s.arg.p 0x0FF 31 0) := by
  have hbad := Bool.of_not_eq_false (mt State.takesPeer_iff.mp h)
  have hbump := (s.bumpCsr_peerCmd s.arg.p 0x0FF 31 0 0).trans hn
  change execPeerIngressWrite s = _
  unfold execPeerIngressWrite
  lift_lets
  intro a x answer
  have hans (u : State) (z : Nat) (l : List Nat) (hu : u.peerCmd 0 = none) : answer u z l = u := by simp only [answer, a, hx, hu]
  rw [if_neg (by simp [a, hx]), if_pos hbad]
  exact next_congr (hans _ _ _ hbump)

theorem exec_peerIngressWrite_signal (h : s.takesPeer) (hid : s.arg.id = 1) :
    (∀ u, s.postAdd s.arg.p s.arg.y = .ok u → u.peerCmd 0 = none → exec .peerIngressWrite s = .next u) ∧
    (∀ e, s.postAdd s.arg.p s.arg.y = .error e → exec .peerIngressWrite s = .next s) := by
  have hgood := Bool.eq_false_iff.mp (State.takesPeer_iff.mpr h)
  change (∀ u, _ → _ → execPeerIngressWrite s = _) ∧ (∀ e, _ → execPeerIngressWrite s = _)
  unfold execPeerIngressWrite
  lift_lets
  intro a x answer
  have hans (u : State) (z : Nat) (l : List Nat) (hu : u.peerCmd 0 = none) : answer u z l = u := by simp only [answer, a, hx, hu]
  rw [if_neg (by simp [a, hx]), if_neg hgood, if_pos hid]
  refine ⟨fun u hu hun => ?_, fun e he => ?_⟩
  · rw [hu]
    exact next_congr (hans _ _ _ hun)
  · rw [he]
    exact next_congr (hans _ _ _ hn)

theorem exec_peerIngressWrite_write (h : s.takesPeer) (hid : s.arg.id ≠ 1) :
    (∀ u, s.ingress s.arg.p s.arg.y (s.arg.l.map (BitVec.ofNat 8)) = .ok u → u.peerCmd 0 = none → exec .peerIngressWrite s = .next u) ∧
    (∀ e, s.ingress s.arg.p s.arg.y (s.arg.l.map (BitVec.ofNat 8)) = .error e →
      (s.bumpCsr s.arg.p 0x0FF 31 0).ingressRead s.arg.p s.arg.y s.arg.l.length = s.bumpCsr s.arg.p 0x0FF 31 0 →
      exec .peerIngressWrite s = .next (s.bumpCsr s.arg.p 0x0FF 31 0)) := by
  have hgood := Bool.eq_false_iff.mp (State.takesPeer_iff.mpr h)
  have hbump := (s.bumpCsr_peerCmd s.arg.p 0x0FF 31 0 0).trans hn
  change (∀ u, _ → _ → execPeerIngressWrite s = _) ∧ (∀ e, _ → _ → execPeerIngressWrite s = _)
  unfold execPeerIngressWrite
  lift_lets
  intro a x answer
  have hans (u : State) (z : Nat) (l : List Nat) (hu : u.peerCmd 0 = none) : answer u z l = u := by simp only [answer, a, hx, hu]
  rw [if_neg (by simp [a, hx]), if_neg hgood, if_neg hid]
  refine ⟨fun u hu hun => ?_, fun e he hread => ?_⟩
  · have hu : s.ingress a.p a.y (a.l.map (BitVec.ofNat 8)) = .ok u := hu
    rw [hu]
    exact next_congr (hans _ _ _ hun)
  · have he : s.ingress a.p a.y (a.l.map (BitVec.ofNat 8)) = .error e := he
    rw [he]
    refine next_congr ((hans _ _ _ ?_).trans hread)
    rw [hread, hbump]

end

/-- The ingress window turns on no other register. -/
theorem State.bumpCsr_inIngress (q hi lo va n : Nat) : ((s.bumpCsr q 0x0FF hi lo).part p).inIngress va n = (s.part p).inIngress va n :=
  State.bumpCsr_part (fun x => x.inIngress va n) q 0x0FF hi lo fun x v => by
    unfold Part.inIngress Part.base64 Part.csrN csrWord
    simp only [kget_kset _ _ _ _ (show (0x0F8 : Nat) ≠ 0x0FF by decide), kget_kset _ _ _ _ (show (0x0F8 + 1 : Nat) ≠ 0x0FF by decide),
      kget_kset _ _ _ _ (show (0x0FA : Nat) ≠ 0x0FF by decide)]

/-! ### Back at the sender (R405, R407) -/

theorem exec_peerWriteAck_gone (h : s.peerCmd s.arg.x = none) :
    exec .peerWriteAck s = .next (s.peerTake s.arg.x) ∧ exec .peerPathTimeout s = .next (s.peerTake s.arg.x) := by
  change execPeerWriteAck s = _ ∧ execPeerPathTimeout s = _
  unfold execPeerWriteAck execPeerPathTimeout
  simp only [h, and_self]

/-- The command whose write has been answered. -/
def CopyCmd.landed (c : CopyCmd) : CopyCmd := { c with flying := c.flying - 1 }

/-- The state in which the answer to a write has come. -/
def State.peerLanded (s : State) (w : PeerWrite) (c : CopyCmd) : State := (s.peerTake w.n).modCopy w.p c.num CopyCmd.landed

/-- What follows once a write's bytes count as progress of its command. -/
def State.peerGoes (s : State) (p : Nat) (v : CopyCmd) : State :=
  if v.flying ≠ 0 then s
  else if v.stopping then s.copyHalt p v
  else if v.closed || v.total ≤ v.sent then s.copyRow p v s.now .copyComplete 0
  else s

theorem State.copyAdvance_now (s : State) (p : Nat) (c : CopyCmd) (elems k : Nat) : (s.copyAdvance p c elems k).now = s.now :=
  (State.setWptr_grows ..).now

section
variable {w : PeerWrite} {c : CopyCmd} (h : s.peerCmd s.arg.x = some (w, c))
include h

theorem exec_peerPathTimeout : exec .peerPathTimeout s = .next ((s.peerTake w.n).copyFault w.p c 0x16 0 w.va) := by
  change execPeerPathTimeout s = _
  unfold execPeerPathTimeout
  simp only [h]

theorem exec_peerWriteAck_signal (hz : s.arg.z = 0) (hs : w.sig = true) :
    exec .peerWriteAck s = .next ((s.peerLanded w c).copyRow w.p c.landed s.now .copyComplete 1) := by
  change execPeerWriteAck s = _
  unfold execPeerWriteAck
  simp only [h, hz, hs, if_true]
  rfl

theorem exec_peerWriteAck_write (hz : s.arg.z = 0) (hs : w.sig = false) {v : CopyCmd}
    (hv : (((s.peerLanded w c).copyAdvance w.p c.landed w.elem w.data.length).part w.p).copy? c.num = some v) :
    exec .peerWriteAck s = .next (((s.peerLanded w c).copyAdvance w.p c.landed w.elem w.data.length).peerGoes w.p v) := by
  change execPeerWriteAck s = _
  unfold execPeerWriteAck
  unfold State.peerLanded CopyCmd.landed at *
  simp only [h, hz, hs, Bool.false_eq_true, if_false, hv]
  rfl

theorem exec_peerWriteAck_fault (hz : s.arg.z ≠ 0) (hz' : s.arg.z ≠ 4) :
    exec .peerWriteAck s = .next ((s.peerLanded w c).copyFault w.p c.landed 0x12 s.arg.z w.va) := by
  change execPeerWriteAck s = _
  unfold execPeerWriteAck
  simp only [h]
  split
  · rename_i h0; exact absurd h0 hz
  · rename_i h4 _; exact absurd h4 hz'
  · rfl

theorem exec_peerWriteAck_trap {code detail va : Nat} (hz : s.arg.z = 4) (hl : s.arg.l = [code, detail, va]) :
    exec .peerWriteAck s = .next ((((s.peerLanded w c).copyHalt w.p c.landed).copyTrap w.p c.landed code detail va).copyReturn w.p c.landed) := by
  change execPeerWriteAck s = _
  unfold execPeerWriteAck
  have hl' : ((s.peerTake w.n).modCopy w.p c.num (fun c => { c with flying := c.flying - 1 })).arg.l = [code, detail, va] := hl
  simp only [h, hz, hl']
  rfl

end

/-! ### Ports that fail (R409) -/

/-- The state in which a port has failed. -/
def State.portLost (s : State) : State := { s with ports := if s.ports.contains s.arg.x then s.ports else s.ports ++ [s.arg.x] }

/-- Is an answer to a write on its way? -/
def State.answering (s : State) (n : Nat) : Bool :=
  s.agenda.any (fun t => match t.act with
    | .row .peerWriteAck a => a.x == n
    | _ => false)

/-- What becomes of a write on its way once no path is left. -/
def State.pathLost (s : State) (w : PeerWrite) : State :=
  if s.answering w.n then
    (s.cancel (fun r a => r == .peerWriteAck && a.x == w.n)).sched (s.now + 850000) 0 .peerPathTimeout { p := w.p, x := w.n }
  else s

theorem exec_linkPortFail (s : State) : exec .linkPortFail s = .next (if s.portLost.ports.length < 16 then s.portLost
    else (s.peerOut.filter (fun w => !(s.part w.p).ownPeer w.peer)).foldl State.pathLost s.portLost) := rfl

theorem State.answering_of_mem {n : Nat} {e : Timed} {a : Args} (he : e ∈ s.agenda) (ha : e.act = .row .peerWriteAck a) (hx : a.x = n) :
    s.answering n = true :=
  List.any_eq_true.mpr ⟨e, he, by simp [ha, hx]⟩

/-- A write whose answer was on its way times out instead. -/
theorem State.pathLost_agenda {w : PeerWrite} {e : Timed} {a : Args} (he : e ∈ s.agenda) (ha : e.act = .row .peerWriteAck a) (hx : a.x = w.n) :
    e ∉ (s.pathLost w).agenda ∧ ⟨s.now + 850000, 0, 0, .row .peerPathTimeout { p := w.p, x := w.n }⟩ ∈ (s.pathLost w).agenda := by
  have hlost : s.pathLost w = (s.cancel (fun r a => r == .peerWriteAck && a.x == w.n)).sched (s.now + 850000) 0 .peerPathTimeout { p := w.p, x := w.n } :=
    if_pos (State.answering_of_mem he ha hx)
  rw [hlost]
  refine ⟨fun hmem => ?_, State.mem_sched ..⟩
  obtain rfl | hmem := (mem_ins _ _ _).mp hmem
  · cases ha
  · have hkept := (List.mem_filter.mp hmem).2
    rw [ha] at hkept
    simp [hx] at hkept

/-- What a port that fails leaves. -/
structure State.KeepsPeers (s t : State) : Prop where
  mem : t.mem = s.mem
  parts : t.parts = s.parts
  peerOut : t.peerOut = s.peerOut
  ports : t.ports = s.ports

theorem State.pathLost_keepsPeers (s : State) (w : PeerWrite) : s.KeepsPeers (s.pathLost w) :=
  ite_keeps (P := s.KeepsPeers) ⟨rfl, rfl, rfl, rfl⟩ ⟨rfl, rfl, rfl, rfl⟩

theorem State.pathsLost_keepsPeers (s : State) (l : List PeerWrite) : s.KeepsPeers (l.foldl State.pathLost s) :=
  foldl_keeps (P := s.KeepsPeers) ⟨rfl, rfl, rfl, rfl⟩ fun t w h =>
    have g := t.pathLost_keepsPeers w
    ⟨g.mem.trans h.mem, g.parts.trans h.parts, g.peerOut.trans h.peerOut, g.ports.trans h.ports⟩

theorem State.portLost_mem (s : State) : s.arg.x ∈ s.portLost.ports ∧ ∀ n ∈ s.ports, n ∈ s.portLost.ports := by
  change s.arg.x ∈ (if s.ports.contains s.arg.x then s.ports else s.ports ++ [s.arg.x]) ∧
    ∀ n ∈ s.ports, n ∈ (if s.ports.contains s.arg.x then s.ports else s.ports ++ [s.arg.x])
  split
  · rename_i h
    exact ⟨List.contains_iff_mem.mp h, fun n hn => hn⟩
  · exact ⟨List.mem_append_right _ (List.mem_singleton_self _), fun n hn => List.mem_append_left _ hn⟩

end

/-- Settles O51: the registers that a discarded write counts in are not those that its page tables and window stand in; the rest by the cases of
each row. -/
theorem peers : Obligations.Peers := by
  unfold Obligations.Peers
  refine ⟨?ingress, ?answers, fun s h => ⟨(exec_peerWriteAck_gone h).1, (exec_peerWriteAck_gone h).2, fun hx => exec_peerIngressWrite_gone hx h⟩, ?ports,
    fun x dev part => Part.accepts_iff⟩
  case ingress =>
    intro s a x ok bs hx hn
    refine ⟨exec_peerIngressWrite_refused hx hn, fun hok hid => ⟨fun hi => ?_, fun l hi hl hg hput => ?_, fun e hi he => ?_⟩,
      fun hok hid => exec_peerIngressWrite_signal hx hn hok hid⟩
    · refine (exec_peerIngressWrite_write hx hn hok hid).2 _ (State.ingress_outside hi) (State.ingressRead_outside ?_)
      rw [State.bumpCsr_inIngress]
      simpa [bs] using hi
    · exact (exec_peerIngressWrite_write hx hn hok hid).1 _ (State.ingress_ok hi hl hg) hput
    · refine (exec_peerIngressWrite_write hx hn hok hid).2 _ (State.ingress_error hi he) (State.ingressRead_error (e := e) ?_)
      rw [(s.bumpCsr_sameReads ..).ingressPieces]
      simpa [bs] using he
  case answers =>
    intro s w c h p u d
    refine ⟨exec_peerWriteAck_signal h, fun e hz h0 h4 => ?_, fun code detail va => exec_peerWriteAck_trap h,
      fun e hz hs he v hv hf => ⟨fun hstop => ?_, fun hstop hend => ?_⟩, exec_peerPathTimeout h⟩
    · subst hz
      exact exec_peerWriteAck_fault h h0 h4
    · subst he
      rw [exec_peerWriteAck_write h hz hs hv, State.peerGoes, if_neg (not_not.mpr hf), if_pos hstop]
      rfl
    · subst he
      rw [exec_peerWriteAck_write h hz hs hv, State.peerGoes, if_neg (not_not.mpr hf), hstop, if_neg Bool.false_ne_true, if_pos (by simpa using hend),
        State.copyAdvance_now]
      rfl
  case ports =>
    intro s
    obtain ⟨hmem, hports⟩ := s.portLost_mem
    have hexec := exec_linkPortFail s
    by_cases hn : s.portLost.ports.length < 16
    · rw [if_pos hn] at hexec
      exact ⟨_, hexec, rfl, rfl, rfl, hmem, hports, fun _ => rfl, fun w e a h => absurd h (Nat.not_le.mpr hn)⟩
    · rw [if_neg hn] at hexec
      have hkeeps := s.portLost.pathsLost_keepsPeers (s.peerOut.filter (fun w => !(s.part w.p).ownPeer w.peer))
      refine ⟨_, hexec, hkeeps.mem, hkeeps.parts, hkeeps.peerOut, ?_, ?_, fun h => ?_, fun w e a _ hout hown he ha hx => ?_⟩
      · rw [hkeeps.ports]; exact hmem
      · rw [hkeeps.ports]; exact hports
      · rw [hkeeps.ports] at h; exact absurd h hn
      · rw [hout, List.filter_cons_of_pos (by rw [hown]; rfl)]
        exact State.pathLost_agenda (s := s.portLost) he ha hx

end Sys2Proof.Machine
end

section
/-! PROOFS of the statements of resets: the ladder, its escalation and the function reset (R373, R383, R384, R400). -/

namespace Sys2Proof.Machine

section
variable {s t : State} {p : Nat}

theorem State.alive_iff : s.alive p = true ↔ ∃ y ∈ s.parts, y.num = p ∧ y.live = true := by
  unfold State.alive
  simp only [List.any_eq_true, Bool.and_eq_true, beq_iff_eq]

theorem State.alive_not (h : ¬∃ y ∈ s.parts, y.num = p ∧ y.live = true) : s.alive p = false := Bool.eq_false_iff.mpr (mt State.alive_iff.mp h)

/-! ### The first three rungs (R383) -/

theorem exec_resetQueue_acts (h : s.alive s.arg.p = true) (hq : s.arg.x < (s.part s.arg.p).csrN 0x0E2 % 2048) :
    exec .resetQueue s = .next ((s.clearQueue s.arg.p s.arg.x).reply 7 s.arg.p true) := by
  have hok : (s.alive s.arg.p && decide (s.arg.x < bits ((s.part s.arg.p).csrN 0x0E2) 10 0)) = true := by
    rw [h, bits_div]
    simpa using hq
  change execResetQueue s = _
  unfold execResetQueue
  simp only [hok, if_true]

theorem exec_resetQueue_denied (h : ¬(∃ y ∈ s.parts, y.num = s.arg.p ∧ y.live = true) ∨ (s.part s.arg.p).csrN 0x0E2 % 2048 ≤ s.arg.x) :
    exec .resetQueue s = .next (s.reply 7 s.arg.p false) := by
  have hbad : (s.alive s.arg.p && decide (s.arg.x < bits ((s.part s.arg.p).csrN 0x0E2) 10 0)) = false := by
    obtain h | h := h
    · rw [State.alive_not h, Bool.false_and]
    · rw [bits_div, Bool.and_eq_false_iff]
      exact .inr (by simpa using h)
  change execResetQueue s = _
  unfold execResetQueue
  simp only [hbad, Bool.false_eq_true, if_false]

/-- A look, or a start, that has no such context. -/
theorem exec_resetContext_denied (h : ¬(∃ y ∈ s.parts, y.num = s.arg.p ∧ y.live = true) ∨ s.arg.x ∉ (s.part s.arg.p).helmDies) :
    exec .resetContext s = .next (if s.arg.z = 1 then s else s.reply 7 s.arg.p false) := by
  have hbad : (!s.alive s.arg.p || !(s.part s.arg.p).helmDies.contains s.arg.x) = true := by
    obtain h | h := h
    · rw [State.alive_not h]; rfl
    · simp [h]
  change execResetContext s = _
  unfold execResetContext
  simp only [hbad, if_true]

theorem exec_resetContext (h : s.alive s.arg.p = true) (hx : s.arg.x ∈ (s.part s.arg.p).helmDies) : exec .resetContext s = .next
    (if s.arg.z = 1 then (if s.contextClear s.arg.p s.arg.x then s.endReset 2 s.arg.p s.arg.x
        else s.sched (s.now + 9) 0 .resetContext { s.arg with z := 1 })
      else ((s.startReset 2 s.arg.p s.arg.x 10).clearContext s.arg.p s.arg.x).sched
        (((s.startReset 2 s.arg.p s.arg.x 10).clearContext s.arg.p s.arg.x).now + 9) 0 .resetContext { s.arg with z := 1 }) := by
  have hgood : (!s.alive s.arg.p || !(s.part s.arg.p).helmDies.contains s.arg.x) = false := by simp [h, hx]
  change execResetContext s = _
  unfold execResetContext
  simp only [hgood, Bool.false_eq_true, if_false]

theorem exec_reset_denied (h : s.alive s.arg.p = false) : exec .resetEngine s = .next (s.reply 7 s.arg.p false) ∧
    exec .resetPartition s = .next (s.reply 7 s.arg.p false) ∧ exec .functionReset s = .next s := by
  change execResetEngine s = _ ∧ execResetPartition s = _ ∧ execFunctionReset s = _
  unfold execResetEngine execResetPartition execFunctionReset
  simp only [h, Bool.not_false, if_true, and_self]

theorem exec_resetEngine (h : s.alive s.arg.p = true) : exec .resetEngine s =
    .next (((s.startReset 3 s.arg.p s.arg.x 50).clearEngines s.arg.p s.arg.x).endReset 3 s.arg.p s.arg.x) := by
  change execResetEngine s = _
  unfold execResetEngine
  simp only [h, Bool.not_true, Bool.false_eq_true, if_false]

/-! ### The partition (R383, R400) -/

theorem exec_resetPartition (h : s.alive s.arg.p = true) : let n : Nat := (s.resets.filter (fun r => r.p == s.arg.p)).length
    let u := ({ s with resets := s.resets.filter (fun r => r.p != s.arg.p) } : State).clearPart s.arg.p
    exec .resetPartition s = .next { u with replies := u.replies ++ List.replicate (n + 1) (7, s.arg.p, 0) } := by
  change execResetPartition s = _
  unfold execResetPartition
  simp only [h, Bool.not_true, Bool.false_eq_true, if_false]

theorem exec_functionReset (h : s.alive s.arg.p = true) : exec .functionReset s = .next ((s.clearPart s.arg.p).modPart s.arg.p (fun x => { x with
    vf := { state := x.vf.state, held := x.vf.held, devid := x.vf.devid, msix := x.vf.msix } })) := by
  change execFunctionReset s = _
  unfold execFunctionReset
  simp only [h, Bool.not_true, Bool.false_eq_true, if_false]

/-! ### Escalation (R384) -/

/-- The next rung is one more step. -/
theorem State.escalate_sched (s : State) (rung p x : Nat) : ∃ i a, s.escalate rung p x = s.sched s.now 0 i a := by
  unfold State.escalate
  split <;> exact ⟨_, _, rfl⟩

theorem State.escalate_device {rung : Nat} (x : Nat) (h : 4 ≤ rung) : s.escalate rung p x = s.sched s.now 0 .resetDevice {} :=
  match rung, h with
  | _ + 4, _ => rfl

theorem exec_resetEscalate_done (h : ∀ r ∈ s.resets, ¬(r.p = s.arg.p ∧ r.x = s.arg.x ∧ r.rung = s.arg.y)) : exec .resetEscalate s = .next s := by
  have hnone : s.resets.any (fun r => r.p == s.arg.p && r.x == s.arg.x && r.rung == s.arg.y) = false := by
    rw [List.any_eq_false]
    exact fun r hr => by simpa [and_assoc] using h r hr
  change execResetEscalate s = _
  unfold execResetEscalate
  simp only [hnone, Bool.not_false, if_true]

/-- The state in which a reset has not completed in time. -/
def State.resetLate (s : State) : State :=
  ({ s with resets := s.resets.filter (fun r => !(r.p == s.arg.p && r.x == s.arg.x && r.rung == s.arg.y)) } : State).postPf s.arg.p 0x0A [s.arg.y, s.arg.x]

theorem exec_resetEscalate (h : ∃ r ∈ s.resets, r.p = s.arg.p ∧ r.x = s.arg.x ∧ r.rung = s.arg.y) :
    exec .resetEscalate s = .next (s.resetLate.escalate s.arg.y s.arg.p s.arg.x) := by
  have hsome : s.resets.any (fun r => r.p == s.arg.p && r.x == s.arg.x && r.rung == s.arg.y) = true := by
    simpa [and_assoc] using h
  change execResetEscalate s = _
  unfold execResetEscalate
  simp only [hsome, Bool.not_true, Bool.false_eq_true, if_false]
  rfl

theorem State.resetLate_resets (s : State) : ∀ r ∈ s.resetLate.resets, ¬(r.p = s.arg.p ∧ r.x = s.arg.x ∧ r.rung = s.arg.y) := by
  intro r hr
  simpa [imp_iff_not_or, and_assoc, or_assoc] using (List.mem_filter.mp hr).2

/-! ### What rung 4 leaves (R357, R383) -/

theorem Part.blank_share (x : Part) : x.blank.share = x.share := by
  have hword : (word (bits (x.csrN 0x0C2) 31 16 * 65536)).toNat = bits (x.csrN 0x0C2) 31 16 * 65536 := by
    rw [bits_div]
    refine (BitVec.toNat_ofNat _ 32).trans (Nat.mod_eq_of_lt ?_)
    omega
  change bits (word (bits (x.csrN 0x0C2) 31 16 * 65536)).toNat 31 16 = bits (x.csrN 0x0C2) 31 16
  rw [hword, bits_div, bits_div]
  omega

theorem Part.blank_csrN (x : Part) {n : Nat} (h : n ≠ 0x0C2) : x.blank.csrN n = ({ num := x.num } : Part).csrN n := by
  have hcsr : x.blank.csr = [(0x0C2, word (bits (x.csrN 0x0C2) 31 16 * 65536))] := rfl
  have hget : kget x.blank.csr n = none := by
    rw [hcsr]
    simp [kget, Ne.symm h]
  unfold Part.csrN csrWord
  rw [hget]
  rfl

/-- What an instance leaves as rung 4 kills it. -/
def State.instEnds (s : State) (p : Nat) (i : Inst) : State :=
  let s := s.flush p i.id
  match i.origin with
  | .launch _ rva _ => if i.status == .ended || rva = 0 then s else s.helmWrite p rva (List.replicate 8 0xFF)
  | _ => s

theorem State.endPart_eq (s : State) (p : Nat) : s.endPart p = (s.part p).insts.foldl (fun s i => s.instEnds p i) s := rfl

section
variable {i : Inst} (hp : (s.part p).posted = [])
include hp

/-- An instance whose stores have all performed, and which no LAUNCH has started, leaves nothing. -/
theorem State.instEnds_idle (hi : ∀ die rva h, i.origin ≠ .launch die rva h) : s.instEnds p i = s := by
  unfold State.instEnds
  rw [State.flush_nil hp]
  split
  · rename_i die rva h ho
    exact absurd ho (hi die rva h)
  · rfl

theorem State.instEnds_launch {die rva h : Nat} (ho : i.origin = .launch die rva h) : s.instEnds p i =
    if i.status = .ended ∨ rva = 0 then s else s.helmWrite p rva (List.replicate 8 0xFF) := by
  unfold State.instEnds
  rw [State.flush_nil hp]
  simp only [ho, Bool.or_eq_true, beq_iff_eq, decide_eq_true_eq]

theorem State.endPart_idle (hi : ∀ i ∈ (s.part p).insts, ∀ die rva h, i.origin ≠ .launch die rva h) : s.endPart p = s := by
  rw [State.endPart_eq]
  generalize (s.part p).insts = l at hi
  induction l with
  | nil => rfl
  | cons i l ih =>
    rw [List.foldl_cons, State.instEnds_idle hp (hi i List.mem_cons_self)]
    exact ih fun j hj => hi j (List.mem_cons_of_mem _ hj)

end

/-- The state in which rung 4 has cleared what stands outside a partition that has neither pages, nor slots, nor requests, nor objects in memory. -/
def State.partCleared (s : State) (p : Nat) : State :=
  { s with
    agenda := s.agenda.filter (fun t => match t.act with
      | .row i a => a.p != p || deviceRow i
      | .fire q _ _ => q != p)
    helmSlots := s.helmSlots.filter (fun z => z.p != p), helmLine := s.helmLine.filter (fun l => l.2.1 != p)
    helmSaved := s.helmSaved.filter (fun z => z.p != p), plait := s.plait.filter (fun e => e.part != p)
    peerOut := s.peerOut.filter (fun w => w.p != p), oldPtes := s.oldPtes.filter (fun r => r.p != p) }

theorem State.clearPart_idle (he : s.endPart p = s) (hr : (s.part p).preempts = []) (ho : ∀ o ∈ (s.part p).objs, o.va = 0) (hs : s.helmSlots = [])
    (hm : (s.part p).map = []) : let u := (s.partCleared p).modPart p Part.blank
    s.clearPart p = if (u.part p).vf.held.isEmpty then u else u.sched s.now 0 .eventRecordWrite { p := p } := by
  have hobjs : (s.part p).objs.filter (fun o => o.va != 0) = [] := by
    rw [List.filter_eq_nil_iff]
    exact fun o h => by simp [ho o h]
  unfold State.clearPart
  simp only [he, hr, hobjs, hs, hm, List.foldl_nil, List.filter_nil, List.map_nil]
  unfold State.partCleared
  rw [hs]
  rfl

theorem State.partCleared_agenda {e : Timed} (he : e ∈ (s.partCleared p).agenda) :
    (∀ i a, e.act = .row i a → a.p = p → deviceRow i = true) ∧ ∀ q pg tile, e.act = .fire q pg tile → q ≠ p := by
  have hkept := (List.mem_filter.mp he).2
  refine ⟨fun i a ha hp => ?_, fun q pg tile ha => ?_⟩
  · rw [ha] at hkept
    simpa [hp] using hkept
  · rw [ha] at hkept
    simpa using hkept

end

/-- Settles O57: each rung by the cases of its row; a partition with nothing under way leaves nothing but its resources. -/
theorem resetLadder : Obligations.ResetLadder := by
  unfold Obligations.ResetLadder
  refine ⟨fun s => ⟨fun h hq => exec_resetQueue_acts (State.alive_iff.mpr h) hq, exec_resetQueue_denied, fun h => ?noContext, fun h hx hz => ?looks,
    fun h hx hz hnow => ?starts, fun h => exec_reset_denied (State.alive_not h), fun h => ?acts, ?device, exec_resetEscalate_done, fun h => ?escalates⟩,
    fun s p x hparts hx hr ho hs hm hp hi => ?clears, fun s p die rva h i l hi hp ho => ?ends, fun x => ?blank⟩
  case noContext =>
    have hexec := exec_resetContext_denied h
    exact ⟨fun hz => by rw [hexec, if_pos hz], fun hz => hexec.trans (next_congr (if_neg hz))⟩
  case looks =>
    have hexec := exec_resetContext (State.alive_iff.mpr h) hx
    rw [if_pos hz] at hexec
    exact ⟨fun hc => by rw [hexec, if_pos hc], fun hc => by rw [hexec, hc]; rfl⟩
  case starts =>
    rw [exec_resetContext (State.alive_iff.mpr h) hx, if_neg hz, hnow]
  case acts =>
    have h := State.alive_iff.mpr h
    exact ⟨exec_resetEngine h, exec_resetPartition h, exec_functionReset h⟩
  case device => exact ⟨_, rfl, rfl, rfl, rfl, rfl, rfl, rfl, rfl, rfl⟩
  case escalates =>
    obtain ⟨i, a, hsched⟩ := s.resetLate.escalate_sched s.arg.y s.arg.p s.arg.x
    refine ⟨_, exec_resetEscalate h, ?_, ?_, ?_, ?_, fun hy => ?_, fun hy => ?_, fun hy => ?_⟩
    · rw [hsched]; rfl
    · rw [hsched]; rfl
    · rw [hsched]; exact s.resetLate_resets
    · rw [hsched]; exact ⟨_, rfl, rfl, rfl⟩
    · rw [hy]; rfl
    · rw [hy]; rfl
    · rw [State.escalate_device _ hy]; rfl
  case clears =>
    have hpart : s.part p = x := by unfold State.part; rw [hparts]; simp [hx]
    subst hpart
    intro t
    have ht := State.clearPart_idle (State.endPart_idle hp hi) hr ho hs hm
    have hblank : ((s.partCleared p).modPart p Part.blank).parts = [(s.part p).blank] := by
      change s.parts.map (fun x => if x.num == p then x.blank else x) = _
      rw [hparts]
      simp [hx]
    dsimp only at ht
    split at ht
    · rw [show t = _ from ht]
      exact ⟨rfl, hblank, fun e he i a ha hap => .inl ((State.partCleared_agenda he).1 i a ha hap), fun e he => (State.partCleared_agenda he).2⟩
    · rw [show t = _ from ht]
      refine ⟨rfl, hblank, fun e he i a ha hap => ?_, fun e he q pg tile ha => ?_⟩
      · obtain rfl | he := (mem_ins _ _ _).mp he
        · cases ha; exact .inr rfl
        · exact .inl ((State.partCleared_agenda he).1 i a ha hap)
      · obtain rfl | he := (mem_ins _ _ _).mp he
        · cases ha
        · exact (State.partCleared_agenda he).2 q pg tile ha
  case ends =>
    have hend : s.endPart p = if i.status = .ended ∨ rva = 0 then s else s.helmWrite p rva (List.replicate 8 0xFF) := by
      rw [State.endPart_eq, hi]
      exact State.instEnds_launch hp ho
    refine ⟨fun h => by rw [hend, if_pos h], fun hst hrva hw hl hm hb => ?_⟩
    rw [hend, if_neg (by simp [hst, hrva]), State.helmWrite_leaf hw hl, if_pos hm]
    exact if_neg (Bool.eq_false_iff.mp hb)
  case blank =>
    exact ⟨rfl, rfl, rfl, rfl, rfl, rfl, rfl, rfl, rfl, rfl, rfl, rfl, rfl, rfl, rfl, rfl, rfl, x.blank_share, fun n => x.blank_csrN⟩

end Sys2Proof.Machine
end

section
/-! PROOFS of the statements of booting, spares, power and heat (R372, R419 to R425). -/

namespace Sys2Proof.Machine

/-! ### Memory of which cells are taken out (R205, R373, R419) -/

/-- A key of which every cell is taken out reads 0. -/
theorem Mem.byte_filter_gone {f : Host.Cell → Bool} {k : Nat} (h : ∀ b, f (k, b) = false) (m : List Host.Cell) : Mem.byte (m.filter f) k = 0 := by
  induction m with
  | nil => rfl
  | cons c m ih =>
    obtain ⟨x, y⟩ := c
    by_cases hf : f (x, y) = true
    · have hk : k ≠ x := fun hk => by rw [hk] at h; exact Bool.false_ne_true ((h y).symm.trans hf)
      rw [List.filter_cons_of_pos hf, Mem.byte, if_neg hk]
      split
      · rfl
      · exact ih
    · rw [List.filter_cons_of_neg hf]
      exact ih

/-- A key of which no cell is taken out reads as before. -/
theorem Mem.byte_filter_kept {f : Host.Cell → Bool} {k : Nat} (h : ∀ b, f (k, b) = true) {m : List Host.Cell} : ∀ {lo : Nat}, Mem.wfFrom lo m = true →
    Mem.byte (m.filter f) k = Mem.byte m k := by
  induction m with
  | nil => exact fun _ => rfl
  | cons c m ih =>
    intro lo w
    obtain ⟨x, y⟩ := c
    have hm : Mem.wfFrom (x + 1) m = true := by
      simp only [Mem.wfFrom, Bool.and_eq_true] at w
      exact w.2
    by_cases hf : f (x, y) = true
    · rw [List.filter_cons_of_pos hf, Mem.byte, Mem.byte, ih hm]
    · have hk : k ≠ x := fun hk => hf (hk ▸ h y)
      rw [List.filter_cons_of_neg hf, Mem.byte, if_neg hk]
      split
      · exact Mem.byte_below (Mem.filter_wfFrom hm) (by omega)
      · exact ih hm

section
variable {s : State}

/-! ### Booting (R419, R420) -/

theorem onDie_activeUnits (d e phys n : Nat) (bad : List (Nat × Nat)) : onDie d (activeUnits e phys n bad) = if d = e then activeUnits e phys n bad else [] := by
  have hdie : ∀ c ∈ activeUnits e phys n bad, c.1 = e := by
    intro c hc
    obtain ⟨k, -, rfl⟩ := List.mem_map.mp (List.mem_of_mem_filter (List.mem_of_mem_take hc))
    rfl
  unfold onDie
  split
  · rename_i h
    exact List.filter_eq_self.mpr fun c hc => beq_iff_eq.mpr ((hdie c hc).trans h.symm)
  · rename_i h
    exact List.filter_eq_nil_iff.mpr fun c hc => fun hd => h ((beq_iff_eq.mp hd).symm.trans (hdie c hc))

/-- The units of a die among those of the four. -/
theorem onDie_flatMap {d phys n : Nat} {bad : List (Nat × Nat)} (h : d < 4) :
    onDie d ([0, 1, 2, 3].flatMap (fun d => activeUnits d phys n bad)) = activeUnits d phys n bad := by
  have hsplit : onDie d ([0, 1, 2, 3].flatMap (fun d => activeUnits d phys n bad)) =
      [0, 1, 2, 3].flatMap (fun e => onDie d (activeUnits e phys n bad)) := List.filter_flatMap ..
  rw [hsplit]
  simp only [onDie_activeUnits]
  interval_cases d <;> simp

theorem State.bootFails_none (hb : s.bridges = []) (hf : s.module.failStep = 0)
    (hd : ∀ d < 4, 2 ≤ (onDie d s.module.clusters).length ∧ 8 ≤ (onDie d s.module.channels).length) : s.bootFails = none := by
  have hgood : [0, 1, 2, 3].find? (fun d => decide ((onDie d s.module.clusters).length < 2) || decide ((onDie d s.module.channels).length < 8)) = none := by
    rw [List.find?_eq_none]
    intro d hmem
    obtain ⟨h1, h2⟩ := hd d (by simp at hmem; omega)
    simp only [Bool.or_eq_true, decide_eq_true_eq]
    omega
  unfold State.bootFails
  simp only [hf, hb, hgood]
  rfl

theorem State.bootFails_step (h1 : 1 ≤ s.module.failStep) (h4 : s.module.failStep ≤ 4) (hb : s.bridges = []) :
    s.bootFails = some (s.module.failStep, s.module.cause) := by
  unfold State.bootFails
  by_cases h2 : s.module.failStep ≤ 2
  · simp [h1, h2]
  · simp [h2, hb, h4, show 3 ≤ s.module.failStep by omega]

/-- The state that a boot leaves of which a step has failed. -/
def State.bootFailed (s : State) (b : Nat × Nat) : State := { s.clearDevice with power := .failed, boot := b, clusters := [], channels := [] }

theorem exec_powerOn_fails {b : Nat × Nat} (h : s.bootFails = some b) :
    exec .powerOn s = .next (if s.arg.z = 1 then (s.bootFailed b).reply 7 0 false else s.bootFailed b) := by
  have h : s.clearDevice.bootFails = some b := h
  change execPowerOn s = _
  unfold execPowerOn
  simp only [h]
  rfl

/-- The state that a boot leaves, before what heat and a reset's answer add. -/
def State.booted (s : State) : State :=
  ({ s.clearDevice with
    power := .on, boot := (0, 0), reports := [reportOf s.arg.x none], clusters := s.module.clusters, channels := s.module.channels, fe := [], guard := [], tree := []
    badLines := [], mem := (Mem.clear s.mem 0 (2 ^ 45)).filter (fun c => !isSram c.1)
    credits := s.module.clusters.map (fun (c : Nat × Nat) => (c.1, c.2, 0)) } : State).sched (s.now + 8500) 0 .powerRefill {}

/-- A module that is hot after a boot goes on giving up power. -/
def State.bootedHot (s : State) : State := if s.hot then s.booted.sched (s.now + 850000) 0 .thermalStep {} else s.booted

theorem exec_powerOn (h : s.bootFails = none) : exec .powerOn s = .next (if s.arg.z = 1 then s.bootedHot.reply 7 0 true else s.bootedHot) := by
  have h : s.clearDevice.bootFails = none := h
  change execPowerOn s = _
  unfold execPowerOn
  simp only [h]
  rfl

theorem State.sched_agenda (s : State) (at' src : Nat) (i : Instr) (a : Args) :
    (s.sched at' src i a).agenda = insTimed ⟨at', 0, src, .row i a⟩ s.agenda := rfl

theorem State.sched_changes (s : State) (at' src : Nat) (i : Instr) (a : Args) :
    s.sched at' src i a = { s with agenda := (s.sched at' src i a).agenda } := rfl

theorem State.bootedHot_agenda (s : State) : s.bootedHot.agenda =
    ⟨s.now + 8500, 0, 0, .row .powerRefill {}⟩ :: (if s.hot then [⟨s.now + 850000, 0, 0, .row .thermalStep {}⟩] else []) := by
  have hle : Timed.le ⟨s.now + 8500, 0, 0, .row .powerRefill {}⟩ ⟨s.now + 850000, 0, 0, .row .thermalStep {}⟩ = true := by
    simp [Timed.le]
  have hbooted : s.booted.agenda = [⟨s.now + 8500, 0, 0, .row .powerRefill {}⟩] := rfl
  unfold State.bootedHot
  cases s.hot with
  | false => exact hbooted
  | true =>
    rw [if_pos rfl, State.sched_agenda, hbooted, insTimed, if_pos hle]
    rfl

theorem State.bootedHot_eq (s : State) : s.bootedHot = { s.booted with agenda := s.bootedHot.agenda } := by
  unfold State.bootedHot
  cases s.hot with
  | false => rfl
  | true => exact State.sched_changes ..

/-- A boot of which no step fails. -/
theorem exec_powerOn_booted (h : s.bootFails = none) : exec .powerOn s = .next { s.booted with
    agenda := ⟨s.now + 8500, 0, 0, .row .powerRefill {}⟩ :: (if s.hot then [⟨s.now + 850000, 0, 0, .row .thermalStep {}⟩] else [])
    replies := if s.arg.z = 1 then s.replies ++ [(7, 0, 0)] else s.replies } := by
  rw [exec_powerOn h, State.bootedHot_eq, State.bootedHot_agenda]
  split <;> rfl

/-- A boot leaves of memory what is neither DRAM nor tile SRAM. -/
theorem State.booted_byte (s : State) (k : Nat) : (k < 2 ^ 45 ∨ isSram k = true → Mem.byte s.booted.mem k = 0) ∧
    (Mem.wf s.mem = true → 2 ^ 45 ≤ k → isSram k = false → Mem.byte s.booted.mem k = Mem.byte s.mem k) := by
  have hmem : s.booted.mem = s.mem.filter (fun c => (!isSram c.1) && (decide (c.1 < 0) || decide (0 + 2 ^ 45 ≤ c.1))) := by
    change (Mem.clear s.mem 0 (2 ^ 45)).filter (fun c => !isSram c.1) = _
    unfold Mem.clear
    rw [List.filter_filter]
  rw [hmem]
  refine ⟨fun h => Mem.byte_filter_gone (fun b => ?_) _, fun w h1 h2 => Mem.byte_filter_kept (fun b => ?_) w⟩
  · obtain h | h := h
    · simp only [Bool.and_eq_false_iff, Bool.or_eq_false_iff, decide_eq_false_iff_not]
      omega
    · simp [h]
  · simp only [h2, Bool.not_false, Bool.true_and, Bool.or_eq_true, decide_eq_true_eq]
    omega

/-! ### Power and heat (R373, R423, R424) -/

theorem State.powerOff_byte (s : State) (k : Nat) : (isHost k = false → Mem.byte s.powerOff.mem k = 0) ∧
    (Mem.wf s.mem = true → isHost k = true → Mem.byte s.powerOff.mem k = Mem.byte s.mem k) :=
  ⟨fun h => Mem.byte_filter_gone (fun _ => h) s.mem, fun w h => Mem.byte_filter_kept (fun _ => h) w⟩

section
variable (h : s.power ≠ .on)
include h

theorem exec_power_off : exec .powerRefill s = .next s ∧ exec .thermalStep s = .next s ∧ (s.arg.z ≠ 1 → exec .thermalLimit s = .next s) ∧
    exec .channelSpareSwitch s = .next s := by
  have hoff : (s.power != .on) = true := bne_iff_ne.mpr h
  change execPowerRefill s = _ ∧ execThermalStep s = _ ∧ (_ → execThermalLimit s = _) ∧ execChannelSpareSwitch s = _
  unfold execPowerRefill execThermalStep execThermalLimit execChannelSpareSwitch
  simp only [hoff, Bool.true_or, if_true, true_and, and_true]
  exact fun hz => by rw [if_neg hz]

end

/-- What a bucket holds. -/
def State.credit (s : State) (c : Nat × Nat) : Nat :=
  ((s.credits.find? (fun (k : Nat × Nat × Nat) => k.1 == c.1 && k.2.1 == c.2)).map (fun (k : Nat × Nat × Nat) => k.2.2)).getD 0

/-- What the buckets hold after a refill. -/
def State.refilled (s : State) : List (Nat × Nat × Nat) := s.clusters.map (fun c => (c.1, c.2, min (s.credit c + s.refill) (2 * s.refill)))

theorem State.refilled_clusters (s : State) : s.refilled.map (fun k => (k.1, k.2.1)) = s.clusters := by
  unfold State.refilled
  rw [List.map_map]
  exact List.map_id _

theorem State.refilled_le (s : State) : ∀ k ∈ s.refilled, k.2.2 ≤ 2 * s.refill := by
  intro k hk
  obtain ⟨c, -, rfl⟩ := List.mem_map.mp hk
  exact Nat.min_le_right ..

section
variable (h : s.power = .on)
include h

theorem State.power_on : (s.power != .on) = false := by rw [h]; rfl

theorem exec_powerRefill : exec .powerRefill s = .next (({ s with credits := s.refilled } : State).sched (s.now + 8500) 0 .powerRefill {}) := by
  change execPowerRefill s = _
  unfold execPowerRefill
  simp only [State.power_on h]
  rfl

theorem exec_thermalLimit_starts (hz : s.arg.z ≠ 1) (hh : s.hot = false) :
    exec .thermalLimit s = .next (({ s with hot := true } : State).sched (s.now + 850000) 0 .thermalStep {}) := by
  change execThermalLimit s = _
  unfold execThermalLimit
  simp only [if_neg hz, State.power_on h, hh]
  rfl

theorem exec_thermalStep (hh : s.hot = true) : exec .thermalStep s = .next
    (({ s with limit := s.limit * 9 / 10, replies := s.replies ++ [(18, s.limit * 9 / 10, 0)] } : State).sched (s.now + 850000) 0 .thermalStep {}) := by
  change execThermalStep s = _
  unfold execThermalStep
  simp only [State.power_on h, hh]
  rfl

theorem exec_moduleLimit (hx : s.arg.x ≤ 2600) : exec .moduleLimit s = .next { s with limit := s.arg.x, replies := s.replies ++ [(17, 0, 0)] } :=
  next_congr (State.command_acts (by simp [h, hx]))

end

theorem exec_moduleLimit_denied (h : s.power ≠ .on ∨ 2600 < s.arg.x) : exec .moduleLimit s = .next { s with replies := s.replies ++ [(17, 0, 1)] } := by
  refine next_congr (State.command_denied ?_)
  obtain h | h := h
  · simp [h]
  · simp [h]

theorem exec_thermalLimit_hot (hz : s.arg.z ≠ 1) (hh : s.hot = true) : exec .thermalLimit s = .next s := by
  change execThermalLimit s = _
  unfold execThermalLimit
  simp only [if_neg hz, hh, Bool.or_true, if_true]

theorem exec_thermalStep_cool (hh : s.hot = false) : exec .thermalStep s = .next s := by
  change execThermalStep s = _
  unfold execThermalStep
  simp only [hh, Bool.not_false, Bool.or_true, if_true]

theorem exec_bridgeLoss (s : State) : ∃ t, exec .bridgeLoss s = .next t ∧ s.arg.x ∈ t.bridges ∧ { t with bridges := s.bridges } = s := by
  refine ⟨_, rfl, ?_⟩
  split
  · rename_i hb
    exact ⟨List.contains_iff_mem.mp hb, rfl⟩
  · exact ⟨List.mem_append_right _ (List.mem_singleton_self _), rfl⟩

/-! ### Spare channels (R422) -/

section
variable (h : s.power = .on)
include h

theorem exec_channelSpareSwitch_none (hc : (onDie s.arg.x s.channels)[s.arg.y]? = none) : exec .channelSpareSwitch s = .next s := by
  change execChannelSpareSwitch s = _
  unfold execChannelSpareSwitch
  simp only [State.power_on h, hc]
  rfl

theorem exec_channelSpareSwitch {c : Nat × Nat} (hc : (onDie s.arg.x s.channels)[s.arg.y]? = some c) :
    (c ∈ s.worn → exec .channelSpareSwitch s = .next s) ∧
    (∀ n, c ∉ s.worn → spareOf s.arg.x 66 s.module.badChannels s.channels s.worn = some n → exec .channelSpareSwitch s =
      .next { s with channels := s.channels.map (fun k => if k == c then n else k), worn := s.worn ++ [c] }) ∧
    (c ∉ s.worn → spareOf s.arg.x 66 s.module.badChannels s.channels s.worn = none → exec .channelSpareSwitch s =
      .next (({ s with worn := s.worn ++ [c] } : State).reduceBandwidth s.arg.x)) := by
  change (_ → execChannelSpareSwitch s = _) ∧ (∀ n, _ → _ → execChannelSpareSwitch s = _) ∧ (_ → _ → execChannelSpareSwitch s = _)
  unfold execChannelSpareSwitch
  simp only [State.power_on h, hc, Bool.false_eq_true, if_false, List.contains_eq_mem, decide_eq_true_eq]
  refine ⟨fun hw => by rw [if_pos hw], fun n hw hn => by simp only [if_neg hw, hn], fun hw hn => by simp only [if_neg hw, hn]⟩

end

/-! ### Clusters that retire (R372, R422) -/

/-- Does a reclaim of pages of a die go on? -/
def State.reclaiming (s : State) (die : Nat) : Bool := s.parts.any (fun x => x.preempts.any (fun r => r.reclaim && r.pgs.any (fun pg => pg / 256 == die)))

theorem State.reclaiming_iff {die : Nat} :
    s.reclaiming die = true ↔ ∃ x ∈ s.parts, ∃ r ∈ x.preempts, r.reclaim = true ∧ ∃ pg ∈ r.pgs, pg / 256 = die := by
  unfold State.reclaiming
  simp only [List.any_eq_true, Bool.and_eq_true, beq_iff_eq]

/-- The next look at a cluster that retires. -/
def State.retireAgain (s : State) (a : Args) : State := s.sched (s.now + 64) 0 .clusterRetire a

theorem exec_clusterRetire_remaps (hz : s.arg.z = 2) : exec .clusterRetire s = .next (if s.reclaiming s.arg.x then s.retireAgain s.arg
    else s.remapLost (pairs s.arg.l)) := by
  change execClusterRetire s = _
  unfold execClusterRetire
  simp only [hz, if_true]
  rfl

theorem exec_clusterRetire_idle (hz : s.arg.z ≠ 2)
    (h : s.power ≠ .on ∨ (s.arg.x, s.arg.y) ∉ s.clusters ∨ (s.arg.z = 0 ∧ (s.arg.x, s.arg.y) ∈ s.retired)) : exec .clusterRetire s = .next s := by
  have hidle : (s.power != .on || !s.clusters.contains (s.arg.x, s.arg.y) || (s.arg.z = 0 && s.retired.contains (s.arg.x, s.arg.y))) = true := by
    simpa [or_assoc] using h
  change execClusterRetire s = _
  unfold execClusterRetire
  simp only [if_neg hz, hidle, if_true]

/-- The state in which a cluster is to retire. -/
def State.retiring (s : State) : State :=
  { s with retired := s.retired ++ [(s.arg.x, s.arg.y)], cfgErrs := s.cfgErrs.filter (fun e => !(e.1 == s.arg.x && e.2.1 == s.arg.y)) }

section
variable (h : s.power = .on) (hc : (s.arg.x, s.arg.y) ∈ s.clusters)
include h hc

/-- A cluster that the device has retires, unless it does so already. -/
theorem State.retire_goes (hr : s.arg.z = 0 → (s.arg.x, s.arg.y) ∉ s.retired) :
    (s.power != .on || !s.clusters.contains (s.arg.x, s.arg.y) || (s.arg.z = 0 && s.retired.contains (s.arg.x, s.arg.y))) = false := by
  simpa [h, hc] using hr

theorem exec_clusterRetire_starts (hz : s.arg.z = 0) (hr : (s.arg.x, s.arg.y) ∉ s.retired) (hl : s.clusterPages s.arg.x s.arg.y = []) :
    exec .clusterRetire s = .next (s.retiring.retireAgain { s.arg with z := 1 }) := by
  have h2 : s.arg.z ≠ 2 := by omega
  change execClusterRetire s = _
  unfold execClusterRetire
  simp only [if_neg h2, State.retire_goes h hc fun _ => hr, if_pos hz, hl]
  rfl

/-- Are the pages of the cluster clear? -/
def State.retireClear (s : State) : Bool := (s.clusterPages s.arg.x s.arg.y).all (fun z => s.pageClear z.1 z.2)

section
variable (hz : s.arg.z = 1)
include hz

theorem exec_clusterRetire_waits (hp : s.retireClear = false) : exec .clusterRetire s = .next (s.retireAgain s.arg) := by
  have h2 : s.arg.z ≠ 2 := by omega
  have h0 : s.arg.z ≠ 0 := by omega
  unfold State.retireClear at hp
  change execClusterRetire s = _
  unfold execClusterRetire
  simp only [if_neg h2, State.retire_goes h hc fun h => absurd h h0, if_neg h0, hp]
  rfl

/-- The state in which a cluster's pages, or its loss, have been taken. -/
def State.retireLost (s : State) : State := (({ s with clusters := s.clusters.filter (fun c => c != (s.arg.x, s.arg.y)) } : State).unholdPre true).reducePages s.arg.x

theorem exec_clusterRetire_lost (hp : s.retireClear = true) (hn : spareOf s.arg.x 11 s.module.badClusters s.clusters s.retired = none) :
    exec .clusterRetire s = .next (s.retireLost.retireAgain { s.arg with z := 2, l := (s.clusterPages s.arg.x s.arg.y).flatMap (fun z => [z.1, z.2]) }) := by
  have h2 : s.arg.z ≠ 2 := by omega
  have h0 : s.arg.z ≠ 0 := by omega
  unfold State.retireClear at hp
  change execClusterRetire s = _
  unfold execClusterRetire
  simp only [if_neg h2, State.retire_goes h hc fun h => absurd h h0, if_neg h0, hp, hn]
  rfl

/-- The entry of the page map that follows a page from a cluster to another. -/
def movedEntry (die cl dst : Nat) (m : Nat × Nat × Nat × Nat) : Nat × Nat × Nat × Nat :=
  if m.1 / 256 == die && m.2.1 / 16 == cl then mapEntry m.1 (dst * 16 + m.2.1 % 16) else m

/-- The state in which a spare has taken a cluster's place. -/
def State.retireMoved (s : State) (n : Nat × Nat) : State :=
  { s.moveCluster s.arg.x s.arg.y n.2 with
    clusters := s.clusters.map (fun c => if c == (s.arg.x, s.arg.y) then n else c)
    parts := s.parts.map (fun (x : Part) => { x with map := x.map.map (movedEntry s.arg.x s.arg.y n.2) }) }

theorem exec_clusterRetire_moves {n : Nat × Nat} (hp : s.retireClear = true) (hn : spareOf s.arg.x 11 s.module.badClusters s.clusters s.retired = some n) :
    exec .clusterRetire s = .next ((s.retireMoved n).unholdPre false) := by
  have h2 : s.arg.z ≠ 2 := by omega
  have h0 : s.arg.z ≠ 0 := by omega
  unfold State.retireClear at hp
  change execClusterRetire s = _
  unfold execClusterRetire
  simp only [if_neg h2, State.retire_goes h hc fun h => absurd h h0, if_neg h0, hp, hn]
  rfl

end

end

/-- What becomes of requests leaves the clusters and the page maps. -/
theorem State.unholdPre_maps (s : State) (b : Bool) : (s.unholdPre b).clusters = s.clusters ∧ (s.unholdPre b).parts.map Part.map = s.parts.map Part.map := by
  unfold State.unholdPre
  refine foldl_keeps (P := fun t : State => t.clusters = s.clusters ∧ t.parts.map Part.map = s.parts.map Part.map) ⟨rfl, rfl⟩ fun t p h =>
    ite_keeps (P := fun t : State => t.clusters = s.clusters ∧ t.parts.map Part.map = s.parts.map Part.map) ⟨h.1, ?_⟩ h
  rw [← h.2]
  change (t.parts.map _).map Part.map = _
  rw [List.map_map]
  exact List.map_congr_left fun x _ => by dsimp only [Function.comp]; split <;> rfl

theorem State.retireMoved_maps (s : State) (n : Nat × Nat) : (s.retireMoved n).parts.map Part.map = s.parts.map (fun x => x.map.map (fun m =>
    if m.1 / 256 = s.arg.x ∧ m.2.1 / 16 = s.arg.y then mapEntry m.1 (n.2 * 16 + m.2.1 % 16) else m)) := by
  change (s.parts.map _).map Part.map = _
  rw [List.map_map]
  refine List.map_congr_left fun x _ => List.map_congr_left fun m _ => ?_
  unfold movedEntry
  simp only [Bool.and_eq_true, beq_iff_eq]

/-! ### Minima (R371) -/

theorem Part.minOn_setMin (x : Part) (die : Nat) (m : Nat × Nat × Nat) : (x.setMin die m).minOn die = m ∧
    ∀ d, d ≠ die → (x.setMin die m).minOn d = x.minOn d := by
  unfold Part.minOn Part.setMin
  refine ⟨?_, fun d hd => ?_⟩
  · have hnone : (x.minima.filter (fun n => n.1 != die)).find? (fun n => n.1 == die) = none := by
      rw [List.find?_eq_none]
      exact fun n hn => by simpa using (List.mem_filter.mp hn).2
    dsimp only
    rw [List.find?_append, hnone]
    simp
  · have hsame : (x.minima.filter (fun n => n.1 != die)).find? (fun n => n.1 == d) = x.minima.find? (fun n => n.1 == d) := by
      rw [List.find?_filter]
      refine congrArg (fun f => x.minima.find? f) (funext fun n => ?_)
      by_cases hn : n.1 = d <;> simp [hn, hd]
    dsimp only
    rw [List.find?_append, hsame]
    simp [Ne.symm hd]

end

/-- Settles O58: a boot by its two outcomes; the rest by the cases of each row. -/
theorem bootAndPower : Obligations.BootAndPower := by
  unfold Obligations.BootAndPower
  refine ⟨fun s => ⟨fun b hb => ?fails, fun hb => ?boots, State.bootFails_none, State.bootFails_step, fun d hd => ⟨onDie_flatMap hd, onDie_flatMap hd⟩⟩,
    fun s => ⟨⟨_, rfl, rfl, rfl, rfl, rfl, fun k => (s.powerOff_byte k).1, fun w k => (s.powerOff_byte k).2 w⟩,
      ⟨_, rfl, rfl, rfl, rfl, rfl, fun k => (s.powerOff_byte k).1, fun w k => (s.powerOff_byte k).2 w⟩,
      exec_power_off, fun h => ?refills, exec_moduleLimit, exec_moduleLimit_denied, fun hz => ?cools, fun hz h => exec_thermalLimit_starts h hz,
      exec_thermalLimit_hot, exec_thermalStep_cool, exec_thermalStep, exec_bridgeLoss s,
      fun h => ⟨exec_channelSpareSwitch_none h, fun c => exec_channelSpareSwitch h⟩,
      ⟨exec_clusterRetire_idle, fun hz h hc => exec_clusterRetire_starts h hc hz, fun hz h hc => ⟨fun hp => ?waits, fun n hp hn => ?moves, fun hp hn => ?lost⟩,
        fun hz hr => ?remaps, fun hz hr => ?reclaims⟩⟩, Part.minOn_setMin⟩
  case fails =>
    rw [exec_powerOn_fails hb]
    split
    · exact ⟨_, rfl, rfl, rfl, rfl, rfl, rfl, rfl, rfl, rfl⟩
    · exact ⟨_, rfl, rfl, rfl, rfl, rfl, rfl, rfl, rfl, rfl⟩
  case boots =>
    exact ⟨_, exec_powerOn_booted hb, rfl, rfl, rfl, rfl, rfl, rfl, rfl, rfl, rfl, rfl, fun k => (s.booted_byte k).1, fun w k => (s.booted_byte k).2 w, rfl⟩
  case refills =>
    refine ⟨_, exec_powerRefill h, rfl, rfl, State.mem_sched .., s.refilled_clusters, s.refilled_le, fun c v hc hv => ?_⟩
    have hcredit : s.credit c = v := by unfold State.credit; rw [hv]; simp
    have hcredits : (({ s with credits := s.refilled } : State).sched (s.now + 8500) 0 .powerRefill {}).credits = s.refilled := rfl
    rw [hcredits]
    unfold State.refilled State.refill
    rw [hc, List.map_singleton, hcredit]
  case cools =>
    change execThermalLimit s = _
    unfold execThermalLimit
    rw [if_pos hz]
  case waits =>
    obtain ⟨z, hz', hp⟩ := hp
    exact exec_clusterRetire_waits h hc hz (List.all_eq_false.mpr ⟨z, hz', by simp [hp]⟩)
  case moves =>
    obtain ⟨hclusters, hmaps⟩ := (s.retireMoved n).unholdPre_maps false
    exact ⟨_, exec_clusterRetire_moves h hc hz (List.all_eq_true.mpr hp) hn, hclusters, hmaps.trans (s.retireMoved_maps n)⟩
  case lost => exact exec_clusterRetire_lost h hc hz (List.all_eq_true.mpr hp) hn
  case remaps =>
    have hnone : s.reclaiming s.arg.x = false := by
      rw [Bool.eq_false_iff, ne_eq, State.reclaiming_iff]
      rintro ⟨x, hx, r, hrm, hrec, pg, hpg, hd⟩
      exact hr x hx r hrm hrec pg hpg hd
    rw [exec_clusterRetire_remaps hz, hnone]
    rfl
  case reclaims =>
    rw [exec_clusterRetire_remaps hz, State.reclaiming_iff.mpr hr]
    rfl

end Sys2Proof.Machine
end

section
/-! PROOFS of the statements of events and the host: a function's queue, its BAR0 registers and the host's aperture (R351, R385, R386, R400 to R402). -/

namespace Sys2Proof.Machine

section
variable {s t : State} {p : Nat}

/-! ### Events held for a function (R385, R386, R401) -/

theorem State.deliverEvents_none (h : (s.part p).vf.held = []) (n : Nat) : s.deliverEvents p n = s := by
  cases n with
  | zero => rfl
  | succ n =>
    unfold State.deliverEvents
    simp only [h]

/-- Changing a function. -/
def State.modVf (s : State) (p : Nat) (g : Vf → Vf) : State := s.modPart p (fun x => { x with vf := g x.vf })

theorem State.modVf_mem (s : State) (p : Nat) (g : Vf → Vf) : (s.modVf p g).mem = s.mem := rfl

theorem State.part_of_parts (h : t.parts = s.parts) : t.part p = s.part p := by
  unfold State.part
  rw [h]

theorem State.hasPart_of_held (h : (s.part p).vf.held ≠ []) : s.hasPart p :=
  State.hasPart_of_ne fun hp => h (by rw [hp])

theorem State.modVf_vf (h : s.hasPart p) (g : Vf → Vf) : ((s.modVf p g).part p).vf = g (s.part p).vf := by
  unfold State.modVf
  rw [h.part_in _ (by exact fun _ => rfl)]

/-- Where an event's record goes (R401). -/
def Vf.recordAt (f : Vf) : Nat := 2 ^ 45 + ((f.evqbh.toNat * 2 ^ 32 + f.evqbl.toNat) / 64 * 64 + 32 * (f.tail % 2 ^ f.log2)) % 2 ^ 45

/-- The 16 bytes of an event's payload. -/
def EvRec.payload (e : EvRec) : List Byte :=
  (((e.pay.take 2).flatMap (fun v => leBytes (if e.pay.length = 1 then 16 else if e.pay.length = 2 then 8 else 4) v) ++
    (e.pay.drop 2).flatMap (leBytes 4)) ++ List.replicate 16 0).take 16

theorem EvRec.payload_two {e : EvRec} {b c : Nat} (h : e.pay = [b, c]) : e.payload = leBytes 8 b ++ leBytes 8 c := by
  have hlen : (leBytes 8 b ++ leBytes 8 c).length = 16 := by rw [List.length_append, le_len, le_len]
  unfold EvRec.payload
  rw [h]
  exact (congrArg (fun l => (l ++ List.replicate 16 0).take 16) (by simp)).trans (List.take_left' hlen)

theorem EvRec.payload_four {e : EvRec} {b c d g : Nat} (h : e.pay = [b, c, d, g]) :
    e.payload = leBytes 4 b ++ leBytes 4 c ++ leBytes 4 d ++ leBytes 4 g := by
  have hlen : (leBytes 4 b ++ leBytes 4 c ++ leBytes 4 d ++ leBytes 4 g).length = 16 := by simp only [List.length_append, le_len]
  unfold EvRec.payload
  rw [h]
  exact (congrArg (fun l => (l ++ List.replicate 16 0).take 16) (by simp)).trans (List.take_left' hlen)

/-- The bytes of an event's record before its payload. -/
def EvRec.header (e : EvRec) (p : Nat) : List Byte := leBytes 1 e.ty ++ leBytes 1 p ++ leBytes 2 e.pgen ++ leBytes 4 0 ++ leBytes 8 e.ts

/-- A function whose queue has taken an event, with those that it holds still. -/
def Vf.recorded (rest : List EvRec) (f : Vf) : Vf := { f with held := rest, tail := (f.tail + 1) % 65536, msix := f.msix + b2n (!f.mask) }

/-- The state in which an event's record is written, and the queue's tail has moved. -/
def State.recordWritten (s : State) (p : Nat) (e : EvRec) (rest : List EvRec) : State :=
  (s.memWrite (s.part p).vf.recordAt (e.header p ++ e.payload)).modVf p (Vf.recorded rest)

/-- The state in which an event of before a partition's reset is discarded. -/
def State.staleEvent (s : State) (p : Nat) (rest : List EvRec) : State :=
  s.modVf p (fun f => { f with held := rest, evdisc := min (f.evdisc + 1) 0xFFFFFFFF })

section
variable {e : EvRec} {rest : List EvRec} (n : Nat) (h : (s.part p).vf.held = e :: rest)
include h

/-- A function that does not run takes no event. -/
theorem State.deliverEvents_stopped (hrun : (s.part p).vf.state ≠ .running) : s.deliverEvents p n = s := by
  cases n with
  | zero => rfl
  | succ n =>
    rw [State.deliverEvents]
    simp only [h, bne_iff_ne.mpr hrun, if_true]

variable (hrun : (s.part p).vf.state = .running)
include hrun

theorem State.deliverEvents_stale (hgen : e.pgen ≠ (s.part p).pgen) : s.deliverEvents p (n + 1) = (s.staleEvent p rest).deliverEvents p n := by
  have hgo : ¬((s.part p).vf.state != .running) = true := by simp [hrun]
  rw [State.deliverEvents]
  simp only [h, if_neg hgo, if_pos hgen]
  rfl

variable (hgen : e.pgen = (s.part p).pgen)
include hgen

/-- An event waits until its queue is on and has room. -/
theorem State.deliverEvents_full (hfull : (s.part p).vf.en = false ∨ 2 ^ (s.part p).vf.log2 ≤ ((s.part p).vf.tail + 65536 - (s.part p).vf.head) % 65536) :
    s.deliverEvents p n = s := by
  have hgo : ¬((s.part p).vf.state != .running) = true := by simp [hrun]
  cases n with
  | zero => rfl
  | succ n =>
    rw [State.deliverEvents]
    simp only [h, if_neg hgo, if_neg (not_not.mpr hgen)]
    exact if_pos (by simpa using hfull)

theorem State.deliverEvents_writes (hen : (s.part p).vf.en = true)
    (hroom : ((s.part p).vf.tail + 65536 - (s.part p).vf.head) % 65536 < 2 ^ (s.part p).vf.log2) :
    s.deliverEvents p (n + 1) = (s.recordWritten p e rest).deliverEvents p n := by
  have hgo : ¬((s.part p).vf.state != .running) = true := by simp [hrun]
  rw [State.deliverEvents]
  simp only [h, if_neg hgo, if_neg (not_not.mpr hgen)]
  rw [if_neg (by simpa [hen] using hroom)]
  unfold State.recordWritten Vf.recordAt EvRec.header EvRec.payload State.modVf Vf.recorded
  -- What the two do does not matter here, and the kernel shall not evaluate it.
  generalize State.deliverEvents = deliver
  generalize State.memWrite = write
  rfl

end

theorem State.recordWritten_mem (s : State) (p : Nat) (e : EvRec) (rest : List EvRec) :
    (s.recordWritten p e rest).mem = Mem.sets s.mem (s.part p).vf.recordAt (e.header p ++ e.payload) := by
  rw [State.recordWritten, State.modVf_mem, State.memWrite_mem]

theorem State.recordWritten_vf {e : EvRec} {rest : List EvRec} (h : s.hasPart p) : ((s.recordWritten p e rest).part p).vf =
    { (s.part p).vf with held := rest, tail := ((s.part p).vf.tail + 1) % 65536, msix := (s.part p).vf.msix + if (s.part p).vf.mask then 0 else 1 } := by
  have hmask (b : Bool) : b2n (!b) = if b then 0 else 1 := by cases b <;> rfl
  have hparts := s.memWrite_parts (s.part p).vf.recordAt (e.header p ++ e.payload)
  have hhas : (s.memWrite (s.part p).vf.recordAt (e.header p ++ e.payload)).hasPart p := by
    unfold State.hasPart
    rw [hparts]
    exact h
  have hpart : (s.memWrite (s.part p).vf.recordAt (e.header p ++ e.payload)).part p = s.part p := State.part_of_parts hparts
  unfold State.recordWritten
  rw [State.modVf_vf hhas, hpart, Vf.recorded, hmask]

theorem State.postVf_now (s : State) (p ty : Nat) (pay : List Nat) : (s.postVf p ty pay).now = s.now :=
  ite_keeps (P := fun t : State => t.now = s.now) rfl rfl

theorem exec_eventRecordWrite (hz : s.arg.z ≠ 1) : exec .eventRecordWrite s = .next (s.deliverEvents s.arg.p 257) := by
  change execEventRecordWrite s = _
  unfold execEventRecordWrite
  simp only [if_neg hz]

/-- An EVT's release (R351). -/
theorem exec_eventRecordWrite_evt {f : Fire} (hz : s.arg.z = 1) (hf : (s.page s.arg.p s.arg.pg).fire? s.arg.fid = some f) :
    exec .eventRecordWrite s = .next ((((s.postVf s.arg.p 0x01 [s.arg.x, s.arg.w0.toNat]).answer s.arg.p s.arg.pg s.arg.fid (s.now + 20)
      (f.done (boolW (decide ((s.part s.arg.p).vf.held.length < 256)))) (f.done (boolW (decide ((s.part s.arg.p).vf.held.length < 256))))).checkDone
        s.arg.p s.arg.pg f.tag).deliverEvents s.arg.p 257) := by
  change execEventRecordWrite s = _
  unfold execEventRecordWrite
  simp only [hz, if_true, hf, State.postVf_now]

/-! ### Control registers and BAR0 (R7, R400) -/

/-- An access of BAR0 that acts: aligned, and of four bytes. -/
theorem bar0Ok_iff {off size : Nat} : bar0Ok off size = true ↔ off % 4 = 0 ∧ size = 4 := by
  unfold bar0Ok
  rw [Bool.and_eq_true, beq_iff_eq, beq_iff_eq]

theorem exec_bar0_unaligned (hz : s.arg.z = 2) (h : s.arg.x ≠ 4 ∨ s.arg.y % 4 ≠ 0) :
    exec .csrWrite s = .next s ∧ exec .clearOnRead s = .next (s.toHost 0xFFFFFFFF) := by
  have hbad : bar0Ok s.arg.y s.arg.x = false := by
    rw [Bool.eq_false_iff, ne_eq, bar0Ok_iff]
    omega
  change execCsrWrite s = _ ∧ execClearOnRead s = _
  unfold execCsrWrite execClearOnRead
  simp only [hz, hbad]
  exact ⟨rfl, rfl⟩

theorem exec_bar0 (hz : s.arg.z = 2) (hx : s.arg.x = 4) (hy : s.arg.y % 4 = 0) : exec .csrWrite s = .next (s.bar0Write s.arg.p s.arg.y s.arg.w0.toNat) ∧
    exec .clearOnRead s = .next ((s.bar0Read s.arg.p s.arg.y).1.toHost (s.bar0Read s.arg.p s.arg.y).2) := by
  have hok := bar0Ok_iff.mpr ⟨hy, hx⟩
  change execCsrWrite s = _ ∧ execClearOnRead s = _
  unfold execCsrWrite execClearOnRead
  simp only [hz, hok]
  exact ⟨rfl, rfl⟩

theorem State.bar0Write_doorbell (w : Word) : s.bar0Write p 0x000 w.toNat = s.sched s.now 0 .doorbell { p := p, w0 := w } :=
  congrArg (fun w => s.sched s.now 0 .doorbell { p := p, w0 := w }) (word_toNat w)

theorem State.bar0Write_evqbl (w : Word) : s.bar0Write p 0x020 w.toNat = s.modVf p (fun f => { f with evqbl := w }) :=
  congrArg (fun w => s.modVf p (fun f => { f with evqbl := w })) (word_toNat w)

theorem State.bar0Write_evqbh (w : Word) : s.bar0Write p 0x024 w.toNat = s.modVf p (fun f => { f with evqbh := w }) :=
  congrArg (fun w => s.modVf p (fun f => { f with evqbh := w })) (word_toNat w)

theorem State.bar0Write_csr {off v : Nat} (h : 0x1000 ≤ off) (h' : off < 0x1600) (h4 : off % 4 = 0) :
    s.bar0Write p off v = s.writePart p (0x080 + (off - 0x1000) / 4) v := by
  unfold State.bar0Write
  simp only [if_neg (show off ≠ 0x000 by omega), if_neg (show off ≠ 0x020 by omega), if_neg (show off ≠ 0x024 by omega),
    if_neg (show off ≠ 0x028 by omega), if_neg (show off ≠ 0x02C by omega), if_neg (show off ≠ 0x040 by omega), if_pos (And.intro h (And.intro h' h4))]

theorem exec_tsnowl (s : State) : exec .tsnowl s = .next ((s.modVf s.arg.p (fun f => { f with
    tsnowh := BitVec.ofNat 32 ((s.tsBase + s.now * 20 / 17) / 2 ^ 32) })).toHost ((s.tsBase + s.now * 20 / 17) % 2 ^ 32)) := rfl

/-! ### The host's aperture (R402) -/

theorem exec_hostApertureRead_faults (h : s.hostPieces s.arg.p false (s.arg.x / 65536 + 2) ((s.part s.arg.p).apertureVa s.arg.y) s.arg.x = none) :
    exec .hostApertureRead s = .next ((s.apFault s.arg.p).toHost (256 ^ s.arg.x - 1)) := by
  change execHostApertureRead s = _
  unfold execHostApertureRead
  lift_lets
  intro a ones
  have h : s.hostPieces a.p false (a.x / 65536 + 2) ((s.part a.p).apertureVa a.y) a.x = none := h
  rw [h]

theorem exec_hostApertureRead {l : List Piece} (hb : ∀ z ∈ l, s.badAt z.key z.len = false)
    (h : s.hostPieces s.arg.p false (s.arg.x / 65536 + 2) ((s.part s.arg.p).apertureVa s.arg.y) s.arg.x = some l) :
    exec .hostApertureRead s = .next (s.toHost (ofLE (s.pieceBytes l))) := by
  have hnone : l.find? (fun x => s.badAt x.key x.len) = none := by
    rw [List.find?_eq_none]
    exact fun z hz => Bool.eq_false_iff.mp (hb z hz)
  change execHostApertureRead s = _
  unfold execHostApertureRead
  lift_lets
  intro a ones
  have h : s.hostPieces a.p false (a.x / 65536 + 2) ((s.part a.p).apertureVa a.y) a.x = some l := h
  rw [h]
  simp only [hnone]

theorem exec_hostApertureWrite_faults
    (h : s.hostPieces s.arg.p true (s.arg.l.length / 65536 + 2) ((s.part s.arg.p).apertureVa s.arg.y) s.arg.l.length = none) :
    exec .hostApertureWrite s = .next (s.apFault s.arg.p) := by
  change execHostApertureWrite s = _
  unfold execHostApertureWrite
  lift_lets
  intro a
  have h : s.hostPieces a.p true (a.l.length / 65536 + 2) ((s.part a.p).apertureVa a.y) a.l.length = none := h
  rw [h]

theorem exec_hostApertureWrite {l : List Piece} (hb : ∀ z ∈ l, s.badAt z.key z.len = false)
    (h : s.hostPieces s.arg.p true (s.arg.l.length / 65536 + 2) ((s.part s.arg.p).apertureVa s.arg.y) s.arg.l.length = some l) :
    exec .hostApertureWrite s = .next (s.copyPut l (s.arg.l.map (BitVec.ofNat 8))) := by
  have hnone : l.find? (fun x => s.badAt x.key x.len && (x.len % 64 != 0 || x.key % 64 != 0)) = none := by
    rw [List.find?_eq_none]
    exact fun z hz => by rw [hb z hz]; exact Bool.false_ne_true
  change execHostApertureWrite s = _
  unfold execHostApertureWrite
  lift_lets
  intro a
  have h : s.hostPieces a.p true (a.l.length / 65536 + 2) ((s.part a.p).apertureVa a.y) a.l.length = some l := h
  rw [h]
  simp only [hnone]
  rfl

end

/-- Settles O59: an event by what its queue holds, a register by its offset, an access by its pieces. -/
theorem eventsAndHost : Obligations.EventsAndHost := by
  unfold Obligations.EventsAndHost
  refine ⟨fun s hz => ⟨fun h => ?idle, fun e he hrun => ⟨fun hgen => ?stale, fun hgen hfull => ?full, fun hgen hen hroom => ?writes⟩⟩,
    fun s f hz hf => ?evt, fun s => ⟨fun hz => ?csr, fun hz => ?partCsr, exec_bar0_unaligned, fun hz hx => ?bar0, fun hz => ?reads, exec_tsnowl s,
      exec_hostApertureRead_faults, fun l h hb => exec_hostApertureRead hb h, exec_hostApertureWrite_faults, fun l h hb => exec_hostApertureWrite hb h⟩⟩
  case idle =>
    rw [exec_eventRecordWrite hz]
    obtain h | h := h
    · rw [State.deliverEvents_none h]
    · cases he : (s.part s.arg.p).vf.held with
      | nil => rw [State.deliverEvents_none he]
      | cons e rest => rw [State.deliverEvents_stopped _ he h]
  case stale =>
    have hhas : s.hasPart s.arg.p := State.hasPart_of_held (by simp [he])
    have hvf := State.modVf_vf hhas (fun f => { f with held := [], evdisc := min (f.evdisc + 1) 0xFFFFFFFF })
    refine ⟨s.staleEvent s.arg.p [], ?_, rfl, hvf⟩
    have hnone : ((s.staleEvent s.arg.p []).part s.arg.p).vf.held = [] := congrArg Vf.held hvf
    rw [exec_eventRecordWrite hz, State.deliverEvents_stale 256 he hrun hgen, State.deliverEvents_none hnone]
  case full => rw [exec_eventRecordWrite hz, State.deliverEvents_full 257 he hrun hgen hfull]
  case writes =>
    have hhas : s.hasPart s.arg.p := State.hasPart_of_held (by simp [he])
    have hvf := State.recordWritten_vf (e := e) (rest := []) hhas
    have hnone : ((s.recordWritten s.arg.p e []).part s.arg.p).vf.held = [] := congrArg Vf.held hvf
    refine ⟨s.recordWritten s.arg.p e [], ?_, hvf, fun b c hpay => ?_, fun b c d g hpay => ?_⟩
    · rw [exec_eventRecordWrite hz, State.deliverEvents_writes 256 he hrun hgen hen hroom, State.deliverEvents_none hnone]
    · rw [State.recordWritten_mem, EvRec.payload_two hpay, ← List.append_assoc]
      rfl
    · rw [State.recordWritten_mem, EvRec.payload_four hpay]
      simp only [← List.append_assoc]
      rfl
  case evt =>
    have hroom : boolW (decide ((s.part s.arg.p).vf.held.length < 256)) = if (s.part s.arg.p).vf.held.length < 256 then 1 else 0 := by
      split <;> simp_all [boolW]
    rw [exec_eventRecordWrite_evt hz hf, hroom]
  case csr =>
    change execCsrWrite s = _
    unfold execCsrWrite
    lift_lets
    intro a
    rw [if_pos hz]
  case partCsr =>
    change execCsrWrite s = _
    unfold execCsrWrite
    lift_lets
    intro a
    have h0 : a.z ≠ 0 := by rw [hz]; exact one_ne_zero
    rw [if_neg h0, if_pos hz]
  case bar0 =>
    have hacts {off : Nat} (hy : s.arg.y = off) (h4 : off % 4 = 0) := exec_bar0 hz hx (by rw [hy]; exact h4)
    refine ⟨fun hy => ?_, fun hy => ⟨?_, ?_⟩, fun hy => ⟨?_, ?_⟩, fun hy => ?_, fun hy => ⟨?_, ?_⟩, fun hy => ⟨?_, ?_⟩, fun h h' h4 => ?_,
      fun hy => ?_, fun hy => ?_, fun hy => ?_, fun hy => ?_, fun hy => ?_, fun hy => ?_⟩
    · rw [(hacts hy rfl).1, hy, State.bar0Write_doorbell]
    · rw [(hacts hy rfl).1, hy, State.bar0Write_evqbl]
      rfl
    · exact (hacts hy rfl).2.trans (by rw [hy]; rfl)
    · rw [(hacts hy rfl).1, hy, State.bar0Write_evqbh]
      rfl
    · exact (hacts hy rfl).2.trans (by rw [hy]; rfl)
    · exact (hacts hy rfl).1.trans (by rw [hy]; rfl)
    · exact (hacts hy rfl).1.trans (by rw [hy]; rfl)
    · exact (hacts hy rfl).2.trans (by rw [hy]; rfl)
    · exact (hacts hy rfl).1.trans (by rw [hy]; rfl)
    · exact (hacts hy rfl).2.trans (by rw [hy]; rfl)
    · rw [(exec_bar0 hz hx h4).1, State.bar0Write_csr h h' h4]
    all_goals exact (hacts hy rfl).2.trans (by rw [hy]; rfl)
  case reads =>
    refine ⟨_, rfl, ?_⟩
    change execClearOnRead s = _
    unfold execClearOnRead
    lift_lets
    intro a _ r
    rw [if_neg hz]
    rfl

end Sys2Proof.Machine
end

section
/-! PROOFS of the statements of the system instructions and of accesses to control registers (R340, R345, R346, R348 to R352). -/

namespace Sys2Proof.Machine

section
variable {s t : State} {p pg : Nat} {pr : BitVec 2} {n : BitVec 5} {csr : BitVec 14} {t1 t0 : Target}

/-! ### Trace records (R350, R417) -/

/-- A record changes the partition's trace and the agenda. -/
structure State.OnlyTraces (s t : State) : Prop where
  mem : t.mem = s.mem
  cur : t.cur = s.cur
  pages : ∀ q, (t.part q).pages = (s.part q).pages

theorem State.traceRec_only (s : State) (p ty src gen : Nat) (tag : Tag) (w0 w1 : Word) (spec : Bool) :
    s.OnlyTraces (s.traceRec p ty src gen tag w0 w1 spec) := by
  unfold State.traceRec
  exact ite_keeps (P := s.OnlyTraces) ⟨rfl, rfl, fun _ => rfl⟩ (ite_keeps (P := s.OnlyTraces)
    ⟨rfl, rfl, fun q => part_modPart Part.pages s p q _ (by exact fun _ => rfl) (by exact fun _ => rfl)⟩
    ⟨rfl, rfl, fun q => part_modPart Part.pages s p q _ (by exact fun _ => rfl) (by exact fun _ => rfl)⟩)

theorem State.traceRec_off (h : (s.part p).tracing = false) (ty src gen : Nat) (tag : Tag) (w0 w1 : Word) :
    s.traceRec p ty src gen tag w0 w1 = s := by
  unfold State.traceRec
  rw [h]
  rfl

/-! ### Stops (R346, R412) -/

/-- Is a page of a partition gated, where the partition has it? -/
def State.gates (s : State) (p q : Nat) : Prop := ∀ y ∈ (s.part p).pages, y.num = q → y.gated = true

/-- The page's clock is gated. -/
def Page.gate (y : Page) : Page := { y with gated := true }

theorem State.gates_of_pages {q : Nat} (h : s.gates p q) (hp : (t.part p).pages = (s.part p).pages) : t.gates p q := by
  unfold State.gates
  rw [hp]
  exact h

/-- A partition that is not there has no page. -/
theorem State.gates_none {q : Nat} (h : ¬s.hasPart p) : s.gates p q := by
  have hpart : s.part p = { num := p } := by
    by_contra hne
    exact h (State.hasPart_of_ne hne)
  intro y hy
  rw [hpart] at hy
  cases hy

theorem State.hasPart.gate_pages (h : s.hasPart p) (q : Nat) : ((s.modPage p q Page.gate).part p).pages =
    (s.part p).pages.map (fun y => if y.num == q then y.gate else y) :=
  congrArg Part.pages (h.part_in (fun x => x.modPage q Page.gate) fun _ => rfl)

theorem State.gates_gate (s : State) (p q : Nat) : (s.modPage p q Page.gate).gates p q := by
  by_cases h : s.hasPart p
  · intro y hy hq
    rw [h.gate_pages] at hy
    obtain ⟨z, -, rfl⟩ := List.mem_map.mp hy
    by_cases hz : z.num = q
    · rw [if_pos (beq_iff_eq.mpr hz)]
      rfl
    · rw [if_neg (mt beq_iff_eq.mp hz)] at hq
      exact absurd hq hz
  · exact State.gates_none (mt (State.hasPart_modPart p _ (by exact fun _ => rfl)).mp h)

/-- A page that is gated stays so as others are. -/
theorem State.gates.gate {q : Nat} (hg : s.gates p q) (k : Nat) : (s.modPage p k Page.gate).gates p q := by
  by_cases h : s.hasPart p
  · intro y hy hq
    rw [h.gate_pages] at hy
    obtain ⟨z, hz, rfl⟩ := List.mem_map.mp hy
    by_cases hk : z.num = k
    · rw [if_pos (beq_iff_eq.mpr hk)]
      rfl
    · rw [if_neg (mt beq_iff_eq.mp hk)] at hq ⊢
      exact hg z hz hq
  · exact State.gates_none (mt (State.hasPart_modPart p _ (by exact fun _ => rfl)).mp h)

/-- The state in which pages are gated. -/
def State.gateAll (s : State) (p : Nat) (pgs : List Nat) : State := pgs.foldl (fun s q => s.modPage p q Page.gate) s

theorem State.gateAll_gates {q : Nat} {pgs : List Nat} (h : q ∈ pgs) : (s.gateAll p pgs).gates p q := by
  induction pgs generalizing s with
  | nil => cases h
  | cons k pgs ih =>
    obtain rfl | h := List.mem_cons.mp h
    · change ((s.modPage p q Page.gate).gateAll p pgs).gates p q
      exact foldl_keeps (P := fun t : State => t.gates p q) (s.gates_gate p q) fun t k ht => ht.gate k
    · exact ih h

theorem State.gateAll_mem (s : State) (p : Nat) (pgs : List Nat) : (s.gateAll p pgs).mem = s.mem :=
  foldl_keeps (P := fun t : State => t.mem = s.mem) rfl fun _ _ h => h

/-- What DBGSTAT tells leaves memory and every page. -/
theorem State.setCsr_only (s : State) (p n v : Nat) : (s.setCsr p n v).mem = s.mem ∧ ∀ q, ((s.setCsr p n v).part q).pages = (s.part q).pages :=
  ⟨rfl, fun q => part_modPart Part.pages s p q _ (fun _ => rfl) fun _ => rfl⟩

theorem State.bumpCsr_only (s : State) (p n hi lo : Nat) :
    (s.bumpCsr p n hi lo).mem = s.mem ∧ ∀ q, ((s.bumpCsr p n hi lo).part q).pages = (s.part q).pages :=
  ite_keeps (P := fun t : State => t.mem = s.mem ∧ ∀ q, (t.part q).pages = (s.part q).pages) (s.setCsr_only ..) ⟨rfl, fun _ => rfl⟩

/-- A stop gates its pages and leaves memory. -/
theorem State.stopPages_gates (s : State) (p : Nat) (pgs : List Nat) (cause wp src : Nat) :
    (s.stopPages p pgs cause wp src).mem = s.mem ∧ ∀ q ∈ pgs, (s.stopPages p pgs cause wp src).gates p q := by
  have hkeeps : ∃ u : State, (u.mem = (s.gateAll p pgs).mem ∧ ∀ q, (u.part q).pages = ((s.gateAll p pgs).part q).pages) ∧
      s.stopPages p pgs cause wp src = u.traceRec p 34 src 0 0 (word cause) (word wp) := by
    refine ⟨_, ?_, rfl⟩
    refine ite_keeps (P := fun u : State => u.mem = (s.gateAll p pgs).mem ∧ ∀ q, (u.part q).pages = ((s.gateAll p pgs).part q).pages)
      (State.bumpCsr_only ..) ⟨rfl, fun q => ?_⟩
    exact ((State.setCsr_only ..).2 q).trans (((State.setCsr_only ..).2 q).trans ((State.setCsr_only ..).2 q))
  obtain ⟨u, ⟨hmem, hpages⟩, hstop⟩ := hkeeps
  have hrec := u.traceRec_only p 34 src 0 0 (word cause) (word wp) false
  rw [hstop]
  exact ⟨hrec.mem.trans (hmem.trans (s.gateAll_mem p pgs)), fun q hq => State.gates_of_pages (State.gateAll_gates hq) ((hrec.pages p).trans (hpages p))⟩

/-! ### BKPT (R346) -/

/-- The pages of a cluster turn on the page map and on the pages' numbers. -/
theorem Part.modPage_clusterOf (x : Part) (pg q : Nat) (f : Page → Page) (hn : ∀ y, (f y).num = y.num) :
    (x.modPage pg f).clusterOf q = x.clusterOf q := by
  have hnums : (x.modPage pg f).pages.map Page.num = x.pages.map Page.num := by
    change (x.pages.map _).map Page.num = _
    rw [List.map_map]
    exact List.map_congr_left fun y _ => by dsimp only [Function.comp]; split <;> simp [hn]
  unfold Part.clusterOf
  rw [hnums]
  rfl

theorem State.modPage_clusterOf (s : State) (p pg q k : Nat) (f : Page → Page) (hn : ∀ y, (f y).num = y.num) :
    ((s.modPage p pg f).part q).clusterOf k = (s.part q).clusterOf k :=
  part_modPart (fun x => x.clusterOf k) s p q _ (fun _ => rfl) fun x => x.modPage_clusterOf pg k f hn

/-- The state in which BKPT has sent its result. -/
def State.bkptSent (s : State) (t1 t0 : Target) : State :=
  (s.emit 1 t0 t1 (withPoison (tokV s.lv) s.cur.firstOrigin) (withPoison (tokV s.lv) s.cur.firstOrigin)).modFire s.cur.p s.cur.pg s.cur.fid
    (fun f => { f with acted := true })

theorem State.bkptSent_clusterOf (s : State) (t1 t0 : Target) (q k : Nat) : ((s.bkptSent t1 t0).part q).clusterOf k = (s.part q).clusterOf k := by
  unfold State.bkptSent State.emit State.modFire
  rw [State.modPage_clusterOf, State.modPage_clusterOf, State.modPage_clusterOf, (State.send_adds ..).part, (State.send_adds ..).part]
  all_goals exact fun _ => rfl

theorem State.bkptSent_mem (s : State) (t1 t0 : Target) : (s.bkptSent t1 t0).mem = s.mem := emit_mem ..

/-- BKPT sends its result; then its cluster stops, or its instance traps. -/
theorem exec_bkpt (h : s.cur.verdict pr = .run) : exec (.bkpt pr t1 t0) s = .next
    (if bitAt (((s.bkptSent t1 t0).part s.cur.p).csrN 0x100) 0 then
      (s.bkptSent t1 t0).stopPages s.cur.p (((s.bkptSent t1 t0).part s.cur.p).clusterOf s.cur.pg) 1 0 (srcOf s.cur.pg s.cur.tile)
    else (s.bkptSent t1 t0).trap 0x10 0 0) := by
  change execBkpt pr t1 t0 s = _
  unfold execBkpt
  rw [frame_run _ _ _ _ _ _ h]
  simp only [mark_zero]
  rfl

/-! ### Accesses to control registers (R347, R348) -/

theorem csrLat_eq (n : Nat) : csrLat n = if n < 0x080 then 2 else 40 := rfl

/-- The registers of an instance (R347), below the strands' own. -/
theorem csrDef_inst {k : Nat} (h : k ≤ 2) {d : CsrDef} (hd : csrDef? k = some d) : d.scope = .inst := by
  have hscope : (csrDef? k).all (fun d => d.scope == .inst) = true := by interval_cases k <;> decide
  rw [hd] at hscope
  exact beq_iff_eq.mp hscope

theorem State.writeCsr_inst {id strand k v : Nat} (h : k ≤ 2) : s.writeCsr p pg id strand k v = s := by
  unfold State.writeCsr
  cases hd : csrDef? k with
  | none => rfl
  | some d => simp only [csrDef_inst h hd]

theorem State.readCsr_id {id strand : Nat} : s.readCsr p pg id strand 0 = (s, word (id + (s.inst p id).gen * 2 ^ 16 + strand * 2 ^ 19)) := rfl

theorem exec_csrr (h : s.cur.verdict pr = .run) : let read := s.readCsr s.cur.p s.cur.pg s.cur.id s.cur.strand csr.toNat
    exec (.csrr pr csr t0) s = read.1.gives (csrLat csr.toNat) .none t0 read.2 := by
  change execCsrr pr csr t0 s = _
  unfold execCsrr
  simp only [frame_run _ _ _ _ _ _ h, mark_zero]
  rfl

theorem exec_csrw (h : s.cur.verdict pr = .run) : exec (.csrw pr csr t0) s =
    (s.writeCsr s.cur.p s.cur.pg s.cur.id s.cur.strand csr.toNat s.lv.toNat).gives (csrLat csr.toNat) .none t0
      (s.readCsr s.cur.p s.cur.pg s.cur.id s.cur.strand csr.toNat).2 := by
  change execCsrw pr csr t0 s = _
  unfold execCsrw
  simp only [frame_run _ _ _ _ _ _ h, mark_zero]
  rfl

/-! ### The other forms -/

theorem exec_trace (h : s.cur.verdict pr = .run) : exec (.trace pr n t1 t0) s =
    (s.traceRec s.cur.p n.toNat (srcOf s.cur.pg s.cur.tile) s.curAct.gen s.cur.tag s.lv 0).gives 1 t1 t0 s.lv := by
  have hcur := (s.traceRec_only s.cur.p n.toNat (srcOf s.cur.pg s.cur.tile) s.curAct.gen s.cur.tag s.lv 0 false).cur
  have hlv : (s.traceRec s.cur.p n.toNat (srcOf s.cur.pg s.cur.tile) s.curAct.gen s.cur.tag s.lv 0).lv = s.lv :=
    congrArg (fun c : Cur => valOf c.l) hcur
  change execTrace pr n t1 t0 s = _
  unfold execTrace
  rw [frame_run _ _ _ _ _ _ h]
  simp only [mark_zero, hlv]
  rfl

theorem exec_tsc (h : s.cur.verdict pr = .run) : exec (.tsc pr t1 t0) s =
    s.givesTwo 2 t1 t0 (BitVec.ofNat 32 (s.tsBase + s.now * 20 / 17)) (BitVec.ofNat 32 ((s.tsBase + s.now * 20 / 17) / 2 ^ 32)) := by
  have hlow : word (s.ts % 2 ^ 32) = word s.ts := BitVec.eq_of_toNat_eq (by simp [word])
  have hexec := two_zero s pr 2 t1 t0 (word (s.ts % 2 ^ 32)) (word (s.ts / 2 ^ 32)) h
  rw [hlow] at hexec
  change execTsc pr t1 t0 s = _
  unfold execTsc
  rw [hlow]
  exact hexec

theorem exec_est (h : s.cur.verdict pr = .run) : exec (.est pr t1 t0) s =
    (s.modInst s.cur.p s.cur.id (fun i => { i with est := s.lv.toNat, estAt := s.now })).gives 2 t1 t0 0 := by
  change execEst pr t1 t0 s = _
  unfold execEst
  rw [frame_run _ _ _ _ _ _ h]
  simp only [mark_zero]
  rfl

/-- EVT releases at system scope, and its event arises later. -/
theorem exec_evt (h : s.cur.verdict pr = .run) : ∃ t, exec (.evt pr n t1 t0) s = .next t ∧ t.mem = (s.flush s.cur.p s.cur.id).mem ∧
    ⟨s.now + 900, 0, srcOf s.cur.pg s.cur.tile, .row .eventRecordWrite
      { p := s.cur.p, pg := s.cur.pg, fid := s.cur.fid, tag := s.cur.tag, x := n.toNat, w0 := s.lv, z := 1 }⟩ ∈ t.agenda := by
  change ∃ t, execEvt pr n t1 t0 s = .next t ∧ _
  unfold execEvt
  rw [frame_run _ _ _ _ _ _ h]
  exact ⟨_, rfl, rfl, State.mem_sched ..⟩

theorem exec_trap_not (h : s.cur.verdict pr ≠ .run) : exec (.trap pr n) s = .next s.silent := by
  change execTrap pr n s = _
  unfold execTrap State.bareFrame
  split
  · rename_i hr
    exact absurd hr h
  · rfl

theorem exec_rft_not (h : s.cur.verdict pr ≠ .run) : exec (.rft pr) s = .next s.silent.settle := by
  change execRft pr s = _
  unfold execRft
  split
  · rename_i hr
    exact absurd hr h
  · rfl

end

/-- Settles O45: each instruction by its frame's verdict. -/
theorem systemForms : Obligations.SystemForms := by
  intro s pr n csr t1 t0 p pg lat read
  refine ⟨fun h => ⟨?trap, ?rft, ⟨fun hb => ?stops, fun hb => ?traps⟩, exec_tsc h, exec_trace h, fun hoff => ?untraced, exec_evt h,
    exec_est h, exec_csrr h, exec_csrw h, fun hc => ?ident, fun hc => ?frozen⟩, fun h => ⟨exec_trap_not h, exec_rft_not h⟩, fun o h => ?nulls⟩
  case trap =>
    change execTrap pr n s = _
    unfold execTrap State.bareFrame
    rw [h]
  case rft =>
    change execRft pr s = _
    unfold execRft
    rw [h]
  case stops =>
    have hexec := exec_bkpt (t1 := t1) (t0 := t0) h
    have hb : bitAt (((s.bkptSent t1 t0).part s.cur.p).csrN 0x100) 0 = true := hb
    rw [if_pos hb, State.bkptSent_clusterOf] at hexec
    obtain ⟨hmem, hgates⟩ := (s.bkptSent t1 t0).stopPages_gates s.cur.p ((s.part s.cur.p).clusterOf s.cur.pg) 1 0 (srcOf s.cur.pg s.cur.tile)
    refine ⟨_, hexec, hmem.trans (s.bkptSent_mem t1 t0), fun q hq y hy => hgates q hq y (List.mem_of_find?_eq_some hy) ?_⟩
    simpa using List.find?_some hy
  case traps =>
    have hexec := exec_bkpt (t1 := t1) (t0 := t0) h
    have hb : bitAt (((s.bkptSent t1 t0).part s.cur.p).csrN 0x100) 0 = false := hb
    rwa [if_neg (Bool.eq_false_iff.mp hb)] at hexec
  case untraced =>
    have hexec := exec_trace (n := n) (t1 := t1) (t0 := t0) h
    rwa [State.traceRec_off hoff] at hexec
  case ident =>
    subst hc
    have hexec := exec_csrr (csr := 0) (t0 := t0) h
    rwa [show (0 : BitVec 14).toNat = 0 from rfl, State.readCsr_id] at hexec
  case frozen =>
    have hexec := exec_csrw (csr := csr) (t0 := t0) h
    rwa [State.writeCsr_inst hc, csrLat_eq, if_pos (by omega)] at hexec
  case nulls =>
    exact ⟨congrArg _ (frame_nulls h), congrArg _ (frame_nulls h), congrArg _ (frame_nulls h), congrArg _ (frame_nulls h), congrArg _ (frame_nulls h),
      congrArg _ (frame_nulls h), congrArg _ (frame_nulls h)⟩

end Sys2Proof.Machine
end

section
/-! PROOFS of the statements of the copy engines: the course of a command and the write pointers (R301 to R306, R308, R310). -/

namespace Sys2Proof.Machine

section
variable {s t : State} {p : Nat} {c : CopyCmd} {l : List Piece}

/-! ### Acceptance (R301 to R303) -/

/-- A stopped command owes nothing where its progress could be written. -/
theorem State.copyOwed_kept (s : State) (p : Nat) (c : CopyCmd) {old : Option CopyCmd} (hkept : ∀ o, old = some o → o.lost = false) :
    s.copyOwed p c old = .ok s := by
  cases old with
  | none => rfl
  | some o => simp [State.copyOwed, hkept o rfl]

/-- The channel field of a descriptor (R303). -/
theorem fieldAt_channel (d : Nat) : fieldAt d 48 1 % 8 = d / 2 ^ 384 % 8 := by
  unfold fieldAt
  rw [Nat.shiftRight_eq_div_pow, pow_one, Nat.mod_mod_of_dvd _ (by decide : 8 ∣ 256)]

/-- A command whose descriptor's bytes make it d. -/
def CopyCmd.described (c : CopyCmd) (d : Nat) : CopyCmd := { c with desc := d, ch := d / 2 ^ 384 % 8 }

/-- A command that is well formed reaches an engine of its partition, and is accepted. -/
theorem State.copyReach_accepts {old : Option CopyCmd} (hl : s.copyAccess p c.win false c.descVa 64 64 = .ok l)
    (heng : (c.eng / 4, c.eng % 4) ∈ (s.part p).engines) (hgood : (c.described (ofLE (s.pieceBytes l))).malformed = false) :
    s.copyReach p c old = .ok (s.copyAccept p (c.described (ofLE (s.pieceBytes l))) old) := by
  unfold State.copyReach
  rw [if_neg (by simpa using heng), hl]
  dsimp only
  rw [fieldAt_channel]
  exact if_neg (by rw [← CopyCmd.described, hgood]; exact Bool.false_ne_true)

/-- The command of a CPY whose descriptor has been read. -/
def Fire.command (f : Fire) (pg d : Nat) : CopyCmd := ((cpyCmd pg f).bind f.wins d).described d

/-- A CPY's command reaches its engine for the first time. -/
theorem exec_copyCommandBegin_accepts {f : Fire} (hf : (s.page s.arg.p s.arg.pg).fire? s.arg.fid = some f) (hphase : f.phase = .engine)
    (hz : s.arg.z = 3) (hnew : (s.part s.arg.p).copy? f.fid = none) (hkept : ∀ o, (s.part s.arg.p).copyOld f = some o → o.lost = false)
    (hl : s.copyAccess s.arg.p (cpyCmd s.arg.pg f).win false (cpyCmd s.arg.pg f).descVa 64 64 = .ok l)
    (heng : ((cpyCmd s.arg.pg f).eng / 4, (cpyCmd s.arg.pg f).eng % 4) ∈ (s.part s.arg.p).engines)
    (hgood : (f.command s.arg.pg (ofLE (s.pieceBytes l))).malformed = false) :
    exec .copyCommandBegin s =
      .next (s.copyAccept s.arg.p (f.command s.arg.pg (ofLE (s.pieceBytes l))) ((s.part s.arg.p).copyOld f)) := by
  have hexec : exec .copyCommandBegin s = .next (s.copyArrive s.arg.p s.arg.pg f ((s.part s.arg.p).copyOld f)) := by
    change execCopyCommandBegin s = _
    unfold execCopyCommandBegin
    dsimp only
    rw [if_neg (by omega), hf]
    dsimp only
    rw [hnew]
    dsimp only
    rw [if_pos (by rw [hphase]; rfl)]
  rw [hexec]
  unfold State.copyArrive
  dsimp only
  rw [hl]
  dsimp only
  rw [s.copyOwed_kept _ _ hkept]
  dsimp only
  rw [State.copyReach_accepts (c := (cpyCmd s.arg.pg f).bind f.wins (ofLE (s.pieceBytes l))) hl heng hgood]
  rfl

/-! ### Elements (R305, R306) -/

/-- The bytes of the pieces of a read, where no line has been read before. -/
theorem State.lineBytes_none (s : State) (l : List Piece) : l.flatMap (s.lineBytes none) = s.pieceBytes l := rfl

/-- The index of an element of a form without indices is 0. -/
theorem State.copyIndex_plain (htw : c.tw = false) (h2 : c.form ≠ 2) (h3 : c.form ≠ 3) (j : Nat) (t : Token) : s.copyIndex p c j t = .ok 0 := by
  simp [State.copyIndex, htw, h2, h3]

/-- That of a gather or scatter is the word of its index list. -/
theorem State.copyIndex_listed (htw : c.tw = false) (hform : c.form = 2 ∨ c.form = 3) (j : Nat) (t : Token) :
    s.copyIndex p c j t = s.copyNum p c.sw (c.idxVa + 4 * j) 4 := by
  rcases hform with h | h <;> simp [State.copyIndex, htw, h]

/-- The source VA of element j with index i of a form that reads memory. -/
def CopyCmd.source (c : CopyCmd) (j i : Nat) : Nat :=
  match c.form with
  | 0 => c.srcVa + j * c.e
  | 1 => c.srcVa + j / c.n * c.sstride + j % c.n * c.e
  | 2 => c.srcVa + i * c.sstride
  | _ => c.srcVa + j * c.sstride

/-- An element that is not of a stream is read from its source. -/
theorem State.copySource_read {j i : Nat} {t : Token} (htw : c.tw = false) (hline : c.line = none) (hform : c.form < 4)
    (hl : s.copyAccess p c.sw false (c.source j i) c.e c.align = .ok l) :
    s.copySource p c j i t = .ok (s.pieceBytes l, s.lineAfter c l) := by
  rw [← State.lineBytes_none, ← hline]
  obtain h | h | h | h : c.form = 0 ∨ c.form = 1 ∨ c.form = 2 ∨ c.form = 3 := by omega
  all_goals
    simp only [CopyCmd.source, h] at hl
    simp [State.copySource, h, htw, hl]

/-- Such an element goes from its source to its destination. -/
theorem State.copyElem_read {i va dest : Nat} {t : Token} (htw : c.tw = false) (hline : c.line = none) (hform : c.form < 4)
    (hindex : s.copyIndex p c c.sent t = .ok i) (hsource : c.source c.sent i = va) (hdest : c.dest c.sent i = dest)
    (hl : s.copyAccess p c.sw false va c.e c.align = .ok l) : s.copyElem p c t = .ok (dest, s.pieceBytes l, s.lineAfter c l) := by
  subst hsource hdest
  simp only [State.copyElem, hindex, State.copySource_read htw hline hform hl]

/-- An element of a fill is the descriptor's pattern. -/
theorem State.copyElem_fill {t : Token} (htw : c.tw = false) (hform : c.form = 4) :
    s.copyElem p c t = .ok (c.dstVa + c.sent * c.e, leBytes c.e c.srcVa, none) := by
  simp [State.copyElem, State.copyIndex_plain htw, State.copySource, CopyCmd.dest, hform]

/-- A piece within the line that has been read comes from it. -/
theorem State.lineBytes_within (s : State) (k : Nat) (bs : List Byte) (x : Piece) (hk : x.key / 64 = k) (hfit : x.key % 64 + x.len ≤ 64) :
    s.lineBytes (some (k, bs)) x = (bs.drop (x.key % 64)).take x.len := by
  have hlen : min x.len (64 - x.key % 64) = x.len := by omega
  unfold State.lineBytes
  dsimp only
  rw [if_pos hk, hlen, Nat.sub_self]
  exact List.append_nil _

/-! ### Stream tokens (R300) -/

/-- A token joins its port, where no command takes it. -/
theorem exec_copyStreamToken_none (hnone : (s.part s.arg.p).copies = []) : exec .copyStreamToken s =
    .next (s.modPage s.arg.p s.arg.pg (fun y => { y with ports := y.ports ++ [(s.arg.x - 16, ⟨s.arg.tok, s.arg.fid, s.arg.y⟩, s.arg.tag, s.now)] })) := by
  have hcopies (f : Page → Page) : ((s.modPage s.arg.p s.arg.pg f).part s.arg.p).copies = [] :=
    (part_modPart Part.copies s s.arg.p s.arg.p (fun x => x.modPage s.arg.pg f) (fun _ => rfl) fun _ => rfl).trans hnone
  change execCopyStreamToken s = _
  unfold execCopyStreamToken
  dsimp only
  unfold State.portLook Part.portTaker
  rw [hcopies]
  rfl

end

section
variable {s t : State} {p num : Nat} {c d : CopyCmd} {l : List Piece} {ws : List (Nat × List Byte)} {bs : List Byte}

/-! ### A command's record -/

theorem Part.copy?_num {x : Part} (hc : x.copy? num = some c) : c.num = num := by simpa using List.find?_some hc

/-- A partition with a command exists. -/
theorem State.hasPart_of_copy (hc : (s.part p).copy? num = some c) : s.hasPart p := by
  refine State.hasPart_of_ne fun e => ?_
  rw [e] at hc
  cases hc

/-- A change of a command. -/
theorem State.modCopy_copy? (hc : (s.part p).copy? num = some c) (f : CopyCmd → CopyCmd) (hf : ∀ d, (f d).num = d.num) :
    ((s.modCopy p num f).part p).copy? num = some (f c) := by
  unfold State.modCopy
  rw [(State.hasPart_of_copy hc).part_in _ (by exact fun _ => rfl)]
  exact (find_map' _ CopyCmd.num num f hf).trans (congrArg (Option.map f) hc)

theorem State.modPage_copies (s : State) (q pg : Nat) (f : Page → Page) : ((s.modPage q pg f).part p).copies = (s.part p).copies :=
  part_modPart Part.copies s q p (fun x => x.modPage pg f) (fun _ => rfl) fun _ => rfl

/-- The results of a request leave, and its activation may complete: no command changes. -/
theorem State.answer_copies (s : State) (q pg fid leaves : Nat) (r0 r1 : Token) :
    ((s.answer q pg fid leaves r0 r1).part p).copies = (s.part p).copies := by
  obtain h | ⟨u, id, hu, h⟩ := s.answer_cases q pg fid leaves r0 r1
  · rw [h]
  · rw [h]
    exact (State.modPage_copies ..).trans ((State.modPage_copies ..).trans (by rw [hu.part]))

theorem State.checkDone_copies (s : State) (q pg : Nat) (tag : Tag) : ((s.checkDone q pg tag).part p).copies = (s.part p).copies := by
  obtain h | ⟨t, i, h⟩ := s.checkDone_cases q pg tag
  · rw [h]
  · rw [h, (State.schedCommit_adds ..).part]
    exact State.modPage_copies ..

/-- A write pointer takes a value: no command changes. -/
theorem State.setWptr_copies (s : State) (q eng ch : Nat) (v : Word) : ((s.setWptr q eng ch v).part p).copies = (s.part p).copies := by
  refine foldl_keeps (P := fun u : State => (u.part p).copies = (s.part p).copies) ?_ fun u w hu => ?_
  · exact part_modPart Part.copies _ _ _ _ (by exact fun _ => rfl) (by exact fun _ => rfl)
  · split
    · exact (State.checkDone_copies ..).trans ((State.answer_copies ..).trans hu)
    · exact hu

/-- A command advances by the elements and bytes delivered, and memory stands. -/
theorem State.copyAdvance_copy? (hd : (s.part p).copy? c.num = some d) (elems k : Nat) :
    ((s.copyAdvance p c elems k).part p).copy? c.num = some { d with elems := elems, bytes := d.bytes + k } := by
  unfold State.copyAdvance Part.copy?
  dsimp only
  rw [State.setWptr_copies]
  exact State.modCopy_copy? hd (fun c => { c with elems := elems, bytes := c.bytes + k }) fun _ => rfl
theorem State.copyAdvance_mem (s : State) (p : Nat) (c : CopyCmd) (elems k : Nat) : (s.copyAdvance p c elems k).mem = s.mem :=
  (State.setWptr_grows ..).mem

/-! ### Writes (R224, R305) -/

/-- Several writes, one after the other. -/
def State.memWrites (s : State) (ws : List (Nat × List Byte)) : State := ws.foldl (fun s w => s.memWrite w.1 w.2) s

theorem State.memWrites_parts (s : State) (ws : List (Nat × List Byte)) : (s.memWrites ws).parts = s.parts :=
  foldl_keeps (P := fun u : State => u.parts = s.parts) rfl fun u w hu => (u.memWrite_parts w.1 w.2).trans hu

/-- What they leave in memory turns on memory alone. -/
theorem State.memWrites_mem (h : t.mem = s.mem) (ws : List (Nat × List Byte)) : (t.memWrites ws).mem = (s.memWrites ws).mem := by
  induction ws generalizing s t with
  | nil => exact h
  | cons w ws ih => exact ih (by rw [State.memWrite_mem, State.memWrite_mem, h])

/-- The writes of an element, piece by piece. -/
def pieceWrites (l : List Piece) (bs : List Byte) : List (Nat × List Byte) :=
  (l.foldl (fun (z : List (Nat × List Byte) × List Byte) x => (z.1 ++ [(x.key, z.2.take x.len)], z.2.drop x.len)) ([], bs)).1

theorem pieceWrites_one {x : Piece} (hlen : bs.length = x.len) : pieceWrites [x] bs = [(x.key, bs)] := by
  simp [pieceWrites, ← hlen]

/-- They put its bytes into its pieces. -/
theorem State.memWrites_pieces (s : State) (l : List Piece) (bs : List Byte) : s.memWrites (pieceWrites l bs) = s.copyPut l bs := by
  suffices h : ∀ (ws : List (Nat × List Byte)),
      s.memWrites (l.foldl (fun (z : List (Nat × List Byte) × List Byte) x => (z.1 ++ [(x.key, z.2.take x.len)], z.2.drop x.len)) (ws, bs)).1 =
        (l.foldl (fun (z : State × List Byte) x => (z.1.memWrite x.key (z.2.take x.len), z.2.drop x.len)) (s.memWrites ws, bs)).1 from h []
  induction l generalizing bs with
  | nil => exact fun ws => rfl
  | cons x l ih =>
    intro ws
    rw [List.foldl_cons, List.foldl_cons, ih]
    simp only [State.memWrites, List.foldl_append, List.foldl_cons, List.foldl_nil]

/-! ### Delivering an element (R224, R305, R308) -/

/-- An element that no later one joins is written, and delivered. -/
theorem State.copyDeliver_written (hc : (s.part p).copy? num = some c) (htail : c.tail = []) (hheld : c.held = 0) :
    (s.copyDeliver p num ws false).mem = (s.memWrites ws).mem ∧
      ∃ d, ((s.copyDeliver p num ws false).part p).copy? num = some d ∧ d.sent = c.sent ∧ d.elems = c.sent ∧ d.bytes = c.bytes + c.e := by
  have hdeliver : s.copyDeliver p num ws false =
      ((s.memWrites ws).modCopy p num (fun c => { c with tail := [], held := 0 })).copyAdvance p c c.sent c.e := by
    unfold State.copyDeliver
    simp [hc, htail, hheld, State.memWrites]
  have hkept : ((s.memWrites ws).part p).copy? num = some c := by rwa [State.part_of_parts (s.memWrites_parts ws)]
  obtain rfl := Part.copy?_num hc
  rw [hdeliver]
  exact ⟨State.copyAdvance_mem .., _,
    State.copyAdvance_copy? (State.modCopy_copy? hkept (fun c => { c with tail := [], held := 0 }) fun _ => rfl) .., rfl, rfl, rfl⟩

/-- A write within one line has nothing before it. -/
theorem cutAt_within {key : Nat} (h : key / 64 = (key + bs.length - 1) / 64) :
    cutAt ((key + bs.length - 1) / 64) (key, bs) = ((key, []), (key, bs)) := by
  have hn : (key + bs.length - 1) / 64 * 64 - key = 0 := by omega
  unfold cutAt
  rw [if_neg (by simp)]
  simp [hn]

/-- An element within a line of DRAM or host memory that the next one joins waits for it. -/
theorem State.copyDeliver_waits {key : Nat} (hc : (s.part p).copy? num = some c) (htail : c.tail = []) (hheld : c.held = 0) (hne : 0 < bs.length)
    (hline : key / 64 = (key + bs.length - 1) / 64) (hdram : isSram (key + bs.length - 1) = false) :
    s.copyDeliver p num [(key, bs)] true = s.modCopy p num (fun c => { c with tail := [(key, bs)], held := 1 }) := by
  have hbs : bs ≠ [] := List.ne_nil_of_length_pos hne
  unfold State.copyDeliver
  simp [hc, htail, hheld, hdram, cutAt_within hline, hbs]

/-! ### An element moves (R305, R306, R308) -/

/-- A command after its next element. -/
def CopyCmd.moves (line : Option (Nat × List Byte)) (c : CopyCmd) : CopyCmd :=
  { c with sent := c.sent + 1, moved := c.moved + c.e, took := c.took.drop 1, line := line }

/-- The next element of a command without a stream and a peer is delivered to memory. -/
theorem State.copyMove_delivers {va : Nat} {line : Option (Nat × List Byte)} (htw : c.tw = false) (hpeer : c.peer = none)
    (helem : s.copyElem p c (((c.took.head?).map (fun a => a.1.tok)).getD {}) = .ok (va, bs, line))
    (hl : s.copyAccess p c.dw true va c.e c.align = .ok l) :
    s.copyMove p c = .ok ((s.modCopy p c.num (CopyCmd.moves line)).copyDeliver p c.num (pieceWrites l bs) (s.copyShares p c va)) := by
  simp only [State.copyMove, helem, hpeer, hl, htw, Bool.false_and, Bool.false_eq_true, if_false]
  rfl

section
variable (hc : (s.part s.arg.p).copy? s.arg.x = some c) (hz : s.arg.z ≠ 2) (hgoing : c.stopped = false) (hstays : c.stopping = false)
  (hbegun : c.begun = true) (hlive : (s.part s.arg.p).frozen = false)
include hc hz hgoing hstays hbegun hlive

/-- On a gated page it waits, at a 64-byte boundary. -/
theorem exec_copyWritePerform_gated {pg : Nat} (hgate : s.copyGated s.arg.p c = some pg) :
    exec .copyWritePerform s = .next (s.copyWait s.arg.p pg .copyWritePerform) := by
  change execCopyWritePerform s = _
  unfold execCopyWritePerform
  simp [hc, hz, hgoing, hstays, hbegun, hlive, hgate]

/-- Its element moves, and the next one is timed. -/
theorem exec_copyWritePerform_moves {u : State} (hgate : s.copyGated s.arg.p c = none) (hmove : s.copyMove s.arg.p c = .ok u) :
    exec .copyWritePerform s = .next (u.copyStep s.arg.p c.num 64) := by
  obtain hnum := Part.copy?_num hc
  change execCopyWritePerform s = _
  unfold execCopyWritePerform
  simp [hc, hz, hgoing, hstays, hbegun, hlive, hgate, hmove]

variable {va : Nat} {line : Option (Nat × List Byte)} (htw : c.tw = false) (hpeer : c.peer = none) (htail : c.tail = []) (hheld : c.held = 0)
  (hgate : s.copyGated s.arg.p c = none)
  (helem : s.copyElem s.arg.p c (((c.took.head?).map (fun a => a.1.tok)).getD {}) = .ok (va, bs, line))
  (hl : s.copyAccess s.arg.p c.dw true va c.e c.align = .ok l)
include htw hpeer htail hheld hgate helem hl

/-- An element that the next one does not join is written. -/
theorem exec_copyWritePerform_written (hshares : s.copyShares s.arg.p c va = false) :
    ∃ u : State, exec .copyWritePerform s = .next (u.copyStep s.arg.p c.num 64) ∧ u.mem = (s.copyPut l bs).mem ∧
      ∃ d, (u.part s.arg.p).copy? c.num = some d ∧ d.sent = c.sent + 1 ∧ d.elems = c.sent + 1 ∧ d.bytes = c.bytes + c.e := by
  have hmove := State.copyMove_delivers htw hpeer helem hl
  rw [hshares] at hmove
  have hc' : (s.part s.arg.p).copy? c.num = some c := by rwa [Part.copy?_num hc]
  have hmoved := State.modCopy_copy? hc' (CopyCmd.moves line) fun _ => rfl
  obtain ⟨hmem, d, hd, hsent, helems, hbytes⟩ := State.copyDeliver_written (ws := pieceWrites l bs) hmoved htail hheld
  refine ⟨_, exec_copyWritePerform_moves hc hz hgoing hstays hbegun hlive hgate hmove, ?_, d, hd, hsent, helems, hbytes⟩
  rw [hmem, ← State.memWrites_pieces]
  exact State.memWrites_mem (s := s) (t := s.modCopy s.arg.p c.num (CopyCmd.moves line)) rfl _

/-- One that it joins waits for the rest of its line. -/
theorem exec_copyWritePerform_waits {x : Piece} (hshares : s.copyShares s.arg.p c va = true) (hone : l = [x]) (hlen : bs.length = x.len)
    (hne : 0 < x.len) (hline : x.key / 64 = (x.key + x.len - 1) / 64) (hdram : isSram (x.key + x.len - 1) = false) :
    ∃ u : State, exec .copyWritePerform s = .next (u.copyStep s.arg.p c.num 64) ∧ u.mem = s.mem ∧
      ∃ d, (u.part s.arg.p).copy? c.num = some d ∧ d.sent = c.sent + 1 ∧ d.tail = [(x.key, bs)] ∧ d.held = 1 ∧ d.bytes = c.bytes := by
  have hmove := State.copyMove_delivers htw hpeer helem hl
  have hc' : (s.part s.arg.p).copy? c.num = some c := by rwa [Part.copy?_num hc]
  have hmoved := State.modCopy_copy? hc' (CopyCmd.moves line) fun _ => rfl
  rw [← hlen] at hne hline hdram
  rw [hshares, hone, pieceWrites_one hlen, State.copyDeliver_waits hmoved htail hheld hne hline hdram] at hmove
  exact ⟨_, exec_copyWritePerform_moves hc hz hgoing hstays hbegun hlive hgate hmove, rfl, _,
    State.modCopy_copy? hmoved (fun c => { c with tail := [(x.key, bs)], held := 1 }) (fun _ => rfl), rfl, rfl, rfl, rfl⟩

end
end

section
variable {s t : State} {p : Nat} {c : CopyCmd}

/-! ### Completion (R308) -/

theorem State.wordChanged_mem (s : State) (p h v : Nat) : (s.wordChanged p h v).mem = s.mem := by
  obtain ⟨a, b, hadds⟩ : ∃ a b, ({ s with helmSlots := a, helmSaved := b } : State).Adds (s.wordChanged p h v) :=
    ⟨_, _, foldl_adds _ (fun u _ => u.sched_adds ..) _ _⟩
  exact hadds.grows.mem

/-- A signal at a word that is kept on the die counts one more, and memory stands. -/
theorem State.postAdd_counts {h : Nat} {w : Word} (hpart : s.hasPart p) (hok : (s.part p).handleOk h = true)
    (hm : (s.part p).inMemory h = false) (hw : (s.obj p h).st = .word w) :
    ∃ u, s.postAdd p h = .ok u ∧ (u.obj p h).st = .word (w + 1) ∧ u.mem = s.mem := by
  have hfault : s.objFault p h = none := by unfold State.objFault; simp [hm]
  have hh : ({ s.obj p h with st := .word (w + 1) } : Obj).h = h := State.obj_h s p h
  have hset := State.setObj_onChip (s := s) (p := p) (o := { s.obj p h with st := .word (w + 1) }) (by rw [hh]; exact hm)
  obtain ⟨-, hparts⟩ := State.wordChanged_frame (s.setObj p { s.obj p h with st := .word (w + 1) }) p h (w + 1).toNat
  rw [hset] at hparts
  have hpost : ((s.modPart p (fun x => { x with objs := putObj { s.obj p h with st := .word (w + 1) } x.objs })).wordChanged p h
      (w + 1).toNat).part p = { s.part p with objs := putObj { s.obj p h with st := .word (w + 1) } (s.part p).objs } := by
    rw [hparts, hpart.part_in _ (by exact fun _ => rfl)]
  refine ⟨(s.setObj p { s.obj p h with st := .word (w + 1) }).wordChanged p h (w + 1).toNat, ?_, ?_, ?_⟩
  · unfold State.postAdd State.postWord
    simp only [hok, hfault, hw, Bool.not_true, Bool.false_eq_true, if_false]
  · rw [hset]
    have hread := State.obj_put (o := { s.obj p h with st := .word (w + 1) }) (by rw [hh]; exact hm)
      (by rw [hpost]) (by rw [hpost])
    rwa [hh] at hread
  · rw [State.wordChanged_mem, hset]
    rfl

section
variable (hc : (s.part s.arg.p).copy? s.arg.x = some c) (hgoing : c.stopped = false) (hlive : (s.part s.arg.p).frozen = false)
include hc hgoing hlive

/-- A command whose page is gated waits to complete. -/
theorem exec_copyComplete_gated {pg : Nat} (hgate : s.copyStill s.arg.p c = some pg) :
    exec .copyComplete s = .next (s.copyWait s.arg.p pg .copyComplete) := by
  change execCopyComplete s = _
  unfold execCopyComplete
  simp [hc, hgoing, hlive, hgate]

variable (hz : s.arg.z = 0) (hfresh : c.resume = false) (hpeer : c.peer = none) (hgate : s.copyStill s.arg.p c = none)
include hz hfresh hpeer hgate

/-- One without a signal ends at once. -/
theorem exec_copyComplete_quiet (hsig : c.sig = false) :
    exec .copyComplete s = .next ((s.copyEnd s.arg.p c).copyLook s.arg.p c.eng c.ch) := by
  change execCopyComplete s = _
  unfold execCopyComplete
  simp [hc, hgoing, hlive, hgate, hz, hfresh, hpeer, hsig]

/-- One with a signal ends after it. -/
theorem exec_copyComplete_signals {u : State} (hsig : c.sig = true) (hu : s.postAdd s.arg.p c.handle = .ok u) :
    exec .copyComplete s = .next ((u.copyEnd s.arg.p c).copyLook s.arg.p c.eng c.ch) := by
  change execCopyComplete s = _
  unfold execCopyComplete
  simp [hc, hgoing, hlive, hgate, hz, hfresh, hpeer, hsig, hu]

end

/-! ### The write pointers (R310) -/

section
variable {pr : BitVec 2} {ch : BitVec 3} {t1 t0 : Target} (hv : s.cur.verdict pr = .run)
include hv

/-- A read of a write pointer on a page without an engine gives 0, poisoned. -/
theorem State.wptrRead_none (hnone : s.pageEngine = none) (wait : Bool) : Host.Outcome.next (s.wptrRead pr ch t1 t0 wait) = s.givesKind 28 t1 t0 0 1 := by
  rw [← one_kind s pr 28 t1 t0 0 1 hv]
  unfold State.wptrRead State.one
  rw [frame_run _ _ _ _ _ _ hv, frame_run _ _ _ _ _ _ hv]
  dsimp only
  rw [hnone]

/-- A read that need not wait gives the pointer. -/
theorem State.wptrRead_gives {eng : Nat} {wait : Bool} (heng : s.pageEngine = some eng)
    (hgo : (wait && decide ((((s.part s.cur.p).chan eng ch.toNat).wptr - s.lv).toInt < 0)) = false) :
    Host.Outcome.next (s.wptrRead pr ch t1 t0 wait) = s.gives 28 t1 t0 ((s.part s.cur.p).chan eng ch.toNat).wptr := by
  unfold State.wptrRead
  rw [frame_run _ _ _ _ _ _ hv]
  dsimp only
  rw [heng]
  dsimp only
  rw [hgo, if_neg Bool.false_ne_true, mark_zero]
  rfl

/-- A WPTR.W whose pointer lies below L waits at its channel. -/
theorem exec_wptrW_waits {eng : Nat} (heng : s.pageEngine = some eng)
    (hbelow : (((s.part s.cur.p).chan eng ch.toNat).wptr - s.lv).toInt < 0) :
    exec (.wptrW pr ch t1 t0) s = .next ((s.modFire s.cur.p s.cur.pg s.cur.fid (fun f => { f with phase := .parked })).setChan s.cur.p
      { (s.part s.cur.p).chan eng ch.toNat with waits := ((s.part s.cur.p).chan eng ch.toNat).waits ++ [(s.cur.pg, s.cur.fid)] }) := by
  change Host.Outcome.next (s.wptrRead pr ch t1 t0 true) = _
  unfold State.wptrRead
  rw [frame_run _ _ _ _ _ _ hv]
  dsimp only
  rw [heng]
  dsimp only
  rw [if_pos (by simpa using hbelow)]

end

/-- A channel bears its engine and its number. -/
theorem Part.chan_key (x : Part) (eng ch : Nat) : (x.chan eng ch).eng = eng ∧ (x.chan eng ch).ch = ch := by
  unfold Part.chan
  cases h : x.chans.find? (fun k => k.eng == eng && k.ch == ch) with
  | none => exact ⟨rfl, rfl⟩
  | some k => simpa using List.find?_some h

/-- A channel that has been set reads back. -/
theorem State.setChan_chan {k : CopyCh} (hpart : s.hasPart p) : ((s.setChan p k).part p).chan k.eng k.ch = k := by
  unfold State.setChan
  rw [hpart.part_in _ (by exact fun _ => rfl)]
  have hgone : (((s.part p).chans.filter (fun j => !(j.eng == k.eng && j.ch == k.ch))).find? (fun j => j.eng == k.eng && j.ch == k.ch)) = none :=
    List.find?_eq_none.mpr fun j hj hk => by rw [List.mem_filter, hk] at hj; exact absurd hj.2 (by decide)
  unfold Part.chan
  dsimp only
  rw [List.find?_append, hgone]
  simp

end

/-- Settles O42, step by step: a command's arrival at its engine, an element's bytes, its writing or its waiting for the rest of its line, and the
completion; then the ports and the write pointers. -/
theorem copyEngines : Obligations.CopyEngines := by
  refine ⟨fun s f l hf hphase hz hnew hkept hl heng hgood => ?arrives, fun s p c t htw hline => ⟨?linear, ?rect, ?gather, ?scatter, ?fill⟩,
    fun s => s.lineBytes_within, fun s c va bs line l hc hz hgoing hstays hbegun hlive htw hpeer htail hheld => ⟨?gated, ?moves⟩,
    fun s c hc hgoing hlive hz hfresh hpeer => ⟨?still, ?quiet, ?signals⟩, fun s _ hnone => exec_copyStreamToken_none hnone,
    fun s pr ch t1 t0 hv => ⟨?none, ?engine⟩⟩
  case arrives => exact exec_copyCommandBegin_accepts hf hphase hz hnew hkept hl heng hgood
  case linear =>
    exact fun hform l => State.copyElem_read htw hline (by omega) (State.copyIndex_plain htw (by omega) (by omega) _ t)
      (by simp only [CopyCmd.source, hform]) (by simp only [CopyCmd.dest, hform])
  case rect =>
    exact fun hform l => State.copyElem_read htw hline (by omega) (State.copyIndex_plain htw (by omega) (by omega) _ t)
      (by simp only [CopyCmd.source, hform]) (by simp only [CopyCmd.dest, hform])
  case gather =>
    exact fun i hform hindex l => State.copyElem_read htw hline (by omega) ((State.copyIndex_listed htw (.inl hform) _ t).trans hindex)
      (by simp only [CopyCmd.source, hform]) (by simp only [CopyCmd.dest, hform])
  case scatter =>
    exact fun i hform hindex l => State.copyElem_read htw hline (by omega) ((State.copyIndex_listed htw (.inr hform) _ t).trans hindex)
      (by simp only [CopyCmd.source, hform]) (by simp only [CopyCmd.dest, hform])
  case fill => exact State.copyElem_fill htw
  case gated => exact fun pg hgate => exec_copyWritePerform_gated hc hz hgoing hstays hbegun hlive hgate
  case moves =>
    exact fun hgate helem hl => ⟨exec_copyWritePerform_written hc hz hgoing hstays hbegun hlive htw hpeer htail hheld hgate helem hl,
      fun x => exec_copyWritePerform_waits hc hz hgoing hstays hbegun hlive htw hpeer htail hheld hgate helem hl⟩
  case still => exact fun pg hgate => exec_copyComplete_gated hc hgoing hlive hgate
  case quiet => exact fun hgate hsig => exec_copyComplete_quiet hc hgoing hlive hz hfresh hpeer hgate hsig
  case signals =>
    intro w hgate hsig hok hm hw
    obtain ⟨u, hu, hcount, hmem⟩ := State.postAdd_counts (State.hasPart_of_copy hc) hok hm hw
    exact ⟨u, exec_copyComplete_signals hc hgoing hlive hz hfresh hpeer hgate hsig hu, hcount, hmem⟩
  case none => exact fun hnone => ⟨State.wptrRead_none hv hnone false, State.wptrRead_none hv hnone true⟩
  case engine =>
    intro eng heng
    refine ⟨State.wptrRead_gives (wait := false) hv heng rfl, fun hge => State.wptrRead_gives (wait := true) hv heng ?_, fun hbelow => ?_⟩
    · simpa using hge
    · refine ⟨_, exec_wptrW_waits hv heng hbelow, rfl, rfl, fun hpart => ?_⟩
      obtain ⟨heng', hch⟩ := (s.part s.cur.p).chan_key eng ch.toNat
      have hback := State.setChan_chan (s := s.modFire s.cur.p s.cur.pg s.cur.fid (fun f => { f with phase := .parked }))
        (k := { (s.part s.cur.p).chan eng ch.toNat with waits := ((s.part s.cur.p).chan eng ch.toNat).waits ++ [(s.cur.pg, s.cur.fid)] })
        ((State.hasPart_modPart s.cur.p _ (by exact fun _ => rfl)).mpr hpart)
      rw [heng', hch] at hback
      rw [hback]

end Sys2Proof.Machine
end

section
/-! PROOFS of the statements of traps and of saves: what an instance that freezes writes to memory (R21, R152, R331, R358). -/

namespace Sys2Proof.Machine

/-! ### A freeze beyond its loads leaves memory (R331) -/

section
variable (s : State) (p : Nat)

theorem foldl_mem {β : Type} {f : State → β → State} (hf : ∀ u x, (f u x).mem = u.mem) (l : List β) : (l.foldl f s).mem = s.mem :=
  foldl_keeps (P := fun u : State => u.mem = s.mem) rfl fun u x hu => (hf u x).trans hu

theorem State.dropWft_mem (dead : WftEnt → Bool) : (s.dropWft p dead).mem = s.mem :=
  ite_keeps (P := fun u : State => u.mem = s.mem) rfl (State.prioChanged_adds ..).grows.mem

theorem State.feRetry_mem : (s.feRetry p).mem = s.mem := by
  unfold State.feRetry
  split
  · rfl
  · exact (State.sched_mem ..)

theorem State.spillFreed_mem : (s.spillFreed p).mem = s.mem :=
  ite_keeps (P := fun u : State => u.mem = s.mem) (s.sched_mem ..) rfl

theorem State.wregStatus_mem (id name v extra : Nat) : (s.wregStatus p id name v extra).mem = s.mem :=
  (State.wregStatus_keepsRegq (p := p) ..).mem

/-- A freeze leaves in memory what the withdrawal of its unsettled loads does. -/
theorem State.freeze_mem (id : Nat) :
    (s.freeze p id).mem = ((s.inst p id).strands.foldl (fun u st => u.unsettle p st.pg id (s.inst p id).gen) s).mem := by
  unfold State.freeze
  refine (State.modPart_mem ..).trans ((foldl_mem _ (fun u w => u.wregStatus_mem ..) _).trans ((State.modPart_mem ..).trans ?_))
  refine (State.spillFreed_mem ..).trans ((State.feRetry_mem ..).trans ((foldl_mem _ (fun u w => ?_) _).trans ?_))
  · exact (State.sched_mem ..).trans (State.sched_mem ..)
  · exact (State.dropWft_mem ..).trans ((State.modPart_mem ..).trans (foldl_mem _ (fun u st => u.modPart_mem ..) _))

theorem State.freeArea_mem (id : Nat) : (s.freeArea p id).mem = s.mem := by
  unfold State.freeArea
  split
  · rfl
  · exact foldl_mem _ (fun u i => ite_keeps (P := fun t : State => t.mem = u.mem) (u.sched_mem ..) rfl) _

theorem State.doubleFault_mem (id code : Nat) : (s.doubleFault p id code).mem = s.mem := State.postVf_mem ..

end

section
variable {s : State} {p id : Nat}

/-- A trap that freezes its instance leaves in memory what the freeze does. -/
theorem State.takeTrap_mem {t : TrapRec} (hcode : t.code ≠ 255) (hmain : isTrapTag t.tag = false)
    (hruns : (s.inst p id).status = .running) (hfirst : s.early p t = none) : (s.takeTrap p id t).mem = (s.freeze p id).mem := by
  unfold State.takeTrap
  rw [if_neg hcode, if_neg (by simp [hmain]), if_neg (by simp [hruns]), if_neg (by simp [hfirst])]
  refine ite_keeps (P := fun u : State => u.mem = (s.freeze p id).mem) ((State.doubleFault_mem ..).trans ?_)
    ((State.sched_mem ..).trans ?_)
  all_goals exact (State.traceRec_only ..).mem.trans ((State.modPart_mem ..).trans (State.freeArea_mem ..))

/-- The freeze for a save of an instance that runs leaves in memory what the freeze does. -/
theorem State.freezeForSave_mem (hruns : (s.inst p id).status = .running) (hwhole : (s.inst p id).inject = none) (delay : Nat) (cut : Bool) :
    (s.freezeForSave p id delay cut).mem = (s.freeze p id).mem := by
  unfold State.freezeForSave
  rw [if_neg (by simp [hwhole])]
  dsimp only
  rw [if_pos hruns]
  exact (State.sched_mem ..).trans (State.modInst_mem ..)

end

/-! ### A load is withdrawn with its user (R21, R152) -/

section
variable {s : State} {p pg id gen tile load : Nat} {tag : Tag} {q : Pos} {a : Arr} {l : Leaf} {f g : Fire}

/-- An instance whose strand's page holds a firing that is no load, and a load that an older store might still change: that load is withdrawn. -/
theorem State.unsettle_open (hfires : (s.page p pg).fires = [f, g]) (hne : f.fid ≠ g.fid) (hf : isOrdLoad (opF f.word).toNat = false)
    (htag : tagIs g.tag id gen = true) (hmain : isTrapTag g.tag = false) (hload : isOrdLoad (opF g.word).toNat = true) (hacted : g.acted = true)
    (hopen : (s.page p pg).openStores g = true) : s.unsettle p pg id gen = s.withdraw p pg g.fid := by
  have h1 : (s.page p pg).fire? f.fid = some f := by simp [Page.fire?, hfires]
  have h2 : (s.page p pg).fire? g.fid = some g := by simp [Page.fire?, hfires, hne]
  unfold State.unsettle
  rw [hfires]
  simp [h1, h2, hf, htag, hmain, hload, hacted, hopen]

/-- The firings that a load's replay withdraws, the load among them. -/
def Page.withdraws (y : Page) (load : Nat) : List Nat := y.spread (y.fires.length + 1) [load]

/-- Those of them that leave their page. -/
def Page.leavers (y : Page) (load : Nat) : List Fire := y.fires.filter (fun f => (y.withdraws load).contains f.fid && f.fid != load)

/-- A page without the firings `hit` and the tokens of those numbered `ss`. -/
def Page.rid (y : Page) (ss : List Nat) (hit : List Fire) (load : Nat) : Page :=
  { y with
    ents := y.ents.filterMap (Entry.without ss)
    spill := y.spill.filter (fun z => !ss.contains z.arr.fid)
    held := y.held.filter (fun z => !ss.contains z.arr.fid)
    acts := y.acts.map (Act.without ss hit)
    fires := (y.fires.filter (fun f => !hit.contains f)).map (fun f => if f.fid == load then { f with phase := .out, acted := false } else f) }

/-- The state in which a load and what depended on it have been withdrawn, and no operand is back. -/
def State.rid (s : State) (p pg load : Nat) : State :=
  (s.cancel (fun i a => match i with
    | .tokenArrival | .storeBufferPerform | .loadReply => a.p == p && a.pg == pg && ((s.page p pg).withdraws load).contains a.fid
    | _ => false)).modPage p pg (fun y => y.rid ((s.page p pg).withdraws load) ((s.page p pg).leavers load) load)

/-- An operand of a firing that leaves, unless it is withdrawn with it. -/
def keptOf (ss : List Nat) (x : Option Arr) : Option Arr := if arrOf ss x then none else x

/-- It goes back to its queue. -/
def State.giveBack (s : State) (p pg : Nat) (ss : List Nat) (f : Fire) (q : Pos) (x : Option Arr) : State :=
  if f.bare || (keptOf ss x).isSome then s.putBack p pg f.tile f.tag q (keptOf ss x) else s

theorem State.withdraw_eq (s : State) (p pg load : Nat) : s.withdraw p pg load = ((s.page p pg).leavers load).foldl (fun u f =>
    let ss := (s.page p pg).withdraws load
    (((u.giveBack p pg ss f .l f.l).giveBack p pg ss f .r f.r).giveBack p pg ss f .p f.p).giveBack p pg ss f .c f.c) (s.rid p pg load) := by
  rfl

/-- An operand that is not there, or leaves with its firing, does not go back. -/
theorem State.giveBack_none {ss : List Nat} {x : Option Arr} (hbare : f.bare = false) (hx : keptOf ss x = none) : s.giveBack p pg ss f q x = s := by
  unfold State.giveBack
  rw [hbare, hx]
  rfl

/-- A withdrawal in which one firing leaves, which has an operand R from elsewhere: that goes back to its queue. -/
theorem State.withdraw_one (hone : (s.page p pg).leavers load = [f]) (hl : keptOf ((s.page p pg).withdraws load) f.l = none)
    (hr : keptOf ((s.page p pg).withdraws load) f.r = some a) (hp : keptOf ((s.page p pg).withdraws load) f.p = none)
    (hc : keptOf ((s.page p pg).withdraws load) f.c = none) (hbare : f.bare = false) :
    s.withdraw p pg load = (s.rid p pg load).putBack p pg f.tile f.tag .r (some a) := by
  rw [State.withdraw_eq, hone]
  dsimp only [List.foldl_cons, List.foldl_nil]
  rw [State.giveBack_none hbare hc, State.giveBack_none hbare hp, State.giveBack_none hbare hl]
  unfold State.giveBack
  rw [hr, hbare]
  rfl

/-- An operand goes to the spill table where its set has no free way. -/
theorem State.putBack_spills (hfree : (s.page p pg).ents.any (fun e => e.tile == tile && e.tag == tag) = false)
    (hfull : lowestFree (((s.page p pg).inSet tile tag).map Entry.way) 4 0 = none) (hroom : s.spillRoom p = true) :
    s.putBack p pg tile tag q (some a) = s.spillTok p pg tile tag q a := by
  unfold State.putBack
  simp only [hfree, hfull, hroom, Bool.false_eq_true, if_false, if_true]

/-- That writes an entry of 32 bytes. -/
theorem State.spillTok_mem {va : Nat} (hva : (s.part p).spillVa = va) (hfail : s.walkFail (s.part p) va = none)
    (hleaf : s.translate (s.part p) va = .ok l) (hpin : Pte.pin l.pte = true) (hmay : (s.part p).mayWrite l = true) :
    (s.spillTok p pg tile tag q a).mem = Mem.sets s.mem l.pa (freeBytes s.free 32) := by
  obtain ⟨t, hwrite, hmem, -⟩ := State.devEntry_mem hfail hleaf hpin hmay
  unfold State.spillTok
  rw [hva, hwrite]
  exact hmem

end

/-! ### A firing that took a token of a load and one from elsewhere -/

/-- The tag of an activation, and another of its set. -/
def openTag : Tag := tagOf 5 1
def crowdTag : Tag := tagOf 5 1 ^^^ 0x11

/-- An ordinary load of LSID 1, which has acted. -/
def openLoad : Fire := { fid := 1, id := 5, strand := 0, tile := 0, tag := openTag, word := 0x80040000, phase := .done, acted := true, lsid := 1 }

/-- Its user, whose operand R came from firing 9. -/
def openUser : Fire :=
  { fid := 2, id := 5, strand := 0, tile := 1, tag := openTag, word := 0x20000000, phase := .done, acted := true
    l := some ⟨tokV 3, 1, 0⟩, r := some ⟨tokV 4, 9, 3⟩ }

/-- The page of these two: their activation has an ordinary store of LSID 0 that has not fired, and another tag has taken the four ways of the user's
set since. -/
def openPage : Page :=
  { num := 0, fires := [openUser, openLoad]
    acts := [{ tag := openTag, id := 5, strand := 0, words := [0x80040000, 0x20000000, 0x90000000] }]
    ents := (List.range 4).map (fun k => { tile := 1, tag := crowdTag, way := k, l := some ⟨tokV 5, 8, 4⟩ }) }

/-- Their instance, which runs and is to be saved. -/
def openInst : Inst :=
  { id := 5, gen := 1, strands := [{ num := 0, pg := 0, gen := 1 }], origin := .launch 0 0 0, saving := some { why := 0, asked := 0 } }

/-- Byte b stands at the first entry of the partition's spill table, at 0x10000. The page tables at 0 map that VA onto itself, on a pinned page. -/
def State.spills (b : Byte) : State :=
  { State.reset with
    mem := [(0, 1), (2, 4), (0x1000, 7), (0x1002, 2), (0x1007, 0x30), (0x10000, b)]
    parts := [{
      num := 1, live := true, regions := [0], map := [(0, 0, 0, 0)], csr := [(0x09D, 0x10000), (0x09F, 1)], insts := [openInst], pages := [openPage] }] }

/-- Memory is canonical, with that byte. -/
theorem spills_mem : ∀ b ∈ ([2, 4] : List Byte), Mem.wf (State.spills b).mem = true ∧ Mem.byte (State.spills b).mem 0x10000 = b := by decide

/-- The load may still change, and its user leaves with it; the user's operand R does not. -/
theorem openPage_withdraws : openPage.leavers 1 = [openUser] ∧ keptOf (openPage.withdraws 1) openUser.l = none ∧
    keptOf (openPage.withdraws 1) openUser.r = some ⟨tokV 4, 9, 3⟩ ∧ openPage.openStores openLoad = true := by
  decide

/-- There is no way for that operand, and room in the spill table. -/
theorem spills_room : ∀ b ∈ ([2, 4] : List Byte), let s := (State.spills b).rid 1 0 1
    (s.page 1 0).ents.any (fun e => e.tile == 1 && e.tag == openTag) = false ∧
      lowestFree (((s.page 1 0).inSet 1 openTag).map Entry.way) 4 0 = none ∧ s.spillRoom 1 = true ∧
      (s.part 1).spillVa = 0x10000 ∧ s.walkFail (s.part 1) 0x10000 = none ∧
      s.translate (s.part 1) 0x10000 = .ok ⟨0x10000, 0x3000000000020007⟩ ∧ (s.part 1).mayWrite ⟨0x10000, 0x3000000000020007⟩ = true := by
  decide +kernel

/-- The instance freezes, and the operand is written to the spill table. -/
theorem spills_freeze {b : Byte} (hb : b ∈ ([2, 4] : List Byte)) :
    ((State.spills b).freeze 1 5).mem = Mem.sets (State.spills b).mem 0x10000 (freeBytes 0 32) := by
  have hinst : (State.spills b).inst 1 5 = openInst := rfl
  have hpage : (State.spills b).page 1 0 = openPage := rfl
  obtain ⟨hone, hl, hr, hopen⟩ := openPage_withdraws
  rw [← hpage] at hone hl hr hopen
  obtain ⟨hfree, hfull, hroom, hva, hfail, hleaf, hmay⟩ := spills_room b hb
  have hstrand : (State.spills b).unsettle 1 0 5 1 = (State.spills b).withdraw 1 0 1 :=
    State.unsettle_open (f := openUser) (g := openLoad) (congrArg Page.fires hpage) (by decide) (by decide) (by decide) (by decide) (by decide) rfl hopen
  have hback : (State.spills b).withdraw 1 0 1 = ((State.spills b).rid 1 0 1).putBack 1 0 1 openTag .r (some ⟨tokV 4, 9, 3⟩) :=
    State.withdraw_one (f := openUser) hone hl hr rfl rfl rfl
  rw [State.freeze_mem, hinst]
  unfold openInst
  rw [List.foldl_cons, List.foldl_nil, hstrand, hback, State.putBack_spills hfree hfull hroom, State.spillTok_mem hva hfail hleaf (by decide) hmay]
  rfl

/-- So what it leaves in memory cannot be what stood there, for every byte that may have stood there. -/
theorem spills_changes (h : ∀ b ∈ ([2, 4] : List Byte), ((State.spills b).freeze 1 5).mem = (State.spills b).mem) : False := by
  have hfree : ∀ b ∈ ([2, 4] : List Byte), Config.freeByte 0 = b := by
    intro b hb
    obtain ⟨hwf, hbyte⟩ := spills_mem b hb
    calc Config.freeByte 0 = Mem.byte (Mem.sets (State.spills b).mem 0x10000 (freeBytes 0 32)) 0x10000 := (Mem.byte_sets_head hwf).symm
      _ = Mem.byte (State.spills b).mem 0x10000 := by rw [← spills_freeze hb, h b hb]
      _ = b := hbyte
  exact absurd ((hfree 2 (by decide)).symm.trans (hfree 4 (by decide))) (by decide)

/-- A trap of that activation. -/
def openTrap : TrapRec := { code := 1, detail := 0, va := 0, src := 0, strand := 0, tag := openTag, ts := 0, gen := 1, word := 0x80040000, blk := 0 }

/-- Refutes O47: a trap leaves memory as it was, says the statement; but the freeze withdraws a load that an older store might still change, with every
firing that took its token (R21, R331), and an operand of such a firing from elsewhere that finds no way in its set goes to the spill table in memory
(R152). No rule gives the bytes of its entry (Config.freeByte), so two memories stand here: at most one of them already holds what is written. -/
theorem not_takingATrap : ¬ Obligations.TakingATrap := by
  rintro ⟨htrap, -⟩
  refine spills_changes fun b _ => ?_
  have hruns : ((State.spills b).inst 1 5).status = .running := rfl
  have hfirst : (State.spills b).early 1 openTrap = none := by rfl
  obtain ⟨-, -, -, htakes⟩ := htrap (State.spills b) 1 5 openTrap openInst rfl (by decide)
  obtain ⟨hmem, -⟩ := htakes (by decide) rfl hfirst
  rwa [State.takeTrap_mem (by decide) (by decide) hruns hfirst] at hmem

/-- Refutes O54: the freeze for a save leaves memory as it was, says the statement; but it is the freeze of a trap, which may spill an operand to
memory (R152, R358). -/
theorem not_savesAndPreemption : ¬ Obligations.SavesAndPreemption := by
  rintro ⟨-, hsave, -⟩
  refine spills_changes fun b _ => ?_
  obtain ⟨hmem, -⟩ := hsave (State.spills b) 1 5 0 false openInst { why := 0, asked := 0 } rfl rfl rfl
  rwa [State.freezeForSave_mem rfl rfl] at hmem

end Sys2Proof.Machine
end
